-- ==== Sys2Proof/Word.lean ====
section
/-! DEFINITION. The word types of the model and the sparse map that holds memories and registers. -/
namespace Sys2Proof

/-- A byte of memory, of a frame or of a structure. -/
abbrev Byte := BitVec 8
/-- A status code: class in bits 15 to 8, code in bits 7 to 0 (R6). -/
abbrev Status := BitVec 16
/-- A 32-bit word. -/
abbrev W32 := BitVec 32
/-- A 64-bit word. -/
abbrev W64 := BitVec 64

/-- A sparse map from numbers to values: strictly rising keys, and no entry equal to what an unlisted key reads as. -/
abbrev SMap (α : Type) := List (Nat × α)

/-- A memory of bytes in that form (the same shape as a list of `Host.Cell`). -/
abbrev Memory := SMap Byte

end Sys2Proof
end

