-- ==== Sys2Proof/Syntax.lean ====
section
/-! DEFINITION. The commands of the block: one constructor of `Instr` for each row of spec/opcode_table.json. -/
namespace Sys2Proof

/-- Width of a register access on the BX3 register path, in bytes (R9: only 4 and 8 are ever legal). -/
inductive AccWidth where
  | b1 | b2 | b4 | b8
deriving DecidableEq, Repr

/-- An engine frame on a link: the 32-byte header of R112 without its TYPE (the command's row names it), and the payload. -/
structure Frame where
  /-- Every reserved bit of the header, gathered: byte 1 [7:4], byte 2 [7:5], bytes 4-7 [31:24], 12-13 [15:7], 14-15 [15:10]. -/
  rsv : BitVec 30 := 0
  stage : Bool := false
  pfmt : Bool := false
  last : Bool := false
  card : Bool := false
  channel : BitVec 5 := 0
  hop : BitVec 8 := 0
  tag : BitVec 20 := 0
  gen : BitVec 4 := 0
  seq : BitVec 32 := 0
  srcPos : BitVec 7 := 0
  srcRack : BitVec 10 := 0
  offset : BitVec 48 := 0
  count : BitVec 16 := 0
  stepLo : BitVec 32 := 0
  crc : BitVec 32 := 0
  payload : List Byte := []
deriving DecidableEq, Repr

/-- What the mutual-exclusion element decided when a watchdog expiry and its awaited arrival met (R77). -/
inductive Race where
  | none | expiryWon | arrivalWon
deriving DecidableEq, Repr

/-- The engine task that issued a memory read (R29, R146, R336). -/
inductive TaskId where
  | bucket (ch : Fin 32) (seq : W32)
  | fulling (q : Fin 4)
  | feltRegion (lane : Fin 32)
  | sumpCopy
  | recordLatch
  | drain
  | command (ctx : Fin 128)
  | scan (n : Fin 4)
  | verify
  | refill (tag : BitVec 20)
deriving DecidableEq, Repr

/-- The SRAMs of R362, in the order of its table. -/
inductive Sram where
  | coreCode
  | logBank
  | sliceBuffer (n : Fin 42)
  | fullingQueue (q : Fin 4)
  | tagState (ch : Fin 32) (seq : W32)
  | pageTable (set : Fin 8) (mirrorOk : Bool)
  | commandContext (ctx : Fin 128)
  | syncState
  | lane (n : Fin 32)
  | scanContext (engine : Fin 4) (ctx : Fin 16)
deriving DecidableEq, Repr

/-- Direction of a frame through a slice. -/
inductive Dir where
  | rx | tx
deriving DecidableEq, Repr

/-- A BX3 frame: its traffic class and its bytes, which the slice never looks at (R32). -/
structure Bx3Frame where
  tc : BitVec 2
  bytes : List Byte
deriving DecidableEq, Repr

/-- The readings of one sample of the speed monitor (R63): ring counts over 1 microsecond, diodes in 0.25 degrees (two's complement),
taps in mV, and the readings that the monitor left out as faulty (CGM_CTL_CORNER_STATUS.MON_FAULT). -/
structure SpeedReading where
  counts : Vector (BitVec 16) 16
  diodes : Vector (BitVec 11) 8
  taps : Vector (BitVec 10) 4
  badCounts : BitVec 16 := 0
  badDiodes : BitVec 8 := 0
  badTaps : BitVec 4 := 0
deriving DecidableEq, Repr

/-- How long, in milliseconds, the PCS of a slice has been without block lock; 0: it has the lock (R221). -/
structure LockLoss where
  slice : Fin 42
  ms : Nat
deriving DecidableEq, Repr

/-- The status fields of a failed NVMe completion (R193). -/
structure NvmeStatus where
  sct : BitVec 3
  sc : BitVec 8
  dnr : Bool
deriving DecidableEq, Repr

/-- What the boot ROM finds (R348, R350, R366): a spare row replaced a faulty row of the control-core SRAM; a fault that no spare row
covers; the firmware store cannot be read. -/
structure RomCheck where
  repaired : Bool := false
  bad : Bool := false
  storeFails : Bool := false
deriving DecidableEq, Repr

/-- What the firmware finds before START_OK: the working tables that fail their CRC-64 (R48, R349), and the memory tests of the other
SRAMs as in `RomCheck` (R366). -/
structure TableCheck where
  repaired : Bool := false
  bad : Bool := false
  shardMapBad : Bool := false
  setsBad : BitVec 8 := 0
deriving DecidableEq, Repr

/-- The working copies of one register of a spare, as the Warden writes them at a takeover (R235). -/
structure RegValue where
  off : BitVec 20
  value : BitVec 64
deriving DecidableEq, Repr

/-- A takeover as one engine sees it (R235): the failed rank, its rack, its old position and its successor's, the restore epoch, and
the values that the Warden writes into the spare. -/
structure Takeover where
  rank : BitVec 32
  rack : BitVec 10
  oldPos : BitVec 7
  sparePos : BitVec 7
  epoch : BitVec 16
  config : List RegValue := []
deriving DecidableEq, Repr

/-- The limits of the power-fail sequence (R207). -/
inductive PfailLimit where
  | dataWrites | flush | catalogue | done
deriving DecidableEq, Repr

/-- The commands: one constructor per row of spec/opcode_table.json, in its order. -/
inductive Instr where
  | registerWrite (off : BitVec 20) (width : AccWidth) (value : BitVec 64)
  | rcRegisterRead (off : BitVec 20) (width : AccWidth)
  | powerGoodRise
  | powerGoodFall
  | coldReset
  | warmReset
  | ctlResetEngine
  | memoryReadUncorrectable (task : TaskId) (addr : BitVec 48)
  | pfailNAssert (ns : Nat)
  | pfailNDeassert (ns : Nat)
  | pfailHoldExpiry
  | holdupOkChange (level : Bool) (ns : Nat)
  | sliceBufferError (n : Fin 42)
  | lnkCtrlClose (n : Fin 42)
  | causewayClosed (n : Fin 42)
  | lnkCtrlOpen (n : Fin 42)
  | causewayOpen (n : Fin 42)
  | bx3FramePass (n : Fin 42) (dir : Dir) (frame : Bx3Frame)
  | speedSample (r : SpeedReading)
  | thermalHoldRelease (tj : BitVec 11)
  | bucketIssue (ch : Fin 32)
  | bucketStart (ch : Fin 32)
  | reducePartialFrame (n : Fin 42) (f : Frame)
  | resultCopyFrame (n : Fin 42) (f : Frame)
  | allGatherDataFrame (n : Fin 42) (f : Frame)
  | fetchRequestFrame (n : Fin 42) (f : Frame)
  | fetchDataFrame (n : Fin 42) (f : Frame)
  | bucketAbortNotice (n : Fin 42) (f : Frame)
  | dropNotice (n : Fin 42) (f : Frame)
  | mcastAck (ch : Fin 32) (seq : BitVec 32) (port : Fin 36) (rcvPos : BitVec 7) (bytes : Nat) (last : Bool)
  | mcastStallExpiry (ch : Fin 32) (port : Fin 36) (rcvPos : BitVec 7) (race : Race)
  | bucketComplete (ch : Fin 32)
  | reductionStreamWatchdog (ch : Fin 32) (race : Race)
  | contribWatchdogExpiry (ch : Fin 32) (race : Race)
  | linkLastAck (tag : BitVec 20)
  | tagQuarantineExpiry (tag : BitVec 20)
  | voteArrival
  | redChEnable (ch : Fin 32) (value : BitVec 64)
  | redChDisable (ch : Fin 32) (value : BitVec 64)
  | fullingTaskIssue (q : Fin 4)
  | fullingWaitSatisfied (q : Fin 4)
  | gateTaskProceed (q : Fin 4)
  | laneTakesBlock (lane : Fin 192) (q : Fin 4) (block : Nat)
  | directPieceBind (port : Fin 8)
  | fullingStreamWatchdog (q : Fin 4) (race : Race)
  | fullingTaskComplete (q : Fin 4)
  | progBegin (slot : Fin 16)
  | progDataWord (word : BitVec 32)
  | progCommit (slot : Fin 16)
  | progUnload (slot : Fin 16)
  | cutOpen
  | cutNotice (n : Fin 42) (f : Frame)
  | cutReply (n : Fin 42) (f : Frame)
  | scheduleRecordLatch
  | sumpCopyDone
  | cutSeal
  | feltingSchedule
  | feltRegionComplete (lane : Fin 32)
  | feltingDone
  | feltData (n : Fin 42) (f : Frame)
  | feltAck (n : Fin 42) (f : Frame)
  | feltAckTimeout (tag : BitVec 20)
  | setRelease (n : Fin 42) (f : Frame)
  | keepReport (n : Fin 42) (f : Frame)
  | keepWatchdogExpiry
  | digestFrame (n : Fin 42) (f : Frame)
  | xchgWatchdogExpiry (race : Race)
  | commitRecordAck
  | cutEnable (value : BitVec 32)
  | cutDisable (value : BitVec 32)
  | peatEnable (value : BitVec 32)
  | peatDisable (value : BitVec 32)
  | peatFormat (value : BitVec 32)
  | drainReservationDone
  | drainWritesDone
  | drainFlushDone
  | drainCatalogueDone
  | nvmeCommandError (opcode : BitVec 8) (st : NvmeStatus)
  | nvmeTimeout (opcode : BitVec 8)
  | peatLinkDown
  | smartLogPoll (page : List Byte)
  | peatDriveReady
  | peatReadyTimeout
  | pinExported (n : Fin 4) (value : BitVec 64)
  | keyBegin (slot : Fin 16) (kind : BitVec 2) (len : BitVec 7)
  | keyDataWord (word : BitVec 64)
  | keyCommit (slot : Fin 16)
  | keyClear (slot : Fin 16)
  | heartbeatSend
  | heartbeatFrame (n : Fin 42) (f : Frame)
  | heartbeatMiss (rack : BitVec 10) (pos : BitVec 7)
  | linkLoss (n : LockLoss)
  | engineNotice (n : Fin 42) (f : Frame)
  | halt (n : Fin 42) (f : Frame)
  | supplyQuery (n : Fin 42) (f : Frame)
  | candidate (n : Fin 42) (f : Frame)
  | takeover (t : Takeover)
  | fenceFrame (n : Fin 42) (f : Frame)
  | rollbackComplete
  | refillRequest (n : Fin 42) (f : Frame)
  | refillData (n : Fin 42) (f : Frame)
  | refillAck (n : Fin 42) (f : Frame)
  | refillComplete
  | refillWatchdogExpiry (race : Race)
  | verifyComplete
  | flagSet (flag : BitVec 10)
  | flagClear (flag : BitVec 10)
  | produce (pair : BitVec 9) (count : BitVec 32)
  | consume (pair : BitVec 9) (count : BitVec 32)
  | pairInit (pair : BitVec 9) (value : BitVec 48)
  | synFence (token : BitVec 16) (object : BitVec 10) (op : BitVec 2) (count : BitVec 16)
  | synFenceComplete
  | waitArm (slot : Fin 64) (value : BitVec 64)
  | waitTimeout (slot : Fin 64) (race : Race)
  | remoteWrite (n : Fin 42) (f : Frame)
  | remoteSignal (n : Fin 42) (f : Frame)
  | remoteTransferWatchdog (rack : BitVec 10) (pos : BitVec 7) (tag : BitVec 20) (race : Race)
  | ctxSave (value : BitVec 64)
  | ctxLoad (value : BitVec 64)
  | quiesceClear (value : BitVec 32)
  | barrierArrive (b : Fin 20)
  | barrierArrivalFrame (n : Fin 42) (f : Frame)
  | treeArrivalUp (n : Fin 42) (f : Frame)
  | treeCompletion (n : Fin 42) (f : Frame)
  | barrierAbortFrame (n : Fin 42) (f : Frame)
  | barrierTimeout (b : Fin 20) (race : Race)
  | barrierEnable (b : Fin 20) (value : BitVec 64)
  | barrierDisable (b : Fin 20) (value : BitVec 64)
  | timeTick (ticks : Nat)
  | timeLoad (domB : Bool)
  | timeAdd (domB : Bool)
  | timeInvalidate (domB : Bool)
  | timeSwitch (value : BitVec 32)
  | timSecRead (domB : Bool)
  | timeProbeSend (value : BitVec 32) (phase : BitVec 14)
  | timeProbe (n : Fin 42) (f : Frame) (phase : BitVec 14)
  | followUpSend (phase : BitVec 14)
  | probeResponse (n : Fin 42) (f : Frame) (phase : BitVec 14)
  | followUp (n : Fin 42) (f : Frame) (phase : BitVec 14)
  | sqTailWrite (q : Fin 8) (value : BitVec 32)
  | cqHeadWrite (q : Fin 8) (value : BitVec 32)
  | pushSubmit (q : Fin 8) (slot : Fin 4) (w7 : BitVec 64)
  | queueEnable (q : Fin 8) (value : BitVec 64)
  | queueDisable (q : Fin 8) (value : BitVec 64)
  | queueReset (q : Fin 8)
  | queueResetComplete (q : Fin 8)
  | commandStart
  | commandComplete (ctx : Fin 128)
  | notifyTimerExpiry (q : Fin 8)
  | readShard (ctx : Fin 128)
  | writeShard (ctx : Fin 128)
  | flush (ctx : Fin 128)
  | verify (ctx : Fin 128)
  | digest (ctx : Fin 128)
  | scrub (ctx : Fin 128)
  | fence (ctx : Fin 128)
  | cutQuery (ctx : Fin 128)
  | cutPeatNext (ctx : Fin 128)
  | restore (ctx : Fin 128)
  | restoreElastic (ctx : Fin 128)
  | identify (ctx : Fin 128)
  | getLogPage (ctx : Fin 128)
  | getFeatures (ctx : Fin 128)
  | setFeatures (ctx : Fin 128)
  | firmwareDownload (ctx : Fin 128)
  | firmwareCommit (ctx : Fin 128)
  | firmwareCommitAndMark (ctx : Fin 128)
  | firmwareMark (ctx : Fin 128)
  | commandRelay (n : Fin 42) (f : Frame)
  | completionRelay (n : Fin 42) (f : Frame)
  | relayData (n : Fin 42) (f : Frame)
  | relayTimeout (seq : BitVec 32)
  | relayDataWatchdog (seq : BitVec 32) (race : Race)
  | scanStart (n : Fin 4) (value : BitVec 32)
  | scanComplete (n : Fin 4)
  | laneGrant
  | digestComplete (lane : Fin 32)
  | bootRomStart (check : RomCheck)
  | startOk (tables : TableCheck)
  | startWatchdogExpiry
  | coreWatchdogExpiry (core : Fin 4)
  | sramUncorrectable (sram : Sram) (word : BitVec 32)
  | sramScrubPass (corrected : Nat)
  | electionStart
  | electionTimer
  | candidacy (n : Fin 42) (f : Frame)
  | claim (n : Fin 42) (f : Frame)
  | activate
  | activationReset
  | tapTestEntry
  | tapTestExit
  | powerFailDeadline (limit : PfailLimit)
deriving DecidableEq, Repr

end Sys2Proof
end

