-- ==== Sys2Proof/Decode.lean ====
section
/-! DEFINITION. Decoding a table word: no row of spec/opcode_table.json gives bits (a command of this block is an event or a register
access, R3), so no word spells a command. -/
namespace Sys2Proof

/-- The command that a word of `nbits` bits spells: none, since the table gives no row any bits. -/
def decodeTableWord (_nbits _w : Nat) : Option Instr := none

end Sys2Proof
end

