-- ==== Sys2Proof/Config.lean ====
section
/-! DEFINITION. What the spec leaves free: constants with no body, so that no proof can use a value of theirs. -/
namespace Sys2Proof.Config

/-- A free bit, drawn by its number (R38: a pulse of 200 ns to 1 us may be rejected or recognised). -/
opaque freeBool : Nat → Bool

/-- A free choice among several, drawn by its number (R110: the manual does not say which free tag an allocation takes). -/
opaque freeNat : Nat → Nat

/-- A free byte, drawn by its number and its place (a block of the drive whose write was in flight when the power was lost, R202). -/
opaque freeByte : Nat → Nat → Byte

/-- How the firmware writes the sender and the tag of an aborted remote transfer into the 12 bytes of DETAIL (R271, R363). -/
opaque remoteDetail : BitVec 10 → BitVec 7 → BitVec 20 → List Byte

end Sys2Proof.Config
end

