-- ==== Sys2Proof/Machine/RegTable.lean ====
section
/-! DEFINITION. The register map of the manual as one table: every register's offset, width and fields with their types (the register
tables of the chapters; address map R325), names for its registers and fields, and the values of the Reset column. -/
namespace Sys2Proof.Machine

/-- Field types of R7; the bits of a register in no field are RSV. -/
inductive FType where
  | ro | rw | w1c | w1s | wo | rc
deriving DecidableEq, Repr

/-- One field of a register: lowest bit, width, type. -/
structure FieldRow where
  lo : Nat
  len : Nat
  ty : FType
deriving DecidableEq, Repr

/-- A register as the tables introduce it, at the offset of its first copy; `bytes` is its own width (R9). -/
structure RegRow where
  base : Nat
  bytes : Nat
  fields : List FieldRow
deriving DecidableEq, Repr

/-- A field of one register of the engine. -/
structure Fld where
  off : Nat
  lo : Nat
  len : Nat
deriving DecidableEq, Repr

/-- CGM_CTL_SPEED_CTRL. -/
def Reg.ctlSpeedCtrl : Nat := 0x00400
def Fld.ctlSpeedCtrl.sampleInterval : Fld := .mk Reg.ctlSpeedCtrl 0 2
def Fld.ctlSpeedCtrl.guardPs : Fld := .mk Reg.ctlSpeedCtrl 16 12
/-- CGM_CTL_CORNER_LIMIT. -/
def Reg.ctlCornerLimit : Nat := 0x00408
def Fld.ctlCornerLimit.cycleLimitPs : Fld := .mk Reg.ctlCornerLimit 0 12
def Fld.ctlCornerLimit.vminMv : Fld := .mk Reg.ctlCornerLimit 12 10
def Fld.ctlCornerLimit.tmaxQ : Fld := .mk Reg.ctlCornerLimit 22 10
/-- CGM_CTL_SPEED_STATUS. -/
def Reg.ctlSpeedStatus : Nat := 0x00410
def Fld.ctlSpeedStatus.cyclePs : Fld := .mk Reg.ctlSpeedStatus 0 12
def Fld.ctlSpeedStatus.cycleSensor : Fld := .mk Reg.ctlSpeedStatus 12 4
def Fld.ctlSpeedStatus.cycleBestPs : Fld := .mk Reg.ctlSpeedStatus 16 12
def Fld.ctlSpeedStatus.vddMv : Fld := .mk Reg.ctlSpeedStatus 28 10
def Fld.ctlSpeedStatus.tjQ : Fld := .mk Reg.ctlSpeedStatus 38 11
def Fld.ctlSpeedStatus.tjSensor : Fld := .mk Reg.ctlSpeedStatus 49 3
def Fld.ctlSpeedStatus.sampleSeq : Fld := .mk Reg.ctlSpeedStatus 52 12
/-- CGM_CTL_SPEED_PEAK. -/
def Reg.ctlSpeedPeak : Nat := 0x00418
def Fld.ctlSpeedPeak.cyclePeakPs : Fld := .mk Reg.ctlSpeedPeak 0 12
def Fld.ctlSpeedPeak.vddDroopMv : Fld := .mk Reg.ctlSpeedPeak 12 10
def Fld.ctlSpeedPeak.tjPeakQ : Fld := .mk Reg.ctlSpeedPeak 22 10
/-- CGM_CTL_CORNER_STATUS. -/
def Reg.ctlCornerStatus : Nat := 0x00420
def Fld.ctlCornerStatus.inRange : Fld := .mk Reg.ctlCornerStatus 0 1
def Fld.ctlCornerStatus.excCycle : Fld := .mk Reg.ctlCornerStatus 1 1
def Fld.ctlCornerStatus.excVlow : Fld := .mk Reg.ctlCornerStatus 2 1
def Fld.ctlCornerStatus.excVhigh : Fld := .mk Reg.ctlCornerStatus 3 1
def Fld.ctlCornerStatus.excTemp : Fld := .mk Reg.ctlCornerStatus 4 1
def Fld.ctlCornerStatus.thermTrip : Fld := .mk Reg.ctlCornerStatus 5 1
def Fld.ctlCornerStatus.vfloorReq : Fld := .mk Reg.ctlCornerStatus 6 1
def Fld.ctlCornerStatus.monFault : Fld := .mk Reg.ctlCornerStatus 7 1
def Fld.ctlCornerStatus.excCount : Fld := .mk Reg.ctlCornerStatus 16 16
/-- CGM_CTL_ARB_RACE. -/
def Reg.ctlArbRace : Nat := 0x00428
def Fld.ctlArbRace.expiryWon : Fld := .mk Reg.ctlArbRace 0 32
def Fld.ctlArbRace.arrivalWon : Fld := .mk Reg.ctlArbRace 32 32
/-- CGM_RED_CTRL. -/
def Reg.redCtrl : Nat := 0x10000
def Fld.redCtrl.enable : Fld := .mk Reg.redCtrl 0 1
def Fld.redCtrl.skipVoteEn : Fld := .mk Reg.redCtrl 1 1
def Fld.redCtrl.skipBarrier : Fld := .mk Reg.redCtrl 2 5
def Fld.redCtrl.skipBit : Fld := .mk Reg.redCtrl 7 6
/-- CGM_RED_SR_SEED. -/
def Reg.redSrSeed : Nat := 0x10008
def Fld.redSrSeed.seed : Fld := .mk Reg.redSrSeed 0 64
/-- CGM_RED_WD. -/
def Reg.redWd : Nat := 0x10010
def Fld.redWd.streamWdUs : Fld := .mk Reg.redWd 0 20
def Fld.redWd.contribWdUs : Fld := .mk Reg.redWd 20 20
def Fld.redWd.mcastStallUs : Fld := .mk Reg.redWd 40 12
/-- CGM_RED_RACKTAB. -/
def Reg.redRacktab : Nat := 0x10018
def Fld.redRacktab.base : Fld := .mk Reg.redRacktab 12 36
/-- CGM_RED_ERR_STATUS. -/
def Reg.redErrStatus : Nat := 0x10020
def Fld.redErrStatus.lenShort : Fld := .mk Reg.redErrStatus 0 1
def Fld.redErrStatus.lenLong : Fld := .mk Reg.redErrStatus 1 1
def Fld.redErrStatus.crc : Fld := .mk Reg.redErrStatus 2 1
def Fld.redErrStatus.memUe : Fld := .mk Reg.redErrStatus 3 1
def Fld.redErrStatus.nonfinite : Fld := .mk Reg.redErrStatus 4 1
def Fld.redErrStatus.contribLate : Fld := .mk Reg.redErrStatus 5 1
def Fld.redErrStatus.rcvDropped : Fld := .mk Reg.redErrStatus 6 1
def Fld.redErrStatus.abortNotice : Fld := .mk Reg.redErrStatus 7 1
/-- CGM_RED_NF_LOG. -/
def Reg.redNfLog : Nat := 0x10028
def Fld.redNfLog.index : Fld := .mk Reg.redNfLog 0 48
def Fld.redNfLog.channel : Fld := .mk Reg.redNfLog 48 5
def Fld.redNfLog.valid : Fld := .mk Reg.redNfLog 63 1
/-- CGM_RED_NF_SEQ. -/
def Reg.redNfSeq : Nat := 0x10030
def Fld.redNfSeq.seq : Fld := .mk Reg.redNfSeq 0 32
/-- CGM_RED_COUNTS. -/
def Reg.redCounts : Nat := 0x10038
def Fld.redCounts.lateDiscard : Fld := .mk Reg.redCounts 0 32
def Fld.redCounts.backupTaken : Fld := .mk Reg.redCounts 32 32
/-- CGM_RED_TAGS. -/
def Reg.redTags : Nat := 0x10040
def Fld.redTags.inUse : Fld := .mk Reg.redTags 0 21
def Fld.redTags.quarantined : Fld := .mk Reg.redTags 21 21
def Fld.redTags.waits : Fld := .mk Reg.redTags 42 22
/-- CGM_RED_CH_CFG0. -/
def Reg.redChCfg (ch : Nat) : Nat := 0x11000 + 0x40 * ch
def Fld.redChCfg.enable (ch : Nat) : Fld := .mk (Reg.redChCfg ch) 0 1
def Fld.redChCfg.pfmt (ch : Nat) : Fld := .mk (Reg.redChCfg ch) 1 1
def Fld.redChCfg.n (ch : Nat) : Fld := .mk (Reg.redChCfg ch) 2 7
def Fld.redChCfg.pos (ch : Nat) : Fld := .mk (Reg.redChCfg ch) 9 6
def Fld.redChCfg.nextPos (ch : Nat) : Fld := .mk (Reg.redChCfg ch) 15 7
def Fld.redChCfg.prevPos (ch : Nat) : Fld := .mk (Reg.redChCfg ch) 22 7
def Fld.redChCfg.r (ch : Nat) : Fld := .mk (Reg.redChCfg ch) 29 11
def Fld.redChCfg.x (ch : Nat) : Fld := .mk (Reg.redChCfg ch) 40 10
def Fld.redChCfg.soPos (ch : Nat) : Fld := .mk (Reg.redChCfg ch) 50 7
/-- CGM_RED_CH_PORTS. -/
def Reg.redChPorts (ch : Nat) : Nat := 0x11008 + 0x40 * ch
def Fld.redChPorts.uflMask (ch : Nat) : Fld := .mk (Reg.redChPorts ch) 0 36
def Fld.redChPorts.soMask (ch : Nat) : Fld := .mk (Reg.redChPorts ch) 36 6
/-- CGM_RED_CH_DESC. -/
def Reg.redChDesc (ch : Nat) : Nat := 0x11010 + 0x40 * ch
def Fld.redChDesc.ringLog2 (ch : Nat) : Fld := .mk (Reg.redChDesc ch) 0 4
def Fld.redChDesc.base (ch : Nat) : Fld := .mk (Reg.redChDesc ch) 6 42
/-- CGM_RED_CH_SYNC. -/
def Reg.redChSync (ch : Nat) : Nat := 0x11018 + 0x40 * ch
def Fld.redChSync.issuePair (ch : Nat) : Fld := .mk (Reg.redChSync ch) 0 9
def Fld.redChSync.donePair (ch : Nat) : Fld := .mk (Reg.redChSync ch) 16 9
/-- CGM_RED_CH_KEEP. -/
def Reg.redChKeep (ch : Nat) : Nat := 0x11020 + 0x40 * ch
def Fld.redChKeep.keepEn (ch : Nat) : Fld := .mk (Reg.redChKeep ch) 0 1
def Fld.redChKeep.keepPiece (ch : Nat) : Fld := .mk (Reg.redChKeep ch) 1 16
/-- CGM_RED_CH_BACKUP. -/
def Reg.redChBackup (ch : Nat) : Nat := 0x11028 + 0x40 * ch
def Fld.redChBackup.backupEn (ch : Nat) : Fld := .mk (Reg.redChBackup ch) 0 1
def Fld.redChBackup.backupPos (ch : Nat) : Fld := .mk (Reg.redChBackup ch) 1 7
/-- CGM_RED_CH_REPL. -/
def Reg.redChRepl (ch : Nat) : Nat := 0x11030 + 0x40 * ch
def Fld.redChRepl.count (ch : Nat) : Fld := .mk (Reg.redChRepl ch) 0 2
def Fld.redChRepl.holder0 (ch : Nat) : Fld := .mk (Reg.redChRepl ch) 2 17
def Fld.redChRepl.holder1 (ch : Nat) : Fld := .mk (Reg.redChRepl ch) 19 17
def Fld.redChRepl.holder2 (ch : Nat) : Fld := .mk (Reg.redChRepl ch) 36 17
/-- CGM_RED_CH_STATUS. -/
def Reg.redChStatus (ch : Nat) : Nat := 0x11038 + 0x40 * ch
def Fld.redChStatus.nextSeq (ch : Nat) : Fld := .mk (Reg.redChStatus ch) 0 32
def Fld.redChStatus.state (ch : Nat) : Fld := .mk (Reg.redChStatus ch) 32 3
def Fld.redChStatus.lastStatus (ch : Nat) : Fld := .mk (Reg.redChStatus ch) 48 16
/-- CGM_LNK0_CTRL. -/
def Reg.lnkCtrl (n : Nat) : Nat := 0x20000 + 0x100 * n
def Fld.lnkCtrl.close (n : Nat) : Fld := .mk (Reg.lnkCtrl n) 0 1
/-- CGM_LNK0_STATUS. -/
def Reg.lnkStatus (n : Nat) : Nat := 0x20008 + 0x100 * n
def Fld.lnkStatus.present (n : Nat) : Fld := .mk (Reg.lnkStatus n) 0 1
def Fld.lnkStatus.kind (n : Nat) : Fld := .mk (Reg.lnkStatus n) 1 1
def Fld.lnkStatus.cwClosed (n : Nat) : Fld := .mk (Reg.lnkStatus n) 2 1
def Fld.lnkStatus.cwCause (n : Nat) : Fld := .mk (Reg.lnkStatus n) 3 3
def Fld.lnkStatus.bufErr (n : Nat) : Fld := .mk (Reg.lnkStatus n) 6 1
/-- CGM_LNK0_BUF. -/
def Reg.lnkBuf (n : Nat) : Nat := 0x20010 + 0x100 * n
def Fld.lnkBuf.tc1Hwm (n : Nat) : Fld := .mk (Reg.lnkBuf n) 0 18
def Fld.lnkBuf.tc23Hwm (n : Nat) : Fld := .mk (Reg.lnkBuf n) 18 18
def Fld.lnkBuf.tc0Hwm (n : Nat) : Fld := .mk (Reg.lnkBuf n) 36 14
/-- CGM_LNK0_DROP. -/
def Reg.lnkDrop (n : Nat) : Nat := 0x20018 + 0x100 * n
def Fld.lnkDrop.stale (n : Nat) : Fld := .mk (Reg.lnkDrop n) 0 32
def Fld.lnkDrop.crc (n : Nat) : Fld := .mk (Reg.lnkDrop n) 32 16
def Fld.lnkDrop.long (n : Nat) : Fld := .mk (Reg.lnkDrop n) 48 16
/-- CGM_LNK0_KEEP. -/
def Reg.lnkKeep (n : Nat) : Nat := 0x20020 + 0x100 * n
def Fld.lnkKeep.keepBytes (n : Nat) : Fld := .mk (Reg.lnkKeep n) 0 48
def Fld.lnkKeep.keepMiss (n : Nat) : Fld := .mk (Reg.lnkKeep n) 48 16
/-- CGM_FUL_CTRL. -/
def Reg.fulCtrl : Nat := 0x30000
def Fld.fulCtrl.enable : Fld := .mk Reg.fulCtrl 0 1
def Fld.fulCtrl.normVoteEn : Fld := .mk Reg.fulCtrl 1 4
/-- CGM_FUL_SR_SEED. -/
def Reg.fulSrSeed : Nat := 0x30008
def Fld.fulSrSeed.fseed : Fld := .mk Reg.fulSrSeed 0 64
/-- CGM_FUL_WD. -/
def Reg.fulWd : Nat := 0x30010
def Fld.fulWd.streamWdUs : Fld := .mk Reg.fulWd 0 20
/-- CGM_FUL_CLIP_MAX. -/
def Reg.fulClipMax : Nat := 0x30018
def Fld.fulClipMax.clipMax : Fld := .mk Reg.fulClipMax 0 64
/-- CGM_FUL_GATE. -/
def Reg.fulGate : Nat := 0x30020
def Fld.fulGate.clipK : Fld := .mk Reg.fulGate 0 32
def Fld.fulGate.isOpen : Fld := .mk Reg.fulGate 32 1
def Fld.fulGate.skip : Fld := .mk Reg.fulGate 33 1
/-- CGM_FUL_GATE_STEP. -/
def Reg.fulGateStep : Nat := 0x30028
def Fld.fulGateStep.step : Fld := .mk Reg.fulGateStep 0 64
/-- CGM_FUL_GATE_SUM. -/
def Reg.fulGateSum : Nat := 0x30030
def Fld.fulGateSum.s : Fld := .mk Reg.fulGateSum 0 64
/-- CGM_FUL_ERR_STATUS. -/
def Reg.fulErrStatus : Nat := 0x30038
def Fld.fulErrStatus.lenShort : Fld := .mk Reg.fulErrStatus 0 1
def Fld.fulErrStatus.lenLong : Fld := .mk Reg.fulErrStatus 1 1
def Fld.fulErrStatus.memUe : Fld := .mk Reg.fulErrStatus 2 1
def Fld.fulErrStatus.nonfinite : Fld := .mk Reg.fulErrStatus 3 1
def Fld.fulErrStatus.stateFault : Fld := .mk Reg.fulErrStatus 4 1
def Fld.fulErrStatus.upstream : Fld := .mk Reg.fulErrStatus 5 1
/-- CGM_FUL_FAULT_LOG. -/
def Reg.fulFaultLog : Nat := 0x30040
def Fld.fulFaultLog.index : Fld := .mk Reg.fulFaultLog 0 48
def Fld.fulFaultLog.queue : Fld := .mk Reg.fulFaultLog 48 2
def Fld.fulFaultLog.valid : Fld := .mk Reg.fulFaultLog 63 1
/-- CGM_FUL_FAULT_SEQ. -/
def Reg.fulFaultSeq : Nat := 0x30048
def Fld.fulFaultSeq.seq : Fld := .mk Reg.fulFaultSeq 0 32
/-- CGM_FUL_COUNTS. -/
def Reg.fulCounts : Nat := 0x30050
def Fld.fulCounts.skipped : Fld := .mk Reg.fulCounts 0 32
def Fld.fulCounts.nfTasks : Fld := .mk Reg.fulCounts 32 32
/-- CGM_FUL_PROG_CTRL. -/
def Reg.fulProgCtrl : Nat := 0x30080
def Fld.fulProgCtrl.slot : Fld := .mk Reg.fulProgCtrl 0 4
def Fld.fulProgCtrl.cmd : Fld := .mk Reg.fulProgCtrl 4 3
def Fld.fulProgCtrl.loadStatus : Fld := .mk Reg.fulProgCtrl 8 4
def Fld.fulProgCtrl.version : Fld := .mk Reg.fulProgCtrl 16 4
/-- CGM_FUL_PROG_DATA. -/
def Reg.fulProgData : Nat := 0x30088
def Fld.fulProgData.word : Fld := .mk Reg.fulProgData 0 32
/-- CGM_FUL_PROG_STATE. -/
def Reg.fulProgState : Nat := 0x30090
def Fld.fulProgState.loaded : Fld := .mk Reg.fulProgState 0 16
def Fld.fulProgState.inUse : Fld := .mk Reg.fulProgState 16 16
/-- CGM_FUL_Q0_CFG. -/
def Reg.fulQCfg (q : Nat) : Nat := 0x31000 + 0x40 * q
def Fld.fulQCfg.enable (q : Nat) : Fld := .mk (Reg.fulQCfg q) 0 1
def Fld.fulQCfg.ringLog2 (q : Nat) : Fld := .mk (Reg.fulQCfg q) 1 4
def Fld.fulQCfg.base (q : Nat) : Fld := .mk (Reg.fulQCfg q) 6 42
/-- CGM_FUL_Q0_SYNC. -/
def Reg.fulQSync (q : Nat) : Nat := 0x31008 + 0x40 * q
def Fld.fulQSync.issuePair (q : Nat) : Fld := .mk (Reg.fulQSync q) 0 9
def Fld.fulQSync.donePair (q : Nat) : Fld := .mk (Reg.fulQSync q) 16 9
/-- CGM_FUL_Q0_STATUS. -/
def Reg.fulQStatus (q : Nat) : Nat := 0x31010 + 0x40 * q
def Fld.fulQStatus.nextSeq (q : Nat) : Fld := .mk (Reg.fulQStatus q) 0 32
def Fld.fulQStatus.state (q : Nat) : Fld := .mk (Reg.fulQStatus q) 32 3
def Fld.fulQStatus.lastStatus (q : Nat) : Fld := .mk (Reg.fulQStatus q) 48 16
/-- CGM_FUL_PORT0_CFG. -/
def Reg.fulPortCfg (p : Nat) : Nat := 0x32000 + 0x10 * p
def Fld.fulPortCfg.enable (p : Nat) : Fld := .mk (Reg.fulPortCfg p) 0 1
def Fld.fulPortCfg.queue (p : Nat) : Fld := .mk (Reg.fulPortCfg p) 1 2
def Fld.fulPortCfg.bound (p : Nat) : Fld := .mk (Reg.fulPortCfg p) 3 1
def Fld.fulPortCfg.channel (p : Nat) : Fld := .mk (Reg.fulPortCfg p) 4 5
def Fld.fulPortCfg.buffered (p : Nat) : Fld := .mk (Reg.fulPortCfg p) 32 18
/-- CGM_TIER_CUT_CTRL. -/
def Reg.tierCutCtrl : Nat := 0x48000
def Fld.tierCutCtrl.enable : Fld := .mk Reg.tierCutCtrl 0 1
def Fld.tierCutCtrl.replEn : Fld := .mk Reg.tierCutCtrl 1 1
def Fld.tierCutCtrl.commitBarrier : Fld := .mk Reg.tierCutCtrl 2 5
def Fld.tierCutCtrl.vetoBit : Fld := .mk Reg.tierCutCtrl 7 6
/-- CGM_TIER_BATT_A. -/
def Reg.tierBattA : Nat := 0x48008
def Fld.tierBattA.base : Fld := .mk Reg.tierBattA 12 36
/-- CGM_TIER_BATT_B. -/
def Reg.tierBattB : Nat := 0x48010
def Fld.tierBattB.base : Fld := .mk Reg.tierBattB 12 36
/-- CGM_TIER_BATT_SIZE. -/
def Reg.tierBattSize : Nat := 0x48018
def Fld.tierBattSize.size : Fld := .mk Reg.tierBattSize 0 48
/-- CGM_TIER_BATT_DIR. -/
def Reg.tierBattDir : Nat := 0x48020
def Fld.tierBattDir.base : Fld := .mk Reg.tierBattDir 6 42
def Fld.tierBattDir.count : Fld := .mk Reg.tierBattDir 48 16
/-- CGM_TIER_KEEP_TAB. -/
def Reg.tierKeepTab : Nat := 0x48028
def Fld.tierKeepTab.base : Fld := .mk Reg.tierKeepTab 12 36
/-- CGM_TIER_REC_BASE. -/
def Reg.tierRecBase : Nat := 0x48030
def Fld.tierRecBase.base : Fld := .mk Reg.tierRecBase 14 34
/-- CGM_TIER_SUMP_CFG. -/
def Reg.tierSumpCfg : Nat := 0x48038
def Fld.tierSumpCfg.fraction : Fld := .mk Reg.tierSumpCfg 0 2
def Fld.tierSumpCfg.stacks : Fld := .mk Reg.tierSumpCfg 8 5
/-- CGM_TIER_CUTQ_CFG. -/
def Reg.tierCutqCfg : Nat := 0x48040
def Fld.tierCutqCfg.enable : Fld := .mk Reg.tierCutqCfg 0 1
def Fld.tierCutqCfg.ringLog2 : Fld := .mk Reg.tierCutqCfg 1 4
def Fld.tierCutqCfg.base : Fld := .mk Reg.tierCutqCfg 6 42
/-- CGM_TIER_CUTQ_SYNC. -/
def Reg.tierCutqSync : Nat := 0x48048
def Fld.tierCutqSync.issuePair : Fld := .mk Reg.tierCutqSync 0 9
def Fld.tierCutqSync.sealPair : Fld := .mk Reg.tierCutqSync 16 9
def Fld.tierCutqSync.sumpPair : Fld := .mk Reg.tierCutqSync 32 9
def Fld.tierCutqSync.donePair : Fld := .mk Reg.tierCutqSync 48 9
/-- CGM_TIER_CUT_REPL. -/
def Reg.tierCutRepl : Nat := 0x48050
def Fld.tierCutRepl.count : Fld := .mk Reg.tierCutRepl 0 2
def Fld.tierCutRepl.member0 : Fld := .mk Reg.tierCutRepl 2 17
def Fld.tierCutRepl.member1 : Fld := .mk Reg.tierCutRepl 19 17
def Fld.tierCutRepl.member2 : Fld := .mk Reg.tierCutRepl 36 17
/-- CGM_TIER_CUT_WD. -/
def Reg.tierCutWd : Nat := 0x48058
def Fld.tierCutWd.keepWdUs : Fld := .mk Reg.tierCutWd 0 20
def Fld.tierCutWd.xchgWdUs : Fld := .mk Reg.tierCutWd 20 20
/-- CGM_TIER_CUT_GEN. -/
def Reg.tierCutGen : Nat := 0x48060
def Fld.tierCutGen.gen : Fld := .mk Reg.tierCutGen 0 8
/-- CGM_TIER_CUT_STATUS. -/
def Reg.tierCutStatus : Nat := 0x48068
def Fld.tierCutStatus.nextSeq : Fld := .mk Reg.tierCutStatus 0 32
def Fld.tierCutStatus.qstate : Fld := .mk Reg.tierCutStatus 32 2
def Fld.tierCutStatus.halfA : Fld := .mk Reg.tierCutStatus 34 3
def Fld.tierCutStatus.halfB : Fld := .mk Reg.tierCutStatus 37 3
def Fld.tierCutStatus.lastStatus : Fld := .mk Reg.tierCutStatus 48 16
/-- CGM_TIER_CUT_JOB. -/
def Reg.tierCutJob : Nat := 0x48070
def Fld.tierCutJob.step : Fld := .mk Reg.tierCutJob 0 64
/-- CGM_TIER_CUT_JOB_INFO. -/
def Reg.tierCutJobInfo : Nat := 0x48078
def Fld.tierCutJobInfo.gen : Fld := .mk Reg.tierCutJobInfo 0 8
def Fld.tierCutJobInfo.valid : Fld := .mk Reg.tierCutJobInfo 8 1
def Fld.tierCutJobInfo.local : Fld := .mk Reg.tierCutJobInfo 9 1
def Fld.tierCutJobInfo.half : Fld := .mk Reg.tierCutJobInfo 10 1
/-- CGM_TIER_CUT_ERR_STATUS. -/
def Reg.tierCutErrStatus : Nat := 0x48080
def Fld.tierCutErrStatus.skipped : Fld := .mk Reg.tierCutErrStatus 0 1
def Fld.tierCutErrStatus.abandoned : Fld := .mk Reg.tierCutErrStatus 1 1
def Fld.tierCutErrStatus.sedgeIncomplete : Fld := .mk Reg.tierCutErrStatus 2 1
def Fld.tierCutErrStatus.feltDeadline : Fld := .mk Reg.tierCutErrStatus 3 1
def Fld.tierCutErrStatus.suspect : Fld := .mk Reg.tierCutErrStatus 4 1
def Fld.tierCutErrStatus.vetoSeen : Fld := .mk Reg.tierCutErrStatus 5 1
def Fld.tierCutErrStatus.dirInvalid : Fld := .mk Reg.tierCutErrStatus 6 1
/-- CGM_TIER_CUT_COUNTS. -/
def Reg.tierCutCounts : Nat := 0x48088
def Fld.tierCutCounts.battless : Fld := .mk Reg.tierCutCounts 0 16
def Fld.tierCutCounts.skipped : Fld := .mk Reg.tierCutCounts 16 16
def Fld.tierCutCounts.abandoned : Fld := .mk Reg.tierCutCounts 32 16
def Fld.tierCutCounts.suppressed : Fld := .mk Reg.tierCutCounts 48 16
/-- CGM_TIER_CTRL. -/
def Reg.tierCtrl : Nat := 0x40000
def Fld.tierCtrl.feltEn : Fld := .mk Reg.tierCtrl 0 1
def Fld.tierCtrl.peatEn : Fld := .mk Reg.tierCtrl 1 1
def Fld.tierCtrl.deallocEn : Fld := .mk Reg.tierCtrl 2 1
/-- CGM_TIER_FELT_CFG. -/
def Reg.tierFeltCfg : Nat := 0x40008
def Fld.tierFeltCfg.tc3CapPct : Fld := .mk Reg.tierFeltCfg 0 7
def Fld.tierFeltCfg.feltLanes : Fld := .mk Reg.tierFeltCfg 8 6
def Fld.tierFeltCfg.nocCapGbs : Fld := .mk Reg.tierFeltCfg 16 13
/-- CGM_TIER_FELT_PORTS. -/
def Reg.tierFeltPorts : Nat := 0x40010
def Fld.tierFeltPorts.uflMask : Fld := .mk Reg.tierFeltPorts 0 36
def Fld.tierFeltPorts.soMask : Fld := .mk Reg.tierFeltPorts 36 6
/-- CGM_TIER_IDENT. -/
def Reg.tierIdent : Nat := 0x40018
def Fld.tierIdent.rank : Fld := .mk Reg.tierIdent 0 32
def Fld.tierIdent.rack : Fld := .mk Reg.tierIdent 32 10
def Fld.tierIdent.position : Fld := .mk Reg.tierIdent 42 7
/-- CGM_TIER_JOB_ID. -/
def Reg.tierJobId : Nat := 0x40020
def Fld.tierJobId.jobId : Fld := .mk Reg.tierJobId 0 64
/-- CGM_TIER_SHARD_TAB. -/
def Reg.tierShardTab : Nat := 0x40028
def Fld.tierShardTab.base : Fld := .mk Reg.tierShardTab 5 43
/-- CGM_TIER_PARTNER. -/
def Reg.tierPartner : Nat := 0x40030
def Fld.tierPartner.rack : Fld := .mk Reg.tierPartner 0 10
def Fld.tierPartner.position : Fld := .mk Reg.tierPartner 10 7
def Fld.tierPartner.slot : Fld := .mk Reg.tierPartner 17 2
def Fld.tierPartner.valid : Fld := .mk Reg.tierPartner 19 1
/-- CGM_TIER_SEDGE_POOL. -/
def Reg.tierSedgePool : Nat := 0x40038
def Fld.tierSedgePool.base : Fld := .mk Reg.tierSedgePool 26 22
def Fld.tierSedgePool.pages : Fld := .mk Reg.tierSedgePool 48 14
/-- CGM_TIER_OWNER0. -/
def Reg.tierOwner (s : Nat) : Nat := 0x40040 + 0x8 * s
def Fld.tierOwner.valid (s : Nat) : Fld := .mk (Reg.tierOwner s) 0 1
def Fld.tierOwner.rack (s : Nat) : Fld := .mk (Reg.tierOwner s) 1 10
def Fld.tierOwner.position (s : Nat) : Fld := .mk (Reg.tierOwner s) 11 7
def Fld.tierOwner.setPages (s : Nat) : Fld := .mk (Reg.tierOwner s) 18 13
def Fld.tierOwner.tMib (s : Nat) : Fld := .mk (Reg.tierOwner s) 31 18
/-- CGM_TIER_SEDGE_STATUS. -/
def Reg.tierSedgeStatus : Nat := 0x40060
def Fld.tierSedgeStatus.setState : Fld := .mk Reg.tierSedgeStatus 0 32
def Fld.tierSedgeStatus.freePages : Fld := .mk Reg.tierSedgeStatus 32 14
/-- CGM_TIER_SEDGE_COUNTS. -/
def Reg.tierSedgeCounts : Nat := 0x40068
def Fld.tierSedgeCounts.staleFelt : Fld := .mk Reg.tierSedgeCounts 0 32
def Fld.tierSedgeCounts.refusals : Fld := .mk Reg.tierSedgeCounts 32 16
/-- CGM_TIER_MAP_BASE. -/
def Reg.tierMapBase : Nat := 0x40070
def Fld.tierMapBase.base : Fld := .mk Reg.tierMapBase 21 27
/-- CGM_TIER_MAP_STATUS. -/
def Reg.tierMapStatus : Nat := 0x40078
def Fld.tierMapStatus.freeEntries : Fld := .mk Reg.tierMapStatus 0 18
def Fld.tierMapStatus.fullEvents : Fld := .mk Reg.tierMapStatus 32 32
/-- CGM_TIER_ERR_STATUS. -/
def Reg.tierErrStatus : Nat := 0x40080
def Fld.tierErrStatus.sedgeRefused : Fld := .mk Reg.tierErrStatus 0 1
def Fld.tierErrStatus.setLost : Fld := .mk Reg.tierErrStatus 1 1
def Fld.tierErrStatus.mapFull : Fld := .mk Reg.tierErrStatus 2 1
def Fld.tierErrStatus.staleFelt : Fld := .mk Reg.tierErrStatus 3 1
/-- CGM_PEAT_CTRL. -/
def Reg.peatCtrl : Nat := 0x50000
def Fld.peatCtrl.enable : Fld := .mk Reg.peatCtrl 0 1
def Fld.peatCtrl.formatArm : Fld := .mk Reg.peatCtrl 1 1
def Fld.peatCtrl.format : Fld := .mk Reg.peatCtrl 2 1
/-- CGM_PEAT_CFG. -/
def Reg.peatCfg : Nat := 0x50008
def Fld.peatCfg.retain : Fld := .mk Reg.peatCfg 0 4
def Fld.peatCfg.inflightMib : Fld := .mk Reg.peatCfg 4 8
def Fld.peatCfg.peatBarrier : Fld := .mk Reg.peatCfg 12 5
def Fld.peatCfg.vetoBit : Fld := .mk Reg.peatCfg 17 6
def Fld.peatCfg.xtsEn : Fld := .mk Reg.peatCfg 23 1
def Fld.peatCfg.xtsSlot : Fld := .mk Reg.peatCfg 24 4
def Fld.peatCfg.ageMax : Fld := .mk Reg.peatCfg 28 20
/-- CGM_PEAT_LINK. -/
def Reg.peatLink : Nat := 0x50010
def Fld.peatLink.up : Fld := .mk Reg.peatLink 0 1
def Fld.peatLink.rate : Fld := .mk Reg.peatLink 1 3
def Fld.peatLink.width : Fld := .mk Reg.peatLink 4 4
def Fld.peatLink.flit : Fld := .mk Reg.peatLink 8 1
def Fld.peatLink.degraded : Fld := .mk Reg.peatLink 9 1
/-- CGM_PEAT_STATUS. -/
def Reg.peatStatus : Nat := 0x50018
def Fld.peatStatus.state : Fld := .mk Reg.peatStatus 0 3
def Fld.peatStatus.namespaces : Fld := .mk Reg.peatStatus 3 3
def Fld.peatStatus.vwc : Fld := .mk Reg.peatStatus 6 1
def Fld.peatStatus.draining : Fld := .mk Reg.peatStatus 7 1
def Fld.peatStatus.entries : Fld := .mk Reg.peatStatus 8 8
def Fld.peatStatus.catSeq : Fld := .mk Reg.peatStatus 16 48
/-- CGM_PEAT_UNITS. -/
def Reg.peatUnits : Nat := 0x50020
def Fld.peatUnits.total : Fld := .mk Reg.peatUnits 0 24
def Fld.peatUnits.free : Fld := .mk Reg.peatUnits 24 24
/-- CGM_PEAT_GEN. -/
def Reg.peatGen : Nat := 0x50028
def Fld.peatGen.lastGen : Fld := .mk Reg.peatGen 0 48
/-- CGM_PEAT_GEN_HIGH. -/
def Reg.peatGenHigh : Nat := 0x50070
def Fld.peatGenHigh.genHigh : Fld := .mk Reg.peatGenHigh 0 48
/-- CGM_PEAT_GEN_STEP. -/
def Reg.peatGenStep : Nat := 0x50030
def Fld.peatGenStep.step : Fld := .mk Reg.peatGenStep 0 64
/-- CGM_PEAT_JOBC. -/
def Reg.peatJobc : Nat := 0x50038
def Fld.peatJobc.step : Fld := .mk Reg.peatJobc 0 64
/-- CGM_PEAT_PIN0. -/
def Reg.peatPin (n : Nat) : Nat := 0x50040 + 0x8 * n
def Fld.peatPin.gen (n : Nat) : Fld := .mk (Reg.peatPin n) 0 48
def Fld.peatPin.pin (n : Nat) : Fld := .mk (Reg.peatPin n) 48 1
def Fld.peatPin.exported (n : Nat) : Fld := .mk (Reg.peatPin n) 49 1
/-- CGM_PEAT_NVME_ERR. -/
def Reg.peatNvmeErr : Nat := 0x50060
def Fld.peatNvmeErr.sc : Fld := .mk Reg.peatNvmeErr 0 8
def Fld.peatNvmeErr.sct : Fld := .mk Reg.peatNvmeErr 8 3
def Fld.peatNvmeErr.dnr : Fld := .mk Reg.peatNvmeErr 11 1
def Fld.peatNvmeErr.opcode : Fld := .mk Reg.peatNvmeErr 12 8
def Fld.peatNvmeErr.count : Fld := .mk Reg.peatNvmeErr 32 32
/-- CGM_PEAT_ERR_STATUS. -/
def Reg.peatErrStatus : Nat := 0x50068
def Fld.peatErrStatus.drainFail : Fld := .mk Reg.peatErrStatus 0 1
def Fld.peatErrStatus.peatFull : Fld := .mk Reg.peatErrStatus 1 1
def Fld.peatErrStatus.io : Fld := .mk Reg.peatErrStatus 2 1
def Fld.peatErrStatus.keyAbsent : Fld := .mk Reg.peatErrStatus 3 1
def Fld.peatErrStatus.pfailAbort : Fld := .mk Reg.peatErrStatus 4 1
def Fld.peatErrStatus.peatAge : Fld := .mk Reg.peatErrStatus 5 1
def Fld.peatErrStatus.slotTorn : Fld := .mk Reg.peatErrStatus 6 1
def Fld.peatErrStatus.degraded : Fld := .mk Reg.peatErrStatus 7 1
/-- CGM_SEC_KEY_CTRL. -/
def Reg.secKeyCtrl : Nat := 0x60000
def Fld.secKeyCtrl.slot : Fld := .mk Reg.secKeyCtrl 0 4
def Fld.secKeyCtrl.kind : Fld := .mk Reg.secKeyCtrl 4 2
def Fld.secKeyCtrl.len : Fld := .mk Reg.secKeyCtrl 6 7
def Fld.secKeyCtrl.cmd : Fld := .mk Reg.secKeyCtrl 13 3
def Fld.secKeyCtrl.result : Fld := .mk Reg.secKeyCtrl 16 4
/-- CGM_SEC_KEY_DATA. -/
def Reg.secKeyData : Nat := 0x60008
def Fld.secKeyData.word : Fld := .mk Reg.secKeyData 0 64
/-- CGM_SEC_KEY_STATUS. -/
def Reg.secKeyStatus : Nat := 0x60010
def Fld.secKeyStatus.loaded : Fld := .mk Reg.secKeyStatus 0 16
def Fld.secKeyStatus.kinds : Fld := .mk Reg.secKeyStatus 16 32
/-- CGM_SEC_KCV. -/
def Reg.secKcv : Nat := 0x60018
def Fld.secKcv.kcv : Fld := .mk Reg.secKcv 0 64
/-- CGM_TIER_HB_CFG. -/
def Reg.tierHbCfg : Nat := 0x49000
def Fld.tierHbCfg.hbIntervalMs : Fld := .mk Reg.tierHbCfg 0 8
def Fld.tierHbCfg.missLimit : Fld := .mk Reg.tierHbCfg 8 4
def Fld.tierHbCfg.linkHoldMs : Fld := .mk Reg.tierHbCfg 12 8
/-- CGM_TIER_RST_CTRL. -/
def Reg.tierRstCtrl : Nat := 0x49008
def Fld.tierRstCtrl.haltFlag : Fld := .mk Reg.tierRstCtrl 0 10
def Fld.tierRstCtrl.haltFlagEn : Fld := .mk Reg.tierRstCtrl 10 1
def Fld.tierRstCtrl.planBarrier : Fld := .mk Reg.tierRstCtrl 11 5
def Fld.tierRstCtrl.releaseBarrier : Fld := .mk Reg.tierRstCtrl 16 5
def Fld.tierRstCtrl.missBit : Fld := .mk Reg.tierRstCtrl 21 6
def Fld.tierRstCtrl.cmdqMask : Fld := .mk Reg.tierRstCtrl 27 8
def Fld.tierRstCtrl.liveCleanEn : Fld := .mk Reg.tierRstCtrl 35 1
/-- CGM_TIER_RST_RT. -/
def Reg.tierRstRt : Nat := 0x49010
def Fld.tierRstRt.base : Fld := .mk Reg.tierRstRt 6 42
/-- CGM_TIER_RST_STATUS. -/
def Reg.tierRstStatus : Nat := 0x49018
def Fld.tierRstStatus.state : Fld := .mk Reg.tierRstStatus 0 4
def Fld.tierRstStatus.role : Fld := .mk Reg.tierRstStatus 4 2
def Fld.tierRstStatus.liveClean : Fld := .mk Reg.tierRstStatus 6 1
def Fld.tierRstStatus.epoch : Fld := .mk Reg.tierRstStatus 8 16
def Fld.tierRstStatus.source : Fld := .mk Reg.tierRstStatus 24 3
def Fld.tierRstStatus.lastStatus : Fld := .mk Reg.tierRstStatus 48 16
/-- CGM_TIER_RST_CUT. -/
def Reg.tierRstCut : Nat := 0x49020
def Fld.tierRstCut.step : Fld := .mk Reg.tierRstCut 0 64
/-- CGM_TIER_RST_CUT_INFO. -/
def Reg.tierRstCutInfo : Nat := 0x49028
def Fld.tierRstCutInfo.gen : Fld := .mk Reg.tierRstCutInfo 0 8
def Fld.tierRstCutInfo.valid : Fld := .mk Reg.tierRstCutInfo 8 1
def Fld.tierRstCutInfo.elastic : Fld := .mk Reg.tierRstCutInfo 9 1
/-- CGM_TIER_RST_ERR_STATUS. -/
def Reg.tierRstErrStatus : Nat := 0x49030
def Fld.tierRstErrStatus.haltSeen : Fld := .mk Reg.tierRstErrStatus 0 1
def Fld.tierRstErrStatus.verifyFail : Fld := .mk Reg.tierRstErrStatus 1 1
def Fld.tierRstErrStatus.sourceSwitch : Fld := .mk Reg.tierRstErrStatus 2 1
def Fld.tierRstErrStatus.noSource : Fld := .mk Reg.tierRstErrStatus 3 1
def Fld.tierRstErrStatus.noSpare : Fld := .mk Reg.tierRstErrStatus 4 1
def Fld.tierRstErrStatus.mixedStep : Fld := .mk Reg.tierRstErrStatus 5 1
def Fld.tierRstErrStatus.recordInvalid : Fld := .mk Reg.tierRstErrStatus 6 1
def Fld.tierRstErrStatus.reshardInvalid : Fld := .mk Reg.tierRstErrStatus 7 1
def Fld.tierRstErrStatus.replan : Fld := .mk Reg.tierRstErrStatus 8 1
/-- CGM_TIER_RST_COUNTS. -/
def Reg.tierRstCounts : Nat := 0x49038
def Fld.tierRstCounts.restores : Fld := .mk Reg.tierRstCounts 0 16
def Fld.tierRstCounts.replans : Fld := .mk Reg.tierRstCounts 16 16
def Fld.tierRstCounts.sourceSwitches : Fld := .mk Reg.tierRstCounts 32 16
def Fld.tierRstCounts.staleRestore : Fld := .mk Reg.tierRstCounts 48 16
/-- CGM_TIER_WARDEN_STATUS. -/
def Reg.tierWardenStatus : Nat := 0x49040
def Fld.tierWardenStatus.jobState : Fld := .mk Reg.tierWardenStatus 0 4
def Fld.tierWardenStatus.standbySpares : Fld := .mk Reg.tierWardenStatus 4 4
def Fld.tierWardenStatus.sparesInUse : Fld := .mk Reg.tierWardenStatus 8 4
def Fld.tierWardenStatus.failedRanks : Fld := .mk Reg.tierWardenStatus 12 6
def Fld.tierWardenStatus.detections : Fld := .mk Reg.tierWardenStatus 32 32
/-- CGM_SYN_CTRL. -/
def Reg.synCtrl : Nat := 0x70000
def Fld.synCtrl.service : Fld := .mk Reg.synCtrl 0 1
def Fld.synCtrl.quiesce : Fld := .mk Reg.synCtrl 1 1
def Fld.synCtrl.remoteOpen : Fld := .mk Reg.synCtrl 2 1
/-- CGM_SYN_FLAG_OP. -/
def Reg.synFlagOp : Nat := 0x70008
def Fld.synFlagOp.flag : Fld := .mk Reg.synFlagOp 0 10
def Fld.synFlagOp.op : Fld := .mk Reg.synFlagOp 10 2
/-- CGM_SYN_PRODUCE. -/
def Reg.synProduce : Nat := 0x70010
def Fld.synProduce.pair : Fld := .mk Reg.synProduce 0 9
def Fld.synProduce.count : Fld := .mk Reg.synProduce 16 32
/-- CGM_SYN_CONSUME. -/
def Reg.synConsume : Nat := 0x70018
def Fld.synConsume.pair : Fld := .mk Reg.synConsume 0 9
def Fld.synConsume.count : Fld := .mk Reg.synConsume 16 32
/-- CGM_SYN_FENCE. -/
def Reg.synFence : Nat := 0x70020
def Fld.synFence.token : Fld := .mk Reg.synFence 0 16
def Fld.synFence.object : Fld := .mk Reg.synFence 16 10
def Fld.synFence.op : Fld := .mk Reg.synFence 26 2
def Fld.synFence.count : Fld := .mk Reg.synFence 32 16
def Fld.synFence.tokenDone : Fld := .mk Reg.synFence 48 16
/-- CGM_SYN_ERR_STATUS. -/
def Reg.synErrStatus : Nat := 0x70028
def Fld.synErrStatus.flagOverrun : Fld := .mk Reg.synErrStatus 0 1
def Fld.synErrStatus.countUnderflow : Fld := .mk Reg.synErrStatus 1 1
def Fld.synErrStatus.produceOverflow : Fld := .mk Reg.synErrStatus 2 1
def Fld.synErrStatus.countSaturated : Fld := .mk Reg.synErrStatus 3 1
def Fld.synErrStatus.remoteRefused : Fld := .mk Reg.synErrStatus 4 1
def Fld.synErrStatus.remoteAbort : Fld := .mk Reg.synErrStatus 5 1
def Fld.synErrStatus.barTimeout : Fld := .mk Reg.synErrStatus 6 1
def Fld.synErrStatus.barAbort : Fld := .mk Reg.synErrStatus 7 1
def Fld.synErrStatus.pairDisabled : Fld := .mk Reg.synErrStatus 8 1
/-- CGM_SYN_ERR_LOG. -/
def Reg.synErrLog : Nat := 0x70030
def Fld.synErrLog.status : Fld := .mk Reg.synErrLog 0 16
def Fld.synErrLog.object : Fld := .mk Reg.synErrLog 16 10
def Fld.synErrLog.kind : Fld := .mk Reg.synErrLog 26 2
def Fld.synErrLog.remote : Fld := .mk Reg.synErrLog 28 1
def Fld.synErrLog.valid : Fld := .mk Reg.synErrLog 63 1
/-- CGM_SYN_COUNTS. -/
def Reg.synCounts : Nat := 0x70038
def Fld.synCounts.overruns : Fld := .mk Reg.synCounts 0 16
def Fld.synCounts.underflows : Fld := .mk Reg.synCounts 16 16
def Fld.synCounts.remoteRefused : Fld := .mk Reg.synCounts 32 16
def Fld.synCounts.signalsDiscarded : Fld := .mk Reg.synCounts 48 16
/-- CGM_SYN_CTX. -/
def Reg.synCtx : Nat := 0x70040
def Fld.synCtx.cmd : Fld := .mk Reg.synCtx 0 3
def Fld.synCtx.result : Fld := .mk Reg.synCtx 3 3
def Fld.synCtx.base : Fld := .mk Reg.synCtx 6 42
/-- CGM_SYN_WAIT_NOTIFY. -/
def Reg.synWaitNotify : Nat := 0x70048
def Fld.synWaitNotify.base : Fld := .mk Reg.synWaitNotify 9 39
/-- CGM_SYN_MEMBER_TAB. -/
def Reg.synMemberTab : Nat := 0x70050
def Fld.synMemberTab.base : Fld := .mk Reg.synMemberTab 10 38
/-- CGM_SYN_SELF. -/
def Reg.synSelf : Nat := 0x70058
def Fld.synSelf.memberIdx : Fld := .mk Reg.synSelf 0 7
def Fld.synSelf.valid : Fld := .mk Reg.synSelf 7 1
/-- CGM_SYN_REMOTE_WIN. -/
def Reg.synRemoteWin : Nat := 0x70060
def Fld.synRemoteWin.base : Fld := .mk Reg.synRemoteWin 12 36
/-- CGM_SYN_REMOTE_CFG. -/
def Reg.synRemoteCfg : Nat := 0x70068
def Fld.synRemoteCfg.size : Fld := .mk Reg.synRemoteCfg 0 36
def Fld.synRemoteCfg.wdUs : Fld := .mk Reg.synRemoteCfg 36 20
/-- CGM_SYN_FLAG_STATE0. -/
def Reg.synFlagState (k : Nat) : Nat := 0x71000 + 0x8 * k
def Fld.synFlagState.state (k : Nat) : Fld := .mk (Reg.synFlagState k) 0 64
/-- CGM_SYN_FLAG_OVR0. -/
def Reg.synFlagOvr (k : Nat) : Nat := 0x71080 + 0x8 * k
def Fld.synFlagOvr.ovr (k : Nat) : Fld := .mk (Reg.synFlagOvr k) 0 64
/-- CGM_SYN_WAIT0. -/
def Reg.synWait (s : Nat) : Nat := 0x72000 + 0x8 * s
def Fld.synWait.arm (s : Nat) : Fld := .mk (Reg.synWait s) 0 1
def Fld.synWait.kind (s : Nat) : Fld := .mk (Reg.synWait s) 1 1
def Fld.synWait.object (s : Nat) : Fld := .mk (Reg.synWait s) 2 10
def Fld.synWait.consume (s : Nat) : Fld := .mk (Reg.synWait s) 12 1
def Fld.synWait.count (s : Nat) : Fld := .mk (Reg.synWait s) 13 16
def Fld.synWait.timeoutUs (s : Nat) : Fld := .mk (Reg.synWait s) 29 20
/-- CGM_SYN_MBAR0_CFG. -/
def Reg.synBarCfg (b : Nat) : Nat := 0x73000 + 0x40 * b
def Fld.synBarCfg.enable (b : Nat) : Fld := .mk (Reg.synBarCfg b) 0 1
def Fld.synBarCfg.timeoutUs (b : Nat) : Fld := .mk (Reg.synBarCfg b) 1 20
def Fld.synBarCfg.doneFlag (b : Nat) : Fld := .mk (Reg.synBarCfg b) 21 10
def Fld.synBarCfg.doneFlagEn (b : Nat) : Fld := .mk (Reg.synBarCfg b) 31 1
def Fld.synBarCfg.donePair (b : Nat) : Fld := .mk (Reg.synBarCfg b) 32 9
def Fld.synBarCfg.donePairEn (b : Nat) : Fld := .mk (Reg.synBarCfg b) 41 1
/-- CGM_SYN_MBAR0_MASK_LO. -/
def Reg.synBarMaskLo (b : Nat) : Nat := 0x73008 + 0x40 * b
def Fld.synBarMaskLo.mask (b : Nat) : Fld := .mk (Reg.synBarMaskLo b) 0 64
/-- CGM_SYN_MBAR0_MASK_HI. -/
def Reg.synBarMaskHi (b : Nat) : Nat := 0x73010 + 0x40 * b
def Fld.synBarMaskHi.mask (b : Nat) : Fld := .mk (Reg.synBarMaskHi b) 0 64
/-- CGM_SYN_MBAR0_ARR_SUM. -/
def Reg.synBarArrSum (b : Nat) : Nat := 0x73018 + 0x40 * b
def Fld.synBarArrSum.value (b : Nat) : Fld := .mk (Reg.synBarArrSum b) 0 64
/-- CGM_SYN_MBAR0_ARR_OR. -/
def Reg.synBarArrOr (b : Nat) : Nat := 0x73020 + 0x40 * b
def Fld.synBarArrOr.word (b : Nat) : Fld := .mk (Reg.synBarArrOr b) 0 64
/-- CGM_SYN_MBAR0_STATUS. -/
def Reg.synBarStatus (b : Nat) : Nat := 0x73028 + 0x40 * b
def Fld.synBarStatus.arrive (b : Nat) : Fld := .mk (Reg.synBarStatus b) 0 1
def Fld.synBarStatus.state (b : Nat) : Fld := .mk (Reg.synBarStatus b) 1 3
def Fld.synBarStatus.lastStatus (b : Nat) : Fld := .mk (Reg.synBarStatus b) 16 16
def Fld.synBarStatus.episode (b : Nat) : Fld := .mk (Reg.synBarStatus b) 32 32
/-- CGM_SYN_MBAR0_RES_SUM. -/
def Reg.synBarResSum (b : Nat) : Nat := 0x73030 + 0x40 * b
def Fld.synBarResSum.sum (b : Nat) : Fld := .mk (Reg.synBarResSum b) 0 64
/-- CGM_SYN_MBAR0_RES_OR. -/
def Reg.synBarResOr (b : Nat) : Nat := 0x73038 + 0x40 * b
def Fld.synBarResOr.orWord (b : Nat) : Fld := .mk (Reg.synBarResOr b) 0 64
/-- CGM_SYN_TBAR0_TREE. -/
def Reg.synTbarTree (t : Nat) : Nat := 0x73500 + 0x8 * t
def Fld.synTbarTree.role (t : Nat) : Fld := .mk (Reg.synTbarTree t) 0 2
def Fld.synTbarTree.children (t : Nat) : Fld := .mk (Reg.synTbarTree t) 2 6
def Fld.synTbarTree.upPos (t : Nat) : Fld := .mk (Reg.synTbarTree t) 8 7
def Fld.synTbarTree.upRack (t : Nat) : Fld := .mk (Reg.synTbarTree t) 15 10
/-- CGM_SYN_PAIR0_P. -/
def Reg.synPairP (n : Nat) : Nat := 0x74000 + 0x20 * n
def Fld.synPairP.p (n : Nat) : Fld := .mk (Reg.synPairP n) 0 48
/-- CGM_SYN_PAIR0_C. -/
def Reg.synPairC (n : Nat) : Nat := 0x74008 + 0x20 * n
def Fld.synPairC.c (n : Nat) : Fld := .mk (Reg.synPairC n) 0 48
/-- CGM_SYN_PAIR0_CFG. -/
def Reg.synPairCfg (n : Nat) : Nat := 0x74010 + 0x20 * n
def Fld.synPairCfg.depth (n : Nat) : Fld := .mk (Reg.synPairCfg n) 0 32
def Fld.synPairCfg.pend (n : Nat) : Fld := .mk (Reg.synPairCfg n) 32 32
/-- CGM_SYN_PAIR0_INIT. -/
def Reg.synPairInit (n : Nat) : Nat := 0x74018 + 0x20 * n
def Fld.synPairInit.value (n : Nat) : Fld := .mk (Reg.synPairInit n) 0 48
/-- CGM_TIM_CTRL. -/
def Reg.timCtrl : Nat := 0x80000
def Fld.timCtrl.active : Fld := .mk Reg.timCtrl 0 1
def Fld.timCtrl.switch : Fld := .mk Reg.timCtrl 1 1
def Fld.timCtrl.aValid : Fld := .mk Reg.timCtrl 2 1
def Fld.timCtrl.bValid : Fld := .mk Reg.timCtrl 3 1
def Fld.timCtrl.tslogEn : Fld := .mk Reg.timCtrl 4 1
def Fld.timCtrl.switches : Fld := .mk Reg.timCtrl 16 16
/-- CGM_TIM_TSLOG. -/
def Reg.timTslog : Nat := 0x80010
def Fld.timTslog.base : Fld := .mk Reg.timTslog 12 36
def Fld.timTslog.sizeLog2 : Fld := .mk Reg.timTslog 48 4
/-- CGM_TIM_TSLOG_HEAD. -/
def Reg.timTslogHead : Nat := 0x80018
def Fld.timTslogHead.head : Fld := .mk Reg.timTslogHead 0 48
/-- CGM_TIM_PROBE. -/
def Reg.timProbe : Nat := 0x80020
def Fld.timProbe.slice : Fld := .mk Reg.timProbe 0 6
def Fld.timProbe.pos : Fld := .mk Reg.timProbe 6 7
def Fld.timProbe.rack : Fld := .mk Reg.timProbe 13 10
def Fld.timProbe.seq : Fld := .mk Reg.timProbe 23 8
/-- CGM_TIM_A_SEC. -/
def Reg.timDomSec (d : Nat) : Nat := 0x80100 + 0x100 * d
def Fld.timDomSec.sec (d : Nat) : Fld := .mk (Reg.timDomSec d) 0 64
/-- CGM_TIM_A_NS. -/
def Reg.timDomNs (d : Nat) : Nat := 0x80108 + 0x100 * d
def Fld.timDomNs.ns (d : Nat) : Fld := .mk (Reg.timDomNs d) 0 30
def Fld.timDomNs.frac (d : Nat) : Fld := .mk (Reg.timDomNs d) 32 16
/-- CGM_TIM_A_INC. -/
def Reg.timDomInc (d : Nat) : Nat := 0x80110 + 0x100 * d
def Fld.timDomInc.frac (d : Nat) : Fld := .mk (Reg.timDomInc d) 0 32
def Fld.timDomInc.ns (d : Nat) : Fld := .mk (Reg.timDomInc d) 32 8
/-- CGM_TIM_A_SET_SEC. -/
def Reg.timDomSetSec (d : Nat) : Nat := 0x80118 + 0x100 * d
def Fld.timDomSetSec.sec (d : Nat) : Fld := .mk (Reg.timDomSetSec d) 0 64
/-- CGM_TIM_A_SET_NS. -/
def Reg.timDomSetNs (d : Nat) : Nat := 0x80120 + 0x100 * d
def Fld.timDomSetNs.ns (d : Nat) : Fld := .mk (Reg.timDomSetNs d) 0 30
/-- CGM_TIM_A_OFFSET. -/
def Reg.timDomOffset (d : Nat) : Nat := 0x80128 + 0x100 * d
def Fld.timDomOffset.offset (d : Nat) : Fld := .mk (Reg.timDomOffset d) 0 64
/-- CGM_TIM_A_CMD. -/
def Reg.timDomCmd (d : Nat) : Nat := 0x80130 + 0x100 * d
def Fld.timDomCmd.cmd (d : Nat) : Fld := .mk (Reg.timDomCmd d) 0 2
/-- CGM_TIM_LNK0_DELAY. -/
def Reg.timLnkDelay (n : Nat) : Nat := 0x81000 + 0x8 * n
def Fld.timLnkDelay.rxPs (n : Nat) : Fld := .mk (Reg.timLnkDelay n) 0 16
def Fld.timLnkDelay.txPs (n : Nat) : Fld := .mk (Reg.timLnkDelay n) 16 16
/-- CGM_CMD_CTRL. -/
def Reg.cmdCtrl : Nat := 0x90000
def Fld.cmdCtrl.enable : Fld := .mk Reg.cmdCtrl 0 1
def Fld.cmdCtrl.relayQp : Fld := .mk Reg.cmdCtrl 1 3
def Fld.cmdCtrl.relayEn : Fld := .mk Reg.cmdCtrl 4 1
/-- CGM_CMD_DATA_WIN. -/
def Reg.cmdDataWin : Nat := 0x90008
def Fld.cmdDataWin.base : Fld := .mk Reg.cmdDataWin 12 36
/-- CGM_CMD_DATA_WIN_SIZE. -/
def Reg.cmdDataWinSize : Nat := 0x90010
def Fld.cmdDataWinSize.size : Fld := .mk Reg.cmdDataWinSize 0 36
/-- CGM_CMD_STATUS. -/
def Reg.cmdStatus : Nat := 0x90018
def Fld.cmdStatus.hummock : Fld := .mk Reg.cmdStatus 0 1
def Fld.cmdStatus.halted : Fld := .mk Reg.cmdStatus 1 1
def Fld.cmdStatus.contextsBusy : Fld := .mk Reg.cmdStatus 2 8
def Fld.cmdStatus.locksUsed : Fld := .mk Reg.cmdStatus 10 13
def Fld.cmdStatus.rewritePending : Fld := .mk Reg.cmdStatus 23 1
/-- CGM_CMD_ERR_STATUS. -/
def Reg.cmdErrStatus : Nat := 0x90020
def Fld.cmdErrStatus.sqOverflow : Fld := .mk Reg.cmdErrStatus 0 1
def Fld.cmdErrStatus.pushBusy : Fld := .mk Reg.cmdErrStatus 1 1
def Fld.cmdErrStatus.relayFailed : Fld := .mk Reg.cmdErrStatus 2 1
def Fld.cmdErrStatus.ringInvalid : Fld := .mk Reg.cmdErrStatus 3 1
/-- CGM_CMD_COUNTS. -/
def Reg.cmdCounts : Nat := 0x90028
def Fld.cmdCounts.commands : Fld := .mk Reg.cmdCounts 0 32
def Fld.cmdCounts.errors : Fld := .mk Reg.cmdCounts 32 16
def Fld.cmdCounts.lockWaits : Fld := .mk Reg.cmdCounts 48 16
/-- CGM_CMD_Q0_CFG. -/
def Reg.cmdQCfg (q : Nat) : Nat := 0x91000 + 0x200 * q
def Fld.cmdQCfg.enable (q : Nat) : Fld := .mk (Reg.cmdQCfg q) 0 1
def Fld.cmdQCfg.admin (q : Nat) : Fld := .mk (Reg.cmdQCfg q) 1 1
def Fld.cmdQCfg.sqSize (q : Nat) : Fld := .mk (Reg.cmdQCfg q) 2 12
def Fld.cmdQCfg.cqSize (q : Nat) : Fld := .mk (Reg.cmdQCfg q) 14 12
def Fld.cmdQCfg.irqVec (q : Nat) : Fld := .mk (Reg.cmdQCfg q) 26 3
def Fld.cmdQCfg.irqEn (q : Nat) : Fld := .mk (Reg.cmdQCfg q) 29 1
/-- CGM_CMD_Q0_SQ_BASE. -/
def Reg.cmdQSqBase (q : Nat) : Nat := 0x91008 + 0x200 * q
def Fld.cmdQSqBase.base (q : Nat) : Fld := .mk (Reg.cmdQSqBase q) 6 42
/-- CGM_CMD_Q0_CQ_BASE. -/
def Reg.cmdQCqBase (q : Nat) : Nat := 0x91010 + 0x200 * q
def Fld.cmdQCqBase.base (q : Nat) : Fld := .mk (Reg.cmdQCqBase q) 6 42
/-- CGM_CMD_Q0_SQ_TAIL. -/
def Reg.cmdQSqTail (q : Nat) : Nat := 0x91018 + 0x200 * q
def Fld.cmdQSqTail.tail (q : Nat) : Fld := .mk (Reg.cmdQSqTail q) 0 12
/-- CGM_CMD_Q0_CQ_HEAD. -/
def Reg.cmdQCqHead (q : Nat) : Nat := 0x91020 + 0x200 * q
def Fld.cmdQCqHead.head (q : Nat) : Fld := .mk (Reg.cmdQCqHead q) 0 12
/-- CGM_CMD_Q0_STATUS. -/
def Reg.cmdQStatus (q : Nat) : Nat := 0x91028 + 0x200 * q
def Fld.cmdQStatus.state (q : Nat) : Fld := .mk (Reg.cmdQStatus q) 0 3
def Fld.cmdQStatus.sqHead (q : Nat) : Fld := .mk (Reg.cmdQStatus q) 3 12
def Fld.cmdQStatus.cqTail (q : Nat) : Fld := .mk (Reg.cmdQStatus q) 15 12
def Fld.cmdQStatus.phase (q : Nat) : Fld := .mk (Reg.cmdQStatus q) 27 1
def Fld.cmdQStatus.inFlight (q : Nat) : Fld := .mk (Reg.cmdQStatus q) 28 9
/-- CGM_CMD_Q0_COALESCE. -/
def Reg.cmdQCoalesce (q : Nat) : Nat := 0x91030 + 0x200 * q
def Fld.cmdQCoalesce.count (q : Nat) : Fld := .mk (Reg.cmdQCoalesce q) 0 12
def Fld.cmdQCoalesce.timeUs (q : Nat) : Fld := .mk (Reg.cmdQCoalesce q) 12 20
def Fld.cmdQCoalesce.notifyObj (q : Nat) : Fld := .mk (Reg.cmdQCoalesce q) 32 10
def Fld.cmdQCoalesce.notifyKind (q : Nat) : Fld := .mk (Reg.cmdQCoalesce q) 42 2
/-- CGM_CMD_Q0_RESET. -/
def Reg.cmdQReset (q : Nat) : Nat := 0x91038 + 0x200 * q
def Fld.cmdQReset.reset (q : Nat) : Fld := .mk (Reg.cmdQReset q) 0 1
/-- CGM_CMD_Q0_PUSH_STATUS. -/
def Reg.cmdQPushStatus (q : Nat) : Nat := 0x91040 + 0x200 * q
def Fld.cmdQPushStatus.busy (q : Nat) : Fld := .mk (Reg.cmdQPushStatus q) 0 4
/-- CGM_CMD_Q0_PUSH0_W0. -/
def Reg.cmdQPush (q : Nat) (slot : Nat) (k : Nat) : Nat := 0x91100 + 0x200 * q + 0x40 * slot + 0x8 * k
def Fld.cmdQPush.word (q : Nat) (slot : Nat) (k : Nat) : Fld := .mk (Reg.cmdQPush q slot k) 0 64
/-- CGM_CHK_STATUS. -/
def Reg.chkStatus : Nat := 0xA0000
def Fld.chkStatus.laneBusy : Fld := .mk Reg.chkStatus 0 32
def Fld.chkStatus.lanesFelting : Fld := .mk Reg.chkStatus 32 6
def Fld.chkStatus.laneWaiters : Fld := .mk Reg.chkStatus 38 7
/-- CGM_CHK_SCAN_STATUS. -/
def Reg.chkScanStatus : Nat := 0xA0008
def Fld.chkScanStatus.ctxBusy : Fld := .mk Reg.chkScanStatus 0 64
/-- CGM_CHK_ERR_STATUS. -/
def Reg.chkErrStatus : Nat := 0xA0010
def Fld.chkErrStatus.scanMismatch : Fld := .mk Reg.chkErrStatus 0 1
def Fld.chkErrStatus.scanWindow : Fld := .mk Reg.chkErrStatus 1 1
def Fld.chkErrStatus.padInvalid : Fld := .mk Reg.chkErrStatus 2 1
def Fld.chkErrStatus.memUe : Fld := .mk Reg.chkErrStatus 3 1
/-- CGM_CHK_COUNTS. -/
def Reg.chkCounts : Nat := 0xA0018
def Fld.chkCounts.laneWaits : Fld := .mk Reg.chkCounts 0 32
def Fld.chkCounts.mismatches : Fld := .mk Reg.chkCounts 32 32
/-- CGM_CHK_SCAN0_ADDR. -/
def Reg.chkEngAddr (n : Nat) : Nat := 0xA1000 + 0x40 * n
def Fld.chkEngAddr.addr (n : Nat) : Fld := .mk (Reg.chkEngAddr n) 0 48
/-- CGM_CHK_SCAN0_LEN. -/
def Reg.chkEngLen (n : Nat) : Nat := 0xA1008 + 0x40 * n
def Fld.chkEngLen.len (n : Nat) : Fld := .mk (Reg.chkEngLen n) 0 48
/-- CGM_CHK_SCAN0_CTRL. -/
def Reg.chkEngCtrl (n : Nat) : Nat := 0xA1010 + 0x40 * n
def Fld.chkEngCtrl.start (n : Nat) : Fld := .mk (Reg.chkEngCtrl n) 0 1
def Fld.chkEngCtrl.poly (n : Nat) : Fld := .mk (Reg.chkEngCtrl n) 1 2
def Fld.chkEngCtrl.cont (n : Nat) : Fld := .mk (Reg.chkEngCtrl n) 3 1
def Fld.chkEngCtrl.compareEn (n : Nat) : Fld := .mk (Reg.chkEngCtrl n) 4 1
def Fld.chkEngCtrl.irqMode (n : Nat) : Fld := .mk (Reg.chkEngCtrl n) 5 2
def Fld.chkEngCtrl.irqVec (n : Nat) : Fld := .mk (Reg.chkEngCtrl n) 7 3
/-- CGM_CHK_SCAN0_EXPECT. -/
def Reg.chkEngExpect (n : Nat) : Nat := 0xA1018 + 0x40 * n
def Fld.chkEngExpect.expect (n : Nat) : Fld := .mk (Reg.chkEngExpect n) 0 64
/-- CGM_CHK_SCAN0_RESULT. -/
def Reg.chkEngResult (n : Nat) : Nat := 0xA1020 + 0x40 * n
def Fld.chkEngResult.result (n : Nat) : Fld := .mk (Reg.chkEngResult n) 0 64
/-- CGM_CHK_SCAN0_STATUS. -/
def Reg.chkEngStatus (n : Nat) : Nat := 0xA1028 + 0x40 * n
def Fld.chkEngStatus.busy (n : Nat) : Fld := .mk (Reg.chkEngStatus n) 0 1
def Fld.chkEngStatus.done (n : Nat) : Fld := .mk (Reg.chkEngStatus n) 1 1
def Fld.chkEngStatus.lastStatus (n : Nat) : Fld := .mk (Reg.chkEngStatus n) 16 16
/-- CGM_CTL_ID. -/
def Reg.ctlId : Nat := 0x00000
def Fld.ctlId.siliconRev : Fld := .mk Reg.ctlId 0 16
def Fld.ctlId.stacks : Fld := .mk Reg.ctlId 16 5
def Fld.ctlId.dies : Fld := .mk Reg.ctlId 21 2
def Fld.ctlId.slices : Fld := .mk Reg.ctlId 23 6
/-- CGM_CTL_SERIAL. -/
def Reg.ctlSerial : Nat := 0x00008
def Fld.ctlSerial.serial : Fld := .mk Reg.ctlSerial 0 64
/-- CGM_CTL_RESET. -/
def Reg.ctlReset : Nat := 0x00010
def Fld.ctlReset.engine : Fld := .mk Reg.ctlReset 0 1
def Fld.ctlReset.activate : Fld := .mk Reg.ctlReset 1 1
def Fld.ctlReset.quiescing : Fld := .mk Reg.ctlReset 2 1
def Fld.ctlReset.cause : Fld := .mk Reg.ctlReset 8 4
/-- CGM_CTL_BOOT_REASON. -/
def Reg.ctlBootReason : Nat := 0x00018
def Fld.ctlBootReason.source : Fld := .mk Reg.ctlBootReason 0 4
def Fld.ctlBootReason.hummock : Fld := .mk Reg.ctlBootReason 4 1
def Fld.ctlBootReason.failCount : Fld := .mk Reg.ctlBootReason 5 2
def Fld.ctlBootReason.failCause : Fld := .mk Reg.ctlBootReason 8 4
def Fld.ctlBootReason.slot : Fld := .mk Reg.ctlBootReason 12 1
def Fld.ctlBootReason.fallback : Fld := .mk Reg.ctlBootReason 13 1
def Fld.ctlBootReason.thermalHold : Fld := .mk Reg.ctlBootReason 14 1
/-- CGM_CTL_FW_STATUS. -/
def Reg.ctlFwStatus : Nat := 0x00020
def Fld.ctlFwStatus.marked : Fld := .mk Reg.ctlFwStatus 0 1
def Fld.ctlFwStatus.aValid : Fld := .mk Reg.ctlFwStatus 1 1
def Fld.ctlFwStatus.bValid : Fld := .mk Reg.ctlFwStatus 2 1
def Fld.ctlFwStatus.startOk : Fld := .mk Reg.ctlFwStatus 3 1
def Fld.ctlFwStatus.svn : Fld := .mk Reg.ctlFwStatus 8 16
def Fld.ctlFwStatus.floor : Fld := .mk Reg.ctlFwStatus 24 7
def Fld.ctlFwStatus.startUs : Fld := .mk Reg.ctlFwStatus 32 32
/-- CGM_CTL_ALERT_STATUS. -/
def Reg.ctlAlertStatus : Nat := 0x00430
def Fld.ctlAlertStatus.corner : Fld := .mk Reg.ctlAlertStatus 0 1
def Fld.ctlAlertStatus.red : Fld := .mk Reg.ctlAlertStatus 1 1
def Fld.ctlAlertStatus.ful : Fld := .mk Reg.ctlAlertStatus 2 1
def Fld.ctlAlertStatus.tier : Fld := .mk Reg.ctlAlertStatus 3 1
def Fld.ctlAlertStatus.peat : Fld := .mk Reg.ctlAlertStatus 4 1
def Fld.ctlAlertStatus.syn : Fld := .mk Reg.ctlAlertStatus 5 1
def Fld.ctlAlertStatus.cmd : Fld := .mk Reg.ctlAlertStatus 6 1
def Fld.ctlAlertStatus.chk : Fld := .mk Reg.ctlAlertStatus 7 1
def Fld.ctlAlertStatus.ctl : Fld := .mk Reg.ctlAlertStatus 8 1
def Fld.ctlAlertStatus.board : Fld := .mk Reg.ctlAlertStatus 9 1
/-- CGM_CTL_ALERT_MASK. -/
def Reg.ctlAlertMask : Nat := 0x00438
def Fld.ctlAlertMask.mask : Fld := .mk Reg.ctlAlertMask 0 10
/-- CGM_CTL_ERR_STATUS. -/
def Reg.ctlErrStatus : Nat := 0x00440
def Fld.ctlErrStatus.accessErr : Fld := .mk Reg.ctlErrStatus 0 1
def Fld.ctlErrStatus.eccCorr : Fld := .mk Reg.ctlErrStatus 1 1
def Fld.ctlErrStatus.eccUe : Fld := .mk Reg.ctlErrStatus 2 1
def Fld.ctlErrStatus.coreWd : Fld := .mk Reg.ctlErrStatus 3 1
def Fld.ctlErrStatus.mbistRepair : Fld := .mk Reg.ctlErrStatus 4 1
def Fld.ctlErrStatus.fwStore : Fld := .mk Reg.ctlErrStatus 5 1
def Fld.ctlErrStatus.roleChange : Fld := .mk Reg.ctlErrStatus 6 1
def Fld.ctlErrStatus.logLost : Fld := .mk Reg.ctlErrStatus 7 1
/-- CGM_CTL_BOARD_STATUS. -/
def Reg.ctlBoardStatus : Nat := 0x00448
def Fld.ctlBoardStatus.pfailN : Fld := .mk Reg.ctlBoardStatus 0 1
def Fld.ctlBoardStatus.holdupOk : Fld := .mk Reg.ctlBoardStatus 1 1
def Fld.ctlBoardStatus.holdupLow : Fld := .mk Reg.ctlBoardStatus 2 1
def Fld.ctlBoardStatus.pfailSeen : Fld := .mk Reg.ctlBoardStatus 3 1
def Fld.ctlBoardStatus.pfailCleared : Fld := .mk Reg.ctlBoardStatus 4 1
/-- CGM_CTL_ECC_COUNTS. -/
def Reg.ctlEccCounts : Nat := 0x00450
def Fld.ctlEccCounts.corrected : Fld := .mk Reg.ctlEccCounts 0 32
def Fld.ctlEccCounts.uncorrectable : Fld := .mk Reg.ctlEccCounts 32 16
def Fld.ctlEccCounts.threshold : Fld := .mk Reg.ctlEccCounts 48 16
/-- CGM_CTL_ERRLOG. -/
def Reg.ctlErrlog : Nat := 0x00458
def Fld.ctlErrlog.head : Fld := .mk Reg.ctlErrlog 0 16
def Fld.ctlErrlog.lost : Fld := .mk Reg.ctlErrlog 16 16
/-- CGM_CTL_ELECT. -/
def Reg.ctlElect : Nat := 0x00460
def Fld.ctlElect.electPrio : Fld := .mk Reg.ctlElect 0 16
def Fld.ctlElect.eligible : Fld := .mk Reg.ctlElect 16 1
def Fld.ctlElect.role : Fld := .mk Reg.ctlElect 17 2
def Fld.ctlElect.wardenPos : Fld := .mk Reg.ctlElect 19 7
def Fld.ctlElect.election : Fld := .mk Reg.ctlElect 26 16
/-- CGM_CTL_RACK_PLAN. -/
def Reg.ctlRackPlan : Nat := 0x00468
def Fld.ctlRackPlan.base : Fld := .mk Reg.ctlRackPlan 20 28

/-- Register rows, part 0. -/
def regRows0 : List RegRow := [
  .mk 0x00000 8 [.mk 0 16 .ro, .mk 16 5 .ro, .mk 21 2 .ro, .mk 23 6 .ro],
  .mk 0x00008 8 [.mk 0 64 .ro],
  .mk 0x00010 4 [.mk 0 1 .wo, .mk 1 1 .wo, .mk 2 1 .ro, .mk 8 4 .ro],
  .mk 0x00018 4 [.mk 0 4 .ro, .mk 4 1 .ro, .mk 5 2 .ro, .mk 8 4 .ro, .mk 12 1 .ro, .mk 13 1 .ro, .mk 14 1 .ro],
  .mk 0x00020 8 [.mk 0 1 .ro, .mk 1 1 .ro, .mk 2 1 .ro, .mk 3 1 .ro, .mk 8 16 .ro, .mk 24 7 .ro, .mk 32 32 .ro],
  .mk 0x00400 4 [.mk 0 2 .rw, .mk 16 12 .rw],
  .mk 0x00408 4 [.mk 0 12 .rw, .mk 12 10 .rw, .mk 22 10 .rw],
  .mk 0x00410 8 [.mk 0 12 .ro, .mk 12 4 .ro, .mk 16 12 .ro, .mk 28 10 .ro, .mk 38 11 .ro, .mk 49 3 .ro, .mk 52 12 .ro],
  .mk 0x00418 4 [.mk 0 12 .rc, .mk 12 10 .rc, .mk 22 10 .rc],
  .mk 0x00420 4 [.mk 0 1 .ro, .mk 1 1 .w1c, .mk 2 1 .w1c, .mk 3 1 .w1c, .mk 4 1 .w1c, .mk 5 1 .w1c, .mk 6 1 .ro, .mk 7 1 .w1c, .mk 16 16 .rc],
  .mk 0x00428 8 [.mk 0 32 .rc, .mk 32 32 .rc],
  .mk 0x00430 4 [.mk 0 1 .ro, .mk 1 1 .ro, .mk 2 1 .ro, .mk 3 1 .ro, .mk 4 1 .ro, .mk 5 1 .ro, .mk 6 1 .ro, .mk 7 1 .ro, .mk 8 1 .ro, .mk 9 1 .ro],
  .mk 0x00438 4 [.mk 0 10 .rw],
  .mk 0x00440 4 [.mk 0 1 .w1c, .mk 1 1 .w1c, .mk 2 1 .w1c, .mk 3 1 .w1c, .mk 4 1 .w1c, .mk 5 1 .w1c, .mk 6 1 .w1c, .mk 7 1 .w1c],
  .mk 0x00448 4 [.mk 0 1 .ro, .mk 1 1 .ro, .mk 2 1 .ro, .mk 3 1 .w1c, .mk 4 1 .w1c],
  .mk 0x00450 8 [.mk 0 32 .rc, .mk 32 16 .rc, .mk 48 16 .rw],
  .mk 0x00458 8 [.mk 0 16 .ro, .mk 16 16 .rc],
  .mk 0x00460 8 [.mk 0 16 .rw, .mk 16 1 .rw, .mk 17 2 .ro, .mk 19 7 .ro, .mk 26 16 .ro],
  .mk 0x00468 8 [.mk 20 28 .rw],
  .mk 0x10000 4 [.mk 0 1 .rw, .mk 1 1 .rw, .mk 2 5 .rw, .mk 7 6 .rw],
  .mk 0x10008 8 [.mk 0 64 .rw],
  .mk 0x10010 8 [.mk 0 20 .rw, .mk 20 20 .rw, .mk 40 12 .rw],
  .mk 0x10018 8 [.mk 12 36 .rw],
  .mk 0x10020 4 [.mk 0 1 .w1c, .mk 1 1 .w1c, .mk 2 1 .w1c, .mk 3 1 .w1c, .mk 4 1 .w1c, .mk 5 1 .w1c, .mk 6 1 .w1c, .mk 7 1 .w1c]]

/-- Register rows, part 1. -/
def regRows1 : List RegRow := [
  .mk 0x10028 8 [.mk 0 48 .ro, .mk 48 5 .ro, .mk 63 1 .rc],
  .mk 0x10030 4 [.mk 0 32 .ro],
  .mk 0x10038 8 [.mk 0 32 .rc, .mk 32 32 .rc],
  .mk 0x10040 8 [.mk 0 21 .ro, .mk 21 21 .ro, .mk 42 22 .rc],
  .mk 0x11000 8 [.mk 0 1 .rw, .mk 1 1 .rw, .mk 2 7 .rw, .mk 9 6 .rw, .mk 15 7 .rw, .mk 22 7 .rw, .mk 29 11 .rw, .mk 40 10 .rw, .mk 50 7 .rw],
  .mk 0x11008 8 [.mk 0 36 .rw, .mk 36 6 .rw],
  .mk 0x11010 8 [.mk 0 4 .rw, .mk 6 42 .rw],
  .mk 0x11018 4 [.mk 0 9 .rw, .mk 16 9 .rw],
  .mk 0x11020 4 [.mk 0 1 .rw, .mk 1 16 .rw],
  .mk 0x11028 4 [.mk 0 1 .rw, .mk 1 7 .rw],
  .mk 0x11030 8 [.mk 0 2 .rw, .mk 2 17 .rw, .mk 19 17 .rw, .mk 36 17 .rw],
  .mk 0x11038 8 [.mk 0 32 .ro, .mk 32 3 .ro, .mk 48 16 .ro],
  .mk 0x20000 4 [.mk 0 1 .rw],
  .mk 0x20008 4 [.mk 0 1 .ro, .mk 1 1 .ro, .mk 2 1 .ro, .mk 3 3 .ro, .mk 6 1 .w1c],
  .mk 0x20010 8 [.mk 0 18 .rc, .mk 18 18 .rc, .mk 36 14 .rc],
  .mk 0x20018 8 [.mk 0 32 .rc, .mk 32 16 .rc, .mk 48 16 .rc],
  .mk 0x20020 8 [.mk 0 48 .rc, .mk 48 16 .rc],
  .mk 0x30000 4 [.mk 0 1 .rw, .mk 1 4 .rw],
  .mk 0x30008 8 [.mk 0 64 .rw],
  .mk 0x30010 4 [.mk 0 20 .rw],
  .mk 0x30018 8 [.mk 0 64 .rw],
  .mk 0x30020 8 [.mk 0 32 .ro, .mk 32 1 .ro, .mk 33 1 .ro],
  .mk 0x30028 8 [.mk 0 64 .ro],
  .mk 0x30030 8 [.mk 0 64 .ro]]

/-- Register rows, part 2. -/
def regRows2 : List RegRow := [
  .mk 0x30038 4 [.mk 0 1 .w1c, .mk 1 1 .w1c, .mk 2 1 .w1c, .mk 3 1 .w1c, .mk 4 1 .w1c, .mk 5 1 .w1c],
  .mk 0x30040 8 [.mk 0 48 .ro, .mk 48 2 .ro, .mk 63 1 .rc],
  .mk 0x30048 4 [.mk 0 32 .ro],
  .mk 0x30050 8 [.mk 0 32 .rc, .mk 32 32 .rc],
  .mk 0x30080 4 [.mk 0 4 .rw, .mk 4 3 .wo, .mk 8 4 .ro, .mk 16 4 .ro],
  .mk 0x30088 4 [.mk 0 32 .wo],
  .mk 0x30090 4 [.mk 0 16 .ro, .mk 16 16 .ro],
  .mk 0x31000 8 [.mk 0 1 .rw, .mk 1 4 .rw, .mk 6 42 .rw],
  .mk 0x31008 4 [.mk 0 9 .rw, .mk 16 9 .rw],
  .mk 0x31010 8 [.mk 0 32 .ro, .mk 32 3 .ro, .mk 48 16 .ro],
  .mk 0x32000 8 [.mk 0 1 .rw, .mk 1 2 .rw, .mk 3 1 .ro, .mk 4 5 .ro, .mk 32 18 .ro],
  .mk 0x40000 4 [.mk 0 1 .rw, .mk 1 1 .rw, .mk 2 1 .rw],
  .mk 0x40008 8 [.mk 0 7 .rw, .mk 8 6 .rw, .mk 16 13 .rw],
  .mk 0x40010 8 [.mk 0 36 .rw, .mk 36 6 .rw],
  .mk 0x40018 8 [.mk 0 32 .rw, .mk 32 10 .rw, .mk 42 7 .rw],
  .mk 0x40020 8 [.mk 0 64 .rw],
  .mk 0x40028 8 [.mk 5 43 .rw],
  .mk 0x40030 8 [.mk 0 10 .rw, .mk 10 7 .rw, .mk 17 2 .rw, .mk 19 1 .rw],
  .mk 0x40038 8 [.mk 26 22 .rw, .mk 48 14 .rw],
  .mk 0x40040 8 [.mk 0 1 .rw, .mk 1 10 .rw, .mk 11 7 .rw, .mk 18 13 .rw, .mk 31 18 .rw],
  .mk 0x40060 8 [.mk 0 32 .ro, .mk 32 14 .ro],
  .mk 0x40068 8 [.mk 0 32 .rc, .mk 32 16 .rc],
  .mk 0x40070 8 [.mk 21 27 .rw],
  .mk 0x40078 8 [.mk 0 18 .ro, .mk 32 32 .rc]]

/-- Register rows, part 3. -/
def regRows3 : List RegRow := [
  .mk 0x40080 4 [.mk 0 1 .w1c, .mk 1 1 .w1c, .mk 2 1 .w1c, .mk 3 1 .w1c],
  .mk 0x48000 4 [.mk 0 1 .rw, .mk 1 1 .rw, .mk 2 5 .rw, .mk 7 6 .rw],
  .mk 0x48008 8 [.mk 12 36 .rw],
  .mk 0x48010 8 [.mk 12 36 .rw],
  .mk 0x48018 8 [.mk 0 48 .rw],
  .mk 0x48020 8 [.mk 6 42 .rw, .mk 48 16 .rw],
  .mk 0x48028 8 [.mk 12 36 .rw],
  .mk 0x48030 8 [.mk 14 34 .rw],
  .mk 0x48038 4 [.mk 0 2 .rw, .mk 8 5 .ro],
  .mk 0x48040 8 [.mk 0 1 .rw, .mk 1 4 .rw, .mk 6 42 .rw],
  .mk 0x48048 8 [.mk 0 9 .rw, .mk 16 9 .rw, .mk 32 9 .rw, .mk 48 9 .rw],
  .mk 0x48050 8 [.mk 0 2 .rw, .mk 2 17 .rw, .mk 19 17 .rw, .mk 36 17 .rw],
  .mk 0x48058 8 [.mk 0 20 .rw, .mk 20 20 .rw],
  .mk 0x48060 4 [.mk 0 8 .rw],
  .mk 0x48068 8 [.mk 0 32 .ro, .mk 32 2 .ro, .mk 34 3 .ro, .mk 37 3 .ro, .mk 48 16 .ro],
  .mk 0x48070 8 [.mk 0 64 .ro],
  .mk 0x48078 4 [.mk 0 8 .ro, .mk 8 1 .ro, .mk 9 1 .ro, .mk 10 1 .ro],
  .mk 0x48080 4 [.mk 0 1 .w1c, .mk 1 1 .w1c, .mk 2 1 .w1c, .mk 3 1 .w1c, .mk 4 1 .w1c, .mk 5 1 .w1c, .mk 6 1 .w1c],
  .mk 0x48088 8 [.mk 0 16 .rc, .mk 16 16 .rc, .mk 32 16 .rc, .mk 48 16 .rc],
  .mk 0x49000 4 [.mk 0 8 .rw, .mk 8 4 .rw, .mk 12 8 .rw],
  .mk 0x49008 8 [.mk 0 10 .rw, .mk 10 1 .rw, .mk 11 5 .rw, .mk 16 5 .rw, .mk 21 6 .rw, .mk 27 8 .rw, .mk 35 1 .rw],
  .mk 0x49010 8 [.mk 6 42 .rw],
  .mk 0x49018 8 [.mk 0 4 .ro, .mk 4 2 .ro, .mk 6 1 .ro, .mk 8 16 .ro, .mk 24 3 .ro, .mk 48 16 .ro],
  .mk 0x49020 8 [.mk 0 64 .ro]]

/-- Register rows, part 4. -/
def regRows4 : List RegRow := [
  .mk 0x49028 4 [.mk 0 8 .ro, .mk 8 1 .ro, .mk 9 1 .ro],
  .mk 0x49030 4 [.mk 0 1 .w1c, .mk 1 1 .w1c, .mk 2 1 .w1c, .mk 3 1 .w1c, .mk 4 1 .w1c, .mk 5 1 .w1c, .mk 6 1 .w1c, .mk 7 1 .w1c, .mk 8 1 .w1c],
  .mk 0x49038 8 [.mk 0 16 .rc, .mk 16 16 .rc, .mk 32 16 .rc, .mk 48 16 .rc],
  .mk 0x49040 8 [.mk 0 4 .ro, .mk 4 4 .ro, .mk 8 4 .ro, .mk 12 6 .ro, .mk 32 32 .rc],
  .mk 0x50000 4 [.mk 0 1 .rw, .mk 1 1 .rw, .mk 2 1 .wo],
  .mk 0x50008 8 [.mk 0 4 .rw, .mk 4 8 .rw, .mk 12 5 .rw, .mk 17 6 .rw, .mk 23 1 .rw, .mk 24 4 .rw, .mk 28 20 .rw],
  .mk 0x50010 4 [.mk 0 1 .ro, .mk 1 3 .ro, .mk 4 4 .ro, .mk 8 1 .ro, .mk 9 1 .ro],
  .mk 0x50018 8 [.mk 0 3 .ro, .mk 3 3 .ro, .mk 6 1 .ro, .mk 7 1 .ro, .mk 8 8 .ro, .mk 16 48 .ro],
  .mk 0x50020 8 [.mk 0 24 .ro, .mk 24 24 .ro],
  .mk 0x50028 8 [.mk 0 48 .ro],
  .mk 0x50030 8 [.mk 0 64 .ro],
  .mk 0x50038 8 [.mk 0 64 .ro],
  .mk 0x50040 8 [.mk 0 48 .rw, .mk 48 1 .rw, .mk 49 1 .w1s],
  .mk 0x50060 8 [.mk 0 8 .ro, .mk 8 3 .ro, .mk 11 1 .ro, .mk 12 8 .ro, .mk 32 32 .rc],
  .mk 0x50068 4 [.mk 0 1 .w1c, .mk 1 1 .w1c, .mk 2 1 .w1c, .mk 3 1 .w1c, .mk 4 1 .w1c, .mk 5 1 .w1c, .mk 6 1 .w1c, .mk 7 1 .w1c],
  .mk 0x50070 8 [.mk 0 48 .ro],
  .mk 0x60000 4 [.mk 0 4 .rw, .mk 4 2 .rw, .mk 6 7 .rw, .mk 13 3 .wo, .mk 16 4 .ro],
  .mk 0x60008 8 [.mk 0 64 .wo],
  .mk 0x60010 8 [.mk 0 16 .ro, .mk 16 32 .ro],
  .mk 0x60018 8 [.mk 0 64 .ro],
  .mk 0x70000 4 [.mk 0 1 .rw, .mk 1 1 .rw, .mk 2 1 .ro],
  .mk 0x70008 4 [.mk 0 10 .wo, .mk 10 2 .wo],
  .mk 0x70010 8 [.mk 0 9 .wo, .mk 16 32 .wo],
  .mk 0x70018 8 [.mk 0 9 .wo, .mk 16 32 .wo]]

/-- Register rows, part 5. -/
def regRows5 : List RegRow := [
  .mk 0x70020 8 [.mk 0 16 .wo, .mk 16 10 .wo, .mk 26 2 .wo, .mk 32 16 .wo, .mk 48 16 .ro],
  .mk 0x70028 4 [.mk 0 1 .w1c, .mk 1 1 .w1c, .mk 2 1 .w1c, .mk 3 1 .w1c, .mk 4 1 .w1c, .mk 5 1 .w1c, .mk 6 1 .w1c, .mk 7 1 .w1c, .mk 8 1 .w1c],
  .mk 0x70030 8 [.mk 0 16 .ro, .mk 16 10 .ro, .mk 26 2 .ro, .mk 28 1 .ro, .mk 63 1 .rc],
  .mk 0x70038 8 [.mk 0 16 .rc, .mk 16 16 .rc, .mk 32 16 .rc, .mk 48 16 .rc],
  .mk 0x70040 8 [.mk 0 3 .wo, .mk 3 3 .ro, .mk 6 42 .rw],
  .mk 0x70048 8 [.mk 9 39 .rw],
  .mk 0x70050 8 [.mk 10 38 .rw],
  .mk 0x70058 4 [.mk 0 7 .rw, .mk 7 1 .rw],
  .mk 0x70060 8 [.mk 12 36 .rw],
  .mk 0x70068 8 [.mk 0 36 .rw, .mk 36 20 .rw],
  .mk 0x71000 8 [.mk 0 64 .ro],
  .mk 0x71080 8 [.mk 0 64 .w1c],
  .mk 0x72000 8 [.mk 0 1 .w1s, .mk 1 1 .rw, .mk 2 10 .rw, .mk 12 1 .rw, .mk 13 16 .rw, .mk 29 20 .rw],
  .mk 0x73000 8 [.mk 0 1 .rw, .mk 1 20 .rw, .mk 21 10 .rw, .mk 31 1 .rw, .mk 32 9 .rw, .mk 41 1 .rw],
  .mk 0x73008 8 [.mk 0 64 .rw],
  .mk 0x73010 8 [.mk 0 64 .rw],
  .mk 0x73018 8 [.mk 0 64 .rw],
  .mk 0x73020 8 [.mk 0 64 .rw],
  .mk 0x73028 8 [.mk 0 1 .wo, .mk 1 3 .ro, .mk 16 16 .ro, .mk 32 32 .ro],
  .mk 0x73030 8 [.mk 0 64 .ro],
  .mk 0x73038 8 [.mk 0 64 .ro],
  .mk 0x73500 4 [.mk 0 2 .rw, .mk 2 6 .rw, .mk 8 7 .rw, .mk 15 10 .rw],
  .mk 0x74000 8 [.mk 0 48 .ro],
  .mk 0x74008 8 [.mk 0 48 .ro]]

/-- Register rows, part 6. -/
def regRows6 : List RegRow := [
  .mk 0x74010 8 [.mk 0 32 .rw, .mk 32 32 .ro],
  .mk 0x74018 8 [.mk 0 48 .wo],
  .mk 0x80000 4 [.mk 0 1 .ro, .mk 1 1 .w1s, .mk 2 1 .ro, .mk 3 1 .ro, .mk 4 1 .rw, .mk 16 16 .rc],
  .mk 0x80010 8 [.mk 12 36 .rw, .mk 48 4 .rw],
  .mk 0x80018 8 [.mk 0 48 .ro],
  .mk 0x80020 4 [.mk 0 6 .wo, .mk 6 7 .wo, .mk 13 10 .wo, .mk 23 8 .wo],
  .mk 0x80100 8 [.mk 0 64 .ro],
  .mk 0x80108 8 [.mk 0 30 .ro, .mk 32 16 .ro],
  .mk 0x80110 8 [.mk 0 32 .rw, .mk 32 8 .rw],
  .mk 0x80118 8 [.mk 0 64 .rw],
  .mk 0x80120 4 [.mk 0 30 .rw],
  .mk 0x80128 8 [.mk 0 64 .rw],
  .mk 0x80130 4 [.mk 0 2 .wo],
  .mk 0x81000 4 [.mk 0 16 .rw, .mk 16 16 .rw],
  .mk 0x90000 4 [.mk 0 1 .rw, .mk 1 3 .rw, .mk 4 1 .rw],
  .mk 0x90008 8 [.mk 12 36 .rw],
  .mk 0x90010 8 [.mk 0 36 .rw],
  .mk 0x90018 8 [.mk 0 1 .ro, .mk 1 1 .ro, .mk 2 8 .ro, .mk 10 13 .ro, .mk 23 1 .ro],
  .mk 0x90020 4 [.mk 0 1 .w1c, .mk 1 1 .w1c, .mk 2 1 .w1c, .mk 3 1 .w1c],
  .mk 0x90028 8 [.mk 0 32 .rc, .mk 32 16 .rc, .mk 48 16 .rc],
  .mk 0x91000 8 [.mk 0 1 .rw, .mk 1 1 .rw, .mk 2 12 .rw, .mk 14 12 .rw, .mk 26 3 .rw, .mk 29 1 .rw],
  .mk 0x91008 8 [.mk 6 42 .rw],
  .mk 0x91010 8 [.mk 6 42 .rw],
  .mk 0x91018 4 [.mk 0 12 .rw]]

/-- Register rows, part 7. -/
def regRows7 : List RegRow := [
  .mk 0x91020 4 [.mk 0 12 .rw],
  .mk 0x91028 8 [.mk 0 3 .ro, .mk 3 12 .ro, .mk 15 12 .ro, .mk 27 1 .ro, .mk 28 9 .ro],
  .mk 0x91030 8 [.mk 0 12 .rw, .mk 12 20 .rw, .mk 32 10 .rw, .mk 42 2 .rw],
  .mk 0x91038 4 [.mk 0 1 .wo],
  .mk 0x91040 4 [.mk 0 4 .ro],
  .mk 0x91100 8 [.mk 0 64 .wo],
  .mk 0xA0000 8 [.mk 0 32 .ro, .mk 32 6 .ro, .mk 38 7 .ro],
  .mk 0xA0008 8 [.mk 0 64 .ro],
  .mk 0xA0010 4 [.mk 0 1 .w1c, .mk 1 1 .w1c, .mk 2 1 .w1c, .mk 3 1 .w1c],
  .mk 0xA0018 8 [.mk 0 32 .rc, .mk 32 32 .rc],
  .mk 0xA1000 8 [.mk 0 48 .rw],
  .mk 0xA1008 8 [.mk 0 48 .rw],
  .mk 0xA1010 4 [.mk 0 1 .wo, .mk 1 2 .rw, .mk 3 1 .rw, .mk 4 1 .rw, .mk 5 2 .rw, .mk 7 3 .rw],
  .mk 0xA1018 8 [.mk 0 64 .rw],
  .mk 0xA1020 8 [.mk 0 64 .rw],
  .mk 0xA1028 4 [.mk 0 1 .ro, .mk 1 1 .w1c, .mk 16 16 .ro]]

/-- Every register of the manual, at the offset of its first copy. -/
def regRows : List RegRow :=
  regRows0 ++ regRows1 ++ regRows2 ++ regRows3 ++ regRows4 ++ regRows5 ++ regRows6 ++ regRows7

/-- Reset column values that are not 0, by the offset of the first copy (those given per part or per variant come from `Part`). -/
def regResets : List (Nat × Nat) := [
  (0x00400, 0x4E20000),
  (0x00408, 0x6926C514),
  (0x00448, 0x4),
  (0x00450, 0x100000000000000),
  (0x00460, 0x18000),
  (0x10010, 0x14000000C350),
  (0x20000, 0x1),
  (0x20008, 0x14),
  (0x30010, 0xC350),
  (0x30018, 0x3FF0000000000000),
  (0x40000, 0x4),
  (0x40008, 0x190200A),
  (0x40078, 0x20000),
  (0x48058, 0xC3500C350),
  (0x49000, 0x1414),
  (0x49008, 0x806000000),
  (0x50008, 0x402),
  (0x70000, 0x4),
  (0x70068, 0xC350000000000),
  (0x80110, 0xA00000000),
  (0x90000, 0xE)]

/-- One array of registers: first offset, bytes of one copy's window, copies. -/
structure RegArray where
  base : Nat
  stride : Nat
  count : Nat
deriving DecidableEq, Repr

/-- The arrays of the register map (R325 and the line that introduces each register). The tree barriers 0 to 3 continue the mask barriers
0 to 15; push slots and their words repeat inside a queue pair (see `regCanon`). -/
def regArrays : List RegArray := [
  .mk 0x11000 0x40 32, .mk 0x20000 0x100 42, .mk 0x31000 0x40 4, .mk 0x32000 0x10 8, .mk 0x40040 8 4, .mk 0x50040 8 4,
  .mk 0x71000 8 16, .mk 0x71080 8 16, .mk 0x72000 8 64, .mk 0x73000 0x40 20, .mk 0x73500 8 4, .mk 0x74000 0x20 512,
  .mk 0x80100 0x100 2, .mk 0x81000 8 42, .mk 0x91000 0x200 8, .mk 0xA1000 0x40 4]

/-- The offset of the first copy of the register that an offset belongs to. -/
def regCanon (off : Nat) : Nat :=
  let o := match regArrays.find? (fun a => a.base ≤ off && off < a.base + a.stride * a.count) with
    | some a => a.base + (off - a.base) % a.stride
    | none => off
  if 0x91100 ≤ o && o < 0x91200 then 0x91100 + o % 8 else o

/-- The register at an offset, if the offset is the first byte of one. -/
def regRow? (off : Nat) : Option RegRow :=
  regRows.find? (fun r => r.base == regCanon off)

/-- The Reset column of the register at an offset; pair 0 alone has ADMIN set (R293). -/
def regReset (off : Nat) : W64 :=
  if off == 0x91000 then 2
  else match regResets.find? (fun p => p.1 == regCanon off) with
    | some p => BitVec.ofNat 64 p.2
    | none => 0

end Sys2Proof.Machine
end

