-- ==== Sys2Proof/Machine/State.lean ====
section
/-! DEFINITION. The state of one Chigiem engine and of what stands directly behind its boundary (BX3 memory, the drive, the firmware
store), as plain data; the reasons a step can stop; the state right after a cold reset. -/
namespace Sys2Proof.Machine

/-! ## Part and board -/

/-- Variant and per-part data: the same in every state of one engine (R1, R287, R346). -/
structure Part where
  hbmStacks : Nat := 16
  dies : Nat := 3
  siliconRev : BitVec 16 := 1
  serial : BitVec 64 := 0
  /-- The four fused key hashes, 48 bytes each (R346). -/
  keyHash : List (List Byte) := []
  revoked : BitVec 4 := 0
  /-- Calibrated receive and transmit corrections, slice to CGM_TIM_LNKn_DELAY (R287); unlisted: 0. -/
  delays : SMap (BitVec 32) := []
deriving DecidableEq, Repr

/-- Where the engine stands between resets (R42, R48, R348 to R352, R367). -/
inductive Phase where
  | unpowered | tapTest | reset | thermalHold | booting | running | hummock
deriving DecidableEq, Repr

/-- Reset kinds from broadest to narrowest (R49). -/
inductive ResetKind where
  | cold | warm | engine
deriving DecidableEq, Repr

/-- Board pins and the power-fail sequence (R38, R42, R44, R45). -/
structure Board where
  powerGood : Bool := true
  perstN : Bool := false
  pfailN : Bool := false
  holdupOk : Bool := false
  /-- The power-fail work of R44 is in progress. -/
  pfWork : Bool := false
  /-- Peat writes are held (R45). -/
  pfHold : Bool := false
  /-- After the hold, drains wait for the next Peat interval (R45). -/
  pfWaitInterval : Bool := false
  pfStart : Nat := 0
  pfHighSince : Nat := 0
  /-- Slices whose PCS has been without block lock for LINK_HOLD_MS (R22, R221). -/
  lockLost : BitVec 42 := 0
deriving DecidableEq, Repr

structure Boot where
  phase : Phase := .reset
  kind : ResetKind := .cold
  /-- Source of the reset in progress, as CGM_CTL_BOOT_REASON.SOURCE. -/
  source : BitVec 4 := 0
  /-- FAIL_CAUSE of a failed start that the next boot ROM counts (R350); 0: none. -/
  failPending : BitVec 4 := 0
  /-- This reset came from a thermal trip (R66). -/
  trip : Bool := false
  entryTick : Nat := 0
  quiesceTick : Nat := 0
  slot : Bool := false
  /-- This start has entered a slot's firmware. -/
  entered : Bool := false
  /-- What the memory tests of a start under thermal hold will find. -/
  check : RomCheck := {}
  /-- The fused SVN floor, and how often it has been raised (R346, R347). -/
  svnFloor : Nat := 0
  floorSteps : Nat := 0
deriving DecidableEq, Repr

/-- One copy of the state record of the firmware store (R344). -/
structure StateRecord where
  seqNo : BitVec 64 := 0
  marked : Bool := false
  aValid : Bool := false
  bValid : Bool := false
  failCount : Nat := 0
  failCause : BitVec 4 := 0
  startsA : BitVec 64 := 0
  startsB : BitVec 64 := 0
  failed : BitVec 64 := 0
  crcOk : Bool := false
deriving DecidableEq, Repr

/-- The firmware store (R344): the two state-record copies, and the bytes of slots and staging image by store offset. -/
structure Store where
  recA : StateRecord := {}
  recB : StateRecord := {}
  bytes : Memory := []
  dlNext : Nat := 0
deriving DecidableEq, Repr

/-- An error-log record (R363). -/
structure LogRec where
  sec : BitVec 64
  ns : BitVec 32
  valid : Bool
  kind : BitVec 8
  status : Status
  unit : BitVec 8
  rseq : BitVec 16
  detail : List Byte
deriving DecidableEq, Repr

/-- Speed monitor history (R63, R64, R66): samples in range and samples at or above 115 degrees in a row, tick of the last sample. -/
structure Monitor where
  good : Nat := 0
  hot : Nat := 0
  last : Option Nat := none
deriving DecidableEq, Repr

/-! ## Frames sent, links -/

/-- Where a frame goes. -/
inductive Dest where
  | pos (rack : BitVec 10) (pos : BitVec 7)
  | rackGroup
  | election
  | scaleOut (addr : BitVec 32)
deriving DecidableEq, Repr

/-- A frame handed to an egress: its slice (none: the manual names no port), destination, TYPE, contents, and the leaf of its source at the
egress tree (R72: slice n holds leaf n, the core leaf 42). -/
structure Sent where
  slice : Option Nat
  dest : Dest
  ty : BitVec 8
  frame : Frame
  leaf : Nat := 42
deriving DecidableEq, Repr

/-- A frame that an egress has put on the wire: the engine's own, or a BX3 frame that a slice has passed. -/
inductive Wire where
  | engine (f : Sent)
  | bx3 (n : Fin 42) (dir : Dir) (f : Bx3Frame)
deriving DecidableEq, Repr

/-- An end-to-end acknowledgement of multicast data (R107), for which the manual names no frame type. -/
structure AckSent where
  rack : BitVec 10
  pos : BitVec 7
  channel : BitVec 5
  seq : BitVec 32
  slice : Nat
  bytes : Nat
  last : Bool
deriving DecidableEq, Repr

/-- Causeway of a slice (R51 to R54). -/
inductive Causeway where
  | closed | opening | opened | closing
deriving DecidableEq, Repr

/-! ## Reduction -/

/-- A bucket descriptor as read (R92). -/
structure BucketDesc where
  step : BitVec 64 := 0
  seq : BitVec 32 := 0
  gather : Bool := false
  fmt : BitVec 4 := 0
  bf16 : Bool := false
  card : Bool := false
  direct : Bool := false
  lastOfStep : Bool := false
  e : Nat := 0
  src : Nat := 0
  scale : Nat := 0
  result : Nat := 0
deriving DecidableEq, Repr

/-- A transfer that a bucket sends (R110): its port, where it goes, and the frames still to be sent (the last of them bears LAST). -/
structure Xfer where
  tag : Nat
  gen : BitVec 4
  stage : Bool
  copy : Bool := false
  slice : Nat
  dest : Dest
  left : Nat
deriving DecidableEq, Repr

/-- A transfer that a bucket receives (R111): bound to its tag by its first frame. -/
structure RxXfer where
  ty : BitVec 8
  stage : Bool
  slice : Nat
  rack : BitVec 10
  pos : BitVec 7
  tag : BitVec 20
  gen : BitVec 4
  closed : Bool := false
deriving DecidableEq, Repr

/-- A received scale-out partial that waits for its turn in the order of R87. -/
structure SoPart where
  piece : Nat
  level : Nat
  off : Nat
  vals : List W32
deriving DecidableEq, Repr

/-- A receiver of a rack multicast (R107). -/
structure Receiver where
  pos : BitVec 7
  acked : Nat := 0
  ackTick : Nat := 0
  done : Bool := false
  dropped : Bool := false
deriving DecidableEq, Repr

/-- A rack multicast on one UFL port (R106, R107): fragments not yet sent, bytes sent, receivers. -/
structure Mcast where
  port : Nat
  /-- Fragments that wait for the window: first element, elements. -/
  queue : List (Nat × Nat) := []
  sent : Nat := 0
  /-- Receivers heard of or dropped; the others have acknowledged nothing. -/
  rcv : List Receiver := []
  started : Nat := 0
deriving DecidableEq, Repr

/-- Bytes of a result that wait for the delivery of an earlier bucket (R89): their offset from RESULT_ADDR, and the acknowledgement that
follows the write. -/
structure Landing where
  off : Nat
  bytes : List Byte
  ack : Option AckSent := none
deriving DecidableEq, Repr

/-- A bucket from its issue until it has completed and gone. -/
structure Bucket where
  seq : BitVec 32 := 0
  desc : BucketDesc := {}
  /-- Every frame that this device sends for it has been handed to the egress (R90). -/
  gone : Bool := false
  /-- It has aborted, or its descriptor was bad: it completes with `status` in its turn. -/
  dead : Bool := false
  /-- Status met before completion: an abort's, CONTRIB_LATE or RECEIVER_DROPPED. -/
  status : Status := 0
  /-- It has written back and produced its done count. -/
  completed : Bool := false
  arrival : Nat := 0
  xfers : List Xfer := []
  rx : List RxXfer := []
  /-- Fragments taken: 256 times the stage plus the hop, first element. -/
  got : List (Nat × Nat) := []
  /-- Elements of the backup worker's contribution (of an all-gather, as raw numbers), and the tag that the fetch named (R105). -/
  backup : SMap W32 := []
  fetch : Option Nat := none
  late : Bool := false
  /-- Its start has been delayed for lack of a tag, and the wait has been counted (R110). -/
  tagWait : Bool := false
  rackVals : SMap W32 := []
  soPend : List SoPart := []
  finals : SMap W32 := []
  /-- Final fragments of the own piece, and bytes of copies or of an all-gather, not yet delivered, because an earlier bucket has not been
  (R89). -/
  undel : List (Nat × List W32) := []
  hold : List Landing := []
  /-- Pieces that roots send here as to a replica holder, and their elements (R88); whether the report of a copy that came after this
  bucket's completion has been made (R101). -/
  copies : List Nat := []
  copied : SMap W32 := []
  lateReport : Bool := false
  /-- Elements of an all-gather written to RESULT_ADDR, as ranges of first element and count. -/
  landed : List (Nat × Nat) := []
  mcast : List Mcast := []
  /-- This device has been dropped from a multicast transfer (R108); ranges still to be fetched, and the sender to ask while no tag is free for
  the fetch (R110). -/
  dropped : Bool := false
  catchUp : List (Nat × Nat) := []
  fetchTo : Option (BitVec 10 × BitVec 7) := none
deriving DecidableEq, Repr

/-- A reduction channel (R81, R90, R104): next SEQ to start, next SEQ to be read from the ring, buckets consumed and not started, buckets
started. -/
structure Chan where
  nextSeq : BitVec 32 := 0
  nextIssue : BitVec 32 := 0
  aborted : Bool := false
  issued : List Bucket := []
  running : List Bucket := []
  lastStatus : Status := 0
  /-- Tick at which the last bucket started here had gone (R105). -/
  goneTick : Nat := 0
  /-- SEQ of buckets taken from a backup worker whose local issue has not come yet (R105). -/
  lateSeqs : List (BitVec 32) := []
deriving DecidableEq, Repr

/-- A frame held in a slice buffer until its bucket starts (R91). -/
structure Waiting where
  slice : Fin 42
  ty : BitVec 8
  frame : Frame
deriving DecidableEq, Repr

/-- The tag space (R110): generation of each tag ever allocated, tags in use, tags in quarantine with their release tick. -/
structure Tags where
  gens : SMap (BitVec 4) := []
  inUse : List Nat := []
  /-- Tags in use whose LAST frame has been handed to the egress and that the link-level acknowledgement of it releases. -/
  lastSent : List Nat := []
  quarantine : List (Nat × Nat) := []
deriving DecidableEq, Repr

/-- The step-skip vote of one step (R102, R130): channels that have ended its last bucket, whether the step is to be skipped, Fulling queues
whose LAST_NORM task of the step has completed. -/
structure Vote where
  step : BitVec 64 := 0
  ended : BitVec 32 := 0
  skip : Bool := false
  norms : BitVec 4 := 0
deriving DecidableEq, Repr

structure Red where
  chans : Vector Chan 32 := Vector.replicate 32 {}
  tags : Tags := {}
  waiting : List Waiting := []
  /-- Buckets whose abort notice has been seen: channel, SEQ, STEP_LO (R113). -/
  notices : List (BitVec 5 × BitVec 32 × BitVec 32) := []
  /-- Votes not yet cast, oldest first. -/
  votes : List Vote := []
  /-- Values that the Warden has written to configuration registers of enabled channels while the engine is halted: they take effect
  together at the release (R82). -/
  staged : SMap W64 := []
  /-- This engine, a rack's Warden, has sent an abort notice of its own bucket, and has not yet acted on it as the Warden (R104). -/
  ownAbort : Bool := false
deriving DecidableEq, Repr

/-! ## Fulling -/

/-- An exact accumulator (R126): the sum of finite products in units of 2^-298, and what infinities and NaNs were met. -/
structure Acc where
  sum : Int := 0
  nan : Bool := false
  pinf : Bool := false
  ninf : Bool := false
deriving DecidableEq, Repr

/-- A Fulling program (R134). -/
structure Program where
  nin : Nat := 0
  nout : Nat := 0
  osrc : List (BitVec 5) := []
  skip : List (BitVec 3) := []
  ops : List W32 := []
deriving DecidableEq, Repr

/-- A Fulling task descriptor as read (R121). -/
structure FulDesc where
  step : BitVec 64 := 0
  seq : BitVec 32 := 0
  shard : BitVec 32 := 0
  prog : BitVec 5 := 0
  direct : Bool := false
  gate : Bool := false
  clip : Bool := false
  normVote : Bool := false
  lastNorm : Bool := false
  ifmt : List (BitVec 2) := []
  ofmt : List (BitVec 2) := []
  sr : BitVec 4 := 0
  batt : BitVec 4 := 0
  port : Nat := 0
  version : BitVec 4 := 0
  waitPair : Nat := 0
  waitEn : Bool := false
  postPair : Nat := 0
  postEn : Bool := false
  e : Nat := 0
  elemBase : Nat := 0
  param : Nat := 0
  inAddr : List Nat := []
  outAddr : List Nat := []
  battAddr : List Nat := []
deriving DecidableEq, Repr

inductive FulStage where
  | waitPair | waitGate | run
deriving DecidableEq, Repr

/-- A Fulling task in progress. -/
structure FulTask where
  desc : FulDesc
  addr : Nat := 0
  stage : FulStage := .waitPair
  prog : Program := {}
  consts : List W32 := []
  skipPass : Bool := false
  clipApplied : Bool := false
  taken : List Nat := []
  wrote : Bool := false
  suppressed : Bool := false
  nonfinite : Option Nat := none
  acc0 : Acc := {}
  acc1 : Acc := {}
  /-- The piece bound to a DIRECT task: channel and SEQ (R138). -/
  piece : Option (Nat × BitVec 32) := none
  /-- The watchdog of R140 runs since this tick. -/
  arrival : Option Nat := none
  /-- It has completed but for its done count, which waits behind its POST (R141, R262). -/
  posted : Bool := false
deriving DecidableEq, Repr

structure FulQueue where
  nextSeq : BitVec 32 := 0
  task : Option FulTask := none
  aborted : Bool := false
  lastStatus : Status := 0
deriving DecidableEq, Repr

/-- A piece waiting at a stream port (R138): channel, SEQ, first bucket element, length; whether it has been handed over. -/
structure Piece where
  ch : Nat
  seq : BitVec 32
  first : Nat
  len : Nat
  bound : Bool := false
  /-- Its bucket has aborted with this status: the task that takes it aborts too (R140). -/
  dead : Option Status := none
deriving DecidableEq, Repr

structure StreamPort where
  pieces : List Piece := []
  /-- Elements in the port buffer, by index within the piece at the head, and the blocks of that piece taken by lanes. -/
  buf : SMap W32 := []
  gone : List Nat := []
  /-- Fragments of pieces that wait in their link slices: channel, SEQ, element index in the piece, values, and the slice. -/
  held : List (Nat × BitVec 32 × Nat × List W32 × Nat) := []
deriving DecidableEq, Repr

structure Gate where
  opened : Bool := false
  step : BitVec 64 := 0
  sum : BitVec 64 := 0
  skip : Bool := false
  clipK : BitVec 32 := 0
  /-- Steps whose vote barrier has aborted and has not completed since, with its status (R133). -/
  failed : List (BitVec 64 × Status) := []
deriving DecidableEq, Repr

structure ProgSlot where
  loaded : Bool := false
  version : BitVec 4 := 0
  prog : Program := {}
deriving DecidableEq, Repr

/-- A program load between begin and commit (R136). -/
structure ProgLoad where
  slot : Fin 16
  words : List W32 := []
  count : Nat := 0
deriving DecidableEq, Repr

structure Ful where
  queues : Vector FulQueue 4 := Vector.replicate 4 {}
  ports : Vector StreamPort 8 := Vector.replicate 8 {}
  gate : Gate := {}
  stepAcc : Acc := {}
  slots : Vector ProgSlot 16 := Vector.replicate 16 {}
  load : Option ProgLoad := none
  /-- Program ID and version held in the stages of each lane (R119). -/
  lanes : SMap (BitVec 5 × BitVec 4) := []
deriving DecidableEq, Repr

/-! ## Cut -/

/-- A region: its directory record (R153) and its shard table record (R214), also as the bytes that a manifest repeats. -/
structure Region where
  shard : BitVec 32 := 0
  kind : BitVec 8 := 0
  fmt : BitVec 8 := 0
  offset : Nat := 0
  len : Nat := 0
  live : Nat := 0
  tensor : BitVec 32 := 0
  role : BitVec 8 := 0
  tensorElems : Nat := 0
  firstElem : Nat := 0
  elems : Nat := 0
  dirBytes : List Byte := []
  tabBytes : List Byte := []
deriving DecidableEq, Repr

inductive Half where
  | empty | capture | felting | held | pinned
deriving DecidableEq, Repr

inductive CutState where
  | opened | felting | agreeing | committing | sedgeCommitted | jobCommitted
  | retired | sedgeIncomplete | suspect | abandoned | skipped
deriving DecidableEq, Repr

/-- A region whose Felting read runs: region index, scan context. -/
structure FeltRun where
  region : Nat
  lane : Nat
  scan : Nat
deriving DecidableEq, Repr

/-- What is known of a region once it has been read: SHA-384 and the CRC-64 of each extent (R168). -/
structure RegionSum where
  region : Nat
  digest : List Byte
  crcs : List W64
deriving DecidableEq, Repr

/-- A Felt data frame not yet acknowledged (R188). -/
structure FeltOut where
  tag : Nat
  gen : BitVec 4
  off : Nat
  words : Nat
  tick : Nat
  commit : Bool
deriving DecidableEq, Repr

structure Cut where
  seq : BitVec 32 := 0
  step : BitVec 64 := 0
  gen : BitVec 8 := 0
  /-- Capture half: false A, true B; none: Batt-less. -/
  half : Option Bool := none
  peat : Bool := false
  rt : Nat := 0
  st : CutState := .opened
  status : Status := 0
  battless : Bool := false
  sumpDone : Bool := false
  agreed : Bool := false
  jobc : Bool := false
  pinned : Bool := false
  skippedStep : Bool := false
  accepted : Bool := false
  /-- Its commit record stands in the partner's set (R177). -/
  atSet : Bool := false
  set : Nat := 0
  record : List Byte := []
  sumpRuns : Bool := false
  /-- The seal count of this descriptor has been consumed. -/
  sealTaken : Bool := false
  /-- The descriptor broke R157: it opened no cut, and only its barrier arrival and write-back remain. -/
  refused : Bool := false
  /-- Bytes that tasks of its STEP have written into the half. -/
  bytes : Nat := 0
  sealSec : BitVec 64 := 0
  sealNs : BitVec 32 := 0
  recSent : Bool := false
  runs : List FeltRun := []
  sums : List RegionSum := []
  manSent : Bool := false
  comSent : Bool := false
  out : List FeltOut := []
  /-- Tick at which Felting ended (every region read, every byte acknowledged). -/
  feltEnd : Option Nat := none
  keep : Option Bool := none
  group : List Byte := []
  groupTick : Nat := 0
  /-- Digest frames heard: member 0-2, part 0-1, 24 bytes (R170). -/
  heard : List (Nat × Nat × List Byte) := []
  agreeMask : BitVec 4 := 0
  /-- The arrival at the commit barrier is still to be made: veto or not. -/
  arrive : Option Bool := none
  /-- The arrival at the commit barrier has been made. -/
  arrived : Bool := false
  drainStatus : Option Status := none
  /-- The arrival at the Peat barrier is still to be made: veto or not (R203). -/
  peatDue : Option Bool := none
  peatArrived : Bool := false
  peatGen : Nat := 0
  peatJobc : Bool := false
  doneOut : Bool := false
  /-- It is felted again, to a new host (R237). -/
  refelt : Bool := false
deriving DecidableEq, Repr

structure CutUnit where
  nextSeq : BitVec 32 := 0
  prevStep : Option (BitVec 64) := none
  halfA : Half := .empty
  halfB : Half := .empty
  /-- Newest first, at most 64 (R317). -/
  cuts : List Cut := []
  dir : List Region := []
  lastStatus : Status := 0
  /-- CUT PEAT_NEXT outstanding: least STEP, command context, cut SEQ once it has opened (R317). -/
  peatNext : Option (BitVec 64 × Nat × Option (BitVec 32)) := none
  /-- The host that held this owner's sets is lost, and nothing has been committed at the new one (R237). -/
  unhosted : Bool := false
deriving DecidableEq, Repr

/-! ## Sedge and the Shard Map -/

inductive SetState where
  | free | filling | committed | held | lost
deriving DecidableEq, Repr

/-- A Sedge set held for an owner (R183 to R186). -/
structure SedgeSet where
  st : SetState := .free
  step : BitVec 64 := 0
  gen : BitVec 8 := 0
  /-- Page table: pool page of each 64 MiB of set offsets; and its mirror in the table area (R185). -/
  pages : List Nat := []
  mirror : List Nat := []
  /-- Keep windows seen: channel, keep-table slot, bytes still to be kept (R173); bytes kept in all. -/
  windows : List (Nat × Nat × Nat) := []
  kept : Nat := 0
  broken : Bool := false
  reported : Bool := false
deriving DecidableEq, Repr

inductive MapState where
  | filling | written | committed | suspect | bad
deriving DecidableEq, Repr

/-- A Shard Map entry in use (R211). -/
structure MapEntry where
  shard : BitVec 32
  tier : BitVec 2
  st : MapState
  gen : BitVec 8
  step : BitVec 64
  firstExt : Nat
  extCount : Nat
  loc : BitVec 64
deriving DecidableEq, Repr

/-! ## Peat -/

/-- A generation on the drive: its units, the units of its manifest in order, and whether its manifest was good when it was read (R197). -/
structure PeatGenInfo where
  peatGen : Nat
  units : List Nat
  man : List Nat
  ok : Bool := true
deriving DecidableEq, Repr

/-- The attached drive as its bring-up shows it (R36, R192). -/
structure Drive where
  present : Bool := false
  flit : Bool := false
  rate : BitVec 3 := 0
  width : BitVec 4 := 0
  ready : Bool := false
  vwc : Bool := false
  /-- The volatile write cache is in use (feature 0x05 of R321). -/
  wce : Bool := false
  /-- LBA count of NSID 1 to 4, and whether its LBA format is usable (R192). -/
  spaces : List (Nat × Bool) := []
  model : List Byte := []
  serial : List Byte := []
  firmware : List Byte := []
  /-- Contents: key (NSID - 1) * 2^60 + LBA * 4096 + byte. -/
  blocks : Memory := []
  /-- The model's own record of the units that each generation of the valid slot names (assumption 22). -/
  known : List PeatGenInfo := []
deriving DecidableEq, Repr

inductive PeatState where
  | absent | init | ready | unformatted | foreign | readOnly | failed
deriving DecidableEq, Repr

/-- A catalogue entry (R196). -/
structure CatEntry where
  peatGen : Nat := 0
  step : BitVec 64 := 0
  gen : BitVec 8 := 0
  jobc : Bool := false
  encrypted : Bool := false
  exported : Bool := false
  battless : Bool := false
  sedgeIncomplete : Bool := false
  manBytes : Nat := 0
  manUnit : Nat := 0
  manCrc : BitVec 64 := 0
  kcv : BitVec 64 := 0
  group : List Byte := []
deriving DecidableEq, Repr

/-- A catalogue slot (R196). -/
structure Catalogue where
  catSeq : Nat := 0
  nextUnit : Nat := 1
  genHigh : Nat := 0
  entries : List CatEntry := []
deriving DecidableEq, Repr

inductive DrainStep where
  | reservation | writes | flush | catalogue
deriving DecidableEq, Repr

/-- A Peat drain in progress (R201). -/
structure Drain where
  seq : BitVec 32
  peatGen : Nat
  step : DrainStep := .reservation
  /-- Units reserved and not yet taken by the cursor. -/
  need : Nat := 0
  units : List Nat := []
  /-- Half-unit of each extent in drain order. -/
  halves : List Nat := []
  manUnits : List Nat := []
  /-- Key of the drain, when XTS_EN was 1 at its start (R208): the 64 key bytes and the slot. -/
  key : Option (List Byte × Nat) := none
  manBytes : Nat := 0
  manCrc : BitVec 64 := 0
  /-- The Flush has been retried once (R193). -/
  retried : Bool := false
  /-- PFAIL_N was recognised before every write had started: the rest never starts (R207). -/
  short : Bool := false
deriving DecidableEq, Repr

/-- A pending rewrite (R202, R311): its generation, the extents it moves (extent record, new half-unit), the queue and the order of the
command it came from. -/
structure Rewrite where
  peatGen : Nat
  moves : List (Nat × Nat)
  q : Nat
  order : Nat
deriving DecidableEq, Repr

/-- What an NVMe write belongs to. -/
inductive NvmeOwner where
  | reservation | drain | catalogue
deriving DecidableEq, Repr

/-- An NVMe write handed to the drive and not yet completed (R193, R207). -/
structure NvmeWrite where
  owner : NvmeOwner
  key : Nat
  bytes : List Byte
  retried : Bool := false
deriving DecidableEq, Repr

structure Peat where
  st : PeatState := .absent
  drive : Drive := {}
  linkUp : Bool := false
  /-- Valid catalogue, and whether it stands in slot B (R197). -/
  cat : Option (Catalogue × Bool) := none
  /-- Allocation cursor NEXT_UNIT as it stands (R200). -/
  cursor : Nat := 1
  /-- The retained generations, as rebuilt or committed. -/
  gens : List PeatGenInfo := []
  drain : Option Drain := none
  staged : List Rewrite := []
  /-- A FLUSH, or a SCRUB that has repaired extents, wants a catalogue write (R312, R315). -/
  flushDue : Bool := false
  /-- Rewrites that the catalogue write in progress takes, with their new numbers; the generations it brings. -/
  taking : List (Rewrite × Nat) := []
  nextGens : List PeatGenInfo := []
  /-- The entries of the valid slot with the rewrites of `taking` in them. -/
  nextEntries : List CatEntry := []
  /-- The Flush that goes before the catalogue write of rewrites is with the drive (R202). -/
  flushing : Bool := false
  nvme : List NvmeWrite := []
  /-- That Flush, or a read of the bring-up or of a restore, has been retried once (R193). -/
  retried : Bool := false
  /-- Depths of the queue pairs at the controller: the admin pair, then the I/O pairs (R192). -/
  pairs : List Nat := []
  jobcStep : BitVec 64 := 0
  jobcGen : Option Nat := none
  smart : List Byte := []
  initTick : Nat := 0
  /-- Units retired whose deallocation has been asked of the drive (R205). -/
  dealloc : List Nat := []
deriving DecidableEq, Repr

structure KeySlot where
  kind : BitVec 2 := 0
  bytes : List Byte := []
  loaded : Bool := false
deriving DecidableEq, Repr

structure KeyLoad where
  slot : Fin 16
  words : List W64 := []
deriving DecidableEq, Repr

structure Sec where
  slots : Vector KeySlot 16 := Vector.replicate 16 {}
  load : Option KeyLoad := none
deriving DecidableEq, Repr

/-! ## Restore and Warden -/

inductive RstState where
  | running | halted | planning | rollback | refill | record | verify | ready | waiting | standby
deriving DecidableEq, Repr

/-- A supply query of the epoch (R226, R230). -/
structure Query where
  rank : BitVec 32
  bit : Nat
  asHost : Bool
  asReplica : Bool
deriving DecidableEq, Repr

/-- Source of a restore, as CGM_TIER_RST_STATUS.SOURCE. -/
inductive Source where
  | live | batt | sedge | replica | peat | mire | donors
deriving DecidableEq, Repr

inductive RstRole where
  | survivor | spare | inPlace | donor
deriving DecidableEq, Repr

/-- Phases of a restore already complete for the chosen cut (R247). -/
structure RstDone where
  data : Bool := false
  record : Bool := false
  verify : Bool := false
deriving DecidableEq, Repr

/-- One part of what a restore takes in (record, manifest or regions): the set-offset ranges not yet here, the source that is to bring them, and
the sources refused or exhausted (R231, R240). -/
structure Supply where
  want : List (Nat × Nat) := []
  prov : Option (Source × Nat) := none
  tried : List (Source × Nat) := []
deriving DecidableEq, Repr

/-- The restore path of one engine (R226 to R253). -/
structure Rst where
  st : RstState := .running
  role : RstRole := .survivor
  liveClean : Bool := false
  epoch : BitVec 16 := 0
  /-- Source of most of the state. -/
  source : Source := .live
  lastStatus : Status := 0
  cutStep : BitVec 64 := 0
  cutGen : BitVec 8 := 0
  cutValid : Bool := false
  elastic : Bool := false
  /-- This engine is in the minority of a replica agreement (R171, R225), and the members of the replica group that agreed. -/
  corrupt : Bool := false
  majority : List Nat := []
  /-- It has reported a state fault (R148, R225). -/
  faulted : Bool := false
  /-- Rack and position from which this spare has taken its rank over (R231, R235). -/
  oldPos : Option (BitVec 10 × BitVec 7) := none
  queries : List Query := []
  /-- Work for the chosen cut has begun in this restore, and its phases that are complete (R247). -/
  work : Bool := false
  done : RstDone := {}
  /-- Chosen while the takeover had not ended (R247). -/
  chosenWaits : Bool := false
  /-- Record, manifest (with the commit record) and regions that are still to come, and the tick of the last arrival. -/
  recIn : Supply := {}
  manIn : Supply := {}
  dataIn : Supply := {}
  arrival : Nat := 0
  /-- PARAM and CARDED regions stand as the clean live state left them (R234). -/
  tookLive : Bool := false
  /-- Record, commit record and manifest as they landed, by set offset beyond T. -/
  area : Memory := []
  hbCount : BitVec 16 := 0
  fenced : Bool := false
  /-- Refill data frames sent and not acknowledged: tag, generation, set offset, words. -/
  sentData : List (Nat × BitVec 4 × Nat × Nat) := []
  /-- Context of the RESTORE command that drives this restore. -/
  restoreCtx : Option Nat := none
  /-- Source map of an elastic restore (R251). -/
  elasticMap : List Byte := []
deriving DecidableEq, Repr

/-- What a Warden knows of an engine it exchanges heartbeats with (R222, R224). -/
inductive MemberClass where
  | unknown | alive | failed
deriving DecidableEq, Repr

structure Member where
  rack : BitVec 10
  pos : BitVec 7
  lastHb : Nat := 0
  cls : MemberClass := .alive
  standby : Bool := false
  inRange : Bool := true
  /-- It has stood by as a spare. -/
  spare : Bool := false
deriving DecidableEq, Repr

inductive JobState where
  | normal | halting | planning | restoring | waiting
deriving DecidableEq, Repr

structure Warden where
  members : List Member := []
  job : JobState := .normal
  /-- Ranks of this rack declared failed since the last release, ascending (assumption 30); those that other Wardens report, by rack. -/
  failed : List (BitVec 32) := []
  others : List (BitVec 10 × Nat) := []
  /-- Takeovers of this rack still to be made. -/
  takeovers : Nat := 0
  /-- Candidates not yet proposed, newest first (R229); the one in vote; only cuts older than this one are proposed
  (R240); the one cut that a RESTORE command names (R318). -/
  cands : List (BitVec 64 × BitVec 8) := []
  voting : Option (BitVec 64 × BitVec 8) := none
  only : Option (BitVec 64 × BitVec 8) := none
  /-- That command names Mire as the source of ranks that no engine can supply (R318). -/
  mire : Bool := false
  older : Option (BitVec 64) := none
deriving DecidableEq, Repr

/-! ## Synchronisation -/

/-- A counter pair (R254): P and C below 2^48, depth below 2^32. PEND is the sum of the pending produces in `Syn.pends`. -/
structure Pair where
  p : Nat := 0
  c : Nat := 0
  depth : Nat := 0
deriving DecidableEq, Repr

/-- Who signals or waits. -/
inductive Who where
  | software
  | remote
  | fence
  | slot (n : Nat)
  | channel (n : Nat)
  | fulling (q : Nat)
  | cutUnit
  | barrier (b : Nat)
  | command (q : Nat)
  | restore
deriving DecidableEq, Repr

structure Waiter where
  isPair : Bool
  obj : Nat
  count : Nat
  consume : Bool
  who : Who
deriving DecidableEq, Repr

structure PendProd where
  pair : Nat
  count : Nat
  who : Who
deriving DecidableEq, Repr

/-- A signal or wait held while QUIESCE is 1 (R272). -/
inductive Held where
  | set (flag : Nat) (who : Who)
  | produce (pair : Nat) (count : Nat) (who : Who)
  | wait (w : Waiter)
deriving DecidableEq, Repr

structure Fence where
  token : BitVec 16
  op : BitVec 2
  obj : Nat
  count : Nat
  /-- Its signal has been handed in and still waits (R262, R272). -/
  handed : Bool := false
deriving DecidableEq, Repr

structure WaitSlot where
  armed : Bool := false
  tick : Nat := 0
deriving DecidableEq, Repr

/-- A remote transfer on the receiver (R270, R271). -/
structure Remote where
  rack : BitVec 10
  pos : BitVec 7
  tag : BitVec 20
  gen : BitVec 4
  bytes : Nat := 0
  /-- Held signal: announced bytes, produce or set, index, count. -/
  signal : Option (Nat × Bool × Nat × Nat) := none
  tick : Nat := 0
  closed : Bool := false
deriving DecidableEq, Repr

inductive BarState where
  | disabled | opened | arrived
deriving DecidableEq, Repr

/-- The engine function that arrives at a barrier (R273). -/
inductive BarFn where
  | software | vote (step : BitVec 64) | commit (seq : BitVec 32) | peat (seq : BitVec 32) | plan | release
deriving DecidableEq, Repr

structure Arrival where
  fn : BarFn
  sum : W64
  or : W64
deriving DecidableEq, Repr

/-- A recorded value: index (member, rack or group), sum, OR, and the engine that sent it (none: this one). -/
structure BarVal where
  idx : Nat
  sum : W64
  or : W64
  src : Option (BitVec 10 × BitVec 7) := none
deriving DecidableEq, Repr

structure Barrier where
  st : BarState := .disabled
  episode : BitVec 32 := 0
  /-- Arrivals of members recorded for this episode and for the next (R275). -/
  cur : List BarVal := []
  next : List BarVal := []
  /-- Sums of racks (group level) and of groups (top level) recorded for this episode and the next (R280). -/
  racks : List BarVal := []
  racksNext : List BarVal := []
  groups : List BarVal := []
  groupsNext : List BarVal := []
  sentUp : Bool := false
  /-- The episode before this one (a late abort of the lead is passed on, R280). -/
  prev : Option (BitVec 32) := none
  /-- Wardens below this one in the tree: the level at which one was heard (1 a rack's, 2 a group's), its rack and position (R280). -/
  kids : List (Nat × BitVec 10 × BitVec 7) := []
  fn : Option BarFn := none
  tick : Nat := 0
  queue : List Arrival := []
  lastStatus : Status := 0
  resSum : W64 := 0
  resOr : W64 := 0
deriving DecidableEq, Repr

structure Syn where
  flags : BitVec 1024 := 0
  ovr : BitVec 1024 := 0
  pairs : Vector Pair 512 := Vector.replicate 512 {}
  waits : Vector WaitSlot 64 := Vector.replicate 64 {}
  waiters : List Waiter := []
  pends : List PendProd := []
  held : List Held := []
  fences : List Fence := []
  remote : List Remote := []
  bars : Vector Barrier 20 := Vector.replicate 20 {}
  /-- Episodes ended inside the step that runs and not yet handed to their engine functions: function, status, and the sum and OR of one that
  completed. Empty between steps. -/
  results : List (BarFn × Status × Option (W64 × W64)) := []
deriving DecidableEq, Repr

/-! ## Time -/

inductive TimOp where
  | load (sec : W64) (ns : Nat)
  | add (ns : Int)
  | invalidate
deriving DecidableEq, Repr

/-- A time domain (R283). -/
structure Domain where
  sec : Nat := 0
  ns : Nat := 0
  frac : Nat := 0
  valid : Bool := false
  latNs : Nat := 0
  latFrac : Nat := 0
  /-- Commands that take effect at the next tick, in their order (R285). -/
  ops : List TimOp := []
deriving DecidableEq, Repr

/-- A timestamp: domain, seconds, nanoseconds, 16-bit fraction, domain valid. -/
structure Stamp where
  domB : Bool
  sec : Nat
  ns : Nat
  frac : Nat
  valid : Bool
deriving DecidableEq, Repr

/-- A probe answered whose follow-up is due (R288): slice, requester, SEQ, transmit stamp of the response. -/
structure ProbeDue where
  slice : Fin 42
  rack : BitVec 10
  pos : BitVec 7
  seq : BitVec 32
  stamp : Stamp
deriving DecidableEq, Repr

structure Tim where
  domA : Domain := {}
  domB : Domain := {}
  activeB : Bool := false
  switchPending : Bool := false
  due : List ProbeDue := []
deriving DecidableEq, Repr

/-! ## Command interface -/

inductive QState where
  | disabled | active | error | resetting
deriving DecidableEq, Repr

/-- A submitted command not yet started: a ring entry, a push slot, or a relayed command with its sender's frame. -/
inductive Sub where
  | ring
  | push (slot : Nat)
  | relay (rack : BitVec 10) (pos : BitVec 7) (tag : BitVec 20) (gen : BitVec 4) (seq : BitVec 32) (entry : List Byte)
deriving DecidableEq, Repr

structure Queue where
  st : QState := .disabled
  sqHead : Nat := 0
  sqTail : Nat := 0
  cqHead : Nat := 0
  cqTail : Nat := 0
  phase : Bool := false
  subs : List Sub := []
  /-- Words W0 to W7 of the push slots, slot * 8 + word. -/
  push : SMap W64 := []
  batch : Nat := 0
  batchTick : Nat := 0
  /-- Place in the order of those that wait for range locks (R308). -/
  lockWait : Option Nat := none
deriving DecidableEq, Repr

/-- Who asked for a relayed command. -/
structure RelayFrom where
  rack : BitVec 10
  pos : BitVec 7
  tag : BitVec 20
  gen : BitVec 4
  seq : BitVec 32
deriving DecidableEq, Repr

/-- A command context (R296): the entry, where it came from, and what its work has given so far. -/
structure Ctx where
  q : Nat
  sqHead : Nat
  pushed : Bool
  relay : Option RelayFrom := none
  entry : List Byte
  /-- Order of the start among all commands. -/
  order : Nat
  finished : Bool := false
  abandoned : Bool := false
  status : Status := 0
  r0 : BitVec 32 := 0
  r1 : BitVec 32 := 0
  /-- The relay's answer gave RESULT0 and RESULT1 (R292). -/
  given : Bool × Bool := (false, false)
  /-- Digest lane held or awaited; scrub or elastic progress. -/
  lane : Option Nat := none
  /-- HMAC key as it stood at the grant of the lane (R341). -/
  key : List Byte := []
  /-- FENCE with ALLQ: orders of the commands it waits for. -/
  waits : List Nat := []
  /-- An NVMe read of it has been retried once (R193). -/
  retried : Bool := false
  /-- Fragment list of a DIGEST as read (R338). -/
  list : List Byte := []
  /-- Data returned to a relay. -/
  data : List Byte := []
  /-- Set-offset ranges asked of the Sedge host and not landed, what has landed, tick of the last arrival. -/
  want : List (Nat × Nat) := []
  asked : Bool := false
  area : Memory := []
  arrival : Nat := 0
  /-- Whom those ranges are asked of, and of which cut. -/
  fetch : Option (BitVec 10 × BitVec 7 × BitVec 64 × BitVec 8) := none
  /-- SCRUB with REPAIR: PEAT_GEN and extent record of each BAD extent still to be repaired, and the sources tried for the first. -/
  todo : List (Nat × Nat) := []
  tries : Nat := 0
deriving DecidableEq, Repr

/-- A range lock (R308). -/
structure Lock where
  ctx : Nat
  shard : BitVec 32
  tier : BitVec 3
  step : BitVec 64
  gen : BitVec 8
  lo : Nat
  hi : Nat
  excl : Bool
deriving DecidableEq, Repr

/-- A command that this Warden relayed and that is not answered yet (R292). -/
structure Relay where
  seq : BitVec 32
  tag : Nat
  gen : BitVec 4
  rack : BitVec 10
  pos : BitVec 7
  rank : BitVec 32
  ctx : Nat
  /-- It goes to every rank of the rack. -/
  all : Bool := false
  tick : Nat
  /-- Data bytes landed of a relayed READ SHARD, and their number at most. -/
  got : Nat := 0
  len : Nat := 0
  arrival : Nat := 0
  /-- Completion received while data is still short; the answer once it is final. -/
  early : Option (List Byte) := none
  result : Option (List Byte) := none
deriving DecidableEq, Repr

/-- Relay data staged on a target before or after its command (R292). -/
structure Staged where
  rack : BitVec 10
  pos : BitVec 7
  tag : BitVec 20
  gen : BitVec 4
  seq : BitVec 32
  got : Nat := 0
  long : Bool := false
  arrival : Nat := 0
  entry : List Byte := []
deriving DecidableEq, Repr

structure Cmd where
  queues : Vector Queue 8 := Vector.replicate 8 {}
  ctxs : SMap Ctx := []
  order : Nat := 0
  locks : List Lock := []
  lockSeq : Nat := 0
  relays : List Relay := []
  relaySeq : BitVec 32 := 0
  staged : List Staged := []
  /-- Completions of the last rack-wide relay, in rank order (log page 0x08). -/
  relayLog : List (List Byte) := []
  scrubCap : Nat := 10
deriving DecidableEq, Repr

/-! ## Check and digest -/

inductive LaneUser where
  | felt (seq : BitVec 32) (region : Nat)
  | drain
  | command (ctx : Nat)
  | verify
  | boot
deriving DecidableEq, Repr

inductive CtxUser where
  | felt (seq : BitVec 32) (region : Nat)
  | drain
  | command (ctx : Nat)
  | verify
  | software
deriving DecidableEq, Repr

structure Chk where
  lanes : Vector (Option LaneUser) 32 := Vector.replicate 32 none
  laneWait : List LaneUser := []
  ctxs : SMap CtxUser := []
  ctxWait : List CtxUser := []
  scans : Vector Bool 4 := Vector.replicate 4 false
deriving DecidableEq, Repr

/-! ## Election -/

/-- A candidacy heard: its key (1 - IN_RANGE, ELECT_PRIO, position), R354. -/
structure Candidacy where
  outRange : Bool
  prio : BitVec 16
  pos : BitVec 7
deriving DecidableEq, Repr

structure Elect where
  running : Bool := false
  start : Nat := 0
  heard : List Candidacy := []
  /-- Candidacies or claims sent so far in this election. -/
  sentCand : Nat := 0
  sentClaim : Nat := 0
  claimant : Bool := false
  decided : Bool := false
  accepted : Option (BitVec 7) := none
  /-- Tick of the last heartbeat of the rack Warden, or of START_OK or the accepted claim; one has been heard since. -/
  wardenHb : Nat := 0
  hadWarden : Bool := false
deriving DecidableEq, Repr

/-! ## The whole -/

/-- The engine, what stands behind its boundary, and the queue of commands that wait. -/
structure State where
  part : Part := {}
  board : Board := {}
  boot : Boot := {}
  store : Store := {}
  /-- The stored bits of every register, by offset; unlisted: the Reset column. -/
  regs : SMap W64 := []
  mem : Memory := []
  /-- The Sump halves (R165): key 2^48 times the half plus the offset; the manual gives them no BX3 address. -/
  sump : Memory := []
  log : List LogRec := []
  mon : Monitor := {}
  slices : Vector Causeway 42 := Vector.replicate 42 .closed
  /-- Slices that the Warden has placed in a channel since their Causeway opened (R54). -/
  placed : BitVec 42 := 0
  /-- The boundary-scan cells 1 to 31, bit k for cell k + 1 (R368). -/
  bscan : BitVec 31 := 0
  red : Red := {}
  ful : Ful := {}
  cut : CutUnit := {}
  sedge : Vector SedgeSet 8 := Vector.replicate 8 {}
  map : SMap MapEntry := []
  peat : Peat := {}
  sec : Sec := {}
  rst : Rst := {}
  warden : Warden := {}
  syn : Syn := {}
  tim : Tim := {}
  cmd : Cmd := {}
  chk : Chk := {}
  elect : Elect := {}
  /-- Reference ticks counted (R284). -/
  now : Nat := 0
  /-- Free values drawn so far. -/
  freeCtr : Nat := 0
  /-- Answer to the last register read. -/
  busRead : W64 := 0
  /-- Engine frames that stand at an egress, in the order in which they were handed to it (R72, R74, R79). -/
  outbox : List Sent := []
  acksOut : List AckSent := []
  irqs : List (BitVec 3) := []
  /-- BX3 frames that stand in a slice, in the order of their arrival (R32, R53). -/
  bx3Out : List (Fin 42 × Dir × Bx3Frame) := []
  /-- Frames that have gone on the wire, in order. -/
  wire : List Wire := []
  /-- Losers of arbitration (R71): at the node of a point's tree, the side that is granted next if it still waits. -/
  owed : SMap Bool := []
  /-- TC3 frames of the last 10 us on each Felting port: tick and bytes (R190). -/
  tc3 : SMap (List (Nat × Nat)) := []
  /-- The commands that wait, first in, first out. -/
  pending : List Instr := []
deriving DecidableEq, Repr

/-- Reasons to stop with a fault. -/
inductive Fault where
  /-- Never raised by a meaning so far: the manual names no event after which the engine is in no described state (R3). Safe. -/
  | none
deriving DecidableEq, Repr

/-- Reasons to refuse a command. -/
inductive Refusal where
  /-- Raised by an arm of `exec` whose row has no meaning yet. Safe. -/
  | notModelled (mnemonic : String)
deriving DecidableEq, Repr

/-- Right after a cold reset (R8, R48): every register at its Reset column, every unit empty, the boot ROM not yet running. -/
def State.reset : State := {}

end Sys2Proof.Machine
end

