-- ==== Sys2Proof/Machine/Ops.lean ====
section
/-! DEFINITION. The named operations that every unit shares: sparse maps, bytes and words of memory, register fields, the error log,
free values, phases of the engine, slices, alerts. -/
namespace Sys2Proof.Machine

/-- What a meaning answers. -/
abbrev Out := Host.Outcome State Fault Refusal

/-! ## Sparse maps -/

/-- The entry of a sparse map at a key. -/
def kget {α : Type} : SMap α → Nat → Option α
  | [], _ => none
  | (a, v) :: t, k => if a = k then some v else kget t k

/-- Set the entry at a key, keeping the keys rising. -/
def kset {α : Type} : SMap α → Nat → α → SMap α
  | [], k, v => [(k, v)]
  | (a, w) :: t, k, v => if k < a then (k, v) :: (a, w) :: t else if a = k then (k, v) :: t else (a, w) :: kset t k v

/-- Remove the entry at a key. -/
def kdel {α : Type} : SMap α → Nat → SMap α
  | [], _ => []
  | (a, w) :: t, k => if a = k then t else (a, w) :: kdel t k

/-- Keys rise strictly. -/
def rising {α : Type} : SMap α → Bool
  | [] => true
  | [_] => true
  | (a, _) :: (b, w) :: t => a < b && rising ((b, w) :: t)

/-! ## Bytes -/

/-- Number of a little-endian byte string (R5). -/
def leNat : List Byte → Nat
  | [] => 0
  | b :: t => b.toNat + 256 * leNat t

/-- Little-endian bytes of a number (R5). -/
def leBytes : Nat → Nat → List Byte
  | 0, _ => []
  | n + 1, v => BitVec.ofNat 8 v :: leBytes n (v / 256)

/-- Bits `lo` to `lo + len - 1` of a number. -/
def bits (w lo len : Nat) : Nat := (w >>> lo) % 2 ^ len

/-- One bit of a number. -/
def bitAt (w i : Nat) : Bool := w.testBit i

/-- A Bool as 0 or 1. -/
def b2n (b : Bool) : Nat := if b then 1 else 0

/-- A little-endian field of a byte string: first byte, bytes. -/
def fieldLE (bs : List Byte) (at' n : Nat) : Nat := leNat ((bs.drop at').take n)

/-- `n` zero bytes. -/
def zeros (n : Nat) : List Byte := List.replicate n 0

/-- A byte string cut or filled with zeros to `n` bytes. -/
def fitTo (n : Nat) (bs : List Byte) : List Byte := (bs ++ zeros (n - bs.length)).take n

/-- Bytes of an ASCII text. -/
def ascii (t : String) : List Byte := t.toList.map (fun c => BitVec.ofNat 8 c.toNat)

/-! ## Memory -/

/-- One byte; what nothing has written reads 0 (assumption 1). -/
def Memory.byteAt (m : Memory) (a : Nat) : Byte := (kget m a).getD 0

/-- Write one byte, keeping the canonical form. -/
def Memory.putByte (m : Memory) (a : Nat) (b : Byte) : Memory := if b = 0 then kdel m a else kset m a b

/-- `n` bytes from an address on. -/
def Memory.bytesAt (m : Memory) : Nat → Nat → List Byte
  | _, 0 => []
  | a, n + 1 => Memory.byteAt m a :: Memory.bytesAt m (a + 1) n

/-- Write a byte string. -/
def Memory.putBytes (m : Memory) : Nat → List Byte → Memory
  | _, [] => m
  | a, b :: t => Memory.putBytes (Memory.putByte m a b) (a + 1) t

/-- `n` bytes from an address on read as unlisted ones do. -/
def Memory.erase (m : Memory) (a n : Nat) : Memory := m.filter (fun c => c.1 < a || a + n ≤ c.1)

/-- The canonical form: rising addresses, no entry equal to what an unlisted address reads as. -/
def Memory.wf (m : Memory) : Bool := rising m && m.all (fun c => c.2 != 0)

/-- Read `n` bytes of BX3 memory. -/
def State.load (s : State) (a n : Nat) : List Byte := Memory.bytesAt s.mem a n

/-- Read an `n`-byte little-endian number of BX3 memory. -/
def State.loadN (s : State) (a n : Nat) : Nat := leNat (s.load a n)

/-- Write bytes to BX3 memory. -/
def State.store' (s : State) (a : Nat) (bs : List Byte) : State := { s with mem := Memory.putBytes s.mem a bs }

/-- Write an `n`-byte little-endian number to BX3 memory. -/
def State.storeN (s : State) (a n v : Nat) : State := s.store' a (leBytes n v)

/-! ## Vectors by a number -/

/-- Entry of a vector at a number, or `d` beyond its end. -/
def vget {α : Type} {n : Nat} (v : Vector α n) (i : Nat) (d : α) : α := v[i]?.getD d

/-- Replace the entry at a number; beyond the end, nothing. -/
def vset {α : Type} {n : Nat} (v : Vector α n) (i : Nat) (x : α) : Vector α n := v.setIfInBounds i x

/-! ## Register fields -/

/-- The stored bits of a register. -/
def State.getReg (s : State) (off : Nat) : W64 := (kget s.regs off).getD (regReset off)

/-- Store the bits of a register, keeping the canonical form (an entry equal to the Reset column is not listed). -/
def State.setReg (s : State) (off : Nat) (v : W64) : State :=
  { s with regs := if v = regReset off then kdel s.regs off else kset s.regs off v }

/-- A number with the bits of one field replaced. -/
def putBits (w lo len v : Nat) : Nat := w - bits w lo len * 2 ^ lo + (v % 2 ^ len) * 2 ^ lo

/-- A field as a number. -/
def State.rd (s : State) (f : Fld) : Nat := bits (s.getReg f.off).toNat f.lo f.len

/-- A one-bit field. -/
def State.rdB (s : State) (f : Fld) : Bool := s.rd f == 1

/-- Set a field. -/
def State.wr (s : State) (f : Fld) (v : Nat) : State :=
  s.setReg f.off (BitVec.ofNat 64 (putBits (s.getReg f.off).toNat f.lo f.len v))

/-- Set a one-bit field. -/
def State.wrB (s : State) (f : Fld) (b : Bool) : State := s.wr f (b2n b)

/-- Advance a counter field, saturating at its largest value. -/
def State.bump (s : State) (f : Fld) (by' : Nat := 1) : State := s.wr f (min (s.rd f + by') (2 ^ f.len - 1))

/-- Advance a counter field, modulo its width. -/
def State.count (s : State) (f : Fld) : State := s.wr f (s.rd f + 1)

/-- Set an error or cause bit. -/
def State.raise (s : State) (f : Fld) : State := s.wr f 1

/-- Set an error or cause bit under a condition. -/
def State.raiseIf (s : State) (c : Bool) (f : Fld) : State := if c then s.raise f else s

/-- Clear one bit of a field. -/
def State.clearBit (s : State) (f : Fld) (k : Nat) : State := s.wr f (s.rd f - b2n (bitAt (s.rd f) k) * 2 ^ k)

/-- Rewrite a field that holds one number by another. -/
def State.rename (s : State) (f : Fld) (old new : Nat) : State := if s.rd f = old then s.wr f new else s

/-- An address field whose low `lo` bits are 0: the field as it stands in the register. -/
def State.rdAddr (s : State) (f : Fld) : Nat := s.rd f * 2 ^ f.lo

/-! ## Control -/

/-- Do something only under a condition. -/
def State.iff' (s : State) (c : Bool) (f : State → State) : State := if c then f s else s

/-- Draw a free choice among `n`. -/
def State.pickFree (s : State) (n : Nat) : Nat × State := (Config.freeNat s.freeCtr % n, { s with freeCtr := s.freeCtr + 1 })

/-- Draw a free bit. -/
def State.pickBool (s : State) : Bool × State := (Config.freeBool s.freeCtr, { s with freeCtr := s.freeCtr + 1 })

/-! ## Time in reference ticks of 10 ns -/

/-- Ticks of a number of microseconds. -/
def usTicks (n : Nat) : Nat := n * 100
/-- Ticks of a number of milliseconds. -/
def msTicks (n : Nat) : Nat := n * 100000
/-- A period has passed since a tick. -/
def State.elapsed (s : State) (since period : Nat) : Bool := since + period ≤ s.now

/-! ## Phases -/

/-- Power-good is asserted and no test instruction holds the engine in cold reset (R42, R367). -/
def State.powered (s : State) : Bool := s.boot.phase != .unpowered && s.boot.phase != .tapTest

/-- The units that Hummock mode keeps idle may run (R352). -/
def State.hw (s : State) : Bool := s.powered && s.boot.phase != .hummock

/-- The firmware has reached START_OK (R350). -/
def State.fw (s : State) : Bool := s.boot.phase == .running

/-- Commands are served (R307, R352). -/
def State.served (s : State) : Bool := s.boot.phase == .running || s.boot.phase == .hummock

/-! ## Slices (R2, R30) -/

/-- Link slices present. -/
def State.sliceCount (s : State) : Nat := if s.part.dies = 3 then 42 else 28
/-- A slice is present. -/
def State.present (s : State) (n : Nat) : Bool := n < s.sliceCount
/-- The slice's Causeway is open. -/
def State.isOpen (s : State) (n : Nat) : Bool := vget s.slices n .closed == .opened
/-- A scale-out slice. -/
def isSo (n : Nat) : Bool := (24 ≤ n && n < 28) || (40 ≤ n && n < 42)
/-- Slice of a UFL port. -/
def uflSlice (p : Nat) : Nat := if p < 24 then p else p + 4
/-- Slice of a scale-out port. -/
def soSlice (k : Nat) : Nat := if k < 4 then 24 + k else 36 + k
/-- BX3 port number of a slice. -/
def portOf (n : Nat) : Nat := if n < 24 then n else if n < 28 then n - 24 else if n < 40 then n - 4 else n - 36
/-- I/O die of a slice. -/
def dieOf (n : Nat) : Nat := if n < 12 then 0 else if n < 24 then 1 else if n < 26 then 0 else if n < 28 then 1 else 2

/-! ## Error log (R363) -/

/-- KIND codes of the error log. -/
def Kind.access : Nat := 1
def Kind.abort : Nat := 2
def Kind.race : Nat := 3
def Kind.restore : Nat := 4
def Kind.reset : Nat := 5
def Kind.ecc : Nat := 6
def Kind.hummock : Nat := 7
def Kind.power : Nat := 8
def Kind.corner : Nat := 9
def Kind.nvme : Nat := 10
def Kind.remote : Nat := 11
def Kind.firmware : Nat := 12

/-- UNIT codes of the error log. -/
def Unit'.ctl : Nat := 1
def Unit'.cmd : Nat := 2
def Unit'.syn : Nat := 3
def Unit'.tim : Nat := 4
def Unit'.red : Nat := 5
def Unit'.ful : Nat := 6
def Unit'.tier : Nat := 7
def Unit'.peat : Nat := 8
def Unit'.chk : Nat := 9
def Unit'.sec : Nat := 10
def Unit'.lnk (n : Nat) : Nat := 0x40 + n

/-- Write a record: the newest overwrites the oldest of 1,024. -/
def State.logIt (s : State) (kind : Nat) (st : Status) (unit : Nat) (detail : List Byte) : State :=
  let a := s.tim.domA
  let r : LogRec :=
    { sec := if a.valid then BitVec.ofNat 64 a.sec else 0, ns := if a.valid then BitVec.ofNat 32 a.ns else 0, valid := a.valid,
      kind := BitVec.ofNat 8 kind, status := st, unit := BitVec.ofNat 8 unit, rseq := BitVec.ofNat 16 (s.rd Fld.ctlErrlog.head),
      detail := fitTo 12 detail }
  { s with log := (r :: s.log).take 1024 }.count Fld.ctlErrlog.head

/-- `n` free bytes. -/
def State.freeBytes (s : State) (n : Nat) : List Byte × State :=
  ((List.range n).map (Config.freeByte s.freeCtr), { s with freeCtr := s.freeCtr + 1 })

/-- Record something whose DETAIL the firmware defines: free bytes (R363). -/
def State.logFw (s : State) (kind : Nat) (st : Status) (unit : Nat) : State :=
  let (b, s) := s.freeBytes 12
  s.logIt kind st unit b

/-- A log record of 32 bytes (R363). -/
def LogRec.bytes (r : LogRec) : List Byte :=
  leBytes 8 r.sec.toNat ++ leBytes 4 r.ns.toNat ++ leBytes 1 (b2n r.valid) ++ leBytes 1 r.kind.toNat ++ leBytes 2 r.status.toNat ++
    leBytes 1 r.unit.toNat ++ [0] ++ leBytes 2 r.rseq.toNat ++ fitTo 12 r.detail

/-- Record of a task or command abort: queue or channel, SEQ, Shard ID. -/
def State.logAbort (s : State) (unit queue seq shard : Nat) (st : Status) : State :=
  s.logIt Kind.abort st unit (leBytes 1 queue ++ zeros 3 ++ leBytes 4 seq ++ leBytes 4 shard)

/-- The block that an offset belongs to, as a UNIT code (R325); 0 where no block assigns it. -/
def unitOf (off : Nat) : Nat :=
  if off < 0x10000 then 1
  else if off < 0x11800 then 5
  else if 0x20000 ≤ off && off < 0x22A00 then 0x40 + (off - 0x20000) / 0x100
  else if 0x30000 ≤ off && off < 0x31100 then 6
  else if 0x32000 ≤ off && off < 0x32080 then 6
  else if 0x40000 ≤ off && off < 0x4A000 then 7
  else if 0x50000 ≤ off && off < 0x60000 then 8
  else if 0x60000 ≤ off && off < 0x70000 then 10
  else if 0x70000 ≤ off && off < 0x71100 then 3
  else if 0x72000 ≤ off && off < 0x72200 then 3
  else if 0x73000 ≤ off && off < 0x73520 then 3
  else if 0x74000 ≤ off && off < 0x78000 then 3
  else if 0x80000 ≤ off && off < 0x82000 then 4
  else if 0x90000 ≤ off && off < 0x92000 then 2
  else if 0xA0000 ≤ off && off < 0xB0000 then 9
  else 0

/-- Record an access error (R9, R10, R325). -/
def State.accessError (s : State) (off width : Nat) (isWrite : Bool) : State :=
  (s.logIt Kind.access 0 (unitOf off) (leBytes 4 off ++ leBytes 1 width ++ leBytes 1 (b2n isWrite))).raise Fld.ctlErrStatus.accessErr

/-- Watchdog numbers used in the race record (the manual gives the field, not its codes; assumption 14). -/
def Wd.redStream : Nat := 1
def Wd.contrib : Nat := 2
def Wd.mcast : Nat := 3
def Wd.fulStream : Nat := 4
def Wd.xchg : Nat := 5
def Wd.refill : Nat := 6
def Wd.remote : Nat := 7
def Wd.wait : Nat := 8
def Wd.barrier : Nat := 9
def Wd.relay : Nat := 10

/-- Log and count a race of R77; the answer says whether the expiry goes on to act. -/
def State.logRace (s : State) (unit task wd : Nat) (r : Race) : State :=
  match r with
  | .none => s
  | .expiryWon => (s.logIt Kind.race 0 unit (leBytes 4 task ++ leBytes 1 wd ++ leBytes 1 1)).bump Fld.ctlArbRace.expiryWon
  | .arrivalWon => (s.logIt Kind.race 0 unit (leBytes 4 task ++ leBytes 1 wd ++ leBytes 1 0)).bump Fld.ctlArbRace.arrivalWon

/-! ## Alerts (R39, R364) -/

/-- CGM_CTL_ALERT_STATUS, computed from the cause registers. -/
def State.alertBits (s : State) : Nat :=
  let any (off : Nat) : Bool := s.getReg off != 0
  let corner := (s.getReg Reg.ctlCornerStatus).toNat
  let board := (s.getReg Reg.ctlBoardStatus).toNat
  b2n (bits corner 1 5 != 0 || bitAt corner 7) + 2 * b2n (any Reg.redErrStatus) + 4 * b2n (any Reg.fulErrStatus) +
  8 * b2n (any Reg.tierErrStatus || any Reg.tierCutErrStatus || any Reg.tierRstErrStatus) + 16 * b2n (any Reg.peatErrStatus) +
  32 * b2n (any Reg.synErrStatus) + 64 * b2n (any Reg.cmdErrStatus) + 128 * b2n (any Reg.chkErrStatus) +
  256 * b2n (any Reg.ctlErrStatus) + 512 * b2n (bits board 2 3 != 0)

/-- CGM_ALERT_N is driven low: an unmasked group reads 1, and the pin is not high-impedance (VDDIO off, or a cold reset until the
boot ROM starts). -/
def State.alertPin (s : State) : Bool :=
  let hiZ := s.boot.phase == .unpowered || s.boot.phase == .tapTest || (s.boot.phase == .reset && s.boot.kind == .cold)
  !hiZ && (s.alertBits &&& (1023 - s.rd Fld.ctlAlertMask.mask)) != 0

/-- Raise a BX3 interrupt vector. -/
def State.irq (s : State) (v : Nat) : State := { s with irqs := s.irqs ++ [BitVec.ofNat 3 v] }

/-! ## Status codes (R324) -/

/-- Completed as asked. -/
def St.success : Status := 0x0000
/-- Reserved opcode. -/
def St.invalidOpcode : Status := 0x0101
/-- Reserved field, encoding, tier or alignment (R304). -/
def St.invalidField : Status := 0x0102
/-- Admin opcode on a pair without ADMIN. -/
def St.adminOnly : Status := 0x0103
/-- Not served in Hummock mode. -/
def St.hummockMode : Status := 0x0104
/-- Buffer outside the data window. -/
def St.outOfWindow : Status := 0x0105
/-- No such shard in the named cut. -/
def St.shardUnknown : Status := 0x0106
/-- The tier holds no copy of the named cut, or its generation was retired while the command ran. -/
def St.tierUnavailable : Status := 0x0107
/-- Not allowed in the engine's present state. -/
def St.stateConflict : Status := 0x0108
/-- Issued to an engine that does not hold the role required. -/
def St.notWarden : Status := 0x0109
/-- Relay target absent or silent. -/
def St.relayFailed : Status := 0x010A
/-- Data ended short of its declared length. -/
def St.lengthShort : Status := 0x0201
/-- Data beyond its declared length, or a malformed descriptor. -/
def St.lengthLong : Status := 0x0202
/-- Check value differs. -/
def St.crcMismatch : Status := 0x0203
/-- Digest differs, or replicas disagree. -/
def St.digestMismatch : Status := 0x0204
/-- Uncorrectable memory error. -/
def St.memUncorrectable : Status := 0x0205
/-- Flag set while already set. -/
def St.flagOverrun : Status := 0x0401
/-- Consume beyond production. -/
def St.countUnderflow : Status := 0x0402
/-- Pending produce beyond depth. -/
def St.produceOverflow : Status := 0x0403
/-- Produce beyond 2^48 − 1. -/
def St.countSaturated : Status := 0x0404
/-- Signal on a counter pair whose depth is 0. -/
def St.pairDisabled : Status := 0x0405
/-- Input of another step or generation. -/
def St.mixedStep : Status := 0x0501
/-- No source holds the cut. -/
def St.noSource : Status := 0x0502
/-- No standby spare. -/
def St.noSpare : Status := 0x0503
/-- Elastic map inconsistent. -/
def St.reshardInvalid : Status := 0x0504
/-- Stopped by a halt. -/
def St.halted : Status := 0x0505
/-- Schedule record failed its checks. -/
def St.recordInvalid : Status := 0x0506
/-- Backup contribution taken. -/
def St.contribLate : Status := 0x0601
/-- NaN or infinity in a result. -/
def St.nonfinite : Status := 0x0602
/-- Dropped from a multicast stream. -/
def St.receiverDropped : Status := 0x0603
/-- Barrier or wait timed out. -/
def St.barrierTimeout : Status := 0x0604
/-- Cut skipped. -/
def St.cutSkipped : Status := 0x0701
/-- Cut incomplete at Sedge. -/
def St.sedgeIncomplete : Status := 0x0702
/-- Batt-less Felting overtaken. -/
def St.feltDeadline : Status := 0x0703
/-- Commit barrier vetoed. -/
def St.cutVetoed : Status := 0x0704
/-- No usable drive. -/
def St.peatAbsent : Status := 0x0801
/-- Allocation units short. -/
def St.peatFull : Status := 0x0802
/-- Shard Map entries short. -/
def St.mapFull : Status := 0x0803
/-- NVMe error, timeout or link-down. -/
def St.peatIo : Status := 0x0804
/-- No loaded key matches. -/
def St.keyAbsent : Status := 0x0805
/-- Drive not formatted. -/
def St.peatUnformatted : Status := 0x0806
/-- Drive formatted by another engine. -/
def St.peatForeign : Status := 0x0807
/-- Ended by the power-fail sequence. -/
def St.pfailAbort : Status := 0x0808
/-- Image signature invalid. -/
def St.fwSignature : Status := 0x0901
/-- Image size invalid. -/
def St.fwImageSize : Status := 0x0902
/-- Slot is running. -/
def St.fwSlotActive : Status := 0x0903
/-- Download piece out of order. -/
def St.fwSequence : Status := 0x0904

end Sys2Proof.Machine
end

