-- ==== Sys2Proof/Machine/Crc.lean ====
section
/-! DEFINITION. The three check values of R327 and R328: CRC-32C, CRC-64, CRC-16. -/
namespace Sys2Proof.Machine

/-- A parameter set of R327; initial value and final XOR of the reflected ones are all ones. -/
structure CrcSet where
  width : Nat
  poly : Nat
  init : Nat
  reflected : Bool
  xorOut : Nat
deriving DecidableEq, Repr

def crc32cSet : CrcSet := ⟨32, 0x1EDC6F41, 0xFFFFFFFF, true, 0xFFFFFFFF⟩
def crc64Set : CrcSet := ⟨64, 0xAD93D23594C93659, 0xFFFFFFFFFFFFFFFF, true, 0xFFFFFFFFFFFFFFFF⟩
def crc16Set : CrcSet := ⟨16, 0x8BB7, 0, false, 0⟩

/-- The bits of a number in reverse order. -/
def reflectBits : Nat → Nat → Nat
  | 0, _ => 0
  | n + 1, v => (v % 2) * 2 ^ n + reflectBits n (v / 2)

/-- `n` shifts of a reflected CRC (least significant bit first). -/
def crcShiftR (poly : Nat) : Nat → Nat → Nat
  | 0, c => c
  | n + 1, c => crcShiftR poly n (if c % 2 = 1 then (c >>> 1) ^^^ poly else c >>> 1)

/-- `n` shifts of a CRC that is not reflected (most significant bit first). -/
def crcShiftL (width poly : Nat) : Nat → Nat → Nat
  | 0, c => c
  | n + 1, c => crcShiftL width poly n (if c.testBit (width - 1) then ((c <<< 1) % 2 ^ width) ^^^ poly else (c <<< 1) % 2 ^ width)

/-- One byte more (R328). -/
def crcByte (p : CrcSet) (c : Nat) (b : Byte) : Nat :=
  if p.reflected then crcShiftR (reflectBits p.width p.poly) 8 (c ^^^ b.toNat)
  else crcShiftL p.width p.poly 8 (c ^^^ (b.toNat <<< (p.width - 8)))

/-- A CRC from a given starting value (R332), with the final XOR. -/
def crcFrom (p : CrcSet) (start : Nat) (bs : List Byte) : Nat := (bs.foldl (crcByte p) start) ^^^ p.xorOut

/-- The CRC of a byte string. -/
def crcOf (p : CrcSet) (bs : List Byte) : Nat := crcFrom p p.init bs

def crc32c (bs : List Byte) : W32 := BitVec.ofNat 32 (crcOf crc32cSet bs)
def crc64 (bs : List Byte) : W64 := BitVec.ofNat 64 (crcOf crc64Set bs)

/-- The CRC-64 as the eight bytes that a structure stores. -/
def crc64Bytes (bs : List Byte) : List Byte := leBytes 8 (crcOf crc64Set bs)

/-- Cut a byte string into pieces of `k` bytes, the last one shorter (at most `fuel` pieces). -/
def piecesOf (k : Nat) : Nat → List Byte → List (List Byte)
  | 0, _ => []
  | _ + 1, [] => []
  | fuel + 1, bs => bs.take k :: piecesOf k fuel (bs.drop k)

/-- CRC-64 of each 1 MiB extent of a region (R329). -/
def extentCrcs (bs : List Byte) : List W64 := (piecesOf 1048576 (bs.length / 1048576 + 1) bs).map crc64

end Sys2Proof.Machine
end

