-- ==== Sys2Proof/Machine/Wire.lean ====
section
/-! DEFINITION. Engine frames on a link: the 32-byte header of R112 and its check value, sending, and what every receiver checks first. -/
namespace Sys2Proof.Machine

/-- Frame types. -/
def Ty.partial' : BitVec 8 := 0x41
def Ty.resultCopy : BitVec 8 := 0x42
def Ty.allGather : BitVec 8 := 0x43
def Ty.fetchData : BitVec 8 := 0x44
def Ty.fetchRequest : BitVec 8 := 0x45
def Ty.bucketAbort : BitVec 8 := 0x46
def Ty.drop : BitVec 8 := 0x47
def Ty.cutNotice : BitVec 8 := 0x51
def Ty.cutReply : BitVec 8 := 0x52
def Ty.keepReport : BitVec 8 := 0x53
def Ty.digest : BitVec 8 := 0x54
def Ty.feltData : BitVec 8 := 0x55
def Ty.feltAck : BitVec 8 := 0x56
def Ty.setRelease : BitVec 8 := 0x57
def Ty.heartbeat : BitVec 8 := 0x61
def Ty.engineNotice : BitVec 8 := 0x62
def Ty.halt : BitVec 8 := 0x63
def Ty.supplyQuery : BitVec 8 := 0x64
def Ty.candidate : BitVec 8 := 0x65
def Ty.refillData : BitVec 8 := 0x66
def Ty.refillAck : BitVec 8 := 0x67
def Ty.refillRequest : BitVec 8 := 0x68
def Ty.fence : BitVec 8 := 0x69
def Ty.arrival : BitVec 8 := 0x71
def Ty.treeUp : BitVec 8 := 0x72
def Ty.treeDone : BitVec 8 := 0x73
def Ty.barAbort : BitVec 8 := 0x74
def Ty.remoteWrite : BitVec 8 := 0x76
def Ty.remoteSignal : BitVec 8 := 0x77
def Ty.probe : BitVec 8 := 0x78
def Ty.probeResponse : BitVec 8 := 0x79
def Ty.followUp : BitVec 8 := 0x7A
def Ty.commandRelay : BitVec 8 := 0x81
def Ty.completionRelay : BitVec 8 := 0x82
def Ty.relayData : BitVec 8 := 0x83
def Ty.candidacy : BitVec 8 := 0x91
def Ty.claim : BitVec 8 := 0x92

/-- Traffic class of a frame by its TYPE (R113, R159, R170, R188, R226, R269, R277, R288, R292, R354): reduction and all-gather TC1, restore
and transfers TC2, Felting TC3, and everything else TC0. -/
def Ty.tc (ty : BitVec 8) : Nat :=
  if 0x41 ≤ ty.toNat && ty.toNat ≤ 0x45 then 1
  else if (0x66 ≤ ty.toNat && ty.toNat ≤ 0x68) || ty == Ty.remoteWrite || ty == Ty.remoteSignal || (0x81 ≤ ty.toNat && ty.toNat ≤ 0x83) then 2
  else if ty == Ty.feltData || ty == Ty.feltAck then 3
  else 0

/-- A data frame of a reduction channel. -/
def Ty.isData (ty : BitVec 8) : Bool := 0x41 ≤ ty.toNat && ty.toNat ≤ 0x44

/-- Header bytes 0 to 27 (R112). -/
def Frame.head (ty : BitVec 8) (f : Frame) : List Byte :=
  let r := f.rsv.toNat
  leBytes 1 ty.toNat ++
  leBytes 1 (b2n f.stage + 2 * b2n f.pfmt + 4 * b2n f.last + 8 * b2n f.card + 16 * bits r 26 4) ++
  leBytes 1 (f.channel.toNat + 32 * bits r 23 3) ++
  leBytes 1 f.hop.toNat ++
  leBytes 4 (f.tag.toNat + 2 ^ 20 * f.gen.toNat + 2 ^ 24 * bits r 15 8) ++
  leBytes 4 f.seq.toNat ++
  leBytes 2 (f.srcPos.toNat + 2 ^ 7 * bits r 6 9) ++
  leBytes 2 (f.srcRack.toNat + 2 ^ 10 * bits r 0 6) ++
  leBytes 6 f.offset.toNat ++
  leBytes 2 f.count.toNat ++
  leBytes 4 f.stepLo.toNat

/-- The CRC that the frame's bytes give (R112). -/
def Frame.crcOf (ty : BitVec 8) (f : Frame) : W32 := crc32c (Frame.head ty f ++ f.payload)

/-- The whole frame as it stands on the wire. -/
def Frame.bytes (ty : BitVec 8) (f : Frame) : List Byte := Frame.head ty f ++ leBytes 4 f.crc.toNat ++ f.payload

/-- TYPE and contents of a frame of at least 32 bytes: the inverse of `Frame.bytes`. -/
def Frame.ofBytes (bs : List Byte) : Option (BitVec 8 × Frame) :=
  if bs.length < 32 then none
  else
    let b (i n : Nat) : Nat := fieldLE bs i n
    some (bs.getD 0 0,
      { rsv := BitVec.ofNat 30 (bits (b 1 1) 4 4 * 2 ^ 26 + bits (b 2 1) 5 3 * 2 ^ 23 + bits (b 4 4) 24 8 * 2 ^ 15 +
          bits (b 12 2) 7 9 * 2 ^ 6 + bits (b 14 2) 10 6),
        stage := bitAt (b 1 1) 0, pfmt := bitAt (b 1 1) 1, last := bitAt (b 1 1) 2, card := bitAt (b 1 1) 3,
        channel := BitVec.ofNat 5 (b 2 1), hop := BitVec.ofNat 8 (b 3 1), tag := BitVec.ofNat 20 (b 4 4),
        gen := BitVec.ofNat 4 (bits (b 4 4) 20 4), seq := BitVec.ofNat 32 (b 8 4), srcPos := BitVec.ofNat 7 (b 12 2),
        srcRack := BitVec.ofNat 10 (b 14 2), offset := BitVec.ofNat 48 (b 16 6), count := BitVec.ofNat 16 (b 22 2),
        stepLo := BitVec.ofNat 32 (b 24 4), crc := BitVec.ofNat 32 (b 28 4), payload := bs.drop 32 })

/-! ## Sending -/

/-- This engine's rack index and physical position. -/
def State.myRack (s : State) : BitVec 10 := BitVec.ofNat 10 (s.rd Fld.tierIdent.rack)
def State.myPos (s : State) : BitVec 7 := BitVec.ofNat 7 (s.rd Fld.tierIdent.position)
def State.myRank (s : State) : Nat := s.rd Fld.tierIdent.rank

/-- A destination is this engine itself. -/
def State.isMe (s : State) (rack : BitVec 10) (pos : BitVec 7) : Bool := rack == s.myRack && pos == s.myPos

/-- Some Causeway is open. -/
def State.anyOpen (s : State) : Bool := (List.range 42).any s.isOpen

/-- A slice takes part in reduction channels, Carding and timestamping: its Causeway is open, and its Warden has placed it in a channel since it
opened (R54). -/
def State.takesPart (s : State) (n : Nat) : Bool := s.isOpen n && s.placed.getLsbD n

/-- Hand a frame to an egress: the source fields and the CRC are the engine's. A slice whose Causeway is not open sends nothing (R51,
R54); where the manual names no port, some open slice must be there. -/
def State.send (s : State) (slice : Option Nat) (dest : Dest) (ty : BitVec 8) (f : Frame) (leaf : Nat := 42) : State :=
  let ok := match slice with
    | some n => s.isOpen n
    | none => s.anyOpen
  if ok then
    let f := { f with srcPos := s.myPos, srcRack := s.myRack }
    let f := { f with crc := Frame.crcOf ty f }
    { s with outbox := s.outbox ++ [{ slice := slice, dest := dest, ty := ty, frame := f, leaf := leaf }] }
  else s

/-- Send one frame to an engine, on a port that the manual does not name. -/
def State.sendTo (s : State) (rack : BitVec 10) (pos : BitVec 7) (ty : BitVec 8) (f : Frame) : State :=
  s.send none (.pos rack pos) ty f

/-- Position of this rack's Warden (R357); the Warden itself has its own. -/
def State.wardenPos (s : State) : BitVec 7 := BitVec.ofNat 7 (s.rd Fld.ctlElect.wardenPos)
/-- This engine is its rack's Warden (or more). -/
def State.isWarden (s : State) : Bool := s.rd Fld.ctlElect.role != 0
/-- This engine is the lead Warden. -/
def State.isLead (s : State) : Bool := s.rd Fld.ctlElect.role == 3

/-- A control frame's payload with COUNT as its bytes. -/
def ctlFrame (f : Frame) (payload : List Byte) : Frame := { f with payload := payload, count := BitVec.ofNat 16 payload.length }

/-- The engine is halted (R227): it has received a halt and its job has not been released. -/
def State.halted (s : State) : Bool := s.rst.st != .running && s.rst.st != .standby

/-- SEQ of a restore-path frame: the epoch in [15:0] (R226). -/
def State.epochSeq (s : State) (hi : Nat) : BitVec 32 := BitVec.ofNat 32 (hi * 65536 + s.rst.epoch.toNat)

/-- Send an engine notice (R226): cause, queue or channel or port, its SEQ, status, Shard ID and STEP. -/
def State.noticeTo (s : State) (rack : BitVec 10) (pos : BitVec 7) (cause unit seq : Nat) (st : Status) (shard : Nat) (step : W64) : State :=
  s.sendTo rack pos Ty.engineNotice
    (ctlFrame { seq := s.epochSeq (seq % 65536), stepLo := BitVec.ofNat 32 step.toNat }
      (leBytes 1 cause ++ leBytes 1 unit ++ leBytes 2 st.toNat ++ leBytes 4 shard ++ leBytes 8 step.toNat))

/-- Send an engine notice to the rack Warden. -/
def State.notice (s : State) (cause unit seq : Nat) (st : Status) (shard : Nat) (step : W64) : State :=
  s.noticeTo s.myRack s.wardenPos cause unit seq st shard step

/-! ## Receiving -/

/-- Bytes of a frame on the wire. -/
def Frame.size (f : Frame) : Nat := 32 + f.payload.length

/-- A frame is too long for its class: a TC0 frame is at most 64 B (R78). The manual names no answer to a longer one; it is dropped as stale
(assumption 112). -/
def Frame.tooLong (ty : BitVec 8) (f : Frame) : Bool := Ty.tc ty == 0 && 64 < Frame.size f

/-- Bytes that fragments of DIRECT pieces hold in the buffer of a slice while they wait for their stream port. -/
def State.portHeld (s : State) (n : Nat) : Nat :=
  s.ful.ports.toList.foldl (fun a p => (p.held.filter (fun f => f.2.2.2.2 == n)).foldl (fun a f => a + 32 + 4 * f.2.2.2.1.length) a) 0

/-- Bytes of TC1 that the buffer of a slice holds: frames that wait for their bucket to start. -/
def State.tc1Held (s : State) (n : Nat) : Nat :=
  (s.red.waiting.filter (fun w => w.slice.val == n)).foldl (fun a w => a + Frame.size w.frame) 0 + s.portHeld n

/-- Bytes of the 192 KiB of a slice, per direction, that a class may fill (R78, R114): 8 KiB are TC0's, 168,000 B are TC1's, and TC2 and TC3
share the rest; while the job is halted TC2 may use TC1's reservation too. -/
def State.classRoom (s : State) (tc : Nat) : Nat :=
  match tc with
  | 0 => 8192
  | 1 => 168000
  | 2 => if s.halted then 20416 + 168000 else 20416
  | _ => 20416

/-- The link has a credit for a frame: its class has room in the slice's buffer. Only TC1 frames are ever held there, so no other class can
withhold a credit from TC0 (R78). A frame without a credit has not left its sender (assumption 113). -/
def State.credit (s : State) (n : Nat) (ty : BitVec 8) (f : Frame) : Bool :=
  let tc := Ty.tc ty
  (if tc = 1 then s.tc1Held n else if tc = 2 && s.halted then s.tc1Held n else 0) + Frame.size f ≤ s.classRoom tc

/-- What every slice checks of an engine frame before anything else (R111, R112): the Causeway is open, the link has a credit for it, the CRC
holds (else the CRC count), no reserved bit is set (else the stale count). `badCrc` is what a frame with a wrong CRC does besides. -/
def State.recv (s : State) (n : Nat) (ty : BitVec 8) (f : Frame) (act : State → State) (badCrc : State → State := id) : State :=
  if !(s.hw && s.isOpen n) || !s.credit n ty f then s
  else if Frame.crcOf ty f != f.crc then badCrc (s.bump (Fld.lnkDrop.crc n))
  else if f.rsv != 0 || Frame.tooLong ty f then s.bump (Fld.lnkDrop.stale n)
  else act s

/-- Drop a frame and count it as stale (R111). -/
def State.staleAt (s : State) (n : Nat) : State := s.bump (Fld.lnkDrop.stale n)

/-! ## Tags (R110) -/

/-- A tag that is neither in use nor in quarantine. -/
def Tags.isFree (t : Tags) (tag : Nat) : Bool := !t.inUse.contains tag && !t.quarantine.any (fun q => q.1 == tag)

/-- Tags free now. -/
def Tags.freeCount (t : Tags) : Nat := 2 ^ 20 - t.inUse.length - t.quarantine.length

/-- The first free tag from a number on, going round; at most `fuel` tags are looked at. -/
def Tags.nextFree (t : Tags) : Nat → Nat → Nat
  | 0, k => k % 2 ^ 20
  | n + 1, k => if t.isFree (k % 2 ^ 20) then k % 2 ^ 20 else Tags.nextFree t n (k + 1)

/-- Allocate a tag: which of the free ones is open (assumption 9); its generation advances by one modulo 16. -/
def State.allocTag (s : State) : (Nat × BitVec 4) × State :=
  let (k, s) := s.pickFree (2 ^ 20)
  let t := s.red.tags
  let tag := t.nextFree (t.inUse.length + t.quarantine.length) k
  let g : BitVec 4 := (kget t.gens tag).getD 0 + 1
  ((tag, g), { s with red := { s.red with tags := { t with gens := kset t.gens tag g, inUse := t.inUse ++ [tag] } } })

/-- Release a tag into its 4 ms of quarantine. -/
def State.releaseTag (s : State) (tag : Nat) : State :=
  let t := s.red.tags
  if t.inUse.contains tag then
    { s with red := { s.red with tags :=
      { t with
        inUse := t.inUse.filter (· != tag), lastSent := t.lastSent.filter (· != tag),
        quarantine := t.quarantine ++ [(tag, s.now + msTicks 4)] } } }
  else s

def State.releaseTags (s : State) (l : List Nat) : State := l.foldl State.releaseTag s

end Sys2Proof.Machine
end

