-- ==== Sys2Proof/Machine/Arbiter.lean ====
section
/-! DEFINITION. Arbitration: trees of two-way elements (R71, R72), and the egress of a link, where the four traffic classes share the wire
(R32, R74, R78, R79, R114, R190). -/
namespace Sys2Proof.Machine

/-! ## Trees of two-way elements -/

/-- A grant in the tree below one node, `depth` elements above the leaves. `reqs` are the leaves that wait, in the order of arrival. Where
both sides wait, the loser of the node's last grant goes first, and else the first to arrive. The losers of this grant are remembered in
`owed`, by the number of the node. -/
def arbDown : Nat → Nat → List Nat → SMap Bool → Option Nat × SMap Bool
  | 0, _, reqs, owed => (reqs.head?, owed)
  | d + 1, node, reqs, owed =>
    let ones := reqs.filter (fun l => l.testBit d)
    let zeros := reqs.filter (fun l => !l.testBit d)
    let side := if zeros.isEmpty then true else if ones.isEmpty then false
      else (kget owed node).getD ((reqs.head?.getD 0).testBit d)
    let loses := if side then !zeros.isEmpty else !ones.isEmpty
    let owed := if loses then kset owed node (!side) else kdel owed node
    arbDown d (2 * node + b2n side) (if side then ones else zeros) owed

/-- Number of the root of a point's tree: points do not share nodes. -/
def arbRoot (point : Nat) : Nat := (point + 1) * 2 ^ 16

/-- A grant at a point whose tree has `depth` levels. -/
def State.grant (s : State) (point depth : Nat) (reqs : List Nat) : Option Nat × State :=
  let (g, owed) := arbDown depth (arbRoot point) reqs s.owed
  (g, { s with owed := owed })

/-! ## The egress of a link -/

/-- A BX3 frame's share of a slice: the source of slice n holds leaf n (R72). -/
def bx3Class (f : Bx3Frame) : Nat := f.tc.toNat

/-- What waits at the egress of a slice: engine frames with their class and leaf, or BX3 frames. The number is the place in its list. -/
structure Waits where
  tc : Nat
  leaf : Nat
  bx3 : Bool
  place : Nat
deriving DecidableEq, Repr

/-- Entries of a list with their places. -/
def placed' {α : Type} (l : List α) : List (Nat × α) := (List.range l.length).zip l

/-- The engine frames that may ask for the wire of a port now: of the data frames of one channel only those of the leaf of the first that
stands here, since they leave a port in the order in which they were sent (R86, R89); TC3 only within the cap of a Felting port (R190). -/
def State.egressEngine (s : State) (port : Option Nat) (tc3 : Bool) : List Waits :=
  let here := (placed' s.outbox).filter (fun x => x.2.slice == port)
  let blocked (x : Nat × Sent) : Bool := Ty.isData x.2.ty &&
    here.any (fun y => y.1 < x.1 && Ty.isData y.2.ty && y.2.frame.channel == x.2.frame.channel && y.2.leaf != x.2.leaf)
  (here.filter (fun x => !blocked x && (Ty.tc x.2.ty != 3 || tc3))).map (fun x => ⟨Ty.tc x.2.ty, x.2.leaf, false, x.1⟩)

/-- The BX3 frames that leave a slice on its wire. -/
def State.egressBx3 (s : State) (n : Nat) (dir : Dir) : List Waits :=
  ((placed' s.bx3Out).filter (fun x => x.2.1.val == n && x.2.2.1 == dir)).map (fun x => ⟨bx3Class x.2.2.2, n, true, x.1⟩)

/-- Among what waits, only the highest class is granted (R74, R79). -/
def topClass (l : List Waits) : List Waits :=
  l.filter (fun x => l.all (fun y => x.tc ≤ y.tc))

/-- Bytes of TC3 that a Felting port has sent in the last 10 us. -/
def State.tc3Bytes (s : State) (n : Nat) : Nat :=
  (((kget s.tc3 n).getD []).filter (fun x => s.now < x.1 + usTicks 10)).foldl (fun a x => a + x.2) 0

/-- A slice whose port CGM_TIER_FELT_PORTS names. -/
def State.feltPort (s : State) (n : Nat) : Bool :=
  if isSo n then bitAt (s.rd Fld.tierFeltPorts.soMask) (portOf n) else bitAt (s.rd Fld.tierFeltPorts.uflMask) (portOf n)

/-- The port may send another TC3 frame: it has sent less than its cap in the last 10 us, at 100 GB/s of payload (R190). -/
def State.tc3Allows (s : State) (port : Option Nat) : Bool :=
  match port with
  | some n => !s.feltPort n || s.tc3Bytes n < 10000 * s.rd Fld.tierFeltCfg.tc3CapPct
  | none => true

/-- What goes on the wire, in its order. -/
def State.onWire (s : State) (l : List Wire) : State := { s with wire := s.wire ++ l }
/-- The engine frames that stand at an egress. -/
def State.outboxIs (s : State) (l : List Sent) : State := { s with outbox := l }
/-- The BX3 frames that stand in a slice. -/
def State.bx3Is (s : State) (l : List (Fin 42 × Dir × Bx3Frame)) : State := { s with bx3Out := l }

/-- An engine frame goes on the wire. -/
def State.wireEngine (s : State) (place : Nat) : State :=
  match s.outbox[place]? with
  | none => s
  | some f =>
    let s := (s.outboxIs (s.outbox.eraseIdx place)).onWire [.engine f]
    match f.slice with
    | some n =>
      if Ty.tc f.ty = 3 then
        { s with tc3 := kset s.tc3 n ((((kget s.tc3 n).getD []).filter (fun x => s.now < x.1 + usTicks 10)) ++ [(s.now, f.frame.payload.length)]) }
      else s
    | none => s

/-- A BX3 frame leaves its slice. -/
def State.wireBx3 (s : State) (place : Nat) : State :=
  match s.bx3Out[place]? with
  | none => s
  | some (n, dir, f) => (s.bx3Is (s.bx3Out.eraseIdx place)).onWire [.bx3 n dir f]

/-- One grant at a point with the waiting frames: at most one frame goes, from the first place of the leaf granted. -/
def State.egressGrant (s : State) (point : Nat) (waits : List Waits) : State :=
  let top := topClass waits
  match s.grant (4 * point + (top.head?.map (fun x => x.tc)).getD 0) 6 (top.map (fun x => x.leaf)) with
  | (none, _) => s
  | (some l, s) =>
    match top.find? (fun x => x.leaf == l) with
    | none => s
    | some x => if x.bx3 then s.wireBx3 x.place else s.wireEngine x.place

/-- The wire of a slice: the engine's frames and the BX3 frames of each class share it. Which came first of an engine frame and a BX3 frame
is not recorded and so is open. -/
def State.egressSlice (s : State) (n : Nat) : State :=
  let own := s.egressEngine (some n) (s.tc3Allows (some n))
  let bx3 := s.egressBx3 n .tx
  if own.isEmpty || bx3.isEmpty then s.egressGrant n (own ++ bx3)
  else
    let (first, s) := s.pickBool
    s.egressGrant n (if first then own ++ bx3 else bx3 ++ own)

/-- One frame boundary on every wire: each slice sends at most one frame toward the link and hands at most one BX3 frame to the BX3 link
logic, and of the frames whose port the manual does not name one goes. -/
def State.egress (s : State) : State :=
  let s := (List.range 42).foldl State.egressSlice s
  let s := (List.range 42).foldl (fun s n => s.egressGrant (64 + n) (s.egressBx3 n .rx)) s
  s.egressGrant 128 (s.egressEngine none (s.tc3Allows none))

/-- Frames of a slice that a close takes out of its egress before they start (R52): what is left, and what was taken. -/
def State.egressDrop (s : State) (n : Nat) : State := s.outboxIs (s.outbox.filter (fun f => f.slice != some n))

/-- The BX3 frames held in a slice are lost (R53). -/
def State.bx3Drop (s : State) (n : Nat) : State := s.bx3Is (s.bx3Out.filter (fun x => x.1.val != n))

/-- The BX3 frames held in a slice go on in order (R52). -/
def State.bx3Flush (s : State) (n : Nat) : State :=
  let mine := s.bx3Out.filter (fun x => x.1.val == n)
  (s.bx3Is (s.bx3Out.filter (fun x => x.1.val != n))).onWire (mine.map (fun x => .bx3 x.1 x.2.1 x.2.2))

end Sys2Proof.Machine
end

