-- ==== Sys2Proof/Machine/Aes.lean ====
section
/-! DEFINITION. AES-256 and its XTS mode (IEEE 1619), as R208 and R210 use them on Peat. -/
namespace Sys2Proof.Machine

/-- Double in the field of AES. -/
def xtime (x : Nat) : Nat := if x < 128 then 2 * x else (2 * x % 256) ^^^ 0x1B

/-- Product in the field of AES, over the bits of the second factor. -/
def gmulN : Nat → Nat → Nat → Nat
  | 0, _, _ => 0
  | n + 1, a, b => (if b % 2 = 1 then a else 0) ^^^ gmulN n (xtime a) (b / 2)
def gmul (a b : Nat) : Nat := gmulN 8 a b

/-- Inverse in the field (0 goes to 0): the 254th power. -/
def ginv (x : Nat) : Nat :=
  let x2 := gmul x x; let x4 := gmul x2 x2; let x8 := gmul x4 x4; let x16 := gmul x8 x8
  let x32 := gmul x16 x16; let x64 := gmul x32 x32; let x128 := gmul x64 x64
  gmul (gmul (gmul x128 x64) (gmul x32 x16)) (gmul (gmul x8 x4) x2)

/-- Rotation of a byte to the left. -/
def rotl8 (x n : Nat) : Nat := ((x <<< n) % 256) ||| (x >>> (8 - n))

/-- The S-box and its inverse. -/
def sbox (x : Nat) : Nat := let y := ginv x; y ^^^ rotl8 y 1 ^^^ rotl8 y 2 ^^^ rotl8 y 3 ^^^ rotl8 y 4 ^^^ 0x63
def sboxInv (x : Nat) : Nat := ginv (rotl8 x 1 ^^^ rotl8 x 3 ^^^ rotl8 x 6 ^^^ 5)

/-- Both boxes as tables, so that a block costs lookups. -/
def sboxTab : List Nat := (List.range 256).map sbox
def sboxInvTab : List Nat := (List.range 256).map sboxInv

/-- XOR of byte lists of numbers. -/
def xorL (a b : List Nat) : List Nat := List.zipWith (· ^^^ ·) a b

/-- Key schedule of AES-256: words, newest first, from the 8 words of the key. -/
def aesExpand : Nat → Nat → Nat → List (List Nat) → List (List Nat)
  | 0, _, _, ws => ws
  | n + 1, i, rc, ws =>
    let prev := ws.getD 0 []; let old := ws.getD 7 []
    let sub := fun (w : List Nat) => w.map (fun x => sboxTab.getD x 0)
    let t := if i % 8 = 0 then xorL (sub (prev.drop 1 ++ prev.take 1)) [rc, 0, 0, 0] else if i % 8 = 4 then sub prev else prev
    aesExpand n (i + 1) (if i % 8 = 0 then xtime rc else rc) (xorL old t :: ws)

/-- The 15 round keys of a 32-byte key. -/
def aesKeys (key : List Byte) : List (List Nat) :=
  let k := key.map BitVec.toNat
  let ws := (aesExpand 52 8 1 ((List.range 8).map (fun i => (k.drop (4 * i)).take 4)).reverse).reverse
  (List.range 15).map (fun r => ((ws.drop (4 * r)).take 4).flatten)

/-- ShiftRows and its inverse on the column-major state. -/
def shiftRows (st : List Nat) : List Nat := (List.range 16).map (fun i => st.getD ((i % 4) + 4 * ((i / 4 + i % 4) % 4)) 0)
def shiftRowsInv (st : List Nat) : List Nat := (List.range 16).map (fun i => st.getD ((i % 4) + 4 * ((i / 4 + 4 - i % 4) % 4)) 0)

/-- MixColumns with the given first row of its matrix. -/
def mixCols (row : List Nat) (st : List Nat) : List Nat :=
  (List.range 16).map (fun i =>
    (List.range 4).foldl (fun a j => a ^^^ gmul (st.getD (4 * (i / 4) + j) 0) (row.getD ((j + 4 - i % 4) % 4) 0)) 0)

/-- One block through AES-256. -/
def aesEnc (keys : List (List Nat)) (blk : List Nat) : List Nat :=
  let sub := fun (st : List Nat) => st.map (fun x => sboxTab.getD x 0)
  let mid := ((keys.drop 1).take 13).foldl (fun st k => xorL (mixCols [2, 3, 1, 1] (shiftRows (sub st))) k) (xorL blk (keys.getD 0 []))
  xorL (shiftRows (sub mid)) (keys.getD 14 [])

/-- One block back through AES-256. -/
def aesDec (keys : List (List Nat)) (blk : List Nat) : List Nat :=
  let sub := fun (st : List Nat) => st.map (fun x => sboxInvTab.getD x 0)
  let mid := ((keys.drop 1).take 13).reverse.foldl (fun st k => mixCols [14, 11, 13, 9] (xorL (sub (shiftRowsInv st)) k))
    (xorL blk (keys.getD 14 []))
  xorL (sub (shiftRowsInv mid)) (keys.getD 0 [])

/-- The next tweak: a doubling in the field of 128 bits. -/
def xtsDouble (t : Nat) : Nat := if t < 2 ^ 127 then 2 * t else (2 * t % 2 ^ 128) ^^^ 0x87

/-- Blocks of one data unit, each with its tweak (data units here are whole blocks: 4 KiB). -/
def xtsBlocks (f : List Nat → List Nat) : Nat → Nat → List Byte → List Byte
  | 0, _, _ => []
  | n + 1, t, bs =>
    let tw := (leBytes 16 t).map BitVec.toNat
    ((xorL (f (xorL ((bs.take 16).map BitVec.toNat) tw)) tw).map (BitVec.ofNat 8)) ++ xtsBlocks f n (xtsDouble t) (bs.drop 16)

/-- One data unit under AES-256-XTS: a 64-byte key (data half, then tweak half) and the data unit number. -/
def xtsUnit (enc : Bool) (key : List Byte) (dun : Nat) (bs : List Byte) : List Byte :=
  let k1 := aesKeys (key.take 32); let k2 := aesKeys ((key.drop 32).take 32)
  let t := leNat ((aesEnc k2 ((leBytes 16 dun).map BitVec.toNat)).map (BitVec.ofNat 8))
  xtsBlocks (if enc then aesEnc k1 else aesDec k1) (bs.length / 16) t bs

/-- Consecutive 4 KiB data units from a data unit number on. -/
def xtsRun (enc : Bool) (key : List Byte) : Nat → Nat → List Byte → List Byte
  | 0, _, _ => []
  | n + 1, dun, bs => xtsUnit enc key dun (bs.take 4096) ++ xtsRun enc key n (dun + 1) (bs.drop 4096)

end Sys2Proof.Machine
end

