-- ==== Sys2Proof/Machine/Lanes.lean ====
section
/-! DEFINITION. Digest lanes and scan contexts as resources (R329, R330, R334 to R336): who holds which, and who waits. -/
namespace Sys2Proof.Machine

def State.onChk (s : State) (f : Chk → Chk) : State := { s with chk := f s.chk }

/-- The lowest-numbered free digest lane. -/
def State.freeLane (s : State) : Option Nat := (List.range 32).find? (fun n => vget s.chk.lanes n none == none)

/-- A lane is held for Felting or a Peat drain. -/
def LaneUser.felting : LaneUser → Bool
  | .felt _ _ => true
  | .drain => true
  | _ => false

/-- Lanes held by Felting and Peat drains. -/
def State.lanesFelting (s : State) : Nat :=
  (s.chk.lanes.toList.filter (fun l => match l with | some u => u.felting | none => false)).length

def State.takeLane (s : State) (n : Nat) (u : LaneUser) : State := s.onChk (fun c => { c with lanes := vset c.lanes n (some u) })
def State.dropLane (s : State) (n : Nat) : State := s.onChk (fun c => { c with lanes := vset c.lanes n none })

/-- Release every lane and every place in the queue of the users that a test accepts. -/
def State.dropLanes (s : State) (t : LaneUser → Bool) : State :=
  s.onChk (fun c =>
    { c with
      lanes := c.lanes.map (fun l => match l with | some u => if t u then none else l | none => none),
      laneWait := c.laneWait.filter (fun u => !t u) })

/-- Active contexts of a scan engine. -/
def State.ctxLoad (s : State) (e : Nat) : Nat := (s.chk.ctxs.filter (fun c => c.1 / 16 == e)).length

/-- Lowest free context of an engine, its software-fed context 15 left out. -/
def State.freeCtxOf (s : State) (e : Nat) : Option Nat :=
  ((List.range 15).map (fun c => 16 * e + c)).find? (fun k => (kget s.chk.ctxs k).isNone)

/-- The context that the choice of R330 gives among some engines: fewest active contexts, ties to the lowest number. -/
def State.freeCtx (s : State) (es : List Nat) : Option Nat :=
  let ok := es.filter (fun e => (s.freeCtxOf e).isSome)
  match ok with
  | [] => none
  | e :: t => s.freeCtxOf (t.foldl (fun b x => if s.ctxLoad x < s.ctxLoad b then x else b) e)

def State.takeCtx (s : State) (k : Nat) (u : CtxUser) : State := s.onChk (fun c => { c with ctxs := kset c.ctxs k u })
def State.dropCtx (s : State) (k : Nat) : State := s.onChk (fun c => { c with ctxs := kdel c.ctxs k })

/-- Release every scan context of the users that a test accepts. -/
def State.dropCtxs (s : State) (t : CtxUser → Bool) : State := s.onChk (fun c => { c with ctxs := c.ctxs.filter (fun x => !t x.2) })

end Sys2Proof.Machine
end

