-- ==== Sys2Proof/Machine/Sedge.lean ====
section
/-! DEFINITION. The host side of Sedge (R183 to R188): sets, page tables, allocation, the Carding keep (R109, R156, R173); and the Shard Map
(R211 to R213). -/
namespace Sys2Proof.Machine

/-- Bytes of a pool page. -/
def pageBytes : Nat := 0x4000000

/-- A Sedge set by its number, 2 times the owner slot plus the set index. -/
def State.set (s : State) (k : Nat) : SedgeSet := vget s.sedge k {}
def State.putSet (s : State) (k : Nat) (x : SedgeSet) : State := { s with sedge := vset s.sedge k x }

/-- Pool pages that no set holds, lowest first. -/
def State.freePages (s : State) : List Nat :=
  let used := s.sedge.toList.flatMap (fun x => x.pages)
  (List.range (s.rd Fld.tierSedgePool.pages)).filter (fun p => !used.contains p)

/-- Address behind a set offset; none at or beyond the set's pages. -/
def State.setAddr (s : State) (k off : Nat) : Option Nat :=
  (s.set k).pages[off / pageBytes]?.map (fun p => s.rdAddr Fld.tierSedgePool.base + p * pageBytes + off % pageBytes)

/-- Bytes of a set, through its page table. -/
def State.setLoad (s : State) (k off n : Nat) : List Byte :=
  (List.range ((n + pageBytes - 1) / pageBytes + 1)).flatMap (fun i =>
    let lo := if i = 0 then off else (off / pageBytes + i) * pageBytes
    let hi := min (off + n) ((off / pageBytes + i + 1) * pageBytes)
    match s.setAddr k lo with
    | some a => if lo < hi then s.load a (hi - lo) else []
    | none => [])

/-- A write into a set passes only while the set is FILLING and inside its pages (R185). -/
def State.setTakes (s : State) (k off n : Nat) : Bool :=
  (s.set k).st == .filling && off + n ≤ (s.set k).pages.length * pageBytes

/-- Write into a set, through its page table; a write that may not pass is dropped and counted. -/
def State.setStore (s : State) (k off : Nat) (bs : List Byte) : State :=
  if !s.setTakes k off bs.length then (s.bump Fld.tierSedgeCounts.staleFelt).raise Fld.tierErrStatus.staleFelt
  else
    let room := pageBytes - off % pageBytes
    let put (s : State) (o : Nat) (b : List Byte) : State :=
      match s.setAddr k o with
      | some a => s.store' a b
      | none => s
    put (put s off (bs.take room)) (off + room) (bs.drop room)

/-- Owner of a slot. -/
def State.ownerOf (s : State) (slot : Nat) : BitVec 10 × BitVec 7 :=
  (BitVec.ofNat 10 (s.rd (Fld.tierOwner.rack slot)), BitVec.ofNat 7 (s.rd (Fld.tierOwner.position slot)))

/-- The valid owner slot of an engine. -/
def State.slotOf (s : State) (rack : BitVec 10) (pos : BitVec 7) : Option Nat :=
  (List.range 4).find? (fun i => s.rdB (Fld.tierOwner.valid i) && s.ownerOf i == (rack, pos))

/-- Free a set and its pages. -/
def State.freeSet (s : State) (k : Nat) : State := s.putSet k {}

/-- Header fields of a cut-path frame (R160). -/
def cutFrame (step : W64) (gen : BitVec 8) (hop : Nat) (payload : List Byte) : Frame :=
  ctlFrame
    { hop := BitVec.ofNat 8 hop, seq := BitVec.ofNat 32 (step.toNat / 2 ^ 32), stepLo := BitVec.ofNat 32 step.toNat,
      offset := BitVec.ofNat 48 gen.toNat } payload

/-- STEP that a frame carries in SEQ and STEP_LO (R160, R188). -/
def frameStep (f : Frame) : W64 := BitVec.ofNat 64 (f.seq.toNat * 2 ^ 32 + f.stepLo.toNat)

/-! ## The Carding keep -/

/-- Header word of a channel in the keep table: SEQ_BASE, BUCKETS, FIRST. -/
def State.keepHead (s : State) (ch : Nat) : Nat × Nat × Nat :=
  let h := s.loadN (s.rdAddr Fld.tierKeepTab.base + 8 * ch) 8
  (bits h 0 32, bits h 32 16, bits h 48 16)

/-- Keep-table slot of a SEQ on a channel with buckets. -/
def keepSlot (h : Nat × Nat × Nat) (seq : W32) : Nat := ((seq.toNat + 2 ^ 32 - h.1) % 2 ^ 32) % h.2.1

/-- A keep-table entry: SHARD, owner word, offset word. -/
def State.keepEntry (s : State) (i : Nat) : Nat × Nat × Nat :=
  let a := s.rdAddr Fld.tierKeepTab.base + 256 + 16 * i
  (s.loadN a 4, s.loadN (a + 4) 4, s.loadN (a + 8) 8)

/-- A reserved bit of an entry is not zero. -/
def keepReserved (e : Nat × Nat × Nat) : Bool := 4 ≤ e.2.1 || 2 ^ 48 ≤ e.2.2

/-- The set of a slot that is FILLING for a STEP_LO. -/
def State.fillingSet (s : State) (slot : Nat) (stepLo : W32) : Option Nat :=
  [2 * slot, 2 * slot + 1].find? (fun k => (s.set k).st == .filling && BitVec.ofNat 32 (s.set k).step.toNat == stepLo)

/-- The windows that the owner of a slot expects (R173): channel and keep-table slot. -/
def State.keepExpected (s : State) (slot : Nat) : List (Nat × Nat) :=
  (List.range 32).flatMap (fun ch =>
    let h := s.keepHead ch
    ((List.range h.2.1).filter (fun b =>
      let e := s.keepEntry (h.2.2 + b)
      e.1 != 0xFFFFFFFF && e.2.1 % 4 == slot)).map (fun b => (ch, b)))

/-- Send the keep report of a set once, when it is settled (R173). -/
def State.keepReport (s : State) (k : Nat) : State :=
  let x := s.set k
  if x.st != .filling || x.reported then s
  else
    let all := (s.keepExpected (k / 2)).all (fun e => x.windows.any (fun w => w.1 == e.1 && w.2.1 == e.2 && w.2.2 == 0))
    if x.broken || all then
      let (r, p) := s.ownerOf (k / 2)
      (s.putSet k { x with reported := true }).sendTo r p Ty.keepReport
        (cutFrame x.step x.gen 0 (leBytes 8 (b2n (!x.broken) + 65536 * x.kept)))
    else s

/-- Count bytes of a window as kept; `total` is the window's size. -/
def keepCount (ch b total n : Nat) : List (Nat × Nat × Nat) → List (Nat × Nat × Nat)
  | [] => [(ch, b, total - n)]
  | w :: t => if w.1 == ch && w.2.1 == b then (ch, b, w.2.2 - n) :: t else w :: keepCount ch b total n t

/-- The keep of one CARD all-gather frame (R109, R156): slice, channel, SEQ, STEP_LO, the keep window in elements, element size, first
element and bytes of the frame. -/
def State.keepFrame (s : State) (n ch : Nat) (seq stepLo : W32) (lo hi es first : Nat) (bs : List Byte) : State :=
  let a := max first lo
  let z := min (first + bs.length / es) hi
  if !s.rdB (Fld.redChKeep.keepEn ch) || z ≤ a then s
  else
    let h := s.keepHead ch
    if h.2.1 = 0 then s
    else
      let b := keepSlot h seq
      let e := s.keepEntry (h.2.2 + b)
      let slot := e.2.1 % 4
      let miss := s.bump (Fld.lnkKeep.keepMiss n)
      if keepReserved e then miss
      else if e.1 = 0xFFFFFFFF then s
      else if !s.rdB (Fld.tierOwner.valid slot) then miss
      else match s.fillingSet slot stepLo with
        | none => miss
        | some k =>
          let data := (bs.drop ((a - first) * es)).take ((z - a) * es)
          let off := e.2.2 + (a - lo) * es
          if !s.setTakes k off data.length then s.setStore k off data
          else
            let s := (s.setStore k off data).bump (Fld.lnkKeep.keepBytes n) data.length
            let x := s.set k
            let x := { x with windows := keepCount ch b ((hi - lo) * es) data.length x.windows, kept := x.kept + data.length }
            (s.putSet k x).keepReport k

/-- A CARD bucket ended without its keep window: the window can no longer be completed (R109, R173); or, with `ok`, it ended well, and an
empty window counts as kept. -/
def State.keepEnd (s : State) (ch : Nat) (seq stepLo : W32) (ok : Bool) (windowBytes : Nat) : State :=
  let h := s.keepHead ch
  if !s.rdB (Fld.redChKeep.keepEn ch) || h.2.1 = 0 then s
  else
    let b := keepSlot h seq
    let e := s.keepEntry (h.2.2 + b)
    if e.1 = 0xFFFFFFFF then s
    else match s.fillingSet (e.2.1 % 4) stepLo with
      | none => s
      | some k =>
        let x := s.set k
        let done := x.windows.any (fun w => w.1 == ch && w.2.1 == b && w.2.2 == 0)
        if ok then
          if windowBytes = 0 && !keepReserved e then (s.putSet k { x with windows := keepCount ch b 0 0 x.windows }).keepReport k else s
        else if done then s
        else (s.putSet k { x with broken := true }).keepReport k

/-! ## Accepting and releasing sets (R159, R186, R187) -/

/-- Open a set for a cut, or refuse; the answer's set index. -/
def State.acceptSet (s : State) (slot : Nat) (step : W64) (gen : BitVec 8) : Option Nat × State :=
  match [0, 1].find? (fun h => (s.set (2 * slot + h)).st == .free) with
  | none => (none, s)
  | some h =>
    let need := s.rd (Fld.tierOwner.setPages slot)
    let free := s.freePages
    if free.length < need then (none, (s.bump Fld.tierSedgeCounts.refusals).raise Fld.tierErrStatus.sedgeRefused)
    else (some h, s.putSet (2 * slot + h) { st := .filling, step := step, gen := gen, pages := free.take need, mirror := free.take need })

/-! ## The Shard Map -/

/-- Entries of the Shard Map. -/
def mapSize : Nat := 131072

/-- The lowest number that is no key, from `k` on, of keys that rise. -/
def lowestGap {α : Type} : SMap α → Nat → Nat
  | [], k => k
  | (a, _) :: t, k => if a = k then lowestGap t (k + 1) else k

/-- Free Shard Map entries. -/
def State.mapFree (s : State) : Nat := mapSize - s.map.length

/-- Put an entry into the lowest free place. -/
def State.mapAdd (s : State) (e : MapEntry) : State := { s with map := kset s.map (lowestGap s.map 0) e }

/-- A reservation or split found too few entries. -/
def State.mapRefuse (s : State) : State := (s.bump Fld.tierMapStatus.fullEvents).raise Fld.tierErrStatus.mapFull

/-- Free the entries that a test accepts. -/
def State.mapDrop (s : State) (t : MapEntry → Bool) : State := { s with map := s.map.filter (fun e => !t e.2) }

/-- Change the state of the entries that a test accepts. -/
def State.mapMove (s : State) (t : MapEntry → Bool) (st : MapState) : State :=
  { s with map := s.map.map (fun e => if t e.2 then (e.1, { e.2 with st := st }) else e) }

/-- Entries of one cut at Sedge, and of one generation at Peat. -/
def mapSedge (step : W64) (gen : BitVec 8) (e : MapEntry) : Bool := e.tier == 0 && e.step == step && e.gen == gen
def mapPeat (g : Nat) (e : MapEntry) : Bool := e.tier == 1 && e.loc.toNat == g

/-- Bytes of an extent. -/
def extentBytes : Nat := 0x100000
/-- Extents of a region. -/
def Region.extents (r : Region) : Nat := (r.len + extentBytes - 1) / extentBytes

/-- Reserve one entry per region (R212, R213), FILLING. -/
def State.mapReserve (s : State) (tier : BitVec 2) (gen : BitVec 8) (step : W64) (loc : W64) (rs : List Region) : State :=
  rs.foldl (fun s r => s.mapAdd { shard := r.shard, tier, st := .filling, gen, step, firstExt := 0, extCount := r.extents, loc }) s

/-- Mark one extent of a run BAD, splitting the run (R212); a split that finds no free entry leaves the whole run BAD. -/
def State.mapBad (s : State) (t : MapEntry → Bool) (shard : W32) (ext : Nat) : State :=
  match s.map.find? (fun e => t e.2 && e.2.shard == shard && e.2.firstExt ≤ ext && ext < e.2.firstExt + e.2.extCount) with
  | none => s
  | some (i, e) =>
    if e.st != .committed then s
    else
      let lo : List MapEntry := if e.firstExt < ext then [{ e with extCount := ext - e.firstExt }] else []
      let hi : List MapEntry :=
        if ext + 1 < e.firstExt + e.extCount then [{ e with firstExt := ext + 1, extCount := e.firstExt + e.extCount - ext - 1 }] else []
      if s.mapFree < lo.length + hi.length then { s with map := kset s.map i { e with st := .bad } }.mapRefuse
      else (lo ++ hi).foldl State.mapAdd { s with map := kset s.map i { e with firstExt := ext, extCount := 1, st := .bad } }

end Sys2Proof.Machine
end

