-- ==== Sys2Proof/Machine/Ctx.lean ====
section
/-! DEFINITION. Command contexts (R296, R303): the fields of an entry, and the end of a command's work. -/
namespace Sys2Proof.Machine

def State.onCmd (s : State) (f : Cmd → Cmd) : State := { s with cmd := f s.cmd }
def State.ctx? (s : State) (k : Nat) : Option Ctx := kget s.cmd.ctxs k
def State.putCtx (s : State) (k : Nat) (c : Ctx) : State := s.onCmd (fun m => { m with ctxs := kset m.ctxs k c })
def State.queue (s : State) (q : Nat) : Queue := vget s.cmd.queues q {}
def State.putQueue (s : State) (q : Nat) (x : Queue) : State := s.onCmd (fun m => { m with queues := vset m.queues q x })

/-! ## Fields of an entry (R303) -/

def Ctx.opc (c : Ctx) : Nat := fieldLE c.entry 0 1
def Ctx.ordered (c : Ctx) : Bool := bitAt (fieldLE c.entry 1 1) 0
def Ctx.shard (c : Ctx) : Nat := fieldLE c.entry 4 4
def Ctx.step (c : Ctx) : W64 := BitVec.ofNat 64 (fieldLE c.entry 8 8)
def Ctx.gen (c : Ctx) : BitVec 8 := BitVec.ofNat 8 (fieldLE c.entry 16 1)
def Ctx.tier (c : Ctx) : Nat := bits (fieldLE c.entry 17 1) 0 3
def Ctx.signal (c : Ctx) : Nat := fieldLE c.entry 18 2
def Ctx.target (c : Ctx) : Nat := fieldLE c.entry 20 4
def Ctx.addr (c : Ctx) : Nat := fieldLE c.entry 24 8
def Ctx.off (c : Ctx) : Nat := fieldLE c.entry 32 8
def Ctx.len (c : Ctx) : Nat := fieldLE c.entry 40 8
/-- Byte of the command-specific parameters, by its place in the entry. -/
def Ctx.csp (c : Ctx) (i : Nat) : Nat := fieldLE c.entry i 1

/-- The command's work has ended: it waits for its completion entry (R298). -/
def State.ctxEnd (s : State) (k : Nat) (st : Status) (r0 r1 : Nat) : State :=
  match s.ctx? k with
  | some c =>
    if c.finished then s
    else
      let s := if st = St.success then s else s.logAbort Unit'.cmd c.q (fieldLE c.entry 2 2) c.shard st
      s.putCtx k { c with finished := true, status := st, r0 := BitVec.ofNat 32 r0, r1 := BitVec.ofNat 32 r1 }
  | none => s

/-- Contexts that run a command a test accepts, in the order of their starts. -/
def State.ctxsWith (s : State) (t : Ctx → Bool) : List Nat := (s.cmd.ctxs.filter (fun x => t x.2)).map (fun x => x.1)

/-- A CUT PEAT_NEXT ends with the drain of its cut, or at its Peat barrier (R317). -/
def State.peatNextEnd (s : State) (seq : W32) (st : Status) : State :=
  match s.cut.peatNext with
  | some (_, k, some q) => if q == seq then ({ s with cut := { s.cut with peatNext := none } }).ctxEnd k st 0 0 else s
  | _ => s

end Sys2Proof.Machine
end

