-- ==== Sys2Proof/Machine/Flags.lean ====
section
/-! DEFINITION. The synchronisation unit's flags, counter pairs and waits (R254 to R266, R272): every signal of every unit goes through
these operations. -/
namespace Sys2Proof.Machine

/-- An engine unit: its signals and waits hold while QUIESCE is 1 (R272). -/
def Who.isUnit : Who → Bool
  | .software => false
  | _ => true

/-- A signaller whose waiting produce is counted in PEND (R262): a register write, a remote produce, and a FENCE, which signals on behalf
of its writer. -/
def Who.pends : Who → Bool
  | .software => true
  | .remote => true
  | .fence => true
  | _ => false

/-- Replace the synchronisation unit. -/
def State.onSyn (s : State) (f : Syn → Syn) : State := { s with syn := f s.syn }

def State.flag (s : State) (f : Nat) : Bool := s.syn.flags.getLsbD f
def State.putFlag (s : State) (f : Nat) (b : Bool) : State :=
  s.onSyn (fun y => { y with flags := if b then y.flags ||| BitVec.ofNat 1024 (2 ^ f) else y.flags &&& ~~~(BitVec.ofNat 1024 (2 ^ f)) })
def State.pair (s : State) (n : Nat) : Pair := vget s.syn.pairs n {}
def State.putPair (s : State) (n : Nat) (p : Pair) : State := s.onSyn (fun y => { y with pairs := vset y.pairs n p })

/-- Counts available on a pair. -/
def Pair.avail (p : Pair) : Nat := p.p - p.c

/-- PEND of a pair (R262): what software and remote signallers have pending. -/
def State.pend (s : State) (n : Nat) : Nat :=
  (s.syn.pends.filter (fun q => q.pair == n && q.who.pends)).foldl (fun a q => a + q.count) 0

def State.quiesced (s : State) : Bool := s.rdB Fld.synCtrl.quiesce

/-- Log an error, the first since the last read; its cause bit is set beside it. Kinds: 0 flag, 1 pair, 2 barrier, 3 remote transfer. -/
def State.synErr (s : State) (st : Status) (obj kind : Nat) (remote : Bool) : State :=
  if s.rdB Fld.synErrLog.valid then s
  else ((((s.wr Fld.synErrLog.status st.toNat).wr Fld.synErrLog.object obj).wr Fld.synErrLog.kind kind).wrB Fld.synErrLog.remote remote).wr
      Fld.synErrLog.valid 1

/-- The notify word of a wait slot (R266): status, and P of the pair or 0. -/
def State.notifySlot (s : State) (n : Nat) (st : Status) : State :=
  let isPair := s.rdB (Fld.synWait.kind n)
  let p := if isPair then (s.pair (s.rd (Fld.synWait.object n))).p else 0
  let s := s.onSyn (fun y => { y with waits := vset y.waits n {} })
  s.storeN (s.rdAddr Fld.synWaitNotify.base + 8 * n) 8 (st.toNat + p * 65536)

/-- A wait ends with a status; engine units see that their waiter is gone. -/
def State.endWait (s : State) (w : Waiter) (st : Status) : State :=
  match w.who with
  | .slot n => s.notifySlot n st
  | _ => s

/-- The waiter's condition holds (R265). -/
def State.waitHolds (s : State) (w : Waiter) : Bool :=
  if w.isPair then w.count ≤ (s.pair w.obj).avail else s.flag w.obj

/-- What a satisfied waiter consumes (R257, R265). -/
def State.waitConsume (s : State) (w : Waiter) : State :=
  if w.isPair then
    if w.consume then let p := s.pair w.obj; s.putPair w.obj { p with c := p.c + w.count } else s
  else s.putFlag w.obj false

/-- Remove the first element that a test accepts. -/
def removeFirst {α : Type} (t : α → Bool) : List α → List α
  | [] => []
  | a :: l => if t a then l else a :: removeFirst t l

/-- The first waiting produce of a pair passes into P if it fits (R262); one that P cannot hold any more is refused (R263). -/
def State.pendOnce (s : State) (isPair : Bool) (obj : Nat) : Option State :=
  if !isPair then none
  else match s.syn.pends.find? (fun q => q.pair == obj) with
    | none => none
    | some q =>
      let p := s.pair obj
      let gone := s.onSyn (fun y => { y with pends := removeFirst (fun q => q.pair == obj) y.pends })
      if 2 ^ 48 ≤ p.p + q.count then some ((gone.synErr St.countSaturated obj 1 (q.who == .remote)).raise Fld.synErrStatus.countSaturated)
      else if p.avail + q.count ≤ p.depth then some (gone.putPair obj { p with p := p.p + q.count })
      else none

/-- One move on an object: end the wait of its first waiter if that holds, else let its first waiting produce in if it fits. -/
def State.serveOnce (s : State) (isPair : Bool) (obj : Nat) : Option State :=
  let here (w : Waiter) : Bool := w.isPair == isPair && w.obj == obj
  match s.syn.waiters.find? here with
  | some w =>
    if s.waitHolds w then
      some (((s.onSyn (fun y => { y with waiters := removeFirst here y.waiters })).waitConsume w).endWait w St.success)
    else s.pendOnce isPair obj
  | none => s.pendOnce isPair obj

/-- Serve an object until nothing moves (at most as often as things wait). -/
def State.serveN : Nat → State → Bool → Nat → State
  | 0, s, _, _ => s
  | n + 1, s, isPair, obj =>
    match s.serveOnce isPair obj with
    | some s' => State.serveN n s' isPair obj
    | none => s

def State.serve (s : State) (isPair : Bool) (obj : Nat) : State :=
  s.serveN (s.syn.waiters.length + s.syn.pends.length) isPair obj

/-- Set a flag (R257 to R259): ends the first waiter's wait, or stays set; a set that finds 1 is an overrun. -/
def State.setFlagNow (s : State) (f : Nat) (who : Who) : State × Status :=
  if s.flag f then
    let s := s.onSyn (fun y => { y with ovr := y.ovr ||| BitVec.ofNat 1024 (2 ^ f) })
    (((s.synErr St.flagOverrun f 0 (who == .remote)).raise Fld.synErrStatus.flagOverrun).bump Fld.synCounts.overruns, St.flagOverrun)
  else ((s.putFlag f true).serve false f, St.success)

/-- Clear a flag. -/
def State.clearFlagNow (s : State) (f : Nat) : State := s.putFlag f false

/-- Refused produce: log it. -/
def State.refuseProduce (s : State) (pair : Nat) (who : Who) (st : Status) : State × Status :=
  let s := s.synErr st pair 1 (who == .remote)
  (if st = St.pairDisabled then s.raise Fld.synErrStatus.pairDisabled
   else if st = St.produceOverflow then s.raise Fld.synErrStatus.produceOverflow else s.raise Fld.synErrStatus.countSaturated, st)

/-- Produce (R260, R262, R263). -/
def State.produceNow (s : State) (pair n : Nat) (who : Who) : State × Status :=
  let p := s.pair pair
  if p.depth = 0 then
    if who == .software then (s, St.pairDisabled) else s.refuseProduce pair who St.pairDisabled
  else if p.depth < n then s.refuseProduce pair who St.produceOverflow
  else if 2 ^ 48 ≤ p.p + n then s.refuseProduce pair who St.countSaturated
  else if p.avail + n ≤ p.depth then ((s.putPair pair { p with p := p.p + n }).serve true pair, St.success)
  else if who.pends && p.depth < s.pend pair + n then s.refuseProduce pair who St.produceOverflow
  else (s.onSyn (fun y => { y with pends := y.pends ++ [{ pair := pair, count := n, who := who }] }), St.success)

/-- Consume (R261). -/
def State.consumeNow (s : State) (pair n : Nat) : State × Status :=
  let p := s.pair pair
  if p.depth = 0 then (s, St.pairDisabled)
  else if p.avail < n then
    (((s.synErr St.countUnderflow pair 1 false).raise Fld.synErrStatus.countUnderflow).bump Fld.synCounts.underflows, St.countUnderflow)
  else ((s.putPair pair { p with c := p.c + n }).serve true pair, St.success)

/-- A wait begins: it ends at once when its condition holds and no earlier waiter is held back on the object (R265). -/
def State.waitNow (s : State) (w : Waiter) : State :=
  (s.onSyn (fun y => { y with waiters := y.waiters ++ [w] })).serve w.isPair w.obj

/-! ## Signals of engine units: held while QUIESCE is 1 (R272) -/

def State.hold (s : State) (h : Held) : State × Status := (s.onSyn (fun y => { y with held := y.held ++ [h] }), St.success)

/-- A unit sets a flag. -/
def State.setFlag (s : State) (f : Nat) (who : Who) : State × Status :=
  if s.quiesced then s.hold (.set f who) else s.setFlagNow f who

/-- A unit produces. -/
def State.produce (s : State) (pair n : Nat) (who : Who) : State × Status :=
  if s.quiesced then s.hold (.produce pair n who) else s.produceNow pair n who

/-- A unit or a wait slot begins to wait. -/
def State.wait (s : State) (w : Waiter) : State :=
  if s.quiesced then (s.hold (.wait w)).1 else s.waitNow w

/-- Perform what was held (R272). -/
def State.release (s : State) (h : Held) : State :=
  match h with
  | .set f who => (s.setFlagNow f who).1
  | .produce p n who => (s.produceNow p n who).1
  | .wait w => s.waitNow w

/-- A unit still has a produce that waits for room: the unit holds (R262). -/
def State.unitHolds (s : State) (who : Who) : Bool :=
  s.syn.pends.any (fun q => q.who == who) || s.syn.held.any (fun h => match h with | .produce _ _ w => w == who | .set _ w => w == who | _ => false)

/-- A unit's own consumption of one count: possible when counts are there, nobody waits before it, and signals are not held. -/
def State.takeCount (s : State) (pair : Nat) : Option State :=
  let p := s.pair pair
  if s.quiesced || p.depth = 0 || p.avail = 0 || s.syn.waiters.any (fun w => w.isPair && w.obj == pair) then none
  else some ((s.putPair pair { p with c := p.c + 1 }).serve true pair)

/-- The fields of one pair keep the bound of R260. -/
def Pair.ok (p : Pair) : Bool := p.c ≤ p.p && p.p - p.c ≤ p.depth && p.p < 2 ^ 48

end Sys2Proof.Machine
end

