-- ==== Sys2Proof/Machine/Float.lean ====
section
/-! DEFINITION. IEEE 754 arithmetic as the manual asks for it (R93 to R99, R125 to R127, R131, R274): exact values, one rounding. -/
namespace Sys2Proof.Machine

/-- A floating-point value without its format: a finite one is its sign and `m` times two to the `e`. -/
inductive FV where
  | nan
  | inf (neg : Bool)
  | fin (neg : Bool) (m : Nat) (e : Int)
deriving DecidableEq, Repr

/-- Lowest exponent of a unit in the last place, for `ew` exponent bits and `mw` mantissa bits. -/
def ulpMin (ew mw : Nat) : Int := 2 - (2 ^ (ew - 1) : Nat) - (mw : Int)

/-- Canonical quiet NaN of a format (R97, R125, R274). -/
def qNaN (ew mw : Nat) : Nat := (2 ^ ew - 1) * 2 ^ mw + 2 ^ (mw - 1)

/-- Value of an IEEE format, and of a format without infinities when `special` is false. -/
def unpackF (ew mw : Nat) (special : Bool) (v : Nat) : FV :=
  let neg := v.testBit (ew + mw)
  let ex := bits v mw ew
  let man := bits v 0 mw
  if special && ex == 2 ^ ew - 1 then (if man = 0 then .inf neg else .nan)
  else if ex = 0 then .fin neg man (ulpMin ew mw)
  else .fin neg (man + 2 ^ mw) (ulpMin ew mw + (ex - 1 : Nat))

/-- Round up? for the remainder of a shift, in the direction RM (R123: nearest even, toward zero, toward +inf, toward -inf). -/
def roundUp (rm : Nat) (neg : Bool) (quo rem half : Nat) : Bool :=
  if rm = 0 then half < rem || (rem == half && quo % 2 == 1)
  else if rm = 1 then false
  else if rm = 2 then rem != 0 && !neg
  else rem != 0 && neg

/-- Round a non-negative magnitude to a format: the bits with the sign. -/
def roundPack (ew mw rm : Nat) (neg : Bool) (m : Nat) (e : Int) : Nat :=
  let sgn := if neg then 2 ^ (ew + mw) else 0
  if m = 0 then sgn
  else
    let q := max (e + (m.log2 : Int) - mw) (ulpMin ew mw)
    let m' :=
      if q ≤ e then m <<< (e - q).toNat
      else
        let sh := (q - e).toNat
        let quo := m >>> sh
        quo + b2n (roundUp rm neg quo (m % 2 ^ sh) (2 ^ (sh - 1)))
    let v := (q - ulpMin ew mw).toNat * 2 ^ mw + m'
    let infV := (2 ^ ew - 1) * 2 ^ mw
    if v < infV then sgn + v
    else if rm = 0 || (rm = 2 && !neg) || (rm = 3 && neg) then sgn + infV
    else sgn + infV - 1

/-- A value in an IEEE format, rounded once. -/
def packF (ew mw rm : Nat) : FV → Nat
  | .nan => qNaN ew mw
  | .inf neg => (if neg then 2 ^ (ew + mw) else 0) + (2 ^ ew - 1) * 2 ^ mw
  | .fin neg m e => roundPack ew mw rm neg m e

/-- Signed integer of a finite value on a common exponent. -/
def onExp (neg : Bool) (m : Nat) (e base : Int) : Int :=
  let v : Int := (m <<< (e - base).toNat : Nat)
  if neg then -v else v

/-- Exact sum; the direction decides the sign of an exact zero. -/
def fvAdd (rm : Nat) : FV → FV → FV
  | .nan, _ => .nan
  | _, .nan => .nan
  | .inf a, .inf b => if a = b then .inf a else .nan
  | .inf a, .fin _ _ _ => .inf a
  | .fin _ _ _, .inf b => .inf b
  | .fin n1 m1 e1, .fin n2 m2 e2 =>
    let base := min e1 e2
    let t := onExp n1 m1 e1 base + onExp n2 m2 e2 base
    if t = 0 then (if m1 = 0 && m2 = 0 && n1 = n2 then .fin n1 0 0 else .fin (rm == 3) 0 0)
    else .fin (decide (t < 0)) t.natAbs base

/-- Exact product. -/
def fvMul : FV → FV → FV
  | .nan, _ => .nan
  | _, .nan => .nan
  | .inf a, .inf b => .inf (a != b)
  | .inf a, .fin n m _ => if m = 0 then .nan else .inf (a != n)
  | .fin n m _, .inf b => if m = 0 then .nan else .inf (n != b)
  | .fin n1 m1 e1, .fin n2 m2 e2 => .fin (n1 != n2) (m1 * m2) (e1 + e2)

/-- The value with its sign changed. -/
def fvNeg : FV → FV
  | .nan => .nan
  | .inf a => .inf (!a)
  | .fin n m e => .fin (!n) m e

/-- Bits of a number. -/
def bitLen (m : Nat) : Nat := if m = 0 then 0 else m.log2 + 1

/-- Quotient with `p` good bits and a sticky bit below them. -/
def fvDiv (p : Nat) : FV → FV → FV
  | .nan, _ => .nan
  | _, .nan => .nan
  | .inf _, .inf _ => .nan
  | .inf a, .fin n _ _ => .inf (a != n)
  | .fin n _ _, .inf b => .fin (n != b) 0 0
  | .fin n1 m1 e1, .fin n2 m2 e2 =>
    let s := n1 != n2
    if m2 = 0 then (if m1 = 0 then .nan else .inf s)
    else if m1 = 0 then .fin s 0 0
    else
      let k := p + 3 + bitLen m2
      let num := m1 <<< k
      .fin s (2 * (num / m2) + b2n (num % m2 != 0)) (e1 - e2 - k - 1)

/-- Integer square root, bit by bit from bit `n - 1` down. -/
def isqrtN : Nat → Nat → Nat → Nat
  | 0, _, r => r
  | n + 1, x, r => isqrtN n x (if (r + 2 ^ n) * (r + 2 ^ n) ≤ x then r + 2 ^ n else r)
def isqrt (x : Nat) : Nat := isqrtN (bitLen x / 2 + 1) x 0

/-- Square root with `p` good bits and a sticky bit; the root of -0 is -0. -/
def fvSqrt (p : Nat) : FV → FV
  | .nan => .nan
  | .inf n => if n then .nan else .inf false
  | .fin n m e =>
    if m = 0 then .fin n 0 0
    else if n then .nan
    else
      let k := 2 * (p + 3) + (if (e - (2 * (p + 3) : Nat)) % 2 = 0 then 0 else 1)
      let x := m <<< k
      let r := isqrt x
      .fin false (2 * r + b2n (r * r != x)) ((e - k) / 2 - 1)

/-- Reciprocal square root with `p` good bits and a sticky bit. -/
def fvRsqrt (p : Nat) : FV → FV
  | .nan => .nan
  | .inf n => if n then .nan else .fin false 0 0
  | .fin n m e =>
    if m = 0 then .inf n
    else if n then .nan
    else
      let m1 := if e % 2 = 0 then m else 2 * m
      let e1 := if e % 2 = 0 then e else e - 1
      let k := p + 3 + bitLen m1
      let y := isqrt (2 ^ (2 * k) / m1)
      .fin false (2 * y + b2n (y * y * m1 != 2 ^ (2 * k))) (-(e1 / 2) - k - 1)

/-- Order of two values that are not NaN: `some true` below, `some false` not below; none with a NaN. -/
def fvLt : FV → FV → Option Bool
  | .nan, _ => none
  | _, .nan => none
  | .inf a, .inf b => some (a && !b)
  | .inf a, .fin _ _ _ => some a
  | .fin _ _ _, .inf b => some (!b)
  | .fin n1 m1 e1, .fin n2 m2 e2 => let base := min e1 e2; some (onExp n1 m1 e1 base < onExp n2 m2 e2 base)

/-! ## binary32 and binary64 -/

def f32 (v : W32) : FV := unpackF 8 23 true v.toNat
def toF32 (rm : Nat) (v : FV) : W32 := BitVec.ofNat 32 (packF 8 23 rm v)
def f64 (v : W64) : FV := unpackF 11 52 true v.toNat
def toF64 (v : FV) : W64 := BitVec.ofNat 64 (packF 11 52 0 v)

/-- The canonical NaN of binary32. -/
def nan32 : W32 := 0x7FC00000

/-- Addition of the reducers (R96, R97). -/
def add32 (a b : W32) : W32 := toF32 0 (fvAdd 0 (f32 a) (f32 b))

/-- Addition of the barriers (R274). -/
def add64 (a b : W64) : W64 := toF64 (fvAdd 0 (f64 a) (f64 b))

def isNaN32 (a : W32) : Bool := bits a.toNat 23 8 == 255 && bits a.toNat 0 23 != 0
def isInf32 (a : W32) : Bool := bits a.toNat 0 31 == 0x7F800000
/-- NaN or infinity (R101, R151). -/
def nonFinite32 (a : W32) : Bool := bits a.toNat 23 8 == 255

/-- Canonical form of a value passed on: a NaN loses its payload. -/
def canon32 (a : W32) : W32 := if isNaN32 a then nan32 else a

/-! ## Draws and stochastic rounding (R98, R99, R127) -/

/-- MIX of R99, modulo 2^64. -/
def mix (z : W64) : W64 :=
  let z := z ^^^ (z >>> 31)
  let z := z * 0x8E3A51C72D94F06B
  let z := z ^^^ (z >>> 29)
  let z := z * 0xB61F03D97A45C2E5
  z ^^^ (z >>> 32)

/-- Rounding to BF16 with a draw (R98). -/
def srBf16 (a : W32) (draw : Nat) : Nat :=
  if isNaN32 a then 0x7FC0
  else if isInf32 a then (if a.msb then 0xFF80 else 0x7F80)
  else (bits a.toNat 31 1 * 2 ^ 31 + (bits a.toNat 0 31 + draw % 65536)) / 65536

/-- The draw of the reducers (R99). -/
def redDraw (seed step : W64) (ch stage : Nat) (seq : W32) (sender e : Nat) : Nat :=
  let key := mix (mix (seed ^^^ step) ^^^ BitVec.ofNat 64 (ch * 2 ^ 58) ^^^ BitVec.ofNat 64 (stage * 2 ^ 57) ^^^ BitVec.ofNat 64 seq.toNat)
  (mix (key ^^^ BitVec.ofNat 64 (sender * 2 ^ 48) ^^^ BitVec.ofNat 64 e)).toNat % 65536

/-- The draw of the lanes (R127). -/
def fulDraw (fseed step : W64) (s : Nat) (shard : W32) (e : Nat) : Nat :=
  let key := mix (mix (fseed ^^^ step) ^^^ BitVec.ofNat 64 (s * 2 ^ 58) ^^^ BitVec.ofNat 64 shard.toNat)
  (mix (key ^^^ BitVec.ofNat 64 e)).toNat % 65536

/-! ## Exact accumulators (R126) -/

/-- Add the exact product of two binary32 values. -/
def Acc.add (c : Acc) (a b : W32) : Acc :=
  match fvMul (f32 a) (f32 b) with
  | .nan => { c with nan := true }
  | .inf n => if n then { c with ninf := true } else { c with pinf := true }
  | .fin n m e => { c with sum := c.sum + onExp n m e (-298) }

/-- One accumulator joins another (R130). -/
def Acc.join (c d : Acc) : Acc :=
  { sum := c.sum + d.sum, nan := c.nan || d.nan, pinf := c.pinf || d.pinf, ninf := c.ninf || d.ninf }

/-- The binary64 value nearest the exact sum. -/
def Acc.toF64 (c : Acc) : W64 :=
  if c.nan || (c.pinf && c.ninf) then 0x7FF8000000000000
  else if c.pinf then 0x7FF0000000000000
  else if c.ninf then 0xFFF0000000000000
  else Machine.toF64 (.fin (decide (c.sum < 0)) c.sum.natAbs (-298))

/-- Clip scale of R131: the square root, the quotient and the minimum each rounded in binary64, then rounded to binary32. -/
def clipScale (clipMax s : W64) : W32 :=
  match f64 s with
  | .nan => nan32
  | .inf _ => nan32
  | .fin n m e =>
    if m = 0 then 0x3F800000
    else
      let t := toF64 (fvSqrt 53 (.fin n m e))
      let q := toF64 (fvDiv 53 (f64 clipMax) (f64 t))
      match f64 q with
      | .nan => nan32
      | v => if fvLt v (f64 0x3FF0000000000000) = some true then toF32 0 v else 0x3F800000

end Sys2Proof.Machine
end

