-- ==== Sys2Proof/Machine/Barrier.lean ====
section
/-! DEFINITION. Mask barriers and tree barriers (R273 to R282): arrivals, counting, completion, aborts. A completed or aborted episode
leaves its result in `Syn.results`; `State.settle` (Settle.lean) hands it to the engine function that arrived. -/
namespace Sys2Proof.Machine

def State.bar (s : State) (b : Nat) : Barrier := vget s.syn.bars b {}
def State.putBar (s : State) (b : Nat) (x : Barrier) : State := s.onSyn (fun y => { y with bars := vset y.bars b x })

/-- The episode after an episode: the count in [15:0] goes on modulo 65,536, the epoch stays (R275). -/
def nextEpisode (e : BitVec 32) : BitVec 32 :=
  BitVec.ofNat 32 (e.toNat / 65536 * 65536 + (e.toNat % 65536 + 1) % 65536)

/-- First episode of an epoch. -/
def epochEpisode (epoch : BitVec 16) : BitVec 32 := BitVec.ofNat 32 (epoch.toNat * 65536)

/-- Insert a value by ascending index; a second value of an index is ignored (R273). -/
def barInsert (v : BarVal) : List BarVal → List BarVal
  | [] => [v]
  | w :: t => if v.idx < w.idx then v :: w :: t else if v.idx = w.idx then w :: t else w :: barInsert v t

/-- A NaN result is 0x7FF8_0000_0000_0000 (R274). -/
def quiet64 (x : W64) : W64 := if x.toNat / 2 ^ 52 % 2 ^ 11 = 2047 && x.toNat % 2 ^ 52 ≠ 0 then 0x7FF8000000000000 else x

/-- Sum in the fixed order of R274 and OR of recorded values. -/
def barFold : List BarVal → W64 × W64
  | [] => (0, 0)
  | v :: t => t.foldl (fun a w => (add64 a.1 w.sum, a.2 ||| w.or)) (quiet64 v.sum, v.or)

/-- This engine's member index. -/
def State.memberIdx (s : State) : Nat := s.rd Fld.synSelf.memberIdx

/-- Members that a barrier's mask names, ascending. -/
def State.barMask (s : State) (b : Nat) : List Nat :=
  let m := (s.getReg (Reg.synBarMaskLo b)).toNat + (s.getReg (Reg.synBarMaskHi b)).toNat * 2 ^ 64
  (List.range 128).filter (fun i => bitAt m i)

/-- Rack and position of an entry of the member table (R278). -/
def State.memberAt (s : State) (i : Nat) : BitVec 10 × BitVec 7 :=
  let e := s.loadN (s.rdAddr Fld.synMemberTab.base + 8 * i) 8
  (BitVec.ofNat 10 (bits e 0 10), BitVec.ofNat 7 (bits e 10 7))

/-- Roles of a tree barrier (R280): 0 member, 1 rack Warden, 2 group Warden, 3 lead. Mask barriers have none. -/
def State.treeRole (s : State) (b : Nat) : Nat := s.rd (Fld.synTbarTree.role (b - 16))
def isTree (b : Nat) : Bool := 16 ≤ b

/-- Parent of a tree barrier. -/
def State.treeUp (s : State) (b : Nat) : BitVec 10 × BitVec 7 :=
  (BitVec.ofNat 10 (s.rd (Fld.synTbarTree.upRack (b - 16))), BitVec.ofNat 7 (s.rd (Fld.synTbarTree.upPos (b - 16))))

/-- UFL ports of the variant. -/
def State.uflPorts (s : State) : Nat := if s.part.dies = 3 then 36 else 24

/-- Send a frame to the members of the mask other than this engine: by multicast to its own rack on UFL port (index mod U), by
scale-out unicast to members of other racks (R278). -/
def State.barFan (s : State) (b : Nat) (ty : BitVec 8) (f : Frame) : State :=
  let others := ((s.barMask b).map s.memberAt).filter (fun m => !s.isMe m.1 m.2)
  let s := if others.any (fun m => m.1 == s.myRack) then
      s.send (some (uflSlice (s.memberIdx % s.uflPorts))) .rackGroup ty f
    else s
  (others.filter (fun m => m.1 != s.myRack)).foldl (fun s m => s.send none (.pos m.1 m.2) ty f) s

/-- A barrier frame (R277). -/
def barFrame (b : Nat) (e : BitVec 32) (hop : Nat) (payload : List Byte) : Frame :=
  ctlFrame { channel := BitVec.ofNat 5 b, seq := e, hop := BitVec.ofNat 8 hop } payload

/-- Sum and OR as payload bytes 0 to 15. -/
def barPayload (sum or' : W64) : List Byte := leBytes 8 sum.toNat ++ leBytes 8 or'.toNat

/-- The engines of a list, by level of the tree. -/
def kidsAt (level : Nat) (l : List (Nat × BitVec 10 × BitVec 7)) : List (BitVec 10 × BitVec 7) :=
  (l.filter (fun k => k.1 == level)).map (fun k => k.2)

/-- The engines below that sent what is recorded for the current episode. -/
def Barrier.heard (x : Barrier) : List (Nat × BitVec 10 × BitVec 7) :=
  x.racks.filterMap (fun v => v.src.map (fun m => (1, m))) ++ x.groups.filterMap (fun v => v.src.map (fun m => (2, m)))

/-- Send a result or an abort down to engines below, and to the members of the rack (R277, R280). -/
def State.barDown (s : State) (b : Nat) (e : BitVec 32) (ty : BitVec 8) (payload : List Byte) (below : List (Nat × BitVec 10 × BitVec 7)) :
    State :=
  let role := s.treeRole b
  let each (hop : Nat) (s : State) (m : BitVec 10 × BitVec 7) : State := s.sendTo m.1 m.2 ty (barFrame b e hop payload)
  let s := if role = 3 then (kidsAt 2 below).foldl (each 2) s else s
  let s := if 2 ≤ role then (kidsAt 1 below).foldl (each 1) s else s
  if 1 ≤ role then s.barFan b ty (barFrame b e 0 payload) else s

/-- End the current episode (R273, R276, R282): the number advances, the next mask becomes the current one, the function that arrived gets
the status and, of a completed episode, the sum and the OR word; a completion signals DONE_FLAG and DONE_PAIR. -/
def State.barEnd (s : State) (b : Nat) (st : Status) (res : Option (W64 × W64)) : State :=
  let x := s.bar b
  let s := s.putBar b
    { x with
      st := .opened, episode := nextEpisode x.episode, cur := x.next, next := [], racks := x.racksNext, racksNext := [],
      groups := x.groupsNext, groupsNext := [], sentUp := false, prev := some x.episode, fn := none, lastStatus := st,
      resSum := (res.map (fun r => r.1)).getD x.resSum, resOr := (res.map (fun r => r.2)).getD x.resOr }
  let s := match x.fn with
    | some fn => s.onSyn (fun y => { y with results := y.results ++ [(fn, st, res)] })
    | none => s
  if res.isSome then
    let s := if s.rdB (Fld.synBarCfg.doneFlagEn b) then (s.setFlag (s.rd (Fld.synBarCfg.doneFlag b)) (.barrier b)).1 else s
    if s.rdB (Fld.synBarCfg.donePairEn b) then (s.produce (s.rd (Fld.synBarCfg.donePair b)) 1 (.barrier b)).1 else s
  else s

/-- Racks that a group Warden waits for, its own counted (R280). The lead's CHILDREN counts groups, and the manual gives no number for the
racks of the lead's own group: free (assumption 20). -/
def State.childRacks (s : State) (b : Nat) : Nat :=
  if s.treeRole b = 3 then 1 + Config.freeNat 0 % 32 else s.rd (Fld.synTbarTree.children (b - 16))

/-- Every member of the mask and this engine are recorded. -/
def State.barAllHere (s : State) (b : Nat) : Bool :=
  let x := s.bar b
  ((s.barMask b) ++ [s.memberIdx]).all (fun i => x.cur.any (fun v => v.idx == i))

/-- Values of the members that count: those of the mask and this engine, ascending. -/
def State.barHere (s : State) (b : Nat) : List BarVal :=
  (s.bar b).cur.filter (fun v => (s.barMask b).contains v.idx || v.idx == s.memberIdx)

/-- Rack level of a tree barrier: form the rack sum once all are here and send it up, or record it. -/
def State.treeRack (s : State) (b : Nat) : State :=
  let x := s.bar b
  let role := s.treeRole b
  if role = 0 || !s.barAllHere b then s
  else
    let v := barFold (s.barHere b)
    if role = 1 then
      if x.sentUp then s
      else
        let (r, p) := s.treeUp b
        (s.putBar b { x with sentUp := true }).sendTo r p Ty.treeUp
          (barFrame b x.episode 1 (barPayload v.1 v.2 ++ leBytes 2 s.myRack.toNat ++ zeros 6))
    else s.putBar b { x with racks := barInsert { idx := s.myRack.toNat, sum := v.1, or := v.2 } x.racks }

/-- Group level: form the group sum once every rack is here and send it up, or record it. -/
def State.treeGroup (s : State) (b : Nat) : State :=
  let x := s.bar b
  let role := s.treeRole b
  if role < 2 || !(x.racks.any (fun v => v.idx == s.myRack.toNat)) || x.racks.length < s.childRacks b then s
  else
    let v := barFold x.racks
    let g := s.myRack.toNat / 32
    if role = 2 then
      if x.sentUp then s
      else
        let (r, p) := s.treeUp b
        (s.putBar b { x with sentUp := true }).sendTo r p Ty.treeUp (barFrame b x.episode 2 (barPayload v.1 v.2 ++ leBytes 2 g ++ zeros 6))
    else s.putBar b { x with groups := barInsert { idx := g, sum := v.1, or := v.2 } x.groups }

/-- Top level: the lead completes the episode and sends it down. -/
def State.treeTop (s : State) (b : Nat) : State :=
  let x := s.bar b
  if s.treeRole b ≠ 3 || !(x.groups.any (fun v => v.idx == s.myRack.toNat / 32)) ||
     x.groups.length < s.rd (Fld.synTbarTree.children (b - 16)) then s
  else
    let v := barFold x.groups
    (s.barDown b x.episode Ty.treeDone (barPayload v.1 v.2) x.heard).barEnd b St.success (some v)

/-- What a barrier does once something has been recorded and this engine has arrived. -/
def State.barProgress (s : State) (b : Nat) : State :=
  let x := s.bar b
  if x.st ≠ .arrived then s
  else if isTree b then ((s.treeRack b).treeGroup b).treeTop b
  else if s.barAllHere b then
    s.barEnd b St.success (some (barFold (s.barHere b)))
  else s

/-- This engine's arrival for the current episode: record it, send it, start the timeout (R278, R280, R282). -/
def State.barGo (s : State) (b : Nat) (a : Arrival) : State :=
  let x := s.bar b
  let me : BarVal := { idx := s.memberIdx, sum := a.sum, or := a.or }
  let s := s.putBar b { x with st := .arrived, fn := some a.fn, tick := s.now, cur := barInsert me x.cur }
  let f := barFrame b x.episode 0 (barPayload a.sum a.or ++ leBytes 1 s.memberIdx ++ zeros 7)
  let s := if !isTree b then s.barFan b Ty.arrival f
    else if s.treeRole b = 0 then let (r, p) := s.treeUp b; s.sendTo r p Ty.arrival f
    else s
  s.barProgress b

/-- Queued local arrivals start their own episodes when the one before has ended (R273) and its DONE count has found room (R262). -/
def State.barNext (s : State) (b : Nat) : State :=
  let x := s.bar b
  match x.st, x.queue with
  | .opened, a :: t => if s.unitHolds (.barrier b) then s else (s.putBar b { x with queue := t }).barGo b a
  | _, _ => s

/-- An engine function, or software, arrives. At a barrier that is not enabled, and at a mask barrier while MEMBER_IDX is not assigned,
nothing arrives (R275, CGM_SYN_SELF). -/
def State.barArrive (s : State) (b : Nat) (fn : BarFn) (sum or' : W64) : State :=
  let x := s.bar b
  if x.st = .disabled || (!isTree b && !s.rdB Fld.synSelf.valid) then s
  else (s.putBar b { x with queue := x.queue ++ [{ fn := fn, sum := sum, or := or' }] }).barNext b

/-- Record a received value for the current or the next episode; any other episode is stale (R275). A second arrival of one sender in an episode
is ignored and recorded as an access error (R273). -/
def State.barRecord (s : State) (n b : Nat) (e : BitVec 32) (v : BarVal) (get : Bool → Barrier → List BarVal)
    (put : Bool → Barrier → List BarVal → Barrier) : State :=
  let x := s.bar b
  let again (next : Bool) : Bool := (get next x).any (fun w => w.idx == v.idx)
  let rec' (next : Bool) : State := s.putBar b (put next x (barInsert v (get next x)))
  let twice := s.accessError (Reg.synBarStatus b) 8 true
  if x.st = .disabled then s
  else if e = x.episode then (if again false then twice else (rec' false).barProgress b)
  else if e = nextEpisode x.episode then (if again true then twice else rec' true)
  else s.staleAt n

/-- Abort the current episode with a status (R276); local arrivals that wait behind it stay. -/
def State.barAbort (s : State) (b : Nat) (st : Status) : State := s.barEnd b st none

/-- Payload of an abort frame. -/
def abortPayload (st : Status) : List Byte := leBytes 2 st.toNat ++ zeros 6

/-- Pass an abort up the tree: to the parent, or, on the lead, down the whole tree (R280): to every Warden below that it has heard at this barrier;
nothing names the others (assumption 139). -/
def State.treeAbort (s : State) (b : Nat) (payload : List Byte) : State :=
  let x := s.bar b
  if s.treeRole b = 3 then s.barDown b x.episode Ty.barAbort payload x.kids
  else let (r, p) := s.treeUp b; s.sendTo r p Ty.barAbort (barFrame b x.episode (s.treeRole b) payload)

/-- Abort the current episode here, and tell the others: every member, or up the tree (R276, R280). -/
def State.barTimeout (s : State) (b : Nat) : State :=
  let st := St.barrierTimeout
  let s := (s.synErr st b 2 false).raise Fld.synErrStatus.barTimeout
  let s := if isTree b then s.treeAbort b (abortPayload st) else s.barFan b Ty.barAbort (barFrame b (s.bar b).episode 0 (abortPayload st))
  s.barAbort b st

/-- End a barrier's work at a halt (R276, R282): `fresh` for a halt of a new epoch, which sets the episode of every barrier (R275); at one of the
current epoch the plan and release barriers stand. Waiting local arrivals end with HALTED. -/
def State.barHalt (s : State) (fresh : Bool) (epoch : BitVec 16) (b : Nat) : State :=
  let x := s.bar b
  let exempt := b = s.rd Fld.tierRstCtrl.planBarrier || b = s.rd Fld.tierRstCtrl.releaseBarrier
  if x.st = .disabled then (if fresh then s.putBar b { x with episode := epochEpisode epoch } else s)
  else if exempt && !fresh then s
  else
    let waiting := x.queue
    let s := (s.putBar b { x with queue := [] }).barAbort b St.halted
    let s := s.onSyn (fun y => { y with results := y.results ++ waiting.map (fun a => (a.fn, St.halted, none)) })
    if fresh then
      s.putBar b { (s.bar b) with episode := epochEpisode epoch, cur := [], next := [], racks := [], racksNext := [], groups := [], groupsNext := [] }
    else s

def State.barsHalt (s : State) (fresh : Bool) (epoch : BitVec 16) : State := (List.range 20).foldl (State.barHalt · fresh epoch) s

/-- ENABLE written 1 or 0 (R275, R282). -/
def State.barEnable (s : State) (b : Nat) (on : Bool) : State :=
  let x := s.bar b
  s.putBar b
    { st := if on then .opened else .disabled, episode := if on then epochEpisode s.rst.epoch else x.episode,
      lastStatus := x.lastStatus, resSum := x.resSum, resOr := x.resOr }

end Sys2Proof.Machine
end

