-- ==== Sys2Proof/Machine/RegWrite.lean ====
section
/-! DEFINITION. What a register write does to the register itself (R7, R10): field types, reserved encodings, and fields that may not change
now. What the write makes the units do is in the units' own files. -/
namespace Sys2Proof.Machine

/-- A value fits a range. -/
def within (lo hi v : Nat) : Bool := lo ≤ v && v ≤ hi

/-- A value written to a field is no reserved encoding (the field's lowest bit, the whole value written). A value outside a range that the
table states counts as one (R3, assumption 21). KEEP_PIECE has no reserved value while N or R is still 0. -/
def State.fieldOk (s : State) (off lo len w : Nat) : Bool :=
  let v := bits w lo len
  match regCanon off, lo with
  | 0x00400, 0 => v != 3
  | 0x00400, 16 => v ≤ s.rd Fld.ctlCornerLimit.cycleLimitPs
  | 0x00408, 0 => v ≤ 1300
  | 0x00408, 12 => 620 ≤ v
  | 0x00408, 22 => v ≤ 420
  | 0x10000, 2 => v < 20
  | 0x10010, 0 => v != 0
  | 0x10010, 40 => v != 0
  | 0x11000, 2 => within 2 64 v
  | 0x11000, 15 => v ≤ 71
  | 0x11000, 22 => v ≤ 71
  | 0x11000, 29 => within 1 1024 v
  | 0x11000, 50 => v ≤ 71
  | 0x11008, 0 => s.part.dies = 3 || v < 2 ^ 24
  | 0x11020, 1 => let pieces := s.rd ⟨off - 0x20, 2, 7⟩ * s.rd ⟨off - 0x20, 29, 11⟩; pieces = 0 || v < pieces
  | 0x30010, 0 => v != 0
  | 0x30018, 0 => 0 < v && v < 0x7FF0000000000000
  | 0x30080, 4 => v ≤ 3
  | 0x48000, 2 => v < 20
  | 0x48018, 0 => v % 0x100000 == 0 && v ≤ 0x4000000000
  | 0x48020, 48 => v != 0
  | 0x48038, 0 => v != 3
  | 0x48058, 0 => v != 0
  | 0x48058, 20 => v != 0
  | 0x40008, 0 => within 1 100 v
  | 0x40008, 8 => within 1 32 v
  | 0x40008, 16 => within 1 4800 v
  | 0x40018, 42 => v ≤ 71
  | 0x40038, 48 => v ≤ 8192
  | 0x40040, 18 => if bitAt w 0 then within 1 4096 v && v == (bits w 31 18 + 16 + 63) / 64 else v ≤ 4096
  | 0x50008, 0 => within 1 8 v
  | 0x50008, 4 => within 16 128 v
  | 0x50008, 12 => v < 20
  | 0x60000, 4 => within 1 2 v
  | 0x60000, 13 => v ≤ 3
  | 0x49000, 0 => within 1 100 v
  | 0x49000, 8 => 2 ≤ v
  | 0x49000, 12 => v != 0
  | 0x49008, 11 => v < 20
  | 0x49008, 16 => v < 20
  | 0x49008, 21 => 48 ≤ v
  | 0x70008, 10 => within 1 2 v
  | 0x70010, 16 => v != 0
  | 0x70018, 16 => v != 0
  | 0x70020, 26 => v != 3
  | 0x70020, 32 => bits w 26 2 != 2 || v != 0
  | 0x70040, 0 => v ≤ 2
  | 0x70068, 36 => v != 0
  | 0x72000, 2 => !bitAt w 1 || v < 512
  | 0x72000, 13 => !bitAt w 1 || v != 0
  | 0x73500, 2 => v ≤ 32 && (v != 0 || bits w 0 2 < 2)
  | 0x80120, 0 => v < 1000000000
  | 0x91000, 2 => v != 0
  | 0x91000, 14 => v != 0
  | 0x91030, 42 => v != 3
  | 0xA1008, 0 => v != 0
  | 0xA1010, 1 => v != 3
  | 0xA1010, 5 => v != 3
  | _, _ => true

/-- Index of the copy of a register block that an offset lies in. -/
def copyOf (base stride off : Nat) : Nat := (off - base) / stride

/-- A cut is between OPEN and a final state (R161). -/
def CutState.open' : CutState → Bool
  | .opened | .felting | .agreeing | .committing | .sedgeCommitted | .jobCommitted => true
  | _ => false

/-- The register may not be written at all now: the write is ignored and recorded. -/
def State.regLocked (s : State) (off : Nat) : Bool :=
  match regCanon off with
  | 0x10008 => (List.range 32).any (fun ch => s.rdB (Fld.redChCfg.enable ch))
  | 0x11008 | 0x11010 | 0x11018 | 0x11020 | 0x11028 | 0x11030 => s.rdB (Fld.redChCfg.enable (copyOf 0x11000 0x40 off))
  | 0x30008 => s.ful.queues.toList.any (fun q => q.task.isSome)
  | 0x48008 | 0x48010 | 0x48018 | 0x48020 | 0x48038 => s.rdB Fld.tierCutCtrl.enable
  | 0x48060 => s.cut.cuts.any (fun c => c.st.open' && !c.refused)
  | 0x40038 => s.sedge.toList.any (fun x => x.st != .free)
  | 0x40070 => s.rdB Fld.tierCtrl.feltEn || s.rdB Fld.tierCtrl.peatEn
  | 0x73008 | 0x73010 => s.rdB (Fld.synBarCfg.enable (copyOf 0x73000 0x40 off))
  | 0x73500 => s.rdB (Fld.synBarCfg.enable (16 + copyOf 0x73500 8 off))
  | 0x90008 | 0x90010 => s.rdB Fld.cmdCtrl.enable
  | 0xA1000 | 0xA1008 | 0xA1010 | 0xA1018 | 0xA1020 => vget s.chk.scans (copyOf 0xA1000 0x40 off) false
  | _ => false

/-- Fields other than ENABLE that may not change now. -/
def State.fieldFrozen (s : State) (off lo : Nat) : Bool :=
  lo != 0 &&
  match regCanon off with
  | 0x11000 => s.rdB ⟨off, 0, 1⟩
  | 0x31000 => s.rdB ⟨off, 0, 1⟩ || (vget s.ful.queues (copyOf 0x31000 0x40 off) {}).task.isSome
  | 0x32000 => s.rdB ⟨off, 0, 1⟩
  | 0x48040 => s.rdB ⟨off, 0, 1⟩
  | 0x73000 => s.rdB ⟨off, 0, 1⟩
  | 0x91000 => s.rdB ⟨off, 0, 1⟩
  | _ => false

/-- Write the fields of one register by their types: the new stored bits, and whether a reserved encoding or a frozen field was met. -/
def State.writeBits (s : State) (off w : Nat) : List FieldRow → Nat → Bool → Nat × Bool
  | [], cur, bad => (cur, bad)
  | f :: t, cur, bad =>
    let v := bits w f.lo f.len
    let old := bits cur f.lo f.len
    let ok := s.fieldOk off f.lo f.len w
    match f.ty with
    | .rw =>
      if s.fieldFrozen off f.lo then s.writeBits off w t cur (bad || v != old)
      else if ok then s.writeBits off w t (putBits cur f.lo f.len v) bad
      else s.writeBits off w t cur true
    | .w1c => s.writeBits off w t (putBits cur f.lo f.len (old - (old &&& v))) bad
    | .w1s => s.writeBits off w t (putBits cur f.lo f.len (old ||| v)) bad
    | .wo => s.writeBits off w t cur (bad || !ok)
    | .ro | .rc => s.writeBits off w t cur bad

/-- Write a register that exists, at its own width, without what the write triggers: the new state, and whether nothing was wrong. -/
def State.writePlain (s : State) (off w : Nat) : State × Bool :=
  match regRow? off with
  | none => (s, false)
  | some row =>
    if s.regLocked off then (s.accessError off row.bytes true, false)
    else
      let (v, bad) := s.writeBits off w row.fields (s.getReg off).toNat false
      let s := s.setReg off (BitVec.ofNat 64 v)
      if bad then (s.accessError off row.bytes true, false) else (s, true)

end Sys2Proof.Machine
end

