-- ==== Sys2Proof/Machine/Sha.lean ====
section
/-! DEFINITION. SHA-256, SHA-384 (FIPS 180-4) and HMAC (FIPS 198-1), as R334, R337, R339 and R341 use them. -/
namespace Sys2Proof.Machine

/-- What SHA-256 and SHA-384 differ in. -/
structure ShaSet where
  w : Nat
  block : Nat
  out : Nat
  lenBytes : Nat
  bigA : List Nat
  bigE : List Nat
  smallA : List Nat
  smallE : List Nat
  init : List Nat
  k : List Nat
deriving DecidableEq, Repr

/-! The constants are no table: FIPS 180-4 defines each as the first bits of the fraction of a root of a prime. -/

/-- The first 80 primes. -/
def shaPrimes : List Nat :=
  [2, 3, 5, 7, 11, 13, 17, 19, 23, 29, 31, 37, 41, 43, 47, 53, 59, 61, 67, 71, 73, 79, 83, 89, 97] ++
  [101, 103, 107, 109, 113, 127, 131, 137, 139, 149, 151, 157, 163, 167, 173, 179, 181, 191, 193, 197, 199] ++
  [211, 223, 227, 229, 233, 239, 241, 251, 257, 263, 269, 271, 277, 281, 283, 293] ++
  [307, 311, 313, 317, 331, 337, 347, 349, 353, 359, 367, 373, 379, 383, 389, 397, 401, 409]

/-- The greatest number whose `e`-th power is at most `n`, found bit by bit: `b` bits are open, `r` is what stands so far. -/
def rootFrom (e n : Nat) : Nat → Nat → Nat
  | 0, r => r
  | b + 1, r => rootFrom e n b (if (r + 2 ^ b) ^ e ≤ n then r + 2 ^ b else r)

/-- The first `w` bits of the fraction of the `e`-th root of a prime below 512 (`e` is 2 or 3: its root is below 32). -/
def rootFraction (e w p : Nat) : Nat := rootFrom e (p * 2 ^ (e * w)) (w + 5) 0 % 2 ^ w

/-- SHA-256 (FIPS 180-4 sections 4.1.2, 4.2.2, 5.3.3): its starting words come from square roots, its round constants from cube roots. -/
def sha256Set : ShaSet where
  w := 32
  block := 64
  out := 32
  lenBytes := 8
  bigA := [2, 13, 22]
  bigE := [6, 11, 25]
  smallA := [7, 18, 3]
  smallE := [17, 19, 10]
  init := (shaPrimes.take 8).map (rootFraction 2 32)
  k := (shaPrimes.take 64).map (rootFraction 3 32)

/-- SHA-384 (FIPS 180-4 sections 4.1.3, 4.2.3, 5.3.4): its starting words come from the ninth to sixteenth primes. -/
def sha384Set : ShaSet where
  w := 64
  block := 128
  out := 48
  lenBytes := 16
  bigA := [28, 34, 39]
  bigE := [14, 18, 41]
  smallA := [1, 8, 7]
  smallE := [19, 61, 6]
  init := ((shaPrimes.drop 8).take 8).map (rootFraction 2 64)
  k := shaPrimes.map (rootFraction 3 64)

/-- Rotation to the right in `w` bits. -/
def rotr (w x n : Nat) : Nat := (x >>> n) ||| ((x <<< (w - n)) % 2 ^ w)

/-- The functions written with a capital sigma: three rotations. -/
def shaBig (p : ShaSet) (r : List Nat) (x : Nat) : Nat := rotr p.w x (r.getD 0 0) ^^^ rotr p.w x (r.getD 1 0) ^^^ rotr p.w x (r.getD 2 0)
/-- The functions written with a small sigma: two rotations and a shift. -/
def shaSmall (p : ShaSet) (r : List Nat) (x : Nat) : Nat := rotr p.w x (r.getD 0 0) ^^^ rotr p.w x (r.getD 1 0) ^^^ (x >>> r.getD 2 0)

/-- Big-endian number of a byte string. -/
def beNat (bs : List Byte) : Nat := bs.foldl (fun a b => a * 256 + b.toNat) 0
/-- Big-endian bytes of a number. -/
def beBytes (n v : Nat) : List Byte := (leBytes n v).reverse

/-- The rounds: one constant each, over a window of 16 schedule words. -/
def shaRounds (p : ShaSet) : List Nat → List Nat → List Nat → List Nat
  | [], _, h => h
  | k :: ks, win, h =>
    let m := 2 ^ p.w
    let a := h.getD 0 0; let b := h.getD 1 0; let c := h.getD 2 0; let d := h.getD 3 0
    let e := h.getD 4 0; let f := h.getD 5 0; let g := h.getD 6 0; let hh := h.getD 7 0
    let w0 := win.getD 0 0
    let ch := (e &&& f) ^^^ ((m - 1 - e) &&& g)
    let maj := (a &&& b) ^^^ (a &&& c) ^^^ (b &&& c)
    let t1 := (hh + shaBig p p.bigE e + ch + k + w0) % m
    let t2 := (shaBig p p.bigA a + maj) % m
    let wn := (shaSmall p p.smallE (win.getD 14 0) + win.getD 9 0 + shaSmall p p.smallA (win.getD 1 0) + w0) % m
    shaRounds p ks (win.drop 1 ++ [wn]) [(t1 + t2) % m, a, b, c, (d + t1) % m, e, f, g]

/-- One block. -/
def shaBlock (p : ShaSet) (h : List Nat) (blk : List Byte) : List Nat :=
  let win := (List.range 16).map (fun i => beNat ((blk.drop (i * (p.w / 8))).take (p.w / 8)))
  List.zipWith (fun x y => (x + y) % 2 ^ p.w) h (shaRounds p p.k win h)

/-- The whole blocks of a padded message (at most `fuel` of them). -/
def shaBlocks (p : ShaSet) : Nat → List Byte → List Nat → List Nat
  | 0, _, h => h
  | n + 1, bs, h => if bs.length < p.block then h else shaBlocks p n (bs.drop p.block) (shaBlock p h (bs.take p.block))

/-- The digest of a message that is already padded to whole blocks, from given starting words. -/
def shaPadded (p : ShaSet) (h : List Nat) (bs : List Byte) : List Nat := shaBlocks p (bs.length / p.block + 1) bs h

/-- Digest words as the byte string of the standard. -/
def shaOut (p : ShaSet) (h : List Nat) : List Byte := (h.flatMap (beBytes (p.w / 8))).take p.out

/-- Padding of FIPS 180-4 section 5.1 of a message whose length with what went before it is `total` bytes. -/
def shaPad (p : ShaSet) (total : Nat) : List Byte :=
  let z := (p.block - (total + 1 + p.lenBytes) % p.block) % p.block
  0x80 :: (zeros z ++ beBytes p.lenBytes (8 * total))

/-- The digest of a message (R337). -/
def sha (p : ShaSet) (bs : List Byte) : List Byte := shaOut p (shaPadded p p.init (bs ++ shaPad p bs.length))

def sha384 (bs : List Byte) : List Byte := sha sha384Set bs
def sha256 (bs : List Byte) : List Byte := sha sha256Set bs

/-- The key block K0 of R341. -/
def hmacKey (p : ShaSet) (key : List Byte) : List Byte :=
  if key.length ≤ p.block then fitTo p.block key else fitTo p.block (sha p key)

/-- HMAC over fragments that software has already padded for the inner pass (R341). -/
def hmacPadded (p : ShaSet) (key padded : List Byte) : List Byte :=
  let k0 := hmacKey p key
  let inner := shaOut p (shaPadded p p.init (k0.map (fun b => b ^^^ 0x36) ++ padded))
  sha p (k0.map (fun b => b ^^^ 0x5C) ++ inner)

end Sys2Proof.Machine
end

