-- ==== Sys2Proof/Machine/Cut.lean ====
section
/-! DEFINITION. The cut on its owner (R152 to R181, R214 to R217): directory, states, halves, record, seal, agreement, commit barrier. -/
namespace Sys2Proof.Machine

/-! ## Regions and images -/

/-- Bytes of an element of a region format. -/
def fmtBytes (fmt : BitVec 8) : Nat := if fmt = 0 then 4 else 2

/-- Bytes of a region that its elements fill. -/
def Region.used (r : Region) : Nat := r.elems * fmtBytes r.fmt

def Region.isParam (r : Region) : Bool := r.kind == 1
def Region.isCarded (r : Region) : Bool := r.kind == 2
def Region.isSump (r : Region) : Bool := r.kind == 3

/-- The region that a directory record and a shard table record describe (R153, R214). -/
def regionOf (d t : List Byte) : Region :=
  { shard := BitVec.ofNat 32 (fieldLE d 0 4), kind := d.getD 4 0, fmt := d.getD 5 0, offset := bits (fieldLE d 8 8) 0 48,
    len := bits (fieldLE d 16 8) 0 48, live := fieldLE d 24 8, tensor := BitVec.ofNat 32 (fieldLE t 0 4), role := t.getD 4 0,
    tensorElems := bits (fieldLE t 8 8) 0 48, firstElem := bits (fieldLE t 16 8) 0 48, elems := bits (fieldLE t 24 8) 0 48, dirBytes := d,
    tabBytes := t }

/-- Region `i` of the directory. -/
def State.dirRegion (s : State) (i : Nat) : Region :=
  regionOf (s.load (s.rdAddr Fld.tierBattDir.base + 32 * i) 32) (s.load (s.rdAddr Fld.tierShardTab.base + 32 * i) 32)

/-- The whole directory. -/
def State.readDir (s : State) : List Region := (List.range (s.rd Fld.tierBattDir.count)).map s.dirRegion

def State.battSize (s : State) : Nat := s.rd Fld.tierBattSize.size
def State.battBase (s : State) (h : Bool) : Nat := if h then s.rdAddr Fld.tierBattB.base else s.rdAddr Fld.tierBattA.base

/-- Bytes of a Sump half over all stacks. -/
def State.sumpHalf (s : State) : Nat := s.part.hbmStacks * 0xC00000000 / 2 ^ (5 - s.rd Fld.tierSumpCfg.fraction)

/-- T of R184: the Batt image and the span of the SUMP regions. -/
def State.tBytes (s : State) : Nat := s.battSize + (s.cut.dir.filter Region.isSump).foldl (fun m r => max m (r.offset + r.len)) 0

/-- Two byte ranges overlap. -/
def overlap (a n b m : Nat) : Bool := 0 < n && 0 < m && a < b + m && b < a + n

/-- Pairwise test of a list. -/
def allPairs {α : Type} (t : α → α → Bool) : List α → Bool
  | [] => true
  | a :: l => l.all (t a) && allPairs t l

/-- A region keeps the conditions of R153, R154 and R214. -/
def State.regionOk (s : State) (r : Region) : Bool :=
  let d := r.dirBytes
  let t := r.tabBytes
  within 1 3 r.kind.toNat && r.fmt.toNat ≤ 2 && r.shard.toNat < 0xFFFFFFF0 && fieldLE d 6 2 == 0 && fieldLE d 14 2 == 0 &&
  fieldLE d 22 2 == 0 && fieldLE t 5 3 == 0 && within 1 5 r.role.toNat && r.offset % 4096 == 0 && r.len % 4096 == 0 &&
  (!r.isSump || (r.offset % 0x200000 == 0 && r.len % 0x200000 == 0 && r.live % 0x200000 == 0)) &&
  r.offset + r.len ≤ (if r.isSump then s.sumpHalf else s.battSize) && r.firstElem + r.elems ≤ r.tensorElems && r.used ≤ r.len

/-- The data window (R291): base and bytes. -/
def State.window (s : State) : Nat × Nat := (s.rdAddr Fld.cmdDataWin.base, s.rd Fld.cmdDataWinSize.size * 4096)

/-- A range lies wholly inside the data window. -/
def State.inWindow (s : State) (a n : Nat) : Bool := let (b, w) := s.window; b ≤ a && a + n ≤ b + w

/-- The check of R154 with R214 and R291. -/
def State.dirOk (s : State) : Bool :=
  let rs := s.readDir
  let apart (a b : Region) : Bool := a.isSump != b.isSump || !overlap a.offset a.len b.offset b.len
  let (wb, wn) := s.window
  let clear (a n : Nat) : Bool := !overlap wb wn a n
  s.rd Fld.tierBattDir.count != 0 && rs.all s.regionOk && allPairs apart rs && allPairs (fun a b => a.shard != b.shard) rs &&
  !overlap (s.battBase false) s.battSize (s.battBase true) s.battSize && clear (s.battBase false) s.battSize &&
  clear (s.battBase true) s.battSize && clear (s.rdAddr Fld.tierSedgePool.base) (s.rd Fld.tierSedgePool.pages * pageBytes) &&
  clear (s.rdAddr Fld.tierRecBase.base) 65536 && rs.all (fun r => clear r.live r.len)

/-- The commit barrier names a slot that another function uses (R174). -/
def State.commitShared (s : State) (b : Nat) : Bool :=
  (s.rdB Fld.redCtrl.skipVoteEn && b == s.rd Fld.redCtrl.skipBarrier) || b == s.rd Fld.peatCfg.peatBarrier ||
  b == s.rd Fld.tierRstCtrl.planBarrier || b == s.rd Fld.tierRstCtrl.releaseBarrier

/-- Key of a byte of a Sump half. -/
def sumpKey (h : Bool) (off : Nat) : Nat := b2n h * 2 ^ 48 + off

/-- Bytes of a region's image: Sump half, capture half, or live state for a Batt-less cut (R168). -/
def State.image (s : State) (half : Option Bool) (r : Region) (off n : Nat) : List Byte :=
  match half with
  | none => s.load (r.live + off) n
  | some h =>
    if r.isSump then Memory.bytesAt s.sump (sumpKey h (r.offset + off)) n else s.load (s.battBase h + r.offset + off) n

/-- Set offset of a region (R184). -/
def State.regionAt (s : State) (r : Region) : Nat := if r.isSump then s.battSize + r.offset else r.offset

/-! ## Cuts and halves -/

def State.onCut (s : State) (f : CutUnit → CutUnit) : State := { s with cut := f s.cut }

def State.findCut (s : State) (seq : W32) : Option Cut := s.cut.cuts.find? (fun c => c.seq == seq)

/-- Replace the record of a cut. -/
def State.putCut (s : State) (c : Cut) : State :=
  s.onCut (fun u => { u with cuts := u.cuts.map (fun d => if d.seq == c.seq then c else d) })

/-- The cut of a STEP and generation. -/
def State.cutOf (s : State) (step : W64) (gen : BitVec 8) : Option Cut :=
  s.cut.cuts.find? (fun c => c.step == step && c.gen == gen && !c.refused)

def State.half (s : State) (h : Bool) : Half := if h then s.cut.halfB else s.cut.halfA
def State.putHalf (s : State) (h : Bool) (x : Half) : State :=
  s.onCut (fun u => if h then { u with halfB := x } else { u with halfA := x })

/-- Pin a half for its Peat drain; drains that waited for the next Peat interval may go on (R45). -/
def State.pinHalf (s : State) (h : Bool) : State :=
  let s := s.putHalf h .pinned
  { s with board := { s.board with pfWaitInterval := false } }

def CutState.isFinal : CutState → Bool
  | .retired | .sedgeIncomplete | .suspect | .abandoned | .skipped => true
  | _ => false

/-- States before SEDGE_COMMITTED. -/
def CutState.early : CutState → Bool
  | .opened | .felting | .agreeing | .committing => true
  | _ => false

/-- RFLAGS of a cut (R157). -/
def Cut.rflags (c : Cut) : Nat :=
  b2n c.battless + 2 * b2n c.sumpDone + 4 * b2n c.agreed + 8 * b2n (c.st == .suspect) + 16 * b2n c.jobc + 32 * b2n c.pinned

/-- Ring address of a cut descriptor. -/
def State.cutDesc (s : State) (seq : W32) : Nat :=
  s.rdAddr Fld.tierCutqCfg.base + 64 * (seq.toNat % 2 ^ (s.rd Fld.tierCutqCfg.ringLog2 + 4))

/-- Send a frame to the Sedge partner, if one is assigned. -/
def State.toPartner (s : State) (ty : BitVec 8) (f : Frame) : State :=
  if s.rdB Fld.tierPartner.valid then
    s.sendTo (BitVec.ofNat 10 (s.rd Fld.tierPartner.rack)) (BitVec.ofNat 7 (s.rd Fld.tierPartner.position)) ty f
  else s

/-- Set release (R188). -/
def State.sendRelease (s : State) (c : Cut) : State :=
  s.toPartner Ty.setRelease
    { hop := BitVec.ofNat 8 c.set, seq := BitVec.ofNat 32 (c.step.toNat / 2 ^ 32), stepLo := BitVec.ofNat 32 c.step.toNat,
      offset := BitVec.ofNat 48 (c.gen.toNat * 2 ^ 38), count := 1, payload := zeros 4 }

/-- Replica agreement is on (R170). -/
def State.replOn (s : State) : Bool := s.rdB Fld.tierCutCtrl.replEn && s.rd Fld.tierCutRepl.count != 0

/-- Rack and position packed in a 17-bit field. -/
def rackPos (v : Nat) : BitVec 10 × BitVec 7 := (BitVec.ofNat 10 (v / 128), BitVec.ofNat 7 v)

/-- The other members of the replica group. -/
def State.replMembers (s : State) : List (BitVec 10 × BitVec 7) :=
  ([Fld.tierCutRepl.member0, Fld.tierCutRepl.member1, Fld.tierCutRepl.member2].take (s.rd Fld.tierCutRepl.count)).map
    (fun f => rackPos (s.rd f))

/-! ## Commit barrier, write-back and DONE counts -/

/-- OR value of an arrival at the commit or Peat barrier. -/
def vetoWord (bit : Nat) (veto : Bool) : W64 := if veto then BitVec.ofNat 64 (2 ^ bit) else 0

/-- Make the arrivals that are due, one per descriptor in SEQ order (R174). -/
def State.commitFlushN : Nat → State → State
  | 0, s => s
  | n + 1, s =>
    match s.cut.cuts.reverse.find? (fun c => !c.arrived) with
    | some c =>
      match c.arrive with
      | some v =>
        State.commitFlushN n
          ((s.putCut { c with arrive := none, arrived := true }).barArrive (s.rd Fld.tierCutCtrl.commitBarrier) (.commit c.seq) 0
            (vetoWord (s.rd Fld.tierCutCtrl.vetoBit) v))
      | none => s
    | none => s

/-- Write back and count the final cuts, in SEQ order (R157, R178). -/
def State.doneFlushN : Nat → State → State
  | 0, s => s
  | n + 1, s =>
    match s.cut.cuts.reverse.find? (fun c => !c.doneOut) with
    | some c =>
      if c.st.isFinal && c.arrived && !(c.pinned && c.drainStatus.isNone) && !s.unitHolds .cutUnit then
        let s := s.store' (s.cutDesc c.seq + 32) (leBytes 2 c.status.toNat ++ leBytes 1 c.gen.toNat ++ leBytes 1 c.rflags)
        State.doneFlushN n ((s.putCut { c with doneOut := true }).produce (s.rd Fld.tierCutqSync.donePair) 1 .cutUnit).1
      else s
    | none => s

def State.cutFlush (s : State) : State :=
  let k := s.cut.cuts.length
  (s.commitFlushN k).doneFlushN k

/-! ## Ending a cut -/

/-- Stop the Felting of a cut: lanes, contexts and tags; entries that a new host was to fill are free again (R212). -/
def State.feltStop (s : State) (c : Cut) : State :=
  let mine (q : W32) : Bool := q == c.seq
  let s := s.dropLanes (fun u => match u with | .felt q _ => mine q | _ => false)
  let s := s.dropCtxs (fun u => match u with | .felt q _ => mine q | _ => false)
  let s := if c.refelt then s.mapDrop (fun e : MapEntry => mapSedge c.step c.gen e && (e.st == .filling || e.st == .written)) else s
  (s.releaseTags (c.out.map (fun o => o.tag))).putCut { c with runs := [], out := [], refelt := false }

/-- Error bit of a final state. -/
def State.cutErr (s : State) (st : CutState) : State :=
  match st with
  | .sedgeIncomplete => s.raise Fld.tierCutErrStatus.sedgeIncomplete
  | .suspect => s.raise Fld.tierCutErrStatus.suspect
  | .skipped => s.raise Fld.tierCutErrStatus.skipped
  | _ => s.raise Fld.tierCutErrStatus.abandoned

/-- A cut that ends without a commit is counted. -/
def State.cutEndCount (s : State) (st : CutState) : State :=
  if st == .skipped then s.bump Fld.tierCutCounts.skipped else s.bump Fld.tierCutCounts.abandoned

/-- Make the arrivals at the Peat barrier that are due, in the order of the cuts with the PEAT bit (R203): none passes one still to come. -/
def State.peatFlushN : Nat → State → State
  | 0, s => s
  | n + 1, s =>
    match s.cut.cuts.reverse.find? (fun c => c.peat && !c.peatArrived) with
    | some c =>
      match c.peatDue with
      | some v =>
        State.peatFlushN n
          ((s.putCut { c with peatDue := none, peatArrived := true }).barArrive (s.rd Fld.peatCfg.peatBarrier) (.peat c.seq) 0
            (vetoWord (s.rd Fld.peatCfg.vetoBit) v))
      | none => s
    | none => s

/-- The arrival of a cut at the Peat barrier is due; each is made once, in its turn (R203). -/
def State.peatArrive (s : State) (seq : W32) (veto : Bool) : State :=
  match s.findCut seq with
  | some c =>
    if c.peatArrived || c.peatDue.isSome then s
    else State.peatFlushN s.cut.cuts.length (s.putCut { c with peatDue := some veto })
  | none => s

/-- Move a cut to a final state (R175, R178): Felting stops, the half and the set are released, the engine arrives at the commit barrier. -/
def State.cutFinal (s : State) (seq : W32) (st : CutState) (status : Status) (veto : Bool) : State :=
  match s.findCut seq with
  | none => s
  | some c =>
    if c.st.isFinal then s
    else
      let s := s.feltStop c
      let pin := st == .sedgeIncomplete && c.peat && c.half.isSome && c.st != .opened
      let s := ((s.onCut (fun u => { u with lastStatus := status })).cutErr st).cutEndCount st
      let s := if status = St.feltDeadline then s.raise Fld.tierCutErrStatus.feltDeadline else s
      let s : State := match c.half with
        | some h => if pin then s.pinHalf h else if st == .suspect then s else s.putHalf h .empty
        | none => s
      let s : State := if st == .suspect then
          (s.mapMove (fun e : MapEntry => mapSedge c.step c.gen e && e.st == .written) .suspect).mapDrop
            (fun e : MapEntry => mapSedge c.step c.gen e && e.st == .filling)
        else
          let s := if c.accepted then s.sendRelease c else s
          s.mapDrop (mapSedge c.step c.gen)
      let s := s.putCut
        { c with
          st := st, status := status, runs := [], out := [], accepted := c.accepted && st == .suspect, pinned := c.pinned || pin,
          arrive := if c.arrived then c.arrive else some veto }
      let s := if c.peat && !pin && c.drainStatus.isNone then s.peatArrive seq true else s
      s.cutFlush

/-- Abandon every cut not yet SEDGE_COMMITTED; each with a status of its own choice of function. -/
def State.abandonEarly (s : State) (status : State → Status × State) : State :=
  (s.cut.cuts.reverse.filter (fun c => c.st.early)).foldl (fun s c =>
    let (st, s) := status s
    s.cutFinal c.seq .abandoned st true) s

/-! ## Job commit (R174, R175) -/

/-- A half whose cut is older than the newest job-committed one, and that no drain holds, becomes EMPTY. -/
def State.freeOldHalf (s : State) (newest : Cut) (h : Bool) : State :=
  if newest.half == some h then s
  else match s.half h with
    | .held => s.putHalf h .empty
    | .felting =>
      if s.cut.cuts.any (fun c => c.half == some h && c.st == .suspect && c.step.toNat < newest.step.toNat) &&
         !s.cut.cuts.any (fun c => c.half == some h && c.st.early) then s.putHalf h .empty
      else s
    | _ => s

/-- An older cut retires: its set is released; it stays while its half is PINNED. -/
def State.retireOld (s : State) (newest : Cut) (c : Cut) : State :=
  if c.seq == newest.seq || newest.step.toNat ≤ c.step.toNat || c.refused then s
  else
    let s := if c.refelt then s.feltStop c else s
    let s := if c.accepted then (s.sendRelease c).mapDrop (mapSedge c.step c.gen) else s
    let c := if c.refelt then { c with runs := [], out := [], refelt := false } else c
    let pinned := c.pinned && c.drainStatus.isNone
    let st := if (c.st == .jobCommitted || c.st == .sedgeCommitted) && !pinned then .retired else c.st
    s.putCut { c with accepted := false, st := st }

/-- The commit barrier has completed for a cut, with or without veto. -/
def State.commitResult (s : State) (seq : W32) (or' : W64) : State :=
  let veto := or'.getLsbD (s.rd Fld.tierCutCtrl.vetoBit)
  let s := if veto then s.raise Fld.tierCutErrStatus.vetoSeen else s
  match s.findCut seq with
  | none => s
  | some c =>
    if c.st != .sedgeCommitted then s.cutFlush
    else if veto then s.cutFinal seq .abandoned St.cutVetoed true
    else
      let pin := c.peat && c.half.isSome
      let c := { c with st := .jobCommitted, jobc := true, pinned := pin }
      let s := s.putCut c
      let s := match c.half with
        | some h => if pin then s.pinHalf h else s.putHalf h .held
        | none => s
      let s := (s.freeOldHalf c false).freeOldHalf c true
      let s := s.cut.cuts.foldl (fun s d => s.retireOld c d) s
      let s := s.setReg Reg.tierCutJob c.step
      let s := (((s.wr Fld.tierCutJobInfo.gen c.gen.toNat).wr Fld.tierCutJobInfo.valid 1).wrB Fld.tierCutJobInfo.local c.half.isSome).wrB
        Fld.tierCutJobInfo.half (c.half == some true)
      let s := { s with rst := { s.rst with liveClean := true } }
      let s := if c.peat && !pin then s.peatArrive seq true else s
      s.cutFlush

/-! ## Opening (R157, R158) -/

/-- The descriptor keeps R157. -/
def State.cutDescOk (s : State) (d : List Byte) (seq : W32) : Bool :=
  let step := fieldLE d 0 8
  (match s.cut.prevStep with | some p => p.toNat < step | none => true) && fieldLE d 8 4 == seq.toNat && bits (fieldLE d 12 1) 2 6 == 0 &&
  fieldLE d 13 3 == 0 && fieldLE d 16 8 % 64 == 0 && fieldLE d 24 8 == 0 && (d.drop 36).all (· == 0)

/-- Bytes that the owner will felt to the set (R168). -/
def State.feltBytes (s : State) : Nat :=
  s.cut.dir.foldl (fun n r => n + (if r.isParam then r.len - r.used / 4 * 4 else r.len)) 16384

/-- Append a cut, keeping at most 64 and every one that is not done (R317). -/
def State.addCut (s : State) (c : Cut) : State :=
  s.onCut (fun u =>
    { u with cuts := c :: ((u.cuts.take 63) ++ (u.cuts.drop 63).filter (fun d => !d.doneOut)), nextSeq := u.nextSeq + 1,
             prevStep := some c.step })

/-- PEAT_AGE (R206). -/
def State.peatAge (s : State) (step : W64) : State :=
  let m := s.rd Fld.peatCfg.ageMax
  if m ≠ 0 && (s.getReg Reg.peatGenStep).toNat + m < step.toNat then s.raise Fld.peatErrStatus.peatAge else s

/-- Open the cut of the next descriptor. -/
def State.cutOpen (s : State) : State :=
  let seq := s.cut.nextSeq
  let d := s.load (s.cutDesc seq) 64
  let step := BitVec.ofNat 64 (fieldLE d 0 8)
  let flags := fieldLE d 12 1
  let h := bitAt flags 0
  let wantPeat := match s.cut.peatNext with | some (least, _, none) => least.toNat ≤ step.toNat | _ => false
  let gen := BitVec.ofNat 8 (s.rd Fld.tierCutGen.gen)
  let c : Cut := { seq := seq, step := step, gen := gen, rt := fieldLE d 16 8, peat := bitAt flags 1 || wantPeat }
  if !s.cutDescOk d seq then
    let c := { c with st := .abandoned, status := St.lengthLong, refused := true, sealTaken := true, peat := false, arrive := some true }
    (s.addCut c).cutFlush
  else
    let empty := s.half h == .empty
    let s := s.peatAge step
    let s := if wantPeat then
        s.onCut (fun u => { u with peatNext := u.peatNext.map (fun p => (p.1, p.2.1, some seq)) })
      else s
    if !empty && s.cut.dir.any Region.isSump then (s.addCut c).cutFinal seq .skipped St.cutSkipped true
    else
      let s := s.addCut { c with half := if empty then some h else none, battless := !empty }
      let s := if empty then s.putHalf h .capture else (s.raise Fld.tierCutErrStatus.skipped).bump Fld.tierCutCounts.battless
      if s.rdB Fld.tierPartner.valid then s.toPartner Ty.cutNotice (cutFrame step gen 0 (leBytes 8 s.feltBytes))
      else s.cutFinal seq .abandoned St.sedgeIncomplete true

/-- CUT_OPEN: consume an issue count and open. -/
def doCutOpen (s : State) : Out :=
  if !s.hw || s.halted || s.rdB Fld.ctlReset.quiescing || !s.rdB Fld.tierCutCtrl.enable || !s.rdB Fld.tierCutqCfg.enable || s.unitHolds .cutUnit then .next s
  else match s.takeCount (s.rd Fld.tierCutqSync.issuePair) with
    | some s => .next s.cutOpen
    | none => .next s

/-! ## Notice and reply (R159, R160) -/

/-- CUT_NOTICE at the host: accept with a FREE set and enough pages, or refuse. -/
def execCutNotice (n : Fin 42) (f : Frame) (s : State) : Out :=
  .next (s.recv n Ty.cutNotice f fun s =>
    match s.slotOf f.srcRack f.srcPos with
    | none => s.sendTo f.srcRack f.srcPos Ty.cutReply (cutFrame (frameStep f) (BitVec.ofNat 8 f.offset.toNat) 0 (leBytes 8 0))
    | some slot =>
      let gen := BitVec.ofNat 8 f.offset.toNat
      let (got, s) := s.acceptSet slot (frameStep f) gen
      let word := match got with | some h => 1 + 2 * h | none => 0
      let s := s.sendTo f.srcRack f.srcPos Ty.cutReply (cutFrame (frameStep f) gen 0 (leBytes 8 word))
      match got with
      | some h => s.keepReport (2 * slot + h)
      | none => s)

/-- CUT_REPLY at the owner. -/
def doCutReply (n : Fin 42) (f : Frame) (s : State) : Out :=
  .next (s.recv n Ty.cutReply f fun s =>
    match s.cutOf (frameStep f) (BitVec.ofNat 8 f.offset.toNat) with
    | none => s.staleAt n
    | some c =>
      if !(c.st.early || c.refelt) || c.accepted then s.staleAt n
      else
        let w := leNat f.payload
        if !bitAt w 0 then
          if c.refelt then s.putCut { c with refelt := false } else s.cutFinal c.seq .abandoned St.sedgeIncomplete true
        else
          let c := { c with accepted := true, set := bits w 1 1 }
          let s := s.putCut c
          if s.mapFree < s.cut.dir.length then
            if c.refelt then ((s.mapRefuse).sendRelease c).putCut { c with refelt := false, accepted := false }
            else (s.mapRefuse).cutFinal c.seq .abandoned St.mapFull true
          else
            let loc := c.set + 2 * s.rd Fld.tierPartner.position + 256 * s.rd Fld.tierPartner.rack
            s.mapReserve 0 c.gen c.step (BitVec.ofNat 64 loc) s.cut.dir)

/-! ## The schedule record (R162, R163) and the Sump copies (R166) -/

/-- A time domain as 16 bytes of the record. -/
def domBytes (d : Domain) : List Byte := leBytes 8 d.sec ++ leBytes 4 d.ns ++ leBytes 2 (d.frac / 65536) ++ zeros 2

/-- A counter pair as 16 bytes of an image. -/
def Pair.bytes (p : Pair) : List Byte := leBytes 6 p.p ++ leBytes 6 p.c ++ leBytes 4 p.depth

/-- A queue pair's positions as 16 bytes. -/
def Queue.bytes (q : Queue) : List Byte :=
  leBytes 2 q.sqHead ++ leBytes 2 q.sqTail ++ leBytes 2 q.cqHead ++ leBytes 2 q.cqTail ++ leBytes 1 (b2n q.phase) ++ zeros 7

/-- The schedule record of a cut, as every value stands now. -/
def State.record (s : State) (c : Cut) : List Byte :=
  let b := leBytes 8 c.step.toNat ++ leBytes 1 c.gen.toNat ++ zeros 7 ++ domBytes s.tim.domA ++ domBytes s.tim.domB ++
    leBytes 8 (s.getReg Reg.redSrSeed).toNat ++ leBytes 8 (s.getReg Reg.fulSrSeed).toNat ++ leBytes 128 s.syn.flags.toNat ++
    leBytes 128 s.syn.ovr.toNat ++ s.red.chans.toList.flatMap (fun x => leBytes 4 x.nextSeq.toNat) ++
    s.ful.queues.toList.flatMap (fun q => leBytes 4 q.nextSeq.toNat) ++ leBytes 4 (c.seq + 1).toNat ++ zeros 12 ++
    s.cmd.queues.toList.flatMap Queue.bytes ++ (if c.rt = 0 then zeros 256 else s.load c.rt 256) ++ zeros 160 ++
    s.syn.pairs.toList.flatMap Pair.bytes ++ zeros 7160
  b ++ leBytes 8 (crc64 b).toNat

/-- SCHEDULE_RECORD_LATCH: a seal count is consumed for the oldest descriptor without one; for an OPEN cut the record is latched and
written, and its Sump copies start. -/
def execScheduleRecordLatch (s : State) : Out :=
  if !s.hw || s.halted then .next s
  else match s.cut.cuts.reverse.find? (fun c => !c.sealTaken) with
    | none => .next s
    | some c =>
      match s.takeCount (s.rd Fld.tierCutqSync.sealPair) with
      | none => .next s
      | some s =>
        if c.st != .opened then .next (s.putCut { c with sealTaken := true })
        else
          let r := s.record c
          let s := s.store' (s.rdAddr Fld.tierRecBase.base + c.step.toNat % 4 * 16384) r
          .next (s.putCut { c with sealTaken := true, record := r, sumpRuns := c.half.isSome && s.cut.dir.any Region.isSump })

/-- SUMP_COPY_DONE: every copy of the cut is done. -/
def execSumpCopyDone (s : State) : Out :=
  if !s.hw then .next s
  else match s.cut.cuts.find? (fun c => c.sumpRuns && c.st == .opened), s with
    | some c, s =>
      let h := c.half.getD false
      let copy (m : Memory) (r : Region) : Memory := Memory.putBytes m (sumpKey h r.offset) (s.load r.live r.len)
      let s := { s with sump := (s.cut.dir.filter Region.isSump).foldl copy s.sump }
      let s := s.putCut { c with sumpRuns := false, sumpDone := true }
      .next (s.produce (s.rd Fld.tierCutqSync.sumpPair) 1 .cutUnit).1
    | none, s => .next s

/-! ## The seal (R165) -/

/-- Zero the tail of a region in a half. -/
def State.zeroTail (s : State) (h : Bool) (r : Region) : State :=
  s.store' (s.battBase h + r.offset + r.used) (zeros (r.len - r.used))

/-- CUT_SEAL. -/
def doCutSeal (s : State) : Out :=
  if !s.hw || s.halted then .next s
  else match s.cut.cuts.reverse.find? (fun c => c.st == .opened && c.sealTaken && !c.record.isEmpty && !c.sumpRuns) with
    | none => .next s
    | some c =>
      let filled := s.cut.dir.filter (fun r => !r.isSump)
      let want := filled.foldl (fun n r => n + r.used) 0
      if c.half.isSome && c.bytes < want then .next (s.cutFinal c.seq .abandoned St.lengthShort true)
      else if c.half.isSome && want < c.bytes then .next (s.cutFinal c.seq .abandoned St.lengthLong true)
      else
        let s : State := match c.half with
          | some h => (filled.foldl (fun (s : State) r => s.zeroTail h r) s).putHalf h .felting
          | none => s
        let g := s.ful.gate
        let s := s.putCut
          { c with
            st := .felting, skippedStep := g.skip && g.step == c.step, sealSec := BitVec.ofNat 64 s.tim.domA.sec,
            sealNs := BitVec.ofNat 32 s.tim.domA.ns }
        if c.keep == some false then .next (s.cutFinal c.seq .sedgeIncomplete St.sedgeIncomplete true) else .next s

/-! ## Felt data (R168, R188) -/

/-- Ports of Felting to the partner: slices and payload bytes of a full frame. -/
def State.feltPorts (s : State) : List Nat × Nat :=
  if s.rd Fld.tierPartner.rack = s.myRack.toNat then
    (((List.range 36).filter (fun p => bitAt (s.rd Fld.tierFeltPorts.uflMask) p)).map uflSlice, 2048)
  else (((List.range 6).filter (fun k => bitAt (s.rd Fld.tierFeltPorts.soMask) k)).map soSlice, 8192)

/-- Felting to the partner can send: a port, and tags for all of them. -/
def State.canFelt (s : State) : Bool := let k := s.feltPorts.1.length; k != 0 && k ≤ s.red.tags.freeCount

/-- Allocate `n` tags. -/
def State.allocTags : Nat → State → List (Nat × BitVec 4) × State
  | 0, s => ([], s)
  | n + 1, s =>
    let (t, s) := s.allocTag
    let (l, s) := State.allocTags n s
    (t :: l, s)

/-- Send bytes to the cut's set from a set offset on: fragments over the ports as in R84, one transfer per port. -/
def State.feltSend (s : State) (seq : W32) (off : Nat) (bs : List Byte) (commit : Bool := false) : State :=
  let (ports, unit) := s.feltPorts
  let k := ports.length
  let frags := (bs.length + unit - 1) / unit
  let (tags, s) := s.allocTags (min k frags)
  let one (s : State) (i : Nat) : State :=
    match s.findCut seq with
    | none => s
    | some c =>
      let (tag, gen) := tags.getD (i % k) (0, 0)
      let part := (bs.drop (i * unit)).take unit
      let at' := off + i * unit
      let s := s.send ports[i % k]? (.pos (BitVec.ofNat 10 (s.rd Fld.tierPartner.rack)) (BitVec.ofNat 7 (s.rd Fld.tierPartner.position)))
        Ty.feltData
        { last := frags ≤ i + k, tag := BitVec.ofNat 20 tag, gen := gen, hop := BitVec.ofNat 8 c.set,
          seq := BitVec.ofNat 32 (c.step.toNat / 2 ^ 32), stepLo := BitVec.ofNat 32 c.step.toNat,
          offset := BitVec.ofNat 48 (at' + c.gen.toNat * 2 ^ 38), count := BitVec.ofNat 16 (part.length / 4), payload := part }
      s.putCut
        { c with
          out := c.out ++ [{ tag := tag, gen := gen, off := at', words := part.length / 4, tick := s.now, commit := commit }] }
  (List.range frags).foldl one s

/-! ## Digests known; the manifest (R215, R216) -/

/-- Every region has been read. -/
def State.allRead (s : State) (c : Cut) : Bool :=
  (List.range s.cut.dir.length).all (fun i => c.sums.any (fun x => x.region == i))

def Cut.sum? (c : Cut) (i : Nat) : Option RegionSum := c.sums.find? (fun x => x.region == i)

/-- SHA-384 of the regions' digests in directory order (R170). -/
def State.groupDigest (s : State) (c : Cut) : List Byte :=
  sha384 ((List.range s.cut.dir.length).flatMap (fun i => match c.sum? i with | some x => x.digest | none => []))

/-- Extent lengths of a region in 4 KiB units. -/
def Region.extentUnits (r : Region) (j : Nat) : Nat := min extentBytes (r.len - j * extentBytes) / 4096

/-- A manifest (R215): header, region records, extent records; `loc` gives the half-unit of the extent with a running number. -/
def State.manifest (s : State) (c : Cut) (tier peatGen : Nat) (encrypted : Bool) (loc : Nat → Nat) : List Byte :=
  let rs := s.cut.dir
  let total := rs.foldl (fun n r => n + r.extents) 0
  let head := leBytes 4 0x00010000 ++ leBytes 1 tier ++ leBytes 1 c.gen.toNat ++
    leBytes 1 (b2n c.battless + 2 * b2n c.skippedStep + 4 * b2n encrypted + 8 * b2n s.replOn) ++ [0] ++ leBytes 8 c.step.toNat ++
    leBytes 8 (s.getReg Reg.tierJobId).toNat ++ leBytes 4 s.myRank ++ leBytes 2 s.myRack.toNat ++ leBytes 1 s.myPos.toNat ++ [0] ++
    leBytes 4 rs.length ++ zeros 4 ++ leBytes 8 total ++ fitTo 16 (c.record.drop 16) ++ fitTo 48 c.group ++ leBytes 8 peatGen
  let firsts := (rs.foldl (fun (a : List Nat × Nat) r => (a.1 ++ [a.2], a.2 + r.extents)) ([], 0)).1
  let recs := (List.range rs.length).flatMap (fun i =>
    let r := rs.getD i {}
    let x := (c.sum? i).getD { region := i, digest := zeros 48, crcs := [] }
    r.dirBytes ++ r.tabBytes ++ fitTo 48 x.digest ++ leBytes 4 (firsts.getD i 0) ++ leBytes 4 r.extents ++ zeros 8)
  let exts := (List.range rs.length).flatMap (fun i =>
    let r := rs.getD i {}
    let x := (c.sum? i).getD { region := i, digest := [], crcs := [] }
    (List.range r.extents).flatMap (fun j =>
      leBytes 8 (x.crcs.getD j 0).toNat ++ leBytes 6 (loc (firsts.getD i 0 + j)) ++ leBytes 2 (r.extentUnits j)))
  head ++ leBytes 8 (crc64 head).toNat ++ recs ++ exts

/-- Once every digest of a cut is known, its group digest is formed (R170). -/
def State.groupForm (s : State) (seq : W32) : State :=
  match s.findCut seq with
  | none => s
  | some c => if s.allRead c && c.group.isEmpty then s.putCut { c with group := s.groupDigest c, groupTick := s.now } else s

/-- Send the Sedge manifest. -/
def State.sendManifest (s : State) (seq : W32) : State :=
  match s.findCut seq with
  | none => s
  | some c =>
    let c := { c with manSent := true, group := s.groupDigest c, groupTick := if c.group.isEmpty then s.now else c.groupTick }
    (s.putCut c).feltSend seq (s.tBytes + 65536) (s.manifest c 0 0 false (fun _ => 0))

/-- Entries of regions whose bytes have all been acknowledged become WRITTEN (R212). -/
def State.mapWritten (s : State) (seq : W32) : State :=
  match s.findCut seq with
  | none => s
  | some c =>
    (List.range s.cut.dir.length).foldl (fun s i =>
      let r := s.cut.dir.getD i {}
      let a := s.regionAt r
      let busy := c.out.any (fun o => a ≤ o.off && o.off < a + r.len)
      if (c.sum? i).isSome && !busy && (!r.isParam || c.keep == some true) then
        s.mapMove (fun e : MapEntry => mapSedge c.step c.gen e && e.shard == r.shard && e.st == .filling) .written
      else s) s

/-- The commit record (R217). -/
def State.commitRecord (s : State) (c : Cut) : List Byte :=
  leBytes 8 c.step.toNat ++ leBytes 1 c.gen.toNat ++ leBytes 1 (b2n c.agreed + 2 * b2n s.replOn + 4 * b2n c.battless) ++
    leBytes 1 (1 + 2 * (c.agreeMask.toNat % 8)) ++ leBytes 1 0xC7 ++ leBytes 4 s.cut.dir.length ++ fitTo 48 c.group

/-- Felting of a cut runs: a new one, or one that is felted again to a new host (R237). -/
def Cut.felts (c : Cut) : Bool := c.st == .felting || (c.refelt && c.accepted)

/-- Write the commit record once all of R172 holds. -/
def State.tryCommit (s : State) (seq : W32) : State :=
  match s.findCut seq with
  | none => s
  | some c =>
    let ready := (c.st == .felting && !s.replOn) || (c.st == .agreeing && c.agreed)
    if ready && c.feltEnd.isSome && c.manSent && c.out.isEmpty && c.keep == some true && s.canFelt then
      (s.putCut { c with st := .committing, comSent := true }).feltSend seq (s.tBytes + 16384) (s.commitRecord c) true
    else if c.refelt && !c.comSent && c.feltEnd.isSome && c.manSent && c.out.isEmpty && s.canFelt then
      (s.putCut { c with comSent := true }).feltSend seq (s.tBytes + 16384) (s.commitRecord c) true
    else s

/-! ## Replica agreement (R170, R171) -/

/-- Group digest heard from member `i`, once both parts are here. -/
def Cut.memberDigest (c : Cut) (i : Nat) : Option (List Byte) :=
  match c.heard.find? (fun x => x.1 == i && x.2.1 == 0), c.heard.find? (fun x => x.1 == i && x.2.1 == 1) with
  | some a, some b => some (a.2.2 ++ b.2.2)
  | _, _ => none

/-- Settle an AGREEING cut once every digest is here, or when the exchange has expired. -/
def State.agree (s : State) (seq : W32) (expired : Bool) : State :=
  match s.findCut seq with
  | none => s
  | some c =>
    let k := s.rd Fld.tierCutRepl.count
    let got := (List.range k).map c.memberDigest
    if c.st != .agreeing || c.agreed || (!expired && got.any Option.isNone) then s
    else
      let votes (d : List Byte) : Nat := (got.filter (fun g => g == some d)).length + b2n (c.group == d)
      let win (d : List Byte) : Bool := k + 1 < 2 * votes d
      if win c.group then
        let mask := (List.range k).foldl (fun m i => if got.getD i none == some c.group then m + 2 ^ i else m) 0
        (s.putCut { c with agreed := true, agreeMask := BitVec.ofNat 4 mask }).tryCommit seq
      else if 3 ≤ k + 1 && got.any (fun g => match g with | some d => win d | none => false) then
        let won (i : Nat) : Bool := match got.getD i none with | some d => win d | none => false
        let s := { s with rst := { s.rst with corrupt := true, majority := (List.range k).filter won } }
        (s.notice 6 0 0 St.digestMismatch 0 c.step).cutFinal seq .suspect St.digestMismatch false
      else s.cutFinal seq .suspect St.digestMismatch true

/-- FELTING_DONE: every byte is acknowledged and every digest known. -/
def doFeltingDone (s : State) : Out :=
  if !s.hw || s.halted then .next s
  else match s.cut.cuts.reverse.find? (fun c => c.felts && c.feltEnd.isNone && s.allRead c && c.recSent && c.out.isEmpty &&
      (c.manSent || (s.canFelt && s.rdB Fld.tierCtrl.feltEn))) with
    | none => .next s
    | some c =>
      let s := if c.manSent then s else s.sendManifest c.seq
      match s.findCut c.seq with
      | none => .next s
      | some c =>
        let c := { c with feltEnd := some s.now }
        if s.replOn && !c.refelt then
          let s := s.putCut { c with st := .agreeing }
          let part (s : State) (m : BitVec 10 × BitVec 7) (hop : Nat) : State :=
            s.sendTo m.1 m.2 Ty.digest (cutFrame c.step c.gen hop ((c.group.drop (24 * hop)).take 24))
          let s := s.replMembers.foldl (fun s m => part (part s m 0) m 1) s
          .next (s.agree c.seq false)
        else .next ((s.putCut c).tryCommit c.seq)

/-- DIGEST_FRAME: one that comes after the agreement has been settled is discarded and counted (R77). -/
def doDigestFrame (n : Fin 42) (f : Frame) (s : State) : Out :=
  .next (s.recv n Ty.digest f fun s =>
    match s.cutOf (frameStep f) (BitVec.ofNat 8 f.offset.toNat), s.replMembers.findIdx? (fun m => m == (f.srcRack, f.srcPos)) with
    | some c, some i =>
      if !c.st.early || c.agreed || 2 ≤ f.hop.toNat || f.payload.length ≠ 24 then s.staleAt n
      else
        let h := (c.heard.filter (fun x => !(x.1 == i && x.2.1 == f.hop.toNat))) ++ [(i, f.hop.toNat, f.payload)]
        (s.putCut { c with heard := h }).agree c.seq false
    | _, _ => s.staleAt n)

/-- XCHG_WATCHDOG_EXPIRY. -/
def doXchgWatchdogExpiry (race : Race) (s : State) : Out :=
  match s.cut.cuts.reverse.find? (fun c => c.st == .agreeing && !c.agreed) with
  | none => .next s
  | some c =>
    if !s.hw || s.halted || !s.elapsed c.groupTick (usTicks (s.rd Fld.tierCutWd.xchgWdUs)) then .next s
    else
      let s := s.logRace Unit'.tier c.seq.toNat Wd.xchg race
      if race = .arrivalWon then .next s else .next (s.agree c.seq true)

/-- KEEP_REPORT at the owner (R173). -/
def doKeepReport (n : Fin 42) (f : Frame) (s : State) : Out :=
  .next (s.recv n Ty.keepReport f fun s =>
    match s.cutOf (frameStep f) (BitVec.ofNat 8 f.offset.toNat) with
    | none => s.staleAt n
    | some c =>
      if !c.st.early || c.keep.isSome then s.staleAt n
      else
        let ok := bitAt (leNat f.payload) 0
        let s := s.putCut { c with keep := some ok }
        if ok then (s.mapWritten c.seq).tryCommit c.seq
        else if c.st == .felting || c.st == .agreeing then s.cutFinal c.seq .sedgeIncomplete St.sedgeIncomplete true
        else s)

/-- KEEP_WATCHDOG_EXPIRY. -/
def doKeepWatchdogExpiry (s : State) : Out :=
  let late (c : Cut) : Bool :=
    (c.st == .felting || c.st == .agreeing) && c.keep.isNone &&
    (match c.feltEnd with | some t => s.elapsed t (usTicks (s.rd Fld.tierCutWd.keepWdUs)) | none => false)
  match s.cut.cuts.reverse.find? late with
  | none => .next s
  | some c =>
    if !s.hw || s.halted then .next s
    else .next ((s.putCut { c with keep := some false }).cutFinal c.seq .sedgeIncomplete St.sedgeIncomplete true)

/-- The commit record of a cut stands in the partner's set: the cut, or the copy at its new host, is committed at Sedge. -/
def State.recordStands (s : State) (c : Cut) (arrive : Option Bool) : State :=
  let s := s.mapMove (fun e : MapEntry => mapSedge c.step c.gen e && e.st == .written) .committed
  let c := if c.refelt then { c with refelt := false, atSet := true } else { c with st := .sedgeCommitted, arrive, atSet := true }
  (s.putCut c).onCut (fun u => { u with unhosted := false })

/-- COMMIT_RECORD_ACK: the partner has acknowledged the commit record (R172, R174). -/
def doCommitRecordAck (s : State) : Out :=
  match s.cut.cuts.reverse.find? (fun c => (c.st == .committing || (c.refelt && c.comSent)) && c.out.isEmpty) with
  | none => .next s
  | some c =>
    if !s.hw then .next s else .next (s.recordStands c (some false)).cutFlush

/-- FELT_ACK at the owner (R188). -/
def execFeltAck (n : Fin 42) (f : Frame) (s : State) : Out :=
  .next (s.recv n Ty.feltAck f fun s =>
    match s.cutOf (frameStep f) (BitVec.ofNat 8 (f.offset.toNat / 2 ^ 38)) with
    | none => s.staleAt n
    | some c =>
      let off := f.offset.toNat % 2 ^ 38
      let hit (o : FeltOut) : Bool := o.tag == f.tag.toNat && o.gen == f.gen && o.off == off && o.words == f.count.toNat
      match c.out.find? hit with
      | none => s.staleAt n
      | some o =>
        let rest := removeFirst hit c.out
        let s := s.putCut { c with out := rest }
        let s := if rest.any (fun p => p.tag == o.tag && p.gen == o.gen) then s else s.releaseTag o.tag
        (s.mapWritten c.seq).tryCommit c.seq)

/-- A Felt data frame of this tag is lost: the cut that it belongs to is abandoned (R188), and one that is felted again stays as it is. -/
def State.feltLost (s : State) (tag : Nat) : State :=
  match s.cut.cuts.reverse.find? (fun c => (c.st.early || c.refelt) && c.out.any (fun o => o.tag == tag)) with
  | none => s
  | some c => if c.refelt then s.feltStop c else s.cutFinal c.seq .abandoned St.lengthShort true

/-- FELT_ACK_TIMEOUT (R188): a data frame of this tag has not been acknowledged in time. -/
def doFeltAckTimeout (tag : BitVec 20) (s : State) : Out :=
  let wd := usTicks (s.rd Fld.tierCutWd.keepWdUs)
  let late := s.cut.cuts.any (fun c => (c.st.early || c.refelt) && c.out.any (fun o => o.tag == tag.toNat && s.elapsed o.tick wd))
  if !s.hw || !late then .next s else .next (s.feltLost tag.toNat)

/-- An uncorrectable error in a Felting read (R178): the cut is abandoned, and one that is felted again stays as it is. -/
def State.feltReadError (s : State) (seq : W32) : State :=
  match s.findCut seq with
  | none => s
  | some c => if c.st == .opened || c.st == .felting then s.cutFinal seq .abandoned St.memUncorrectable true else s.feltStop c

/-! ## The host's side of Felting (R186, R188) -/

/-- The sender's set that a frame names, if it holds the frame's STEP and generation. -/
def State.namedSet (s : State) (f : Frame) : Option Nat :=
  match s.slotOf f.srcRack f.srcPos with
  | none => none
  | some slot =>
    let k := 2 * slot + f.hop.toNat
    let x := s.set k
    if f.hop.toNat < 2 && x.st != .free && x.step == (frameStep f) && x.gen.toNat == f.offset.toNat / 2 ^ 38 % 256 then some k else none

/-- Count a stale Felt or keep write. -/
def State.staleFelt (s : State) (n : Nat) : State :=
  ((s.staleAt n).bump Fld.tierSedgeCounts.staleFelt).raise Fld.tierErrStatus.staleFelt

/-- FELT_DATA: write, and acknowledge; a commit record makes the set COMMITTED. -/
def execFeltData (n : Fin 42) (f : Frame) (s : State) : Out :=
  .next (s.recv n Ty.feltData f fun s =>
    match s.namedSet f with
    | none => s.staleFelt n
    | some k =>
      let off := f.offset.toNat % 2 ^ 38
      if f.payload.length ≠ f.count.toNat * 4 || 2 ^ 46 ≤ f.offset.toNat || !s.setTakes k off f.payload.length then s.staleFelt n
      else
        let s := s.setStore k off f.payload
        let commit := off = s.rd (Fld.tierOwner.tMib (k / 2)) * 0x100000 + 16384 && f.payload.length = 64
        let s := if commit then s.putSet k { s.set k with st := .committed } else s
        s.sendTo f.srcRack f.srcPos Ty.feltAck
          { tag := f.tag, gen := f.gen, hop := f.hop, seq := f.seq, stepLo := f.stepLo, offset := f.offset, count := f.count })

/-- SET_RELEASE: frees a FILLING or COMMITTED set; a HELD one drops the frame. -/
def execSetRelease (n : Fin 42) (f : Frame) (s : State) : Out :=
  .next (s.recv n Ty.setRelease f fun s =>
    match s.namedSet f with
    | none => s.staleAt n
    | some k =>
      match (s.set k).st with
      | .filling | .committed => s.freeSet k
      | .held => s.staleFelt n
      | _ => s.staleAt n)

/-! ## Enable and disable (R154, R174) -/

/-- CUT_ENABLE: a write of CGM_TIER_CUT_CTRL with ENABLE 1. -/
def State.cutEnable (s : State) (value : Nat) : State :=
  let was := s.rdB Fld.tierCutCtrl.enable
  let s := (s.writePlain Reg.tierCutCtrl value).1
  if was || !bitAt value 0 then s
  else
    let bad := !s.dirOk
    let shared := s.commitShared (s.rd Fld.tierCutCtrl.commitBarrier)
    let s := if bad then (s.wr Fld.tierCutCtrl.enable 0).raise Fld.tierCutErrStatus.dirInvalid else s
    let s := if shared then (s.wr Fld.tierCutCtrl.enable 0).accessError Reg.tierCutCtrl 4 true else s
    if bad || shared then s else s.onCut (fun u => { u with dir := s.readDir })

/-- A status that the manual does not state (R178, ENABLE written 0): free. -/
def freeStatus (s : State) : Status × State := let (n, s) := s.pickFree 65536; (BitVec.ofNat 16 n, s)

/-- CUT_DISABLE: a write of CGM_TIER_CUT_CTRL with ENABLE 0. -/
def State.cutDisable (s : State) (value : Nat) : State :=
  let was := s.rdB Fld.tierCutCtrl.enable
  let s := (s.writePlain Reg.tierCutCtrl value).1
  if was && !bitAt value 0 then s.abandonEarly freeStatus else s

/-! ## Batt writes of the lanes (R155, R169) -/

/-- A byte range inside a PARAM or CARDED region of a half, at an offset. -/
def State.inBattRegion (s : State) (off n : Nat) : Bool :=
  s.cut.dir.any (fun r => !r.isSump && r.offset ≤ off && off + n ≤ r.offset + r.len)

/-- A Batt write of one element: performed and counted in the open cut of its STEP, or not; whether it was. -/
def State.battWrite (s : State) (step : W64) (a : Nat) (bs : List Byte) : State × Bool :=
  match s.cut.cuts.find? (fun c => c.st == .opened && c.step == step && c.half.isSome) with
  | none => (s, false)
  | some c =>
    let base := s.battBase (c.half.getD false)
    if base ≤ a && s.inBattRegion (a - base) bs.length then
      ((s.store' a bs).putCut { c with bytes := c.bytes + bs.length }, true)
    else (s, false)

/-- The first write of a later STEP meets a Batt-less cut whose Felting has not finished reading; one that is not yet sealed has not begun
(R169; assumption 133). -/
def State.laterWrite (s : State) (step : W64) : State :=
  let hit (c : Cut) : Bool := c.battless && (c.st == .felting || c.st == .opened) && c.step.toNat < step.toNat && !s.allRead c
  let s := (s.cut.cuts.filter hit).foldl (fun s c => s.cutFinal c.seq .abandoned St.feltDeadline true) s
  if s.rst.liveClean && (s.getReg Reg.tierCutJob).toNat < step.toNat then { s with rst := { s.rst with liveClean := false } } else s

/-- A Fulling state fault names a half (R148, R165). -/
def State.stateFaultCut (s : State) (batt : Nat) (status : Status) : State :=
  let hit (c : Cut) : Bool :=
    c.st == .opened && (match c.half with | some h => s.battBase h ≤ batt && batt < s.battBase h + s.battSize | none => false)
  (s.cut.cuts.filter hit).foldl (fun s c => s.cutFinal c.seq .abandoned status true) s

end Sys2Proof.Machine
end

