-- ==== Sys2Proof/Machine/Peat.lean ====
section
/-! DEFINITION. Peat (R192 to R210, R215, R219): units and blocks of the drive, superblock and catalogue, manifests, drains, retention,
rewrites, key slots. The errors of the drive are in Nvme.lean. -/
namespace Sys2Proof.Machine

def State.onPeat (s : State) (f : Peat → Peat) : State := { s with peat := f s.peat }

/-- Nothing may be written to Peat: PFAIL_N is low or unconnected (R38), power-fail work runs (R44), or the pin has not yet been high for
10 ms (R45). -/
def State.peatHeld (s : State) : Bool := !s.board.pfailN || s.board.pfWork || s.board.pfHold

/-! ## The drive as units (R192, R194) -/

/-- Usable namespaces: NSID less one, LBAs. -/
def Drive.used (d : Drive) : List (Nat × Nat) :=
  ((List.range 4).zip d.spaces).filterMap (fun x => if x.2.2 then some (x.1, x.2.1) else none)

/-- Allocation units, unit 0 included. -/
def Drive.units (d : Drive) : Nat := d.used.foldl (fun n x => n + x.2 / 512) 0

/-- Key of the first byte of a unit, in namespaces of the given sizes. -/
def unitKey : List (Nat × Nat) → Nat → Option Nat
  | [], _ => none
  | (i, n) :: t, u => if u < n / 512 then some (i * 2 ^ 60 + u * 0x200000) else unitKey t (u - n / 512)

/-- Key of a byte of a unit; units that do not exist have none. -/
def Drive.keyAt (d : Drive) (u off : Nat) : Option Nat := (unitKey d.used u).map (fun k => k + off)

/-- Bytes of a unit. -/
def State.unitLoad (s : State) (u off n : Nat) : List Byte :=
  match s.peat.drive.keyAt u off with
  | some k => Memory.bytesAt s.peat.drive.blocks k n
  | none => zeros n

/-- Write bytes to the drive at a key. -/
def State.driveStore (s : State) (k : Nat) (bs : List Byte) : State :=
  s.onPeat (fun p => { p with drive := { p.drive with blocks := Memory.putBytes p.drive.blocks k bs } })

/-- Data unit number of the block at a key (R208): (NSID - 1) * 2^56 + LBA. -/
def dunOf (k : Nat) : Nat := k / 2 ^ 60 * 2 ^ 56 + k % 2 ^ 60 / 4096

/-- Bytes as they stand on the drive: encrypted when there is a key. -/
def cipher (enc : Bool) (key : Option (List Byte)) (k : Nat) (bs : List Byte) : List Byte :=
  match key with
  | some x => xtsRun enc x ((bs.length + 4095) / 4096) (dunOf k) bs
  | none => bs

/-! ## Keys (R209, R210) -/

/-- Key check value of an XTS key: 8 bytes of the encryption of zeros; they lie in the first block of the data unit. -/
def kcvOf (key : List Byte) : W64 := BitVec.ofNat 64 (fieldLE (xtsUnit true key 0xFFFFFFFFFFFFFFFF (zeros 16)) 0 8)

def State.keySlot (s : State) (n : Nat) : KeySlot := vget s.sec.slots n {}

/-- A loaded XTS slot. -/
def KeySlot.xts (k : KeySlot) : Bool := k.loaded && k.kind == 1

/-- The loaded XTS slot with a check value. -/
def State.slotFor (s : State) (kcv : W64) : Option Nat := (List.range 16).find? (fun n => (s.keySlot n).xts && kcvOf (s.keySlot n).bytes == kcv)

/-- The loaded XTS key with a check value. -/
def State.keyFor (s : State) (kcv : W64) : Option (List Byte) := (s.slotFor kcv).map (fun n => (s.keySlot n).bytes)

/-- Key of a catalogue entry: none inside when it is not encrypted; none outside when no slot has it. -/
def State.entryKey (s : State) (e : CatEntry) : Option (Option (List Byte)) :=
  if e.encrypted then (s.keyFor e.kcv).map some else some none

/-! ## Superblock and catalogue (R195, R196) -/

/-- A 4 KiB structure closed by its CRC-64. -/
def sealed4k (bs : List Byte) : List Byte := let b := fitTo 4088 bs; b ++ crc64Bytes b
def sealedOk (bs : List Byte) : Bool := bs.length == 4096 && (bs.drop 4088) == crc64Bytes (bs.take 4088)

/-- The superblock that this engine writes. -/
def State.superblock (s : State) : List Byte :=
  let used := s.peat.drive.used
  sealed4k (leBytes 4 0x00010000 ++ leBytes 4 512 ++ leBytes 8 s.part.serial.toNat ++ leBytes 8 s.peat.drive.units ++
    leBytes 1 used.length ++ zeros 7 ++ fitTo 32 (used.flatMap (fun x => leBytes 8 x.2)) ++ leBytes 8 s.tim.domA.sec)

def CatEntry.bytes (e : CatEntry) : List Byte :=
  leBytes 8 e.peatGen ++ leBytes 8 e.step.toNat ++ leBytes 1 e.gen.toNat ++
  leBytes 1 (b2n e.jobc + 2 * b2n e.encrypted + 4 * b2n e.exported + 8 * b2n e.battless + 16 * b2n e.sedgeIncomplete) ++ zeros 2 ++
  leBytes 4 e.manBytes ++ leBytes 8 e.manUnit ++ leBytes 8 e.manCrc.toNat ++ leBytes 8 e.kcv.toNat ++ fitTo 48 e.group

def CatEntry.ofBytes (b : List Byte) : CatEntry :=
  let fl := fieldLE b 17 1
  { peatGen := bits (fieldLE b 0 8) 0 48, step := BitVec.ofNat 64 (fieldLE b 8 8), gen := b.getD 16 0, jobc := bitAt fl 0,
    encrypted := bitAt fl 1, exported := bitAt fl 2, battless := bitAt fl 3, sedgeIncomplete := bitAt fl 4, manBytes := fieldLE b 20 4,
    manUnit := bits (fieldLE b 24 8) 0 48, manCrc := BitVec.ofNat 64 (fieldLE b 32 8), kcv := BitVec.ofNat 64 (fieldLE b 40 8),
    group := (b.drop 48).take 48 }

/-- A catalogue slot (R196). -/
def Catalogue.bytes (serial : W64) (c : Catalogue) : List Byte :=
  sealed4k (leBytes 8 c.catSeq ++ leBytes 4 0x00010000 ++ leBytes 1 c.entries.length ++ zeros 3 ++ leBytes 8 c.nextUnit ++
    leBytes 8 serial.toNat ++ leBytes 8 c.genHigh ++ zeros 24 ++ fitTo 1536 (c.entries.flatMap CatEntry.bytes))

def Catalogue.ofBytes (b : List Byte) : Catalogue :=
  { catSeq := fieldLE b 0 8, nextUnit := fieldLE b 16 8, genHigh := bits (fieldLE b 32 8) 0 48,
    entries := (List.range (min 16 (fieldLE b 12 1))).map (fun i => CatEntry.ofBytes ((b.drop (64 + 96 * i)).take 96)) }

/-- Offset in unit 0 of a catalogue slot. -/
def slotOff (b : Bool) : Nat := if b then 8192 else 4096

/-- Entries of the valid catalogue. -/
def State.allEntries (s : State) : List CatEntry := match s.peat.cat with | some (c, _) => c.entries | none => []

/-- Entries of the valid catalogue but for those whose manifest failed its check: they are dropped (R197). -/
def State.entries (s : State) : List CatEntry :=
  s.allEntries.filter (fun e => !s.peat.gens.any (fun i => i.peatGen == e.peatGen && !i.ok))

/-- The entry of a cut (R310), newest generation first. -/
def State.entryOf (s : State) (step : W64) (gen : BitVec 8) : Option CatEntry :=
  (s.entries.filter (fun e => e.step == step && e.gen == gen)).foldl (fun a e => match a with
    | some x => if x.peatGen < e.peatGen then some e else a
    | none => some e) none

def State.genInfo (s : State) (g : Nat) : Option PeatGenInfo := s.peat.gens.find? (fun i => i.peatGen == g)

/-! ## Manifests (R215) -/

/-- A region record of a manifest. -/
structure ManRegion where
  region : Region
  digest : List Byte
  first : Nat
  count : Nat
deriving DecidableEq, Repr

/-- An extent record of a manifest: CRC-64, half-unit, length in 4 KiB units. -/
structure ManExtent where
  crc : W64
  half : Nat
  len : Nat
deriving DecidableEq, Repr

/-- A manifest as read. -/
structure Man where
  regions : List ManRegion
  exts : List ManExtent
deriving DecidableEq, Repr

/-- Regions and extents of a manifest's bytes. -/
def Man.ofBytes (b : List Byte) : Man :=
  let n := fieldLE b 32 4; let x := fieldLE b 40 8
  let sub (at' k : Nat) : List Byte := (b.drop at').take k
  { regions := (List.range n).map (fun i =>
      let a := 128 + 128 * i
      { region := regionOf (sub a 32) (sub (a + 32) 32), digest := sub (a + 64) 48, first := fieldLE b (a + 112) 4,
        count := fieldLE b (a + 116) 4 }),
    exts := (List.range x).map (fun k =>
      let a := 128 + 128 * n + 16 * k
      { crc := BitVec.ofNat 64 (fieldLE b a 8), half := fieldLE b (a + 8) 6, len := bits (fieldLE b (a + 14) 2) 0 9 }) }

/-- The header CRC of a manifest holds. -/
def manHeadOk (b : List Byte) : Bool := 128 ≤ b.length && fieldLE b 0 4 == 0x00010000 && (b.drop 120).take 8 == crc64Bytes (b.take 120)

/-- Length of a manifest's header and records. -/
def manRecords (b : List Byte) : Nat := 128 + 128 * fieldLE b 32 4 + 16 * fieldLE b 40 8

/-- Length rounded up to 4 KiB. -/
def up4k (n : Nat) : Nat := (n + 4095) / 4096 * 4096

/-- Plaintext of a Peat manifest that stands in some units: as many 4 KiB blocks of each as its length takes. -/
def State.manLoad (s : State) (man : List Nat) (n : Nat) (key : Option (List Byte)) : List Byte :=
  (man.zipIdx.flatMap (fun (u, i) =>
    let b := s.unitLoad u 0 (min 0x200000 (up4k (n - i * 0x200000)))
    match s.peat.drive.keyAt u 0 with
    | some k => cipher false key k b
    | none => b)).take n

/-- Units that a manifest takes from its first one on: consecutive, going round to unit 1 (assumption 23). -/
def State.manRun (s : State) (first n : Nat) : List Nat :=
  (List.range ((n + 0x1FFFFF) / 0x200000)).map (fun i => 1 + (first - 1 + i) % (s.peat.drive.units - 1))

/-- The manifest of an entry, checked against MAN_CRC: its bytes, or the status that stops it. -/
def State.entryMan (s : State) (e : CatEntry) : Except Status (List Byte) :=
  match s.entryKey e with
  | none => .error St.keyAbsent
  | some key =>
    let man := match s.genInfo e.peatGen with | some i => i.man | none => s.manRun e.manUnit e.manBytes
    let b := s.manLoad man e.manBytes key
    if crc64 b == e.manCrc then .ok b else .error St.crcMismatch

/-- Plaintext of one extent on Peat. -/
def State.extLoad (s : State) (key : Option (List Byte)) (x : ManExtent) : List Byte :=
  let u := x.half / 2; let off := x.half % 2 * 0x100000
  let b := s.unitLoad u off (x.len * 4096)
  match s.peat.drive.keyAt u off with
  | some k => cipher false key k b
  | none => b

/-! ## Units in use (R199) -/

/-- Units that nothing may take. -/
def State.usedUnits (s : State) : List Nat :=
  let p := s.peat
  p.gens.flatMap (fun g => g.units) ++ p.nextGens.flatMap (fun g => g.units) ++
  (match p.drain with | some d => d.units | none => []) ++ p.staged.flatMap (fun r => r.moves.map (fun m => m.2 / 2)) ++
  p.taking.flatMap (fun r => r.1.moves.map (fun m => m.2 / 2))

/-- Free units, those that the running drain has reserved left out. -/
def State.freeUnits (s : State) : Nat :=
  s.peat.drive.units - 1 - s.usedUnits.eraseDups.length - (match s.peat.drain with | some d => d.need | none => 0)

/-- The first unit at or after `u` that is not used, wrapping past the last unit to unit 1. -/
def nextUnit (used : List Nat) (total : Nat) : Nat → Nat → Option Nat
  | 0, _ => none
  | n + 1, u =>
    let u := if u = 0 || total ≤ u then 1 else u
    if used.contains u then nextUnit used total n (u + 1) else if u < total then some u else none

/-- Take `n` units with the cursor (R200); fewer when no more are free. -/
def State.takeUnits : Nat → State → List Nat → List Nat × State
  | 0, s, _ => ([], s)
  | n + 1, s, mine =>
    let used := s.usedUnits ++ mine
    match nextUnit used s.peat.drive.units (used.length + 2) s.peat.cursor with
    | none => ([], s)
    | some u =>
      let (l, s) := State.takeUnits n (s.onPeat (fun p => { p with cursor := u + 1 })) (u :: mine)
      (u :: l, s)

/-- Half-units of `x` extents packed two per unit. -/
def halvesOf (units : List Nat) (x : Nat) : List Nat := (units.flatMap (fun u => [2 * u, 2 * u + 1])).take x

/-! ## Catalogue writes (R196, R201, R205) -/

/-- A catalogue write is with the drive. -/
def State.catOut (s : State) : Bool := s.peat.nvme.any (fun w => w.owner != .drain)

/-- A catalogue write is with the drive, or the Flush before that of rewrites. -/
def State.catBusy (s : State) : Bool := s.peat.flushing || s.catOut

/-- The job-Peat-committed mark of an entry (R203). -/
def State.isJobc (s : State) (e : CatEntry) : Bool :=
  e.jobc || s.peat.jobcGen == some e.peatGen || s.cut.cuts.any (fun c => c.peatJobc && c.peatGen == e.peatGen)

/-- A pin register holds a generation. -/
def State.pinned (s : State) (g : Nat) : Bool := (List.range 4).any (fun n => s.rdB (Fld.peatPin.pin n) && s.rd (Fld.peatPin.gen n) == g)

/-- The export of a generation is recorded by a pin register (R219). -/
def State.pinExported (s : State) (g : Nat) : Bool :=
  (List.range 4).any (fun n => s.rdB (Fld.peatPin.exported n) && s.rd (Fld.peatPin.gen n) == g)

/-- Insert an entry by falling PEAT_GEN. -/
def insertGen (e : CatEntry) : List CatEntry → List CatEntry
  | [] => [e]
  | x :: t => if x.peatGen < e.peatGen then e :: x :: t else x :: insertGen e t

/-- The entries that a catalogue write retains (R205), newest first, with their marks. -/
def State.retained (s : State) (es : List CatEntry) : List CatEntry :=
  let es := (es.map (fun e => { e with jobc := s.isJobc e, exported := e.exported || s.pinExported e.peatGen })).foldr insertGen []
  let job := (es.find? (fun e => e.jobc)).map (fun e => e.peatGen)
  ((List.range es.length).zip es).filterMap (fun x =>
    if x.1 < s.rd Fld.peatCfg.retain || job == some x.2.peatGen || s.pinned x.2.peatGen then some x.2 else none)

/-- Hand a catalogue to the drive: into the slot that is not the valid one, with the next CAT_SEQ. -/
def State.catWrite (s : State) (owner : NvmeOwner) (es : List CatEntry) : State :=
  match s.peat.cat with
  | none => s
  | some (c, b) =>
    let c' : Catalogue := { catSeq := c.catSeq + 1, nextUnit := s.peat.cursor, genHigh := s.rd Fld.peatGenHigh.genHigh, entries := es }
    match s.peat.drive.keyAt 0 (slotOff (!b)) with
    | some k => s.onPeat (fun p => { p with nvme := p.nvme ++ [{ owner := owner, key := k, bytes := Catalogue.bytes s.part.serial c' }] })
    | none => s

/-- LAST_GEN, its STEP and CGM_PEAT_JOBC as the valid catalogue gives them. -/
def State.showGens (s : State) : State :=
  match s.entries.foldr insertGen [] with
  | e :: _ => (s.wr Fld.peatGen.lastGen e.peatGen).wr Fld.peatGenStep.step e.step.toNat
  | [] => (s.wr Fld.peatGen.lastGen 0).wr Fld.peatGenStep.step 0

/-- A catalogue write of some owner has completed: its slot is the valid one. -/
def State.catLand (s : State) (t : NvmeOwner → Bool) : State :=
  match s.peat.nvme.find? (fun w => t w.owner), s.peat.cat with
  | some w, some (_, b) =>
    let s := s.driveStore w.key w.bytes
    s.onPeat (fun p => { p with nvme := p.nvme.filter (fun w => !t w.owner), cat := some (Catalogue.ofBytes w.bytes, !b) })
  | _, _ => s

/-! ## Rewrites (R202, R311, R312) -/

/-- Replace the half-units of moved extents in the bytes of a manifest and give it a new PEAT_GEN. -/
def manMove (b : List Byte) (g : Nat) (moves : List (Nat × Nat)) : List Byte :=
  let n := fieldLE b 32 4
  let head := (b.take 112) ++ leBytes 8 g
  let put (b : List Byte) (m : Nat × Nat) : List Byte :=
    let a := 128 + 128 * n + 16 * m.1 + 8
    b.take a ++ leBytes 6 m.2 ++ b.drop (a + 6)
  moves.foldl put (head ++ crc64Bytes head ++ b.drop 128)

/-- Write a manifest's plaintext into its units. -/
def State.manStore (s : State) (man : List Nat) (key : Option (List Byte)) (b : List Byte) : State :=
  ((List.range man.length).zip man).foldl (fun s x =>
    let part := (b.drop (x.1 * 0x200000)).take 0x200000
    match s.peat.drive.keyAt x.2 0 with
    | some k => s.driveStore k (cipher true key k part)
    | none => s) s

/-- Units that a manifest's bytes name, with those it stands in. -/
def manUnitsOf (b : List Byte) (man : List Nat) : List Nat := ((Man.ofBytes b).exts.map (fun x : ManExtent => x.half / 2) ++ man).eraseDups

/-- Bits of CGM_PEAT_ERR_STATUS that a failure's status sets. -/
def State.peatErr (s : State) (st : Status) : State :=
  let s := if st = St.peatFull then s.raise Fld.peatErrStatus.peatFull else s
  let s := if st = St.peatIo then s.raise Fld.peatErrStatus.io else s
  let s := if st = St.keyAbsent then s.raise Fld.peatErrStatus.keyAbsent else s
  if st = St.pfailAbort then s.raise Fld.peatErrStatus.pfailAbort else s

/-- A rewrite fails: the error bits of its status, and the end of the FLUSH commands that wait for it. -/
def State.flushEnds (s : State) (r : Rewrite) (st : Status) : State :=
  (s.ctxsWith (fun c => !c.finished && !c.abandoned && c.opc == 3 && c.waits.contains r.order)).foldl (fun s k => s.ctxEnd k st 0 0) (s.peatErr st)

/-- Take one pending rewrite into the next catalogue write: the generation gets a new number and a new manifest. Where units for the manifest
are short, the rewrite stays pending; where its generation is gone or cannot be read, the rewrite goes too. -/
def State.takeRewrite (s : State) (r : Rewrite) : State :=
  let g := match s.peat.taking.reverse.find? (fun t => t.1.peatGen == r.peatGen) with | some t => t.2 | none => r.peatGen
  match s.peat.nextEntries.find? (fun e => e.peatGen == g), (s.peat.nextGens ++ s.peat.gens).find? (fun i => i.peatGen == g) with
  | some e, some info =>
    match s.entryKey e with
    | none => s.flushEnds r St.keyAbsent
    | some key =>
      let old := s.manLoad info.man e.manBytes key
      if crc64 old != e.manCrc then s.flushEnds r St.crcMismatch
      else if s.freeUnits < info.man.length then
        (s.onPeat (fun p => { p with staged := p.staged ++ [r] })).flushEnds r St.peatFull
      else
        let g' := s.rd Fld.peatGenHigh.genHigh + 1
        let b := manMove old g' r.moves
        let (man, s) := s.takeUnits info.man.length []
        let s := (s.wr Fld.peatGenHigh.genHigh g').manStore man key b
        s.onPeat (fun p =>
          { p with
            taking := p.taking ++ [(r, g')],
            nextGens := { peatGen := g', units := manUnitsOf b man, man := man } :: p.nextGens.filter (fun i => i.peatGen != g),
            nextEntries := p.nextEntries.map (fun x =>
              if x.peatGen == g then { x with peatGen := g', manUnit := man.headD 0, manCrc := crc64 b } else x) })
  | _, _ => s

/-- Every pending rewrite joins the next catalogue write (R312): its new manifest is written before the Flush that goes before that write
(R202). -/
def State.takeRewrites (s : State) : State :=
  s.peat.staged.foldl State.takeRewrite
    (s.onPeat (fun p => { p with staged := [], taking := [], flushDue := false, nextEntries := s.entries }))

/-- The entries that the next catalogue write starts from. -/
def State.baseEntries (s : State) : List CatEntry := if s.peat.taking.isEmpty then s.entries else s.peat.nextEntries

/-- Extents of a moved list that belong to a region of a manifest, as shard and extent index. -/
def Man.shardOf (m : Man) (k : Nat) : Option (W32 × Nat) :=
  (m.regions.find? (fun r => r.first ≤ k && k < r.first + r.count)).map (fun r => (r.region.shard, k - r.first))

/-- Join runs of one shard that match and meet (R212), at most `fuel` times. -/
def mapJoin : Nat → SMap MapEntry → SMap MapEntry
  | 0, m => m
  | n + 1, m =>
    let meet (a b : MapEntry) : Bool :=
      a.shard == b.shard && a.tier == b.tier && a.st == .committed && b.st == .committed && a.gen == b.gen && a.step == b.step &&
      a.loc == b.loc && a.firstExt + a.extCount == b.firstExt
    match m.find? (fun a => m.any (fun b => meet a.2 b.2)) with
    | none => m
    | some a =>
      match m.find? (fun b => meet a.2 b.2) with
      | none => m
      | some b => mapJoin n (kdel (kset m a.1 { a.2 with extCount := a.2.extCount + b.2.extCount }) b.1)

/-- An extent of a shard, as its manifest now places it, holds what the manifest says. -/
def State.extGood (s : State) (key : Option (List Byte)) (m : Man) (shard : W32) (i : Nat) : Bool :=
  match m.regions.find? (fun r => r.region.shard == shard) with
  | none => false
  | some r => match m.exts[r.first + i]? with
    | some x => crc64 (s.extLoad key x) == x.crc
    | none => false

/-- The Shard Map after a rewrite: the generation's entries take its new number; a BAD run of which extents were moved is good again once each
of its extents is (a run that a split without a free entry left BAD holds good ones too, R212). -/
def State.mapRewritten (s : State) (key : Option (List Byte)) (m : Man) (old : Nat) (moves : List (Nat × Nat)) (g : Nat) : State :=
  let moved := moves.filterMap (fun x => m.shardOf x.1)
  let fix (e : MapEntry) : MapEntry :=
    if mapPeat old e then
      let its := List.range e.extCount
      let hit (i : Nat) : Bool := moved.contains (e.shard, e.firstExt + i)
      let good := e.st == .bad && its.any hit && its.all (fun i => hit i || s.extGood key m e.shard (e.firstExt + i))
      { e with loc := BitVec.ofNat 64 g, st := if good then .committed else e.st }
    else e
  let map := s.map.map (fun x => (x.1, fix x.2))
  { s with map := mapJoin map.length map }

/-- FLUSH commands whose rewrites have all been taken and committed complete (R312). -/
def State.flushCheck (s : State) : State :=
  (s.ctxsWith (fun c => !c.finished && !c.abandoned && c.opc == 3 && !c.waits.isEmpty)).foldl (fun s k =>
    match s.ctx? k with
    | none => s
    | some c =>
      let open' := (s.peat.staged.any (fun r => c.waits.contains r.order)) || s.peat.taking.any (fun r => c.waits.contains r.1.order)
      if open' then s else s.ctxEnd k St.success 0 0) s

/-- Status that stops Peat writes in the drive's present state; none: they may go on. -/
def State.peatWriteStop (s : State) : Option Status :=
  match s.peat.st with
  | .ready => none
  | .unformatted => some St.peatUnformatted
  | .foreign => some St.peatForeign
  | .readOnly => some St.hummockMode
  | _ => some St.peatAbsent

/-- A drain has issued its Flush or its catalogue write: rewrites wait for its end (assumption 135). -/
def State.drainEnds (s : State) : Bool := match s.peat.drain with | some d => d.step == .flush || d.step == .catalogue | none => false

/-- Start what a FLUSH or a repair wants, when rewrites are pending and no other catalogue write is under way: the new manifests, then Flush. -/
def State.flushBegin (s : State) : State :=
  if s.peat.staged.isEmpty || s.catBusy || s.peatHeld || s.drainEnds || s.peatWriteStop.isSome then s
  else
    let s := s.takeRewrites
    if s.peat.taking.isEmpty then s.flushCheck else s.onPeat (fun p => { p with flushing := true, retried := false })

/-- What a completed catalogue write of generations brings: retired generations free their units, rewrites become visible. -/
def State.catCommit (s : State) : State :=
  let taken := s.peat.taking
  let s := s.catLand (fun o => o == .catalogue)
  let keep := s.allEntries.map (fun e => e.peatGen)
  let all := s.peat.nextGens ++ s.peat.gens
  let gens := all.filter (fun i => keep.contains i.peatGen)
  let still := gens.flatMap (fun i => i.units)
  let gone := (all.filter (fun i => !keep.contains i.peatGen)).flatMap (fun i => i.units)
  let freed := (gone.filter (fun u => !still.contains u)).eraseDups
  let last (g : Nat) : Nat := match taken.reverse.find? (fun t => t.1.peatGen == g) with | some t => t.2 | none => g
  let s := (taken.map (fun t => t.1.peatGen)).eraseDups.foldl (fun s g =>
    match s.entries.find? (fun e => e.peatGen == last g), gens.find? (fun i => i.peatGen == last g) with
    | some e, some i =>
      (match s.entryKey e with
      | some key =>
        let moves := (taken.filter (fun t => t.1.peatGen == g)).flatMap (fun t => t.1.moves)
        s.mapRewritten key (Man.ofBytes (s.manLoad i.man e.manBytes key)) g moves (last g)
      | none => s)
    | _, _ => s) s
  let s := s.onCut (fun u => { u with cuts := u.cuts.map (fun c => { c with peatGen := last c.peatGen }) })
  let s := s.onPeat (fun p =>
    { p with
      gens := gens, nextGens := [], nextEntries := [], taking := [], drive := { p.drive with known := gens },
      jobcGen := p.jobcGen.map last,
      dealloc := if s.rdB Fld.tierCtrl.deallocEn then p.dealloc ++ freed else p.dealloc })
  (s.mapDrop (fun e => e.tier == 1 && e.st != .filling && e.st != .written && !keep.contains e.loc.toNat)).showGens.flushCheck

/-! ## Bring-up (R197, R351) -/

/-- Reserve the Peat entries of a generation in the Shard Map, COMMITTED. -/
def State.mapPeatAdd (s : State) (e : CatEntry) (m : Man) : State :=
  if s.mapFree < m.regions.length then s.mapRefuse
  else m.regions.foldl (fun s r => s.mapAdd
    { shard := r.region.shard, tier := 1, st := .committed, gen := e.gen, step := e.step, firstExt := 0, extCount := r.count,
      loc := BitVec.ofNat 64 e.peatGen }) s

/-- Rebuild one retained generation from its manifest. An encrypted one whose key is not loaded keeps its units, and its entries come
when a key is loaded (R209, assumption 22). -/
def State.rebuildGen (s : State) (e : CatEntry) : State :=
  let known := s.peat.drive.known.find? (fun i => i.peatGen == e.peatGen)
  let man := match known with | some i => i.man | none => s.manRun e.manUnit e.manBytes
  let units := match known with | some i => i.units | none => man
  let add (s : State) (i : PeatGenInfo) : State := s.onPeat (fun p => { p with gens := p.gens ++ [i] })
  match s.entryKey e with
  | none => add s { peatGen := e.peatGen, units := units, man := man }
  | some key =>
    let b := s.manLoad man e.manBytes key
    if crc64 b == e.manCrc then
      (add s { peatGen := e.peatGen, units := manUnitsOf b man, man := man }).mapPeatAdd e (Man.ofBytes b)
    else add s { peatGen := e.peatGen, units := units, man := man, ok := false }

/-- Read superblocks and catalogue slots, classify the drive, rebuild what they name (R197). Writes that go on meanwhile (those of a drain that
ENABLE = 0 let finish) stay as they are, and pending rewrites of generations still there stay pending. -/
def State.classify (s : State) : State :=
  let sbs := [s.unitLoad 0 0 4096, s.unitLoad 0 0x100000 4096].filter sealedOk
  let a := s.unitLoad 0 (slotOff false) 4096; let b := s.unitLoad 0 (slotOff true) 4096
  let s := if sealedOk a && sealedOk b then s else s.raise Fld.peatErrStatus.slotTorn
  let ca := Catalogue.ofBytes a; let cb := Catalogue.ofBytes b
  let valid := match sealedOk a, sealedOk b with
    | true, true => if ca.catSeq < cb.catSeq then some (cb, true) else some (ca, false)
    | true, false => some (ca, false)
    | false, true => some (cb, true)
    | false, false => none
  let s := s.mapDrop (fun e => e.tier == 1 && e.st != .filling && e.st != .written)
  let s := s.onPeat (fun p => { p with cat := none, gens := [], pairs := [32, 256, 256, 256, 256], retried := false })
  match sbs, valid with
  | sb :: _, some (c, slot) =>
    let own := fieldLE sb 8 8 == s.part.serial.toNat
    let st : PeatState := if !own then .foreign else if s.boot.phase == .hummock then .readOnly else .ready
    let s := s.onPeat (fun p => { p with st := st, cat := some (c, slot), cursor := c.nextUnit })
    let s := c.entries.foldl State.rebuildGen (s.wr Fld.peatGenHigh.genHigh (if s.peat.drain.isSome then max c.genHigh (s.rd Fld.peatGenHigh.genHigh) else c.genHigh))
    let s := (s.onPeat (fun p => { p with staged := p.staged.filter (fun r => c.entries.any (fun e => e.peatGen == r.peatGen)) })).showGens
    match (c.entries.filter (fun e => e.jobc)).foldr insertGen [] with
    | e :: _ => (s.onPeat (fun p => { p with jobcGen := some e.peatGen, jobcStep := e.step })).wr Fld.peatJobc.step e.step.toNat
    | [] => s
  | _, _ => (s.onPeat (fun p => { p with st := .unformatted })).wr Fld.peatGenHigh.genHigh 0

/-- The link has trained (R36): a drive without FLIT mode counts as absent, a rate below 64 GT/s or fewer than 8 lanes raise DEGRADED. -/
def State.trained (s : State) : State :=
  let d := s.peat.drive
  if !d.present || !d.flit then s.onPeat (fun p => { p with st := .absent, linkUp := false, pairs := [] })
  else
    let s := s.onPeat (fun p => { p with linkUp := true })
    if d.rate.toNat < 5 || d.width.toNat < 8 then s.raise Fld.peatErrStatus.degraded else s

/-- Train the link and bring the controller up (R351): the catalogue is read once the drive is ready. -/
def State.peatBringUp (s : State) : State :=
  let s := (s.onPeat (fun p => { p with st := .init, initTick := s.now, pairs := [], retried := false })).trained
  if s.peat.st == .init && s.peat.drive.ready then s.classify else s

/-! ## Drains (R200 to R204) -/

/-- The half of a cut whose drain has ended (R175): HELD again, or EMPTY when the cut is not the newest job-committed one. -/
def State.unpin (s : State) (c : Cut) : State :=
  let newest := (s.cut.cuts.filter (fun d => d.st == .jobCommitted)).all (fun d => d.step.toNat ≤ c.step.toNat)
  match c.half with
  | some h =>
    if s.half h != .pinned then s
    else s.putHalf h (if c.jobc && newest then .held else .empty)
  | none => s

/-- The drain of a cut has ended with a status (R175, R178, R203). -/
def State.drainEnd (s : State) (seq : W32) (st : Status) (g : Nat) : State :=
  let s := (s.dropCtxs (fun u => u == .drain)).dropLanes (fun u => u == .drain)
  match s.findCut seq with
  | none => s
  | some c =>
    let s := s.unpin c
    let newest := (s.cut.cuts.filter (fun d => d.st == .jobCommitted)).all (fun d => d.step.toNat ≤ c.step.toNat)
    let s := s.putCut { c with drainStatus := some st, peatGen := g, st := if c.st == .jobCommitted && !newest then .retired else c.st }
    let s := if st = St.success then s else s.peatNextEnd seq st
    (s.peatArrive seq (st != St.success)).cutFlush

/-- Once ENABLE is 0, no drain runs and no catalogue write is under way, the port idles; what only FLUSH waits for has no end then: it ends with
PEAT_ABSENT. -/
def State.peatIdle (s : State) : State :=
  if s.rdB Fld.peatCtrl.enable || s.peat.drain.isSome || s.catBusy then s
  else
    let s := (s.onPeat (fun p => { p with st := .absent, linkUp := false, pairs := [], flushDue := false }))
    (s.ctxsWith (fun c => !c.finished && !c.abandoned && c.opc == 3 && !c.waits.isEmpty)).foldl (fun s k => s.ctxEnd k St.peatAbsent 0 0) s

/-- Rewrites that were to join the catalogue write of a drain that fails before it are pending again. -/
def State.untake (s : State) (d : Drain) : State :=
  if d.step != .flush || s.peat.flushing || s.peat.taking.isEmpty then s
  else s.onPeat (fun p => { p with staged := p.taking.map (fun t => t.1) ++ p.staged, taking := [], nextGens := [], flushDue := true })

/-- A drain fails (R204): the units it reserved become free at once. -/
def State.drainFail (s : State) (seq : W32) (st : Status) : State :=
  let s : State := match s.peat.drain with
    | some d =>
      if d.seq == seq then
        let stays (w : NvmeWrite) : Bool :=
          (w.owner == NvmeOwner.catalogue && d.step != DrainStep.catalogue) || (w.owner == NvmeOwner.reservation && s.board.pfWork)
        let s := s.onPeat (fun p =>
          { p with drain := none, nextGens := p.nextGens.filter (fun i => i.peatGen != d.peatGen), nvme := p.nvme.filter stays })
        (s.untake d).mapDrop (fun e : MapEntry => mapPeat d.peatGen e && (e.st == .filling || e.st == .written))
      else s
    | none => s
  ((((s.raise Fld.peatErrStatus.drainFail).peatErr st).logAbort Unit'.peat 0 seq.toNat 0 st).drainEnd seq st 0).peatIdle

/-- Status that stops Peat reads. -/
def State.peatReadStop (s : State) : Option Status :=
  match s.peat.st with
  | .ready | .foreign | .readOnly => none
  | .unformatted => some St.peatUnformatted
  | _ => some St.peatAbsent

/-- Extents of the whole directory. -/
def State.dirExtents (s : State) : Nat := s.cut.dir.foldl (fun n r => n + r.extents) 0

/-- Bytes of a Peat manifest with its schedule record (R215). -/
def State.manLen (s : State) : Nat := up4k (128 + 128 * s.cut.dir.length + 16 * s.dirExtents) + 16384

/-- Start the Peat drain of a cut (R200), its scan context being free. -/
def State.drainStart (s : State) (c : Cut) (ctx : Nat) : State :=
  let slot := s.rd Fld.peatCfg.xtsSlot
  let xts := s.rdB Fld.peatCfg.xtsEn
  let need := (s.dirExtents + 1) / 2 + (s.manLen + 0x1FFFFF) / 0x200000
  match s.peatWriteStop with
  | some st => s.drainFail c.seq st
  | none =>
    if xts && !(s.keySlot slot).xts then s.drainFail c.seq St.keyAbsent
    else if s.mapFree < s.cut.dir.length then s.mapRefuse.drainFail c.seq St.mapFull
    else if s.freeUnits < need then s.drainFail c.seq St.peatFull
    else
      let g := s.rd Fld.peatGenHigh.genHigh + 1
      let s := (s.mapReserve 1 c.gen c.step (BitVec.ofNat 64 g) s.cut.dir).wr Fld.peatGenHigh.genHigh g
      let key := if xts then some ((s.keySlot slot).bytes, slot) else none
      let s := (s.onPeat (fun p => { p with drain := some { seq := c.seq, peatGen := g, need := need, key := key } })).takeCtx ctx .drain
      s.catWrite .reservation s.allEntries

/-- The cut whose drain is next: PINNED, lowest STEP, drain not ended. -/
def State.nextDrain (s : State) : Option Cut :=
  (s.cut.cuts.filter (fun c => c.pinned && c.drainStatus.isNone && c.half.isSome)).foldl (fun a c => match a with
    | some x => if c.step.toNat < x.step.toNat then some c else a
    | none => some c) none

/-- The scheduler's part for Peat (R189, R46, R45, R351): start the next drain, or wait. -/
def State.drainTry (s : State) : State :=
  if !s.rdB Fld.tierCtrl.peatEn || s.peat.drain.isSome || s.catBusy || !s.board.holdupOk || s.peatHeld || s.board.pfWaitInterval ||
     s.peat.st == .init || s.boot.phase != .running then s
  else match s.nextDrain, s.freeCtx [3] with
    | some c, some k => s.drainStart c k
    | _, _ => s

/-- Digest and extent CRCs of a region as the drain reads it. -/
def State.readSum (s : State) (c : Cut) (i : Nat) : RegionSum :=
  let r := s.cut.dir.getD i {}
  let b := s.image c.half r 0 r.len
  { region := i, digest := sha384 b, crcs := extentCrcs b }

/-- Digests and extent CRCs of every region of a cut: those of its Sedge manifest, and for a SEDGE_INCOMPLETE cut its own, computed in the
drain's read (R201). -/
def State.allSums (s : State) (c : Cut) : List RegionSum :=
  (List.range s.cut.dir.length).map (fun i => if c.st == .sedgeIncomplete then s.readSum c i else (c.sum? i).getD (s.readSum c i))

/-- The writes of a drain whose units are taken: extents packed two per unit, then the manifest (R201, R215). -/
def State.drainWrites (s : State) (d : Drain) (c : Cut) (sums : List RegionSum) (du mu : List Nat) : State :=
  let halves := halvesOf du s.dirExtents
  let c' := { c with sums := sums, group := if c.group.isEmpty || c.st == .sedgeIncomplete then s.groupDigest { c with sums := sums } else c.group }
  let recs := s.manifest c' 1 d.peatGen d.key.isSome (fun i => halves.getD i 0)
  let man := fitTo (up4k recs.length) recs ++ fitTo 16384 c.record
  let key := d.key.map (fun k => k.1)
  let exts := s.cut.dir.flatMap (fun r => (List.range r.extents).map (fun j =>
    s.image c.half r (j * extentBytes) (r.extentUnits j * 4096)))
  let put (u off : Nat) (b : List Byte) : List NvmeWrite := match s.peat.drive.keyAt u off with
    | some k => [{ owner := .drain, key := k, bytes := cipher true key k b }]
    | none => []
  let ws := ((halves.zip exts).flatMap (fun y => put (y.1 / 2) (y.1 % 2 * 0x100000) y.2)) ++
    ((List.range mu.length).zip mu).flatMap (fun y => put y.2 0 ((man.drop (y.1 * 0x200000)).take 0x200000))
  let d := { d with step := .writes, need := 0, units := du ++ mu, halves := halves, manUnits := mu, manBytes := man.length,
                    manCrc := crc64 man }
  (s.putCut c').onPeat (fun p => { p with drain := some d, nvme := p.nvme ++ ws })

/-- DRAIN_RESERVATION_DONE: the number is durable; read, check and write every extent, then the manifest (R201). -/
def doDrainReservationDone (s : State) : Out :=
  if !s.peat.linkUp || !s.peat.nvme.any (fun w => w.owner == .reservation) then .next s
  else
    let s := s.catLand (fun o => o == .reservation)
    match s.peat.drain with
    | none => .next s
    | some d =>
      if s.board.pfWork then .next (s.drainFail d.seq St.pfailAbort)
      else match s.findCut d.seq with
        | none => .next (s.drainFail d.seq St.crcMismatch)
        | some c =>
          let sums := s.allSums c
          let bad := (List.range s.cut.dir.length).any (fun i => (s.readSum c i).crcs != (sums.getD i (s.readSum c i)).crcs)
          if bad then .next (s.drainFail d.seq St.crcMismatch)
          else
            let x := s.takeUnits ((s.dirExtents + 1) / 2) []
            let y := x.2.takeUnits ((x.2.manLen + 0x1FFFFF) / 0x200000) x.1
            if x.1.length + y.1.length < d.need then .next (y.2.drainFail d.seq St.peatFull)
            else .next (y.2.drainWrites d c sums x.1 y.1)

/-- Reference ticks from the recognition of PFAIL_N to a limit of R207, with what INFLIGHT_MIB above 64 adds. -/
def State.pfLimit (s : State) (l : PfailLimit) : Nat :=
  let more := (s.rd Fld.peatCfg.inflightMib - 64 + 15) / 16 * 60000
  more + (match l with | .dataWrites => 400000 | .flush => 550000 | .catalogue => 590000 | .done => 600000)

/-- A limit of the power-fail sequence has passed. -/
def State.pfPast (s : State) (l : PfailLimit) : Bool := s.board.pfWork && s.elapsed s.board.pfStart (s.pfLimit l)

/-- Writes that stand with the drive together: as many of the first ones as INFLIGHT_MIB has room for (R207). -/
def inflight : Nat → List NvmeWrite → List NvmeWrite
  | _, [] => []
  | room, w :: t => if w.bytes.length ≤ room then w :: inflight (room - w.bytes.length) t else []

/-- PFAIL_N is recognised while a drain writes (R207): of its writes, in their order, some have completed and the next ones, as far as
INFLIGHT_MIB goes, have started; no other starts. How many of each is told by no command: free (assumption 136). -/
def State.drainHalt (s : State) : State :=
  match s.peat.drain with
  | none => s
  | some d =>
    if d.step != .writes then s
    else
      let ws := s.peat.nvme.filter (fun w => w.owner == .drain)
      let (k, s) := s.pickFree (ws.length + 1)
      let room := inflight (s.rd Fld.peatCfg.inflightMib * 0x100000) (ws.drop k)
      let (j, s) := s.pickFree (room.length + 1)
      let s := (ws.take k).foldl (fun s w => s.driveStore w.key w.bytes) s
      s.onPeat (fun p =>
        { p with nvme := p.nvme.filter (fun w => w.owner != .drain) ++ room.take j, drain := some { d with short := k + j < ws.length } })

/-- DRAIN_WRITES_DONE: every write of the drain that was started has completed. Flush is issued, and pending rewrites join the drain's catalogue
write; a drain held back by PFAIL_N, or late for its limit, ends (R201, R207). -/
def doDrainWritesDone (s : State) : Out :=
  match s.peat.drain with
  | none => .next s
  | some d =>
    if d.step != .writes || !s.peat.linkUp then .next s
    else
      let s := (s.peat.nvme.filter (fun w => w.owner == .drain)).foldl (fun s w => s.driveStore w.key w.bytes) s
      let s := s.onPeat (fun p => { p with nvme := p.nvme.filter (fun w => w.owner != .drain) })
      if d.short || s.pfPast .dataWrites then .next (s.drainFail d.seq St.pfailAbort)
      else
        let s := (s.onPeat (fun p => { p with drain := some { d with step := .flush } })).mapMove
          (fun e => mapPeat d.peatGen e && e.st == .filling) .written
        .next (if s.peatHeld || s.catBusy then s else s.takeRewrites)

/-- DRAIN_FLUSH_DONE: a Flush completes: what was written is durable, and the new catalogue, of rewrites or of a drain, is written (R201, R202). -/
def doDrainFlushDone (s : State) : Out :=
  if !s.peat.linkUp then .next s
  else if s.peat.flushing then
    let s := s.onPeat (fun p => { p with flushing := false })
    .next (s.catWrite .catalogue (s.retained s.baseEntries))
  else match s.peat.drain with
  | none => .next s
  | some d =>
    if d.step != .flush || s.catOut then .next s
    else if s.pfPast .flush then .next (s.drainFail d.seq St.pfailAbort)
    else match s.findCut d.seq with
      | none => .next (s.drainFail d.seq St.crcMismatch)
      | some c =>
        let e : CatEntry :=
          { peatGen := d.peatGen, step := c.step, gen := c.gen, encrypted := d.key.isSome, battless := c.battless,
            sedgeIncomplete := c.st == .sedgeIncomplete, manBytes := d.manBytes, manUnit := d.manUnits.headD 0, manCrc := d.manCrc,
            kcv := match d.key with | some k => kcvOf k.1 | none => 0, group := c.group }
        let info : PeatGenInfo := { peatGen := d.peatGen, units := d.units, man := d.manUnits }
        let s := s.onPeat (fun p => { p with drain := some { d with step := .catalogue }, nextGens := info :: p.nextGens })
        .next (s.catWrite .catalogue (s.retained (s.baseEntries ++ [e])))

/-- DRAIN_CATALOGUE_DONE: a catalogue write completes; the drain's generation is Peat-committed (R201, R203, R205, R312). -/
def doDrainCatalogueDone (s : State) : Out :=
  if !s.peat.linkUp || !s.peat.nvme.any (fun w => w.owner == .catalogue) then .next s
  else
    let s := s.catCommit
    let s : State := match s.peat.drain with
      | some d =>
        if d.step == .catalogue then
          let s := (s.onPeat (fun p => { p with drain := none })).mapMove (fun e => mapPeat d.peatGen e && e.st == .written) .committed
          s.drainEnd d.seq St.success d.peatGen
        else s
      | none => s
    .next s.peatIdle

/-- A catalogue write for FLUSH fails: the rewrites stay pending, and the FLUSH commands end (R193, R312). -/
def State.flushFail (s : State) (st : Status) : State :=
  let s := s.onPeat (fun p =>
    { p with
      staged := p.taking.map (fun t => t.1) ++ p.staged, taking := [], flushing := false, flushDue := false,
      nextGens := match p.drain with | some d => p.nextGens.filter (fun i => i.peatGen == d.peatGen) | none => [],
      nvme := p.nvme.filter (fun w => w.owner != .catalogue) })
  let s := s.peatErr st
  (s.ctxsWith (fun c => !c.finished && !c.abandoned && c.opc == 3 && !c.waits.isEmpty)).foldl (fun s k => s.ctxEnd k st 0 0) s

/-- Writes in flight that will not complete leave their blocks with open contents: old, new or torn (R202, R207). -/
def State.tear (s : State) (t : NvmeOwner → Bool) : State :=
  (s.peat.nvme.filter (fun w => t w.owner)).foldl (fun s w =>
    let (b, s) := s.freeBytes w.bytes.length
    s.driveStore w.key b) s

/-- The Peat barrier has completed for a cut (R203, R317). -/
def State.peatResult (s : State) (seq : W32) (or' : W64) : State :=
  match s.findCut seq with
  | none => s
  | some c =>
    let own := c.drainStatus.getD c.status
    if or'.getLsbD (s.rd Fld.peatCfg.vetoBit) || c.drainStatus != some St.success then s.peatNextEnd seq own
    else
      let s := (s.putCut { c with peatJobc := true }).wr Fld.peatJobc.step c.step.toNat
      (s.onPeat (fun p => { p with jobcStep := c.step, jobcGen := some c.peatGen })).peatNextEnd seq St.success

/-! ## Enable, disable, format, export (R197, R198, R219) -/

/-- FORMAT while armed (R198). -/
def State.peatFormat (s : State) : State :=
  match s.peat.drive.keyAt 0 0 with
  | none => s
  | some k =>
    let sb := s.superblock
    let cat (n : Nat) : Catalogue := { catSeq := n }
    let s := s.onPeat (fun p => { p with drive := { p.drive with blocks := Memory.erase p.drive.blocks k 0x200000 } })
    let s := (s.driveStore k sb).driveStore (k + 0x100000) sb
    let s := s.driveStore (k + slotOff true) (Catalogue.bytes s.part.serial (cat 1))
    let s := s.driveStore (k + slotOff false) (Catalogue.bytes s.part.serial (cat 2))
    let s := s.wr Fld.peatCtrl.formatArm 0
    let s := s.mapDrop (fun e => e.tier == 1)
    let s := s.onPeat (fun p =>
      { p with
        st := .ready, cat := some (cat 2, false), gens := [], nextGens := [], taking := [], staged := [], cursor := 1, jobcGen := none,
        jobcStep := 0, drive := { p.drive with known := [] } })
    ((s.wr Fld.peatGenHigh.genHigh 0).wr Fld.peatJobc.step 0).showGens.flushCheck

/-- A write of CGM_PEAT_CTRL. ENABLE going to 1 on a port that has not idled yet reads the catalogue again and goes on. FORMAT writes nothing while
Peat writes are held (R44, R45). -/
def State.peatCtrlWrite (s : State) (value : Nat) : State :=
  let was := s.rdB Fld.peatCtrl.enable
  let armed := s.rdB Fld.peatCtrl.formatArm
  let s := (s.writePlain Reg.peatCtrl value).1
  let s :=
    if bitAt value 0 && !was then
      (if !s.board.perstN then s else if s.peat.linkUp && s.peat.st != .init then s.classify else s.peatBringUp)
    else if !bitAt value 0 && was then s.peatIdle else s
  if !bitAt value 2 then s
  else if !armed || s.peat.drain.isSome || s.catBusy || s.peatHeld || s.boot.phase == .hummock || !s.peat.linkUp || s.peat.st == .init then
    s.accessError Reg.peatCtrl 4 true
  else s.peatFormat

/-- A write of a pin register (R205, R219): EXPORTED records the export, and clearing PIN clears it. -/
def State.pinWrite (s : State) (n value : Nat) : State :=
  let was := s.rdB (Fld.peatPin.exported n)
  let old := s.rd (Fld.peatPin.gen n)
  let drop (s : State) (g : Nat) : State := s.mapDrop (fun e => e.tier == 2 && e.loc.toNat == g)
  let (s, ok) := s.writePlain (Reg.peatPin n) value
  if !ok then s
  else
    let g := s.rd (Fld.peatPin.gen n)
    if !s.rdB (Fld.peatPin.pin n) then
      let s := s.wr (Fld.peatPin.exported n) 0
      if was then drop s old else s
    else if !s.entries.any (fun e => e.peatGen == g) then s.accessError (Reg.peatPin n) 8 true
    else if bitAt value 49 && !(was && old == g) then
      let es := (s.map.filter (fun e => mapPeat g e.2)).map (fun e => { e.2 with tier := 2, st := MapState.committed })
      if s.mapFree < es.length then s.mapRefuse else es.foldl State.mapAdd s
    else s

/-! ## Key slots (R209) -/

def State.keyResult (s : State) (n : Nat) : State := s.wr Fld.secKeyCtrl.result n

/-- Check values of the keys that Peat reads use now: READ SHARD, VERIFY and SCRUB that run, and a restore from the own Peat (R209). -/
def State.readKcvs (s : State) : List W64 :=
  let own (u : Supply) : Bool := u.prov == some (.peat, 0) && !u.want.isEmpty
  let one (c : Ctx) : List CatEntry :=
    if c.finished || c.abandoned || c.tier != 3 then []
    else if c.opc == 1 || c.opc == 4 then (s.entryOf c.step c.gen).toList else if c.opc == 6 then s.entries else []
  let rst := if own s.rst.recIn || own s.rst.manIn || own s.rst.dataIn then (s.entryOf s.rst.cutStep s.rst.cutGen).toList else []
  ((s.cmd.ctxs.flatMap (fun x => one x.2) ++ rst).filter (fun e => e.encrypted)).map (fun e => e.kcv)

/-- A slot is in use by the drain, by a Peat read, or by a DIGEST that holds its lane (R209, R341). -/
def State.keyBusy (s : State) (n : Nat) : Bool :=
  (s.keySlot n).xts && s.readKcvs.any (fun v => s.slotFor v == some n) ||
  (match s.peat.drain with | some d => (match d.key with | some k => k.2 == n | none => false) | none => false) ||
  s.cmd.ctxs.any (fun x => !x.2.finished && x.2.opc == 5 && 2 ≤ x.2.csp 48 && x.2.csp 49 % 16 == n && x.2.lane.isSome)

/-- Retained generations that had to wait for a key get their Shard Map entries (assumption 22), or are dropped when their manifest fails its
check (R197). -/
def State.keyLoaded (s : State) : State :=
  s.entries.foldl (fun s e =>
    if e.encrypted && !s.map.any (fun x => mapPeat e.peatGen x.2) then
      match s.entryMan e with
      | .ok b => s.mapPeatAdd e (Man.ofBytes b)
      | .error st =>
        if st = St.crcMismatch then
          s.onPeat (fun p => { p with gens := p.gens.map (fun i => if i.peatGen == e.peatGen then { i with ok := false } else i) })
        else s
    else s) s

/-- Commit a key: the length, then the XTS halves. -/
def State.keyCommit (s : State) (slot : Nat) : State :=
  match s.sec.load with
  | none => s.keyResult 4
  | some l =>
    if l.slot.val != slot then s.keyResult 4
    else
      let kind := s.rd Fld.secKeyCtrl.kind; let n := s.rd Fld.secKeyCtrl.len + 1
      let b := (l.words.flatMap (fun w => leBytes 8 w.toNat)).take n
      let s := { s with sec := { s.sec with load := none } }
      if b.length < n || (kind == 1 && n != 64) then s.keyResult 2
      else if kind == 1 && b.take 32 == b.drop 32 then s.keyResult 3
      else
        let k : KeySlot := { kind := BitVec.ofNat 2 kind, bytes := b, loaded := true }
        ({ s with sec := { s.sec with slots := vset s.sec.slots slot k } }.keyResult 0).keyLoaded

/-- What CMD does for the slot that SLOT names: begin, commit or clear. -/
def State.keyCmd (s : State) (cmd : Nat) : State :=
  let slot := s.rd Fld.secKeyCtrl.slot
  if s.keyBusy slot then s.keyResult 1
  else if cmd = 1 then ({ s with sec := { s.sec with load := some { slot := Fin.ofNat 16 slot } } }).keyResult 0
  else if cmd = 2 then s.keyCommit slot
  else ({ s with sec := { s.sec with slots := vset s.sec.slots slot {} } }).keyResult 0

/-- A write of CGM_SEC_KEY_CTRL: SLOT, KIND and LEN take their values whatever CMD is; a reserved CMD is recorded and does nothing (R10). -/
def State.keyCtrlWrite (s : State) (value : Nat) : State :=
  let cmd := bits value 13 3
  let s := (s.writePlain Reg.secKeyCtrl value).1
  if cmd = 0 || 4 ≤ cmd then s else s.keyCmd cmd

/-- KEY_BEGIN: CMD=begin with SLOT, KIND and LEN. -/
def execKeyBegin (slot : Fin 16) (kind : BitVec 2) (len : BitVec 7) (s : State) : Out :=
  if !s.powered then .next s else .next (s.keyCtrlWrite (slot.val + 16 * kind.toNat + 64 * len.toNat + 0x2000))

/-- KEY_DATA_WORD: the next 8 key bytes after a begin; at most 16 words. -/
def State.keyWord (s : State) (word : W64) : State :=
  match s.sec.load with
  | some l => if l.words.length < 16 then { s with sec := { s.sec with load := some { l with words := l.words ++ [word] } } } else s
  | none => s

def execKeyDataWord (word : W64) (s : State) : Out := if !s.powered then .next s else .next (s.keyWord word)

/-- KEY_COMMIT. -/
def execKeyCommit (slot : Fin 16) (s : State) : Out :=
  if !s.powered then .next s else .next ((s.wr Fld.secKeyCtrl.slot slot).keyCmd 2)

/-- KEY_CLEAR. -/
def execKeyClear (slot : Fin 16) (s : State) : Out :=
  if !s.powered then .next s else .next ((s.wr Fld.secKeyCtrl.slot slot).keyCmd 3)

/-- PEAT_ENABLE: a write of CGM_PEAT_CTRL with ENABLE 1. -/
def doPeatEnable (value : BitVec 32) (s : State) : Out :=
  if !s.powered then .next s else .next (s.peatCtrlWrite value.toNat)

/-- PEAT_DISABLE: a write of CGM_PEAT_CTRL with ENABLE 0. -/
def doPeatDisable (value : BitVec 32) (s : State) : Out :=
  if !s.powered then .next s else .next (s.peatCtrlWrite value.toNat)

/-- PEAT_FORMAT: a write of CGM_PEAT_CTRL with FORMAT 1. -/
def doPeatFormat (value : BitVec 32) (s : State) : Out :=
  if !s.powered then .next s else .next (s.peatCtrlWrite value.toNat)

/-- PIN_EXPORTED: a write of a pin register. -/
def execPinExported (n : Fin 4) (value : W64) (s : State) : Out :=
  if !s.powered then .next s else .next (s.pinWrite n value.toNat)

end Sys2Proof.Machine
end

