-- ==== Sys2Proof/Machine/Felting.lean ====
section
/-! DEFINITION. The Felting scheduler (R168, R189, R190): records, regions on digest lanes, manifests, the start of Peat drains. -/
namespace Sys2Proof.Machine

/-- Insert a region index by falling LENGTH, ties in directory order. -/
def insertLen (s : State) (i : Nat) : List Nat → List Nat
  | [] => [i]
  | j :: t => if (s.cut.dir.getD j {}).len ≤ (s.cut.dir.getD i {}).len then i :: j :: t else j :: insertLen s i t

/-- Regions of the directory by falling LENGTH. -/
def State.byLength (s : State) : List Nat := (List.range s.cut.dir.length).foldr (insertLen s) []

/-- A region of a cut has been started. -/
def Cut.started (c : Cut) (i : Nat) : Bool := c.runs.any (fun r => r.region == i) || (c.sum? i).isSome

/-- Insert a cut into the scheduler's order: Batt-less first, then rising STEP. -/
def insertCut (c : Cut) : List Cut → List Cut
  | [] => [c]
  | d :: t =>
    if (c.battless && !d.battless) || (c.battless == d.battless && c.step.toNat < d.step.toNat) then c :: d :: t else d :: insertCut c t

/-- Start one region on the lowest free lane and on a scan engine 0 to 2; none when FELT_LANES or the lanes are full, or somebody waits for
a lane (R335). -/
def State.startRegion (s : State) (seq : W32) (i : Nat) : Option State :=
  if s.rd Fld.tierFeltCfg.feltLanes ≤ s.lanesFelting || !s.chk.laneWait.isEmpty then none
  else match s.freeLane, s.freeCtx [0, 1, 2], s.findCut seq with
    | some l, some k, some c =>
      some (((s.takeLane l (.felt seq i)).takeCtx k (.felt seq i)).putCut { c with runs := c.runs ++ [{ region := i, lane := l, scan := k }] })
    | _, _, _ => none

/-- Start regions in order until one cannot start. -/
def startRegions (seq : W32) : List Nat → State → State
  | [], s => s
  | i :: t, s => match s.startRegion seq i with
    | some s' => startRegions seq t s'
    | none => s

/-- Send the schedule record of a cut, first of all (R168, R189). -/
def State.sendRecord (s : State) (seq : W32) : State :=
  match s.findCut seq with
  | some c => if c.recSent || !s.canFelt then s else (s.putCut { c with recSent := true }).feltSend seq s.tBytes c.record
  | none => s

/-- The scheduler's turn for one cut. -/
def State.feltCut (s : State) (seq : W32) : State :=
  let s := s.sendRecord seq
  match s.findCut seq with
  | none => s
  | some c =>
    let s := startRegions seq (s.byLength.filter (fun i => !c.started i)) s
    if s.allRead c && !c.manSent && s.canFelt then s.sendManifest seq else s

/-- The Sedge part of the scheduler (R189); a commit record that waited for tags or a port goes out (R172). -/
def State.feltTry (s : State) : State :=
  if !s.rdB Fld.tierCtrl.feltEn || s.halted then s
  else
    let s := ((s.cut.cuts.filter Cut.felts).foldr insertCut []).foldl (fun s c => s.feltCut c.seq) s
    s.cut.cuts.foldl (fun s c => s.tryCommit c.seq) s

/-- FELTING_SCHEDULE. -/
def doFeltingSchedule (s : State) : Out := if !s.fw then .next s else .next s.feltTry.drainTry

/-- FELT_REGION_COMPLETE: the read on a lane ends; digest and CRCs are known, and what R168 names is sent. -/
def execFeltRegionComplete (lane : Fin 32) (s : State) : Out :=
  if !s.hw then .next s
  else match vget s.chk.lanes lane none with
    | some (.felt seq i) =>
      match s.findCut seq with
      | none => .next s
      | some c =>
        match c.runs.find? (fun r => r.lane == lane.val) with
        | none => .next s
        | some run =>
          let r := s.cut.dir.getD i {}
          let lo := if r.isParam && !c.refelt then r.used / 4 * 4 else 0
          if lo < r.len && !s.canFelt then .next s
          else
            let b := s.image c.half r 0 r.len
            let s := (s.dropLane lane).dropCtx run.scan
            let s := s.putCut
              { c with
                runs := c.runs.filter (fun r => r.lane != lane.val),
                sums := c.sums ++ [{ region := i, digest := sha384 b, crcs := extentCrcs b }] }
            let s := if lo < r.len then s.feltSend seq (s.regionAt r + lo) (b.drop lo) else s
            .next ((s.groupForm seq).mapWritten seq)
    | _ => .next s

/-! ## Commands that write CGM_TIER_CUT_CTRL (R154, R174) -/

/-- CUT_ENABLE. -/
def doCutEnable (value : BitVec 32) (s : State) : Out := if !s.powered then .next s else .next (s.cutEnable value.toNat)

/-- CUT_DISABLE. -/
def doCutDisable (value : BitVec 32) (s : State) : Out := if !s.powered then .next s else .next (s.cutDisable value.toNat)

end Sys2Proof.Machine
end

