-- ==== Sys2Proof/Machine/Operands.lean ====
section
/-! DEFINITION. Operand forms: the input formats of the reducers (R93 to R95), the formats of the lanes (R127), micro-ops (R123 to R125),
program images (R134, R135) and the built-in programs (R129). -/
namespace Sys2Proof.Machine

/-! ## Reduction input formats -/

/-- Bits of an element of a format code (R93); 0 for a reserved code. -/
def elemBits (fmt : Nat) : Nat :=
  match fmt with
  | 0 => 32 | 1 => 16 | 2 => 16 | 3 => 8 | 4 => 8 | 5 => 8 | 6 => 8 | 7 => 6 | 8 => 6 | 9 => 4 | _ => 0

/-- A format with a shared scale (R94). -/
def isMx (fmt : Nat) : Bool := 5 ≤ fmt && fmt ≤ 9

/-- An element's value without its scale. -/
def elemValue (fmt v : Nat) : FV :=
  match fmt with
  | 0 => unpackF 8 23 true v
  | 1 => unpackF 8 7 true v
  | 2 => unpackF 5 10 true v
  | 3 => if v % 128 = 127 then .nan else unpackF 4 3 false v
  | 4 => unpackF 5 2 true v
  | 5 => if v % 128 = 127 then .nan else unpackF 4 3 false v
  | 6 => unpackF 5 2 true v
  | 7 => unpackF 3 2 false v
  | 8 => unpackF 2 3 false v
  | _ => unpackF 2 1 false v

/-- Multiply by 2^(X - 127); a scale of 0xFF gives NaN. -/
def scaled (x : Nat) : FV → FV
  | .nan => .nan
  | .inf n => if x = 255 then .nan else .inf n
  | .fin n m e => if x = 255 then .nan else .fin n m (e + x - 127)

/-- Input element `i` of a bucket as binary32 (R94, R95): source and scale addresses. -/
def State.redInput (s : State) (fmt src scale i : Nat) : W32 :=
  let w := elemBits fmt
  let v := bits (s.loadN (src + i * w / 8) 5) (i * w % 8) w
  let x := elemValue fmt v
  toF32 0 (if isMx fmt then scaled (s.loadN (scale + i / 32) 1) x else x)

/-! ## Formats of the lanes -/

/-- Bytes of an element: FP32, BF16, FP16. -/
def laneSize (fmt : Nat) : Nat := if fmt = 0 then 4 else 2

/-- Input conversion (R127). -/
def laneIn (fmt v : Nat) : W32 :=
  match fmt with
  | 0 => canon32 (BitVec.ofNat 32 v)
  | 1 => toF32 0 (unpackF 8 7 true v)
  | _ => toF32 0 (unpackF 5 10 true v)

/-- Output conversion (R127), with the draw where the SR bit is set. -/
def laneOut (fmt : Nat) (sr : Bool) (draw : Nat) (v : W32) : Nat :=
  match fmt with
  | 0 => v.toNat
  | 1 => if sr then srBf16 v draw else packF 8 7 0 (f32 v)
  | _ => packF 5 10 0 (f32 v)

/-! ## Micro-ops (R123, R124) -/

/-- Fields of a micro-op word. -/
def opc (w : W32) : Nat := bits w.toNat 0 6
def opRm (w : W32) : Nat := bits w.toNat 6 2
def opDst (w : W32) : Nat := bits w.toNat 8 4
def opA (w : W32) : Nat := bits w.toNat 12 5
def opB (w : W32) : Nat := bits w.toNat 17 5
def opC (w : W32) : Nat := bits w.toNat 22 5
def opPsel (w : W32) : Nat := bits w.toNat 27 2

/-- Opcodes of R124. -/
def opcodeDefined (o : Nat) : Bool := (1 ≤ o && o ≤ 0x0D) || (0x10 ≤ o && o ≤ 0x14) || o == 0x18
/-- Opcodes that round. -/
def opRounds (o : Nat) : Bool := 1 ≤ o && o ≤ 8
/-- Opcodes that use operand B. -/
def opUsesB (o : Nat) : Bool := (1 ≤ o && o ≤ 6) || o == 9 || o == 0x0A || (0x10 ≤ o && o ≤ 0x12) || o == 0x14 || o == 0x18
/-- Opcodes that use operand C. -/
def opUsesC (o : Nat) : Bool := o == 4 || o == 5
/-- Largest destination of an opcode. -/
def opDstMax (o : Nat) : Nat := if 0x10 ≤ o && o ≤ 0x13 then 3 else if o = 0x18 then 1 else 7

/-- State of an element in the lanes (R128). -/
structure Elem where
  i : List W32
  t : List W32
  p : List Bool
  acc0 : Acc
  acc1 : Acc
deriving DecidableEq, Repr

/-- Value of an operand code (R123). -/
def operand (k : List W32) (el : Elem) (c : Nat) : W32 :=
  if c < 8 then el.t.getD c 0
  else if c < 12 then el.i.getD (c - 8) 0
  else if c < 28 then k.getD (c - 12) 0
  else if c = 29 then 0x3F800000
  else 0

/-- IEEE 754 minimum (max when `mx`): NaN if either is NaN, and -0 below +0. -/
def minMax (mx : Bool) (a b : W32) : W32 :=
  if isNaN32 a || isNaN32 b then nan32
  else
    let less := match fvLt (f32 a) (f32 b) with
      | some true => true
      | _ => if bits a.toNat 0 31 = 0 && bits b.toNat 0 31 = 0 then a.msb && !b.msb else false
    if less != mx then a else b

/-- Comparison that is false with a NaN. -/
def cmpF (c : FV → FV → Bool) (a b : W32) : Bool := if isNaN32 a || isNaN32 b then false else c (f32 a) (f32 b)

/-- One micro-op on one element. -/
def runOp (k : List W32) (el : Elem) (w : W32) : Elem :=
  let a := operand k el (opA w)
  let b := operand k el (opB w)
  let c := operand k el (opC w)
  let rm := opRm w
  let fa := f32 a; let fb := f32 b; let fc := f32 c
  let setT (v : W32) : Elem := { el with t := el.t.set (opDst w) v }
  let setP (v : Bool) : Elem := { el with p := el.p.set (opDst w) v }
  match opc w with
  | 0x01 => setT (toF32 rm (fvAdd rm fa fb))
  | 0x02 => setT (toF32 rm (fvAdd rm fa (fvNeg fb)))
  | 0x03 => setT (toF32 rm (fvMul fa fb))
  | 0x04 => setT (toF32 rm (fvAdd rm (fvMul fa fb) fc))
  | 0x05 => setT (toF32 rm (fvAdd rm fc (fvNeg (fvMul fa fb))))
  | 0x06 => setT (toF32 rm (fvDiv 24 fa fb))
  | 0x07 => setT (toF32 rm (fvSqrt 24 fa))
  | 0x08 => setT (toF32 rm (fvRsqrt 24 fa))
  | 0x09 => setT (minMax false a b)
  | 0x0A => setT (minMax true a b)
  | 0x0B => setT (if isNaN32 a then nan32 else a &&& 0x7FFFFFFF)
  | 0x0C => setT (if isNaN32 a then nan32 else a ^^^ 0x80000000)
  | 0x0D => setT (if isNaN32 a then nan32 else if bits a.toNat 0 31 = 0 then a else if a.msb then 0xBF800000 else 0x3F800000)
  | 0x10 => setP (cmpF (fun x y => fvLt x y == some true) a b)
  | 0x11 => setP (cmpF (fun x y => fvLt y x == some false) a b)
  | 0x12 => setP (cmpF (fun x y => fvLt x y == some false && fvLt y x == some false) a b)
  | 0x13 => setP (nonFinite32 a)
  | 0x14 => setT (canon32 (if el.p.getD (opPsel w) false then a else b))
  | 0x18 => if opDst w = 0 then { el with acc0 := el.acc0.add a b } else { el with acc1 := el.acc1.add a b }
  | _ => el

/-- A whole program on one element (R128). -/
def runOps (k : List W32) (ops : List W32) (inputs : List W32) (acc0 acc1 : Acc) : Elem :=
  ops.foldl (runOp k) { i := inputs, t := List.replicate 8 0, p := List.replicate 4 false, acc0, acc1 }

/-! ## Program images (R134, R135) -/

/-- Operand codes that a micro-op uses are not reserved and name no absent input. -/
def operandOk (nin c : Nat) : Bool := c < 30 && !(8 + nin ≤ c && c < 12)

/-- Check 5 of R135 for one micro-op. -/
def opEncodingOk (nin : Nat) (w : W32) : Bool :=
  let o := opc w
  opcodeDefined o && bits w.toNat 29 3 == 0 && (opRounds o || opRm w == 0) && operandOk nin (opA w) &&
  (if opUsesB o then operandOk nin (opB w) else opB w == 0) && (if opUsesC o then operandOk nin (opC w) else opC w == 0) &&
  (o == 0x14 || opPsel w == 0)

/-- The first failing check of an image, as LOAD_STATUS; 0 when it is valid. `written` counts every word written. -/
def imageCheck (ws : List W32) (written : Nat) : Nat :=
  let w0 := (ws.getD 0 0).toNat; let w1 := (ws.getD 1 0).toNat; let w2 := (ws.getD 2 0).toNat
  let nops := bits w0 0 6; let nin := bits w0 6 3; let nout := bits w0 9 3
  let ops := (ws.drop 3).take nops
  let src (k : Nat) : Nat := bits w1 (5 * k) 5
  let skip (k : Nat) : Nat := bits w2 (3 * k) 3
  if nops = 0 || 32 < nops || 4 < nin || 4 < nout then 2
  else if written ≠ 3 + nops then 6
  else if bits w0 12 20 ≠ 0 || bits w1 20 12 ≠ 0 || bits w2 12 20 ≠ 0 then 3
  else if !(ops.all (opEncodingOk nin)) then 3
  else if !(ops.all (fun w => opDst w ≤ opDstMax (opc w))) then 4
  else if !((List.range nout).all (fun k => operandOk nin (src k) && skip k < 6 && (4 ≤ skip k || skip k < nin))) then 5
  else if !((List.range 4).all (fun k => k < nout || (src k == 0 && skip k == 0))) then 5
  else if nin = 0 && nout = 0 && !(ops.any (fun w => opc w == 0x18)) then 2
  else 0

/-- The program that a valid image installs. -/
def imageProgram (ws : List W32) : Program :=
  let w0 := (ws.getD 0 0).toNat; let w1 := (ws.getD 1 0).toNat; let w2 := (ws.getD 2 0).toNat
  let nout := bits w0 9 3
  { nin := bits w0 6 3, nout := nout,
    osrc := (List.range nout).map (fun k => BitVec.ofNat 5 (bits w1 (5 * k) 5)),
    skip := (List.range nout).map (fun k => BitVec.ofNat 3 (bits w2 (3 * k) 3)),
    ops := (ws.drop 3).take (bits w0 0 6) }

/-! ## Built-in programs (R129) -/

/-- A micro-op word. -/
def mop (o dst a : Nat) (b : Nat := 0) (c : Nat := 0) : W32 :=
  BitVec.ofNat 32 (o + dst * 2 ^ 8 + a * 2 ^ 12 + b * 2 ^ 17 + c * 2 ^ 22)

/-- Operand codes by name. -/
def oT (n : Nat) : Nat := n
def oI (n : Nat) : Nat := 8 + n
def oK (n : Nat) : Nat := 12 + n

def opADD := 0x01
def opMUL := 0x03
def opFMA := 0x04
def opFNMA := 0x05
def opDIV := 0x06
def opSQRT := 0x07
def opSGN := 0x0D
def opACC := 0x18

/-- A program of given inputs and outputs (operand code and skip source of each). -/
def prog (nin : Nat) (outs : List (Nat × Nat)) (ops : List W32) : Program :=
  { nin, nout := outs.length, osrc := outs.map (fun o => BitVec.ofNat 5 o.1), skip := outs.map (fun o => BitVec.ofNat 3 o.2), ops }

def progNormstage : Program := prog 1 [(oI 0, 5)] [mop opACC 0 (oI 0) (oI 0)]
def progNorm : Program := prog 1 [] [mop opACC 0 (oI 0) (oI 0)]

def progAdamw : Program := prog 4 [(oT 5, 1), (oT 1, 2), (oT 2, 3), (oT 5, 4)] [
  mop opMUL 0 (oI 0) (oK 15), mop opMUL 1 (oK 0) (oI 2), mop opFMA 1 (oK 1) (oT 0) (oT 1), mop opMUL 2 (oT 0) (oT 0),
  mop opMUL 3 (oK 2) (oI 3), mop opFMA 2 (oK 3) (oT 2) (oT 3), mop opMUL 3 (oT 2) (oK 5), mop opSQRT 3 (oT 3),
  mop opADD 3 (oT 3) (oK 6), mop opMUL 4 (oT 1) (oK 4), mop opDIV 4 (oT 4) (oT 3), mop opMUL 5 (oI 1) (oK 7),
  mop opFNMA 5 (oK 9) (oT 4) (oT 5)]

def progAdam : Program := prog 4 [(oT 5, 1), (oT 1, 2), (oT 2, 3), (oT 5, 4)] [
  mop opMUL 0 (oI 0) (oK 15), mop opFMA 0 (oK 7) (oI 1) (oT 0), mop opMUL 1 (oK 0) (oI 2), mop opFMA 1 (oK 1) (oT 0) (oT 1),
  mop opMUL 2 (oT 0) (oT 0), mop opMUL 3 (oK 2) (oI 3), mop opFMA 2 (oK 3) (oT 2) (oT 3), mop opMUL 3 (oT 2) (oK 5),
  mop opSQRT 3 (oT 3), mop opADD 3 (oT 3) (oK 6), mop opMUL 4 (oT 1) (oK 4), mop opDIV 4 (oT 4) (oT 3),
  mop opFNMA 5 (oK 9) (oT 4) (oI 1)]

def progLion : Program := prog 3 [(oT 2, 1), (oT 3, 2), (oT 2, 4)] [
  mop opMUL 0 (oI 0) (oK 15), mop opMUL 1 (oK 0) (oI 2), mop opFMA 1 (oK 1) (oT 0) (oT 1), mop opSGN 1 (oT 1),
  mop opMUL 2 (oI 1) (oK 7), mop opFNMA 2 (oK 9) (oT 1) (oT 2), mop opMUL 3 (oK 2) (oI 2), mop opFMA 3 (oK 3) (oT 0) (oT 3)]

def progSgdm : Program := prog 3 [(oT 2, 1), (oT 1, 2), (oT 2, 4)] [
  mop opMUL 0 (oI 0) (oK 15), mop opFMA 0 (oK 7) (oI 1) (oT 0), mop opFMA 1 (oK 0) (oI 2) (oT 0), mop opFNMA 2 (oK 9) (oT 1) (oI 1)]

def progNesterov : Program := prog 3 [(oT 3, 1), (oT 1, 2), (oT 3, 4)] [
  mop opMUL 0 (oI 0) (oK 15), mop opFMA 0 (oK 7) (oI 1) (oT 0), mop opFMA 1 (oK 0) (oI 2) (oT 0), mop opFMA 2 (oK 0) (oT 1) (oT 0),
  mop opFNMA 3 (oK 9) (oT 2) (oI 1)]

def progLambA : Program := prog 4 [(oT 1, 2), (oT 2, 3), (oT 4, 5)] [
  mop opMUL 0 (oI 0) (oK 15), mop opMUL 1 (oK 0) (oI 2), mop opFMA 1 (oK 1) (oT 0) (oT 1), mop opMUL 2 (oT 0) (oT 0),
  mop opMUL 3 (oK 2) (oI 3), mop opFMA 2 (oK 3) (oT 2) (oT 3), mop opMUL 3 (oT 2) (oK 5), mop opSQRT 3 (oT 3),
  mop opADD 3 (oT 3) (oK 6), mop opMUL 4 (oT 1) (oK 4), mop opDIV 4 (oT 4) (oT 3), mop opFMA 4 (oK 7) (oI 1) (oT 4),
  mop opACC 0 (oI 1) (oI 1), mop opACC 1 (oT 4) (oT 4)]

def progLambB : Program := prog 2 [(oT 0, 0), (oT 0, 4)] [mop opFNMA 0 (oK 9) (oI 1) (oI 0)]

/-- The built-in program of an ID from 16 to 24. -/
def builtin (id : Nat) : Option Program :=
  match id with
  | 16 => some progNormstage | 17 => some progNorm | 18 => some progAdamw | 19 => some progAdam | 20 => some progLion
  | 21 => some progSgdm | 22 => some progNesterov | 23 => some progLambA | 24 => some progLambB | _ => none

end Sys2Proof.Machine
end

