-- ==== Sys2Proof/Machine/Fulling.lean ====
section
/-! DEFINITION. Fulling lanes (R117 to R151): queues, tasks, stream ports, the step gate, loaded programs. -/
namespace Sys2Proof.Machine

def State.onFul (s : State) (f : Ful → Ful) : State := { s with ful := f s.ful }
def State.fq (s : State) (q : Nat) : FulQueue := vget s.ful.queues q {}
def State.putFq (s : State) (q : Nat) (x : FulQueue) : State := s.onFul (fun u => { u with queues := vset u.queues q x })
def State.port (s : State) (p : Nat) : StreamPort := vget s.ful.ports p {}
def State.putPort (s : State) (p : Nat) (x : StreamPort) : State := s.onFul (fun u => { u with ports := vset u.ports p x })

/-- Replace the task of a queue. -/
def State.putTask (s : State) (q : Nat) (t : FulTask) : State := s.putFq q { s.fq q with task := some t }

/-- Elements of a block. -/
def blockElems : Nat := 2048
def FulDesc.blocks (d : FulDesc) : Nat := (d.e + blockElems - 1) / blockElems
/-- Elements of block `b`. -/
def FulDesc.blockLen (d : FulDesc) (b : Nat) : Nat := min blockElems (d.e - b * blockElems)

/-! ## Votes (R102, R130) -/

/-- Change the vote of a step, which begins to exist when something of the step first ends. -/
def touchVote (step : W64) (f : Vote → Vote) : List Vote → List Vote
  | [] => [f { step := step }]
  | v :: t => if v.step = step then f v :: t else v :: touchVote step f t

def State.onVote (s : State) (step : W64) (f : Vote → Vote) : State :=
  { s with red := { s.red with votes := touchVote step f s.red.votes } }

/-- What the end of a task means for the vote: a NORM_VOTE task that did not succeed skips the step; a LAST_NORM task has ended. -/
def State.taskVote (s : State) (q : Nat) (d : FulDesc) (ok : Bool) : State :=
  let s := if d.normVote && !ok then s.onVote d.step (fun v => { v with skip := true }) else s
  if d.lastNorm then s.onVote d.step (fun v => { v with norms := v.norms ||| BitVec.ofNat 4 (2 ^ q) }) else s

/-! ## Descriptors (R121, R122) -/

/-- Address of the descriptor of a SEQ. -/
def State.fulDescAt (s : State) (q : Nat) (seq : W32) : Nat :=
  s.rdAddr (Fld.fulQCfg.base q) + 192 * (seq.toNat % 2 ^ (s.rd (Fld.fulQCfg.ringLog2 q) + 4))

/-- Fields of a task descriptor. -/
def fulDesc (b : List Byte) : FulDesc :=
  let g (i n : Nat) : Nat := fieldLE b i n
  let fl := g 17 1
  let fmts (lo : Nat) : List (BitVec 2) := (List.range 4).map (fun k => BitVec.ofNat 2 (bits (g 18 2) (lo + 2 * k) 2))
  let sync := g 24 4
  let four (i : Nat) : List Nat := (List.range 4).map (fun k => g (i + 8 * k) 8)
  { step := BitVec.ofNat 64 (g 0 8), seq := BitVec.ofNat 32 (g 8 4), shard := BitVec.ofNat 32 (g 12 4), prog := BitVec.ofNat 5 (g 16 1),
    direct := bitAt fl 0, gate := bitAt fl 1, clip := bitAt fl 2, normVote := bitAt fl 3, lastNorm := bitAt fl 4, ifmt := fmts 0,
    ofmt := fmts 8, sr := BitVec.ofNat 4 (g 20 1), batt := BitVec.ofNat 4 (g 20 1 / 16), port := bits (g 21 1) 0 3,
    version := BitVec.ofNat 4 (g 21 1 / 16), waitPair := bits sync 0 9, waitEn := bitAt sync 9, postPair := bits sync 16 9,
    postEn := bitAt sync 25, e := bits (g 32 8) 0 48, elemBase := bits (g 40 8) 0 48, param := g 48 8, inAddr := four 56, outAddr := four 88,
    battAddr := four 120 }

/-- A reserved field of the descriptor is not zero. -/
def fulReserved (b : List Byte) : Bool :=
  let g (i n : Nat) : Nat := fieldLE b i n
  bits (g 16 1) 5 3 != 0 || 24 < bits (g 16 1) 0 5 || bits (g 17 1) 5 3 != 0 || bits (g 21 1) 3 1 != 0 || g 22 2 != 0 ||
  bits (g 24 4) 10 6 != 0 || bits (g 24 4) 26 6 != 0 || g 28 4 != 0 || bits (g 32 8) 48 16 != 0 || bits (g 40 8) 48 16 != 0 ||
  g 155 5 != 0 || g 188 4 != 0

/-- The program that a descriptor names, if it is there with that version. -/
def State.fulProgram (s : State) (d : FulDesc) : Option Program :=
  if d.prog.toNat < 16 then
    let x := vget s.ful.slots d.prog.toNat {}
    if x.loaded && x.version == d.version then some x.prog else none
  else if d.version = 0 then builtin d.prog.toNat else none

def FulDesc.ifm (d : FulDesc) (j : Nat) : Nat := (d.ifmt.getD j 0).toNat
def FulDesc.ofm (d : FulDesc) (k : Nat) : Nat := (d.ofmt.getD k 0).toNat
def FulDesc.ia (d : FulDesc) (j : Nat) : Nat := d.inAddr.getD j 0
def FulDesc.oa (d : FulDesc) (k : Nat) : Nat := d.outAddr.getD k 0
def FulDesc.ba (d : FulDesc) (k : Nat) : Nat := d.battAddr.getD k 0

/-- Two ranges overlap, but are not the same range. -/
def partialOverlap (x y : Nat × Nat) : Bool := overlap x.1 x.2 y.1 y.2 && x != y

/-- The descriptor is malformed for a program (R122, R131). -/
def State.fulMalformed (s : State) (b : List Byte) (d : FulDesc) (p : Program) (seq : W32) : Bool :=
  let ins := (List.range p.nin).filter (fun j => !(d.direct && j == 0))
  let outs := List.range p.nout
  let inR := ins.map (fun j => (d.ia j, d.e * laneSize (d.ifm j)))
  let outR := outs.map (fun k => (d.oa k, d.e * laneSize (d.ofm k)))
  let gate := s.ful.gate
  fulReserved b || d.param % 64 != 0 || d.seq != seq || d.e == 0 || (List.range p.nin).any (fun j => d.ifm j == 3) ||
  outs.any (fun k => d.ofm k == 3) || (List.range 4).any (fun k => d.sr.getLsbD k && d.ofm k != 1) ||
  (List.range 4).any (fun k => d.batt.getLsbD k && p.nout ≤ k) || outR.any (fun x => inR.any (partialOverlap x)) ||
  !allPairs (fun x y => !partialOverlap x y) outR ||
  (if d.direct then !s.rdB (Fld.fulPortCfg.enable d.port) || p.nin == 0 else d.port != 0) ||
  (d.gate && (!s.rdB Fld.redCtrl.skipVoteEn || (gate.opened && d.step.toNat < gate.step.toNat))) || (d.clip && !d.gate)

/-! ## Stream ports (R138 to R140) -/

/-- The oldest block of the head piece that no lane has taken. -/
def oldestBlock (gone : List Nat) : Nat → Nat → Nat
  | 0, b => b
  | n + 1, b => if gone.contains b then oldestBlock gone n (b + 1) else b

/-- Fragments of the head piece enter the buffer, inside the 32 blocks from the oldest block not yet dispatched on. -/
def StreamPort.fill (x : StreamPort) : StreamPort :=
  match x.pieces with
  | [] => x
  | h :: _ =>
    let lim := (oldestBlock x.gone x.gone.length 0 + 32) * blockElems
    let fits (f : Nat × W32 × Nat × List W32 × Nat) : Bool :=
      f.1 == h.ch && f.2.1 == h.seq && f.2.2.1 + f.2.2.2.1.length ≤ lim
    let put (m : SMap W32) (f : Nat × W32 × Nat × List W32 × Nat) : SMap W32 :=
      ((List.range f.2.2.2.1.length).zip f.2.2.2.1).foldl (fun m y => kset m (f.2.2.1 + y.1) y.2) m
    { x with buf := (x.held.filter fits).foldl put x.buf, held := x.held.filter (fun f => !fits f) }

/-- Remove a piece: what of it is buffered or waits is discarded, and the next piece may enter. -/
def StreamPort.drop (x : StreamPort) (ch : Nat) (seq : W32) : StreamPort :=
  let head := match x.pieces with | h :: _ => h.ch == ch && h.seq == seq | [] => false
  StreamPort.fill
    { x with
      pieces := x.pieces.filter (fun p => !(p.ch == ch && p.seq == seq)), held := x.held.filter (fun f => !(f.1 == ch && f.2.1 == seq)),
      buf := if head then [] else x.buf, gone := if head then [] else x.gone }

/-- Discard what a port holds of a piece, and keep the piece itself as that of an aborted bucket, for the task that takes it (R140). -/
def StreamPort.kill (x : StreamPort) (ch : Nat) (seq : W32) (st : Status) : StreamPort :=
  let head := match x.pieces with | h :: _ => h.ch == ch && h.seq == seq | [] => false
  { x with
    pieces := x.pieces.map (fun p => if p.ch == ch && p.seq == seq then { p with dead := some st } else p),
    held := x.held.filter (fun f => !(f.1 == ch && f.2.1 == seq)), buf := if head then [] else x.buf, gone := if head then [] else x.gone }

/-- Every fragment of a piece has entered the buffer (or was discarded). -/
def State.pieceIn (s : State) (p ch : Nat) (seq : W32) : Bool := !(s.port p).held.any (fun f => f.1 == ch && f.2.1 == seq)

/-! ## Ends of tasks -/

/-- Write back the result fields (R121): status, RFLAGS, ACC0, ACC1, INDEX, K15_USED. A task that ends before it has read its parameter block
has used no K15, and the manual does not say what K15_USED then reads: it is 0 (DESIGN CHOICE, assumption 120). -/
def State.fulWriteBack (s : State) (t : FulTask) (st : Status) (index : Option Nat) : State :=
  s.store' (t.addr + 152)
    (leBytes 2 st.toNat ++ leBytes 1 (b2n t.skipPass + 2 * b2n t.clipApplied + 4 * b2n index.isSome) ++ zeros 5 ++
      leBytes 8 t.acc0.toF64.toNat ++ leBytes 8 t.acc1.toF64.toNat ++ leBytes 8 (index.getD 0) ++
      leBytes 4 (t.consts.getD 15 0).toNat ++ zeros 4)

/-- Leave the stream port. -/
def State.fulLeavePort (s : State) (t : FulTask) : State :=
  match t.piece with
  | some (ch, seq) => s.putPort t.desc.port ((s.port t.desc.port).drop ch seq)
  | none => s

/-- INDEX of an aborting task (R147). -/
def FulTask.abortIndex (t : FulTask) : Nat :=
  if t.wrote then t.desc.elemBase + min t.desc.e (blockElems * oldestBlock t.taken t.taken.length 0) else t.desc.elemBase

/-- Error bit of an abort status. -/
def State.fulErr (s : State) (st : Status) : State :=
  if st = St.lengthShort then s.raise Fld.fulErrStatus.lenShort
  else if st = St.lengthLong then s.raise Fld.fulErrStatus.lenLong
  else if st = St.memUncorrectable then s.raise Fld.fulErrStatus.memUe
  else s

/-- The first fault since the last read is logged (CGM_FUL_FAULT_LOG), with its cause bits (R146). -/
def State.fulFault (s : State) (q : Nat) (d : FulDesc) (st : Status) (index : Nat) (upstream : Bool) : State :=
  let s := if s.rdB Fld.fulFaultLog.valid then s
    else (((s.wr Fld.fulFaultLog.index index).wr Fld.fulFaultLog.queue q).wr Fld.fulFaultLog.valid 1).setReg Reg.fulFaultSeq
      (BitVec.ofNat 64 d.seq.toNat)
  let s := s.fulErr st
  if upstream then s.raise Fld.fulErrStatus.upstream else s

/-- A task that has written state aborts other than by a halt: STATE_FAULT, the notice, and the cuts of what it wrote (R148). -/
def State.fulStateFault (s : State) (q : Nat) (t : FulTask) (st : Status) : State :=
  if t.wrote && st != St.halted then
    let d := t.desc
    let s := (s.notice 5 q d.seq.toNat st d.shard.toNat d.step).raise Fld.fulErrStatus.stateFault
    let s := { s with rst := { s.rst with faulted := true } }
    ((List.range 4).filter (fun k => d.batt.getLsbD k)).foldl (fun s k => s.stateFaultCut (d.ba k) st) s
  else s

/-- Abort the task of a queue (R146 to R149); `upstream` for the status of its bucket or barrier. -/
def State.fulAbort (s : State) (q : Nat) (st : Status) (upstream : Bool := false) : State :=
  let x := s.fq q
  match x.task with
  | none => s
  | some t =>
    if t.posted then s else
    let d := t.desc
    let index := t.abortIndex
    let halt := st = St.halted
    let s := s.putFq q { x with task := none, aborted := x.aborted || !halt, lastStatus := st }
    let s := s.onSyn (fun y =>
      { y with
        waiters := y.waiters.filter (fun w => w.who != .fulling q),
        held := y.held.filter (fun h => match h with | .wait w => w.who != .fulling q | _ => true) })
    let s := s.fulLeavePort t
    let s := s.fulWriteBack t st (some index)
    let s := (s.logAbort Unit'.ful q d.seq.toNat d.shard.toNat st)
    let s := s.fulFault q d st index upstream
    let s := (s.taskVote q d false).fulStateFault q t st
    (s.produce (s.rd (Fld.fulQSync.donePair q)) 1 (.fulling q)).1

/-- A bound task has data beyond its E: it aborts with LENGTH_LONG (R140). -/
def State.portCheck (s : State) (q : Nat) : State :=
  match (s.fq q).task with
  | none => s
  | some t =>
    match t.piece with
    | none => s
    | some _ => if (s.port t.desc.port).buf.any (fun e => t.desc.e ≤ e.1) then s.fulAbort q St.lengthLong else s

/-- Queue whose task a piece is bound to. -/
def State.boundQueue (s : State) (ch : Nat) (seq : W32) : Option Nat :=
  (List.range 4).find? (fun q => match (s.fq q).task with | some t => t.piece == some (ch, seq) | none => false)

/-- A final fragment of a DIRECT bucket goes to its port: element index in the piece, values. -/
def State.portFeed (s : State) (p ch : Nat) (seq : W32) (idx : Nat) (vals : List W32) (slice : Nat) : State :=
  let x := s.port p
  if !x.pieces.any (fun y => y.ch == ch && y.seq == seq) then s
  else
    let s := s.putPort p (StreamPort.fill { x with held := x.held ++ [(ch, seq, idx, vals, slice)] })
    match s.boundQueue ch seq with
    | none => s
    | some q =>
      match (s.fq q).task with
      | some t => (s.putTask q { t with arrival := some s.now }).portCheck q
      | none => s

/-- The bucket of a piece has aborted: the task that has taken the piece aborts with it; a piece that no task has taken yet stands until one
takes it. -/
def State.portAbort (s : State) (p ch : Nat) (seq : W32) (st : Status) : State :=
  match s.boundQueue ch seq with
  | some q => (s.fulAbort q st true).putPort p (((s.fulAbort q st true).port p).drop ch seq)
  | none => s.putPort p ((s.port p).kill ch seq st)

/-! ## Running -/

/-- Enter the run stage: the parameter block is read, and the gate gives K15 and the skip pass. -/
def State.fulRun (s : State) (q : Nat) (t : FulTask) : State :=
  let ks := (List.range 16).map (fun k => BitVec.ofNat 32 (s.loadN (t.desc.param + 4 * k) 4))
  let g := s.ful.gate
  let ks := if t.desc.clip then ks.set 15 g.clipK else ks
  s.putTask q { t with stage := .run, consts := ks, clipApplied := t.desc.clip, skipPass := t.desc.gate && g.skip }

/-- After the wait: to the gate, or to run. -/
def State.fulPastWait (s : State) (q : Nat) (t : FulTask) : State :=
  if t.desc.gate then
    match s.ful.gate.failed.find? (fun x => x.1 == t.desc.step) with
    | some (_, st) => s.fulAbort q st true
    | none => s.putTask q { t with stage := .waitGate }
  else s.fulRun q t

/-- FULLING_TASK_ISSUE. -/
def doFullingTaskIssue (q : Fin 4) (s : State) : Out :=
  let x := s.fq q
  if !s.hw || s.halted || !s.rdB Fld.fulCtrl.enable || !s.rdB (Fld.fulQCfg.enable q) || x.aborted || x.task.isSome ||
     s.unitHolds (.fulling q) then .next s
  else match s.takeCount (s.rd (Fld.fulQSync.issuePair q)) with
    | none => .next s
    | some s =>
      let seq := x.nextSeq
      let a := s.fulDescAt q seq
      let b := s.load a 192
      let d := fulDesc b
      let s := s.putFq q { x with nextSeq := seq + 1, task := some { desc := d, addr := a } }
      match s.fulProgram d with
      | none => .next (s.fulAbort q St.lengthLong)
      | some p =>
        let t : FulTask := { desc := d, addr := a, prog := p }
        let wrongPort := d.direct && s.rd (Fld.fulPortCfg.queue d.port) != q.val
        if wrongPort || s.fulMalformed b d p seq then .next (s.fulAbort q St.lengthLong)
        else if d.waitEn then .next ((s.putTask q t).wait { isPair := true, obj := d.waitPair, count := 1, consume := true, who := .fulling q })
        else .next (s.fulPastWait q t)

/-- FULLING_WAIT_SATISFIED: WAIT_PAIR has given its count (R141). -/
def doFullingWaitSatisfied (q : Fin 4) (s : State) : Out :=
  let waits := s.syn.waiters.any (fun w => w.who == .fulling q) ||
    s.syn.held.any (fun h => match h with | .wait w => w.who == .fulling q | _ => false)
  match (s.fq q).task with
  | some t => if t.stage == .waitPair && !waits && s.hw && !s.halted then .next (s.fulPastWait q t) else .next s
  | none => .next s

/-- GATE_TASK_PROCEED: the gate is open for the task's STEP; a gate already past it makes the task malformed (R131). -/
def doGateTaskProceed (q : Fin 4) (s : State) : Out :=
  match (s.fq q).task with
  | some t =>
    let g := s.ful.gate
    if t.stage != .waitGate || !s.hw || s.halted || !g.opened then .next s
    else if g.step = t.desc.step then .next (s.fulRun q t)
    else if t.desc.step.toNat < g.step.toNat then .next (s.fulAbort q St.lengthLong)
    else .next s
  | none => .next s

/-- DIRECT_PIECE_BIND: the head piece of a port goes to the DIRECT task of its queue that names the port; the task that takes the piece of an
aborted bucket aborts with the bucket's status. -/
def doDirectPieceBind (p : Fin 8) (s : State) : Out :=
  let x := s.port p
  let q := s.rd (Fld.fulPortCfg.queue p)
  match x.pieces, (s.fq q).task with
  | h :: rest, some t =>
    if h.bound || !t.desc.direct || t.desc.port ≠ p || t.piece.isSome || t.posted || !s.hw || s.halted then .next s
    else
      let s := s.putPort p { x with pieces := { h with bound := true } :: rest }
      let s := s.putTask q { t with piece := some (h.ch, h.seq), arrival := some s.now }
      match h.dead with
      | some st => .next (s.fulAbort q st true)
      | none => .next (s.portCheck q)
  | _, _ => .next s

/-! ## Blocks (R118, R119, R128, R132) -/

/-- Non-finite in an output format. -/
def laneNonFinite (fmt v : Nat) : Bool :=
  match fmt with
  | 0 => bits v 23 8 == 255
  | 1 => bits v 7 8 == 255
  | _ => bits v 10 5 == 31

/-- Input `j` of element `i`: raw bits in the input's format. A streamed element is in FP32. -/
def State.fulRaw (s : State) (d : FulDesc) (j i : Nat) : Nat :=
  if d.direct && j == 0 then ((kget (s.port d.port).buf i).getD 0).toNat
  else s.loadN (d.ia j + i * laneSize (d.ifm j)) (laneSize (d.ifm j))

/-- Format of input `j`. -/
def FulDesc.inFmt (d : FulDesc) (j : Nat) : Nat := if d.direct && j == 0 then 0 else d.ifm j

/-- Write one output of one element to the Batt; a write that R155 does not allow is suppressed. -/
def State.fulBatt (s : State) (t : FulTask) (k i : Nat) (bs : List Byte) : State × FulTask :=
  let (s, ok) := s.battWrite t.desc.step (t.desc.ba k + i * bs.length) bs
  if ok then (s, { t with wrote := true })
  else (if t.suppressed then s else s.bump Fld.tierCutCounts.suppressed, { t with suppressed := true })

/-- One element of the program (R128). -/
def State.fulElem (st : State × FulTask) (i : Nat) : State × FulTask :=
  let (s, t) := st
  let d := t.desc
  let e := d.elemBase + i
  let ins := (List.range t.prog.nin).map (fun j => laneIn (d.inFmt j) (s.fulRaw d j i))
  let el := runOps t.consts t.prog.ops ins t.acc0 t.acc1
  let t := { t with acc0 := el.acc0, acc1 := el.acc1 }
  (List.range t.prog.nout).foldl (fun (st : State × FulTask) k =>
    let (s, t) := st
    let f := d.ofm k
    let v := laneOut f (d.sr.getLsbD k) (fulDraw (s.getReg Reg.fulSrSeed) d.step k d.shard e) (operand t.consts el (t.prog.osrc.getD k 0).toNat)
    let bs := leBytes (laneSize f) v
    let s := s.store' (d.oa k + i * laneSize f) bs
    let nf := if laneNonFinite f v then (match t.nonfinite with | some m => some (min m e) | none => some e) else t.nonfinite
    let t := { t with wrote := true, nonfinite := nf }
    if d.batt.getLsbD k then s.fulBatt t k i bs else (s, t)) (s, t)

/-- One element of the skip pass (R132). -/
def State.fulSkipElem (st : State × FulTask) (i : Nat) : State × FulTask :=
  let (s, t) := st
  let d := t.desc
  let e := d.elemBase + i
  let ins := (List.range t.prog.nin).map (fun j => s.fulRaw d j i)
  (List.range t.prog.nout).foldl (fun (st : State × FulTask) k =>
    let (s, t) := st
    let f := d.ofm k
    let src := (t.prog.skip.getD k 5).toNat
    if !d.batt.getLsbD k || src = 5 then (s, t)
    else if src = 4 then s.fulBatt t k i (s.load (d.oa k + i * laneSize f) (laneSize f))
    else
      let fi := d.inFmt src
      let raw := ins.getD src 0
      let v := if fi = f then raw
        else laneOut f (d.sr.getLsbD k) (fulDraw (s.getReg Reg.fulSrSeed) d.step k d.shard e) (laneIn fi raw)
      let bs := leBytes (laneSize f) v
      let same := d.ia src = d.oa k && !(d.direct && src == 0)
      let st : State × FulTask := if same then (s, t) else (s.store' (d.oa k + i * laneSize f) bs, { t with wrote := true })
      st.1.fulBatt st.2 k i bs) (s, t)

/-- Every element of a block is there. -/
def State.blockReady (s : State) (t : FulTask) (b : Nat) : Bool :=
  !t.desc.direct ||
  (t.piece.isSome && (List.range (t.desc.blockLen b)).all (fun i => (kget (s.port t.desc.port).buf (b * blockElems + i)).isSome))

/-- The port gives a block to a lane. -/
def State.portTake (s : State) (t : FulTask) (b : Nat) : State :=
  if t.desc.direct then
    let x := s.port t.desc.port
    s.putPort t.desc.port
      (StreamPort.fill { x with gone := x.gone ++ [b], buf := x.buf.filter (fun e => !(e.1 / blockElems == b && e.1 < t.desc.e)) })
  else s

/-- Some output is written for each element of the task (R128, R132). -/
def FulTask.stores (t : FulTask) : Bool :=
  let d := t.desc
  (List.range t.prog.nout).any (fun k =>
    let src := (t.prog.skip.getD k 5).toNat
    !t.skipPass || (d.batt.getLsbD k && src < 4 && !(d.ia src = d.oa k && !(d.direct && src == 0))))

/-- A queue has a block that waits for a lane. -/
def State.queueAsks (s : State) (q : Nat) : Bool :=
  match (s.fq q).task with
  | some t => t.stage == .run && (List.range t.desc.blocks).any (fun b => !t.taken.contains b && s.blockReady t b)
  | none => false

/-- Number of the arbitration point before the Fulling lanes (R118). -/
def lanesPoint : Nat := 1024

/-- The lanes' arbitration: queue q holds leaf q, and this request arrives first of those that wait (R71, R72). -/
def State.laneGrant (s : State) (q : Nat) : Option Nat × State :=
  s.grant lanesPoint 2 (q :: (List.range 4).filter (fun r => r != q && s.queueAsks r))

/-- LANE_TAKES_BLOCK: a free lane takes a block of a queue, if the arbitration grants that queue. -/
def doLaneTakesBlock (lane : Fin 192) (q : Fin 4) (b : Nat) (s : State) : Out :=
  match (s.fq q).task with
  | none => .next s
  | some t =>
    let d := t.desc
    if t.stage != .run || !s.hw || s.halted || d.blocks ≤ b || t.taken.contains b || !s.blockReady t b ||
       (s.laneGrant q).1 != some q.val then .next s
    else
      let s := (s.laneGrant q).2
      let s := s.onFul (fun u => { u with lanes := kset u.lanes lane (d.prog, d.version) })
      let s := if t.stores then s.laterWrite d.step else s
      let idx := (List.range (d.blockLen b)).map (fun i => b * blockElems + i)
      let (s, t) := idx.foldl (if t.skipPass then State.fulSkipElem else State.fulElem) (s, { t with taken := t.taken ++ [b] })
      .next (((s.putTask q t).portTake t b).portCheck q)

/-- FULLING_STREAM_WATCHDOG (R140). -/
def doFullingStreamWatchdog (q : Fin 4) (race : Race) (s : State) : Out :=
  match (s.fq q).task with
  | none => .next s
  | some t =>
    let d := t.desc
    let missing := (List.range d.blocks).any (fun b => !t.taken.contains b && !s.blockReady t b)
    match t.arrival with
    | none => .next s
    | some a =>
      if !s.hw || !d.direct || !missing || !s.elapsed a (usTicks (s.rd Fld.fulWd.streamWdUs)) then .next s
      else
        let s := s.logRace Unit'.ful d.seq.toNat Wd.fulStream race
        if race = .arrivalWon then .next (s.putTask q { t with arrival := some s.now }) else .next (s.fulAbort q St.lengthShort)

/-- The piece that a DIRECT task took is not longer than its E, or has shown it by aborting the task. -/
def State.pieceDone (s : State) (t : FulTask) : Bool :=
  match t.piece with
  | some (ch, seq) => (s.port t.desc.port).pieces.all (fun p => !(p.ch == ch && p.seq == seq) || p.len ≤ t.desc.e)
  | none => !t.desc.direct

/-- The done count of a task, once its POST has been counted; the queue is then free. -/
def State.fulDone (s : State) (q : Nat) : State :=
  if s.unitHolds (.fulling q) then s
  else ((s.putFq q { s.fq q with task := none }).produce (s.rd (Fld.fulQSync.donePair q)) 1 (.fulling q)).1

/-- FULLING_TASK_COMPLETE (R121, R130, R141, R151): a task whose POST waits for room completes its done count later (R262). -/
def doFullingTaskComplete (q : Fin 4) (s : State) : Out :=
  let x := s.fq q
  match x.task with
  | none => .next s
  | some t =>
    let d := t.desc
    if t.posted then .next (if s.hw then s.fulDone q else s)
    else if t.stage != .run || !s.hw || t.taken.length < d.blocks || !s.pieceDone t || s.unitHolds (.fulling q) then .next s
    else
      let nf := if t.skipPass then none else t.nonfinite
      let st := if nf.isSome then St.nonfinite else St.success
      let s := s.putFq q { x with task := some { t with posted := true }, lastStatus := st }
      let s := (s.fulLeavePort t).fulWriteBack t st nf
      let s := if nf.isSome then (s.raise Fld.fulErrStatus.nonfinite).bump Fld.fulCounts.nfTasks else s
      let s := if t.skipPass then s.bump Fld.fulCounts.skipped else s
      let s := if st = St.success && d.normVote then s.onFul (fun u => { u with stepAcc := u.stepAcc.join t.acc0 }) else s
      let s := s.taskVote q d (st = St.success)
      let s := if d.postEn then (s.produce d.postPair 1 (.fulling q)).1 else s
      .next (s.fulDone q)

/-! ## The step gate (R131, R133) -/

/-- The vote barrier of a step has completed. -/
def State.gateOpen (s : State) (step : W64) (sum or' : W64) : State :=
  s.onFul (fun u =>
    { u with
      gate :=
        { opened := true, step := step, sum := sum, skip := or'.getLsbD (s.rd Fld.redCtrl.skipBit),
          clipK := clipScale (s.getReg Reg.fulClipMax) sum, failed := u.gate.failed.filter (fun x => x.1 != step) } })

/-- The vote barrier of a step has aborted: every GATE task of the step that has started completes with its status. -/
def State.gateFail (s : State) (step : W64) (st : Status) : State :=
  let s := s.onFul (fun u => { u with gate := { u.gate with failed := (step, st) :: u.gate.failed.filter (fun x => x.1 != step) } })
  (List.range 4).foldl (fun s q =>
    match (s.fq q).task with
    | some t => if t.desc.gate && t.stage == .waitGate && t.desc.step = step then s.fulAbort q st true else s
    | none => s) s

/-! ## Loading programs (R135 to R137) -/

/-- A started task names the slot. -/
def State.slotBusy (s : State) (slot : Nat) : Bool :=
  s.ful.queues.toList.any (fun x => match x.task with | some t => t.desc.prog.toNat == slot | none => false)

/-- Record the result of a CMD. -/
def State.loadStatus (s : State) (slot v : Nat) : State := (s.wr Fld.fulProgCtrl.slot slot).wr Fld.fulProgCtrl.loadStatus v

/-- CMD=begin. -/
def State.progBegin (s : State) (slot : Fin 16) : State :=
  if s.slotBusy slot then s.loadStatus slot 1
  else (s.onFul (fun u => { u with load := some { slot := slot } })).loadStatus slot 0

/-- PROG_BEGIN. -/
def execProgBegin (slot : Fin 16) (s : State) : Out := if !s.powered then .next s else .next (s.progBegin slot)

/-- A word of an image. -/
def State.progWord (s : State) (word : W32) : State :=
  match s.ful.load with
  | none => s.accessError Reg.fulProgData 4 true
  | some l =>
    let ws := if l.words.length < 35 then l.words ++ [word] else l.words
    s.onFul (fun u => { u with load := some { l with words := ws, count := l.count + 1 } })

/-- PROG_DATA_WORD. -/
def execProgDataWord (word : W32) (s : State) : Out := if !s.powered then .next s else .next (s.progWord word)

/-- CMD=commit. -/
def State.progCommit (s : State) (slot : Fin 16) : State :=
  if s.slotBusy slot then s.loadStatus slot 1
  else match s.ful.load with
    | none => s.loadStatus slot 7
    | some l =>
      if l.slot ≠ slot then s.loadStatus slot 7
      else
        let c := imageCheck l.words l.count
        let s := s.onFul (fun u => { u with load := none })
        if c ≠ 0 then s.loadStatus slot c
        else
          let x := vget s.ful.slots slot {}
          let x : ProgSlot := { loaded := true, version := x.version + 1, prog := imageProgram l.words }
          (s.onFul (fun u => { u with slots := vset u.slots slot x })).loadStatus slot 0

/-- PROG_COMMIT. -/
def execProgCommit (slot : Fin 16) (s : State) : Out := if !s.powered then .next s else .next (s.progCommit slot)

/-- CMD=unload. -/
def State.progUnload (s : State) (slot : Fin 16) : State :=
  if s.slotBusy slot then s.loadStatus slot 1
  else
    let x := vget s.ful.slots slot {}
    (s.onFul (fun u => { u with slots := vset u.slots slot { x with loaded := false } })).loadStatus slot 0

/-- PROG_UNLOAD. -/
def execProgUnload (slot : Fin 16) (s : State) : Out := if !s.powered then .next s else .next (s.progUnload slot)

/-- A write of CGM_FUL_PROG_CTRL: with CMD 0 it sets SLOT only; with a reserved CMD it does that too, and is recorded (R10). -/
def State.progCtrlWrite (s : State) (w : Nat) : State :=
  let slot : Fin 16 := Fin.ofNat 16 w
  match bits w 4 3 with
  | 0 => (s.writePlain Reg.fulProgCtrl w).1
  | 1 => s.progBegin slot
  | 2 => s.progCommit slot
  | 3 => s.progUnload slot
  | _ => (s.writePlain Reg.fulProgCtrl w).1

/-- A write of a Fulling queue's CFG: ENABLE cleared and set again ends the aborted state (R149). -/
def State.fulQCfgWrite (s : State) (q w : Nat) : State :=
  let was := s.rdB (Fld.fulQCfg.enable q)
  let s := (s.writePlain (Reg.fulQCfg q) w).1
  if !was && s.rdB (Fld.fulQCfg.enable q) then s.putFq q { s.fq q with aborted := false } else s

end Sys2Proof.Machine
end

