-- ==== Sys2Proof/Machine/Reduce.lean ====
section
/-! DEFINITION. Reduction channels and all-gather (R81 to R113): geometry, issue, start, ring and tree, delivery, completion, aborts, backup
workers, multicast. -/
namespace Sys2Proof.Machine

/-! ## Channel configuration and geometry -/

/-- The configuration of a channel, read from its registers. -/
structure ChCfg where
  n : Nat
  pos : Nat
  next : BitVec 7
  prev : BitVec 7
  r : Nat
  x : Nat
  soPos : Nat
  ufl : List Nat
  so : List Nat
  bf16 : Bool
deriving DecidableEq, Repr

def State.chCfg (s : State) (ch : Nat) : ChCfg :=
  let u := s.rd (Fld.redChPorts.uflMask ch)
  let o := s.rd (Fld.redChPorts.soMask ch)
  { n := s.rd (Fld.redChCfg.n ch), pos := s.rd (Fld.redChCfg.pos ch), next := BitVec.ofNat 7 (s.rd (Fld.redChCfg.nextPos ch)),
    prev := BitVec.ofNat 7 (s.rd (Fld.redChCfg.prevPos ch)), r := s.rd (Fld.redChCfg.r ch), x := s.rd (Fld.redChCfg.x ch),
    soPos := s.rd (Fld.redChCfg.soPos ch), ufl := ((List.range 36).filter (fun p => bitAt u p)).map uflSlice,
    so := ((List.range 6).filter (fun k => bitAt o k)).map soSlice, bf16 := s.rdB (Fld.redChCfg.pfmt ch) }

/-- Piece size (R83). -/
def ChCfg.u (c : ChCfg) (e : Nat) : Nat := ((e + c.n * c.r - 1) / (c.n * c.r) + 511) / 512 * 512

/-- Element range of piece `p`. -/
def ChCfg.piece (c : ChCfg) (e p : Nat) : Nat × Nat := (min (p * c.u e) e, min ((p + 1) * c.u e) e)
/-- Element range of rack-chunk `k`. -/
def ChCfg.chunk (c : ChCfg) (e k : Nat) : Nat × Nat := (min (k * c.r * c.u e) e, min ((k + 1) * c.r * c.u e) e)
/-- The piece that this device owns. -/
def ChCfg.own (c : ChCfg) : Nat := c.pos * c.r + c.x

/-- Number of fragments of `size` elements in a range. -/
def frags (rg : Nat × Nat) (size : Nat) : Nat := (rg.2 - rg.1 + size - 1) / size
/-- Range of fragment `f`. -/
def frag (rg : Nat × Nat) (size f : Nat) : Nat × Nat := (rg.1 + f * size, min (rg.1 + (f + 1) * size) rg.2)

/-- Bytes of a partial. -/
def ChCfg.pBytes (c : ChCfg) : Nat := if c.bf16 then 2 else 4
/-- Elements of a fragment on a UFL port and on a scale-out port, for an element size. -/
def uflFrag (es : Nat) : Nat := 2048 / es
def soFrag (es : Nat) : Nat := 8192 / es

/-- Fragments, of `m` over `k` ports, that go on port `i`. -/
def onPort (m k i : Nat) : Nat := ((List.range m).filter (fun f => f % k == i)).length

/-- Tree index of this device for the piece owned in rack `q` (R87). -/
def ChCfg.tree (c : ChCfg) (q : Nat) : Nat := (c.x + c.r - q) % c.r

/-- Level of the lowest set bit of a tree index, looked for below 11. -/
def lowBit (t : Nat) : Nat := ((List.range 11).find? (fun j => bitAt t j)).getD 11

/-- Levels at which a node waits for a child. -/
def ChCfg.children (c : ChCfg) (t : Nat) : List Nat :=
  (List.range (lowBit t)).filter (fun j => t + 2 ^ j < c.r && (t != 0 || 2 ^ j < c.r))

/-- Scale-out address of a rack for a channel (R371). -/
def State.soDest (s : State) (c : ChCfg) (q : Nat) : Dest :=
  .scaleOut (BitVec.ofNat 32 (s.loadN (s.rdAddr Fld.redRacktab.base + 8 * q) 4 + c.soPos))

/-! ## Buckets -/

def State.chan (s : State) (ch : Nat) : Chan := vget s.red.chans ch {}
def State.putChan (s : State) (ch : Nat) (x : Chan) : State := { s with red := { s.red with chans := vset s.red.chans ch x } }

/-- A started bucket. -/
def State.bucket (s : State) (ch : Nat) (seq : W32) : Option Bucket := (s.chan ch).running.find? (fun b => b.seq == seq)

/-- Replace a started bucket. -/
def State.putBucket (s : State) (ch : Nat) (b : Bucket) : State :=
  let x := s.chan ch
  s.putChan ch { x with running := x.running.map (fun c => if c.seq == b.seq then b else c) }

/-- Address of a bucket descriptor. -/
def State.redDescAt (s : State) (ch : Nat) (seq : W32) : Nat :=
  s.rdAddr (Fld.redChDesc.base ch) + 64 * (seq.toNat % 2 ^ (s.rd (Fld.redChDesc.ringLog2 ch) + 4))

/-- Fields of a bucket descriptor (R92). -/
def bucketDesc (b : List Byte) : BucketDesc :=
  let g (i n : Nat) : Nat := fieldLE b i n
  let fl := g 14 2
  { step := BitVec.ofNat 64 (g 0 8), seq := BitVec.ofNat 32 (g 8 4), gather := bits (g 12 1) 0 2 == 1, fmt := BitVec.ofNat 4 (g 13 1),
    bf16 := bitAt fl 0, card := bitAt fl 1, direct := bitAt fl 2, lastOfStep := bitAt fl 3, e := bits (g 16 8) 0 48, src := g 24 8,
    scale := g 32 8, result := g 40 8 }

/-- The descriptor breaks R92, or disagrees with the channel, or names a port that takes no piece (R138). -/
def State.bucketBad (s : State) (ch : Nat) (b : List Byte) (seq : W32) : Bool :=
  let g (i n : Nat) : Nat := fieldLE b i n
  let d := bucketDesc b
  let op := g 12 1
  let fmt := g 13 1
  d.seq != seq || 2 ≤ op || 16 ≤ fmt || 16 ≤ g 14 2 || 2 ^ 48 ≤ g 16 8 || g 50 6 != 0 || d.bf16 != (s.chCfg ch).bf16 ||
  (if d.gather then fmt != 1 && fmt != 2 && fmt != 4 else 9 < fmt || (isMx fmt && d.e % 32 != 0) || (!isMx fmt && d.scale != 0)) ||
  (d.gather && (d.direct || d.scale != 0)) || (d.direct && (8 ≤ d.result || !s.rdB (Fld.fulPortCfg.enable (d.result % 8))))

/-- Own piece of a bucket. -/
def State.ownPiece (s : State) (ch : Nat) (b : Bucket) : Nat × Nat := let c := s.chCfg ch; c.piece b.desc.e c.own

/-- Elements of the ranges landed. -/
def Bucket.landedElems (b : Bucket) : Nat := b.landed.foldl (fun n r => n + r.2) 0

/-- Every element of a range has been written to RESULT_ADDR. -/
def Bucket.hasRange (b : Bucket) (rg : Nat × Nat) : Bool :=
  (b.landed.map (fun l => min rg.2 (l.1 + l.2) - max rg.1 l.1)).foldl (· + ·) 0 == rg.2 - rg.1

/-- Every element of this device's result is known. -/
def State.bucketFull (s : State) (ch : Nat) (b : Bucket) : Bool :=
  if b.desc.gather then b.landedElems == b.desc.e
  else let p := s.ownPiece ch b; b.finals.length == p.2 - p.1

/-- Elements of a copied piece that are here. -/
def Bucket.copiedOf (b : Bucket) (rg : Nat × Nat) : SMap W32 := b.copied.filter (fun e => rg.1 ≤ e.1 && e.1 < rg.2)

/-- Every copy that began to arrive is here whole. A holder knows of no copy before its first fragment, so its bucket waits for no other
(DESIGN CHOICE, assumption 121). -/
def State.copyFull (s : State) (ch : Nat) (b : Bucket) : Bool :=
  b.copies.all (fun p => let rg := (s.chCfg ch).piece b.desc.e p; (b.copiedOf rg).length == rg.2 - rg.1)

/-- The bucket's piece has been delivered, or never will be. -/
def State.delivered (s : State) (ch : Nat) (b : Bucket) : Bool := b.dead || b.completed || (s.bucketFull ch b && b.undel.isEmpty && b.hold.isEmpty)

/-! ## Sending -/

/-- Has gone (R90): every frame has been handed to the egress. -/
def State.checkGone (s : State) (ch : Nat) (seq : W32) : State :=
  match s.bucket ch seq with
  | some b =>
    if !b.gone && b.xfers.all (fun x => x.left == 0) then
      let s := s.putBucket ch { b with gone := true }
      s.putChan ch { s.chan ch with goneTick := s.now }
    else s
  | none => s

/-- Take the next frame of a transfer: its tag and generation, and whether it is the last; a unicast transfer's tag then waits for the
link-level acknowledgement. -/
def State.takeXfer (s : State) (ch : Nat) (seq : W32) (stage copy : Bool) (slice : Nat) (dest : Dest) :
    Option ((Nat × BitVec 4 × Bool) × State) :=
  match s.bucket ch seq with
  | none => none
  | some b =>
    let hit (x : Xfer) : Bool := x.stage == stage && x.copy == copy && x.slice == slice && x.dest == dest && x.left != 0
    match b.xfers.find? hit with
    | none => none
    | some x =>
      let s := s.putBucket ch { b with xfers := b.xfers.map (fun y => if hit y then { y with left := y.left - 1 } else y) }
      let last := x.left == 1
      let t := s.red.tags
      let s := if last && dest != .rackGroup then
          { s with red := { s.red with tags := { t with lastSent := t.lastSent ++ [x.tag] } } }
        else s
      some ((x.tag, x.gen, last), s)

/-- Send one data frame of a bucket on its transfer; `leaf` is that of its source at the egress: the slice whose frame caused it, or the
core (R72). -/
def State.redSend (s : State) (ch : Nat) (seq : W32) (stage copy : Bool) (slice : Nat) (dest : Dest) (ty : BitVec 8) (f : Frame)
    (leaf : Nat := 42) : State :=
  match s.takeXfer ch seq stage copy slice dest, s.bucket ch seq with
  | some ((tag, gen, last), s), some b =>
    let s := s.send (some slice) dest ty
      { f with
        stage := stage, last := last, channel := BitVec.ofNat 5 ch, tag := BitVec.ofNat 20 tag, gen := gen, seq := seq,
        stepLo := BitVec.ofNat 32 b.desc.step.toNat } leaf
    s.checkGone ch seq
  | _, _ => s

/-- A control frame of a bucket (R113). -/
def bucketFrame (ch : Nat) (seq stepLo : W32) (f : Frame) (payload : List Byte) : Frame :=
  ctlFrame { f with channel := BitVec.ofNat 5 ch, seq := seq, stepLo := stepLo } payload

/-- Send abort notices (R104): to the Warden, the ring neighbours, and the other racks at this ring position; not back to `from'`. A notice
to this engine's own Warden role needs no frame: `Red.ownAbort` stands for it. -/
def State.sendAborts (s : State) (ch : Nat) (seq stepLo : W32) (st : Status) (from' : Option (BitVec 10 × BitVec 7)) : State :=
  let s := if s.wardenPos == s.myPos then { s with red := { s.red with ownAbort := true } } else s
  let c := s.chCfg ch
  let f := bucketFrame ch seq stepLo {} (leBytes 2 st.toNat ++ zeros 6)
  let one (s : State) (p : BitVec 7) : State :=
    if from' == some (s.myRack, p) || p == s.myPos then s else s.sendTo s.myRack p Ty.bucketAbort f
  let s := ([s.wardenPos, c.next, c.prev].eraseDups).foldl one s
  ((List.range c.r).filter (fun q => q != c.x && from'.map (fun m => m.1.toNat) != some q)).foldl
    (fun s q => s.send none (s.soDest c q) Ty.bucketAbort f) s

/-! ## Completion in SEQ order (R100) -/

/-- Error bit of a bucket's status. -/
def State.redErr (s : State) (st : Status) : State :=
  if st = St.lengthShort then s.raise Fld.redErrStatus.lenShort
  else if st = St.lengthLong then s.raise Fld.redErrStatus.lenLong
  else if st = St.crcMismatch then s.raise Fld.redErrStatus.crc
  else if st = St.memUncorrectable then s.raise Fld.redErrStatus.memUe
  else if st = St.nonfinite then s.raise Fld.redErrStatus.nonfinite
  else if st = St.contribLate then s.raise Fld.redErrStatus.contribLate
  else s

/-- Lowest index with a non-finite value. -/
def firstNf (m : SMap W32) : Option Nat := (m.find? (fun e => nonFinite32 e.2)).map (·.1)

/-- Smaller of two optional indices: where the own piece and a copy both hold a non-finite value, the lowest of all is reported (DESIGN
CHOICE, assumption 123: the manual gives each report its own piece). -/
def minOpt : Option Nat → Option Nat → Option Nat
  | some a, some b => some (min a b)
  | some a, none => some a
  | none, b => b

/-- A first non-finite element is recorded, unless an unread record is held (R101). -/
def State.nfLog (s : State) (ch : Nat) (seq : W32) (nf : Option Nat) : State :=
  match nf with
  | some i =>
    if s.rdB Fld.redNfLog.valid then s
    else (((s.wr Fld.redNfLog.index i).wr Fld.redNfLog.channel ch).wr Fld.redNfLog.valid 1).setReg Reg.redNfSeq (BitVec.ofNat 64 seq.toNat)
  | none => s

/-- FIRST_NF as it is written back (R92). -/
def nfWord (nf : Option Nat) : Nat := match nf with | some i => i + 2 ^ 63 | none => 0

/-- What an abort of a bucket means for the vote of its step: the step is skipped, and a LAST_OF_STEP bucket has ended (R102). -/
def State.voteAbort (s : State) (ch : Nat) (b : Bucket) : State :=
  s.onVote b.desc.step (fun v =>
    { v with skip := true, ended := if b.desc.lastOfStep then v.ended ||| BitVec.ofNat 32 (2 ^ ch) else v.ended })

/-- Write back a bucket and produce its done count. What an abort means for the vote has been marked at the abort. -/
def State.bucketEnd (s : State) (ch : Nat) (b : Bucket) (st : Status) (nf : Option Nat) : State :=
  let x := s.chan ch
  let s := s.putChan ch { x with lastStatus := st }
  let s := s.store' (s.redDescAt ch b.seq + 48) (leBytes 2 st.toNat ++ zeros 6 ++ leBytes 8 (nfWord nf))
  let s := s.redErr st
  let s := if b.late && !b.dead then s.bump Fld.redCounts.backupTaken else s
  let s := s.nfLog ch b.seq nf
  let s := if nf.isSome then s.onVote b.desc.step (fun v => { v with skip := true }) else s
  let s := if b.desc.lastOfStep && !b.dead then s.onVote b.desc.step (fun v => { v with ended := v.ended ||| BitVec.ofNat 32 (2 ^ ch) }) else s
  (s.produce (s.rd (Fld.redChSync.donePair ch)) 1 (.channel ch)).1

/-- Drop the records of buckets that are over in every way. -/
def State.sweep (s : State) (ch : Nat) : State :=
  let x := s.chan ch
  s.putChan ch { x with running := x.running.filter (fun b => !(b.completed && b.gone && b.mcast.isEmpty && s.copyFull ch b)) }

/-- Aborted buckets at the head of the order complete, started ones first, then those only consumed, each once the done count of the bucket
before it has been produced. -/
def State.flushOverN (ch : Nat) : Nat → State → State
  | 0, s => s
  | n + 1, s =>
    let x := s.chan ch
    if s.unitHolds (.channel ch) then s
    else match x.running.find? (fun b => !b.completed) with
    | some b =>
      if b.dead then State.flushOverN ch n ((s.putBucket ch { b with completed := true }).bucketEnd ch b b.status none) else s
    | none =>
      match x.issued with
      | b :: t =>
        if b.dead then
          State.flushOverN ch n ((s.putChan ch { x with issued := t, nextSeq := b.seq + 1 }).bucketEnd ch b b.status none)
        else s
      | [] => s

def State.flushOver (s : State) (ch : Nat) : State :=
  (s.flushOverN ch ((s.chan ch).running.length + (s.chan ch).issued.length)).sweep ch

/-! ## Multicasts of an all-gather (R106, R107) -/

/-- Window of a multicast sender, bytes (R107, R114). -/
def mcastWindow : Nat := 168000

/-- Bytes of a multicast that a receiver has still to acknowledge: none if it has been dropped; all of them if it has not been heard of while
some receiver has not (`others` receivers in all; none names one not heard of). -/
def Mcast.owes (m : Mcast) (others : Nat) (pos : Option (BitVec 7)) : Nat :=
  match pos.bind (fun p => m.rcv.find? (fun r => r.pos == p)) with
  | some r => if r.dropped then 0 else m.sent - r.acked
  | none => if m.rcv.length < others then m.sent else 0

/-- The multicasts on a port, with the number of their receivers. -/
def State.portMcasts (s : State) (port : Nat) : List (Nat × Mcast) :=
  (List.range 32).flatMap (fun ch =>
    (s.chan ch).running.flatMap (fun b => (b.mcast.filter (fun m => m.port == port)).map (fun m => ((s.chCfg ch).n - 1, m))))

/-- Bytes that a receiver has still to acknowledge on a port, of every bucket of every channel. -/
def State.portOwes (s : State) (port : Nat) (pos : Option (BitVec 7)) : Nat :=
  (s.portMcasts port).foldl (fun a x => a + x.2.owes x.1 pos) 0

/-- Receivers known on a port. -/
def State.portRcvs (s : State) (port : Nat) : List (BitVec 7) := ((s.portMcasts port).flatMap (fun x => x.2.rcv.map (·.pos))).eraseDups

/-- So many bytes more fit in the window of every receiver of a port. -/
def State.windowFits (s : State) (port n : Nat) : Bool :=
  (none :: (s.portRcvs port).map some).all (fun p => s.portOwes port p + n ≤ mcastWindow)

/-- Send one multicast fragment of a port if it is complete and fits in the window. -/
def State.mcastOne (s : State) (ch : Nat) (seq : W32) (port : Nat) : Option State :=
  match s.bucket ch seq with
  | none => none
  | some b =>
    let es := b.desc.fmt.toNat
    match b.mcast.find? (fun m => m.port == port) with
    | none => none
    | some m =>
      match m.queue with
      | [] => none
      | (first, cnt) :: rest =>
        if !b.hasRange (first, first + cnt) || !s.windowFits port (cnt * es) then none
        else
          let m' := { m with queue := rest, sent := m.sent + cnt * es }
          let s := s.putBucket ch { b with mcast := b.mcast.map (fun y => if y.port == port then m' else y) }
          some (s.redSend ch seq false false port .rackGroup Ty.allGather
            { card := b.desc.card, offset := BitVec.ofNat 48 first, count := BitVec.ofNat 16 cnt,
              payload := s.load (b.desc.result + first * es) (cnt * es) })

def State.mcastPortN (ch : Nat) (seq : W32) (port : Nat) : Nat → State → State
  | 0, s => s
  | n + 1, s =>
    match s.mcastOne ch seq port with
    | some s => State.mcastPortN ch seq port n s
    | none => s

/-- Release the tag of a multicast that every receiver has acknowledged, or that has lost them all. -/
def State.mcastDone (s : State) (ch : Nat) (seq : W32) (port : Nat) : State :=
  match s.bucket ch seq with
  | none => s
  | some b =>
    match b.mcast.find? (fun m => m.port == port) with
    | none => s
    | some m =>
      let live := m.rcv.filter (fun r => !r.dropped)
      if m.queue.isEmpty && (s.chCfg ch).n - 1 ≤ m.rcv.length && live.all (fun r => r.done) then
        let s := s.releaseTags ((b.xfers.filter (fun x => x.dest == .rackGroup && x.slice == port)).map (·.tag))
        (s.putBucket ch { b with mcast := b.mcast.filter (fun y => y.port != port) }).sweep ch
      else s

/-- Push every multicast of a bucket as far as it goes. -/
def State.mcastPush (s : State) (ch : Nat) (seq : W32) : State :=
  match s.bucket ch seq with
  | none => s
  | some b => b.mcast.foldl (fun s m => (s.mcastPortN ch seq m.port m.queue.length).mcastDone ch seq m.port) s

/-- Push what other buckets multicast on a port, after its window has moved. -/
def State.mcastPort (s : State) (port : Nat) : State :=
  (List.range 32).foldl (fun s ch =>
    (s.chan ch).running.foldl (fun s b =>
      match b.mcast.find? (fun m => m.port == port) with
      | some m => (s.mcastPortN ch b.seq port m.queue.length).mcastDone ch b.seq port
      | none => s) s) s

/-! ## Delivery (R89, R100) -/

/-- The slice through which the fragment that completed a final one came: of the last ring step, or of the tree. -/
def State.finalSlice (s : State) (ch : Nat) (b : Bucket) (first : Nat) : Nat :=
  let c := s.chCfg ch
  let p := s.ownPiece ch b
  if c.r = 1 then c.ufl.getD ((first - p.1) / uflFrag c.pBytes % c.ufl.length) 0
  else c.so.getD ((first - p.1) / soFrag c.pBytes % c.so.length) 0

/-- Write or stream a final fragment of the own piece. -/
def State.deliverOne (s : State) (ch : Nat) (b : Bucket) (fr : Nat × List W32) : State :=
  let p := s.ownPiece ch b
  if b.desc.direct then s.portFeed (b.desc.result % 8) ch b.seq (fr.1 - p.1) fr.2 (s.finalSlice ch b fr.1)
  else s.store' (b.desc.result + 4 * (fr.1 - p.1)) (fr.2.flatMap (fun v => leBytes 4 v.toNat))

/-- Bytes of a copy or of an all-gather land at RESULT_ADDR; what an all-gather has landed may be sent on, and its sender hears of it. -/
def State.land (s : State) (ch : Nat) (seq : W32) (l : Landing) : State :=
  match s.bucket ch seq with
  | none => s
  | some b =>
    let s := s.store' (b.desc.result + l.off) l.bytes
    if !b.desc.gather then s
    else
      let es := max 1 b.desc.fmt.toNat
      let s := (s.putBucket ch { b with landed := b.landed ++ [(l.off / es, l.bytes.length / es)] }).mcastPush ch seq
      { s with acksOut := s.acksOut ++ l.ack.toList }

/-- Deliver what is here of a bucket whose turn has come. -/
def State.deliverB (s : State) (ch : Nat) (seq : W32) : State :=
  match s.bucket ch seq with
  | none => s
  | some b =>
    if b.dead then s
    else
      let s := s.putBucket ch { b with undel := [], hold := [] }
      let s := b.undel.foldl (fun s fr => s.deliverOne ch b fr) s
      b.hold.foldl (fun s l => s.land ch seq l) s

/-- Deliver the buckets in order, each once the one before it has been delivered. -/
def State.deliverN (ch : Nat) : List W32 → State → State
  | [], s => s
  | q :: t, s =>
    let s := s.deliverB ch q
    match s.bucket ch q with
    | some b => if s.delivered ch b then State.deliverN ch t s else s
    | none => State.deliverN ch t s

def State.deliver (s : State) (ch : Nat) : State := s.deliverN ch ((s.chan ch).running.map (·.seq))

/-- Hold bytes for RESULT_ADDR until the bucket's turn, and deliver what may be. -/
def State.holdFor (s : State) (ch : Nat) (seq : W32) (l : Landing) : State :=
  match s.bucket ch seq with
  | some b => (s.putBucket ch { b with hold := b.hold ++ [l] }).deliver ch
  | none => s

/-! ## Aborts (R104) -/

/-- A CARD all-gather that ends without its frames leaves its keep window incomplete (R109, R173). -/
def State.keepLost (s : State) (ch : Nat) (b : Bucket) : State :=
  if b.desc.gather && b.desc.card then s.keepEnd ch b.seq (BitVec.ofNat 32 b.desc.step.toNat) false 0 else s

/-- Abort the channel: nothing starts any more, and buckets consumed but not started complete with the status. -/
def State.abortChan (s : State) (ch : Nat) (st : Status) : State :=
  let live := (s.chan ch).issued.filter (fun b => !b.dead)
  let s := s.releaseTags (live.filterMap (·.fetch))
  let s := live.foldl (fun s b => (s.voteAbort ch b).keepLost ch b) s
  let x := s.chan ch
  (s.putChan ch
    { x with
      aborted := true, issued := x.issued.map (fun b => if b.dead then b else { b with dead := true, status := st, fetch := none }) }).flushOver ch

/-- Keep window of a channel for a bucket (R109). -/
def State.keepWindow (s : State) (ch : Nat) (b : Bucket) : Nat × Nat := (s.chCfg ch).piece b.desc.e (s.rd (Fld.redChKeep.keepPiece ch))

/-- Close a started bucket with a status: transfers, tags, port piece, keep window. -/
def State.closeBucket (s : State) (ch : Nat) (b : Bucket) (st : Status) : State :=
  let s := s.releaseTags (b.xfers.map (·.tag) ++ b.fetch.toList)
  let s := s.putBucket ch
    { b with
      dead := true, status := st, gone := true, xfers := [], rx := [], undel := [], hold := [], mcast := [], catchUp := [], fetch := none,
      fetchTo := none, copies := [] }
  let s := if b.desc.direct && !b.desc.gather then s.portAbort (b.desc.result % 8) ch b.seq st else s
  s.keepLost ch b

/-- The abort notice of a bucket is known from now on (R113). -/
def State.noticed (s : State) (ch : Nat) (seq stepLo : W32) : State :=
  { s with red := { s.red with notices := s.red.notices ++ [(BitVec.ofNat 5 ch, seq, stepLo)] } }

/-- Abort a bucket that has been consumed and not started, and with it the channel. -/
def State.abortIssued (s : State) (ch : Nat) (b : Bucket) (st : Status) : State :=
  let stepLo := BitVec.ofNat 32 b.desc.step.toNat
  let s := (s.logAbort Unit'.red ch b.seq.toNat 0 st).noticed ch b.seq stepLo
  (s.sendAborts ch b.seq stepLo st none).abortChan ch st

/-- Abort a started bucket and its channel, and tell the others. -/
def State.abortBucket (s : State) (ch : Nat) (seq : W32) (st : Status) (from' : Option (BitVec 10 × BitVec 7) := none) : State :=
  match s.bucket ch seq with
  | none => s
  | some b =>
    if b.dead || b.completed then s
    else
      let stepLo := BitVec.ofNat 32 b.desc.step.toNat
      let s := ((s.closeBucket ch b st).voteAbort ch b).logAbort Unit'.red ch seq.toNat 0 st
      let s := s.noticed ch seq stepLo
      let s := if from'.isSome then s.raise Fld.redErrStatus.abortNotice else s
      ((s.sendAborts ch seq stepLo st from').abortChan ch st).deliver ch

/-! ## Values -/

/-- FP32 value of a bucket's local contribution at an element. -/
def State.contrib (s : State) (b : Bucket) (e : Nat) : W32 :=
  if b.late then (kget b.backup e).getD 0 else s.redInput b.desc.fmt.toNat b.desc.src b.desc.scale e

/-- W of R98: a partial as it goes on the wire, as a number. -/
def State.wireValue (s : State) (ch : Nat) (b : Bucket) (stage sender e : Nat) (v : W32) : Nat :=
  if (s.chCfg ch).bf16 then srBf16 v (redDraw (s.getReg Reg.redSrSeed) b.desc.step ch stage b.seq sender e) else v.toNat

/-- Values of a partial frame's payload. -/
def partials (bf16 : Bool) (bs : List Byte) : List W32 :=
  if bf16 then (List.range (bs.length / 2)).map (fun i => toF32 0 (unpackF 8 7 true (fieldLE bs (2 * i) 2)))
  else (List.range (bs.length / 4)).map (fun i => BitVec.ofNat 32 (fieldLE bs (4 * i) 4))

/-- Payload of partials from an element on. -/
def State.partialPayload (s : State) (ch : Nat) (b : Bucket) (stage sender first : Nat) (vs : List W32) : List Byte :=
  let w := (s.chCfg ch).pBytes
  ((List.range vs.length).zip vs).flatMap (fun y => leBytes w (s.wireValue ch b stage sender (first + y.1) y.2))

/-! ## Result copies (R88) -/

/-- Replica holders of this device's piece. -/
def State.holders (s : State) (ch : Nat) : List (BitVec 10 × BitVec 7) :=
  ([Fld.redChRepl.holder0 ch, Fld.redChRepl.holder1 ch, Fld.redChRepl.holder2 ch].take (s.rd (Fld.redChRepl.count ch))).map
    (fun f => rackPos (s.rd f))

/-- Ports, fragment size and destination of the copies to a holder: one in another rack is reached through the rack table (R371). -/
def State.copyPorts (s : State) (ch : Nat) (h : BitVec 10 × BitVec 7) : List Nat × Nat × Dest :=
  let c := s.chCfg ch
  if h.1 == s.myRack then (c.ufl, 512, .pos h.1 h.2) else (c.so, 2048, s.soDest c h.1.toNat)

/-- Fragments of the copy to a holder that the elements `rg` complete. -/
def State.copyTo (s : State) (ch : Nat) (seq : W32) (rg : Nat × Nat) (leaf : Nat) (h : BitVec 10 × BitVec 7) : State :=
  match s.bucket ch seq with
  | none => s
  | some b =>
    let p := s.ownPiece ch b
    let (ports, size, dest) := s.copyPorts ch h
    let lo := (rg.1 - p.1) / size
    (List.range ((rg.2 - p.1 + size - 1) / size - lo)).foldl (fun s i =>
      let fr := frag p size (lo + i)
      let vs := (List.range (fr.2 - fr.1)).filterMap (fun k => kget b.finals (fr.1 + k))
      match ports[(lo + i) % ports.length]? with
      | some slice =>
        if vs.length == fr.2 - fr.1 then
          s.redSend ch seq (size == 2048) true slice dest Ty.resultCopy
            { offset := BitVec.ofNat 48 fr.1, count := BitVec.ofNat 16 vs.length, payload := vs.flatMap (fun v => leBytes 4 v.toNat) } leaf
        else s
      | none => s) s

/-- A fragment of the own piece's final result is known. -/
def State.gotFinal (s : State) (ch : Nat) (seq : W32) (first : Nat) (vs : List W32) (leaf : Nat) : State :=
  match s.bucket ch seq with
  | none => s
  | some b =>
    let fin := ((List.range vs.length).zip vs).foldl (fun m y => kset m (first + y.1) y.2) b.finals
    let s := s.putBucket ch { b with finals := fin, undel := b.undel ++ [(first, vs)] }
    ((s.holders ch).foldl (fun s h => s.copyTo ch seq (first, first + vs.length) leaf h) s).deliver ch

/-! ## The scale-out tree (R87) -/

/-- One scale-out fragment of a piece goes on once its local values and all its children's are here. -/
def State.treeAdvance (s : State) (ch : Nat) (seq : W32) (q f leaf : Nat) : State :=
  match s.bucket ch seq with
  | none => s
  | some b =>
    let c := s.chCfg ch
    let rg := c.piece b.desc.e (c.pos * c.r + q)
    let size := soFrag c.pBytes
    let fr := frag rg size f
    let t := c.tree q
    let mine := (List.range (fr.2 - fr.1)).filterMap (fun k => kget b.rackVals (fr.1 + k))
    let part (j : Nat) : Option (List W32) := (b.soPend.find? (fun x => x.piece == q && x.level == j && x.off == fr.1)).map (·.vals)
    let kids := (c.children t).map part
    if fr.2 ≤ fr.1 || mine.length ≠ fr.2 - fr.1 || kids.any Option.isNone then s
    else
      let v := kids.foldl (fun (a : List W32) k => (a.zip (k.getD [])).map (fun y => add32 y.1 y.2)) mine
      let s := s.putBucket ch
        { b with
          rackVals := b.rackVals.filter (fun e => e.1 < fr.1 || fr.2 ≤ e.1),
          soPend := b.soPend.filter (fun x => !(x.piece == q && x.off == fr.1)) }
      if t = 0 then s.gotFinal ch seq fr.1 v leaf
      else
        let j := lowBit t
        match c.so[f % c.so.length]? with
        | some slice =>
          s.redSend ch seq true false slice (s.soDest c ((c.x + c.r - 2 ^ j) % c.r)) Ty.partial'
            { pfmt := c.bf16, hop := BitVec.ofNat 8 j, offset := BitVec.ofNat 48 fr.1, count := BitVec.ofNat 16 v.length,
              payload := s.partialPayload ch b 1 t fr.1 v } leaf
        | none => s

/-- Rack-stage results of some elements of the own rack-chunk are known. -/
def State.gotRack (s : State) (ch : Nat) (seq : W32) (first : Nat) (vs : List W32) (leaf : Nat) : State :=
  match s.bucket ch seq with
  | none => s
  | some b =>
    let c := s.chCfg ch
    if c.r = 1 then s.gotFinal ch seq first vs leaf
    else
      let s := s.putBucket ch { b with rackVals := ((List.range vs.length).zip vs).foldl (fun m y => kset m (first + y.1) y.2) b.rackVals }
      let size := soFrag c.pBytes
      (List.range c.r).foldl (fun s q =>
        let rg := c.piece b.desc.e (c.pos * c.r + q)
        let lo := max first rg.1
        let hi := min (first + vs.length) rg.2
        if hi ≤ lo then s
        else
          let f0 := (lo - rg.1) / size
          (List.range ((hi - rg.1 + size - 1) / size - f0)).foldl (fun s i => s.treeAdvance ch seq q (f0 + i) leaf) s) s

/-! ## The ring (R85) -/

/-- Send fragment `f` of the partial of rack-chunk `k` at ring step `t`. -/
def State.ringSend (s : State) (ch : Nat) (seq : W32) (k t f : Nat) (vs : List W32) (leaf : Nat) : State :=
  match s.bucket ch seq with
  | none => s
  | some b =>
    let c := s.chCfg ch
    let fr := frag (c.chunk b.desc.e k) (uflFrag c.pBytes) f
    match c.ufl[f % c.ufl.length]? with
    | some slice =>
      s.redSend ch seq false false slice (.pos s.myRack c.next) Ty.partial'
        { pfmt := c.bf16, hop := BitVec.ofNat 8 t, offset := BitVec.ofNat 48 fr.1, count := BitVec.ofNat 16 vs.length,
          payload := s.partialPayload ch b 0 c.pos fr.1 vs } leaf
    | none => s

/-- A received fragment of ring step `t` is summed with the local contribution, and goes on or is the rack result. -/
def State.ringStep (s : State) (ch : Nat) (seq : W32) (t f : Nat) (vs : List W32) (leaf : Nat) : State :=
  match s.bucket ch seq with
  | none => s
  | some b =>
    let c := s.chCfg ch
    let k := (c.pos + 2 * c.n - 2 - t) % c.n
    let fr := frag (c.chunk b.desc.e k) (uflFrag c.pBytes) f
    let sum := ((List.range vs.length).zip vs).map (fun y => add32 y.2 (s.contrib b (fr.1 + y.1)))
    if t + 2 = c.n then s.gotRack ch seq fr.1 sum leaf else s.ringSend ch seq k (t + 1) f sum leaf

/-! ## Receiving data of a bucket -/

/-- Result of looking a frame up. -/
inductive Look where
  | started (b : Bucket)
  | early
  | stale
deriving DecidableEq, Repr

/-- Find the bucket of a frame: started, still to start, or neither (R91, R111). -/
def State.lookup (s : State) (f : Frame) : Look :=
  let ch := f.channel.toNat
  let x := s.chan ch
  match s.bucket ch f.seq with
  | some b => if !b.dead && BitVec.ofNat 32 b.desc.step.toNat == f.stepLo then .started b else .stale
  | none =>
    if s.rdB (Fld.redChCfg.enable ch) && !x.aborted && !s.halted && (f.seq - x.nextSeq).toNat < 2 ^ 31 then .early else .stale

/-- Bind the frame's tag to its transfer, or check that it bears the bound one (R111). -/
def Bucket.bindRx (b : Bucket) (ty : BitVec 8) (slice : Nat) (f : Frame) : Option Bucket :=
  match b.rx.find? (fun x => x.ty == ty && x.stage == f.stage && x.slice == slice && x.rack == f.srcRack && x.pos == f.srcPos) with
  | some x => if x.tag == f.tag && x.gen == f.gen && !x.closed then some b else none
  | none =>
    some { b with rx := b.rx ++ [{ ty := ty, stage := f.stage, slice := slice, rack := f.srcRack, pos := f.srcPos, tag := f.tag, gen := f.gen }] }

/-- What a data frame shows against its chunk: taken as fragment `i`, beyond the chunk's end, or no match. -/
inductive Place where
  | at' (i : Nat)
  | long
  | none'
deriving DecidableEq, Repr

/-- Place a frame of `cnt` elements at `off` in a range of fragments; `bytes` its payload length, `es` the element size (R84, R103). -/
def place (rg : Nat × Nat) (size es off cnt bytes : Nat) : Place :=
  if off < rg.1 then .none'
  else if rg.2 ≤ off || cnt * es ≠ bytes || rg.2 < off + cnt then .long
  else
    let i := (off - rg.1) / size
    let fr := frag rg size i
    if (off - rg.1) % size = 0 && off + cnt = fr.2 then .at' i else .none'

/-- Port of a set that carries what lies at an element of a range (R84). -/
def portAt (ports : List Nat) (rg : Nat × Nat) (size off : Nat) : Nat := ports.getD ((off - rg.1) / size % ports.length) 0

/-- Record a fragment as taken; none if it was taken before. -/
def Bucket.take' (b : Bucket) (key first : Nat) : Option Bucket :=
  if b.got.contains (key, first) then none else some { b with got := b.got ++ [(key, first)] }

/-- Discard beyond the chunk's end, and abort (R103). -/
def State.longFrame (s : State) (n ch : Nat) (seq : W32) : State := (s.bump (Fld.lnkDrop.long n)).abortBucket ch seq St.lengthLong

/-- Take a data frame of a transfer that is open here, or that it opens: a fragment not taken yet goes on to `act`, with the bucket as it
stands then; one beyond the chunk's end aborts the bucket; the rest is stale (R103, R111). -/
def State.takeData (s : State) (n : Nat) (ty : BitVec 8) (f : Frame) (b : Bucket) (port key : Nat) (p : Place)
    (act : Nat → Bucket → State → State) : State :=
  match b.bindRx ty port f, p with
  | none, _ | _, .none' => s.staleAt n
  | some _, .long => s.longFrame n f.channel.toNat f.seq
  | some b, .at' i =>
    match b.take' key f.offset.toNat with
    | none => s.staleAt n
    | some b => act i { b with arrival := s.now } s

/-- HOP of a ring partial fits the progress of its port: every fragment of the ring step before it on this port has been taken (R86, R111). -/
def State.hopReady (s : State) (ch : Nat) (b : Bucket) (t port : Nat) : Bool :=
  let c := s.chCfg ch
  let size := uflFrag c.pBytes
  let rg := c.chunk b.desc.e ((c.pos + 2 * c.n - 1 - t) % c.n)
  t = 0 || (List.range (frags rg size)).all (fun f => c.ufl.getD (f % c.ufl.length) 0 != port || b.got.contains (t - 1, rg.1 + f * size))

/-- A ring partial for a started bucket. -/
def State.ringIn (s : State) (n : Nat) (f : Frame) (b : Bucket) : State :=
  let ch := f.channel.toNat
  let c := s.chCfg ch
  let t := f.hop.toNat
  let size := uflFrag c.pBytes
  let rg := c.chunk b.desc.e ((c.pos + 2 * c.n - 2 - t) % c.n)
  let port := portAt c.ufl rg size f.offset.toNat
  if f.srcRack != s.myRack || f.srcPos != c.prev || c.n ≤ t + 1 || !s.hopReady ch b t port then s.staleAt n
  else
    s.takeData n Ty.partial' f b port t (place rg size c.pBytes f.offset.toNat f.count.toNat f.payload.length) fun i b s =>
      (s.putBucket ch b).ringStep ch f.seq t i (partials c.bf16 f.payload) n

/-- A scale-out partial for a started bucket. -/
def State.treeIn (s : State) (n : Nat) (f : Frame) (b : Bucket) : State :=
  let ch := f.channel.toNat
  let c := s.chCfg ch
  let t := f.hop.toNat
  let q := f.srcRack.toNat
  let off := f.offset.toNat
  let size := soFrag c.pBytes
  let whole := c.chunk b.desc.e c.pos
  let piece := ((List.range c.r).find? (fun p =>
    let rg := c.piece b.desc.e (c.pos * c.r + p); rg.1 ≤ off && off < rg.2)).getD c.r
  let rg := if piece < c.r then c.piece b.desc.e (c.pos * c.r + piece) else (whole.2, whole.2)
  if c.r ≤ q || q != (c.x + 2 ^ t) % c.r || q == c.x || (piece < c.r && !(c.children (c.tree piece)).contains t) then s.staleAt n
  else
    s.takeData n Ty.partial' f b (portAt c.so rg size off) (256 + t) (place rg size c.pBytes off f.count.toNat f.payload.length) fun i b s =>
      (s.putBucket ch { b with soPend := b.soPend ++ [{ piece := piece, level := t, off := off, vals := partials c.bf16 f.payload }] }).treeAdvance
        ch f.seq piece i n

/-- A reduce partial for a started bucket. -/
def State.partialIn (s : State) (n : Nat) (f : Frame) (b : Bucket) : State :=
  if b.desc.gather || b.completed || f.pfmt != (s.chCfg f.channel.toNat).bf16 || f.card then s.staleAt n
  else if f.stage then s.treeIn n f b else s.ringIn n f b

/-- A copy that came whole after its holder's own piece had completed: its first non-finite element is reported then (R101; DESIGN CHOICE,
assumption 124). -/
def State.lateCopy (s : State) (ch : Nat) (seq : W32) : State :=
  match s.bucket ch seq with
  | none => s
  | some b =>
    match firstNf b.copied with
    | none => s.sweep ch
    | some i =>
      if !b.completed || b.dead || b.lateReport || !s.copyFull ch b then s
      else
        let s := s.store' (s.redDescAt ch seq + 48) (leBytes 2 St.nonfinite.toNat ++ zeros 6 ++ leBytes 8 (nfWord (some i)))
        (((s.redErr St.nonfinite).nfLog ch seq (some i)).putBucket ch { b with lateReport := true }).sweep ch

/-- A result copy for a started bucket: a holder writes it as its own result (R88; assumption 10); it comes from the owner of the piece. -/
def State.copyIn (s : State) (n : Nat) (f : Frame) (b : Bucket) : State :=
  let ch := f.channel.toNat
  let c := s.chCfg ch
  let off := f.offset.toNat
  let piece := off / max 1 (c.u b.desc.e)
  let rg := c.piece b.desc.e piece
  let size := if f.stage then 2048 else 512
  let owner := if f.stage then piece / c.r == c.pos && f.srcRack.toNat == piece % c.r && piece % c.r != c.x
    else piece % c.r == c.x && f.srcRack == s.myRack && piece != c.own
  if b.desc.gather || f.pfmt || f.card || f.hop != 0 || !(owner || b.desc.e ≤ off) then s.staleAt n
  else
    s.takeData n Ty.resultCopy f b (portAt (if f.stage then c.so else c.ufl) rg size off) 1024 (place rg size 4 off f.count.toNat f.payload.length)
      fun _ b s =>
        let vs := partials false f.payload
        let cp := ((List.range vs.length).zip vs).foldl (fun m y => kset m (off + y.1) y.2) b.copied
        let s := s.putBucket ch { b with copies := if b.copies.contains piece then b.copies else b.copies ++ [piece], copied := cp }
        let s := if b.desc.direct then s else s.holdFor ch f.seq { off := 4 * (off - rg.1), bytes := f.payload }
        if b.completed then s.lateCopy ch f.seq else s

/-! ## All-gather (R106, R107) -/

/-- Bytes of a transfer's port that have been taken of a range, as the acknowledgement counts them. -/
def Bucket.ackBytes (b : Bucket) (ports : List Nat) (rg : Nat × Nat) (size es port : Nat) : Nat :=
  (b.got.filter (fun g => g.1 == 0 && rg.1 ≤ g.2 && g.2 < rg.2 && portAt ports rg size g.2 == port)).foldl
    (fun a g => a + (min size (rg.2 - g.2)) * es) 0

/-- An all-gather frame for a started bucket. -/
def State.gatherIn (s : State) (n : Nat) (f : Frame) (b : Bucket) : State :=
  let ch := f.channel.toNat
  let c := s.chCfg ch
  let es := b.desc.fmt.toNat
  let off := f.offset.toNat
  let q := f.srcRack.toNat
  let k := off / max 1 (c.r * c.u b.desc.e)
  let rg := if f.stage then c.piece b.desc.e (c.pos * c.r + q) else c.chunk b.desc.e k
  let ok := if f.stage then q < c.r && q != c.x else f.srcRack == s.myRack && k != c.pos && f.srcPos != s.myPos
  let size := if f.stage then soFrag es else uflFrag es
  let ports := if f.stage then c.so else c.ufl
  let port := portAt ports rg size off
  if !b.desc.gather || b.completed || f.pfmt || f.hop != 0 || !ok then s.staleAt n
  else
    s.takeData n Ty.allGather f b port (256 * b2n f.stage) (place rg size es off f.count.toNat f.payload.length) fun _ b s =>
      let ack : AckSent :=
        { rack := f.srcRack, pos := f.srcPos, channel := f.channel, seq := f.seq, slice := port, bytes := b.ackBytes ports rg size es port,
          last := f.last }
      let w := s.keepWindow ch b
      let s := s.putBucket ch b
      let s := if f.card then s.keepFrame n ch f.seq f.stepLo w.1 w.2 es off f.payload else s
      s.holdFor ch f.seq { off := off * es, bytes := f.payload, ack := if f.stage then none else some ack }

/-! ## Frames of buckets -/

/-- A result copy may come after its holder's own piece has completed: the bucket is then found again through its descriptor, which shows
that it completed and did not abort (R88; assumption 124). -/
def State.revive (s : State) (f : Frame) : State :=
  let ch := f.channel.toNat
  let x := s.chan ch
  let raw := s.load (s.redDescAt ch f.seq) 64
  let d := bucketDesc raw
  let st := BitVec.ofNat 16 (fieldLE raw 48 2)
  if (s.bucket ch f.seq).isNone && s.rdB (Fld.redChCfg.enable ch) && !x.aborted && !s.halted && 2 ^ 31 ≤ (f.seq - x.nextSeq).toNat &&
     d.seq == f.seq && BitVec.ofNat 32 d.step.toNat == f.stepLo && !d.gather && (st == St.success || st == St.contribLate) then
    s.putChan ch { x with running := { seq := f.seq, desc := d, completed := true, gone := true } :: x.running }
  else s

/-- Hold a frame for a bucket that has not started (R91), act on one that has, or drop it as stale. -/
def State.bucketIn (s : State) (n : Fin 42) (ty : BitVec 8) (f : Frame) : State :=
  let s := if ty = Ty.resultCopy then s.revive f else s
  match s.lookup f with
  | .stale => s.staleAt n
  | .early => { s with red := { s.red with waiting := s.red.waiting ++ [{ slice := n, ty := ty, frame := f }] } }
  | .started b =>
    if ty = Ty.partial' then s.partialIn n f b else if ty = Ty.resultCopy then s.copyIn n f b else s.gatherIn n f b

/-- A bucket that waits for the contribution of its backup worker. -/
def State.fetching (s : State) (ch : Nat) (seq : W32) : Option Bucket :=
  (s.chan ch).issued.find? (fun b => b.seq == seq && b.fetch.isSome && !b.dead)

/-- A frame with a wrong CRC aborts the transfer that its header names (R103). -/
def State.bucketBadCrc (s : State) (f : Frame) : State :=
  let ch := f.channel.toNat
  let hit (b : Bucket) : Bool := BitVec.ofNat 32 b.desc.step.toNat == f.stepLo
  match s.bucket ch f.seq, s.fetching ch f.seq with
  | some b, _ => if hit b then s.abortBucket ch f.seq St.crcMismatch else s
  | none, some b => if hit b then s.abortIssued ch b St.crcMismatch else s
  | none, none => s

def State.redFrame (s : State) (n : Fin 42) (ty : BitVec 8) (f : Frame) : State :=
  s.recv n ty f (fun s => if s.takesPart n then s.bucketIn n ty f else s.staleAt n) (fun s => s.bucketBadCrc f)

/-- REDUCE_PARTIAL_FRAME. -/
def doReducePartialFrame (n : Fin 42) (f : Frame) (s : State) : Out := .next (s.redFrame n Ty.partial' f)
/-- RESULT_COPY_FRAME. -/
def doResultCopyFrame (n : Fin 42) (f : Frame) (s : State) : Out := .next (s.redFrame n Ty.resultCopy f)
/-- ALL_GATHER_DATA_FRAME. -/
def doAllGatherDataFrame (n : Fin 42) (f : Frame) (s : State) : Out := .next (s.redFrame n Ty.allGather f)

/-! ## Issue (R90, R92, R105) -/

/-- A bucket consumed from the ring: good, or over with LENGTH_LONG. -/
def State.takeDesc (s : State) (ch : Nat) (seq : W32) (late : Bool) : State :=
  let x := s.chan ch
  let raw := s.load (s.redDescAt ch seq) 64
  let b : Bucket := { seq := seq, desc := bucketDesc raw, late := late }
  if s.bucketBad ch raw seq then
    let s := s.putChan ch { x with nextIssue := seq + 1, issued := x.issued ++ [{ b with dead := true, status := St.lengthLong, late := false }] }
    ((s.voteAbort ch b).keepLost ch b).abortIssued ch b St.lengthLong
  else s.putChan ch { x with nextIssue := seq + 1, issued := x.issued ++ [b] }

/-- The channel consumes issue counts now. -/
def State.chanServes (s : State) (ch : Nat) : Bool :=
  s.hw && !s.halted && s.rdB Fld.redCtrl.enable && s.rdB (Fld.redChCfg.enable ch) && !(s.chan ch).aborted

/-- BUCKET_ISSUE. -/
def doBucketIssue (ch : Fin 32) (s : State) : Out :=
  if !s.chanServes ch then .next s
  else match s.takeCount (s.rd (Fld.redChSync.issuePair ch)) with
    | none => .next s
    | some s =>
      let x := s.chan ch
      match x.lateSeqs with
      | _ :: t => .next ((s.putChan ch { x with lateSeqs := t }).bump Fld.redCounts.lateDiscard)
      | [] => .next (s.takeDesc ch x.nextIssue false)

/-! ## Start (R91) -/

/-- Transfers that a bucket opens: stage, copy, slice, destination, frames. -/
def State.plan (s : State) (ch : Nat) (b : Bucket) : List (Bool × Bool × Nat × Dest × Nat) :=
  let c := s.chCfg ch
  let e := b.desc.e
  let across (ports : List Nat) (m : List Nat) (mk : Nat → Nat → Bool × Bool × Nat × Dest × Nat) : List (Bool × Bool × Nat × Dest × Nat) :=
    ((List.range ports.length).map (fun i =>
      mk (ports.getD i 0) ((m.map (fun k => onPort k ports.length i)).foldl (· + ·) 0))).filter (fun x => x.2.2.2.2 != 0)
  if b.desc.gather then
    let es := b.desc.fmt.toNat
    let mine := frags (c.piece e c.own) (soFrag es)
    let so := ((List.range c.r).filter (· != c.x)).flatMap (fun q =>
      across c.so [mine] (fun p m => (true, false, p, s.soDest c q, m)))
    so ++ across c.ufl [frags (c.chunk e c.pos) (uflFrag es)] (fun p m => (false, false, p, .rackGroup, m))
  else
    let ring := across c.ufl ((List.range (c.n - 1)).map (fun t => frags (c.chunk e ((c.pos + 2 * c.n - 1 - t) % c.n)) (uflFrag c.pBytes)))
      (fun p m => (false, false, p, .pos s.myRack c.next, m))
    let tree := (List.range 10).flatMap (fun j =>
      let qs := (List.range c.r).filter (fun q => c.tree q != 0 && lowBit (c.tree q) == j)
      across c.so (qs.map (fun q => frags (c.piece e (c.pos * c.r + q)) (soFrag c.pBytes)))
        (fun p m => (true, false, p, s.soDest c ((c.x + c.r - 2 ^ j) % c.r), m)))
    let copies := (s.holders ch).flatMap (fun h =>
      let (ports, size, dest) := s.copyPorts ch h
      across ports [frags (c.piece e c.own) size] (fun p m => (size == 2048, true, p, dest, m)))
    ring ++ tree ++ copies

/-- Open the transfers, taking all tags in one step. -/
def State.openXfers : List (Bool × Bool × Nat × Dest × Nat) → State → List Xfer × State
  | [], s => ([], s)
  | (stage, copy, slice, dest, m) :: t, s =>
    let ((tag, gen), s) := s.allocTag
    let (l, s) := State.openXfers t s
    ({ tag := tag, gen := gen, stage := stage, copy := copy, slice := slice, dest := dest, left := m } :: l, s)

/-- First frames of a reduce bucket: the own contribution of the chunk of ring step 0. -/
def State.startReduce (s : State) (ch : Nat) (seq : W32) : State :=
  match s.bucket ch seq with
  | none => s
  | some b =>
    let c := s.chCfg ch
    let k := (c.pos + c.n - 1) % c.n
    let rg := c.chunk b.desc.e k
    let size := uflFrag c.pBytes
    (List.range (frags rg size)).foldl (fun s f =>
      let fr := frag rg size f
      s.ringSend ch seq k 0 f ((List.range (fr.2 - fr.1)).map (fun i => s.contrib b (fr.1 + i))) 42) s

/-- First frames of an all-gather: the own piece lands here, and goes to the other racks. -/
def State.startGather (s : State) (ch : Nat) (seq : W32) : State :=
  match s.bucket ch seq with
  | none => s
  | some b =>
    let c := s.chCfg ch
    let es := b.desc.fmt.toNat
    let p := c.piece b.desc.e c.own
    let chunk := c.chunk b.desc.e c.pos
    let k := c.ufl.length
    let queue (i : Nat) : List (Nat × Nat) :=
      ((List.range (frags chunk (uflFrag es))).filter (fun f => f % k == i)).map (fun f =>
        let fr := frag chunk (uflFrag es) f; (fr.1, fr.2 - fr.1))
    let ms : List Mcast := ((List.range k).map (fun i => { port := c.ufl.getD i 0, queue := queue i, started := s.now : Mcast })).filter
      (fun m => !m.queue.isEmpty)
    let s := s.putBucket ch { b with mcast := ms }
    let bytes := if b.late then (List.range (p.2 - p.1)).flatMap (fun i => leBytes es ((kget b.backup (p.1 + i)).getD 0).toNat)
      else s.load b.desc.src ((p.2 - p.1) * es)
    let s := (List.range c.r).foldl (fun s q =>
      if q = c.x then s
      else (List.range (frags p (soFrag es))).foldl (fun s f =>
        let fr := frag p (soFrag es) f
        match c.so[f % c.so.length]? with
        | some slice =>
          s.redSend ch seq true false slice (s.soDest c q) Ty.allGather
            { card := b.desc.card, offset := BitVec.ofNat 48 fr.1, count := BitVec.ofNat 16 (fr.2 - fr.1),
              payload := (bytes.drop ((fr.1 - p.1) * es)).take ((fr.2 - fr.1) * es) }
        | none => s) s) s
    if p.1 < p.2 then s.holdFor ch seq { off := p.1 * es, bytes := bytes } else s

/-- Elements that a backup worker supplies: the whole contribution of a reduce bucket, or the own piece of an all-gather. -/
def State.backupRange (s : State) (ch : Nat) (b : Bucket) : Nat × Nat := if b.desc.gather then s.ownPiece ch b else (0, b.desc.e)

/-- The contribution of a late bucket is here. -/
def State.bucketReady (s : State) (ch : Nat) (b : Bucket) : Bool :=
  !b.late || (let rg := s.backupRange ch b; b.backup.length == rg.2 - rg.1)

/-- Every slice that a bucket sends on has its Causeway open (R51). -/
def State.planOpen (s : State) (plan : List (Bool × Bool × Nat × Dest × Nat)) : Bool := plan.all (fun x => s.takesPart x.2.2.1)

/-- BUCKET_START. A bucket that would send through a closed Causeway aborts (R51, R56), with a status that the manual does not name
(assumption 34). -/
def doBucketStart (ch : Fin 32) (s : State) : Out :=
  let x := s.chan ch
  match x.issued with
  | [] => .next s
  | b :: rest =>
    let prevGone := x.running.all (fun p => p.gone)
    if !s.chanServes ch || b.dead || b.seq != x.nextSeq || !prevGone || !s.bucketReady ch b then .next s
    else
      let plan := s.plan ch b
      if !s.planOpen plan then let (k, s) := s.pickFree 65536; .next (s.abortIssued ch b (BitVec.ofNat 16 k))
      else if s.red.tags.freeCount < plan.length then
        if b.tagWait then .next s
        else .next ((s.putChan ch { x with issued := { b with tagWait := true } :: rest }).bump Fld.redTags.waits)
      else
        let (xs, s) := State.openXfers plan s
        let own := s.ownPiece ch b
        let s := s.putChan ch
          { x with issued := rest, nextSeq := b.seq + 1, running := x.running ++ [{ b with xfers := xs, arrival := s.now }] }
        let s := if b.desc.direct then
            let p := b.desc.result % 8
            s.putPort p { s.port p with pieces := (s.port p).pieces ++ [{ ch := ch, seq := b.seq, first := own.1, len := own.2 - own.1 }] }
          else s
        let s := if b.desc.gather then s.startGather ch b.seq else s.startReduce ch b.seq
        let s := s.checkGone ch b.seq
        let mine (w : Waiting) : Bool := w.frame.channel.toNat == ch.val && w.frame.seq == b.seq
        let ws := s.red.waiting.filter mine
        let s := { s with red := { s.red with waiting := s.red.waiting.filter (fun w => !mine w) } }
        .next (ws.foldl (fun s w => s.bucketIn w.slice w.ty w.frame) s)

/-! ## Completion (R100, R101) -/

/-- Status of a bucket whose data is complete: where both hold, the manual does not say whether NONFINITE or the earlier status stands. -/
def State.doneStatus (s : State) (b : Bucket) (nf : Option Nat) : Status × State :=
  let st := if b.status ≠ 0 then b.status else if b.late then St.contribLate else St.success
  if nf.isNone then (st, s)
  else if st = St.success then (St.nonfinite, s)
  else let (k, s) := s.pickBool; (if k then St.nonfinite else st, s)

/-- BUCKET_COMPLETE: the first started bucket of the channel that has not written back. -/
def doBucketComplete (ch : Fin 32) (s : State) : Out :=
  if !s.hw || s.unitHolds (.channel ch) then .next s
  else match (s.chan ch).running.find? (fun b => !b.completed) with
    | none => .next (s.flushOver ch)
    | some b =>
      if b.dead then .next (s.flushOver ch)
      else if !s.bucketFull ch b || !s.copyFull ch b || !b.undel.isEmpty || !b.hold.isEmpty || !b.catchUp.isEmpty ||
         (b.desc.direct && !b.desc.gather && !s.pieceIn (b.desc.result % 8) ch b.seq) then .next s
      else
        let nf := if b.desc.gather then none else minOpt (firstNf b.finals) (firstNf b.copied)
        let (st, s) := s.doneStatus b nf
        let s := (s.putBucket ch { b with completed := true }).bucketEnd ch b st nf
        let w := s.keepWindow ch b
        let s := if b.desc.gather && b.desc.card then
            s.keepEnd ch b.seq (BitVec.ofNat 32 b.desc.step.toNat) true ((w.2 - w.1) * b.desc.fmt.toNat)
          else s
        .next ((s.sweep ch).flushOver ch)

/-! ## Watchdogs (R103, R105) -/

/-- A started bucket waits for data. -/
def State.bucketWaits (s : State) (ch : Nat) (b : Bucket) : Bool :=
  !b.dead && !b.completed && !(s.bucketFull ch b && s.copyFull ch b && b.catchUp.isEmpty)

/-- The first bucket of a channel whose stream watchdog has expired (R103): a started one that waits for data, or one that waits for the
contribution of its backup worker (R113). -/
def State.streamLate (s : State) (ch : Nat) : Option Bucket :=
  let late (b : Bucket) : Bool := s.elapsed b.arrival (usTicks (s.rd Fld.redWd.streamWdUs))
  match (s.chan ch).running.find? (fun b => s.bucketWaits ch b && late b) with
  | some b => some b
  | none => (s.chan ch).issued.find? (fun b => b.fetch.isSome && !b.dead && late b)

/-- The data of a bucket has just arrived. -/
def State.streamAgain (s : State) (ch : Nat) (seq : W32) : State :=
  let x := s.chan ch
  let f (b : Bucket) : Bucket := if b.seq == seq then { b with arrival := s.now } else b
  s.putChan ch { x with issued := x.issued.map f, running := x.running.map f }

/-- REDUCTION_STREAM_WATCHDOG. -/
def doReductionStreamWatchdog (ch : Fin 32) (race : Race) (s : State) : Out :=
  match s.streamLate ch with
  | none => .next s
  | some b =>
    if !s.hw then .next s
    else
      let s := s.logRace Unit'.red b.seq.toNat Wd.redStream race
      if race = .arrivalWon then .next (s.streamAgain ch b.seq)
      else if (s.bucket ch b.seq).isSome then .next (s.abortBucket ch b.seq St.lengthShort)
      else .next (s.abortIssued ch b St.lengthShort)

/-- Send a fetch request for a range (R113). -/
def State.fetchReq (s : State) (ch : Nat) (seq stepLo : W32) (tag : Nat) (gen : BitVec 4) (rack : BitVec 10) (pos : BitVec 7) (stage : Bool)
    (rg : Nat × Nat) : State :=
  s.sendTo rack pos Ty.fetchRequest
    (bucketFrame ch seq stepLo { stage := stage, tag := BitVec.ofNat 20 tag, gen := gen } (leBytes 6 rg.1 ++ zeros 2 ++ leBytes 6 rg.2 ++ zeros 2))

/-- Ask the backup worker for the contribution of a bucket just consumed in its place: one fetch for one transfer; an all-gather's STAGE is 1,
which names the piece (assumption 125). -/
def State.fetchBackup (s : State) (ch : Nat) (b : Bucket) : State :=
  let rg := s.backupRange ch b
  if rg.2 ≤ rg.1 then s
  else
    let ((tag, gen), s) := s.allocTag
    let x := s.chan ch
    let s := s.putChan ch
      { x with issued := x.issued.map (fun c => if c.seq == b.seq then { c with fetch := some tag, arrival := s.now } else c) }
    s.fetchReq ch b.seq (BitVec.ofNat 32 b.desc.step.toNat) tag gen s.myRack (BitVec.ofNat 7 (s.rd (Fld.redChBackup.backupPos ch)))
      b.desc.gather (rg.1, rg.2 - rg.1)

/-- CONTRIB_WATCHDOG_EXPIRY. The fetched contribution counts as the issue, so the member reads the descriptor of that SEQ in its own ring; the
manual does not say that it stands there before the local issue, and where it does not the bucket ends as any with a bad descriptor (DESIGN
CHOICE, assumption 126). -/
def doContribWatchdogExpiry (ch : Fin 32) (race : Race) (s : State) : Out :=
  let x := s.chan ch
  let us := s.rd Fld.redWd.contribWdUs
  if !s.chanServes ch || !s.rdB (Fld.redChBackup.backupEn ch) || us = 0 || !x.issued.isEmpty || x.running.any (fun b => !b.gone) ||
     !s.elapsed x.goneTick (usTicks us) || s.red.tags.freeCount = 0 then .next s
  else
    let seq := x.nextIssue
    let s := s.logRace Unit'.red seq.toNat Wd.contrib race
    if race = .arrivalWon then .next s
    else
      let s := s.putChan ch { x with lateSeqs := x.lateSeqs ++ [seq] }
      let s := s.takeDesc ch seq true
      match (s.chan ch).issued.find? (fun b => b.seq == seq && !b.dead) with
      | none => .next s
      | some b => .next (s.fetchBackup ch b)

/-! ## Fetches (R105, R108, R113) -/

/-- Bytes of a fetch answer: `m` elements from an element on; those of an MX format bring their scales behind them (R113 names none:
assumption 127). -/
def State.fetchBytes (s : State) (d : BucketDesc) (base wd a m : Nat) : List Byte :=
  s.load (base + a * wd / 8) ((m * wd + 7) / 8) ++
    (if !d.gather && isMx d.fmt.toNat then s.load (d.scale + a / 32) ((m + 31) / 32) else [])

/-- FETCH_REQUEST_FRAME: answer with the named elements: of the local contribution of a reduce bucket, or of the own rack-chunk or piece of
an all-gather. What is named is sent at once as it stands, complete or not (DESIGN CHOICE, assumption 128). -/
def State.fetchServe (s : State) (f : Frame) : State :=
  let ch := f.channel.toNat
  let c := s.chCfg ch
  let d := bucketDesc (s.load (s.redDescAt ch f.seq) 64)
  let first := fieldLE f.payload 0 6
  let cnt := fieldLE f.payload 8 6
  let wd := if d.gather then d.fmt.toNat * 8 else elemBits d.fmt.toNat
  let own := d.gather && f.stage
  let base := if d.gather && !own then d.result else d.src
  let rg := if !d.gather then (0, d.e) else if own then c.piece d.e c.own else c.chunk d.e c.pos
  let at0 := if own then rg.1 else 0
  if d.seq != f.seq || BitVec.ofNat 32 d.step.toNat != f.stepLo || first < rg.1 || rg.2 < first + cnt || cnt = 0 then s
  else
    let size := if !d.gather && isMx d.fmt.toNat then 1024 else uflFrag (max 1 ((wd + 7) / 8))
    (List.range ((cnt + size - 1) / size)).foldl (fun s i =>
      let a := first + i * size
      let m := min size (first + cnt - a)
      s.sendTo f.srcRack f.srcPos Ty.fetchData
        { stage := f.stage, last := a + m = first + cnt, channel := f.channel, tag := f.tag, gen := f.gen, seq := f.seq, stepLo := f.stepLo,
          offset := BitVec.ofNat 48 a, count := BitVec.ofNat 16 m, payload := s.fetchBytes d base wd (a - at0) m }) s

def doFetchRequestFrame (n : Fin 42) (f : Frame) (s : State) : Out :=
  .next (s.recv n Ty.fetchRequest f fun s =>
    if s.rdB (Fld.redChCfg.enable f.channel.toNat) && f.payload.length = 16 then s.fetchServe f else s.staleAt n)

/-- Bytes that `cnt` elements of a backup worker take in a frame. -/
def BucketDesc.backupBytes (d : BucketDesc) (cnt : Nat) : Nat :=
  if d.gather then cnt * d.fmt.toNat
  else (cnt * elemBits d.fmt.toNat + 7) / 8 + (if isMx d.fmt.toNat then (cnt + 31) / 32 else 0)

/-- Elements of a backup worker as they come (R105): of an all-gather, numbers; of a reduce bucket, FP32 values. -/
def BucketDesc.backupVals (d : BucketDesc) (first cnt : Nat) (bs : List Byte) : List (Nat × W32) :=
  let fmt := d.fmt.toNat
  let w := elemBits fmt
  (List.range cnt).map (fun i =>
    if d.gather then (first + i, BitVec.ofNat 32 (fieldLE bs (i * fmt) fmt))
    else
      let x := elemValue fmt (bits (leNat ((bs.drop (i * w / 8)).take 5)) (i * w % 8) w)
      (first + i, toF32 0 (if isMx fmt then scaled (fieldLE bs ((cnt * w + 7) / 8 + i / 32) 1) x else x)))

/-- Take a range out of the ranges still to be fetched. -/
def cutRange (a n : Nat) (l : List (Nat × Nat)) : List (Nat × Nat) :=
  l.flatMap (fun r =>
    if a + n ≤ r.1 || r.1 + r.2 ≤ a then [r]
    else (if r.1 < a then [(r.1, a - r.1)] else []) ++ (if a + n < r.1 + r.2 then [(a + n, r.1 + r.2 - a - n)] else []))

/-- A fetch has brought all it named: its tag waits for the link-level acknowledgement of LAST (R110). -/
def State.fetchOver (s : State) (tag : Nat) : State :=
  { s with red := { s.red with tags := { s.red.tags with lastSent := s.red.tags.lastSent ++ [tag] } } }

/-- The frame bears the tag and generation of a fetch, and the step of its bucket (R111). -/
def State.fetchMatch (s : State) (f : Frame) (b : Bucket) : Bool :=
  b.fetch == some f.tag.toNat && (kget s.red.tags.gens f.tag.toNat).getD 0 == f.gen && BitVec.ofNat 32 b.desc.step.toNat == f.stepLo

/-- Data of a backup worker for a bucket that waits for it (R105). -/
def State.backupIn (s : State) (n : Nat) (f : Frame) (b : Bucket) : State :=
  let ch := f.channel.toNat
  let rg := s.backupRange ch b
  let first := f.offset.toNat
  let cnt := f.count.toNat
  let from' := f.srcRack == s.myRack && f.srcPos.toNat == s.rd (Fld.redChBackup.backupPos ch)
  if !s.fetchMatch f b || f.stage != b.desc.gather || !from' || first < rg.1 then s.staleAt n
  else if f.payload.length ≠ b.desc.backupBytes cnt || rg.2 < first + cnt then
    (s.bump (Fld.lnkDrop.long n)).abortIssued ch b St.lengthLong
  else
    let m := (b.desc.backupVals first cnt f.payload).foldl (fun m y => kset m y.1 y.2) b.backup
    let all := m.length == rg.2 - rg.1
    let s := if all then s.fetchOver f.tag.toNat else s
    let x := s.chan ch
    s.putChan ch
      { x with
        issued := x.issued.map (fun c =>
          if c.seq == b.seq then { c with backup := m, arrival := s.now, fetch := if all then none else c.fetch } else c) }

/-- Data of a catch-up fetch (R108). -/
def State.catchUpIn (s : State) (n : Nat) (f : Frame) (b : Bucket) : State :=
  let ch := f.channel.toNat
  let first := f.offset.toNat
  let cnt := f.count.toNat
  let es := b.desc.fmt.toNat
  let want := b.catchUp.any (fun r => r.1 ≤ first && first < r.1 + r.2)
  if b.dead || b.completed || !s.fetchMatch f b || f.stage || f.srcRack != s.myRack || !want then s.staleAt n
  else if f.payload.length ≠ cnt * es || !b.catchUp.any (fun r => r.1 ≤ first && first + cnt ≤ r.1 + r.2) then s.longFrame n ch f.seq
  else
    let left := cutRange first cnt b.catchUp
    let s := if left.isEmpty then s.fetchOver f.tag.toNat else s
    let s := s.putBucket ch { b with arrival := s.now, catchUp := left, fetch := if left.isEmpty then none else b.fetch }
    s.holdFor ch f.seq { off := first * es, bytes := f.payload }

/-- FETCH_DATA_FRAME. -/
def doFetchDataFrame (n : Fin 42) (f : Frame) (s : State) : Out :=
  .next (s.recv n Ty.fetchData f (fun s =>
    match s.fetching f.channel.toNat f.seq, s.bucket f.channel.toNat f.seq with
    | some b, _ => s.backupIn n f b
    | none, some b => s.catchUpIn n f b
    | none, none => s.staleAt n) (fun s => s.bucketBadCrc f))

/-- Ask the sender of a multicast for what a bucket has still to catch up, as soon as a tag is free. -/
def State.fetchNow (s : State) (ch : Nat) (seq : W32) : State :=
  match s.bucket ch seq with
  | none => s
  | some b =>
    match b.fetchTo with
    | none => s
    | some (rack, pos) =>
      let ask (s : State) (tag : Nat) (gen : BitVec 4) : State :=
        b.catchUp.foldl (fun s r => s.fetchReq ch seq (BitVec.ofNat 32 b.desc.step.toNat) tag gen rack pos false r) s
      match b.fetch with
      | some t => ask (s.putBucket ch { b with fetchTo := none }) t ((kget s.red.tags.gens t).getD 0)
      | none =>
        if s.red.tags.freeCount = 0 then s
        else
          let ((tag, gen), s) := s.allocTag
          ask (s.putBucket ch { b with fetch := some tag, fetchTo := none }) tag gen

/-- DROP_NOTICE (R108): the transfer closes, and what is missing of it is fetched. A notice that comes before any frame of its transfer closes
it too, whatever TAG and GEN it bears, since nothing shows here which they are (DESIGN CHOICE, assumption 129). -/
def doDropNotice (n : Fin 42) (f : Frame) (s : State) : Out :=
  .next (s.recv n Ty.drop f fun s =>
    let ch := f.channel.toNat
    match s.bucket ch f.seq with
    | none => s.staleAt n
    | some b =>
      let c := s.chCfg ch
      let es := b.desc.fmt.toNat
      let low := fieldLE f.payload 0 6
      let k := low / max 1 (c.r * c.u b.desc.e)
      let rg := c.chunk b.desc.e k
      let size := uflFrag es
      let port := portAt c.ufl rg size low
      let mine (x : RxXfer) : Bool := x.ty == Ty.allGather && !x.stage && x.slice == port && x.rack == f.srcRack && x.pos == f.srcPos
      let open' := match b.rx.find? mine with
        | some x => x.tag == f.tag && x.gen == f.gen && !x.closed
        | none => true
      if b.dead || b.completed || !b.desc.gather || BitVec.ofNat 32 b.desc.step.toNat != f.stepLo || f.srcRack != s.myRack || k == c.pos ||
         rg.2 ≤ low || !open' then s.staleAt n
      else
        let gone : RxXfer :=
          { ty := Ty.allGather, stage := false, slice := port, rack := f.srcRack, pos := f.srcPos, tag := f.tag, gen := f.gen, closed := true }
        let miss := ((List.range (frags rg size)).filter (fun i => portAt c.ufl rg size (rg.1 + i * size) == port &&
            !b.got.contains (0, rg.1 + i * size))).map (fun i => let fr := frag rg size i; (fr.1, fr.2 - fr.1))
        let s := s.putBucket ch
          { b with
            rx := b.rx.filter (fun x => !mine x) ++ [gone], dropped := true, status := if b.status = 0 then St.receiverDropped else b.status,
            fetchTo := if miss.isEmpty then b.fetchTo else some (f.srcRack, f.srcPos), catchUp := b.catchUp ++ miss, arrival := s.now }
        let s := (s.raise Fld.redErrStatus.rcvDropped).fetchNow ch f.seq
        let w := s.keepWindow ch b
        if b.desc.card && miss.any (fun r => overlap r.1 r.2 w.1 (w.2 - w.1)) then s.keepEnd ch f.seq f.stepLo false 0 else s)

/-! ## Multicast acknowledgements (R107) -/

/-- Change what is known of one receiver. -/
def touchRcv (pos : BitVec 7) (f : Receiver → Receiver) : List Receiver → List Receiver
  | [] => [f { pos := pos }]
  | r :: t => if r.pos == pos then f r :: t else r :: touchRcv pos f t

/-- Change the multicast of a bucket on a port. -/
def State.onMcast (s : State) (ch : Nat) (seq : W32) (port : Nat) (f : Mcast → Mcast) : State :=
  match s.bucket ch seq with
  | some b => s.putBucket ch { b with mcast := b.mcast.map (fun m => if m.port == port then f m else m) }
  | none => s

/-- MCAST_ACK. -/
def doMcastAck (ch : Fin 32) (seq : W32) (port : Fin 36) (pos : BitVec 7) (bytes : Nat) (last : Bool) (s : State) : Out :=
  let slice := uflSlice port
  match s.bucket ch seq with
  | none => .next s
  | some b =>
    match b.mcast.find? (fun m => m.port == slice) with
    | none => .next s
    | some m =>
      let known := m.rcv.any (fun r => r.pos == pos)
      let dropped := m.rcv.any (fun r => r.pos == pos && r.dropped)
      if !s.hw || dropped || m.sent < bytes || (!known && (s.chCfg ch).n ≤ m.rcv.length + 1) then .next s
      else
        let s := s.onMcast ch seq slice (fun m =>
          { m with rcv := touchRcv pos (fun r =>
              { r with acked := max r.acked bytes, ackTick := s.now, done := r.done || (last && m.queue.isEmpty && bytes == m.sent) }) m.rcv })
        .next ((s.mcastDone ch seq slice).mcastPort slice)

/-- Lowest element of a port that a receiver has not acknowledged. -/
def State.lowestUnacked (s : State) (ch : Nat) (b : Bucket) (slice acked : Nat) : Nat :=
  let c := s.chCfg ch
  let es := b.desc.fmt.toNat
  let rg := c.chunk b.desc.e c.pos
  let size := uflFrag es
  let fs := (List.range (frags rg size)).filter (fun f => c.ufl.getD (f % c.ufl.length) 0 == slice)
  rg.1 + (fs.getD (acked / (size * es)) 0) * size

/-- The window of a port is full for a receiver: the next fragment of a multicast does not fit. -/
def State.windowFull (s : State) (es port : Nat) (m : Mcast) (pos : BitVec 7) : Bool :=
  match m.queue with
  | (_, cnt) :: _ => mcastWindow < s.portOwes port (some pos) + cnt * es
  | [] => false

/-- What is known of a receiver; one that has acknowledged nothing is as old as the multicast itself (DESIGN CHOICE, assumption 130: the manual
gives it no acknowledgement to be older than the limit). -/
def Mcast.rcvOf (m : Mcast) (pos : BitVec 7) : Receiver := (m.rcv.find? (fun r => r.pos == pos)).getD { pos := pos, ackTick := m.started }

/-- The first multicast of a channel on a port that a receiver holds up: its window is full, and its acknowledgement is older than the limit. -/
def State.stalled (s : State) (ch port : Nat) (pos : BitVec 7) : Option (Bucket × Mcast) :=
  let us := usTicks (s.rd Fld.redWd.mcastStallUs)
  ((s.chan ch).running.flatMap (fun b => (b.mcast.filter (fun m => m.port == port)).map (fun m => (b, m)))).find? (fun x =>
    let r := x.2.rcvOf pos
    !r.dropped && !r.done && s.windowFull x.1.desc.fmt.toNat port x.2 pos && s.elapsed r.ackTick us)

/-- MCAST_STALL_EXPIRY: the window is full, and this receiver's acknowledgement is too old: it is dropped from the stream. -/
def doMcastStallExpiry (ch : Fin 32) (port : Fin 36) (pos : BitVec 7) (race : Race) (s : State) : Out :=
  let slice := uflSlice port
  match s.stalled ch slice pos with
  | none => .next s
  | some (b, m) =>
    if !s.hw then .next s
    else
      let s := s.logRace Unit'.red b.seq.toNat Wd.mcast race
      if race = .arrivalWon then .next s
      else
        let low := s.lowestUnacked ch b slice (m.rcvOf pos).acked
        let s := s.onMcast ch b.seq slice (fun m => { m with rcv := touchRcv pos (fun r => { r with dropped := true }) m.rcv })
        let x := (b.xfers.find? (fun x => x.dest == .rackGroup && x.slice == slice)).getD
          { tag := 0, gen := 0, stage := false, slice := slice, dest := .rackGroup, left := 0 }
        let s := s.sendTo s.myRack pos Ty.drop
          (bucketFrame ch b.seq (BitVec.ofNat 32 b.desc.step.toNat) { tag := BitVec.ofNat 20 x.tag, gen := x.gen } (leBytes 6 low ++ zeros 2))
        .next ((s.mcastDone ch b.seq slice).mcastPort slice)

/-! ## Abort notices (R104) -/

/-- The channel's part in a notice: the first one for a bucket is forwarded and acted on, whatever the bucket's state and ENABLE; a later one,
one for a channel that has never been configured, and one for a bucket of another step are stale. -/
def State.abortNoticeIn (s : State) (n : Fin 42) (f : Frame) : State :=
  let ch := f.channel.toNat
  let st := BitVec.ofNat 16 (fieldLE f.payload 0 2)
  let src := (f.srcRack, f.srcPos)
  let b? := s.bucket ch f.seq
  if s.red.notices.contains (f.channel, f.seq, f.stepLo) || (s.chCfg ch).n < 2 ||
     b?.any (fun b => BitVec.ofNat 32 b.desc.step.toNat != f.stepLo) then s.staleAt n
  else if b?.any (fun b => !b.dead && !b.completed) then s.abortBucket ch f.seq st (some src)
  else
    let s := (s.noticed ch f.seq f.stepLo).raiseIf b?.isNone Fld.redErrStatus.abortNotice
    (s.sendAborts ch f.seq f.stepLo st (some src)).abortChan ch st

/-! ## Tags (R110) -/

/-- LINK_LAST_ACK. -/
def execLinkLastAck (tag : BitVec 20) (s : State) : Out :=
  if s.powered && s.red.tags.lastSent.contains tag.toNat then .next (s.releaseTag tag.toNat) else .next s

/-- Fetches that waited for a tag go out, in the order of channels and buckets, as far as the free tags last. -/
def State.fetchesNow (s : State) : State :=
  (List.range 32).foldl (fun s ch => (s.chan ch).running.foldl (fun s b => s.fetchNow ch b.seq) s) s

/-- TAG_QUARANTINE_EXPIRY. -/
def execTagQuarantineExpiry (tag : BitVec 20) (s : State) : Out :=
  let t := s.red.tags
  if t.quarantine.any (fun q => q.1 == tag.toNat && q.2 ≤ s.now) then
    let s : State := { s with red := { s.red with tags := { t with quarantine := t.quarantine.filter (fun q => q.1 != tag.toNat) } } }
    .next s.fetchesNow
  else .next s

/-! ## The vote (R102, R130) -/

/-- The vote of a step may be cast. -/
def State.voteDue (s : State) (v : Vote) : Bool :=
  (List.range 32).all (fun ch => !s.rdB (Fld.redChCfg.enable ch) || v.ended.getLsbD ch || (s.chan ch).aborted) &&
  (s.rd Fld.fulCtrl.normVoteEn) &&& v.norms.toNat == s.rd Fld.fulCtrl.normVoteEn

/-- VOTE_ARRIVAL: the vote whose step is over. -/
def doVoteArrival (s : State) : Out :=
  if !s.hw || s.halted || !s.rdB Fld.redCtrl.skipVoteEn then .next s
  else match s.red.votes.find? s.voteDue with
    | none => .next s
    | some v =>
      let sum := if s.rd Fld.fulCtrl.normVoteEn = 0 then 0 else s.ful.stepAcc.toF64
      let s := { s with red := { s.red with votes := s.red.votes.filter (fun w => w.step != v.step) } }
      let s := s.onFul (fun u => { u with stepAcc := {} })
      .next (s.barArrive (s.rd Fld.redCtrl.skipBarrier) (.vote v.step) sum (if v.skip then BitVec.ofNat 64 (2 ^ s.rd Fld.redCtrl.skipBit) else 0))

/-! ## Enable and disable (R81) -/

/-- Slices of a channel. -/
def ChCfg.slices (c : ChCfg) : List Nat := c.ufl ++ c.so

/-- The check of a write of 1 to ENABLE; a channel is not placed on closed and open slices together (R55, which names no answer: it is refused
as the other checks are, assumption 122). -/
def State.chanOk (s : State) (ch : Nat) : Bool :=
  let c := s.chCfg ch
  let u := s.rd (Fld.redChPorts.uflMask ch)
  let o := s.rd (Fld.redChPorts.soMask ch)
  c.pos < c.n && c.x < c.r && u < 2 ^ s.uflPorts && (s.part.dies = 3 || o < 16) && (c.r ≤ 1 || o != 0) &&
  (!s.rdB (Fld.redChKeep.keepEn ch) || s.rd (Fld.redChKeep.keepPiece ch) < c.n * c.r) && within 2 64 c.n && within 1 1024 c.r &&
  (c.slices.all s.isOpen || c.slices.all (fun n => !s.isOpen n))

/-- The open slices of a channel are placed in one from now on (R54). -/
def State.place' (s : State) (ch : Nat) : State :=
  (((s.chCfg ch).slices).filter s.isOpen).foldl (fun s n => { s with placed := s.placed ||| BitVec.ofNat 42 (2 ^ n) }) s

/-- RED_CH_ENABLE: a write of CGM_RED_CHn_CFG0 with ENABLE 1. -/
def State.redChWrite (s : State) (ch value : Nat) : State :=
  let off := Reg.redChCfg ch
  let was := s.rdB (Fld.redChCfg.enable ch)
  let t := (s.writePlain off value).1
  if was || !bitAt value 0 then t
  else if t.chanOk ch then
    let x := t.chan ch
    (t.putChan ch { x with aborted := false, nextIssue := x.nextSeq + BitVec.ofNat 32 x.issued.length }).place' ch
  else s.accessError off 8 true

/-! ## The Warden's writes to enabled channels during a halt (R82) -/

/-- The channel that a configuration register belongs to. -/
def cfgChan (off : Nat) : Option Nat :=
  if 0x11000 ≤ off && off < 0x11800 && (off - 0x11000) % 0x40 < 0x38 then some ((off - 0x11000) / 0x40) else none

/-- A write of the Warden to this register takes effect at the release. -/
def State.stages (s : State) (off : Nat) : Bool :=
  s.halted && match cfgChan off with | some ch => s.rdB (Fld.redChCfg.enable ch) | none => false

/-- A register as the Warden last wrote it. -/
def State.cfgReg (s : State) (off : Nat) : W64 := if s.stages off then (kget s.red.staged off).getD (s.getReg off) else s.getReg off

/-- A value staged for the release. -/
def State.cfgStage (s : State) (off : Nat) (v : W64) : State := { s with red := { s.red with staged := kset s.red.staged off v } }

/-- One field, as the Warden last wrote it, and its write: staged for the release, or done at once. -/
def State.cfgRd (s : State) (f : Fld) : Nat := bits (s.cfgReg f.off).toNat f.lo f.len
def State.cfgWr (s : State) (f : Fld) (v : Nat) : State :=
  if s.stages f.off then s.cfgStage f.off (BitVec.ofNat 64 (putBits (s.cfgReg f.off).toNat f.lo f.len v)) else s.wr f v

/-- Rewrite a field that holds one number by another. -/
def State.cfgRename (s : State) (f : Fld) (old new : Nat) : State := if s.cfgRd f = old then s.cfgWr f new else s

/-- Clear one bit of a field. -/
def State.cfgClearBit (s : State) (f : Fld) (k : Nat) : State := s.cfgWr f (s.cfgRd f - b2n (bitAt (s.cfgRd f) k) * 2 ^ k)

/-- A register written whole by the Warden, field by field, and staged for the release; an enabled channel stays enabled. -/
def State.cfgInstall (s : State) (off : Nat) (fields : List FieldRow) (w : Nat) : State :=
  let open' := match cfgChan off with | some ch => s.wr (Fld.redChCfg.enable ch) 0 | none => s
  s.cfgStage off (BitVec.ofNat 64 (open'.writeBits off w fields (s.cfgReg off).toNat false).1)

/-- The staged value of a register takes effect. -/
def State.applyReg (s : State) (off : Nat) : State :=
  match kget s.red.staged off with
  | some v => s.setReg off v
  | none => s

/-- The staged values of a channel take effect; whether it is enabled stays as it is. -/
def State.applyCh (s : State) (ch : Nat) : State :=
  let was := s.rd (Fld.redChCfg.enable ch)
  let s := ((s.applyReg (Reg.redChCfg ch)).wr (Fld.redChCfg.enable ch) was).applyReg (Reg.redChPorts ch)
  let s := ((s.applyReg (Reg.redChDesc ch)).applyReg (Reg.redChSync ch)).applyReg (Reg.redChKeep ch)
  (s.applyReg (Reg.redChBackup ch)).applyReg (Reg.redChRepl ch)

/-- At the release the staged values take effect together. -/
def State.applyStaged (s : State) : State :=
  let s := (List.range 32).foldl State.applyCh s
  { s with red := { s.red with staged := [] } }

/-- What a release ends of the old run's reduction (R245): votes and notices of buckets that run again, and the aborted state of channels, which
the Warden has rebuilt at their restored NEXT_SEQ. -/
def State.redReleased (s : State) : State :=
  let s := s.applyStaged
  { s with red := { s.red with chans := s.red.chans.map (fun x => { x with aborted := false }), votes := [], notices := [], ownAbort := false } }

/-- RED_CH_ENABLE. -/
def execRedChEnable (ch : Fin 32) (value : W64) (s : State) : Out :=
  if s.powered && bitAt value.toNat 0 then .next (s.redChWrite ch value.toNat) else .next s

/-- RED_CH_DISABLE. -/
def execRedChDisable (ch : Fin 32) (value : W64) (s : State) : Out :=
  if s.powered && !bitAt value.toNat 0 then .next (s.redChWrite ch value.toNat) else .next s

end Sys2Proof.Machine
end

