-- ==== Sys2Proof/Machine/Sync.lean ====
section
/-! DEFINITION. The synchronisation unit's commands (R254 to R282): register signals, FENCE, wait slots, remote transfers, context images,
barrier frames and timeouts. -/
namespace Sys2Proof.Machine

/-! ## Register signals (R255 to R263, R272) -/

/-- The cut queue goes on once its held DONE or SUMP count has found room (R178, R262). -/
def State.unheld (s : State) (before : State) : State :=
  if before.unitHolds .cutUnit && !s.unitHolds .cutUnit then s.cutFlush else s

/-- FLAG_OP: 1 sets, 2 clears; the other codes are reserved. While QUIESCE is 1 the write is ignored. -/
def State.flagOp (s : State) (flag op : Nat) : State :=
  if s.quiesced || !within 1 2 op then s.accessError Reg.synFlagOp 4 true
  else if op = 1 then (s.setFlagNow flag .software).1 else s.clearFlagNow flag

/-- PRODUCE by a register write. -/
def State.produceWrite (s : State) (pair n : Nat) : State :=
  if s.quiesced || n = 0 || (s.pair pair).depth = 0 then s.accessError Reg.synProduce 8 true else (s.produceNow pair n .software).1

/-- CONSUME by a register write. -/
def State.consumeWrite (s : State) (pair n : Nat) : State :=
  if s.quiesced || n = 0 || (s.pair pair).depth = 0 then s.accessError Reg.synConsume 8 true else (s.consumeNow pair n).1

/-- Nobody waits on a pair. -/
def State.noWaiter (s : State) (pair : Nat) : Bool := !s.syn.waiters.any (fun w => w.isPair && w.obj == pair)

/-- PAIR_INIT (R263). -/
def State.pairInit (s : State) (pair v : Nat) : State :=
  if s.noWaiter pair && s.pend pair == 0 then
    let s := s.putPair pair { s.pair pair with p := v, c := v }
    if s.quiesced then s else s.serve true pair
  else s.accessError (Reg.synPairInit pair) 8 true

/-- A write of a pair's depth (R260). -/
def State.pairDepth (s : State) (pair v : Nat) : State :=
  let p := s.pair pair
  if v < p.avail then s.accessError (Reg.synPairCfg pair) 8 true
  else
    let s := s.putPair pair { p with depth := v }
    if s.quiesced then s else s.serve true pair

def execFlagSet (flag : BitVec 10) (s : State) : Out := if !s.powered then .next s else .next (s.flagOp flag.toNat 1)
def execFlagClear (flag : BitVec 10) (s : State) : Out := if !s.powered then .next s else .next (s.flagOp flag.toNat 2)

def execProduce (pair : BitVec 9) (count : W32) (s : State) : Out :=
  if !s.powered then .next s else .next ((s.produceWrite pair.toNat count.toNat).unheld s)

def execConsume (pair : BitVec 9) (count : W32) (s : State) : Out :=
  if !s.powered then .next s else .next ((s.consumeWrite pair.toNat count.toNat).unheld s)

def execPairInit (pair : BitVec 9) (value : BitVec 48) (s : State) : Out :=
  if !s.powered then .next s else .next ((s.pairInit pair.toNat value.toNat).unheld s)

/-! ## FENCE (R268) -/

/-- A write of CGM_SYN_FENCE: a reserved OP, or a produce of no count or on no pair, starts nothing. -/
def State.fenceWrite (s : State) (token : BitVec 16) (obj op count : Nat) : State :=
  if op = 3 || (op == 2 && (count == 0 || 512 ≤ obj)) then s.accessError Reg.synFence 8 true
  else s.onSyn (fun y => { y with fences := y.fences ++ [{ token := token, op := BitVec.ofNat 2 op, obj := obj, count := count }] })

def execSynFence (token : BitVec 16) (object : BitVec 10) (op : BitVec 2) (count : BitVec 16) (s : State) : Out :=
  if !s.powered then .next s else .next (s.fenceWrite token object.toNat op.toNat count.toNat)

/-- The signal of a FENCE. -/
def State.fenceSignal (s : State) (f : Fence) : State :=
  if f.op = 1 then (s.setFlag f.obj .fence).1 else if f.op = 2 then (s.produce f.obj f.count .fence).1 else s

/-- SYN_FENCE_COMPLETE: the oldest FENCE has drained; its signal, then its token. While its signal waits (R262, R272) the FENCE is not complete,
and no later one performs its own (R268). -/
def execSynFenceComplete (s : State) : Out :=
  match s.powered, s.syn.fences with
  | true, f :: t =>
    let s := if f.handed then s else s.fenceSignal f
    if s.unitHolds .fence then .next (s.onSyn (fun y => { y with fences := { f with handed := true } :: t }))
    else .next ((s.onSyn (fun y => { y with fences := t })).wr Fld.synFence.tokenDone f.token.toNat)
  | _, _ => .next s

/-! ## Wait slots (R265, R266) -/

/-- The wait that a slot's fields describe. -/
def State.slotWait (s : State) (n : Nat) : Waiter :=
  { isPair := s.rdB (Fld.synWait.kind n), obj := s.rd (Fld.synWait.object n), count := s.rd (Fld.synWait.count n),
    consume := s.rdB (Fld.synWait.consume n), who := .slot n }

/-- The fields of a slot describe a wait that is not reserved. -/
def State.slotOk (s : State) (n : Nat) : Bool :=
  !s.rdB (Fld.synWait.kind n) || (s.rd (Fld.synWait.object n) < 512 && s.rd (Fld.synWait.count n) != 0)

def State.slotArmed (s : State) (n : Nat) : Bool := (vget s.syn.waits n {}).armed

/-- A write of CGM_SYN_WAITs: on an armed slot only a write that changes nothing passes; otherwise the fields are set, and ARM starts the
wait. -/
def State.waitWrite (s : State) (n w : Nat) : State :=
  let off := Reg.synWait n
  if s.slotArmed n then
    if bitAt w 0 || bits w 1 48 != bits (s.getReg off).toNat 1 48 then s.accessError off 8 true else s
  else
    let s := (s.writePlain off (w - bits w 0 1)).1
    if bitAt w 0 && s.slotOk n then
      (s.onSyn (fun y => { y with waits := vset y.waits n { armed := true, tick := s.now } })).wait (s.slotWait n)
    else s

def execWaitArm (slot : Fin 64) (value : W64) (s : State) : Out :=
  if !s.powered then .next s else .next ((s.waitWrite slot value.toNat).unheld s)

/-- A waiter leaves, wherever it waits. -/
def State.dropWaiter (s : State) (who : Who) : State :=
  s.onSyn (fun y =>
    { y with
      waiters := y.waiters.filter (fun w => w.who != who),
      held := y.held.filter (fun h => match h with | .wait w => w.who != who | _ => true) })

/-- WAIT_TIMEOUT: the object is unchanged, and the waiters behind it are no longer held back. -/
def execWaitTimeout (slot : Fin 64) (race : Race) (s : State) : Out :=
  let n := slot.val
  let t := s.rd (Fld.synWait.timeoutUs n)
  if !s.powered || !s.slotArmed n || t = 0 || !s.elapsed (vget s.syn.waits n {}).tick (usTicks t) then .next s
  else
    let s := s.logRace Unit'.syn n Wd.wait race
    if race = .arrivalWon then .next s
    else
      let w := s.slotWait n
      let s := (s.dropWaiter (.slot n)).notifySlot n St.barrierTimeout
      .next ((if s.quiesced then s else s.serve w.isPair w.obj).unheld s)

/-- Every armed slot ends with HALTED (R227, R266). -/
def State.waitsHalt (s : State) : State :=
  (List.range 64).foldl (fun s n => if s.slotArmed n then (s.dropWaiter (.slot n)).notifySlot n St.halted else s) s

/-! ## Signals behind data (R256, R269 to R271) -/

def State.remoteOpen (s : State) : Bool := !s.rdB Fld.synCtrl.service || s.rst.st != .running

/-- A remote frame is refused. -/
def State.remoteRefuse (s : State) : State := (s.bump Fld.synCounts.remoteRefused).raise Fld.synErrStatus.remoteRefused

/-- A record is of the transfer of a frame, whatever its generation. -/
def Remote.isOf (f : Frame) (r : Remote) : Bool := r.rack == f.srcRack && r.pos == f.srcPos && r.tag == f.tag

def State.putRemote (s : State) (r : Remote) : State :=
  s.onSyn (fun y =>
    { y with remote := r :: y.remote.filter (fun q => !(q.rack == r.rack && q.pos == r.pos && q.tag == r.tag)) })

/-- The open transfer that a frame belongs to, a new one for a new tag or a later generation; none: the frame is stale. -/
def State.remoteOf (s : State) (f : Frame) : Option Remote :=
  let fresh : Remote := { rack := f.srcRack, pos := f.srcPos, tag := f.tag, gen := f.gen }
  match s.syn.remote.find? (Remote.isOf f) with
  | none => some fresh
  | some r =>
    if r.gen = f.gen then if r.closed then none else some r
    else if (f.gen - r.gen).toNat < 8 then some fresh
    else none

/-- Abort a transfer, logged with the sender and the tag: its frames are stale from now on; `signal`: a signal of it is discarded. -/
def State.remoteAbort (s : State) (r : Remote) (st : Status) (signal : Bool) : State :=
  let s := s.putRemote { r with closed := true, signal := none, tick := s.now }
  let s := s.logIt Kind.remote st Unit'.syn (Config.remoteDetail r.rack r.pos r.tag)
  let s := (s.synErr st 0 3 true).raise Fld.synErrStatus.remoteAbort
  if signal then s.bump Fld.synCounts.signalsDiscarded else s

/-- A held signal takes effect once every announced byte has been written, and the transfer closes. -/
def State.remoteTry (s : State) (r : Remote) : State :=
  match r.signal with
  | some (announced, isPair, i, n) =>
    if r.bytes = announced then
      let s := s.putRemote { r with closed := true, signal := none, tick := s.now }
      if isPair then (s.produce i n .remote).1 else (s.setFlag i .remote).1
    else if announced < r.bytes then s.remoteAbort r St.lengthLong true
    else s.putRemote r
  | none => s.putRemote r

/-- REMOTE_WRITE: the bytes land in the remote window; bytes beyond what a held signal announces are discarded. -/
def execRemoteWrite (n : Fin 42) (f : Frame) (s : State) : Out :=
  .next (s.recv n Ty.remoteWrite f fun s =>
    let off := f.offset.toNat
    let k := f.payload.length
    if !s.remoteOpen || s.rd Fld.synRemoteCfg.size * 4096 < off + k then s.remoteRefuse
    else if k ≠ f.count.toNat * 4 then s.staleAt n
    else match s.remoteOf f with
      | none => s.staleAt n
      | some r =>
        let room := match r.signal with
          | some (announced, _) => announced - r.bytes
          | none => k
        let s := s.store' (s.rdAddr Fld.synRemoteWin.base + off) (f.payload.take room)
        s.remoteTry { r with bytes := r.bytes + k, tick := s.now })

/-- REMOTE_SIGNAL: a flag set or a produce, held until the announced bytes have been written. -/
def execRemoteSignal (n : Fin 42) (f : Frame) (s : State) : Out :=
  .next (s.recv n Ty.remoteSignal f fun s =>
    let b (i k : Nat) : Nat := fieldLE f.payload i k
    let isPair := b 8 1 == 2
    let i := b 10 2
    let c := b 12 4
    let ok := within 1 2 (b 8 1) && (if isPair then i < 512 && within 1 65535 c else i < 1024)
    if !s.remoteOpen || !ok then s.remoteRefuse
    else if f.payload.length ≠ 16 then s.staleAt n
    else match s.remoteOf f with
      | none => s.staleAt n
      | some r =>
        let held := (s.syn.remote.filter (fun q => q.signal.isSome)).length
        if r.signal.isSome then s.staleAt n
        else if r.bytes ≠ bits (b 0 8) 0 48 && 32 ≤ held then s.remoteAbort r St.lengthShort true
        else s.remoteTry { r with signal := some (bits (b 0 8) 0 48, isPair, i, c), tick := s.now })

/-- REMOTE_TRANSFER_WATCHDOG: nothing has arrived for WD_US. -/
def execRemoteTransferWatchdog (rack : BitVec 10) (pos : BitVec 7) (tag : BitVec 20) (race : Race) (s : State) : Out :=
  match s.syn.remote.find? (fun r => r.rack == rack && r.pos == pos && r.tag == tag && !r.closed) with
  | none => .next s
  | some r =>
    if !s.hw || !s.elapsed r.tick (usTicks (s.rd Fld.synRemoteCfg.wdUs)) then .next s
    else
      let s := s.logRace Unit'.syn tag.toNat Wd.remote race
      if race = .arrivalWon then .next s else .next (s.remoteAbort r St.lengthShort r.signal.isSome)

/-! ## Context images and QUIESCE (R272) -/

def State.ctxImage (s : State) : List Byte :=
  leBytes 128 s.syn.flags.toNat ++ leBytes 128 s.syn.ovr.toNat ++ s.syn.pairs.toList.flatMap Pair.bytes

/-- The pair of 16 bytes of an image. -/
def Pair.ofBytes (bs : List Byte) : Pair := { p := fieldLE bs 0 6, c := fieldLE bs 6 6, depth := fieldLE bs 12 4 }

/-- Write flags, overrun bits and pairs from an image; PEND goes to 0 in every pair. -/
def State.ctxLoadImage (s : State) (flags ovr : Nat) (pairs : Vector Pair 512) : State :=
  s.onSyn (fun y =>
    { y with flags := BitVec.ofNat 1024 flags, ovr := BitVec.ofNat 1024 ovr, pairs := pairs, pends := y.pends.filter (fun q => !q.who.pends) })

/-- A write of CGM_SYN_CTX: BASE, then save (1) or load (2). -/
def State.ctxWrite (s : State) (w : Nat) : State :=
  let s := (s.writePlain Reg.synCtx w).1
  let a := s.rdAddr Fld.synCtx.base
  match bits w 0 3 with
  | 1 => (s.store' a s.ctxImage).wr Fld.synCtx.result 0
  | 2 =>
    if !s.quiesced then s.wr Fld.synCtx.result 1
    else
      let pairs : Vector Pair 512 := Vector.ofFn (fun i => Pair.ofBytes (s.load (a + 256 + 16 * i.val) 16))
      if pairs.toList.all (fun p => p.c ≤ p.p && p.p - p.c ≤ p.depth) then
        (s.ctxLoadImage (s.loadN a 128) (s.loadN (a + 128) 128) pairs).wr Fld.synCtx.result 0
      else s.wr Fld.synCtx.result 2
  | _ => s

def execCtxSave (value : W64) (s : State) : Out :=
  if !s.powered then .next s else .next (s.ctxWrite (putBits value.toNat 0 3 1))

def execCtxLoad (value : W64) (s : State) : Out :=
  if !s.powered then .next s else .next ((s.ctxWrite (putBits value.toNat 0 3 2)).unheld s)

/-- QUIESCE has gone to 0: first the waiters of before, against the values as they stand, then what was held, in its order. -/
def State.quiesceEnd (s : State) : State :=
  let s := s.syn.waiters.foldl (fun s w => s.serve w.isPair w.obj) s
  let s := s.syn.pends.foldl (fun s q => s.serve true q.pair) s
  let held := s.syn.held
  held.foldl State.release (s.onSyn (fun y => { y with held := [] }))

/-- A write of CGM_SYN_CTRL. -/
def State.synCtrlWrite (s : State) (w : Nat) : State :=
  let was := s.quiesced
  let s := (s.writePlain Reg.synCtrl w).1
  if was && !s.quiesced then s.quiesceEnd else s

def execQuiesceClear (value : W32) (s : State) : Out :=
  if !s.powered then .next s else .next ((s.synCtrlWrite (putBits value.toNat 1 1 0)).unheld s)

/-! ## Barriers (R273 to R282) -/

/-- ARRIVE written 1. -/
def State.arriveWrite (s : State) (b : Nat) : State :=
  let bad := s.accessError (Reg.synBarStatus b) 8 true
  if (s.bar b).st = .arrived then bad
  else if !isTree b && !s.rdB Fld.synSelf.valid then bad
  else s.barArrive b .software (s.getReg (Reg.synBarArrSum b)) (s.getReg (Reg.synBarArrOr b))

/-- A write of a barrier's CFG. -/
def State.barCfgWrite (s : State) (b w : Nat) : State :=
  let was := s.rdB (Fld.synBarCfg.enable b)
  let s := (s.writePlain (Reg.synBarCfg b) w).1
  let now := s.rdB (Fld.synBarCfg.enable b)
  if was != now then s.barEnable b now else s

/-- Value and OR word of a barrier payload. -/
def payloadSum (f : Frame) : W64 := BitVec.ofNat 64 (fieldLE f.payload 0 8)
def payloadOr (f : Frame) : W64 := BitVec.ofNat 64 (fieldLE f.payload 8 8)

def doBarrierArrive (b : Fin 20) (s : State) : Out := if !s.powered then .next s else .next (s.arriveWrite b)

/-- A member's arrival, at a mask barrier or at a rack Warden of a tree barrier. -/
def doBarrierArrivalFrame (n : Fin 42) (f : Frame) (s : State) : Out :=
  .next (s.recv n Ty.arrival f fun s =>
    let b := f.channel.toNat
    if 20 ≤ b || f.hop ≠ 0 || f.payload.length ≠ 24 || (isTree b && s.treeRole b = 0) then s.staleAt n
    else
      let v : BarVal := { idx := fieldLE f.payload 16 1 % 128, sum := payloadSum f, or := payloadOr f, src := some (f.srcRack, f.srcPos) }
      s.barRecord n b f.seq v (fun next x => if next then x.next else x.cur) (fun next x l => if next then { x with next := l } else { x with cur := l }))

/-- Remember the engine below that a frame comes from, so that an abort of the lead reaches it (R280). -/
def State.addKid (s : State) (b : Nat) (f : Frame) : State :=
  let x := s.bar b
  let k := (f.hop.toNat, f.srcRack, f.srcPos)
  if x.st = .disabled || x.kids.contains k then s else s.putBar b { x with kids := x.kids ++ [k] }

/-- A rack's sum at a group Warden, or a group's at the lead. -/
def doTreeArrivalUp (n : Fin 42) (f : Frame) (s : State) : Out :=
  .next (s.recv n Ty.treeUp f fun s =>
    let b := f.channel.toNat
    let role := s.treeRole b
    let v : BarVal := { idx := fieldLE f.payload 16 2, sum := payloadSum f, or := payloadOr f, src := some (f.srcRack, f.srcPos) }
    if b < 16 || 20 ≤ b || f.payload.length ≠ 24 then s.staleAt n
    else if f.hop = 1 && 2 ≤ role then
      (s.addKid b f).barRecord n b f.seq v (fun next x => if next then x.racksNext else x.racks)
        (fun next x l => if next then { x with racksNext := l } else { x with racks := l })
    else if f.hop = 2 && role = 3 then
      (s.addKid b f).barRecord n b f.seq v (fun next x => if next then x.groupsNext else x.groups)
        (fun next x l => if next then { x with groupsNext := l } else { x with groups := l })
    else s.staleAt n)

/-- The result comes down: it is handed on to the children and to this engine's user. -/
def doTreeCompletion (n : Fin 42) (f : Frame) (s : State) : Out :=
  .next (s.recv n Ty.treeDone f fun s =>
    let b := f.channel.toNat
    let x := s.bar b
    if b < 16 || 20 ≤ b || f.payload.length ≠ 16 || x.st ≠ .arrived || f.seq ≠ x.episode || f.hop.toNat ≠ s.treeRole b then s.staleAt n
    else (s.barDown b x.episode Ty.treeDone f.payload x.heard).barEnd b St.success (some (payloadSum f, payloadOr f)))

/-- An abort at a tree barrier: from a child it goes up, from the parent it goes down. -/
def State.treeAbortIn (s : State) (n : Nat) (b : Nat) (f : Frame) (st : Status) : State :=
  let x := s.bar b
  let role := s.treeRole b
  let down := role < 3 && f.hop.toNat = role
  if x.st ≠ .disabled && f.seq = x.episode then
    let s := (s.synErr st b 2 true).raise Fld.synErrStatus.barAbort
    if down then (s.barDown b x.episode Ty.barAbort f.payload x.kids).barAbort b st
    else ((if f.hop = 0 then s else s.addKid b f).treeAbort b f.payload).barAbort b st
  else if down && x.prev = some f.seq && x.st ≠ .disabled then s.barDown b f.seq Ty.barAbort f.payload x.kids
  else s.staleAt n

def doBarrierAbortFrame (n : Fin 42) (f : Frame) (s : State) : Out :=
  .next (s.recv n Ty.barAbort f fun s =>
    let b := f.channel.toNat
    let st : Status := BitVec.ofNat 16 (fieldLE f.payload 0 2)
    if 20 ≤ b || f.payload.length ≠ 8 then s.staleAt n
    else if isTree b then s.treeAbortIn n b f st
    else if (s.bar b).st ≠ .disabled && f.seq = (s.bar b).episode then
      ((s.synErr st b 2 true).raise Fld.synErrStatus.barAbort).barAbort b st
    else s.staleAt n)

/-- TIMEOUT_US has passed since this engine's arrival. -/
def doBarrierTimeout (b : Fin 20) (race : Race) (s : State) : Out :=
  let t := s.rd (Fld.synBarCfg.timeoutUs b)
  if !s.hw || (s.bar b).st ≠ .arrived || t = 0 || !s.elapsed (s.bar b).tick (usTicks t) then .next s
  else
    let s := s.logRace Unit'.syn b.val Wd.barrier race
    if race = .arrivalWon then .next s else .next (s.barTimeout b)

def doBarrierEnable (b : Fin 20) (value : W64) (s : State) : Out :=
  if !s.powered then .next s else .next (s.barCfgWrite b (putBits value.toNat 0 1 1))

def doBarrierDisable (b : Fin 20) (value : W64) (s : State) : Out :=
  if !s.powered then .next s else .next (s.barCfgWrite b (putBits value.toNat 0 1 0))

end Sys2Proof.Machine
end

