-- ==== Sys2Proof/Machine/Restore.lean ====
section
/-! DEFINITION. The restore path of one engine (R226 to R247): heartbeats, the halt, votes, the chosen cut, rollback, refill, record,
verification and release. -/
namespace Sys2Proof.Machine

def State.onRst (s : State) (f : Rst → Rst) : State := { s with rst := f s.rst }

/-- The engine holds no rank of a job (R236): fenced and started again; or started, with SERVICE 0 and ELIGIBLE cleared by the host runtime
(R354). -/
def State.spareRole (s : State) : Bool :=
  s.rst.st == .standby || (s.rst.st == .running && s.fw && !s.rdB Fld.ctlElect.eligible && !s.rdB Fld.synCtrl.service)

/-- Its links are trained to the rack switches: the PCS of no scale-up slice has lost block lock. -/
def State.linksUp (s : State) : Bool := (List.range 42).all (fun n => isSo n || !s.present n || !s.board.lockLost.getLsbD n)

/-- The engine stands by as a spare (R22): it holds no rank, it has started outside Hummock mode, its links are trained, and its host runtime is
loaded, as ELIGIBLE shows, which that runtime has to clear. -/
def State.standby (s : State) : Bool := s.spareRole && s.fw && !s.rdB Fld.ctlElect.eligible && s.linksUp

/-! ## Restore-path frames (R226) -/

/-- Epoch that a frame carries. -/
def frameEpoch (f : Frame) : BitVec 16 := BitVec.ofNat 16 f.seq.toNat

def State.staleRestore (s : State) : State := s.bump Fld.tierRstCounts.staleRestore

/-- Receive a restore-path frame of the current epoch. -/
def State.rstRecv (s : State) (n : Nat) (ty : BitVec 8) (f : Frame) (act : State → State) : State :=
  s.recv n ty f fun s => if frameEpoch f != s.rst.epoch then s.staleRestore else act s

/-- A restore-path control frame. -/
def State.rstFrame (s : State) (hi : Nat) (stepLo : Nat) (payload : List Byte) : Frame :=
  ctlFrame { seq := s.epochSeq hi, stepLo := BitVec.ofNat 32 stepLo } payload

/-- Payload of a heartbeat. -/
def State.hbPayload (s : State) : List Byte :=
  leBytes 8 (b2n (s.rdB Fld.ctlCornerStatus.inRange) + 2 * b2n s.standby + 4 * b2n s.halted)

/-- Parent Warden of this Warden, as the tree barriers name it. -/
def State.upWarden (s : State) : Option (BitVec 10 × BitVec 7) :=
  match (List.range 4).find? (fun t => s.rdB (Fld.synBarCfg.enable (16 + t)) && s.rd (Fld.synTbarTree.role t) != 3) with
  | some t => some (s.treeUp (16 + t))
  | none => none

/-- Engines that a Warden exchanges heartbeats with: its members, the Wardens it has heard, and its parent. -/
def State.peers (s : State) : List (BitVec 10 × BitVec 7) :=
  ((s.warden.members.map (fun m => (m.rack, m.pos))) ++ s.upWarden.toList).eraseDups.filter (fun m => !s.isMe m.1 m.2)

/-- Send a heartbeat: to the Warden, or from a Warden to everyone it exchanges them with. -/
def State.heartbeat (s : State) : State :=
  let f := s.rstFrame s.rst.hbCount.toNat 0 s.hbPayload
  let s := s.onRst (fun r => { r with hbCount := r.hbCount + 1 })
  if s.isWarden then s.peers.foldl (fun s m => s.sendTo m.1 m.2 Ty.heartbeat f) s
  else s.sendTo s.myRack s.wardenPos Ty.heartbeat f

/-- HEARTBEAT_SEND. -/
def execHeartbeatSend (s : State) : Out := if !s.fw then .next s else .next s.heartbeat

/-! ## The halt (R227, R179) -/

/-- Every bucket of a channel ends with HALTED: started ones, then those only consumed. -/
def State.chanHalt (s : State) (ch : Nat) : State :=
  let live := (s.chan ch).running.filter (fun b => !b.dead && !b.completed)
  let s := live.foldl (fun s b => (s.closeBucket ch b St.halted).logAbort Unit'.red ch b.seq.toNat 0 St.halted) s
  let s := ((s.chan ch).issued.filter (fun b => !b.dead)).foldl (fun s b => s.keepLost ch b) s
  let x := s.chan ch
  (s.putChan ch
    { x with issued := x.issued.map (fun b => if b.dead then b else { b with dead := true, status := St.halted, fetch := none }) }).flushOver ch

/-- A commit record that has been sent: whether it stands in the partner's set decides, not what this engine has heard (R177, R181). While its
acknowledgement is out, that is free (assumption 134). -/
def State.recordAtHalt (s : State) (c : Cut) : State :=
  if c.comSent && (c.st == .committing || c.refelt) then
    let (b, s) := if c.out.any (fun o => o.commit) then s.pickBool else (true, s)
    if b then s.recordStands c none else s
  else s

/-- The cuts at a halt: Felting stops, what is not SEDGE_COMMITTED is abandoned, its set being its host's to free (R178, R186), and no arrival
is made any more. -/
def State.cutsHalt (s : State) : State :=
  let s := s.cut.cuts.foldl (fun s c => s.recordAtHalt c) s
  let s := s.cut.cuts.foldl (fun s c => s.feltStop c) s
  let s := s.onCut (fun u => { u with cuts := u.cuts.map (fun c => { c with accepted := c.accepted && !c.st.early }) })
  let s := s.abandonEarly (fun s => (St.halted, s))
  (s.onCut (fun u => { u with cuts := u.cuts.map (fun c => { c with arrive := none, arrived := c.arrived || c.st.isFinal }) })).cutFlush

/-- Sets of other owners at a halt (R186). -/
def State.setsHalt (s : State) : State :=
  (List.range 8).foldl (fun s k =>
    match (s.set k).st with
    | .filling => s.freeSet k
    | .committed => s.putSet k { s.set k with st := .held }
    | _ => s) s

/-- Take a halt of a newer epoch. -/
def State.haltTake (s : State) (e : BitVec 16) : State :=
  let replan := s.rst.st != .running
  let s := s.onRst (fun r =>
    { r with
      epoch := e, queries := [], chosenWaits := false, st := if replan then .planning else .halted,
      role := if r.role == .spare then .spare else if r.corrupt || r.faulted then .inPlace else .survivor })
  let s := s.raise Fld.tierRstErrStatus.haltSeen
  let s := if replan then (s.raise Fld.tierRstErrStatus.replan).bump Fld.tierRstCounts.replans else s
  let s := (List.range 32).foldl State.chanHalt s
  let s : State := { s with red := { s.red with waiting := [] } }
  let s := (List.range 4).foldl (fun s q => s.fulAbort q St.halted) s
  let s := s.releaseTags s.red.tags.inUse
  let s := s.onRst (fun r => { r with sentData := [] })
  let s := (s.cutsHalt.setsHalt.waitsHalt).barsHalt true e
  let s := s.dropLanes (fun u => u == .verify)
  let s := s.dropCtxs (fun u => u == .verify)
  let s := if s.rdB Fld.tierRstCtrl.haltFlagEn then (s.setFlag (s.rd Fld.tierRstCtrl.haltFlag) .restore).1 else s
  s.heartbeat

/-! ## Supply and votes (R230) -/

/-- The cut that stands in a local half, SEDGE_COMMITTED or later. -/
def State.localCut (s : State) (step : W64) (gen : BitVec 8) : Option Cut :=
  let holds (c : Cut) : Bool :=
    match c.half with
    | some h =>
      (s.half h == .felting || s.half h == .held || s.half h == .pinned) &&
      (s.cut.cuts.find? (fun d => d.half == some h && !d.refused)).map (fun d => d.seq) == some c.seq
    | none => false
  match s.cutOf step gen with
  | some c => if holds c && (c.st == .sedgeCommitted || c.st == .jobCommitted || c.st == .retired) then some c else none
  | none => none

/-- CGM_TIER_CUT_JOB names a cut. -/
def State.isJobCut (s : State) (step : W64) (gen : BitVec 8) : Bool :=
  s.rdB Fld.tierCutJobInfo.valid && s.getReg Reg.tierCutJob == step && s.rd Fld.tierCutJobInfo.gen == gen.toNat

/-- The live state is clean for a cut (R234). -/
def State.cleanFor (s : State) (step : W64) (gen : BitVec 8) : Bool :=
  s.rst.liveClean && s.rdB Fld.tierRstCtrl.liveCleanEn && s.isJobCut step gen

/-- A Sedge host that may be asked: one is assigned, and no Warden has declared it failed. -/
def State.hostAlive (s : State) : Bool :=
  s.rdB Fld.tierPartner.valid &&
  !s.warden.members.any (fun m => m.rack.toNat == s.rd Fld.tierPartner.rack && m.pos.toNat == s.rd Fld.tierPartner.position && m.cls == .failed)

/-- The own Sedge set holds a cut. -/
def State.ownSet (s : State) (step : W64) (gen : BitVec 8) : Bool :=
  match s.cutOf step gen with
  | some c => c.accepted && c.atSet
  | none => false

def State.canSupplySelf (s : State) (step : W64) (gen : BitVec 8) : Bool :=
  (s.localCut step gen).isSome || s.cleanFor step gen || (s.ownSet step gen && s.hostAlive) || (s.entryOf step gen).isSome

/-- A set of an owner holds a cut. -/
def State.hostSet (s : State) (slot : Nat) (step : W64) (gen : BitVec 8) : Option Nat :=
  [2 * slot, 2 * slot + 1].find? (fun k =>
    ((s.set k).st == .committed || (s.set k).st == .held) && (s.set k).step == step && (s.set k).gen == gen)

/-- Rank whose state a hosted set holds: its manifest names it (R215). -/
def State.setRank (s : State) (k : Nat) : Nat := fieldLE (s.setLoad k (s.rd (Fld.tierOwner.tMib (k / 2)) * 0x100000 + 65536 + 24) 4) 0 4

/-- A query can be answered with yes: as the host of a set of that rank, or as a replica holder. -/
def State.canSupply (s : State) (q : Query) (step : W64) (gen : BitVec 8) : Bool :=
  (q.asHost && (List.range 4).any (fun i => match s.hostSet i step gen with | some k => s.setRank k == q.rank.toNat | none => false)) ||
  (q.asReplica && s.canSupplySelf step gen)

/-- OR value of a vote. -/
def State.voteWord (s : State) (step : W64) (gen : BitVec 8) : W64 :=
  let miss := s.rst.role != .spare && !s.canSupplySelf step gen
  s.rst.queries.foldl (fun v q => if s.canSupply q step gen then v ||| BitVec.ofNat 64 (2 ^ q.bit) else v)
    (if miss then BitVec.ofNat 64 (2 ^ s.rd Fld.tierRstCtrl.missBit) else 0)

/-- A candidate: vote at the plan barrier. -/
def State.planVote (s : State) (step : W64) (gen : BitVec 8) : State :=
  if s.rst.st == .halted || s.rst.st == .planning then
    (s.onRst (fun r => { r with st := .planning })).barArrive (s.rd Fld.tierRstCtrl.planBarrier) .plan 0 (s.voteWord step gen)
  else s

/-- SUPPLY_QUERY. -/
def execSupplyQuery (n : Fin 42) (f : Frame) (s : State) : Out :=
  .next (s.rstRecv n Ty.supplyQuery f fun s =>
    let b (i k : Nat) : Nat := fieldLE f.payload i k
    if !s.halted || f.payload.length ≠ 8 || 48 ≤ b 4 1 then s.staleAt n
    else
      let q : Query := { rank := BitVec.ofNat 32 (b 0 4), bit := b 4 1, asHost := bitAt (b 5 1) 0, asReplica := bitAt (b 5 1) 1 }
      s.onRst (fun r => { r with queries := r.queries ++ [q] }))

/-! ## Sources (R231, R240) -/

/-- This engine refills like a spare: it takes a rank over, or it holds the corrupt copy of a replica group. -/
def State.refills (s : State) : Bool := s.rst.role == .spare || s.rst.corrupt

/-- Sources of the regions, in the order of R231, with the number of a replica; Peat 0 is the own drive, Peat 1 that of the failed rank. -/
def State.sources (s : State) : List (Source × Nat) :=
  let step := s.rst.cutStep; let gen := s.rst.cutGen
  let group := if s.replOn then List.range s.replMembers.length else []
  let replicas (l : List Nat) : List (Source × Nat) := l.map (fun i => (.replica, i))
  let sedge : List (Source × Nat) := if s.hostAlive then [(.sedge, 0)] else []
  if s.rst.role == .spare then
    replicas group ++ sedge ++ (if s.rst.oldPos.isSome then [(.peat, 1)] else []) ++ [(.mire, 0)]
  else if s.rst.corrupt then replicas (group.filter s.rst.majority.contains)
  else
    (if s.cleanFor step gen then [(.live, 0)] else []) ++ (if (s.localCut step gen).isSome then [(.batt, 0)] else []) ++
    (if s.ownSet step gen then sedge else []) ++ replicas group ++ (if (s.entryOf step gen).isSome then [(.peat, 0)] else [])

/-- The parts of a restore's input. -/
inductive Input where
  | record | manifest | regions
deriving DecidableEq, Repr

def Rst.input (r : Rst) : Input → Supply
  | .record => r.recIn
  | .manifest => r.manIn
  | .regions => r.dataIn

def State.onInput (s : State) (i : Input) (f : Supply → Supply) : State :=
  s.onRst (fun r => match i with
    | .record => { r with recIn := f r.recIn }
    | .manifest => { r with manIn := f r.manIn }
    | .regions => { r with dataIn := f r.dataIn })

/-- Every range still to come. -/
def Rst.want (r : Rst) : List (Nat × Nat) := r.recIn.want ++ r.manIn.want ++ r.dataIn.want

/-- Sources of an input: a record that is not in the ring, and a manifest, come from any source that holds them (R241, R243). -/
def State.sourcesOf (s : State) (i : Input) : List (Source × Nat) :=
  s.sources.filter (fun x => x.1 != .live && (i == .regions || x.1 != .batt))

def Supply.untried (u : Supply) (l : List (Source × Nat)) : Option (Source × Nat) := l.find? (fun x => !u.tried.contains x)

/-- The engine behind a remote source. -/
def State.sourceAt (s : State) (x : Source × Nat) : Option (BitVec 10 × BitVec 7) :=
  match x.1 with
  | .sedge => some (BitVec.ofNat 10 (s.rd Fld.tierPartner.rack), BitVec.ofNat 7 (s.rd Fld.tierPartner.position))
  | .replica => s.replMembers[x.2]?
  | .peat => if x.2 = 1 then s.rst.oldPos else none
  | _ => none

/-- The engine that an input is asked of. -/
def State.provAt (s : State) (i : Input) : Option (BitVec 10 × BitVec 7) := (s.rst.input i).prov.bind s.sourceAt

/-- Ask the provider of an input for everything that has not landed (R238). -/
def State.ask (s : State) (i : Input) : State :=
  match s.provAt i with
  | some (r, p) =>
    let f (w : Nat × Nat) : Frame := s.rstFrame 0 s.rst.cutStep.toNat (leBytes 8 w.1 ++ leBytes 8 w.2)
    ((s.rst.input i).want.foldl (fun s w => s.sendTo r p Ty.refillRequest (f w)) s).onRst (fun r => { r with arrival := s.now })
  | none => s

/-- Set-offset ranges of manifest and commit record. -/
def State.manWant (s : State) : List (Nat × Nat) :=
  let t := s.tBytes
  [(t + 65536, 128 + 128 * s.cut.dir.length + 16 * s.cut.dir.foldl (fun n r => n + r.extents) 0), (t + 16384, 64)]

/-- Set-offset range of the record. -/
def State.recWant (s : State) : Nat × Nat := (s.tBytes, 16384)

/-- Set-offset range of a region. -/
def State.regWant (s : State) (r : Region) : Nat × Nat := (s.regionAt r, r.len)

/-- The input that a set offset belongs to. -/
def State.inputAt (s : State) (off : Nat) : Input :=
  if off < s.tBytes then .regions else if off < s.tBytes + 16384 then .record else .manifest

/-- No source is left (R240): it is reported to the Warden, as a notice of a state fault with the status NO_SOURCE, and by a Warden to its
parent (assumption 55). The lead learns of its own in `State.leadReplans`. -/
def State.noSource (s : State) (i : Input) : State :=
  let first := s.rst.lastStatus != St.noSource
  let s := (s.raise Fld.tierRstErrStatus.noSource).onInput i (fun u => { u with prov := none })
  let s := s.onRst (fun r => { r with lastStatus := St.noSource })
  if s.isLead || !first then s
  else if s.isWarden then
    match s.upWarden with
    | some (r, p) => s.noticeTo r p 5 0 0 St.noSource 0 s.rst.cutStep
    | none => s
  else s.notice 5 0 0 St.noSource 0 s.rst.cutStep

/-- The ranges hold more than half of the state. -/
def State.isMost (s : State) (l : List (Nat × Nat)) : Bool :=
  s.cut.dir.foldl (fun n r => n + r.len) 0 < 2 * l.foldl (fun n w => n + w.2) 0

/-- What is left to come of an input once its source is known: the manifest of the own drive is at hand, and a Mire image has no commit record
(R219). -/
def State.leftOf (s : State) (i : Input) (x : Source × Nat) (l : List (Nat × Nat)) : List (Nat × Nat) :=
  if i == .manifest then
    (if x == (.peat, 0) then [] else if x.1 == .mire then cutRange (s.tBytes + 16384) 64 l else l)
  else l

/-- Turn to the next source of an input. Regions that come from the own halves or drive are copied when the rollback completes. -/
def State.nextSource (s : State) (i : Input) : State :=
  match (s.rst.input i).untried (s.sourcesOf i) with
  | none => s.noSource i
  | some x =>
    let most := i == .regions && s.isMost s.rst.dataIn.want
    let s := s.onInput i (fun u => { u with prov := some x, want := s.leftOf i x u.want })
    (s.onRst (fun r => { r with source := if most then x.1 else r.source })).ask i

/-- Give up the source of an input for the next one, keeping what has landed. -/
def State.leaveSource (s : State) (i : Input) : State :=
  (s.onInput i (fun u => { u with tried := u.tried ++ u.prov.toList })).nextSource i

/-- Switch some inputs to their next sources (R240): one switch. -/
def State.switchInputs (s : State) (l : List Input) : State :=
  if l.isEmpty then s
  else l.foldl State.leaveSource ((s.raise Fld.tierRstErrStatus.sourceSwitch).bump Fld.tierRstCounts.sourceSwitches)

/-- The inputs that wait for a source that a test names. -/
def State.waitingFor (s : State) (t : BitVec 10 × BitVec 7 → Bool) : List Input :=
  ([.record, .manifest, .regions] : List Input).filter (fun i => !(s.rst.input i).want.isEmpty && (s.provAt i).any t)

/-- A device has been declared failed: what waits for it turns to other sources (R240). -/
def State.sourceLost (s : State) (rack : BitVec 10) (pos : BitVec 7) : State := s.switchInputs (s.waitingFor (fun a => a == (rack, pos)))

/-! ## The record (R241) -/

/-- Address of the record of the chosen cut in the record ring. -/
def State.recSlot (s : State) : Nat := s.rdAddr Fld.tierRecBase.base + s.rst.cutStep.toNat % 4 * 16384

/-- Pairs of a record. -/
def recPairs (b : List Byte) : Vector Pair 512 := Vector.ofFn (fun i => Pair.ofBytes ((b.drop (1024 + 16 * i.val)).take 16))

/-- The checks on a record. -/
def State.recordOk (s : State) (b : List Byte) : Bool :=
  b.length == 16384 && (b.drop 16376) == crc64Bytes (b.take 16376) && fieldLE b 0 8 == s.rst.cutStep.toNat &&
  fieldLE b 8 1 == s.rst.cutGen.toNat && (recPairs b).toList.all (fun p => p.c ≤ p.p && p.p - p.c ≤ p.depth)

/-- A record of another step or generation (R232). -/
def State.recordMixed (s : State) (b : List Byte) : Bool :=
  b.length == 16384 && (b.drop 16376) == crc64Bytes (b.take 16376) &&
  (fieldLE b 0 8 != s.rst.cutStep.toNat || fieldLE b 8 1 != s.rst.cutGen.toNat)

/-- Positions of a queue pair from a record; what was submitted and not started is submitted again. -/
def Queue.ofRecord (q : Queue) (size : Nat) (b : List Byte) : Queue :=
  let h := fieldLE b 0 2; let t := fieldLE b 2 2
  { q with
    sqHead := h, sqTail := t, cqHead := fieldLE b 4 2, cqTail := fieldLE b 6 2, phase := bitAt (fieldLE b 8 1) 0,
    subs := List.replicate ((t + size - h) % size) .ring }

/-- Queue positions of the pairs in CMDQ_MASK. -/
def State.recQueues (s : State) (b : List Byte) : State :=
  let m := s.rd Fld.tierRstCtrl.cmdqMask
  let one (q : Nat) (x : Queue) : Queue :=
    if bitAt m q then x.ofRecord (s.rd (Fld.cmdQCfg.sqSize q) + 1) ((b.drop (480 + 16 * q)).take 16) else x
  { s with cmd := { s.cmd with queues := Vector.ofFn (fun i => one i.val (vget s.cmd.queues i.val {})) } }

/-- Sequence numbers of channels, Fulling queues and the cut queue. -/
def State.recSeqs (s : State) (b : List Byte) : State :=
  let w (i : Nat) : W32 := BitVec.ofNat 32 (fieldLE b (320 + 4 * i) 4)
  let s := (List.range 32).foldl (fun s ch =>
    s.putChan ch { s.chan ch with nextSeq := w ch, nextIssue := w ch, issued := [], running := [], lateSeqs := [] }) s
  let s := (List.range 4).foldl (fun s q => s.putFq q { s.fq q with nextSeq := w (32 + q), task := none }) s
  s.onCut (fun u => { u with nextSeq := w 36, prevStep := some s.rst.cutStep })

/-- The halves and cuts as they stand once the chosen cut is back (R234, R241): its half HELD, the other EMPTY; the sets of all other cuts are free
at their hosts (R186), and so are their Shard Map entries (R212); newer cuts are over, since their steps run again. -/
def State.settleHalves (s : State) : State :=
  let c? := s.cutOf s.rst.cutStep s.rst.cutGen
  let keep := match s.localCut s.rst.cutStep s.rst.cutGen with | some c => c.half | none => none
  let one (s : State) (h : Bool) : State :=
    if keep == some h then (if s.half h == .pinned then s else s.putHalf h .held)
    else if s.half h == .pinned then s else s.putHalf h .empty
  let s := one (one s false) true
  let other (c : Cut) : Cut :=
    let c := { c with
      peatArrived := c.peatArrived || s.rst.cutStep.toNat < c.step.toNat || (c.peatDue.isNone && !(c.pinned && c.drainStatus.isNone)) }
    if (c?.map (fun d => d.seq)) == some c.seq then { c with st := .jobCommitted, jobc := true, arrived := true }
    else
      let newer := s.rst.cutStep.toNat < c.step.toNat
      let c := { c with accepted := false, atSet := false, arrived := c.arrived || newer, doneOut := c.doneOut || newer }
      if c.st == .sedgeCommitted then { c with st := .abandoned, status := St.halted, arrived := true } else c
  (s.onCut (fun u => { u with cuts := u.cuts.map other })).mapDrop
    (fun e => e.tier == 0 && !(e.step == s.rst.cutStep && e.gen == s.rst.cutGen))

/-- CGM_TIER_CUT_JOB becomes the chosen cut (R241). -/
def State.jobCutIs (s : State) (step : W64) (gen : BitVec 8) (half : Option Bool) : State :=
  let s := s.setReg Reg.tierCutJob step
  (((s.wr Fld.tierCutJobInfo.gen gen.toNat).wr Fld.tierCutJobInfo.valid 1).wrB Fld.tierCutJobInfo.local half.isSome).wrB
    Fld.tierCutJobInfo.half (half == some true)

/-- Write what a record carries, waking nobody; waits and waiting produces are discarded. -/
def State.recordWrite (s : State) (b : List Byte) : State :=
  let s := s.onSyn (fun y =>
    { y with
      flags := BitVec.ofNat 1024 (fieldLE b 64 128), ovr := BitVec.ofNat 1024 (fieldLE b 192 128), pairs := recPairs b, waiters := [],
      pends := [], held := [] })
  let s := (s.recSeqs b).recQueues b
  let s := (s.setReg Reg.redSrSeed (BitVec.ofNat 64 (fieldLE b 48 8))).setReg Reg.fulSrSeed (BitVec.ofNat 64 (fieldLE b 56 8))
  let rt := s.rdAddr Fld.tierRstRt.base
  let s := if rt = 0 then s else s.store' rt ((b.drop 608).take 256)
  let s := s.settleHalves
  let s := s.jobCutIs s.rst.cutStep s.rst.cutGen ((s.localCut s.rst.cutStep s.rst.cutGen).bind (fun c => c.half))
  let s := s.onFul (fun u => { u with gate := {}, stepAcc := {} })
  s.cutFlush

/-- Lanes and contexts for the verification read: every lane that is free, one for each region at most (R243). -/
def State.verifyLanes (s : State) : State :=
  let need := s.cut.dir.length - (s.chk.lanes.toList.filter (fun l => l == some .verify)).length
  ((List.range 32).filter (fun n => vget s.chk.lanes n none == none)).take need |>.foldl (fun s n => s.takeLane n .verify) s

/-- A valid record is restored, and verification begins. -/
def State.recordGo (s : State) (b : List Byte) : State :=
  ((s.recordWrite b).onRst (fun r => { r with done := { r.done with record := true }, st := .verify, recIn := {} })).verifyLanes

/-- An invalid record (R241, R232). -/
def State.recordBad (s : State) (b : List Byte) : State :=
  ((s.raise Fld.tierRstErrStatus.recordInvalid).onRst (fun r => { r with lastStatus := St.recordInvalid })).raiseIf (s.recordMixed b)
    Fld.tierRstErrStatus.mixedStep

/-- The record of the chosen cut in the own Peat. -/
def State.peatRecord (s : State) : List Byte :=
  match s.entryOf s.rst.cutStep s.rst.cutGen with
  | some e =>
    match s.entryMan e with
    | .ok b => (b.drop (up4k (manRecords b))).take 16384
    | .error _ => []
  | none => []

/-- The record is taken from the next source: asked of another engine, or read from the own Peat, the last source of all. -/
def State.recordNext (s : State) : State :=
  let s := if s.rst.recIn.prov.isSome then s.switchInputs [.record] else s.nextSource .record
  if s.rst.recIn.prov != some (.peat, 0) then s
  else if s.recordOk s.peatRecord then s.recordGo s.peatRecord
  else (s.recordBad s.peatRecord).switchInputs [.record]

/-- The record of the record ring, where one that has landed stands as well, else that of the next source. -/
def State.recordTry (s : State) (ring : List Byte) : State :=
  if s.recordOk ring then s.recordGo ring
  else ((s.recordBad ring).onInput .record (fun u => { u with want := [s.recWant] })).recordNext

/-- Restore the record (R241). -/
def State.recordRestore (s : State) : State :=
  (s.onRst (fun r => { r with done := { r.done with data := true }, st := .record })).recordTry (s.load s.recSlot 16384)

/-! ## The chosen cut (R231, R247) -/

/-- Sets of other owners once a cut is chosen (R186): what holds it is COMMITTED again, every other HELD set is FREE. -/
def State.setsChosen (s : State) : State :=
  (List.range 8).foldl (fun s k =>
    if (s.set k).st == .held then
      if (s.set k).step == s.rst.cutStep && (s.set k).gen == s.rst.cutGen then s.putSet k { s.set k with st := .committed } else s.freeSet k
    else s) s

/-- Begin the data phase (R231, R233, R238): a spare, or the holder of a corrupt copy, asks for record, manifest and regions; another engine
asks for its manifest, and rolls back what a clean live state does not keep. -/
def State.startWork (s : State) : State :=
  let clean := !s.refills && s.cleanFor s.rst.cutStep s.rst.cutGen
  let regs := (if clean then s.cut.dir.filter Region.isSump else s.cut.dir).map s.regWant
  let s := s.onRst (fun r =>
    { r with
      work := true, done := {}, area := [], chosenWaits := false, lastStatus := 0, source := .live, tookLive := clean,
      recIn := { want := if s.refills then [s.recWant] else [] }, manIn := { want := s.manWant }, dataIn := { want := regs },
      st := if s.refills then .refill else .rollback })
  let s := if s.refills then s.nextSource .record else s
  let s := s.nextSource .manifest
  if regs.isEmpty && clean then s.recordRestore else s.nextSource .regions

/-- Arrive at the release barrier. -/
def State.ready (s : State) : State :=
  (s.onRst (fun r => { r with st := .ready })).barArrive (s.rd Fld.tierRstCtrl.releaseBarrier) .release 0 0

/-- Go on with the work of an earlier epoch at its first phase that is not complete (R247); what had not landed is asked for again. -/
def State.resumeWork (s : State) : State :=
  let d := s.rst.done
  if d.verify then s.ready
  else
    let s := s.onRst (fun r =>
      { r with st := if d.record then .verify else if d.data then .record else if s.refills then .refill else .rollback })
    let s := ([.record, .manifest, .regions] : List Input).foldl State.ask s
    if d.record then s.verifyLanes else if d.data then s.recordRestore else s

/-- The takeover of this spare has ended (R235). -/
def State.installed (s : State) : Bool := s.rst.role != .spare || s.rdB Fld.tierCutCtrl.enable

/-- A cut has been chosen. A standby spare keeps it for its takeover, which follows the choice (R248). -/
def State.chosen (s : State) (step : W64) (gen : BitVec 8) : State :=
  if s.spareRole then s.onRst (fun r => { r with cutStep := step, cutGen := gen, cutValid := true, chosenWaits := true, work := false })
  else if s.rst.st != .halted && s.rst.st != .planning then s
  else
    let same := s.rst.work && s.rst.cutValid && s.rst.cutStep == step && s.rst.cutGen == gen
    let s := s.onRst (fun r => { r with cutStep := step, cutGen := gen, cutValid := true, elastic := false, st := .planning })
    let s := s.setsChosen
    if same then s.resumeWork
    else if s.installed then s.startWork
    else s.onRst (fun r => { r with chosenWaits := true, work := false })

/-- A chosen cut that waited for the end of the takeover. -/
def State.chosenLate (s : State) : State :=
  if s.rst.chosenWaits && s.installed && (s.rst.st == .halted || s.rst.st == .planning) then s.startWork else s

/-- NONE: nothing can be restored. -/
def State.planNone (s : State) : State :=
  if s.rst.st == .halted || s.rst.st == .planning then s.onRst (fun r => { r with st := .waiting, lastStatus := St.noSource }) else s

/-! ## Rollback (R233) -/

/-- Bytes of a region of the own Peat generation, each extent checked. -/
def State.peatRegion (s : State) (key : Option (List Byte)) (m : Man) (r : Region) : Option (List Byte) :=
  match m.regions.find? (fun x => x.region.shard == r.shard) with
  | none => none
  | some x =>
    let es := (m.exts.drop x.first).take x.count
    let bs := es.map (s.extLoad key)
    if (es.zip bs).all (fun e => crc64 e.2 == e.1.crc) then some (bs.flatten.take r.len) else none

/-- A region has bytes still to come. -/
def State.wantsRegion (s : State) (r : Region) : Bool := s.rst.dataIn.want.any (fun w => overlap w.1 w.2 (s.regionAt r) r.len)

/-- Copy what is wanted back from the own drive; none when a check fails. -/
def State.peatBack (s : State) : Option State :=
  match s.entryOf s.rst.cutStep s.rst.cutGen with
  | none => none
  | some e =>
    match s.entryKey e, s.entryMan e with
    | some key, .ok b =>
      let m := Man.ofBytes b
      (s.cut.dir.filter s.wantsRegion).foldl (fun a r => match a, s.peatRegion key m r with
        | some t, some bs => some (State.store' t r.live bs)
        | _, _ => none) (some s)
    | _, _ => none

/-- Copy a region back from the half of a cut. -/
def State.copyBack (s : State) (h : Bool) (r : Region) : State := s.store' r.live (s.image (some h) r 0 r.len)

/-- The regions are here. -/
def State.dataHere (s : State) : State := (s.onInput .regions (fun u => { u with want := [] })).recordRestore

/-- ROLLBACK_COMPLETE: every copy has been acknowledged; then the record. -/
def doRollbackComplete (s : State) : Out :=
  if !s.fw || s.rst.st != .rollback then .next s
  else if s.rst.dataIn.want.isEmpty then .next s.recordRestore
  else
    match s.rst.dataIn.prov, (s.localCut s.rst.cutStep s.rst.cutGen).bind (fun c => c.half) with
    | some (.batt, _), some h => .next ((s.cut.dir.filter s.wantsRegion).foldl (fun s r => s.copyBack h r) s).dataHere
    | some (.peat, 0), _ =>
      match s.peatBack with
      | some s => .next s.dataHere
      | none => .next (s.switchInputs [.regions])
    | _, _ => .next s

/-! ## Refill (R238 to R240) -/

/-- Write the part of a landing that falls in a region to its LIVE_ADDR. -/
def State.landRegion (off : Nat) (bs : List Byte) (s : State) (r : Region) : State :=
  let a := s.regionAt r
  let lo := max off a
  let hi := min (off + bs.length) (a + r.len)
  if lo < hi then s.store' (r.live + (lo - a)) ((bs.drop (lo - off)).take (hi - lo)) else s

/-- Land bytes at a set offset: regions at LIVE_ADDR, the record in its ring slot, commit record and manifest in the area of a survivor and
the first 16 MiB of a spare's pool. -/
def State.landAt (s : State) (off : Nat) (bs : List Byte) : State :=
  let t := s.tBytes
  let s := s.cut.dir.foldl (State.landRegion off bs) s
  if off + bs.length ≤ t then s
  else
    let o := off - t
    let b := bs.drop (t - off)
    let s := if o < 16384 then s.store' (s.recSlot + o) (b.take (16384 - o)) else s
    let s := s.onRst (fun r => { r with area := Memory.putBytes r.area o b })
    if s.rst.role == .spare && 16384 ≤ o then s.store' (s.rdAddr Fld.tierSedgePool.base + o) b else s

/-- Bytes of a set-offset range that a source serves from its half, its live state and its records (R238). -/
def State.serveBytes (s : State) (c : Cut) (off n : Nat) : List Byte :=
  let t := s.tBytes
  let one (m : Memory) (r : Region) : Memory :=
    let a := s.regionAt r
    let lo := max off a
    let hi := min (off + n) (a + r.len)
    if lo < hi then Memory.putBytes m lo (s.image (if (s.localCut c.step c.gen).isSome then c.half else none) r (lo - a) (hi - lo)) else m
  let m := s.cut.dir.foldl one []
  let put (m : Memory) (at' : Nat) (b : List Byte) : Memory :=
    let lo := max off at'
    let hi := min (off + n) (at' + b.length)
    if lo < hi then Memory.putBytes m lo ((b.drop (lo - at')).take (hi - lo)) else m
  let m := put m t (if c.record.isEmpty then s.load s.recSlot 16384 else c.record)
  let m := if s.allRead c then
      put (put m (t + 16384) (s.commitRecord c)) (t + 65536) (s.manifest c 0 0 false (fun _ => 0))
    else
      let lo := max off (t + 16384)
      let hi := min (off + n) (t + 0x1000000)
      Memory.putBytes m lo (Memory.bytesAt s.rst.area (lo - t) (hi - lo))
  Memory.bytesAt m off n

/-- The set of a requester that holds a cut whose STEP has these low bits. -/
def State.askedSet (s : State) (rack : BitVec 10) (pos : BitVec 7) (stepLo : W32) : Option Nat :=
  (s.slotOf rack pos).bind (fun slot => [2 * slot, 2 * slot + 1].find? (fun k =>
    ((s.set k).st == .committed || (s.set k).st == .held) && BitVec.ofNat 32 (s.set k).step.toNat == stepLo))

/-- Send refill data of a cut as one transfer (R226). -/
def State.refillSend (s : State) (rack : BitVec 10) (pos : BitVec 7) (step : W64) (cgen : BitVec 8) (off : Nat) (bs : List Byte) : State :=
  let ((tag, gen), s) := s.allocTag
  let ps := piecesOf 2048 (bs.length / 2048 + 1) bs
  let one (s : State) (i : Nat) : State :=
    let p := ps.getD i []
    let o := off + 2048 * i
    let f : Frame :=
      { tag := BitVec.ofNat 20 tag, gen := gen, seq := s.epochSeq 0, stepLo := BitVec.ofNat 32 step.toNat,
        offset := BitVec.ofNat 48 (o % 2 ^ 38 + cgen.toNat * 2 ^ 38), count := BitVec.ofNat 16 (p.length / 4), payload := p }
    (s.sendTo rack pos Ty.refillData f).onRst (fun r => { r with sentData := r.sentData ++ [(tag, gen, o, p.length / 4)] })
  (List.range ps.length).foldl one s

/-- Bytes of a part of a region on the own Peat; none when an extent that it touches fails its check (R218, R252). -/
def State.peatPart (s : State) (key : Option (List Byte)) (m : Man) (r : Region) (lo hi : Nat) : Option (List Byte) :=
  match m.regions.find? (fun x => x.region.shard == r.shard) with
  | none => none
  | some x =>
    let first := lo / extentBytes
    let es := (((m.exts.drop x.first).take x.count).drop first).take ((hi + extentBytes - 1) / extentBytes - first)
    let bs := es.map (s.extLoad key)
    if (es.zip bs).all (fun e => crc64 e.2 == e.1.crc) then some ((bs.flatten.drop (lo - first * extentBytes)).take (hi - lo)) else none

/-- What a Peat generation has in place of a commit record: its group digest, in that form (assumption 131). -/
def State.entryCommit (s : State) (e : CatEntry) : List Byte :=
  leBytes 8 e.step.toNat ++ leBytes 1 e.gen.toNat ++ leBytes 1 (1 + 2 * b2n s.replOn + 4 * b2n e.battless) ++ leBytes 1 1 ++ leBytes 1 0xC7 ++
    leBytes 4 s.cut.dir.length ++ fitTo 48 e.group

/-- The manifest of a generation that the engine serves from: its header and its region digests agree with the catalogue entry (R243, R250). -/
def State.goodMan (s : State) (e : CatEntry) : Except Status (List Byte) :=
  match s.entryMan e with
  | .error st => .error st
  | .ok b =>
    if !manHeadOk b then .error St.crcMismatch
    else if sha384 ((Man.ofBytes b).regions.flatMap (fun x => x.digest)) != e.group then .error St.digestMismatch else .ok b

/-- Bytes of a set-offset range from a generation of the own Peat; none when its manifest or an extent fails its check (R231, R250). -/
def State.peatBytes (s : State) (e : CatEntry) (off n : Nat) : Option (List Byte) :=
  match s.entryKey e, s.goodMan e with
  | some key, .ok b =>
    let t := s.tBytes
    let put (m : Memory) (at' : Nat) (b : List Byte) : Memory :=
      let lo := max off at'
      let hi := min (off + n) (at' + b.length)
      if lo < hi then Memory.putBytes m lo ((b.drop (lo - at')).take (hi - lo)) else m
    let one (a : Option Memory) (r : Region) : Option Memory :=
      let at' := s.regionAt r
      let lo := max off at'
      let hi := min (off + n) (at' + r.len)
      match a with
      | none => none
      | some m =>
        if lo < hi then (s.peatPart key (Man.ofBytes b) r (lo - at') (hi - at')).map (fun bs => Memory.putBytes m lo bs) else some m
    (s.cut.dir.foldl one (some [])).map (fun m =>
      Memory.bytesAt (put (put (put m t ((b.drop (up4k (manRecords b))).take 16384)) (t + 16384) (s.entryCommit e)) (t + 65536) b) off n)
  | _, _ => none

/-- Serve a range from the own Peat: while a job runs here, as a donor to another one (R250). -/
def State.peatServe (s : State) (e : CatEntry) (rack : BitVec 10) (pos : BitVec 7) (off n : Nat) : State :=
  if s.red.tags.freeCount = 0 then s
  else match s.peatBytes e off n with
    | none => s
    | some b =>
      let s := if s.halted then s else s.onRst (fun r => { r with role := .donor })
      s.refillSend rack pos e.step e.gen off b

/-- REFILL_REQUEST: a host serves the requester's set (for a restore, or for a READ SHARD or VERIFY at Sedge, R310); an engine of a halted job
serves its own copy of the chosen cut, from its half, its live state or its Peat; outside a halt it serves a replica from its halves (for a
SCRUB, R315), and others from its Peat. -/
def execRefillRequest (n : Fin 42) (f : Frame) (s : State) : Out :=
  .next (s.rstRecv n Ty.refillRequest f fun s =>
    let off := fieldLE f.payload 0 8
    let k := fieldLE f.payload 8 8
    let r := s.rst
    let rack := f.srcRack
    let pos := f.srcPos
    if f.payload.length ≠ 16 || k = 0 || k % 4 ≠ 0 then s.staleAt n
    else match s.askedSet rack pos f.stepLo with
      | some i =>
        if (s.set i).pages.length * pageBytes < off + k || s.red.tags.freeCount = 0 then s
        else s.refillSend rack pos (s.set i).step (s.set i).gen off (s.setLoad i off k)
      | none =>
        if !s.halted then
          let half := s.cut.cuts.find? (fun c => BitVec.ofNat 32 c.step.toNat == f.stepLo && (s.localCut c.step c.gen).isSome)
          let held := s.entries.find? (fun e => BitVec.ofNat 32 e.step.toNat == f.stepLo)
          match half, held with
          | some c, e =>
            if s.replOn && s.replMembers.contains (rack, pos) then
              (if s.red.tags.freeCount = 0 then s else s.refillSend rack pos c.step c.gen off (s.serveBytes c off k))
            else (match e with | some e => s.peatServe e rack pos off k | none => s.staleAt n)
          | none, some e => s.peatServe e rack pos off k
          | none, none => s.staleAt n
        else if !r.cutValid then s.staleAt n
        else if BitVec.ofNat 32 r.cutStep.toNat != f.stepLo then s.raise Fld.tierRstErrStatus.mixedStep
        else match s.cutOf r.cutStep r.cutGen, s.entryOf r.cutStep r.cutGen with
          | some c, e =>
            if (s.localCut c.step c.gen).isSome || s.cleanFor c.step c.gen then
              (if s.red.tags.freeCount = 0 then s else s.refillSend rack pos r.cutStep r.cutGen off (s.serveBytes c off k))
            else (match e with | some e => s.peatServe e rack pos off k | none => s)
          | none, some e => s.peatServe e rack pos off k
          | none, none => s)

/-- A command waits for bytes of a frame: from its sender, of its cut. -/
def Ctx.wants (c : Ctx) (f : Frame) : Bool :=
  !c.finished && !c.abandoned && !c.want.isEmpty &&
  match c.fetch with
  | some (r, p, step, gen) =>
    f.srcRack == r && f.srcPos == p && f.stepLo == BitVec.ofNat 32 step.toNat && f.offset.toNat / 2 ^ 38 % 256 == gen.toNat
  | none => false

/-- Refill data lands in every command that waits for it (R310, R315); the answer says whether one did. -/
def State.landReads (s : State) (f : Frame) : State × Bool :=
  let off := f.offset.toNat % 2 ^ 38
  let k := f.payload.length
  if k = 0 || k ≠ f.count.toNat * 4 || 2 ^ 46 ≤ f.offset.toNat then (s, false)
  else
    let ks := s.ctxsWith (fun c => c.wants f && cutRange off k c.want != c.want)
    (ks.foldl (fun s i => match s.ctx? i with
      | some c => s.putCtx i { c with want := cutRange off k c.want, area := Memory.putBytes c.area off f.payload, arrival := s.now }
      | none => s) s, !ks.isEmpty)

/-- The sender of a frame is the provider of the input that it belongs to, and that input is not here yet. -/
def State.fromProv (s : State) (f : Frame) : Bool :=
  let i := s.inputAt (f.offset.toNat % 2 ^ 38)
  s.provAt i == some (f.srcRack, f.srcPos) && !(s.rst.input i).want.isEmpty

/-- Bytes at a set offset are here. -/
def Rst.landed (r : Rst) (off k : Nat) : Rst :=
  { r with
    recIn := { r.recIn with want := cutRange off k r.recIn.want }, manIn := { r.manIn with want := cutRange off k r.manIn.want },
    dataIn := { r.dataIn with want := cutRange off k r.dataIn.want } }

/-- Bytes at a set offset are no longer waited for. -/
def State.hasLanded (s : State) (off k : Nat) : State := s.onRst (fun r => r.landed off k)

/-- REFILL_DATA: of the chosen cut it lands and is acknowledged; other input is refused, and the source switched. -/
def execRefillData (n : Fin 42) (f : Frame) (s : State) : Out :=
  let off := f.offset.toNat % 2 ^ 38
  .next (s.recv n Ty.refillData f (badCrc := fun s => if s.fromProv f then s.switchInputs [s.inputAt off] else s)
    fun s =>
      if frameEpoch f != s.rst.epoch then s.staleRestore
      else
        let ack : Frame := { tag := f.tag, gen := f.gen, seq := f.seq, stepLo := f.stepLo, offset := f.offset, count := f.count }
        let (s, read) := s.landReads f
        let k := f.payload.length
        if !s.fromProv f then (if read then s.sendTo f.srcRack f.srcPos Ty.refillAck ack else s.staleAt n)
        else if f.stepLo != BitVec.ofNat 32 s.rst.cutStep.toNat || f.offset.toNat / 2 ^ 38 % 256 ≠ s.rst.cutGen.toNat then
          (if read then s.sendTo f.srcRack f.srcPos Ty.refillAck ack
           else (s.raise Fld.tierRstErrStatus.mixedStep).switchInputs [s.inputAt off])
        else if k = 0 || k ≠ f.count.toNat * 4 || 2 ^ 46 ≤ f.offset.toNat then s.staleAt n
        else
          let s := ((s.landAt off f.payload).hasLanded off k).onRst (fun r => { r with arrival := s.now })
          s.sendTo f.srcRack f.srcPos Ty.refillAck ack)

/-- REFILL_ACK: the frame has landed; with the last of its transfer the tag is released. -/
def execRefillAck (n : Fin 42) (f : Frame) (s : State) : Out :=
  .next (s.rstRecv n Ty.refillAck f fun s =>
    let off := f.offset.toNat % 2 ^ 38
    let hit (x : Nat × BitVec 4 × Nat × Nat) : Bool := x.1 == f.tag.toNat && x.2.1 == f.gen && x.2.2.1 == off && x.2.2.2 == f.count.toNat
    if !s.rst.sentData.any hit then s.staleAt n
    else
      let rest := removeFirst hit s.rst.sentData
      let s := s.onRst (fun r => { r with sentData := rest })
      if rest.any (fun x => x.1 == f.tag.toNat) then s else s.releaseTag f.tag.toNat)

/-! ## Elastic restore (R250 to R253) -/

/-- An entry of a source map (R251). -/
structure MapRow where
  target : W32
  rack : Nat
  pos : Nat
  source : W32
  first : Nat
  count : Nat
  reserved : Bool
deriving DecidableEq, Repr

def mapRows : Nat → List Byte → List MapRow
  | 0, _ => []
  | n + 1, b =>
    let x (i k : Nat) : Nat := fieldLE b i k
    { target := BitVec.ofNat 32 (x 0 4), rack := x 4 2, pos := x 6 1, source := BitVec.ofNat 32 (x 8 4), first := x 16 6, count := x 24 6,
      reserved := x 7 1 != 0 || x 12 4 != 0 || x 22 2 != 0 || x 30 2 != 0 } :: mapRows n (b.drop 32)

/-- The rows of a source map that name a Mire image. -/
def MapRow.mire (m : MapRow) : Bool := m.rack == 0xFFFF

/-- Set-offset ranges that the steward host writes from Mire images: for each row its place in the target region. -/
def State.mireRanges (s : State) (rows : List MapRow) : List (Nat × Nat) :=
  s.cut.dir.flatMap (fun r =>
    ((rows.filter (fun m => m.target == r.shard)).foldl (fun (a : Nat × List (Nat × Nat)) m =>
      let es := fmtBytes r.fmt
      (a.1 + m.count, if m.mire && m.count != 0 then a.2 ++ [(s.regionAt r + a.1 * es, m.count * es)] else a.2)) (0, [])).2)

/-- Target regions of the runs of entries that name the same one. -/
def mapRuns : List MapRow → List W32
  | [] => []
  | m :: t => match mapRuns t with
    | x :: l => if x == m.target then x :: l else m.target :: x :: l
    | [] => [m.target]

/-- The pieces of the map belong together: the entries of a region contiguous, their counts summing to its ELEMS. -/
def State.mapOk (s : State) (rows : List MapRow) : Bool :=
  let heads := mapRuns rows
  heads.eraseDups.length == heads.length && heads.all (fun h => s.cut.dir.any (fun r => r.shard == h)) &&
  s.cut.dir.all (fun r => ((rows.filter (fun m => m.target == r.shard)).foldl (fun n m => n + m.count) 0) == r.elems) &&
  s.tBytes + 0x1000000 ≤ 0x4000000000

/-- Elements of a row from the own Peat generation, each extent checked whole (R252), or the status that refuses it. -/
def State.ownElems (s : State) (r : Region) (pos : Nat) (m : MapRow) : Except Status (List Byte) :=
  match s.entryOf s.rst.cutStep s.rst.cutGen with
  | none => .error St.reshardInvalid
  | some e =>
    match s.goodMan e, s.entryKey e with
    | .error st, _ => .error st
    | .ok _, none => .error St.keyAbsent
    | .ok b, some key =>
      let man := Man.ofBytes b
      match man.regions.find? (fun x => x.region.shard == m.source) with
      | none => .error St.reshardInvalid
      | some x =>
        let q := x.region
        let es := fmtBytes r.fmt
        if q.tensor != r.tensor || q.role != r.role || q.fmt != r.fmt || q.elems < m.first + m.count || q.firstElem + m.first ≠ r.firstElem + pos then
          .error St.reshardInvalid
        else
          let lo := m.first * es / extentBytes
          let hi := (((m.first + m.count) * es) + extentBytes - 1) / extentBytes
          let exts := ((man.exts.drop x.first).take x.count).drop lo |>.take (hi - lo)
          let bs := exts.map (s.extLoad key)
          if (exts.zip bs).all (fun z => crc64 z.2 == z.1.crc) then
            .ok ((bs.flatten.drop (m.first * es - lo * extentBytes)).take (m.count * es))
          else .error St.crcMismatch

/-- One row of the map: elements of the own generation, or of another engine, whose answer the manual gives no frame for: free bytes, or one
of its two refusals (assumption 41). A Mire row has been written by WRITE SHARD commands, and nothing brings the shard table record of its
source region, so whether it is refused is free too. -/
def State.elasticRow (s : State) (r : Region) (pos : Nat) (m : MapRow) : State × Option Status :=
  let a := r.live + pos * fmtBytes r.fmt
  if m.count = 0 then (s, none)
  else if m.mire then
    let (b, s) := s.pickBool
    (s, if b then some St.reshardInvalid else none)
  else if s.isMe (BitVec.ofNat 10 m.rack) (BitVec.ofNat 7 m.pos) then
    match s.ownElems r pos m with
    | .ok b => (s.store' a b, none)
    | .error st => (s, some st)
  else
    let (k, s) := s.pickFree 3
    if k = 1 then (s, some St.reshardInvalid)
    else if k = 2 then (s, some St.crcMismatch)
    else
      let (b, s) := s.freeBytes (m.count * fmtBytes r.fmt)
      (s.store' a b, none)

/-- Re-slice every region (R252). -/
def State.elasticCopy (s : State) (rows : List MapRow) : State × Option Status :=
  s.cut.dir.foldl (fun (a : State × Option Status) r =>
    let mine := rows.filter (fun m => m.target == r.shard)
    let z := mine.foldl (fun (b : (State × Option Status) × Nat) m =>
      match b.1.2 with
      | some _ => b
      | none => (b.1.1.elasticRow r b.2 m, b.2 + m.count)) (a, 0)
    z.1) (s, none)

/-- Record of the old rank 0: the own one when the own generation is that rank's, else another engine's, which the manual gives no frame for:
free (assumption 41). -/
def State.rankZeroRecord (s : State) : List Byte × State :=
  match s.entryOf s.rst.cutStep s.rst.cutGen with
  | some e =>
    match s.entryMan e with
    | .ok b => if fieldLE b 24 4 = 0 then ((b.drop (up4k (manRecords b))).take 16384, s) else s.freeBytes 16384
    | .error _ => s.freeBytes 16384
  | none => s.freeBytes 16384

/-- A refused elastic restore ends; the engine waits for another command. -/
def State.elasticRefuse (s : State) (st : Status) : State :=
  let s := if st = St.reshardInvalid then s.raise Fld.tierRstErrStatus.reshardInvalid else s
  let s := match s.rst.restoreCtx with | some k => s.ctxEnd k st 0 0 | none => s
  s.onRst (fun r => { r with st := .waiting, lastStatus := st, elastic := false, restoreCtx := none, elasticMap := [], dataIn := {}, work := false })

/-- Every element has landed: flags, pairs and sequence numbers of the new job are zero, seeds and runtime area are the old rank 0's (R253);
verification follows. -/
def State.elasticDone (s : State) : State :=
  let rows := mapRows (s.rst.elasticMap.length / 32) s.rst.elasticMap
  match s.elasticCopy rows with
  | (s, some st) => s.elasticRefuse st
  | (s, none) =>
    let (b, s) := s.rankZeroRecord
    let s := s.onSyn (fun y =>
      { y with flags := 0, ovr := 0, pairs := Vector.replicate 512 {}, waiters := [], pends := [], held := [] })
    let s := s.recSeqs (zeros 16384)
    let s := (s.setReg Reg.redSrSeed (BitVec.ofNat 64 (fieldLE b 48 8))).setReg Reg.fulSrSeed (BitVec.ofNat 64 (fieldLE b 56 8))
    let rt := s.rdAddr Fld.tierRstRt.base
    let s := if rt = 0 then s else s.store' rt ((b.drop 608).take 256)
    let s := s.onFul (fun u => { u with gate := {}, stepAcc := {} })
    (s.onRst (fun r => { r with done := { data := true, record := true }, st := .verify })).verifyLanes

/-- REFILL_COMPLETE: every byte has landed and been acknowledged; then the record. -/
def doRefillComplete (s : State) : Out :=
  let r := s.rst
  let all := r.want.isEmpty
  let remote := (s.provAt .regions).isSome
  if !s.fw || !r.work then .next s
  else if r.st == .refill && all then .next (if r.elastic then s.elasticDone else s.recordRestore)
  else if (r.st == .rollback && remote && r.dataIn.want.isEmpty) || (r.st == .record && r.recIn.want.isEmpty) then .next s.recordRestore
  else .next s

/-- Commands that read the own Sedge set, and nothing has arrived for 50 ms. -/
def State.readsLate (s : State) : List Nat :=
  s.ctxsWith (fun c => !c.finished && !c.abandoned && c.asked && !c.want.isEmpty && s.elapsed c.arrival (msTicks 50))

/-- REFILL_WATCHDOG_EXPIRY: nothing has arrived for 50 ms. -/
def doRefillWatchdogExpiry (race : Race) (s : State) : Out :=
  let waits := s.waitingFor (fun _ => true)
  if !s.readsLate.isEmpty then
    let t := s.logRace Unit'.tier s.rst.epoch.toNat Wd.refill race
    if race = .arrivalWon then .next t else .next (s.readsLate.foldl (fun s k => s.ctxEnd k St.lengthShort 0 0) t)
  else if !s.fw || waits.isEmpty || !s.elapsed s.rst.arrival (msTicks 50) then .next s
  else
    let s := s.logRace Unit'.tier s.rst.epoch.toNat Wd.refill race
    if race = .arrivalWon then .next s
    else .next ((s.logAbort Unit'.tier 0 s.rst.epoch.toNat 0 St.lengthShort).switchInputs waits)

/-! ## Verification (R243, R244) -/

/-- Manifest and agreed group digest that the restored state is held against: the own Peat generation's, or what landed. A Mire image has no
commit record: its manifest's own GROUP_DIGEST stands for it. -/
def State.verifyAgainst (s : State) : Option (List Byte × List Byte) :=
  match s.rst.manIn.prov, s.entryOf s.rst.cutStep s.rst.cutGen with
  | some (.peat, 0), some e =>
    match s.entryMan e with
    | .ok b => some (b, e.group)
    | .error _ => none
  | some (.mire, _), _ =>
    let b := Memory.bytesAt s.rst.area 65536 (s.manWant.getD 0 (0, 0)).2
    some (b, (b.drop 64).take 48)
  | _, _ =>
    let b := Memory.bytesAt s.rst.area 65536 (s.manWant.getD 0 (0, 0)).2
    let com := Memory.bytesAt s.rst.area 16384 64
    let repl := !s.replOn || (bitAt (fieldLE com 9 1) 0 && s.rst.cutStep.toNat == fieldLE com 0 8)
    if repl then some (b, com.drop 16) else none

/-- A region as it stands in memory equals its manifest record. -/
def State.regionGood (s : State) (m : Man) (r : Region) : Bool :=
  match m.regions.find? (fun x => x.region.shard == r.shard) with
  | none => false
  | some x =>
    let b := s.load r.live r.len
    sha384 b == x.digest && extentCrcs b == ((m.exts.drop x.first).take x.count).map (fun e => e.crc)

/-- The manifest is one of another step or generation (R232). -/
def State.manMixed (s : State) : Bool :=
  match s.verifyAgainst with
  | some (b, _) => manHeadOk b && (fieldLE b 8 8 != s.rst.cutStep.toNat || fieldLE b 5 1 != s.rst.cutGen.toNat)
  | none => false

/-- The manifest itself fails: its header, or its region digests against the agreed group digest. -/
def State.manFails (s : State) : Bool :=
  match s.verifyAgainst with
  | none => true
  | some (b, group) => !manHeadOk b || sha384 ((Man.ofBytes b).regions.flatMap (fun x => x.digest)) != group

/-- Regions that fail verification; all of them when the manifest itself does. -/
def State.verifyFails (s : State) : List Region :=
  if s.manFails then s.cut.dir
  else match s.verifyAgainst with
    | none => s.cut.dir
    | some (b, _) => s.cut.dir.filter (fun r => !s.regionGood (Man.ofBytes b) r)

/-- A spare keeps the restored regions in a Batt half as well, which is then HELD; the manual names no structure that tells it which half
(assumption 24). What came from the Sedge host stands in a set of its own there, and nothing tells it which of the two. -/
def State.spareHalf (s : State) : State :=
  let (h, s) := s.pickBool
  let (k, s) := s.pickFree 2
  let hosted := s.rst.manIn.prov == some (.sedge, 0)
  let s := s.cut.dir.foldl (fun s r =>
    let b := s.load r.live r.len
    if r.isSump then { s with sump := Memory.putBytes s.sump (sumpKey h r.offset) b } else s.store' (s.battBase h + r.offset) b) s
  let c : Cut :=
    { seq := s.cut.nextSeq - 1, step := s.rst.cutStep, gen := s.rst.cutGen, half := some h, st := .jobCommitted, jobc := true,
      sealTaken := true, arrived := true, doneOut := true, accepted := hosted, atSet := hosted, set := k, record := s.load s.recSlot 16384 }
  let s := (s.putHalf h .held).putHalf (!h) .empty
  (s.onCut (fun u => { u with cuts := c :: u.cuts })).jobCutIs s.rst.cutStep s.rst.cutGen (some h)

/-- Take the manifest again, from its next source. -/
def State.retakeMan (s : State) : State := (s.onInput .manifest (fun u => { u with want := s.manWant })).switchInputs [.manifest]

/-- Regions to be taken again, from the next source (R244): after a clean live state the first of the others, else the one after their own. -/
def State.retake (s : State) (rs : List Region) : State :=
  let s := rs.foldl (fun s r => s.logAbort Unit'.tier 0 s.rst.epoch.toNat r.shard.toNat St.digestMismatch) (s.raise Fld.tierRstErrStatus.verifyFail)
  let s := s.onRst (fun r =>
    { r with
      st := if s.refills then .refill else .rollback, done := {}, lastStatus := St.digestMismatch, tookLive := false,
      dataIn := { r.dataIn with want := rs.map s.regWant, prov := if r.tookLive then none else r.dataIn.prov } })
  s.switchInputs [.regions]

/-- VERIFY_COMPLETE: the read has ended; everything passes, or regions are taken again. -/
def doVerifyComplete (s : State) : Out :=
  if !s.fw || s.rst.st != .verify || !s.rst.want.isEmpty then .next s
  else
    let s := (s.dropLanes (fun u => u == .verify)).dropCtxs (fun u => u == .verify)
    if !s.rst.elastic && s.manMixed then .next ((s.raise Fld.tierRstErrStatus.mixedStep).retakeMan).verifyLanes
    else
      let bad := if s.rst.elastic then [] else s.verifyFails
      if bad.isEmpty then
        let s := if s.rst.role == .spare && !s.rst.elastic then s.spareHalf else s
        .next ((s.onRst (fun r => { r with done := { r.done with verify := true } })).ready)
      else .next ((if s.manFails then s.retakeMan else s).retake bad)

/-! ## Release (R245) -/

/-- An owner whose host was lost felts its HELD half again, to the new host: every region, the record, and no keep (R237). -/
def State.refeltStart (s : State) : State :=
  match s.cut.cuts.find? (fun c => c.st == .jobCommitted && !c.refused && (match c.half with | some h => s.half h == .held | none => false)) with
  | some c =>
    if !s.cut.unhosted || !s.rdB Fld.tierPartner.valid then s
    else
      let all := s.cut.dir.foldl (fun n r => n + r.len) 16384
      let s := s.putCut
        { c with
          refelt := true, accepted := false, atSet := false, sums := [], recSent := false, manSent := false, comSent := false, out := [], runs := [],
          feltEnd := none, keep := some true }
      s.toPartner Ty.cutNotice (cutFrame c.step c.gen 0 (leBytes 8 all))
  | none => s


/-- Code of a source, as CGM_TIER_RST_STATUS.SOURCE. -/
def Source.code : Source → Nat
  | .live => 0 | .batt => 1 | .sedge => 2 | .replica => 3 | .peat => 4 | .mire => 5 | .donors => 6

/-- Code of a role, as CGM_TIER_RST_STATUS.ROLE. -/
def RstRole.code : RstRole → Nat
  | .survivor => 0 | .spare => 1 | .inPlace => 2 | .donor => 3

/-- The release barrier has completed; at the release the Warden sets CGM_TIER_CUT_GEN (R161). -/
def State.released (s : State) : State :=
  if s.rst.st != .ready then s
  else
    let s := if s.rdB Fld.tierRstCtrl.haltFlagEn then s.clearFlagNow (s.rd Fld.tierRstCtrl.haltFlag) else s
    let r := s.rst
    let s := s.logIt Kind.restore 0 Unit'.tier
      (leBytes 8 r.cutStep.toNat ++ leBytes 2 r.epoch.toNat ++ leBytes 1 r.cutGen.toNat ++ leBytes 1 (r.source.code + 8 * r.role.code))
    let s := (s.bump Fld.tierRstCounts.restores).wr Fld.tierCutGen.gen (r.cutGen.toNat + 1)
    (s.onRst (fun r =>
      { r with
        st := .running, role := .survivor, corrupt := false, majority := [], faulted := false, oldPos := none, lastStatus := St.success,
        queries := [], work := false, done := {}, recIn := {}, manIn := {}, dataIn := {}, tookLive := false, area := [],
        elastic := false })).redReleased.refeltStart

/-- FENCE naming this engine's rank: what the engine remembers of it (the reset itself is R48's). -/
def State.fencesMe (s : State) (f : Frame) : Bool := f.payload.length == 8 && fieldLE f.payload 0 4 == s.myRank

end Sys2Proof.Machine
end

