-- ==== Sys2Proof/Machine/Warden.lean ====
section
/-! DEFINITION. The rack Warden, group Warden and lead: detection, classification, planning (R221 to R230, R248), and the election (R354 to
R357). -/
namespace Sys2Proof.Machine

def State.onWarden (s : State) (f : Warden → Warden) : State := { s with warden := f s.warden }
def State.onElect (s : State) (f : Elect → Elect) : State := { s with elect := f s.elect }

/-- Heartbeat interval and the silence after which a sender is declared failed (R222). -/
def State.hbTicks (s : State) : Nat := msTicks (s.rd Fld.tierHbCfg.hbIntervalMs)
def State.missTicks (s : State) : Nat := s.hbTicks * s.rd Fld.tierHbCfg.missLimit

/-! ## Members -/

def State.member? (s : State) (rack : BitVec 10) (pos : BitVec 7) : Option Member :=
  s.warden.members.find? (fun m => m.rack == rack && m.pos == pos)

/-- Record a member, replacing what is known of it. -/
def State.putMember (s : State) (m : Member) : State :=
  s.onWarden (fun w => { w with members := m :: w.members.filter (fun x => !(x.rack == m.rack && x.pos == m.pos)) })

/-- Standby spares of the rack. -/
def State.standbySpares (s : State) : Nat :=
  min 8 (s.warden.members.filter (fun m => m.rack == s.myRack && m.standby && m.cls != .failed)).length

/-- Spare positions that hold ranks. -/
def State.sparesInUse (s : State) : Nat :=
  min 8 (s.warden.members.filter (fun m => m.rack == s.myRack && m.spare && !m.standby && m.cls != .failed)).length

/-- Ranks lost, as far as this Warden has been told. -/
def State.lostRanks (s : State) : Nat := s.warden.others.foldl (fun n x => n + x.2) s.warden.failed.length

/-! ## Roles (R357) -/

/-- Racks whose Warden is known to be in service: this one, those heard of and not lost, and the parent's. -/
def State.wardenRacks (s : State) : List Nat :=
  let heard := (s.warden.members.filter (fun m => m.rack != s.myRack && m.cls != .failed)).map (fun m => m.rack.toNat)
  let up := match s.upWarden with
    | some (r, p) => if r != s.myRack && !s.warden.members.any (fun m => m.rack == r && m.pos == p && m.cls == .failed) then [r.toNat] else []
    | none => []
  (s.myRack.toNat :: heard ++ up).eraseDups

/-- The role that the order of R357 gives this Warden: 1 rack, 2 group, 3 lead. -/
def State.rightRole (s : State) : Nat :=
  let me := s.myRack.toNat
  if s.wardenRacks.all (fun r => me ≤ r) then 3
  else if (s.wardenRacks.filter (fun r => r / 32 == me / 32)).all (fun r => me ≤ r) then 2 else 1

/-- Parent in the tree for a role: the Warden of the lowest rack of the group, or of all. -/
def State.rightUp (s : State) (role : Nat) : Option (BitVec 10 × BitVec 7) :=
  let ok (m : Member) : Bool :=
    m.rack != s.myRack && m.cls != .failed && (role != 1 || m.rack.toNat / 32 == s.myRack.toNat / 32)
  ((s.warden.members.filter ok).foldl (fun (a : Option Member) m => match a with
    | some x => if m.rack.toNat < x.rack.toNat then some m else a
    | none => some m) none).map (fun m => (m.rack, m.pos))

/-- Rewrite the tree of an enabled tree barrier for a role. -/
def State.treeRole' (s : State) (role t : Nat) : State :=
  if !s.rdB (Fld.synBarCfg.enable (16 + t)) then s
  else
    let racks := s.wardenRacks
    let n := if role = 3 then (racks.map (fun r => r / 32)).eraseDups.length
      else if role = 2 then (racks.filter (fun r => r / 32 == s.myRack.toNat / 32)).length else s.rd (Fld.synTbarTree.children t)
    let s := (s.wr (Fld.synTbarTree.role t) role).wr (Fld.synTbarTree.children t) n
    if role = 3 then s
    else match s.rightUp role with
      | some (r, p) => (s.wr (Fld.synTbarTree.upRack t) r.toNat).wr (Fld.synTbarTree.upPos t) p.toNat
      | none => s

/-- Take a role. -/
def State.setRole (s : State) (role : Nat) : State :=
  if s.rd Fld.ctlElect.role = role then s
  else
    let s := (s.wr Fld.ctlElect.role role).raise Fld.ctlErrStatus.roleChange
    if role = 0 then s else (List.range 4).foldl (fun s t => s.treeRole' role t) s

/-! ## Raising a halt (R227, R228, R248) -/

/-- Send a frame to everyone that this Warden exchanges heartbeats with, save some. -/
def State.toPeers (s : State) (skip : List (BitVec 10 × BitVec 7)) (ty : BitVec 8) (f : Frame) : State :=
  (s.peers.filter (fun m => !skip.contains m)).foldl (fun s m => s.sendTo m.1 m.2 ty f) s

/-- A halt frame of an epoch, with the failed ranks that this Warden knows of. -/
def State.haltFrame (s : State) (e : BitVec 16) : Frame :=
  ctlFrame { seq := BitVec.ofNat 32 e.toNat } (leBytes 2 s.lostRanks ++ zeros 6)

/-- Begin the classification of R224: nobody is known to be alive. -/
def State.classStart (s : State) : State :=
  s.onWarden (fun w =>
    { w with
      job := .halting, cands := [], voting := none,
      members := w.members.map (fun m => if m.standby || m.cls == .failed then m else { m with cls := .unknown }) })

/-- Raise a halt with the epoch that follows. -/
def State.raiseHalt (s : State) : State :=
  let e := s.rst.epoch + 1
  ((s.classStart).toPeers [] Ty.halt (s.haltFrame e)).haltTake e

/-! ## Planning (R229, R230) -/

/-- Insert by falling STEP, after those of the same STEP. -/
def insertStep (c : W64 × BitVec 8) : List (W64 × BitVec 8) → List (W64 × BitVec 8)
  | [] => [c]
  | d :: t => if d.1.toNat < c.1.toNat then c :: d :: t else d :: insertStep c t

/-- Candidates, newest first. Without a job-committed cut every retained Peat generation counts as older. -/
def State.candidates (s : State) : List (W64 × BitVec 8) :=
  match s.warden.only with
  | some c => [c]
  | none =>
    let valid := s.rdB Fld.tierCutJobInfo.valid
    let job := s.getReg Reg.tierCutJob
    let newest : List (W64 × BitVec 8) :=
      match s.cut.cuts.find? (fun c => !c.refused && (c.st == .sedgeCommitted || c.st == .jobCommitted || c.st == .retired)) with
      | some c => if !valid || job.toNat < c.step.toNat then [(c.step, c.gen)] else []
      | none => []
    let jobc : List (W64 × BitVec 8) := if valid then [(job, BitVec.ofNat 8 (s.rd Fld.tierCutJobInfo.gen))] else []
    let peat := (s.entries.filter (fun e => !valid || e.step.toNat < job.toNat)).map (fun e => (e.step, e.gen))
    let all := newest ++ jobc ++ (peat.foldl (fun l c => insertStep c l) []).eraseDups
    (all.filter (fun c => match s.warden.older with | some o => c.1.toNat < o.toNat | none => true)).take 15

/-- A candidate frame: flags 0, 1 CHOSEN or 2 NONE. -/
def State.candFrame (s : State) (c : W64 × BitVec 8) (flags : Nat) : Frame :=
  s.rstFrame 0 c.1.toNat (leBytes 8 c.1.toNat ++ leBytes 1 c.2.toNat ++ leBytes 1 flags ++ zeros 6)

/-- No candidate is left: NONE. -/
def State.planFails (s : State) : State :=
  let s := (s.toPeers [] Ty.candidate (s.candFrame (0, 0) 2)).onWarden (fun w => { w with job := .waiting, voting := none, only := none, mire := false })
  (s.raise Fld.tierRstErrStatus.noSource).planNone

/-- Propose the next candidate. -/
def State.propose (s : State) : State :=
  match s.warden.cands with
  | [] => s.planFails
  | c :: t =>
    let s := s.onWarden (fun w => { w with cands := t, voting := some c })
    (s.toPeers [] Ty.candidate (s.candFrame c 0)).planVote c.1 c.2

/-- Send a supply query, or keep it where its holder is this engine itself. -/
def State.queryTo (s : State) (rack : BitVec 10) (pos : BitVec 7) (rank : BitVec 32) (bit : Nat) (host : Bool) : State :=
  if s.isMe rack pos then
    s.onRst (fun r => { r with queries := r.queries ++ [{ rank := rank, bit := bit, asHost := host, asReplica := !host }] })
  else s.sendTo rack pos Ty.supplyQuery (s.rstFrame 0 0 (leBytes 4 rank.toNat ++ leBytes 1 bit ++ leBytes 1 (if host then 1 else 2) ++ zeros 2))

/-- Some engine of the rack plan, whose layout the manual does not give (assumption 31). -/
def State.planEngine (s : State) : (BitVec 10 × BitVec 7) × State :=
  let (r, s) := s.pickFree 1024
  let (p, s) := s.pickFree 72
  ((BitVec.ofNat 10 r, BitVec.ofNat 7 p), s)

/-- Ask the holders of every lost rank. -/
def State.queries (s : State) : State :=
  let k := s.rd Fld.tierCutRepl.count
  (List.range (min 48 s.lostRanks)).foldl (fun s i =>
    let (rank, s) := match s.warden.failed[i]? with
      | some r => (r, s)
      | none => let (n, s) := s.pickFree (2 ^ 32); (BitVec.ofNat 32 n, s)
    let (h, s) := s.planEngine
    let s := s.queryTo h.1 h.2 rank i true
    if !s.rdB Fld.tierCutCtrl.replEn then s
    else (List.range k).foldl (fun s _ => let (h, s) := s.planEngine; s.queryTo h.1 h.2 rank i false) s) s

/-- The lead plans. -/
def State.startPlan (s : State) : State :=
  if 48 < s.lostRanks && s.warden.only.isNone then s.planFails
  else
    let s := s.queries
    (s.onWarden (fun w => { w with cands := s.candidates })).propose

/-- Every member is alive or failed: the rack is classified, and the lead plans. -/
def State.classEnd (s : State) : State :=
  if s.warden.job != .halting || s.warden.members.any (fun m => m.cls == .unknown && !m.standby) then s
  else
    let s := s.onWarden (fun w => { w with job := .planning })
    if s.isLead then s.startPlan else s

/-- A cut is chosen: the rack's takeovers begin, or it lacks spares. -/
def State.jobGoes (s : State) : State :=
  if s.standbySpares < s.warden.takeovers then
    ((s.raise Fld.tierRstErrStatus.noSpare).onWarden (fun w => { w with job := .waiting })).onRst (fun r => { r with lastStatus := St.noSpare })
  else s.onWarden (fun w => { w with job := .restoring })

/-- The plan barrier has completed: the lead chooses or rejects the candidate. -/
def State.planResult (s : State) (st : Status) (or' : W64) : State :=
  match s.warden.voting with
  | some c =>
    if !s.isLead || st != St.success then s
    else
      let v := or'.toNat
      if !bitAt v (s.rd Fld.tierRstCtrl.missBit) && (s.warden.mire || (List.range (min 48 s.lostRanks)).all (fun i => bitAt v i)) then
        let s := s.onWarden (fun w => { w with voting := none, cands := [], only := none, mire := false })
        ((s.toPeers [] Ty.candidate (s.candFrame c 1)).jobGoes).chosen c.1 c.2
      else s.propose
  | none => s

/-! ## Detection (R221 to R225, R248) -/

/-- The job needs a new plan: the lead raises a new epoch; another Warden tells its parent. -/
def State.replan (s : State) : State :=
  if s.isLead then s.raiseHalt
  else match s.upWarden with
    | some (r, p) => s.sendTo r p Ty.halt (s.haltFrame s.rst.epoch)
    | none => s.raiseHalt

/-- A failure or another cause of a halt, by the state of the job (R248). In HALTING a member that the classification finds failed is no further
failure; one that strikes after it was found alive, or that a notice of the current epoch names, is. -/
def State.react (s : State) (further : Bool := true) : State :=
  match s.warden.job with
  | .normal => s.raiseHalt.classEnd
  | .halting =>
    if s.isLead then (if further then s.raiseHalt.classEnd else s.classEnd)
    else
      let s := match s.upWarden with
        | some (r, p) => s.sendTo r p Ty.halt (s.haltFrame s.rst.epoch)
        | none => s
      s.classEnd
  | .planning | .restoring => s.replan.classEnd
  | .waiting => s

/-- Insert a rank in ascending order. -/
def insertRank (r : BitVec 32) : List (BitVec 32) → List (BitVec 32)
  | [] => [r]
  | q :: t => if r.toNat < q.toNat then r :: q :: t else q :: insertRank r t

/-- Declare an engine failed. A lost standby spare holds no rank; a lost Warden of another rack is its own rack's to declare. -/
def State.declareFailed (s : State) (m : Member) : State :=
  let s := (s.putMember { m with cls := .failed }).bump Fld.tierWardenStatus.detections
  let s := s.sourceLost m.rack m.pos
  if m.rack != s.myRack || m.standby then s
  else
    let (rank, s) := if s.isMe m.rack m.pos then (BitVec.ofNat 32 s.myRank, s)
      else let (n, s) := s.pickFree (2 ^ 32); (BitVec.ofNat 32 n, s)
    s.onWarden (fun w => { w with failed := insertRank rank w.failed, takeovers := w.takeovers + 1 })

/-- A Warden of another rack came or went: the roles follow the order of R357; a new lead replans a restore in progress. -/
def State.rolesAgain (s : State) : State :=
  if !s.isWarden then s
  else
    let was := s.isLead
    let s := s.setRole s.rightRole
    if s.isLead && !was && s.warden.job != .normal then s.raiseHalt.classEnd else s

/-- A heartbeat reaches a Warden: the sender's deadline starts anew, and during a halt it may be classified. -/
def State.heard (s : State) (f : Frame) : State :=
  let b := fieldLE f.payload 0 8
  let old := (s.member? f.srcRack f.srcPos).getD { rack := f.srcRack, pos := f.srcPos, cls := .failed }
  let fresh := (s.member? f.srcRack f.srcPos).isNone
  let standby := bitAt b 1
  let cls := if fresh then (if s.warden.job == .halting && !bitAt b 2 then .unknown else .alive)
    else match old.cls with
    | .failed => if standby then .alive else .failed
    | .unknown => if bitAt b 2 then .alive else .unknown
    | .alive => MemberClass.alive
  let s := s.putMember { old with lastHb := s.now, cls := cls, standby := standby, inRange := bitAt b 0, spare := old.spare || standby }
  let s := if fresh && f.srcRack != s.myRack then s.rolesAgain else s
  if s.warden.job == .waiting && standby && !(old.standby && old.cls != .failed) then s.replan.classEnd else s.classEnd

/-- HEARTBEAT_FRAME. -/
def doHeartbeatFrame (n : Fin 42) (f : Frame) (s : State) : Out :=
  .next (s.rstRecv n Ty.heartbeat f fun s =>
    if f.payload.length ≠ 8 then s.staleAt n
    else if s.isWarden then s.heard f
    else if f.srcRack == s.myRack && f.srcPos == s.wardenPos then s.onElect (fun e => { e with wardenHb := s.now, hadWarden := true })
    else s)

/-! ## Election (R354 to R357) -/

/-- Candidacies rank by this key; the lowest wins. -/
def Candidacy.key (c : Candidacy) : Nat := b2n c.outRange * 2 ^ 23 + c.prio.toNat * 2 ^ 7 + c.pos.toNat

/-- This engine's own candidacy. -/
def State.myCandidacy (s : State) : Candidacy :=
  { outRange := !s.rdB Fld.ctlCornerStatus.inRange, prio := BitVec.ofNat 16 (s.rd Fld.ctlElect.electPrio), pos := s.myPos }

/-- Eligible as a rack Warden (R354). -/
def State.eligible (s : State) : Bool := s.fw && !s.rst.fenced && s.rdB Fld.ctlElect.eligible

/-- Send an election frame to the broadcast group on UFL ports 0 and 1; its fields other than SEQ and COUNT are 0 (R355, R356). -/
def State.electSend (s : State) (ty : BitVec 8) : State :=
  let c := s.myCandidacy
  let f : Frame := ctlFrame { seq := BitVec.ofNat 32 (s.rd Fld.ctlElect.election) }
    (leBytes 8 (c.prio.toNat + 2 ^ 16 * b2n (!c.outRange) + 2 ^ 17 * c.pos.toNat))
  let f := { f with crc := Frame.crcOf ty f }
  (([0, 1] : List Nat).filter s.isOpen).foldl (fun s n => { s with outbox := s.outbox ++ [{ slice := some n, dest := .election, ty := ty, frame := f }] }) s

/-- Take part in an election of a number: an eligible engine sends its candidacy. -/
def State.electBegin (s : State) (num : Nat) : State :=
  let s := s.wr Fld.ctlElect.election num
  let s := s.onElect (fun e => { e with running := true, start := s.now, heard := [], sentCand := 0, sentClaim := 0, claimant := false,
                                        decided := false, accepted := none })
  if s.eligible then
    (s.onElect (fun e => { e with heard := [s.myCandidacy], sentCand := 1 })).electSend Ty.candidacy
  else s

/-- An election may start: none runs that began within its 10 ms. -/
def State.electIdle (s : State) : Bool := !s.elect.running || s.elapsed s.elect.start (msTicks 10)

def State.electStart (s : State) : State :=
  if s.electIdle && s.fw && !s.isWarden then s.electBegin (s.rd Fld.ctlElect.election + 1) else s

/-- ELECTION_START: no Warden heartbeat for three intervals after START_OK, or the Warden is lost. -/
def execElectionStart (s : State) : Out :=
  let silent := if s.elect.hadWarden then s.missTicks else 3 * s.hbTicks
  if s.fw && s.elapsed s.elect.wardenHb silent then .next s.electStart else .next s

/-- Lowest key heard. -/
def Elect.least (e : Elect) : Option Nat :=
  e.heard.foldl (fun (a : Option Nat) c => match a with | some k => some (min k c.key) | none => some c.key) none

/-- The members of the rack as a new Warden knows them: those it knew, those whose candidacy it has heard, and those of the rack plan, whose
layout is the firmware's (R358; assumption 31): each must be heard within the time of R222 from now on. -/
def State.rackMembers (s : State) : State :=
  let (k, s) := s.pickFree (2 ^ 72)
  let new := (List.range 72).filter (fun p =>
    let q := BitVec.ofNat 7 p
    (bitAt k p || s.elect.heard.any (fun c => c.pos == q)) && q != s.myPos && (s.member? s.myRack q).isNone)
  s.onWarden (fun w => { w with members := w.members ++ new.map (fun p => { rack := s.myRack, pos := BitVec.ofNat 7 p, lastHb := s.now }) })

/-- The winner is Warden: it sends its first heartbeat, and if a Warden was lost, it declares that one's rank failed and raises the halt
(R223). -/
def State.becomeWarden (s : State) : State :=
  let old := s.wardenPos
  let had := s.elect.hadWarden && old != s.myPos
  let s := s.rackMembers
  let s := s.wr Fld.ctlElect.wardenPos s.myPos.toNat
  let s := s.onElect (fun e => { e with running := false, hadWarden := false })
  let s := (s.setRole s.rightRole).heartbeat
  if had then (s.declareFailed { rack := s.myRack, pos := old, lastHb := s.elect.wardenHb }).react else s

/-- ELECTION_TIMER: what is due at 1, 2, 4, 5 and 6 ms. -/
def doElectionTimer (s : State) : Out :=
  let e := s.elect
  if !s.fw || !e.running then .next s
  else if !e.decided then
    if s.elapsed e.start (msTicks 4) then
      let s := s.onElect (fun e => { e with decided := true })
      if s.eligible && e.sentCand != 0 && e.least == some s.myCandidacy.key then
        .next ((s.onElect (fun e => { e with claimant := true, sentClaim := 1 })).electSend Ty.claim)
      else .next s
    else if (e.sentCand == 1 && s.elapsed e.start (msTicks 1)) || (e.sentCand == 2 && s.elapsed e.start (msTicks 2)) then
      .next ((s.onElect (fun e => { e with sentCand := e.sentCand + 1 })).electSend Ty.candidacy)
    else .next s
  else if e.claimant && e.sentClaim == 1 && s.elapsed e.start (msTicks 5) then
    .next ((s.onElect (fun e => { e with sentClaim := 2 })).electSend Ty.claim)
  else if e.claimant && e.sentClaim == 2 && s.elapsed e.start (msTicks 6) then
    .next ((s.onElect (fun e => { e with sentClaim := 3 })).electSend Ty.claim).becomeWarden
  else .next s

/-- The candidacy in an election frame. -/
def electPayload (f : Frame) : Candidacy :=
  let b := fieldLE f.payload 0 8
  { outRange := !bitAt b 16, prio := BitVec.ofNat 16 b, pos := BitVec.ofNat 7 (b / 2 ^ 17) }

/-- Receive an election frame: one of a lower number is stale. -/
def State.electRecv (s : State) (n : Fin 42) (ty : BitVec 8) (f : Frame) (act : Nat → Candidacy → State → State) : State :=
  s.recv n ty f fun s =>
    let num := f.seq.toNat % 65536
    if f.payload.length ≠ 8 || num < s.rd Fld.ctlElect.election then s.staleAt n else act num (electPayload f) s

/-- CANDIDACY: recorded; one of a higher number begins that election here. -/
def execCandidacy (n : Fin 42) (f : Frame) (s : State) : Out :=
  .next (s.electRecv n Ty.candidacy f fun num c s =>
    let s := if s.rd Fld.ctlElect.election < num then s.electBegin num else s
    if s.elect.running then s.onElect (fun e => { e with heard := if e.heard.contains c then e.heard else e.heard ++ [c] }) else s)

/-- CLAIM: the first claim whose key is not above the lowest key heard is accepted; a claimant with a higher key withdraws. -/
def execClaim (n : Fin 42) (f : Frame) (s : State) : Out :=
  .next (s.electRecv n Ty.claim f fun num c s =>
    let s := if s.rd Fld.ctlElect.election < num then
        (s.wr Fld.ctlElect.election num).onElect (fun e => { e with running := true, start := s.now, heard := [], sentCand := 0, sentClaim := 0,
                                                                    claimant := false, decided := true, accepted := none })
      else s
    let e := s.elect
    let low := match e.least with | some k => c.key ≤ k | none => true
    if !e.running || e.accepted.isSome || !low || c.pos == s.myPos then s
    else
      let s := s.onElect (fun e => { e with claimant := false, accepted := some c.pos, running := false, wardenHb := s.now, hadWarden := false })
      (s.wr Fld.ctlElect.wardenPos c.pos.toNat).setRole 0)

/-! ## Events of detection -/

/-- HEARTBEAT_MISS. -/
def doHeartbeatMiss (rack : BitVec 10) (pos : BitVec 7) (s : State) : Out :=
  if !s.fw then .next s
  else if s.isWarden then
    match s.member? rack pos with
    | some m =>
      if m.cls == .failed || !s.elapsed m.lastHb s.missTicks then .next s
      else
        let s := s.declareFailed m
        if m.rack != s.myRack then .next s.rolesAgain
        else if m.standby then .next s.classEnd
        else .next (s.react (m.cls == .alive))
    | none => .next s
  else if rack == s.myRack && pos == s.wardenPos && s.elect.hadWarden && s.elapsed s.elect.wardenHb s.missTicks then .next s.electStart
  else .next s

/-- LINK_LOSS: how long the PCS of a slice has been without block lock. From LINK_HOLD_MS on the link is lost,
and is reported once (R221). The notice names the slice, since UFL and scale-out ports have the same numbers. -/
def execLinkLoss (n : LockLoss) (s : State) : Out :=
  let ms := n.ms
  let n := n.slice
  let one : BitVec 42 := BitVec.ofNat 42 (2 ^ n.val)
  let lock (v : BitVec 42) : State := { s with board := { s.board with lockLost := v } }
  if !s.present n then .next s
  else if ms = 0 then .next (lock (s.board.lockLost &&& ~~~one))
  else if ms < s.rd Fld.tierHbCfg.linkHoldMs || s.board.lockLost.getLsbD n then .next s
  else
    let t := lock (s.board.lockLost ||| one)
    .next (if s.hw then t.notice 7 n 0 0 0 0 else t)

/-- Remove a port from every channel and from the Felting ports. -/
def State.dropPort (s : State) (n : Nat) : State :=
  let off (s : State) (u o : Fld) : State :=
    if isSo n then s.cfgClearBit o (if n < 28 then n - 24 else n - 36) else s.cfgClearBit u (if n < 24 then n else n - 4)
  (List.range 32).foldl (fun s ch => off s (Fld.redChPorts.uflMask ch) (Fld.redChPorts.soMask ch))
    (off s Fld.tierFeltPorts.uflMask Fld.tierFeltPorts.soMask)

/-- An engine of the job has no source left: the lead replans with cuts older than the chosen one; another Warden passes the report up (R240). -/
def State.sourceless (s : State) (step : W64) : State :=
  if s.isLead then
    (if s.warden.job == .restoring || s.warden.job == .waiting then
      ((s.onWarden (fun w => { w with older := some step })).raiseHalt).classEnd
     else s)
  else match s.upWarden with
    | some (r, p) => s.noticeTo r p 5 0 0 St.noSource 0 step
    | none => s

/-- A port of the job has failed: halt, remove it here, and have every other engine remove it: the notice goes on to everyone that this Warden
exchanges heartbeats with, save another Warden that it came from (R225; the frame is the model's choice, assumption 132). -/
def State.linkFails (s : State) (slice : Nat) (src : BitVec 10 × BitVec 7) : State :=
  let s := s.react.dropPort slice
  (s.peers.filter (fun m => src.1 == s.myRack || m != src)).foldl (fun s m => s.noticeTo m.1 m.2 7 slice 0 0 0 0) s

/-- ENGINE_NOTICE: the rack Warden acts on it by its cause; another engine drops the port that its Warden names. -/
def doEngineNotice (n : Fin 42) (f : Frame) (s : State) : Out :=
  .next (s.rstRecv n Ty.engineNotice f fun s =>
    if f.payload.length ≠ 16 then s.staleAt n
    else if !s.isWarden then
      (if fieldLE f.payload 0 1 = 7 && f.srcRack == s.myRack && f.srcPos == s.wardenPos then s.dropPort (fieldLE f.payload 1 1) else s.staleAt n)
    else
      let m := (s.member? f.srcRack f.srcPos).getD { rack := f.srcRack, pos := f.srcPos, lastHb := s.now }
      match fieldLE f.payload 0 1 with
      | 1 | 4 => if m.cls == .failed then s else
          let s := s.declareFailed m
          if m.standby then s.classEnd else s.react (m.cls == .alive)
      | 2 => s.putMember { m with inRange := false }
      | 3 => s.putMember { m with inRange := true }
      | 5 => if fieldLE f.payload 2 2 = St.noSource.toNat then s.sourceless (BitVec.ofNat 64 (fieldLE f.payload 8 8)) else s.react
      | 6 => s.react
      | 7 => s.linkFails (fieldLE f.payload 1 1) (f.srcRack, f.srcPos)
      | _ => s.staleAt n)

/-- BUCKET_ABORT_NOTICE: the channel's own reaction; a Warden takes the first notice of a bucket, or its own, as a step failure. -/
def doBucketAbortNotice (n : Fin 42) (f : Frame) (s : State) : Out :=
  .next (s.recv n Ty.bucketAbort f fun s =>
    let fresh := !s.red.notices.contains (f.channel, f.seq, f.stepLo) || s.isMe f.srcRack f.srcPos
    let s := s.abortNoticeIn n f
    if fresh && s.isWarden && s.warden.job == .normal then s.react else s)

/-- Ranks that another rack's Warden has reported lost. -/
def State.lostAt (s : State) (rack : BitVec 10) : Nat :=
  match s.warden.others.find? (fun x => x.1 == rack) with
  | some x => x.2
  | none => 0

/-- HALT: one of the current epoch is absorbed: it ends the episodes of barriers other than plan and release (R276, R282), and asks for a new plan
only where it brings further losses of another rack. An older one is dropped, a newer one taken; a Warden passes it on. A standby spare takes the
epoch, and with it the episodes (R275). -/
def doHalt (n : Fin 42) (f : Frame) (s : State) : Out :=
  .next (s.recv n Ty.halt f fun s =>
    let e := frameEpoch f
    let ahead := (e - s.rst.epoch).toNat
    let src := (f.srcRack, f.srcPos)
    if f.payload.length ≠ 8 then s.staleAt n
    else if 32768 ≤ ahead then s.staleRestore
    else
      let child := s.isWarden && f.srcRack != s.myRack && s.upWarden != some src
      let k := fieldLE f.payload 0 2
      let more := child && s.lostAt f.srcRack < k
      let s := if child then
          s.onWarden (fun w => { w with others := (f.srcRack, k) :: w.others.filter (fun x => x.1 != f.srcRack) })
        else s
      if ahead = 0 then
        let s := s.barsHalt false e
        if more && s.warden.job != .normal && s.warden.job != .halting then s.replan.classEnd else s
      else if s.spareRole then
        ((s.onRst (fun r => { r with epoch := e, chosenWaits := false })).raise Fld.tierRstErrStatus.haltSeen).barsHalt true e
      else if s.isWarden then ((s.classStart.toPeers [src] Ty.halt (s.haltFrame e)).haltTake e).classEnd
      else s.haltTake e)

/-- CANDIDATE: a vote, the chosen cut, or NONE; a Warden passes it down. -/
def doCandidate (n : Fin 42) (f : Frame) (s : State) : Out :=
  .next (s.rstRecv n Ty.candidate f fun s =>
    if f.payload.length ≠ 16 then s.staleAt n
    else
      let step := BitVec.ofNat 64 (fieldLE f.payload 0 8)
      let gen := BitVec.ofNat 8 (fieldLE f.payload 8 1)
      let b := fieldLE f.payload 9 1
      let s := if s.isWarden then s.toPeers ((f.srcRack, f.srcPos) :: s.upWarden.toList) Ty.candidate (s.candFrame (step, gen) (b % 4)) else s
      if bitAt b 1 then (if s.isWarden then s.onWarden (fun w => { w with job := .waiting }) else s).planNone
      else if bitAt b 0 then (if s.isWarden then s.jobGoes else s).chosen step gen
      else (if s.isWarden && s.warden.job == .halting then s.onWarden (fun w => { w with job := .planning }) else s).planVote step gen)

/-- The job is released: the Warden's record of the losses ends. -/
def State.wardenReleased (s : State) : State :=
  s.onWarden (fun w =>
    { w with job := .normal, failed := [], others := [], takeovers := 0, cands := [], voting := none, only := none, older := none,
             members := w.members.filter (fun m => m.cls != .failed) })

/-- The lead's own engine has no source left: it replans with older candidates (R240). -/
def State.leadReplans (s : State) : State :=
  if s.isLead && s.rst.lastStatus == St.noSource && s.rst.work && s.rst.st != .planning && s.rst.st != .waiting && !s.rst.elastic then
    s.sourceless s.rst.cutStep
  else s

end Sys2Proof.Machine
end

