-- ==== Sys2Proof/Machine/Board.lean ====
section
/-! DEFINITION. Board pins and the power-fail sequence (R38 to R47, R207), resets (R48, R49), boundary scan (R367), the speed monitor (R62 to
R67), Causeways (R30 to R32, R51 to R54). -/
namespace Sys2Proof.Machine

def State.onBoard (s : State) (f : Board → Board) : State := { s with board := f s.board }
def State.onBoot (s : State) (f : Boot → Boot) : State := { s with boot := f s.boot }

/-! ## Pins (R38, R46) -/

/-- CGM_CTL_BOARD_STATUS shows the filtered levels. -/
def State.boardSync (s : State) : State :=
  ((s.wrB Fld.ctlBoardStatus.pfailN s.board.pfailN).wrB Fld.ctlBoardStatus.holdupOk s.board.holdupOk).wrB Fld.ctlBoardStatus.holdupLow
    (!s.board.holdupOk)

/-- The pulse filter: a level that lasts `ns` is rejected below 200 ns, recognised from 1,000 ns on, and in between one or the other. -/
def State.filtered (s : State) (ns : Nat) : Bool × State :=
  if ns < 200 then (false, s) else if 1000 ≤ ns then (true, s) else s.pickBool

/-- The engine is neither unpowered nor in a reset (R47). -/
def State.awake (s : State) : Bool := s.powered && s.boot.phase != .reset

/-- Rewrites whose catalogue write has not started end (R207), and so do FLUSH commands of which a rewrite is in no catalogue write (R312). -/
def State.flushPfail (s : State) : State :=
  let s := if s.peat.flushing then s.flushFail St.pfailAbort else s
  (s.ctxsWith (fun c => !c.finished && !c.abandoned && c.opc == 3 && s.peat.staged.any (fun r => c.waits.contains r.order))).foldl
    (fun s k => s.ctxEnd k St.pfailAbort 0 0) (s.onPeat (fun p => { p with flushDue := false }))

/-- Power-fail work begins on a recognised assertion (R44): no Peat write starts any more. -/
def State.pfailBegin (s : State) : State :=
  let s := s.raise Fld.ctlBoardStatus.pfailSeen
  let s := s.onBoard (fun b => { b with pfWork := true, pfHold := false, pfStart := s.now })
  let s := s.logFw Kind.power 0 Unit'.ctl
  s.drainHalt.flushPfail.notice 1 0 0 0 0 0

/-- PFAIL_N_ASSERT: PFAIL_N is low for `ns`. -/
def execPfailNAssert (ns : Nat) (s : State) : Out :=
  if !s.powered then .next s
  else
    let (ok, s) := s.filtered ns
    if !ok || !s.board.pfailN then .next s
    else
      let s := (s.onBoard (fun b => { b with pfailN := false })).boardSync
      if s.awake then .next s.pfailBegin else .next s

/-- PFAIL_N_DEASSERT: PFAIL_N is high for `ns`. Once the power-fail work is complete, Peat writes are held until the pin has been high for
10 ms. -/
def execPfailNDeassert (ns : Nat) (s : State) : Out :=
  if !s.powered then .next s
  else
    let (ok, s) := s.filtered ns
    if !ok || s.board.pfailN then .next s
    else
      let seen := s.board.pfWork || s.board.pfHold
      let s := (s.onBoard (fun b => { b with pfailN := true, pfHighSince := s.now })).boardSync
      if s.awake && seen then .next ((s.onBoard (fun b => { b with pfHold := true })).raise Fld.ctlBoardStatus.pfailCleared) else .next s

/-- PFAIL_HOLD_EXPIRY: the pin has been high for 10 ms. -/
def doPfailHoldExpiry (s : State) : Out :=
  let b := s.board
  if !s.awake || !b.pfHold || b.pfWork || !b.pfailN || !s.elapsed b.pfHighSince (msTicks 10) then .next s
  else .next (((s.onBoard (fun b => { b with pfHold := false, pfWaitInterval := true })).logFw Kind.power 0 Unit'.ctl).flushCheck)

/-- HOLDUP_OK_CHANGE: HOLDUP_OK has a level for `ns`. Each change is logged, in a reset too (R46). -/
def execHoldupOkChange (level : Bool) (ns : Nat) (s : State) : Out :=
  if !s.powered then .next s
  else
    let (ok, s) := s.filtered ns
    if !ok || s.board.holdupOk == level then .next s
    else .next (((s.onBoard (fun b => { b with holdupOk := level })).boardSync).logFw Kind.power 0 Unit'.ctl)

/-- POWER_FAIL_DEADLINE: a limit of R207 has passed. -/
def doPowerFailDeadline (limit : PfailLimit) (s : State) : Out :=
  if !s.pfPast limit then .next s
  else
    let fail (s : State) (l : List DrainStep) : State := match s.peat.drain with
      | some d => if l.contains d.step then s.drainFail d.seq St.pfailAbort else s
      | none => s
    match limit with
    | .dataWrites => .next (fail s [.reservation, .writes])
    | .flush => .next (fail s [.flush])
    | .catalogue => .next s
    | .done => .next ((fail s [.reservation, .writes, .flush]).onBoard (fun b => { b with pfWork := false, pfHold := true }))

/-! ## Resets (R48, R49) -/

def ResetKind.rank : ResetKind → Nat
  | .cold => 3 | .warm => 2 | .engine => 1

/-- Registers right after a reset: the Reset column, the calibrated corrections, the retained set, and for an engine reset the domains' INC
(R8, R48, R283, R287). -/
def State.regsAfter (s : State) (kind : ResetKind) (source : Nat) : State :=
  let z : State := { regs := [] }
  let z := s.part.delays.foldl (fun z d => z.setReg (Reg.timLnkDelay d.1) (BitVec.ofNat 64 d.2.toNat)) z
  let copy (z : State) (off : Nat) : State := z.setReg off (s.getReg off)
  let z := if kind == .cold then z
    else
      let z := (copy (copy z Reg.ctlErrlog) Reg.ctlBootReason).wr Fld.ctlReset.cause (s.rd Fld.ctlReset.cause)
      (z.wr Fld.ctlCornerStatus.thermTrip (s.rd Fld.ctlCornerStatus.thermTrip)).wr Fld.ctlErrStatus.coreWd (s.rd Fld.ctlErrStatus.coreWd)
  let z := if kind == .engine then copy (copy z (Reg.timDomInc 0)) (Reg.timDomInc 1) else z
  let z := z.wr Fld.ctlBootReason.source source
  if kind == .engine then z.wr Fld.ctlReset.cause source else z

/-- The time unit after an engine reset: time, what SEC and NS show, valid bits and the choice of the active domain stay. -/
def Domain.afterEngine (d : Domain) : Domain := { d with ops := [] }

/-- Everything as a reset leaves it: units empty, keys cleared, queues disabled, Causeways closed, PEAT_PERST_N low. Memory and what hangs on
it is lost only with a cold reset. The Causeways' close is ordered (R52): engine frames that have not started are dropped, and BX3 frames go
on. -/
def State.resetAll (s : State) (kind : ResetKind) (source : Nat) : State :=
  let s := s.tear (fun _ => true)
  let cold := kind == .cold
  let regs := (s.regsAfter kind source).regs
  let tim : Tim := if kind == .engine then
      { domA := s.tim.domA.afterEngine, domB := s.tim.domB.afterEngine, activeB := s.tim.activeB }
    else {}
  let t : State :=
    { part := s.part
      board := { powerGood := s.board.powerGood, pfailN := s.board.pfailN, holdupOk := s.board.holdupOk }
      boot :=
        { phase := .reset, kind := kind, source := BitVec.ofNat 4 source, failPending := if cold then 0 else s.boot.failPending
          trip := !cold && s.boot.trip, slot := s.boot.slot, entered := s.boot.entered, svnFloor := s.boot.svnFloor, floorSteps := s.boot.floorSteps }
      store := { s.store with dlNext := 0 }
      regs := regs
      mem := if cold then [] else s.mem
      sump := if cold then [] else s.sump
      log := if cold then [] else s.log
      sedge := if cold then Vector.replicate 8 {} else s.sedge
      map := if cold then [] else s.map
      peat := { drive := { s.peat.drive with ready := false } }
      rst := { fenced := !cold && s.rst.fenced }
      tim := tim
      now := s.now, freeCtr := s.freeCtr, busRead := s.busRead, acksOut := s.acksOut, irqs := s.irqs, bx3Out := s.bx3Out, wire := s.wire
      pending := s.pending }
  let t := t.boardSync
  if cold then t else t.logIt Kind.reset 0 Unit'.ctl (leBytes 1 source)

/-- A reset is requested: it takes over from a narrower one in progress, and a broader one absorbs it (R49). -/
def State.reset' (s : State) (kind : ResetKind) (source : Nat) : State :=
  if !s.powered then s
  else if s.boot.phase == .reset && kind.rank < s.boot.kind.rank then s.logIt Kind.reset 0 Unit'.ctl (leBytes 1 source)
  else s.resetAll kind source

/-- A start has failed before START_OK: the next boot ROM counts it (R350). -/
def State.startFails (s : State) (cause : Nat) : State :=
  if s.boot.phase == .booting then s.onBoot (fun b => { b with failPending := BitVec.ofNat 4 cause }) else s

/-- A fatal internal error (R343). -/
def State.fatal (s : State) (source : Nat) : State := (s.startFails 3).reset' .engine source

/-- POWER_GOOD_RISE. -/
def execPowerGoodRise (s : State) : Out :=
  if s.boot.phase != .unpowered then .next s
  else .next ((s.onBoard (fun b => { b with powerGood := true })).resetAll .cold 0)

/-- POWER_GOOD_FALL: the engine is unpowered; nothing it held survives, and the close is abrupt: BX3 frames in the slices are lost (R53). -/
def execPowerGoodFall (s : State) : Out :=
  if s.boot.phase == .unpowered then .next s
  else
    let s := (List.range 42).foldl State.bx3Drop (s.resetAll .cold 0)
    .next ((s.onBoard (fun b => { b with powerGood := false })).onBoot (fun b => { b with phase := .unpowered }))

/-- COLD_RESET: a BX3 cold reset. -/
def execColdReset (s : State) : Out := .next (s.reset' .cold 1)

/-- WARM_RESET: a BX3 warm reset. -/
def execWarmReset (s : State) : Out := .next (s.reset' .warm 2)

/-- CTL_RESET_ENGINE: a write of ENGINE to CGM_CTL_RESET. -/
def execCtlResetEngine (s : State) : Out := .next (s.reset' .engine 3)

/-! ## Boundary scan (R367, R368) -/

/-- What a boundary-scan cell does at its pin. -/
inductive CellKind where
  | observe | diffObserve | testReceiver | openDrain | output | outputEnable | acOutput
deriving DecidableEq, Repr

/-- A run of cells of one pin: first and last number, and the value that CLAMP and HIGHZ drive. -/
structure ScanCells where
  first : Nat
  last : Nat
  pin : String
  kind : CellKind
  safe : Option Bool
deriving DecidableEq, Repr

/-- The engine's segment of the BX3 boundary-scan register, from the TDI side (R368). An output enable of 1 enables (assumption 114). -/
def scanSegment : List ScanCells :=
  [⟨1, 1, "PFAIL_N", .observe, none⟩, ⟨2, 2, "HOLDUP_OK", .observe, none⟩, ⟨3, 3, "CGM_ALERT_N", .openDrain, some true⟩,
   ⟨4, 4, "PEAT_PERST_N", .output, some false⟩, ⟨5, 5, "PEAT_PERST_N", .outputEnable, some true⟩,
   ⟨6, 6, "PEAT_REFCLKP/N", .diffObserve, none⟩, ⟨7, 22, "PEAT_RXP/N[7:0]", .testReceiver, none⟩,
   ⟨23, 30, "PEAT_TXP/N[7:0]", .acOutput, none⟩, ⟨31, 31, "PEAT_TXP/N[7:0]", .outputEnable, some false⟩]

/-- The run that a cell belongs to. -/
def cellRun (k : Nat) : Option ScanCells := scanSegment.find? (fun c => c.first ≤ k && k ≤ c.last)

/-- Level at the pin that an observing cell captures. The clock's and the receivers' levels are the board's: free. -/
def State.cellLevel (s : State) (k : Nat) : Bool :=
  if k = 1 then s.board.pfailN else if k = 2 then s.board.holdupOk else Config.freeBool (s.freeCtr + k)

/-- The cells as a test finds them: observing cells hold the level of their pin, driving cells the safe value; the data of the Peat
transmitters, whose shared enable is off, is free. -/
def State.scanCapture (s : State) : BitVec 31 :=
  BitVec.ofNat 31 ((List.range 31).foldl (fun a k =>
    a + b2n (((cellRun (k + 1)).bind (fun c => c.safe)).getD (s.cellLevel (k + 1))) * 2 ^ k) 0)

/-- One shift of the segment: `tdi` enters cell 1, and cell 31 leaves at the TDO side. -/
def scanShift (cells : BitVec 31) (tdi : Bool) : BitVec 31 × Bool :=
  (BitVec.ofNat 31 (cells.toNat * 2 + b2n tdi), cells.getLsbD 30)

/-- TAP_TEST_ENTRY: the BX3 holds the engine in cold reset; the boundary cells take over its pins. -/
def execTapTestEntry (s : State) : Out :=
  if !s.powered then .next s
  else
    let s := (s.resetAll .cold 1).onBoot (fun b => { b with phase := .tapTest })
    let cells := s.scanCapture
    let s : State := { s with freeCtr := s.freeCtr + 32 }
    .next { s with bscan := cells }

/-- TAP_TEST_EXIT: release through a cold reset. -/
def execTapTestExit (s : State) : Out := if s.boot.phase != .tapTest then .next s else .next (s.resetAll .cold 1)

/-! ## The speed monitor (R62 to R67) -/

/-- Readings kept: index and value, those left out as faulty removed. -/
def goodReadings (vals : List Nat) (bad : Nat) : List (Nat × Nat) :=
  ((List.range vals.length).zip vals).filter (fun x => !bitAt bad x.1)

/-- The entry with the largest value; of several, the one with the lowest index (the manual does not say which is reported: assumption 115). -/
def maxEntry : List (Nat × Int) → Option (Nat × Int)
  | [] => none
  | x :: t => some (t.foldl (fun a y => if a.2 < y.2 then y else a) x)

/-- What one sample finds: cycles with their sensors, taps, temperatures, and whether a reading was faulty. -/
structure Sample where
  cycles : List (Nat × Nat)
  taps : List (Nat × Nat)
  temps : List (Nat × Int)
  fault : Bool
deriving DecidableEq, Repr

/-- The cycle of a ring in picoseconds. -/
def cycleOf (count : Nat) : Nat := 1000000 / count

/-- Two rings differ by more than 30%: the cycle of the slower is more than 1.3 times that of the faster (the base of the percentage is the
model's choice: assumption 116). -/
def ringsApart (x y : Nat × Nat) : Bool := x.2 * 13 < y.2 * 10

/-- Leave out faulty rings until no two differ by more than 30%: of a fastest and a slowest ring that do, the manual does not say which is the
faulty one, so it is free. At most `fuel` rings go. -/
def dropApart (pick : Nat → Bool) : Nat → List (Nat × Nat) → List (Nat × Nat)
  | 0, l => l
  | n + 1, l =>
    match l.find? (fun x => l.any (fun y => ringsApart x y)) with
    | none => l
    | some x =>
      match l.find? (fun y => ringsApart x y) with
      | none => l
      | some y => dropApart pick n (l.filter (· != if pick n then x else y))

/-- Take a sample apart. A ring whose cycle has no place in CYCLE_PS reads outside its plausible range (assumption 33); it and the rings that
differ by more than 30% from others are left out and set MON_FAULT. -/
def State.sample (s : State) (r : SpeedReading) : Sample :=
  let counts := goodReadings (r.counts.toList.map BitVec.toNat) r.badCounts.toNat
  let plausible := (counts.filter (fun x => 245 ≤ x.2)).map (fun x => (x.1, cycleOf x.2))
  let cycles := dropApart (fun k => Config.freeBool (s.freeCtr + k)) 16 plausible
  let temps := ((List.range 8).zip (r.diodes.toList.map BitVec.toInt)).filter (fun x => !bitAt r.badDiodes.toNat x.1)
  { cycles := cycles, taps := goodReadings (r.taps.toList.map BitVec.toNat) r.badTaps.toNat, temps := temps,
    fault := cycles.length != counts.length || r.badCounts != 0 || r.badDiodes != 0 || r.badTaps != 0 }

/-- Slowest sensor, fastest cycle, lowest tap, hottest diode, as CGM_CTL_SPEED_STATUS and CGM_CTL_SPEED_PEAK show them. -/
def State.speedShow (s : State) (x : Sample) : State :=
  let s := match maxEntry (x.cycles.map (fun c => (c.1, (c.2 : Int)))) with
    | some (i, c) =>
      let s := (s.wr Fld.ctlSpeedStatus.cyclePs c.toNat).wr Fld.ctlSpeedStatus.cycleSensor i
      let best := x.cycles.foldl (fun (m : Nat) (y : Nat × Nat) => min m y.2) c.toNat
      (s.wr Fld.ctlSpeedStatus.cycleBestPs best).wr Fld.ctlSpeedPeak.cyclePeakPs (max (s.rd Fld.ctlSpeedPeak.cyclePeakPs) c.toNat)
    | none => s
  let s := match x.taps with
    | [] => s
    | y :: t =>
      let v := t.foldl (fun (m : Nat) (z : Nat × Nat) => min m z.2) y.2
      (s.wr Fld.ctlSpeedStatus.vddMv v).wr Fld.ctlSpeedPeak.vddDroopMv (max (s.rd Fld.ctlSpeedPeak.vddDroopMv) (880 - v))
  let s := match maxEntry x.temps with
    | some (i, t) =>
      let s := (s.wr Fld.ctlSpeedStatus.tjQ (BitVec.ofInt 11 t).toNat).wr Fld.ctlSpeedStatus.tjSensor i
      s.wr Fld.ctlSpeedPeak.tjPeakQ (max (s.rd Fld.ctlSpeedPeak.tjPeakQ) t.toNat)
    | none => s
  s.count Fld.ctlSpeedStatus.sampleSeq

/-- The conditions of the certified range that a sample finds broken, as the bits EXC_CYCLE, EXC_VLOW, EXC_VHIGH, EXC_TEMP (R60, R64). The upper
voltage and the lower temperature are judged on every tap and every diode (the model's choice: assumption 117). -/
def State.broken (s : State) (x : Sample) : List Bool :=
  [x.cycles.any (fun c => s.rd Fld.ctlCornerLimit.cycleLimitPs < c.2), x.taps.any (fun v => v.2 < s.rd Fld.ctlCornerLimit.vminMv),
   x.taps.any (fun v => 880 < v.2), x.temps.any (fun t => (s.rd Fld.ctlCornerLimit.tmaxQ : Int) < t.2 || t.2 < 0)]

/-- The corner bits of a sample: excursions, IN_RANGE and its notices (R64, R67). A sample in which no good reading of a kind is left does not
meet the range, and sets no excursion bit (the model's choice: assumption 118). -/
def State.cornerStep (s : State) (x : Sample) : State :=
  let b := s.broken x
  let s := (s.raiseIf (b.getD 0 false) Fld.ctlCornerStatus.excCycle).raiseIf (b.getD 1 false) Fld.ctlCornerStatus.excVlow
  let s := (s.raiseIf (b.getD 2 false) Fld.ctlCornerStatus.excVhigh).raiseIf (b.getD 3 false) Fld.ctlCornerStatus.excTemp
  let s := s.raiseIf x.fault Fld.ctlCornerStatus.monFault
  let met := !b.any id && !x.cycles.isEmpty && !x.taps.isEmpty && !x.temps.isEmpty
  let good := if met then s.mon.good + 1 else 0
  let was := s.rdB Fld.ctlCornerStatus.inRange
  let now := met && (was || 10 ≤ good)
  let s := ({ s with mon := { s.mon with good := min good 10 } }).wrB Fld.ctlCornerStatus.inRange now
  let s := if was && !now then s.bump Fld.ctlCornerStatus.excCount else s
  if was == now then s
  else
    let s := s.logFw Kind.corner 0 Unit'.ctl
    if s.fw then s.notice (if now then 3 else 2) 0 0 0 0 0 else s

/-- The speed floor request (R65). -/
def State.floorStep (s : State) (x : Sample) : State :=
  let guard := min (s.rd Fld.ctlSpeedCtrl.guardPs) (s.rd Fld.ctlCornerLimit.cycleLimitPs)
  match maxEntry (x.cycles.map (fun c => (c.1, (c.2 : Int)))) with
  | some (_, c) =>
    if guard < c.toNat then s.raise Fld.ctlCornerStatus.vfloorReq
    else if c.toNat + 25 ≤ guard then s.wr Fld.ctlCornerStatus.vfloorReq 0 else s
  | none => s

/-- The time between samples, in ticks (R63): 10 us until START_OK, then as SAMPLE_INTERVAL says. -/
def State.sampleTicks (s : State) : Nat :=
  if !s.fw then usTicks 10
  else match s.rd Fld.ctlSpeedCtrl.sampleInterval with
    | 0 => usTicks 10
    | 1 => usTicks 100
    | _ => msTicks 1

/-- A sample is due: the first since the boot ROM started, or one interval after the last (R63). -/
def State.sampleDue (s : State) : Bool :=
  match s.mon.last with
  | none => true
  | some t => s.elapsed t s.sampleTicks

/-- SPEED_SAMPLE: the monitor runs from the start of the boot ROM; two consecutive samples at or above 115 degrees trip (R66). -/
def doSpeedSample (r : SpeedReading) (s : State) : Out :=
  if !s.awake || !s.sampleDue then .next s
  else
    let x := s.sample r
    let s : State := { s with freeCtr := s.freeCtr + 16 }
    let s := ((s.speedShow x).cornerStep x).floorStep x
    let hot := x.temps.any (fun t => 460 ≤ t.2)
    let n := if hot then s.mon.hot + 1 else 0
    let s : State := { s with mon := { s.mon with hot := n, last := some s.now } }
    if n < 2 then .next s
    else
      let s := s.raise Fld.ctlCornerStatus.thermTrip
      let s := if s.fw then s.notice 4 0 0 0 0 0 else s
      .next ((s.onBoot (fun b => { b with trip := true })).reset' .engine 7)

/-! ## Causeways (R51 to R54) -/

/-- Code of what holds a Causeway closed, as CW_CAUSE; 0: nothing. Where several hold it, the order of this chain says which is shown (the model's
choice: assumption 119). -/
def State.cwCause (s : State) (n : Nat) : Nat :=
  if s.boot.phase == .unpowered then 1
  else if s.boot.phase == .hummock then 3
  else if s.boot.phase != .running then 2
  else if s.rdB (Fld.lnkStatus.bufErr n) then 5
  else if s.rdB (Fld.lnkCtrl.close n) then 4 else 0

def State.putSlice (s : State) (n : Nat) (c : Causeway) : State := { s with slices := vset s.slices n c }
def State.slice (s : State) (n : Nat) : Causeway := vget s.slices n .closed

/-- Engine tasks whose frames a close drops abort (R52, R56): started buckets with frames on the slice that have not started or are still to be
sent, and the Felting of a cut whose data stands there. The manual names no status for the bucket: free (assumption 34). -/
def State.sliceDrops (s : State) (n : Nat) : State :=
  let gone := s.outbox.filter (fun f => f.slice == some n)
  let hit (ch : Nat) (b : Bucket) : Bool := !b.dead && !b.completed &&
    (b.xfers.any (fun x => x.slice == n && x.left != 0) ||
      gone.any (fun f => Ty.isData f.ty && f.frame.channel.toNat == ch && f.frame.seq == b.seq))
  let lost := (gone.filter (fun f => f.ty == Ty.feltData)).map (fun f => f.frame.tag.toNat)
  let s := (List.range 32).foldl (fun s ch =>
    ((s.chan ch).running.filter (hit ch)).foldl (fun s b =>
      let (k, s) := s.pickFree 65536
      s.abortBucket ch b.seq (BitVec.ofNat 16 k)) s) (s.egressDrop n)
  lost.foldl State.feltLost s

/-- Nothing holds a closed slice any more: it opens at the next frame boundary. -/
def State.sliceOpens (s : State) (n : Nat) : State :=
  if s.present n && s.slice n == .closed && s.cwCause n == 0 then s.putSlice n .opening else s

/-- An ordered close begins: no engine frame starts any more. -/
def State.sliceCloses (s : State) (n : Nat) : State :=
  match s.slice n with
  | .opened => (s.putSlice n .closing).sliceDrops n
  | .opening => s.putSlice n .closed
  | _ => s

/-- A write of CGM_LNKn_CTRL. -/
def State.lnkCtrlWrite (s : State) (n : Nat) (w : Nat) : State :=
  if !s.present n then s
  else
    let s := s.wrB (Fld.lnkCtrl.close n) (bitAt w 0)
    if bitAt w 0 then s.sliceCloses n else s.sliceOpens n

/-- LNK_CTRL_CLOSE: a write of CLOSE = 1. -/
def doLnkCtrlClose (n : Fin 42) (s : State) : Out := if !s.powered then .next s else .next (s.lnkCtrlWrite n 1)

/-- CAUSEWAY_CLOSED: the BX3 frames that the slice held have gone on in order (R52). -/
def execCausewayClosed (n : Fin 42) (s : State) : Out :=
  if s.slice n == .closing then .next (((s.bx3Flush n).putSlice n .closed).sliceOpens n) else .next s

/-- LNK_CTRL_OPEN: a write of CLOSE = 0. -/
def execLnkCtrlOpen (n : Fin 42) (s : State) : Out := if !s.powered then .next s else .next (s.lnkCtrlWrite n 0)

/-- CAUSEWAY_OPEN: the slice is open at a frame boundary; it takes part in channels only once its Warden has placed it in one (R54). -/
def execCausewayOpen (n : Fin 42) (s : State) : Out :=
  if s.slice n == .opening then .next (({ s with placed := s.placed &&& ~~~(1#42 <<< n.val) }).putSlice n .opened) else .next s

/-- BX3_FRAME_PASS: a slice takes the frame and passes it on unchanged and in order within its class (`State.egress`); a closed Causeway is a
wire. -/
def execBx3FramePass (n : Fin 42) (dir : Dir) (frame : Bx3Frame) (s : State) : Out :=
  if s.present n then .next (s.bx3Is (s.bx3Out ++ [(n, dir, frame)])) else .next s

/-! ## Uncorrectable SRAM errors (R362) -/

/-- Place of an SRAM in the table of R362. -/
def Sram.code : Sram → Nat
  | .coreCode => 0 | .logBank => 1 | .sliceBuffer _ => 2 | .fullingQueue _ => 3 | .tagState _ _ => 4 | .pageTable _ _ => 5
  | .commandContext _ => 6 | .syncState => 7 | .lane _ => 8 | .scanContext _ _ => 8

/-- UNIT of an SRAM: the unit that it serves (R363). -/
def Sram.unit : Sram → Nat
  | .coreCode => Unit'.ctl | .logBank => Unit'.ctl | .sliceBuffer n => Unit'.lnk n | .fullingQueue _ => Unit'.ful | .tagState _ _ => Unit'.red
  | .pageTable _ _ => Unit'.tier | .commandContext _ => Unit'.cmd | .syncState => Unit'.syn | .lane _ => Unit'.chk | .scanContext _ _ => Unit'.chk

/-- ECC_UE, the count and the log record of an uncorrectable error. -/
def State.eccUe (s : State) (sram : Sram) (word : Nat) : State :=
  ((s.raise Fld.ctlErrStatus.eccUe).bump Fld.ctlEccCounts.uncorrectable).logIt Kind.ecc 0 (Sram.unit sram)
    (leBytes 1 (Sram.code sram) ++ leBytes 1 1 ++ leBytes 4 word)

/-- An abrupt close with BUF_ERR (R53): the BX3 frames that the slice held are lost too. -/
def State.bufError (s : State) (n : Nat) : State := (((s.raise (Fld.lnkStatus.bufErr n)).putSlice n .closed).bx3Drop n).sliceDrops n

/-- SLICE_BUFFER_ERROR; which word failed is not said. -/
def doSliceBufferError (n : Fin 42) (s : State) : Out :=
  if !s.awake || !s.present n || s.slice n == .closed then .next s
  else
    let (w, s) := s.pickFree (2 ^ 32)
    .next ((s.eccUe (.sliceBuffer n) w).bufError n)

/-- SRAM_SCRUB_PASS: corrected errors of one pass. -/
def execSramScrubPass (corrected : Nat) (s : State) : Out :=
  if !s.served then .next s
  else
    let s := s.bump Fld.ctlEccCounts.corrected corrected
    if s.rd Fld.ctlEccCounts.threshold < corrected then .next (s.raise Fld.ctlErrStatus.eccCorr) else .next s

end Sys2Proof.Machine
end

