-- ==== Sys2Proof/Machine/Check.lean ====
section
/-! DEFINITION. Software-fed scans (R331 to R333), the digest lanes' grants (R335), the DIGEST command (R314, R338 to R341), and how an
uncorrectable error ends a message (R336). -/
namespace Sys2Proof.Machine

/-! ## Software-fed scans -/

/-- Scan context of an engine's software-fed scan (R330). -/
def swCtx (n : Nat) : Nat := 16 * n + 15

/-- Parameter set of a POLY code (R327). -/
def polySet (poly : Nat) : CrcSet := if poly = 0 then crc32cSet else if poly = 1 then crc64Set else crc16Set

/-- A software-fed scan ends with a status: STATUS, the error bits, the interrupt (R333). -/
def State.scanEnd (s : State) (n : Nat) (st : Status) : State :=
  let s := (s.onChk (fun c => { c with scans := vset c.scans n false })).dropCtx (swCtx n)
  let s := (s.wr (Fld.chkEngStatus.lastStatus n) st.toNat).wr (Fld.chkEngStatus.done n) 1
  let s := if st = St.crcMismatch then (s.raise Fld.chkErrStatus.scanMismatch).bump Fld.chkCounts.mismatches else s
  let s := if st = St.outOfWindow then s.raise Fld.chkErrStatus.scanWindow else s
  let s := if st = St.memUncorrectable then s.raise Fld.chkErrStatus.memUe else s
  let mode := s.rd (Fld.chkEngCtrl.irqMode n)
  if mode = 1 || (mode = 2 && st != St.success) then s.irq (s.rd (Fld.chkEngCtrl.irqVec n)) else s

/-- A write of CGM_CHK_SCANn_CTRL (R331). LEN = 0 is reserved, so a START with it is refused (assumption 35). -/
def State.scanCtrlWrite (s : State) (n w : Nat) : State :=
  if vget s.chk.scans n false then s.accessError (Reg.chkEngCtrl n) 4 true
  else
    let s := (s.writePlain (Reg.chkEngCtrl n) w).1
    let len := s.rd (Fld.chkEngLen.len n)
    if !bitAt w 0 then s
    else if len = 0 then s.accessError (Reg.chkEngCtrl n) 4 true
    else if !s.inWindow (s.rd (Fld.chkEngAddr.addr n)) len then s.scanEnd n St.outOfWindow
    else (s.onChk (fun c => { c with scans := vset c.scans n true })).takeCtx (swCtx n) .software

/-- SCAN_START: a write of CTRL with START. -/
def execScanStart (n : Fin 4) (value : W32) (s : State) : Out :=
  if !s.powered then .next s else .next (s.scanCtrlWrite n (putBits value.toNat 0 1 1))

/-- The CRC that a scan finds: from the initial value, or with CONTINUE from RESULT XOR the final XOR (R332). -/
def State.scanCrc (s : State) (n : Nat) : Nat :=
  let p := polySet (s.rd (Fld.chkEngCtrl.poly n))
  let start := if s.rdB (Fld.chkEngCtrl.cont n) then (s.rd (Fld.chkEngResult.result n) % 2 ^ p.width) ^^^ p.xorOut else p.init
  crcFrom p start (s.load (s.rd (Fld.chkEngAddr.addr n)) (s.rd (Fld.chkEngLen.len n)))

/-- SCAN_COMPLETE. -/
def execScanComplete (n : Fin 4) (s : State) : Out :=
  if !vget s.chk.scans n.val false then .next s
  else
    let p := polySet (s.rd (Fld.chkEngCtrl.poly n))
    let r := s.scanCrc n
    let bad := s.rdB (Fld.chkEngCtrl.compareEn n) && r % 2 ^ p.width != s.rd (Fld.chkEngExpect.expect n) % 2 ^ p.width
    .next ((s.wr (Fld.chkEngResult.result n) r).scanEnd n (if bad then St.crcMismatch else St.success))

/-! ## Lane grants (R335) -/

/-- A DIGEST names an HMAC. -/
def Ctx.hmac (c : Ctx) : Bool := 2 ≤ c.csp 48

/-- Give a lane to a DIGEST command; its key is the slot's as it stands now (R341). -/
def State.laneGive (s : State) (n k : Nat) : State :=
  match s.ctx? k with
  | none => s
  | some c =>
    let slot := s.keySlot (c.csp 49 % 16)
    if c.hmac && !slot.loaded then s.ctxEnd k St.keyAbsent 0 0
    else if c.hmac && slot.kind != 2 then s.ctxEnd k St.invalidField 0 0
    else (s.takeLane n (.command k)).putCtx k { c with lane := some n, key := if c.hmac then slot.bytes else [] }

/-- A DIGEST command asks for a lane: the lowest free one, or its place in the queue. -/
def State.laneAsk (s : State) (k : Nat) : State :=
  match s.freeLane, s.chk.laneWait with
  | some n, [] => s.laneGive n k
  | _, _ => (s.onChk (fun c => { c with laneWait := c.laneWait ++ [.command k] })).bump Fld.chkCounts.laneWaits

/-- Restore verification still wants lanes: one for each region at most. -/
def State.verifyWants (s : State) : Bool :=
  s.rst.st == .verify && (s.chk.lanes.toList.filter (fun l => l == some .verify)).length < s.cut.dir.length

/-- LANE_GRANT: a free lane goes to restore verification in a halt, else to the user that has waited longest. -/
def execLaneGrant (s : State) : Out :=
  match s.freeLane with
  | none => .next s
  | some n =>
    if s.verifyWants then .next (s.takeLane n .verify)
    else match s.chk.laneWait with
      | .command k :: t => .next ((s.onChk (fun c => { c with laneWait := t })).laneGive n k)
      | u :: t => .next ((s.onChk (fun c => { c with laneWait := t })).takeLane n u)
      | [] => .next s

/-! ## The DIGEST command -/

/-- Entries of a fragment list: address, length, and whether a reserved field is set. -/
def fragments : Nat → List Byte → List (Nat × Nat × Bool)
  | 0, _ => []
  | n + 1, b =>
    (fieldLE b 0 6, fieldLE b 8 4, fieldLE b 6 2 != 0 || fieldLE b 12 4 != 0 || fieldLE b 8 4 == 0) :: fragments n (b.drop 16)

/-- Parameter set of an algorithm code (R314). -/
def digestSet (alg : Nat) : ShaSet := if alg % 2 = 0 then sha256Set else sha384Set

/-- The command's fields and its list are good; else its status (R314, R338). -/
def State.digestBad (s : State) (c : Ctx) (list : List (Nat × Nat × Bool)) : Option Status :=
  if c.len % 16 ≠ 0 || c.len = 0 || 65536 < c.len || 4 ≤ c.csp 48 then some St.invalidField
  else if !s.inWindow c.addr c.len then some St.outOfWindow
  else if list.any (fun x => x.2.2) then some St.invalidField
  else if list.any (fun x => !s.inWindow x.1 x.2.1) || !s.inWindow (fieldLE c.entry 56 8) (digestSet (c.csp 48)).out then some St.outOfWindow
  else none

/-- DIGEST: read and check the list, then ask for a lane. -/
def State.digestStart (s : State) (k : Nat) (c : Ctx) : State :=
  let list := s.load c.addr (min c.len 65536)
  match s.digestBad c (fragments (c.len / 16) list) with
  | some st => s.ctxEnd k st 0 0
  | none => (s.putCtx k { c with list := list }).laneAsk k

/-- The padding check of R339: the message length, or a status. An inner bit length shorter than the key block leaves L without a value, and
the manual does not say which of its three statuses that gives: free (assumption 36). -/
def State.padCheck (s : State) (p : ShaSet) (hmac : Bool) (m : List Byte) : Except Status Nat × State :=
  let total := m.length
  let bl := beNat (m.drop (total - p.lenBytes))
  let key := if hmac then p.block else 0
  if bl % 8 ≠ 0 || total % p.block ≠ 0 then (.error St.invalidField, s)
  else if bl / 8 < key then
    let (n, s) := s.pickFree 3
    (.error (if n = 0 then St.invalidField else if n = 1 then St.lengthLong else St.lengthShort), s)
  else
    let l := bl / 8 - key
    let t := (l + 1 + p.lenBytes + p.block - 1) / p.block * p.block
    if t < total then (.error St.lengthLong, s)
    else if total < t then (.error St.lengthShort, s)
    else if m.getD l 0 != 0x80 || ((m.drop (l + 1)).take (total - p.lenBytes - l - 1)).any (· != 0) then (.error St.invalidField, s)
    else (.ok l, s)

/-- Result of the lane: SHA-2 over the padded message, or the two passes of an HMAC. -/
def digestOf (p : ShaSet) (hmac : Bool) (key m : List Byte) : List Byte :=
  if hmac then hmacPadded p key m else shaOut p (shaPadded p p.init m)

/-- DIGEST_COMPLETE: the message on a lane ends. -/
def execDigestComplete (lane : Fin 32) (s : State) : Out :=
  match vget s.chk.lanes lane.val none with
  | some (.command k) =>
    match s.ctx? k with
    | none => .next (s.dropLane lane)
    | some c =>
      let p := digestSet (c.csp 48)
      let m := (fragments (c.len / 16) c.list).flatMap (fun x => s.load x.1 x.2.1)
      let s := s.dropLane lane
      match s.padCheck p c.hmac m with
      | (.error st, s) => .next ((s.raise Fld.chkErrStatus.padInvalid).ctxEnd k st 0 0)
      | (.ok l, s) =>
        let s := s.store' (fieldLE c.entry 56 8) (digestOf p c.hmac c.key m)
        .next (s.ctxEnd k St.success (l % 2 ^ 32) (lane.val + l / 2 ^ 32 % 65536 * 65536))
  | _ => .next s

/-! ## Messages that end early (R336) -/

/-- A command's work is over before its end: its lane, its place in the queue and its scan contexts are released. -/
def State.ctxAbort (s : State) (k : Nat) (st : Status) : State :=
  let s := (s.dropLanes (fun u => u == .command k)).dropCtxs (fun u => u == .command k)
  s.ctxEnd k st 0 0

/-- An uncorrectable error ends the message of a lane. Restore verification reads its region again (assumption 37). -/
def State.laneError (s : State) (lane : Nat) : State :=
  match vget s.chk.lanes lane none with
  | some (.felt seq _) => (s.raise Fld.chkErrStatus.memUe).feltReadError seq
  | some (.command k) => (s.raise Fld.chkErrStatus.memUe).ctxAbort k St.memUncorrectable
  | some .verify =>
    ((s.raise Fld.chkErrStatus.memUe).dropLane lane).onRst (fun r => { r with lastStatus := St.memUncorrectable })
  | some .drain => match s.peat.drain with
    | some d => (s.raise Fld.chkErrStatus.memUe).drainFail d.seq St.memUncorrectable
    | none => s.dropLane lane
  | some .boot => s.dropLane lane
  | none => s

/-- An uncorrectable error ends the stream of a scan context. -/
def State.scanCtxError (s : State) (k : Nat) : State :=
  match kget s.chk.ctxs k with
  | some (.felt seq _) => (s.raise Fld.chkErrStatus.memUe).feltReadError seq
  | some .drain => match s.peat.drain with
    | some d => (s.raise Fld.chkErrStatus.memUe).drainFail d.seq St.memUncorrectable
    | none => s.dropCtx k
  | some (.command c) => (s.raise Fld.chkErrStatus.memUe).ctxAbort c St.memUncorrectable
  | some .verify => ((s.raise Fld.chkErrStatus.memUe).dropCtx k).onRst (fun r => { r with lastStatus := St.memUncorrectable })
  | some .software => s.scanEnd (k / 16) St.memUncorrectable
  | none => s

end Sys2Proof.Machine
end

