-- ==== Sys2Proof/Machine/Ecdsa.lean ====
section
/-! DEFINITION. ECDSA P-384 with SHA-384 (FIPS 186-5), the one signature scheme of R345 and R346. -/
namespace Sys2Proof.Machine

/-- The prime, the order, the coefficient b and the base point of P-384. -/
def p384p : Nat := 2 ^ 384 - 2 ^ 128 - 2 ^ 96 + 2 ^ 32 - 1
def p384n : Nat := 0xFFFFFFFFFFFFFFFFFFFFFFFFFFFFFFFFFFFFFFFFFFFFFFFFC7634D81F4372DDF581A0DB248B0A77AECEC196ACCC52973
def p384b : Nat := 0xB3312FA7E23EE7E4988E056BE3F82D19181D9C6EFE8141120314088F5013875AC656398D8A2ED19D2A85C8EDD3EC2AEF
def p384gx : Nat := 0xAA87CA22BE8B05378EB1C71EF320AD746E1D3B628BA79B9859F741E082542A385502F25DBF55296C3A545E3872760AB7
def p384gy : Nat := 0x3617DE4A96262C6F5D9E98BF9292DC29F8F41DBD289A147CE9DA3113B5F0B8C00A60B1CE1D7E819D7A431D7C90EA0E5F

/-- Power modulo `m` over the low `n` bits of the exponent. -/
def powMod (m : Nat) : Nat → Nat → Nat → Nat
  | 0, _, _ => 1 % m
  | n + 1, b, e => let r := powMod m n (b * b % m) (e / 2); if e % 2 = 1 then r * b % m else r

/-- Inverse modulo a prime of 384 bits. -/
def invMod (m x : Nat) : Nat := powMod m 384 (x % m) (m - 2)

/-- Difference modulo `m`. -/
def subMod (m a b : Nat) : Nat := (a % m + m - b % m) % m

/-- Sum of two points of the curve; none is the point at infinity. -/
def ecAdd (a b : Option (Nat × Nat)) : Option (Nat × Nat) :=
  match a, b with
  | none, q => q
  | p, none => p
  | some (x1, y1), some (x2, y2) =>
    let m := p384p
    if x1 = x2 && (y1 + y2) % m = 0 then none
    else
      let l := if x1 = x2 then (3 * x1 * x1 + m - 3) * invMod m (2 * y1) % m else subMod m y2 y1 * invMod m (subMod m x2 x1) % m
      let x3 := subMod m (l * l) (x1 + x2)
      some (x3, subMod m (l * subMod m x1 x3) y1)

/-- Multiple of a point, over the low `n` bits of the factor. -/
def ecMul : Nat → Nat → Option (Nat × Nat) → Option (Nat × Nat)
  | 0, _, _ => none
  | n + 1, k, p => let r := ecMul n (k / 2) (ecAdd p p); if k % 2 = 1 then ecAdd r p else r

/-- A public key of 97 bytes in the uncompressed form names a point of the curve. -/
def ecPoint (pub : List Byte) : Option (Nat × Nat) :=
  let x := beNat ((pub.drop 1).take 48); let y := beNat ((pub.drop 49).take 48)
  if pub.length = 97 && pub.getD 0 0 = 4 && x < p384p && y < p384p && (y * y) % p384p = (x * x * x + (p384p - 3) * x + p384b) % p384p
  then some (x, y) else none

/-- The signature check: r and s as 48 big-endian bytes each, over the SHA-384 of the message. -/
def ecdsaVerify (pub sig msg : List Byte) : Bool :=
  match ecPoint pub with
  | none => false
  | some q =>
    let r := beNat (sig.take 48); let s := beNat ((sig.drop 48).take 48); let e := beNat (sha384 msg)
    if r = 0 || p384n ≤ r || s = 0 || p384n ≤ s then false
    else
      let w := invMod p384n s
      match ecAdd (ecMul 384 (e * w % p384n) (some (p384gx, p384gy))) (ecMul 384 (r * w % p384n) (some q)) with
      | none => false
      | some (x, _) => x % p384n = r

end Sys2Proof.Machine
end

