-- ==== Sys2Proof/Machine/Boot.lean ====
section
/-! DEFINITION. The firmware store, images, the boot ROM, START_OK and Hummock mode (R344 to R353), core watchdogs (R343), activation (R360),
the containment of uncorrectable errors (R29, R362), fences (R236). -/
namespace Sys2Proof.Machine

def State.onStore (s : State) (f : Store → Store) : State := { s with store := f s.store }

/-! ## The state record (R344) -/

/-- Copy A is the valid record. -/
def Store.aRules (t : Store) : Bool := t.recA.crcOk && (!t.recB.crcOk || t.recB.seqNo.toNat < t.recA.seqNo.toNat)

/-- The valid record; where no copy's CRC holds, one that knows of no slot. -/
def Store.record (t : Store) : StateRecord := if t.aRules then t.recA else if t.recB.crcOk then t.recB else {}

/-- Write the copy with the lower sequence number. -/
def Store.write (t : Store) (r : StateRecord) : Store :=
  if t.aRules then { t with recB := { r with seqNo := t.recA.seqNo + 1, crcOk := true } }
  else { t with recA := { r with seqNo := t.recB.seqNo + 1, crcOk := true } }

/-- Change the record; a change of nothing writes nothing. -/
def State.record' (s : State) (f : StateRecord → StateRecord) : State :=
  let r := s.store.record
  if f r = r then s else s.onStore (fun t => t.write (f r))

def StateRecord.valid (r : StateRecord) (b : Bool) : Bool := if b then r.bValid else r.aValid
def StateRecord.setValid (r : StateRecord) (b v : Bool) : StateRecord := if b then { r with bValid := v } else { r with aValid := v }

/-! ## Images (R345, R346) -/

def storeSlot (b : Bool) : Nat := if b then 0x200000 else 0x100000
def storeStaging : Nat := 0x300000

/-- SVN of the image at a place of the store. -/
def Store.svn (t : Store) (off : Nat) : Nat := leNat (Memory.bytesAt t.bytes (off + 12) 2)
/-- VERSION of an image, 16 bytes. -/
def Store.version (t : Store) (off : Nat) : List Byte := Memory.bytesAt t.bytes (off + 16) 16
/-- IMAGE_BYTES of an image. -/
def Store.imageBytes (t : Store) (off : Nat) : Nat := leNat (Memory.bytesAt t.bytes (off + 8) 4)

/-- The four checks of R346 in order; at a commit IMAGE_BYTES must equal the bytes downloaded. -/
def State.imageVerify (s : State) (off : Nat) (downloaded : Option Nat) : Status :=
  let h := Memory.bytesAt s.store.bytes off 512
  let n := fieldLE h 8 4
  let k := fieldLE h 14 1
  let pub := (h.drop 64).take 97
  if h.take 4 != ascii "CGFW" || fieldLE h 4 4 ≠ 0x00010000 || n % 4096 ≠ 0 || n < 8192 || 0x100000 < n || fieldLE h 36 4 ≠ 0x00010000 ||
     (match downloaded with | some d => d != n | none => false) then St.fwImageSize
  else if 4 ≤ k || s.part.keyHash[k]? != some (sha384 pub) || bitAt s.part.revoked.toNat k then St.fwSignature
  else if fieldLE h 12 2 < s.boot.svnFloor then St.fwSignature
  else if ecdsaVerify pub ((h.drop 256).take 96) (h.take 256 ++ Memory.bytesAt s.store.bytes (off + 512) (n - 512)) then St.success
  else St.fwSignature

/-- A slot is valid in the record and verifies. -/
def State.slotGood (s : State) (r : StateRecord) (b : Bool) : Bool := r.valid b && s.imageVerify (storeSlot b) none == St.success

/-! ## The boot ROM (R348, R350) -/

/-- Count the failed start that came before: FAIL_COUNT, its cause, and the mark when the failed slot was the marked one and the other slot
is valid. -/
def State.countFail (s : State) (r : StateRecord) : StateRecord :=
  let b := s.boot
  if b.failPending = 0 then r
  else
    let r := { r with failCount := min 3 (r.failCount + 1), failCause := b.failPending, failed := r.failed + 1 }
    if b.entered && b.slot == r.marked && r.valid (!r.marked) then { r with marked := !r.marked } else r

/-- Enter a slot's firmware: the start watchdog runs, PEAT_PERST_N is released (R348, R349). -/
def State.enterSlot (s : State) (was b : Bool) : State :=
  let s := ((s.wrB Fld.ctlBootReason.slot b).wrB Fld.ctlBootReason.fallback (b != was)).wr Fld.ctlFwStatus.svn (s.store.svn (storeSlot b))
  let s := (s.onBoot (fun x => { x with phase := .booting, slot := b, entered := true, entryTick := s.now })).onBoard
    (fun x => { x with perstN := true })
  if s.rdB Fld.peatCtrl.enable then s.peatBringUp else s

/-- Hummock mode (R352). -/
def State.enterHummock (s : State) : State :=
  let s := (((s.wr Fld.ctlBootReason.hummock 1).wr Fld.ctlBootReason.slot 0).wr Fld.ctlBootReason.fallback 0).logFw Kind.hummock 0 Unit'.ctl
  let s := (s.onBoot (fun x => { x with phase := .hummock, entryTick := s.now })).onBoard (fun x => { x with perstN := true })
  if s.rdB Fld.peatCtrl.enable then s.peatBringUp else s

/-- The start fails in the ROM; the reset that follows has source 0x9 (R348; for causes 0x4 and 0x5 assumption 38). -/
def State.romFails (s : State) (cause : Nat) : State :=
  (s.onBoot (fun b => { b with failPending := BitVec.ofNat 4 cause, entered := false })).resetAll .engine 9

/-- Steps 1 to 5 of the boot ROM. -/
def State.romRun (s : State) (check : RomCheck) : State :=
  if check.bad then s.romFails 4
  else if check.storeFails then s.romFails 5
  else
    let s := if check.repaired then s.raise Fld.ctlErrStatus.mbistRepair else s
    let was := s.store.record.marked
    let r := s.countFail s.store.record
    let s := (s.record' (fun _ => r)).onBoot (fun b => { b with failPending := 0, entered := false })
    let s := (s.wr Fld.ctlBootReason.failCount r.failCount).wr Fld.ctlBootReason.failCause r.failCause.toNat
    if 3 ≤ r.failCount then s.enterHummock
    else if s.slotGood r r.marked then s.enterSlot was r.marked
    else if s.slotGood r (!r.marked) then s.enterSlot was (!r.marked)
    else s.romFails 1

/-- BOOT_ROM_START: a start after a thermal trip holds before step 1 (R66). -/
def doBootRomStart (check : RomCheck) (s : State) : Out :=
  if s.boot.phase != .reset then .next s
  else if s.boot.trip then
    .next ((s.onBoot (fun b => { b with phase := .thermalHold, check := check })).wr Fld.ctlBootReason.thermalHold 1)
  else .next (s.romRun check)

/-- THERMAL_HOLD_RELEASE: the monitor, which runs from the start of the boot ROM (R63), reports the hottest diode in 0.25 degrees; below 100
degrees the start proceeds (R66). The command carries that reading: with any other than the one the monitor reports it tells of nothing. -/
def doThermalHoldRelease (tj : BitVec 11) (s : State) : Out :=
  if s.boot.phase != .thermalHold || s.mon.last.isNone || tj != BitVec.ofNat 11 (s.rd Fld.ctlSpeedStatus.tjQ) || 400 ≤ tj.toInt then .next s
  else .next ((s.onBoot (fun b => { b with trip := false, check := {} })).romRun s.boot.check)

/-! ## START_OK (R347, R350, R48) -/

/-- A working table that fails its CRC-64: the set is LOST. -/
def State.setLost (s : State) (k : Nat) : State :=
  (s.putSet k { st := .lost }).raise Fld.tierErrStatus.setLost

/-- A set's page table is loaded again from its mirror (R48, R362). -/
def State.pagesAgain (s : State) (k : Nat) : State := s.putSet k { s.set k with pages := (s.set k).mirror }

/-- Peat entries of the Shard Map stand as they were read from the drive. -/
def State.peatRead (s : State) : Bool := s.peat.cat.isSome

/-- A Shard Map that fails its check is rebuilt (R48): its Peat entries from the drive, those of each cut at Sedge from the partner. No frame asks
a partner for that, so which cuts come back is free (assumption 44). -/
def State.mapAgain (s : State) : State :=
  let s := s.mapDrop (fun e => e.tier == 2 || (e.tier == 1 && !s.peatRead) || (e.tier == 0 && (e.st == .filling || e.st == .written)))
  (((s.map.filter (fun e => e.2.tier == 0)).map (fun e => (e.2.step, e.2.gen))).eraseDups).foldl (fun s c =>
    let (here, s) := s.pickBool
    if here then s else s.mapDrop (mapSedge c.1 c.2)) s

/-- FLOOR_RAISE of the running image (R347). -/
def State.floorRaise (s : State) : State :=
  let off := storeSlot s.boot.slot
  let svn := s.store.svn off
  if bitAt (leNat (Memory.bytesAt s.store.bytes (off + 15) 1)) 0 && s.boot.svnFloor < svn && s.boot.floorSteps < 64 then
    let s := s.onBoot (fun b => { b with svnFloor := svn, floorSteps := b.floorSteps + 1 })
    let o := !s.boot.slot
    if s.store.svn (storeSlot o) < svn then s.record' (fun r => r.setValid o false) else s
  else s

/-- Open the Causeways of every slice present. -/
def State.openAll (s : State) : State :=
  (List.range s.sliceCount).foldl (fun s n =>
    let s := s.wr (Fld.lnkCtrl.close n) 0
    if s.rdB (Fld.lnkStatus.bufErr n) then s else s.putSlice n .opened) s

/-- START_OK. A fault of the memory tests that no spare row covers ends the start instead. -/
def doStartOk (t : TableCheck) (s : State) : Out :=
  if s.boot.phase != .booting then .next s
  else if t.bad then .next ((s.onBoot (fun b => { b with failPending := 4 })).resetAll .engine 7)
  else
    let s := if t.repaired then s.raise Fld.ctlErrStatus.mbistRepair else s
    let s := (List.range 8).foldl (fun s k => if bitAt t.setsBad.toNat k then s.setLost k else s.pagesAgain k) s
    let s := if t.shardMapBad then s.mapAgain else s
    let b := s.boot.slot
    let s := s.record' (fun r =>
      if b then { r with failCount := 0, startsB := r.startsB + 1 } else { r with failCount := 0, startsA := r.startsA + 1 })
    let s := s.floorRaise
    let s := (s.wr Fld.ctlFwStatus.startOk 1).wr Fld.ctlFwStatus.startUs ((s.now - s.boot.entryTick) / 100)
    let s := (s.onBoot (fun b => { b with phase := .running })).openAll
    let s := s.onElect (fun e => { e with wardenHb := s.now, hadWarden := false })
    .next (if s.rst.fenced then s.onRst (fun r => { r with st := .standby }) else s)

/-- START_WATCHDOG_EXPIRY: 2 s after the firmware was entered. -/
def doStartWatchdogExpiry (s : State) : Out :=
  if s.boot.phase != .booting || !s.elapsed s.boot.entryTick (msTicks 2000) then .next s else .next ((s.startFails 2).reset' .engine 6)

/-- CORE_WATCHDOG_EXPIRY: a fatal internal error (R343); CORE_WD survives the reset. -/
def doCoreWatchdogExpiry (_core : Fin 4) (s : State) : Out :=
  if s.boot.phase == .booting || s.boot.phase == .running || s.boot.phase == .hummock then
    .next ((s.raise Fld.ctlErrStatus.coreWd).fatal 5)
  else .next s

/-! ## Activation (R360) -/

/-- A write of ACTIVATE. -/
def State.activateWrite (s : State) : State :=
  if s.rdB Fld.ctlReset.quiescing || !s.awake then s
  else (s.wr Fld.ctlReset.quiescing 1).onBoot (fun b => { b with quiesceTick := s.now })

/-- ACTIVATE. -/
def execActivate (s : State) : Out := if !s.powered then .next s else .next s.activateWrite

/-- Nothing is in progress that an activation waits for. -/
def State.quiescent (s : State) : Bool :=
  !s.cut.cuts.any (fun c => c.st.open' && !c.refused) && s.peat.drain.isNone && s.peat.staged.isEmpty && s.peat.taking.isEmpty &&
  !s.peat.flushing && s.peat.nvme.isEmpty && s.cmd.ctxs.isEmpty

/-- ACTIVATION_RESET: once quiescent, or after 30 s; a halt defers it. A forced one logs what did not hold, in the firmware's form. -/
def doActivationReset (s : State) : Out :=
  if !s.awake || !s.rdB Fld.ctlReset.quiescing || s.halted then .next s
  else if s.quiescent then .next (s.reset' .engine 8)
  else if s.elapsed s.boot.quiesceTick (msTicks 30000) then .next ((s.logFw Kind.firmware 0 Unit'.ctl).reset' .engine 8)
  else .next s

/-! ## Uncorrectable errors (R29, R362) -/

/-- A bucket of a channel that has been consumed and lives. -/
def State.liveBucket (s : State) (ch : Nat) (seq : W32) : Option Bucket :=
  ((s.chan ch).running ++ (s.chan ch).issued).find? (fun b => b.seq == seq && !b.dead && !b.completed)

/-- A live bucket aborts, started or not (R104). -/
def State.bucketError (s : State) (ch : Nat) (seq : W32) (st : Status) : State :=
  if (s.bucket ch seq).isSome then s.abortBucket ch seq st
  else match s.liveBucket ch seq with
    | some b => s.abortIssued ch b st
    | none => s

/-- The cut whose record the next latch takes (R162). -/
def State.toLatch (s : State) : Option Cut := (s.cut.cuts.reverse.find? (fun c => !c.sealTaken)).filter (fun c => c.st == .opened)

/-- Refill data that this engine sends under a tag stops: frames that have not started are dropped, and the requester's watchdog finds the rest
missing. -/
def State.refillStops (s : State) (tag : Nat) : State :=
  let s := s.outboxIs (s.outbox.filter (fun f => !(f.ty == Ty.refillData && f.frame.tag.toNat == tag)))
  (s.onRst (fun r => { r with sentData := r.sentData.filter (fun x => x.1 != tag) })).releaseTag tag

/-- SRAM_UNCORRECTABLE. Which record of the log a word of its bank belongs to is not said: a free one. -/
def doSramUncorrectable (sram : Sram) (word : W32) (s : State) : Out :=
  if !s.awake then .next s
  else
    let t := s.eccUe sram word.toNat
    match sram with
    | .coreCode => .next (t.fatal 7)
    | .syncState => .next (t.fatal 7)
    | .logBank =>
      if s.log.isEmpty then .next t
      else
        let (k, s) := s.pickFree s.log.length
        let s := { s with log := s.log.eraseIdx k }
        .next (((s.eccUe sram word.toNat).bump Fld.ctlErrlog.lost).raise Fld.ctlErrStatus.logLost)
    | .sliceBuffer n => .next (if s.present n then t.bufError n else s)
    | .fullingQueue q => .next (t.fulAbort q St.memUncorrectable)
    | .tagState ch seq => .next (t.bucketError ch seq St.memUncorrectable)
    | .pageTable k mirrorOk => .next (if mirrorOk then t.pagesAgain k else t.setLost k)
    | .commandContext k => .next (t.ctxAbort k St.memUncorrectable)
    | .lane n => .next (t.laneError n)
    | .scanContext e k => .next (t.scanCtxError (16 * e.val + k.val))

/-- The task that issued a read runs. -/
def State.taskRuns (s : State) : TaskId → Bool
  | .bucket ch seq => (s.liveBucket ch seq).isSome
  | .fulling q => (s.fq q).task.isSome
  | .feltRegion l => match vget s.chk.lanes l.val none with | some (.felt _ _) => true | _ => false
  | .sumpCopy => s.cut.cuts.any (fun c => c.sumpRuns && c.st == .opened)
  | .drain => s.peat.drain.isSome
  | .command k => match s.ctx? k with | some c => !c.finished && !c.abandoned | none => false
  | .scan n => vget s.chk.scans n.val false
  | .recordLatch => !s.halted && s.toLatch.isSome
  | .verify => s.rst.st == .verify
  | .refill tag => s.rst.sentData.any (fun x => x.1 == tag.toNat)

/-- UNIT code of a task. -/
def TaskId.unit : TaskId → Nat
  | .bucket _ _ => Unit'.red | .recordLatch => Unit'.tier | .verify => Unit'.tier | .refill _ => Unit'.tier | .fulling _ => Unit'.ful | .feltRegion _ => Unit'.tier | .sumpCopy => Unit'.tier | .drain => Unit'.peat
  | .command _ => Unit'.cmd | .scan _ => Unit'.chk

/-- MEMORY_READ_UNCORRECTABLE: the issuing task aborts and the address is logged; no record of R363 has a place for it, so it stands in a
firmware event (assumption 39). -/
def doMemoryReadUncorrectable (task : TaskId) (addr : BitVec 48) (s : State) : Out :=
  if !s.awake || !s.taskRuns task then .next s
  else
    let s := s.logIt Kind.firmware St.memUncorrectable (TaskId.unit task) (leBytes 6 addr.toNat)
    match task with
    | .bucket ch seq => .next (s.bucketError ch seq St.memUncorrectable)
    | .recordLatch =>
      match s.toLatch with
      | some c => .next (s.cutFinal c.seq .abandoned St.memUncorrectable true)
      | none => .next s
    | .verify => .next ((s.raise Fld.chkErrStatus.memUe).onRst (fun r => { r with lastStatus := St.memUncorrectable }))
    | .refill tag => .next (s.refillStops tag.toNat)
    | .fulling q => .next (s.fulAbort q St.memUncorrectable)
    | .feltRegion l => .next (s.laneError l)
    | .sumpCopy =>
      match s.cut.cuts.find? (fun c => c.sumpRuns && c.st == .opened) with
      | some c => .next (s.cutFinal c.seq .abandoned St.memUncorrectable true)
      | none => .next s
    | .drain =>
      match s.peat.drain with
      | some d => .next (s.drainFail d.seq St.memUncorrectable)
      | none => .next s
    | .command k => .next (s.ctxAbort k St.memUncorrectable)
    | .scan n => .next (s.scanEnd n St.memUncorrectable)

/-! ## Fences (R236) -/

/-- FENCE_FRAME: a fence that names this engine's rank resets it; it may come back only as a standby spare. -/
def doFenceFrame (n : Fin 42) (f : Frame) (s : State) : Out :=
  .next (s.rstRecv n Ty.fence f fun s =>
    if f.payload.length ≠ 8 then s.staleAt n
    else if s.fencesMe f then (s.onRst (fun r => { r with fenced := true })).reset' .engine 4 else s)

end Sys2Proof.Machine
end

