-- ==== Sys2Proof/Machine/Queue.lean ====
section
/-! DEFINITION. Queue pairs, push slots, the start and the completion of commands, range locks (R293 to R308). -/
namespace Sys2Proof.Machine

/-! ## Queue pairs (R293 to R295, R302) -/

def State.sqSize (s : State) (q : Nat) : Nat := s.rd (Fld.cmdQCfg.sqSize q) + 1
def State.cqSize (s : State) (q : Nat) : Nat := s.rd (Fld.cmdQCfg.cqSize q) + 1
def State.sqBase (s : State) (q : Nat) : Nat := s.rdAddr (Fld.cmdQSqBase.base q)
def State.cqBase (s : State) (q : Nat) : Nat := s.rdAddr (Fld.cmdQCqBase.base q)

/-- Commands of a pair started and not completed, as context and contents. -/
def State.ctxsOf (s : State) (q : Nat) : List (Nat × Ctx) := s.cmd.ctxs.filter (fun x => x.2.q == q && !x.2.abandoned)

/-- A pair whose ENABLE is 0 becomes DISABLED once none of its commands runs. -/
def State.queueIdle (s : State) (q : Nat) : State :=
  if (s.queue q).st == .active && !s.rdB (Fld.cmdQCfg.enable q) && (s.ctxsOf q).isEmpty then s.putQueue q {} else s

/-- Enable a DISABLED pair: rings inside the window and no reserved size, or ERROR. -/
def State.queueStart (s : State) (q : Nat) (sizesOk : Bool) : State :=
  if sizesOk && s.rd (Fld.cmdQCfg.sqSize q) ≠ 0 && s.rd (Fld.cmdQCfg.cqSize q) ≠ 0 && s.inWindow (s.sqBase q) (s.sqSize q * 64) &&
     s.inWindow (s.cqBase q) (s.cqSize q * 16) then
    ((s.wr (Fld.cmdQSqTail.tail q) 0).wr (Fld.cmdQCqHead.head q) 0).putQueue q { st := .active, phase := true }
  else ((s.wr (Fld.cmdQCfg.enable q) 0).raise Fld.cmdErrStatus.ringInvalid).putQueue q { s.queue q with st := .error }

/-- A write of CGM_CMD_Qn_CFG. While CGM_CMD_CTRL.ENABLE is 0 no pair may be enabled: the write of ENABLE is refused. -/
def State.queueCfgWrite (s : State) (q w : Nat) : State :=
  let was := s.rdB (Fld.cmdQCfg.enable q)
  let s := (s.writePlain (Reg.cmdQCfg q) w).1
  if bitAt w 0 && !was && (s.queue q).st == .disabled then
    if s.rdB Fld.cmdCtrl.enable then s.queueStart q (bits w 2 12 != 0 && bits w 14 12 != 0)
    else (s.wr (Fld.cmdQCfg.enable q) 0).accessError (Reg.cmdQCfg q) 8 true
  else s.queueIdle q

/-- QUEUE_ENABLE: a write of CFG with ENABLE 1. -/
def execQueueEnable (q : Fin 8) (value : W64) (s : State) : Out :=
  if !s.powered then .next s else .next (s.queueCfgWrite q (putBits value.toNat 0 1 1))

/-- QUEUE_DISABLE: a write of CFG with ENABLE 0. -/
def execQueueDisable (q : Fin 8) (value : W64) (s : State) : Out :=
  if !s.powered then .next s else .next (s.queueCfgWrite q (putBits value.toNat 0 1 0))

/-- The pair enters ERROR on a tail or head write that breaks R294. -/
def State.queueOverflow (s : State) (q : Nat) : State :=
  (s.raise Fld.cmdErrStatus.sqOverflow).putQueue q { s.queue q with st := .error }

def Sub.isPush : Sub → Bool
  | .push _ => true
  | _ => false
def Sub.isRing : Sub → Bool
  | .ring => true
  | _ => false

/-- Entries that count against the SQ: ring entries not read and pushes not latched (R295). -/
def Queue.held (x : Queue) : Nat := (x.subs.filter (fun u => u.isRing || u.isPush)).length

/-- A write of SQ_TAIL (R294); a tail beyond the ring counts as an overflow. -/
def State.sqTailWrite (s : State) (q w : Nat) : State :=
  let x := s.queue q
  let t := bits w 0 12
  let n := s.sqSize q
  let k := (t + n - x.sqTail) % n
  if x.st != .active || !s.rdB (Fld.cmdQCfg.enable q) then s.accessError (Reg.cmdQSqTail q) 4 true
  else if n ≤ t || n - 1 < x.held + k then s.queueOverflow q
  else (s.wr (Fld.cmdQSqTail.tail q) t).putQueue q { x with sqTail := t, subs := x.subs ++ List.replicate k .ring }

/-- SQ_TAIL_WRITE. -/
def execSqTailWrite (q : Fin 8) (value : W32) (s : State) : Out := if !s.powered then .next s else .next (s.sqTailWrite q value.toNat)

/-- A write of CQ_HEAD (R294). -/
def State.cqHeadWrite (s : State) (q w : Nat) : State :=
  let x := s.queue q
  let h := bits w 0 12
  let n := s.cqSize q
  if x.st == .disabled || x.st == .resetting then s.accessError (Reg.cmdQCqHead q) 4 true
  else if n ≤ h || (x.cqTail + n - x.cqHead) % n < (h + n - x.cqHead) % n then s.queueOverflow q
  else (s.wr (Fld.cmdQCqHead.head q) h).putQueue q { x with cqHead := h }

/-- CQ_HEAD_WRITE. -/
def execCqHeadWrite (q : Fin 8) (value : W32) (s : State) : Out := if !s.powered then .next s else .next (s.cqHeadWrite q value.toNat)

/-- A push slot is BUSY. -/
def Queue.busy (x : Queue) (slot : Nat) : Bool := x.subs.contains (.push slot)

/-- A write of word `k` of a push slot; W7 submits (R295). -/
def State.pushWrite (s : State) (q slot k : Nat) (w : W64) : State :=
  let x := s.queue q
  let refuse := (s.accessError (Reg.cmdQPush q slot k) 8 true).raise Fld.cmdErrStatus.pushBusy
  if x.busy slot then refuse
  else
    let key := slot * 8 + k
    let y := { x with push := if w = 0 then kdel x.push key else kset x.push key w }
    if k ≠ 7 then s.putQueue q y
    else if x.st != .active || !s.rdB (Fld.cmdQCfg.enable q) then s.accessError (Reg.cmdQPush q slot k) 8 true
    else if s.sqSize q - 1 ≤ x.held then refuse
    else s.putQueue q { y with subs := y.subs ++ [.push slot] }

/-- PUSH_SUBMIT: the write of W7. -/
def execPushSubmit (q : Fin 8) (slot : Fin 4) (w7 : W64) (s : State) : Out :=
  if !s.powered then .next s else .next (s.pushWrite q slot 7 w7)

/-! ## Queue reset (R301) -/

/-- A write of RESET: the pair stops, its commands are abandoned, their locks and lanes are released and what they staged is discarded. -/
def State.queueReset (s : State) (q : Nat) : State :=
  let mine := s.ctxsOf q
  let ks := mine.map (fun x => x.1)
  let orders := mine.map (fun x => x.2.order)
  let s := s.onCmd (fun c =>
    { c with
      ctxs := c.ctxs.map (fun x => if x.2.q == q then (x.1, { x.2 with abandoned := true }) else x)
      locks := c.locks.filter (fun l => !ks.contains l.ctx)
      relays := c.relays.map (fun r => if ks.contains r.ctx then { r with ctx := 128 } else r) })
  let s := s.dropLanes (fun u => match u with | .command k => ks.contains k | _ => false)
  let s := s.dropCtxs (fun u => match u with | .command k => ks.contains k | _ => false)
  let s := s.onPeat (fun p => { p with staged := p.staged.filter (fun r => !(r.q == q && orders.contains r.order)) })
  let s := s.onCut (fun u => { u with peatNext := u.peatNext.map (fun p => if ks.contains p.2.1 then (p.1, 128, p.2.2) else p) })
  let s := s.onRst (fun r => { r with restoreCtx := match r.restoreCtx with | some k => if ks.contains k then none else some k | none => none })
  s.putQueue q { st := .resetting }

/-- A write of RESET to a queue pair. While a broader reset is in progress it is absorbed and logged (R49); a queue reset has no source code
among those of CGM_CTL_BOOT_REASON, so the record's is free (assumption 140). -/
def State.queueResetWrite (s : State) (q : Nat) : State :=
  if s.boot.phase == .reset then
    let (n, s) := s.pickFree 256
    s.logIt Kind.reset 0 Unit'.cmd (leBytes 1 n)
  else s.queueReset q

/-- QUEUE_RESET. -/
def execQueueReset (q : Fin 8) (s : State) : Out := if !s.powered then .next s else .next (s.queueResetWrite q)

/-- The pair's registers at their Reset values (R48, R301). -/
def State.queueRegs (s : State) (q : Nat) : State :=
  let b := Reg.cmdQCfg q
  { s with regs := s.regs.filter (fun r => !(b ≤ r.1 && r.1 < b + 0x200)) }

/-- QUEUE_RESET_COMPLETE: the abandoned commands have stopped. -/
def execQueueResetComplete (q : Fin 8) (s : State) : Out :=
  if (s.queue q).st != .resetting then .next s
  else
    let s := s.onCmd (fun c => { c with ctxs := c.ctxs.filter (fun x => !(x.2.q == q.val && x.2.abandoned)) })
    .next ((s.queueRegs q).putQueue q {})

/-! ## What every entry is checked for (R304, R305, R307) -/

/-- Opcodes of R305. -/
def opcKnown (o : Nat) : Bool := (1 ≤ o && o ≤ 7) || o == 0x10 || o == 0x11 || (0x80 ≤ o && o ≤ 0x85)
def opcAdmin (o : Nat) : Bool := 0x80 ≤ o && o ≤ 0x85

/-- SHARD names the manifest or the schedule record (R218). -/
def shardManifest : Nat := 0xFFFFFFFE
def shardRecord : Nat := 0xFFFFFFFD
def Ctx.reservedId (c : Ctx) : Bool := c.shard == shardManifest || c.shard == shardRecord

/-- Served in a halt; a reserved opcode waits for nothing. -/
def Ctx.haltOk (c : Ctx) : Bool :=
  match c.opc with
  | 1 => c.reservedId
  | 2 => bitAt (c.csp 48) 0
  | 4 | 6 => false
  | _ => true

/-- Served in Hummock mode. -/
def Ctx.hummockOk (c : Ctx) : Bool :=
  match c.opc with
  | 1 => c.tier == 3
  | 0x80 | 0x81 | 0x84 | 0x85 => true
  | _ => false

/-- Tiers that an opcode accepts. -/
def opcTiers (o : Nat) : List Nat :=
  match o with
  | 1 => [0, 1, 2, 3] | 2 => [0, 3] | 3 => [3] | 4 => [1, 2, 3] | 6 => [2, 3] | 0x11 => [3, 4] | _ => [0]

/-- Bytes that an opcode does not use: first byte, bytes. -/
def opcUnused (o : Nat) : List (Nat × Nat) :=
  let cut := [(4, 4), (8, 8), (16, 1)]
  let buf := [(24, 8), (32, 8), (40, 8)]
  match o with
  | 1 => [(48, 16)]
  | 2 => [(49, 15)]
  | 3 => cut ++ buf ++ [(48, 16)]
  | 4 => buf ++ [(49, 15)]
  | 5 => cut ++ [(32, 8), (50, 6)]
  | 6 => cut ++ buf ++ [(51, 13)]
  | 7 => cut ++ buf ++ [(49, 15)]
  | 0x10 => [(4, 4)] ++ buf ++ [(49, 15)]
  | 0x11 => [(4, 4), (32, 8), (49, 15)]
  | 0x80 => cut ++ [(32, 8), (40, 8), (49, 15)]
  | 0x81 => cut ++ [(49, 15)]
  | 0x82 => cut ++ buf ++ [(49, 15)]
  | 0x83 => cut ++ buf ++ [(49, 7)]
  | 0x84 => cut ++ [(48, 16)]
  | 0x85 => cut ++ buf ++ [(50, 14)]
  | _ => []

/-- Parameters of an opcode that are reserved values. -/
def Ctx.cspBad (c : Ctx) : Bool :=
  let one := 2 ≤ c.csp 48
  match c.opc with
  | 2 | 7 | 0x11 => one
  | 4 => one || (bitAt (c.csp 48) 0 && c.shard != 0)
  | 5 => 4 ≤ c.csp 48 || 16 ≤ c.csp 49
  | 6 => 280 < fieldLE c.entry 48 2 || 2 ≤ c.csp 50
  | 0x10 => one
  | 0x80 => 3 ≤ c.csp 48
  | 0x81 => c.csp 48 == 0 || 9 ≤ c.csp 48
  | 0x82 | 0x83 => c.csp 48 == 0 || 6 ≤ c.csp 48
  | 0x85 => one || 3 ≤ c.csp 49
  | _ => false

/-- The common fields of an entry are not reserved, and what the opcode does not use is 0. -/
def Ctx.fieldsOk (c : Ctx) (targetFree : Bool) : Bool :=
  let z (i n : Nat) : Bool := fieldLE c.entry i n == 0
  fieldLE c.entry 1 1 < 2 && fieldLE c.entry 17 1 < 8 && bits c.signal 12 4 == 0 && bits c.signal 10 2 != 3 &&
  !(bits c.signal 10 2 == 2 && 512 ≤ bits c.signal 0 10) && z 38 2 && z 46 2 && (targetFree || c.target == 0) &&
  (opcTiers c.opc).contains c.tier && (opcUnused c.opc).all (fun x => z x.1 x.2) && !c.cspBad

/-- The status that ends a command before it does anything; none: it may go on. -/
def State.ctxBad (s : State) (c : Ctx) (targetFree : Bool) : Option Status :=
  if !opcKnown c.opc then some St.invalidOpcode
  else if s.boot.phase == .hummock && !c.hummockOk then some St.hummockMode
  else if opcAdmin c.opc && !s.rdB (Fld.cmdQCfg.admin c.q) then some St.adminOnly
  else if !c.fieldsOk targetFree then some St.invalidField
  else none

/-! ## Range locks (R308) -/

/-- Byte range rounded outward to the pages of its tier. -/
def lockRange (tier off len : Nat) : Nat × Nat :=
  let u := if tier = 3 then extentBytes else 4096
  (off / u * u, (off + len + u - 1) / u * u)

/-- Shards of the cut that a command names, at its tier: the directory's, or those of the generation's manifest. -/
def State.shardsOf (s : State) (c : Ctx) : List Nat :=
  if c.tier = 3 then
    match (s.entryOf c.step c.gen).map s.entryMan with
    | some (.ok b) => (Man.ofBytes b).regions.map (fun x => x.region.shard.toNat)
    | _ => []
  else s.cut.dir.map (fun x => x.shard.toNat)

/-- The locks that a command takes at its start. -/
def State.ctxLocks (s : State) (k : Nat) (c : Ctx) : List Lock :=
  let r := lockRange c.tier c.off c.len
  let mk (shard lo hi : Nat) (excl : Bool) : Lock :=
    { ctx := k, shard := BitVec.ofNat 32 shard, tier := BitVec.ofNat 3 c.tier, step := c.step, gen := c.gen, lo := lo, hi := hi, excl := excl }
  match c.opc with
  | 1 => [mk c.shard r.1 r.2 false]
  | 2 => [mk c.shard r.1 r.2 true]
  | 4 => if bitAt (c.csp 48) 0 then (s.shardsOf c).map (fun n => mk n 0 (2 ^ 48) false) else [mk c.shard 0 (2 ^ 48) false]
  | _ => []

/-- Two locks conflict. -/
def Lock.hits (a b : Lock) : Bool :=
  (a.excl || b.excl) && a.shard == b.shard && a.tier == b.tier && (a.tier == 0 || (a.step == b.step && a.gen == b.gen)) && a.lo < b.hi &&
  b.lo < a.hi

/-- The locks can be taken now, all of them, and nobody who has waited longer is passed by a command that waits. -/
def State.locksFree (s : State) (q : Nat) (ls : List Lock) : Bool :=
  let first := match (s.queue q).lockWait with
    | some n => (List.range 8).all (fun p => match (s.queue p).lockWait with | some m => n ≤ m | none => true)
    | none => true
  ls.isEmpty || (first && s.cmd.locks.length + ls.length ≤ 4096 && ls.all (fun a => s.cmd.locks.all (fun b => !a.hits b)))

/-! ## Starting commands (R296, R297) -/

/-- The entry of a submitted command. -/
def State.entryAt (s : State) (q : Nat) : Sub → List Byte
  | .ring => s.load (s.sqBase q + 64 * (s.queue q).sqHead) 64
  | .push k => (List.range 8).flatMap (fun i => leBytes 8 ((kget (s.queue q).push (k * 8 + i)).getD 0).toNat)
  | .relay _ _ _ _ _ e => e

/-- The lowest-numbered free context. -/
def State.freeContext (s : State) : Option Nat := (List.range 128).find? (fun k => (s.ctx? k).isNone)

/-- The context that the front of a pair would get. -/
def State.newCtx (s : State) (q : Nat) (u : Sub) : Ctx :=
  let h := (s.queue q).sqHead
  { q := q, sqHead := if u.isRing then (h + 1) % s.sqSize q else h, pushed := u.isPush
    relay := match u with | .relay r p t g n _ => some { rack := r, pos := p, tag := t, gen := g, seq := n } | _ => none
    entry := s.entryAt q u, order := s.cmd.order }

/-- Commands that name Peat wait while it comes up (R351). -/
def Ctx.namesPeat (c : Ctx) : Bool := c.tier == 3 && opcKnown c.opc && (opcTiers c.opc).contains 3

/-- The context of a command for every rank whose share on this engine is `c` (R292). -/
def State.parentOf (s : State) (c : Ctx) : Option Nat :=
  match c.relay with
  | some f => if s.isMe f.rack f.pos then (s.cmd.relays.find? (fun r => r.seq == f.seq && s.isMe r.rack r.pos)).map (fun r => r.ctx) else none
  | none => none

/-- Orders that a FENCE or a FLUSH waits for, as they stand at its start (R312, R316). -/
def State.ctxWaits (s : State) (c : Ctx) : List Nat :=
  let live := s.cmd.ctxs.filter (fun x => !x.2.abandoned && some x.1 != s.parentOf c)
  match c.opc with
  | 7 => (live.filter (fun x => bitAt (c.csp 48) 0 || x.2.q == c.q)).map (fun x => x.2.order)
  | 3 => ((s.peat.staged ++ s.peat.taking.map (fun t => t.1)).map (fun r => r.order)).filter (fun o => !live.any (fun x => x.2.order == o))
  | _ => []

/-- Move the front of a pair into a context. -/
def State.latch (s : State) (q k : Nat) (c : Ctx) (rest : List Sub) : State :=
  let c := { c with waits := s.ctxWaits c }
  let s := s.putQueue q { s.queue q with subs := rest, sqHead := c.sqHead, lockWait := none }
  (s.onCmd (fun m => { m with order := m.order + 1 })).putCtx k c

/-- The front of a pair cannot start yet, whatever it needs. -/
def State.heldBack (s : State) (q : Nat) (c : Ctx) : Bool :=
  let mine := (s.ctxsOf q).filter (fun x => some x.1 != s.parentOf c)
  mine.any (fun x => x.2.ordered || x.2.opc == 7) || (c.ordered && !mine.isEmpty) || (s.halted && !c.haltOk) ||
  (c.namesPeat && s.peat.st == .init)

/-! ## Completing commands (R298 to R300) -/

/-- RESULT0 and RESULT1 that the manual defines for a command and status. -/
def Ctx.results (c : Ctx) : Bool × Bool :=
  let ok := c.status == St.success
  match c.opc with
  | 1 => (true, c.status == St.crcMismatch)
  | 4 => (true, false)
  | 5 => (ok, ok)
  | 6 => (true, true)
  | 0x10 => if c.csp 48 = 0 then (ok, ok) else (c.status == St.stateConflict, false)
  | 0x82 => (ok, ok)
  | _ => (false, false)

/-- A free 32-bit value in place of a result that the manual does not define. -/
def State.resultOr (s : State) (defined : Bool) (v : BitVec 32) : BitVec 32 × State :=
  if defined then (v, s) else let (n, s) := s.pickFree (2 ^ 32); (BitVec.ofNat 32 n, s)

/-- The 16-byte completion entry (R306). -/
def completionBytes (c : Ctx) (r0 r1 : BitVec 32) (phase : Bool) : List Byte :=
  leBytes 4 r0.toNat ++ leBytes 2 c.sqHead ++ leBytes 1 (c.q + 8 * b2n c.pushed) ++ leBytes 1 (b2n phase) ++
    (c.entry.drop 2).take 2 ++ leBytes 2 c.status.toNat ++ leBytes 4 r1.toNat

/-- A notification of the entries written since the last one (R299). -/
def State.cqNotify (s : State) (q : Nat) : State :=
  let x := s.queue q
  let s := s.putQueue q { x with batch := 0 }
  let s := if s.rdB (Fld.cmdQCfg.irqEn q) then s.irq (s.rd (Fld.cmdQCfg.irqVec q)) else s
  let obj := s.rd (Fld.cmdQCoalesce.notifyObj q)
  match s.rd (Fld.cmdQCoalesce.notifyKind q) with
  | 1 => (s.setFlag obj (.command q)).1
  | 2 => (s.produce obj x.batch (.command q)).1
  | _ => s

/-- The SIGNAL of a command (R300). -/
def State.ctxSignal (s : State) (c : Ctx) : State :=
  let obj := bits c.signal 0 10
  match bits c.signal 10 2 with
  | 1 => (s.setFlag obj (.command c.q)).1
  | 2 => (s.produce obj 1 (.command c.q)).1
  | _ => s

/-- The context is free, and its locks are released. -/
def State.ctxFree (s : State) (k : Nat) : State :=
  s.onCmd (fun m => { m with ctxs := kdel m.ctxs k, locks := m.locks.filter (fun l => l.ctx != k) })

/-- Write the completion entry of a command into its CQ, which has room. -/
def State.cqPost (s : State) (k : Nat) (c : Ctx) (r0 r1 : BitVec 32) : State :=
  let q := c.q
  let x := s.queue q
  let n := s.cqSize q
  let s := s.store' (s.cqBase q + 16 * x.cqTail) (completionBytes c r0 r1 x.phase)
  let t := (x.cqTail + 1) % n
  let s := s.putQueue q
    { x with cqTail := t, phase := if t = 0 then !x.phase else x.phase, batch := x.batch + 1, batchTick := if x.batch = 0 then s.now else x.batchTick }
  let s := s.bump Fld.cmdCounts.commands
  let s := if c.status = St.success then s else s.bump Fld.cmdCounts.errors
  let s := (s.ctxFree k).ctxSignal c
  let s := if s.rd (Fld.cmdQCoalesce.count q) ≤ x.batch + 1 then s.cqNotify q else s
  s.queueIdle q

/-- The CQ has no room. -/
def State.cqFull (s : State) (q : Nat) : Bool := let x := s.queue q; (x.cqTail + 1) % s.cqSize q == x.cqHead

/-- NOTIFY_TIMER_EXPIRY: TIME_US has passed since the first entry not yet notified. -/
def execNotifyTimerExpiry (q : Fin 8) (s : State) : Out :=
  let x := s.queue q
  let t := s.rd (Fld.cmdQCoalesce.timeUs q)
  if !s.powered || x.batch = 0 || t = 0 || !s.elapsed x.batchTick (usTicks t) then .next s else .next (s.cqNotify q)

end Sys2Proof.Machine
end

