-- ==== Sys2Proof/Machine/Relay.lean ====
section
/-! DEFINITION. The relay of commands by a rack's Warden (R292), and with it COMMAND_START and COMMAND_COMPLETE, which send its frames. -/
namespace Sys2Proof.Machine

/-- TARGET values. -/
def targetSelf : Nat := 0xFFFFFFFF
def targetAll : Nat := 0xFFFFFFFE

/-- Bytes of the relay staging area, and its address: the end of the data window. -/
def stagingBytes : Nat := 0x1000000
def State.stagingAt (s : State) : Nat := let (b, n) := s.window; b + n - stagingBytes

/-- A ring or push entry of the relay queue pair: its TARGET means something. -/
def State.onRelayPair (s : State) (q : Nat) (u : Sub) : Bool :=
  q == s.rd Fld.cmdCtrl.relayQp && (match u with | .relay _ _ _ _ _ _ => false | _ => true)

/-- A command for another rank, or for every rank. -/
def State.relayedOut (s : State) (q : Nat) (u : Sub) (c : Ctx) : Bool :=
  s.onRelayPair q u && c.target != targetSelf && c.target != s.myRank

/-- READ SHARD and WRITE SHARD. -/
def Ctx.moves (c : Ctx) : Bool := c.opc == 1 || c.opc == 2

/-- Opcodes whose ADDR names a buffer of at most 4,096 bytes that a relay returns. -/
def Ctx.returns (c : Ctx) : Bool := c.opc == 0x80 || c.opc == 0x81

/-- What stops a relay before any frame is sent. -/
def State.relayBad (s : State) (c : Ctx) : Option Status :=
  if !s.isWarden then some St.notWarden
  else if c.opc == 5 || c.opc == 0x84 then some St.invalidField
  else if c.moves && (c.target == targetAll || 0x1000000 < c.len) then some St.invalidField
  else if c.opc == 0x81 && 4096 < c.len then some St.invalidField
  else if c.moves && !s.inWindow c.addr c.len then some St.outOfWindow
  else if c.returns && !s.inWindow c.addr (if c.opc == 0x80 then 4096 else c.len) then some St.outOfWindow
  else if !s.rdB Fld.cmdCtrl.relayEn then some St.relayFailed
  else none

/-- Members of the rack that may hold a rank, this engine left out. -/
def State.rankMembers (s : State) : List Member :=
  s.warden.members.filter (fun m => m.rack == s.myRack && m.cls != .failed && !m.standby && !s.isMe m.rack m.pos)

/-- The command as it is relayed: TARGET 0. -/
def relayEntry (e : List Byte) : List Byte := e.take 20 ++ zeros 4 ++ e.drop 24

/-- Send one command relay, a WRITE SHARD's data first. -/
def State.relayTo (s : State) (k : Nat) (c : Ctx) (all : Bool) (rack : BitVec 10) (pos : BitVec 7) (rank : BitVec 32) : State :=
  let ((tag, gen), s) := s.allocTag
  let seq := s.cmd.relaySeq
  let head : Frame := { tag := BitVec.ofNat 20 tag, gen := gen, seq := seq }
  let data (s : State) : State :=
    if c.opc != 2 then s
    else
      let ps := piecesOf 2048 (c.len / 2048 + 1) (s.load c.addr c.len)
      (List.range ps.length).foldl (fun s i =>
        let p := ps.getD i []
        s.sendTo rack pos Ty.relayData
          { head with offset := BitVec.ofNat 48 (2048 * i), count := BitVec.ofNat 16 ((p.length + 3) / 4), payload := p }) s
  let s := (data s).sendTo rack pos Ty.commandRelay (ctlFrame head (relayEntry c.entry))
  let r : Relay :=
    { seq := seq, tag := tag, gen := gen, rack := rack, pos := pos, rank := rank, ctx := k, all := all, tick := s.now, len := c.len
      arrival := s.now }
  s.onCmd (fun m => { m with relays := m.relays ++ [r], relaySeq := m.relaySeq + 1 })

/-- This engine's share of a command for every rank: it runs here, ahead of what waits on the pair. The command itself bears the SIGNAL. -/
def State.relayOwn (s : State) (k : Nat) (c : Ctx) : State :=
  let ((tag, gen), s) := s.allocTag
  let seq := s.cmd.relaySeq
  let tag' := BitVec.ofNat 20 tag
  let r : Relay :=
    { seq := seq, tag := tag, gen := gen, rack := s.myRack, pos := s.myPos, rank := BitVec.ofNat 32 s.myRank, ctx := k, all := true, tick := s.now
      arrival := s.now }
  let e := relayEntry (c.entry.take 18 ++ zeros 2 ++ c.entry.drop 20)
  let s := s.onCmd (fun m => { m with relays := m.relays ++ [r], relaySeq := m.relaySeq + 1 })
  let x := s.queue c.q
  s.putQueue c.q { x with subs := .relay s.myRack s.myPos tag' gen seq e :: x.subs }

/-- Forward a command. The rank of each member stands in the rack plan, whose layout the manual does not give: whether a TARGET is a rank of the
rack, where it sits, and the ranks of the members are free (assumption 31). -/
def State.relayOut (s : State) (k : Nat) (c : Ctx) : State :=
  let ms := s.rankMembers
  if c.target == targetAll then
    let s := s.relayOwn k c
    ms.foldl (fun s m =>
      let (r, s) := s.pickFree (2 ^ 32)
      s.relayTo k c true m.rack m.pos (BitVec.ofNat 32 r)) s
  else
    let (known, s) := s.pickBool
    let (i, s) := s.pickFree (max 1 ms.length)
    match known, ms[i]? with
    | true, some m => s.relayTo k c false m.rack m.pos (BitVec.ofNat 32 c.target)
    | _, _ => (s.raise Fld.cmdErrStatus.relayFailed).ctxEnd k St.relayFailed 0 0

/-- Try to start the front of a pair: the state after the start, or the state with its wait noted. -/
def State.tryStart (s : State) (q : Nat) : State × Bool :=
  let x := s.queue q
  match x.st, x.subs, s.freeContext with
  | .active, u :: rest, some k =>
    let c := s.newCtx q u
    if !s.rdB (Fld.cmdQCfg.enable q) || s.heldBack q c then (s, false)
    else match s.ctxBad c (s.onRelayPair q u) with
      | some st => ((s.latch q k c rest).ctxEnd k st 0 0, true)
      | none =>
        if s.relayedOut q u c then
          match s.relayBad c with
          | some st =>
            let s := if st = St.relayFailed then s.raise Fld.cmdErrStatus.relayFailed else s
            ((s.latch q k c rest).ctxEnd k st 0 0, true)
          | none => if s.red.tags.freeCount < s.rankMembers.length + 1 then (s, false) else ((s.latch q k c rest).relayOut k c, true)
        else
          let ls := s.ctxLocks k c
          if s.locksFree q ls then ((s.latch q k c rest).onCmd (fun m => { m with locks := m.locks ++ ls }), true)
          else if x.lockWait.isSome then (s, false)
          else
            let s := s.putQueue q { x with lockWait := some s.cmd.lockSeq }
            ((s.onCmd (fun m => { m with lockSeq := m.lockSeq + 1 })).bump Fld.cmdCounts.lockWaits, false)
  | _, _, _ => (s, false)

/-- The lowest-numbered pair that has a command ready starts it. -/
def State.startScan : List Nat → State → State
  | [], s => s
  | q :: t, s => match s.tryStart q with
    | (s, true) => s
    | (s, false) => State.startScan t s

/-- COMMAND_START. -/
def execCommandStart (s : State) : Out :=
  if !s.served || !s.rdB Fld.cmdCtrl.enable then .next s else .next (s.startScan (List.range 8))

/-! ## The target's side -/

/-- The command as a target runs it: ADDR points to its staging area where the opcode uses it. -/
def State.stagedEntry (s : State) (e : List Byte) : List Byte :=
  let o := fieldLE e 0 1
  if o == 1 || o == 2 || o == 0x80 || o == 0x81 || (o == 0x11 && bitAt (fieldLE e 48 1) 0) then e.take 24 ++ leBytes 8 s.stagingAt ++ e.drop 32 else e

/-- Answer a relayed command with a completion and data. -/
def State.relayAnswer (s : State) (r : RelayFrom) (entry data : List Byte) : State :=
  s.sendTo r.rack r.pos Ty.completionRelay (ctlFrame { tag := r.tag, gen := r.gen, seq := r.seq } (entry ++ data))

/-- A completion entry for a relayed command that never started. -/
def State.relayStatus (s : State) (r : RelayFrom) (entry : List Byte) (st : Status) : State :=
  let q := s.rd Fld.cmdCtrl.relayQp
  let c : Ctx := { q := q, sqHead := (s.queue q).sqHead, pushed := false, entry := entry, order := 0, status := st }
  let (r0, s) := s.resultOr false 0
  let (r1, s) := s.resultOr false 0
  s.relayAnswer r (completionBytes c r0 r1 (s.queue q).phase) []

/-- Place a relayed command on the relay queue pair; a pair that is not served takes none. -/
def State.relaySubmit (s : State) (r : RelayFrom) (entry : List Byte) : State :=
  let q := s.rd Fld.cmdCtrl.relayQp
  let x := s.queue q
  if x.st != .active || !s.rdB (Fld.cmdQCfg.enable q) then s
  else s.putQueue q { x with subs := x.subs ++ [.relay r.rack r.pos r.tag r.gen r.seq (s.stagedEntry entry)] }

def Staged.isOf (f : Frame) (x : Staged) : Bool :=
  x.rack == f.srcRack && x.pos == f.srcPos && x.tag == f.tag && x.gen == f.gen && x.seq == f.seq
def Staged.from' (x : Staged) : RelayFrom := { rack := x.rack, pos := x.pos, tag := x.tag, gen := x.gen, seq := x.seq }

/-- Judge staged data against the command's LENGTH (R271): complete, long, or still short. -/
def State.stagedTry (s : State) (x : Staged) : State :=
  let len := fieldLE x.entry 40 6
  let gone (s : State) : State := s.onCmd (fun m => { m with staged := m.staged.filter (fun y => y != x) })
  if x.entry.isEmpty then s
  else if x.long || len < x.got then (gone s).relayStatus x.from' x.entry St.lengthLong
  else if x.got = len then (gone s).relaySubmit x.from' x.entry
  else s

/-- COMMAND_RELAY: a WRITE SHARD waits for its data, any other command is placed at once. -/
def execCommandRelay (n : Fin 42) (f : Frame) (s : State) : Out :=
  .next (s.recv n Ty.commandRelay f fun s =>
    if !s.rdB Fld.cmdCtrl.relayEn || f.payload.length ≠ 64 || f.count ≠ 64 || !s.served then s.staleAt n
    else
      let r : RelayFrom := { rack := f.srcRack, pos := f.srcPos, tag := f.tag, gen := f.gen, seq := f.seq }
      if fieldLE f.payload 0 1 ≠ 2 then s.relaySubmit r f.payload
      else
        let x : Staged := (s.cmd.staged.find? (Staged.isOf f)).getD
          { rack := f.srcRack, pos := f.srcPos, tag := f.tag, gen := f.gen, seq := f.seq, arrival := s.now }
        let x := { x with entry := f.payload }
        let s := s.onCmd (fun m => { m with staged := x :: m.staged.filter (fun y => !y.isOf f) })
        s.stagedTry x)

/-! ## The Warden's side -/

/-- Replace a relay. -/
def State.putRelay (s : State) (r : Relay) : State :=
  s.onCmd (fun m => { m with relays := m.relays.map (fun x => if x.seq == r.seq then r else x) })

/-- STATUS of a completion. -/
def compStatus (b : List Byte) : Status := BitVec.ofNat 16 (fieldLE b 10 2)

/-- Insert a relay by rising rank. -/
def insertRelay (r : Relay) : List Relay → List Relay
  | [] => [r]
  | x :: t => if r.rank.toNat < x.rank.toNat then r :: x :: t else x :: insertRelay r t

/-- The command that a relay belongs to ends, once every answer it needs is there. An answer repeats the target's results; without one only the
4 KiB units landed of a READ SHARD are known, of which a partly filled one counts or not. -/
def State.relayDone (s : State) (k : Nat) : State :=
  let rs := s.cmd.relays.filter (fun r => r.ctx == k)
  if rs.any (fun r => r.result.isNone) then s
  else
    let s := (s.releaseTags (rs.map (fun r => r.tag))).onCmd (fun m => { m with relays := m.relays.filter (fun r => r.ctx != k) })
    let give (s : State) (g : Bool × Bool) : State := match s.ctx? k with | some c => s.putCtx k { c with given := g } | none => s
    let order := rs.foldl (fun l r => insertRelay r l) []
    match rs with
    | [] => s
    | r :: _ =>
      let b := r.result.getD []
      if !r.all then
        if r.result == r.early then (give s (true, true)).ctxEnd k (compStatus b) (fieldLE b 0 4) (fieldLE b 12 4)
        else
          let (up, s) := if r.got % 4096 = 0 then (false, s) else s.pickBool
          s.ctxEnd k (compStatus b) (r.got / 4096 + b2n up) 0
      else
        let s := s.onCmd (fun m => { m with relayLog := (order.map (fun x => x.result.getD [])).take 64 })
        match order.find? (fun x => compStatus (x.result.getD []) != St.success) with
        | some x => (give s (false, true)).ctxEnd k (compStatus (x.result.getD [])) 0 x.rank.toNat
        | none => s.ctxEnd k St.success 0 0

/-- An answer with a status only. -/
def relayFail (s : State) (r : Relay) (st : Status) : State :=
  let cid := match s.ctx? r.ctx with | some c => (c.entry.drop 2).take 2 | none => zeros 2
  s.putRelay { r with result := some (zeros 8 ++ fitTo 2 cid ++ leBytes 2 st.toNat ++ zeros 4) }

/-- The data of a relayed READ SHARD against its LENGTH, once its completion is there (R271). -/
def State.relayJudge (s : State) (r : Relay) (b : List Byte) : State :=
  match s.ctx? r.ctx with
  | some c =>
    if c.opc != 1 || compStatus b != St.success || r.got = r.len then (s.putRelay { r with result := some b }).relayDone r.ctx
    else if r.len < r.got then (relayFail s r St.lengthLong).relayDone r.ctx
    else s
  | none => (s.putRelay { r with result := some b }).relayDone r.ctx

/-- COMPLETION_RELAY. -/
def execCompletionRelay (n : Fin 42) (f : Frame) (s : State) : Out :=
  .next (s.recv n Ty.completionRelay f fun s =>
    let hit (r : Relay) : Bool :=
      r.tag == f.tag.toNat && r.gen == f.gen && r.seq == f.seq && r.rack == f.srcRack && r.pos == f.srcPos && r.result.isNone
    match s.cmd.relays.find? hit with
    | none => s.staleAt n
    | some r =>
      if f.payload.length < 16 || 4112 < f.payload.length || f.count.toNat ≠ f.payload.length then s.staleAt n
      else
        let b := f.payload.take 16
        let data := f.payload.drop 16
        let s := match s.ctx? r.ctx with
          | some c => if c.returns && s.inWindow c.addr data.length then s.store' c.addr data else s
          | none => s
        let s := s.putRelay { r with early := some b, arrival := s.now }
        s.relayJudge { r with early := some b, arrival := s.now } b)

/-- RELAY_DATA: of a READ SHARD to its Warden, or of a WRITE SHARD to its target. -/
def execRelayData (n : Fin 42) (f : Frame) (s : State) : Out :=
  .next (s.recv n Ty.relayData f fun s =>
    let k := f.payload.length
    let off := f.offset.toNat
    let hit (r : Relay) : Bool :=
      r.tag == f.tag.toNat && r.gen == f.gen && r.seq == f.seq && r.rack == f.srcRack && r.pos == f.srcPos && r.result.isNone
    if !s.rdB Fld.cmdCtrl.relayEn || (k + 3) / 4 ≠ f.count.toNat || k = 0 then s.staleAt n
    else match s.cmd.relays.find? hit with
      | some r =>
        match s.ctx? r.ctx with
        | some c =>
          if c.opc != 1 then s.staleAt n
          else if r.len < off + k then (relayFail s r St.lengthLong).relayDone r.ctx
          else
            let r := { r with got := r.got + k, arrival := s.now }
            let s := (s.store' (c.addr + off) f.payload).putRelay r
            match r.early with
            | some b => s.relayJudge r b
            | none => s
        | none => s.staleAt n
      | none =>
        let x : Staged := (s.cmd.staged.find? (Staged.isOf f)).getD
          { rack := f.srcRack, pos := f.srcPos, tag := f.tag, gen := f.gen, seq := f.seq }
        let long := stagingBytes < off + k || s.rd Fld.cmdDataWinSize.size * 4096 < stagingBytes
        let x := { x with got := x.got + k, long := x.long || long, arrival := s.now }
        let s := if long then s else s.store' (s.stagingAt + off) f.payload
        let s := s.onCmd (fun m => { m with staged := x :: m.staged.filter (fun y => !y.isOf f) })
        s.stagedTry x)

/-- RELAY_TIMEOUT: a rank has not answered within 1 s. -/
def execRelayTimeout (seq : BitVec 32) (s : State) : Out :=
  match s.cmd.relays.find? (fun r => r.seq == seq && r.result.isNone) with
  | none => .next s
  | some r =>
    if r.early.isSome || !s.elapsed r.tick (msTicks 1000) then .next s
    else .next ((relayFail (s.raise Fld.cmdErrStatus.relayFailed) r St.relayFailed).relayDone r.ctx)

/-- RELAY_DATA_WATCHDOG: data still short when WD_US expires (R292), on the Warden for a READ SHARD, on a target for a WRITE SHARD. -/
def execRelayDataWatchdog (seq : BitVec 32) (race : Race) (s : State) : Out :=
  let wd := usTicks (s.rd Fld.synRemoteCfg.wdUs)
  let warden := s.cmd.relays.find? (fun r => r.seq == seq && r.result.isNone && r.early.isSome && r.got < r.len && s.elapsed r.arrival wd)
  let target := s.cmd.staged.find? (fun x => x.seq == seq && s.elapsed x.arrival wd)
  match warden, target with
  | some r, _ =>
    let s := s.logRace Unit'.cmd seq.toNat Wd.relay race
    if race = .arrivalWon then .next s else .next ((relayFail s r St.lengthShort).relayDone r.ctx)
  | none, some x =>
    let s := s.logRace Unit'.cmd seq.toNat Wd.relay race
    if race = .arrivalWon then .next s
    else
      let s := s.onCmd (fun m => { m with staged := m.staged.filter (fun y => y != x) })
      .next (if x.entry.isEmpty then s else s.relayStatus x.from' x.entry St.lengthShort)
  | none, none => .next s

/-! ## Completion -/

/-- This engine's own share of a command for every rank ends. -/
def State.relayOwnEnd (s : State) (k : Nat) (c : Ctx) (r : RelayFrom) (r0 r1 : BitVec 32) : State :=
  let b := completionBytes c r0 r1 (s.queue c.q).phase
  let own (x : Relay) : Bool := x.seq == r.seq && x.result.isNone && s.isMe x.rack x.pos
  match s.cmd.relays.find? own with
  | some x =>
    let x := { x with early := some b, arrival := s.now }
    ((s.ctxFree k).putRelay x).relayJudge x b
  | none => s.ctxFree k

/-- A relayed command ends: a READ SHARD's data, then the completion relay. -/
def State.relayPost (s : State) (k : Nat) (c : Ctx) (r : RelayFrom) (r0 r1 : BitVec 32) : State :=
  let head : Frame := { tag := r.tag, gen := r.gen, seq := r.seq }
  let ps := if c.opc == 1 then piecesOf 2048 (c.data.length / 2048 + 1) c.data else []
  let s := (List.range ps.length).foldl (fun s i =>
    let p := ps.getD i []
    s.sendTo r.rack r.pos Ty.relayData
      { head with offset := BitVec.ofNat 48 (2048 * i), count := BitVec.ofNat 16 ((p.length + 3) / 4), payload := p }) s
  let back := if c.status == St.success && c.returns then s.load c.addr (if c.opc == 0x80 then 4096 else c.len) else []
  ((s.relayAnswer r (completionBytes c r0 r1 (s.queue c.q).phase) back).ctxFree k).ctxSignal c

/-- COMMAND_COMPLETE: the completion entry of a command whose work has ended; with a full CQ the command keeps its context (R298), and while a
signal of its queue waits for room the queue holds (R262). -/
def execCommandComplete (k : Fin 128) (s : State) : Out :=
  match s.ctx? k with
  | none => .next s
  | some c =>
    if !c.finished || c.abandoned || (c.relay.isNone && s.cqFull c.q) || s.unitHolds (.command c.q) then .next s
    else
      let (r0, s) := s.resultOr (c.results.1 || c.given.1) c.r0
      let (r1, s) := s.resultOr (c.results.2 || c.given.2) c.r1
      match c.relay with
      | some r => .next ((if s.isMe r.rack r.pos then s.relayOwnEnd k c r r0 r1 else s.relayPost k c r r0 r1).queueIdle c.q)
      | none => .next (s.cqPost k c r0 r1)

end Sys2Proof.Machine
end

