-- ==== Sys2Proof/Machine/Shard.lean ====
section
/-! DEFINITION. The work of the state commands (R310 to R318): READ SHARD, WRITE SHARD, FLUSH, VERIFY, DIGEST, SCRUB, FENCE, CUT, RESTORE. -/
namespace Sys2Proof.Machine

/-! ## Shared by the commands -/

/-- The command of a context, when it is of an opcode and its work is this engine's and still to be done. -/
def State.running (s : State) (k opc : Nat) : Option Ctx :=
  match s.ctx? k with
  | some c => if c.finished || c.abandoned || c.opc != opc || s.cmd.relays.any (fun r => r.ctx == k) then none else some c
  | none => none

/-- A shard as a command sees it: its length, and its bytes from an offset on. -/
structure Shard where
  total : Nat
  bytes : Nat → Nat → List Byte

/-- LENGTH keeps the rules of R310 for a shard of a length, pages of `unit` bytes; else the status. -/
def spanBad (unit total off len : Nat) : Option Status :=
  if (len = 0 || len % unit ≠ 0) && off + len ≠ total then some St.invalidField
  else if total < off + len then some St.lengthLong
  else none

/-- Region of the directory with a Shard ID. -/
def State.regionById (s : State) (shard : Nat) : Option Region := s.cut.dir.find? (fun r => r.shard.toNat == shard)

/-- The HELD or PINNED half that holds a cut (R310). -/
def State.heldCut (s : State) (step : W64) (gen : BitVec 8) : Option (Cut × Bool) :=
  match s.cutOf step gen with
  | some c =>
    match c.half with
    | some h =>
      let newest := (s.cut.cuts.find? (fun d => d.half == some h && !d.refused)).map (fun d => d.seq) == some c.seq
      if newest && (s.half h == .held || s.half h == .pinned) then some (c, h) else none
    | none => none
  | none => none

/-- Bytes delivered go to ADDR, and to the Warden of a relayed command; a partly filled last unit counts or not, which the manual leaves open. -/
def State.readDone (s : State) (k : Nat) (c : Ctx) (bs : List Byte) (st : Status) (r1 : Nat) : State :=
  let s := s.store' c.addr bs
  let s := if c.relay.isSome then s.putCtx k { c with data := bs } else s
  let (up, s) := if bs.length % 4096 = 0 then (false, s) else s.pickBool
  s.ctxEnd k st (bs.length / 4096 + b2n up) r1

/-! ## READ SHARD (R310) -/

/-- Deliver a range of a shard. -/
def State.readFrom (s : State) (k : Nat) (c : Ctx) (x : Except Status Shard) : State :=
  match x with
  | .error st => s.ctxEnd k st 0 0
  | .ok sh =>
    match spanBad 4096 sh.total c.off c.len with
    | some st => s.ctxEnd k st 0 0
    | none => s.readDone k c (sh.bytes c.off c.len) St.success 0

/-- Live state, or a record of the record ring. -/
def State.liveShard (s : State) (c : Ctx) : Except Status Shard :=
  if c.shard = shardRecord then
    let a := s.rdAddr Fld.tierRecBase.base + c.step.toNat % 4 * 16384
    if c.gen != 0 then .error St.invalidField
    else if s.loadN a 8 ≠ c.step.toNat then .error St.tierUnavailable
    else .ok { total := 16384, bytes := fun o n => s.load (a + o) n }
  else if c.step != 0 || c.gen != 0 then .error St.invalidField
  else match s.regionById c.shard with
    | none => .error St.shardUnknown
    | some r => .ok { total := r.len, bytes := fun o n => s.load (r.live + o) n }

/-- The half that holds the cut. -/
def State.battShard (s : State) (c : Ctx) : Except Status Shard :=
  match s.heldCut c.step c.gen with
  | none => .error St.tierUnavailable
  | some (_, h) =>
    match s.regionById c.shard with
    | none => .error St.shardUnknown
    | some r => .ok { total := r.len, bytes := fun o n => s.image (some h) r o n }

/-- Set offset and length of a shard in the own Sedge set. -/
def State.sedgeAt (s : State) (shard : Nat) : Option (Nat × Nat) :=
  if shard = shardRecord then some s.recWant
  else if shard = shardManifest then some (s.manWant.getD 0 (0, 0))
  else (s.regionById shard).map (fun r => (s.regionAt r, r.len))

/-- The partner, as an engine to be asked. -/
def State.partnerAt (s : State) : BitVec 10 × BitVec 7 :=
  (BitVec.ofNat 10 (s.rd Fld.tierPartner.rack), BitVec.ofNat 7 (s.rd Fld.tierPartner.position))

/-- Ask an engine for set-offset ranges of a cut, with refill requests (R226). -/
def State.fetchFrom (s : State) (k : Nat) (c : Ctx) (at' : BitVec 10 × BitVec 7) (step : W64) (gen : BitVec 8) (want : List (Nat × Nat)) : State :=
  let f (w : Nat × Nat) : Frame := s.rstFrame 0 step.toNat (leBytes 8 w.1 ++ leBytes 8 w.2)
  let s := want.foldl (fun s w => s.sendTo at'.1 at'.2 Ty.refillRequest (f w)) s
  s.putCtx k { c with want := want, asked := true, area := [], arrival := s.now, fetch := some (at'.1, at'.2, step, gen) }

/-- READ SHARD at Sedge: ask the host; deliver once everything has landed. -/
def State.readSedge (s : State) (k : Nat) (c : Ctx) : State :=
  if !s.ownSet c.step c.gen || !s.hostAlive then s.ctxEnd k St.tierUnavailable 0 0
  else match s.sedgeAt c.shard with
    | none => s.ctxEnd k St.shardUnknown 0 0
    | some (a, n) =>
      match spanBad 4096 n c.off c.len with
      | some st => s.ctxEnd k st 0 0
      | none =>
        if !c.asked && c.len != 0 then s.fetchFrom k c s.partnerAt c.step c.gen [(a + c.off, c.len)]
        else if c.want.isEmpty then s.readDone k c (Memory.bytesAt c.area (a + c.off) c.len) St.success 0
        else s

/-- Plaintext of extents up to the first that fails its CRC-64, with that one's place in the list. -/
def State.goodExts (s : State) (key : Option (List Byte)) : List ManExtent → Nat → List Byte × Option Nat
  | [], _ => ([], none)
  | e :: t, i =>
    let b := s.extLoad key e
    if crc64 b == e.crc then
      let r := s.goodExts key t (i + 1)
      (b ++ r.1, r.2)
    else ([], some i)

/-- Deliver what a read at Peat has found good; a failing extent becomes BAD, and is named in RESULT1. -/
def State.readGood (s : State) (k : Nat) (c : Ctx) (peatGen : Nat) (shard : W32) (b : List Byte) (bad : Option Nat) : State :=
  match bad with
  | none => s.readDone k c b St.success 0
  | some i => (s.mapBad (mapPeat peatGen) shard i).readDone k c b St.crcMismatch i

/-- READ SHARD of a region at Peat: whole extents, decrypted and checked; what precedes a failing one is delivered. -/
def State.readPeatRegion (s : State) (k : Nat) (c : Ctx) (e : CatEntry) (key : Option (List Byte)) (m : Man) (x : ManRegion) : State :=
  match spanBad 4096 x.region.len c.off c.len with
  | some st => s.ctxEnd k st 0 0
  | none =>
    let lo := c.off / extentBytes
    let hi := (c.off + c.len + extentBytes - 1) / extentBytes
    let r := s.goodExts key ((((m.exts.drop x.first).take x.count).drop lo).take (hi - lo)) lo
    let b := (r.1.drop (c.off - lo * extentBytes)).take c.len
    s.readGood k c e.peatGen x.region.shard b r.2

/-- No loaded slot has the key that a command needs (R210). -/
def State.keyMissing (s : State) (k : Nat) : State := (s.peatErr St.keyAbsent).ctxEnd k St.keyAbsent 0 0

/-- READ SHARD at Peat. The schedule record is inside the manifest as well, which is read whole (R215, R218). -/
def State.readPeat (s : State) (k : Nat) (c : Ctx) : State :=
  match s.peatReadStop with
  | some st => s.ctxEnd k st 0 0
  | none =>
    match s.entryOf c.step c.gen with
    | none => s.ctxEnd k St.tierUnavailable 0 0
    | some e =>
      match s.entryKey e, s.entryMan e with
      | some key, .ok b =>
        let m := Man.ofBytes b
        let n := up4k (manRecords b)
        if c.shard = shardManifest then s.readFrom k c (.ok { total := b.length, bytes := fun o l => (b.drop o).take l })
        else if c.shard = shardRecord then s.readFrom k c (.ok { total := 16384, bytes := fun o l => (b.drop (n + o)).take l })
        else match m.regions.find? (fun x => x.region.shard.toNat == c.shard) with
          | none => s.ctxEnd k St.shardUnknown 0 0
          | some x => s.readPeatRegion k c e key m x
      | none, _ => s.keyMissing k
      | _, .error st => s.ctxEnd k st 0 0

/-- READ_SHARD. A read at Peat needs a scan context of engine 3 (R330). -/
def execReadShard (k : Fin 128) (s : State) : Out :=
  match s.running k 1 with
  | none => .next s
  | some c =>
    if c.off % 4096 ≠ 0 then .next (s.ctxEnd k St.invalidField 0 0)
    else if !s.inWindow c.addr c.len then .next (s.ctxEnd k St.outOfWindow 0 0)
    else match c.tier with
      | 0 => .next (s.readFrom k c (s.liveShard c))
      | 1 => .next (s.readFrom k c (s.battShard c))
      | 2 => .next (s.readSedge k c)
      | _ => if (s.freeCtx [3]).isNone then .next s else .next (s.readPeat k c)

/-! ## WRITE SHARD (R311) -/

/-- Restore input from Mire is taken now: a refill from Mire, or an elastic one that a Mire image still has a part in. -/
def State.mireRefill (s : State) : Bool :=
  let mire (u : Supply) : Bool := u.prov == some (.mire, 0)
  s.rst.st == .refill && (mire s.rst.recIn || mire s.rst.manIn || mire s.rst.dataIn || (s.rst.elastic && !s.rst.want.isEmpty))

/-- WRITE SHARD with RESTORE: the places of R238. -/
def State.writeRestore (s : State) (k : Nat) (c : Ctx) : State :=
  if !s.mireRefill then s.ctxEnd k St.stateConflict 0 0
  else if c.step != s.rst.cutStep || c.gen != s.rst.cutGen then (s.raise Fld.tierRstErrStatus.mixedStep).ctxEnd k St.mixedStep 0 0
  else match s.sedgeAt c.shard with
    | none => s.ctxEnd k St.shardUnknown 0 0
    | some (a, n) =>
      match spanBad 4096 (up4k n) c.off c.len with
      | some st => s.ctxEnd k st 0 0
      | none =>
        let s := s.landAt (a + c.off) (s.load c.addr c.len)
        (s.onRst (fun r => { r.landed (a + c.off) c.len with liveClean := false, arrival := s.now })).ctxEnd k St.success 0 0

/-- WRITE SHARD to live state. -/
def State.writeLive (s : State) (k : Nat) (c : Ctx) : State :=
  if c.step != 0 || c.gen != 0 then s.ctxEnd k St.invalidField 0 0
  else match s.regionById c.shard with
    | none => s.ctxEnd k St.shardUnknown 0 0
    | some r =>
      match spanBad 4096 r.len c.off c.len with
      | some st => s.ctxEnd k st 0 0
      | none =>
        ((s.store' (r.live + c.off) (s.load c.addr c.len)).onRst (fun r => { r with liveClean := false })).ctxEnd k St.success 0 0

/-- Write extents to half-units of the drive under a key. -/
def State.putExts (s : State) (key : Option (List Byte)) (l : List (Nat × List Byte)) : State :=
  l.foldl (fun s x =>
    match s.peat.drive.keyAt (x.1 / 2) (x.1 % 2 * 0x100000) with
    | some a => s.driveStore a (cipher true key a x.2)
    | none => s) s

/-- Stage good extents of a generation as a pending rewrite; none when units are short: those that a running drain has reserved are not free
(R199). -/
def State.stage (s : State) (c : Ctx) (peatGen : Nat) (key : Option (List Byte)) (l : List (Nat × List Byte)) : Option State :=
  let n := (l.length + 1) / 2
  let (units, t) := s.takeUnits n []
  if s.freeUnits < n || units.length < n then none
  else
    let halves := halvesOf units l.length
    let t := t.putExts key (halves.zip (l.map (fun x => x.2)))
    some (t.onPeat (fun p =>
      { p with staged := p.staged ++ [{ peatGen := peatGen, moves := (l.map (fun x => x.1)).zip halves, q := c.q, order := c.order }] }))

/-- WRITE SHARD to a region of a retained generation. -/
def State.writePeatRegion (s : State) (k : Nat) (c : Ctx) (e : CatEntry) (key : Option (List Byte)) (m : Man) (x : ManRegion) : State :=
  match spanBad extentBytes x.region.len c.off c.len with
  | some st => s.ctxEnd k st 0 0
  | none =>
    let lo := c.off / extentBytes
    let bs := if c.len = 0 then [] else piecesOf extentBytes (c.len / extentBytes + 1) (s.load c.addr c.len)
    let es := (m.exts.drop (x.first + lo)).take bs.length
    if (es.zip bs).any (fun y => crc64 y.2 != y.1.crc) then s.ctxEnd k St.crcMismatch 0 0
    else match s.stage c e.peatGen key (((List.range bs.length).map (fun i => x.first + lo + i)).zip bs) with
      | none => (s.peatErr St.peatFull).ctxEnd k St.peatFull 0 0
      | some s => s.ctxEnd k St.success 0 0

/-- WRITE SHARD at Peat; it waits while Peat writes are held (R38, R44, R45). -/
def State.writePeat (s : State) (k : Nat) (c : Ctx) : State :=
  match s.peatWriteStop with
  | some st => s.ctxEnd k st 0 0
  | none =>
    match s.entryOf c.step c.gen with
    | none => s.ctxEnd k St.tierUnavailable 0 0
    | some e =>
      match s.entryKey e, s.entryMan e with
      | some key, .ok b =>
        let m := Man.ofBytes b
        (match m.regions.find? (fun x => x.region.shard.toNat == c.shard) with
        | none => s.ctxEnd k St.shardUnknown 0 0
        | some x => if s.peatHeld then s else s.writePeatRegion k c e key m x)
      | none, _ => s.keyMissing k
      | _, .error st => s.ctxEnd k st 0 0

/-- WRITE_SHARD. -/
def execWriteShard (k : Fin 128) (s : State) : Out :=
  match s.running k 2 with
  | none => .next s
  | some c =>
    let restore := bitAt (c.csp 48) 0
    if c.off % (if c.tier = 3 then extentBytes else 4096) ≠ 0 || (c.tier = 3 && restore) then .next (s.ctxEnd k St.invalidField 0 0)
    else if !s.inWindow c.addr c.len then .next (s.ctxEnd k St.outOfWindow 0 0)
    else if c.tier = 3 then .next (s.writePeat k c)
    else if restore then .next (s.writeRestore k c)
    else .next (s.writeLive k c)

/-! ## FLUSH (R312) -/

/-- FLUSH: nothing of what it waits for is pending, or a catalogue write takes it. -/
def doFlush (k : Fin 128) (s : State) : Out :=
  match s.running k 3 with
  | none => .next s
  | some c =>
    let due := s.peat.staged.any (fun r => c.waits.contains r.order)
    if !due && !s.peat.taking.any (fun r => c.waits.contains r.1.order) then .next (s.ctxEnd k St.success 0 0)
    else if !due then .next s
    else if s.board.pfWork then .next (s.ctxEnd k St.pfailAbort 0 0)
    else match s.peatWriteStop with
      | some st => .next (s.ctxEnd k st 0 0)
      | none => .next (s.onPeat (fun p => { p with flushDue := true })).flushBegin

/-! ## VERIFY (R313) -/

/-- What is wrong with a region's bytes: its status, and the first failing extent; none: nothing. -/
def regionBad (m : Man) (x : ManRegion) (b : List Byte) : Option (Status × Option Nat) :=
  let es := (m.exts.drop x.first).take x.count
  let cs := extentCrcs b
  match (List.range x.count).find? (fun i => cs[i]? != (es[i]?).map (fun e => e.crc)) with
  | some i => some (St.crcMismatch, some i)
  | none => if sha384 b == x.digest then none else some (St.digestMismatch, none)

/-- Extents of a region whose CRC-64 differs. -/
def badExts (m : Man) (x : ManRegion) (b : List Byte) : List Nat :=
  let es := (m.exts.drop x.first).take x.count
  let cs := extentCrcs b
  (List.range x.count).filter (fun i => cs[i]? != (es[i]?).map (fun e => e.crc))

/-- A VERIFY ends; RESULT1 has a meaning where an extent failed. -/
def State.verifyEnd (s : State) (k : Nat) (st : Status) (checked : Nat) (ext : Option Nat) : State :=
  match s.ctx? k, ext with
  | some c, some i => (s.putCtx k { c with given := (false, true) }).ctxEnd k st checked i
  | _, _ => s.ctxEnd k st checked 0

/-- Check regions against a manifest by the rules of R243; failing extents are marked BAD among the entries that a test accepts. -/
def State.verifyNow (s : State) (k : Nat) (man group : List Byte) (agreed : Bool) (rs : List ManRegion) (bytes : Region → List Byte)
    (mark : MapEntry → Bool) : State :=
  let m := Man.ofBytes man
  if !manHeadOk man then s.verifyEnd k St.crcMismatch 0 none
  else if !agreed || sha384 (m.regions.flatMap (fun x => x.digest)) != group then s.verifyEnd k St.digestMismatch 0 none
  else
    let s := rs.foldl (fun s x => (badExts m x (bytes x.region)).foldl (fun s i => s.mapBad mark x.region.shard i) s) s
    match rs.findSome? (fun x => regionBad m x (bytes x.region)) with
    | some (st, ext) => s.verifyEnd k st rs.length ext
    | none => s.verifyEnd k St.success rs.length none

/-- Regions that a VERIFY names among those of a manifest: all, or one. -/
def Ctx.verifyOf (c : Ctx) (m : Man) : Except Status (List ManRegion) :=
  if bitAt (c.csp 48) 0 then .ok m.regions
  else match m.regions.find? (fun x => x.region.shard.toNat == c.shard) with
    | some x => .ok [x]
    | none => .error St.shardUnknown

/-- VERIFY at Batt: against what Felting found; where it found nothing (a half filled by a restore), the manual names nothing to hold the
half against, and the result is free. -/
def State.verifyBatt (s : State) (k : Nat) (c : Ctx) : State :=
  match s.heldCut c.step c.gen with
  | none => s.ctxEnd k St.tierUnavailable 0 0
  | some (d, h) =>
    let man := s.manifest { d with group := s.groupDigest d } 0 0 false (fun _ => 0)
    match c.verifyOf (Man.ofBytes man) with
    | .error st => s.ctxEnd k st 0 0
    | .ok rs =>
      if s.allRead d then
        s.verifyNow k man (s.groupDigest d) true rs (fun r => s.image (some h) r 0 r.len) (fun _ => false)
      else
        let (n, s) := s.pickFree 3
        s.verifyEnd k (if n = 0 then St.success else if n = 1 then St.crcMismatch else St.digestMismatch) rs.length none

/-- VERIFY at Sedge: fetch regions, manifest and commit record, then check. -/
def State.verifySedge (s : State) (k : Nat) (c : Ctx) : State :=
  let rs := if bitAt (c.csp 48) 0 then s.cut.dir else (s.regionById c.shard).toList
  if !s.ownSet c.step c.gen || !s.hostAlive then s.ctxEnd k St.tierUnavailable 0 0
  else if rs.isEmpty then s.ctxEnd k St.shardUnknown 0 0
  else if !c.asked then s.fetchFrom k c s.partnerAt c.step c.gen (s.manWant ++ rs.map (fun r => (s.regionAt r, r.len)))
  else if !c.want.isEmpty then s
  else
    let t := s.tBytes
    let man := Memory.bytesAt c.area (t + 65536) (s.manWant.getD 0 (0, 0)).2
    let com := Memory.bytesAt c.area (t + 16384) 64
    let xs := rs.map (fun r => ((Man.ofBytes man).regions.find? (fun x => x.region.shard == r.shard)).getD
      { region := r, digest := [], first := 0, count := 0 })
    s.verifyNow k man (com.drop 16) (!s.replOn || bitAt (fieldLE com 9 1) 0) xs
      (fun r => Memory.bytesAt c.area (s.regionAt r) r.len) (mapSedge c.step c.gen)

/-- VERIFY at Peat. -/
def State.verifyPeat (s : State) (k : Nat) (c : Ctx) : State :=
  match s.peatReadStop with
  | some st => s.ctxEnd k st 0 0
  | none =>
    match s.entryOf c.step c.gen with
    | none => s.ctxEnd k St.tierUnavailable 0 0
    | some e =>
      match s.entryKey e, s.entryMan e with
      | some key, .ok b =>
        let m := Man.ofBytes b
        (match c.verifyOf m with
        | .error st => s.ctxEnd k st 0 0
        | .ok rs =>
          let bytes (r : Region) : List Byte := match m.regions.find? (fun x => x.region.shard == r.shard) with
            | some x => ((m.exts.drop x.first).take x.count).flatMap (s.extLoad key)
            | none => []
          s.verifyNow k b e.group true rs bytes (mapPeat e.peatGen))
      | none, _ => s.keyMissing k
      | _, .error st => s.ctxEnd k st 0 0

/-- VERIFY: it needs a digest lane and a scan context (R329, R330, R335). -/
def execVerify (k : Fin 128) (s : State) : Out :=
  match s.running k 4 with
  | none => .next s
  | some c =>
    if s.freeLane.isNone || !s.chk.laneWait.isEmpty || (s.freeCtx [0, 1, 2, 3]).isNone then .next s
    else match c.tier with
      | 1 => .next (s.verifyBatt k c)
      | 2 => .next (s.verifySedge k c)
      | _ => .next (s.verifyPeat k c)

/-! ## DIGEST (R314) -/

/-- DIGEST: once; a command whose list has been read holds a lane or waits for one. -/
def execDigest (k : Fin 128) (s : State) : Out :=
  match s.running k 5 with
  | none => .next s
  | some c => if c.list.isEmpty then .next (s.digestStart k c) else .next s

/-! ## SCRUB (R315) -/

/-- Extents of a hosted set against its manifest: read, BAD. Set offsets follow from the owner's T and the manifest's own directory. -/
def State.scrubSet (s : State) (i : Nat) : Nat × Nat :=
  let t := s.rd (Fld.tierOwner.tMib (i / 2)) * 0x100000
  let head := s.setLoad i (t + 65536) 128
  if !manHeadOk head then (0, 0)
  else
    let m := Man.ofBytes (s.setLoad i (t + 65536) (manRecords head))
    let batt := t - (m.regions.filter (fun x => x.region.isSump)).foldl (fun a x => max a (x.region.offset + x.region.len)) 0
    m.regions.foldl (fun a x =>
      let at' := if x.region.isSump then batt + x.region.offset else x.region.offset
      (a.1 + x.count, a.2 + (badExts m x (s.setLoad i at' x.region.len)).length)) (0, 0)

/-- SCRUB of the sets that this engine hosts. Their Shard Map entries stand on their owners: a BAD extent is counted here. -/
def State.scrubSedge (s : State) (k : Nat) : State :=
  let ks := (List.range 8).filter (fun i => (s.set i).st == .committed || (s.set i).st == .held)
  let r := ks.foldl (fun a i => let x := s.scrubSet i; (a.1 + x.1, a.2 + x.2)) (0, 0)
  s.ctxEnd k St.success r.1 r.2

/-- What a SCRUB of one generation finds: extents read, BAD ones as shard, index and extent record; or why it cannot be read. -/
def State.scrubGen (s : State) (e : CatEntry) : Except Status (Nat × List (W32 × Nat × Nat)) :=
  match s.entryKey e, s.entryMan e with
  | some key, .ok b =>
    let m := Man.ofBytes b
    .ok (m.regions.foldl (fun n x => n + x.count) 0, m.regions.flatMap (fun x =>
      ((List.range x.count).filter (fun i => match m.exts[x.first + i]? with
        | some y => crc64 (s.extLoad key y) != y.crc
        | none => true)).map (fun i => (x.region.shard, i, x.first + i))))
  | none, _ => .error St.keyAbsent
  | _, .error st => .error st

/-- Read every retained generation: extents read, BAD ones marked and listed, and the status of a generation that cannot be read. -/
def State.scrubPeat (s : State) : State × Nat × List (Nat × Nat) × Status :=
  s.entries.foldl (fun a e =>
    match s.scrubGen e with
    | .ok (n, bad) =>
      (bad.foldl (fun s b => s.mapBad (mapPeat e.peatGen) b.1 b.2.1) a.1, a.2.1 + n, a.2.2.1 ++ bad.map (fun b => (e.peatGen, b.2.2)), a.2.2.2)
    | .error st => (a.1, a.2.1, a.2.2.1, if a.2.2.2 = St.success then st else a.2.2.2)) (s, 0, [], St.success)

/-- Another command's lock keeps a SCRUB from an extent: an exclusive one from reading it, any from repairing it (R308). -/
def State.scrubHeld (s : State) (k tier : Nat) (repair : Bool) : Bool :=
  s.cmd.locks.any (fun l => l.ctx != k && l.tier.toNat == tier && (l.excl || repair))

/-- The good bytes of an extent of a cut in a local half, if they match. -/
def State.repairBatt (s : State) (e : CatEntry) (r : Region) (i n : Nat) (crc : W64) : Option (List Byte) :=
  match s.heldCut e.step e.gen with
  | some (_, h) =>
    let b := s.image (some h) r (i * extentBytes) n
    if crc64 b == crc then some b else none
  | none => none

/-- Engines to be asked for an extent of a cut after the local half: the Sedge host, then the replicas. -/
def State.repairFrom (s : State) (e : CatEntry) : List (BitVec 10 × BitVec 7) :=
  (if s.ownSet e.step e.gen && s.hostAlive then [s.partnerAt] else []) ++ (if s.replOn then s.replMembers else [])

/-- The rest of a repair: drop the first extent of the list. -/
def State.repairNext (s : State) (k : Nat) (c : Ctx) : State :=
  s.putCtx k { c with todo := c.todo.tail, tries := 0, asked := false, want := [], area := [], fetch := none }

/-- One move of a repair on the first extent of the list: from the local half, from what has landed, or by asking the next engine. -/
def State.repairStep (s : State) (k : Nat) (c : Ctx) (g x : Nat) : State :=
  match s.entries.find? (fun e => e.peatGen == g) with
  | none => s.repairNext k c
  | some e =>
    match s.entryKey e, s.entryMan e with
    | some key, .ok b =>
      let m := Man.ofBytes b
      (match m.exts[x]?, m.shardOf x with
      | some y, some (shard, i) =>
        (match s.regionById shard.toNat with
        | none => s.repairNext k c
        | some r =>
          let n := y.len * 4096
          let a := s.regionAt r + i * extentBytes
          let landed := Memory.bytesAt c.area a n
          let found : Option (List Byte) :=
            if !c.asked then s.repairBatt e r i n y.crc else if c.want.isEmpty && crc64 landed == y.crc then some landed else none
          match found with
          | some bytes =>
            (match s.stage c g key [(x, bytes)] with
            | some s => s.repairNext k c
            | none => s.repairNext k c)
          | none =>
            (match (s.repairFrom e)[c.tries]? with
            | some at' => s.fetchFrom k { c with tries := c.tries + 1 } at' e.step e.gen [(a, n)]
            | none => s.repairNext k c))
      | _, _ => s.repairNext k c)
    | _, _ => s.repairNext k c

/-- Go on with a repair until it must wait or is done; then a catalogue write takes what was staged. -/
def State.repairN : Nat → State → Nat → State
  | 0, s, _ => s
  | n + 1, s, k =>
    match s.ctx? k with
    | none => s
    | some c =>
      match c.todo with
      | [] => ((s.onPeat (fun p => { p with flushDue := !p.staged.isEmpty })).ctxEnd k c.status c.r0.toNat c.r1.toNat).flushBegin
      | (g, x) :: _ =>
        if s.peatHeld || s.peatWriteStop.isSome then (s.putCtx k { c with todo := [] }).repairN n k
        else if c.asked && !c.want.isEmpty then s
        else (s.repairStep k c g x).repairN n k

/-- SCRUB. -/
def doScrub (k : Fin 128) (s : State) : Out :=
  match s.running k 6 with
  | none => .next s
  | some c =>
    let repair := bitAt (c.csp 50) 0 && c.tier = 3
    if !c.todo.isEmpty then .next (s.repairN (8 * c.todo.length + 8) k)
    else if s.scrubHeld k c.tier repair || (s.freeCtx [0, 1, 2, 3]).isNone then .next s
    else if c.tier = 2 then .next (s.scrubSedge k)
    else match s.peatReadStop with
      | some st => .next (s.ctxEnd k st 0 0)
      | none =>
        let (s, n, bad, st) := s.scrubPeat
        let s := s.peatErr st
        if !repair || bad.isEmpty then .next (s.ctxEnd k st n bad.length)
        else
          let c := { c with todo := bad, status := st, r0 := BitVec.ofNat 32 n, r1 := BitVec.ofNat 32 bad.length }
          .next ((s.putCtx k c).repairN (8 * bad.length + 8) k)

/-! ## FENCE (R316) -/

/-- FENCE: the commands it waits for have written their completion entries. -/
def execFence (k : Fin 128) (s : State) : Out :=
  match s.running k 7 with
  | none => .next s
  | some c => if s.cmd.ctxs.any (fun x => c.waits.contains x.2.order) then .next s else .next (s.ctxEnd k St.success 0 0)

/-! ## CUT (R317) -/

/-- State code of a cut. -/
def CutState.code : CutState → Nat
  | .opened => 1 | .felting => 2 | .agreeing => 3 | .committing => 4 | .sedgeCommitted => 5 | .jobCommitted => 6 | .retired => 7
  | .sedgeIncomplete => 8 | .suspect => 9 | .abandoned => 10 | .skipped => 11

/-- CUT_QUERY; of a cut that the record does not hold, RFLAGS and status are free. -/
def execCutQuery (k : Fin 128) (s : State) : Out :=
  match s.running k 0x10 with
  | none => .next s
  | some c =>
    if c.csp 48 ≠ 0 then .next s
    else match s.cutOf c.step c.gen with
      | some d =>
        .next (s.ctxEnd k St.success (d.st.code + 16 * b2n (d.drainStatus == some St.success) + 32 * b2n d.peatJobc + 256 * d.rflags)
          d.status.toNat)
      | none =>
        let (f, s) := s.pickFree 256
        let (x, s) := s.pickFree 65536
        .next (s.ctxEnd k St.success (256 * f) x)

/-- CUT_PEAT_NEXT: outstanding until its cut's Peat drain ends. -/
def execCutPeatNext (k : Fin 128) (s : State) : Out :=
  match s.running k 0x10 with
  | none => .next s
  | some c =>
    if c.csp 48 ≠ 1 then .next s
    else match s.cut.peatNext, s.cut.prevStep with
      | none, none => .next (s.onCut (fun u => { u with peatNext := some (c.step, k, none) }))
      | none, some p =>
        if c.step.toNat ≤ p.toNat then .next (s.ctxEnd k St.stateConflict (p.toNat % 2 ^ 32) 0)
        else .next (s.onCut (fun u => { u with peatNext := some (c.step, k, none) }))
      | some (_, j, _), some p => if j = k then .next s else .next (s.ctxEnd k St.stateConflict (p.toNat % 2 ^ 32) 0)
      | some (_, j, _), none =>
        if j = k then .next s else let (n, s) := s.pickFree (2 ^ 32); .next (s.ctxEnd k St.stateConflict n 0)

/-! ## RESTORE (R318, R250 to R253) -/

/-- RESTORE without ELASTIC: the lead raises an epoch whose only candidate is the named cut. -/
def doRestore (k : Fin 128) (s : State) : Out :=
  match s.running k 0x11 with
  | none => .next s
  | some c =>
    if bitAt (c.csp 48) 0 || s.rst.restoreCtx == some k.val then .next s
    else if c.addr ≠ 0 || c.len ≠ 0 then .next (s.ctxEnd k St.invalidField 0 0)
    else if !s.isLead then .next (s.ctxEnd k St.notWarden 0 0)
    else if s.warden.job != .waiting then .next (s.ctxEnd k St.stateConflict 0 0)
    else
      let s := s.onWarden (fun w => { w with only := some (c.step, c.gen), mire := c.tier == 4, older := none })
      .next ((s.onRst (fun r => { r with restoreCtx := some k.val })).raiseHalt.classEnd)

/-- States of the restore path in which an elastic restore may begin. -/
def State.elasticFree (s : State) : Bool :=
  s.rst.restoreCtx.isNone && (s.rst.st == .running || s.rst.st == .standby || s.rst.st == .waiting || s.rst.st == .halted)

/-- RESTORE_ELASTIC: check the map, then take the state from donors and Mire. -/
def doRestoreElastic (k : Fin 128) (s : State) : Out :=
  match s.running k 0x11 with
  | none => .next s
  | some c =>
    let map := s.load c.addr c.len
    let rows := mapRows (c.len / 32) map
    if !bitAt (c.csp 48) 0 || s.rst.restoreCtx == some k.val then .next s
    else if c.len % 32 ≠ 0 then .next (s.ctxEnd k St.invalidField 0 0)
    else if !s.inWindow c.addr c.len then .next (s.ctxEnd k St.outOfWindow 0 0)
    else if rows.any (fun m => m.reserved) then .next (s.ctxEnd k St.invalidField 0 0)
    else if !s.elasticFree then .next (s.ctxEnd k St.stateConflict 0 0)
    else if !s.mapOk rows then .next ((s.raise Fld.tierRstErrStatus.reshardInvalid).ctxEnd k St.reshardInvalid 0 0)
    else .next (s.onRst (fun r =>
      { r with
        st := .refill, source := .donors, elastic := true, cutStep := c.step, cutGen := c.gen, cutValid := true, work := true, done := {},
        lastStatus := St.success, recIn := {}, manIn := {}, dataIn := { want := s.mireRanges rows }, area := [], restoreCtx := some k.val,
        elasticMap := map, arrival := s.now }))

end Sys2Proof.Machine
end

