-- ==== Sys2Proof/Machine/Time.lean ====
section
/-! DEFINITION. The time unit (R283 to R289): the two domains, ticks, loads, adds and switches, reads, time probes and the timestamp log. -/
namespace Sys2Proof.Machine

def State.onTim (s : State) (f : Tim → Tim) : State := { s with tim := f s.tim }
def State.dom (s : State) (b : Bool) : Domain := if b then s.tim.domB else s.tim.domA
def State.putDom (s : State) (b : Bool) (d : Domain) : State := s.onTim (fun t => if b then { t with domB := d } else { t with domA := d })

/-- Number of a domain in register names: 0 A, 1 B. -/
def domNo (b : Bool) : Nat := b2n b

/-- Units of 2^-32 ns in one second. -/
def secUnits : Nat := 1000000000 * 2 ^ 32

/-- A domain's time in units of 2^-32 ns. -/
def Domain.total (d : Domain) : Nat := d.sec * secUnits + d.ns * 2 ^ 32 + d.frac

/-- Set a domain's time; seconds are 64 bits. -/
def Domain.setTotal (d : Domain) (t : Nat) : Domain :=
  { d with sec := t / secUnits % 2 ^ 64, ns := t % secUnits / 2 ^ 32, frac := t % 2 ^ 32 }

/-- Increment per tick of a domain, in units of 2^-32 ns (R284). -/
def State.domInc (s : State) (b : Bool) : Nat := s.rd (Fld.timDomInc.ns (domNo b)) * 2 ^ 32 + s.rd (Fld.timDomInc.frac (domNo b))

/-- The signed OFFSET of a domain in ns. -/
def State.domOffset (s : State) (b : Bool) : Int := (s.getReg (Reg.timDomOffset (domNo b))).toInt

/-- The command that CMD names, with what SET_SEC and SET_NS, or OFFSET, hold when it is written. -/
def State.timOpOf (s : State) (b : Bool) (cmd : Nat) : TimOp :=
  if cmd = 1 then .load (s.getReg (Reg.timDomSetSec (domNo b))) (s.rd (Fld.timDomSetNs.ns (domNo b)))
  else if cmd = 2 then .add (s.domOffset b) else .invalidate

/-- `n` plain ticks of a domain. -/
def State.domAdvance (s : State) (b : Bool) (n : Nat) : State :=
  let d := s.dom b
  if d.valid then s.putDom b (d.setTotal (d.total + n * s.domInc b)) else s

/-- What a command does to a domain at its tick (R285). -/
def State.timOp (s : State) (b : Bool) (op : TimOp) : State :=
  let d := s.dom b
  match op with
  | .load sec ns => s.putDom b { d with sec := sec.toNat, ns := ns, frac := 0, valid := true }
  | .invalidate => s.putDom b { d with valid := false, sec := 0, ns := 0, frac := 0 }
  | .add ns =>
    let t : Int := (d.total : Int) + ns * 2 ^ 32
    if !d.valid then s
    else if t < 0 || (2 ^ 64 * secUnits : Nat) ≤ t then s.accessError (Reg.timDomCmd (domNo b)) 4 true
    else s.putDom b (d.setTotal t.toNat)

/-- One tick of a domain: its increment, then the commands that were written before it, in their order, as one step (R284, R285). -/
def State.domTick (s : State) (b : Bool) : State :=
  let ops := (s.dom b).ops
  let s := s.putDom b { s.dom b with ops := [] }
  ops.foldl (fun s op => s.timOp b op) (s.domAdvance b 1)

/-- The pending switch at a tick (R286). -/
def State.switchTick (s : State) : State :=
  if !s.tim.switchPending then s
  else
    let s := s.onTim (fun t => { t with switchPending := false })
    if (s.dom (!s.tim.activeB)).valid then (s.onTim (fun t => { t with activeB := !t.activeB })).bump Fld.timCtrl.switches
    else s.accessError Reg.timCtrl 4 true

/-- `n` reference ticks: what is pending takes effect at the first of them. -/
def State.ticks (s : State) (n : Nat) : State :=
  if n = 0 then s
  else
    let s := (((s.domTick false).domTick true).switchTick.domAdvance false (n - 1)).domAdvance true (n - 1)
    { s with now := s.now + n }

def execTimeTick (ticks : Nat) (s : State) : Out := .next (s.ticks ticks)

/-- A write of a domain's CMD: 1 load, 2 add, 3 invalidate; refused on the active valid domain. -/
def State.timCmd (s : State) (b : Bool) (cmd : Nat) : State :=
  let d := s.dom b
  if cmd = 0 then s
  else if s.tim.activeB == b && d.valid then s.accessError (Reg.timDomCmd (domNo b)) 4 true
  else s.putDom b { d with ops := d.ops ++ [s.timOpOf b cmd] }

def execTimeLoad (domB : Bool) (s : State) : Out := if !s.powered then .next s else .next (s.timCmd domB 1)
def execTimeAdd (domB : Bool) (s : State) : Out := if !s.powered then .next s else .next (s.timCmd domB 2)
def execTimeInvalidate (domB : Bool) (s : State) : Out := if !s.powered then .next s else .next (s.timCmd domB 3)

/-- A write of CGM_TIM_CTRL: TSLOG_EN going to 1 restarts HEAD; SWITCH is taken at the next tick, or refused while the other domain is not
valid. -/
def State.timCtrlWrite (s : State) (w : Nat) : State :=
  let was := s.rdB Fld.timCtrl.tslogEn
  let s := (s.writePlain Reg.timCtrl (putBits w 1 1 0)).1
  let s := if !was && s.rdB Fld.timCtrl.tslogEn then s.wr Fld.timTslogHead.head 0 else s
  if !bitAt w 1 then s
  else if (s.dom (!s.tim.activeB)).valid then s.onTim (fun t => { t with switchPending := true })
  else s.accessError Reg.timCtrl 4 true

def execTimeSwitch (value : W32) (s : State) : Out := if !s.powered then .next s else .next (s.timCtrlWrite (putBits value.toNat 1 1 1))

/-- Read a domain's SEC: it latches NS and FRAC of the same tick. An invalid domain reads as zero. -/
def State.timSecRead (s : State) (b : Bool) : W64 × State :=
  let d := s.dom b
  let ns := if d.valid then d.ns else 0
  let fr := if d.valid then d.frac / 65536 else 0
  (if d.valid then BitVec.ofNat 64 d.sec else 0, s.putDom b { d with latNs := ns, latFrac := fr })

def execTimSecRead (domB : Bool) (s : State) : Out :=
  if !s.powered then .next s else let (v, s) := s.timSecRead domB; .next { s with busRead := v }

/-! ## Stamps and the timestamp log (R287 to R289) -/

/-- The stamp of a symbol that crosses `ps` picoseconds after the tick, with a slice's correction; zero while the domain is invalid. -/
def State.stamp (s : State) (ps : Nat) : Stamp :=
  let b := s.tim.activeB
  let d := s.dom b
  if d.valid then
    let t := d.setTotal (d.total + ps * 2 ^ 32 / 1000)
    { domB := b, sec := t.sec, ns := t.ns, frac := t.frac / 65536, valid := true }
  else { domB := b, sec := 0, ns := 0, frac := 0, valid := false }

def State.rxStamp (s : State) (n : Nat) (phase : BitVec 14) : Stamp := s.stamp (phase.toNat + s.rd (Fld.timLnkDelay.rxPs n))
def State.txStamp (s : State) (n : Nat) (phase : BitVec 14) : Stamp := s.stamp (phase.toNat + s.rd (Fld.timLnkDelay.txPs n))

/-- A stamp in the layout of a time domain of R163. -/
def Stamp.bytes (t : Stamp) : List Byte := leBytes 8 t.sec ++ leBytes 4 t.ns ++ leBytes 2 t.frac ++ zeros 2

/-- Write an entry of the timestamp log: stamp, direction, slice, TYPE, peer, SEQ, and the payload's nanoseconds for the answers. -/
def State.tslog (s : State) (t : Stamp) (tx : Bool) (n : Nat) (ty : BitVec 8) (rack : BitVec 10) (pos : BitVec 7) (seq : W32) (pay : List Byte) :
    State :=
  if !s.rdB Fld.timCtrl.tslogEn then s
  else
    let head := s.rd Fld.timTslogHead.head
    let a := s.rdAddr Fld.timTslog.base + head % 2 ^ (s.rd Fld.timTslog.sizeLog2 + 8) * 32
    let answer := ty == Ty.probeResponse || ty == Ty.followUp
    let e := leBytes 8 t.sec ++ leBytes 4 t.ns ++ leBytes 2 t.frac ++ leBytes 1 (b2n t.domB + 2 * b2n tx + 4 * b2n t.valid) ++ leBytes 1 n ++
      [ty, 0] ++ leBytes 2 rack.toNat ++ leBytes 1 pos.toNat ++ zeros 3 ++ leBytes 4 seq.toNat ++
      (if answer then leBytes 4 (fieldLE pay 8 4) else zeros 4)
    (s.store' a e).wr Fld.timTslogHead.head (head + 1)

/-- Send a probe frame on a slice, HOP[0] naming a domain and every other field 0 (R288): its stamp as it leaves, logged. -/
def State.probeOut (s : State) (n : Nat) (ty : BitVec 8) (rack : BitVec 10) (pos : BitVec 7) (seq : W32) (domB : Bool) (pay : List Byte)
    (phase : BitVec 14) : State :=
  if !s.takesPart n then s
  else
    (s.send (some n) (.pos rack pos) ty { seq := seq, hop := BitVec.ofNat 8 (b2n domB), payload := pay }).tslog (s.txStamp n phase) true n ty
      rack pos seq pay

/-- A write of CGM_TIM_PROBE; a slice that the variant does not have is a reserved value. -/
def State.probeWrite (s : State) (w : Nat) (phase : BitVec 14) : State :=
  let n := bits w 0 6
  if !s.present n then s.accessError Reg.timProbe 4 true
  else s.probeOut n Ty.probe (BitVec.ofNat 10 (bits w 13 10)) (BitVec.ofNat 7 (bits w 6 7)) (BitVec.ofNat 32 (bits w 23 8)) s.tim.activeB
    (zeros 16) phase

def execTimeProbeSend (value : W32) (phase : BitVec 14) (s : State) : Out :=
  if !s.powered then .next s else .next (s.probeWrite value.toNat phase)

/-- A received probe frame: stamp and log. -/
def State.probeIn (s : State) (n : Fin 42) (ty : BitVec 8) (f : Frame) (phase : BitVec 14) (act : Stamp → State → State) : State :=
  s.recv n ty f fun s =>
    if f.payload.length ≠ 16 then s.staleAt n
    else if !s.takesPart n then s
    else
      let t := s.rxStamp n phase
      act t (s.tslog t false n ty f.srcRack f.srcPos f.seq f.payload)

/-- TIME_PROBE: the response leaves at once with the receive stamp, and its own transmit stamp is due in a follow-up. -/
def execTimeProbe (n : Fin 42) (f : Frame) (phase : BitVec 14) (s : State) : Out :=
  .next (s.probeIn n Ty.probe f phase fun t s =>
    let due : ProbeDue := { slice := n, rack := f.srcRack, pos := f.srcPos, seq := f.seq, stamp := s.txStamp n phase }
    (s.probeOut n Ty.probeResponse f.srcRack f.srcPos f.seq t.domB t.bytes phase).onTim (fun m => { m with due := m.due ++ [due] }))

/-- FOLLOW_UP_SEND: the oldest response has left. -/
def execFollowUpSend (phase : BitVec 14) (s : State) : Out :=
  match s.hw, s.tim.due with
  | true, d :: t =>
    .next ((s.onTim (fun m => { m with due := t })).probeOut d.slice Ty.followUp d.rack d.pos d.seq d.stamp.domB d.stamp.bytes phase)
  | _, _ => .next s

def execProbeResponse (n : Fin 42) (f : Frame) (phase : BitVec 14) (s : State) : Out :=
  .next (s.probeIn n Ty.probeResponse f phase fun _ s => s)

def execFollowUp (n : Fin 42) (f : Frame) (phase : BitVec 14) (s : State) : Out :=
  .next (s.probeIn n Ty.followUp f phase fun _ s => s)

end Sys2Proof.Machine
end

