-- ==== Sys2Proof/Machine/RegAccess.lean ====
section
/-! DEFINITION. The register path (R7 to R11, R325): what each register reads, and what a write of it does. -/
namespace Sys2Proof.Machine

/-! ## Codes of fields -/

def PeatState.code : PeatState → Nat
  | .absent => 0 | .init => 1 | .ready => 2 | .unformatted => 3 | .foreign => 4 | .readOnly => 5 | .failed => 6
def RstState.code : RstState → Nat
  | .running => 0 | .halted => 1 | .planning => 2 | .rollback => 3 | .refill => 4 | .record => 5 | .verify => 6 | .ready => 7 | .waiting => 8
  | .standby => 9
def JobState.code : JobState → Nat
  | .normal => 0 | .halting => 1 | .planning => 2 | .restoring => 3 | .waiting => 4
def Half.code : Half → Nat
  | .empty => 0 | .capture => 1 | .felting => 2 | .held => 3 | .pinned => 4
def SetState.code : SetState → Nat
  | .free => 0 | .filling => 1 | .committed => 2 | .held => 3 | .lost => 4
def BarState.code : BarState → Nat
  | .disabled => 0 | .opened => 1 | .arrived => 2
def QState.code : QState → Nat
  | .disabled => 0 | .active => 1 | .error => 2 | .resetting => 3

/-- Bits of a number from tests of their places. -/
def mask (n : Nat) (t : Nat → Bool) : Nat := (List.range n).foldl (fun a i => a + b2n (t i) * 2 ^ i) 0

/-- STATE of CGM_RED_CHn_STATUS. -/
def State.chanState (s : State) (ch : Nat) : Nat :=
  let x := s.chan ch
  if x.aborted then 4 else if !s.rdB (Fld.redChCfg.enable ch) then 0 else if !x.issued.isEmpty then 2
  else if x.running.any (fun b => !(b.completed && b.gone)) then 3 else 1

/-- STATE of CGM_FUL_Qn_STATUS. -/
def State.fulState (s : State) (q : Nat) : Nat :=
  let x := s.fq q
  if x.aborted then 5
  else match x.task with
    | some t => (match t.stage with | .waitPair => 2 | .waitGate => 3 | .run => 4)
    | none => if s.rdB (Fld.fulQCfg.enable q) then 1 else 0

/-- QSTATE of CGM_TIER_CUT_STATUS. -/
def State.cutQState (s : State) : Nat :=
  if !s.rdB Fld.tierCutqCfg.enable then 0 else if s.cut.cuts.any (fun c => c.st.open' && !c.refused) then 2 else 1

/-- Identity registers of the CTL block (R1, R287, R344, R364). -/
def State.viewCtl (s : State) (off old : Nat) : Nat :=
  match off with
  | 0x0 => s.part.siliconRev.toNat + s.part.hbmStacks * 2 ^ 16 + s.part.dies * 2 ^ 21 + s.sliceCount * 2 ^ 23
  | 0x8 => s.part.serial.toNat
  | 0x20 =>
    let r := s.store.record
    putBits (putBits old 0 3 (b2n r.marked + 2 * b2n r.aValid + 4 * b2n r.bValid)) 24 7 s.boot.floorSteps
  | 0x430 => s.alertBits
  | _ => old

/-- Computed fields of the RED, LNK and FUL blocks; `n` is the copy. -/
def State.viewEngine (s : State) (off n old : Nat) : Nat :=
  match off with
  | 0x10040 => putBits (putBits old 0 21 s.red.tags.inUse.length) 21 21 s.red.tags.quarantine.length
  | 0x11038 => (s.chan n).nextSeq.toNat + s.chanState n * 2 ^ 32 + (s.chan n).lastStatus.toNat * 2 ^ 48
  | 0x20008 => putBits old 0 6 (1 + 2 * b2n (isSo n) + 4 * b2n (s.slice n == .closed || s.slice n == .opening) + 8 * s.cwCause n)
  | 0x30020 => s.ful.gate.clipK.toNat + b2n s.ful.gate.opened * 2 ^ 32 + b2n s.ful.gate.skip * 2 ^ 33
  | 0x30028 => s.ful.gate.step.toNat
  | 0x30030 => s.ful.gate.sum.toNat
  | 0x30080 => putBits old 16 4 (vget s.ful.slots (bits old 0 4) {}).version.toNat
  | 0x30090 => mask 16 (fun i => (vget s.ful.slots i {}).loaded) + mask 16 s.slotBusy * 2 ^ 16
  | 0x31010 => (s.fq n).nextSeq.toNat + s.fulState n * 2 ^ 32 + (s.fq n).lastStatus.toNat * 2 ^ 48
  | 0x32000 =>
    let p := vget s.ful.ports n {}
    match p.pieces with
    | x :: _ => putBits (putBits (putBits old 3 1 (b2n x.bound)) 4 5 (if x.bound then x.ch else 0)) 32 18 (4 * p.buf.length)
    | [] => putBits (putBits old 3 6 0) 32 18 (4 * p.buf.length)
  | _ => old

/-- Computed fields of the TIER, PEAT and SEC blocks. -/
def State.viewTier (s : State) (off old : Nat) : Nat :=
  let d := s.peat.drive
  let up := s.peat.linkUp
  match off with
  | 0x48038 => putBits old 8 5 s.part.hbmStacks
  | 0x48068 =>
    s.cut.nextSeq.toNat + s.cutQState * 2 ^ 32 + s.cut.halfA.code * 2 ^ 34 + s.cut.halfB.code * 2 ^ 37 + s.cut.lastStatus.toNat * 2 ^ 48
  | 0x40060 => (List.range 8).foldl (fun a k => a + (s.set k).st.code * 16 ^ k) 0 + s.freePages.length * 2 ^ 32
  | 0x40078 => putBits old 0 18 s.mapFree
  | 0x50010 =>
    if up then 1 + d.rate.toNat * 2 + d.width.toNat * 16 + b2n d.flit * 256 + b2n (d.rate.toNat < 5 || d.width.toNat < 8) * 512 else 0
  | 0x50018 =>
    s.peat.st.code + (if up then d.used.length * 8 + b2n d.vwc * 64 else 0) + b2n s.peat.drain.isSome * 128 + s.allEntries.length * 256 +
      (match s.peat.cat with | some (c, _) => c.catSeq % 2 ^ 48 * 2 ^ 16 | none => 0)
  | 0x50020 => if s.peat.cat.isSome then d.units % 2 ^ 24 + s.freeUnits % 2 ^ 24 * 2 ^ 24 else 0
  | 0x60010 =>
    mask 16 (fun i => (s.keySlot i).loaded) + (List.range 16).foldl (fun a i => a + (s.keySlot i).kind.toNat * 4 ^ i) 0 * 2 ^ 16
  | 0x60018 => let k := s.keySlot (s.rd Fld.secKeyCtrl.slot); if k.xts then (kcvOf k.bytes).toNat else 0
  | 0x49018 =>
    let st := if s.standby then RstState.standby.code else s.rst.st.code
    st + s.rst.role.code * 16 + b2n s.rst.liveClean * 64 + s.rst.epoch.toNat * 256 + s.rst.source.code * 2 ^ 24 +
      s.rst.lastStatus.toNat * 2 ^ 48
  | 0x49020 => s.rst.cutStep.toNat
  | 0x49028 => s.rst.cutGen.toNat + b2n s.rst.cutValid * 256 + b2n s.rst.elastic * 512
  | 0x49040 =>
    if s.isWarden then
      putBits old 0 18 (s.warden.job.code + min 15 s.standbySpares * 16 + min 15 s.sparesInUse * 256 + min 48 s.warden.failed.length * 4096)
    else putBits old 0 18 0
  | _ => old

/-- Computed fields of the SYN and TIM blocks; `n` is the copy. -/
def State.viewSync (s : State) (off n old : Nat) : Nat :=
  match off with
  | 0x70000 => putBits old 2 1 (b2n s.remoteOpen)
  | 0x71000 => bits s.syn.flags.toNat (64 * n) 64
  | 0x71080 => bits s.syn.ovr.toNat (64 * n) 64
  | 0x72000 => putBits old 0 1 (b2n (s.slotArmed n))
  | 0x73028 => (s.bar n).st.code * 2 + (s.bar n).lastStatus.toNat * 2 ^ 16 + (s.bar n).episode.toNat * 2 ^ 32
  | 0x73030 => (s.bar n).resSum.toNat
  | 0x73038 => (s.bar n).resOr.toNat
  | 0x74000 => (s.pair n).p
  | 0x74008 => (s.pair n).c
  | 0x74010 => (s.pair n).depth + s.pend n % 2 ^ 32 * 2 ^ 32
  | 0x80000 => putBits old 0 4 (b2n s.tim.activeB + 2 * b2n s.tim.switchPending + 4 * b2n s.tim.domA.valid + 8 * b2n s.tim.domB.valid)
  | 0x80100 => let d := s.dom (n == 1); if d.valid then d.sec else 0
  | 0x80108 => let d := s.dom (n == 1); if d.valid then d.latNs + d.latFrac * 2 ^ 32 else 0
  | _ => old

/-- Computed fields of the CMD and CHK blocks; `n` is the copy. -/
def State.viewCmd (s : State) (off n old : Nat) : Nat :=
  match off with
  | 0x90018 =>
    b2n (s.boot.phase == .hummock) + 2 * b2n s.halted + 4 * s.cmd.ctxs.length + 1024 * s.cmd.locks.length +
      2 ^ 23 * b2n (!s.peat.staged.isEmpty || !s.peat.taking.isEmpty)
  | 0x91018 => (s.queue n).sqTail
  | 0x91020 => (s.queue n).cqHead
  | 0x91028 =>
    let x := s.queue n
    x.st.code + x.sqHead * 8 + x.cqTail * 2 ^ 15 + b2n x.phase * 2 ^ 27 + (s.ctxsOf n).length * 2 ^ 28
  | 0x91040 => mask 4 (s.queue n).busy
  | 0xA0000 =>
    mask 32 (fun i => (vget s.chk.lanes i none).isSome) + s.lanesFelting * 2 ^ 32 + min 127 s.chk.laneWait.length * 2 ^ 38
  | 0xA0008 => mask 64 (fun k => (kget s.chk.ctxs k).isSome)
  | 0xA1028 => putBits old 0 1 (b2n (vget s.chk.scans n false))
  | _ => old

/-- The copy of a register block that an offset lies in. -/
def copyIdx (off : Nat) : Nat :=
  match regArrays.find? (fun a => a.base ≤ off && off < a.base + a.stride * a.count) with
  | some a => (off - a.base) / a.stride
  | none => 0

/-- What a register reads, with nothing cleared or latched. -/
def State.view (s : State) (off : Nat) : W64 :=
  let c := regCanon off
  let n := copyIdx off
  let old := (s.getReg off).toNat
  BitVec.ofNat 64
    (if c < 0x10000 then s.viewCtl c old
     else if c < 0x40000 then s.viewEngine c n old
     else if c < 0x70000 then s.viewTier c old
     else if c < 0x90000 then s.viewSync c n old
     else s.viewCmd c n old)

/-- The block of a slice that the variant lacks, or its CGM_TIM_LNKn_DELAY (R2, R287). -/
def State.absentSlice (s : State) (off : Nat) : Bool :=
  (0x20000 ≤ off && off < 0x22A00 && !s.present ((off - 0x20000) / 0x100)) ||
  (0x81000 ≤ off && off < 0x81150 && !s.present ((off - 0x81000) / 8))

/-- Clear the RC fields of a register. -/
def State.clearRc (s : State) (off : Nat) (fields : List FieldRow) : State :=
  let old := (s.getReg off).toNat
  s.setReg off (BitVec.ofNat 64 ((fields.filter (fun f => f.ty == .rc)).foldl (fun w f => putBits w f.lo f.len 0) old))

/-- A read access (R7, R9, R325): the value, and the state after it. -/
def State.readReg (s : State) (off bytes : Nat) : W64 × State :=
  if s.absentSlice off then (0, s)
  else match regRow? off with
    | none => (0, s.accessError off bytes false)
    | some row =>
      if row.bytes ≠ bytes then (0, s.accessError off bytes false)
      else if regCanon off = 0x80100 then s.timSecRead (copyIdx off == 1)
      else (s.view off, s.clearRc off row.fields)

/-- Bytes of an access. -/
def AccWidth.bytes : AccWidth → Nat
  | .b1 => 1 | .b2 => 2 | .b4 => 4 | .b8 => 8

/-! ## Writes that have an effect of their own -/

/-- A write of CGM_CTL_RESET. -/
def State.ctlResetWrite (s : State) (w : Nat) : State := if bitAt w 0 then s.reset' .engine 3 else if bitAt w 1 then s.activateWrite else s

/-- A write of CGM_LNKn_STATUS: BUF_ERR cleared, nothing else holds the slice (R53). -/
def State.lnkStatusWrite (s : State) (n w : Nat) : State :=
  let was := s.rdB (Fld.lnkStatus.bufErr n)
  let s := (s.writePlain (Reg.lnkStatus n) w).1
  if was && !s.rdB (Fld.lnkStatus.bufErr n) then s.sliceOpens n else s

/-- A write of an owner slot (R183, R186): only while both its sets are FREE, or LOST and the slot is cleared, which frees them. -/
def State.ownerWrite (s : State) (i w : Nat) : State :=
  let ks := [2 * i, 2 * i + 1]
  let lost := ks.any (fun k => (s.set k).st == .lost)
  if ks.any (fun k => (s.set k).st != .free && (s.set k).st != .lost) || (lost && bitAt w 0) then s.accessError (Reg.tierOwner i) 8 true
  else
    let (s, ok) := s.writePlain (Reg.tierOwner i) w
    if ok && lost then ks.foldl (fun s k => s.freeSet k) s else s

/-- A write of a block of overrun bits: W1C (R258). -/
def State.ovrWrite (s : State) (n w : Nat) : State :=
  s.onSyn (fun y => { y with ovr := y.ovr &&& ~~~(BitVec.ofNat 1024 (w % 2 ^ 64 * 2 ^ (64 * n))) })

/-- Writes of the CTL, RED, LNK and FUL blocks; `n` is the copy. -/
def State.writeEngine (s : State) (off c n w : Nat) : State :=
  match c with
  | 0x10 => s.ctlResetWrite w
  | 0x11000 => s.redChWrite n w
  | 0x20000 => s.lnkCtrlWrite n w
  | 0x20008 => s.lnkStatusWrite n w
  | 0x30080 => s.progCtrlWrite w
  | 0x30088 => s.progWord (BitVec.ofNat 32 w)
  | 0x31000 => s.fulQCfgWrite n w
  | _ => (s.writePlain off w).1

/-- Writes of the TIER, PEAT and SEC blocks. -/
def State.writeTier (s : State) (off c n w : Nat) : State :=
  match c with
  | 0x48000 => if bitAt w 0 then s.cutEnable w else s.cutDisable w
  | 0x40040 => s.ownerWrite n w
  | 0x50000 => s.peatCtrlWrite w
  | 0x50040 => s.pinWrite n w
  | 0x60000 => s.keyCtrlWrite w
  | 0x60008 => s.keyWord (BitVec.ofNat 64 w)
  | _ => (s.writePlain off w).1

/-- Writes of the SYN and TIM blocks. A probe sent through this path crosses its slice at a phase that the environment does not name. -/
def State.writeSync (s : State) (off c n w : Nat) : State :=
  match c with
  | 0x70000 => s.synCtrlWrite w
  | 0x70008 => s.flagOp (bits w 0 10) (bits w 10 2)
  | 0x70010 => s.produceWrite (bits w 0 9) (bits w 16 32)
  | 0x70018 => s.consumeWrite (bits w 0 9) (bits w 16 32)
  | 0x70020 => s.fenceWrite (BitVec.ofNat 16 w) (bits w 16 10) (bits w 26 2) (bits w 32 16)
  | 0x70040 => s.ctxWrite w
  | 0x71080 => s.ovrWrite n w
  | 0x72000 => s.waitWrite n w
  | 0x73000 => s.barCfgWrite n w
  | 0x73028 => if bitAt w 0 then s.arriveWrite n else s
  | 0x74010 => s.pairDepth n (bits w 0 32)
  | 0x74018 => s.pairInit n (bits w 0 48)
  | 0x80000 => s.timCtrlWrite w
  | 0x80020 => let (k, s) := s.pickFree 10000; s.probeWrite w (BitVec.ofNat 14 k)
  | 0x80130 => s.timCmd (n == 1) (bits w 0 2)
  | _ => (s.writePlain off w).1

/-- Writes of the CMD and CHK blocks. -/
def State.writeCmd (s : State) (off c n w : Nat) : State :=
  match c with
  | 0x91000 => s.queueCfgWrite n w
  | 0x91018 => s.sqTailWrite n w
  | 0x91020 => s.cqHeadWrite n w
  | 0x91038 => if bitAt w 0 then s.queueResetWrite n else s
  | 0x91100 =>
    let k := off % 0x200 - 0x100
    s.pushWrite n (k / 0x40) (k % 0x40 / 8) (BitVec.ofNat 64 w)
  | 0xA1010 => s.scanCtrlWrite n w
  | _ => (s.writePlain off w).1

/-- A write access (R7 to R10, R325). -/
def State.writeReg (s : State) (off bytes w : Nat) : State :=
  if s.absentSlice off then s
  else match regRow? off with
    | none => s.accessError off bytes true
    | some row =>
      if row.bytes ≠ bytes then s.accessError off bytes true
      else
        let c := regCanon off
        let n := copyIdx off
        let w := w % 2 ^ (8 * bytes)
        if c < 0x40000 then s.writeEngine off c n w
        else if c < 0x70000 then s.writeTier off c n w
        else if c < 0x90000 then s.writeSync off c n w
        else s.writeCmd off c n w

/-- REGISTER_WRITE. -/
def doRegisterWrite (off : BitVec 20) (width : AccWidth) (value : W64) (s : State) : Out :=
  if !s.powered then .next s else .next (s.writeReg off.toNat (AccWidth.bytes width) value.toNat)

/-- RC_REGISTER_READ: a read access; its answer stands in `busRead`. -/
def execRcRegisterRead (off : BitVec 20) (width : AccWidth) (s : State) : Out :=
  if !s.powered then .next s
  else
    let (v, s) := s.readReg off.toNat (AccWidth.bytes width)
    .next { s with busRead := v }

end Sys2Proof.Machine
end

