-- ==== Sys2Proof/Machine/Admin.lean ====
section
/-! DEFINITION. The administrative commands (R319 to R322): IDENTIFY, GET LOG PAGE, GET and SET FEATURES, FIRMWARE DOWNLOAD and COMMIT. -/
namespace Sys2Proof.Machine

/-- VERSION of a slot, or zeros when it is not valid. -/
def State.slotVersion (s : State) (b : Bool) : List Byte :=
  if s.store.record.valid b then s.store.version (storeSlot b) else zeros 16

/-- SVN of a slot, or 0 when it is not valid. -/
def State.slotSvn (s : State) (b : Bool) : Nat := if s.store.record.valid b then s.store.svn (storeSlot b) else 0

/-! ## IDENTIFY (R319) -/

/-- CNS 0: the engine. -/
def State.identEngine (s : State) : List Byte :=
  let role := s.rd Fld.ctlElect.role
  let r := s.store.record
  ascii "URNAWYN" ++ [0] ++ ascii "CHIGIEM" ++ [0] ++ leBytes 4 s.part.siliconRev.toNat ++ leBytes 1 s.part.hbmStacks ++ leBytes 1 s.part.dies ++
  leBytes 1 s.sliceCount ++
  leBytes 1 (b2n (s.boot.phase == .hummock) + 2 * b2n (1 ≤ role) + 4 * b2n (2 ≤ role) + 8 * b2n (role = 3)) ++
  leBytes 8 s.part.serial.toNat ++ fitTo 16 (s.slotVersion false) ++ fitTo 16 (s.slotVersion true) ++
  leBytes 1 (b2n s.boot.slot + 2 * b2n r.aValid + 4 * b2n r.bValid) ++ leBytes 1 8 ++ leBytes 2 4096 ++ leBytes 2 128 ++ leBytes 2 4096 ++
  leBytes 4 131072 ++ leBytes 2 1024 ++ leBytes 2 512 ++ [16, 4, 192, 16, 16, 32, 4, 32] ++ leBytes 8 274877906944 ++ leBytes 2 8192 ++
  leBytes 2 0x03FF ++ leBytes 4 0x00020000 ++ leBytes 4 s.myRank ++ leBytes 2 s.myRack.toNat ++ leBytes 1 s.myPos.toNat ++ [0] ++
  leBytes 8 s.window.2

/-- CNS 1: Peat. -/
def State.identPeat (s : State) : List Byte :=
  let d := s.peat.drive
  let up := s.peat.linkUp
  let units := if s.peat.cat.isSome then (d.units, s.freeUnits) else (0, 0)
  leBytes 1 s.peat.st.code ++ leBytes 1 (if up then d.rate.toNat else 0) ++ leBytes 1 (if up then d.width.toNat else 0) ++
  leBytes 1 (if up then b2n d.flit + 2 * b2n d.vwc + 4 * b2n (d.rate.toNat < 5 || d.width.toNat < 8) else 0) ++
  (if up then
    leBytes 1 d.used.length ++ leBytes 1 (mask 4 (fun i => match d.spaces[i]? with | some x => !x.2 && x.1 != 0 | none => false)) ++ zeros 2 ++
    (List.range 4).flatMap (fun i => leBytes 8 (match d.spaces[i]? with | some x => x.1 | none => 0))
  else zeros 36) ++
  leBytes 8 units.1 ++ leBytes 8 units.2 ++
  (if up then fitTo 40 d.model ++ fitTo 20 d.serial ++ fitTo 8 d.firmware else zeros 68) ++ zeros 4 ++
  leBytes 8 (s.rd Fld.peatGen.lastGen) ++ leBytes 8 (s.getReg Reg.peatJobc).toNat

/-- CNS 2: the link slices. -/
def State.identSlices (s : State) : List Byte :=
  (List.range 42).flatMap (fun n =>
    if s.present n then leBytes 4 (s.view (Reg.lnkStatus n)).toNat ++ leBytes 1 (portOf n) ++ leBytes 1 (dieOf n) ++ zeros 10 else zeros 16)

/-- IDENTIFY. -/
def execIdentify (k : Fin 128) (s : State) : Out :=
  match s.running k 0x80 with
  | none => .next s
  | some c =>
    if !s.inWindow c.addr 4096 then .next (s.ctxEnd k St.outOfWindow 0 0)
    else
      let b := match c.csp 48 with | 0 => s.identEngine | 1 => s.identPeat | _ => s.identSlices
      .next ((s.store' c.addr (fitTo 4096 b)).ctxEnd k St.success 0 0)

/-! ## GET LOG PAGE (R320) -/

/-- Registers of the health page, in the order of the page. -/
def healthRegs : List Nat :=
  [0x410, 0x418, 0x420, 0x428, 0x440, 0x10020, 0x30038, 0x40080, 0x48080, 0x49030, 0x50068, 0x70028, 0x90020, 0xA0010]

/-- Log page 0x03. -/
def State.slotPage (s : State) : List Byte :=
  let r := s.store.record
  fitTo 16 (s.slotVersion false) ++ fitTo 16 (s.slotVersion true) ++
  leBytes 1 (b2n r.marked + 2 * b2n r.aValid + 4 * b2n r.bValid + 8 * b2n (s.boot.phase == .hummock)) ++ leBytes 1 r.failCount ++
  leBytes 2 (s.slotSvn false) ++ leBytes 2 (s.slotSvn true) ++ leBytes 1 s.boot.floorSteps ++ leBytes 1 r.failCause.toNat ++
  leBytes 8 r.startsA.toNat ++ leBytes 8 r.startsB.toNat ++ leBytes 8 r.failed.toNat

/-- An entry of the cut history. -/
def Cut.historyBytes (c : Cut) : List Byte :=
  leBytes 8 c.step.toNat ++ leBytes 1 c.gen.toNat ++ leBytes 1 c.st.code ++ leBytes 1 c.rflags ++ leBytes 2 c.status.toNat ++
  leBytes 1 (b2n (c.half == some true)) ++ zeros 2 ++ leBytes 8 c.sealSec.toNat ++ leBytes 4 c.sealNs.toNat ++ zeros 4

/-- STATE code of a Shard Map entry, by its place in the table of R212; FREE is 0. -/
def MapState.code : MapState → Nat
  | .filling => 1 | .written => 2 | .committed => 3 | .suspect => 4 | .bad => 5

/-- A Shard Map entry (R211). -/
def MapEntry.bytes (e : MapEntry) : List Byte :=
  leBytes 4 e.shard.toNat ++ leBytes 1 (e.tier.toNat + 4 * e.st.code) ++ leBytes 1 e.gen.toNat ++ zeros 2 ++ leBytes 8 e.step.toNat ++
  leBytes 4 e.firstExt ++ leBytes 4 e.extCount ++ leBytes 8 e.loc.toNat

/-- Bytes `off` to `off + n - 1` of the Shard Map page. -/
def State.mapPage (s : State) (off n : Nat) : List Byte :=
  let lo := off / 32
  ((List.range (n / 32 + 2)).flatMap (fun i => match kget s.map (lo + i) with | some e => e.bytes | none => zeros 32)).drop (off % 32) |>.take n

/-- A log page: its size and its bytes in a range. -/
def State.logPage (s : State) (lid : Nat) : Shard :=
  let of (total : Nat) (b : List Byte) : Shard := { total := total, bytes := fun o n => ((fitTo total b).drop o).take n }
  match lid with
  | 1 => of 32768 (s.log.flatMap LogRec.bytes)
  | 2 => of 512 (healthRegs.flatMap (fun r => leBytes 8 (s.view r).toNat))
  | 3 => of 64 s.slotPage
  | 4 => of 2048 (((s.cut.cuts.filter (fun c => !c.refused)).take 64).flatMap Cut.historyBytes)
  | 5 => of 4096 (match s.peat.cat with | some (_, b) => s.unitLoad 0 (slotOff b) 4096 | none => [])
  | 6 => of 512 s.peat.smart
  | 7 => { total := 0x400000, bytes := s.mapPage }
  | _ => of 1024 (s.cmd.relayLog.flatMap (fitTo 16))

/-- GET_LOG_PAGE. -/
def execGetLogPage (k : Fin 128) (s : State) : Out :=
  match s.running k 0x81 with
  | none => .next s
  | some c =>
    let p := s.logPage (c.csp 48)
    if !s.inWindow c.addr c.len then .next (s.ctxEnd k St.outOfWindow 0 0)
    else if p.total < c.off + c.len then .next (s.ctxEnd k St.lengthLong 0 0)
    else .next ((s.store' c.addr (p.bytes c.off c.len)).ctxEnd k St.success 0 0)

/-! ## Features (R321) -/

/-- Value of a feature; the drive's own has none without a drive. -/
def State.feature (s : State) (fid : Nat) : Except Status Nat :=
  match fid with
  | 1 => .ok (s.rd Fld.peatCfg.retain + s.rd Fld.peatCfg.ageMax * 16)
  | 2 => .ok (s.rd Fld.tierFeltCfg.tc3CapPct + s.rd Fld.tierFeltCfg.feltLanes * 256)
  | 3 => .ok (s.rd Fld.tierHbCfg.hbIntervalMs + s.rd Fld.tierHbCfg.missLimit * 256)
  | 4 => .ok s.cmd.scrubCap
  | _ => if s.peat.linkUp then .ok (b2n s.peat.drive.wce) else .error St.peatAbsent

/-- GET_FEATURES. -/
def execGetFeatures (k : Fin 128) (s : State) : Out :=
  match s.running k 0x82 with
  | none => .next s
  | some c =>
    match s.feature (c.csp 48) with
    | .ok v => .next (s.ctxEnd k St.success (v % 2 ^ 32) (v / 2 ^ 32))
    | .error st => .next (s.ctxEnd k st 0 0)

/-- A value is no reserved one of its feature. -/
def featureOk (fid v : Nat) : Bool :=
  match fid with
  | 1 => v < 2 ^ 24 && within 1 8 (bits v 0 4)
  | 2 => v < 2 ^ 14 && !bitAt v 7 && within 1 100 (bits v 0 7) && within 1 32 (bits v 8 6)
  | 3 => v < 2 ^ 12 && within 1 100 (bits v 0 8) && 2 ≤ bits v 8 4
  | 4 => within 1 280 v
  | _ => v < 2

/-- Give a feature a value. -/
def State.setFeature (s : State) (fid v : Nat) : Status × State :=
  match fid with
  | 1 => (St.success, (s.wr Fld.peatCfg.retain (bits v 0 4)).wr Fld.peatCfg.ageMax (bits v 4 20))
  | 2 => (St.success, (s.wr Fld.tierFeltCfg.tc3CapPct (bits v 0 7)).wr Fld.tierFeltCfg.feltLanes (bits v 8 6))
  | 3 => (St.success, (s.wr Fld.tierHbCfg.hbIntervalMs (bits v 0 8)).wr Fld.tierHbCfg.missLimit (bits v 8 4))
  | 4 => (St.success, s.onCmd (fun m => { m with scrubCap := v }))
  | _ =>
    if s.peat.linkUp then (St.success, s.onPeat (fun p => { p with drive := { p.drive with wce := bitAt v 0 } })) else (St.peatAbsent, s)

/-- SET_FEATURES. -/
def execSetFeatures (k : Fin 128) (s : State) : Out :=
  match s.running k 0x83 with
  | none => .next s
  | some c =>
    let v := fieldLE c.entry 56 8
    if !featureOk (c.csp 48) v then .next (s.ctxEnd k St.invalidField 0 0)
    else
      let (st, s) := s.setFeature (c.csp 48) v
      .next (s.ctxEnd k st 0 0)

/-! ## Firmware (R322, R353, R359) -/

/-- FIRMWARE_DOWNLOAD. -/
def execFirmwareDownload (k : Fin 128) (s : State) : Out :=
  match s.running k 0x84 with
  | none => .next s
  | some c =>
    if c.off % 4096 ≠ 0 || c.len % 4096 ≠ 0 || 0x100000 < c.len then .next (s.ctxEnd k St.invalidField 0 0)
    else if !s.inWindow c.addr c.len then .next (s.ctxEnd k St.outOfWindow 0 0)
    else if c.off ≠ 0 && c.off ≠ s.store.dlNext then .next (s.ctxEnd k St.fwSequence 0 0)
    else if 0x100000 < c.off + c.len then .next (s.ctxEnd k St.fwImageSize 0 0)
    else
      let b := s.load c.addr c.len
      .next ((s.onStore (fun t => { t with bytes := Memory.putBytes t.bytes (storeStaging + c.off) b, dlNext := c.off + c.len })).ctxEnd
        k St.success 0 0)

/-- A commit that succeeds in Hummock mode clears FAIL_COUNT (R353). -/
def State.commitEnd (s : State) (k : Nat) : State :=
  let s := if s.boot.phase == .hummock then s.record' (fun r => { r with failCount := 0 }) else s
  s.ctxEnd k St.success 0 0

/-- Verify the staged image and write it to a slot, in the order of R359; mark the slot when the action asks for it. -/
def State.commitImage (s : State) (k : Nat) (slot mark : Bool) : State :=
  if s.boot.phase == .running && s.boot.slot == slot then s.ctxEnd k St.fwSlotActive 0 0
  else
    let st := s.imageVerify storeStaging (some s.store.dlNext)
    if st != St.success then s.ctxEnd k st 0 0
    else
      let s := s.record' (fun r => r.setValid slot false)
      let n := s.store.imageBytes storeStaging
      let s := s.onStore (fun t => { t with bytes := Memory.putBytes t.bytes (storeSlot slot) (Memory.bytesAt t.bytes storeStaging n) })
      let st := s.imageVerify (storeSlot slot) none
      if st != St.success then s.ctxEnd k st 0 0
      else (s.record' (fun r => let r := r.setValid slot true; if mark then { r with marked := slot } else r)).commitEnd k

/-- Mark a slot that is already valid. -/
def State.commitMark (s : State) (k : Nat) (slot : Bool) : State :=
  if !s.store.record.valid slot then s.ctxEnd k St.stateConflict 0 0
  else
    let st := s.imageVerify (storeSlot slot) none
    if st != St.success then s.ctxEnd k st 0 0 else (s.record' (fun r => { r with marked := slot })).commitEnd k

/-- A FIRMWARE COMMIT with an action. -/
def State.commitOf (s : State) (k : Fin 128) (action : Nat) (f : Bool → State) : Out :=
  match s.running k 0x85 with
  | none => .next s
  | some c => if c.csp 49 ≠ action then .next s else .next (f (c.csp 48 == 1))

/-- FIRMWARE_COMMIT. -/
def execFirmwareCommit (k : Fin 128) (s : State) : Out := s.commitOf k 0 (fun b => s.commitImage k b false)
/-- FIRMWARE_COMMIT_AND_MARK. -/
def execFirmwareCommitAndMark (k : Fin 128) (s : State) : Out := s.commitOf k 1 (fun b => s.commitImage k b true)
/-- FIRMWARE_MARK. -/
def execFirmwareMark (k : Fin 128) (s : State) : Out := s.commitOf k 2 (fun b => s.commitMark k b)

end Sys2Proof.Machine
end

