-- ==== Sys2Proof/Machine/Nvme.lean ====
section
/-! DEFINITION. The drive's NVMe controller (R192, R193, R351): what an error, a timeout or a link-down ends, bring-up, the SMART log. -/
namespace Sys2Proof.Machine

/-- Record a failed NVMe command. -/
def State.nvmeErr (s : State) (opcode : Nat) (st : Option NvmeStatus) : State :=
  let s := match st with
    | some x => ((s.wr Fld.peatNvmeErr.sc x.sc.toNat).wr Fld.peatNvmeErr.sct x.sct.toNat).wrB Fld.peatNvmeErr.dnr x.dnr
    | none => s
  ((s.wr Fld.peatNvmeErr.opcode opcode).bump Fld.peatNvmeErr.count).logFw Kind.nvme St.peatIo Unit'.peat

/-- Fail the operation that an NVMe write belongs to. -/
def State.writeFail (s : State) (o : NvmeOwner) (st : Status) : State :=
  match s.peat.drain, o with
  | some d, .drain => s.drainFail d.seq st
  | some d, .reservation => s.drainFail d.seq st
  | some d, .catalogue => if d.step == .catalogue then (s.flushFail st).drainFail d.seq st else s.flushFail st
  | none, _ => s.flushFail st

/-- Running commands that read the drive: READ SHARD, VERIFY, SCRUB at Peat. -/
def Ctx.readsPeat (c : Ctx) : Bool := !c.finished && !c.abandoned && c.tier == 3 && (c.opc == 1 || c.opc == 4 || c.opc == 6)

/-- Running commands that write extents of the drive: WRITE SHARD at Peat. -/
def Ctx.writesPeat (c : Ctx) : Bool := !c.finished && !c.abandoned && c.tier == 3 && c.opc == 2

/-- Inputs of a restore that are being read from the own drive. -/
def State.peatInputs (s : State) : List Input :=
  ([.record, .manifest, .regions] : List Input).filter (fun i =>
    s.rst.work && (s.rst.input i).prov == some (.peat, 0) && !(s.rst.input i).want.isEmpty)

/-- A read of a restore fails: the next source (R240). -/
def State.restoreReadFails (s : State) : State := if s.peatInputs.isEmpty then s else (s.peatErr St.peatIo).switchInputs s.peatInputs

/-- A read of the bring-up fails: the drive is not used (assumption 137), and drains that wait end with PEAT_ABSENT. -/
def State.bringUpFails (s : State) : State :=
  let s := (s.peatErr St.peatIo).onPeat (fun p => { p with st := .failed, pairs := [] })
  (s.cut.cuts.reverse.filter (fun c => c.pinned && c.drainStatus.isNone)).foldl (fun s c => s.drainFail c.seq St.peatAbsent) s

/-- The first command that a test accepts is retried, or fails with PEAT_IO. -/
def State.ctxIo (s : State) (t : Ctx → Bool) (retry : Bool) : State :=
  match s.ctxsWith t with
  | [] => s
  | k :: _ =>
    match s.ctx? k with
    | some c => if retry && !c.retried then s.putCtx k { c with retried := true } else (s.peatErr St.peatIo).ctxEnd k St.peatIo 0 0
    | none => s

/-- Retry once what has no command of its own, or let it fail. -/
def State.retryOr (s : State) (retry : Bool) (f : State → State) : State :=
  if retry && !s.peat.retried then s.onPeat (fun p => { p with retried := true }) else f (s.onPeat (fun p => { p with retried := false }))

/-- Opcodes of the commands that the engine issues (R192): of the admin queue and of the I/O queues. -/
def nvmeAdmin : List Nat := [0x00, 0x01, 0x02, 0x04, 0x05, 0x06, 0x09, 0x0A, 0x0C]
def nvmeIo : List Nat := [0x00, 0x01, 0x02, 0x09]

/-- The engine has issued a command of this opcode: while the controller is brought up any of its commands and reads, then I/O commands and the
admin commands that go on (log pages, features, events). -/
def State.nvmeIssued (s : State) (opcode : Nat) : Bool :=
  if s.peat.st == .init then (nvmeAdmin ++ nvmeIo).contains opcode else (nvmeIo ++ [0x06, 0x0A, 0x0C]).contains opcode

/-- Retry or fail the operation that an NVMe command of an opcode belongs to: while the drive is brought up, the bring-up; else of several
operations the one that the order below names first (assumption 148). -/
def State.nvmeFail (s : State) (opcode : Nat) (retry : Bool) : State :=
  if s.peat.st == .init then s.retryOr retry State.bringUpFails
  else match opcode with
  | 0x01 =>
    match s.peat.nvme with
    | w :: t =>
      if retry && !w.retried then s.onPeat (fun p => { p with nvme := { w with retried := true } :: t }) else (s.tear (· == w.owner)).writeFail w.owner St.peatIo
    | [] => s.ctxIo Ctx.writesPeat retry
  | 0x00 =>
    if s.peat.flushing then s.retryOr retry (fun s => s.flushFail St.peatIo)
    else match s.peat.drain with
    | some d =>
      if d.step != .flush then s
      else if retry && !d.retried then s.onPeat (fun p => { p with drain := some { d with retried := true } })
      else s.drainFail d.seq St.peatIo
    | none => s
  | 0x02 => if (s.ctxsWith Ctx.readsPeat).isEmpty then s.retryOr retry State.restoreReadFails else s.ctxIo Ctx.readsPeat retry
  | _ => s

/-- NVME_COMMAND_ERROR: a command that the engine does not use (R192) cannot complete. -/
def doNvmeCommandError (opcode : BitVec 8) (st : NvmeStatus) (s : State) : Out :=
  if !s.powered || !s.peat.linkUp || !s.nvmeIssued opcode.toNat then .next s
  else .next ((s.nvmeErr opcode.toNat (some st)).nvmeFail opcode.toNat (!st.dnr))

/-- Every operation in progress on the port fails, and the drive is brought up again; a port that ENABLE = 0 only kept for what was in progress
idles. -/
def State.peatAgain (s : State) : State :=
  let s := s.tear (fun _ => true)
  let s := match s.peat.drain with | some d => s.drainFail d.seq St.peatIo | none => s
  let s := if s.catBusy || !s.peat.taking.isEmpty then s.flushFail St.peatIo else s
  let s := (s.ctxsWith (fun c => c.readsPeat || c.writesPeat)).foldl (fun s k => (s.peatErr St.peatIo).ctxEnd k St.peatIo 0 0) s
  let s := s.restoreReadFails.onPeat (fun p =>
    { p with nvme := [], pairs := [], retried := false, drive := { p.drive with ready := false } })
  if s.rdB Fld.peatCtrl.enable then s.onPeat (fun p => { p with st := .init, initTick := s.now }) else s.peatIdle

/-- NVME_TIMEOUT: the operation fails; the controller is reset by clearing CC.EN and initialised again, which ends every other operation too. -/
def doNvmeTimeout (opcode : BitVec 8) (s : State) : Out :=
  if !s.powered || !s.peat.linkUp || !s.nvmeIssued opcode.toNat then .next s
  else .next ((s.nvmeErr opcode.toNat none).nvmeFail opcode.toNat false).peatAgain

/-- PEAT_LINK_DOWN: every operation in progress fails; the link is down until it has trained again. -/
def doPeatLinkDown (s : State) : Out :=
  if !s.powered || !s.peat.linkUp then .next s else .next (s.peatAgain.onPeat (fun p => { p with linkUp := false }))

/-- SMART_LOG_POLL: the SMART/health log as read (R192). -/
def execSmartLogPoll (page : List Byte) (s : State) : Out :=
  if !s.fw || !s.peat.linkUp then .next s else .next (s.onPeat (fun p => { p with smart := fitTo 512 page }))

/-- PEAT_DRIVE_READY: the link has trained, which a link that was down does first (R36), and the drive is ready; the catalogue is read. -/
def execPeatDriveReady (s : State) : Out :=
  if !s.powered || s.peat.st != .init then .next s
  else
    let s := if s.peat.linkUp then s else s.trained
    if s.peat.st != .init then .next s
    else .next ((s.onPeat (fun p => { p with drive := { p.drive with ready := true } })).classify)

/-- PEAT_READY_TIMEOUT: STATE becomes FAILED; drains that wait end with PEAT_ABSENT. -/
def doPeatReadyTimeout (s : State) : Out :=
  if !s.powered || s.peat.st != .init then .next s
  else
    let s := s.onPeat (fun p => { p with st := .failed, pairs := [] })
    .next ((s.cut.cuts.reverse.filter (fun c => c.pinned && c.drainStatus.isNone)).foldl (fun s c => s.drainFail c.seq St.peatAbsent) s)

end Sys2Proof.Machine
end

