-- ==== Sys2Proof/Machine/Takeover.lean ====
section
/-! DEFINITION. A takeover as one engine sees it (R235 to R237): the spare that is installed, the rack Warden that directs it, and the
members whose registers named the old position. -/
namespace Sys2Proof.Machine

/-! ## The spare (R235 steps 3, 4, 6; R275) -/

/-- One register that the Warden writes on the spare; CGM_RED_CHn_STATUS stands for NEXT_SEQ of the channel. -/
def State.installReg (s : State) (r : RegValue) : State :=
  let off := r.off.toNat
  if regCanon off = 0x11038 then
    let ch := copyIdx off
    let q := BitVec.ofNat 32 r.value.toNat
    s.putChan ch { s.chan ch with nextSeq := q, nextIssue := q }
  else match regRow? off with
    | some row => if s.stages off then s.cfgInstall off row.fields r.value.toNat else s.writeReg off row.bytes r.value.toNat
    | none => s.accessError off 8 true

/-- Install this standby spare as the failed rank: it is halted in the job's epoch until its state is back. -/
def State.install (s : State) (t : Takeover) : State :=
  let s := ((s.wr Fld.tierIdent.rank t.rank.toNat).wr Fld.tierIdent.rack t.rack.toNat).wr Fld.tierIdent.position t.sparePos.toNat
  let s := s.onRst (fun r =>
    { r with
      st := .halted, role := .spare, fenced := false, epoch := t.epoch, liveClean := false, corrupt := false, majority := [], faulted := false,
      oldPos := some (t.rack, t.oldPos), queries := [], work := false, done := {}, recIn := {}, manIn := {}, dataIn := {}, lastStatus := 0 })
  t.config.foldl State.installReg (s.barsHalt true t.epoch)

/-! ## The rack Warden (R235 steps 1 and 2, R236) -/

/-- The lowest position of this rack that stands by. -/
def State.lowestSpare (s : State) : Option Nat :=
  (s.warden.members.filter (fun m => m.rack == s.myRack && m.standby && m.cls != .failed)).foldl
    (fun a m => match a with | some p => some (min p m.pos.toNat) | none => some m.pos.toNat) none

/-- This engine is the rack's Warden, and this takeover is the one that it makes next. -/
def State.directs (s : State) (t : Takeover) : Bool :=
  s.isWarden && s.myRack == t.rack && s.warden.job == .restoring && s.warden.takeovers != 0 && s.lowestSpare == some t.sparePos.toNat &&
  s.warden.members.any (fun m => m.rack == t.rack && m.pos == t.oldPos && m.cls == .failed)

/-- Fence the old position and take the spare. -/
def State.direct (s : State) (t : Takeover) : State :=
  let s := s.sendTo t.rack t.oldPos Ty.fence (s.rstFrame 0 0 (leBytes 4 t.rank.toNat ++ zeros 4))
  let s := s.onWarden (fun w => { w with takeovers := w.takeovers - 1 })
  match s.member? t.rack t.sparePos with
  | some m => s.putMember { m with standby := false, spare := true }
  | none => s

/-! ## The members (R235 step 5, R237) -/

/-- Rewrite every field of the channels and of the replica group that named the old position. -/
def State.renameChannels (s : State) (t : Takeover) : State :=
  let o := t.oldPos.toNat
  let n := t.sparePos.toNat
  let fo := t.rack.toNat * 128 + o
  let fn := t.rack.toNat * 128 + n
  let here := s.myRack == t.rack
  let chan (s : State) (ch : Nat) : State :=
    let s := if here then
        let s := (s.cfgRename (Fld.redChCfg.nextPos ch) o n).cfgRename (Fld.redChCfg.prevPos ch) o n
        if s.cfgRd (Fld.redChBackup.backupEn ch) = 1 then s.cfgRename (Fld.redChBackup.backupPos ch) o n else s
      else s
    let k := s.cfgRd (Fld.redChRepl.count ch)
    let s := if 0 < k then s.cfgRename (Fld.redChRepl.holder0 ch) fo fn else s
    let s := if 1 < k then s.cfgRename (Fld.redChRepl.holder1 ch) fo fn else s
    if 2 < k then s.cfgRename (Fld.redChRepl.holder2 ch) fo fn else s
  let s := (List.range 32).foldl chan s
  let k := s.rd Fld.tierCutRepl.count
  let s := if 0 < k then s.rename Fld.tierCutRepl.member0 fo fn else s
  let s := if 1 < k then s.rename Fld.tierCutRepl.member1 fo fn else s
  if 2 < k then s.rename Fld.tierCutRepl.member2 fo fn else s

/-- Rebind the owner slots that served the old position: the sets stay as they are. -/
def State.rebind (s : State) (t : Takeover) : State :=
  (List.range 4).foldl (fun s i =>
    if s.rdB (Fld.tierOwner.valid i) && s.rd (Fld.tierOwner.rack i) = t.rack.toNat && s.rd (Fld.tierOwner.position i) = t.oldPos.toNat then
      s.wr (Fld.tierOwner.position i) t.sparePos.toNat
    else s) s

/-- The host of this owner's sets is lost: the spare is the new one, and the owner is unhosted. -/
def State.rehost (s : State) (t : Takeover) : State :=
  if s.rdB Fld.tierPartner.valid && s.rd Fld.tierPartner.rack = t.rack.toNat && s.rd Fld.tierPartner.position = t.oldPos.toNat then
    let s := s.wr Fld.tierPartner.position t.sparePos.toNat
    let s := s.mapDrop (fun e => e.tier == 0)
    s.onCut (fun u => { u with unhosted := true, cuts := u.cuts.map (fun c => { c with accepted := false, atSet := false }) })
  else s

/-- Rewrite the entries of the member table that named the old position (R278). -/
def State.renameMembers (s : State) (t : Takeover) : State :=
  let base := s.rdAddr Fld.synMemberTab.base
  if base = 0 then s
  else (List.range 128).foldl (fun s i =>
    if s.memberAt i == (t.rack, t.oldPos) then
      s.store' (base + 8 * i) (leBytes 8 (putBits (s.loadN (base + 8 * i) 8) 10 7 t.sparePos.toNat))
    else s) s

/-- What the Warden rewrites on a member. A takeover says that the old position has been declared failed: what is asked of it turns elsewhere
(R240). -/
def State.renamed (s : State) (t : Takeover) : State :=
  ((((s.sourceLost t.rack t.oldPos).renameChannels t).renameMembers t).rebind t).rehost t

/-- TAKEOVER: on the spare, on the Warden of the rack, or on another engine that is halted in the same epoch. -/
def doTakeover (t : Takeover) (s : State) : Out :=
  if !s.fw || s.isMe t.rack t.oldPos then .next s
  else if s.isMe t.rack t.sparePos then
    if s.standby then .next (s.install t) else .next s
  else if !s.halted || t.epoch != s.rst.epoch then .next s
  else if s.isWarden && s.myRack == t.rack then
    if s.directs t then .next ((s.direct t).renamed t) else .next s
  else .next (s.renamed t)

end Sys2Proof.Machine
end

