-- ==== Sys2Proof/Machine/Settle.lean ====
section
/-! DEFINITION. What follows from a command in the same step: results of barrier episodes reach the engine functions that arrived, waiting
arrivals start their own episodes, commands whose work has ended answer; and the meaning of every command of which that can follow. -/
namespace Sys2Proof.Machine

/-! ## Results of barriers (R102, R133, R174, R203, R230, R245) -/

/-- Hand the result of an episode to the function that arrived. -/
def State.giveResult (s : State) (fn : BarFn) (st : Status) (res : Option (W64 × W64)) : State :=
  match fn, res with
  | .software, _ => s
  | .vote step, some r => s.gateOpen step r.1 r.2
  | .vote step, none => s.gateFail step st
  | .commit seq, some r => s.commitResult seq r.2
  | .commit _, none => s.cutFlush
  | .peat seq, some r => s.peatResult seq r.2
  | .peat seq, none =>
    match s.findCut seq with
    | some c => s.peatNextEnd seq (c.drainStatus.getD c.status)
    | none => s
  | .plan, _ => s.planResult st ((res.map (fun r => r.2)).getD 0)
  | .release, some _ => if s.isWarden then s.released.wardenReleased else s.released
  | .release, none => s

/-- Arrivals that waited behind an episode that has ended start their own (R273). -/
def State.barsNext (s : State) : State := (List.range 20).foldl State.barNext s

/-- Hand out the first result that waits. -/
def State.giveFirst (s : State) : State :=
  match s.syn.results with
  | [] => s
  | x :: t => (s.onSyn (fun y => { y with results := t })).giveResult x.1 x.2.1 x.2.2

/-- Hand out every result, at most as many as the fuel says. -/
def State.giveN : Nat → State → State
  | 0, s => s
  | n + 1, s => if s.barsNext.syn.results.isEmpty then s.barsNext else State.giveN n s.barsNext.giveFirst

/-! ## Commands that end with the work of another unit -/

/-- RESTORE ends with the restore: SUCCESS once this engine runs again, NO_SOURCE or NO_SPARE when the job has to wait again (R318). -/
def State.restoreEnd (s : State) : State :=
  match s.rst.restoreCtx with
  | none => s
  | some k =>
    let done (st : Status) : State := (s.onRst (fun r => { r with restoreCtx := none })).ctxEnd k st 0 0
    if s.rst.st == .running then done St.success
    else if s.rst.st == .waiting then done (if s.rst.elastic then s.rst.lastStatus else St.noSource)
    else if !s.rst.elastic && s.warden.job == .waiting then done St.noSpare
    else s

/-- CUT PEAT_NEXT whose cut has ended before any drain of it ends with the cut (R317). -/
def State.peatNextFinal (s : State) : State :=
  match s.cut.peatNext with
  | some (_, _, some seq) =>
    match s.findCut seq with
    | some c => if c.st.isFinal && !c.pinned && c.drainStatus.isNone then s.peatNextEnd seq c.status else s
    | none => s
  | _ => s

/-- A catalogue write that a FLUSH or a SCRUB wants begins once none runs (R312). -/
def State.flushLate (s : State) : State := if s.peat.flushDue then s.flushBegin else s

/-- The Warden acts on its own engine's bucket abort as on a member's (R104, R225). -/
def State.ownAborts (s : State) : State :=
  if !s.red.ownAbort then s
  else
    let s : State := { s with red := { s.red with ownAbort := false } }
    if s.isWarden && s.warden.job == .normal then s.react else s

/-- Everything that follows from a command at once. -/
def State.settle (s : State) : State :=
  let s := (s.ownAborts.cutFlush.giveN 256).chosenLate.leadReplans
  ((s.giveN 256).restoreEnd.peatNextFinal).flushLate

/-- A command's outcome, settled. -/
def settled (o : Out) : Out :=
  match o with
  | .next s => .next s.settle
  | .fault f => .fault f
  | .refused r => .refused r

/-! ## The meanings -/

/-- REGISTER_WRITE. -/
def execRegisterWrite (off : BitVec 20) (width : AccWidth) (value : W64) (s : State) : Out := settled (doRegisterWrite off width value s)
/-- MEMORY_READ_UNCORRECTABLE. -/
def execMemoryReadUncorrectable (task : TaskId) (addr : BitVec 48) (s : State) : Out := settled (doMemoryReadUncorrectable task addr s)
/-- PFAIL_HOLD_EXPIRY. -/
def execPfailHoldExpiry (s : State) : Out := settled (doPfailHoldExpiry s)
/-- SLICE_BUFFER_ERROR. -/
def execSliceBufferError (n : Fin 42) (s : State) : Out := settled (doSliceBufferError n s)
/-- LNK_CTRL_CLOSE. -/
def execLnkCtrlClose (n : Fin 42) (s : State) : Out := settled (doLnkCtrlClose n s)
/-- SPEED_SAMPLE. -/
def execSpeedSample (r : SpeedReading) (s : State) : Out := settled (doSpeedSample r s)
/-- THERMAL_HOLD_RELEASE. -/
def execThermalHoldRelease (tj : BitVec 11) (s : State) : Out := settled (doThermalHoldRelease tj s)
/-- BUCKET_ISSUE. -/
def execBucketIssue (ch : Fin 32) (s : State) : Out := settled (doBucketIssue ch s)
/-- BUCKET_START. -/
def execBucketStart (ch : Fin 32) (s : State) : Out := settled (doBucketStart ch s)
/-- REDUCE_PARTIAL_FRAME. -/
def execReducePartialFrame (n : Fin 42) (f : Frame) (s : State) : Out := settled (doReducePartialFrame n f s)
/-- RESULT_COPY_FRAME. -/
def execResultCopyFrame (n : Fin 42) (f : Frame) (s : State) : Out := settled (doResultCopyFrame n f s)
/-- ALL_GATHER_DATA_FRAME. -/
def execAllGatherDataFrame (n : Fin 42) (f : Frame) (s : State) : Out := settled (doAllGatherDataFrame n f s)
/-- FETCH_REQUEST_FRAME. -/
def execFetchRequestFrame (n : Fin 42) (f : Frame) (s : State) : Out := settled (doFetchRequestFrame n f s)
/-- FETCH_DATA_FRAME. -/
def execFetchDataFrame (n : Fin 42) (f : Frame) (s : State) : Out := settled (doFetchDataFrame n f s)
/-- BUCKET_ABORT_NOTICE. -/
def execBucketAbortNotice (n : Fin 42) (f : Frame) (s : State) : Out := settled (doBucketAbortNotice n f s)
/-- DROP_NOTICE. -/
def execDropNotice (n : Fin 42) (f : Frame) (s : State) : Out := settled (doDropNotice n f s)
/-- MCAST_ACK. -/
def execMcastAck (ch : Fin 32) (seq : W32) (port : Fin 36) (pos : BitVec 7) (bytes : Nat) (last : Bool) (s : State) : Out := settled (doMcastAck ch seq port pos bytes last s)
/-- MCAST_STALL_EXPIRY. -/
def execMcastStallExpiry (ch : Fin 32) (port : Fin 36) (pos : BitVec 7) (race : Race) (s : State) : Out := settled (doMcastStallExpiry ch port pos race s)
/-- BUCKET_COMPLETE. -/
def execBucketComplete (ch : Fin 32) (s : State) : Out := settled (doBucketComplete ch s)
/-- REDUCTION_STREAM_WATCHDOG. -/
def execReductionStreamWatchdog (ch : Fin 32) (race : Race) (s : State) : Out := settled (doReductionStreamWatchdog ch race s)
/-- CONTRIB_WATCHDOG_EXPIRY. -/
def execContribWatchdogExpiry (ch : Fin 32) (race : Race) (s : State) : Out := settled (doContribWatchdogExpiry ch race s)
/-- VOTE_ARRIVAL. -/
def execVoteArrival (s : State) : Out := settled (doVoteArrival s)
/-- FULLING_TASK_ISSUE. -/
def execFullingTaskIssue (q : Fin 4) (s : State) : Out := settled (doFullingTaskIssue q s)
/-- FULLING_WAIT_SATISFIED. -/
def execFullingWaitSatisfied (q : Fin 4) (s : State) : Out := settled (doFullingWaitSatisfied q s)
/-- GATE_TASK_PROCEED. -/
def execGateTaskProceed (q : Fin 4) (s : State) : Out := settled (doGateTaskProceed q s)
/-- LANE_TAKES_BLOCK. -/
def execLaneTakesBlock (lane : Fin 192) (q : Fin 4) (b : Nat) (s : State) : Out := settled (doLaneTakesBlock lane q b s)
/-- DIRECT_PIECE_BIND. -/
def execDirectPieceBind (p : Fin 8) (s : State) : Out := settled (doDirectPieceBind p s)
/-- FULLING_STREAM_WATCHDOG. -/
def execFullingStreamWatchdog (q : Fin 4) (race : Race) (s : State) : Out := settled (doFullingStreamWatchdog q race s)
/-- FULLING_TASK_COMPLETE. -/
def execFullingTaskComplete (q : Fin 4) (s : State) : Out := settled (doFullingTaskComplete q s)
/-- CUT_OPEN. -/
def execCutOpen (s : State) : Out := settled (doCutOpen s)
/-- CUT_REPLY. -/
def execCutReply (n : Fin 42) (f : Frame) (s : State) : Out := settled (doCutReply n f s)
/-- CUT_SEAL. -/
def execCutSeal (s : State) : Out := settled (doCutSeal s)
/-- FELTING_SCHEDULE. -/
def execFeltingSchedule (s : State) : Out := settled (doFeltingSchedule s)
/-- FELTING_DONE. -/
def execFeltingDone (s : State) : Out := settled (doFeltingDone s)
/-- FELT_ACK_TIMEOUT. -/
def execFeltAckTimeout (tag : BitVec 20) (s : State) : Out := settled (doFeltAckTimeout tag s)
/-- KEEP_REPORT. -/
def execKeepReport (n : Fin 42) (f : Frame) (s : State) : Out := settled (doKeepReport n f s)
/-- KEEP_WATCHDOG_EXPIRY. -/
def execKeepWatchdogExpiry (s : State) : Out := settled (doKeepWatchdogExpiry s)
/-- DIGEST_FRAME. -/
def execDigestFrame (n : Fin 42) (f : Frame) (s : State) : Out := settled (doDigestFrame n f s)
/-- XCHG_WATCHDOG_EXPIRY. -/
def execXchgWatchdogExpiry (race : Race) (s : State) : Out := settled (doXchgWatchdogExpiry race s)
/-- COMMIT_RECORD_ACK. -/
def execCommitRecordAck (s : State) : Out := settled (doCommitRecordAck s)
/-- CUT_ENABLE. -/
def execCutEnable (value : BitVec 32) (s : State) : Out := settled (doCutEnable value s)
/-- CUT_DISABLE. -/
def execCutDisable (value : BitVec 32) (s : State) : Out := settled (doCutDisable value s)
/-- PEAT_ENABLE. -/
def execPeatEnable (value : BitVec 32) (s : State) : Out := settled (doPeatEnable value s)
/-- PEAT_DISABLE. -/
def execPeatDisable (value : BitVec 32) (s : State) : Out := settled (doPeatDisable value s)
/-- PEAT_FORMAT. -/
def execPeatFormat (value : BitVec 32) (s : State) : Out := settled (doPeatFormat value s)
/-- DRAIN_RESERVATION_DONE. -/
def execDrainReservationDone (s : State) : Out := settled (doDrainReservationDone s)
/-- DRAIN_WRITES_DONE. -/
def execDrainWritesDone (s : State) : Out := settled (doDrainWritesDone s)
/-- DRAIN_FLUSH_DONE. -/
def execDrainFlushDone (s : State) : Out := settled (doDrainFlushDone s)
/-- DRAIN_CATALOGUE_DONE. -/
def execDrainCatalogueDone (s : State) : Out := settled (doDrainCatalogueDone s)
/-- NVME_COMMAND_ERROR. -/
def execNvmeCommandError (opcode : BitVec 8) (st : NvmeStatus) (s : State) : Out := settled (doNvmeCommandError opcode st s)
/-- NVME_TIMEOUT. -/
def execNvmeTimeout (opcode : BitVec 8) (s : State) : Out := settled (doNvmeTimeout opcode s)
/-- PEAT_LINK_DOWN. -/
def execPeatLinkDown (s : State) : Out := settled (doPeatLinkDown s)
/-- PEAT_READY_TIMEOUT. -/
def execPeatReadyTimeout (s : State) : Out := settled (doPeatReadyTimeout s)
/-- HEARTBEAT_FRAME. -/
def execHeartbeatFrame (n : Fin 42) (f : Frame) (s : State) : Out := settled (doHeartbeatFrame n f s)
/-- HEARTBEAT_MISS. -/
def execHeartbeatMiss (rack : BitVec 10) (pos : BitVec 7) (s : State) : Out := settled (doHeartbeatMiss rack pos s)
/-- ENGINE_NOTICE. -/
def execEngineNotice (n : Fin 42) (f : Frame) (s : State) : Out := settled (doEngineNotice n f s)
/-- HALT. -/
def execHalt (n : Fin 42) (f : Frame) (s : State) : Out := settled (doHalt n f s)
/-- CANDIDATE. -/
def execCandidate (n : Fin 42) (f : Frame) (s : State) : Out := settled (doCandidate n f s)
/-- TAKEOVER. -/
def execTakeover (t : Takeover) (s : State) : Out := settled (doTakeover t s)
/-- FENCE_FRAME. -/
def execFenceFrame (n : Fin 42) (f : Frame) (s : State) : Out := settled (doFenceFrame n f s)
/-- ROLLBACK_COMPLETE. -/
def execRollbackComplete (s : State) : Out := settled (doRollbackComplete s)
/-- REFILL_COMPLETE. -/
def execRefillComplete (s : State) : Out := settled (doRefillComplete s)
/-- REFILL_WATCHDOG_EXPIRY. -/
def execRefillWatchdogExpiry (race : Race) (s : State) : Out := settled (doRefillWatchdogExpiry race s)
/-- VERIFY_COMPLETE. -/
def execVerifyComplete (s : State) : Out := settled (doVerifyComplete s)
/-- BARRIER_ARRIVE. -/
def execBarrierArrive (b : Fin 20) (s : State) : Out := settled (doBarrierArrive b s)
/-- BARRIER_ARRIVAL_FRAME. -/
def execBarrierArrivalFrame (n : Fin 42) (f : Frame) (s : State) : Out := settled (doBarrierArrivalFrame n f s)
/-- TREE_ARRIVAL_UP. -/
def execTreeArrivalUp (n : Fin 42) (f : Frame) (s : State) : Out := settled (doTreeArrivalUp n f s)
/-- TREE_COMPLETION. -/
def execTreeCompletion (n : Fin 42) (f : Frame) (s : State) : Out := settled (doTreeCompletion n f s)
/-- BARRIER_ABORT_FRAME. -/
def execBarrierAbortFrame (n : Fin 42) (f : Frame) (s : State) : Out := settled (doBarrierAbortFrame n f s)
/-- BARRIER_TIMEOUT. -/
def execBarrierTimeout (b : Fin 20) (race : Race) (s : State) : Out := settled (doBarrierTimeout b race s)
/-- BARRIER_ENABLE. -/
def execBarrierEnable (b : Fin 20) (value : W64) (s : State) : Out := settled (doBarrierEnable b value s)
/-- BARRIER_DISABLE. -/
def execBarrierDisable (b : Fin 20) (value : W64) (s : State) : Out := settled (doBarrierDisable b value s)
/-- FLUSH. -/
def execFlush (k : Fin 128) (s : State) : Out := settled (doFlush k s)
/-- SCRUB. -/
def execScrub (k : Fin 128) (s : State) : Out := settled (doScrub k s)
/-- RESTORE. -/
def execRestore (k : Fin 128) (s : State) : Out := settled (doRestore k s)
/-- RESTORE_ELASTIC. -/
def execRestoreElastic (k : Fin 128) (s : State) : Out := settled (doRestoreElastic k s)
/-- BOOT_ROM_START. -/
def execBootRomStart (check : RomCheck) (s : State) : Out := settled (doBootRomStart check s)
/-- START_OK. -/
def execStartOk (t : TableCheck) (s : State) : Out := settled (doStartOk t s)
/-- START_WATCHDOG_EXPIRY. -/
def execStartWatchdogExpiry (s : State) : Out := settled (doStartWatchdogExpiry s)
/-- CORE_WATCHDOG_EXPIRY. -/
def execCoreWatchdogExpiry (core : Fin 4) (s : State) : Out := settled (doCoreWatchdogExpiry core s)
/-- SRAM_UNCORRECTABLE. -/
def execSramUncorrectable (sram : Sram) (word : W32) (s : State) : Out := settled (doSramUncorrectable sram word s)
/-- ELECTION_TIMER. -/
def execElectionTimer (s : State) : Out := settled (doElectionTimer s)
/-- ACTIVATION_RESET. -/
def execActivationReset (s : State) : Out := settled (doActivationReset s)
/-- POWER_FAIL_DEADLINE. -/
def execPowerFailDeadline (limit : PfailLimit) (s : State) : Out := settled (doPowerFailDeadline limit s)

end Sys2Proof.Machine
end

