-- ==== Sys2Proof/Machine/Dispatch.lean ====
section
/-! DEFINITION. The effect of each command on everything but the queue: one arm per constructor. -/
namespace Sys2Proof.Machine

def exec (i : Instr) (s : State) : Host.Outcome State Fault Refusal :=
  match i with
  | .registerWrite off width value => Sys2Proof.Machine.execRegisterWrite off width value s
  | .rcRegisterRead off width => Sys2Proof.Machine.execRcRegisterRead off width s
  | .powerGoodRise => Sys2Proof.Machine.execPowerGoodRise s
  | .powerGoodFall => Sys2Proof.Machine.execPowerGoodFall s
  | .coldReset => Sys2Proof.Machine.execColdReset s
  | .warmReset => Sys2Proof.Machine.execWarmReset s
  | .ctlResetEngine => Sys2Proof.Machine.execCtlResetEngine s
  | .memoryReadUncorrectable task addr => Sys2Proof.Machine.execMemoryReadUncorrectable task addr s
  | .pfailNAssert ns => Sys2Proof.Machine.execPfailNAssert ns s
  | .pfailNDeassert ns => Sys2Proof.Machine.execPfailNDeassert ns s
  | .pfailHoldExpiry => Sys2Proof.Machine.execPfailHoldExpiry s
  | .holdupOkChange level ns => Sys2Proof.Machine.execHoldupOkChange level ns s
  | .sliceBufferError n => Sys2Proof.Machine.execSliceBufferError n s
  | .lnkCtrlClose n => Sys2Proof.Machine.execLnkCtrlClose n s
  | .causewayClosed n => Sys2Proof.Machine.execCausewayClosed n s
  | .lnkCtrlOpen n => Sys2Proof.Machine.execLnkCtrlOpen n s
  | .causewayOpen n => Sys2Proof.Machine.execCausewayOpen n s
  | .bx3FramePass n dir frame => Sys2Proof.Machine.execBx3FramePass n dir frame s
  | .speedSample r => Sys2Proof.Machine.execSpeedSample r s
  | .thermalHoldRelease tj => Sys2Proof.Machine.execThermalHoldRelease tj s
  | .bucketIssue ch => Sys2Proof.Machine.execBucketIssue ch s
  | .bucketStart ch => Sys2Proof.Machine.execBucketStart ch s
  | .reducePartialFrame n f => Sys2Proof.Machine.execReducePartialFrame n f s
  | .resultCopyFrame n f => Sys2Proof.Machine.execResultCopyFrame n f s
  | .allGatherDataFrame n f => Sys2Proof.Machine.execAllGatherDataFrame n f s
  | .fetchRequestFrame n f => Sys2Proof.Machine.execFetchRequestFrame n f s
  | .fetchDataFrame n f => Sys2Proof.Machine.execFetchDataFrame n f s
  | .bucketAbortNotice n f => Sys2Proof.Machine.execBucketAbortNotice n f s
  | .dropNotice n f => Sys2Proof.Machine.execDropNotice n f s
  | .mcastAck ch seq port rcvPos bytes last => Sys2Proof.Machine.execMcastAck ch seq port rcvPos bytes last s
  | .mcastStallExpiry ch port rcvPos race => Sys2Proof.Machine.execMcastStallExpiry ch port rcvPos race s
  | .bucketComplete ch => Sys2Proof.Machine.execBucketComplete ch s
  | .reductionStreamWatchdog ch race => Sys2Proof.Machine.execReductionStreamWatchdog ch race s
  | .contribWatchdogExpiry ch race => Sys2Proof.Machine.execContribWatchdogExpiry ch race s
  | .linkLastAck tag => Sys2Proof.Machine.execLinkLastAck tag s
  | .tagQuarantineExpiry tag => Sys2Proof.Machine.execTagQuarantineExpiry tag s
  | .voteArrival => Sys2Proof.Machine.execVoteArrival s
  | .redChEnable ch value => Sys2Proof.Machine.execRedChEnable ch value s
  | .redChDisable ch value => Sys2Proof.Machine.execRedChDisable ch value s
  | .fullingTaskIssue q => Sys2Proof.Machine.execFullingTaskIssue q s
  | .fullingWaitSatisfied q => Sys2Proof.Machine.execFullingWaitSatisfied q s
  | .gateTaskProceed q => Sys2Proof.Machine.execGateTaskProceed q s
  | .laneTakesBlock lane q block => Sys2Proof.Machine.execLaneTakesBlock lane q block s
  | .directPieceBind port => Sys2Proof.Machine.execDirectPieceBind port s
  | .fullingStreamWatchdog q race => Sys2Proof.Machine.execFullingStreamWatchdog q race s
  | .fullingTaskComplete q => Sys2Proof.Machine.execFullingTaskComplete q s
  | .progBegin slot => Sys2Proof.Machine.execProgBegin slot s
  | .progDataWord word => Sys2Proof.Machine.execProgDataWord word s
  | .progCommit slot => Sys2Proof.Machine.execProgCommit slot s
  | .progUnload slot => Sys2Proof.Machine.execProgUnload slot s
  | .cutOpen => Sys2Proof.Machine.execCutOpen s
  | .cutNotice n f => Sys2Proof.Machine.execCutNotice n f s
  | .cutReply n f => Sys2Proof.Machine.execCutReply n f s
  | .scheduleRecordLatch => Sys2Proof.Machine.execScheduleRecordLatch s
  | .sumpCopyDone => Sys2Proof.Machine.execSumpCopyDone s
  | .cutSeal => Sys2Proof.Machine.execCutSeal s
  | .feltingSchedule => Sys2Proof.Machine.execFeltingSchedule s
  | .feltRegionComplete lane => Sys2Proof.Machine.execFeltRegionComplete lane s
  | .feltingDone => Sys2Proof.Machine.execFeltingDone s
  | .feltData n f => Sys2Proof.Machine.execFeltData n f s
  | .feltAck n f => Sys2Proof.Machine.execFeltAck n f s
  | .feltAckTimeout tag => Sys2Proof.Machine.execFeltAckTimeout tag s
  | .setRelease n f => Sys2Proof.Machine.execSetRelease n f s
  | .keepReport n f => Sys2Proof.Machine.execKeepReport n f s
  | .keepWatchdogExpiry => Sys2Proof.Machine.execKeepWatchdogExpiry s
  | .digestFrame n f => Sys2Proof.Machine.execDigestFrame n f s
  | .xchgWatchdogExpiry race => Sys2Proof.Machine.execXchgWatchdogExpiry race s
  | .commitRecordAck => Sys2Proof.Machine.execCommitRecordAck s
  | .cutEnable value => Sys2Proof.Machine.execCutEnable value s
  | .cutDisable value => Sys2Proof.Machine.execCutDisable value s
  | .peatEnable value => Sys2Proof.Machine.execPeatEnable value s
  | .peatDisable value => Sys2Proof.Machine.execPeatDisable value s
  | .peatFormat value => Sys2Proof.Machine.execPeatFormat value s
  | .drainReservationDone => Sys2Proof.Machine.execDrainReservationDone s
  | .drainWritesDone => Sys2Proof.Machine.execDrainWritesDone s
  | .drainFlushDone => Sys2Proof.Machine.execDrainFlushDone s
  | .drainCatalogueDone => Sys2Proof.Machine.execDrainCatalogueDone s
  | .nvmeCommandError opcode st => Sys2Proof.Machine.execNvmeCommandError opcode st s
  | .nvmeTimeout opcode => Sys2Proof.Machine.execNvmeTimeout opcode s
  | .peatLinkDown => Sys2Proof.Machine.execPeatLinkDown s
  | .smartLogPoll page => Sys2Proof.Machine.execSmartLogPoll page s
  | .peatDriveReady => Sys2Proof.Machine.execPeatDriveReady s
  | .peatReadyTimeout => Sys2Proof.Machine.execPeatReadyTimeout s
  | .pinExported n value => Sys2Proof.Machine.execPinExported n value s
  | .keyBegin slot kind len => Sys2Proof.Machine.execKeyBegin slot kind len s
  | .keyDataWord word => Sys2Proof.Machine.execKeyDataWord word s
  | .keyCommit slot => Sys2Proof.Machine.execKeyCommit slot s
  | .keyClear slot => Sys2Proof.Machine.execKeyClear slot s
  | .heartbeatSend => Sys2Proof.Machine.execHeartbeatSend s
  | .heartbeatFrame n f => Sys2Proof.Machine.execHeartbeatFrame n f s
  | .heartbeatMiss rack pos => Sys2Proof.Machine.execHeartbeatMiss rack pos s
  | .linkLoss n => Sys2Proof.Machine.execLinkLoss n s
  | .engineNotice n f => Sys2Proof.Machine.execEngineNotice n f s
  | .halt n f => Sys2Proof.Machine.execHalt n f s
  | .supplyQuery n f => Sys2Proof.Machine.execSupplyQuery n f s
  | .candidate n f => Sys2Proof.Machine.execCandidate n f s
  | .takeover t => Sys2Proof.Machine.execTakeover t s
  | .fenceFrame n f => Sys2Proof.Machine.execFenceFrame n f s
  | .rollbackComplete => Sys2Proof.Machine.execRollbackComplete s
  | .refillRequest n f => Sys2Proof.Machine.execRefillRequest n f s
  | .refillData n f => Sys2Proof.Machine.execRefillData n f s
  | .refillAck n f => Sys2Proof.Machine.execRefillAck n f s
  | .refillComplete => Sys2Proof.Machine.execRefillComplete s
  | .refillWatchdogExpiry race => Sys2Proof.Machine.execRefillWatchdogExpiry race s
  | .verifyComplete => Sys2Proof.Machine.execVerifyComplete s
  | .flagSet flag => Sys2Proof.Machine.execFlagSet flag s
  | .flagClear flag => Sys2Proof.Machine.execFlagClear flag s
  | .produce pair count => Sys2Proof.Machine.execProduce pair count s
  | .consume pair count => Sys2Proof.Machine.execConsume pair count s
  | .pairInit pair value => Sys2Proof.Machine.execPairInit pair value s
  | .synFence token object op count => Sys2Proof.Machine.execSynFence token object op count s
  | .synFenceComplete => Sys2Proof.Machine.execSynFenceComplete s
  | .waitArm slot value => Sys2Proof.Machine.execWaitArm slot value s
  | .waitTimeout slot race => Sys2Proof.Machine.execWaitTimeout slot race s
  | .remoteWrite n f => Sys2Proof.Machine.execRemoteWrite n f s
  | .remoteSignal n f => Sys2Proof.Machine.execRemoteSignal n f s
  | .remoteTransferWatchdog rack pos tag race => Sys2Proof.Machine.execRemoteTransferWatchdog rack pos tag race s
  | .ctxSave value => Sys2Proof.Machine.execCtxSave value s
  | .ctxLoad value => Sys2Proof.Machine.execCtxLoad value s
  | .quiesceClear value => Sys2Proof.Machine.execQuiesceClear value s
  | .barrierArrive b => Sys2Proof.Machine.execBarrierArrive b s
  | .barrierArrivalFrame n f => Sys2Proof.Machine.execBarrierArrivalFrame n f s
  | .treeArrivalUp n f => Sys2Proof.Machine.execTreeArrivalUp n f s
  | .treeCompletion n f => Sys2Proof.Machine.execTreeCompletion n f s
  | .barrierAbortFrame n f => Sys2Proof.Machine.execBarrierAbortFrame n f s
  | .barrierTimeout b race => Sys2Proof.Machine.execBarrierTimeout b race s
  | .barrierEnable b value => Sys2Proof.Machine.execBarrierEnable b value s
  | .barrierDisable b value => Sys2Proof.Machine.execBarrierDisable b value s
  | .timeTick ticks => Sys2Proof.Machine.execTimeTick ticks s
  | .timeLoad domB => Sys2Proof.Machine.execTimeLoad domB s
  | .timeAdd domB => Sys2Proof.Machine.execTimeAdd domB s
  | .timeInvalidate domB => Sys2Proof.Machine.execTimeInvalidate domB s
  | .timeSwitch value => Sys2Proof.Machine.execTimeSwitch value s
  | .timSecRead domB => Sys2Proof.Machine.execTimSecRead domB s
  | .timeProbeSend value phase => Sys2Proof.Machine.execTimeProbeSend value phase s
  | .timeProbe n f phase => Sys2Proof.Machine.execTimeProbe n f phase s
  | .followUpSend phase => Sys2Proof.Machine.execFollowUpSend phase s
  | .probeResponse n f phase => Sys2Proof.Machine.execProbeResponse n f phase s
  | .followUp n f phase => Sys2Proof.Machine.execFollowUp n f phase s
  | .sqTailWrite q value => Sys2Proof.Machine.execSqTailWrite q value s
  | .cqHeadWrite q value => Sys2Proof.Machine.execCqHeadWrite q value s
  | .pushSubmit q slot w7 => Sys2Proof.Machine.execPushSubmit q slot w7 s
  | .queueEnable q value => Sys2Proof.Machine.execQueueEnable q value s
  | .queueDisable q value => Sys2Proof.Machine.execQueueDisable q value s
  | .queueReset q => Sys2Proof.Machine.execQueueReset q s
  | .queueResetComplete q => Sys2Proof.Machine.execQueueResetComplete q s
  | .commandStart => Sys2Proof.Machine.execCommandStart s
  | .commandComplete ctx => Sys2Proof.Machine.execCommandComplete ctx s
  | .notifyTimerExpiry q => Sys2Proof.Machine.execNotifyTimerExpiry q s
  | .readShard ctx => Sys2Proof.Machine.execReadShard ctx s
  | .writeShard ctx => Sys2Proof.Machine.execWriteShard ctx s
  | .flush ctx => Sys2Proof.Machine.execFlush ctx s
  | .verify ctx => Sys2Proof.Machine.execVerify ctx s
  | .digest ctx => Sys2Proof.Machine.execDigest ctx s
  | .scrub ctx => Sys2Proof.Machine.execScrub ctx s
  | .fence ctx => Sys2Proof.Machine.execFence ctx s
  | .cutQuery ctx => Sys2Proof.Machine.execCutQuery ctx s
  | .cutPeatNext ctx => Sys2Proof.Machine.execCutPeatNext ctx s
  | .restore ctx => Sys2Proof.Machine.execRestore ctx s
  | .restoreElastic ctx => Sys2Proof.Machine.execRestoreElastic ctx s
  | .identify ctx => Sys2Proof.Machine.execIdentify ctx s
  | .getLogPage ctx => Sys2Proof.Machine.execGetLogPage ctx s
  | .getFeatures ctx => Sys2Proof.Machine.execGetFeatures ctx s
  | .setFeatures ctx => Sys2Proof.Machine.execSetFeatures ctx s
  | .firmwareDownload ctx => Sys2Proof.Machine.execFirmwareDownload ctx s
  | .firmwareCommit ctx => Sys2Proof.Machine.execFirmwareCommit ctx s
  | .firmwareCommitAndMark ctx => Sys2Proof.Machine.execFirmwareCommitAndMark ctx s
  | .firmwareMark ctx => Sys2Proof.Machine.execFirmwareMark ctx s
  | .commandRelay n f => Sys2Proof.Machine.execCommandRelay n f s
  | .completionRelay n f => Sys2Proof.Machine.execCompletionRelay n f s
  | .relayData n f => Sys2Proof.Machine.execRelayData n f s
  | .relayTimeout seq => Sys2Proof.Machine.execRelayTimeout seq s
  | .relayDataWatchdog seq race => Sys2Proof.Machine.execRelayDataWatchdog seq race s
  | .scanStart n value => Sys2Proof.Machine.execScanStart n value s
  | .scanComplete n => Sys2Proof.Machine.execScanComplete n s
  | .laneGrant => Sys2Proof.Machine.execLaneGrant s
  | .digestComplete lane => Sys2Proof.Machine.execDigestComplete lane s
  | .bootRomStart check => Sys2Proof.Machine.execBootRomStart check s
  | .startOk tables => Sys2Proof.Machine.execStartOk tables s
  | .startWatchdogExpiry => Sys2Proof.Machine.execStartWatchdogExpiry s
  | .coreWatchdogExpiry core => Sys2Proof.Machine.execCoreWatchdogExpiry core s
  | .sramUncorrectable sram word => Sys2Proof.Machine.execSramUncorrectable sram word s
  | .sramScrubPass corrected => Sys2Proof.Machine.execSramScrubPass corrected s
  | .electionStart => Sys2Proof.Machine.execElectionStart s
  | .electionTimer => Sys2Proof.Machine.execElectionTimer s
  | .candidacy n f => Sys2Proof.Machine.execCandidacy n f s
  | .claim n f => Sys2Proof.Machine.execClaim n f s
  | .activate => Sys2Proof.Machine.execActivate s
  | .activationReset => Sys2Proof.Machine.execActivationReset s
  | .tapTestEntry => Sys2Proof.Machine.execTapTestEntry s
  | .tapTestExit => Sys2Proof.Machine.execTapTestExit s
  | .powerFailDeadline limit => Sys2Proof.Machine.execPowerFailDeadline limit s

end Sys2Proof.Machine
end

