-- ==== Sys2Proof/Machine/Step.lean ====
section
/-! DEFINITION. One step of the block: the command at the front of the queue takes effect; on an empty queue every wire passes a frame boundary. -/
namespace Sys2Proof.Machine

/-- Take the front command and run it with the rest of the queue in place; on an empty queue the egresses each send what they grant next
(assumption 4). -/
def step (s : State) : Host.Outcome State Fault Refusal :=
  match s.pending with
  | [] => .next s.egress
  | c :: rest => exec c { s with pending := rest }

/-- `s` with the command that a word spells put at the front of the queue; unchanged where the word spells none. -/
def State.withFetchWord (s : State) (nbits w : Nat) : State :=
  match decodeTableWord nbits w with
  | some c => { s with pending := c :: s.pending }
  | none => s

end Sys2Proof.Machine
end

