-- ==== Sys2Proof/Safety.lean ====
section
/-! DEFINITION. The terms in which statements speak of a step: the invariant of every state, what a command leaves as it was, how a command
completes, and when nothing follows from it. -/
namespace Sys2Proof.Machine

/-! ## The invariant -/

/-- The stored registers in their canonical form: rising offsets, and no entry equal to the Reset column. -/
def regsWf (m : SMap W64) : Bool := rising m && m.all (fun c => c.2 != regReset c.1)

/-- What holds of every state that a run reaches: registers and memories in their canonical form, and every counter pair within the bound
of R260. -/
structure State.Inv (s : State) : Prop where
  regs : regsWf s.regs = true
  mem : Memory.wf s.mem = true
  sump : Memory.wf s.sump = true
  store : Memory.wf s.store.bytes = true
  blocks : Memory.wf s.peat.drive.blocks = true
  area : Memory.wf s.rst.area = true
  pairs : ∀ n : Nat, n < 512 → (s.pair n).ok = true

/-! ## Frames -/

/-- The components of a state. -/
inductive Component where
  | part | board | boot | store | regs | mem | sump | log | mon | slices | placed | bscan | red | ful | cut | sedge | map | peat | sec | rst | warden | syn
  | tim | cmd | chk | elect | now | freeCtr | busRead | outbox | acksOut | irqs | bx3Out | wire | owed | tc3 | pending
deriving DecidableEq, Repr

/-- A component has the same value in two states. -/
def Component.same : Component → State → State → Prop
  | .part, s, t => t.part = s.part
  | .board, s, t => t.board = s.board
  | .boot, s, t => t.boot = s.boot
  | .store, s, t => t.store = s.store
  | .regs, s, t => t.regs = s.regs
  | .mem, s, t => t.mem = s.mem
  | .sump, s, t => t.sump = s.sump
  | .log, s, t => t.log = s.log
  | .mon, s, t => t.mon = s.mon
  | .slices, s, t => t.slices = s.slices
  | .placed, s, t => t.placed = s.placed
  | .bscan, s, t => t.bscan = s.bscan
  | .red, s, t => t.red = s.red
  | .ful, s, t => t.ful = s.ful
  | .cut, s, t => t.cut = s.cut
  | .sedge, s, t => t.sedge = s.sedge
  | .map, s, t => t.map = s.map
  | .peat, s, t => t.peat = s.peat
  | .sec, s, t => t.sec = s.sec
  | .rst, s, t => t.rst = s.rst
  | .warden, s, t => t.warden = s.warden
  | .syn, s, t => t.syn = s.syn
  | .tim, s, t => t.tim = s.tim
  | .cmd, s, t => t.cmd = s.cmd
  | .chk, s, t => t.chk = s.chk
  | .elect, s, t => t.elect = s.elect
  | .now, s, t => t.now = s.now
  | .freeCtr, s, t => t.freeCtr = s.freeCtr
  | .busRead, s, t => t.busRead = s.busRead
  | .outbox, s, t => t.outbox = s.outbox
  | .acksOut, s, t => t.acksOut = s.acksOut
  | .irqs, s, t => t.irqs = s.irqs
  | .bx3Out, s, t => t.bx3Out = s.bx3Out
  | .wire, s, t => t.wire = s.wire
  | .owed, s, t => t.owed = s.owed
  | .tc3, s, t => t.tc3 = s.tc3
  | .pending, s, t => t.pending = s.pending

/-- Every component but those named is unchanged. -/
def Only (ps : List Component) (s t : State) : Prop := ∀ p : Component, p ∈ ps ∨ p.same s t

/-- Components that a command may change, with all that follows from it in the same step; it leaves every other component as it was. -/
def touches : Instr → List Component
  | .registerWrite .. | .takeover .. =>
    [.board, .boot, .store, .regs, .mem, .sump, .log, .mon, .slices, .placed, .bscan, .red, .ful, .cut, .sedge, .map, .peat, .sec, .rst, .warden, .syn, .tim, .cmd, .chk, .elect, .freeCtr, .outbox, .acksOut, .irqs, .owed, .tc3]
  | .rcRegisterRead .. =>
    [.regs, .log, .tim, .busRead]
  | .powerGoodRise | .coldReset | .warmReset | .ctlResetEngine | .speedSample .. | .thermalHoldRelease .. | .fenceFrame ..
  | .bootRomStart .. | .startOk .. | .startWatchdogExpiry | .coreWatchdogExpiry .. | .activationReset | .tapTestEntry
  | .tapTestExit =>
    [.board, .boot, .store, .regs, .mem, .sump, .log, .mon, .slices, .placed, .bscan, .red, .ful, .cut, .sedge, .map, .peat, .sec, .rst, .warden, .syn, .tim, .cmd, .chk, .elect, .freeCtr, .outbox, .owed, .tc3]
  | .powerGoodFall =>
    [.board, .boot, .store, .regs, .mem, .sump, .log, .mon, .slices, .placed, .bscan, .red, .ful, .cut, .sedge, .map, .peat, .sec, .rst, .warden, .syn, .tim, .cmd, .chk, .elect, .freeCtr, .outbox, .bx3Out, .owed, .tc3]
  | .memoryReadUncorrectable .. =>
    [.board, .regs, .mem, .log, .red, .ful, .cut, .sedge, .map, .peat, .rst, .warden, .syn, .cmd, .chk, .freeCtr, .outbox, .acksOut, .irqs]
  | .pfailNAssert .. =>
    [.board, .regs, .log, .peat, .cmd, .freeCtr, .outbox]
  | .pfailNDeassert .. =>
    [.board, .regs, .freeCtr]
  | .pfailHoldExpiry | .bucketIssue .. | .fetchRequestFrame .. | .dropNotice .. | .mcastAck .. | .mcastStallExpiry ..
  | .bucketComplete .. | .contribWatchdogExpiry .. | .voteArrival | .fullingTaskIssue .. | .fullingWaitSatisfied ..
  | .gateTaskProceed .. | .directPieceBind .. | .fullingStreamWatchdog .. | .fullingTaskComplete .. | .cutOpen
  | .cutReply .. | .cutSeal | .feltingSchedule | .feltingDone | .feltAckTimeout .. | .keepReport .. | .keepWatchdogExpiry
  | .digestFrame .. | .xchgWatchdogExpiry .. | .commitRecordAck | .cutEnable .. | .cutDisable .. | .peatEnable ..
  | .peatDisable .. | .peatFormat .. | .drainReservationDone | .drainWritesDone | .drainFlushDone | .drainCatalogueDone
  | .nvmeCommandError .. | .nvmeTimeout .. | .peatLinkDown | .peatReadyTimeout | .engineNotice .. | .halt .. | .candidate ..
  | .rollbackComplete | .refillComplete | .refillWatchdogExpiry .. | .barrierArrive .. | .barrierArrivalFrame ..
  | .treeArrivalUp .. | .treeCompletion .. | .barrierAbortFrame .. | .barrierTimeout .. | .barrierEnable ..
  | .barrierDisable .. | .flush .. | .scrub .. | .restore .. | .restoreElastic .. | .powerFailDeadline .. =>
    [.board, .regs, .mem, .log, .red, .ful, .cut, .sedge, .map, .peat, .rst, .warden, .syn, .cmd, .chk, .freeCtr, .outbox]
  | .holdupOkChange .. =>
    [.board, .regs, .log, .freeCtr]
  | .sliceBufferError .. =>
    [.board, .regs, .mem, .log, .slices, .red, .ful, .cut, .sedge, .map, .peat, .rst, .warden, .syn, .cmd, .chk, .freeCtr, .outbox, .acksOut, .bx3Out]
  | .lnkCtrlClose .. =>
    [.board, .regs, .mem, .log, .slices, .red, .ful, .cut, .sedge, .map, .peat, .rst, .warden, .syn, .cmd, .chk, .freeCtr, .outbox, .acksOut]
  | .causewayClosed .. =>
    [.slices, .bx3Out, .wire]
  | .lnkCtrlOpen .. =>
    [.board, .regs, .mem, .log, .slices, .red, .ful, .cut, .sedge, .map, .peat, .rst, .warden, .syn, .chk, .freeCtr, .outbox, .acksOut]
  | .causewayOpen .. =>
    [.slices, .placed]
  | .bx3FramePass .. =>
    [.bx3Out]
  | .bucketStart .. | .reducePartialFrame .. | .resultCopyFrame .. | .allGatherDataFrame .. | .fetchDataFrame ..
  | .bucketAbortNotice .. | .reductionStreamWatchdog .. =>
    [.board, .regs, .mem, .log, .red, .ful, .cut, .sedge, .map, .peat, .rst, .warden, .syn, .cmd, .chk, .freeCtr, .outbox, .acksOut]
  | .linkLastAck .. =>
    [.red]
  | .tagQuarantineExpiry .. =>
    [.red, .peat, .rst, .freeCtr, .outbox]
  | .redChEnable .. | .redChDisable .. =>
    [.regs, .log, .placed, .red]
  | .laneTakesBlock .. =>
    [.board, .regs, .mem, .log, .red, .ful, .cut, .sedge, .map, .peat, .rst, .warden, .syn, .cmd, .chk, .freeCtr, .outbox, .owed]
  | .progBegin .. | .progCommit .. | .progUnload .. =>
    [.regs, .ful]
  | .progDataWord .. =>
    [.regs, .log, .ful]
  | .cutNotice .. =>
    [.regs, .sedge, .outbox]
  | .scheduleRecordLatch =>
    [.regs, .mem, .cut, .syn]
  | .sumpCopyDone =>
    [.regs, .mem, .sump, .cut, .syn]
  | .feltRegionComplete .. =>
    [.regs, .red, .cut, .map, .chk, .freeCtr, .outbox]
  | .feltData .. =>
    [.regs, .mem, .sedge, .outbox]
  | .feltAck .. | .produce .. | .consume .. | .pairInit .. | .waitArm .. | .waitTimeout .. | .ctxLoad .. | .quiesceClear .. =>
    [.board, .regs, .mem, .log, .red, .ful, .cut, .sedge, .map, .rst, .warden, .syn, .chk, .freeCtr, .outbox]
  | .setRelease .. =>
    [.regs, .sedge]
  | .smartLogPoll .. =>
    [.peat]
  | .peatDriveReady =>
    [.board, .regs, .mem, .log, .red, .ful, .cut, .sedge, .map, .peat, .rst, .warden, .syn, .chk, .freeCtr, .outbox]
  | .pinExported .. =>
    [.regs, .log, .map]
  | .keyBegin .. =>
    [.regs, .log, .map, .peat, .sec]
  | .keyDataWord .. =>
    [.sec]
  | .keyCommit .. | .keyClear .. =>
    [.regs, .map, .peat, .sec]
  | .heartbeatSend =>
    [.rst, .outbox]
  | .heartbeatFrame .. | .heartbeatMiss .. | .electionTimer =>
    [.board, .regs, .mem, .log, .red, .ful, .cut, .sedge, .map, .peat, .rst, .warden, .syn, .cmd, .chk, .elect, .freeCtr, .outbox]
  | .linkLoss .. =>
    [.board, .outbox]
  | .supplyQuery .. =>
    [.regs, .rst, .freeCtr, .outbox]
  | .refillRequest .. =>
    [.regs, .red, .rst, .freeCtr, .outbox]
  | .refillData .. =>
    [.regs, .mem, .rst, .cmd, .outbox]
  | .refillAck .. =>
    [.regs, .red, .rst]
  | .verifyComplete =>
    [.board, .regs, .mem, .sump, .log, .red, .ful, .cut, .sedge, .map, .peat, .rst, .warden, .syn, .cmd, .chk, .freeCtr, .outbox]
  | .flagSet .. | .flagClear .. | .remoteWrite .. | .remoteSignal .. | .ctxSave .. =>
    [.regs, .mem, .log, .syn]
  | .synFence .. | .remoteTransferWatchdog .. =>
    [.regs, .log, .syn]
  | .synFenceComplete =>
    [.regs, .mem, .syn]
  | .timeTick .. =>
    [.regs, .log, .tim, .now]
  | .timeLoad .. | .timeAdd .. | .timeInvalidate .. | .timeSwitch .. =>
    [.regs, .log, .tim]
  | .timSecRead .. =>
    [.tim, .busRead]
  | .timeProbeSend .. =>
    [.regs, .mem, .log, .outbox]
  | .timeProbe .. | .followUpSend .. =>
    [.regs, .mem, .tim, .outbox]
  | .probeResponse .. | .followUp .. =>
    [.regs, .mem]
  | .sqTailWrite .. | .cqHeadWrite .. | .pushSubmit .. | .queueEnable .. | .queueDisable .. | .fence .. | .getFeatures .. =>
    [.regs, .log, .cmd]
  | .queueReset .. =>
    [.regs, .log, .cut, .peat, .rst, .cmd, .chk, .freeCtr]
  | .queueResetComplete .. =>
    [.regs, .cmd]
  | .commandStart | .relayDataWatchdog .. =>
    [.regs, .log, .red, .cmd, .freeCtr, .outbox]
  | .commandComplete .. =>
    [.regs, .mem, .log, .red, .syn, .cmd, .freeCtr, .outbox, .irqs]
  | .notifyTimerExpiry .. =>
    [.regs, .mem, .syn, .cmd, .irqs]
  | .readShard .. =>
    [.regs, .mem, .log, .map, .cmd, .freeCtr, .outbox]
  | .writeShard .. =>
    [.regs, .mem, .log, .peat, .rst, .cmd]
  | .verify .. =>
    [.regs, .log, .map, .cmd, .freeCtr, .outbox]
  | .digest .. | .laneGrant =>
    [.regs, .log, .cmd, .chk]
  | .cutQuery .. =>
    [.regs, .log, .cmd, .freeCtr]
  | .cutPeatNext .. =>
    [.regs, .log, .cut, .cmd, .freeCtr]
  | .identify .. | .getLogPage .. =>
    [.regs, .mem, .log, .cmd]
  | .setFeatures .. =>
    [.regs, .log, .peat, .cmd]
  | .firmwareDownload .. | .firmwareCommit .. | .firmwareCommitAndMark .. | .firmwareMark .. =>
    [.store, .regs, .log, .cmd]
  | .commandRelay .. =>
    [.regs, .cmd, .freeCtr, .outbox]
  | .completionRelay .. =>
    [.regs, .mem, .log, .red, .cmd, .freeCtr]
  | .relayData .. =>
    [.regs, .mem, .log, .red, .cmd, .freeCtr, .outbox]
  | .relayTimeout .. =>
    [.regs, .log, .red, .cmd, .freeCtr]
  | .scanStart .. =>
    [.regs, .log, .chk, .irqs]
  | .scanComplete .. =>
    [.regs, .chk, .irqs]
  | .digestComplete .. =>
    [.regs, .mem, .log, .cmd, .chk, .freeCtr]
  | .sramUncorrectable .. =>
    [.board, .boot, .store, .regs, .mem, .sump, .log, .mon, .slices, .placed, .bscan, .red, .ful, .cut, .sedge, .map, .peat, .sec, .rst, .warden, .syn, .tim, .cmd, .chk, .elect, .freeCtr, .outbox, .acksOut, .irqs, .bx3Out, .owed, .tc3]
  | .sramScrubPass .. =>
    [.regs]
  | .electionStart | .candidacy .. | .claim .. =>
    [.board, .regs, .mem, .log, .red, .ful, .cut, .sedge, .map, .rst, .warden, .syn, .chk, .elect, .freeCtr, .outbox]
  | .activate =>
    [.boot, .regs]

/-- Every bit of every register is unchanged but those of the fields named. -/
def FieldsBut (fs : List Fld) (s t : State) : Prop :=
  ∀ off i : Nat, (∃ f ∈ fs, f.off = off ∧ f.lo ≤ i ∧ i < f.lo + f.len) ∨ (t.getReg off).getLsbD i = (s.getReg off).getLsbD i

/-- Every byte of BX3 memory is unchanged but the `n` bytes from an address on. -/
def BytesBut (a n : Nat) (s t : State) : Prop := ∀ b : Nat, (a ≤ b ∧ b < a + n) ∨ Memory.byteAt t.mem b = Memory.byteAt s.mem b

/-- What may have changed between two states: some components, and of the registers some fields. -/
def Changes (ps : List Component) (fs : List Fld) (s t : State) : Prop := Only ps s t ∧ FieldsBut fs s t

/-- What a load checks of each pair of an image (R272). -/
def Pair.sound (p : Pair) : Bool := p.c ≤ p.p && p.p - p.c ≤ p.depth

/-! ## Groups of register fields -/

/-- Fields that a signal may set: the overrun count, the first error logged, the causes (R258 to R263). -/
def signalFields : List Fld :=
  [Fld.synCounts.overruns, Fld.synErrLog.kind, Fld.synErrLog.object, Fld.synErrLog.remote, Fld.synErrLog.status,
   Fld.synErrLog.valid, Fld.synErrStatus.countSaturated, Fld.synErrStatus.flagOverrun, Fld.synErrStatus.pairDisabled,
   Fld.synErrStatus.produceOverflow]

/-- Fields that the end of a cut without a commit may set (R175, R178). -/
def cutEndFields : List Fld :=
  [Fld.tierCutCounts.abandoned, Fld.tierCutCounts.skipped, Fld.tierCutErrStatus.abandoned, Fld.tierCutErrStatus.feltDeadline,
   Fld.tierCutErrStatus.sedgeIncomplete, Fld.tierCutErrStatus.skipped, Fld.tierCutErrStatus.suspect]

/-- Fields that the end of a Fulling task may set (R146 to R149). -/
def fulAbortFields : List Fld :=
  [Fld.fulErrStatus.lenLong, Fld.fulErrStatus.lenShort, Fld.fulErrStatus.memUe, Fld.fulErrStatus.stateFault,
   Fld.fulErrStatus.upstream, Fld.fulFaultLog.index, Fld.fulFaultLog.queue, Fld.fulFaultLog.valid, ⟨Reg.fulFaultSeq, 0, 64⟩]

/-- Fields that the completion or the abort of a bucket may set (R100 to R104). -/
def bucketEndFields : List Fld :=
  [Fld.redCounts.backupTaken, Fld.redErrStatus.abortNotice, Fld.redErrStatus.contribLate, Fld.redErrStatus.crc,
   Fld.redErrStatus.lenLong, Fld.redErrStatus.lenShort, Fld.redErrStatus.memUe, Fld.redErrStatus.nonfinite, Fld.redNfLog.channel,
   Fld.redNfLog.index, Fld.redNfLog.valid, ⟨Reg.redNfSeq, 0, 64⟩]

/-- Fields that the end of a drain may set (R201, R207). -/
def drainEndFields : List Fld :=
  [Fld.peatErrStatus.drainFail, Fld.peatErrStatus.io, Fld.peatErrStatus.keyAbsent, Fld.peatErrStatus.peatFull,
   Fld.peatErrStatus.pfailAbort]

/-- Fields that the abort of a bucket may set, with the Fulling tasks and cuts that it takes along. -/
def abortFields : List Fld := Fld.ctlErrlog.head :: signalFields ++ cutEndFields ++ fulAbortFields ++ bucketEndFields

/-! ## Registers -/

/-- Registers whose write makes a unit act: reset, channels, slices, programs, queues, cuts, owner slots, Peat, pins, keys, synchronisation,
time, command queues, scans. A write of any other register only sets its fields. -/
def actingRegs : List Nat :=
  [0x10, 0x11000, 0x20000, 0x20008, 0x30080, 0x30088, 0x31000, 0x48000, 0x40040, 0x50000, 0x50040, 0x60000, 0x60008, 0x70000, 0x70008,
   0x70010, 0x70018, 0x70020, 0x70040, 0x71080, 0x72000, 0x73000, 0x73028, 0x74010, 0x74018, 0x80000, 0x80020, 0x80130, 0x91000, 0x91018,
   0x91020, 0x91038, 0x91100, 0xA1010]

/-- What a write of a value leaves in a field that held `old`, by the field's type (R7). -/
def fieldAfter (ty : FType) (old v : Nat) : Nat :=
  match ty with
  | .rw => v
  | .w1c => old - (old &&& v)
  | .w1s => old ||| v
  | .wo | .ro | .rc => old

/-- A register access that is not performed: recorded with ACCESS_ERR, and nothing else changes (R10). -/
def AccessRefused (s t : State) : Prop :=
  t.rd Fld.ctlErrStatus.accessErr = 1 ∧ Changes [.regs, .log] [Fld.ctlErrlog.head, Fld.ctlErrStatus.accessErr] s t

/-! ## Frames of the links -/

/-- A frame passes what every slice checks of it (R111, R112): the Causeway is open, the link has a credit for it, the CRC holds, no reserved
bit is set, and it is not too long for its class. -/
def State.hears (s : State) (n : Fin 42) (ty : BitVec 8) (f : Frame) : Bool :=
  s.hw && s.isOpen n && s.credit n ty f && Frame.crcOf ty f == f.crc && f.rsv == 0 && !Frame.tooLong ty f

/-- Slice, TYPE and frame of a command that is the arrival of an engine frame. -/
def frameOf : Instr → Option (Fin 42 × BitVec 8 × Frame)
  | .reducePartialFrame n f => some (n, Ty.partial', f)
  | .resultCopyFrame n f => some (n, Ty.resultCopy, f)
  | .allGatherDataFrame n f => some (n, Ty.allGather, f)
  | .fetchRequestFrame n f => some (n, Ty.fetchRequest, f)
  | .fetchDataFrame n f => some (n, Ty.fetchData, f)
  | .bucketAbortNotice n f => some (n, Ty.bucketAbort, f)
  | .dropNotice n f => some (n, Ty.drop, f)
  | .cutNotice n f => some (n, Ty.cutNotice, f)
  | .cutReply n f => some (n, Ty.cutReply, f)
  | .feltData n f => some (n, Ty.feltData, f)
  | .feltAck n f => some (n, Ty.feltAck, f)
  | .setRelease n f => some (n, Ty.setRelease, f)
  | .keepReport n f => some (n, Ty.keepReport, f)
  | .digestFrame n f => some (n, Ty.digest, f)
  | .heartbeatFrame n f => some (n, Ty.heartbeat, f)
  | .engineNotice n f => some (n, Ty.engineNotice, f)
  | .halt n f => some (n, Ty.halt, f)
  | .supplyQuery n f => some (n, Ty.supplyQuery, f)
  | .candidate n f => some (n, Ty.candidate, f)
  | .fenceFrame n f => some (n, Ty.fence, f)
  | .refillRequest n f => some (n, Ty.refillRequest, f)
  | .refillData n f => some (n, Ty.refillData, f)
  | .refillAck n f => some (n, Ty.refillAck, f)
  | .remoteWrite n f => some (n, Ty.remoteWrite, f)
  | .remoteSignal n f => some (n, Ty.remoteSignal, f)
  | .barrierArrivalFrame n f => some (n, Ty.arrival, f)
  | .treeArrivalUp n f => some (n, Ty.treeUp, f)
  | .treeCompletion n f => some (n, Ty.treeDone, f)
  | .barrierAbortFrame n f => some (n, Ty.barAbort, f)
  | .timeProbe n f _ => some (n, Ty.probe, f)
  | .probeResponse n f _ => some (n, Ty.probeResponse, f)
  | .followUp n f _ => some (n, Ty.followUp, f)
  | .commandRelay n f => some (n, Ty.commandRelay, f)
  | .completionRelay n f => some (n, Ty.completionRelay, f)
  | .relayData n f => some (n, Ty.relayData, f)
  | .candidacy n f => some (n, Ty.candidacy, f)
  | .claim n f => some (n, Ty.claim, f)
  | _ => none

/-- A frame is dropped and counted as stale on its slice (R111), and nothing else changes. -/
def Stale (n : Fin 42) (s t : State) : Prop :=
  t.rd (Fld.lnkDrop.stale n) = min (s.rd (Fld.lnkDrop.stale n) + 1) (2 ^ (Fld.lnkDrop.stale n).len - 1) ∧
  Changes [.regs] [Fld.lnkDrop.stale n] s t

/-! ## Resets -/

/-- What every cold, warm and engine reset leaves of the units (R48): nothing in them, Causeways closed, PEAT_PERST_N low. -/
structure State.Emptied (t : State) : Prop where
  red : t.red = {}
  ful : t.ful = {}
  cut : t.cut = {}
  sec : t.sec = {}
  warden : t.warden = {}
  syn : t.syn = {}
  cmd : t.cmd = {}
  chk : t.chk = {}
  elect : t.elect = {}
  mon : t.mon = {}
  slices : t.slices = Vector.replicate 42 .closed
  placed : t.placed = 0
  egress : t.outbox = [] ∧ t.owed = [] ∧ t.tc3 = []
  perst : t.board.perstN = false
  peat : t.peat.st = .absent ∧ t.peat.linkUp = false ∧ t.peat.cat = none ∧ t.peat.drain = none ∧ t.peat.nvme = [] ∧ t.peat.gens = []

/-- Fields that no reset sets to the Reset column: the board's pins, the source of the reset, and the calibrated corrections (R48, R287). -/
def State.resetFields (s : State) : List Fld :=
  [Fld.ctlBoardStatus.pfailN, Fld.ctlBoardStatus.holdupOk, Fld.ctlBoardStatus.holdupLow, Fld.ctlBootReason.source] ++
    s.part.delays.map (fun d => ⟨Reg.timLnkDelay d.1, 0, 64⟩)

/-- What a cold reset leaves (R48): units empty, registers at the Reset column, nothing in memory, logs or maps. -/
structure State.ColdFrom (s : State) (source : Nat) (t : State) : Prop where
  emptied : t.Emptied
  phase : t.boot.phase = .reset ∧ t.boot.kind = .cold
  regs : FieldsBut s.resetFields State.reset t
  source : t.rd Fld.ctlBootReason.source = source
  lost : t.mem = [] ∧ t.sump = [] ∧ t.log = [] ∧ t.sedge = Vector.replicate 8 {} ∧ t.map = [] ∧ t.rst = {} ∧ t.tim = {}
  kept : t.part = s.part ∧ t.now = s.now ∧ t.wire = s.wire ∧ t.pending = s.pending

/-! ## Completion -/

/-- A command completes: it answers a next state, of which something holds. -/
def Does (c : Instr) (s : State) (P : State → Prop) : Prop := ∃ t, exec c s = .next t ∧ P t

/-- Nothing follows from what a command has done: no episode has ended, none can start, no arrival or write-back of a cut is due, and no
unit waits for another. It looks at the state alone. -/
def State.quiet (s : State) : Bool :=
  s.syn.results.isEmpty && (List.range 20).all (fun b => !((s.bar b).st == .opened && !(s.bar b).queue.isEmpty)) &&
  (match s.cut.cuts.reverse.find? (fun c => !c.arrived) with
   | some c => c.arrive.isNone
   | none => true) &&
  (match s.cut.cuts.reverse.find? (fun c => !c.doneOut) with
   | some c => !(c.st.isFinal && c.arrived && !(c.pinned && c.drainStatus.isNone))
   | none => true) &&
  !s.red.ownAbort && !s.rst.chosenWaits && s.warden.job != .restoring && s.warden.job != .waiting && s.rst.restoreCtx.isNone && s.cut.peatNext.isNone && !s.peat.flushDue

/-- A command completes whose effect is `t`, with what follows from it where other units wait for that. -/
def Ends (c : Instr) (s : State) (P : State → Prop) : Prop :=
  ∃ t, (exec c s = .next t ∨ exec c s = .next t.settle) ∧ (t.quiet = true → exec c s = .next t) ∧ P t

/-- A command completes that may bring other units to go on in the same step (`State.settle`): it answers the settled `t`, of which
something holds before the other units go on, and `t` itself where nothing follows from it. -/
def DoesThen (c : Instr) (s : State) (P : State → Prop) : Prop :=
  ∃ t, exec c s = .next t.settle ∧ (t.quiet = true → exec c s = .next t) ∧ P t

/-- `DoesThen`, and the state it speaks of is the next state itself wherever no other unit waits before the command. -/
def Completes (c : Instr) (s : State) (P : State → Prop) : Prop := DoesThen c s P ∧ (s.quiet = true → Does c s P)

end Sys2Proof.Machine
end

