-- ==== Sys2Proof/Certificates/Slice0/Obligations.lean ====
section
/-! DEFINITION. The statements for the provers. -/
open Sys2Proof Sys2Proof.Machine

/-- An episode of a barrier has ended with a status (R273, R275): the number advances, what was recorded ahead becomes current, arrivals that
wait stay, and the other barriers are as they were. -/
def BarEnded (s : State) (b : Nat) (st : Status) (t : State) : Prop :=
  let x := s.bar b
  (t.bar b).st = .opened ∧ (t.bar b).episode = nextEpisode x.episode ∧ (t.bar b).cur = x.next ∧ (t.bar b).next = [] ∧
  (t.bar b).racks = x.racksNext ∧ (t.bar b).groups = x.groupsNext ∧ (t.bar b).lastStatus = st ∧ (t.bar b).fn = none ∧
  (t.bar b).queue = x.queue ∧ (t.bar b).prev = some x.episode ∧ (t.bar b).kids = x.kids ∧ ∀ c : Nat, c ≠ b → t.bar c = s.bar c

/-- A cut has ended without a commit (R175, R178): state, status and count; its Felting has stopped; its half is free, but that of a SUSPECT
cut, or one pinned for Peat; but for a SUSPECT cut its Shard Map entries are gone. -/
def CutEnded (s : State) (c : Cut) (st : CutState) (status : Status) (t : State) : Prop :=
  let n := if st == .skipped then Fld.tierCutCounts.skipped else Fld.tierCutCounts.abandoned
  (t.findCut c.seq).map (fun d => (d.st, d.status, d.runs, d.out)) = some (st, status, [], []) ∧ t.cut.lastStatus = status ∧
  t.rd n = min (s.rd n + 1) (2 ^ n.len - 1) ∧
  (∀ h, c.half = some h → st ≠ .suspect → (c.peat = false ∨ st ≠ .sedgeIncomplete) → t.half h = .empty) ∧
  (st ≠ .suspect → t.map.any (fun e => mapSedge c.step c.gen e.2) = false)

/-- The Peat drain of a cut has failed (R204): its status is recorded, no drain runs, and its Shard Map entries are gone. -/
def DrainFailed (c : Cut) (st : Status) (t : State) : Prop :=
  (t.findCut c.seq).map (fun d => d.drainStatus) = some (some st) ∧ t.peat.drain = none ∧ t.rd Fld.peatErrStatus.drainFail = 1 ∧
  (st = St.peatIo → t.rd Fld.peatErrStatus.io = 1) ∧ (st = St.peatFull → t.rd Fld.peatErrStatus.peatFull = 1) ∧
  (st = St.pfailAbort → t.rd Fld.peatErrStatus.pfailAbort = 1)

/-- Words of a counter that counts one more and saturates. -/
def Counted (f : Fld) (s t : State) : Prop := t.rd f = min (s.rd f + 1) (2 ^ f.len - 1)

/-- The work of a command in a context has ended with a status and results; its completion entry is still to be written (R298). -/
def Ended (k : Nat) (c : Ctx) (st : Status) (r0 r1 : Nat) (t : State) : Prop :=
  t.ctx? k = some { c with finished := true, status := st, r0 := BitVec.ofNat 32 r0, r1 := BitVec.ofNat 32 r1 }

/-- A command has ended with a status and no other effect than a log record of it. -/
def TurnedAway (k : Nat) (c : Ctx) (st : Status) (s t : State) : Prop :=
  Ended k c st 0 0 t ∧ Changes [.regs, .log, .cmd] [Fld.ctlErrlog.head] s t

/-- An engine reset is taken (R48, R49): units empty, memory and what hangs on it kept, SOURCE and CAUSE its source; the cause of a failed start,
if any, waits for the next boot ROM; of the registers, only the retained set is not at the Reset column. -/
def EngineReset (source : Nat) (fail : BitVec 4) (s t : State) : Prop :=
  t.Emptied ∧ t.boot.phase = .reset ∧ t.boot.kind = .engine ∧ t.boot.source = BitVec.ofNat 4 source ∧ t.boot.failPending = fail ∧
  t.rd Fld.ctlBootReason.source = source ∧ t.rd Fld.ctlReset.cause = source ∧
  t.mem = s.mem ∧ t.sump = s.sump ∧ t.sedge = s.sedge ∧ t.map = s.map ∧ t.part = s.part ∧ t.store.bytes = s.store.bytes ∧ t.pending = s.pending ∧
  t.tim.activeB = s.tim.activeB ∧ (∀ b, (t.dom b).sec = (s.dom b).sec ∧ (t.dom b).ns = (s.dom b).ns ∧ (t.dom b).valid = (s.dom b).valid) ∧
  FieldsBut (s.resetFields ++ [⟨Reg.ctlErrlog, 0, 64⟩, ⟨Reg.ctlBootReason, 0, 64⟩, Fld.ctlReset.cause, Fld.ctlCornerStatus.thermTrip,
    Fld.ctlErrStatus.coreWd, ⟨Reg.timDomInc 0, 0, 64⟩, ⟨Reg.timDomInc 1, 0, 64⟩]) State.reset t

/-- A step takes the command at the front of the queue and runs it on the state with the queue's rest. On an empty queue every wire
passes a frame boundary (the model's choice, assumption 4). -/
def Obligations.StepRunsFrontCommand : Prop :=
  (∀ (c : Instr) (rest : List Instr) (s : State), step { s with pending := c :: rest } = exec c { s with pending := rest }) ∧
  ∀ s : State, s.pending = [] → step s = .next s.egress

/-- Reset, register by register and unit by unit (memory listing nothing: assumption 1). -/
def Obligations.ResetState : Prop :=
  (∀ off : Nat, State.reset.getReg off = regReset off) ∧ State.reset.pending = [] ∧
  State.reset.boot.phase = .reset ∧ State.reset.boot.kind = .cold ∧ State.reset.mem = [] ∧
  (∀ n : Nat, State.reset.slice n = .closed) ∧ (∀ n : Nat, State.reset.pair n = {}) ∧ (∀ n : Nat, State.reset.flag n = false) ∧
  (∀ n : Nat, (State.reset.set n).st = .free) ∧ (∀ q : Nat, (State.reset.queue q).st = .disabled) ∧
  (∀ k : Nat, (State.reset.keySlot k).loaded = false) ∧ State.reset.cut.cuts = [] ∧ State.reset.peat.drain = none ∧
  (∀ q : Nat, (State.reset.fq q).task = none) ∧ (∀ c : Nat, (State.reset.chan c).running = [] ∧ (State.reset.chan c).issued = [])

/-- The state after reset meets the invariant. -/
def Obligations.ResetMeetsInvariant : Prop := State.reset.Inv

/-- Every command keeps the canonical forms and the bounds of the counter pairs, from every state that has them. -/
def Obligations.StepKeepsInvariant : Prop := ∀ s t : State, s.Inv → step s = .next t → t.Inv

/-- No command stops, and each leaves every component outside its list (`touches`) as it was; no command but `time_tick` moves the clock, and
none changes the part or the queue of waiting commands. -/
def Obligations.CommandFrames : Prop :=
  (∀ (c : Instr) (s : State), ∃ t, exec c s = .next t ∧ Only (touches c) s t) ∧
  (∀ c : Instr, Component.part ∉ touches c ∧ Component.pending ∉ touches c ∧ (Component.now ∈ touches c → ∃ n, c = .timeTick n))

/-- POWER_GOOD_RISE, POWER_GOOD_FALL, TAP_TEST_ENTRY, TAP_TEST_EXIT: each brings the engine into a cold reset, and what a cold reset leaves is said
register by register and unit by unit. -/
def Obligations.PowerAndTest : Prop :=
  ∀ s : State,
    (s.boot.phase = .unpowered → Does .powerGoodRise s fun t =>
      s.ColdFrom 0 t ∧ t.board = { powerGood := true, pfailN := s.board.pfailN, holdupOk := s.board.holdupOk }) ∧
    (s.boot.phase ≠ .unpowered → Does .powerGoodFall s fun t =>
      t.boot.phase = .unpowered ∧ t.Emptied ∧ FieldsBut s.resetFields State.reset t ∧ t.mem = [] ∧ t.log = [] ∧ t.map = [] ∧
      t.board.powerGood = false ∧ t.powered = false ∧ t.bx3Out = []) ∧
    (s.powered = true → Does .tapTestEntry s fun t =>
      t.boot.phase = .tapTest ∧ t.Emptied ∧ FieldsBut s.resetFields State.reset t ∧ t.mem = [] ∧ t.powered = false ∧
      [0, 1, 2, 3, 4, 30].map (fun k => t.bscan.getLsbD k) = [s.board.pfailN, s.board.holdupOk, true, false, true, false]) ∧
    (s.boot.phase = .tapTest → Does .tapTestExit s fun t => s.ColdFrom 1 t)

/-- COLD_RESET, WARM_RESET, CTL_RESET_ENGINE: what each leaves, and which takes over (R49). -/
def Obligations.ResetKinds : Prop :=
  ∀ s : State, s.Inv → s.powered = true →
    let kept (s : State) : List Fld :=
      s.resetFields ++ [⟨Reg.ctlErrlog, 0, 64⟩, ⟨Reg.ctlBootReason, 0, 64⟩, Fld.ctlReset.cause, Fld.ctlCornerStatus.thermTrip, Fld.ctlErrStatus.coreWd]
    let same (t : State) : Prop :=
      t.Emptied ∧ t.mem = s.mem ∧ t.sump = s.sump ∧ t.sedge = s.sedge ∧ t.map = s.map ∧ t.pending = s.pending ∧ t.part = s.part ∧
      t.rd Fld.ctlErrlog.head = (s.rd Fld.ctlErrlog.head + 1) % 2 ^ 16 ∧
      t.rd Fld.ctlCornerStatus.thermTrip = s.rd Fld.ctlCornerStatus.thermTrip ∧ t.rd Fld.ctlErrStatus.coreWd = s.rd Fld.ctlErrStatus.coreWd ∧
      t.rd Fld.ctlBootReason.failCount = s.rd Fld.ctlBootReason.failCount
    Does .coldReset s (fun t => s.ColdFrom 1 t) ∧
    (¬ (s.boot.phase = .reset ∧ s.boot.kind = .cold) → Does .warmReset s fun t =>
      t.boot.phase = .reset ∧ t.boot.kind = .warm ∧ same t ∧ FieldsBut (kept s) State.reset t ∧ t.rd Fld.ctlBootReason.source = 2 ∧
      t.rd Fld.ctlReset.cause = s.rd Fld.ctlReset.cause ∧ t.tim = {}) ∧
    ((s.boot.phase = .reset → s.boot.kind = .engine) → Does .ctlResetEngine s fun t =>
      t.boot.phase = .reset ∧ t.boot.kind = .engine ∧ same t ∧
      FieldsBut (kept s ++ [⟨Reg.timDomInc 0, 0, 64⟩, ⟨Reg.timDomInc 1, 0, 64⟩]) State.reset t ∧ t.rd Fld.ctlBootReason.source = 3 ∧
      t.rd Fld.ctlReset.cause = 3 ∧ t.tim.activeB = s.tim.activeB ∧
      (∀ b, (t.dom b).sec = (s.dom b).sec ∧ (t.dom b).ns = (s.dom b).ns ∧ (t.dom b).valid = (s.dom b).valid ∧
        (t.dom b).latNs = (s.dom b).latNs)) ∧
    (s.boot.phase = .reset → s.boot.kind = .cold → Does .warmReset s fun t => Changes [.log, .regs] [Fld.ctlErrlog.head] s t ∧
      t.log.length = min 1024 (s.log.length + 1)) ∧
    (s.boot.phase = .reset → s.boot.kind ≠ .engine → Does .ctlResetEngine s fun t => Changes [.log, .regs] [Fld.ctlErrlog.head] s t ∧
      t.log.length = min 1024 (s.log.length + 1))

/-- PFAIL_N_ASSERT, PFAIL_N_DEASSERT, HOLDUP_OK_CHANGE, PFAIL_HOLD_EXPIRY, POWER_FAIL_DEADLINE. -/
def Obligations.PowerFail : Prop :=
  (∀ (s : State) (ns : Nat), s.Inv → s.powered = true →
      let pins : List Fld := [Fld.ctlBoardStatus.pfailN, Fld.ctlBoardStatus.holdupOk, Fld.ctlBoardStatus.holdupLow]
      (1000 ≤ ns → s.board.pfailN = true → Does (.pfailNAssert ns) s fun t =>
        t.rd Fld.ctlBoardStatus.pfailN = 0 ∧
        (s.awake = true → t.board = { s.board with pfailN := false, pfWork := true, pfHold := false, pfStart := s.now } ∧
          t.rd Fld.ctlBoardStatus.pfailSeen = 1 ∧
          Changes [.board, .regs, .log, .peat, .cmd, .freeCtr, .outbox]
            (pins ++ [Fld.ctlBoardStatus.pfailSeen, Fld.ctlErrlog.head, Fld.peatErrStatus.pfailAbort]) s t) ∧
        (s.awake = false → t.board = { s.board with pfailN := false } ∧ Changes [.board, .regs] pins s t)) ∧
      (1000 ≤ ns → s.board.pfailN = false → Does (.pfailNDeassert ns) s fun t =>
        t.rd Fld.ctlBoardStatus.pfailN = 1 ∧ Changes [.board, .regs] (pins ++ [Fld.ctlBoardStatus.pfailCleared]) s t ∧
        t.board.pfailN = true ∧ t.board.pfHighSince = s.now ∧ t.board.pfWork = s.board.pfWork ∧
        (s.awake = true → (s.board.pfWork || s.board.pfHold) = true → t.board.pfHold = true ∧ t.rd Fld.ctlBoardStatus.pfailCleared = 1)) ∧
      (∀ level : Bool, 1000 ≤ ns → s.board.holdupOk ≠ level → Does (.holdupOkChange level ns) s fun t =>
        t.board = { s.board with holdupOk := level } ∧ t.rd Fld.ctlBoardStatus.holdupOk = b2n level ∧
        t.rd Fld.ctlBoardStatus.holdupLow = b2n (!level) ∧ Changes [.board, .regs, .log, .freeCtr] (pins ++ [Fld.ctlErrlog.head]) s t ∧
        t.rd Fld.ctlErrlog.head = (s.rd Fld.ctlErrlog.head + 1) % 2 ^ 16) ∧
      (ns < 200 → exec (.pfailNAssert ns) s = .next s ∧ exec (.pfailNDeassert ns) s = .next s ∧
        ∀ level : Bool, exec (.holdupOkChange level ns) s = .next s)) ∧
  (∀ s : State, s.Inv →
      (s.awake = true → s.board.pfHold = true → s.board.pfWork = false → s.board.pfailN = true → s.board.pfHighSince + msTicks 10 ≤ s.now →
        DoesThen .pfailHoldExpiry s fun t =>
          t.board = { s.board with pfHold := false, pfWaitInterval := true } ∧
          Changes [.board, .regs, .log, .cmd, .freeCtr] [Fld.ctlErrlog.head] s t) ∧
      (s.pfPast .done = true → DoesThen (.powerFailDeadline .done) s fun t =>
        t.board.pfWork = false ∧ t.board.pfHold = true ∧
        (s.peat.drain = none → t.board = { s.board with pfWork := false, pfHold := true } ∧ Changes [.board] [] s t) ∧
        (∀ d, s.peat.drain = some d → d.step ≠ .catalogue → t.peat.drain = none)) ∧
      (s.pfPast .dataWrites = true → ∀ d, s.peat.drain = some d →
        ((d.step = .reservation ∨ d.step = .writes) → DoesThen (.powerFailDeadline .dataWrites) s fun t => t.peat.drain = none) ∧
        ((d.step = .flush ∨ d.step = .catalogue) → DoesThen (.powerFailDeadline .dataWrites) s fun t => t = s)) ∧
      (s.pfPast .flush = true → ∀ d, s.peat.drain = some d → d.step = .flush →
        DoesThen (.powerFailDeadline .flush) s fun t => t.peat.drain = none) ∧
      (s.pfPast .catalogue = true → DoesThen (.powerFailDeadline .catalogue) s fun t => t = s))

/-- SPEED_SAMPLE: what it does, and that it answers that state itself where no other unit waits (`State.quiet`). -/
def Obligations.SpeedMonitor : Prop :=
  ∀ (s : State) (r : SpeedReading), s.Inv → s.awake = true →
    let x := s.sample r
    let hot := x.temps.any (fun t => 460 ≤ t.2)
    let met := !(s.broken x).any id && !x.cycles.isEmpty && !x.taps.isEmpty && !x.temps.isEmpty
    let now := met && (s.rdB Fld.ctlCornerStatus.inRange || decide (10 ≤ s.mon.good + 1))
    let sampled (t : State) : Prop :=
      t.rd Fld.ctlSpeedStatus.sampleSeq = (s.rd Fld.ctlSpeedStatus.sampleSeq + 1) % 4096 ∧
      (∀ c ∈ x.cycles, c.2 ≤ t.rd Fld.ctlSpeedStatus.cyclePs) ∧
      (x.cycles ≠ [] → (t.rd Fld.ctlSpeedStatus.cycleSensor, t.rd Fld.ctlSpeedStatus.cyclePs) ∈ x.cycles.map (fun c => (c.1 % 16, c.2))) ∧
      t.rdB Fld.ctlCornerStatus.inRange = now ∧
      t.mon = { good := min 10 (if met then s.mon.good + 1 else 0), hot := if hot then s.mon.hot + 1 else 0, last := some s.now } ∧
      t.rd Fld.ctlCornerStatus.excCycle = max (s.rd Fld.ctlCornerStatus.excCycle) (b2n ((s.broken x).getD 0 false)) ∧
      t.rd Fld.ctlCornerStatus.excTemp = max (s.rd Fld.ctlCornerStatus.excTemp) (b2n ((s.broken x).getD 3 false)) ∧
      (s.rdB Fld.ctlCornerStatus.inRange = true → now = false →
        t.rd Fld.ctlCornerStatus.excCount = min (s.rd Fld.ctlCornerStatus.excCount + 1) 65535) ∧
      Changes [.regs, .log, .mon, .freeCtr, .outbox]
        [⟨Reg.ctlCornerStatus, 0, 64⟩, ⟨Reg.ctlSpeedStatus, 0, 64⟩, ⟨Reg.ctlSpeedPeak, 0, 64⟩, Fld.ctlErrlog.head] s t ∧
      t.rd Fld.ctlCornerStatus.thermTrip = s.rd Fld.ctlCornerStatus.thermTrip
    (s.sampleDue = true → (hot = false ∨ s.mon.hot = 0) →
      DoesThen (.speedSample r) s sampled ∧ (s.quiet = true → Does (.speedSample r) s sampled)) ∧
    (s.sampleDue = true → hot = true → 1 ≤ s.mon.hot → DoesThen (.speedSample r) s fun t =>
      t.boot.phase = .reset ∧ t.boot.kind = .engine ∧ t.boot.source = 7 ∧ t.boot.trip = true ∧ t.Emptied ∧
      t.rd Fld.ctlCornerStatus.thermTrip = 1 ∧ t.rd Fld.ctlBootReason.source = 7 ∧ t.mem = s.mem) ∧
    (s.sampleDue = false → DoesThen (.speedSample r) s fun t => t = s)

/-- LNK_CTRL_CLOSE, CAUSEWAY_CLOSED, LNK_CTRL_OPEN, CAUSEWAY_OPEN, BX3_FRAME_PASS, and what a slice's egress grants. -/
def Obligations.Causeways : Prop :=
  ∀ (s : State) (n : Fin 42), s.Inv →
    let others (t : State) : Prop := ∀ m : Nat, m ≠ n.val → t.slice m = s.slice m
    let mine := s.bx3Out.filter (fun x => x.1.val == n.val)
    (s.powered = true → s.present n = true → DoesThen (.lnkCtrlClose n) s fun t =>
      t.rd (Fld.lnkCtrl.close n) = 1 ∧ others t ∧
      t.slice n = (match s.slice n with | .opened => .closing | .opening => .closed | x => x) ∧
      (s.slice n ≠ .opened → Changes [.slices, .regs] [Fld.lnkCtrl.close n] s t) ∧ Only (touches (.lnkCtrlClose n)) s t) ∧
    (s.powered = true → s.present n = true → Does (.lnkCtrlOpen n) s fun t =>
      t.rd (Fld.lnkCtrl.close n) = 0 ∧ others t ∧ Changes [.slices, .regs] [Fld.lnkCtrl.close n] s t ∧
      t.slice n = (if s.slice n = .closed ∧ s.boot.phase = .running ∧ s.rd (Fld.lnkStatus.bufErr n) = 0 then .opening else s.slice n)) ∧
    (s.slice n = .closing → Does (.causewayClosed n) s fun t =>
      t.slice n = (if s.present n = true ∧ s.cwCause n = 0 then .opening else .closed) ∧ others t ∧
      t.bx3Out = s.bx3Out.filter (fun x => x.1.val != n.val) ∧ t.wire = s.wire ++ mine.map (fun x => .bx3 x.1 x.2.1 x.2.2) ∧
      Changes [.slices, .bx3Out, .wire] [] s t) ∧
    (s.slice n = .opening → Does (.causewayOpen n) s fun t =>
      t.slice n = .opened ∧ others t ∧ t.placed.getLsbD n = false ∧
      (∀ m : Nat, m ≠ n.val → t.placed.getLsbD m = s.placed.getLsbD m) ∧ Changes [.slices, .placed] [] s t) ∧
    (s.present n = true → ∀ (d : Dir) (f : Bx3Frame), Does (.bx3FramePass n d f) s fun t =>
      t.bx3Out = s.bx3Out ++ [(n, d, f)] ∧ Changes [.bx3Out] [] s t) ∧
    (let waits := s.egressEngine (some n) (s.tc3Allows (some n)) ++ s.egressBx3 n .tx
     let classOf (w : Wire) : Nat := match w with | .engine f => Ty.tc f.ty | .bx3 _ _ f => f.tc.toNat
     let l := (s.egressSlice n).wire.drop s.wire.length
     (s.egressSlice n).wire = s.wire ++ l ∧ l.length = (if waits = [] then 0 else 1) ∧ ∀ w ∈ l, ∀ x ∈ waits, classOf w ≤ x.tc)

/-- Any access but one at the start of a register in its own width (R9, R325): ignored or answered with 0, and recorded. -/
def Obligations.WrongAccesses : Prop :=
  ∀ (s : State) (off : BitVec 20) (w : AccWidth), s.Inv → s.powered = true → s.absentSlice off.toNat = false →
    (∀ row, regRow? off.toNat = some row → row.bytes ≠ AccWidth.bytes w) →
    let recorded (wr : Bool) (t : State) : Prop :=
      t.log.head?.map (fun r => (r.kind, r.unit, r.detail)) =
        some (1, BitVec.ofNat 8 (unitOf off.toNat), leBytes 4 off.toNat ++ leBytes 1 (AccWidth.bytes w) ++ leBytes 1 (b2n wr) ++ zeros 6) ∧
      t.log.tail = s.log.take 1023 ∧
      t.rd Fld.ctlErrStatus.accessErr = 1
    (∀ v : W64, DoesThen (.registerWrite off w v) s fun t =>
      recorded true t ∧ Changes [.regs, .log] [Fld.ctlErrlog.head, Fld.ctlErrStatus.accessErr] s t) ∧
    Does (.rcRegisterRead off w) s fun t =>
      t.busRead = 0 ∧ recorded false t ∧ Changes [.regs, .log, .busRead] [Fld.ctlErrlog.head, Fld.ctlErrStatus.accessErr] s t

/-- RC_REGISTER_READ of a register (R7): the value, then the RC fields are 0. -/
def Obligations.RegisterRead : Prop :=
  ∀ (s : State) (off : BitVec 20) (w : AccWidth), s.Inv → s.powered = true →
    (s.absentSlice off.toNat = true → Does (.rcRegisterRead off w) s fun t => t.busRead = 0 ∧ Changes [.busRead] [] s t) ∧
    (s.absentSlice off.toNat = false → ∀ row, regRow? off.toNat = some row → row.bytes = AccWidth.bytes w → regCanon off.toNat ≠ 0x80100 →
      Does (.rcRegisterRead off w) s fun t =>
        t.busRead = s.view off.toNat ∧
        Changes [.regs, .busRead] ((row.fields.filter (fun f => f.ty == .rc)).map (fun f => ⟨off.toNat, f.lo, f.len⟩)) s t ∧
        (∀ f ∈ row.fields, f.ty = .rc → t.rd ⟨off.toNat, f.lo, f.len⟩ = 0))

/-- REGISTER_WRITE of a register without an action of its own, field by field (R7, R10). -/
def Obligations.RegisterWrite : Prop :=
  ∀ (s : State) (off : BitVec 20) (w : AccWidth) (value : W64), s.Inv → s.powered = true → s.absentSlice off.toNat = false →
    ∀ row, regRow? off.toNat = some row → row.bytes = AccWidth.bytes w → regCanon off.toNat ∉ actingRegs →
    let v := value.toNat % 2 ^ (8 * AccWidth.bytes w)
    let good (f : FieldRow) : Bool := s.fieldOk off.toNat f.lo f.len v
    let fld (f : FieldRow) : Fld := ⟨off.toNat, f.lo, f.len⟩
    (s.regLocked off.toNat = false → off.toNat ≠ Reg.ctlErrStatus → off.toNat ≠ Reg.ctlErrlog →
      DoesThen (.registerWrite off w value) s fun t =>
        (∀ f ∈ row.fields, t.rd (fld f) =
          (if f.ty = .rw ∧ (good f = false ∨ s.fieldFrozen off.toNat f.lo = true) then s.rd (fld f)
           else fieldAfter f.ty (s.rd (fld f)) (bits v f.lo f.len))) ∧
        ((∀ f ∈ row.fields, (f.ty = .rw ∨ f.ty = .wo) → good f = true ∧ s.fieldFrozen off.toNat f.lo = false) →
          Changes [.regs] (row.fields.map fld) s t) ∧
        ((∃ f ∈ row.fields, f.ty = .rw ∧ good f = false ∧ s.fieldFrozen off.toNat f.lo = false) →
          t.rd Fld.ctlErrStatus.accessErr = 1 ∧ t.log.length = min 1024 (s.log.length + 1)) ∧
        Changes [.regs, .log] (Fld.ctlErrlog.head :: Fld.ctlErrStatus.accessErr :: row.fields.map fld) s t) ∧
    (s.regLocked off.toNat = true → DoesThen (.registerWrite off w value) s fun t =>
      t.rd Fld.ctlErrStatus.accessErr = 1 ∧ Changes [.regs, .log] [Fld.ctlErrlog.head, Fld.ctlErrStatus.accessErr] s t)

/-- Every command that brings an engine frame (`frameOf`): what its slice checks first. -/
def Obligations.FrameChecks : Prop :=
  ∀ (c : Instr) (s : State), s.Inv → ∀ x, frameOf c = some x →
    let n := x.1
    let ty := x.2.1
    let f := x.2.2
    let heard := s.hw && s.isOpen n && s.credit n ty f
    (heard = false → Ends c s fun t => t = s) ∧
    (heard = true → Frame.crcOf ty f ≠ f.crc → Ends c s fun t =>
      t.rd (Fld.lnkDrop.crc n) = min (s.rd (Fld.lnkDrop.crc n) + 1) 65535 ∧
      (ty ∉ [Ty.partial', Ty.resultCopy, Ty.allGather, Ty.fetchData, Ty.refillData] → Changes [.regs] [Fld.lnkDrop.crc n] s t)) ∧
    (heard = true → Frame.crcOf ty f = f.crc → (f.rsv ≠ 0 ∨ Frame.tooLong ty f = true) → Ends c s (Stale n s))

/-- FLAG_SET, FLAG_CLEAR. -/
def Obligations.Flags : Prop :=
  ∀ (s : State) (f : BitVec 10), s.Inv → s.powered = true →
    let k := f.toNat
    let here (w : Waiter) : Bool := !w.isPair && w.obj == k
    let flagsOnly (t : State) : Prop := (∀ g : Nat, g ≠ k → t.flag g = s.flag g) ∧
      t.syn = { s.syn with flags := t.syn.flags, waiters := t.syn.waiters, waits := t.syn.waits }
    (s.quiesced = false →
      (s.flag k = false → s.syn.waiters.any here = false → Does (.flagSet f) s fun t =>
        t.flag k = true ∧ flagsOnly t ∧ t.syn.waiters = s.syn.waiters ∧ t.syn.waits = s.syn.waits ∧ Changes [.syn] [] s t) ∧
      (s.flag k = false → ∀ w, s.syn.waiters.find? here = some w → Does (.flagSet f) s fun t =>
        t.flag k = false ∧ flagsOnly t ∧ t.syn.waiters = removeFirst here s.syn.waiters ∧
        ((∀ n, w.who ≠ .slot n) → Changes [.syn] [] s t) ∧
        (∀ n, w.who = .slot n → s.slotArmed n = true → t.slotArmed n = false ∧ Changes [.syn, .mem] [] s t ∧
          BytesBut (s.rdAddr Fld.synWaitNotify.base + 8 * n) 8 s t ∧
          (s.rdB (Fld.synWait.kind n) = false → t.load (s.rdAddr Fld.synWaitNotify.base + 8 * n) 8 = zeros 8))) ∧
      (s.flag k = true → Does (.flagSet f) s fun t =>
        t.flag k = true ∧ t.syn.ovr.getLsbD k = true ∧ (∀ g : Nat, g ≠ k → t.syn.ovr.getLsbD g = s.syn.ovr.getLsbD g) ∧
        t.syn = { s.syn with ovr := t.syn.ovr } ∧ t.rd Fld.synErrStatus.flagOverrun = 1 ∧
        t.rd Fld.synCounts.overruns = min (s.rd Fld.synCounts.overruns + 1) 65535 ∧
        (s.rd Fld.synErrLog.valid = 0 → t.rd Fld.synErrLog.valid = 1 ∧ t.rd Fld.synErrLog.status = 0x0401 ∧ t.rd Fld.synErrLog.object = k ∧
          t.rd Fld.synErrLog.kind = 0 ∧ t.rd Fld.synErrLog.remote = 0) ∧ Changes [.syn, .regs] signalFields s t) ∧
      Does (.flagClear f) s fun t =>
        t.flag k = false ∧ flagsOnly t ∧ t.syn.waiters = s.syn.waiters ∧ t.syn.waits = s.syn.waits ∧ Changes [.syn] [] s t) ∧
    (s.quiesced = true → Does (.flagSet f) s (AccessRefused s) ∧ Does (.flagClear f) s (AccessRefused s))

/-- PRODUCE, CONSUME. -/
def Obligations.CounterPairs : Prop :=
  ∀ (s : State) (n : BitVec 9), s.Inv → s.powered = true →
    let k := n.toNat
    let p := s.pair k
    let free := s.noWaiter k && !s.syn.pends.any (fun q => q.pair == k)
    let pairOnly (t : State) : Prop := (∀ m : Nat, m ≠ k → t.pair m = s.pair m) ∧ t.syn = { s.syn with pairs := t.syn.pairs } ∧ Changes [.syn] [] s t
    (∀ count : W32, s.quiesced = false → p.depth ≠ 0 → count ≠ 0 →
      let c := count.toNat
      (free = true → p.p - p.c + c ≤ p.depth → p.p + c < 2 ^ 48 → Does (.produce n count) s fun t =>
        t.pair k = { p with p := p.p + c } ∧ pairOnly t) ∧
      (p.depth < p.p - p.c + c → p.p + c < 2 ^ 48 → s.pend k + c ≤ p.depth → Does (.produce n count) s fun t =>
        t.syn = { s.syn with pends := s.syn.pends ++ [{ pair := k, count := c, who := .software }] } ∧ Changes [.syn] [] s t) ∧
      ((p.depth < c ∨ (p.depth < p.p - p.c + c ∧ p.p + c < 2 ^ 48 ∧ p.depth < s.pend k + c)) → Does (.produce n count) s fun t =>
        t.rd Fld.synErrStatus.produceOverflow = 1 ∧ Changes [.regs] signalFields s t) ∧
      (free = true → c ≤ p.p - p.c → Does (.consume n count) s fun t => t.pair k = { p with c := p.c + c } ∧ pairOnly t) ∧
      (p.p - p.c < c → Does (.consume n count) s fun t =>
        t.rd Fld.synErrStatus.countUnderflow = 1 ∧ t.rd Fld.synCounts.underflows = min (s.rd Fld.synCounts.underflows + 1) 65535 ∧
        Changes [.regs] (Fld.synErrStatus.countUnderflow :: Fld.synCounts.underflows :: signalFields) s t)) ∧
    (∀ count : W32, (s.quiesced = true ∨ p.depth = 0 ∨ count = 0) →
      Does (.produce n count) s (AccessRefused s) ∧ Does (.consume n count) s (AccessRefused s))

/-- R263: PRODUCE that saturates, PAIR_INIT. -/
def Obligations.SaturationAndInit : Prop :=
  ∀ (s : State) (n : BitVec 9), s.Inv → s.powered = true →
    let k := n.toNat
    let p := s.pair k
    (∀ count : W32, s.quiesced = false → p.depth ≠ 0 → count ≠ 0 → 2 ^ 48 - 1 < p.p + count.toNat → Does (.produce n count) s fun t =>
      t.pair k = p ∧ Changes [.regs] signalFields s t ∧
      (count.toNat ≤ p.depth → t.rd Fld.synErrStatus.countSaturated = 1 ∧
        (s.rd Fld.synErrLog.valid = 0 → t.rd Fld.synErrLog.valid = 1 ∧ t.rd Fld.synErrLog.status = 0x0404 ∧ t.rd Fld.synErrLog.object = k))) ∧
    (∀ v : BitVec 48,
      ((s.noWaiter k = true ∧ s.pend k = 0) → Does (.pairInit n v) s fun t =>
        (t.pair k).c = v.toNat ∧ t.pend k = 0 ∧
        (s.syn.pends.any (fun q => q.pair == k) = false → t.pair k = { p with p := v.toNat, c := v.toNat } ∧
          (∀ m : Nat, m ≠ k → t.pair m = s.pair m) ∧ t.syn = { s.syn with pairs := t.syn.pairs } ∧ Changes [.syn] [] s t) ∧
        (∀ q, s.syn.pends = [q] → q.pair = k → s.quiesced = false → q.count ≤ p.depth → p.depth ≠ 0 → v.toNat + q.count < 2 ^ 48 →
          t.pair k = { p with p := v.toNat + q.count, c := v.toNat })) ∧
      (¬ (s.noWaiter k = true ∧ s.pend k = 0) → Does (.pairInit n v) s (AccessRefused s)))

/-- CONSUME and PRODUCE on a pair with something waiting. -/
def Obligations.PairsServed : Prop :=
  ∀ (s : State) (n : BitVec 9) (count : W32), s.Inv → s.powered = true → s.quiesced = false → count ≠ 0 →
    let k := n.toNat
    let p := s.pair k
    let c := count.toNat
    (∀ q, s.syn.pends = [q] → q.pair = k → q.who = .software → s.noWaiter k = true → c ≤ p.p - p.c → p.p - (p.c + c) + q.count ≤ p.depth →
      p.p + q.count < 2 ^ 48 → p.depth ≠ 0 → Does (.consume n count) s fun t =>
        t.pair k = { p with p := p.p + q.count, c := p.c + c } ∧ t.syn = { s.syn with pairs := t.syn.pairs, pends := [] } ∧
        (∀ m : Nat, m ≠ k → t.pair m = s.pair m) ∧ Changes [.syn] [] s t) ∧
    (∀ w, s.syn.waiters = [w] → w.isPair = true → w.obj = k → (∀ m, w.who ≠ .slot m) → s.syn.pends = [] →
      p.p - p.c + c ≤ p.depth → p.p + c < 2 ^ 48 → w.count ≤ p.p + c - p.c → Does (.produce n count) s fun t =>
        t.pair k = { p with p := p.p + c, c := if w.consume then p.c + w.count else p.c } ∧
        t.syn = { s.syn with pairs := t.syn.pairs, waiters := [] } ∧ (∀ m : Nat, m ≠ k → t.pair m = s.pair m) ∧ Changes [.syn] [] s t)

/-- SYN_FENCE, SYN_FENCE_COMPLETE. -/
def Obligations.Fences : Prop :=
  ∀ s : State, s.Inv → s.powered = true →
    (∀ (token : BitVec 16) (obj : BitVec 10) (op : BitVec 2) (count : BitVec 16),
      let legal := op.toNat ≤ 1 || (op.toNat == 2 && count.toNat != 0 && obj.toNat < 512)
      (legal = true → Does (.synFence token obj op count) s fun t =>
        t.syn = { s.syn with fences := s.syn.fences ++ [{ token := token, op := op, obj := obj.toNat, count := count.toNat }] } ∧
        Changes [.syn] [] s t) ∧
      (legal = false → Does (.synFence token obj op count) s (AccessRefused s))) ∧
    (∀ f rest, s.syn.fences = f :: rest →
      let stays : List Fence := { f with handed := true } :: rest
      let p := s.pair f.obj
      (s.unitHolds .fence = false →
        (f.handed = true ∨ f.op = 0 → Does .synFenceComplete s fun t =>
          t.syn = { s.syn with fences := rest } ∧ t.rd Fld.synFence.tokenDone = f.token.toNat ∧ Changes [.syn, .regs] [Fld.synFence.tokenDone] s t) ∧
        (f.handed = false → f.op = 1 → s.quiesced = true → Does .synFenceComplete s fun t =>
          t.syn = { s.syn with fences := stays, held := s.syn.held ++ [.set f.obj .fence] } ∧ Changes [.syn] [] s t) ∧
        (f.handed = false → f.op = 1 → s.quiesced = false → s.syn.waiters = [] → f.obj < 1024 → Does .synFenceComplete s fun t =>
          t.flag f.obj = true ∧ t.syn.fences = rest ∧ t.rd Fld.synFence.tokenDone = f.token.toNat ∧
          Changes [.syn, .regs] (Fld.synFence.tokenDone :: signalFields) s t) ∧
        (f.handed = false → f.op = 2 → s.quiesced = false → s.syn.waiters = [] → s.syn.pends = [] → f.obj < 512 → p.depth ≠ 0 → p.p + f.count < 2 ^ 48 →
          (p.p - p.c + f.count ≤ p.depth → Does .synFenceComplete s fun t =>
            t.pair f.obj = { p with p := p.p + f.count } ∧ t.syn = { s.syn with fences := rest, pairs := t.syn.pairs } ∧
            t.rd Fld.synFence.tokenDone = f.token.toNat ∧ Changes [.syn, .regs] [Fld.synFence.tokenDone] s t) ∧
          (p.depth < p.p - p.c + f.count → f.count ≤ p.depth → Does .synFenceComplete s fun t =>
            t.syn = { s.syn with fences := stays, pends := [{ pair := f.obj, count := f.count, who := .fence }] } ∧ Changes [.syn] [] s t))) ∧
      (s.unitHolds .fence = true → f.handed = true → Does .synFenceComplete s fun t => t = s))

/-- WAIT_ARM, WAIT_TIMEOUT. -/
def Obligations.WaitSlots : Prop :=
  ∀ (s : State) (slot : Fin 64), s.Inv → s.powered = true →
    let n := slot.val
    let a := s.rdAddr Fld.synWaitNotify.base + 8 * n
    let fields : List Fld := [⟨Reg.synWait n, 0, 64⟩]
    (∀ v : W64, s.slotArmed n = false → s.quiesced = false → v.getLsbD 0 = true → v.getLsbD 1 = false →
      let o := bits v.toNat 2 10
      s.syn.waiters.any (fun w => !w.isPair && w.obj == o) = false →
      (s.flag o = false → Does (.waitArm slot v) s fun t =>
        t.slotArmed n = true ∧ t.rd (Fld.synWait.object n) = o ∧ t.rd (Fld.synWait.kind n) = 0 ∧
        t.rd (Fld.synWait.timeoutUs n) = bits v.toNat 29 20 ∧ (vget t.syn.waits n {}).tick = s.now ∧
        t.syn.waiters = s.syn.waiters ++ [{ isPair := false, obj := o, count := bits v.toNat 13 16, consume := v.getLsbD 12, who := .slot n }] ∧
        t.syn.flags = s.syn.flags ∧ t.syn.pairs = s.syn.pairs ∧ Changes [.syn, .regs] fields s t) ∧
      (s.flag o = true → Does (.waitArm slot v) s fun t =>
        t.slotArmed n = false ∧ t.flag o = false ∧ (∀ g : Nat, g ≠ o → t.flag g = s.flag g) ∧ t.syn.waiters = s.syn.waiters ∧
        t.load a 8 = zeros 8 ∧ BytesBut a 8 s t ∧ Changes [.syn, .regs, .mem] fields s t)) ∧
    (∀ v : W64, s.slotArmed n = true → (v.getLsbD 0 = true ∨ bits v.toNat 1 48 ≠ bits (s.getReg (Reg.synWait n)).toNat 1 48) →
      Does (.waitArm slot v) s (AccessRefused s)) ∧
    (s.slotArmed n = true → s.rd (Fld.synWait.timeoutUs n) ≠ 0 →
      s.elapsed (vget s.syn.waits n {}).tick (usTicks (s.rd (Fld.synWait.timeoutUs n))) = true →
      Does (.waitTimeout slot .arrivalWon) s (fun t => t.rd Fld.ctlArbRace.arrivalWon = min (s.rd Fld.ctlArbRace.arrivalWon + 1) (2 ^ Fld.ctlArbRace.arrivalWon.len - 1) ∧
        t.syn = s.syn ∧ Changes [.regs, .log] [Fld.ctlErrlog.head, Fld.ctlArbRace.arrivalWon] s t) ∧
      (s.syn.waiters.length ≤ 1 → s.syn.pends = [] → Does (.waitTimeout slot .none) s fun t =>
        t.slotArmed n = false ∧ t.syn.flags = s.syn.flags ∧ t.syn.pairs = s.syn.pairs ∧ BytesBut a 8 s t ∧
        t.syn.waiters = s.syn.waiters.filter (fun w => w.who != .slot n) ∧
        (s.rdB (Fld.synWait.kind n) = false → t.loadN a 8 = 0x0604) ∧ Changes [.syn, .mem] [] s t))

/-- REMOTE_WRITE, REMOTE_SIGNAL, REMOTE_TRANSFER_WATCHDOG. -/
def Obligations.RemoteSignals : Prop :=
  ∀ s : State, s.Inv →
    (∀ (n : Fin 42) (f : Frame),
      let off := f.offset.toNat
      let k := f.payload.length
      let w := s.rdAddr Fld.synRemoteWin.base
      let fresh : Remote := { rack := f.srcRack, pos := f.srcPos, tag := f.tag, gen := f.gen }
      let unknown := !s.syn.remote.any (Remote.isOf f)
      (s.hears n Ty.remoteWrite f = true →
        (s.remoteOpen = true → off + k ≤ s.rd Fld.synRemoteCfg.size * 4096 → k = 4 * f.count.toNat → unknown = true →
          Does (.remoteWrite n f) s fun t =>
            (∀ i : Nat, i < k → Memory.byteAt t.mem (w + off + i) = f.payload.getD i 0) ∧ BytesBut (w + off) k s t ∧
            t.syn = { s.syn with remote := { fresh with bytes := k, tick := s.now } :: t.syn.remote.tail } ∧ Changes [.syn, .mem] [] s t) ∧
        ((s.remoteOpen = false ∨ s.rd Fld.synRemoteCfg.size * 4096 < off + k) → Does (.remoteWrite n f) s fun t =>
          t.rd Fld.synErrStatus.remoteRefused = 1 ∧ t.rd Fld.synCounts.remoteRefused = min (s.rd Fld.synCounts.remoteRefused + 1) 65535 ∧
          Changes [.regs] [Fld.synErrStatus.remoteRefused, Fld.synCounts.remoteRefused] s t)) ∧
      (s.hears n Ty.remoteSignal f = true → k = 16 → fieldLE f.payload 8 1 = 1 →
        let i := fieldLE f.payload 10 2
        let bytes := bits (fieldLE f.payload 0 8) 0 48
        i < 1024 →
        (s.remoteOpen = true → unknown = true → bytes ≠ 0 → (s.syn.remote.filter (fun q => q.signal.isSome)).length < 32 →
          Does (.remoteSignal n f) s fun t =>
            t.syn = { s.syn with remote := t.syn.remote } ∧ t.syn.remote.head? = some { fresh with signal := some (bytes, false, i, fieldLE f.payload 12 4), tick := s.now } ∧
            Changes [.syn] [] s t) ∧
        (s.remoteOpen = true → unknown = true → bytes = 0 → s.quiesced = false → s.flag i = false → s.syn.waiters = [] →
          Does (.remoteSignal n f) s fun t =>
            t.flag i = true ∧ t.syn = { s.syn with flags := t.syn.flags, remote := t.syn.remote } ∧
            t.syn.remote.head? = some { fresh with closed := true, tick := s.now } ∧ Changes [.syn] [] s t) ∧
        (s.remoteOpen = false → Does (.remoteSignal n f) s fun t =>
          t.rd Fld.synErrStatus.remoteRefused = 1 ∧ Changes [.regs] [Fld.synErrStatus.remoteRefused, Fld.synCounts.remoteRefused] s t))) ∧
    (∀ r, s.syn.remote.head? = some r → r.closed = false → s.hw = true → s.elapsed r.tick (usTicks (s.rd Fld.synRemoteCfg.wdUs)) = true →
      Does (.remoteTransferWatchdog r.rack r.pos r.tag .none) s fun t =>
        t.syn.remote.head? = some { r with closed := true, signal := none, tick := s.now } ∧ t.syn = { s.syn with remote := t.syn.remote } ∧
        t.rd Fld.synErrStatus.remoteAbort = 1 ∧
        t.rd Fld.synCounts.signalsDiscarded = (if r.signal.isSome then min (s.rd Fld.synCounts.signalsDiscarded + 1) 65535 else s.rd Fld.synCounts.signalsDiscarded) ∧
        (t.log.head?.map fun e => (e.kind, e.detail)) = some (11, fitTo 12 (Config.remoteDetail r.rack r.pos r.tag)) ∧
        Changes [.syn, .regs, .log]
          (Fld.ctlErrlog.head :: Fld.synErrStatus.remoteAbort :: Fld.synCounts.signalsDiscarded :: signalFields) s t)

/-- CTX_SAVE, CTX_LOAD, QUIESCE_CLEAR. -/
def Obligations.ContextImages : Prop :=
  ∀ s : State, s.Inv → s.powered = true →
    (∀ v : W64,
      let a := bits v.toNat 6 42 * 64
      let fields : List Fld := [⟨Reg.synCtx, 0, 64⟩]
      let image (t : State) : Prop := ∀ m : Nat, m < 512 → t.pair m = Pair.ofBytes (s.load (a + 256 + 16 * m) 16)
      Does (.ctxSave v) s (fun t =>
        t.load a 128 = leBytes 128 s.syn.flags.toNat ∧ t.load (a + 128) 128 = leBytes 128 s.syn.ovr.toNat ∧
        (∀ m : Nat, m < 512 → t.load (a + 256 + 16 * m) 16 = (s.pair m).bytes) ∧
        BytesBut a 8448 s t ∧ t.syn = s.syn ∧ t.rd Fld.synCtx.result = 0 ∧ t.rdAddr Fld.synCtx.base = a ∧ Changes [.mem, .regs] fields s t) ∧
      (s.quiesced = false → Does (.ctxLoad v) s fun t => t.rd Fld.synCtx.result = 1 ∧ t.syn = s.syn ∧ Changes [.regs] fields s t) ∧
      (s.quiesced = true → (∃ m : Fin 512, (Pair.ofBytes (s.load (a + 256 + 16 * m.val) 16)).sound = false) → Does (.ctxLoad v) s fun t =>
        t.rd Fld.synCtx.result = 2 ∧ t.syn = s.syn ∧ Changes [.regs] fields s t) ∧
      (s.quiesced = true → (∀ m : Fin 512, (Pair.ofBytes (s.load (a + 256 + 16 * m.val) 16)).sound = true) → s.syn.pends = [] → Does (.ctxLoad v) s fun t =>
        t.syn.flags.toNat = s.loadN a 128 ∧ t.syn.ovr.toNat = s.loadN (a + 128) 128 ∧ image t ∧ t.rd Fld.synCtx.result = 0 ∧
        t.syn = { s.syn with flags := t.syn.flags, ovr := t.syn.ovr, pairs := t.syn.pairs } ∧ Changes [.syn, .regs] fields s t)) ∧
    (∀ v : W32,
      let fields : List Fld := [Fld.synCtrl.service, Fld.synCtrl.quiesce]
      (s.syn.held = [] → s.syn.waiters = [] → s.syn.pends = [] → Does (.quiesceClear v) s fun t =>
        t.rd Fld.synCtrl.quiesce = 0 ∧ t.rd Fld.synCtrl.service = b2n (v.getLsbD 0) ∧ t.syn = s.syn ∧ Changes [.regs] fields s t) ∧
      (s.quiesced = true → s.syn.waiters = [] → s.syn.pends = [] → ∀ f who, s.syn.held = [Held.set f who] →
        who ≠ .cutUnit → s.flag f = false → f < 1024 → Does (.quiesceClear v) s fun t =>
          t.rd Fld.synCtrl.quiesce = 0 ∧ t.flag f = true ∧ t.syn = { s.syn with flags := t.syn.flags, held := [] } ∧
          Changes [.syn, .regs] fields s t))

/-- TIME_TICK. -/
def Obligations.Ticks : Prop :=
  ∀ s : State, s.Inv →
    Does (.timeTick 0) s (fun t => t = s) ∧
    (∀ n : Nat, 1 ≤ n → s.tim.switchPending = false → (∀ b, (s.dom b).ops = []) → Does (.timeTick n) s fun t =>
      (∀ b, t.dom b = if (s.dom b).valid then (s.dom b).setTotal ((s.dom b).total + n * s.domInc b) else s.dom b) ∧
      t.now = s.now + n ∧ t.tim.activeB = s.tim.activeB ∧ t.tim.due = s.tim.due ∧ Changes [.tim, .now] [] s t) ∧
    (∀ b : Bool, s.tim.switchPending = false →
      (∀ sec ns, (s.dom b).ops = [.load sec ns] → Does (.timeTick 1) s fun t =>
        t.dom b = { s.dom b with sec := sec.toNat, ns := ns, frac := 0, valid := true, ops := [] }) ∧
      ((s.dom b).ops = [.invalidate] → Does (.timeTick 1) s fun t =>
        t.dom b = { s.dom b with sec := 0, ns := 0, frac := 0, valid := false, ops := [] }) ∧
      (∀ d, (s.dom b).ops = [.add d] → (s.dom b).valid = true → (s.dom b).total + s.domInc b < 2 ^ 64 * secUnits →
        ∀ x : Nat, (x : Int) = (s.dom b).total + s.domInc b + d * 2 ^ 32 → x < 2 ^ 64 * secUnits → Does (.timeTick 1) s fun t =>
          t.dom b = { (s.dom b).setTotal x with ops := [] }) ∧
      (∀ sec ns d, (s.dom b).ops = [.load sec ns, .add d] →
        ∀ x : Nat, (x : Int) = sec.toNat * secUnits + ns * 2 ^ 32 + d * 2 ^ 32 → x < 2 ^ 64 * secUnits → Does (.timeTick 1) s fun t =>
          t.dom b = { (s.dom b).setTotal x with valid := true, ops := [] })) ∧
    (s.tim.switchPending = true → (∀ b, (s.dom b).ops = []) → (s.dom (!s.tim.activeB)).valid = true → ∀ n : Nat, 1 ≤ n → Does (.timeTick n) s fun t =>
      t.tim.activeB = !s.tim.activeB ∧ t.tim.switchPending = false ∧
      t.rd Fld.timCtrl.switches = min (s.rd Fld.timCtrl.switches + 1) 65535 ∧ Changes [.tim, .now, .regs] [Fld.timCtrl.switches] s t)

/-- TIME_LOAD, TIME_ADD, TIME_INVALIDATE, TIME_SWITCH. -/
def Obligations.TimeCommands : Prop :=
  ∀ s : State, s.Inv → s.powered = true →
    (∀ b : Bool,
      let set (o : TimOp) (t : State) : Prop := t.dom b = { s.dom b with ops := (s.dom b).ops ++ [o] } ∧ t.dom (!b) = s.dom (!b) ∧
        t.tim.activeB = s.tim.activeB ∧ t.tim.switchPending = s.tim.switchPending ∧ Changes [.tim] [] s t
      ((s.tim.activeB ≠ b ∨ (s.dom b).valid = false) →
        Does (.timeLoad b) s (set (.load (s.getReg (Reg.timDomSetSec (b2n b))) (s.rd (Fld.timDomSetNs.ns (b2n b))))) ∧
        Does (.timeAdd b) s (set (.add (s.getReg (Reg.timDomOffset (b2n b))).toInt)) ∧ Does (.timeInvalidate b) s (set .invalidate)) ∧
      (s.tim.activeB = b → (s.dom b).valid = true →
        Does (.timeLoad b) s (AccessRefused s) ∧ Does (.timeAdd b) s (AccessRefused s) ∧ Does (.timeInvalidate b) s (AccessRefused s))) ∧
    (∀ v : W32,
      let head : List Fld := [Fld.timCtrl.tslogEn, Fld.timTslogHead.head]
      ((s.dom (!s.tim.activeB)).valid = true → Does (.timeSwitch v) s fun t =>
        t.tim = { s.tim with switchPending := true } ∧ t.rd Fld.timCtrl.tslogEn = b2n (v.getLsbD 4) ∧ Changes [.tim, .regs] head s t) ∧
      ((s.dom (!s.tim.activeB)).valid = false → Does (.timeSwitch v) s fun t =>
        t.tim = s.tim ∧ t.rd Fld.ctlErrStatus.accessErr = 1 ∧
        Changes [.regs, .log] (Fld.ctlErrlog.head :: Fld.ctlErrStatus.accessErr :: head) s t))

/-- TIM_SEC_READ. -/
def Obligations.TimeRead : Prop :=
  ∀ (s : State) (b : Bool), s.powered = true → Does (.timSecRead b) s fun t =>
    let d := s.dom b
    t.busRead = (if d.valid then BitVec.ofNat 64 d.sec else 0) ∧
    t.dom b = { d with latNs := if d.valid then d.ns else 0, latFrac := if d.valid then d.frac / 65536 else 0 } ∧
    t.dom (!b) = s.dom (!b) ∧ t.tim.activeB = s.tim.activeB ∧ t.tim.due = s.tim.due ∧ Changes [.tim, .busRead] [] s t

/-- TIME_PROBE_SEND, TIME_PROBE, FOLLOW_UP_SEND, PROBE_RESPONSE, FOLLOW_UP. -/
def Obligations.TimeProbes : Prop :=
  ∀ (s : State) (phase : BitVec 14), s.Inv → s.powered = true →
    let on := s.rdB Fld.timCtrl.tslogEn
    let logged (k : Nat) (t : State) : Prop :=
      t.rd Fld.timTslogHead.head = (s.rd Fld.timTslogHead.head + k * b2n on) % 2 ^ 48 ∧
      Only [.regs, .mem, .tim, .outbox] s t ∧ FieldsBut [Fld.timTslogHead.head] s t ∧ (on = false → t.mem = s.mem) ∧
      (k = 1 → BytesBut (s.rdAddr Fld.timTslog.base + s.rd Fld.timTslogHead.head % 2 ^ (s.rd Fld.timTslog.sizeLog2 + 8) * 32) 32 s t)
    let sent (n : Nat) (rack : BitVec 10) (pos : BitVec 7) (ty : BitVec 8) (seq : W32) (domB : Bool) (pay : List Byte) (t : State) : Prop :=
      t.outbox = (s.send (some n) (.pos rack pos) ty { seq := seq, hop := BitVec.ofNat 8 (b2n domB), payload := pay }).outbox
    (∀ v : W32,
      let n := bits v.toNat 0 6
      (s.takesPart n = true → s.present n = true → Does (.timeProbeSend v phase) s fun t =>
        sent n (BitVec.ofNat 10 (bits v.toNat 13 10)) (BitVec.ofNat 7 (bits v.toNat 6 7)) Ty.probe (BitVec.ofNat 32 (bits v.toNat 23 8)) s.tim.activeB (zeros 16) t ∧
        t.tim = s.tim ∧ logged 1 t) ∧
      (s.takesPart n = false → s.present n = true → Does (.timeProbeSend v phase) s fun t => t = s) ∧
      (s.present n = false → Does (.timeProbeSend v phase) s (AccessRefused s))) ∧
    (∀ (n : Fin 42) (f : Frame), f.payload.length = 16 →
      (s.takesPart n = true → s.hears n Ty.probe f = true → Does (.timeProbe n f phase) s fun t =>
        sent n f.srcRack f.srcPos Ty.probeResponse f.seq s.tim.activeB (s.rxStamp n phase).bytes t ∧
        t.tim = { s.tim with due := s.tim.due ++
          [{ slice := n, rack := f.srcRack, pos := f.srcPos, seq := f.seq, stamp := s.txStamp n phase }] } ∧ logged 2 t) ∧
      (s.takesPart n = true → s.hears n Ty.probeResponse f = true → Does (.probeResponse n f phase) s fun t => t.tim = s.tim ∧ t.outbox = s.outbox ∧ logged 1 t) ∧
      (s.takesPart n = true → s.hears n Ty.followUp f = true → Does (.followUp n f phase) s fun t => t.tim = s.tim ∧ t.outbox = s.outbox ∧ logged 1 t) ∧
      (s.takesPart n = false → s.hears n Ty.probe f = true → Does (.timeProbe n f phase) s fun t => t = s)) ∧
    (s.hw = true → ∀ d, s.tim.due.head? = some d → s.takesPart d.slice = true → Does (.followUpSend phase) s fun t =>
      sent d.slice d.rack d.pos Ty.followUp d.seq d.stamp.domB d.stamp.bytes t ∧ t.tim = { s.tim with due := s.tim.due.tail } ∧ logged 1 t)

/-- BARRIER_ENABLE, BARRIER_DISABLE, BARRIER_ARRIVE. -/
def Obligations.BarrierArrivals : Prop :=
  ∀ (s : State) (b : Fin 20), s.Inv → s.powered = true →
    let x := s.bar b
    let cfg : List Fld := [⟨Reg.synBarCfg b, 0, 64⟩]
    let alone (t : State) : Prop := ∀ c : Nat, c ≠ b.val → t.bar c = s.bar c
    let sum := s.getReg (Reg.synBarArrSum b)
    let or := s.getReg (Reg.synBarArrOr b)
    let cur := barInsert { idx := s.memberIdx, sum := sum, or := or } x.cur
    let missing := (s.barMask b).any (fun i => i != s.memberIdx && !x.cur.any (fun v => v.idx == i))
    (∀ v : W64,
      (s.rdB (Fld.synBarCfg.enable b) = false → DoesThen (.barrierEnable b v) s fun t =>
        t.bar b = { st := .opened, episode := epochEpisode s.rst.epoch, lastStatus := x.lastStatus, resSum := x.resSum, resOr := x.resOr } ∧
        alone t ∧ t.rd (Fld.synBarCfg.enable b) = 1 ∧ t.rd (Fld.synBarCfg.timeoutUs b) = bits v.toNat 1 20 ∧
        t.rd (Fld.synBarCfg.donePair b) = bits v.toNat 32 9 ∧ Changes [.syn, .regs] cfg s t) ∧
      (s.rdB (Fld.synBarCfg.enable b) = true → DoesThen (.barrierDisable b v) s fun t =>
        t.bar b = { st := .disabled, episode := x.episode, lastStatus := x.lastStatus, resSum := x.resSum, resOr := x.resOr } ∧ alone t ∧
        t.rd (Fld.synBarCfg.enable b) = 0 ∧ t.rd (Fld.synBarCfg.timeoutUs b) = s.rd (Fld.synBarCfg.timeoutUs b) ∧
        Changes [.syn, .regs, .log] (Fld.ctlErrlog.head :: Fld.ctlErrStatus.accessErr :: [Fld.synBarCfg.enable b]) s t)) ∧
    (x.st = .opened → x.queue = [] → s.unitHolds (.barrier b) = true → s.rdB Fld.synSelf.valid = true → DoesThen (.barrierArrive b) s fun t =>
      t.bar b = { x with queue := [{ fn := .software, sum := sum, or := or }] } ∧ alone t ∧ Changes [.syn] [] s t) ∧
    (x.st = .opened → x.queue = [] → s.unitHolds (.barrier b) = false → b.val < 16 → s.rdB Fld.synSelf.valid = true →
      (missing = true → DoesThen (.barrierArrive b) s fun t =>
        t.bar b = { x with st := .arrived, fn := some .software, tick := s.now, cur := cur } ∧ alone t ∧
        t.outbox = (s.barFan b Ty.arrival (barFrame b x.episode 0 (barPayload sum or ++ leBytes 1 s.memberIdx ++ zeros 7))).outbox ∧
        Changes [.syn, .outbox] [] s t) ∧
      (missing = false → s.rdB (Fld.synBarCfg.doneFlagEn b) = false → s.rdB (Fld.synBarCfg.donePairEn b) = false →
        DoesThen (.barrierArrive b) s fun t =>
          let r := barFold (cur.filter (fun v => (s.barMask b).contains v.idx || v.idx == s.memberIdx))
          (t.bar b).st = .opened ∧ (t.bar b).episode = nextEpisode x.episode ∧ (t.bar b).cur = x.next ∧ (t.bar b).lastStatus = 0 ∧
          (t.bar b).resSum = r.1 ∧ (t.bar b).resOr = r.2 ∧ alone t ∧ Changes [.syn, .outbox] [] s t)) ∧
    ((x.st = .arrived ∨ (b.val < 16 ∧ s.rdB Fld.synSelf.valid = false)) → DoesThen (.barrierArrive b) s (AccessRefused s)) ∧
    (x.st = .disabled → (16 ≤ b.val ∨ s.rdB Fld.synSelf.valid = true) → DoesThen (.barrierArrive b) s fun t => t = s)

/-- BARRIER_ARRIVAL_FRAME, TREE_ARRIVAL_UP. -/
def Obligations.BarrierFrames : Prop :=
  ∀ (s : State) (n : Fin 42) (f : Frame), s.Inv → f.payload.length = 24 →
    let b := f.channel.toNat
    let x := s.bar b
    let alone (t : State) : Prop := ∀ c : Nat, c ≠ b → t.bar c = s.bar c
    let v : BarVal := { idx := fieldLE f.payload 16 1 % 128, sum := payloadSum f, or := payloadOr f, src := some (f.srcRack, f.srcPos) }
    let w : BarVal := { v with idx := fieldLE f.payload 16 2 }
    let here := barInsert v x.cur
    let all := (s.barMask b ++ [s.memberIdx]).all (fun i => here.any (fun v => v.idx == i))
    let again (l : List BarVal) (i : Nat) : Bool := l.any (fun v => v.idx == i)
    let kid := (f.hop.toNat, f.srcRack, f.srcPos)
    let kids := if x.kids.contains kid then x.kids else x.kids ++ [kid]
    (s.hears n Ty.arrival f = true → f.hop = 0 → b < 16 → x.st ≠ .disabled → f.seq ≠ nextEpisode x.episode →
      (f.seq = x.episode → again x.cur v.idx = true → DoesThen (.barrierArrivalFrame n f) s (AccessRefused s))) ∧
    (s.hears n Ty.arrival f = true → f.hop = 0 → b < 16 → x.st ≠ .disabled → again x.cur v.idx = false → again x.next v.idx = false →
      (f.seq = x.episode → (x.st = .opened ∨ all = false) → DoesThen (.barrierArrivalFrame n f) s fun t =>
        t.bar b = { x with cur := here } ∧ alone t ∧ Changes [.syn] [] s t) ∧
      (f.seq = nextEpisode x.episode → f.seq ≠ x.episode → DoesThen (.barrierArrivalFrame n f) s fun t =>
        t.bar b = { x with next := barInsert v x.next } ∧ alone t ∧ Changes [.syn] [] s t) ∧
      (f.seq = x.episode → x.st = .arrived → all = true → s.rdB (Fld.synBarCfg.doneFlagEn b) = false →
        s.rdB (Fld.synBarCfg.donePairEn b) = false → DoesThen (.barrierArrivalFrame n f) s fun t =>
          let r := barFold (here.filter (fun v => (s.barMask b).contains v.idx || v.idx == s.memberIdx))
          (t.bar b).st = .opened ∧ (t.bar b).episode = nextEpisode x.episode ∧ (t.bar b).cur = x.next ∧ (t.bar b).lastStatus = 0 ∧
          (t.bar b).resSum = r.1 ∧ (t.bar b).resOr = r.2 ∧ alone t ∧ Changes [.syn] [] s t) ∧
      (f.seq ≠ x.episode → f.seq ≠ nextEpisode x.episode → DoesThen (.barrierArrivalFrame n f) s (Stale n s))) ∧
    (s.hears n Ty.treeUp f = true → 16 ≤ b → b < 20 → x.st = .opened → f.seq = x.episode →
      (f.hop = 1 → again x.racks w.idx = false → 2 ≤ s.treeRole b → DoesThen (.treeArrivalUp n f) s fun t =>
        t.bar b = { x with racks := barInsert w x.racks, kids := kids } ∧ alone t ∧ Changes [.syn] [] s t) ∧
      (f.hop = 2 → again x.groups w.idx = false → s.treeRole b = 3 → DoesThen (.treeArrivalUp n f) s fun t =>
        t.bar b = { x with groups := barInsert w x.groups, kids := kids } ∧ alone t ∧ Changes [.syn] [] s t))

/-- TREE_COMPLETION, BARRIER_ABORT_FRAME, BARRIER_TIMEOUT. -/
def Obligations.BarrierEnds : Prop :=
  ∀ s : State, s.Inv →
    (∀ (n : Fin 42) (f : Frame),
      let b := f.channel.toNat
      let x := s.bar b
      (s.hears n Ty.treeDone f = true → 16 ≤ b → b < 20 → f.payload.length = 16 → x.st = .arrived → f.seq = x.episode → f.hop = 0 → s.treeRole b = 0 →
        s.rdB (Fld.synBarCfg.doneFlagEn b) = false → s.rdB (Fld.synBarCfg.donePairEn b) = false → DoesThen (.treeCompletion n f) s fun t =>
          BarEnded s b 0 t ∧ (t.bar b).resSum = payloadSum f ∧ (t.bar b).resOr = payloadOr f ∧ Changes [.syn] [] s t) ∧
      (s.hears n Ty.barAbort f = true → b < 16 → f.payload.length = 8 → x.st ≠ .disabled → f.seq = x.episode →
        DoesThen (.barrierAbortFrame n f) s fun t =>
          BarEnded s b (BitVec.ofNat 16 (fieldLE f.payload 0 2)) t ∧ (t.bar b).resSum = x.resSum ∧ (t.bar b).resOr = x.resOr ∧
          t.rd Fld.synErrStatus.barAbort = 1 ∧ Changes [.syn, .regs] (Fld.synErrStatus.barAbort :: signalFields) s t)) ∧
    (∀ b : Fin 20, s.hw = true → (s.bar b).st = .arrived → s.rd (Fld.synBarCfg.timeoutUs b) ≠ 0 →
      s.elapsed (s.bar b).tick (usTicks (s.rd (Fld.synBarCfg.timeoutUs b))) = true →
      (b.val < 16 → DoesThen (.barrierTimeout b .none) s fun t =>
        BarEnded s b 0x0604 t ∧ (t.bar b).resSum = (s.bar b).resSum ∧ t.rd Fld.synErrStatus.barTimeout = 1 ∧
        t.outbox = (s.barFan b Ty.barAbort (barFrame b (s.bar b).episode 0 (abortPayload 0x0604))).outbox ∧
        Changes [.syn, .regs, .outbox] (Fld.synErrStatus.barTimeout :: signalFields) s t) ∧
      (16 ≤ b.val → DoesThen (.barrierTimeout b .none) s fun t => BarEnded s b 0x0604 t ∧ t.rd Fld.synErrStatus.barTimeout = 1) ∧
      DoesThen (.barrierTimeout b .arrivalWon) s fun t => t.syn = s.syn ∧ Changes [.regs, .log] [Fld.ctlErrlog.head, Fld.ctlArbRace.arrivalWon] s t)

/-- BUCKET_ISSUE, BUCKET_START. -/
def Obligations.BucketIssueStart : Prop :=
  ∀ (s : State) (ch : Fin 32), s.Inv →
    let x := s.chan ch
    let k := s.rd (Fld.redChSync.issuePair ch)
    let p := s.pair k
    let raw := s.load (s.redDescAt ch x.nextIssue) 64
    let one (t : State) : Prop := t.pair k = { p with c := p.c + 1 } ∧ (∀ m : Nat, m ≠ k → t.pair m = s.pair m) ∧
      (∀ c : Nat, c ≠ ch.val → t.chan c = s.chan c)
    (s.chanServes ch = false → DoesThen (.bucketIssue ch) s (fun t => t = s) ∧ DoesThen (.bucketStart ch) s fun t => t = s) ∧
    (s.chanServes ch = true → s.quiesced = false → p.c < p.p → p.depth ≠ 0 → s.noWaiter k = true → s.syn.pends = [] →
      (x.lateSeqs = [] → s.bucketBad ch raw x.nextIssue = false → DoesThen (.bucketIssue ch) s fun t =>
        t.chan ch = { x with nextIssue := x.nextIssue + 1, issued := x.issued ++ [{ seq := x.nextIssue, desc := bucketDesc raw }] } ∧ one t ∧
        Changes [.red, .syn] [] s t) ∧
      (x.lateSeqs = [] → s.bucketBad ch raw x.nextIssue = true → s.syn.waiters = [] → DoesThen (.bucketIssue ch) s fun t =>
        (t.chan ch).aborted = true ∧ (t.chan ch).nextIssue = x.nextIssue + 1 ∧ t.log.length = min 1024 (s.log.length + 1) ∧
        FieldsBut abortFields s t ∧
        ((bucketDesc raw).card = false → x.issued.all (fun b => !b.desc.card) = true →
          Changes [.regs, .mem, .log, .red, .syn, .outbox] (Fld.ctlErrlog.head :: signalFields ++ bucketEndFields) s t)) ∧
      (x.lateSeqs ≠ [] → DoesThen (.bucketIssue ch) s fun t =>
        t.chan ch = { x with lateSeqs := x.lateSeqs.tail } ∧ one t ∧
        t.rd Fld.redCounts.lateDiscard = min (s.rd Fld.redCounts.lateDiscard + 1) (2 ^ Fld.redCounts.lateDiscard.len - 1) ∧
        Changes [.red, .syn, .regs] [Fld.redCounts.lateDiscard] s t)) ∧
    (s.chanServes ch = true → ∀ b, x.issued.head? = some b →
      let go := !b.dead && b.seq == x.nextSeq && x.running.all (fun r => r.gone) && s.bucketReady ch b
      let plan := s.plan ch b
      (go = false → DoesThen (.bucketStart ch) s fun t => t = s) ∧
      (go = true → s.planOpen plan = false → DoesThen (.bucketStart ch) s fun t =>
        (t.chan ch).aborted = true ∧ (t.chan ch).issued.all (fun d => d.dead) = true ∧ t.log.length = min 1024 (s.log.length + 1) ∧
        (BitVec.ofNat 5 ch.val, b.seq, BitVec.ofNat 32 b.desc.step.toNat) ∈ t.red.notices ∧ FieldsBut abortFields s t) ∧
      (go = true → s.planOpen plan = true → s.red.tags.freeCount < plan.length →
        (b.tagWait = false → DoesThen (.bucketStart ch) s fun t =>
          t.rd Fld.redTags.waits = min (s.rd Fld.redTags.waits + 1) (2 ^ Fld.redTags.waits.len - 1) ∧
          t.chan ch = { x with issued := { b with tagWait := true } :: x.issued.tail } ∧
          (∀ c : Nat, c ≠ ch.val → t.chan c = s.chan c) ∧ Changes [.red, .regs] [Fld.redTags.waits] s t) ∧
        (b.tagWait = true → DoesThen (.bucketStart ch) s fun t => t = s)) ∧
      (go = true → s.planOpen plan = true → plan.length ≤ s.red.tags.freeCount → 2 ≤ (s.chCfg ch).n → s.bucket ch b.seq = none →
        x.running.all (fun r => r.undel.isEmpty && r.hold.isEmpty) = true →
        s.red.waiting.any (fun w => w.frame.channel.toNat == ch.val && w.frame.seq == b.seq) = false → DoesThen (.bucketStart ch) s fun t =>
          (t.chan ch).issued = x.issued.tail ∧ (t.chan ch).nextSeq = b.seq + 1 ∧
          (t.chan ch).running.any (fun d => d.seq == b.seq && d.desc == b.desc && !d.completed && !d.dead && d.arrival == s.now) = true ∧
          t.red.tags.inUse.length = s.red.tags.inUse.length + plan.length ∧
          (∀ c : Nat, c ≠ ch.val → t.chan c = s.chan c) ∧
          (b.desc.direct = false → Changes [.red, .mem, .outbox, .freeCtr] [] s t) ∧
          Changes [.red, .mem, .ful, .regs, .outbox, .freeCtr] fulAbortFields s t))

/-- REDUCE_PARTIAL_FRAME, RESULT_COPY_FRAME, ALL_GATHER_DATA_FRAME. -/
def Obligations.BucketFrames : Prop :=
  ∀ (s : State) (n : Fin 42) (f : Frame), s.Inv →
    let ch := f.channel.toNat
    let c := s.chCfg ch
    let off := f.offset.toNat
    let cnt := f.count.toNat
    let data : List (BitVec 8 × Instr) :=
      [(Ty.partial', .reducePartialFrame n f), (Ty.resultCopy, .resultCopyFrame n f), (Ty.allGather, .allGatherDataFrame n f)]
    (∀ d ∈ data, s.hears n d.1 f = true → s.takesPart n = false → DoesThen d.2 s (Stale n s)) ∧
    (∀ d ∈ data, s.hears n d.1 f = true → s.takesPart n = true →
      (s.lookup f = .stale → (d.1 = Ty.resultCopy → s.revive f = s) → DoesThen d.2 s (Stale n s)) ∧
      (s.lookup f = .early → DoesThen d.2 s fun t =>
        t.red = { s.red with waiting := s.red.waiting ++ [{ slice := n, ty := d.1, frame := f }] } ∧ Changes [.red] [] s t)) ∧
    (∀ b, s.bucket ch f.seq = some b → s.lookup f = .started b → b.completed = false → s.takesPart n = true → b.undel = [] → b.hold = [] →
      (s.hears n Ty.partial' f = true → f.stage = false → b.desc.gather = false → f.pfmt = c.bf16 → f.card = false →
        f.srcRack = s.myRack → f.srcPos = c.prev → f.hop.toNat + 2 = c.n → c.r = 1 → b.desc.direct = false → s.holders ch = [] →
        (s.chan ch).running.length = 1 →
        let k := (c.pos + 2 * c.n - 2 - f.hop.toNat) % c.n
        ∀ i, place (c.chunk b.desc.e k) (uflFrag c.pBytes) c.pBytes off cnt f.payload.length = .at' i →
        s.hopReady ch b f.hop.toNat (c.ufl.getD (i % c.ufl.length) 0) = true →
        ∀ b1, (b.bindRx Ty.partial' (c.ufl.getD (i % c.ufl.length) 0) f).bind (fun b => b.take' f.hop.toNat off) = some b1 →
        let vs := partials c.bf16 f.payload
        let sum := ((List.range vs.length).zip vs).map (fun y => add32 y.2 (s.contrib b1 (off + y.1)))
        DoesThen (.reducePartialFrame n f) s fun t =>
          t.load (b.desc.result + 4 * (off - (c.piece b.desc.e c.own).1)) (4 * vs.length) = sum.flatMap (fun v => leBytes 4 v.toNat) ∧
          BytesBut (b.desc.result + 4 * (off - (c.piece b.desc.e c.own).1)) (4 * vs.length) s t ∧
          (∀ b2, t.bucket ch f.seq = some b2 → b2.arrival = s.now ∧ b2.got = b.got ++ [(f.hop.toNat, off)] ∧
            ∀ j : Nat, j < sum.length → kget b2.finals (off + j) = sum[j]?) ∧
          Changes [.red, .mem] [] s t) ∧
      (s.hears n Ty.resultCopy f = true → b.desc.gather = false → f.pfmt = false → f.card = false → f.hop = 0 → b.desc.direct = false →
        let piece := off / max 1 (c.u b.desc.e)
        (if f.stage then piece / c.r = c.pos ∧ f.srcRack.toNat = piece % c.r ∧ piece % c.r ≠ c.x
          else piece % c.r = c.x ∧ f.srcRack = s.myRack ∧ piece ≠ c.own) →
        ∀ i, place (c.piece b.desc.e piece) (if f.stage then 2048 else 512) 4 off cnt f.payload.length = .at' i →
        ((b.bindRx Ty.resultCopy ((if f.stage then c.so else c.ufl).getD (i % (if f.stage then c.so else c.ufl).length) 0) f).bind
          (fun b => b.take' 1024 off)).isSome = true →
        let a := b.desc.result + 4 * (off - (c.piece b.desc.e piece).1)
        ((s.chan ch).running.length = 1 → DoesThen (.resultCopyFrame n f) s fun t =>
          t.load a f.payload.length = f.payload ∧ BytesBut a f.payload.length s t ∧
          (∀ b2, t.bucket ch f.seq = some b2 → b2.copies.contains piece = true ∧ b2.arrival = s.now) ∧ Changes [.red, .mem] [] s t) ∧
        (∀ b0, (s.chan ch).running = [b0, b] → b0.seq ≠ b.seq → s.delivered ch b0 = false → b0.undel = [] → b0.hold = [] →
          DoesThen (.resultCopyFrame n f) s fun t =>
            (∀ b2, t.bucket ch f.seq = some b2 →
              b2.hold = [{ off := 4 * (off - (c.piece b.desc.e piece).1), bytes := f.payload }] ∧ b2.copies.contains piece = true) ∧
            Changes [.red] [] s t)) ∧
      (s.hears n Ty.allGather f = true → b.desc.gather = true → f.pfmt = false → f.hop = 0 → f.stage = false → f.card = false →
        f.srcRack = s.myRack → f.srcPos ≠ s.myPos → (s.chan ch).running.length = 1 →
        let es := b.desc.fmt.toNat
        let k := off / max 1 (c.r * c.u b.desc.e)
        k ≠ c.pos → ∀ i, place (c.chunk b.desc.e k) (uflFrag es) es off cnt f.payload.length = .at' i →
        ((b.bindRx Ty.allGather (c.ufl.getD (i % c.ufl.length) 0) f).bind (fun b => b.take' 0 off)).isSome = true →
        DoesThen (.allGatherDataFrame n f) s fun t =>
          t.load (b.desc.result + off * es) f.payload.length = f.payload ∧ BytesBut (b.desc.result + off * es) f.payload.length s t ∧
          t.acksOut.map (fun a => (a.rack, a.pos, a.channel, a.seq)) =
            s.acksOut.map (fun a => (a.rack, a.pos, a.channel, a.seq)) ++ [(f.srcRack, f.srcPos, f.channel, f.seq)] ∧
          Changes [.red, .mem, .outbox, .acksOut] [] s t))

/-- BUCKET_COMPLETE, REDUCTION_STREAM_WATCHDOG, BUCKET_ABORT_NOTICE. -/
def Obligations.BucketEnds : Prop :=
  ∀ s : State, s.Inv → s.hw = true →
    (∀ ch : Fin 32,
      let x := s.chan ch
      let k := s.rd (Fld.redChSync.donePair ch)
      let p := s.pair k
      (s.unitHolds (.channel ch) = false → s.quiesced = false → s.syn.waiters = [] → s.syn.pends = [] → p.p - p.c < p.depth → p.p + 1 < 2 ^ 48 →
        x.running.any (fun b => b.dead) = false → x.issued.any (fun b => b.dead) = false →
        ∀ b, x.running.find? (fun b => !b.completed) = some b → b.status = 0 → b.late = false → b.hold = [] → b.desc.gather = false →
          b.desc.direct = false → s.bucketFull ch b = true → s.copyFull ch b = true → b.undel = [] → b.catchUp = [] →
        let a := s.redDescAt ch b.seq + 48
        let after (t : State) : Prop := t.pair k = { p with p := p.p + 1 } ∧ (∀ d, t.bucket ch b.seq = some d → d.completed = true) ∧
          BytesBut a 16 s t ∧ (∀ c : Nat, c ≠ ch.val → t.chan c = s.chan c) ∧ Only [.red, .syn, .mem, .regs] s t
        (minOpt (firstNf b.finals) (firstNf b.copied) = none → DoesThen (.bucketComplete ch) s fun t =>
          t.load a 16 = zeros 16 ∧ (t.chan ch).lastStatus = 0 ∧ after t ∧ FieldsBut [] s t ∧
          (b.desc.lastOfStep = true → t.red.votes.any (fun v => v.step == b.desc.step && v.ended.getLsbD ch) = true)) ∧
        (∀ i, minOpt (firstNf b.finals) (firstNf b.copied) = some i → i < 2 ^ 48 → DoesThen (.bucketComplete ch) s fun t =>
          t.load a 16 = leBytes 2 St.nonfinite.toNat ++ zeros 6 ++ leBytes 8 (i + 2 ^ 63) ∧ (t.chan ch).lastStatus = St.nonfinite ∧ after t ∧
          t.rd Fld.redErrStatus.nonfinite = 1 ∧ (s.rd Fld.redNfLog.valid = 0 → t.rd Fld.redNfLog.index = i ∧ t.rd Fld.redNfLog.channel = ch.val) ∧
          t.red.votes.any (fun v => v.step == b.desc.step && v.skip) = true ∧ FieldsBut bucketEndFields s t)) ∧
      (∀ b, s.streamLate ch = some b → s.bucket ch b.seq = none → DoesThen (.reductionStreamWatchdog ch .none) s fun t =>
        (t.chan ch).aborted = true ∧ (t.chan ch).issued.all (fun d => d.dead) = true ∧
        (BitVec.ofNat 5 ch.val, b.seq, BitVec.ofNat 32 b.desc.step.toNat) ∈ t.red.notices ∧ FieldsBut abortFields s t) ∧
      (∀ b, s.streamLate ch = some b → s.bucket ch b.seq = some b →
        DoesThen (.reductionStreamWatchdog ch .none) s (fun t =>
          (t.chan ch).aborted = true ∧ (∀ d, t.bucket ch b.seq = some d → d.dead = true ∧ d.status = St.lengthShort) ∧
          (BitVec.ofNat 5 ch.val, b.seq, BitVec.ofNat 32 b.desc.step.toNat) ∈ t.red.notices ∧ FieldsBut abortFields s t) ∧
        DoesThen (.reductionStreamWatchdog ch .arrivalWon) s fun t =>
          t.bucket ch b.seq = some { b with arrival := s.now } ∧
          t.rd Fld.ctlArbRace.arrivalWon = min (s.rd Fld.ctlArbRace.arrivalWon + 1) (2 ^ Fld.ctlArbRace.arrivalWon.len - 1) ∧
          Changes [.red, .regs, .log] [Fld.ctlErrlog.head, Fld.ctlArbRace.arrivalWon] s t)) ∧
    (∀ (n : Fin 42) (f : Frame), s.hears n Ty.bucketAbort f = true → s.isWarden = false →
      let key := (f.channel, f.seq, f.stepLo)
      ((s.red.notices.contains key = true ∨ (s.chCfg f.channel.toNat).n < 2) → DoesThen (.bucketAbortNotice n f) s (Stale n s)) ∧
      (s.red.notices.contains key = false → 2 ≤ (s.chCfg f.channel.toNat).n → s.bucket f.channel.toNat f.seq = none →
        DoesThen (.bucketAbortNotice n f) s fun t =>
          (t.chan f.channel.toNat).aborted = true ∧ key ∈ t.red.notices ∧ t.rd Fld.redErrStatus.abortNotice = 1 ∧ FieldsBut abortFields s t))

/-- FETCH_REQUEST_FRAME, FETCH_DATA_FRAME, CONTRIB_WATCHDOG_EXPIRY, DROP_NOTICE, MCAST_ACK, MCAST_STALL_EXPIRY. -/
def Obligations.FetchesMulticast : Prop :=
  ∀ s : State, s.Inv →
    (∀ (n : Fin 42) (f : Frame),
      let ch := f.channel.toNat
      let x := s.chan ch
      let c := s.chCfg ch
      let first := f.offset.toNat
      let cnt := f.count.toNat
      (s.hears n Ty.fetchRequest f = true → s.rdB (Fld.redChCfg.enable ch) = true → f.payload.length = 16 →
        let d := bucketDesc (s.load (s.redDescAt ch f.seq) 64)
        let a := fieldLE f.payload 0 6
        let m := fieldLE f.payload 8 6
        let w := elemBits d.fmt.toNat
        d.gather = false → d.seq = f.seq → BitVec.ofNat 32 d.step.toNat = f.stepLo → 0 < m →
        m ≤ (if isMx d.fmt.toNat then 1024 else uflFrag (max 1 ((w + 7) / 8))) → a + m ≤ d.e →
        DoesThen (.fetchRequestFrame n f) s fun t =>
          t.outbox = (s.sendTo f.srcRack f.srcPos Ty.fetchData
            { stage := f.stage, last := true, channel := f.channel, tag := f.tag, gen := f.gen, seq := f.seq, stepLo := f.stepLo,
              offset := BitVec.ofNat 48 a, count := BitVec.ofNat 16 m, payload := s.load (d.src + a * w / 8) ((m * w + 7) / 8) ++
                (if isMx d.fmt.toNat then s.load (d.scale + a / 32) ((m + 31) / 32) else []) }).outbox ∧
          Changes [.outbox] [] s t) ∧
      (s.hears n Ty.fetchData f = true → ∀ b, s.fetching ch f.seq = some b → s.fetchMatch f b = true → f.stage = b.desc.gather →
        f.srcRack = s.myRack → f.srcPos.toNat = s.rd (Fld.redChBackup.backupPos ch) → f.payload.length = b.desc.backupBytes cnt →
        (s.backupRange ch b).1 ≤ first → first + cnt ≤ (s.backupRange ch b).2 → DoesThen (.fetchDataFrame n f) s fun t =>
          (∀ d, (t.chan ch).issued.find? (fun d => d.seq == f.seq) = some d → ∀ i : Nat, i < cnt →
            kget d.backup (first + i) = ((b.desc.backupVals first cnt f.payload)[i]?).map (·.2)) ∧
          (t.chan ch).issued.length = x.issued.length ∧ (t.chan ch).running = x.running ∧ Changes [.red] [] s t) ∧
      (s.hears n Ty.drop f = true → ∀ b, s.bucket ch f.seq = some b → b.dead = false → b.completed = false → b.desc.gather = true →
        b.desc.card = false → BitVec.ofNat 32 b.desc.step.toNat = f.stepLo → f.srcRack = s.myRack → b.rx = [] → b.got = [] → b.fetch = none →
        let low := fieldLE f.payload 0 6
        let k := low / max 1 (c.r * c.u b.desc.e)
        let closed (t : State) : Prop := t.rd Fld.redErrStatus.rcvDropped = 1 ∧
          ∀ d, t.bucket ch f.seq = some d → d.dropped = true ∧ d.arrival = s.now ∧ d.catchUp ≠ [] ∧ d.rx.map (fun x => x.closed) = [true] ∧
            d.status = (if b.status = 0 then St.receiverDropped else b.status)
        k ≠ c.pos → low < (c.chunk b.desc.e k).2 →
        (s.red.tags.freeCount ≠ 0 → DoesThen (.dropNotice n f) s fun t =>
          closed t ∧ (∀ d, t.bucket ch f.seq = some d → d.fetch.isSome = true) ∧
          t.red.tags.inUse.length = s.red.tags.inUse.length + 1 ∧ Changes [.red, .regs, .outbox, .freeCtr] [Fld.redErrStatus.rcvDropped] s t) ∧
        (s.red.tags.freeCount = 0 → DoesThen (.dropNotice n f) s fun t =>
          closed t ∧ (∀ d, t.bucket ch f.seq = some d → d.fetchTo = some (f.srcRack, f.srcPos)) ∧
          Changes [.red, .regs] [Fld.redErrStatus.rcvDropped] s t))) ∧
    (∀ (ch : Fin 32) (port : Fin 36) (pos : BitVec 7), s.hw = true →
      let x := s.chan ch
      (∀ (seq : W32) (bytes : Nat), ∀ b, s.bucket ch seq = some b →
        ∀ m, b.mcast.find? (fun m => m.port == uflSlice port) = some m →
        m.rcv.any (fun r => r.pos == pos && r.dropped) = false → bytes ≤ m.sent →
        (m.rcv.any (fun r => r.pos == pos) = true ∨ m.rcv.length + 1 < (s.chCfg ch).n) → DoesThen (.mcastAck ch seq port pos bytes false) s fun t =>
          (∀ d, t.bucket ch seq = some d → d.mcast.all (fun y => y.port != uflSlice port ||
            y.rcv.any (fun r => r.pos == pos && bytes ≤ r.acked && r.ackTick == s.now)) = true) ∧ Changes [.red, .outbox] [] s t) ∧
      (∀ b m, s.stalled ch (uflSlice port) pos = some (b, m) → s.bucket ch b.seq = some b → DoesThen (.mcastStallExpiry ch port pos .none) s fun t =>
          (∀ d, t.bucket ch b.seq = some d → d.mcast.all (fun y => y.port != uflSlice port || y.rcv.any (fun r => r.pos == pos && r.dropped)) = true) ∧
          (s.anyOpen = true → (t.outbox[s.outbox.length]?).map (fun o => (o.ty, o.dest, o.frame.seq)) = some (Ty.drop, .pos s.myRack pos, b.seq)) ∧
          Changes [.red, .outbox] [] s t) ∧
      (s.chanServes ch = true → s.rdB (Fld.redChBackup.backupEn ch) = true → s.rd Fld.redWd.contribWdUs ≠ 0 → x.issued = [] →
        x.running.all (fun b => b.gone) = true → s.elapsed x.goneTick (usTicks (s.rd Fld.redWd.contribWdUs)) = true → s.red.tags.freeCount ≠ 0 →
        let raw := s.load (s.redDescAt ch x.nextIssue) 64
        let rg := s.backupRange ch { seq := x.nextIssue, desc := bucketDesc raw, late := true }
        s.bucketBad ch raw x.nextIssue = false → rg.1 < rg.2 → DoesThen (.contribWatchdogExpiry ch .none) s fun t =>
          (t.chan ch).lateSeqs = x.lateSeqs ++ [x.nextIssue] ∧ (t.chan ch).nextIssue = x.nextIssue + 1 ∧
          (t.chan ch).issued.map (fun b => (b.seq, b.late, b.fetch.isSome)) = [(x.nextIssue, true, true)] ∧
          t.red.tags.inUse.length = s.red.tags.inUse.length + 1 ∧
          (s.anyOpen = true → (t.outbox[s.outbox.length]?).map (fun o => (o.ty, o.frame.seq)) = some (Ty.fetchRequest, x.nextIssue)) ∧
          Changes [.red, .outbox, .freeCtr] [] s t))

/-- LINK_LAST_ACK, TAG_QUARANTINE_EXPIRY, RED_CH_ENABLE, RED_CH_DISABLE, VOTE_ARRIVAL. -/
def Obligations.TagsChannelsVote : Prop :=
  ∀ s : State, s.Inv → s.powered = true →
    (∀ tag : BitVec 20,
      let g := s.red.tags
      (g.lastSent.contains tag.toNat = true → g.inUse.contains tag.toNat = true → Does (.linkLastAck tag) s fun t =>
        t.red = { s.red with tags :=
          { g with inUse := g.inUse.filter (· != tag.toNat), lastSent := g.lastSent.filter (· != tag.toNat),
                   quarantine := g.quarantine ++ [(tag.toNat, s.now + msTicks 4)] } } ∧ Changes [.red] [] s t) ∧
      (g.lastSent.contains tag.toNat = false → Does (.linkLastAck tag) s fun t => t = s) ∧
      (g.quarantine.any (fun q => q.1 == tag.toNat && q.2 ≤ s.now) = true → Does (.tagQuarantineExpiry tag) s fun t =>
        (t.red.tags.quarantine = g.quarantine.filter (fun q => q.1 != tag.toNat) ∧ Only [.red, .outbox, .freeCtr] s t ∧ FieldsBut [] s t) ∧
        ((List.range 32).all (fun ch => (s.chan ch).running.all (fun b => b.fetchTo.isNone)) = true →
          t.red = { s.red with tags := { g with quarantine := g.quarantine.filter (fun q => q.1 != tag.toNat) } } ∧ Changes [.red] [] s t)) ∧
      (g.quarantine.any (fun q => q.1 == tag.toNat && q.2 ≤ s.now) = false → Does (.tagQuarantineExpiry tag) s fun t => t = s)) ∧
    (∀ (ch : Fin 32) (v : W64),
      let cfg : List Fld := [⟨Reg.redChCfg ch, 0, 64⟩]
      let x := s.chan ch
      (v.getLsbD 0 = true → s.rdB (Fld.redChCfg.enable ch) = false → (s.writePlain (Reg.redChCfg ch) v.toNat).2 = true →
        ((s.writePlain (Reg.redChCfg ch) v.toNat).1.chanOk ch = true → Does (.redChEnable ch v) s fun t =>
          t.rd (Fld.redChCfg.enable ch) = 1 ∧ t.rd (Fld.redChCfg.n ch) = bits v.toNat 2 7 ∧
          t.chan ch = { x with aborted := false, nextIssue := x.nextSeq + BitVec.ofNat 32 x.issued.length } ∧
          (∀ c : Nat, c ≠ ch.val → t.chan c = s.chan c) ∧ Changes [.red, .regs, .placed] cfg s t ∧
          (∀ n : Fin 42, t.placed.getLsbD n = (s.placed.getLsbD n || ((s.chCfg ch).slices.contains n.val && s.isOpen n)))) ∧
        ((s.writePlain (Reg.redChCfg ch) v.toNat).1.chanOk ch = false → Does (.redChEnable ch v) s (AccessRefused s))) ∧
      (v.getLsbD 0 = false → Does (.redChDisable ch v) s fun t =>
        t.rd (Fld.redChCfg.enable ch) = 0 ∧ Changes [.regs, .log] (Fld.ctlErrlog.head :: Fld.ctlErrStatus.accessErr :: cfg) s t)) ∧
    (s.hw = true → s.halted = false → s.rdB Fld.redCtrl.skipVoteEn = true → ∀ v, s.red.votes.find? s.voteDue = some v →
      DoesThen .voteArrival s fun t =>
        let cast := s.barArrive (s.rd Fld.redCtrl.skipBarrier) (.vote v.step)
          (if s.rd Fld.fulCtrl.normVoteEn = 0 then 0 else s.ful.stepAcc.toF64) (if v.skip then BitVec.ofNat 64 (2 ^ s.rd Fld.redCtrl.skipBit) else 0)
        t.red = { s.red with votes := s.red.votes.filter (fun w => w.step != v.step) } ∧ t.ful.stepAcc = {} ∧ t.syn = cast.syn ∧
        t.outbox = cast.outbox ∧ t.ful.queues = s.ful.queues ∧ Changes [.red, .ful, .syn, .mem, .regs, .outbox] signalFields s t)

/-- PROG_BEGIN, PROG_DATA_WORD, PROG_COMMIT, PROG_UNLOAD. -/
def Obligations.FullingPrograms : Prop :=
  ∀ (s : State) (slot : Fin 16), s.Inv → s.powered = true →
    let x := vget s.ful.slots slot {}
    let fields : List Fld := [Fld.fulProgCtrl.slot, Fld.fulProgCtrl.loadStatus]
    let said (v : Nat) (t : State) : Prop := t.rd Fld.fulProgCtrl.loadStatus = v ∧ t.rd Fld.fulProgCtrl.slot = slot.val ∧ Changes [.regs, .ful] fields s t
    (s.slotBusy slot = true → ∀ c ∈ [Instr.progBegin slot, .progCommit slot, .progUnload slot], Does c s fun t => t.ful = s.ful ∧ said 1 t) ∧
    (s.slotBusy slot = false → Does (.progBegin slot) s fun t => t.ful = { s.ful with load := some { slot := slot } } ∧ said 0 t) ∧
    (∀ w : W32,
      (∀ l, s.ful.load = some l → l.words.length < 35 → Does (.progDataWord w) s fun t =>
        t.ful = { s.ful with load := some { l with words := l.words ++ [w], count := l.count + 1 } } ∧ Changes [.ful] [] s t) ∧
      (s.ful.load = none → Does (.progDataWord w) s (AccessRefused s))) ∧
    (s.slotBusy slot = false →
      (∀ l, s.ful.load = some l → l.slot = slot →
        (imageCheck l.words l.count = 0 → Does (.progCommit slot) s fun t =>
          t.ful = { s.ful with load := none, slots := t.ful.slots } ∧ (∀ k : Nat, k ≠ slot.val → vget t.ful.slots k {} = vget s.ful.slots k {}) ∧
          vget t.ful.slots slot {} = { loaded := true, version := x.version + 1, prog := imageProgram l.words } ∧ said 0 t) ∧
        (imageCheck l.words l.count ≠ 0 → Does (.progCommit slot) s fun t =>
          t.ful = { s.ful with load := none } ∧ said (imageCheck l.words l.count) t)) ∧
      ((s.ful.load.map (fun l => l.slot)) ≠ some slot → Does (.progCommit slot) s fun t => t.ful = s.ful ∧ said 7 t) ∧
      Does (.progUnload slot) s fun t =>
        vget t.ful.slots slot {} = { x with loaded := false } ∧ (∀ k : Nat, k ≠ slot.val → vget t.ful.slots k {} = vget s.ful.slots k {}) ∧
        t.ful = { s.ful with slots := t.ful.slots } ∧ said 0 t)

/-- FULLING_TASK_ISSUE, FULLING_WAIT_SATISFIED, GATE_TASK_PROCEED, DIRECT_PIECE_BIND. -/
def Obligations.FullingTasks : Prop :=
  ∀ (s : State) (q : Fin 4), s.Inv →
    let x := s.fq q
    let k := s.rd (Fld.fulQSync.issuePair q)
    let p := s.pair k
    let a := s.fulDescAt q x.nextSeq
    let b := s.load a 192
    let d := fulDesc b
    let consts (d : FulDesc) : List W32 := (List.range 16).map (fun i => BitVec.ofNat 32 (s.loadN (d.param + 4 * i) 4))
    let runs (t0 : FulTask) (skip : Bool) : FulTask :=
      { t0 with stage := .run, consts := if t0.desc.clip then (consts t0.desc).set 15 s.ful.gate.clipK else consts t0.desc,
                clipApplied := t0.desc.clip, skipPass := skip }
    let past (t0 : FulTask) : FulTask := if t0.desc.gate then { t0 with stage := .waitGate } else runs t0 false
    let failed (d : FulDesc) : Option Status := if d.gate then (s.ful.gate.failed.find? (fun f => f.1 == d.step)).map (·.2) else none
    let alone (t : State) : Prop := ∀ c : Nat, c ≠ q.val → t.fq c = s.fq c
    let gone (st : Status) (t : State) : Prop :=
      (t.fq q).task = none ∧ (t.fq q).aborted = (x.aborted || st != St.halted) ∧ (t.fq q).lastStatus = st ∧ alone t
    let serves := s.hw && !s.halted && s.rdB Fld.fulCtrl.enable && s.rdB (Fld.fulQCfg.enable q) && !x.aborted && x.task.isNone && !s.unitHolds (.fulling q)
    let wrong (g : Program) : Bool := (d.direct && s.rd (Fld.fulPortCfg.queue d.port) != q.val) || s.fulMalformed b d g x.nextSeq
    (serves = false → DoesThen (.fullingTaskIssue q) s fun t => t = s) ∧
    (serves = true → s.quiesced = false → p.c < p.p → p.depth ≠ 0 → s.syn.waiters = [] → s.syn.pends = [] →
      ((∀ g, s.fulProgram d = some g → wrong g = true) → DoesThen (.fullingTaskIssue q) s fun t =>
        gone St.lengthLong t ∧ (t.fq q).nextSeq = x.nextSeq + 1 ∧
        t.rd Fld.fulErrStatus.lenLong = 1 ∧ t.load (a + 152) 2 = leBytes 2 St.lengthLong.toNat ∧ BytesBut (a + 152) 40 s t ∧
        Changes [.regs, .mem, .log, .red, .ful, .syn, .outbox] (Fld.ctlErrlog.head :: signalFields ++ fulAbortFields) s t) ∧
      (∀ g, s.fulProgram d = some g → wrong g = false →
        let t0 : FulTask := { desc := d, addr := a, prog := g }
        let w := s.pair d.waitPair
        (d.waitEn = false → failed d = none → Completes (.fullingTaskIssue q) s fun t =>
          (t.fq q).task = some (past t0) ∧ (t.fq q).nextSeq = x.nextSeq + 1 ∧ t.pair k = { p with c := p.c + 1 } ∧ alone t ∧ Changes [.ful, .syn] [] s t) ∧
        (d.waitEn = false → ∀ st, failed d = some st → DoesThen (.fullingTaskIssue q) s (gone st)) ∧
        (d.waitEn = true → d.waitPair ≠ k → Completes (.fullingTaskIssue q) s fun t =>
          (t.fq q).task = some t0 ∧ (t.fq q).nextSeq = x.nextSeq + 1 ∧ t.pair k = { p with c := p.c + 1 } ∧ alone t ∧ Changes [.ful, .syn] [] s t ∧
          (if w.depth ≠ 0 ∧ w.c < w.p then t.syn.waiters = [] ∧ t.pair d.waitPair = { w with c := w.c + 1 }
           else t.syn.waiters = [{ isPair := true, obj := d.waitPair, count := 1, consume := true, who := .fulling q }] ∧ t.pair d.waitPair = w)))) ∧
    (s.hw = true → s.halted = false → ∀ t0, x.task = some t0 → t0.posted = false →
      (t0.stage = .waitPair → s.syn.waiters = [] → s.syn.held = [] →
        (failed t0.desc = none → Completes (.fullingWaitSatisfied q) s fun t => (t.fq q).task = some (past t0) ∧ alone t ∧ Changes [.ful] [] s t) ∧
        (∀ st, failed t0.desc = some st → DoesThen (.fullingWaitSatisfied q) s fun t => gone st t ∧ t.rd Fld.fulErrStatus.upstream = 1)) ∧
      (t0.stage = .waitGate → s.ful.gate.opened = true → t0.desc.gate = true →
        (s.ful.gate.step = t0.desc.step → Completes (.gateTaskProceed q) s fun t =>
          (t.fq q).task = some (runs t0 s.ful.gate.skip) ∧ alone t ∧ Changes [.ful] [] s t) ∧
        (t0.desc.step.toNat < s.ful.gate.step.toNat → DoesThen (.gateTaskProceed q) s (gone St.lengthLong)) ∧
        (s.ful.gate.step.toNat < t0.desc.step.toNat → DoesThen (.gateTaskProceed q) s fun t => t = s)) ∧
      (∀ port : Fin 8, s.rd (Fld.fulPortCfg.queue port) = q.val → t0.desc.direct = true → t0.desc.port = port.val → t0.piece = none →
        ∀ h, (s.port port).pieces.head? = some h → h.bound = false →
        (h.dead = none → (s.port port).buf.any (fun e => t0.desc.e ≤ e.1) = false → Completes (.directPieceBind port) s fun t =>
          (t.fq q).task = some { t0 with piece := some (h.ch, h.seq), arrival := some s.now } ∧
          (t.port port).pieces.head? = some { h with bound := true } ∧ alone t ∧ Changes [.ful] [] s t) ∧
        (∀ st, h.dead = some st → DoesThen (.directPieceBind port) s fun t => gone st t ∧ t.rd Fld.fulErrStatus.upstream = 1)))

/-- LANE_TAKES_BLOCK, FULLING_TASK_COMPLETE, FULLING_STREAM_WATCHDOG. -/
def Obligations.FullingBlocks : Prop :=
  ∀ (s : State) (q : Fin 4), s.Inv → s.hw = true → ∀ t0, (s.fq q).task = some t0 →
    let d := t0.desc
    let alone (t : State) : Prop := ∀ c : Nat, c ≠ q.val → t.fq c = s.fq c
    let port := s.port d.port
    let fits := d.direct = false ∨ (port.buf.any (fun e => d.e ≤ e.1) = false ∧ port.held.all (fun f => f.2.2.1 + f.2.2.2.1.length ≤ d.e) = true)
    (∀ (lane : Fin 192) (b : Nat), t0.stage = .run → s.halted = false → b < d.blocks →
      (t0.taken.contains b = true ∨ s.blockReady t0 b = false ∨ (s.laneGrant q).1 ≠ some q.val → DoesThen (.laneTakesBlock lane q b) s fun t => t = s) ∧
      (t0.taken.contains b = false → s.blockReady t0 b = true → (s.laneGrant q).1 = some q.val →
        let took (t : State) : Prop :=
          (∀ u, (t.fq q).task = some u → u.taken = t0.taken ++ [b] ∧ u.desc = d ∧ (t0.skipPass = false → t0.prog.nout ≠ 0 → u.wrote = true)) ∧
          (fits → (t.fq q).task.isSome = true) ∧ kget t.ful.lanes lane = some (d.prog, d.version) ∧ alone t ∧ t.owed = (s.laneGrant q).2.owed ∧
          (fits → t0.skipPass = false → d.batt = 0 → t0.prog.nout = 1 → d.ofm 0 = 0 → d.sr = 0 → d.blockLen b = 1 →
            let i := b * blockElems
            let ins := (List.range t0.prog.nin).map (fun j => laneIn (d.inFmt j) (s.fulRaw d j i))
            let el := runOps t0.consts t0.prog.ops ins t0.acc0 t0.acc1
            t.loadN (d.oa 0 + 4 * i) 4 = (operand t0.consts el (t0.prog.osrc.getD 0 0).toNat).toNat ∧ BytesBut (d.oa 0 + 4 * i) 4 s t)
        DoesThen (.laneTakesBlock lane q b) s took ∧
        (s.quiet = true → s.cut.cuts.all (fun c => !c.battless) = true → fits → Does (.laneTakesBlock lane q b) s took))) ∧
    (let k := s.rd (Fld.fulQSync.donePair q)
     let done (t : State) : Prop :=
       t.fq q = { s.fq q with task := none, lastStatus := (t.fq q).lastStatus } ∧ alone t ∧ t.pair k = { s.pair k with p := (s.pair k).p + 1 }
     s.quiesced = false → s.syn.waiters = [] → s.syn.pends = [] →
     (s.pair k).p - (s.pair k).c < (s.pair k).depth → (s.pair k).p + 1 < 2 ^ 48 →
      (t0.posted = false → t0.stage = .run → d.blocks ≤ t0.taken.length → s.pieceDone t0 = true → s.unitHolds (.fulling q) = false →
        let st := if t0.skipPass || t0.nonfinite.isNone then St.success else St.nonfinite
        let w := s.pair d.postPair
        let said (t : State) : Prop :=
          (t.fq q).lastStatus = st ∧
          t.load (t0.addr + 152) 2 = leBytes 2 st.toNat ∧ t.load (t0.addr + 160) 8 = leBytes 8 t0.acc0.toF64.toNat ∧ BytesBut (t0.addr + 152) 40 s t ∧
          t.ful.stepAcc = (if st = St.success ∧ d.normVote = true then s.ful.stepAcc.join t0.acc0 else s.ful.stepAcc) ∧
          (st = St.nonfinite → t.rd Fld.fulErrStatus.nonfinite = 1) ∧
          Changes [.regs, .mem, .red, .ful, .syn] [Fld.fulCounts.nfTasks, Fld.fulCounts.skipped, Fld.fulErrStatus.nonfinite] s t
        (d.postEn = false → Completes (.fullingTaskComplete q) s fun t => done t ∧ said t) ∧
        (d.postEn = true → d.postPair ≠ k → w.p + 1 < 2 ^ 48 → 0 < w.depth →
          (w.p - w.c < w.depth → Completes (.fullingTaskComplete q) s fun t => done t ∧ said t ∧ t.pair d.postPair = { w with p := w.p + 1 }) ∧
          (w.depth ≤ w.p - w.c → Completes (.fullingTaskComplete q) s fun t =>
            (t.fq q).task = some { t0 with posted := true } ∧ alone t ∧ said t ∧ t.pair k = s.pair k ∧
            t.syn.pends = [{ pair := d.postPair, count := 1, who := .fulling q }]))) ∧
      (t0.posted = true → s.unitHolds (.fulling q) = false → Completes (.fullingTaskComplete q) s fun t => done t ∧ Changes [.ful, .syn] [] s t)) ∧
    (t0.posted = true → s.unitHolds (.fulling q) = true → DoesThen (.fullingTaskComplete q) s fun t => t = s) ∧
    (t0.posted = false → d.direct = true → (List.range d.blocks).any (fun b => !t0.taken.contains b && !s.blockReady t0 b) = true →
      ∀ a, t0.arrival = some a → s.elapsed a (usTicks (s.rd Fld.fulWd.streamWdUs)) = true →
      DoesThen (.fullingStreamWatchdog q .none) s (fun t =>
        (t.fq q).task = none ∧ (t.fq q).aborted = true ∧ (t.fq q).lastStatus = St.lengthShort ∧ alone t ∧ t.rd Fld.fulErrStatus.lenShort = 1) ∧
      Completes (.fullingStreamWatchdog q .arrivalWon) s fun t =>
        (t.fq q).task = some { t0 with arrival := some s.now } ∧ alone t ∧
        Changes [.ful, .regs, .log] [Fld.ctlErrlog.head, Fld.ctlArbRace.arrivalWon] s t)

/-- CUT_OPEN, SCHEDULE_RECORD_LATCH, SUMP_COPY_DONE, CUT_SEAL. -/
def Obligations.CutOpenSeal : Prop :=
  ∀ s : State, s.Inv → s.hw = true → s.halted = false →
    let one (k : Nat) (t : State) : Prop :=
      t.pair k = { s.pair k with c := (s.pair k).c + 1 } ∧ (∀ m : Nat, m ≠ k → t.pair m = s.pair m)
    let has (k : Nat) : Prop := s.quiesced = false ∧ (s.pair k).c < (s.pair k).p ∧ (s.pair k).depth ≠ 0 ∧ s.syn.waiters = [] ∧ s.syn.pends = []
    let serves := !s.rdB Fld.ctlReset.quiescing && s.rdB Fld.tierCutCtrl.enable && s.rdB Fld.tierCutqCfg.enable && !s.unitHolds .cutUnit
    let seq := s.cut.nextSeq
    let d := s.load (s.cutDesc seq) 64
    let step := BitVec.ofNat 64 (fieldLE d 0 8)
    let h := bitAt (fieldLE d 12 1) 0
    let gen := BitVec.ofNat 8 (s.rd Fld.tierCutGen.gen)
    let k := s.rd Fld.tierCutqSync.issuePair
    (serves = false → DoesThen .cutOpen s fun t => t = s) ∧
    (serves = true → has k → s.findCut seq = none →
      (s.cutDescOk d seq = true → s.half h = .empty → s.rdB Fld.tierPartner.valid = true → s.cut.peatNext = none → DoesThen .cutOpen s fun t =>
        t.findCut seq = some { seq, step, gen, rt := fieldLE d 16 8, peat := bitAt (fieldLE d 12 1) 1, half := some h } ∧ one k t ∧
        t.half h = .capture ∧ t.half (!h) = s.half (!h) ∧ t.cut.nextSeq = seq + 1 ∧
        t.outbox = (s.toPartner Ty.cutNotice (cutFrame step gen 0 (leBytes 8 s.feltBytes))).outbox ∧
        Changes [.cut, .syn, .outbox, .regs] [Fld.peatErrStatus.peatAge] s t) ∧
      (s.cutDescOk d seq = true → s.half h ≠ .empty → s.cut.dir.any Region.isSump = false → s.rdB Fld.tierPartner.valid = true →
        DoesThen .cutOpen s fun t =>
          (t.findCut seq).map (fun c => (c.st, c.step, c.half, c.battless)) = some (.opened, step, none, true) ∧ one k t ∧ t.cut.nextSeq = seq + 1 ∧
          t.half h = s.half h ∧ t.rd Fld.tierCutErrStatus.skipped = 1 ∧
          t.rd Fld.tierCutCounts.battless = min (s.rd Fld.tierCutCounts.battless + 1) (2 ^ Fld.tierCutCounts.battless.len - 1) ∧
          Changes [.cut, .syn, .outbox, .regs] [Fld.peatErrStatus.peatAge, Fld.tierCutErrStatus.skipped, Fld.tierCutCounts.battless] s t) ∧
      (s.cutDescOk d seq = true → s.half h ≠ .empty → s.cut.dir.any Region.isSump = true → DoesThen .cutOpen s fun t =>
        CutEnded s { seq, step, gen } .skipped St.cutSkipped t ∧ t.rd Fld.tierCutErrStatus.skipped = 1 ∧ t.half h = s.half h) ∧
      (s.cutDescOk d seq = false → DoesThen .cutOpen s fun t =>
        (t.findCut seq).map (fun c => (c.st, c.status, c.half)) = some (.abandoned, St.lengthLong, none) ∧ t.half h = s.half h ∧
        t.cut.lastStatus = s.cut.lastStatus ∧ t.map = s.map ∧ t.cut.nextSeq = seq + 1)) ∧
    (∀ c, s.cut.cuts.reverse.find? (fun c => !c.sealTaken) = some c → s.findCut c.seq = some c →
      let a := s.rdAddr Fld.tierRecBase.base + c.step.toNat % 4 * 16384
      has (s.rd Fld.tierCutqSync.sealPair) →
      (c.st = .opened → (c.rt = 0 ∨ overlap c.rt 256 a 16384 = false) → Does .scheduleRecordLatch s fun t =>
        t.load a 16384 = t.record c ∧ BytesBut a 16384 s t ∧ one (s.rd Fld.tierCutqSync.sealPair) t ∧
        t.findCut c.seq =
          some { c with sealTaken := true, record := t.record c, sumpRuns := c.half.isSome && s.cut.dir.any Region.isSump } ∧
        Changes [.mem, .cut, .syn] [] s t) ∧
      (c.st ≠ .opened → Does .scheduleRecordLatch s fun t =>
        t.findCut c.seq = some { c with sealTaken := true } ∧ one (s.rd Fld.tierCutqSync.sealPair) t ∧ Changes [.cut, .syn] [] s t)) ∧
    (∀ c, s.cut.cuts.find? (fun c => c.sumpRuns && c.st == .opened) = some c → s.findCut c.seq = some c →
      let rs := s.cut.dir.filter Region.isSump
      let p := s.pair (s.rd Fld.tierCutqSync.sumpPair)
      allPairs (fun a b => !overlap a.offset a.len b.offset b.len) rs = true → rs.all (fun r => r.offset + r.len ≤ 2 ^ 48) = true →
      s.quiesced = false → p.p - p.c < p.depth → p.p + 1 < 2 ^ 48 → s.syn.waiters = [] → s.syn.pends = [] → Does .sumpCopyDone s fun t =>
        (∀ r ∈ rs, Memory.bytesAt t.sump (sumpKey (c.half.getD false) r.offset) r.len = s.load r.live r.len) ∧
        t.findCut c.seq = some { c with sumpRuns := false, sumpDone := true } ∧
        t.pair (s.rd Fld.tierCutqSync.sumpPair) = { p with p := p.p + 1 } ∧ Changes [.sump, .cut, .syn] [] s t) ∧
    (∀ c, s.cut.cuts.reverse.find? (fun c => c.st == .opened && c.sealTaken && !c.record.isEmpty && !c.sumpRuns) = some c →
      s.findCut c.seq = some c →
      let rs := s.cut.dir.filter (fun r => !r.isSump)
      let want := rs.foldl (fun n r => n + r.used) 0
      (∀ b, c.half = some b → c.bytes = want → c.keep ≠ some false → DoesThen .cutSeal s fun t =>
        (t.findCut c.seq).map (fun c => (c.st, c.half, c.sealSec.toNat)) = some (.felting, some b, s.tim.domA.sec % 2 ^ 64) ∧ t.half b = .felting ∧
        (∀ r ∈ rs, t.load (s.battBase b + r.offset + r.used) (r.len - r.used) = zeros (r.len - r.used)) ∧ Changes [.cut, .mem] [] s t) ∧
      (c.half = none → c.keep ≠ some false → DoesThen .cutSeal s fun t =>
        (t.findCut c.seq).map (fun c => (c.st, c.half)) = some (.felting, none) ∧ Changes [.cut] [] s t) ∧
      (c.half.isSome = true → c.bytes < want → DoesThen .cutSeal s fun t =>
        CutEnded s c .abandoned St.lengthShort t ∧ FieldsBut (signalFields ++ cutEndFields) s t) ∧
      (c.half.isSome = true → want < c.bytes → DoesThen .cutSeal s fun t =>
        CutEnded s c .abandoned St.lengthLong t ∧ FieldsBut (signalFields ++ cutEndFields) s t))

/-- CUT_NOTICE, CUT_REPLY, FELT_DATA, SET_RELEASE. -/
def Obligations.CutSets : Prop :=
  ∀ (s : State) (n : Fin 42) (f : Frame), s.Inv →
    let step := frameStep f
    let gen := BitVec.ofNat 8 f.offset.toNat
    let reply (word : Nat) : State := s.sendTo f.srcRack f.srcPos Ty.cutReply (cutFrame step gen 0 (leBytes 8 word))
    let drop (t : State) : Prop :=
      t.rd (Fld.lnkDrop.stale n) = min (s.rd (Fld.lnkDrop.stale n) + 1) (2 ^ (Fld.lnkDrop.stale n).len - 1) ∧
      t.rd Fld.tierSedgeCounts.staleFelt = min (s.rd Fld.tierSedgeCounts.staleFelt + 1) (2 ^ Fld.tierSedgeCounts.staleFelt.len - 1) ∧
      t.rd Fld.tierErrStatus.staleFelt = 1 ∧
      Changes [.regs] [Fld.lnkDrop.stale n, Fld.tierSedgeCounts.staleFelt, Fld.tierErrStatus.staleFelt] s t
    (s.hears n Ty.cutNotice f = true →
      (s.slotOf f.srcRack f.srcPos = none → Does (.cutNotice n f) s fun t => t = reply 0) ∧
      (∀ slot, s.slotOf f.srcRack f.srcPos = some slot →
        let need := s.rd (Fld.tierOwner.setPages slot)
        ((s.set (2 * slot)).st ≠ .free → (s.set (2 * slot + 1)).st ≠ .free → Does (.cutNotice n f) s fun t => t = reply 0) ∧
        (∀ h, [0, 1].find? (fun h => (s.set (2 * slot + h)).st == .free) = some h →
          (s.freePages.length < need → Does (.cutNotice n f) s fun t =>
            t.outbox = (reply 0).outbox ∧ t.rd Fld.tierErrStatus.sedgeRefused = 1 ∧
            t.rd Fld.tierSedgeCounts.refusals = min (s.rd Fld.tierSedgeCounts.refusals + 1) (2 ^ Fld.tierSedgeCounts.refusals.len - 1) ∧
            Changes [.outbox, .regs] [Fld.tierErrStatus.sedgeRefused, Fld.tierSedgeCounts.refusals] s t) ∧
          (need ≤ s.freePages.length → Does (.cutNotice n f) s fun t =>
            t.set (2 * slot + h) =
              { st := .filling, step, gen, pages := s.freePages.take need, mirror := s.freePages.take need, reported := (s.keepExpected slot).isEmpty } ∧
            (∀ k : Nat, k ≠ 2 * slot + h → t.set k = s.set k) ∧
            t.outbox = (if (s.keepExpected slot).isEmpty = true then
                ((reply (1 + 2 * h)).sendTo f.srcRack f.srcPos Ty.keepReport (cutFrame step gen 0 (leBytes 8 1))).outbox
              else (reply (1 + 2 * h)).outbox) ∧ Changes [.sedge, .outbox] [] s t)))) ∧
    (s.hears n Ty.cutReply f = true →
      (s.cutOf step gen = none → DoesThen (.cutReply n f) s (Stale n s)) ∧
      (∀ c, s.cutOf step gen = some c → s.findCut c.seq = some c →
        ((c.accepted = true ∨ (c.st.early = false ∧ c.refelt = false)) → DoesThen (.cutReply n f) s (Stale n s)) ∧
        (c.accepted = false → c.st.early = true →
          let w := leNat f.payload
          (bitAt w 0 = true → s.cut.dir.length ≤ s.mapFree → DoesThen (.cutReply n f) s fun t =>
            t.findCut c.seq = some { c with accepted := true, set := bits w 1 1 } ∧
            t.map = (s.mapReserve 0 c.gen c.step
              (BitVec.ofNat 64 (bits w 1 1 + 2 * s.rd Fld.tierPartner.position + 256 * s.rd Fld.tierPartner.rack)) s.cut.dir).map ∧
            Changes [.cut, .map] [] s t) ∧
          (bitAt w 0 = true → s.mapFree < s.cut.dir.length → c.refelt = false → DoesThen (.cutReply n f) s fun t =>
            CutEnded s c .abandoned St.mapFull t ∧ t.rd Fld.tierErrStatus.mapFull = 1) ∧
          (bitAt w 0 = false → c.refelt = false → DoesThen (.cutReply n f) s fun t =>
            CutEnded s c .abandoned St.sedgeIncomplete t ∧ FieldsBut (signalFields ++ cutEndFields) s t)) ∧
        (c.accepted = false → c.refelt = true → bitAt (leNat f.payload) 0 = false → DoesThen (.cutReply n f) s fun t =>
          t.findCut c.seq = some { c with refelt := false } ∧ Changes [.cut] [] s t))) ∧
    (s.hears n Ty.feltData f = true →
      let off := f.offset.toNat % 2 ^ 38
      (s.namedSet f = none → Does (.feltData n f) s drop) ∧
      (∀ k, s.namedSet f = some k →
        ((s.set k).st ≠ .filling → Does (.feltData n f) s drop) ∧
        (s.setTakes k off f.payload.length = true → f.payload.length = f.count.toNat * 4 → f.offset.toNat < 2 ^ 46 →
          off % pageBytes + f.payload.length ≤ pageBytes → ∀ a, s.setAddr k off = some a → Does (.feltData n f) s fun t =>
            t.load a f.payload.length = f.payload ∧ BytesBut a f.payload.length s t ∧
            t.set k = (if off = s.rd (Fld.tierOwner.tMib (k / 2)) * 0x100000 + 16384 ∧ f.payload.length = 64
              then { s.set k with st := .committed } else s.set k) ∧ (∀ m : Nat, m ≠ k → t.set m = s.set m) ∧
            t.outbox = (s.sendTo f.srcRack f.srcPos Ty.feltAck
              { tag := f.tag, gen := f.gen, hop := f.hop, seq := f.seq, stepLo := f.stepLo, offset := f.offset, count := f.count }).outbox ∧
            Changes [.mem, .sedge, .outbox] [] s t))) ∧
    (s.hears n Ty.setRelease f = true →
      (s.namedSet f = none → Does (.setRelease n f) s (Stale n s)) ∧
      (∀ k, s.namedSet f = some k →
        (((s.set k).st = .filling ∨ (s.set k).st = .committed) → Does (.setRelease n f) s fun t =>
          t.set k = {} ∧ (∀ m : Nat, m ≠ k → t.set m = s.set m) ∧ Changes [.sedge] [] s t) ∧
        ((s.set k).st = .held → Does (.setRelease n f) s drop)))

/-- FELTING_SCHEDULE, FELT_REGION_COMPLETE, FELT_ACK, FELT_ACK_TIMEOUT, FELTING_DONE. -/
def Obligations.Felting : Prop :=
  ∀ s : State, s.Inv → s.hw = true →
    (s.fw = true → s.halted = false → s.rdB Fld.tierCtrl.feltEn = true → ∀ c, s.cut.cuts.filter Cut.felts = [c] → s.findCut c.seq = some c →
      c.recSent = true → ∀ i, s.byLength.find? (fun i => !c.started i) = some i → ∀ l, s.freeLane = some l → ∀ x, s.freeCtx [0, 1, 2] = some x →
      s.lanesFelting < s.rd Fld.tierFeltCfg.feltLanes → s.chk.laneWait = [] → DoesThen .feltingSchedule s fun t =>
        vget t.chk.lanes l none = some (.felt c.seq i) ∧ (∀ m : Nat, m < l → vget t.chk.lanes m none = vget s.chk.lanes m none) ∧
        FieldsBut (Fld.ctlErrlog.head :: Fld.peatGenHigh.genHigh :: Fld.tierErrStatus.mapFull :: Fld.tierMapStatus.fullEvents :: signalFields ++ drainEndFields) s t) ∧
    (∀ lane : Fin 32,
      (vget s.chk.lanes lane none = none → Does (.feltRegionComplete lane) s fun t => t = s) ∧
      (∀ seq i, vget s.chk.lanes lane none = some (.felt seq i) → ∀ c, s.findCut seq = some c →
        ∀ run, c.runs.find? (fun r => r.lane == lane.val) = some run →
        let r := s.cut.dir.getD i {}
        let lo := if r.isParam && !c.refelt then r.used / 4 * 4 else 0
        let b := s.image c.half r 0 r.len
        (lo ≥ r.len ∨ s.canFelt = true) → Does (.feltRegionComplete lane) s fun t =>
          (t.findCut seq).map (fun d => (d.sums, d.runs)) =
            some (c.sums ++ [{ region := i, digest := sha384 b, crcs := extentCrcs b }], c.runs.filter (fun r => r.lane != lane.val)) ∧
          (t.findCut seq).map (fun d => d.out.length) = some (c.out.length + (r.len - lo + s.feltPorts.2 - 1) / s.feltPorts.2) ∧
          vget t.chk.lanes lane none = none ∧ (∀ m : Nat, m ≠ lane → vget t.chk.lanes m none = vget s.chk.lanes m none) ∧
          kget t.chk.ctxs run.scan = none ∧ Changes [.red, .cut, .map, .chk, .freeCtr, .outbox] [] s t)) ∧
    (∀ (n : Fin 42) (f : Frame), s.hears n Ty.feltAck f = true →
      let c? := s.cutOf (frameStep f) (BitVec.ofNat 8 (f.offset.toNat / 2 ^ 38))
      let hit (o : FeltOut) : Bool := o.tag == f.tag.toNat && o.gen == f.gen && o.off == f.offset.toNat % 2 ^ 38 && o.words == f.count.toNat
      (c? = none → Does (.feltAck n f) s (Stale n s)) ∧
      (∀ c, c? = some c → (c.out.any hit = false → Does (.feltAck n f) s (Stale n s)) ∧
        (c.out.any hit = true → s.findCut c.seq = some c →
          ((c.feltEnd = none ∨ (c.keep ≠ some true ∧ c.refelt = false)) → Does (.feltAck n f) s fun t =>
            (t.findCut c.seq).map (fun d => d.out.length) = some (c.out.length - 1) ∧ Changes [.cut, .red, .map, .freeCtr, .outbox] [] s t) ∧
          (c.out.length = 1 → ((c.st = .felting ∧ s.replOn = false) ∨ (c.st = .agreeing ∧ c.agreed = true)) → c.feltEnd.isSome = true →
            c.manSent = true → c.keep = some true → s.canFelt = true → Does (.feltAck n f) s fun t =>
            (t.findCut c.seq).map (fun d => (d.st, d.comSent, !d.out.isEmpty)) = some (CutState.committing, true, true) ∧
            Changes [.cut, .red, .map, .freeCtr, .outbox] [] s t)))) ∧
    (∀ tag : BitVec 20, ∀ c, s.cut.cuts.reverse.find? (fun c => (c.st.early || c.refelt) && c.out.any (fun o => o.tag == tag.toNat)) = some c →
      s.findCut c.seq = some c → c.out.any (fun o => o.tag == tag.toNat && s.elapsed o.tick (usTicks (s.rd Fld.tierCutWd.keepWdUs))) = true →
      (c.refelt = false → DoesThen (.feltAckTimeout tag) s fun t =>
        CutEnded s c .abandoned St.lengthShort t ∧ FieldsBut (signalFields ++ cutEndFields) s t) ∧
      (c.refelt = true → DoesThen (.feltAckTimeout tag) s fun t =>
        t.findCut c.seq = some { c with runs := [], out := [], refelt := false } ∧
        t.map = s.map.filter (fun e => !(mapSedge c.step c.gen e.2 && (e.2.st == .filling || e.2.st == .written))) ∧
        Changes [.cut, .chk, .red, .map] [] s t)) ∧
    (s.halted = false → ∀ c, s.cut.cuts.reverse.find? (fun c => c.felts && c.feltEnd.isNone && s.allRead c && c.recSent && c.out.isEmpty &&
        (c.manSent || (s.canFelt && s.rdB Fld.tierCtrl.feltEn))) = some c → s.findCut c.seq = some c → c.heard = [] →
      (c.manSent = false → DoesThen .feltingDone s fun t =>
        (t.findCut c.seq).map (fun d => (d.manSent, d.feltEnd, d.group)) = some (true, some s.now, s.groupDigest c) ∧
        (0 < (t.findCut c.seq).elim 0 (fun d => d.out.length)) ∧ Only [.regs, .mem, .board, .red, .cut, .map, .rst, .syn, .chk, .freeCtr, .outbox] s t) ∧
      (c.manSent = true → (s.replOn && !c.refelt) = true → DoesThen .feltingDone s fun t =>
        t.findCut c.seq = some { c with feltEnd := some s.now, st := .agreeing } ∧
        (s.anyOpen = true → t.outbox.length = s.outbox.length + 2 * s.replMembers.length) ∧ Changes [.cut, .outbox] [] s t))

/-- KEEP_REPORT, KEEP_WATCHDOG_EXPIRY, DIGEST_FRAME, XCHG_WATCHDOG_EXPIRY, COMMIT_RECORD_ACK, CUT_ENABLE, CUT_DISABLE. -/
def Obligations.CutAgreement : Prop :=
  ∀ s : State, s.Inv →
    let ends (c : Cut) (st : CutState) (x : Status) (t : State) : Prop := CutEnded s c st x t ∧ FieldsBut (signalFields ++ cutEndFields) s t
    let k := s.rd Fld.tierCutRepl.count
    (∀ (n : Fin 42) (f : Frame) c, s.cutOf (frameStep f) (BitVec.ofNat 8 f.offset.toNat) = some c → s.findCut c.seq = some c →
      (s.hears n Ty.keepReport f = true →
        ((c.st.early = false ∨ c.keep.isSome = true) → DoesThen (.keepReport n f) s (Stale n s)) ∧
        (c.st.early = true → c.keep = none →
          (bitAt (leNat f.payload) 0 = true → DoesThen (.keepReport n f) s fun t =>
            (t.findCut c.seq).map (·.keep) = some (some true) ∧
            (((c.st = .felting ∧ s.replOn = false) ∨ (c.st = .agreeing ∧ c.agreed = true)) → c.feltEnd.isSome = true → c.manSent = true →
              c.out = [] → s.canFelt = true → (t.findCut c.seq).map (fun d => (d.st, d.comSent, !d.out.isEmpty)) = some (CutState.committing, true, true)) ∧
            Changes [.red, .cut, .map, .freeCtr, .outbox] [] s t) ∧
          (bitAt (leNat f.payload) 0 = false → (c.st = .felting ∨ c.st = .agreeing) → DoesThen (.keepReport n f) s
            (ends c .sedgeIncomplete St.sedgeIncomplete)))) ∧
      (s.hears n Ty.digest f = true → ∀ i, s.replMembers.findIdx? (fun m => m == (f.srcRack, f.srcPos)) = some i → c.st.early = true →
        f.hop.toNat < 2 → f.payload.length = 24 →
        let c1 := { c with heard := (c.heard.filter (fun x => !(x.1 == i && x.2.1 == f.hop.toNat))) ++ [(i, f.hop.toNat, f.payload)] }
        let got := (List.range k).map c1.memberDigest
        (c.agreed = true → DoesThen (.digestFrame n f) s (Stale n s)) ∧
        (c.agreed = false → (c.st ≠ .agreeing ∨ got.any Option.isNone = true) → DoesThen (.digestFrame n f) s fun t =>
          t.findCut c.seq = some c1 ∧ Changes [.cut] [] s t) ∧
        (c.st = .agreeing → c.agreed = false → got.all (fun g => g == some c.group) = true → DoesThen (.digestFrame n f) s fun t =>
          (t.findCut c.seq).map (fun d => (d.agreed, d.agreeMask)) = some (true, BitVec.ofNat 4 (2 ^ k - 1)) ∧
          Changes [.red, .cut, .map, .freeCtr, .outbox] [] s t) ∧
        (c.st = .agreeing → c.agreed = false → k = 1 → c1.memberDigest 0 ≠ none → c1.memberDigest 0 ≠ some c.group → DoesThen (.digestFrame n f) s
          (ends c .suspect St.digestMismatch)) ∧
        (∀ d, c1.memberDigest 0 = some d → c.st = .agreeing → c.agreed = false → 2 ≤ k → d ≠ c.group → got.all (fun g => g == some d) = true →
          DoesThen (.digestFrame n f) s fun t => ends c .suspect St.digestMismatch t ∧ t.rst.corrupt = true ∧ t.rst.majority = List.range k))) ∧
    (s.hw = true → s.halted = false →
      (∀ c, s.cut.cuts.reverse.find? (fun c => (c.st == .felting || c.st == .agreeing) && c.keep.isNone &&
          (match c.feltEnd with | some t => s.elapsed t (usTicks (s.rd Fld.tierCutWd.keepWdUs)) | none => false)) = some c → s.findCut c.seq = some c →
        DoesThen .keepWatchdogExpiry s (ends c .sedgeIncomplete St.sedgeIncomplete)) ∧
      (∀ c, s.cut.cuts.reverse.find? (fun c => c.st == .agreeing && !c.agreed) = some c → s.findCut c.seq = some c →
        (s.elapsed c.groupTick (usTicks (s.rd Fld.tierCutWd.xchgWdUs)) = false → DoesThen (.xchgWatchdogExpiry .none) s fun t => t = s) ∧
        (s.elapsed c.groupTick (usTicks (s.rd Fld.tierCutWd.xchgWdUs)) = true →
          (c.heard = [] → k ≠ 0 → DoesThen (.xchgWatchdogExpiry .none) s (ends c .suspect St.digestMismatch)) ∧
          DoesThen (.xchgWatchdogExpiry .arrivalWon) s fun t =>
            t.rd Fld.ctlArbRace.arrivalWon = min (s.rd Fld.ctlArbRace.arrivalWon + 1) (2 ^ Fld.ctlArbRace.arrivalWon.len - 1) ∧
            Changes [.regs, .log] [Fld.ctlErrlog.head, Fld.ctlArbRace.arrivalWon] s t))) ∧
    (s.hw = true → ∀ c, s.cut.cuts.reverse.find? (fun c => (c.st == .committing || (c.refelt && c.comSent)) && c.out.isEmpty) = some c →
      s.findCut c.seq = some c → DoesThen .commitRecordAck s fun t =>
        (t.findCut c.seq).map (fun d => (d.st, d.refelt, d.atSet)) = some (if c.refelt then c.st else .sedgeCommitted, false, true) ∧ t.cut.unhosted = false ∧
        t.map = s.map.map (fun e => if mapSedge c.step c.gen e.2 && e.2.st == .written then (e.1, { e.2 with st := .committed }) else e) ∧
        (c.refelt = false → s.cut.cuts.reverse.find? (fun c => !c.arrived) = some c → (t.findCut c.seq).map (·.arrived) = some true) ∧
        Changes [.regs, .mem, .cut, .map, .syn, .outbox] signalFields s t) ∧
    (∀ v : BitVec 32, s.powered = true →
      let w := s.writePlain Reg.tierCutCtrl v.toNat
      let whole : List Fld := [⟨Reg.tierCutCtrl, 0, 64⟩]
      (v.getLsbD 0 = true → s.rdB Fld.tierCutCtrl.enable = false → w.2 = true →
        (s.dirOk = true → w.1.commitShared (bits v.toNat 2 5) = false → DoesThen (.cutEnable v) s fun t =>
          t.cut.dir = s.readDir ∧ t.rd Fld.tierCutCtrl.enable = 1 ∧ t.rd Fld.tierCutCtrl.commitBarrier = bits v.toNat 2 5 ∧
          Changes [.regs, .cut] whole s t) ∧
        (s.dirOk = false → w.1.commitShared (bits v.toNat 2 5) = false → DoesThen (.cutEnable v) s fun t =>
          t.rd Fld.tierCutCtrl.enable = 0 ∧ t.rd Fld.tierCutErrStatus.dirInvalid = 1 ∧
          Changes [.regs] (Fld.tierCutErrStatus.dirInvalid :: whole) s t) ∧
        (s.dirOk = true → w.1.commitShared (bits v.toNat 2 5) = true → DoesThen (.cutEnable v) s fun t =>
          t.rd Fld.tierCutCtrl.enable = 0 ∧ t.rd Fld.ctlErrStatus.accessErr = 1 ∧
          Changes [.regs, .log] (Fld.ctlErrlog.head :: Fld.ctlErrStatus.accessErr :: whole) s t)) ∧
      (v.getLsbD 0 = false → w.2 = true → (s.cut.cuts.map (·.seq)).Nodup → s.rdB Fld.tierCutCtrl.enable = true → DoesThen (.cutDisable v) s fun t =>
        t.rd Fld.tierCutCtrl.enable = 0 ∧ t.cut.cuts.all (fun c => !c.st.early) = true ∧ FieldsBut (whole ++ signalFields ++ cutEndFields) s t))

/-- PEAT_ENABLE, PEAT_DRIVE_READY, PEAT_READY_TIMEOUT, PEAT_FORMAT, PEAT_DISABLE, SMART_LOG_POLL. -/
def Obligations.PeatPort : Prop :=
  ∀ s : State, s.Inv → s.powered = true →
    let d := s.peat.drive
    let ctrl : List Fld := [⟨Reg.peatCtrl, 0, 64⟩]
    let good (off : Nat) : Bool := sealedOk (s.unitLoad 0 off 4096)
    let a := Catalogue.ofBytes (s.unitLoad 0 4096 4096)
    let b := Catalogue.ofBytes (s.unitLoad 0 8192 4096)
    let useB := good 8192 && (!good 4096 || a.catSeq < b.catSeq)
    let stands := s.peat.linkUp && s.peat.st != .init
    let found (t : State) : Prop :=
      t.peat.linkUp = true ∧ ((good 4096 && good 8192) = false → t.rd Fld.peatErrStatus.slotTorn = 1) ∧
      (if ((good 0 || good 0x100000) && (good 4096 || good 8192)) = true then
        t.peat.cat = some (if useB = true then (b, true) else (a, false)) ∧ t.peat.cursor = (if useB = true then b else a).nextUnit ∧
        (s.peat.drain = none → t.rd Fld.peatGenHigh.genHigh = (if useB = true then b else a).genHigh) ∧ t.peat.pairs = [32, 256, 256, 256, 256] ∧
        t.peat.st = (if fieldLE (s.unitLoad 0 (if good 0 = true then 0 else 0x100000) 4096) 8 8 ≠ s.part.serial.toNat then .foreign
          else if s.boot.phase = .hummock then .readOnly else .ready)
      else t.peat.cat = none ∧ t.peat.st = .unformatted ∧ t.peat.gens = [] ∧ t.rd Fld.peatGenHigh.genHigh = 0)
    (∀ v : BitVec 32, (s.writePlain Reg.peatCtrl v.toNat).2 = true →
      (v.getLsbD 0 = true → v.getLsbD 2 = false → s.rdB Fld.peatCtrl.enable = false →
        (s.board.perstN = false → DoesThen (.peatEnable v) s fun t =>
          t.peat = s.peat ∧ t.rd Fld.peatCtrl.enable = 1 ∧ Changes [.regs] ctrl s t) ∧
        (s.board.perstN = true → stands = false → (d.present && d.flit) = false → DoesThen (.peatEnable v) s fun t =>
          t.peat = { s.peat with st := .absent, linkUp := false, initTick := s.now, pairs := [], retried := false } ∧
          t.rd Fld.peatCtrl.enable = 1 ∧ Changes [.regs, .peat] ctrl s t) ∧
        (s.board.perstN = true → stands = false → (d.present && d.flit) = true → d.ready = false → DoesThen (.peatEnable v) s fun t =>
          t.peat = { s.peat with st := .init, linkUp := true, initTick := s.now, pairs := [], retried := false } ∧
          ((d.rate.toNat < 5 ∨ d.width.toNat < 8) → t.rd Fld.peatErrStatus.degraded = 1) ∧
          Changes [.regs, .peat] (Fld.peatErrStatus.degraded :: ctrl) s t) ∧
        (s.board.perstN = true → (stands = true ∨ ((d.present && d.flit) = true ∧ d.ready = true)) → DoesThen (.peatEnable v) s found)) ∧
      (v.getLsbD 0 = false → v.getLsbD 2 = false → s.rdB Fld.peatCtrl.enable = true →
        (s.peat.drain = none → s.catBusy = false →
          let waits (c : Ctx) : Bool := !c.finished && !c.abandoned && c.opc == 3 && !c.waits.isEmpty
          DoesThen (.peatDisable v) s fun t =>
            t.peat = { s.peat with st := .absent, linkUp := false, pairs := [], flushDue := false } ∧ t.rd Fld.peatCtrl.enable = 0 ∧
            (∀ k : Nat, ∀ c, s.ctx? k = some c → waits c = true → (t.ctx? k).map (fun x => (x.finished, x.status)) = some (true, St.peatAbsent)) ∧
            Changes [.regs, .peat, .cmd, .log] (Fld.ctlErrlog.head :: ctrl) s t ∧ (s.ctxsWith waits = [] → Changes [.regs, .peat] ctrl s t)) ∧
        ((s.peat.drain ≠ none ∨ s.catBusy = true) → DoesThen (.peatDisable v) s fun t =>
          t.peat = s.peat ∧ t.rd Fld.peatCtrl.enable = 0 ∧ Changes [.regs] ctrl s t)) ∧
      (v.getLsbD 0 = true → v.getLsbD 2 = true → s.rdB Fld.peatCtrl.enable = true →
        let armed := s.rdB Fld.peatCtrl.formatArm && s.peat.drain.isNone && !s.catBusy && !s.peatHeld && s.boot.phase != .hummock && s.peat.linkUp && s.peat.st != .init
        (armed = false → DoesThen (.peatFormat v) s fun t =>
          t.peat = s.peat ∧ t.rd Fld.ctlErrStatus.accessErr = 1 ∧ Changes [.regs, .log] (Fld.ctlErrlog.head :: Fld.ctlErrStatus.accessErr :: ctrl) s t) ∧
        (armed = true → d.keyAt 0 0 ≠ none → DoesThen (.peatFormat v) s fun t =>
          t.unitLoad 0 0 4096 = s.superblock ∧ t.unitLoad 0 0x100000 4096 = s.superblock ∧
          t.unitLoad 0 4096 4096 = Catalogue.bytes s.part.serial { catSeq := 2 } ∧
          t.unitLoad 0 8192 4096 = Catalogue.bytes s.part.serial { catSeq := 1 } ∧
          t.peat.st = .ready ∧ t.peat.cat = some ({ catSeq := 2 }, false) ∧ t.peat.gens = [] ∧ t.rd Fld.peatCtrl.formatArm = 0 ∧
          (∀ off : Nat, (12288 ≤ off ∧ off < 0x100000) ∨ (0x101000 ≤ off ∧ off < 0x200000) → t.unitLoad 0 off 1 = zeros 1) ∧
          t.rd Fld.peatGenHigh.genHigh = 0 ∧ t.rd Fld.peatGen.lastGen = 0 ∧ t.rd Fld.peatJobc.step = 0 ∧ t.map = s.map.filter (fun e => e.2.tier != 1)))) ∧
    (s.peat.st = .init →
      ((s.peat.linkUp || (d.present && d.flit)) = true → Does .peatDriveReady s fun t => found t ∧ t.peat.drive.ready = true ∧
        (s.peat.linkUp = false → (d.rate.toNat < 5 ∨ d.width.toNat < 8) → t.rd Fld.peatErrStatus.degraded = 1)) ∧
      ((s.peat.linkUp || (d.present && d.flit)) = false → Does .peatDriveReady s fun t =>
        t.peat = { s.peat with st := .absent, pairs := [] } ∧ Changes [.peat] [] s t)) ∧
    (s.peat.st ≠ .init → Does .peatDriveReady s (fun t => t = s) ∧ DoesThen .peatReadyTimeout s fun t => t = s) ∧
    (s.peat.st = .init → DoesThen .peatReadyTimeout s fun t =>
      t.peat.st = .failed ∧ ((s.cut.cuts.map (·.seq)).Nodup → ∀ c ∈ s.cut.cuts, c.pinned = true → c.drainStatus = none →
        (t.findCut c.seq).map (fun d => d.drainStatus) = some (some St.peatAbsent) ∧ t.rd Fld.peatErrStatus.drainFail = 1) ∧
      FieldsBut (Fld.ctlErrlog.head :: signalFields ++ drainEndFields) s t) ∧
    (∀ page : List Byte, page.length = 512 → s.fw = true → s.peat.linkUp = true → Does (.smartLogPoll page) s fun t =>
      t.peat = { s.peat with smart := page } ∧ Changes [.peat] [] s t)

/-- FELTING_SCHEDULE, DRAIN_RESERVATION_DONE, DRAIN_WRITES_DONE, DRAIN_FLUSH_DONE, DRAIN_CATALOGUE_DONE. -/
def Obligations.PeatDrains : Prop :=
  ∀ s : State, s.Inv →
    let high := s.rd Fld.peatGenHigh.genHigh
    let drainUnits := (s.dirExtents + 1) / 2
    let manUnits := (s.manLen + 0x1FFFFF) / 0x200000
    let kept (t : State) (w : NvmeWrite) : Prop := Memory.bytesAt t.peat.drive.blocks w.key w.bytes.length = w.bytes
    let next (c : Catalogue) (g : Nat) (es : List CatEntry) : List Byte :=
      Catalogue.bytes s.part.serial { catSeq := c.catSeq + 1, nextUnit := s.peat.cursor, genHigh := g, entries := es }
    (s.fw = true → s.boot.phase = .running → s.rdB Fld.tierCtrl.feltEn = false → s.rdB Fld.tierCtrl.peatEn = true → s.peat.drain = none → s.catBusy = false →
      s.board.holdupOk = true → s.peatHeld = false → s.board.pfWaitInterval = false → s.peat.st ≠ .init →
      ∀ c, s.nextDrain = some c → s.findCut c.seq = some c → ∀ k, s.freeCtx [3] = some k →
      (∀ st, s.peatWriteStop = some st → DoesThen .feltingSchedule s (DrainFailed c st)) ∧
      let slot := s.rd Fld.peatCfg.xtsSlot
      let xts := s.rdB Fld.peatCfg.xtsEn
      let key0 := if xts then some ((s.keySlot slot).bytes, slot) else none
      (s.peatWriteStop = none → xts = true → (s.keySlot slot).xts = false → DoesThen .feltingSchedule s (DrainFailed c St.keyAbsent)) ∧
      (s.peatWriteStop = none → (xts = true → (s.keySlot slot).xts = true) → s.mapFree < s.cut.dir.length →
        DoesThen .feltingSchedule s (DrainFailed c St.mapFull)) ∧
      (s.peatWriteStop = none → (xts = true → (s.keySlot slot).xts = true) → s.cut.dir.length ≤ s.mapFree →
        (s.freeUnits < drainUnits + manUnits → DoesThen .feltingSchedule s (DrainFailed c St.peatFull)) ∧
        (drainUnits + manUnits ≤ s.freeUnits → high + 1 < 2 ^ 48 → ∀ x, s.peat.cat = some x → ∀ key, s.peat.drive.keyAt 0 (slotOff (!x.2)) = some key →
          DoesThen .feltingSchedule s fun t =>
            t.peat = { s.peat with
              drain := some { seq := c.seq, peatGen := high + 1, need := drainUnits + manUnits, key := key0 },
              nvme := s.peat.nvme ++ [{ owner := .reservation, key := key, bytes := next x.1 (high + 1) s.allEntries }] } ∧
            t.map = (s.mapReserve 1 c.gen c.step (BitVec.ofNat 64 (high + 1)) s.cut.dir).map ∧ kget t.chk.ctxs k = some .drain ∧
            t.rd Fld.peatGenHigh.genHigh = high + 1 ∧ Changes [.regs, .map, .peat, .chk] [Fld.peatGenHigh.genHigh] s t))) ∧
    (s.peat.linkUp = true → ∀ x, s.peat.cat = some x →
      (s.peat.flushing = true → ∀ key, s.peat.drive.keyAt 0 (slotOff (!x.2)) = some key → DoesThen .drainFlushDone s fun t =>
        t.peat = { s.peat with flushing := false,
                               nvme := s.peat.nvme ++ [{ owner := .catalogue, key := key, bytes := next x.1 high (s.retained s.baseEntries) }] } ∧
        Changes [.peat] [] s t) ∧
      (s.peat.drain = none → ∀ w, s.peat.nvme.find? (fun w => w.owner == .catalogue) = some w → DoesThen .drainCatalogueDone s fun t =>
        kept t w ∧ t.peat.cat = some (Catalogue.ofBytes w.bytes, !x.2) ∧ t.peat.taking = [] ∧ t.peat.nextGens = [] ∧
        t.peat.gens = (s.peat.nextGens ++ s.peat.gens).filter (fun i => ((Catalogue.ofBytes w.bytes).entries.map (fun e => e.peatGen)).contains i.peatGen)) ∧
      ∀ d, s.peat.drain = some d → ∀ c, s.findCut d.seq = some c →
      (∀ w, s.peat.nvme.find? (fun w => w.owner == .reservation) = some w →
        let bad := (List.range s.cut.dir.length).any (fun i => (s.readSum c i).crcs != ((s.allSums c).getD i (s.readSum c i)).crcs)
        let us := s.takeUnits drainUnits []
        let ms := us.2.takeUnits manUnits us.1
        (s.board.pfWork = true → DoesThen .drainReservationDone s fun t => DrainFailed c St.pfailAbort t ∧ kept t w) ∧
        (s.board.pfWork = false → bad = true → DoesThen .drainReservationDone s fun t => DrainFailed c St.crcMismatch t ∧ kept t w) ∧
        (s.board.pfWork = false → bad = false → us.1.length + ms.1.length < d.need → DoesThen .drainReservationDone s fun t =>
          DrainFailed c St.peatFull t ∧ kept t w) ∧
        (s.board.pfWork = false → bad = false → d.need ≤ us.1.length + ms.1.length → DoesThen .drainReservationDone s fun t =>
          kept t w ∧ t.peat.cat = some (Catalogue.ofBytes w.bytes, !x.2) ∧
          t.peat.drain.map (fun y => (y.seq, y.peatGen, y.step, y.need)) = some (d.seq, d.peatGen, DrainStep.writes, 0) ∧
          (∀ y, t.peat.drain = some y → y.units = us.1 ++ ms.1 ∧ y.units.all (fun u => !s.usedUnits.contains u) = true ∧ y.halves.length ≤ s.dirExtents ∧
            (y.units.length = drainUnits + manUnits → y.halves.length = s.dirExtents)) ∧
          t.peat.nvme.all (fun w => w.owner != .reservation) = true ∧ Changes [.cut, .peat] [] s t)) ∧
      (d.step = .writes →
        ((d.short = true ∨ s.pfPast .dataWrites = true) → DoesThen .drainWritesDone s (DrainFailed c St.pfailAbort)) ∧
        (d.short = false → s.pfPast .dataWrites = false → DoesThen .drainWritesDone s fun t =>
          t.peat.drain = some { d with step := .flush } ∧ t.peat.nvme = s.peat.nvme.filter (fun w => w.owner != .drain) ∧
          ((s.peatHeld = false → s.catBusy = false → s.peat.staged = []) →
            (∀ w, s.peat.nvme.filter (fun w => w.owner == .drain) = [w] → kept t w) ∧
            t.map = s.map.map (fun e => if mapPeat d.peatGen e.2 && e.2.st == .filling then (e.1, { e.2 with st := .written }) else e) ∧
            Changes [.map, .peat] [] s t))) ∧
      (d.step = .flush → s.catBusy = false →
        (s.pfPast .flush = true → DoesThen .drainFlushDone s (DrainFailed c St.pfailAbort)) ∧
        (s.pfPast .flush = false → ∀ key, s.peat.drive.keyAt 0 (slotOff (!x.2)) = some key → DoesThen .drainFlushDone s fun t =>
          let e : CatEntry :=
            { peatGen := d.peatGen, step := c.step, gen := c.gen, encrypted := d.key.isSome, battless := c.battless,
              sedgeIncomplete := c.st == .sedgeIncomplete, manBytes := d.manBytes, manUnit := d.manUnits.headD 0, manCrc := d.manCrc,
              kcv := match d.key with | some k => kcvOf k.1 | none => 0, group := c.group }
          t.peat.drain = some { d with step := .catalogue } ∧
          t.peat.nvme = s.peat.nvme ++ [{ owner := .catalogue, key := key, bytes := next x.1 high (s.retained (s.baseEntries ++ [e])) }] ∧
          t.peat.nextGens = { peatGen := d.peatGen, units := d.units, man := d.manUnits } :: s.peat.nextGens ∧ Changes [.peat] [] s t)) ∧
      (d.step = .catalogue → s.peat.taking = [] → ∀ w, s.peat.nvme.find? (fun w => w.owner == .catalogue) = some w → DoesThen .drainCatalogueDone s fun t =>
        kept t w ∧ t.peat.cat = some (Catalogue.ofBytes w.bytes, !x.2) ∧ t.peat.drain = none ∧
        (t.findCut d.seq).map (fun y => (y.drainStatus, y.peatGen)) = some (some St.success, d.peatGen) ∧
        t.map.any (fun e => mapPeat d.peatGen e.2 && e.2.st == .written) = false ∧
        t.rd Fld.peatGen.lastGen = ((t.entries.foldr insertGen []).head?.elim 0 (fun e => e.peatGen)) ∧
        t.peat.gens = (s.peat.nextGens ++ s.peat.gens).filter (fun i => ((Catalogue.ofBytes w.bytes).entries.map (fun e => e.peatGen)).contains i.peatGen)))

/-- NVME_COMMAND_ERROR, NVME_TIMEOUT, PEAT_LINK_DOWN, PIN_EXPORTED. -/
def Obligations.PeatErrors : Prop :=
  ∀ s : State, s.Inv → s.powered = true →
    (s.peat.linkUp = true → ∀ (opcode : BitVec 8),
      let counted (t : State) : Prop :=
        t.rd Fld.peatNvmeErr.opcode = opcode.toNat ∧
        t.rd Fld.peatNvmeErr.count = min (s.rd Fld.peatNvmeErr.count + 1) (2 ^ Fld.peatNvmeErr.count.len - 1) ∧
        t.log.length = min 1024 (s.log.length + 1)
      let again (t : State) : Prop :=
        (s.rdB Fld.peatCtrl.enable = true → t.peat.st = .init ∧ t.peat.initTick = s.now) ∧ (s.rdB Fld.peatCtrl.enable = false → t.peat.st = .absent) ∧
        t.peat.nvme = [] ∧ t.peat.drive.ready = false ∧ t.peat.drain = none ∧
        t.peat.cat = s.peat.cat ∧ t.peat.gens = s.peat.gens ∧
        (∀ d, s.peat.drain = some d → ∀ c, s.findCut d.seq = some c → DrainFailed c St.peatIo t)
      (∀ st : NvmeStatus,
        let logged (t : State) : Prop :=
          counted t ∧ t.rd Fld.peatNvmeErr.sc = st.sc.toNat ∧ t.rd Fld.peatNvmeErr.sct = st.sct.toNat ∧ t.rd Fld.peatNvmeErr.dnr = b2n st.dnr
        let first : List Fld := [Fld.ctlErrlog.head, Fld.peatNvmeErr.sc, Fld.peatNvmeErr.sct, Fld.peatNvmeErr.dnr, Fld.peatNvmeErr.opcode, Fld.peatNvmeErr.count]
        (s.nvmeIssued opcode.toNat = false → DoesThen (.nvmeCommandError opcode st) s fun t => t = s) ∧
        (s.peat.st = .init → s.nvmeIssued opcode.toNat = true →
          (st.dnr = false → s.peat.retried = false → DoesThen (.nvmeCommandError opcode st) s fun t =>
            logged t ∧ t.peat = { s.peat with retried := true } ∧ Changes [.regs, .log, .freeCtr, .peat] first s t) ∧
          ((st.dnr = true ∨ s.peat.retried = true) → DoesThen (.nvmeCommandError opcode st) s fun t =>
            t.rd Fld.peatErrStatus.io = 1 ∧ (s.rdB Fld.peatCtrl.enable = true → t.peat.st = .failed) ∧
            ((s.cut.cuts.map (·.seq)).Nodup → ∀ c ∈ s.cut.cuts, c.pinned = true → c.drainStatus = none →
              (t.findCut c.seq).map (fun d => d.drainStatus) = some (some St.peatAbsent)))) ∧
        (s.peat.st ≠ .init → s.nvmeIssued opcode.toNat = true → opcode.toNat > 2 → DoesThen (.nvmeCommandError opcode st) s fun t =>
          logged t ∧ t.peat = s.peat ∧ Changes [.regs, .log, .freeCtr] first s t) ∧
        (s.peat.st ≠ .init → opcode = 2 → ∀ k, (s.ctxsWith Ctx.readsPeat).head? = some k → ∀ c, s.ctx? k = some c →
          (st.dnr = false → c.retried = false → DoesThen (.nvmeCommandError opcode st) s fun t =>
            logged t ∧ t.ctx? k = some { c with retried := true } ∧ Changes [.regs, .log, .freeCtr, .cmd] first s t) ∧
          ((st.dnr = true ∨ c.retried = true) → DoesThen (.nvmeCommandError opcode st) s fun t =>
            (t.ctx? k).map (fun x => (x.finished, x.status)) = some (true, St.peatIo) ∧ t.rd Fld.peatErrStatus.io = 1)) ∧
        (s.peat.st ≠ .init → opcode = 1 → ∀ w, s.peat.nvme.head? = some w →
          (st.dnr = false → w.retried = false → DoesThen (.nvmeCommandError opcode st) s fun t =>
            logged t ∧ t.peat = { s.peat with nvme := { w with retried := true } :: s.peat.nvme.tail } ∧ Changes [.regs, .log, .freeCtr, .peat] first s t) ∧
          ((st.dnr = true ∨ w.retried = true) → w.owner = .drain → ∀ d, s.peat.drain = some d → ∀ c, s.findCut d.seq = some c →
            DoesThen (.nvmeCommandError opcode st) s fun t => DrainFailed c St.peatIo t ∧ t.peat.cat = s.peat.cat)) ∧
        (s.peat.st ≠ .init → opcode = 0 → s.peat.flushing = true →
          (st.dnr = false → s.peat.retried = false → DoesThen (.nvmeCommandError opcode st) s fun t =>
            logged t ∧ t.peat = { s.peat with retried := true } ∧ Changes [.regs, .log, .freeCtr, .peat] first s t) ∧
          ((st.dnr = true ∨ s.peat.retried = true) → DoesThen (.nvmeCommandError opcode st) s fun t =>
            t.peat.staged = s.peat.taking.map (fun t => t.1) ++ s.peat.staged ∧ t.peat.taking = [] ∧ t.peat.flushing = false ∧
            t.peat.cat = s.peat.cat ∧ t.rd Fld.peatErrStatus.io = 1)) ∧
        (s.peat.st ≠ .init → opcode = 0 → s.peat.flushing = false → ∀ d, s.peat.drain = some d → d.step = .flush → ∀ c, s.findCut d.seq = some c →
          (st.dnr = false → d.retried = false → DoesThen (.nvmeCommandError opcode st) s fun t =>
            logged t ∧ t.peat = { s.peat with drain := some { d with retried := true } } ∧ Changes [.regs, .log, .freeCtr, .peat] first s t) ∧
          ((st.dnr = true ∨ d.retried = true) → DoesThen (.nvmeCommandError opcode st) s fun t => DrainFailed c St.peatIo t ∧ t.peat.cat = s.peat.cat))) ∧
      (s.peat.st ≠ .init → s.nvmeIssued opcode.toNat = true → DoesThen (.nvmeTimeout opcode) s fun t => again t ∧ (s.rdB Fld.peatCtrl.enable = true → t.peat.linkUp = true) ∧ t.rd Fld.peatNvmeErr.opcode = opcode.toNat ∧
        t.rd Fld.peatNvmeErr.count = min (s.rd Fld.peatNvmeErr.count + 1) (2 ^ Fld.peatNvmeErr.count.len - 1)) ∧
      DoesThen .peatLinkDown s fun t => again t ∧ t.peat.linkUp = false ∧
        (s.peatInputs = [] → FieldsBut (Fld.ctlErrlog.head :: signalFields ++ drainEndFields) s t)) ∧
    (∀ (n : Fin 4) (v : W64), (s.writePlain (Reg.peatPin n) v.toNat).2 = true →
      let u := (s.writePlain (Reg.peatPin n) v.toNat).1
      let g := u.rd (Fld.peatPin.gen n)
      let pin : List Fld := [⟨Reg.peatPin n, 0, 64⟩]
      (u.rdB (Fld.peatPin.pin n) = false → Does (.pinExported n v) s fun t =>
        t.rd (Fld.peatPin.exported n) = 0 ∧ t.rd (Fld.peatPin.pin n) = 0 ∧
        t.map = (if s.rdB (Fld.peatPin.exported n) = true then s.map.filter (fun e => !(e.2.tier == 2 && e.2.loc.toNat == s.rd (Fld.peatPin.gen n))) else s.map) ∧
        Changes [.regs, .map] pin s t) ∧
      (u.rdB (Fld.peatPin.pin n) = true → s.entries.any (fun e => e.peatGen == g) = false → Does (.pinExported n v) s fun t =>
        t.rd Fld.ctlErrStatus.accessErr = 1 ∧ t.map = s.map ∧ Changes [.regs, .log] (Fld.ctlErrlog.head :: Fld.ctlErrStatus.accessErr :: pin) s t) ∧
      (u.rdB (Fld.peatPin.pin n) = true → s.entries.any (fun e => e.peatGen == g) = true → v.getLsbD 49 = true → s.rdB (Fld.peatPin.exported n) = false →
        let es := (s.map.filter (fun e => mapPeat g e.2)).map (fun e => { e.2 with tier := 2, st := MapState.committed })
        es.length ≤ s.mapFree → Does (.pinExported n v) s fun t =>
          t.rd (Fld.peatPin.exported n) = 1 ∧ t.rd (Fld.peatPin.gen n) = g ∧ t.map = (es.foldl State.mapAdd s).map ∧ Changes [.regs, .map] pin s t))

/-- KEY_BEGIN, KEY_DATA_WORD, KEY_COMMIT, KEY_CLEAR. -/
def Obligations.KeySlots : Prop :=
  ∀ s : State, s.Inv → s.powered = true →
    let ctrl : List Fld := [Fld.secKeyCtrl.slot, Fld.secKeyCtrl.result]
    let others (n : Nat) (t : State) : Prop := ∀ m : Nat, m ≠ n → t.keySlot m = s.keySlot m
    (∀ n : Fin 16,
      (s.keyBusy n = true → Does (.keyCommit n) s (fun t => t.sec = s.sec ∧ t.rd Fld.secKeyCtrl.result = 1 ∧ Changes [.regs] ctrl s t) ∧
        Does (.keyClear n) s fun t => t.sec = s.sec ∧ t.rd Fld.secKeyCtrl.result = 1 ∧ Changes [.regs] ctrl s t) ∧
      (∀ (kind : BitVec 2) (len : BitVec 7), (s.writePlain Reg.secKeyCtrl (n.val + 16 * kind.toNat + 64 * len.toNat + 0x2000)).2 = true →
        let u := (s.writePlain Reg.secKeyCtrl (n.val + 16 * kind.toNat + 64 * len.toNat + 0x2000)).1
        (u.keyBusy n = false → Does (.keyBegin n kind len) s fun t =>
          t.sec = { s.sec with load := some { slot := n } } ∧ t.rd Fld.secKeyCtrl.kind = kind.toNat ∧ t.rd Fld.secKeyCtrl.len = len.toNat ∧
          t.rd Fld.secKeyCtrl.slot = n.val ∧ t.rd Fld.secKeyCtrl.result = 0 ∧ Changes [.regs, .sec] [⟨Reg.secKeyCtrl, 0, 64⟩] s t) ∧
        (u.keyBusy n = true → Does (.keyBegin n kind len) s fun t =>
          t.sec = s.sec ∧ t.rd Fld.secKeyCtrl.result = 1 ∧ Changes [.regs] [⟨Reg.secKeyCtrl, 0, 64⟩] s t)) ∧
      (s.keyBusy n = false →
        (Does (.keyClear n) s fun t => t.keySlot n = {} ∧ others n t ∧ t.sec.load = s.sec.load ∧ t.rd Fld.secKeyCtrl.result = 0 ∧ Changes [.regs, .sec] ctrl s t) ∧
        (s.sec.load.all (fun l => l.slot != n) = true → Does (.keyCommit n) s fun t =>
          t.sec = s.sec ∧ t.rd Fld.secKeyCtrl.result = 4 ∧ Changes [.regs] ctrl s t) ∧
        (∀ l, s.sec.load = some l → l.slot = n →
          let kind := s.rd Fld.secKeyCtrl.kind
          let len := s.rd Fld.secKeyCtrl.len + 1
          let b := (l.words.flatMap (fun w => leBytes 8 w.toNat)).take len
          let short := b.length < len || (kind == 1 && len != 64)
          let same := kind == 1 && b.take 32 == b.drop 32
          ((short || same) = true → Does (.keyCommit n) s fun t =>
            t.sec = { s.sec with load := none } ∧ t.rd Fld.secKeyCtrl.result = (if short = true then 2 else 3) ∧ Changes [.regs, .sec] ctrl s t) ∧
          ((short || same) = false → Does (.keyCommit n) s fun t =>
            t.keySlot n = { kind := BitVec.ofNat 2 kind, bytes := b, loaded := true } ∧ others n t ∧ t.sec.load = none ∧
            t.rd Fld.secKeyCtrl.result = 0 ∧ (s.entries.all (fun e => !e.encrypted) = true → Changes [.regs, .sec] ctrl s t))))) ∧
    (∀ w : W64,
      (s.sec.load = none → Does (.keyDataWord w) s fun t => t = s) ∧
      (∀ l, s.sec.load = some l →
        (l.words.length < 16 → Does (.keyDataWord w) s fun t => t.sec = { s.sec with load := some { l with words := l.words ++ [w] } } ∧ Changes [.sec] [] s t) ∧
        (16 ≤ l.words.length → Does (.keyDataWord w) s fun t => t = s)))

/-- HEARTBEAT_SEND, HEARTBEAT_FRAME, HEARTBEAT_MISS, LINK_LOSS, ENGINE_NOTICE. -/
def Obligations.Detection : Prop :=
  ∀ s : State, s.Inv →
    let raised (t : State) : Prop :=
      t.halted = true ∧ t.rst.epoch = s.rst.epoch + 1 ∧ t.rd Fld.tierRstErrStatus.haltSeen = 1
    (s.fw = true → s.isWarden = false → Does .heartbeatSend s fun t =>
      t.outbox = (s.sendTo s.myRack s.wardenPos Ty.heartbeat (s.rstFrame s.rst.hbCount.toNat 0 s.hbPayload)).outbox ∧
      t.rst = { s.rst with hbCount := s.rst.hbCount + 1 } ∧ Changes [.rst, .outbox] [] s t) ∧
    (s.fw = true → s.isWarden = true → Does .heartbeatSend s fun t =>
      (s.anyOpen = true → t.outbox.length = s.outbox.length + s.peers.length) ∧ t.rst = { s.rst with hbCount := s.rst.hbCount + 1 } ∧
      Changes [.rst, .outbox] [] s t) ∧
    (∀ (n : Fin 42) (ms : Nat),
      let lost := s.board.lockLost
      let one : BitVec 42 := BitVec.ofNat 42 (2 ^ n.val)
      (s.present n = false → Does (.linkLoss ⟨n, ms⟩) s fun t => t = s) ∧
      (s.present n = true →
        (ms = 0 → Does (.linkLoss ⟨n, ms⟩) s fun t => t.board = { s.board with lockLost := lost &&& ~~~one } ∧ Changes [.board] [] s t) ∧
        (ms ≠ 0 → (ms < s.rd Fld.tierHbCfg.linkHoldMs ∨ lost.getLsbD n = true) → Does (.linkLoss ⟨n, ms⟩) s fun t => t = s) ∧
        (ms ≠ 0 → s.rd Fld.tierHbCfg.linkHoldMs ≤ ms → lost.getLsbD n = false → Does (.linkLoss ⟨n, ms⟩) s fun t =>
          t.board = { s.board with lockLost := lost ||| one } ∧
          t.outbox = (if s.hw = true then (s.notice 7 n 0 0 0 0).outbox else s.outbox) ∧ Changes [.board, .outbox] [] s t))) ∧
    (∀ (n : Fin 42) (f : Frame),
      let b := fieldLE f.payload 0 8
      (s.hears n Ty.heartbeat f = true → frameEpoch f ≠ s.rst.epoch → DoesThen (.heartbeatFrame n f) s fun t =>
        Counted Fld.tierRstCounts.staleRestore s t ∧ Changes [.regs] [Fld.tierRstCounts.staleRestore] s t) ∧
      (s.hears n Ty.heartbeat f = true → frameEpoch f = s.rst.epoch → f.payload.length = 8 →
        (s.isWarden = false → f.srcRack = s.myRack → f.srcPos = s.wardenPos → DoesThen (.heartbeatFrame n f) s fun t =>
          t.elect = { s.elect with wardenHb := s.now, hadWarden := true } ∧ Changes [.elect] [] s t) ∧
        (s.isWarden = false → (f.srcRack ≠ s.myRack ∨ f.srcPos ≠ s.wardenPos) → DoesThen (.heartbeatFrame n f) s fun t => t = s) ∧
        (s.isWarden = true → s.warden.job = .normal → ∀ m, s.member? f.srcRack f.srcPos = some m → DoesThen (.heartbeatFrame n f) s fun t =>
          t.member? f.srcRack f.srcPos = some { m with
            lastHb := s.now, standby := bitAt b 1, inRange := bitAt b 0, spare := m.spare || bitAt b 1,
            cls := (match m.cls with
              | .failed => if bitAt b 1 then MemberClass.alive else .failed
              | .unknown => if bitAt b 2 then .alive else .unknown
              | .alive => .alive) } ∧ Changes [.warden] [] s t) ∧
        (s.isWarden = true → s.warden.job = .normal → f.srcRack = s.myRack → s.member? f.srcRack f.srcPos = none →
          DoesThen (.heartbeatFrame n f) s fun t =>
            t.member? f.srcRack f.srcPos = some {
              rack := f.srcRack, pos := f.srcPos, lastHb := s.now, standby := bitAt b 1, inRange := bitAt b 0, spare := bitAt b 1 } ∧ Changes [.warden] [] s t)) ∧
      (s.hears n Ty.engineNotice f = true → frameEpoch f = s.rst.epoch → f.payload.length = 16 →
        let cause := fieldLE f.payload 0 1
        let port := fieldLE f.payload 1 1
        let empty := fieldLE f.payload 2 2 = St.noSource.toNat
        (s.isWarden = false → (cause ≠ 7 ∨ f.srcRack ≠ s.myRack ∨ f.srcPos ≠ s.wardenPos) → DoesThen (.engineNotice n f) s (Stale n s)) ∧
        (s.isWarden = false → cause = 7 → f.srcRack = s.myRack → f.srcPos = s.wardenPos → port < 24 → DoesThen (.engineNotice n f) s fun t =>
          (∀ ch : Fin 32, bitAt (t.cfgRd (Fld.redChPorts.uflMask ch)) port = false) ∧ bitAt (t.rd Fld.tierFeltPorts.uflMask) port = false ∧
          Only [.regs, .red] s t) ∧
        (s.isLead = true → s.isWarden = true → (s.warden.job = .restoring ∨ s.warden.job = .waiting) → cause = 5 → empty →
          DoesThen (.engineNotice n f) s fun t => raised t ∧ t.warden.older = some (BitVec.ofNat 64 (fieldLE f.payload 8 8))) ∧
        (s.isWarden = true → s.warden.job = .normal → s.rst.st = .running → s.waitingFor (fun _ => true) = [] →
          ∀ m, s.member? f.srcRack f.srcPos = some m → m.cls = .alive →
          ((cause = 2 ∨ cause = 3) → DoesThen (.engineNotice n f) s fun t =>
            t.member? f.srcRack f.srcPos = some { m with inRange := cause = 3 } ∧ Changes [.warden] [] s t) ∧
          ((cause = 1 ∨ cause = 4) → m.rack = s.myRack → m.standby = false → DoesThen (.engineNotice n f) s fun t =>
            raised t ∧ Counted Fld.tierWardenStatus.detections s t ∧ (t.member? f.srcRack f.srcPos).map (fun m => m.cls) = some .failed) ∧
          (((cause = 5 ∧ ¬ empty) ∨ cause = 6) → DoesThen (.engineNotice n f) s raised) ∧
          (cause = 5 → empty → s.isLead = true → DoesThen (.engineNotice n f) s fun t => t = s) ∧
          (cause = 7 → port < 24 → DoesThen (.engineNotice n f) s fun t =>
            raised t ∧ (∀ ch : Fin 32, bitAt (t.cfgRd (Fld.redChPorts.uflMask ch)) port = false) ∧
            (s.anyOpen = true → ∀ p ∈ s.peers, (f.srcRack = s.myRack ∨ p ≠ (f.srcRack, f.srcPos)) →
              t.outbox.any (fun o => o.ty == Ty.engineNotice && o.dest == .pos p.1 p.2 && o.frame.payload.take 2 == f.payload.take 2) = true)))) ) ∧
    (∀ (rack : BitVec 10) (pos : BitVec 7), s.fw = true → s.isWarden = true → s.warden.job = .normal → s.rst.st = .running →
      s.waitingFor (fun _ => true) = [] →
      ∀ m, s.member? rack pos = some m →
      ((m.cls = .failed ∨ s.elapsed m.lastHb s.missTicks = false) → DoesThen (.heartbeatMiss rack pos) s fun t => t = s) ∧
      (m.cls ≠ .failed → s.elapsed m.lastHb s.missTicks = true → m.rack = s.myRack →
        (m.standby = true → DoesThen (.heartbeatMiss rack pos) s fun t =>
          t.member? rack pos = some { m with cls := .failed } ∧ Counted Fld.tierWardenStatus.detections s t ∧ t.rst = s.rst ∧
          Changes [.warden, .regs] [Fld.tierWardenStatus.detections] s t) ∧
        (m.standby = false → DoesThen (.heartbeatMiss rack pos) s fun t =>
          raised t ∧ Counted Fld.tierWardenStatus.detections s t ∧ t.warden.failed.length = s.warden.failed.length + 1 ∧
          t.warden.takeovers = s.warden.takeovers + 1 ∧ (t.member? rack pos).map (fun m => m.cls) = some .failed)))

/-- HALT, SUPPLY_QUERY, CANDIDATE, FENCE_FRAME. -/
def Obligations.HaltAndPlan : Prop :=
  ∀ (s : State) (n : Fin 42) (f : Frame), s.Inv → s.isWarden = false →
    let e := frameEpoch f
    let ahead := (e - s.rst.epoch).toNat
    (s.hears n Ty.halt f = true → f.payload.length = 8 →
      (32768 ≤ ahead → DoesThen (.halt n f) s fun t => Counted Fld.tierRstCounts.staleRestore s t ∧ Changes [.regs] [Fld.tierRstCounts.staleRestore] s t) ∧
      (ahead = 0 → DoesThen (.halt n f) s fun t =>
        (∀ b : Fin 20,
          let x := s.bar b
          let stands := x.st = .disabled ∨ b.val = s.rd Fld.tierRstCtrl.planBarrier ∨ b.val = s.rd Fld.tierRstCtrl.releaseBarrier
          (stands → t.bar b = x) ∧
          (¬ stands → (t.bar b).st = .opened ∧ (t.bar b).episode = nextEpisode x.episode ∧ (t.bar b).cur = x.next ∧ (t.bar b).next = [] ∧
            (t.bar b).queue = [] ∧ (t.bar b).lastStatus = St.halted)) ∧ Changes [.syn] [] s t) ∧
      (ahead < 32768 → ahead ≠ 0 → s.spareRole = true → DoesThen (.halt n f) s fun t =>
        t.rst = { s.rst with epoch := e, chosenWaits := false } ∧ t.rd Fld.tierRstErrStatus.haltSeen = 1 ∧
        (∀ b : Fin 20, (t.bar b).episode = epochEpisode e) ∧ Changes [.rst, .regs, .syn] [Fld.tierRstErrStatus.haltSeen] s t) ∧
      (ahead < 32768 → ahead ≠ 0 → s.spareRole = false → DoesThen (.halt n f) s fun t =>
        t.rst.epoch = e ∧ t.rst.st = (if s.rst.st = .running then .halted else .planning) ∧ t.rst.queries = [] ∧ t.rst.sentData = [] ∧
        t.rst.role = (if s.rst.role = .spare then .spare else if s.rst.corrupt = true ∨ s.rst.faulted = true then .inPlace else .survivor) ∧
        t.rd Fld.tierRstErrStatus.haltSeen = 1 ∧ t.red.tags.inUse = [] ∧ t.red.waiting = [] ∧ (∀ q : Fin 4, (t.fq q).task = none) ∧
        (∀ b : Fin 20, (t.bar b).episode = epochEpisode e ∧ (t.bar b).cur = []) ∧
        ((s.cut.cuts.map (·.seq)).Nodup → t.cut.cuts.all (fun c => !c.st.early) = true) ∧
        (∀ k : Fin 8, ((s.set k).st = .filling → t.set k = {}) ∧ ((s.set k).st = .committed → t.set k = { s.set k with st := .held }) ∧
          ((s.set k).st ≠ .filling → (s.set k).st ≠ .committed → t.set k = s.set k)) ∧
        (∀ k : Fin 64, t.slotArmed k = false) ∧ (s.anyOpen = true → (t.outbox.getLast?).map (fun o => o.ty) = some Ty.heartbeat))) ∧
    (frameEpoch f = s.rst.epoch → s.hears n Ty.supplyQuery f = true →
      ((s.halted = false ∨ f.payload.length ≠ 8 ∨ 48 ≤ fieldLE f.payload 4 1) → Does (.supplyQuery n f) s (Stale n s)) ∧
      (s.halted = true → f.payload.length = 8 → fieldLE f.payload 4 1 < 48 → Does (.supplyQuery n f) s fun t =>
        t.rst = { s.rst with queries := s.rst.queries ++
          [{ rank := BitVec.ofNat 32 (fieldLE f.payload 0 4), bit := fieldLE f.payload 4 1,
             asHost := bitAt (fieldLE f.payload 5 1) 0, asReplica := bitAt (fieldLE f.payload 5 1) 1 }] } ∧ Changes [.rst] [] s t)) ∧
    (frameEpoch f = s.rst.epoch → s.hears n Ty.candidate f = true → f.payload.length = 16 →
      let step := BitVec.ofNat 64 (fieldLE f.payload 0 8)
      let gen := BitVec.ofNat 8 (fieldLE f.payload 8 1)
      let b := fieldLE f.payload 9 1
      let planning := s.rst.st == .halted || s.rst.st == .planning
      (planning = true → bitAt b 1 = true → DoesThen (.candidate n f) s fun t =>
        t.rst = { s.rst with st := .waiting, lastStatus := St.noSource } ∧ Changes [.rst] [] s t) ∧
      (planning = true → bitAt b 1 = false → bitAt b 0 = false → DoesThen (.candidate n f) s fun t =>
        let cast := ({ s with rst := { s.rst with st := .planning } } : State).barArrive (s.rd Fld.tierRstCtrl.planBarrier) .plan 0 (s.voteWord step gen)
        t.rst = { s.rst with st := .planning } ∧ t.syn = cast.syn ∧ t.outbox = cast.outbox ∧ Changes [.rst, .syn, .mem, .regs, .outbox] signalFields s t) ∧
      (s.spareRole = true → bitAt b 1 = false → bitAt b 0 = true → DoesThen (.candidate n f) s fun t =>
        t.rst = { s.rst with cutStep := step, cutGen := gen, cutValid := true, chosenWaits := true, work := false } ∧ Changes [.rst] [] s t) ∧
      (s.spareRole = false → planning = true → bitAt b 1 = false → bitAt b 0 = true → s.rst.work = false →
        let held (t : State) : Prop := ∀ k : Fin 8, (s.set k).st = .held →
          t.set k = (if (s.set k).step = step ∧ (s.set k).gen = gen then { s.set k with st := .committed } else {})
        let whole := s.cut.dir.map (fun r => (s.regionAt r, r.len))
        let begun (t : State) : Prop := t.rst.cutStep = step ∧ t.rst.cutGen = gen ∧ t.rst.cutValid = true ∧ t.rst.work = true ∧ held t
        (s.refills = false → s.cleanFor step gen = false → (s.localCut step gen).isSome = true → DoesThen (.candidate n f) s fun t =>
          t.rst.st = .rollback ∧ t.rst.dataIn = { want := whole, prov := some (.batt, 0) } ∧ t.rst.recIn = {} ∧
          (s.cut.dir.foldl (fun k r => k + r.len) 0 ≠ 0 → t.rst.source = .batt) ∧ begun t) ∧
        (s.refills = false → s.cleanFor step gen = true → s.cut.dir.any Region.isSump = true → DoesThen (.candidate n f) s fun t =>
          t.rst.st = .rollback ∧ t.rst.tookLive = true ∧
          t.rst.dataIn.want = (s.cut.dir.filter Region.isSump).map (fun r => (s.regionAt r, r.len)) ∧ begun t) ∧
        (s.rst.role = .spare → s.rdB Fld.tierCutCtrl.enable = true → s.replOn = false → s.hostAlive = true → DoesThen (.candidate n f) s fun t =>
          t.rst.st = .refill ∧ t.rst.recIn = { want := [s.recWant], prov := some (.sedge, 0) } ∧
          t.rst.manIn = { want := s.manWant, prov := some (.sedge, 0) } ∧ t.rst.dataIn = { want := whole, prov := some (.sedge, 0) } ∧
          (s.anyOpen = true → t.outbox.length = s.outbox.length + 3 + s.cut.dir.length) ∧ begun t))) ∧
    (frameEpoch f = s.rst.epoch → s.hears n Ty.fence f = true → f.payload.length = 8 →
      (fieldLE f.payload 0 4 ≠ s.myRank → DoesThen (.fenceFrame n f) s fun t => t = s) ∧
      (fieldLE f.payload 0 4 = s.myRank → DoesThen (.fenceFrame n f) s fun t =>
        t.boot.phase = .reset ∧ t.boot.kind = .engine ∧ t.rd Fld.ctlBootReason.source = 4 ∧ t.rst.fenced = true ∧ t.slices = Vector.replicate 42 .closed))

/-- ROLLBACK_COMPLETE, REFILL_REQUEST, REFILL_DATA, REFILL_ACK, REFILL_COMPLETE, REFILL_WATCHDOG_EXPIRY, VERIFY_COMPLETE. -/
def Obligations.RestoreData : Prop :=
  ∀ s : State, s.Inv →
    let r := s.rst
    let ring := s.load s.recSlot 16384
    let dir := s.cut.dir
    let record (t : State) : Prop :=
      (s.recordOk ring = true → t.rst.st = .verify ∧ t.rst.done = { r.done with data := true, record := true } ∧ t.rst.recIn = {} ∧
        t.syn.flags = BitVec.ofNat 1024 (fieldLE ring 64 128) ∧ t.syn.pairs = recPairs ring ∧ t.syn.waiters = [] ∧
        t.getReg Reg.tierCutJob = r.cutStep ∧ t.rd Fld.tierCutJobInfo.gen = r.cutGen.toNat ∧ t.rd Fld.tierCutJobInfo.valid = 1) ∧
      (s.recordOk ring = false → t.rd Fld.tierRstErrStatus.recordInvalid = 1 ∧
        (s.recordMixed ring = true → t.rd Fld.tierRstErrStatus.mixedStep = 1) ∧
        (s.recordOk s.peatRecord = false → t.rst.st = .record ∧ t.rst.done.data = true ∧ t.rst.recIn.want = [s.recWant]))
    let left (i : Input) (t : State) : Prop := (t.rst.input i).tried = (r.input i).tried ++ (r.input i).prov.toList
    let switched (t : State) : Prop := t.rd Fld.tierRstErrStatus.sourceSwitch = 1 ∧ Counted Fld.tierRstCounts.sourceSwitches s t
    (s.fw = true → r.st = .rollback →
      (r.dataIn.want = [] → DoesThen .rollbackComplete s record) ∧
      (r.dataIn.want ≠ [] → r.dataIn.prov = some (.batt, 0) → ∀ c, s.localCut r.cutStep r.cutGen = some c → ∀ h, c.half = some h →
        allPairs (fun a b => !overlap a.live a.len b.live b.len) dir = true →
        dir.all (fun x => !overlap x.live x.len s.recSlot 16384 && !overlap x.live x.len (s.battBase h) (s.battSize + 2 ^ 48)) = true →
        s.rdAddr Fld.tierRstRt.base = 0 → DoesThen .rollbackComplete s fun t =>
          (∀ x ∈ dir, s.wantsRegion x = true → t.load x.live x.len = s.image (some h) x 0 x.len) ∧ t.rst.dataIn.want = [] ∧ record t)) ∧
    (s.fw = true → r.work = true → r.elastic = false →
      (r.st = .refill → r.want = [] → DoesThen .refillComplete s record) ∧
      (r.st = .rollback → (s.provAt .regions).isSome = true → r.dataIn.want = [] → DoesThen .refillComplete s record) ∧
      (r.st = .record → r.recIn.want = [] → DoesThen .refillComplete s record) ∧
      (r.st = .refill → r.want ≠ [] → DoesThen .refillComplete s fun t => t = s)) ∧
    (∀ (n : Fin 42) (f : Frame), frameEpoch f = r.epoch →
      let off := f.offset.toNat % 2 ^ 38
      let k := f.payload.length
      let ack : Frame := { tag := f.tag, gen := f.gen, seq := f.seq, stepLo := f.stepLo, offset := f.offset, count := f.count }
      (s.hears n Ty.refillData f = true → s.ctxsWith (fun c => c.wants f) = [] →
        (s.fromProv f = false → Does (.refillData n f) s (Stale n s)) ∧
        (s.fromProv f = true → f.stepLo = BitVec.ofNat 32 r.cutStep.toNat → f.offset.toNat / 2 ^ 38 = r.cutGen.toNat → k = f.count.toNat * 4 →
          k ≠ 0 → off + k ≤ s.tBytes →
          ∀ x, dir.filter (fun y => overlap off k (s.regionAt y) y.len) = [x] → s.regionAt x ≤ off → off + k ≤ s.regionAt x + x.len →
          Does (.refillData n f) s fun t =>
            t.load (x.live + (off - s.regionAt x)) k = f.payload ∧ BytesBut (x.live + (off - s.regionAt x)) k s t ∧
            t.rst = { r.landed off k with arrival := s.now } ∧
            t.outbox = (s.sendTo f.srcRack f.srcPos Ty.refillAck ack).outbox ∧ Changes [.mem, .rst, .outbox] [] s t) ∧
        (s.fromProv f = true → (f.stepLo ≠ BitVec.ofNat 32 r.cutStep.toNat ∨ f.offset.toNat / 2 ^ 38 % 256 ≠ r.cutGen.toNat) →
          Does (.refillData n f) s fun t =>
            switched t ∧ left (s.inputAt off) t ∧ t.rd Fld.tierRstErrStatus.mixedStep = 1 ∧ t.mem = s.mem)) ∧
      (s.hears n Ty.refillRequest f = true → f.payload.length = 16 →
        let a := fieldLE f.payload 0 8
        let m := fieldLE f.payload 8 8
        let served (b : List Byte) (t : State) : Prop :=
          t.rst.sentData.length = r.sentData.length + (m + 2047) / 2048 ∧
          (s.anyOpen = true → t.outbox.length = s.outbox.length + (m + 2047) / 2048 ∧
            (t.outbox[s.outbox.length]?).map (fun o => (o.ty, o.dest, o.frame.payload)) =
              some (Ty.refillData, .pos f.srcRack f.srcPos, b.take 2048)) ∧
          t.red.tags.inUse.length = s.red.tags.inUse.length + 1 ∧ Changes [.red, .rst, .outbox, .freeCtr] [] s t
        m ≠ 0 → m % 4 = 0 → s.red.tags.freeCount ≠ 0 →
        (∀ i, s.askedSet f.srcRack f.srcPos f.stepLo = some i → a + m ≤ (s.set i).pages.length * pageBytes →
          Does (.refillRequest n f) s (served (s.setLoad i a m))) ∧
        (s.askedSet f.srcRack f.srcPos f.stepLo = none →
          (s.halted = true → r.cutValid = true → BitVec.ofNat 32 r.cutStep.toNat ≠ f.stepLo →
            Does (.refillRequest n f) s fun t => t.rd Fld.tierRstErrStatus.mixedStep = 1 ∧ Changes [.regs] [Fld.tierRstErrStatus.mixedStep] s t) ∧
          (s.halted = true → r.cutValid = true → BitVec.ofNat 32 r.cutStep.toNat = f.stepLo → ∀ c, s.cutOf r.cutStep r.cutGen = some c →
            (s.localCut c.step c.gen).isSome = true → Does (.refillRequest n f) s (served (s.serveBytes c a m))) ∧
          (s.halted = false → s.cut.cuts = [] → ∀ e, s.entries.find? (fun e => BitVec.ofNat 32 e.step.toNat == f.stepLo) = some e →
            ∀ b, s.peatBytes e a m = some b → Does (.refillRequest n f) s fun t => t.rst.role = .donor ∧ served b t) ∧
          (s.halted = false → s.cut.cuts = [] → s.entries = [] → Does (.refillRequest n f) s (Stale n s)))) ∧
      (s.hears n Ty.refillAck f = true →
        let hit (x : Nat × BitVec 4 × Nat × Nat) : Bool := x.1 == f.tag.toNat && x.2.1 == f.gen && x.2.2.1 == off && x.2.2.2 == f.count.toNat
        (r.sentData.any hit = false → Does (.refillAck n f) s (Stale n s)) ∧
        (r.sentData.any hit = true → Does (.refillAck n f) s fun t =>
          t.rst = { r with sentData := removeFirst hit r.sentData } ∧
          t.red = (if (removeFirst hit r.sentData).any (fun x => x.1 == f.tag.toNat) = true then s.red else (s.releaseTag f.tag.toNat).red) ∧
          Changes [.rst, .red] [] s t))) ∧
    (s.fw = true → s.waitingFor (fun _ => true) ≠ [] → s.readsLate = [] →
      (s.elapsed r.arrival (msTicks 50) = false → DoesThen (.refillWatchdogExpiry .none) s fun t => t = s) ∧
      (s.elapsed r.arrival (msTicks 50) = true →
        DoesThen (.refillWatchdogExpiry .none) s (fun t => switched t ∧ (∀ i ∈ s.waitingFor (fun _ => true), left i t) ∧ t.mem = s.mem) ∧
        DoesThen (.refillWatchdogExpiry .arrivalWon) s fun t =>
          t.rst = r ∧ Counted Fld.ctlArbRace.arrivalWon s t ∧ Changes [.regs, .log] [Fld.ctlErrlog.head, Fld.ctlArbRace.arrivalWon] s t)) ∧
    (s.fw = true → r.st = .verify → r.want = [] → r.elastic = false →
      (s.manMixed = true → DoesThen .verifyComplete s fun t =>
        t.rd Fld.tierRstErrStatus.mixedStep = 1 ∧ t.rst.st = .verify ∧ left .manifest t ∧ t.mem = s.mem) ∧
      (s.manMixed = false → s.verifyFails = [] → r.role ≠ .spare → DoesThen .verifyComplete s fun t =>
        t.rst = { r with st := .ready, done := { r.done with verify := true } } ∧ t.chk.lanes.toList.all (fun l => l != some .verify) = true ∧
        Changes [.rst, .chk, .syn, .regs, .mem, .outbox] signalFields s t) ∧
      (s.manMixed = false → s.verifyFails = [] → r.role = .spare → DoesThen .verifyComplete s fun t =>
        t.rst.st = .ready ∧ t.rst.done = { r.done with verify := true } ∧ t.getReg Reg.tierCutJob = r.cutStep ∧
        ((t.half false = .held ∧ t.half true = .empty) ∨ (t.half false = .empty ∧ t.half true = .held))) ∧
      (s.manMixed = false → s.verifyFails ≠ [] → DoesThen .verifyComplete s fun t =>
        t.rd Fld.tierRstErrStatus.verifyFail = 1 ∧ t.rst.st = (if s.refills = true then .refill else .rollback) ∧ t.rst.done = {} ∧
        t.rst.dataIn.want = s.verifyFails.map (fun x => (s.regionAt x, x.len)) ∧
        t.rst.dataIn.tried = r.dataIn.tried ++ (if r.tookLive = true then [] else r.dataIn.prov.toList) ∧
        (s.manFails = true → left .manifest t) ∧ t.mem = s.mem ∧ t.rst.cutStep = r.cutStep))

/-- TAKEOVER. -/
def Obligations.Takeovers : Prop :=
  ∀ (s : State) (x : Takeover), s.Inv →
    let o := x.oldPos.toNat
    let n := x.sparePos.toNat
    let rack := x.rack.toNat
    let renamed (t : State) : Prop :=
      (∀ ch : Fin 32, t.cfgRd (Fld.redChCfg.nextPos ch) =
          (if s.myRack = x.rack ∧ s.cfgRd (Fld.redChCfg.nextPos ch) = o then n else s.cfgRd (Fld.redChCfg.nextPos ch)) ∧
        t.cfgRd (Fld.redChCfg.prevPos ch) = (if s.myRack = x.rack ∧ s.cfgRd (Fld.redChCfg.prevPos ch) = o then n else s.cfgRd (Fld.redChCfg.prevPos ch)) ∧
        t.cfgRd (Fld.redChRepl.holder0 ch) =
          (if s.cfgRd (Fld.redChRepl.count ch) ≠ 0 ∧ s.cfgRd (Fld.redChRepl.holder0 ch) = rack * 128 + o then rack * 128 + n
            else s.cfgRd (Fld.redChRepl.holder0 ch))) ∧
      (s.rdAddr Fld.synMemberTab.base ≠ 0 → ∀ i : Fin 128,
        t.memberAt i = (if s.memberAt i = (x.rack, x.oldPos) then (x.rack, x.sparePos) else s.memberAt i)) ∧
      (s.rdAddr Fld.synMemberTab.base = 0 → t.mem = s.mem) ∧
      (s.waitingFor (fun a => a == (x.rack, x.oldPos)) = [] → t.rst = s.rst) ∧
      (∀ i : Fin 4, t.rd (Fld.tierOwner.position i) =
        (if s.rdB (Fld.tierOwner.valid i) = true ∧ s.rd (Fld.tierOwner.rack i) = rack ∧ s.rd (Fld.tierOwner.position i) = o then n
          else s.rd (Fld.tierOwner.position i))) ∧
      t.sedge = s.sedge ∧
      (if s.rdB Fld.tierPartner.valid = true ∧ s.rd Fld.tierPartner.rack = rack ∧ s.rd Fld.tierPartner.position = o then
        t.rd Fld.tierPartner.position = n ∧ t.cut = { s.cut with unhosted := true, cuts := s.cut.cuts.map (fun c => { c with accepted := false, atSet := false }) } ∧
        t.map = s.map.filter (fun e => e.2.tier != 0)
      else t.rd Fld.tierPartner.position = s.rd Fld.tierPartner.position ∧ t.cut = s.cut ∧ t.map = s.map)
    ((s.fw = false ∨ s.isMe x.rack x.oldPos = true) → DoesThen (.takeover x) s fun t => t = s) ∧
    (s.fw = true → s.isMe x.rack x.oldPos = false →
      (s.isMe x.rack x.sparePos = true → s.standby = false → DoesThen (.takeover x) s fun t => t = s) ∧
      (s.isMe x.rack x.sparePos = true → s.standby = true →
        let installed (t : State) : Prop := t.myRank = x.rank.toNat ∧ t.myRack = x.rack ∧ t.myPos = x.sparePos ∧ t.rst.st = .halted ∧ t.rst.role = .spare ∧
          t.rst.epoch = x.epoch ∧ t.rst.fenced = false ∧ t.rst.oldPos = some (x.rack, x.oldPos)
        (x.config = [] → DoesThen (.takeover x) s fun t => installed t ∧ ∀ b : Fin 20, (t.bar b).episode = epochEpisode x.epoch) ∧
        (∀ v, x.config = [v] → regCanon v.off.toNat = 0x11038 → copyIdx v.off.toNat < 32 → DoesThen (.takeover x) s fun t =>
          installed t ∧ (t.chan (copyIdx v.off.toNat)).nextSeq = BitVec.ofNat 32 v.value.toNat)) ∧
      (s.isMe x.rack x.sparePos = false →
        ((s.halted = false ∨ x.epoch ≠ s.rst.epoch) → DoesThen (.takeover x) s fun t => t = s) ∧
        (s.halted = true → x.epoch = s.rst.epoch →
          ((s.isWarden && s.myRack == x.rack) = false → DoesThen (.takeover x) s fun t => renamed t ∧ Only [.regs, .red, .cut, .map, .mem, .rst, .outbox] s t) ∧
          ((s.isWarden && s.myRack == x.rack) = true → s.directs x = false → DoesThen (.takeover x) s fun t => t = s) ∧
          (s.directs x = true → DoesThen (.takeover x) s fun t =>
            renamed t ∧ (s.waitingFor (fun a => a == (x.rack, x.oldPos)) = [] →
              t.outbox = (s.sendTo x.rack x.oldPos Ty.fence (s.rstFrame 0 0 (leBytes 4 x.rank.toNat ++ zeros 4))).outbox) ∧
            t.warden.takeovers = s.warden.takeovers - 1 ∧ Only [.regs, .red, .cut, .map, .mem, .rst, .outbox, .warden] s t))))

/-- QUEUE_ENABLE, SQ_TAIL_WRITE, CQ_HEAD_WRITE, PUSH_SUBMIT, QUEUE_DISABLE, QUEUE_RESET, QUEUE_RESET_COMPLETE. The source code in the log record of a reset that was
absorbed is free. That a tail not inside the ring counts as an overflow, and that a pair which is not ACTIVE refuses a tail write as an access error, are the model's choices. -/
def Obligations.QueuePairs : Prop :=
  ∀ (s : State) (q : Fin 8), s.Inv → s.powered = true →
    let x := s.queue q
    let put (y : Queue) : Cmd := { s.cmd with queues := vset s.cmd.queues q y }
    let cfg : Fld := ⟨Reg.cmdQCfg q, 0, 64⟩
    let on := s.rdB (Fld.cmdQCfg.enable q)
    (∀ v : W64,
      let w := putBits v.toNat 0 1 1
      let p := (s.writePlain (Reg.cmdQCfg q) w).1
      let good := (s.writePlain (Reg.cmdQCfg q) w).2 && bits w 2 12 != 0 && bits w 14 12 != 0 &&
        p.inWindow (s.rdAddr (Fld.cmdQSqBase.base q)) ((bits w 2 12 + 1) * 64) && p.inWindow (s.rdAddr (Fld.cmdQCqBase.base q)) ((bits w 14 12 + 1) * 16)
      x.st = .disabled → on = false → s.rdB Fld.cmdCtrl.enable = true →
      (good = true → Does (.queueEnable q v) s fun t =>
        t.cmd = put { st := .active, phase := true } ∧ t.rd (Fld.cmdQCfg.enable q) = 1 ∧ t.rd (Fld.cmdQCfg.sqSize q) = bits w 2 12 ∧
        t.rd (Fld.cmdQCfg.cqSize q) = bits w 14 12 ∧ t.rd (Fld.cmdQSqTail.tail q) = 0 ∧ t.rd (Fld.cmdQCqHead.head q) = 0 ∧
        Changes [.regs, .cmd] [cfg, Fld.cmdQSqTail.tail q, Fld.cmdQCqHead.head q] s t) ∧
      ((bits w 2 12 = 0 ∨ bits w 14 12 = 0 ∨ p.inWindow (s.rdAddr (Fld.cmdQSqBase.base q)) ((bits w 2 12 + 1) * 64) = false ∨
          p.inWindow (s.rdAddr (Fld.cmdQCqBase.base q)) ((bits w 14 12 + 1) * 16) = false) → Does (.queueEnable q v) s fun t =>
        t.cmd = put { x with st := .error } ∧ t.rd (Fld.cmdQCfg.enable q) = 0 ∧ t.rd Fld.cmdErrStatus.ringInvalid = 1 ∧
        Changes [.regs, .log, .cmd] [cfg, Fld.cmdErrStatus.ringInvalid, Fld.ctlErrlog.head, Fld.ctlErrStatus.accessErr] s t)) ∧
    (∀ v : W32,
      let i := bits v.toNat 0 12
      let n := s.rd (Fld.cmdQCfg.sqSize q) + 1
      let m := s.rd (Fld.cmdQCfg.cqSize q) + 1
      let k := (i + n - x.sqTail) % n
      (x.st = .active → on = true →
        (i < n → x.held + k ≤ n - 1 → Does (.sqTailWrite q v) s fun t =>
          t.cmd = put { x with sqTail := i, subs := x.subs ++ List.replicate k .ring } ∧ t.rd (Fld.cmdQSqTail.tail q) = i ∧
          Changes [.regs, .cmd] [Fld.cmdQSqTail.tail q] s t) ∧
        ((n ≤ i ∨ n - 1 < x.held + k) → Does (.sqTailWrite q v) s fun t =>
          t.cmd = put { x with st := .error } ∧ t.rd Fld.cmdErrStatus.sqOverflow = 1 ∧ Changes [.regs, .cmd] [Fld.cmdErrStatus.sqOverflow] s t)) ∧
      (x.st ≠ .active → Does (.sqTailWrite q v) s (AccessRefused s)) ∧
      (x.st = .active →
        (i < m → (i + m - x.cqHead) % m ≤ (x.cqTail + m - x.cqHead) % m → Does (.cqHeadWrite q v) s fun t =>
          t.cmd = put { x with cqHead := i } ∧ t.rd (Fld.cmdQCqHead.head q) = i ∧ Changes [.regs, .cmd] [Fld.cmdQCqHead.head q] s t) ∧
        (i < m → (x.cqTail + m - x.cqHead) % m < (i + m - x.cqHead) % m → Does (.cqHeadWrite q v) s fun t =>
          t.cmd = put { x with st := .error } ∧ t.rd Fld.cmdErrStatus.sqOverflow = 1 ∧ Changes [.regs, .cmd] [Fld.cmdErrStatus.sqOverflow] s t))) ∧
    (∀ (slot : Fin 4) (w7 : W64),
      let refused (t : State) : Prop := t.rd Fld.cmdErrStatus.pushBusy = 1 ∧ t.rd Fld.ctlErrStatus.accessErr = 1 ∧
        Changes [.regs, .log] [Fld.ctlErrlog.head, Fld.ctlErrStatus.accessErr, Fld.cmdErrStatus.pushBusy] s t
      (x.busy slot = true → Does (.pushSubmit q slot w7) s refused) ∧
      (x.busy slot = false → x.st = .active → on = true →
        (s.rd (Fld.cmdQCfg.sqSize q) ≤ x.held → Does (.pushSubmit q slot w7) s refused) ∧
        (x.held < s.rd (Fld.cmdQCfg.sqSize q) → Does (.pushSubmit q slot w7) s fun t =>
          t.cmd = put { x with push := (t.queue q).push, subs := x.subs ++ [.push slot] } ∧
          t.entryAt q (.push slot) = (s.entryAt q (.push slot)).take 56 ++ leBytes 8 w7.toNat ∧
          (∀ o : Fin 4, o ≠ slot → t.entryAt q (.push o) = s.entryAt q (.push o)) ∧ Changes [.cmd] [] s t))) ∧
    (∀ v : W64, x.st = .active → on = true → (s.writePlain (Reg.cmdQCfg q) (putBits v.toNat 0 1 0)).2 = true → Does (.queueDisable q v) s fun t =>
      t.rd (Fld.cmdQCfg.enable q) = 0 ∧ t.cmd = (if s.ctxsOf q = [] then put {} else s.cmd) ∧ Changes [.regs, .cmd] [cfg] s t) ∧
    (s.boot.phase = .reset → Does (.queueReset q) s fun t => t.log ≠ s.log ∧ Changes [.regs, .log, .freeCtr] [Fld.ctlErrlog.head] s t) ∧
    (s.boot.phase ≠ .reset → Does (.queueReset q) s fun t =>
      t.queue q = { st := .resetting } ∧ t.ctxsOf q = [] ∧
      (∀ j : Fin 128, (s.ctx? j).map (fun c => c.q) ≠ some q.val → t.ctx? j = s.ctx? j) ∧
      t.cmd.locks = s.cmd.locks.filter (fun l => !((s.ctxsOf q).map (fun y => y.1)).contains l.ctx) ∧
      t.peat.staged = s.peat.staged.filter (fun r => !(r.q == q.val && ((s.ctxsOf q).map (fun y => y.2.order)).contains r.order)) ∧
      (∀ p : Fin 8, p ≠ q → t.queue p = s.queue p) ∧ t.rst.st = s.rst.st ∧ t.cut.cuts = s.cut.cuts ∧
      Changes [.cut, .peat, .rst, .cmd, .chk] [] s t) ∧
    (x.st = .resetting → Does (.queueResetComplete q) s fun t =>
      t.queue q = {} ∧ (∀ j : Fin 128, (s.ctx? j).map (fun c => (c.q, c.abandoned)) = some (q.val, true) → t.ctx? j = none) ∧
      (∀ off : Nat, Reg.cmdQCfg q ≤ off → off < Reg.cmdQCfg q + 0x200 → t.getReg off = State.reset.getReg off) ∧
      (∀ off : Nat, (off < Reg.cmdQCfg q ∨ Reg.cmdQCfg q + 0x200 ≤ off) → t.getReg off = s.getReg off) ∧ Only [.regs, .cmd] s t) ∧
    (x.st ≠ .resetting → Does (.queueResetComplete q) s fun t => t = s)

/-- COMMAND_START, COMMAND_COMPLETE, NOTIFY_TIMER_EXPIRY. A result word that the manual does not define for a command is free. -/
def Obligations.CommandFlow : Prop :=
  ∀ s : State, s.Inv →
    (∀ (q : Fin 8) (k : Nat) (u : Sub), s.served = true → s.rdB Fld.cmdCtrl.enable = true → s.freeContext = some k →
      (s.queue q).st = .active → s.rdB (Fld.cmdQCfg.enable q) = true → (s.queue q).subs.head? = some u →
      (∀ p : Fin 8, p < q → (s.queue p).st ≠ .active ∨ (s.queue p).subs = []) →
      let alone := ∀ p : Fin 8, q < p → (s.queue p).st ≠ .active ∨ (s.queue p).subs = []
      let x := s.queue q
      let c := s.newCtx q u
      let left : Queue := { x with subs := x.subs.tail, sqHead := c.sqHead, lockWait := none }
      let bad : Option Status :=
        if opcKnown c.opc = false then some 0x0101
        else if (s.boot.phase == .hummock && !c.hummockOk) = true then some 0x0104
        else if (opcAdmin c.opc && !s.rdB (Fld.cmdQCfg.admin q)) = true then some 0x0103
        else if c.fieldsOk (s.onRelayPair q u) = false then some 0x0102 else none
      let others (t : State) : Prop := (∀ j : Nat, j ≠ k → t.ctx? j = s.ctx? j) ∧ (∀ p : Fin 8, p ≠ q → t.queue p = s.queue p)
      (s.heldBack q c = false →
        (∀ st, bad = some st → Does .commandStart s fun t =>
          t.ctx? k = some { c with waits := s.ctxWaits c, finished := true, status := st } ∧ t.queue q = left ∧ t.cmd.locks = s.cmd.locks ∧ others t ∧
          Changes [.regs, .log, .cmd] [Fld.ctlErrlog.head] s t) ∧
        (bad = none → s.relayedOut q u c = false →
          (s.locksFree q (s.ctxLocks k c) = true → Does .commandStart s fun t =>
            t.ctx? k = some { c with waits := s.ctxWaits c } ∧ t.queue q = left ∧ t.cmd.locks = s.cmd.locks ++ s.ctxLocks k c ∧ others t ∧
            Changes [.cmd] [] s t) ∧
          (s.locksFree q (s.ctxLocks k c) = false → alone →
            (x.lockWait = none → Does .commandStart s fun t =>
              t.queue q = { x with lockWait := some s.cmd.lockSeq } ∧ Counted Fld.cmdCounts.lockWaits s t ∧ t.cmd.ctxs = s.cmd.ctxs ∧ t.cmd.locks = s.cmd.locks ∧
              (∀ p : Fin 8, p ≠ q → t.queue p = s.queue p) ∧ Changes [.regs, .cmd] [Fld.cmdCounts.lockWaits] s t) ∧
            (x.lockWait ≠ none → Does .commandStart s fun t => t = s)))) ∧
      (s.heldBack q c = true → alone → Does .commandStart s fun t => t = s)) ∧
    ((s.served = false ∨ s.rdB Fld.cmdCtrl.enable = false ∨ s.freeContext = none) → Does .commandStart s fun t => t = s) ∧
    (∀ (k : Fin 128) (c : Ctx), s.ctx? k = some c →
      ((c.finished = false ∨ c.abandoned = true) → Does (.commandComplete k) s fun t => t = s) ∧
      (c.finished = true → c.abandoned = false → c.relay = none → c.q < 8 → 4 ≤ c.entry.length →
        ((s.cqFull c.q = true ∨ s.unitHolds (.command c.q) = true) → Does (.commandComplete k) s fun t => t = s) ∧
        (s.cqFull c.q = false → s.unitHolds (.command c.q) = false → s.rdB (Fld.cmdQCfg.enable c.q) = true →
          let x := s.queue c.q
          let n := s.rd (Fld.cmdQCfg.cqSize c.q) + 1
          let at' := s.rdAddr (Fld.cmdQCqBase.base c.q) + 16 * x.cqTail
          let wrap := (x.cqTail + 1) % n = 0
          let due := s.rd (Fld.cmdQCoalesce.count c.q) ≤ x.batch + 1
          let kind := s.rd (Fld.cmdQCoalesce.notifyKind c.q)
          let sig := bits c.signal 10 2
          let sigObj := bits c.signal 0 10
          let noteObj := s.rd (Fld.cmdQCoalesce.notifyObj c.q)
          let fits (i m : Nat) : Bool := (s.pair i).avail + m ≤ (s.pair i).depth && (s.pair i).depth != 0 && (s.pair i).p + m < 2 ^ 48
          Does (.commandComplete k) s fun t =>
            t.ctx? k = none ∧ (∀ j : Nat, j ≠ k.val → t.ctx? j = s.ctx? j) ∧ t.cmd.locks = s.cmd.locks.filter (fun l => l.ctx != k.val) ∧
            t.queue c.q = { x with
              cqTail := (x.cqTail + 1) % n, phase := (if wrap then !x.phase else x.phase), batch := (if due then 0 else x.batch + 1),
              batchTick := (if x.batch = 0 then s.now else x.batchTick) } ∧
            Counted Fld.cmdCounts.commands s t ∧ (c.status ≠ 0 → Counted Fld.cmdCounts.errors s t) ∧
            (c.status = 0 → t.rd Fld.cmdCounts.errors = s.rd Fld.cmdCounts.errors) ∧
            t.irqs = (if due ∧ s.rdB (Fld.cmdQCfg.irqEn c.q) = true then s.irqs ++ [BitVec.ofNat 3 (s.rd (Fld.cmdQCfg.irqVec c.q))] else s.irqs) ∧
            (s.quiesced = false → s.syn.waiters = [] →
              BytesBut at' 16 s t ∧
              ((t.load at' 16).drop 4).take 8 = leBytes 2 c.sqHead ++ leBytes 1 (c.q + 8 * b2n c.pushed) ++ leBytes 1 (b2n x.phase) ++
                (c.entry.drop 2).take 2 ++ leBytes 2 c.status.toNat ∧
              ((c.results.1 || c.given.1) = true → (t.load at' 16).take 4 = leBytes 4 c.r0.toNat) ∧
              ((c.results.2 || c.given.2) = true → (t.load at' 16).drop 12 = leBytes 4 c.r1.toNat) ∧
              (sig = 1 → t.flag sigObj = true) ∧ (due → kind = 1 → t.flag noteObj = true) ∧
              (sig = 2 → (kind ≠ 2 ∨ ¬ due) → fits sigObj 1 = true → t.pair sigObj = { s.pair sigObj with p := (s.pair sigObj).p + 1 }) ∧
              (sig ≠ 2 → due → kind = 2 → fits noteObj (x.batch + 1) = true →
                t.pair noteObj = { s.pair noteObj with p := (s.pair noteObj).p + (x.batch + 1) })) ∧
            (sig ≠ 1 → sig ≠ 2 → (¬ due ∨ (kind ≠ 1 ∧ kind ≠ 2)) → t.syn = s.syn) ∧
            Changes [.regs, .mem, .syn, .cmd, .freeCtr, .irqs] (Fld.cmdCounts.commands :: Fld.cmdCounts.errors :: signalFields) s t))) ∧
    (∀ q : Fin 8, s.powered = true →
      let x := s.queue q
      let ripe := x.batch ≠ 0 ∧ s.rd (Fld.cmdQCoalesce.timeUs q) ≠ 0 ∧ s.elapsed x.batchTick (usTicks (s.rd (Fld.cmdQCoalesce.timeUs q))) = true
      (¬ ripe → Does (.notifyTimerExpiry q) s fun t => t = s) ∧
      (ripe → Does (.notifyTimerExpiry q) s fun t =>
        t.queue q = { x with batch := 0 } ∧ (∀ p : Fin 8, p ≠ q → t.queue p = s.queue p) ∧ t.cmd.ctxs = s.cmd.ctxs ∧
        t.irqs = (if s.rdB (Fld.cmdQCfg.irqEn q) = true then s.irqs ++ [BitVec.ofNat 3 (s.rd (Fld.cmdQCfg.irqVec q))] else s.irqs) ∧
        (s.quiesced = false → s.syn.waiters = [] → s.rd (Fld.cmdQCoalesce.notifyKind q) = 1 → t.flag (s.rd (Fld.cmdQCoalesce.notifyObj q)) = true) ∧
        Changes [.regs, .mem, .syn, .cmd, .irqs] signalFields s t))

/-- READ_SHARD. The order of the checks, and what RESULT0 counts of a partly filled unit (free), are the model's choices. -/
def Obligations.ReadShard : Prop :=
  ∀ (s : State) (k : Fin 128), s.Inv → ∀ c, s.running k 1 = some c →
    let off := c.off
    let n := c.len
    let away (st : Status) : Prop := Does (.readShard k) s (TurnedAway k c st s)
    let span (total : Nat) : Option Status :=
      if (n = 0 ∨ n % 4096 ≠ 0) ∧ off + n ≠ total then some 0x0102 else if total < off + n then some 0x0202 else none
    let got (b : List Byte) (t : State) : Prop := t.load c.addr b.length = b ∧ BytesBut c.addr b.length s t ∧
      (t.ctx? k).map (fun d => d.data) = some (if c.relay.isSome = true then b else c.data)
    let ended (st : Status) (b : List Byte) (r1 : Nat) (t : State) : Prop :=
      (t.ctx? k).map (fun d => (d.finished, d.status, d.r1)) = some (true, st, BitVec.ofNat 32 r1) ∧
      (b.length % 4096 = 0 → (t.ctx? k).map (fun d => d.r0) = some (BitVec.ofNat 32 (b.length / 4096)))
    let gives (b : List Byte) : Prop := Does (.readShard k) s fun t =>
      got b t ∧ ended 0 b 0 t ∧ Changes [.mem, .cmd, .freeCtr] [] s t
    let serve (total : Nat) (b : List Byte) : Prop := (∀ st, span total = some st → away st) ∧ (span total = none → gives b)
    (off % 4096 ≠ 0 → away 0x0102) ∧
    (off % 4096 = 0 → s.inWindow c.addr n = false → away 0x0105) ∧
    (off % 4096 = 0 → s.inWindow c.addr n = true →
      (c.tier = 0 → c.shard ≠ 0xFFFFFFFD →
        ((c.step ≠ 0 ∨ c.gen ≠ 0) → away 0x0102) ∧
        (c.step = 0 → c.gen = 0 → (s.regionById c.shard = none → away 0x0106) ∧
          ∀ r, s.regionById c.shard = some r → serve r.len (s.load (r.live + off) n))) ∧
      (c.tier = 0 → c.shard = 0xFFFFFFFD →
        let slot := s.rdAddr Fld.tierRecBase.base + c.step.toNat % 4 * 16384
        (c.gen ≠ 0 → away 0x0102) ∧
        (c.gen = 0 → leNat (s.load slot 8) ≠ c.step.toNat → away 0x0107) ∧
        (c.gen = 0 → leNat (s.load slot 8) = c.step.toNat → serve 16384 (s.load (slot + off) n))) ∧
      (c.tier = 1 →
        (s.heldCut c.step c.gen = none → away 0x0107) ∧
        ∀ d, s.heldCut c.step c.gen = some d → (s.regionById c.shard = none → away 0x0106) ∧
          ∀ r, s.regionById c.shard = some r → serve r.len (s.image (some d.2) r off n)) ∧
      (c.tier = 2 →
        ((s.ownSet c.step c.gen && s.hostAlive) = false → away 0x0107) ∧
        ((s.ownSet c.step c.gen && s.hostAlive) = true → (s.sedgeAt c.shard = none → away 0x0106) ∧
          ∀ x, s.sedgeAt c.shard = some x →
            (∀ st, span x.2 = some st → away st) ∧
            (span x.2 = none → n ≠ 0 → c.asked = false → Does (.readShard k) s fun t =>
              t.outbox = (s.sendTo (BitVec.ofNat 10 (s.rd Fld.tierPartner.rack)) (BitVec.ofNat 7 (s.rd Fld.tierPartner.position)) Ty.refillRequest
                (s.rstFrame 0 c.step.toNat (leBytes 8 (x.1 + off) ++ leBytes 8 n))).outbox ∧
              (t.ctx? k).map (fun d => (d.finished, d.asked, d.want)) = some (false, true, [(x.1 + off, n)]) ∧ Changes [.cmd, .outbox] [] s t) ∧
            (span x.2 = none → c.asked = true → c.want ≠ [] → Does (.readShard k) s fun t => t = s) ∧
            (span x.2 = none → c.asked = true → c.want = [] → gives (Memory.bytesAt c.area (x.1 + off) n)))) ∧
      (c.tier = 3 → (s.freeCtx [3]).isSome = true →
        (∀ st, s.peatReadStop = some st → away st) ∧
        (s.peatReadStop = none → (s.entryOf c.step c.gen = none → away 0x0107) ∧
          (∀ e, s.entryOf c.step c.gen = some e → s.entryKey e = none → Does (.readShard k) s fun t =>
            Ended k c 0x0805 0 0 t ∧ t.rd Fld.peatErrStatus.keyAbsent = 1 ∧
            Changes [.regs, .log, .cmd] [Fld.ctlErrlog.head, Fld.peatErrStatus.keyAbsent] s t) ∧
          ∀ e, s.entryOf c.step c.gen = some e → ∀ key, s.entryKey e = some key → ∀ b, s.entryMan e = .ok b →
            let m := Man.ofBytes b
            (c.shard = 0xFFFFFFFE → serve b.length ((b.drop off).take n)) ∧
            (c.shard = 0xFFFFFFFD → serve 16384 ((b.drop (up4k (manRecords b) + off)).take n)) ∧
            (c.shard < 0xFFFFFFFD → (m.regions.find? (fun x => x.region.shard.toNat == c.shard) = none → away 0x0106) ∧
              ∀ x, m.regions.find? (fun x => x.region.shard.toNat == c.shard) = some x →
                let lo := off / 0x100000
                let hi := (off + n + 0xFFFFF) / 0x100000
                let r := s.goodExts key ((((m.exts.drop x.first).take x.count).drop lo).take (hi - lo)) lo
                let bytes := (r.1.drop (off - lo * 0x100000)).take n
                (∀ st, span x.region.len = some st → away st) ∧
                (span x.region.len = none → r.2 = none → gives bytes) ∧
                (span x.region.len = none → ∀ i, r.2 = some i → Does (.readShard k) s fun t =>
                  got bytes t ∧ ended 0x0203 bytes i t ∧ t.map = (s.mapBad (mapPeat e.peatGen) x.region.shard i).map ∧
                  Changes [.mem, .map, .cmd, .freeCtr, .regs, .log] [Fld.ctlErrlog.head, Fld.tierErrStatus.mapFull, Fld.tierMapStatus.fullEvents] s t)))))

/-- WRITE_SHARD. -/
def Obligations.WriteShard : Prop :=
  ∀ (s : State) (k : Fin 128), s.Inv → ∀ c, s.running k 2 = some c →
    let off := c.off
    let n := c.len
    let unit := if c.tier = 3 then 0x100000 else 4096
    let restore := bitAt (c.csp 48) 0
    let data := s.load c.addr n
    let away (st : Status) : Prop := Does (.writeShard k) s (TurnedAway k c st s)
    let span (total : Nat) : Option Status :=
      if (n = 0 ∨ n % unit ≠ 0) ∧ off + n ≠ total then some 0x0102 else if total < off + n then some 0x0202 else none
    (off % unit ≠ 0 → away 0x0102) ∧ (c.tier = 3 → restore = true → away 0x0102) ∧
    (off % unit = 0 → (c.tier ≠ 3 ∨ restore = false) → s.inWindow c.addr n = false → away 0x0105) ∧
    (off % unit = 0 → s.inWindow c.addr n = true →
      (c.tier ≠ 3 → restore = false →
        ((c.step ≠ 0 ∨ c.gen ≠ 0) → away 0x0102) ∧
        (c.step = 0 → c.gen = 0 → (s.regionById c.shard = none → away 0x0106) ∧
          ∀ r, s.regionById c.shard = some r → (∀ st, span r.len = some st → away st) ∧
            (span r.len = none → Does (.writeShard k) s fun t =>
              t.load (r.live + off) n = data ∧ BytesBut (r.live + off) n s t ∧ t.rst = { s.rst with liveClean := false } ∧ Ended k c 0 0 0 t ∧
              Changes [.mem, .rst, .cmd] [] s t))) ∧
      (c.tier ≠ 3 → restore = true →
        (s.mireRefill = false → away 0x0108) ∧
        (s.mireRefill = true → (c.step ≠ s.rst.cutStep ∨ c.gen ≠ s.rst.cutGen) → Does (.writeShard k) s fun t =>
          Ended k c 0x0501 0 0 t ∧ t.rd Fld.tierRstErrStatus.mixedStep = 1 ∧ Changes [.regs, .log, .cmd] [Fld.tierRstErrStatus.mixedStep, Fld.ctlErrlog.head] s t) ∧
        (s.mireRefill = true → c.step = s.rst.cutStep → c.gen = s.rst.cutGen → (s.sedgeAt c.shard = none → away 0x0106) ∧
          ∀ x, s.sedgeAt c.shard = some x → (∀ st, span (up4k x.2) = some st → away st) ∧
            (span (up4k x.2) = none → Does (.writeShard k) s fun t =>
              t.rst = { s.rst.landed (x.1 + off) n with liveClean := false, arrival := s.now, area := t.rst.area } ∧ Ended k c 0 0 0 t ∧
              (∀ r, s.regionById c.shard = some r → s.cut.dir.filter (fun y => overlap (x.1 + off) n (s.regionAt y) y.len) = [r] → off + n ≤ r.len → x.1 + off + n ≤ s.tBytes →
                t.load (r.live + off) n = data ∧ BytesBut (r.live + off) n s t) ∧
              Changes [.mem, .rst, .cmd] [] s t))) ∧
      (c.tier = 3 → restore = false →
        (∀ st, s.peatWriteStop = some st → away st) ∧
        (s.peatWriteStop = none → (s.entryOf c.step c.gen = none → away 0x0107) ∧
          ∀ e, s.entryOf c.step c.gen = some e → ∀ key, s.entryKey e = some key → ∀ b, s.entryMan e = .ok b →
            let m := Man.ofBytes b
            (m.regions.find? (fun x => x.region.shard.toNat == c.shard) = none → away 0x0106) ∧
            ∀ x, m.regions.find? (fun x => x.region.shard.toNat == c.shard) = some x →
              let lo := off / 0x100000
              let bs := if n = 0 then [] else piecesOf 0x100000 (n / 0x100000 + 1) data
              let es := (m.exts.drop (x.first + lo)).take bs.length
              let need := (bs.length + 1) / 2
              (s.peatHeld = true → Does (.writeShard k) s fun t => t = s) ∧
              (s.peatHeld = false → (∀ st, span x.region.len = some st → away st) ∧
                (span x.region.len = none → (es.zip bs).any (fun y => crc64 y.2 != y.1.crc) = true → away 0x0203) ∧
                (span x.region.len = none → (es.zip bs).any (fun y => crc64 y.2 != y.1.crc) = false →
                  (s.freeUnits < need ∨ (s.takeUnits need []).1.length < need) → Does (.writeShard k) s fun t =>
                  Ended k c 0x0802 0 0 t ∧ t.rd Fld.peatErrStatus.peatFull = 1 ∧
                  Changes [.regs, .log, .cmd] [Fld.ctlErrlog.head, Fld.peatErrStatus.peatFull] s t) ∧
                (span x.region.len = none → (es.zip bs).any (fun y => crc64 y.2 != y.1.crc) = false →
                  need ≤ s.freeUnits → (s.takeUnits need []).1.length = need → Does (.writeShard k) s fun t =>
                  Ended k c 0 0 0 t ∧ t.peat.staged.dropLast = s.peat.staged ∧
                  (t.peat.staged.getLast?).map (fun r => (r.peatGen, r.moves.map (fun m => m.1), r.q, r.order)) =
                    some (e.peatGen, (List.range bs.length).map (fun i => x.first + lo + i), c.q, c.order) ∧
                  t.peat.cat = s.peat.cat ∧ Changes [.peat, .cmd] [] s t)))))

/-- SCAN_START, SCAN_COMPLETE, LANE_GRANT, DIGEST, DIGEST_COMPLETE. That a START with LEN 0 is refused is the model's choice (assumption 35), and
so is which of its statuses an HMAC's bit length below the key block gives (free, assumption 36). -/
def Obligations.ScansAndDigests : Prop :=
  ∀ s : State, s.Inv →
    let wait := s.chk.laneWait
    (∀ (n : Fin 4) (v : W32), s.powered = true →
      let ctrl : Fld := ⟨Reg.chkEngCtrl n, 0, 64⟩
      let p := (s.writePlain (Reg.chkEngCtrl n) (putBits v.toNat 0 1 1)).1
      let ends (s' : State) (st : Status) (t : State) : Prop :=
        t.rd (Fld.chkEngStatus.lastStatus n) = st.toNat ∧ t.rd (Fld.chkEngStatus.done n) = 1 ∧ vget t.chk.scans n true = false ∧
        t.irqs = (if s'.rd (Fld.chkEngCtrl.irqMode n) = 1 ∨ (s'.rd (Fld.chkEngCtrl.irqMode n) = 2 ∧ st ≠ 0) then
          s.irqs ++ [BitVec.ofNat 3 (s'.rd (Fld.chkEngCtrl.irqVec n))] else s.irqs)
      let addr := s.rd (Fld.chkEngAddr.addr n)
      let len := s.rd (Fld.chkEngLen.len n)
      (vget s.chk.scans n false = true → Does (.scanStart n v) s (AccessRefused s)) ∧
      (vget s.chk.scans n false = false → (s.writePlain (Reg.chkEngCtrl n) (putBits v.toNat 0 1 1)).2 = true → len ≠ 0 →
        (s.inWindow addr len = true → Does (.scanStart n v) s fun t =>
          vget t.chk.scans n false = true ∧ t.getReg (Reg.chkEngCtrl n) = p.getReg (Reg.chkEngCtrl n) ∧ t.mem = s.mem ∧ Changes [.regs, .chk] [ctrl] s t) ∧
        (s.inWindow addr len = false → Does (.scanStart n v) s fun t =>
          ends p 0x0105 t ∧ t.rd Fld.chkErrStatus.scanWindow = 1 ∧ t.rd (Fld.chkEngResult.result n) = s.rd (Fld.chkEngResult.result n) ∧
          Changes [.regs, .chk, .irqs] [ctrl, Fld.chkEngStatus.lastStatus n, Fld.chkEngStatus.done n, Fld.chkErrStatus.scanWindow] s t)) ∧
      (vget s.chk.scans n false = false → Does (.scanComplete n) s fun t => t = s) ∧
      (vget s.chk.scans n false = true → Does (.scanComplete n) s fun t =>
        let q := if s.rd (Fld.chkEngCtrl.poly n) = 0 then crc32cSet else if s.rd (Fld.chkEngCtrl.poly n) = 1 then crc64Set else crc16Set
        let start := if s.rd (Fld.chkEngCtrl.cont n) = 1 then (s.rd (Fld.chkEngResult.result n) % 2 ^ q.width) ^^^ q.xorOut else q.init
        let r := crcFrom q start (s.load addr len)
        let bad := s.rd (Fld.chkEngCtrl.compareEn n) = 1 ∧ r % 2 ^ q.width ≠ s.rd (Fld.chkEngExpect.expect n) % 2 ^ q.width
        t.rd (Fld.chkEngResult.result n) = r ∧ ends s (if bad then 0x0203 else 0) t ∧
        (bad → t.rd Fld.chkErrStatus.scanMismatch = 1 ∧ Counted Fld.chkCounts.mismatches s t) ∧
        Changes [.regs, .chk, .irqs] [Fld.chkEngResult.result n, Fld.chkEngStatus.lastStatus n, Fld.chkEngStatus.done n, Fld.chkErrStatus.scanMismatch,
          Fld.chkCounts.mismatches] s t)) ∧
    ((s.freeLane = none → Does .laneGrant s fun t => t = s) ∧
      ∀ n, s.freeLane = some n →
        let held (u : LaneUser) (t : State) : Prop := t.chk.lanes = vset s.chk.lanes n (some u)
        (s.verifyWants = true → Does .laneGrant s fun t => held .verify t ∧ t.chk.laneWait = wait ∧ Changes [.chk] [] s t) ∧
        (s.verifyWants = false → wait = [] → Does .laneGrant s fun t => t = s) ∧
        (s.verifyWants = false → ∀ u, wait.head? = some u →
          ((∀ k, u ≠ .command k) → Does .laneGrant s fun t => held u t ∧ t.chk.laneWait = wait.tail ∧ Changes [.chk] [] s t) ∧
          (∀ k, u = .command k → ∀ c, s.ctx? k = some c → c.finished = false →
            let slot := s.keySlot (c.csp 49 % 16)
            (c.csp 48 < 2 → Does .laneGrant s fun t =>
              held u t ∧ t.chk.laneWait = wait.tail ∧ t.ctx? k = some { c with lane := some n, key := [] } ∧ Changes [.cmd, .chk] [] s t) ∧
            (2 ≤ c.csp 48 → slot.loaded = true → slot.kind = 2 → Does .laneGrant s fun t =>
              held u t ∧ t.chk.laneWait = wait.tail ∧ t.ctx? k = some { c with lane := some n, key := slot.bytes } ∧ Changes [.cmd, .chk] [] s t) ∧
            (2 ≤ c.csp 48 → slot.loaded = false → Does .laneGrant s fun t => Ended k c 0x0805 0 0 t ∧ t.chk.lanes = s.chk.lanes ∧ t.chk.laneWait = wait.tail) ∧
            (2 ≤ c.csp 48 → slot.loaded = true → slot.kind ≠ 2 → Does .laneGrant s fun t => Ended k c 0x0102 0 0 t ∧ t.chk.lanes = s.chk.lanes)))) ∧
    (∀ k : Fin 128, ∀ c, s.running k 5 = some c → c.list = [] →
      let list := s.load c.addr c.len
      let es := fragments (c.len / 16) list
      let away (st : Status) : Prop := Does (.digest k) s (TurnedAway k c st s)
      let out := if c.csp 48 % 2 = 0 then 32 else 48
      ((c.len % 16 ≠ 0 ∨ c.len = 0 ∨ 65536 < c.len ∨ 4 ≤ c.csp 48) → away 0x0102) ∧
      (c.len % 16 = 0 → c.len ≠ 0 → c.len ≤ 65536 → c.csp 48 < 4 →
        (s.inWindow c.addr c.len = false → away 0x0105) ∧
        (s.inWindow c.addr c.len = true → es.any (fun x => x.2.2) = true → away 0x0102) ∧
        (s.inWindow c.addr c.len = true → es.any (fun x => x.2.2) = false →
          let inside := es.all (fun x => s.inWindow x.1 x.2.1) && s.inWindow (fieldLE c.entry 56 8) out
          (inside = false → away 0x0105) ∧
          (inside = true → c.csp 48 < 2 → ∀ n, s.freeLane = some n → s.chk.laneWait = [] → Does (.digest k) s fun t =>
            t.chk.lanes = vset s.chk.lanes n (some (.command k)) ∧ t.ctx? k = some { c with list := list, lane := some n, key := [] } ∧ Changes [.cmd, .chk] [] s t) ∧
          (inside = true → s.freeLane = none → Does (.digest k) s fun t =>
            t.chk.lanes = s.chk.lanes ∧ t.chk.laneWait = s.chk.laneWait ++ [.command k] ∧ t.ctx? k = some { c with list := list } ∧
            Counted Fld.chkCounts.laneWaits s t ∧ Changes [.regs, .cmd, .chk] [Fld.chkCounts.laneWaits] s t)))) ∧
    (∀ lane : Fin 32, (vget s.chk.lanes lane none = none → Does (.digestComplete lane) s fun t => t = s) ∧
      ∀ k, vget s.chk.lanes lane none = some (.command k) → ∀ c, s.ctx? k = some c → c.finished = false →
        let p := if c.csp 48 % 2 = 0 then sha256Set else sha384Set
        let m := (fragments (c.len / 16) c.list).flatMap (fun x => s.load x.1 x.2.1)
        let total := m.length
        let bl := beNat (m.drop (total - p.lenBytes))
        let key := if 2 ≤ c.csp 48 then p.block else 0
        let l := bl / 8 - key
        let full := (l + 1 + p.lenBytes + p.block - 1) / p.block * p.block
        let out := fieldLE c.entry 56 8
        let freed (t : State) : Prop := t.chk.lanes = vset s.chk.lanes lane none
        let fails (st : Status) : Prop := Does (.digestComplete lane) s fun t =>
          Ended k c st 0 0 t ∧ freed t ∧ t.rd Fld.chkErrStatus.padInvalid = 1 ∧ t.mem = s.mem ∧
          Changes [.regs, .log, .cmd, .chk] [Fld.chkErrStatus.padInvalid, Fld.ctlErrlog.head] s t
        ((bl % 8 ≠ 0 ∨ total % p.block ≠ 0) → fails 0x0102) ∧
        (bl % 8 = 0 → total % p.block = 0 → key ≤ bl / 8 →
          (full < total → fails 0x0202) ∧ (total < full → fails 0x0201) ∧
          (total = full →
            let padded := m.getD l 0 == 0x80 && ((m.drop (l + 1)).take (total - p.lenBytes - l - 1)).all (· == 0)
            (padded = false → fails 0x0102) ∧
            (padded = true → Does (.digestComplete lane) s fun t =>
              let d := if 2 ≤ c.csp 48 then hmacPadded p c.key m else shaOut p (shaPadded p p.init m)
              t.load out d.length = d ∧ BytesBut out d.length s t ∧ freed t ∧ Ended k c 0 (l % 2 ^ 32) (lane.val + l / 2 ^ 32 % 65536 * 65536) t ∧
              Changes [.mem, .cmd, .chk] [] s t))))

/-- FLUSH, VERIFY, SCRUB, FENCE, CUT_QUERY, CUT_PEAT_NEXT, RESTORE, RESTORE_ELASTIC. A hosted BAD extent is counted only, RFLAGS and status of an
unknown cut are free, and what VERIFY at Batt finds without sums is free: the model's choices. -/
def Obligations.StateCommands : Prop :=
  ∀ (s : State) (k : Fin 128), s.Inv →
    (∀ c, s.running k 3 = some c →
      let due := s.peat.staged.any (fun r => c.waits.contains r.order)
      let high := s.rd Fld.peatGenHigh.genHigh
      (due = false → s.peat.taking.any (fun r => c.waits.contains r.1.order) = false → DoesThen (.flush k) s fun t => Ended k c 0 0 0 t ∧ Changes [.cmd] [] s t) ∧
      (due = false → s.peat.taking.any (fun r => c.waits.contains r.1.order) = true → DoesThen (.flush k) s fun t => t = s) ∧
      (due = true → s.board.pfWork = true → DoesThen (.flush k) s (TurnedAway k c 0x0808 s)) ∧
      (due = true → s.board.pfWork = false → (∀ st, s.peatWriteStop = some st → DoesThen (.flush k) s (TurnedAway k c st s)) ∧
        (s.peatWriteStop = none →
          ((s.catBusy || s.peatHeld || s.drainEnds) = true → DoesThen (.flush k) s fun t => t.peat = { s.peat with flushDue := true } ∧ Changes [.peat] [] s t) ∧
          ((s.catBusy || s.peatHeld || s.drainEnds) = false →
            let bits : List Fld := [Fld.peatGenHigh.genHigh, Fld.peatErrStatus.peatFull, Fld.peatErrStatus.keyAbsent, Fld.ctlErrlog.head]
            DoesThen (.flush k) s (fun t =>
              t.peat.flushDue = false ∧ t.peat.flushing = !t.peat.taking.isEmpty ∧ t.peat.cat = s.peat.cat ∧ t.peat.gens = s.peat.gens ∧
              t.peat.nvme = s.peat.nvme ∧ t.peat.taking.all (fun r => s.peat.staged.contains r.1) = true ∧
              t.peat.staged.all (fun r => s.peat.staged.contains r) = true ∧ Changes [.peat, .regs, .cmd, .log] bits s t) ∧
            ∀ r, s.peat.staged = [r] → ∀ e, s.entries.find? (fun e => e.peatGen == r.peatGen) = some e → s.peat.nextGens = [] → ∀ b, s.entryMan e = .ok b →
              ∀ i, s.genInfo e.peatGen = some i →
              (s.freeUnits < i.man.length → DoesThen (.flush k) s fun t =>
                Ended k c 0x0802 0 0 t ∧ t.rd Fld.peatErrStatus.peatFull = 1 ∧ t.peat.staged = [r] ∧ t.peat.taking = []) ∧
              (i.man.length ≤ s.freeUnits → i.man.length = 1 → ({ s with peat := { s.peat with staged := [], taking := [] } }.takeUnits 1 []).1.length = 1 →
                high + 1 < 2 ^ 48 → DoesThen (.flush k) s fun t =>
                t.peat.staged = [] ∧ t.peat.taking = [(r, high + 1)] ∧ t.rd Fld.peatGenHigh.genHigh = high + 1 ∧ t.ctx? k = some c ∧
                t.peat.nextGens.map (fun i => (i.peatGen, i.man.length)) = [(high + 1, 1)] ∧
                t.peat.nextEntries.map (fun e => (e.peatGen, e.step)) = s.entries.map (fun x => (if x.peatGen = e.peatGen then high + 1 else x.peatGen, x.step))))))) ∧
    (∀ c, s.running k 4 = some c →
      let free := s.freeLane.isSome && s.chk.laneWait.isEmpty && (s.freeCtx [0, 1, 2, 3]).isSome
      let away (st : Status) : Prop := Does (.verify k) s (TurnedAway k c st s)
      let gave (st : Status) (n r1 : Nat) (t : State) : Prop :=
        (t.ctx? k).map (fun d => (d.finished, d.status, d.r0, d.r1)) = some (true, st, BitVec.ofNat 32 n, BitVec.ofNat 32 r1)
      let failed (st : Status) : Prop := Does (.verify k) s fun t => gave st 0 0 t ∧ Changes [.regs, .log, .cmd] [Fld.ctlErrlog.head] s t
      let judged (man group : List Byte) (agreed : Bool) (rs : List ManRegion) (bytes : Region → List Byte) (mark : MapEntry → Bool) : Prop :=
        let m := Man.ofBytes man
        let first (x : ManRegion) : Option Nat :=
          (List.range x.count).find? (fun i => (extentCrcs (bytes x.region))[i]? != (((m.exts.drop x.first).take x.count)[i]?).map (fun e => e.crc))
        let good (x : ManRegion) : Bool := (first x).isNone && sha384 (bytes x.region) == x.digest
        (manHeadOk man = false → failed 0x0203) ∧
        (manHeadOk man = true → (agreed = false ∨ sha384 (m.regions.flatMap (fun x => x.digest)) ≠ group) → failed 0x0204) ∧
        (manHeadOk man = true → agreed = true → sha384 (m.regions.flatMap (fun x => x.digest)) = group →
          (rs.all good = true → Does (.verify k) s fun t => Ended k c 0 rs.length 0 t ∧ Changes [.cmd] [] s t) ∧
          (∀ x, rs.find? (fun x => !good x) = some x → Does (.verify k) s fun t =>
            (∀ i, first x = some i → gave 0x0203 rs.length i t) ∧ (first x = none → gave 0x0204 rs.length 0 t) ∧
            (rs.length = 1 → t.map = ((badExts m x (bytes x.region)).foldl (fun s i => s.mapBad mark x.region.shard i) s).map) ∧
            Changes [.regs, .log, .map, .cmd] [Fld.ctlErrlog.head, Fld.tierErrStatus.mapFull, Fld.tierMapStatus.fullEvents] s t))
      let named (m : Man) : Option (List ManRegion) :=
        if (c.csp 48).testBit 0 = true then some m.regions else (m.regions.find? (fun x => x.region.shard.toNat == c.shard)).map (fun x => [x])
      (free = false → Does (.verify k) s fun t => t = s) ∧
      (free = true → c.tier = 1 → (s.heldCut c.step c.gen = none → away 0x0107) ∧
        ∀ d, s.heldCut c.step c.gen = some d →
          let man := s.manifest { d.1 with group := s.groupDigest d.1 } 0 0 false (fun _ => 0)
          (named (Man.ofBytes man) = none → away 0x0106) ∧
          ∀ rs, named (Man.ofBytes man) = some rs →
            (s.allRead d.1 = true → judged man (s.groupDigest d.1) true rs (fun r => s.image (some d.2) r 0 r.len) (fun _ => false)) ∧
            (s.allRead d.1 = false → Does (.verify k) s fun t =>
              (t.ctx? k).map (fun d => (d.finished, d.r0)) = some (true, BitVec.ofNat 32 rs.length) ∧ Changes [.regs, .log, .cmd, .freeCtr] [Fld.ctlErrlog.head] s t)) ∧
      (free = true → c.tier = 2 →
        let rs := if (c.csp 48).testBit 0 = true then s.cut.dir else (s.regionById c.shard).toList
        ((s.ownSet c.step c.gen && s.hostAlive) = false → away 0x0107) ∧
        ((s.ownSet c.step c.gen && s.hostAlive) = true → (rs = [] → away 0x0106) ∧
          (rs ≠ [] → c.asked = false → Does (.verify k) s fun t =>
            let want := s.manWant ++ rs.map (fun r => (s.regionAt r, r.len))
            t.outbox = (want.foldl (fun t w => t.sendTo s.partnerAt.1 s.partnerAt.2 Ty.refillRequest (s.rstFrame 0 c.step.toNat (leBytes 8 w.1 ++ leBytes 8 w.2))) s).outbox ∧
            (t.ctx? k).map (fun d => (d.finished, d.asked, d.want)) = some (false, true, want) ∧ Changes [.cmd, .outbox] [] s t) ∧
          (rs ≠ [] → c.asked = true → c.want ≠ [] → Does (.verify k) s fun t => t = s) ∧
          (rs ≠ [] → c.asked = true → c.want = [] →
            let man := Memory.bytesAt c.area (s.tBytes + 65536) (s.manWant.getD 0 (0, 0)).2
            let com := Memory.bytesAt c.area (s.tBytes + 16384) 64
            judged man (com.drop 16) (!s.replOn || bitAt (fieldLE com 9 1) 0)
              (rs.map (fun r => ((Man.ofBytes man).regions.find? (fun x => x.region.shard == r.shard)).getD { region := r, digest := [], first := 0, count := 0 }))
              (fun r => Memory.bytesAt c.area (s.regionAt r) r.len) (mapSedge c.step c.gen)))) ∧
      (free = true → c.tier = 3 → (∀ st, s.peatReadStop = some st → away st) ∧
        (s.peatReadStop = none → (s.entryOf c.step c.gen = none → away 0x0107) ∧
          ∀ e, s.entryOf c.step c.gen = some e → (s.entryKey e = none → Does (.verify k) s fun t =>
              Ended k c 0x0805 0 0 t ∧ t.rd Fld.peatErrStatus.keyAbsent = 1 ∧
              Changes [.regs, .log, .cmd] [Fld.ctlErrlog.head, Fld.peatErrStatus.keyAbsent] s t) ∧
            ∀ key, s.entryKey e = some key → (∀ st, s.entryMan e = .error st → away st) ∧
              ∀ b, s.entryMan e = .ok b →
                let m := Man.ofBytes b
                (named m = none → away 0x0106) ∧
                ∀ rs, named m = some rs → judged b e.group true rs (fun r => match m.regions.find? (fun x => x.region.shard == r.shard) with
                  | some x => ((m.exts.drop x.first).take x.count).flatMap (s.extLoad key)
                  | none => []) (mapPeat e.peatGen)))) ∧
    (∀ c, s.running k 6 = some c → c.todo = [] →
      let repair := (c.csp 50).testBit 0 && c.tier == 3
      let locked := s.cmd.locks.any (fun l => l.ctx != k.val && l.tier.toNat == c.tier && (l.excl || repair))
      let marks : List Fld := [Fld.tierErrStatus.mapFull, Fld.tierMapStatus.fullEvents]
      ((locked || (s.freeCtx [0, 1, 2, 3]).isNone) = true → DoesThen (.scrub k) s fun t => t = s) ∧
      ((locked || (s.freeCtx [0, 1, 2, 3]).isNone) = false →
        (c.tier = 2 → DoesThen (.scrub k) s fun t =>
          let ks := (List.range 8).filter (fun i => (s.set i).st == .committed || (s.set i).st == .held)
          Ended k c 0 ((ks.map (fun i => (s.scrubSet i).1)).sum) ((ks.map (fun i => (s.scrubSet i).2)).sum) t ∧ Changes [.cmd] [] s t) ∧
        (c.tier = 3 → ∀ st, s.peatReadStop = some st → DoesThen (.scrub k) s (TurnedAway k c st s)) ∧
        (c.tier = 3 → s.peatReadStop = none → (s.entries = [] → DoesThen (.scrub k) s fun t => Ended k c 0 0 0 t ∧ Changes [.cmd] [] s t) ∧
          ∀ e, s.entries = [e] → (∀ st, s.scrubGen e = .error st → DoesThen (.scrub k) s fun t =>
              Ended k c st 0 0 t ∧ (st = 0x0805 → t.rd Fld.peatErrStatus.keyAbsent = 1) ∧
              Changes [.regs, .log, .cmd] [Fld.ctlErrlog.head, Fld.peatErrStatus.keyAbsent] s t) ∧
            ∀ x, s.scrubGen e = .ok x →
              let marked := (x.2.foldl (fun s b => s.mapBad (mapPeat e.peatGen) b.1 b.2.1) s).map
              ((repair = false ∨ x.2 = []) → DoesThen (.scrub k) s fun t => Ended k c 0 x.1 x.2.length t ∧ t.map = marked ∧ Changes [.regs, .map, .cmd] marks s t) ∧
              (repair = true → x.2 ≠ [] → (s.peatHeld || s.peatWriteStop.isSome) = true → s.peat.staged = [] →
                DoesThen (.scrub k) s fun t => (t.ctx? k).map (fun d => (d.finished, d.status, d.r0, d.r1)) = some (true, 0, BitVec.ofNat 32 x.1, BitVec.ofNat 32 x.2.length) ∧
                  t.map = marked ∧ t.peat.staged = [] ∧ t.peat.nvme = s.peat.nvme ∧ Changes [.regs, .map, .cmd, .peat] marks s t) ∧
              (repair = true → (s.peatHeld || s.peatWriteStop.isSome) = false → ∀ y, x.2 = [y] → ∀ b, s.entryMan e = .ok b →
                (Man.ofBytes b).shardOf y.2.2 = some (y.1, y.2.1) → ∀ z, (Man.ofBytes b).exts[y.2.2]? = some z → ∀ r, s.regionById y.1.toNat = some r →
                s.repairBatt e r y.2.1 (z.len * 4096) z.crc = none → ∀ q, (s.repairFrom e)[0]? = some q → c.asked = false → c.tries = 0 → DoesThen (.scrub k) s fun t =>
                  (t.ctx? k).map (fun d => (d.finished, d.asked, d.want)) = some (false, true, [(s.regionAt r + y.2.1 * 0x100000, z.len * 4096)]) ∧
                  t.outbox = (s.sendTo q.1 q.2 Ty.refillRequest (s.rstFrame 0 e.step.toNat (leBytes 8 (s.regionAt r + y.2.1 * 0x100000) ++ leBytes 8 (z.len * 4096)))).outbox ∧
                  t.map = marked ∧ Changes [.regs, .map, .cmd, .outbox] marks s t)))) ∧
    (∀ c, s.running k 7 = some c →
      (s.cmd.ctxs.any (fun x => c.waits.contains x.2.order) = true → Does (.fence k) s fun t => t = s) ∧
      (s.cmd.ctxs.any (fun x => c.waits.contains x.2.order) = false → Does (.fence k) s fun t => Ended k c 0 0 0 t ∧ Changes [.cmd] [] s t)) ∧
    (∀ c, s.running k 0x10 = some c →
      (c.csp 48 = 0 → (∀ d, s.cutOf c.step c.gen = some d → Does (.cutQuery k) s fun t =>
          Ended k c 0 (d.st.code + 16 * b2n (d.drainStatus == some 0) + 32 * b2n d.peatJobc + 256 * d.rflags) d.status.toNat t ∧ Changes [.cmd] [] s t) ∧
        (s.cutOf c.step c.gen = none → Does (.cutQuery k) s fun t =>
          (t.ctx? k).map (fun d => (d.finished, d.status, d.r0.toNat % 256)) = some (true, 0, 0) ∧ Changes [.cmd, .freeCtr] [] s t)) ∧
      (c.csp 48 = 1 →
        let newest := match s.cut.prevStep with | some p => p.toNat % 2 ^ 32 | none => 0
        let refused (t : State) : Prop := (t.ctx? k).map (fun d => (d.finished, d.status)) = some (true, 0x0108) ∧
          (s.cut.prevStep ≠ none → Ended k c 0x0108 newest 0 t) ∧ t.cut = s.cut ∧ Changes [.regs, .log, .cmd, .freeCtr] [Fld.ctlErrlog.head] s t
        (s.cut.peatNext = none →
          ((∀ p, s.cut.prevStep = some p → p.toNat < c.step.toNat) → Does (.cutPeatNext k) s fun t =>
            t.cut = { s.cut with peatNext := some (c.step, k.val, none) } ∧ Changes [.cut] [] s t) ∧
          (∀ p, s.cut.prevStep = some p → c.step.toNat ≤ p.toNat → Does (.cutPeatNext k) s refused)) ∧
        (∀ o, s.cut.peatNext = some o → (o.2.1 = k.val → Does (.cutPeatNext k) s fun t => t = s) ∧ (o.2.1 ≠ k.val → Does (.cutPeatNext k) s refused)))) ∧
    (∀ c, s.running k 0x11 = some c → s.rst.restoreCtx ≠ some k.val →
      ((c.csp 48).testBit 0 = false →
        let away (st : Status) : Prop := DoesThen (.restore k) s (TurnedAway k c st s)
        ((c.addr ≠ 0 ∨ c.len ≠ 0) → away 0x0102) ∧
        (c.addr = 0 → c.len = 0 → (s.rd Fld.ctlElect.role ≠ 3 → away 0x0109) ∧ (s.rd Fld.ctlElect.role = 3 → s.warden.job ≠ .waiting → away 0x0108) ∧
          (s.rd Fld.ctlElect.role = 3 → s.warden.job = .waiting → DoesThen (.restore k) s fun t =>
            t.rst.epoch = s.rst.epoch + 1 ∧ t.rst.restoreCtx = some k.val ∧ t.ctx? k = some c ∧
            (t.warden.job = .planning → t.warden.voting = some (c.step, c.gen)) ∧ (t.warden.job ≠ .waiting → t.warden.only = some (c.step, c.gen) ∧ t.warden.mire = (c.tier == 4)))))
      ∧ ((c.csp 48).testBit 0 = true →
        let away (st : Status) : Prop := DoesThen (.restoreElastic k) s (TurnedAway k c st s)
        let map := s.load c.addr c.len
        let rows := mapRows (c.len / 32) map
        (c.len % 32 ≠ 0 → away 0x0102) ∧
        (c.len % 32 = 0 → (s.inWindow c.addr c.len = false → away 0x0105) ∧
          (s.inWindow c.addr c.len = true → (rows.any (fun m => m.reserved) = true → away 0x0102) ∧
            (rows.any (fun m => m.reserved) = false → (s.elasticFree = false → away 0x0108) ∧
              (s.elasticFree = true → s.mapOk rows = false → DoesThen (.restoreElastic k) s fun t =>
                Ended k c 0x0504 0 0 t ∧ t.rd Fld.tierRstErrStatus.reshardInvalid = 1 ∧
                Changes [.regs, .log, .cmd] [Fld.tierRstErrStatus.reshardInvalid, Fld.ctlErrlog.head] s t) ∧
              (s.elasticFree = true → s.mapOk rows = true → DoesThen (.restoreElastic k) s fun t =>
                t.rst.st = .refill ∧ t.rst.source = .donors ∧ t.rst.elastic = true ∧ t.rst.cutStep = c.step ∧ t.rst.cutGen = c.gen ∧
                t.rst.dataIn.want = s.mireRanges rows ∧ t.rst.elasticMap = map ∧ t.rst.restoreCtx = some k.val ∧ Changes [.rst] [] s t))))))

/-- IDENTIFY, GET_LOG_PAGE, GET_FEATURES, SET_FEATURES, FIRMWARE_DOWNLOAD, FIRMWARE_COMMIT, FIRMWARE_COMMIT_AND_MARK, FIRMWARE_MARK. Feature 5 without
a drive, a first piece at OFFSET 0 and the mark of an invalid slot follow the model's choices. -/
def Obligations.AdminCommands : Prop :=
  ∀ (s : State) (k : Fin 128), s.Inv →
    let rec0 := s.store.record
    let valid (b : Bool) : Bool := if b then rec0.bValid else rec0.aValid
    let version (b : Bool) : List Byte := if valid b = true then Memory.bytesAt s.store.bytes ((if b then 0x200000 else 0x100000) + 16) 16 else zeros 16
    let svn (b : Bool) : Nat := if valid b = true then leNat (Memory.bytesAt s.store.bytes ((if b then 0x200000 else 0x100000) + 12) 2) else 0
    let hummock := s.boot.phase == .hummock
    let places (a : Nat) (l : List (Nat × List Byte)) (t : State) : Prop := ∀ x ∈ l, t.load (a + x.1) x.2.length = x.2
    (∀ c, s.running k 0x80 = some c → (s.inWindow c.addr 4096 = false → Does (.identify k) s (TurnedAway k c 0x0105 s)) ∧
      (s.inWindow c.addr 4096 = true → Does (.identify k) s fun t =>
        let role := s.rd Fld.ctlElect.role
        let d := s.peat.drive
        let up := s.peat.linkUp
        BytesBut c.addr 4096 s t ∧ Ended k c 0 0 0 t ∧ Changes [.mem, .cmd] [] s t ∧
        (c.csp 48 = 0 → places c.addr
          [(0, ascii "URNAWYN" ++ [0]), (8, ascii "CHIGIEM" ++ [0]), (16, leBytes 4 s.part.siliconRev.toNat), (20, leBytes 1 s.part.hbmStacks), (21, leBytes 1 s.part.dies),
           (22, leBytes 1 s.sliceCount), (23, leBytes 1 (b2n hummock + 2 * b2n (1 ≤ role) + 4 * b2n (2 ≤ role) + 8 * b2n (role = 3))),
           (24, leBytes 8 s.part.serial.toNat), (32, version false), (48, version true), (64, leBytes 1 (b2n s.boot.slot + 2 * b2n (valid false) + 4 * b2n (valid true))),
           (65, leBytes 1 8 ++ leBytes 2 4096 ++ leBytes 2 128 ++ leBytes 2 4096), (72, leBytes 4 131072 ++ leBytes 2 1024 ++ leBytes 2 512),
           (80, [16, 4, 192, 16, 16, 32, 4, 32]), (88, leBytes 8 274877906944), (96, leBytes 2 8192), (98, leBytes 2 0x03FF), (100, leBytes 4 0x00020000),
           (104, leBytes 4 (s.rd Fld.tierIdent.rank)), (108, leBytes 2 (s.rd Fld.tierIdent.rack)), (110, leBytes 1 (s.rd Fld.tierIdent.position)), (111, [0]),
           (112, leBytes 8 (s.rd Fld.cmdDataWinSize.size * 4096)), (120, zeros 3976)] t) ∧
        (c.csp 48 = 1 → up = true → s.peat.cat ≠ none → places c.addr
          [(1, leBytes 1 d.rate.toNat), (2, leBytes 1 d.width.toNat), (3, leBytes 1 (b2n d.flit + 2 * b2n d.vwc + 4 * b2n (d.rate.toNat < 5 || d.width.toNat < 8))),
           (4, leBytes 1 d.used.length), (8, leBytes 8 ((d.spaces.map (fun x => x.1)).getD 0 0)), (16, leBytes 8 ((d.spaces.map (fun x => x.1)).getD 1 0)),
           (24, leBytes 8 ((d.spaces.map (fun x => x.1)).getD 2 0)), (32, leBytes 8 ((d.spaces.map (fun x => x.1)).getD 3 0)),
           (40, leBytes 8 d.units), (48, leBytes 8 s.freeUnits), (56, fitTo 40 d.model), (96, fitTo 20 d.serial), (116, fitTo 8 d.firmware),
           (128, leBytes 8 (s.rd Fld.peatGen.lastGen)), (136, leBytes 8 (s.getReg Reg.peatJobc).toNat), (144, zeros 3952)] t) ∧
        (c.csp 48 = 2 → ∀ n : Fin 42, places c.addr
          [(16 * n.val, if s.present n = true then leBytes 4 (s.view (Reg.lnkStatus n)).toNat ++ leBytes 1 (portOf n) ++ leBytes 1 (dieOf n) else zeros 6)] t))) ∧
    (∀ c, s.running k 0x81 = some c → 1 ≤ c.csp 48 → c.csp 48 ≤ 8 →
      let total := [32768, 512, 64, 2048, 4096, 512, 0x400000, 1024].getD (c.csp 48 - 1) 0
      (s.inWindow c.addr c.len = false → Does (.getLogPage k) s (TurnedAway k c 0x0105 s)) ∧
      (s.inWindow c.addr c.len = true → total < c.off + c.len → Does (.getLogPage k) s (TurnedAway k c 0x0202 s)) ∧
      (s.inWindow c.addr c.len = true → c.off + c.len ≤ total → Does (.getLogPage k) s fun t =>
        BytesBut c.addr c.len s t ∧ Ended k c 0 0 0 t ∧ Changes [.mem, .cmd] [] s t ∧
        (c.csp 48 = 1 → c.off = 0 → 32 ≤ c.len → ∀ r, s.log.head? = some r → places c.addr
          [(0, leBytes 8 r.sec.toNat ++ leBytes 4 r.ns.toNat), (13, leBytes 1 r.kind.toNat), (14, leBytes 2 r.status.toNat), (16, leBytes 1 r.unit.toNat), (18, leBytes 2 r.rseq.toNat)] t) ∧
        (c.csp 48 = 2 → c.off = 0 → c.len = 512 → places c.addr [(0, leBytes 8 (s.view 0x410).toNat), (32, leBytes 8 (s.view 0x440).toNat), (40, leBytes 8 (s.view 0x10020).toNat), (104, leBytes 8 (s.view 0xA0010).toNat)] t) ∧
        (c.csp 48 = 3 → c.off = 0 → c.len = 64 → places c.addr
          [(0, version false), (16, version true), (32, leBytes 1 (b2n rec0.marked + 2 * b2n (valid false) + 4 * b2n (valid true) + 8 * b2n hummock)), (33, leBytes 1 rec0.failCount),
           (34, leBytes 2 (svn false)), (36, leBytes 2 (svn true)), (39, leBytes 1 rec0.failCause.toNat), (40, leBytes 8 rec0.startsA.toNat), (48, leBytes 8 rec0.startsB.toNat), (56, leBytes 8 rec0.failed.toNat)] t) ∧
        (c.csp 48 = 4 → c.off = 0 → 32 ≤ c.len → ∀ d, s.cut.cuts.head? = some d → d.refused = false → places c.addr
          [(0, leBytes 8 d.step.toNat), (8, leBytes 1 d.gen.toNat), (9, leBytes 1 d.st.code), (10, leBytes 1 d.rflags), (11, leBytes 2 d.status.toNat), (13, leBytes 1 (b2n (d.half == some true)))] t) ∧
        (c.csp 48 = 5 → c.off = 0 → c.len = 4096 → ∀ x, s.peat.cat = some x → (s.unitLoad 0 (if x.2 = true then 8192 else 4096) 4096).length = 4096 →
          t.load c.addr 4096 = s.unitLoad 0 (if x.2 = true then 8192 else 4096) 4096) ∧
        (c.csp 48 = 6 → c.off = 0 → c.len = 512 → s.peat.smart.length = 512 → t.load c.addr 512 = s.peat.smart) ∧
        (c.csp 48 = 7 → c.off % 32 = 0 → c.len = 32 → ∀ e, kget s.map (c.off / 32) = some e → places c.addr
          [(0, leBytes 4 e.shard.toNat), (5, leBytes 1 e.gen.toNat), (8, leBytes 8 e.step.toNat), (16, leBytes 4 e.firstExt), (20, leBytes 4 e.extCount), (24, leBytes 8 e.loc.toNat)] t) ∧
        (c.csp 48 = 8 → c.off = 0 → 16 ≤ c.len → ∀ r, s.cmd.relayLog.head? = some r → t.load c.addr 16 = fitTo 16 r))) ∧
    (∀ c, s.running k 0x82 = some c → 1 ≤ c.csp 48 → c.csp 48 ≤ 5 →
      let v := [0, s.rd Fld.peatCfg.retain + s.rd Fld.peatCfg.ageMax * 16, s.rd Fld.tierFeltCfg.tc3CapPct + s.rd Fld.tierFeltCfg.feltLanes * 256,
        s.rd Fld.tierHbCfg.hbIntervalMs + s.rd Fld.tierHbCfg.missLimit * 256, s.cmd.scrubCap, b2n s.peat.drive.wce].getD (c.csp 48) 0
      ((c.csp 48 ≠ 5 ∨ s.peat.linkUp = true) → Does (.getFeatures k) s fun t => Ended k c 0 (v % 2 ^ 32) (v / 2 ^ 32) t ∧ Changes [.cmd] [] s t) ∧
      (c.csp 48 = 5 → s.peat.linkUp = false → Does (.getFeatures k) s (TurnedAway k c 0x0801 s))) ∧
    (∀ c, s.running k 0x83 = some c → 1 ≤ c.csp 48 → c.csp 48 ≤ 5 →
      let v := fieldLE c.entry 56 8
      let in' (lo hi x : Nat) : Prop := lo ≤ x ∧ x ≤ hi
      let good : Prop :=
        (c.csp 48 = 1 → v < 2 ^ 24 ∧ in' 1 8 (v % 16)) ∧
        (c.csp 48 = 2 → v < 2 ^ 14 ∧ v.testBit 7 = false ∧ in' 1 100 (v % 128) ∧ in' 1 32 (v / 256)) ∧
        (c.csp 48 = 3 → v < 2 ^ 12 ∧ in' 1 100 (v % 256) ∧ 2 ≤ v / 256) ∧
        (c.csp 48 = 4 → in' 1 280 v) ∧ (c.csp 48 = 5 → v < 2)
      (¬ good → Does (.setFeatures k) s (TurnedAway k c 0x0102 s)) ∧
      (good → (c.csp 48 = 5 → s.peat.linkUp = false → Does (.setFeatures k) s (TurnedAway k c 0x0801 s)) ∧
        ((c.csp 48 = 5 → s.peat.linkUp = true) → Does (.setFeatures k) s fun t =>
          Ended k c 0 0 0 t ∧
          (c.csp 48 = 1 → t.rd Fld.peatCfg.retain = v % 16 ∧ t.rd Fld.peatCfg.ageMax = v / 16 ∧ Changes [.regs, .cmd] [Fld.peatCfg.retain, Fld.peatCfg.ageMax] s t) ∧
          (c.csp 48 = 2 → t.rd Fld.tierFeltCfg.tc3CapPct = v % 128 ∧ t.rd Fld.tierFeltCfg.feltLanes = v / 256 ∧
            Changes [.regs, .cmd] [Fld.tierFeltCfg.tc3CapPct, Fld.tierFeltCfg.feltLanes] s t) ∧
          (c.csp 48 = 3 → t.rd Fld.tierHbCfg.hbIntervalMs = v % 256 ∧ t.rd Fld.tierHbCfg.missLimit = v / 256 ∧
            Changes [.regs, .cmd] [Fld.tierHbCfg.hbIntervalMs, Fld.tierHbCfg.missLimit] s t) ∧
          (c.csp 48 = 4 → t.cmd.scrubCap = v ∧ Changes [.cmd] [] s t) ∧
          (c.csp 48 = 5 → t.peat = { s.peat with drive := { s.peat.drive with wce := v.testBit 0 } } ∧ Changes [.cmd, .peat] [] s t)))) ∧
    (∀ c, s.running k 0x84 = some c →
      let away (st : Status) : Prop := Does (.firmwareDownload k) s (TurnedAway k c st s)
      let bad := c.off % 4096 ≠ 0 ∨ c.len % 4096 ≠ 0 ∨ 0x100000 < c.len
      (bad → away 0x0102) ∧ (¬ bad → (s.inWindow c.addr c.len = false → away 0x0105) ∧
        (s.inWindow c.addr c.len = true → (c.off ≠ 0 → c.off ≠ s.store.dlNext → away 0x0904) ∧
          ((c.off = 0 ∨ c.off = s.store.dlNext) → (0x100000 < c.off + c.len → away 0x0902) ∧
            (c.off + c.len ≤ 0x100000 → Does (.firmwareDownload k) s fun t =>
              Memory.bytesAt t.store.bytes (0x300000 + c.off) c.len = s.load c.addr c.len ∧
              (∀ b : Nat, (0x300000 + c.off ≤ b ∧ b < 0x300000 + c.off + c.len) ∨ Memory.byteAt t.store.bytes b = Memory.byteAt s.store.bytes b) ∧
              t.store.dlNext = c.off + c.len ∧ t.store.recA = s.store.recA ∧ t.store.recB = s.store.recB ∧ Ended k c 0 0 0 t ∧ Changes [.store, .cmd] [] s t))))) ∧
    (∀ c, s.running k 0x85 = some c → s.store.recA.seqNo.toNat + 4 < 2 ^ 64 → s.store.recB.seqNo.toNat + 4 < 2 ^ 64 →
      let slot := c.csp 48 == 1
      let place := if slot then 0x200000 else 0x100000
      let isRec (r : StateRecord) (t : State) : Prop :=
        { t.store.record with seqNo := 0, crcOk := true } = { r with seqNo := 0, crcOk := true, failCount := if hummock = true then 0 else r.failCount }
      let copied (i : Instr) (mark : Bool) : Prop :=
        (s.boot.phase = .running → s.boot.slot = slot → Does i s (TurnedAway k c 0x0903 s)) ∧
        ((s.boot.phase ≠ .running ∨ s.boot.slot ≠ slot) →
          let st := s.imageVerify 0x300000 (some s.store.dlNext)
          ((Memory.bytesAt s.store.bytes 0x300000 4 ≠ ascii "CGFW" ∨ leNat (Memory.bytesAt s.store.bytes 0x300008 4) ≠ s.store.dlNext) → Does i s (TurnedAway k c 0x0902 s)) ∧
          Does i s fun t =>
            (st ≠ 0 → TurnedAway k c st s t) ∧
            (st = 0 → Memory.bytesAt t.store.bytes place s.store.dlNext = Memory.bytesAt s.store.bytes 0x300000 s.store.dlNext ∧
              (∀ b : Nat, (place ≤ b ∧ b < place + s.store.dlNext) ∨ Memory.byteAt t.store.bytes b = Memory.byteAt s.store.bytes b) ∧
              isRec { (rec0.setValid slot true) with marked := if mark = true then slot else rec0.marked } t ∧ Ended k c 0 0 0 t ∧ Changes [.store, .cmd] [] s t))
      (c.csp 49 = 0 → copied (.firmwareCommit k) false) ∧ (c.csp 49 = 1 → copied (.firmwareCommitAndMark k) true) ∧
      (c.csp 49 = 2 → (valid slot = false → Does (.firmwareMark k) s (TurnedAway k c 0x0108 s)) ∧
        (valid slot = true → Does (.firmwareMark k) s fun t =>
          let st := s.imageVerify place none
          (st ≠ 0 → TurnedAway k c st s t) ∧
          (st = 0 → isRec { rec0 with marked := slot } t ∧ t.store.bytes = s.store.bytes ∧ Ended k c 0 0 0 t ∧ Changes [.store, .cmd] [] s t))))

/-- COMMAND_START and COMMAND_COMPLETE of relays, COMMAND_RELAY, COMPLETION_RELAY, RELAY_DATA, RELAY_TIMEOUT, RELAY_DATA_WATCHDOG. Which member holds a
TARGET is free (assumption 31); that a relayed command ends by its frame alone is the model's choice. -/
def Obligations.CommandRelays : Prop :=
  ∀ s : State, s.Inv →
    let q := s.rd Fld.cmdCtrl.relayQp
    let on := s.rdB Fld.cmdCtrl.relayEn
    let takes := (s.queue q).st == .active && s.rdB (Fld.cmdQCfg.enable q)
    let placed (f : Frame) (e : List Byte) (t : State) : Prop :=
      t.queue q = { s.queue q with subs := (s.queue q).subs ++ [.relay f.srcRack f.srcPos f.tag f.gen f.seq (s.stagedEntry e)] } ∧
      (∀ p : Fin 8, p.val ≠ q → t.queue p = s.queue p) ∧ t.cmd.ctxs = s.cmd.ctxs
    let answered (f : Frame) (e : List Byte) (st : Status) (t : State) : Prop :=
      t.outbox.dropLast = s.outbox ∧
      (t.outbox.getLast?).map (fun o => (o.dest, o.ty, o.frame.tag, o.frame.gen, o.frame.seq)) = some (Dest.pos f.srcRack f.srcPos, Ty.completionRelay, f.tag, f.gen, f.seq) ∧
      (t.outbox.getLast?).map (fun o => (o.frame.payload.drop 8).take 4) = some ((e.drop 2).take 2 ++ leBytes 2 st.toNat)
    let hit (f : Frame) (r : Relay) : Bool :=
      r.tag == f.tag.toNat && r.gen == f.gen && r.seq == f.seq && r.rack == f.srcRack && r.pos == f.srcPos && r.result.isNone
    let ofCtx (k : Nat) : List Relay := s.cmd.relays.filter (fun x => x.ctx == k)
    let gone (k : Nat) (t : State) : Prop := t.cmd.relays = s.cmd.relays.filter (fun x => x.ctx != k)
    let ended (k : Nat) (st : Status) (t : State) : Prop := (t.ctx? k).map (fun d => (d.finished, d.status)) = some (true, st) ∧ gone k t
    let once := (s.cmd.relays.map (fun r => r.seq)).Nodup
    (∀ (i : Fin 8) (k : Nat) (u : Sub), s.served = true → s.rdB Fld.cmdCtrl.enable = true → s.freeContext = some k →
      (s.queue i).st = .active → s.rdB (Fld.cmdQCfg.enable i) = true → (s.queue i).subs.head? = some u →
      (∀ p : Fin 8, p < i → (s.queue p).st ≠ .active ∨ (s.queue p).subs = []) →
      let c := s.newCtx i u
      let c' : Ctx := { c with waits := s.ctxWaits c }
      let refused (st : Status) : Prop := Does .commandStart s fun t =>
        t.ctx? k = some { c' with finished := true, status := st } ∧ t.cmd.relays = s.cmd.relays ∧ t.outbox = s.outbox ∧ (st = 0x010A → t.rd Fld.cmdErrStatus.relayFailed = 1)
      let ms := s.rankMembers
      let away : List Byte := c.entry.take 20 ++ zeros 4 ++ c.entry.drop 24
      s.heldBack i c = false → s.ctxBad c (s.onRelayPair i u) = none → s.relayedOut i u c = true →
        (s.rd Fld.ctlElect.role = 0 → refused 0x0109) ∧
        (s.rd Fld.ctlElect.role ≠ 0 →
          ((c.opc = 5 ∨ c.opc = 0x84) → refused 0x0102) ∧
          ((c.opc = 1 ∨ c.opc = 2) → (c.target = 0xFFFFFFFE ∨ 0x1000000 < c.len) → refused 0x0102) ∧
          (c.opc ≠ 5 → c.opc ≠ 0x84 → c.opc ≠ 1 → c.opc ≠ 2 → c.opc ≠ 0x80 → c.opc ≠ 0x81 → on = false → refused 0x010A) ∧
          (s.relayBad c = none → ms.length + 1 ≤ s.red.tags.freeCount →
            (c.target = 0xFFFFFFFE → Does .commandStart s fun t =>
              t.ctx? k = some c' ∧ (t.cmd.relays.take s.cmd.relays.length) = s.cmd.relays ∧
              (t.cmd.relays.drop s.cmd.relays.length).map (fun r => (r.rack, r.pos)) = (s.myRack, s.myPos) :: ms.map (fun m => (m.rack, m.pos)) ∧
              (t.cmd.relays.drop s.cmd.relays.length).all (fun r => r.ctx == k && r.all && r.result.isNone && r.tick == s.now) = true ∧
              (t.outbox.drop s.outbox.length).map (fun o => (o.dest, o.ty, o.frame.payload)) =
                ms.map (fun m => (Dest.pos m.rack m.pos, Ty.commandRelay, away)) ∧
              (t.queue i).subs.tail = (s.queue i).subs.tail ∧
              (match (t.queue i).subs.head? with
                | some (.relay r p _ _ n e) => r == s.myRack && p == s.myPos && n == s.cmd.relaySeq && e.length == 64 && e.take 18 == c.entry.take 18 &&
                    (e.drop 18).take 6 == zeros 6 && e.drop 24 == c.entry.drop 24
                | _ => false) = true ∧
              Changes [.cmd, .red, .outbox, .freeCtr] [] s t) ∧
            (c.target ≠ 0xFFFFFFFE → Does .commandStart s fun t =>
              ((t.ctx? k).map (fun d => (d.finished, d.status)) = some (true, 0x010A) ∧ t.rd Fld.cmdErrStatus.relayFailed = 1 ∧ t.cmd.relays = s.cmd.relays ∧ t.outbox = s.outbox) ∨
              (t.ctx? k = some c' ∧ ms.any (fun m =>
                (t.cmd.relays.drop s.cmd.relays.length).map (fun r => (r.rack, r.pos, r.ctx, r.seq, r.all)) == [(m.rack, m.pos, k, s.cmd.relaySeq, false)] &&
                (t.outbox.getLast?).map (fun o => (o.dest, o.ty, o.frame.seq, o.frame.payload)) == some (Dest.pos m.rack m.pos, Ty.commandRelay, s.cmd.relaySeq, away)) = true ∧
                (c.opc = 2 → ((t.outbox.drop s.outbox.length).dropLast).flatMap (fun o => o.frame.payload) = s.load c.addr c.len) ∧
                (c.opc ≠ 2 → t.outbox.length = s.outbox.length + 1)))))) ∧
    (∀ (n : Fin 42) (f : Frame), s.hears n Ty.commandRelay f = true →
      let ok := on && f.payload.length == 64 && f.count == 64 && s.served
      let x := s.cmd.staged.find? (Staged.isOf f)
      let got := match x with | some y => y.got | none => 0
      let long := match x with | some y => y.long | none => false
      let len := fieldLE f.payload 40 6
      (ok = false → Does (.commandRelay n f) s (Stale n s)) ∧
      (ok = true → fieldLE f.payload 0 1 ≠ 2 → (takes = true → Does (.commandRelay n f) s fun t => placed f f.payload t ∧ Changes [.cmd] [] s t) ∧
        (takes = false → Does (.commandRelay n f) s fun t => t = s)) ∧
      (ok = true → fieldLE f.payload 0 1 = 2 →
        (long = false → got < len → Does (.commandRelay n f) s fun t =>
          (t.cmd.staged.find? (Staged.isOf f)).map (fun y => (y.got, y.entry)) = some (got, f.payload) ∧ t.cmd.queues = s.cmd.queues ∧ Changes [.cmd] [] s t) ∧
        (long = false → got = len → takes = true → Does (.commandRelay n f) s fun t => placed f f.payload t ∧ t.cmd.staged.any (Staged.isOf f) = false ∧ Changes [.cmd] [] s t) ∧
        ((long = true ∨ len < got) → Does (.commandRelay n f) s fun t =>
          answered f f.payload 0x0202 t ∧ t.cmd.staged.any (Staged.isOf f) = false ∧ t.cmd.queues = s.cmd.queues ∧ Changes [.cmd, .outbox, .freeCtr] [] s t))) ∧
    (∀ (n : Fin 42) (f : Frame), s.hears n Ty.completionRelay f = true →
      let b := f.payload.take 16
      let st : Status := BitVec.ofNat 16 (fieldLE b 10 2)
      let data := f.payload.drop 16
      let ok : Prop := 16 ≤ f.payload.length ∧ f.payload.length ≤ 4112 ∧ f.count.toNat = f.payload.length
      (s.cmd.relays.find? (hit f) = none → Does (.completionRelay n f) s (Stale n s)) ∧
      (∀ r, s.cmd.relays.find? (hit f) = some r → (¬ ok → Does (.completionRelay n f) s (Stale n s)) ∧
        (ok → once → ∀ c, s.ctx? r.ctx = some c → c.finished = false →
          let stored (t : State) : Prop := if (c.returns && s.inWindow c.addr data.length) = true then t.load c.addr data.length = data ∧ BytesBut c.addr data.length s t else t.mem = s.mem
          let waits := c.opc = 1 ∧ st = 0 ∧ r.got < r.len
          let others := (ofCtx r.ctx).filter (fun x => x.seq != r.seq)
          let fails := ((ofCtx r.ctx).map (fun x => (x.rank.toNat, BitVec.ofNat 16 (fieldLE (if x.seq = r.seq then b else x.result.getD []) 10 2)))).filter (fun x => x.2 != (0 : Status))
          r.got ≤ r.len →
          (waits → Does (.completionRelay n f) s fun t =>
            t.ctx? r.ctx = some c ∧ t.mem = s.mem ∧ (t.cmd.relays.find? (fun x => x.seq == r.seq)).map (fun x => (x.early, x.result)) = some (some b, none) ∧ Changes [.cmd] [] s t) ∧
          (¬ waits → r.all = false → others = [] → Does (.completionRelay n f) s fun t =>
            stored t ∧ ended r.ctx st t ∧ (t.ctx? r.ctx).map (fun d => (d.r0, d.r1)) = some (BitVec.ofNat 32 (fieldLE b 0 4), BitVec.ofNat 32 (fieldLE b 12 4)) ∧
            Changes [.mem, .regs, .log, .red, .cmd] [Fld.ctlErrlog.head] s t) ∧
          (¬ waits → others.any (fun x => x.result.isNone) = true → Does (.completionRelay n f) s fun t =>
            stored t ∧ t.ctx? r.ctx = some c ∧ (t.cmd.relays.find? (fun x => x.seq == r.seq)).map (fun x => x.result) = some (some b) ∧ Changes [.mem, .cmd] [] s t) ∧
          (¬ waits → r.all = true → (ofCtx r.ctx).all (fun x => x.all) = true → others.all (fun x => x.result.isSome) = true → Does (.completionRelay n f) s fun t =>
            stored t ∧ (fails = [] → ended r.ctx 0 t) ∧ t.cmd.relayLog.length = min 64 (ofCtx r.ctx).length ∧
            (∀ x ∈ fails, (∀ y ∈ fails, y = x ∨ x.1 < y.1) → ended r.ctx x.2 t ∧ (t.ctx? r.ctx).map (fun d => d.r1) = some (BitVec.ofNat 32 x.1)) ∧
            Changes [.mem, .regs, .log, .red, .cmd] [Fld.ctlErrlog.head] s t)))) ∧
    (∀ (n : Fin 42) (f : Frame), s.hears n Ty.relayData f = true →
      let k := f.payload.length
      let off := f.offset.toNat
      let ok := on && (k + 3) / 4 == f.count.toNat && k != 0
      (ok = false → Does (.relayData n f) s (Stale n s)) ∧
      (ok = true → ∀ r, s.cmd.relays.find? (hit f) = some r → once → ∀ c, s.ctx? r.ctx = some c → c.finished = false →
        (c.opc ≠ 1 → Does (.relayData n f) s (Stale n s)) ∧
        (c.opc = 1 → ofCtx r.ctx = [r] → r.all = false →
          (r.len < off + k → Does (.relayData n f) s fun t => ended r.ctx 0x0202 t ∧ t.mem = s.mem ∧ Changes [.regs, .log, .red, .cmd, .freeCtr] [Fld.ctlErrlog.head] s t) ∧
          (off + k ≤ r.len → Does (.relayData n f) s fun t =>
            t.load (c.addr + off) k = f.payload ∧ BytesBut (c.addr + off) k s t ∧
            ((r.early = none ∨ r.got + k < r.len) → (∀ b, r.early = some b → BitVec.ofNat 16 (fieldLE b 10 2) = (0 : Status)) →
              t.ctx? r.ctx = some c ∧ (t.cmd.relays.find? (fun x => x.seq == r.seq)).map (fun x => (x.got, x.result)) = some (r.got + k, none)) ∧
            (∀ b, r.early = some b → r.got + k = r.len → ended r.ctx (BitVec.ofNat 16 (fieldLE b 10 2)) t) ∧
            (∀ b, r.early = some b → BitVec.ofNat 16 (fieldLE b 10 2) = (0 : Status) → r.len < r.got + k → ended r.ctx 0x0202 t) ∧
            Changes [.mem, .regs, .log, .red, .cmd, .freeCtr] [Fld.ctlErrlog.head] s t))) ∧
      (ok = true → s.cmd.relays.find? (hit f) = none →
        let x := s.cmd.staged.find? (Staged.isOf f)
        let got := match x with | some y => y.got | none => 0
        let e := match x with | some y => y.entry | none => []
        let len := fieldLE e 40 6
        let at' := s.rdAddr Fld.cmdDataWin.base + s.rd Fld.cmdDataWinSize.size * 4096 - 0x1000000 + off
        off + k ≤ 0x1000000 → 0x1000000 ≤ s.rd Fld.cmdDataWinSize.size * 4096 → (match x with | some y => y.long | none => false) = false →
          let landed (t : State) : Prop := t.load at' k = f.payload ∧ BytesBut at' k s t
          ((e = [] ∨ got + k < len) → Does (.relayData n f) s fun t =>
            landed t ∧ (t.cmd.staged.find? (Staged.isOf f)).map (fun y => (y.got, y.entry, y.arrival)) = some (got + k, e, s.now) ∧ Changes [.mem, .cmd] [] s t) ∧
          (e ≠ [] → got + k = len → takes = true → Does (.relayData n f) s fun t => landed t ∧ placed f e t ∧ t.cmd.staged.any (Staged.isOf f) = false ∧ Changes [.mem, .cmd] [] s t) ∧
          (4 ≤ e.length → len < got + k → Does (.relayData n f) s fun t =>
            landed t ∧ answered f e 0x0202 t ∧ t.cmd.staged.any (Staged.isOf f) = false ∧ Changes [.mem, .cmd, .outbox, .freeCtr] [] s t))) ∧
    (∀ seq : BitVec 32,
      let found := s.cmd.relays.find? (fun r => r.seq == seq && r.result.isNone)
      (found = none → Does (.relayTimeout seq) s fun t => t = s) ∧
      ∀ r, found = some r →
        ((r.early.isSome = true ∨ s.now < r.tick + 100000000) → Does (.relayTimeout seq) s fun t => t = s) ∧
        (r.early = none → r.tick + 100000000 ≤ s.now → once → ∀ c, s.ctx? r.ctx = some c → c.finished = false → Does (.relayTimeout seq) s fun t =>
          t.rd Fld.cmdErrStatus.relayFailed = 1 ∧ (ofCtx r.ctx = [r] → r.all = false → ended r.ctx 0x010A t) ∧
          (ofCtx r.ctx = [r] → r.all = true → ended r.ctx 0x010A t ∧ (t.ctx? r.ctx).map (fun d => d.r1) = some r.rank) ∧
          Changes [.regs, .log, .red, .cmd, .freeCtr] [Fld.cmdErrStatus.relayFailed, Fld.ctlErrlog.head] s t)) ∧
    (∀ seq : BitVec 32,
      let wd := s.rd Fld.synRemoteCfg.wdUs * 100
      let late := s.cmd.relays.find? (fun r => r.seq == seq && r.result.isNone && r.early.isSome && r.got < r.len && r.arrival + wd ≤ s.now)
      let staged := s.cmd.staged.find? (fun x => x.seq == seq && x.arrival + wd ≤ s.now)
      (late = none → staged = none → ∀ race, Does (.relayDataWatchdog seq race) s fun t => t = s) ∧
      ((late ≠ none ∨ staged ≠ none) → Does (.relayDataWatchdog seq .arrivalWon) s fun t =>
        t.cmd = s.cmd ∧ Counted Fld.ctlArbRace.arrivalWon s t ∧ Changes [.regs, .log] [Fld.ctlErrlog.head, Fld.ctlArbRace.arrivalWon] s t) ∧
      (∀ r, late = some r → once → ofCtx r.ctx = [r] → r.all = false → ∀ c, s.ctx? r.ctx = some c → c.finished = false → Does (.relayDataWatchdog seq .none) s fun t =>
        ended r.ctx 0x0201 t ∧ Changes [.regs, .log, .red, .cmd, .freeCtr] [Fld.ctlErrlog.head] s t) ∧
      (late = none → ∀ x, staged = some x → Does (.relayDataWatchdog seq .none) s fun t =>
        t.cmd.staged = s.cmd.staged.filter (fun y => y != x) ∧ (x.entry = [] → t.outbox = s.outbox) ∧
        (4 ≤ x.entry.length → answered { srcRack := x.rack, srcPos := x.pos, tag := x.tag, gen := x.gen, seq := x.seq } x.entry 0x0201 t) ∧
        Changes [.cmd, .outbox, .freeCtr] [] s t)) ∧
    (∀ k : Fin 128, ∀ c, s.ctx? k = some c → c.finished = true → c.abandoned = false → 4 ≤ c.entry.length → s.rdB (Fld.cmdQCfg.enable c.q) = true → ∀ r, c.relay = some r →
      (s.unitHolds (.command c.q) = true → Does (.commandComplete k) s fun t => t = s) ∧
      (s.unitHolds (.command c.q) = false → s.isMe r.rack r.pos = true → once →
        ∀ x, s.cmd.relays.find? (fun x => x.seq == r.seq && x.result.isNone && s.isMe x.rack x.pos) = some x → x.ctx ≠ k.val → x.all = true →
        ∀ p, s.ctx? x.ctx = some p → p.opc ≠ 1 → p.finished = false →
          let others := (ofCtx x.ctx).filter (fun y => y.seq != x.seq)
          Does (.commandComplete k) s fun t =>
            t.ctx? k = none ∧ t.cmd.locks = s.cmd.locks.filter (fun l => l.ctx != k.val) ∧ t.cmd.queues = s.cmd.queues ∧ t.outbox = s.outbox ∧
            (others.any (fun y => y.result.isNone) = true → t.ctx? x.ctx = some p ∧
              (t.cmd.relays.find? (fun y => y.seq == x.seq)).map (fun y => (y.result.map (fun b => (b.drop 10).take 2))) = some (some (leBytes 2 c.status.toNat))) ∧
            (others = [] → ended x.ctx c.status t) ∧ Changes [.regs, .log, .red, .cmd, .freeCtr] [Fld.ctlErrlog.head] s t) ∧
      (s.unitHolds (.command c.q) = false → s.isMe r.rack r.pos = false → Does (.commandComplete k) s fun t =>
        let sent := t.outbox.drop s.outbox.length
        t.ctx? k = none ∧ (∀ j : Nat, j ≠ k.val → t.ctx? j = s.ctx? j) ∧ t.cmd.locks = s.cmd.locks.filter (fun l => l.ctx != k.val) ∧ t.cmd.queues = s.cmd.queues ∧
        t.outbox.take s.outbox.length = s.outbox ∧ sent.all (fun o => o.dest == .pos r.rack r.pos && o.frame.tag == r.tag && o.frame.gen == r.gen && o.frame.seq == r.seq) = true ∧
        (sent.dropLast).flatMap (fun o => o.frame.payload) = (if c.opc = 1 then c.data else []) ∧ (sent.dropLast).all (fun o => o.ty == Ty.relayData) = true ∧
        (sent.getLast?).map (fun o => (o.ty, (o.frame.payload.drop 4).take 8)) = some (Ty.completionRelay,
          leBytes 2 c.sqHead ++ leBytes 1 (c.q + 8 * b2n c.pushed) ++ leBytes 1 (b2n (s.queue c.q).phase) ++ (c.entry.drop 2).take 2 ++ leBytes 2 c.status.toNat) ∧
        (sent.getLast?).map (fun o => o.frame.payload.drop 16) =
          some (if c.status = 0 ∧ (c.opc = 0x80 ∨ c.opc = 0x81) then s.load c.addr (if c.opc = 0x80 then 4096 else c.len) else []) ∧
        ((c.results.1 || c.given.1) = true → (sent.getLast?).map (fun o => o.frame.payload.take 4) = some (leBytes 4 c.r0.toNat)) ∧
        (bits c.signal 10 2 = 0 → t.syn = s.syn ∧ t.mem = s.mem) ∧
        (bits c.signal 10 2 = 1 → s.quiesced = false → s.syn.waiters = [] → t.flag (bits c.signal 0 10) = true) ∧
        Changes [.regs, .mem, .syn, .cmd, .freeCtr, .outbox] signalFields s t))

/-- BOOT_ROM_START, THERMAL_HOLD_RELEASE, START_OK, START_WATCHDOG_EXPIRY, CORE_WATCHDOG_EXPIRY, ACTIVATE, ACTIVATION_RESET. That the failed start's
cause waits in the retained set, source 9 for causes 4 and 5 (assumption 38) and source 7 for a memory test of the firmware's are the model's
choices. -/
def Obligations.Starts : Prop :=
  ∀ s : State, s.Inv → s.store.recA.seqNo.toNat + 4 < 2 ^ 64 → s.store.recB.seqNo.toNat + 4 < 2 ^ 64 →
    let r0 := s.store.record
    let isRec (r : StateRecord) (t : State) : Prop := { t.store.record with seqNo := 0, crcOk := true } = { r with seqNo := 0, crcOk := true }
    let other (r : StateRecord) : Bool := if r.marked then r.aValid else r.bValid
    let counted : StateRecord :=
      if s.boot.failPending = 0 then r0
      else
        let moves := s.boot.entered && (s.boot.slot == r0.marked) && other r0
        { r0 with failCount := min 3 (r0.failCount + 1), failCause := s.boot.failPending, failed := r0.failed + 1, marked := (r0.marked != moves) }
    let place (b : Bool) : Nat := if b then 0x200000 else 0x100000
    let good (b : Bool) : Prop := (if b then counted.bValid else counted.aValid) = true ∧ s.imageVerify (place b) none = 0
    let romFields : List Fld := [Fld.ctlErrStatus.mbistRepair, Fld.ctlBootReason.failCount, Fld.ctlBootReason.failCause, Fld.ctlBootReason.slot,
      Fld.ctlBootReason.fallback, Fld.ctlBootReason.hummock, Fld.ctlFwStatus.svn, Fld.ctlErrlog.head, Fld.ctlBootReason.thermalHold]
    let entered (b : Bool) (t : State) : Prop :=
      t.boot.phase = .booting ∧ t.boot.slot = b ∧ t.boot.entered = true ∧ t.boot.entryTick = s.now ∧ t.board = { s.board with perstN := true } ∧
      t.rd Fld.ctlBootReason.slot = b2n b ∧ t.rd Fld.ctlBootReason.fallback = b2n (b != r0.marked) ∧
      t.rd Fld.ctlFwStatus.svn = leNat (Memory.bytesAt s.store.bytes (place b + 12) 2) ∧
      (s.rdB Fld.peatCtrl.enable = false → Changes [.board, .boot, .store, .regs] romFields s t)
    let rom (check : RomCheck) (t : State) : Prop :=
      (check.bad = true → EngineReset 9 4 s t ∧ t.store.record = r0) ∧
      (check.bad = false → check.storeFails = true → EngineReset 9 5 s t ∧ t.store.record = r0) ∧
      (check.bad = false → check.storeFails = false →
        isRec counted t ∧ t.store.bytes = s.store.bytes ∧ t.rd Fld.ctlBootReason.failCount = counted.failCount ∧
        t.rd Fld.ctlBootReason.failCause = counted.failCause.toNat ∧
        (3 ≤ counted.failCount → t.boot.phase = .hummock ∧ t.boot.failPending = 0 ∧ t.rd Fld.ctlBootReason.hummock = 1 ∧
          t.board = { s.board with perstN := true } ∧
          (check.repaired = true → t.rd Fld.ctlErrStatus.mbistRepair = 1) ∧
          (s.rdB Fld.peatCtrl.enable = false → Changes [.board, .boot, .store, .regs, .log, .freeCtr] romFields s t)) ∧
        (counted.failCount < 3 →
          (good counted.marked → entered counted.marked t ∧ (check.repaired = true → t.rd Fld.ctlErrStatus.mbistRepair = 1)) ∧
          (¬ good counted.marked → good (!counted.marked) → entered (!counted.marked) t) ∧
          (¬ good counted.marked → ¬ good (!counted.marked) → EngineReset 9 1 s t)))
    (∀ check : RomCheck, s.boot.phase = .reset → s.store.record.failCount ≤ 3 →
      (s.boot.trip = false → DoesThen (.bootRomStart check) s (rom check)) ∧
      (s.boot.trip = true → DoesThen (.bootRomStart check) s fun t =>
        t.boot = { s.boot with phase := .thermalHold, check := check } ∧ t.rd Fld.ctlBootReason.thermalHold = 1 ∧
        Changes [.boot, .regs] [Fld.ctlBootReason.thermalHold] s t)) ∧
    (s.boot.phase = .thermalHold → s.store.record.failCount ≤ 3 →
      let tj := BitVec.ofNat 11 (s.rd Fld.ctlSpeedStatus.tjQ)
      (∀ other : BitVec 11, other ≠ tj → DoesThen (.thermalHoldRelease other) s fun t => t = s) ∧
      ((s.mon.last = none ∨ 400 ≤ tj.toInt) → DoesThen (.thermalHoldRelease tj) s fun t => t = s) ∧
      (s.mon.last ≠ none → tj.toInt < 400 → DoesThen (.thermalHoldRelease tj) s fun t => rom s.boot.check t ∧ t.boot.trip = false)) ∧
    (∀ tc : TableCheck, s.boot.phase = .booting →
      (tc.bad = true → DoesThen (.startOk tc) s fun t => EngineReset 7 4 s t ∧ t.store.record = r0) ∧
      (tc.bad = false → DoesThen (.startOk tc) s fun t =>
        let b := s.boot.slot
        let svn (c : Bool) : Nat := leNat (Memory.bytesAt s.store.bytes (place c + 12) 2)
        let raises := bitAt (leNat (Memory.bytesAt s.store.bytes (place b + 15) 1)) 0 && decide (s.boot.svnFloor < svn b) && decide (s.boot.floorSteps < 64)
        let drops := raises && decide (svn (!b) < svn b)
        t.boot = { s.boot with phase := .running, svnFloor := if raises then svn b else s.boot.svnFloor,
                               floorSteps := if raises then s.boot.floorSteps + 1 else s.boot.floorSteps } ∧
        isRec { r0 with failCount := 0, startsA := if b then r0.startsA else r0.startsA + 1, startsB := if b then r0.startsB + 1 else r0.startsB,
                        aValid := r0.aValid && !(drops && b), bValid := r0.bValid && !(drops && !b) } t ∧
        t.store.bytes = s.store.bytes ∧
        t.rd Fld.ctlFwStatus.startOk = 1 ∧ t.rd Fld.ctlFwStatus.startUs = (s.now - s.boot.entryTick) / 100 % 2 ^ Fld.ctlFwStatus.startUs.len ∧
        (∀ n : Fin 42, t.slice n = if s.present n = true ∧ s.rd (Fld.lnkStatus.bufErr n) = 0 then .opened else s.slice n) ∧
        (∀ k : Fin 8, t.set k = if tc.setsBad.getLsbD k = true then { st := .lost } else { s.set k with pages := (s.set k).mirror }) ∧
        (tc.shardMapBad = false → t.map = s.map) ∧
        (tc.shardMapBad = true → t.map.all (fun e => s.map.contains e && e.2.tier != 2 && (e.2.tier != 1 || s.peat.cat.isSome) &&
            (e.2.tier != 0 || (e.2.st != .filling && e.2.st != .written))) = true ∧
          (s.peat.cat.isSome = true → s.map.all (fun e => e.2.tier != 1 || t.map.contains e) = true)) ∧
        t.elect = { s.elect with wardenHb := s.now, hadWarden := false } ∧
        t.rst = (if s.rst.fenced = true then { s.rst with st := .standby } else s.rst) ∧
        Changes [.boot, .store, .regs, .slices, .sedge, .map, .elect, .rst, .freeCtr]
          ([Fld.ctlErrStatus.mbistRepair, Fld.tierErrStatus.setLost, Fld.ctlFwStatus.startOk, Fld.ctlFwStatus.startUs] ++
            (List.range 42).map Fld.lnkCtrl.close) s t)) ∧
    (s.boot.phase = .booting →
      (s.now < s.boot.entryTick + 200000000 → DoesThen .startWatchdogExpiry s fun t => t = s) ∧
      (s.boot.entryTick + 200000000 ≤ s.now → DoesThen .startWatchdogExpiry s fun t => EngineReset 6 2 s t ∧ t.store.record = r0)) ∧
    (∀ core : Fin 4, (s.boot.phase = .booting → DoesThen (.coreWatchdogExpiry core) s fun t => EngineReset 5 3 s t ∧ t.rd Fld.ctlErrStatus.coreWd = 1) ∧
      ((s.boot.phase = .running ∨ s.boot.phase = .hummock) → DoesThen (.coreWatchdogExpiry core) s fun t =>
        EngineReset 5 s.boot.failPending s t ∧ t.rd Fld.ctlErrStatus.coreWd = 1)) ∧
    (s.powered = true →
      (s.awake = true → s.rd Fld.ctlReset.quiescing = 0 → Does .activate s fun t =>
        t.rd Fld.ctlReset.quiescing = 1 ∧ t.boot = { s.boot with quiesceTick := s.now } ∧ Changes [.boot, .regs] [Fld.ctlReset.quiescing] s t) ∧
      ((s.awake = false ∨ s.rd Fld.ctlReset.quiescing = 1) → Does .activate s fun t => t = s)) ∧
    (s.awake = true → s.rd Fld.ctlReset.quiescing = 1 →
      (s.halted = true → DoesThen .activationReset s fun t => t = s) ∧
      (s.halted = false → s.quiescent = true → DoesThen .activationReset s (EngineReset 8 s.boot.failPending s)) ∧
      (s.halted = false → s.quiescent = false → s.boot.quiesceTick + 3000000000 ≤ s.now → DoesThen .activationReset s fun t =>
        EngineReset 8 s.boot.failPending s t ∧ t.rd Fld.ctlErrlog.head = (s.rd Fld.ctlErrlog.head + 2) % 2 ^ 16) ∧
      (s.halted = false → s.quiescent = false → s.now < s.boot.quiesceTick + 3000000000 → DoesThen .activationReset s fun t => t = s))

/-- ELECTION_START, ELECTION_TIMER, CANDIDACY, CLAIM. That the claimant becomes Warden at 6 ms, that another election may start 10 ms after the last
began, and that unnamed header fields of election frames are 0 are the model's readings. -/
def Obligations.Elections : Prop :=
  ∀ s : State, s.Inv →
    let e := s.elect
    let num := s.rd Fld.ctlElect.election
    let prio := s.rd Fld.ctlElect.electPrio
    let inRange := s.rd Fld.ctlCornerStatus.inRange
    let pos := s.rd Fld.tierIdent.position
    let eligible := s.boot.phase = .running ∧ s.rst.fenced = false ∧ s.rd Fld.ctlElect.eligible = 1
    let me : Candidacy := { outRange := inRange == 0, prio := BitVec.ofNat 16 prio, pos := BitVec.ofNat 7 pos }
    let key (c : Candidacy) : Nat := b2n c.outRange * 2 ^ 23 + c.prio.toNat * 2 ^ 7 + c.pos.toNat
    let sends (ty : BitVec 8) (k : Nat) : List Sent :=
      ([0, 1].filter s.isOpen).map fun n =>
        let f : Frame := { seq := BitVec.ofNat 32 k, count := 8, payload := leBytes 8 (prio + 2 ^ 16 * inRange + 2 ^ 17 * pos) }
        { slice := some n, dest := .election, ty := ty, frame := { f with crc := Frame.crcOf ty f } }
    let begun (k : Nat) (more : List Candidacy) (t : State) : Prop :=
      t.rd Fld.ctlElect.election = k ∧
      t.elect = { e with running := true, start := s.now, heard := (if eligible then [me] else []) ++ more, sentCand := if eligible then 1 else 0,
                         sentClaim := 0, claimant := false, decided := false, accepted := none } ∧
      t.outbox = s.outbox ++ (if eligible then sends 0x91 k else []) ∧ Changes [.regs, .elect, .outbox] [Fld.ctlElect.election] s t
    (s.boot.phase = .running →
      let silent := (if e.hadWarden = true then s.rd Fld.tierHbCfg.missLimit else 3) * (s.rd Fld.tierHbCfg.hbIntervalMs * 100000)
      let idle := e.running = false ∨ e.start + 1000000 ≤ s.now
      (e.wardenHb + silent ≤ s.now → s.rd Fld.ctlElect.role = 0 → idle → Does .electionStart s (begun ((num + 1) % 2 ^ 16) [])) ∧
      ((s.now < e.wardenHb + silent ∨ s.rd Fld.ctlElect.role ≠ 0 ∨ ¬ idle) → Does .electionStart s fun t => t = s)) ∧
    (s.boot.phase = .running → e.running = true →
      let after (ms : Nat) := e.start + ms * 100000 ≤ s.now
      let sent (ty : BitVec 8) (e' : Elect) : Prop := DoesThen .electionTimer s fun t =>
        t.elect = e' ∧ t.outbox = s.outbox ++ sends ty num ∧ Changes [.elect, .outbox] [] s t
      (e.decided = false → ¬ after 4 →
        ((e.sentCand = 1 ∧ after 1 ∨ e.sentCand = 2 ∧ after 2) → sent 0x91 { e with sentCand := e.sentCand + 1 }) ∧
        (¬ (e.sentCand = 1 ∧ after 1 ∨ e.sentCand = 2 ∧ after 2) → DoesThen .electionTimer s fun t => t = s)) ∧
      (e.decided = false → after 4 →
        let wins := eligible ∧ e.sentCand ≠ 0 ∧ (∃ c ∈ e.heard, key c = key me) ∧ ∀ c ∈ e.heard, key me ≤ key c
        (wins → sent 0x92 { e with decided := true, claimant := true, sentClaim := 1 }) ∧
        (¬ wins → DoesThen .electionTimer s fun t => t.elect = { e with decided := true } ∧ Changes [.elect] [] s t)) ∧
      (e.decided = true → e.claimant = true → e.sentClaim = 1 → after 5 → sent 0x92 { e with sentClaim := 2 }) ∧
      (e.decided = true → e.claimant = true → e.sentClaim = 2 → after 6 → DoesThen .electionTimer s fun t =>
        let had := e.hadWarden = true ∧ s.rd Fld.ctlElect.wardenPos ≠ pos
        t.rd Fld.ctlElect.wardenPos = pos ∧ 1 ≤ t.rd Fld.ctlElect.role ∧ t.rd Fld.ctlElect.election = num ∧
        t.elect = { e with sentClaim := 3, running := false, hadWarden := false } ∧
        (s.outbox ++ sends 0x92 num) <+: t.outbox ∧
        (had → Counted Fld.tierWardenStatus.detections s t) ∧
        (¬ had → t.warden = s.rackMembers.warden ∧ Changes [.regs, .elect, .rst, .warden, .outbox, .freeCtr] ([Fld.ctlElect.wardenPos, Fld.ctlElect.role, Fld.ctlErrStatus.roleChange] ++
          (List.range 4).flatMap (fun b => [Fld.synTbarTree.role b, Fld.synTbarTree.children b, Fld.synTbarTree.upRack b, Fld.synTbarTree.upPos b])) s t)) ∧
      (e.decided = true → (e.claimant = false ∨ 3 ≤ e.sentClaim ∨ ¬ after 5) → DoesThen .electionTimer s fun t => t = s)) ∧
    (∀ (n : Fin 42) (f : Frame),
      let got := f.seq.toNat % 65536
      let b := fieldLE f.payload 0 8
      let c : Candidacy := { outRange := !bitAt b 16, prio := BitVec.ofNat 16 b, pos := BitVec.ofNat 7 (b / 2 ^ 17) }
      (s.hears n 0x91 f = true →
        ((f.payload.length ≠ 8 ∨ got < num) → Does (.candidacy n f) s (Stale n s)) ∧
        (f.payload.length = 8 → num < got → Does (.candidacy n f) s (begun got (if eligible ∧ c = me then [] else [c]))) ∧
        (f.payload.length = 8 → got = num → Does (.candidacy n f) s fun t =>
          t.elect = { e with heard := e.heard ++ if e.running = true ∧ c ∉ e.heard then [c] else [] } ∧ Changes [.elect] [] s t)) ∧
      (s.hears n 0x92 f = true →
        let accepts (e' : Elect) (t : State) : Prop :=
          t.elect = { e' with running := false, claimant := false, accepted := some c.pos, wardenHb := s.now, hadWarden := false } ∧
          t.rd Fld.ctlElect.wardenPos = c.pos.toNat ∧ t.rd Fld.ctlElect.role = 0 ∧ t.rd Fld.ctlElect.election = got ∧
          (s.rd Fld.ctlElect.role ≠ 0 → t.rd Fld.ctlErrStatus.roleChange = 1) ∧
          Changes [.regs, .elect] [Fld.ctlElect.election, Fld.ctlElect.wardenPos, Fld.ctlElect.role, Fld.ctlErrStatus.roleChange] s t
        let fresh : Elect := { e with start := s.now, heard := [], sentCand := 0, sentClaim := 0, decided := true }
        ((f.payload.length ≠ 8 ∨ got < num) → Does (.claim n f) s (Stale n s)) ∧
        (f.payload.length = 8 → num < got → c.pos.toNat ≠ pos → Does (.claim n f) s (accepts fresh)) ∧
        (f.payload.length = 8 → got = num → c.pos.toNat ≠ pos →
          let low := e.running = true ∧ e.accepted = none ∧ ∀ x ∈ e.heard, key c ≤ key x
          (low → Does (.claim n f) s (accepts e)) ∧ (¬ low → Does (.claim n f) s fun t => t = s))))

/-- SLICE_BUFFER_ERROR, SRAM_SCRUB_PASS, SRAM_UNCORRECTABLE, MEMORY_READ_UNCORRECTABLE. Codes of the SRAMs, the record of the failing address
(assumption 39), the status of buckets that a close of their slice aborts (free, assumption 34) and restore verification's reading again (37)
are the model's choices. -/
def Obligations.ErrorContainment : Prop :=
  ∀ s : State, s.Inv →
    let ue : Status := 0x0205
    let bucketAborts (ch : Nat) (b : Bucket) (t : State) : Prop :=
      (t.chan ch).aborted = true ∧ (∀ d, t.bucket ch b.seq = some d → d.dead = true ∧ d.status = ue) ∧
      (BitVec.ofNat 5 ch, b.seq, BitVec.ofNat 32 b.desc.step.toNat) ∈ t.red.notices
    let started (ch : Nat) (seq : W32) (b : Bucket) : Prop := s.bucket ch seq = some b ∧ b.dead = false ∧ b.completed = false
    let consumed (ch : Nat) (seq : W32) (b : Bucket) : Prop := s.bucket ch seq = none ∧ s.liveBucket ch seq = some b
    let taskAborts (q : Nat) (t : State) : Prop :=
      (t.fq q).task = none ∧ (t.fq q).aborted = true ∧ (t.fq q).lastStatus = ue ∧ t.rd Fld.fulErrStatus.memUe = 1
    let commandAborts (k : Nat) (c : Ctx) (t : State) : Prop :=
      Ended k c ue 0 0 t ∧ t.chk.lanes.toList.all (· != some (.command k)) = true ∧ (t.chk.ctxs.all fun x => x.2 != .command k) = true
    let feltEnds (seq : W32) (t : State) : Prop := ∀ c, s.findCut seq = some c → c.st.isFinal = false → CutEnded s c .abandoned ue t
    let commandEnds (k : Nat) (t : State) : Prop := ∀ c, s.ctx? k = some c → c.finished = false → commandAborts k c t
    let drainEnds (t : State) : Prop := ∀ d, s.peat.drain = some d → ∀ c, s.findCut d.seq = some c → DrainFailed c ue t
    let laneEnds (u : LaneUser) (t : State) : Prop :=
      (∀ seq r, u = .felt seq r → feltEnds seq t) ∧ (∀ k, u = .command k → commandEnds k t) ∧ (u = .verify → t.rst.lastStatus = ue) ∧
      (u = .drain → drainEnds t) ∧ (u ≠ .boot → (u = .drain → s.peat.drain ≠ none) → t.rd Fld.chkErrStatus.memUe = 1)
    let ctxEnds (eng : Fin 4) (u : CtxUser) (t : State) : Prop :=
      (∀ seq r, u = .felt seq r → feltEnds seq t) ∧ (∀ k, u = .command k → commandEnds k t) ∧ (u = .verify → t.rst.lastStatus = ue) ∧
      (u = .drain → drainEnds t) ∧ ((u = .drain → s.peat.drain ≠ none) → t.rd Fld.chkErrStatus.memUe = 1) ∧
      (u = .software → t.rd (Fld.chkEngStatus.lastStatus eng) = 0x0205 ∧ t.rd (Fld.chkEngStatus.done eng) = 1 ∧ vget t.chk.scans eng true = false)
    (∀ n : Fin 42, s.awake = true → s.present n = true → s.slice n ≠ .closed → DoesThen (.sliceBufferError n) s fun t =>
      t.slice n = .closed ∧ t.rd (Fld.lnkStatus.bufErr n) = 1 ∧ t.rd Fld.ctlErrStatus.eccUe = 1 ∧
      t.rd Fld.ctlEccCounts.uncorrectable = min (s.rd Fld.ctlEccCounts.uncorrectable + 1) 65535 ∧
      (∀ m : Nat, m ≠ n.val → t.slice m = s.slice m) ∧
      Only [.board, .regs, .mem, .log, .slices, .red, .ful, .cut, .sedge, .map, .warden, .syn, .chk, .freeCtr, .outbox] s t ∧
      ((∀ ch, (s.chan ch).running = []) → Changes [.regs, .log, .slices, .freeCtr]
        [Fld.ctlErrStatus.eccUe, Fld.ctlEccCounts.uncorrectable, Fld.ctlErrlog.head, Fld.lnkStatus.bufErr n] s t)) ∧
    (∀ k : Nat, s.served = true → Does (.sramScrubPass k) s fun t =>
      t.rd Fld.ctlEccCounts.corrected = min (s.rd Fld.ctlEccCounts.corrected + k) (2 ^ 32 - 1) ∧
      t.rd Fld.ctlErrStatus.eccCorr = (if s.rd Fld.ctlEccCounts.threshold < k then 1 else s.rd Fld.ctlErrStatus.eccCorr) ∧
      Changes [.regs] [Fld.ctlEccCounts.corrected, Fld.ctlErrStatus.eccCorr] s t) ∧
    (∀ w : W32, s.awake = true →
      let eccFields : List Fld := [Fld.ctlErrStatus.eccUe, Fld.ctlEccCounts.uncorrectable, Fld.ctlErrlog.head]
      let logged (x : Sram) (t : State) : Prop :=
        t.rd Fld.ctlErrStatus.eccUe = 1 ∧ t.rd Fld.ctlEccCounts.uncorrectable = min (s.rd Fld.ctlEccCounts.uncorrectable + 1) 65535 ∧
        (t.log.any fun r => r.kind == 6 && r.detail == fitTo 12 (leBytes 1 (Sram.code x) ++ [1] ++ leBytes 4 w.toNat)) = true
      let acts (x : Sram) (P : State → Prop) : Prop := DoesThen (.sramUncorrectable x w) s fun t => logged x t ∧ P t
      let only (t : State) : Prop := Changes [.regs, .log] eccFields s t
      let cause : BitVec 4 := if s.boot.phase = .booting then 3 else s.boot.failPending
      DoesThen (.sramUncorrectable .coreCode w) s (EngineReset 7 cause s) ∧ DoesThen (.sramUncorrectable .syncState w) s (EngineReset 7 cause s) ∧
      (s.log = [] → acts .logBank only) ∧
      (s.log ≠ [] → acts .logBank fun t => Counted Fld.ctlErrlog.lost s t ∧ t.rd Fld.ctlErrStatus.logLost = 1 ∧
        t.log.length = min 1024 s.log.length ∧ (t.log.tail.all fun r => s.log.contains r) = true ∧
        Changes [.regs, .log, .freeCtr] (eccFields ++ [Fld.ctlErrlog.lost, Fld.ctlErrStatus.logLost]) s t) ∧
      (∀ n : Fin 42, s.present n = true → acts (.sliceBuffer n) fun t => t.slice n = .closed ∧ t.rd (Fld.lnkStatus.bufErr n) = 1 ∧
        ∀ m : Nat, m ≠ n.val → t.slice m = s.slice m) ∧
      (∀ q : Fin 4, ((s.fq q).task = none → acts (.fullingQueue q) only) ∧ ((s.fq q).task ≠ none → acts (.fullingQueue q) (taskAborts q))) ∧
      (∀ (ch : Fin 32) (seq : W32), (s.liveBucket ch seq = none → acts (.tagState ch seq) only) ∧
        (∀ b, s.bucket ch seq = some b → started ch seq b → acts (.tagState ch seq) (bucketAborts ch b)) ∧
        (∀ b, s.liveBucket ch seq = some b → consumed ch seq b → acts (.tagState ch seq) (bucketAborts ch b))) ∧
      (∀ k : Fin 8,
        let others (t : State) : Prop := ∀ j : Fin 8, j ≠ k → t.set j = s.set j
        (acts (.pageTable k true) fun t => t.set k = { s.set k with pages := (s.set k).mirror } ∧ others t ∧ Changes [.regs, .log, .sedge] eccFields s t) ∧
        (acts (.pageTable k false) fun t => t.set k = { st := .lost } ∧ t.rd Fld.tierErrStatus.setLost = 1 ∧ others t ∧
          Changes [.regs, .log, .sedge] (Fld.tierErrStatus.setLost :: eccFields) s t)) ∧
      (∀ k : Fin 128, ∀ c, s.ctx? k = some c → c.finished = false → acts (.commandContext k) fun t => commandAborts k c t ∧
        Changes [.regs, .log, .cmd, .chk] eccFields s t) ∧
      (∀ k : Fin 128, s.ctx? k = none → acts (.commandContext k) fun t => t.cmd = s.cmd) ∧
      (∀ n : Fin 32, (vget s.chk.lanes n none = none → acts (.lane n) only) ∧
        ∀ u, vget s.chk.lanes n none = some u → acts (.lane n) fun t => laneEnds u t ∧
          ((∀ seq r, u = .felt seq r → (s.findCut seq).any (fun c => !c.st.isFinal) = true) → (u = .drain → (s.peat.drain.bind fun d => s.findCut d.seq).isSome = true) →
            vget t.chk.lanes n none ≠ some u)) ∧
      (∀ (eng : Fin 4) (k : Fin 16), (kget s.chk.ctxs (16 * eng.val + k.val) = none → acts (.scanContext eng k) only) ∧
        ∀ u, kget s.chk.ctxs (16 * eng.val + k.val) = some u → acts (.scanContext eng k) (ctxEnds eng u))) ∧
    (∀ addr : BitVec 48, s.awake = true →
      let ends (task : TaskId) (P : State → Prop) : Prop := DoesThen (.memoryReadUncorrectable task addr) s fun t =>
        (t.log.any fun r => r.status == ue && r.detail == leBytes 6 addr.toNat ++ zeros 6) = true ∧ P t
      let idle (task : TaskId) : Prop := DoesThen (.memoryReadUncorrectable task addr) s fun t => t = s
      (∀ (ch : Fin 32) (seq : W32), (s.liveBucket ch seq = none → idle (.bucket ch seq)) ∧
        (∀ b, s.bucket ch seq = some b → started ch seq b → ends (.bucket ch seq) (bucketAborts ch b)) ∧
        (∀ b, s.liveBucket ch seq = some b → consumed ch seq b → ends (.bucket ch seq) (bucketAborts ch b))) ∧
      (s.toLatch = none → idle .recordLatch) ∧
      (s.halted = false → ∀ c, s.toLatch = some c → ends .recordLatch (CutEnded s c .abandoned ue)) ∧
      (s.rst.st ≠ .verify → idle .verify) ∧
      (s.rst.st = .verify → ends .verify fun t => t.rst = { s.rst with lastStatus := ue } ∧ t.rd Fld.chkErrStatus.memUe = 1) ∧
      (∀ tag : BitVec 20,
        (s.rst.sentData.any (fun x => x.1 == tag.toNat) = false → idle (.refill tag)) ∧
        (s.rst.sentData.any (fun x => x.1 == tag.toNat) = true → ends (.refill tag) fun t =>
          t.rst = { s.rst with sentData := s.rst.sentData.filter (fun x => x.1 != tag.toNat) } ∧
          t.outbox.all (fun o => !(o.ty == Ty.refillData && o.frame.tag.toNat == tag.toNat)) = true)) ∧
      (∀ q : Fin 4, ((s.fq q).task = none → idle (.fulling q)) ∧ ((s.fq q).task ≠ none → ends (.fulling q) (taskAborts q))) ∧
      (∀ (l : Fin 32) (seq : W32) (r : Nat), vget s.chk.lanes l none = some (.felt seq r) →
        ends (.feltRegion l) (laneEnds (.felt seq r))) ∧
      (∀ c, s.cut.cuts.find? (fun c => c.sumpRuns && c.st == .opened) = some c → ends .sumpCopy (CutEnded s c .abandoned ue)) ∧
      (s.peat.drain = none → idle .drain) ∧
      (∀ d, s.peat.drain = some d → ∀ c, s.findCut d.seq = some c → ends .drain (DrainFailed c ue)) ∧
      (∀ k : Fin 128, (s.ctx? k = none → idle (.command k)) ∧
        ∀ c, s.ctx? k = some c → c.finished = false → c.abandoned = false → ends (.command k) (commandAborts k c)) ∧
      (∀ n : Fin 4, (vget s.chk.scans n false = false → idle (.scan n)) ∧
        (vget s.chk.scans n false = true → ends (.scan n) fun t =>
          t.rd (Fld.chkEngStatus.lastStatus n) = 0x0205 ∧ t.rd (Fld.chkEngStatus.done n) = 1 ∧ vget t.chk.scans n true = false ∧
          t.rd Fld.chkErrStatus.memUe = 1)))
end

