-- ==== Sys2Proof/Laws/Maps.lean ====
section
/-! SUPPORT. Sparse maps and memories: a read after a write, and the canonical form that every write keeps. -/
namespace Sys2Proof.Machine

variable {α : Type}

/-! ## Entries -/

@[simp] theorem kget_kset_same (m : SMap α) (k : Nat) (v : α) : kget (kset m k v) k = some v := by
  induction m with
  | nil => simp [kset, kget]
  | cons c t ih =>
    obtain ⟨a, w⟩ := c
    simp only [kset]
    split
    · simp [kget]
    · split
      · simp [kget]
      · rename_i h
        simp [kget, h, ih]

theorem kget_kset_other (m : SMap α) {k j : Nat} (v : α) (h : k ≠ j) : kget (kset m k v) j = kget m j := by
  induction m with
  | nil => simp [kset, kget, h]
  | cons c t ih =>
    obtain ⟨a, w⟩ := c
    simp only [kset]
    split
    · simp [kget, h]
    · split
      · rename_i h2
        subst h2
        simp [kget, h]
      · simp [kget, ih]

theorem kget_kdel_other (m : SMap α) {k j : Nat} (h : k ≠ j) : kget (kdel m k) j = kget m j := by
  induction m with
  | nil => simp [kdel]
  | cons c t ih =>
    obtain ⟨a, w⟩ := c
    simp only [kdel]
    split
    · rename_i h2
      subst h2
      simp [kget, h]
    · simp [kget, ih]

/-- Every key of a map is above a number. -/
def above (k : Nat) (m : SMap α) : Bool := m.all (fun c => k < c.1)

theorem rising_cons (a : Nat) (w : α) (t : SMap α) : rising ((a, w) :: t) = true ↔ above a t = true ∧ rising t = true := by
  induction t generalizing a w with
  | nil => simp [rising, above]
  | cons c t ih =>
    obtain ⟨b, x⟩ := c
    simp only [rising, Bool.and_eq_true, decide_eq_true_eq, ih b x, above, List.all_cons, List.all_eq_true]
    constructor
    · rintro ⟨h1, h2, h3⟩
      exact ⟨⟨h1, fun c hc => Nat.lt_trans h1 (h2 c hc)⟩, h2, h3⟩
    · rintro ⟨⟨h1, -⟩, h2, h3⟩
      exact ⟨h1, h2, h3⟩

theorem kget_above {k : Nat} {m : SMap α} (h : above k m = true) : kget m k = none := by
  induction m with
  | nil => rfl
  | cons c t ih =>
    obtain ⟨a, w⟩ := c
    simp only [above, List.all_cons, Bool.and_eq_true, decide_eq_true_eq] at h
    rw [kget, if_neg (by omega)]
    exact ih h.2

theorem kget_kdel_same {m : SMap α} (k : Nat) (h : rising m = true) : kget (kdel m k) k = none := by
  induction m with
  | nil => rfl
  | cons c t ih =>
    obtain ⟨a, w⟩ := c
    obtain ⟨h1, h2⟩ := (rising_cons a w t).1 h
    simp only [kdel]
    split
    · rename_i e
      subst e
      exact kget_above h1
    · rename_i e
      simp [kget, e, ih h2]

/-! ## The canonical form -/

theorem mem_kset {m : SMap α} {k : Nat} {v : α} {c : Nat × α} (h : c ∈ kset m k v) : c = (k, v) ∨ c ∈ m := by
  induction m with
  | nil => simpa [kset] using h
  | cons d t ih =>
    obtain ⟨a, w⟩ := d
    simp only [kset] at h
    split at h
    · simpa using h
    · split at h
      · rcases List.mem_cons.1 h with h | h
        · exact .inl h
        · exact .inr (List.mem_cons_of_mem _ h)
      · rcases List.mem_cons.1 h with h | h
        · exact .inr (h ▸ List.mem_cons_self)
        · rcases ih h with h | h
          · exact .inl h
          · exact .inr (List.mem_cons_of_mem _ h)

theorem mem_kdel {m : SMap α} {k : Nat} {c : Nat × α} (h : c ∈ kdel m k) : c ∈ m := by
  induction m with
  | nil => simp [kdel] at h
  | cons d t ih =>
    obtain ⟨a, w⟩ := d
    simp only [kdel] at h
    split at h
    · exact List.mem_cons_of_mem _ h
    · simp only [List.mem_cons] at h ⊢
      rcases h with h | h
      · exact .inl h
      · exact .inr (ih h)

theorem above_kset {m : SMap α} {a k : Nat} {v : α} (h : above a m = true) (hk : a < k) : above a (kset m k v) = true := by
  simp only [above, List.all_eq_true, decide_eq_true_eq] at h ⊢
  intro c hc
  rcases mem_kset hc with e | e
  · subst e
    exact hk
  · exact h c e

theorem above_kdel {m : SMap α} {a k : Nat} (h : above a m = true) : above a (kdel m k) = true := by
  simp only [above, List.all_eq_true] at h ⊢
  exact fun c hc => h c (mem_kdel hc)

theorem rising_kset {m : SMap α} (k : Nat) (v : α) (h : rising m = true) : rising (kset m k v) = true := by
  induction m with
  | nil => simp [kset, rising]
  | cons c t ih =>
    obtain ⟨a, w⟩ := c
    obtain ⟨h1, h2⟩ := (rising_cons a w t).1 h
    simp only [kset]
    split
    · rename_i hk
      refine (rising_cons _ _ _).2 ⟨?_, h⟩
      simp only [above, List.all_cons, Bool.and_eq_true, decide_eq_true_eq, List.all_eq_true] at h1 ⊢
      exact ⟨hk, fun c hc => Nat.lt_trans hk (h1 c hc)⟩
    · split
      · rename_i hk
        subst hk
        exact (rising_cons _ _ _).2 ⟨h1, h2⟩
      · exact (rising_cons _ _ _).2 ⟨above_kset h1 (by omega), ih h2⟩

theorem rising_kdel {m : SMap α} (k : Nat) (h : rising m = true) : rising (kdel m k) = true := by
  induction m with
  | nil => rfl
  | cons c t ih =>
    obtain ⟨a, w⟩ := c
    obtain ⟨h1, h2⟩ := (rising_cons a w t).1 h
    simp only [kdel]
    split
    · exact h2
    · exact (rising_cons _ _ _).2 ⟨above_kdel h1, ih h2⟩

theorem rising_filter {m : SMap α} (p : Nat × α → Bool) (h : rising m = true) : rising (m.filter p) = true := by
  induction m with
  | nil => rfl
  | cons c t ih =>
    obtain ⟨a, w⟩ := c
    obtain ⟨h1, h2⟩ := (rising_cons a w t).1 h
    rw [List.filter_cons]
    split
    · refine (rising_cons _ _ _).2 ⟨?_, ih h2⟩
      simp only [above, List.all_eq_true, List.mem_filter] at h1 ⊢
      exact fun c hc => h1 c hc.1
    · exact ih h2

/-! ## Memory -/

theorem Memory.wf_nil : Memory.wf [] = true := rfl

/-- Writing a byte keeps the canonical form. -/
theorem Memory.wf_putByte {m : Memory} (a : Nat) (b : Byte) (h : Memory.wf m = true) : Memory.wf (Memory.putByte m a b) = true := by
  simp only [Memory.wf, Bool.and_eq_true, List.all_eq_true] at h ⊢
  unfold Memory.putByte
  split
  · exact ⟨rising_kdel a h.1, fun c hc => h.2 c (mem_kdel hc)⟩
  · rename_i hb
    refine ⟨rising_kset a b h.1, fun c hc => ?_⟩
    rcases mem_kset hc with e | e
    · subst e
      simpa using hb
    · exact h.2 c e

/-- Writing bytes keeps the canonical form. -/
theorem Memory.wf_putBytes {m : Memory} (a : Nat) (bs : List Byte) (h : Memory.wf m = true) : Memory.wf (Memory.putBytes m a bs) = true := by
  induction bs generalizing m a with
  | nil => exact h
  | cons b t ih => exact ih (a + 1) (Memory.wf_putByte a b h)

/-- Erasing bytes keeps the canonical form. -/
theorem Memory.wf_erase {m : Memory} (a n : Nat) (h : Memory.wf m = true) : Memory.wf (Memory.erase m a n) = true := by
  simp only [Memory.wf, Bool.and_eq_true, List.all_eq_true] at h ⊢
  exact ⟨rising_filter _ h.1, fun c hc => h.2 c (List.mem_filter.1 hc).1⟩

/-- A byte reads as it was written. -/
theorem Memory.byteAt_putByte_same {m : Memory} (a : Nat) (b : Byte) (h : rising m = true) : Memory.byteAt (Memory.putByte m a b) a = b := by
  unfold Memory.byteAt Memory.putByte
  split
  · rename_i e
    simp [kget_kdel_same a h, e]
  · simp

/-- A write of a byte leaves every other byte. -/
theorem Memory.byteAt_putByte_other (m : Memory) {a c : Nat} (b : Byte) (h : a ≠ c) :
    Memory.byteAt (Memory.putByte m a b) c = Memory.byteAt m c := by
  unfold Memory.byteAt Memory.putByte
  split
  · rw [kget_kdel_other m h]
  · rw [kget_kset_other m b h]

/-- A write of bytes leaves every byte outside them. -/
theorem Memory.byteAt_putBytes_outside (m : Memory) (a c : Nat) (bs : List Byte) (h : c < a ∨ a + bs.length ≤ c) :
    Memory.byteAt (Memory.putBytes m a bs) c = Memory.byteAt m c := by
  induction bs generalizing m a with
  | nil => rfl
  | cons b t ih =>
    simp only [List.length_cons] at h
    rw [Memory.putBytes, ih _ _ (by omega), Memory.byteAt_putByte_other _ _ (by omega)]

theorem rising_putByte {m : Memory} (a : Nat) (b : Byte) (h : rising m = true) : rising (Memory.putByte m a b) = true := by
  unfold Memory.putByte
  split
  · exact rising_kdel a h
  · exact rising_kset a b h

/-- Bytes read as they were written. -/
theorem Memory.bytesAt_putBytes_same {m : Memory} (a : Nat) (bs : List Byte) (h : rising m = true) :
    Memory.bytesAt (Memory.putBytes m a bs) a bs.length = bs := by
  induction bs generalizing m a with
  | nil => rfl
  | cons b t ih =>
    rw [Memory.putBytes, List.length_cons, Memory.bytesAt, ih _ (rising_putByte a b h),
      Memory.byteAt_putBytes_outside _ _ _ _ (by omega), Memory.byteAt_putByte_same a b h]

end Sys2Proof.Machine
end

