-- ==== Sys2Proof/Laws/Regs.lean ====
section
/-! SUPPORT. Registers and their fields: a field reads as it was written, a write leaves every other bit, and the stored registers keep
their canonical form. -/
namespace Sys2Proof.Machine

/-! ## Fields of a number -/

theorem putBits_split (w lo len v : Nat) :
    putBits w lo len v = 2 ^ lo * (2 ^ len * (w >>> lo >>> len) + v % 2 ^ len) + w % 2 ^ lo := by
  have h1 : w = 2 ^ lo * (w >>> lo) + w % 2 ^ lo := by rw [Nat.shiftRight_eq_div_pow]; exact (Nat.div_add_mod w _).symm
  have h2 : w >>> lo = 2 ^ len * (w >>> lo >>> len) + (w >>> lo) % 2 ^ len := by
    rw [Nat.shiftRight_eq_div_pow (w >>> lo)]; exact (Nat.div_add_mod (w >>> lo) _).symm
  unfold putBits bits
  generalize w >>> lo = x at *
  generalize x >>> len = y at *
  have h3 : 2 ^ lo * x = 2 ^ lo * (2 ^ len * y) + x % 2 ^ len * 2 ^ lo := by
    conv => lhs; rw [h2]
    rw [Nat.mul_add, Nat.mul_comm (x % 2 ^ len)]
  rw [Nat.mul_add, Nat.mul_comm (2 ^ lo) (v % 2 ^ len)]
  omega

/-- Bit by bit: the field takes the value's bits, every other bit stays. -/
theorem testBit_putBits (w lo len v i : Nat) :
    (putBits w lo len v).testBit i = if lo ≤ i ∧ i < lo + len then v.testBit (i - lo) else w.testBit i := by
  rw [putBits_split, Nat.testBit_two_pow_mul_add _ (Nat.mod_lt _ (Nat.two_pow_pos _))]
  split
  · rename_i h
    rw [if_neg (by omega), Nat.testBit_mod_two_pow]
    simp [h]
  · rename_i h
    rw [Nat.testBit_two_pow_mul_add _ (Nat.mod_lt _ (Nat.two_pow_pos _))]
    split
    · rename_i h2
      rw [if_pos (by omega), Nat.testBit_mod_two_pow]
      simp [h2]
    · rename_i h2
      rw [if_neg (by omega), Nat.testBit_shiftRight, Nat.testBit_shiftRight]
      congr 1
      omega

theorem testBit_bits (w lo len i : Nat) : (bits w lo len).testBit i = (decide (i < len) && w.testBit (lo + i)) := by
  rw [bits, Nat.testBit_mod_two_pow, Nat.testBit_shiftRight]

/-- A field reads as it was written. -/
theorem bits_putBits_same (w lo len v : Nat) : bits (putBits w lo len v) lo len = v % 2 ^ len := by
  apply Nat.eq_of_testBit_eq
  intro i
  rw [testBit_bits, testBit_putBits, Nat.testBit_mod_two_pow]
  by_cases h : i < len
  · rw [if_pos (by omega)]
    simp [h]
  · simp [h]

/-- A write of a field leaves a field that it does not meet. -/
theorem bits_putBits_apart (w lo len v lo' len' : Nat) (h : lo' + len' ≤ lo ∨ lo + len ≤ lo') :
    bits (putBits w lo len v) lo' len' = bits w lo' len' := by
  apply Nat.eq_of_testBit_eq
  intro i
  rw [testBit_bits, testBit_putBits, testBit_bits]
  by_cases hi : i < len'
  · rw [if_neg (by omega)]
  · simp [hi]

theorem bits_lt (w lo len : Nat) : bits w lo len < 2 ^ len := Nat.mod_lt _ (Nat.two_pow_pos _)

/-! ## Registers -/

theorem rising_of_regsWf {m : SMap W64} (h : regsWf m = true) : rising m = true := by
  simp only [regsWf, Bool.and_eq_true] at h
  exact h.1

/-- A write of a register keeps the canonical form. -/
theorem regsWf_setReg {s : State} (off : Nat) (v : W64) (h : regsWf s.regs = true) : regsWf (s.setReg off v).regs = true := by
  simp only [regsWf, Bool.and_eq_true, List.all_eq_true] at h ⊢
  unfold State.setReg
  dsimp only
  split
  · exact ⟨rising_kdel off h.1, fun c hc => h.2 c (mem_kdel hc)⟩
  · rename_i hv
    refine ⟨rising_kset off v h.1, fun c hc => ?_⟩
    rcases mem_kset hc with e | e
    · subst e
      simpa using hv
    · exact h.2 c e

/-- A register reads as it was written. -/
theorem getReg_setReg_same {s : State} (off : Nat) (v : W64) (h : rising s.regs = true) : (s.setReg off v).getReg off = v := by
  unfold State.setReg State.getReg
  dsimp only
  split
  · rename_i e
    simp [kget_kdel_same off h, e]
  · simp

/-- A write of a register leaves every other register. -/
theorem getReg_setReg_other (s : State) {off off' : Nat} (v : W64) (h : off ≠ off') : (s.setReg off v).getReg off' = s.getReg off' := by
  unfold State.setReg State.getReg
  dsimp only
  split
  · rw [kget_kdel_other _ h]
  · rw [kget_kset_other _ _ h]

/-- A field reads as it was written. -/
theorem rd_wr_same {s : State} (f : Fld) (v : Nat) (h : rising s.regs = true) (hf : f.lo + f.len ≤ 64) : (s.wr f v).rd f = v % 2 ^ f.len := by
  unfold State.wr State.rd
  rw [getReg_setReg_same _ _ h, BitVec.toNat_ofNat]
  apply Nat.eq_of_testBit_eq
  intro i
  rw [testBit_bits, Nat.testBit_mod_two_pow, testBit_putBits, Nat.testBit_mod_two_pow]
  by_cases hi : i < f.len
  · rw [if_pos (by omega)]
    simp [hi, show f.lo + i < 64 by omega]
  · simp [hi]

/-- A write of a field leaves every bit outside it. -/
theorem getReg_wr_bit {s : State} (f : Fld) (v off i : Nat) (h : rising s.regs = true) (hi : ¬ (f.off = off ∧ f.lo ≤ i ∧ i < f.lo + f.len)) :
    ((s.wr f v).getReg off).getLsbD i = (s.getReg off).getLsbD i := by
  unfold State.wr
  by_cases e : f.off = off
  · subst e
    rw [getReg_setReg_same _ _ h, BitVec.getLsbD, BitVec.toNat_ofNat, Nat.testBit_mod_two_pow, testBit_putBits,
      if_neg (fun h => hi ⟨rfl, h.1, h.2⟩), BitVec.getLsbD]
    by_cases h64 : i < 64
    · simp [h64]
    · simp only [h64, decide_false, Bool.false_and]
      exact (BitVec.getLsbD_of_ge _ i (Nat.le_of_not_lt h64)).symm
  · rw [getReg_setReg_other _ _ e]

/-- A write of a field leaves a field that it does not meet. -/
theorem rd_wr_apart {s : State} (f g : Fld) (v : Nat) (h : rising s.regs = true)
    (hg : f.off ≠ g.off ∨ g.lo + g.len ≤ f.lo ∨ f.lo + f.len ≤ g.lo) : (s.wr f v).rd g = s.rd g := by
  unfold State.rd
  apply Nat.eq_of_testBit_eq
  intro i
  rw [testBit_bits, testBit_bits]
  by_cases hi : i < g.len
  · have := getReg_wr_bit (s := s) f v g.off (g.lo + i) h (by omega)
    simp only [BitVec.getLsbD] at this
    rw [this]
  · simp [hi]

theorem regsWf_wr {s : State} (f : Fld) (v : Nat) (h : regsWf s.regs = true) : regsWf (s.wr f v).regs = true := regsWf_setReg _ _ h

end Sys2Proof.Machine
end

