-- ==== Sys2Proof/Laws/KeepFields.lean ====
section
/-! SUPPORT. The register fields that operations write, numbered. -/
namespace Sys2Proof.Machine

/-- Fields at the offsets `base + j * stride`: lowest bit and width. -/
structure FieldPat where
  base : Nat
  stride : Nat
  lo : Nat
  len : Nat
deriving DecidableEq, Repr

/-- A bit of a register lies in a field of a pattern; the pattern of width 0 stands for every bit of every register. -/
def FieldPat.Hit (p : FieldPat) (off i : Nat) : Prop := p.len = 0 ∨ (∃ j, off = p.base + j * p.stride) ∧ p.lo ≤ i ∧ i < p.lo + p.len

def fieldPats0 : List FieldPat := [
  .mk 0 0 0 0,
  .mk 0xA0018 0x0 0 32,
  .mk 0xA0018 0x0 32 32,
  .mk 0xA1020 0x40 0 64,
  .mk 0xA1028 0x40 1 1,
  .mk 0xA1028 0x40 16 16,
  .mk 0xA0010 0x0 3 1,
  .mk 0xA0010 0x0 2 1,
  .mk 0xA0010 0x0 0 1,
  .mk 0xA0010 0x0 1 1,
  .mk 0x90028 0x0 0 32,
  .mk 0x90028 0x0 32 16,
  .mk 0x90028 0x0 48 16,
  .mk 0x90020 0x0 1 1,
  .mk 0x90020 0x0 2 1,
  .mk 0x90020 0x0 3 1,
  .mk 0x90020 0x0 0 1,
  .mk 0x91000 0x200 0 1,
  .mk 0x91020 0x200 0 12,
  .mk 0x91018 0x200 0 12,
  .mk 0x428 0x0 32 32,
  .mk 0x428 0x0 0 32,
  .mk 0x448 0x0 2 1,
  .mk 0x448 0x0 1 1,
  .mk 0x448 0x0 4 1,
  .mk 0x448 0x0 0 1,
  .mk 0x448 0x0 3 1,
  .mk 0x18 0x0 8 4,
  .mk 0x18 0x0 5 2,
  .mk 0x18 0x0 13 1,
  .mk 0x18 0x0 4 1,
  .mk 0x18 0x0 12 1,
  .mk 0x18 0x0 14 1,
  .mk 0x420 0x0 16 16,
  .mk 0x420 0x0 1 1,
  .mk 0x420 0x0 4 1,
  .mk 0x420 0x0 3 1,
  .mk 0x420 0x0 2 1,
  .mk 0x420 0x0 0 1,
  .mk 0x420 0x0 7 1]

def fieldPats1 : List FieldPat := [
  .mk 0x420 0x0 5 1,
  .mk 0x420 0x0 6 1,
  .mk 0x450 0x0 0 32,
  .mk 0x450 0x0 32 16,
  .mk 0x460 0x0 26 16,
  .mk 0x460 0x0 17 2,
  .mk 0x460 0x0 19 7,
  .mk 0x440 0x0 0 1,
  .mk 0x440 0x0 3 1,
  .mk 0x440 0x0 1 1,
  .mk 0x440 0x0 2 1,
  .mk 0x440 0x0 7 1,
  .mk 0x440 0x0 4 1,
  .mk 0x440 0x0 6 1,
  .mk 0x458 0x0 0 16,
  .mk 0x458 0x0 16 16,
  .mk 0x20 0x0 3 1,
  .mk 0x20 0x0 32 32,
  .mk 0x20 0x0 8 16,
  .mk 0x10 0x0 2 1,
  .mk 0x418 0x0 0 12,
  .mk 0x418 0x0 22 10,
  .mk 0x418 0x0 12 10,
  .mk 0x410 0x0 16 12,
  .mk 0x410 0x0 0 12,
  .mk 0x410 0x0 12 4,
  .mk 0x410 0x0 52 12,
  .mk 0x410 0x0 38 11,
  .mk 0x410 0x0 49 3,
  .mk 0x410 0x0 28 10,
  .mk 0x30050 0x0 32 32,
  .mk 0x30050 0x0 0 32,
  .mk 0x30038 0x0 1 1,
  .mk 0x30038 0x0 0 1,
  .mk 0x30038 0x0 2 1,
  .mk 0x30038 0x0 3 1,
  .mk 0x30038 0x0 4 1,
  .mk 0x30038 0x0 5 1,
  .mk 0x30040 0x0 0 48,
  .mk 0x30040 0x0 48 2]

def fieldPats2 : List FieldPat := [
  .mk 0x30040 0x0 63 1,
  .mk 0x30080 0x0 8 4,
  .mk 0x30080 0x0 0 4,
  .mk 0x20000 0x100 0 1,
  .mk 0x20018 0x100 32 16,
  .mk 0x20018 0x100 48 16,
  .mk 0x20018 0x100 0 32,
  .mk 0x20020 0x100 0 48,
  .mk 0x20020 0x100 48 16,
  .mk 0x20008 0x100 6 1,
  .mk 0x50008 0x0 28 20,
  .mk 0x50008 0x0 0 4,
  .mk 0x50000 0x0 1 1,
  .mk 0x50068 0x0 7 1,
  .mk 0x50068 0x0 0 1,
  .mk 0x50068 0x0 2 1,
  .mk 0x50068 0x0 3 1,
  .mk 0x50068 0x0 5 1,
  .mk 0x50068 0x0 1 1,
  .mk 0x50068 0x0 4 1,
  .mk 0x50068 0x0 6 1,
  .mk 0x50028 0x0 0 48,
  .mk 0x50070 0x0 0 48,
  .mk 0x50030 0x0 0 64,
  .mk 0x50038 0x0 0 64,
  .mk 0x50060 0x0 32 32,
  .mk 0x50060 0x0 11 1,
  .mk 0x50060 0x0 12 8,
  .mk 0x50060 0x0 0 8,
  .mk 0x50060 0x0 8 3,
  .mk 0x50040 0x8 49 1,
  .mk 0x11028 0x40 1 7,
  .mk 0x11000 0x40 0 1,
  .mk 0x11000 0x40 15 7,
  .mk 0x11000 0x40 22 7,
  .mk 0x11008 0x40 36 6,
  .mk 0x11008 0x40 0 36,
  .mk 0x11030 0x40 2 17,
  .mk 0x11030 0x40 19 17,
  .mk 0x11030 0x40 36 17]

def fieldPats3 : List FieldPat := [
  .mk 0x10038 0x0 32 32,
  .mk 0x10038 0x0 0 32,
  .mk 0x10020 0x0 7 1,
  .mk 0x10020 0x0 5 1,
  .mk 0x10020 0x0 2 1,
  .mk 0x10020 0x0 1 1,
  .mk 0x10020 0x0 0 1,
  .mk 0x10020 0x0 3 1,
  .mk 0x10020 0x0 4 1,
  .mk 0x10020 0x0 6 1,
  .mk 0x10028 0x0 48 5,
  .mk 0x10028 0x0 0 48,
  .mk 0x10028 0x0 63 1,
  .mk 0x10040 0x0 42 22,
  .mk 0x60000 0x0 16 4,
  .mk 0x60000 0x0 0 4,
  .mk 0x70038 0x0 0 16,
  .mk 0x70038 0x0 32 16,
  .mk 0x70038 0x0 48 16,
  .mk 0x70038 0x0 16 16,
  .mk 0x70040 0x0 3 3,
  .mk 0x70030 0x0 26 2,
  .mk 0x70030 0x0 16 10,
  .mk 0x70030 0x0 28 1,
  .mk 0x70030 0x0 0 16,
  .mk 0x70030 0x0 63 1,
  .mk 0x70028 0x0 7 1,
  .mk 0x70028 0x0 6 1,
  .mk 0x70028 0x0 3 1,
  .mk 0x70028 0x0 1 1,
  .mk 0x70028 0x0 0 1,
  .mk 0x70028 0x0 8 1,
  .mk 0x70028 0x0 2 1,
  .mk 0x70028 0x0 5 1,
  .mk 0x70028 0x0 4 1,
  .mk 0x70020 0x0 48 16,
  .mk 0x73500 0x8 2 6,
  .mk 0x73500 0x8 0 2,
  .mk 0x73500 0x8 8 7,
  .mk 0x73500 0x8 15 10]

def fieldPats4 : List FieldPat := [
  .mk 0x48088 0x0 32 16,
  .mk 0x48088 0x0 0 16,
  .mk 0x48088 0x0 16 16,
  .mk 0x48088 0x0 48 16,
  .mk 0x48000 0x0 0 1,
  .mk 0x48080 0x0 1 1,
  .mk 0x48080 0x0 6 1,
  .mk 0x48080 0x0 3 1,
  .mk 0x48080 0x0 2 1,
  .mk 0x48080 0x0 0 1,
  .mk 0x48080 0x0 4 1,
  .mk 0x48080 0x0 5 1,
  .mk 0x48060 0x0 0 8,
  .mk 0x48078 0x0 0 8,
  .mk 0x48078 0x0 10 1,
  .mk 0x48078 0x0 9 1,
  .mk 0x48078 0x0 8 1,
  .mk 0x48050 0x0 2 17,
  .mk 0x48050 0x0 19 17,
  .mk 0x48050 0x0 36 17,
  .mk 0x40080 0x0 2 1,
  .mk 0x40080 0x0 0 1,
  .mk 0x40080 0x0 1 1,
  .mk 0x40080 0x0 3 1,
  .mk 0x40008 0x0 8 6,
  .mk 0x40008 0x0 0 7,
  .mk 0x40010 0x0 36 6,
  .mk 0x40010 0x0 0 36,
  .mk 0x49000 0x0 0 8,
  .mk 0x49000 0x0 8 4,
  .mk 0x40018 0x0 42 7,
  .mk 0x40018 0x0 32 10,
  .mk 0x40018 0x0 0 32,
  .mk 0x40078 0x0 32 32,
  .mk 0x40040 0x8 11 7,
  .mk 0x40030 0x0 10 7,
  .mk 0x49038 0x0 16 16,
  .mk 0x49038 0x0 0 16,
  .mk 0x49038 0x0 32 16,
  .mk 0x49038 0x0 48 16]

def fieldPats5 : List FieldPat := [
  .mk 0x49030 0x0 0 1,
  .mk 0x49030 0x0 5 1,
  .mk 0x49030 0x0 3 1,
  .mk 0x49030 0x0 4 1,
  .mk 0x49030 0x0 6 1,
  .mk 0x49030 0x0 8 1,
  .mk 0x49030 0x0 7 1,
  .mk 0x49030 0x0 2 1,
  .mk 0x49030 0x0 1 1,
  .mk 0x40068 0x0 32 16,
  .mk 0x40068 0x0 0 32,
  .mk 0x49040 0x0 32 32,
  .mk 0x80000 0x0 16 16,
  .mk 0x80018 0x0 0 48,
  .mk 0xA1010 0x40 0 64,
  .mk 0x91000 0x200 0 64,
  .mk 0x30048 0x0 0 64,
  .mk 0x30080 0x0 0 64,
  .mk 0x31000 0x40 0 64,
  .mk 0x30008 0x0 0 64,
  .mk 0x20008 0x100 0 64,
  .mk 0x50000 0x0 0 64,
  .mk 0x50040 0x8 0 64,
  .mk 0x11028 0x40 0 64,
  .mk 0x11000 0x40 0 64,
  .mk 0x11010 0x40 0 64,
  .mk 0x11020 0x40 0 64,
  .mk 0x11008 0x40 0 64,
  .mk 0x11030 0x40 0 64,
  .mk 0x11018 0x40 0 64,
  .mk 0x10030 0x0 0 64,
  .mk 0x10008 0x0 0 64,
  .mk 0x60000 0x0 0 64,
  .mk 0x73000 0x40 0 64,
  .mk 0x70000 0x0 0 64,
  .mk 0x70040 0x0 0 64,
  .mk 0x48000 0x0 0 64,
  .mk 0x48070 0x0 0 64,
  .mk 0x40040 0x8 0 64,
  .mk 0x80000 0x0 0 64]

/-- Number 0 stands for everything. -/
def fieldPats : List FieldPat := fieldPats0 ++ fieldPats1 ++ fieldPats2 ++ fieldPats3 ++ fieldPats4 ++ fieldPats5

end Sys2Proof.Machine
end

