-- ==== Sys2Proof/Laws/Keep.lean ====
section
/-! SUPPORT. What an operation can do, said once for each: it keeps the invariant, and touches only the components and register fields named.
Here are the relation and its rules; the files beside this one hold one lemma per operation. -/
namespace Sys2Proof.Machine

/-! ## Bits of registers -/

/-- A bit lies in one of the patterns whose numbers are set in a mask. -/
def Cov (m off i : Nat) : Prop := ∃ k p, m.testBit k = true ∧ fieldPats[k]? = some p ∧ p.Hit off i

/-- A field lies within the patterns of a mask. -/
def Has (m : Nat) (f : Fld) : Prop := ∀ i, f.lo ≤ i → i < f.lo + f.len → Cov m f.off i

/-- A whole register lies within the patterns of a mask. -/
def HasReg (m off : Nat) : Prop := ∀ i, i < 64 → Cov m off i

/-- What an operation may change: components, and the fields of registers whose numbers are set in a mask. -/
abbrev Touch : Type := List Component × Nat

/-- Every component and every field of one list is in another. -/
def sub (qs ps : Touch) : Bool := qs.1.all (fun q => ps.1.contains q) && (qs.2 &&& ps.2) == qs.2

/-- Every bit of a register is unchanged but those in the patterns of a mask. -/
def BitsBut (m : Nat) (s t : State) : Prop := ∀ off i : Nat, Cov m off i ∨ (t.getReg off).getLsbD i = (s.getReg off).getLsbD i

theorem Cov.mono {m n off i : Nat} (h : (m &&& n) = m) (c : Cov m off i) : Cov n off i := by
  obtain ⟨k, p, hk, hp, hi⟩ := c
  refine ⟨k, p, ?_, hp, hi⟩
  rw [← h, Nat.testBit_and] at hk
  simp_all

theorem cov_all (off i : Nat) : Cov 1 off i := ⟨0, ⟨0, 0, 0, 0⟩, rfl, rfl, .inl rfl⟩
theorem has_all (f : Fld) : Has 1 f := fun _ _ _ => cov_all _ _
theorem hasReg_all (off : Nat) : HasReg 1 off := fun _ _ => cov_all _ _

theorem has_of {m : Nat} {f : Fld} (k : Nat) (p : FieldPat) (j : Nat) (hm : m.testBit k = true) (hp : fieldPats[k]? = some p)
    (ho : f.off = p.base + j * p.stride) (hl : p.lo ≤ f.lo) (hh : f.lo + f.len ≤ p.lo + p.len) : Has m f := fun _ h1 h2 =>
  ⟨k, p, hm, hp, .inr ⟨⟨j, ho⟩, Nat.le_trans hl h1, Nat.lt_of_lt_of_le h2 hh⟩⟩

theorem hasReg_of {m off : Nat} (k : Nat) (p : FieldPat) (j : Nat) (hm : m.testBit k = true) (hp : fieldPats[k]? = some p)
    (ho : off = p.base + j * p.stride) (hl : p.lo = 0) (hh : p.len = 64) : HasReg m off := fun i h =>
  ⟨k, p, hm, hp, .inr ⟨⟨j, ho⟩, by omega, by omega⟩⟩

/-! ## The relation -/

/-- The invariant is kept, and only some components and register fields change. -/
structure Keep (ps : Touch) (s t : State) : Prop where
  inv : s.Inv → t.Inv
  only : Only ps.1 s t
  bits : s.Inv → BitsBut ps.2 s t

variable {ps qs : Touch} {s t u : State}

theorem Only.refl (ps : List Component) (s : State) : Only ps s s := fun p => .inr (by cases p <;> rfl)

theorem Component.same_trans {p : Component} (h1 : p.same s t) (h2 : p.same t u) : p.same s u := by
  cases p <;> exact Eq.trans h2 h1

theorem sub_self (ps : Touch) : sub ps ps = true := by simp [sub]

theorem and_or_left (a b : Nat) : (a &&& (a ||| b)) = a := Nat.eq_of_testBit_eq (fun i => by
  rw [Nat.testBit_and, Nat.testBit_or]
  cases a.testBit i <;> rfl)

theorem sub_trans {rs : Touch} (h1 : sub qs ps = true) (h2 : sub ps rs = true) : sub qs rs = true := by
  simp only [sub, Bool.and_eq_true, beq_iff_eq, List.all_eq_true, List.contains_iff_mem] at *
  refine ⟨fun p hp => h2.1 p (h1.1 p hp), ?_⟩
  rw [← h1.2, Nat.and_assoc, h2.2]

theorem sub_comps (h : sub qs ps = true) : qs.1.all (fun q => ps.1.contains q) = true := by
  simp only [sub, Bool.and_eq_true] at h
  exact h.1

theorem sub_mem (h : sub qs ps = true) {p : Component} (hp : p ∈ qs.1) : p ∈ ps.1 := by
  have := List.all_eq_true.1 (sub_comps h) p hp
  simpa using this

theorem sub_mask (h : sub qs ps = true) : (qs.2 &&& ps.2) = qs.2 := by
  simp only [sub, Bool.and_eq_true, beq_iff_eq] at h
  exact h.2

theorem Only.step {ps qs : List Component} (h2 : Only qs t u) (hs : ∀ p ∈ qs, p ∈ ps) (h1 : Only ps s t) : Only ps s u := fun p =>
  match h1 p, h2 p with
  | .inl a, _ => .inl a
  | _, .inl b => .inl (hs p b)
  | .inr a, .inr b => .inr (Component.same_trans a b)

theorem BitsBut.refl (m : Nat) (s : State) : BitsBut m s s := fun _ _ => .inr rfl

theorem BitsBut.of_regs {s t : State} (m : Nat) (h : t.regs = s.regs) : BitsBut m s t := fun off _ => .inr (by unfold State.getReg; rw [h])

theorem BitsBut.step {m n : Nat} (h2 : BitsBut n t u) (hs : (n &&& m) = n) (h1 : BitsBut m s t) : BitsBut m s u := fun off i =>
  match h1 off i, h2 off i with
  | .inl a, _ => .inl a
  | _, .inl b => .inl (b.mono hs)
  | .inr a, .inr b => .inr (b.trans a)

theorem Keep.refl (ps : Touch) (s : State) : Keep ps s s := ⟨id, Only.refl ps.1 s, fun _ => BitsBut.refl _ _⟩

theorem Keep.id (ps : Touch) (s : State) : Keep ps s (id s) := Keep.refl ps s

/-- One more operation. -/
theorem Keep.step (h2 : Keep qs t u) (hs : sub qs ps = true) (h1 : Keep ps s t) : Keep ps s u :=
  ⟨fun h => h2.inv (h1.inv h), h2.only.step (fun _ => sub_mem hs) h1.only, fun h => (h2.bits (h1.inv h)).step (sub_mask hs) (h1.bits h)⟩

theorem Keep.ite {c : Prop} [Decidable c] (h1 : Keep ps s t) (h2 : Keep ps s u) : Keep ps s (if c then t else u) := by
  split
  · exact h1
  · exact h2

theorem Keep.foldl {α : Type} {g : State → α → State} {l : List α} (h : Keep ps s t) (hg : ∀ t a, Keep ps t (g t a)) :
    Keep ps s (l.foldl g t) := by
  induction l generalizing t with
  | nil => exact h
  | cons a l ih => exact ih (Keep.step (hg t a) (sub_self ps) h)

theorem Keep.foldl_fst {α β : Type} {g : State × β → α → State × β} {l : List α} {p : State × β} (h : Keep ps s p.1)
    (hg : ∀ p a, Keep ps p.1 (g p a).1) : Keep ps s (l.foldl g p).1 := by
  induction l generalizing p with
  | nil => exact h
  | cons a l ih => exact ih (Keep.step (hg p a) (sub_self ps) h)

theorem Keep.foldl_snd {α β : Type} {g : β × State → α → β × State} {l : List α} {p : β × State} (h : Keep ps s p.2)
    (hg : ∀ p a, Keep ps p.2 (g p a).2) : Keep ps s (l.foldl g p).2 := by
  induction l generalizing p with
  | nil => exact h
  | cons a l ih => exact ih (Keep.step (hg p a) (sub_self ps) h)

theorem Keep.of_fst {α : Type} {p : State × α} {a : α} (h : p = (t, a)) (k : Keep ps s p.1) : Keep ps s t := by rwa [h] at k

theorem Keep.of_snd {α : Type} {p : α × State} {a : α} (h : p = (a, t)) (k : Keep ps s p.2) : Keep ps s t := by rwa [h] at k

/-- The same of an outcome: it is a next state. -/
def OutKeep (ps : Touch) (s : State) (o : Out) : Prop := ∃ t, o = .next t ∧ Keep ps s t

theorem OutKeep.next (h : Keep ps s t) : OutKeep ps s (.next t) := ⟨t, rfl, h⟩

theorem OutKeep.ite {c : Prop} [Decidable c] {a b : Out} (h1 : OutKeep ps s a) (h2 : OutKeep ps s b) : OutKeep ps s (if c then a else b) := by
  split
  · exact h1
  · exact h2

theorem OutKeep.mono {o : Out} (h : OutKeep qs s o) (hs : sub qs ps = true) : OutKeep ps s o :=
  let ⟨t, e, k⟩ := h
  ⟨t, e, Keep.step k hs (Keep.refl ps s)⟩

/-! ## Fields that an operation leaves -/

/-- A field meets none of the patterns of a mask. -/
def apart (m : Nat) (f : Fld) : Bool :=
  (List.range fieldPats.length).all fun k => !m.testBit k ||
    match fieldPats[k]? with
    | none => true
    | some p =>
      p.len != 0 && (f.lo + f.len ≤ p.lo || p.lo + p.len ≤ f.lo || (if p.stride = 0 then f.off != p.base else f.off < p.base || (f.off - p.base) % p.stride != 0))

theorem not_cov_of_apart {m i : Nat} {f : Fld} (h : apart m f = true) (h1 : f.lo ≤ i) (h2 : i < f.lo + f.len) : ¬ Cov m f.off i := by
  rintro ⟨k, p, hk, hp, hi⟩
  have hlt : k < fieldPats.length := by
    by_contra hn
    rw [List.getElem?_eq_none (by omega)] at hp
    cases hp
  have := List.all_eq_true.1 h k (List.mem_range.2 hlt)
  simp only [hk, Bool.not_true, Bool.false_or, hp, Bool.and_eq_true, bne_iff_ne, ne_eq, Bool.or_eq_true, decide_eq_true_eq] at this
  obtain ⟨h0, h3⟩ := this
  rcases hi with hi | ⟨⟨j, hj⟩, h4, h5⟩
  · exact h0 hi
  · rcases h3 with (h3 | h3) | h3
    · omega
    · omega
    · split at h3
      · rename_i e
        rw [e, Nat.mul_zero, Nat.add_zero] at hj
        simp [hj] at h3
      · rename_i e
        rw [hj] at h3
        simp at h3

/-- A field that meets none of the patterns reads as before. -/
theorem BitsBut.rd {m : Nat} (h : BitsBut m s t) {f : Fld} (hf : apart m f = true) : t.rd f = s.rd f := by
  unfold State.rd
  apply Nat.eq_of_testBit_eq
  intro i
  rw [testBit_bits, testBit_bits]
  by_cases hi : i < f.len
  · have := (h f.off (f.lo + i)).resolve_left (not_cov_of_apart hf (by omega) (by omega))
    simp only [BitVec.getLsbD] at this
    rw [this]
  · simp [hi]

theorem Keep.rd (h : Keep ps s t) (hs : s.Inv) {f : Fld} (hf : apart ps.2 f = true) : t.rd f = s.rd f := (h.bits hs).rd hf

/-! ## Writes of registers -/

theorem inv_regs (s : State) (v : SMap W64) (h : s.Inv) (hv : regsWf v = true) : State.Inv { s with regs := v } :=
  ⟨hv, h.2, h.3, h.4, h.5, h.6, h.7⟩

theorem only_regs (s : State) (v : SMap W64) : Only [.regs] s { s with regs := v } := fun p => by
  cases p <;> first | exact .inr rfl | exact .inl (by decide)

theorem State.wr_keep {m : Nat} {f : Fld} (hf : Has m f) (s : State) (v : Nat) : Keep ([.regs], m) s (s.wr f v) :=
  ⟨fun h => inv_regs s _ h (regsWf_wr f v h.regs), only_regs s _, fun h off i => by
    by_cases e : f.off = off ∧ f.lo ≤ i ∧ i < f.lo + f.len
    · obtain ⟨e1, e2, e3⟩ := e
      subst e1
      exact .inl (hf i e2 e3)
    · exact .inr (getReg_wr_bit f v off i (rising_of_regsWf h.regs) e)⟩

theorem State.setReg_keep {m off : Nat} (hf : HasReg m off) (s : State) (v : W64) : Keep ([.regs], m) s (s.setReg off v) :=
  ⟨fun h => inv_regs s _ h (regsWf_setReg off v h.regs), only_regs s _, fun _ o i => by
    by_cases e : off = o
    · subst e
      by_cases hi : i < 64
      · exact .inl (hf i hi)
      · exact .inr (by rw [BitVec.getLsbD_of_ge _ _ (by omega), BitVec.getLsbD_of_ge _ _ (by omega)])
    · exact .inr (by rw [getReg_setReg_other s v e])⟩

theorem State.wrB_keep {m : Nat} {f : Fld} (hf : Has m f) (s : State) (b : Bool) : Keep ([.regs], m) s (s.wrB f b) := State.wr_keep hf s _
theorem State.bump_keep {m : Nat} {f : Fld} (hf : Has m f) (s : State) (n : Nat) : Keep ([.regs], m) s (s.bump f n) := State.wr_keep hf s _
theorem State.count_keep {m : Nat} {f : Fld} (hf : Has m f) (s : State) : Keep ([.regs], m) s (s.count f) := State.wr_keep hf s _
theorem State.raise_keep {m : Nat} {f : Fld} (hf : Has m f) (s : State) : Keep ([.regs], m) s (s.raise f) := State.wr_keep hf s _
theorem State.clearBit_keep {m : Nat} {f : Fld} (hf : Has m f) (s : State) (k : Nat) : Keep ([.regs], m) s (s.clearBit f k) := State.wr_keep hf s _
theorem State.raiseIf_keep {m : Nat} {f : Fld} (hf : Has m f) (s : State) (c : Bool) : Keep ([.regs], m) s (s.raiseIf c f) := by
  unfold State.raiseIf
  split
  · exact State.raise_keep hf s
  · exact Keep.refl _ _
theorem State.rename_keep {m : Nat} {f : Fld} (hf : Has m f) (s : State) (a b : Nat) : Keep ([.regs], m) s (s.rename f a b) := by
  unfold State.rename
  split
  · exact State.wr_keep hf s _
  · exact Keep.refl _ _

/-! ## Updates of one component -/

theorem keep_part (s : State) (v : Part) : Keep ([.part], 0) s { s with part := v } :=
  ⟨fun h => ⟨h.1, h.2, h.3, h.4, h.5, h.6, h.7⟩, fun p => by cases p <;> first | exact .inr rfl | exact .inl (by decide), fun _ => BitsBut.of_regs 0 rfl⟩
theorem keep_board (s : State) (v : Board) : Keep ([.board], 0) s { s with board := v } :=
  ⟨fun h => ⟨h.1, h.2, h.3, h.4, h.5, h.6, h.7⟩, fun p => by cases p <;> first | exact .inr rfl | exact .inl (by decide), fun _ => BitsBut.of_regs 0 rfl⟩
theorem keep_boot (s : State) (v : Boot) : Keep ([.boot], 0) s { s with boot := v } :=
  ⟨fun h => ⟨h.1, h.2, h.3, h.4, h.5, h.6, h.7⟩, fun p => by cases p <;> first | exact .inr rfl | exact .inl (by decide), fun _ => BitsBut.of_regs 0 rfl⟩
theorem keep_store' (s : State) (v : Store) (hv : Memory.wf s.store.bytes = true → Memory.wf v.bytes = true) : Keep ([.store], 0) s { s with store := v } :=
  ⟨fun h => ⟨h.1, h.2, h.3, hv h.4, h.5, h.6, h.7⟩, fun p => by cases p <;> first | exact .inr rfl | exact .inl (by decide), fun _ => BitsBut.of_regs 0 rfl⟩
theorem keep_store (s : State) (v : Store) (hv : v.bytes = s.store.bytes) : Keep ([.store], 0) s { s with store := v } :=
  keep_store' s v (by rw [hv]; exact id)
theorem keep_regs (s : State) (v : SMap W64) (hv : regsWf s.regs = true → regsWf v = true) : Keep ([.regs], 1) s { s with regs := v } :=
  ⟨fun h => inv_regs s v h (hv h.1), only_regs s v, fun _ _ _ => .inl (cov_all _ _)⟩
theorem keep_mem (s : State) (v : Memory) (hv : Memory.wf s.mem = true → Memory.wf v = true) : Keep ([.mem], 0) s { s with mem := v } :=
  ⟨fun h => ⟨h.1, hv h.2, h.3, h.4, h.5, h.6, h.7⟩, fun p => by cases p <;> first | exact .inr rfl | exact .inl (by decide), fun _ => BitsBut.of_regs 0 rfl⟩
theorem keep_sump (s : State) (v : Memory) (hv : Memory.wf s.sump = true → Memory.wf v = true) : Keep ([.sump], 0) s { s with sump := v } :=
  ⟨fun h => ⟨h.1, h.2, hv h.3, h.4, h.5, h.6, h.7⟩, fun p => by cases p <;> first | exact .inr rfl | exact .inl (by decide), fun _ => BitsBut.of_regs 0 rfl⟩
theorem keep_log (s : State) (v : List LogRec) : Keep ([.log], 0) s { s with log := v } :=
  ⟨fun h => ⟨h.1, h.2, h.3, h.4, h.5, h.6, h.7⟩, fun p => by cases p <;> first | exact .inr rfl | exact .inl (by decide), fun _ => BitsBut.of_regs 0 rfl⟩
theorem keep_mon (s : State) (v : Monitor) : Keep ([.mon], 0) s { s with mon := v } :=
  ⟨fun h => ⟨h.1, h.2, h.3, h.4, h.5, h.6, h.7⟩, fun p => by cases p <;> first | exact .inr rfl | exact .inl (by decide), fun _ => BitsBut.of_regs 0 rfl⟩
theorem keep_slices (s : State) (v : Vector Causeway 42) : Keep ([.slices], 0) s { s with slices := v } :=
  ⟨fun h => ⟨h.1, h.2, h.3, h.4, h.5, h.6, h.7⟩, fun p => by cases p <;> first | exact .inr rfl | exact .inl (by decide), fun _ => BitsBut.of_regs 0 rfl⟩
theorem keep_red (s : State) (v : Red) : Keep ([.red], 0) s { s with red := v } :=
  ⟨fun h => ⟨h.1, h.2, h.3, h.4, h.5, h.6, h.7⟩, fun p => by cases p <;> first | exact .inr rfl | exact .inl (by decide), fun _ => BitsBut.of_regs 0 rfl⟩
theorem keep_ful (s : State) (v : Ful) : Keep ([.ful], 0) s { s with ful := v } :=
  ⟨fun h => ⟨h.1, h.2, h.3, h.4, h.5, h.6, h.7⟩, fun p => by cases p <;> first | exact .inr rfl | exact .inl (by decide), fun _ => BitsBut.of_regs 0 rfl⟩
theorem keep_cut (s : State) (v : CutUnit) : Keep ([.cut], 0) s { s with cut := v } :=
  ⟨fun h => ⟨h.1, h.2, h.3, h.4, h.5, h.6, h.7⟩, fun p => by cases p <;> first | exact .inr rfl | exact .inl (by decide), fun _ => BitsBut.of_regs 0 rfl⟩
theorem keep_sedge (s : State) (v : Vector SedgeSet 8) : Keep ([.sedge], 0) s { s with sedge := v } :=
  ⟨fun h => ⟨h.1, h.2, h.3, h.4, h.5, h.6, h.7⟩, fun p => by cases p <;> first | exact .inr rfl | exact .inl (by decide), fun _ => BitsBut.of_regs 0 rfl⟩
theorem keep_map (s : State) (v : SMap MapEntry) : Keep ([.map], 0) s { s with map := v } :=
  ⟨fun h => ⟨h.1, h.2, h.3, h.4, h.5, h.6, h.7⟩, fun p => by cases p <;> first | exact .inr rfl | exact .inl (by decide), fun _ => BitsBut.of_regs 0 rfl⟩
theorem keep_peat' (s : State) (v : Peat) (hv : Memory.wf s.peat.drive.blocks = true → Memory.wf v.drive.blocks = true) : Keep ([.peat], 0) s { s with peat := v } :=
  ⟨fun h => ⟨h.1, h.2, h.3, h.4, hv h.5, h.6, h.7⟩, fun p => by cases p <;> first | exact .inr rfl | exact .inl (by decide), fun _ => BitsBut.of_regs 0 rfl⟩
theorem keep_peat (s : State) (v : Peat) (hv : v.drive.blocks = s.peat.drive.blocks) : Keep ([.peat], 0) s { s with peat := v } :=
  keep_peat' s v (by rw [hv]; exact id)
theorem keep_sec (s : State) (v : Sec) : Keep ([.sec], 0) s { s with sec := v } :=
  ⟨fun h => ⟨h.1, h.2, h.3, h.4, h.5, h.6, h.7⟩, fun p => by cases p <;> first | exact .inr rfl | exact .inl (by decide), fun _ => BitsBut.of_regs 0 rfl⟩
theorem keep_rst' (s : State) (v : Rst) (hv : Memory.wf s.rst.area = true → Memory.wf v.area = true) : Keep ([.rst], 0) s { s with rst := v } :=
  ⟨fun h => ⟨h.1, h.2, h.3, h.4, h.5, hv h.6, h.7⟩, fun p => by cases p <;> first | exact .inr rfl | exact .inl (by decide), fun _ => BitsBut.of_regs 0 rfl⟩
theorem keep_rst (s : State) (v : Rst) (hv : v.area = s.rst.area) : Keep ([.rst], 0) s { s with rst := v } :=
  keep_rst' s v (by rw [hv]; exact id)
theorem keep_warden (s : State) (v : Warden) : Keep ([.warden], 0) s { s with warden := v } :=
  ⟨fun h => ⟨h.1, h.2, h.3, h.4, h.5, h.6, h.7⟩, fun p => by cases p <;> first | exact .inr rfl | exact .inl (by decide), fun _ => BitsBut.of_regs 0 rfl⟩
theorem keep_syn (s : State) (v : Syn) (hv : v.pairs = s.syn.pairs) : Keep ([.syn], 0) s { s with syn := v } :=
  ⟨fun h => ⟨h.1, h.2, h.3, h.4, h.5, h.6, fun n hn => by have := h.7 n hn; simpa [State.pair, hv] using this⟩, fun p => by cases p <;> first | exact .inr rfl | exact .inl (by decide), fun _ => BitsBut.of_regs 0 rfl⟩
theorem keep_tim (s : State) (v : Tim) : Keep ([.tim], 0) s { s with tim := v } :=
  ⟨fun h => ⟨h.1, h.2, h.3, h.4, h.5, h.6, h.7⟩, fun p => by cases p <;> first | exact .inr rfl | exact .inl (by decide), fun _ => BitsBut.of_regs 0 rfl⟩
theorem keep_cmd (s : State) (v : Cmd) : Keep ([.cmd], 0) s { s with cmd := v } :=
  ⟨fun h => ⟨h.1, h.2, h.3, h.4, h.5, h.6, h.7⟩, fun p => by cases p <;> first | exact .inr rfl | exact .inl (by decide), fun _ => BitsBut.of_regs 0 rfl⟩
theorem keep_chk (s : State) (v : Chk) : Keep ([.chk], 0) s { s with chk := v } :=
  ⟨fun h => ⟨h.1, h.2, h.3, h.4, h.5, h.6, h.7⟩, fun p => by cases p <;> first | exact .inr rfl | exact .inl (by decide), fun _ => BitsBut.of_regs 0 rfl⟩
theorem keep_elect (s : State) (v : Elect) : Keep ([.elect], 0) s { s with elect := v } :=
  ⟨fun h => ⟨h.1, h.2, h.3, h.4, h.5, h.6, h.7⟩, fun p => by cases p <;> first | exact .inr rfl | exact .inl (by decide), fun _ => BitsBut.of_regs 0 rfl⟩
theorem keep_now (s : State) (v : Nat) : Keep ([.now], 0) s { s with now := v } :=
  ⟨fun h => ⟨h.1, h.2, h.3, h.4, h.5, h.6, h.7⟩, fun p => by cases p <;> first | exact .inr rfl | exact .inl (by decide), fun _ => BitsBut.of_regs 0 rfl⟩
theorem keep_freeCtr (s : State) (v : Nat) : Keep ([.freeCtr], 0) s { s with freeCtr := v } :=
  ⟨fun h => ⟨h.1, h.2, h.3, h.4, h.5, h.6, h.7⟩, fun p => by cases p <;> first | exact .inr rfl | exact .inl (by decide), fun _ => BitsBut.of_regs 0 rfl⟩
theorem keep_busRead (s : State) (v : W64) : Keep ([.busRead], 0) s { s with busRead := v } :=
  ⟨fun h => ⟨h.1, h.2, h.3, h.4, h.5, h.6, h.7⟩, fun p => by cases p <;> first | exact .inr rfl | exact .inl (by decide), fun _ => BitsBut.of_regs 0 rfl⟩
theorem keep_outbox (s : State) (v : List Sent) : Keep ([.outbox], 0) s { s with outbox := v } :=
  ⟨fun h => ⟨h.1, h.2, h.3, h.4, h.5, h.6, h.7⟩, fun p => by cases p <;> first | exact .inr rfl | exact .inl (by decide), fun _ => BitsBut.of_regs 0 rfl⟩
theorem keep_acksOut (s : State) (v : List AckSent) : Keep ([.acksOut], 0) s { s with acksOut := v } :=
  ⟨fun h => ⟨h.1, h.2, h.3, h.4, h.5, h.6, h.7⟩, fun p => by cases p <;> first | exact .inr rfl | exact .inl (by decide), fun _ => BitsBut.of_regs 0 rfl⟩
theorem keep_irqs (s : State) (v : List (BitVec 3)) : Keep ([.irqs], 0) s { s with irqs := v } :=
  ⟨fun h => ⟨h.1, h.2, h.3, h.4, h.5, h.6, h.7⟩, fun p => by cases p <;> first | exact .inr rfl | exact .inl (by decide), fun _ => BitsBut.of_regs 0 rfl⟩
theorem keep_bx3Out (s : State) (v : List (Fin 42 × Dir × Bx3Frame)) : Keep ([.bx3Out], 0) s { s with bx3Out := v } :=
  ⟨fun h => ⟨h.1, h.2, h.3, h.4, h.5, h.6, h.7⟩, fun p => by cases p <;> first | exact .inr rfl | exact .inl (by decide), fun _ => BitsBut.of_regs 0 rfl⟩
theorem keep_placed (s : State) (v : BitVec 42) : Keep ([.placed], 0) s { s with placed := v } :=
  ⟨fun h => ⟨h.1, h.2, h.3, h.4, h.5, h.6, h.7⟩, fun p => by cases p <;> first | exact .inr rfl | exact .inl (by decide), fun _ => BitsBut.of_regs 0 rfl⟩
theorem keep_bscan (s : State) (v : BitVec 31) : Keep ([.bscan], 0) s { s with bscan := v } :=
  ⟨fun h => ⟨h.1, h.2, h.3, h.4, h.5, h.6, h.7⟩, fun p => by cases p <;> first | exact .inr rfl | exact .inl (by decide), fun _ => BitsBut.of_regs 0 rfl⟩
theorem keep_wire (s : State) (v : List Wire) : Keep ([.wire], 0) s { s with wire := v } :=
  ⟨fun h => ⟨h.1, h.2, h.3, h.4, h.5, h.6, h.7⟩, fun p => by cases p <;> first | exact .inr rfl | exact .inl (by decide), fun _ => BitsBut.of_regs 0 rfl⟩
theorem keep_owed (s : State) (v : SMap Bool) : Keep ([.owed], 0) s { s with owed := v } :=
  ⟨fun h => ⟨h.1, h.2, h.3, h.4, h.5, h.6, h.7⟩, fun p => by cases p <;> first | exact .inr rfl | exact .inl (by decide), fun _ => BitsBut.of_regs 0 rfl⟩
theorem keep_tc3 (s : State) (v : SMap (List (Nat × Nat))) : Keep ([.tc3], 0) s { s with tc3 := v } :=
  ⟨fun h => ⟨h.1, h.2, h.3, h.4, h.5, h.6, h.7⟩, fun p => by cases p <;> first | exact .inr rfl | exact .inl (by decide), fun _ => BitsBut.of_regs 0 rfl⟩
theorem keep_pending (s : State) (v : List Instr) : Keep ([.pending], 0) s { s with pending := v } :=
  ⟨fun h => ⟨h.1, h.2, h.3, h.4, h.5, h.6, h.7⟩, fun p => by cases p <;> first | exact .inr rfl | exact .inl (by decide), fun _ => BitsBut.of_regs 0 rfl⟩

end Sys2Proof.Machine
end

