-- ==== Sys2Proof/Laws/KeepHas.lean ====
section
/-! SUPPORT. Where the fields that operations write stand in the table. -/
namespace Sys2Proof.Machine

theorem has_Fld_chkCounts_laneWaits : Has 0x2 Fld.chkCounts.laneWaits := has_of 1 (.mk 0xA0018 0x0 0 32) 0 (by decide) (by decide) (by decide) (by decide) (by decide)
theorem has_Fld_chkCounts_mismatches : Has 0x4 Fld.chkCounts.mismatches := has_of 2 (.mk 0xA0018 0x0 32 32) 0 (by decide) (by decide) (by decide) (by decide) (by decide)
theorem has_Fld_chkEngResult_result (n : Nat) : Has 0x8 (Fld.chkEngResult.result n) := has_of 3 (.mk 0xA1020 0x40 0 64) n (by decide) (by decide) (by show 0xA1020 + 0x40 * n = 0xA1020 + n * 0x40; omega) (Nat.le_refl _) (Nat.le_refl _)
theorem has_Fld_chkEngStatus_done (n : Nat) : Has 0x10 (Fld.chkEngStatus.done n) := has_of 4 (.mk 0xA1028 0x40 1 1) n (by decide) (by decide) (by show 0xA1028 + 0x40 * n = 0xA1028 + n * 0x40; omega) (Nat.le_refl _) (Nat.le_refl _)
theorem has_Fld_chkEngStatus_lastStatus (n : Nat) : Has 0x20 (Fld.chkEngStatus.lastStatus n) := has_of 5 (.mk 0xA1028 0x40 16 16) n (by decide) (by decide) (by show 0xA1028 + 0x40 * n = 0xA1028 + n * 0x40; omega) (Nat.le_refl _) (Nat.le_refl _)
theorem has_Fld_chkErrStatus_memUe : Has 0x40 Fld.chkErrStatus.memUe := has_of 6 (.mk 0xA0010 0x0 3 1) 0 (by decide) (by decide) (by decide) (by decide) (by decide)
theorem has_Fld_chkErrStatus_padInvalid : Has 0x80 Fld.chkErrStatus.padInvalid := has_of 7 (.mk 0xA0010 0x0 2 1) 0 (by decide) (by decide) (by decide) (by decide) (by decide)
theorem has_Fld_chkErrStatus_scanMismatch : Has 0x100 Fld.chkErrStatus.scanMismatch := has_of 8 (.mk 0xA0010 0x0 0 1) 0 (by decide) (by decide) (by decide) (by decide) (by decide)
theorem has_Fld_chkErrStatus_scanWindow : Has 0x200 Fld.chkErrStatus.scanWindow := has_of 9 (.mk 0xA0010 0x0 1 1) 0 (by decide) (by decide) (by decide) (by decide) (by decide)
theorem has_Fld_cmdCounts_commands : Has 0x400 Fld.cmdCounts.commands := has_of 10 (.mk 0x90028 0x0 0 32) 0 (by decide) (by decide) (by decide) (by decide) (by decide)
theorem has_Fld_cmdCounts_errors : Has 0x800 Fld.cmdCounts.errors := has_of 11 (.mk 0x90028 0x0 32 16) 0 (by decide) (by decide) (by decide) (by decide) (by decide)
theorem has_Fld_cmdCounts_lockWaits : Has 0x1000 Fld.cmdCounts.lockWaits := has_of 12 (.mk 0x90028 0x0 48 16) 0 (by decide) (by decide) (by decide) (by decide) (by decide)
theorem has_Fld_cmdErrStatus_pushBusy : Has 0x2000 Fld.cmdErrStatus.pushBusy := has_of 13 (.mk 0x90020 0x0 1 1) 0 (by decide) (by decide) (by decide) (by decide) (by decide)
theorem has_Fld_cmdErrStatus_relayFailed : Has 0x4000 Fld.cmdErrStatus.relayFailed := has_of 14 (.mk 0x90020 0x0 2 1) 0 (by decide) (by decide) (by decide) (by decide) (by decide)
theorem has_Fld_cmdErrStatus_ringInvalid : Has 0x8000 Fld.cmdErrStatus.ringInvalid := has_of 15 (.mk 0x90020 0x0 3 1) 0 (by decide) (by decide) (by decide) (by decide) (by decide)
theorem has_Fld_cmdErrStatus_sqOverflow : Has 0x10000 Fld.cmdErrStatus.sqOverflow := has_of 16 (.mk 0x90020 0x0 0 1) 0 (by decide) (by decide) (by decide) (by decide) (by decide)
theorem has_Fld_cmdQCfg_enable (n : Nat) : Has 0x20000 (Fld.cmdQCfg.enable n) := has_of 17 (.mk 0x91000 0x200 0 1) n (by decide) (by decide) (by show 0x91000 + 0x200 * n = 0x91000 + n * 0x200; omega) (Nat.le_refl _) (Nat.le_refl _)
theorem has_Fld_cmdQCqHead_head (n : Nat) : Has 0x40000 (Fld.cmdQCqHead.head n) := has_of 18 (.mk 0x91020 0x200 0 12) n (by decide) (by decide) (by show 0x91020 + 0x200 * n = 0x91020 + n * 0x200; omega) (Nat.le_refl _) (Nat.le_refl _)
theorem has_Fld_cmdQSqTail_tail (n : Nat) : Has 0x80000 (Fld.cmdQSqTail.tail n) := has_of 19 (.mk 0x91018 0x200 0 12) n (by decide) (by decide) (by show 0x91018 + 0x200 * n = 0x91018 + n * 0x200; omega) (Nat.le_refl _) (Nat.le_refl _)
theorem has_Fld_ctlArbRace_arrivalWon : Has 0x100000 Fld.ctlArbRace.arrivalWon := has_of 20 (.mk 0x428 0x0 32 32) 0 (by decide) (by decide) (by decide) (by decide) (by decide)
theorem has_Fld_ctlArbRace_expiryWon : Has 0x200000 Fld.ctlArbRace.expiryWon := has_of 21 (.mk 0x428 0x0 0 32) 0 (by decide) (by decide) (by decide) (by decide) (by decide)
theorem has_Fld_ctlBoardStatus_holdupLow : Has 0x400000 Fld.ctlBoardStatus.holdupLow := has_of 22 (.mk 0x448 0x0 2 1) 0 (by decide) (by decide) (by decide) (by decide) (by decide)
theorem has_Fld_ctlBoardStatus_holdupOk : Has 0x800000 Fld.ctlBoardStatus.holdupOk := has_of 23 (.mk 0x448 0x0 1 1) 0 (by decide) (by decide) (by decide) (by decide) (by decide)
theorem has_Fld_ctlBoardStatus_pfailCleared : Has 0x1000000 Fld.ctlBoardStatus.pfailCleared := has_of 24 (.mk 0x448 0x0 4 1) 0 (by decide) (by decide) (by decide) (by decide) (by decide)
theorem has_Fld_ctlBoardStatus_pfailN : Has 0x2000000 Fld.ctlBoardStatus.pfailN := has_of 25 (.mk 0x448 0x0 0 1) 0 (by decide) (by decide) (by decide) (by decide) (by decide)
theorem has_Fld_ctlBoardStatus_pfailSeen : Has 0x4000000 Fld.ctlBoardStatus.pfailSeen := has_of 26 (.mk 0x448 0x0 3 1) 0 (by decide) (by decide) (by decide) (by decide) (by decide)
theorem has_Fld_ctlBootReason_failCause : Has 0x8000000 Fld.ctlBootReason.failCause := has_of 27 (.mk 0x18 0x0 8 4) 0 (by decide) (by decide) (by decide) (by decide) (by decide)
theorem has_Fld_ctlBootReason_failCount : Has 0x10000000 Fld.ctlBootReason.failCount := has_of 28 (.mk 0x18 0x0 5 2) 0 (by decide) (by decide) (by decide) (by decide) (by decide)
theorem has_Fld_ctlBootReason_fallback : Has 0x20000000 Fld.ctlBootReason.fallback := has_of 29 (.mk 0x18 0x0 13 1) 0 (by decide) (by decide) (by decide) (by decide) (by decide)
theorem has_Fld_ctlBootReason_hummock : Has 0x40000000 Fld.ctlBootReason.hummock := has_of 30 (.mk 0x18 0x0 4 1) 0 (by decide) (by decide) (by decide) (by decide) (by decide)
theorem has_Fld_ctlBootReason_slot : Has 0x80000000 Fld.ctlBootReason.slot := has_of 31 (.mk 0x18 0x0 12 1) 0 (by decide) (by decide) (by decide) (by decide) (by decide)
theorem has_Fld_ctlBootReason_thermalHold : Has 0x100000000 Fld.ctlBootReason.thermalHold := has_of 32 (.mk 0x18 0x0 14 1) 0 (by decide) (by decide) (by decide) (by decide) (by decide)
theorem has_Fld_ctlCornerStatus_excCount : Has 0x200000000 Fld.ctlCornerStatus.excCount := has_of 33 (.mk 0x420 0x0 16 16) 0 (by decide) (by decide) (by decide) (by decide) (by decide)
theorem has_Fld_ctlCornerStatus_excCycle : Has 0x400000000 Fld.ctlCornerStatus.excCycle := has_of 34 (.mk 0x420 0x0 1 1) 0 (by decide) (by decide) (by decide) (by decide) (by decide)
theorem has_Fld_ctlCornerStatus_excTemp : Has 0x800000000 Fld.ctlCornerStatus.excTemp := has_of 35 (.mk 0x420 0x0 4 1) 0 (by decide) (by decide) (by decide) (by decide) (by decide)
theorem has_Fld_ctlCornerStatus_excVhigh : Has 0x1000000000 Fld.ctlCornerStatus.excVhigh := has_of 36 (.mk 0x420 0x0 3 1) 0 (by decide) (by decide) (by decide) (by decide) (by decide)
theorem has_Fld_ctlCornerStatus_excVlow : Has 0x2000000000 Fld.ctlCornerStatus.excVlow := has_of 37 (.mk 0x420 0x0 2 1) 0 (by decide) (by decide) (by decide) (by decide) (by decide)
theorem has_Fld_ctlCornerStatus_inRange : Has 0x4000000000 Fld.ctlCornerStatus.inRange := has_of 38 (.mk 0x420 0x0 0 1) 0 (by decide) (by decide) (by decide) (by decide) (by decide)
theorem has_Fld_ctlCornerStatus_monFault : Has 0x8000000000 Fld.ctlCornerStatus.monFault := has_of 39 (.mk 0x420 0x0 7 1) 0 (by decide) (by decide) (by decide) (by decide) (by decide)
theorem has_Fld_ctlCornerStatus_thermTrip : Has 0x10000000000 Fld.ctlCornerStatus.thermTrip := has_of 40 (.mk 0x420 0x0 5 1) 0 (by decide) (by decide) (by decide) (by decide) (by decide)
theorem has_Fld_ctlCornerStatus_vfloorReq : Has 0x20000000000 Fld.ctlCornerStatus.vfloorReq := has_of 41 (.mk 0x420 0x0 6 1) 0 (by decide) (by decide) (by decide) (by decide) (by decide)
theorem has_Fld_ctlEccCounts_corrected : Has 0x40000000000 Fld.ctlEccCounts.corrected := has_of 42 (.mk 0x450 0x0 0 32) 0 (by decide) (by decide) (by decide) (by decide) (by decide)
theorem has_Fld_ctlEccCounts_uncorrectable : Has 0x80000000000 Fld.ctlEccCounts.uncorrectable := has_of 43 (.mk 0x450 0x0 32 16) 0 (by decide) (by decide) (by decide) (by decide) (by decide)
theorem has_Fld_ctlElect_election : Has 0x100000000000 Fld.ctlElect.election := has_of 44 (.mk 0x460 0x0 26 16) 0 (by decide) (by decide) (by decide) (by decide) (by decide)
theorem has_Fld_ctlElect_role : Has 0x200000000000 Fld.ctlElect.role := has_of 45 (.mk 0x460 0x0 17 2) 0 (by decide) (by decide) (by decide) (by decide) (by decide)
theorem has_Fld_ctlElect_wardenPos : Has 0x400000000000 Fld.ctlElect.wardenPos := has_of 46 (.mk 0x460 0x0 19 7) 0 (by decide) (by decide) (by decide) (by decide) (by decide)
theorem has_Fld_ctlErrStatus_accessErr : Has 0x800000000000 Fld.ctlErrStatus.accessErr := has_of 47 (.mk 0x440 0x0 0 1) 0 (by decide) (by decide) (by decide) (by decide) (by decide)
theorem has_Fld_ctlErrStatus_coreWd : Has 0x1000000000000 Fld.ctlErrStatus.coreWd := has_of 48 (.mk 0x440 0x0 3 1) 0 (by decide) (by decide) (by decide) (by decide) (by decide)
theorem has_Fld_ctlErrStatus_eccCorr : Has 0x2000000000000 Fld.ctlErrStatus.eccCorr := has_of 49 (.mk 0x440 0x0 1 1) 0 (by decide) (by decide) (by decide) (by decide) (by decide)
theorem has_Fld_ctlErrStatus_eccUe : Has 0x4000000000000 Fld.ctlErrStatus.eccUe := has_of 50 (.mk 0x440 0x0 2 1) 0 (by decide) (by decide) (by decide) (by decide) (by decide)
theorem has_Fld_ctlErrStatus_logLost : Has 0x8000000000000 Fld.ctlErrStatus.logLost := has_of 51 (.mk 0x440 0x0 7 1) 0 (by decide) (by decide) (by decide) (by decide) (by decide)
theorem has_Fld_ctlErrStatus_mbistRepair : Has 0x10000000000000 Fld.ctlErrStatus.mbistRepair := has_of 52 (.mk 0x440 0x0 4 1) 0 (by decide) (by decide) (by decide) (by decide) (by decide)
theorem has_Fld_ctlErrStatus_roleChange : Has 0x20000000000000 Fld.ctlErrStatus.roleChange := has_of 53 (.mk 0x440 0x0 6 1) 0 (by decide) (by decide) (by decide) (by decide) (by decide)
theorem has_Fld_ctlErrlog_head : Has 0x40000000000000 Fld.ctlErrlog.head := has_of 54 (.mk 0x458 0x0 0 16) 0 (by decide) (by decide) (by decide) (by decide) (by decide)
theorem has_Fld_ctlErrlog_lost : Has 0x80000000000000 Fld.ctlErrlog.lost := has_of 55 (.mk 0x458 0x0 16 16) 0 (by decide) (by decide) (by decide) (by decide) (by decide)
theorem has_Fld_ctlFwStatus_startOk : Has 0x100000000000000 Fld.ctlFwStatus.startOk := has_of 56 (.mk 0x20 0x0 3 1) 0 (by decide) (by decide) (by decide) (by decide) (by decide)
theorem has_Fld_ctlFwStatus_startUs : Has 0x200000000000000 Fld.ctlFwStatus.startUs := has_of 57 (.mk 0x20 0x0 32 32) 0 (by decide) (by decide) (by decide) (by decide) (by decide)
theorem has_Fld_ctlFwStatus_svn : Has 0x400000000000000 Fld.ctlFwStatus.svn := has_of 58 (.mk 0x20 0x0 8 16) 0 (by decide) (by decide) (by decide) (by decide) (by decide)
theorem has_Fld_ctlReset_quiescing : Has 0x800000000000000 Fld.ctlReset.quiescing := has_of 59 (.mk 0x10 0x0 2 1) 0 (by decide) (by decide) (by decide) (by decide) (by decide)
theorem has_Fld_ctlSpeedPeak_cyclePeakPs : Has 0x1000000000000000 Fld.ctlSpeedPeak.cyclePeakPs := has_of 60 (.mk 0x418 0x0 0 12) 0 (by decide) (by decide) (by decide) (by decide) (by decide)
theorem has_Fld_ctlSpeedPeak_tjPeakQ : Has 0x2000000000000000 Fld.ctlSpeedPeak.tjPeakQ := has_of 61 (.mk 0x418 0x0 22 10) 0 (by decide) (by decide) (by decide) (by decide) (by decide)
theorem has_Fld_ctlSpeedPeak_vddDroopMv : Has 0x4000000000000000 Fld.ctlSpeedPeak.vddDroopMv := has_of 62 (.mk 0x418 0x0 12 10) 0 (by decide) (by decide) (by decide) (by decide) (by decide)
theorem has_Fld_ctlSpeedStatus_cycleBestPs : Has 0x8000000000000000 Fld.ctlSpeedStatus.cycleBestPs := has_of 63 (.mk 0x410 0x0 16 12) 0 (by decide) (by decide) (by decide) (by decide) (by decide)
theorem has_Fld_ctlSpeedStatus_cyclePs : Has 0x10000000000000000 Fld.ctlSpeedStatus.cyclePs := has_of 64 (.mk 0x410 0x0 0 12) 0 (by decide) (by decide) (by decide) (by decide) (by decide)
theorem has_Fld_ctlSpeedStatus_cycleSensor : Has 0x20000000000000000 Fld.ctlSpeedStatus.cycleSensor := has_of 65 (.mk 0x410 0x0 12 4) 0 (by decide) (by decide) (by decide) (by decide) (by decide)
theorem has_Fld_ctlSpeedStatus_sampleSeq : Has 0x40000000000000000 Fld.ctlSpeedStatus.sampleSeq := has_of 66 (.mk 0x410 0x0 52 12) 0 (by decide) (by decide) (by decide) (by decide) (by decide)
theorem has_Fld_ctlSpeedStatus_tjQ : Has 0x80000000000000000 Fld.ctlSpeedStatus.tjQ := has_of 67 (.mk 0x410 0x0 38 11) 0 (by decide) (by decide) (by decide) (by decide) (by decide)
theorem has_Fld_ctlSpeedStatus_tjSensor : Has 0x100000000000000000 Fld.ctlSpeedStatus.tjSensor := has_of 68 (.mk 0x410 0x0 49 3) 0 (by decide) (by decide) (by decide) (by decide) (by decide)
theorem has_Fld_ctlSpeedStatus_vddMv : Has 0x200000000000000000 Fld.ctlSpeedStatus.vddMv := has_of 69 (.mk 0x410 0x0 28 10) 0 (by decide) (by decide) (by decide) (by decide) (by decide)
theorem has_Fld_fulCounts_nfTasks : Has 0x400000000000000000 Fld.fulCounts.nfTasks := has_of 70 (.mk 0x30050 0x0 32 32) 0 (by decide) (by decide) (by decide) (by decide) (by decide)
theorem has_Fld_fulCounts_skipped : Has 0x800000000000000000 Fld.fulCounts.skipped := has_of 71 (.mk 0x30050 0x0 0 32) 0 (by decide) (by decide) (by decide) (by decide) (by decide)
theorem has_Fld_fulErrStatus_lenLong : Has 0x1000000000000000000 Fld.fulErrStatus.lenLong := has_of 72 (.mk 0x30038 0x0 1 1) 0 (by decide) (by decide) (by decide) (by decide) (by decide)
theorem has_Fld_fulErrStatus_lenShort : Has 0x2000000000000000000 Fld.fulErrStatus.lenShort := has_of 73 (.mk 0x30038 0x0 0 1) 0 (by decide) (by decide) (by decide) (by decide) (by decide)
theorem has_Fld_fulErrStatus_memUe : Has 0x4000000000000000000 Fld.fulErrStatus.memUe := has_of 74 (.mk 0x30038 0x0 2 1) 0 (by decide) (by decide) (by decide) (by decide) (by decide)
theorem has_Fld_fulErrStatus_nonfinite : Has 0x8000000000000000000 Fld.fulErrStatus.nonfinite := has_of 75 (.mk 0x30038 0x0 3 1) 0 (by decide) (by decide) (by decide) (by decide) (by decide)
theorem has_Fld_fulErrStatus_stateFault : Has 0x10000000000000000000 Fld.fulErrStatus.stateFault := has_of 76 (.mk 0x30038 0x0 4 1) 0 (by decide) (by decide) (by decide) (by decide) (by decide)
theorem has_Fld_fulErrStatus_upstream : Has 0x20000000000000000000 Fld.fulErrStatus.upstream := has_of 77 (.mk 0x30038 0x0 5 1) 0 (by decide) (by decide) (by decide) (by decide) (by decide)
theorem has_Fld_fulFaultLog_index : Has 0x40000000000000000000 Fld.fulFaultLog.index := has_of 78 (.mk 0x30040 0x0 0 48) 0 (by decide) (by decide) (by decide) (by decide) (by decide)
theorem has_Fld_fulFaultLog_queue : Has 0x80000000000000000000 Fld.fulFaultLog.queue := has_of 79 (.mk 0x30040 0x0 48 2) 0 (by decide) (by decide) (by decide) (by decide) (by decide)
theorem has_Fld_fulFaultLog_valid : Has 0x100000000000000000000 Fld.fulFaultLog.valid := has_of 80 (.mk 0x30040 0x0 63 1) 0 (by decide) (by decide) (by decide) (by decide) (by decide)
theorem has_Fld_fulProgCtrl_loadStatus : Has 0x200000000000000000000 Fld.fulProgCtrl.loadStatus := has_of 81 (.mk 0x30080 0x0 8 4) 0 (by decide) (by decide) (by decide) (by decide) (by decide)
theorem has_Fld_fulProgCtrl_slot : Has 0x400000000000000000000 Fld.fulProgCtrl.slot := has_of 82 (.mk 0x30080 0x0 0 4) 0 (by decide) (by decide) (by decide) (by decide) (by decide)
theorem has_Fld_lnkCtrl_close (n : Nat) : Has 0x800000000000000000000 (Fld.lnkCtrl.close n) := has_of 83 (.mk 0x20000 0x100 0 1) n (by decide) (by decide) (by show 0x20000 + 0x100 * n = 0x20000 + n * 0x100; omega) (Nat.le_refl _) (Nat.le_refl _)
theorem has_Fld_lnkDrop_crc (n : Nat) : Has 0x1000000000000000000000 (Fld.lnkDrop.crc n) := has_of 84 (.mk 0x20018 0x100 32 16) n (by decide) (by decide) (by show 0x20018 + 0x100 * n = 0x20018 + n * 0x100; omega) (Nat.le_refl _) (Nat.le_refl _)
theorem has_Fld_lnkDrop_long (n : Nat) : Has 0x2000000000000000000000 (Fld.lnkDrop.long n) := has_of 85 (.mk 0x20018 0x100 48 16) n (by decide) (by decide) (by show 0x20018 + 0x100 * n = 0x20018 + n * 0x100; omega) (Nat.le_refl _) (Nat.le_refl _)
theorem has_Fld_lnkDrop_stale (n : Nat) : Has 0x4000000000000000000000 (Fld.lnkDrop.stale n) := has_of 86 (.mk 0x20018 0x100 0 32) n (by decide) (by decide) (by show 0x20018 + 0x100 * n = 0x20018 + n * 0x100; omega) (Nat.le_refl _) (Nat.le_refl _)
theorem has_Fld_lnkKeep_keepBytes (n : Nat) : Has 0x8000000000000000000000 (Fld.lnkKeep.keepBytes n) := has_of 87 (.mk 0x20020 0x100 0 48) n (by decide) (by decide) (by show 0x20020 + 0x100 * n = 0x20020 + n * 0x100; omega) (Nat.le_refl _) (Nat.le_refl _)
theorem has_Fld_lnkKeep_keepMiss (n : Nat) : Has 0x10000000000000000000000 (Fld.lnkKeep.keepMiss n) := has_of 88 (.mk 0x20020 0x100 48 16) n (by decide) (by decide) (by show 0x20020 + 0x100 * n = 0x20020 + n * 0x100; omega) (Nat.le_refl _) (Nat.le_refl _)
theorem has_Fld_lnkStatus_bufErr (n : Nat) : Has 0x20000000000000000000000 (Fld.lnkStatus.bufErr n) := has_of 89 (.mk 0x20008 0x100 6 1) n (by decide) (by decide) (by show 0x20008 + 0x100 * n = 0x20008 + n * 0x100; omega) (Nat.le_refl _) (Nat.le_refl _)
theorem has_Fld_peatCfg_ageMax : Has 0x40000000000000000000000 Fld.peatCfg.ageMax := has_of 90 (.mk 0x50008 0x0 28 20) 0 (by decide) (by decide) (by decide) (by decide) (by decide)
theorem has_Fld_peatCfg_retain : Has 0x80000000000000000000000 Fld.peatCfg.retain := has_of 91 (.mk 0x50008 0x0 0 4) 0 (by decide) (by decide) (by decide) (by decide) (by decide)
theorem has_Fld_peatCtrl_formatArm : Has 0x100000000000000000000000 Fld.peatCtrl.formatArm := has_of 92 (.mk 0x50000 0x0 1 1) 0 (by decide) (by decide) (by decide) (by decide) (by decide)
theorem has_Fld_peatErrStatus_degraded : Has 0x200000000000000000000000 Fld.peatErrStatus.degraded := has_of 93 (.mk 0x50068 0x0 7 1) 0 (by decide) (by decide) (by decide) (by decide) (by decide)
theorem has_Fld_peatErrStatus_drainFail : Has 0x400000000000000000000000 Fld.peatErrStatus.drainFail := has_of 94 (.mk 0x50068 0x0 0 1) 0 (by decide) (by decide) (by decide) (by decide) (by decide)
theorem has_Fld_peatErrStatus_io : Has 0x800000000000000000000000 Fld.peatErrStatus.io := has_of 95 (.mk 0x50068 0x0 2 1) 0 (by decide) (by decide) (by decide) (by decide) (by decide)
theorem has_Fld_peatErrStatus_keyAbsent : Has 0x1000000000000000000000000 Fld.peatErrStatus.keyAbsent := has_of 96 (.mk 0x50068 0x0 3 1) 0 (by decide) (by decide) (by decide) (by decide) (by decide)
theorem has_Fld_peatErrStatus_peatAge : Has 0x2000000000000000000000000 Fld.peatErrStatus.peatAge := has_of 97 (.mk 0x50068 0x0 5 1) 0 (by decide) (by decide) (by decide) (by decide) (by decide)
theorem has_Fld_peatErrStatus_peatFull : Has 0x4000000000000000000000000 Fld.peatErrStatus.peatFull := has_of 98 (.mk 0x50068 0x0 1 1) 0 (by decide) (by decide) (by decide) (by decide) (by decide)
theorem has_Fld_peatErrStatus_pfailAbort : Has 0x8000000000000000000000000 Fld.peatErrStatus.pfailAbort := has_of 99 (.mk 0x50068 0x0 4 1) 0 (by decide) (by decide) (by decide) (by decide) (by decide)
theorem has_Fld_peatErrStatus_slotTorn : Has 0x10000000000000000000000000 Fld.peatErrStatus.slotTorn := has_of 100 (.mk 0x50068 0x0 6 1) 0 (by decide) (by decide) (by decide) (by decide) (by decide)
theorem has_Fld_peatGen_lastGen : Has 0x20000000000000000000000000 Fld.peatGen.lastGen := has_of 101 (.mk 0x50028 0x0 0 48) 0 (by decide) (by decide) (by decide) (by decide) (by decide)
theorem has_Fld_peatGenHigh_genHigh : Has 0x40000000000000000000000000 Fld.peatGenHigh.genHigh := has_of 102 (.mk 0x50070 0x0 0 48) 0 (by decide) (by decide) (by decide) (by decide) (by decide)
theorem has_Fld_peatGenStep_step : Has 0x80000000000000000000000000 Fld.peatGenStep.step := has_of 103 (.mk 0x50030 0x0 0 64) 0 (by decide) (by decide) (by decide) (by decide) (by decide)
theorem has_Fld_peatJobc_step : Has 0x100000000000000000000000000 Fld.peatJobc.step := has_of 104 (.mk 0x50038 0x0 0 64) 0 (by decide) (by decide) (by decide) (by decide) (by decide)
theorem has_Fld_peatNvmeErr_count : Has 0x200000000000000000000000000 Fld.peatNvmeErr.count := has_of 105 (.mk 0x50060 0x0 32 32) 0 (by decide) (by decide) (by decide) (by decide) (by decide)
theorem has_Fld_peatNvmeErr_dnr : Has 0x400000000000000000000000000 Fld.peatNvmeErr.dnr := has_of 106 (.mk 0x50060 0x0 11 1) 0 (by decide) (by decide) (by decide) (by decide) (by decide)
theorem has_Fld_peatNvmeErr_opcode : Has 0x800000000000000000000000000 Fld.peatNvmeErr.opcode := has_of 107 (.mk 0x50060 0x0 12 8) 0 (by decide) (by decide) (by decide) (by decide) (by decide)
theorem has_Fld_peatNvmeErr_sc : Has 0x1000000000000000000000000000 Fld.peatNvmeErr.sc := has_of 108 (.mk 0x50060 0x0 0 8) 0 (by decide) (by decide) (by decide) (by decide) (by decide)
theorem has_Fld_peatNvmeErr_sct : Has 0x2000000000000000000000000000 Fld.peatNvmeErr.sct := has_of 109 (.mk 0x50060 0x0 8 3) 0 (by decide) (by decide) (by decide) (by decide) (by decide)
theorem has_Fld_peatPin_exported (n : Nat) : Has 0x4000000000000000000000000000 (Fld.peatPin.exported n) := has_of 110 (.mk 0x50040 0x8 49 1) n (by decide) (by decide) (by show 0x50040 + 0x8 * n = 0x50040 + n * 0x8; omega) (Nat.le_refl _) (Nat.le_refl _)
theorem has_Fld_redChBackup_backupPos (n : Nat) : Has 0x8000000000000000000000000000 (Fld.redChBackup.backupPos n) := has_of 111 (.mk 0x11028 0x40 1 7) n (by decide) (by decide) (by show 0x11028 + 0x40 * n = 0x11028 + n * 0x40; omega) (Nat.le_refl _) (Nat.le_refl _)
theorem has_Fld_redChCfg_enable (n : Nat) : Has 0x10000000000000000000000000000 (Fld.redChCfg.enable n) := has_of 112 (.mk 0x11000 0x40 0 1) n (by decide) (by decide) (by show 0x11000 + 0x40 * n = 0x11000 + n * 0x40; omega) (Nat.le_refl _) (Nat.le_refl _)
theorem has_Fld_redChCfg_nextPos (n : Nat) : Has 0x20000000000000000000000000000 (Fld.redChCfg.nextPos n) := has_of 113 (.mk 0x11000 0x40 15 7) n (by decide) (by decide) (by show 0x11000 + 0x40 * n = 0x11000 + n * 0x40; omega) (Nat.le_refl _) (Nat.le_refl _)
theorem has_Fld_redChCfg_prevPos (n : Nat) : Has 0x40000000000000000000000000000 (Fld.redChCfg.prevPos n) := has_of 114 (.mk 0x11000 0x40 22 7) n (by decide) (by decide) (by show 0x11000 + 0x40 * n = 0x11000 + n * 0x40; omega) (Nat.le_refl _) (Nat.le_refl _)
theorem has_Fld_redChPorts_soMask (n : Nat) : Has 0x80000000000000000000000000000 (Fld.redChPorts.soMask n) := has_of 115 (.mk 0x11008 0x40 36 6) n (by decide) (by decide) (by show 0x11008 + 0x40 * n = 0x11008 + n * 0x40; omega) (Nat.le_refl _) (Nat.le_refl _)
theorem has_Fld_redChPorts_uflMask (n : Nat) : Has 0x100000000000000000000000000000 (Fld.redChPorts.uflMask n) := has_of 116 (.mk 0x11008 0x40 0 36) n (by decide) (by decide) (by show 0x11008 + 0x40 * n = 0x11008 + n * 0x40; omega) (Nat.le_refl _) (Nat.le_refl _)
theorem has_Fld_redChRepl_holder0 (n : Nat) : Has 0x200000000000000000000000000000 (Fld.redChRepl.holder0 n) := has_of 117 (.mk 0x11030 0x40 2 17) n (by decide) (by decide) (by show 0x11030 + 0x40 * n = 0x11030 + n * 0x40; omega) (Nat.le_refl _) (Nat.le_refl _)
theorem has_Fld_redChRepl_holder1 (n : Nat) : Has 0x400000000000000000000000000000 (Fld.redChRepl.holder1 n) := has_of 118 (.mk 0x11030 0x40 19 17) n (by decide) (by decide) (by show 0x11030 + 0x40 * n = 0x11030 + n * 0x40; omega) (Nat.le_refl _) (Nat.le_refl _)
theorem has_Fld_redChRepl_holder2 (n : Nat) : Has 0x800000000000000000000000000000 (Fld.redChRepl.holder2 n) := has_of 119 (.mk 0x11030 0x40 36 17) n (by decide) (by decide) (by show 0x11030 + 0x40 * n = 0x11030 + n * 0x40; omega) (Nat.le_refl _) (Nat.le_refl _)
theorem has_Fld_redCounts_backupTaken : Has 0x1000000000000000000000000000000 Fld.redCounts.backupTaken := has_of 120 (.mk 0x10038 0x0 32 32) 0 (by decide) (by decide) (by decide) (by decide) (by decide)
theorem has_Fld_redCounts_lateDiscard : Has 0x2000000000000000000000000000000 Fld.redCounts.lateDiscard := has_of 121 (.mk 0x10038 0x0 0 32) 0 (by decide) (by decide) (by decide) (by decide) (by decide)
theorem has_Fld_redErrStatus_abortNotice : Has 0x4000000000000000000000000000000 Fld.redErrStatus.abortNotice := has_of 122 (.mk 0x10020 0x0 7 1) 0 (by decide) (by decide) (by decide) (by decide) (by decide)
theorem has_Fld_redErrStatus_contribLate : Has 0x8000000000000000000000000000000 Fld.redErrStatus.contribLate := has_of 123 (.mk 0x10020 0x0 5 1) 0 (by decide) (by decide) (by decide) (by decide) (by decide)
theorem has_Fld_redErrStatus_crc : Has 0x10000000000000000000000000000000 Fld.redErrStatus.crc := has_of 124 (.mk 0x10020 0x0 2 1) 0 (by decide) (by decide) (by decide) (by decide) (by decide)
theorem has_Fld_redErrStatus_lenLong : Has 0x20000000000000000000000000000000 Fld.redErrStatus.lenLong := has_of 125 (.mk 0x10020 0x0 1 1) 0 (by decide) (by decide) (by decide) (by decide) (by decide)
theorem has_Fld_redErrStatus_lenShort : Has 0x40000000000000000000000000000000 Fld.redErrStatus.lenShort := has_of 126 (.mk 0x10020 0x0 0 1) 0 (by decide) (by decide) (by decide) (by decide) (by decide)
theorem has_Fld_redErrStatus_memUe : Has 0x80000000000000000000000000000000 Fld.redErrStatus.memUe := has_of 127 (.mk 0x10020 0x0 3 1) 0 (by decide) (by decide) (by decide) (by decide) (by decide)
theorem has_Fld_redErrStatus_nonfinite : Has 0x100000000000000000000000000000000 Fld.redErrStatus.nonfinite := has_of 128 (.mk 0x10020 0x0 4 1) 0 (by decide) (by decide) (by decide) (by decide) (by decide)
theorem has_Fld_redErrStatus_rcvDropped : Has 0x200000000000000000000000000000000 Fld.redErrStatus.rcvDropped := has_of 129 (.mk 0x10020 0x0 6 1) 0 (by decide) (by decide) (by decide) (by decide) (by decide)
theorem has_Fld_redNfLog_channel : Has 0x400000000000000000000000000000000 Fld.redNfLog.channel := has_of 130 (.mk 0x10028 0x0 48 5) 0 (by decide) (by decide) (by decide) (by decide) (by decide)
theorem has_Fld_redNfLog_index : Has 0x800000000000000000000000000000000 Fld.redNfLog.index := has_of 131 (.mk 0x10028 0x0 0 48) 0 (by decide) (by decide) (by decide) (by decide) (by decide)
theorem has_Fld_redNfLog_valid : Has 0x1000000000000000000000000000000000 Fld.redNfLog.valid := has_of 132 (.mk 0x10028 0x0 63 1) 0 (by decide) (by decide) (by decide) (by decide) (by decide)
theorem has_Fld_redTags_waits : Has 0x2000000000000000000000000000000000 Fld.redTags.waits := has_of 133 (.mk 0x10040 0x0 42 22) 0 (by decide) (by decide) (by decide) (by decide) (by decide)
theorem has_Fld_secKeyCtrl_result : Has 0x4000000000000000000000000000000000 Fld.secKeyCtrl.result := has_of 134 (.mk 0x60000 0x0 16 4) 0 (by decide) (by decide) (by decide) (by decide) (by decide)
theorem has_Fld_secKeyCtrl_slot : Has 0x8000000000000000000000000000000000 Fld.secKeyCtrl.slot := has_of 135 (.mk 0x60000 0x0 0 4) 0 (by decide) (by decide) (by decide) (by decide) (by decide)
theorem has_Fld_synCounts_overruns : Has 0x10000000000000000000000000000000000 Fld.synCounts.overruns := has_of 136 (.mk 0x70038 0x0 0 16) 0 (by decide) (by decide) (by decide) (by decide) (by decide)
theorem has_Fld_synCounts_remoteRefused : Has 0x20000000000000000000000000000000000 Fld.synCounts.remoteRefused := has_of 137 (.mk 0x70038 0x0 32 16) 0 (by decide) (by decide) (by decide) (by decide) (by decide)
theorem has_Fld_synCounts_signalsDiscarded : Has 0x40000000000000000000000000000000000 Fld.synCounts.signalsDiscarded := has_of 138 (.mk 0x70038 0x0 48 16) 0 (by decide) (by decide) (by decide) (by decide) (by decide)
theorem has_Fld_synCounts_underflows : Has 0x80000000000000000000000000000000000 Fld.synCounts.underflows := has_of 139 (.mk 0x70038 0x0 16 16) 0 (by decide) (by decide) (by decide) (by decide) (by decide)
theorem has_Fld_synCtx_result : Has 0x100000000000000000000000000000000000 Fld.synCtx.result := has_of 140 (.mk 0x70040 0x0 3 3) 0 (by decide) (by decide) (by decide) (by decide) (by decide)
theorem has_Fld_synErrLog_kind : Has 0x200000000000000000000000000000000000 Fld.synErrLog.kind := has_of 141 (.mk 0x70030 0x0 26 2) 0 (by decide) (by decide) (by decide) (by decide) (by decide)
theorem has_Fld_synErrLog_object : Has 0x400000000000000000000000000000000000 Fld.synErrLog.object := has_of 142 (.mk 0x70030 0x0 16 10) 0 (by decide) (by decide) (by decide) (by decide) (by decide)
theorem has_Fld_synErrLog_remote : Has 0x800000000000000000000000000000000000 Fld.synErrLog.remote := has_of 143 (.mk 0x70030 0x0 28 1) 0 (by decide) (by decide) (by decide) (by decide) (by decide)
theorem has_Fld_synErrLog_status : Has 0x1000000000000000000000000000000000000 Fld.synErrLog.status := has_of 144 (.mk 0x70030 0x0 0 16) 0 (by decide) (by decide) (by decide) (by decide) (by decide)
theorem has_Fld_synErrLog_valid : Has 0x2000000000000000000000000000000000000 Fld.synErrLog.valid := has_of 145 (.mk 0x70030 0x0 63 1) 0 (by decide) (by decide) (by decide) (by decide) (by decide)
theorem has_Fld_synErrStatus_barAbort : Has 0x4000000000000000000000000000000000000 Fld.synErrStatus.barAbort := has_of 146 (.mk 0x70028 0x0 7 1) 0 (by decide) (by decide) (by decide) (by decide) (by decide)
theorem has_Fld_synErrStatus_barTimeout : Has 0x8000000000000000000000000000000000000 Fld.synErrStatus.barTimeout := has_of 147 (.mk 0x70028 0x0 6 1) 0 (by decide) (by decide) (by decide) (by decide) (by decide)
theorem has_Fld_synErrStatus_countSaturated : Has 0x10000000000000000000000000000000000000 Fld.synErrStatus.countSaturated := has_of 148 (.mk 0x70028 0x0 3 1) 0 (by decide) (by decide) (by decide) (by decide) (by decide)
theorem has_Fld_synErrStatus_countUnderflow : Has 0x20000000000000000000000000000000000000 Fld.synErrStatus.countUnderflow := has_of 149 (.mk 0x70028 0x0 1 1) 0 (by decide) (by decide) (by decide) (by decide) (by decide)
theorem has_Fld_synErrStatus_flagOverrun : Has 0x40000000000000000000000000000000000000 Fld.synErrStatus.flagOverrun := has_of 150 (.mk 0x70028 0x0 0 1) 0 (by decide) (by decide) (by decide) (by decide) (by decide)
theorem has_Fld_synErrStatus_pairDisabled : Has 0x80000000000000000000000000000000000000 Fld.synErrStatus.pairDisabled := has_of 151 (.mk 0x70028 0x0 8 1) 0 (by decide) (by decide) (by decide) (by decide) (by decide)
theorem has_Fld_synErrStatus_produceOverflow : Has 0x100000000000000000000000000000000000000 Fld.synErrStatus.produceOverflow := has_of 152 (.mk 0x70028 0x0 2 1) 0 (by decide) (by decide) (by decide) (by decide) (by decide)
theorem has_Fld_synErrStatus_remoteAbort : Has 0x200000000000000000000000000000000000000 Fld.synErrStatus.remoteAbort := has_of 153 (.mk 0x70028 0x0 5 1) 0 (by decide) (by decide) (by decide) (by decide) (by decide)
theorem has_Fld_synErrStatus_remoteRefused : Has 0x400000000000000000000000000000000000000 Fld.synErrStatus.remoteRefused := has_of 154 (.mk 0x70028 0x0 4 1) 0 (by decide) (by decide) (by decide) (by decide) (by decide)
theorem has_Fld_synFence_tokenDone : Has 0x800000000000000000000000000000000000000 Fld.synFence.tokenDone := has_of 155 (.mk 0x70020 0x0 48 16) 0 (by decide) (by decide) (by decide) (by decide) (by decide)
theorem has_Fld_synTbarTree_children (n : Nat) : Has 0x1000000000000000000000000000000000000000 (Fld.synTbarTree.children n) := has_of 156 (.mk 0x73500 0x8 2 6) n (by decide) (by decide) (by show 0x73500 + 0x8 * n = 0x73500 + n * 0x8; omega) (Nat.le_refl _) (Nat.le_refl _)
theorem has_Fld_synTbarTree_role (n : Nat) : Has 0x2000000000000000000000000000000000000000 (Fld.synTbarTree.role n) := has_of 157 (.mk 0x73500 0x8 0 2) n (by decide) (by decide) (by show 0x73500 + 0x8 * n = 0x73500 + n * 0x8; omega) (Nat.le_refl _) (Nat.le_refl _)
theorem has_Fld_synTbarTree_upPos (n : Nat) : Has 0x4000000000000000000000000000000000000000 (Fld.synTbarTree.upPos n) := has_of 158 (.mk 0x73500 0x8 8 7) n (by decide) (by decide) (by show 0x73500 + 0x8 * n = 0x73500 + n * 0x8; omega) (Nat.le_refl _) (Nat.le_refl _)
theorem has_Fld_synTbarTree_upRack (n : Nat) : Has 0x8000000000000000000000000000000000000000 (Fld.synTbarTree.upRack n) := has_of 159 (.mk 0x73500 0x8 15 10) n (by decide) (by decide) (by show 0x73500 + 0x8 * n = 0x73500 + n * 0x8; omega) (Nat.le_refl _) (Nat.le_refl _)
theorem has_Fld_tierCutCounts_abandoned : Has 0x10000000000000000000000000000000000000000 Fld.tierCutCounts.abandoned := has_of 160 (.mk 0x48088 0x0 32 16) 0 (by decide) (by decide) (by decide) (by decide) (by decide)
theorem has_Fld_tierCutCounts_battless : Has 0x20000000000000000000000000000000000000000 Fld.tierCutCounts.battless := has_of 161 (.mk 0x48088 0x0 0 16) 0 (by decide) (by decide) (by decide) (by decide) (by decide)
theorem has_Fld_tierCutCounts_skipped : Has 0x40000000000000000000000000000000000000000 Fld.tierCutCounts.skipped := has_of 162 (.mk 0x48088 0x0 16 16) 0 (by decide) (by decide) (by decide) (by decide) (by decide)
theorem has_Fld_tierCutCounts_suppressed : Has 0x80000000000000000000000000000000000000000 Fld.tierCutCounts.suppressed := has_of 163 (.mk 0x48088 0x0 48 16) 0 (by decide) (by decide) (by decide) (by decide) (by decide)
theorem has_Fld_tierCutCtrl_enable : Has 0x100000000000000000000000000000000000000000 Fld.tierCutCtrl.enable := has_of 164 (.mk 0x48000 0x0 0 1) 0 (by decide) (by decide) (by decide) (by decide) (by decide)
theorem has_Fld_tierCutErrStatus_abandoned : Has 0x200000000000000000000000000000000000000000 Fld.tierCutErrStatus.abandoned := has_of 165 (.mk 0x48080 0x0 1 1) 0 (by decide) (by decide) (by decide) (by decide) (by decide)
theorem has_Fld_tierCutErrStatus_dirInvalid : Has 0x400000000000000000000000000000000000000000 Fld.tierCutErrStatus.dirInvalid := has_of 166 (.mk 0x48080 0x0 6 1) 0 (by decide) (by decide) (by decide) (by decide) (by decide)
theorem has_Fld_tierCutErrStatus_feltDeadline : Has 0x800000000000000000000000000000000000000000 Fld.tierCutErrStatus.feltDeadline := has_of 167 (.mk 0x48080 0x0 3 1) 0 (by decide) (by decide) (by decide) (by decide) (by decide)
theorem has_Fld_tierCutErrStatus_sedgeIncomplete : Has 0x1000000000000000000000000000000000000000000 Fld.tierCutErrStatus.sedgeIncomplete := has_of 168 (.mk 0x48080 0x0 2 1) 0 (by decide) (by decide) (by decide) (by decide) (by decide)
theorem has_Fld_tierCutErrStatus_skipped : Has 0x2000000000000000000000000000000000000000000 Fld.tierCutErrStatus.skipped := has_of 169 (.mk 0x48080 0x0 0 1) 0 (by decide) (by decide) (by decide) (by decide) (by decide)
theorem has_Fld_tierCutErrStatus_suspect : Has 0x4000000000000000000000000000000000000000000 Fld.tierCutErrStatus.suspect := has_of 170 (.mk 0x48080 0x0 4 1) 0 (by decide) (by decide) (by decide) (by decide) (by decide)
theorem has_Fld_tierCutErrStatus_vetoSeen : Has 0x8000000000000000000000000000000000000000000 Fld.tierCutErrStatus.vetoSeen := has_of 171 (.mk 0x48080 0x0 5 1) 0 (by decide) (by decide) (by decide) (by decide) (by decide)
theorem has_Fld_tierCutGen_gen : Has 0x10000000000000000000000000000000000000000000 Fld.tierCutGen.gen := has_of 172 (.mk 0x48060 0x0 0 8) 0 (by decide) (by decide) (by decide) (by decide) (by decide)
theorem has_Fld_tierCutJobInfo_gen : Has 0x20000000000000000000000000000000000000000000 Fld.tierCutJobInfo.gen := has_of 173 (.mk 0x48078 0x0 0 8) 0 (by decide) (by decide) (by decide) (by decide) (by decide)
theorem has_Fld_tierCutJobInfo_half : Has 0x40000000000000000000000000000000000000000000 Fld.tierCutJobInfo.half := has_of 174 (.mk 0x48078 0x0 10 1) 0 (by decide) (by decide) (by decide) (by decide) (by decide)
theorem has_Fld_tierCutJobInfo_local : Has 0x80000000000000000000000000000000000000000000 Fld.tierCutJobInfo.local := has_of 175 (.mk 0x48078 0x0 9 1) 0 (by decide) (by decide) (by decide) (by decide) (by decide)
theorem has_Fld_tierCutJobInfo_valid : Has 0x100000000000000000000000000000000000000000000 Fld.tierCutJobInfo.valid := has_of 176 (.mk 0x48078 0x0 8 1) 0 (by decide) (by decide) (by decide) (by decide) (by decide)
theorem has_Fld_tierCutRepl_member0 : Has 0x200000000000000000000000000000000000000000000 Fld.tierCutRepl.member0 := has_of 177 (.mk 0x48050 0x0 2 17) 0 (by decide) (by decide) (by decide) (by decide) (by decide)
theorem has_Fld_tierCutRepl_member1 : Has 0x400000000000000000000000000000000000000000000 Fld.tierCutRepl.member1 := has_of 178 (.mk 0x48050 0x0 19 17) 0 (by decide) (by decide) (by decide) (by decide) (by decide)
theorem has_Fld_tierCutRepl_member2 : Has 0x800000000000000000000000000000000000000000000 Fld.tierCutRepl.member2 := has_of 179 (.mk 0x48050 0x0 36 17) 0 (by decide) (by decide) (by decide) (by decide) (by decide)
theorem has_Fld_tierErrStatus_mapFull : Has 0x1000000000000000000000000000000000000000000000 Fld.tierErrStatus.mapFull := has_of 180 (.mk 0x40080 0x0 2 1) 0 (by decide) (by decide) (by decide) (by decide) (by decide)
theorem has_Fld_tierErrStatus_sedgeRefused : Has 0x2000000000000000000000000000000000000000000000 Fld.tierErrStatus.sedgeRefused := has_of 181 (.mk 0x40080 0x0 0 1) 0 (by decide) (by decide) (by decide) (by decide) (by decide)
theorem has_Fld_tierErrStatus_setLost : Has 0x4000000000000000000000000000000000000000000000 Fld.tierErrStatus.setLost := has_of 182 (.mk 0x40080 0x0 1 1) 0 (by decide) (by decide) (by decide) (by decide) (by decide)
theorem has_Fld_tierErrStatus_staleFelt : Has 0x8000000000000000000000000000000000000000000000 Fld.tierErrStatus.staleFelt := has_of 183 (.mk 0x40080 0x0 3 1) 0 (by decide) (by decide) (by decide) (by decide) (by decide)
theorem has_Fld_tierFeltCfg_feltLanes : Has 0x10000000000000000000000000000000000000000000000 Fld.tierFeltCfg.feltLanes := has_of 184 (.mk 0x40008 0x0 8 6) 0 (by decide) (by decide) (by decide) (by decide) (by decide)
theorem has_Fld_tierFeltCfg_tc3CapPct : Has 0x20000000000000000000000000000000000000000000000 Fld.tierFeltCfg.tc3CapPct := has_of 185 (.mk 0x40008 0x0 0 7) 0 (by decide) (by decide) (by decide) (by decide) (by decide)
theorem has_Fld_tierFeltPorts_soMask : Has 0x40000000000000000000000000000000000000000000000 Fld.tierFeltPorts.soMask := has_of 186 (.mk 0x40010 0x0 36 6) 0 (by decide) (by decide) (by decide) (by decide) (by decide)
theorem has_Fld_tierFeltPorts_uflMask : Has 0x80000000000000000000000000000000000000000000000 Fld.tierFeltPorts.uflMask := has_of 187 (.mk 0x40010 0x0 0 36) 0 (by decide) (by decide) (by decide) (by decide) (by decide)
theorem has_Fld_tierHbCfg_hbIntervalMs : Has 0x100000000000000000000000000000000000000000000000 Fld.tierHbCfg.hbIntervalMs := has_of 188 (.mk 0x49000 0x0 0 8) 0 (by decide) (by decide) (by decide) (by decide) (by decide)
theorem has_Fld_tierHbCfg_missLimit : Has 0x200000000000000000000000000000000000000000000000 Fld.tierHbCfg.missLimit := has_of 189 (.mk 0x49000 0x0 8 4) 0 (by decide) (by decide) (by decide) (by decide) (by decide)
theorem has_Fld_tierIdent_position : Has 0x400000000000000000000000000000000000000000000000 Fld.tierIdent.position := has_of 190 (.mk 0x40018 0x0 42 7) 0 (by decide) (by decide) (by decide) (by decide) (by decide)
theorem has_Fld_tierIdent_rack : Has 0x800000000000000000000000000000000000000000000000 Fld.tierIdent.rack := has_of 191 (.mk 0x40018 0x0 32 10) 0 (by decide) (by decide) (by decide) (by decide) (by decide)
theorem has_Fld_tierIdent_rank : Has 0x1000000000000000000000000000000000000000000000000 Fld.tierIdent.rank := has_of 192 (.mk 0x40018 0x0 0 32) 0 (by decide) (by decide) (by decide) (by decide) (by decide)
theorem has_Fld_tierMapStatus_fullEvents : Has 0x2000000000000000000000000000000000000000000000000 Fld.tierMapStatus.fullEvents := has_of 193 (.mk 0x40078 0x0 32 32) 0 (by decide) (by decide) (by decide) (by decide) (by decide)
theorem has_Fld_tierOwner_position (n : Nat) : Has 0x4000000000000000000000000000000000000000000000000 (Fld.tierOwner.position n) := has_of 194 (.mk 0x40040 0x8 11 7) n (by decide) (by decide) (by show 0x40040 + 0x8 * n = 0x40040 + n * 0x8; omega) (Nat.le_refl _) (Nat.le_refl _)
theorem has_Fld_tierPartner_position : Has 0x8000000000000000000000000000000000000000000000000 Fld.tierPartner.position := has_of 195 (.mk 0x40030 0x0 10 7) 0 (by decide) (by decide) (by decide) (by decide) (by decide)
theorem has_Fld_tierRstCounts_replans : Has 0x10000000000000000000000000000000000000000000000000 Fld.tierRstCounts.replans := has_of 196 (.mk 0x49038 0x0 16 16) 0 (by decide) (by decide) (by decide) (by decide) (by decide)
theorem has_Fld_tierRstCounts_restores : Has 0x20000000000000000000000000000000000000000000000000 Fld.tierRstCounts.restores := has_of 197 (.mk 0x49038 0x0 0 16) 0 (by decide) (by decide) (by decide) (by decide) (by decide)
theorem has_Fld_tierRstCounts_sourceSwitches : Has 0x40000000000000000000000000000000000000000000000000 Fld.tierRstCounts.sourceSwitches := has_of 198 (.mk 0x49038 0x0 32 16) 0 (by decide) (by decide) (by decide) (by decide) (by decide)
theorem has_Fld_tierRstCounts_staleRestore : Has 0x80000000000000000000000000000000000000000000000000 Fld.tierRstCounts.staleRestore := has_of 199 (.mk 0x49038 0x0 48 16) 0 (by decide) (by decide) (by decide) (by decide) (by decide)
theorem has_Fld_tierRstErrStatus_haltSeen : Has 0x100000000000000000000000000000000000000000000000000 Fld.tierRstErrStatus.haltSeen := has_of 200 (.mk 0x49030 0x0 0 1) 0 (by decide) (by decide) (by decide) (by decide) (by decide)
theorem has_Fld_tierRstErrStatus_mixedStep : Has 0x200000000000000000000000000000000000000000000000000 Fld.tierRstErrStatus.mixedStep := has_of 201 (.mk 0x49030 0x0 5 1) 0 (by decide) (by decide) (by decide) (by decide) (by decide)
theorem has_Fld_tierRstErrStatus_noSource : Has 0x400000000000000000000000000000000000000000000000000 Fld.tierRstErrStatus.noSource := has_of 202 (.mk 0x49030 0x0 3 1) 0 (by decide) (by decide) (by decide) (by decide) (by decide)
theorem has_Fld_tierRstErrStatus_noSpare : Has 0x800000000000000000000000000000000000000000000000000 Fld.tierRstErrStatus.noSpare := has_of 203 (.mk 0x49030 0x0 4 1) 0 (by decide) (by decide) (by decide) (by decide) (by decide)
theorem has_Fld_tierRstErrStatus_recordInvalid : Has 0x1000000000000000000000000000000000000000000000000000 Fld.tierRstErrStatus.recordInvalid := has_of 204 (.mk 0x49030 0x0 6 1) 0 (by decide) (by decide) (by decide) (by decide) (by decide)
theorem has_Fld_tierRstErrStatus_replan : Has 0x2000000000000000000000000000000000000000000000000000 Fld.tierRstErrStatus.replan := has_of 205 (.mk 0x49030 0x0 8 1) 0 (by decide) (by decide) (by decide) (by decide) (by decide)
theorem has_Fld_tierRstErrStatus_reshardInvalid : Has 0x4000000000000000000000000000000000000000000000000000 Fld.tierRstErrStatus.reshardInvalid := has_of 206 (.mk 0x49030 0x0 7 1) 0 (by decide) (by decide) (by decide) (by decide) (by decide)
theorem has_Fld_tierRstErrStatus_sourceSwitch : Has 0x8000000000000000000000000000000000000000000000000000 Fld.tierRstErrStatus.sourceSwitch := has_of 207 (.mk 0x49030 0x0 2 1) 0 (by decide) (by decide) (by decide) (by decide) (by decide)
theorem has_Fld_tierRstErrStatus_verifyFail : Has 0x10000000000000000000000000000000000000000000000000000 Fld.tierRstErrStatus.verifyFail := has_of 208 (.mk 0x49030 0x0 1 1) 0 (by decide) (by decide) (by decide) (by decide) (by decide)
theorem has_Fld_tierSedgeCounts_refusals : Has 0x20000000000000000000000000000000000000000000000000000 Fld.tierSedgeCounts.refusals := has_of 209 (.mk 0x40068 0x0 32 16) 0 (by decide) (by decide) (by decide) (by decide) (by decide)
theorem has_Fld_tierSedgeCounts_staleFelt : Has 0x40000000000000000000000000000000000000000000000000000 Fld.tierSedgeCounts.staleFelt := has_of 210 (.mk 0x40068 0x0 0 32) 0 (by decide) (by decide) (by decide) (by decide) (by decide)
theorem has_Fld_tierWardenStatus_detections : Has 0x80000000000000000000000000000000000000000000000000000 Fld.tierWardenStatus.detections := has_of 211 (.mk 0x49040 0x0 32 32) 0 (by decide) (by decide) (by decide) (by decide) (by decide)
theorem has_Fld_timCtrl_switches : Has 0x100000000000000000000000000000000000000000000000000000 Fld.timCtrl.switches := has_of 212 (.mk 0x80000 0x0 16 16) 0 (by decide) (by decide) (by decide) (by decide) (by decide)
theorem has_Fld_timTslogHead_head : Has 0x200000000000000000000000000000000000000000000000000000 Fld.timTslogHead.head := has_of 213 (.mk 0x80018 0x0 0 48) 0 (by decide) (by decide) (by decide) (by decide) (by decide)
theorem has_Reg_chkEngCtrl (n : Nat) : HasReg 0x400000000000000000000000000000000000000000000000000000 (Reg.chkEngCtrl n) := hasReg_of 214 (.mk 0xA1010 0x40 0 64) n (by decide) (by decide) (by show 0xA1010 + 0x40 * n = 0xA1010 + n * 0x40; omega) rfl rfl
theorem has_Reg_cmdQCfg (n : Nat) : HasReg 0x800000000000000000000000000000000000000000000000000000 (Reg.cmdQCfg n) := hasReg_of 215 (.mk 0x91000 0x200 0 64) n (by decide) (by decide) (by show 0x91000 + 0x200 * n = 0x91000 + n * 0x200; omega) rfl rfl
theorem has_Reg_fulFaultSeq : HasReg 0x1000000000000000000000000000000000000000000000000000000 Reg.fulFaultSeq := hasReg_of 216 (.mk 0x30048 0x0 0 64) 0 (by decide) (by decide) (by decide) rfl rfl
theorem has_Reg_fulProgCtrl : HasReg 0x2000000000000000000000000000000000000000000000000000000 Reg.fulProgCtrl := hasReg_of 217 (.mk 0x30080 0x0 0 64) 0 (by decide) (by decide) (by decide) rfl rfl
theorem has_Reg_fulQCfg (n : Nat) : HasReg 0x4000000000000000000000000000000000000000000000000000000 (Reg.fulQCfg n) := hasReg_of 218 (.mk 0x31000 0x40 0 64) n (by decide) (by decide) (by show 0x31000 + 0x40 * n = 0x31000 + n * 0x40; omega) rfl rfl
theorem has_Reg_fulSrSeed : HasReg 0x8000000000000000000000000000000000000000000000000000000 Reg.fulSrSeed := hasReg_of 219 (.mk 0x30008 0x0 0 64) 0 (by decide) (by decide) (by decide) rfl rfl
theorem has_Reg_lnkStatus (n : Nat) : HasReg 0x10000000000000000000000000000000000000000000000000000000 (Reg.lnkStatus n) := hasReg_of 220 (.mk 0x20008 0x100 0 64) n (by decide) (by decide) (by show 0x20008 + 0x100 * n = 0x20008 + n * 0x100; omega) rfl rfl
theorem has_Reg_peatCtrl : HasReg 0x20000000000000000000000000000000000000000000000000000000 Reg.peatCtrl := hasReg_of 221 (.mk 0x50000 0x0 0 64) 0 (by decide) (by decide) (by decide) rfl rfl
theorem has_Reg_peatPin (n : Nat) : HasReg 0x40000000000000000000000000000000000000000000000000000000 (Reg.peatPin n) := hasReg_of 222 (.mk 0x50040 0x8 0 64) n (by decide) (by decide) (by show 0x50040 + 0x8 * n = 0x50040 + n * 0x8; omega) rfl rfl
theorem has_Reg_redChBackup (n : Nat) : HasReg 0x80000000000000000000000000000000000000000000000000000000 (Reg.redChBackup n) := hasReg_of 223 (.mk 0x11028 0x40 0 64) n (by decide) (by decide) (by show 0x11028 + 0x40 * n = 0x11028 + n * 0x40; omega) rfl rfl
theorem has_Reg_redChCfg (n : Nat) : HasReg 0x100000000000000000000000000000000000000000000000000000000 (Reg.redChCfg n) := hasReg_of 224 (.mk 0x11000 0x40 0 64) n (by decide) (by decide) (by show 0x11000 + 0x40 * n = 0x11000 + n * 0x40; omega) rfl rfl
theorem has_Reg_redChDesc (n : Nat) : HasReg 0x200000000000000000000000000000000000000000000000000000000 (Reg.redChDesc n) := hasReg_of 225 (.mk 0x11010 0x40 0 64) n (by decide) (by decide) (by show 0x11010 + 0x40 * n = 0x11010 + n * 0x40; omega) rfl rfl
theorem has_Reg_redChKeep (n : Nat) : HasReg 0x400000000000000000000000000000000000000000000000000000000 (Reg.redChKeep n) := hasReg_of 226 (.mk 0x11020 0x40 0 64) n (by decide) (by decide) (by show 0x11020 + 0x40 * n = 0x11020 + n * 0x40; omega) rfl rfl
theorem has_Reg_redChPorts (n : Nat) : HasReg 0x800000000000000000000000000000000000000000000000000000000 (Reg.redChPorts n) := hasReg_of 227 (.mk 0x11008 0x40 0 64) n (by decide) (by decide) (by show 0x11008 + 0x40 * n = 0x11008 + n * 0x40; omega) rfl rfl
theorem has_Reg_redChRepl (n : Nat) : HasReg 0x1000000000000000000000000000000000000000000000000000000000 (Reg.redChRepl n) := hasReg_of 228 (.mk 0x11030 0x40 0 64) n (by decide) (by decide) (by show 0x11030 + 0x40 * n = 0x11030 + n * 0x40; omega) rfl rfl
theorem has_Reg_redChSync (n : Nat) : HasReg 0x2000000000000000000000000000000000000000000000000000000000 (Reg.redChSync n) := hasReg_of 229 (.mk 0x11018 0x40 0 64) n (by decide) (by decide) (by show 0x11018 + 0x40 * n = 0x11018 + n * 0x40; omega) rfl rfl
theorem has_Reg_redNfSeq : HasReg 0x4000000000000000000000000000000000000000000000000000000000 Reg.redNfSeq := hasReg_of 230 (.mk 0x10030 0x0 0 64) 0 (by decide) (by decide) (by decide) rfl rfl
theorem has_Reg_redSrSeed : HasReg 0x8000000000000000000000000000000000000000000000000000000000 Reg.redSrSeed := hasReg_of 231 (.mk 0x10008 0x0 0 64) 0 (by decide) (by decide) (by decide) rfl rfl
theorem has_Reg_secKeyCtrl : HasReg 0x10000000000000000000000000000000000000000000000000000000000 Reg.secKeyCtrl := hasReg_of 232 (.mk 0x60000 0x0 0 64) 0 (by decide) (by decide) (by decide) rfl rfl
theorem has_Reg_synBarCfg (n : Nat) : HasReg 0x20000000000000000000000000000000000000000000000000000000000 (Reg.synBarCfg n) := hasReg_of 233 (.mk 0x73000 0x40 0 64) n (by decide) (by decide) (by show 0x73000 + 0x40 * n = 0x73000 + n * 0x40; omega) rfl rfl
theorem has_Reg_synCtrl : HasReg 0x40000000000000000000000000000000000000000000000000000000000 Reg.synCtrl := hasReg_of 234 (.mk 0x70000 0x0 0 64) 0 (by decide) (by decide) (by decide) rfl rfl
theorem has_Reg_synCtx : HasReg 0x80000000000000000000000000000000000000000000000000000000000 Reg.synCtx := hasReg_of 235 (.mk 0x70040 0x0 0 64) 0 (by decide) (by decide) (by decide) rfl rfl
theorem has_Reg_tierCutCtrl : HasReg 0x100000000000000000000000000000000000000000000000000000000000 Reg.tierCutCtrl := hasReg_of 236 (.mk 0x48000 0x0 0 64) 0 (by decide) (by decide) (by decide) rfl rfl
theorem has_Reg_tierCutJob : HasReg 0x200000000000000000000000000000000000000000000000000000000000 Reg.tierCutJob := hasReg_of 237 (.mk 0x48070 0x0 0 64) 0 (by decide) (by decide) (by decide) rfl rfl
theorem has_Reg_tierOwner (n : Nat) : HasReg 0x400000000000000000000000000000000000000000000000000000000000 (Reg.tierOwner n) := hasReg_of 238 (.mk 0x40040 0x8 0 64) n (by decide) (by decide) (by show 0x40040 + 0x8 * n = 0x40040 + n * 0x8; omega) rfl rfl
theorem has_Reg_timCtrl : HasReg 0x800000000000000000000000000000000000000000000000000000000000 Reg.timCtrl := hasReg_of 239 (.mk 0x80000 0x0 0 64) 0 (by decide) (by decide) (by decide) rfl rfl

end Sys2Proof.Machine
end

