-- ==== Sys2Proof/Laws/Frames.lean ====
section
/-! SUPPORT. Frames said with fields (`FieldsBut`), with bytes of memory (`BytesBut`) and with both components and fields (`Changes`): how they
follow from the operations and from `Keep`. -/
namespace Sys2Proof.Machine

variable {ps qs : List Component} {fs gs : List Fld} {s t u : State}

/-! ## Fields -/

theorem FieldsBut.refl (fs : List Fld) (s : State) : FieldsBut fs s s := fun _ _ => .inr rfl

theorem FieldsBut.trans (h1 : FieldsBut fs s t) (h2 : FieldsBut fs t u) : FieldsBut fs s u := fun off i =>
  match h1 off i, h2 off i with
  | .inl a, _ => .inl a
  | _, .inl b => .inl b
  | .inr a, .inr b => .inr (b.trans a)

theorem FieldsBut.mono (h : FieldsBut fs s t) (hs : ∀ f ∈ fs, f ∈ gs) : FieldsBut gs s t := fun off i =>
  (h off i).imp_left fun ⟨f, hf, e⟩ => ⟨f, hs f hf, e⟩

theorem FieldsBut.of_regs (h : t.regs = s.regs) : FieldsBut fs s t := fun off _ => .inr (by unfold State.getReg; rw [h])

theorem FieldsBut.wr (h : FieldsBut fs s t) (hr : rising t.regs = true) {f : Fld} (hf : f ∈ fs) (v : Nat) : FieldsBut fs s (t.wr f v) :=
  h.trans fun off i => by
    by_cases e : f.off = off ∧ f.lo ≤ i ∧ i < f.lo + f.len
    · exact .inl ⟨f, hf, e.1, e.2⟩
    · exact .inr (getReg_wr_bit f v off i hr e)

theorem FieldsBut.setReg (h : FieldsBut fs s t) {off : Nat} (hf : ⟨off, 0, 64⟩ ∈ fs) (v : W64) : FieldsBut fs s (t.setReg off v) :=
  h.trans fun o i => by
    by_cases e : off = o
    · subst e
      by_cases hi : i < 64
      · exact .inl ⟨_, hf, rfl, Nat.zero_le _, by simpa using hi⟩
      · exact .inr (by rw [BitVec.getLsbD_of_ge _ _ (by omega), BitVec.getLsbD_of_ge _ _ (by omega)])
    · exact .inr (by rw [getReg_setReg_other t v e])

/-- A field outside those named reads as before. -/
theorem FieldsBut.rd (h : FieldsBut fs s t) {g : Fld}
    (hg : fs.all (fun f => f.off != g.off || decide (f.lo + f.len ≤ g.lo) || decide (g.lo + g.len ≤ f.lo)) = true) : t.rd g = s.rd g := by
  unfold State.rd
  apply Nat.eq_of_testBit_eq
  intro i
  rw [testBit_bits, testBit_bits]
  by_cases hi : i < g.len
  · rcases h g.off (g.lo + i) with ⟨f, hf, e1, e2, e3⟩ | e
    · have := List.all_eq_true.1 hg f hf
      simp only [e1, bne_self_eq_false, Bool.false_or, Bool.or_eq_true, decide_eq_true_eq] at this
      omega
    · simp only [BitVec.getLsbD] at e
      rw [e]
  · simp [hi]

/-- The patterns of a mask lie in the fields named. -/
def fits (m : Nat) (fs : List Fld) : Bool :=
  (List.range fieldPats.length).all fun k => !m.testBit k ||
    match fieldPats[k]? with
    | none => true
    | some p => p.len != 0 && p.stride == 0 && fs.any (fun f => f.off == p.base && decide (f.lo ≤ p.lo) && decide (p.lo + p.len ≤ f.lo + f.len))

theorem FieldsBut.of_bits {m : Nat} (h : BitsBut m s t) (hm : fits m fs = true) : FieldsBut fs s t := fun off i => by
  refine (h off i).imp_left ?_
  rintro ⟨k, p, hk, hp, hi⟩
  have hlt : k < fieldPats.length := by
    by_contra hn
    rw [List.getElem?_eq_none (by omega)] at hp
    cases hp
  have := List.all_eq_true.1 hm k (List.mem_range.2 hlt)
  simp only [hk, Bool.not_true, Bool.false_or, hp, Bool.and_eq_true, bne_iff_ne, ne_eq, beq_iff_eq, List.any_eq_true, decide_eq_true_eq] at this
  obtain ⟨⟨h0, h1⟩, f, hf, ⟨e1, e2⟩, e3⟩ := this
  rcases hi with hi | ⟨⟨j, hj⟩, h4, h5⟩
  · exact absurd hi h0
  · rw [h1, Nat.mul_zero, Nat.add_zero] at hj
    exact ⟨f, hf, by rw [e1, hj], by omega, by omega⟩

/-! ## Components and fields -/

theorem Changes.refl (ps : List Component) (fs : List Fld) (s : State) : Changes ps fs s s := ⟨Only.refl ps s, FieldsBut.refl fs s⟩

theorem Changes.step (h2 : Changes qs gs t u) (hq : ∀ p ∈ qs, p ∈ ps) (hg : ∀ f ∈ gs, f ∈ fs) (h1 : Changes ps fs s t) : Changes ps fs s u :=
  ⟨h2.1.step hq h1.1, h1.2.trans (h2.2.mono hg)⟩

/-- Of an operation that writes registers at fixed places only. -/
theorem Changes.of_keep {k : Touch} (h : Keep k s t) (hs : s.Inv) (hf : fits k.2 fs = true) : Changes k.1 fs s t :=
  ⟨h.only, .of_bits (h.bits hs) hf⟩

/-! ## Memory -/

theorem BytesBut.refl (a n : Nat) (s : State) : BytesBut a n s s := fun _ => .inr rfl

theorem BytesBut.of_mem {a n : Nat} (h : t.mem = s.mem) : BytesBut a n s t := fun b => .inr (by rw [h])

theorem BytesBut.store' {a n : Nat} (s : State) (bs : List Byte) (h : bs.length ≤ n) : BytesBut a n s (s.store' a bs) := fun b => by
  by_cases e : a ≤ b ∧ b < a + n
  · exact .inl e
  · exact .inr (Memory.byteAt_putBytes_outside _ _ _ _ (by omega))

end Sys2Proof.Machine
end

