-- ==== Sys2Proof/Laws/KeepOps.lean ====
section
/-! SUPPORT. What each operation of Machine/Ops.lean can do: one lemma for each (`Keep`). -/
namespace Sys2Proof.Machine

set_option linter.all false

theorem State.store'_keep (s : State) (a : Nat) (bs : List Byte) : Keep ([.mem], 0) s (s.store' a bs) := keep_mem s _ (Memory.wf_putBytes a bs)

theorem State.storeN_keep (s : State) (a n v : Nat) : Keep ([.mem], 0x0) s (State.storeN s a n v) := by
  unfold State.storeN
  repeat' first
    | with_reducible exact Keep.refl _ _
    | with_reducible assumption
    | (with_reducible apply Keep.step; with_reducible apply State.store'_keep; decide)
    | with_reducible apply Keep.ite
    | split
    | dsimp only










theorem State.iff'_keep {ps : Touch} {s t : State} {c : Bool} {f : State → State} (h : Keep ps s t) (hf : Keep ps t (f t)) : Keep ps s (t.iff' c f) := by
  unfold State.iff'
  split
  · exact Keep.step hf (sub_self _) h
  · exact h

theorem State.pickFree_keep (s : State) (n : Nat) : Keep ([.freeCtr], 0x0) s (State.pickFree s n).2 := by
  unfold State.pickFree
  repeat' first
    | with_reducible exact Keep.refl _ _
    | with_reducible assumption
    | fail_if_no_progress (with_reducible apply Keep.step; with_reducible apply keep_freeCtr; decide)
    | with_reducible apply Keep.ite
    | split
    | dsimp only

theorem State.pickBool_keep (s : State) : Keep ([.freeCtr], 0x0) s (State.pickBool s).2 := by
  unfold State.pickBool
  repeat' first
    | with_reducible exact Keep.refl _ _
    | with_reducible assumption
    | fail_if_no_progress (with_reducible apply Keep.step; with_reducible apply keep_freeCtr; decide)
    | with_reducible apply Keep.ite
    | split
    | dsimp only

theorem State.logIt_keep (s : State) (kind : Nat) (st : Status) (unit : Nat) (detail : List Byte) : Keep ([.regs, .log], 0x40000000000000) s (State.logIt s kind st unit detail) := by
  unfold State.logIt
  repeat' first
    | with_reducible exact Keep.refl _ _
    | with_reducible assumption
    | (with_reducible apply Keep.step; with_reducible apply State.count_keep has_Fld_ctlErrlog_head; decide)
    | fail_if_no_progress (with_reducible apply Keep.step; with_reducible apply keep_log; decide)
    | with_reducible apply Keep.ite
    | split
    | dsimp only

theorem State.freeBytes_keep (s : State) (n : Nat) : Keep ([.freeCtr], 0x0) s (State.freeBytes s n).2 := by
  unfold State.freeBytes
  repeat' first
    | with_reducible exact Keep.refl _ _
    | with_reducible assumption
    | fail_if_no_progress (with_reducible apply Keep.step; with_reducible apply keep_freeCtr; decide)
    | with_reducible apply Keep.ite
    | split
    | dsimp only

theorem State.logFw_keep (s : State) (kind : Nat) (st : Status) (unit : Nat) : Keep ([.regs, .log, .freeCtr], 0x40000000000000) s (State.logFw s kind st unit) := by
  unfold State.logFw
  repeat' first
    | with_reducible exact Keep.refl _ _
    | with_reducible assumption
    | (with_reducible apply Keep.step; with_reducible apply State.freeBytes_keep; decide)
    | (with_reducible apply Keep.step; with_reducible apply State.logIt_keep; decide)
    | with_reducible apply Keep.ite
    | split
    | dsimp only
    | (with_reducible apply Keep.step; with_reducible apply Keep.of_snd; assumption; with_reducible apply State.freeBytes_keep; decide)

theorem State.logAbort_keep (s : State) (unit queue seq shard : Nat) (st : Status) : Keep ([.regs, .log], 0x40000000000000) s (State.logAbort s unit queue seq shard st) := by
  unfold State.logAbort
  repeat' first
    | with_reducible exact Keep.refl _ _
    | with_reducible assumption
    | (with_reducible apply Keep.step; with_reducible apply State.logIt_keep; decide)
    | with_reducible apply Keep.ite
    | split
    | dsimp only

theorem State.accessError_keep (s : State) (off width : Nat) (isWrite : Bool) : Keep ([.regs, .log], 0x40800000000000) s (State.accessError s off width isWrite) := by
  unfold State.accessError
  repeat' first
    | with_reducible exact Keep.refl _ _
    | with_reducible assumption
    | (with_reducible apply Keep.step; with_reducible apply State.logIt_keep; decide)
    | (with_reducible apply Keep.step; with_reducible apply State.raise_keep has_Fld_ctlErrStatus_accessErr; decide)
    | with_reducible apply Keep.ite
    | split
    | dsimp only

theorem State.logRace_keep (s : State) (unit task wd : Nat) (r : Race) : Keep ([.regs, .log], 0x40000000300000) s (State.logRace s unit task wd r) := by
  unfold State.logRace
  repeat' first
    | with_reducible exact Keep.refl _ _
    | with_reducible assumption
    | (with_reducible apply Keep.step; with_reducible apply State.logIt_keep; decide)
    | (with_reducible apply Keep.step; with_reducible apply State.bump_keep has_Fld_ctlArbRace_arrivalWon; decide)
    | (with_reducible apply Keep.step; with_reducible apply State.bump_keep has_Fld_ctlArbRace_expiryWon; decide)
    | with_reducible apply Keep.ite
    | split
    | dsimp only

theorem State.irq_keep (s : State) (v : Nat) : Keep ([.irqs], 0x0) s (State.irq s v) := by
  unfold State.irq
  repeat' first
    | with_reducible exact Keep.refl _ _
    | with_reducible assumption
    | fail_if_no_progress (with_reducible apply Keep.step; with_reducible apply keep_irqs; decide)
    | with_reducible apply Keep.ite
    | split
    | dsimp only

end Sys2Proof.Machine
end

