-- ==== Sys2Proof/Laws/KeepFlags.lean ====
section
/-! SUPPORT. What each operation of Machine/Flags.lean can do: one lemma for each (`Keep`). -/
namespace Sys2Proof.Machine

set_option linter.all false

theorem State.onSyn_keep (s : State) (f : Syn → Syn) (hf : ∀ x, (f x).pairs = x.pairs) : Keep ([.syn], 0) s (s.onSyn f) := keep_syn s _ (hf s.syn)

theorem State.putFlag_keep (s : State) (f : Nat) (b : Bool) : Keep ([.syn], 0x0) s (State.putFlag s f b) := by
  unfold State.putFlag
  repeat' first
    | with_reducible exact Keep.refl _ _
    | with_reducible assumption
    | (with_reducible apply Keep.step; with_reducible apply State.onSyn_keep; intro _; rfl; decide)
    | with_reducible apply Keep.ite
    | split
    | dsimp only

theorem State.putPair_keep (s : State) (n : Nat) (p : Pair) (hp : s.Inv → p.ok = true) : Keep ([.syn], 0) s (s.putPair n p) := by
  refine ⟨fun h => ⟨h.1, h.2, h.3, h.4, h.5, h.6, fun m hm => ?_⟩, fun c => by cases c <;> first | exact .inr rfl | exact .inl (by decide), fun _ => BitsBut.of_regs 0 rfl⟩
  have := h.7 m hm
  simp only [State.pair, State.putPair, State.onSyn, vget, vset, Vector.getElem?_setIfInBounds] at this ⊢
  split
  · rename_i e
    subst e
    simpa [hm] using hp h
  · exact this

theorem State.synErr_keep (s : State) (st : Status) (obj kind : Nat) (remote : Bool) : Keep ([.regs], 0x3e00000000000000000000000000000000000) s (State.synErr s st obj kind remote) := by
  unfold State.synErr
  repeat' first
    | with_reducible exact Keep.refl _ _
    | with_reducible assumption
    | (with_reducible apply Keep.step; with_reducible apply State.wr_keep has_Fld_synErrLog_kind; decide)
    | (with_reducible apply Keep.step; with_reducible apply State.wr_keep has_Fld_synErrLog_object; decide)
    | (with_reducible apply Keep.step; with_reducible apply State.wr_keep has_Fld_synErrLog_status; decide)
    | (with_reducible apply Keep.step; with_reducible apply State.wr_keep has_Fld_synErrLog_valid; decide)
    | (with_reducible apply Keep.step; with_reducible apply State.wrB_keep has_Fld_synErrLog_remote; decide)
    | with_reducible apply Keep.ite
    | split
    | dsimp only

theorem State.notifySlot_keep (s : State) (n : Nat) (st : Status) : Keep ([.mem, .syn], 0x0) s (State.notifySlot s n st) := by
  unfold State.notifySlot
  repeat' first
    | with_reducible exact Keep.refl _ _
    | with_reducible assumption
    | (with_reducible apply Keep.step; with_reducible apply State.storeN_keep; decide)
    | (with_reducible apply Keep.step; with_reducible apply State.onSyn_keep; intro _; rfl; decide)
    | with_reducible apply Keep.ite
    | split
    | dsimp only

theorem State.endWait_keep (s : State) (w : Waiter) (st : Status) : Keep ([.mem, .syn], 0x0) s (State.endWait s w st) := by
  unfold State.endWait
  repeat' first
    | with_reducible exact Keep.refl _ _
    | with_reducible assumption
    | (with_reducible apply Keep.step; with_reducible apply State.notifySlot_keep; decide)
    | with_reducible apply Keep.ite
    | split
    | dsimp only

theorem State.waitConsume_keep (s : State) (w : Waiter) (hw : s.waitHolds w = true) : Keep ([.syn], 0) s (s.waitConsume w) := by
  unfold State.waitConsume
  unfold State.waitHolds at hw
  split
  · rename_i h
    rw [if_pos h] at hw
    split
    · refine State.putPair_keep _ _ _ (fun hi => ?_)
      by_cases hn : w.obj < 512
      · have := hi.7 _ hn
        simp only [Pair.ok, Bool.and_eq_true, Bool.or_eq_true, not_or, decide_eq_true_eq] at this hw ⊢
        try simp only [Pair.avail] at *
        omega
      · have e : s.pair w.obj = {} := by simp [State.pair, vget, hn]
        simp only [e, Pair.ok, Bool.and_eq_true, Bool.or_eq_true, not_or, decide_eq_true_eq] at hw ⊢
        try simp only [Pair.avail] at *
        omega
    · exact Keep.refl _ _
  · exact State.putFlag_keep _ _ _

theorem State.pair_ok {s : State} (hi : s.Inv) (n : Nat) : (s.pair n).ok = true := by
  by_cases hn : n < 512
  · exact hi.7 n hn
  · have e : s.pair n = {} := by simp [State.pair, vget, hn]
    rw [e]
    decide

theorem State.pendOnce_keep {s t : State} {isPair : Bool} {obj : Nat} (h : s.pendOnce isPair obj = some t) : Keep ([.regs, .syn], 0x13e00000000000000000000000000000000000) s t := by
  unfold State.pendOnce at h
  split at h
  · cases h
  · split at h
    · cases h
    · dsimp only at h
      split at h
      · cases h
        exact Keep.step (State.raise_keep has_Fld_synErrStatus_countSaturated _) (by decide) (Keep.step (State.synErr_keep _ _ _ _ _) (by decide) (Keep.step (State.onSyn_keep _ _ (fun _ => rfl)) (by decide) (Keep.refl _ _)))
      · split at h
        · cases h
          refine Keep.step (State.putPair_keep _ _ _ (fun hi => ?_)) (by decide) (Keep.step (State.onSyn_keep _ _ (fun _ => rfl)) (by decide) (Keep.refl _ _))
          have := State.pair_ok hi obj
          simp only [State.pair, State.onSyn] at *
          simp only [Pair.ok, Bool.and_eq_true, Bool.or_eq_true, not_or, decide_eq_true_eq] at *
          try simp only [Pair.avail] at *
          omega
        · cases h

theorem State.serveOnce_keep {s t : State} {isPair : Bool} {obj : Nat} (h : s.serveOnce isPair obj = some t) : Keep ([.regs, .mem, .syn], 0x13e00000000000000000000000000000000000) s t := by
  unfold State.serveOnce at h
  dsimp only at h
  split at h
  · split at h
    · rename_i hw
      cases h
      refine Keep.step (State.endWait_keep _ _ _) (by decide) (Keep.step (State.waitConsume_keep _ _ ?_) (by decide)
        (Keep.step (State.onSyn_keep _ _ (fun _ => rfl)) (by decide) (Keep.refl _ _)))
      exact hw
    · exact Keep.step (State.pendOnce_keep h) (by decide) (Keep.refl _ _)
  · exact Keep.step (State.pendOnce_keep h) (by decide) (Keep.refl _ _)

theorem State.serveN_keep (n : Nat) (s : State) (isPair : Bool) (obj : Nat) : Keep ([.regs, .mem, .syn], 0x13e00000000000000000000000000000000000) s (State.serveN n s isPair obj) := by
  induction n generalizing s with
  | zero => exact Keep.refl _ _
  | succ n ih =>
    unfold State.serveN
    split
    · rename_i h
      exact Keep.step (ih _) (by decide) (State.serveOnce_keep h)
    · exact Keep.refl _ _

theorem State.serve_keep (s : State) (isPair : Bool) (obj : Nat) : Keep ([.regs, .mem, .syn], 0x13e00000000000000000000000000000000000) s (State.serve s isPair obj) := by
  unfold State.serve
  repeat' first
    | with_reducible exact Keep.refl _ _
    | with_reducible assumption
    | (with_reducible apply Keep.step; with_reducible apply State.serveN_keep; decide)
    | with_reducible apply Keep.ite
    | split
    | dsimp only

theorem State.setFlagNow_keep (s : State) (f : Nat) (who : Who) : Keep ([.regs, .mem, .syn], 0x53e10000000000000000000000000000000000) s (State.setFlagNow s f who).1 := by
  unfold State.setFlagNow
  repeat' first
    | with_reducible exact Keep.refl _ _
    | with_reducible assumption
    | (with_reducible apply Keep.step; with_reducible apply State.putFlag_keep; decide)
    | (with_reducible apply Keep.step; with_reducible apply State.synErr_keep; decide)
    | (with_reducible apply Keep.step; with_reducible apply State.serve_keep; decide)
    | (with_reducible apply Keep.step; with_reducible apply State.onSyn_keep; intro _; rfl; decide)
    | (with_reducible apply Keep.step; with_reducible apply State.bump_keep has_Fld_synCounts_overruns; decide)
    | (with_reducible apply Keep.step; with_reducible apply State.raise_keep has_Fld_synErrStatus_flagOverrun; decide)
    | with_reducible apply Keep.ite
    | split
    | dsimp only

theorem State.clearFlagNow_keep (s : State) (f : Nat) : Keep ([.syn], 0x0) s (State.clearFlagNow s f) := by
  unfold State.clearFlagNow
  repeat' first
    | with_reducible exact Keep.refl _ _
    | with_reducible assumption
    | (with_reducible apply Keep.step; with_reducible apply State.putFlag_keep; decide)
    | with_reducible apply Keep.ite
    | split
    | dsimp only

theorem State.refuseProduce_keep (s : State) (pair : Nat) (who : Who) (st : Status) : Keep ([.regs], 0x193e00000000000000000000000000000000000) s (State.refuseProduce s pair who st).1 := by
  unfold State.refuseProduce
  repeat' first
    | with_reducible exact Keep.refl _ _
    | with_reducible assumption
    | (with_reducible apply Keep.step; with_reducible apply State.synErr_keep; decide)
    | (with_reducible apply Keep.step; with_reducible apply State.raise_keep has_Fld_synErrStatus_countSaturated; decide)
    | (with_reducible apply Keep.step; with_reducible apply State.raise_keep has_Fld_synErrStatus_pairDisabled; decide)
    | (with_reducible apply Keep.step; with_reducible apply State.raise_keep has_Fld_synErrStatus_produceOverflow; decide)
    | with_reducible apply Keep.ite
    | split
    | dsimp only

theorem State.produceNow_keep (s : State) (pair n : Nat) (who : Who) : Keep ([.regs, .mem, .syn], 0x193e00000000000000000000000000000000000) s (s.produceNow pair n who).1 := by
  unfold State.produceNow
  dsimp only
  repeat' first
    | with_reducible exact Keep.refl _ _
    | (with_reducible apply Keep.step; with_reducible apply State.refuseProduce_keep; decide)
    | (with_reducible apply Keep.step; with_reducible apply State.onSyn_keep; intro _; rfl; decide)
    | (with_reducible apply Keep.step; with_reducible apply State.serve_keep; decide)
    | split
  refine Keep.step (State.putPair_keep _ _ _ (fun hi => ?_)) (by decide) (Keep.refl _ _)
  have := State.pair_ok hi pair
  simp only [Pair.ok, Bool.and_eq_true, Bool.or_eq_true, not_or, decide_eq_true_eq] at *
  try simp only [Pair.avail] at *
  omega

theorem State.consumeNow_keep (s : State) (pair n : Nat) : Keep ([.regs, .mem, .syn], 0x33e80000000000000000000000000000000000) s (s.consumeNow pair n).1 := by
  unfold State.consumeNow
  dsimp only
  repeat' first
    | with_reducible exact Keep.refl _ _
    | (with_reducible apply Keep.step; with_reducible apply State.bump_keep has_Fld_synCounts_underflows; decide)
    | (with_reducible apply Keep.step; with_reducible apply State.raise_keep has_Fld_synErrStatus_countUnderflow; decide)
    | (with_reducible apply Keep.step; with_reducible apply State.synErr_keep; decide)
    | (with_reducible apply Keep.step; with_reducible apply State.serve_keep; decide)
    | split
  refine Keep.step (State.putPair_keep _ _ _ (fun hi => ?_)) (by decide) (Keep.refl _ _)
  have := State.pair_ok hi pair
  simp only [Pair.ok, Bool.and_eq_true, Bool.or_eq_true, not_or, decide_eq_true_eq] at *
  try simp only [Pair.avail] at *
  omega

theorem State.waitNow_keep (s : State) (w : Waiter) : Keep ([.regs, .mem, .syn], 0x13e00000000000000000000000000000000000) s (State.waitNow s w) := by
  unfold State.waitNow
  repeat' first
    | with_reducible exact Keep.refl _ _
    | with_reducible assumption
    | (with_reducible apply Keep.step; with_reducible apply State.serve_keep; decide)
    | (with_reducible apply Keep.step; with_reducible apply State.onSyn_keep; intro _; rfl; decide)
    | with_reducible apply Keep.ite
    | split
    | dsimp only

theorem State.hold_keep (s : State) (h : Held) : Keep ([.syn], 0x0) s (State.hold s h).1 := by
  unfold State.hold
  repeat' first
    | with_reducible exact Keep.refl _ _
    | with_reducible assumption
    | (with_reducible apply Keep.step; with_reducible apply State.onSyn_keep; intro _; rfl; decide)
    | with_reducible apply Keep.ite
    | split
    | dsimp only

theorem State.setFlag_keep (s : State) (f : Nat) (who : Who) : Keep ([.regs, .mem, .syn], 0x53e10000000000000000000000000000000000) s (State.setFlag s f who).1 := by
  unfold State.setFlag
  repeat' first
    | with_reducible exact Keep.refl _ _
    | with_reducible assumption
    | (with_reducible apply Keep.step; with_reducible apply State.setFlagNow_keep; decide)
    | (with_reducible apply Keep.step; with_reducible apply State.hold_keep; decide)
    | with_reducible apply Keep.ite
    | split
    | dsimp only
    | (with_reducible apply Keep.step; with_reducible apply Keep.of_fst; assumption; with_reducible apply State.setFlagNow_keep; decide)
    | (with_reducible apply Keep.step; with_reducible apply Keep.of_fst; assumption; with_reducible apply State.hold_keep; decide)

theorem State.produce_keep (s : State) (pair n : Nat) (who : Who) : Keep ([.regs, .mem, .syn], 0x193e00000000000000000000000000000000000) s (State.produce s pair n who).1 := by
  unfold State.produce
  repeat' first
    | with_reducible exact Keep.refl _ _
    | with_reducible assumption
    | (with_reducible apply Keep.step; with_reducible apply State.produceNow_keep; decide)
    | (with_reducible apply Keep.step; with_reducible apply State.hold_keep; decide)
    | with_reducible apply Keep.ite
    | split
    | dsimp only
    | (with_reducible apply Keep.step; with_reducible apply Keep.of_fst; assumption; with_reducible apply State.produceNow_keep; decide)
    | (with_reducible apply Keep.step; with_reducible apply Keep.of_fst; assumption; with_reducible apply State.hold_keep; decide)

theorem State.wait_keep (s : State) (w : Waiter) : Keep ([.regs, .mem, .syn], 0x13e00000000000000000000000000000000000) s (State.wait s w) := by
  unfold State.wait
  repeat' first
    | with_reducible exact Keep.refl _ _
    | with_reducible assumption
    | (with_reducible apply Keep.step; with_reducible apply State.waitNow_keep; decide)
    | (with_reducible apply Keep.step; with_reducible apply State.hold_keep; decide)
    | with_reducible apply Keep.ite
    | split
    | dsimp only
    | (with_reducible apply Keep.step; with_reducible apply Keep.of_fst; assumption; with_reducible apply State.hold_keep; decide)

theorem State.release_keep (s : State) (h : Held) : Keep ([.regs, .mem, .syn], 0x1d3e10000000000000000000000000000000000) s (State.release s h) := by
  unfold State.release
  repeat' first
    | with_reducible exact Keep.refl _ _
    | with_reducible assumption
    | (with_reducible apply Keep.step; with_reducible apply State.produceNow_keep; decide)
    | (with_reducible apply Keep.step; with_reducible apply State.setFlagNow_keep; decide)
    | (with_reducible apply Keep.step; with_reducible apply State.waitNow_keep; decide)
    | (with_reducible apply Keep.step; with_reducible apply State.produce_keep; decide)
    | (with_reducible apply Keep.step; with_reducible apply State.wait_keep; decide)
    | with_reducible apply Keep.ite
    | split
    | dsimp only
    | (with_reducible apply Keep.step; with_reducible apply Keep.of_fst; assumption; with_reducible apply State.produceNow_keep; decide)
    | (with_reducible apply Keep.step; with_reducible apply Keep.of_fst; assumption; with_reducible apply State.setFlagNow_keep; decide)
    | (with_reducible apply Keep.step; with_reducible apply Keep.of_fst; assumption; with_reducible apply State.produce_keep; decide)

theorem State.takeCount_keep {s t : State} {pair : Nat} (h : s.takeCount pair = some t) : Keep ([.regs, .mem, .syn], 0x13e00000000000000000000000000000000000) s t := by
  unfold State.takeCount at h
  dsimp only at h
  split at h
  · cases h
  · rename_i hc
    cases h
    refine Keep.step (State.serve_keep _ _ _) (by decide) (Keep.step (State.putPair_keep _ _ _ (fun hi => ?_)) (by decide) (Keep.refl _ _))
    have := State.pair_ok hi pair
    simp only [Pair.ok, Bool.and_eq_true, Bool.or_eq_true, not_or, decide_eq_true_eq] at *
    try simp only [Pair.avail] at *
    omega

end Sys2Proof.Machine
end

