-- ==== Sys2Proof/Laws/KeepWire.lean ====
section
/-! SUPPORT. What each operation of Machine/Wire.lean can do: one lemma for each (`Keep`). -/
namespace Sys2Proof.Machine

set_option linter.all false

theorem State.send_keep (s : State) (slice : Option Nat) (dest : Dest) (ty : BitVec 8) (f : Frame) (leaf : Nat) : Keep ([.outbox], 0x0) s (State.send s slice dest ty f leaf) := by
  unfold State.send
  repeat' first
    | with_reducible exact Keep.refl _ _
    | with_reducible assumption
    | fail_if_no_progress (with_reducible apply Keep.step; with_reducible apply keep_outbox; decide)
    | with_reducible apply Keep.ite
    | split
    | dsimp only

theorem State.sendTo_keep (s : State) (rack : BitVec 10) (pos : BitVec 7) (ty : BitVec 8) (f : Frame) : Keep ([.outbox], 0x0) s (State.sendTo s rack pos ty f) := by
  unfold State.sendTo
  repeat' first
    | with_reducible exact Keep.refl _ _
    | with_reducible assumption
    | (with_reducible apply Keep.step; with_reducible apply State.send_keep; decide)
    | with_reducible apply Keep.ite
    | split
    | dsimp only

theorem State.noticeTo_keep (s : State) (rack : BitVec 10) (pos : BitVec 7) (cause unit seq : Nat) (st : Status) (shard : Nat) (step : W64) : Keep ([.outbox], 0x0) s (State.noticeTo s rack pos cause unit seq st shard step) := by
  unfold State.noticeTo
  repeat' first
    | with_reducible exact Keep.refl _ _
    | with_reducible assumption
    | (with_reducible apply Keep.step; with_reducible apply State.sendTo_keep; decide)
    | with_reducible apply Keep.ite
    | split
    | dsimp only

theorem State.notice_keep (s : State) (cause unit seq : Nat) (st : Status) (shard : Nat) (step : W64) : Keep ([.outbox], 0x0) s (State.notice s cause unit seq st shard step) := by
  unfold State.notice
  repeat' first
    | with_reducible exact Keep.refl _ _
    | with_reducible assumption
    | (with_reducible apply Keep.step; with_reducible apply State.noticeTo_keep; decide)
    | with_reducible apply Keep.ite
    | split
    | dsimp only

theorem State.recv_keep {ps : Touch} {s t : State} {n : Nat} {ty : BitVec 8} {f : Frame} {act badCrc : State → State} (h : Keep ps s t)
    (ha : ∀ t, Keep ps t (act t)) (hb : ∀ t, Keep ps t (badCrc t)) (hr : sub ([.regs], 0x5000000000000000000000) ps = true) : Keep ps s (t.recv n ty f act badCrc) := by
  have hs : sub ps ps = true := sub_self _
  unfold State.recv
  split
  · exact h
  · split
    · exact Keep.step (hb _) hs (Keep.step (State.bump_keep (has_Fld_lnkDrop_crc _) _ _) (sub_trans (by decide) hr) h)
    · split
      · exact Keep.step (State.bump_keep (has_Fld_lnkDrop_stale _) _ _) (sub_trans (by decide) hr) h
      · exact Keep.step (ha _) hs h

theorem State.staleAt_keep (s : State) (n : Nat) : Keep ([.regs], 0x4000000000000000000000) s (State.staleAt s n) := by
  unfold State.staleAt
  repeat' first
    | with_reducible exact Keep.refl _ _
    | with_reducible assumption
    | (with_reducible apply Keep.step; with_reducible apply State.bump_keep (has_Fld_lnkDrop_stale _); decide)
    | with_reducible apply Keep.ite
    | split
    | dsimp only

theorem State.allocTag_keep (s : State) : Keep ([.red, .freeCtr], 0x0) s (State.allocTag s).2 := by
  unfold State.allocTag
  repeat' first
    | with_reducible exact Keep.refl _ _
    | with_reducible assumption
    | (with_reducible apply Keep.step; with_reducible apply State.pickFree_keep; decide)
    | fail_if_no_progress (with_reducible apply Keep.step; with_reducible apply keep_red; decide)
    | with_reducible apply Keep.ite
    | split
    | dsimp only
    | (with_reducible apply Keep.step; with_reducible apply Keep.of_snd; assumption; with_reducible apply State.pickFree_keep; decide)

theorem State.releaseTag_keep (s : State) (tag : Nat) : Keep ([.red], 0x0) s (State.releaseTag s tag) := by
  unfold State.releaseTag
  repeat' first
    | with_reducible exact Keep.refl _ _
    | with_reducible assumption
    | fail_if_no_progress (with_reducible apply Keep.step; with_reducible apply keep_red; decide)
    | with_reducible apply Keep.ite
    | split
    | dsimp only

theorem State.releaseTags_keep (s : State) (l : List Nat) : Keep ([.red], 0x0) s (State.releaseTags s l) := by
  unfold State.releaseTags
  repeat' first
    | with_reducible exact Keep.refl _ _
    | with_reducible assumption
    | (with_reducible apply Keep.step; with_reducible apply State.releaseTag_keep; decide)
    | with_reducible apply Keep.foldl
    | with_reducible apply Keep.foldl_fst
    | with_reducible apply Keep.foldl_snd
    | with_reducible apply Keep.ite
    | split
    | dsimp only
    | intro _

end Sys2Proof.Machine
end

