-- ==== Sys2Proof/Laws/KeepLanes.lean ====
section
/-! SUPPORT. What each operation of Machine/Lanes.lean can do: one lemma for each (`Keep`). -/
namespace Sys2Proof.Machine

set_option linter.all false

theorem State.onChk_keep (s : State) (f : Chk → Chk) : Keep ([.chk], 0x0) s (State.onChk s f) := by
  unfold State.onChk
  repeat' first
    | with_reducible exact Keep.refl _ _
    | with_reducible assumption
    | fail_if_no_progress (with_reducible apply Keep.step; with_reducible apply keep_chk; decide)
    | with_reducible apply Keep.ite
    | split
    | dsimp only

theorem State.takeLane_keep (s : State) (n : Nat) (u : LaneUser) : Keep ([.chk], 0x0) s (State.takeLane s n u) := by
  unfold State.takeLane
  repeat' first
    | with_reducible exact Keep.refl _ _
    | with_reducible assumption
    | (with_reducible apply Keep.step; with_reducible apply State.onChk_keep; decide)
    | with_reducible apply Keep.ite
    | split
    | dsimp only

theorem State.dropLane_keep (s : State) (n : Nat) : Keep ([.chk], 0x0) s (State.dropLane s n) := by
  unfold State.dropLane
  repeat' first
    | with_reducible exact Keep.refl _ _
    | with_reducible assumption
    | (with_reducible apply Keep.step; with_reducible apply State.onChk_keep; decide)
    | with_reducible apply Keep.ite
    | split
    | dsimp only

theorem State.dropLanes_keep (s : State) (t : LaneUser → Bool) : Keep ([.chk], 0x0) s (State.dropLanes s t) := by
  unfold State.dropLanes
  repeat' first
    | with_reducible exact Keep.refl _ _
    | with_reducible assumption
    | (with_reducible apply Keep.step; with_reducible apply State.onChk_keep; decide)
    | with_reducible apply Keep.ite
    | split
    | dsimp only

theorem State.takeCtx_keep (s : State) (k : Nat) (u : CtxUser) : Keep ([.chk], 0x0) s (State.takeCtx s k u) := by
  unfold State.takeCtx
  repeat' first
    | with_reducible exact Keep.refl _ _
    | with_reducible assumption
    | (with_reducible apply Keep.step; with_reducible apply State.onChk_keep; decide)
    | with_reducible apply Keep.ite
    | split
    | dsimp only

theorem State.dropCtx_keep (s : State) (k : Nat) : Keep ([.chk], 0x0) s (State.dropCtx s k) := by
  unfold State.dropCtx
  repeat' first
    | with_reducible exact Keep.refl _ _
    | with_reducible assumption
    | (with_reducible apply Keep.step; with_reducible apply State.onChk_keep; decide)
    | with_reducible apply Keep.ite
    | split
    | dsimp only

theorem State.dropCtxs_keep (s : State) (t : CtxUser → Bool) : Keep ([.chk], 0x0) s (State.dropCtxs s t) := by
  unfold State.dropCtxs
  repeat' first
    | with_reducible exact Keep.refl _ _
    | with_reducible assumption
    | (with_reducible apply Keep.step; with_reducible apply State.onChk_keep; decide)
    | with_reducible apply Keep.ite
    | split
    | dsimp only

end Sys2Proof.Machine
end

