-- ==== Sys2Proof/Laws/KeepSedge.lean ====
section
/-! SUPPORT. What each operation of Machine/Sedge.lean can do: one lemma for each (`Keep`). -/
namespace Sys2Proof.Machine

set_option linter.all false

theorem State.putSet_keep (s : State) (k : Nat) (x : SedgeSet) : Keep ([.sedge], 0x0) s (State.putSet s k x) := by
  unfold State.putSet
  repeat' first
    | with_reducible exact Keep.refl _ _
    | with_reducible assumption
    | fail_if_no_progress (with_reducible apply Keep.step; with_reducible apply keep_sedge; decide)
    | with_reducible apply Keep.ite
    | split
    | dsimp only

theorem State.setStore_keep (s : State) (k off : Nat) (bs : List Byte) : Keep ([.regs, .mem], 0x40000008000000000000000000000004000000000000000000000) s (State.setStore s k off bs) := by
  unfold State.setStore
  repeat' first
    | with_reducible exact Keep.refl _ _
    | with_reducible assumption
    | (with_reducible apply Keep.step; with_reducible apply State.staleFelt_keep; decide)
    | (with_reducible apply Keep.step; with_reducible apply State.store'_keep; decide)
    | (with_reducible apply Keep.step; with_reducible apply State.bump_keep has_Fld_tierSedgeCounts_staleFelt; decide)
    | (with_reducible apply Keep.step; with_reducible apply State.raise_keep has_Fld_tierErrStatus_staleFelt; decide)
    | with_reducible apply Keep.ite
    | split
    | dsimp only

theorem State.freeSet_keep (s : State) (k : Nat) : Keep ([.sedge], 0x0) s (State.freeSet s k) := by
  unfold State.freeSet
  repeat' first
    | with_reducible exact Keep.refl _ _
    | with_reducible assumption
    | (with_reducible apply Keep.step; with_reducible apply State.putSet_keep; decide)
    | with_reducible apply Keep.ite
    | split
    | dsimp only

theorem State.keepReport_keep (s : State) (k : Nat) : Keep ([.sedge, .outbox], 0x0) s (State.keepReport s k) := by
  unfold State.keepReport
  repeat' first
    | with_reducible exact Keep.refl _ _
    | with_reducible assumption
    | (with_reducible apply Keep.step; with_reducible apply State.putSet_keep; decide)
    | (with_reducible apply Keep.step; with_reducible apply State.sendTo_keep; decide)
    | with_reducible apply Keep.ite
    | split
    | dsimp only

theorem State.keepFrame_keep (s : State) (n ch : Nat) (seq stepLo : W32) (lo hi es first : Nat) (bs : List Byte) : Keep ([.regs, .mem, .sedge, .outbox], 0x4000000800000000000000000000001c000000000000000000000) s (State.keepFrame s n ch seq stepLo lo hi es first bs) := by
  unfold State.keepFrame
  repeat' first
    | with_reducible exact Keep.refl _ _
    | with_reducible assumption
    | (with_reducible apply Keep.step; with_reducible apply State.keepReport_keep; decide)
    | (with_reducible apply Keep.step; with_reducible apply State.setStore_keep; decide)
    | (with_reducible apply Keep.step; with_reducible apply State.putSet_keep; decide)
    | (with_reducible apply Keep.step; with_reducible apply State.bump_keep (has_Fld_lnkKeep_keepBytes _); decide)
    | (with_reducible apply Keep.step; with_reducible apply State.bump_keep (has_Fld_lnkKeep_keepMiss _); decide)
    | with_reducible apply Keep.ite
    | split
    | dsimp only

theorem State.keepEnd_keep (s : State) (ch : Nat) (seq stepLo : W32) (ok : Bool) (windowBytes : Nat) : Keep ([.sedge, .outbox], 0x0) s (State.keepEnd s ch seq stepLo ok windowBytes) := by
  unfold State.keepEnd
  repeat' first
    | with_reducible exact Keep.refl _ _
    | with_reducible assumption
    | (with_reducible apply Keep.step; with_reducible apply State.keepReport_keep; decide)
    | (with_reducible apply Keep.step; with_reducible apply State.putSet_keep; decide)
    | with_reducible apply Keep.ite
    | split
    | dsimp only

theorem State.acceptSet_keep (s : State) (slot : Nat) (step : W64) (gen : BitVec 8) : Keep ([.regs, .sedge], 0x20000002000000000000000000000000000000000000000000000) s (State.acceptSet s slot step gen).2 := by
  unfold State.acceptSet
  repeat' first
    | with_reducible exact Keep.refl _ _
    | with_reducible assumption
    | (with_reducible apply Keep.step; with_reducible apply State.putSet_keep; decide)
    | (with_reducible apply Keep.step; with_reducible apply State.bump_keep has_Fld_tierSedgeCounts_refusals; decide)
    | (with_reducible apply Keep.step; with_reducible apply State.raise_keep has_Fld_tierErrStatus_sedgeRefused; decide)
    | with_reducible apply Keep.ite
    | split
    | dsimp only

theorem State.mapAdd_keep (s : State) (e : MapEntry) : Keep ([.map], 0x0) s (State.mapAdd s e) := by
  unfold State.mapAdd
  repeat' first
    | with_reducible exact Keep.refl _ _
    | with_reducible assumption
    | fail_if_no_progress (with_reducible apply Keep.step; with_reducible apply keep_map; decide)
    | with_reducible apply Keep.ite
    | split
    | dsimp only

theorem State.mapRefuse_keep (s : State) : Keep ([.regs], 0x2001000000000000000000000000000000000000000000000) s (State.mapRefuse s) := by
  unfold State.mapRefuse
  repeat' first
    | with_reducible exact Keep.refl _ _
    | with_reducible assumption
    | (with_reducible apply Keep.step; with_reducible apply State.bump_keep has_Fld_tierMapStatus_fullEvents; decide)
    | (with_reducible apply Keep.step; with_reducible apply State.raise_keep has_Fld_tierErrStatus_mapFull; decide)
    | with_reducible apply Keep.ite
    | split
    | dsimp only

theorem State.mapDrop_keep (s : State) (t : MapEntry → Bool) : Keep ([.map], 0x0) s (State.mapDrop s t) := by
  unfold State.mapDrop
  repeat' first
    | with_reducible exact Keep.refl _ _
    | with_reducible assumption
    | fail_if_no_progress (with_reducible apply Keep.step; with_reducible apply keep_map; decide)
    | with_reducible apply Keep.ite
    | split
    | dsimp only

theorem State.mapMove_keep (s : State) (t : MapEntry → Bool) (st : MapState) : Keep ([.map], 0x0) s (State.mapMove s t st) := by
  unfold State.mapMove
  repeat' first
    | with_reducible exact Keep.refl _ _
    | with_reducible assumption
    | fail_if_no_progress (with_reducible apply Keep.step; with_reducible apply keep_map; decide)
    | with_reducible apply Keep.ite
    | split
    | dsimp only

theorem State.mapReserve_keep (s : State) (tier : BitVec 2) (gen : BitVec 8) (step : W64) (loc : W64) (rs : List Region) : Keep ([.map], 0x0) s (State.mapReserve s tier gen step loc rs) := by
  unfold State.mapReserve
  repeat' first
    | with_reducible exact Keep.refl _ _
    | with_reducible assumption
    | (with_reducible apply Keep.step; with_reducible apply State.mapAdd_keep; decide)
    | with_reducible apply Keep.foldl
    | with_reducible apply Keep.foldl_fst
    | with_reducible apply Keep.foldl_snd
    | with_reducible apply Keep.ite
    | split
    | dsimp only
    | intro _

theorem State.mapBad_keep (s : State) (t : MapEntry → Bool) (shard : W32) (ext : Nat) : Keep ([.regs, .map], 0x2001000000000000000000000000000000000000000000000) s (State.mapBad s t shard ext) := by
  unfold State.mapBad
  repeat' first
    | with_reducible exact Keep.refl _ _
    | with_reducible assumption
    | (with_reducible apply Keep.step; with_reducible apply State.mapRefuse_keep; decide)
    | (with_reducible apply Keep.step; with_reducible apply State.mapAdd_keep; decide)
    | with_reducible apply Keep.foldl
    | with_reducible apply Keep.foldl_fst
    | with_reducible apply Keep.foldl_snd
    | fail_if_no_progress (with_reducible apply Keep.step; with_reducible apply keep_map; decide)
    | with_reducible apply Keep.ite
    | split
    | dsimp only
    | intro _

end Sys2Proof.Machine
end

