-- ==== Sys2Proof/Laws/KeepRegWrite.lean ====
section
/-! SUPPORT. What each operation of Machine/RegWrite.lean can do: one lemma for each (`Keep`). -/
namespace Sys2Proof.Machine

set_option linter.all false

theorem State.writePlain_keep {m off : Nat} (hf : HasReg m off) (s : State) (w : Nat) : Keep ([.regs, .log], m ||| 0x40800000000000) s (State.writePlain s off w).1 := by
  have hm : sub ([.regs], m) ([.regs, .log], m ||| 0x40800000000000) = true := by
    simp only [sub, Bool.and_eq_true, beq_iff_eq]
    exact ⟨by decide, and_or_left _ _⟩
  have ha : sub ([.regs, .log], 0x40800000000000) ([.regs, .log], m ||| 0x40800000000000) = true := by
    simp only [sub, Bool.and_eq_true, beq_iff_eq]
    exact ⟨by decide, by rw [Nat.or_comm]; exact and_or_left _ _⟩
  unfold State.writePlain
  split
  · exact Keep.refl _ _
  · split
    · exact Keep.step (State.accessError_keep _ _ _ _) ha (Keep.refl _ _)
    · dsimp only
      split
      · exact Keep.step (State.accessError_keep _ _ _ _) ha (Keep.step (State.setReg_keep hf _ _) hm (Keep.refl _ _))
      · exact Keep.step (State.setReg_keep hf _ _) hm (Keep.refl _ _)

end Sys2Proof.Machine
end

