-- ==== Sys2Proof/Laws/KeepBarrier.lean ====
section
/-! SUPPORT. What each operation of Machine/Barrier.lean can do: one lemma for each (`Keep`). -/
namespace Sys2Proof.Machine

set_option linter.all false

theorem State.putBar_keep (s : State) (b : Nat) (x : Barrier) : Keep ([.syn], 0x0) s (State.putBar s b x) := by
  unfold State.putBar
  repeat' first
    | with_reducible exact Keep.refl _ _
    | with_reducible assumption
    | (with_reducible apply Keep.step; with_reducible apply State.onSyn_keep; intro _; rfl; decide)
    | with_reducible apply Keep.ite
    | split
    | dsimp only

theorem State.barFan_keep (s : State) (b : Nat) (ty : BitVec 8) (f : Frame) : Keep ([.outbox], 0x0) s (State.barFan s b ty f) := by
  unfold State.barFan
  repeat' first
    | with_reducible exact Keep.refl _ _
    | with_reducible assumption
    | (with_reducible apply Keep.step; with_reducible apply State.send_keep; decide)
    | with_reducible apply Keep.foldl
    | with_reducible apply Keep.foldl_fst
    | with_reducible apply Keep.foldl_snd
    | with_reducible apply Keep.ite
    | split
    | dsimp only
    | intro _

theorem State.barDown_keep (s : State) (b : Nat) (e : BitVec 32) (ty : BitVec 8) (payload : List Byte) (below : List (Nat × BitVec 10 × BitVec 7)) : Keep ([.outbox], 0x0) s (State.barDown s b e ty payload below) := by
  unfold State.barDown
  repeat' first
    | with_reducible exact Keep.refl _ _
    | with_reducible assumption
    | (with_reducible apply Keep.step; with_reducible apply State.sendTo_keep; decide)
    | (with_reducible apply Keep.step; with_reducible apply State.barFan_keep; decide)
    | with_reducible apply Keep.foldl
    | with_reducible apply Keep.foldl_fst
    | with_reducible apply Keep.foldl_snd
    | with_reducible apply Keep.ite
    | split
    | dsimp only
    | intro _

theorem State.barEnd_keep (s : State) (b : Nat) (st : Status) (res : Option (W64 × W64)) : Keep ([.regs, .mem, .syn], 0x1d3e10000000000000000000000000000000000) s (State.barEnd s b st res) := by
  unfold State.barEnd
  repeat' first
    | with_reducible exact Keep.refl _ _
    | with_reducible assumption
    | (with_reducible apply Keep.step; with_reducible apply State.produce_keep; decide)
    | (with_reducible apply Keep.step; with_reducible apply State.setFlag_keep; decide)
    | (with_reducible apply Keep.step; with_reducible apply State.putBar_keep; decide)
    | (with_reducible apply Keep.step; with_reducible apply State.onSyn_keep; intro _; rfl; decide)
    | with_reducible apply Keep.ite
    | split
    | dsimp only
    | (with_reducible apply Keep.step; with_reducible apply Keep.of_fst; assumption; with_reducible apply State.produce_keep; decide)
    | (with_reducible apply Keep.step; with_reducible apply Keep.of_fst; assumption; with_reducible apply State.setFlag_keep; decide)

theorem State.treeRack_keep (s : State) (b : Nat) : Keep ([.syn, .outbox], 0x0) s (State.treeRack s b) := by
  unfold State.treeRack
  repeat' first
    | with_reducible exact Keep.refl _ _
    | with_reducible assumption
    | (with_reducible apply Keep.step; with_reducible apply State.sendTo_keep; decide)
    | (with_reducible apply Keep.step; with_reducible apply State.putBar_keep; decide)
    | with_reducible apply Keep.ite
    | split
    | dsimp only

theorem State.treeGroup_keep (s : State) (b : Nat) : Keep ([.syn, .outbox], 0x0) s (State.treeGroup s b) := by
  unfold State.treeGroup
  repeat' first
    | with_reducible exact Keep.refl _ _
    | with_reducible assumption
    | (with_reducible apply Keep.step; with_reducible apply State.sendTo_keep; decide)
    | (with_reducible apply Keep.step; with_reducible apply State.putBar_keep; decide)
    | with_reducible apply Keep.ite
    | split
    | dsimp only

theorem State.treeTop_keep (s : State) (b : Nat) : Keep ([.board, .regs, .mem, .log, .red, .ful, .cut, .sedge, .map, .rst, .warden, .syn, .chk, .freeCtr, .outbox], 0x4001002510000007a5f1d3e11df90000000001f7000060200000000000) s (State.treeTop s b) := by
  unfold State.treeTop
  repeat' first
    | with_reducible exact Keep.refl _ _
    | with_reducible assumption
    | (with_reducible apply Keep.step; with_reducible apply State.barDown_keep; decide)
    | (with_reducible apply Keep.step; with_reducible apply State.barEnd_keep; decide)
    | (with_reducible apply Keep.step; with_reducible apply State.heard_keep; decide)
    | with_reducible apply Keep.ite
    | split
    | dsimp only

theorem State.barProgress_keep (s : State) (b : Nat) : Keep ([.board, .regs, .mem, .log, .red, .ful, .cut, .sedge, .map, .rst, .warden, .syn, .chk, .freeCtr, .outbox], 0x4001002510000007a5f1d3e11df90000000001f7000060200000000000) s (State.barProgress s b) := by
  unfold State.barProgress
  repeat' first
    | with_reducible exact Keep.refl _ _
    | with_reducible assumption
    | (with_reducible apply Keep.step; with_reducible apply State.treeGroup_keep; decide)
    | (with_reducible apply Keep.step; with_reducible apply State.treeRack_keep; decide)
    | (with_reducible apply Keep.step; with_reducible apply State.treeTop_keep; decide)
    | (with_reducible apply Keep.step; with_reducible apply State.barEnd_keep; decide)
    | with_reducible apply Keep.ite
    | split
    | dsimp only

theorem State.barGo_keep (s : State) (b : Nat) (a : Arrival) : Keep ([.board, .regs, .mem, .log, .red, .ful, .cut, .sedge, .map, .rst, .warden, .syn, .chk, .freeCtr, .outbox], 0x4001002510000007a5f1d3e11df90000000001f7000060200000000000) s (State.barGo s b a) := by
  unfold State.barGo
  repeat' first
    | with_reducible exact Keep.refl _ _
    | with_reducible assumption
    | (with_reducible apply Keep.step; with_reducible apply State.barProgress_keep; decide)
    | (with_reducible apply Keep.step; with_reducible apply State.sendTo_keep; decide)
    | (with_reducible apply Keep.step; with_reducible apply State.putBar_keep; decide)
    | (with_reducible apply Keep.step; with_reducible apply State.barFan_keep; decide)
    | with_reducible apply Keep.ite
    | split
    | dsimp only

theorem State.barNext_keep (s : State) (b : Nat) : Keep ([.board, .regs, .mem, .log, .red, .ful, .cut, .sedge, .map, .rst, .warden, .syn, .chk, .freeCtr, .outbox], 0x4001002510000007a5f1d3e11df90000000001f7000060200000000000) s (State.barNext s b) := by
  unfold State.barNext
  repeat' first
    | with_reducible exact Keep.refl _ _
    | with_reducible assumption
    | (with_reducible apply Keep.step; with_reducible apply State.putBar_keep; decide)
    | (with_reducible apply Keep.step; with_reducible apply State.barGo_keep; decide)
    | with_reducible apply Keep.ite
    | split
    | dsimp only

theorem State.barArrive_keep (s : State) (b : Nat) (fn : BarFn) (sum or' : W64) : Keep ([.board, .regs, .mem, .log, .red, .ful, .cut, .sedge, .map, .rst, .warden, .syn, .chk, .freeCtr, .outbox], 0x4001002510000007a5f1d3e11df90000000001f7000060200000000000) s (State.barArrive s b fn sum or') := by
  unfold State.barArrive
  repeat' first
    | with_reducible exact Keep.refl _ _
    | with_reducible assumption
    | (with_reducible apply Keep.step; with_reducible apply State.barNext_keep; decide)
    | (with_reducible apply Keep.step; with_reducible apply State.putBar_keep; decide)
    | with_reducible apply Keep.ite
    | split
    | dsimp only

theorem State.barRecord_keep (s : State) (n b : Nat) (e : BitVec 32) (v : BarVal) (get : Bool → Barrier → List BarVal) (put : Bool → Barrier → List BarVal → Barrier) : Keep ([.board, .regs, .mem, .log, .red, .ful, .cut, .sedge, .map, .rst, .warden, .syn, .chk, .freeCtr, .outbox], 0x4001002510000007a5f1d3e11df90000000041f7000060a00000000000) s (State.barRecord s n b e v get put) := by
  unfold State.barRecord
  repeat' first
    | with_reducible exact Keep.refl _ _
    | with_reducible assumption
    | (with_reducible apply Keep.step; with_reducible apply State.barProgress_keep; decide)
    | (with_reducible apply Keep.step; with_reducible apply State.accessError_keep; decide)
    | (with_reducible apply Keep.step; with_reducible apply State.staleAt_keep; decide)
    | (with_reducible apply Keep.step; with_reducible apply State.putBar_keep; decide)
    | with_reducible apply Keep.ite
    | split
    | dsimp only

theorem State.barAbort_keep (s : State) (b : Nat) (st : Status) : Keep ([.regs, .mem, .syn], 0x1d3e10000000000000000000000000000000000) s (State.barAbort s b st) := by
  unfold State.barAbort
  repeat' first
    | with_reducible exact Keep.refl _ _
    | with_reducible assumption
    | (with_reducible apply Keep.step; with_reducible apply State.barEnd_keep; decide)
    | with_reducible apply Keep.ite
    | split
    | dsimp only

theorem State.treeAbort_keep (s : State) (b : Nat) (payload : List Byte) : Keep ([.regs, .mem, .syn, .outbox], 0x1d3e10000000000000000000000000000000000) s (State.treeAbort s b payload) := by
  unfold State.treeAbort
  repeat' first
    | with_reducible exact Keep.refl _ _
    | with_reducible assumption
    | (with_reducible apply Keep.step; with_reducible apply State.barAbort_keep; decide)
    | (with_reducible apply Keep.step; with_reducible apply State.barDown_keep; decide)
    | (with_reducible apply Keep.step; with_reducible apply State.sendTo_keep; decide)
    | with_reducible apply Keep.ite
    | split
    | dsimp only

theorem State.barTimeout_keep (s : State) (b : Nat) : Keep ([.regs, .mem, .syn, .outbox], 0x1dbe10000000000000000000000000000000000) s (State.barTimeout s b) := by
  unfold State.barTimeout
  repeat' first
    | with_reducible exact Keep.refl _ _
    | with_reducible assumption
    | (with_reducible apply Keep.step; with_reducible apply State.treeAbort_keep; decide)
    | (with_reducible apply Keep.step; with_reducible apply State.barAbort_keep; decide)
    | (with_reducible apply Keep.step; with_reducible apply State.barFan_keep; decide)
    | (with_reducible apply Keep.step; with_reducible apply State.synErr_keep; decide)
    | (with_reducible apply Keep.step; with_reducible apply State.raise_keep has_Fld_synErrStatus_barTimeout; decide)
    | with_reducible apply Keep.ite
    | split
    | dsimp only

theorem State.barHalt_keep (s : State) (fresh : Bool) (epoch : BitVec 16) (b : Nat) : Keep ([.regs, .mem, .syn], 0x1d3e10000000000000000000000000000000000) s (State.barHalt s fresh epoch b) := by
  unfold State.barHalt
  repeat' first
    | with_reducible exact Keep.refl _ _
    | with_reducible assumption
    | (with_reducible apply Keep.step; with_reducible apply State.barAbort_keep; decide)
    | (with_reducible apply Keep.step; with_reducible apply State.putBar_keep; decide)
    | (with_reducible apply Keep.step; with_reducible apply State.onSyn_keep; intro _; rfl; decide)
    | with_reducible apply Keep.ite
    | split
    | dsimp only

theorem State.barsHalt_keep (s : State) (fresh : Bool) (epoch : BitVec 16) : Keep ([.regs, .mem, .syn], 0x1d3e10000000000000000000000000000000000) s (State.barsHalt s fresh epoch) := by
  unfold State.barsHalt
  repeat' first
    | with_reducible exact Keep.refl _ _
    | with_reducible assumption
    | (with_reducible apply Keep.step; with_reducible apply State.barHalt_keep; decide)
    | with_reducible apply Keep.foldl
    | with_reducible apply Keep.foldl_fst
    | with_reducible apply Keep.foldl_snd
    | with_reducible apply Keep.ite
    | split
    | dsimp only
    | intro _

theorem State.barEnable_keep (s : State) (b : Nat) (on : Bool) : Keep ([.syn], 0x0) s (State.barEnable s b on) := by
  unfold State.barEnable
  repeat' first
    | with_reducible exact Keep.refl _ _
    | with_reducible assumption
    | (with_reducible apply Keep.step; with_reducible apply State.putBar_keep; decide)
    | with_reducible apply Keep.ite
    | split
    | dsimp only

end Sys2Proof.Machine
end

