-- ==== Sys2Proof/Laws/KeepCut.lean ====
section
/-! SUPPORT. What each operation of Machine/Cut.lean can do: one lemma for each (`Keep`). -/
namespace Sys2Proof.Machine

set_option linter.all false

theorem State.onCut_keep (s : State) (f : CutUnit → CutUnit) : Keep ([.cut], 0x0) s (State.onCut s f) := by
  unfold State.onCut
  repeat' first
    | with_reducible exact Keep.refl _ _
    | with_reducible assumption
    | fail_if_no_progress (with_reducible apply Keep.step; with_reducible apply keep_cut; decide)
    | with_reducible apply Keep.ite
    | split
    | dsimp only

theorem State.putCut_keep (s : State) (c : Cut) : Keep ([.cut], 0x0) s (State.putCut s c) := by
  unfold State.putCut
  repeat' first
    | with_reducible exact Keep.refl _ _
    | with_reducible assumption
    | (with_reducible apply Keep.step; with_reducible apply State.onCut_keep; decide)
    | with_reducible apply Keep.ite
    | split
    | dsimp only

theorem State.putHalf_keep (s : State) (h : Bool) (x : Half) : Keep ([.cut], 0x0) s (State.putHalf s h x) := by
  unfold State.putHalf
  repeat' first
    | with_reducible exact Keep.refl _ _
    | with_reducible assumption
    | (with_reducible apply Keep.step; with_reducible apply State.onCut_keep; decide)
    | with_reducible apply Keep.ite
    | split
    | dsimp only

theorem State.pinHalf_keep (s : State) (h : Bool) : Keep ([.board, .cut], 0x0) s (State.pinHalf s h) := by
  unfold State.pinHalf
  repeat' first
    | with_reducible exact Keep.refl _ _
    | with_reducible assumption
    | (with_reducible apply Keep.step; with_reducible apply State.putHalf_keep; decide)
    | fail_if_no_progress (with_reducible apply Keep.step; with_reducible apply keep_board; decide)
    | with_reducible apply Keep.ite
    | split
    | dsimp only

theorem State.toPartner_keep (s : State) (ty : BitVec 8) (f : Frame) : Keep ([.outbox], 0x0) s (State.toPartner s ty f) := by
  unfold State.toPartner
  repeat' first
    | with_reducible exact Keep.refl _ _
    | with_reducible assumption
    | (with_reducible apply Keep.step; with_reducible apply State.sendTo_keep; decide)
    | with_reducible apply Keep.ite
    | split
    | dsimp only

theorem State.sendRelease_keep (s : State) (c : Cut) : Keep ([.regs, .outbox], 0x0) s (State.sendRelease s c) := by
  unfold State.sendRelease
  repeat' first
    | with_reducible exact Keep.refl _ _
    | with_reducible assumption
    | (with_reducible apply Keep.step; with_reducible apply State.toPartner_keep; decide)
    | with_reducible apply Keep.ite
    | split
    | dsimp only

theorem State.commitFlushN_keep (n : Nat) (s : State) : Keep ([.board, .regs, .mem, .log, .red, .ful, .cut, .sedge, .map, .rst, .warden, .syn, .chk, .freeCtr, .outbox], 0x4001002510000007a5f1d3e11df90000000001f7000060200000000000) s (State.commitFlushN n s) := by
  induction n generalizing s with
  | zero =>
    exact Keep.refl _ _
  | succ n ih =>
    unfold State.commitFlushN
    repeat' first
      | with_reducible exact Keep.refl _ _
      | (with_reducible apply Keep.step; with_reducible apply ih; decide)
      | with_reducible assumption
      | (with_reducible apply Keep.step; with_reducible apply State.barArrive_keep; decide)
      | (with_reducible apply Keep.step; with_reducible apply State.putCut_keep; decide)
      | with_reducible apply Keep.ite
      | split
      | dsimp only

theorem State.doneFlushN_keep (n : Nat) (s : State) : Keep ([.regs, .mem, .cut, .syn], 0x193e00000000000000000000000000000000000) s (State.doneFlushN n s) := by
  induction n generalizing s with
  | zero =>
    exact Keep.refl _ _
  | succ n ih =>
    unfold State.doneFlushN
    repeat' first
      | with_reducible exact Keep.refl _ _
      | (with_reducible apply Keep.step; with_reducible apply ih; decide)
      | with_reducible assumption
      | (with_reducible apply Keep.step; with_reducible apply State.produce_keep; decide)
      | (with_reducible apply Keep.step; with_reducible apply State.store'_keep; decide)
      | (with_reducible apply Keep.step; with_reducible apply State.putCut_keep; decide)
      | with_reducible apply Keep.ite
      | split
      | dsimp only
      | (with_reducible apply Keep.step; with_reducible apply Keep.of_fst; assumption; with_reducible apply State.produce_keep; decide)

theorem State.cutFlush_keep (s : State) : Keep ([.board, .regs, .mem, .log, .red, .ful, .cut, .sedge, .map, .rst, .warden, .syn, .chk, .freeCtr, .outbox], 0x4001002510000007a5f1d3e11df90000000001f7000060200000000000) s (State.cutFlush s) := by
  unfold State.cutFlush
  repeat' first
    | with_reducible exact Keep.refl _ _
    | with_reducible assumption
    | (with_reducible apply Keep.step; with_reducible apply State.commitFlushN_keep; decide)
    | (with_reducible apply Keep.step; with_reducible apply State.doneFlushN_keep; decide)
    | with_reducible apply Keep.ite
    | split
    | dsimp only

theorem State.feltStop_keep (s : State) (c : Cut) : Keep ([.red, .cut, .map, .chk], 0x0) s (State.feltStop s c) := by
  unfold State.feltStop
  repeat' first
    | with_reducible exact Keep.refl _ _
    | with_reducible assumption
    | (with_reducible apply Keep.step; with_reducible apply State.releaseTags_keep; decide)
    | (with_reducible apply Keep.step; with_reducible apply State.dropLanes_keep; decide)
    | (with_reducible apply Keep.step; with_reducible apply State.dropCtxs_keep; decide)
    | (with_reducible apply Keep.step; with_reducible apply State.mapDrop_keep; decide)
    | (with_reducible apply Keep.step; with_reducible apply State.putCut_keep; decide)
    | with_reducible apply Keep.ite
    | split
    | dsimp only

theorem State.cutErr_keep (s : State) (st : CutState) : Keep ([.regs], 0x7200000000000000000000000000000000000000000) s (State.cutErr s st) := by
  unfold State.cutErr
  repeat' first
    | with_reducible exact Keep.refl _ _
    | with_reducible assumption
    | (with_reducible apply Keep.step; with_reducible apply State.raise_keep has_Fld_tierCutErrStatus_abandoned; decide)
    | (with_reducible apply Keep.step; with_reducible apply State.raise_keep has_Fld_tierCutErrStatus_sedgeIncomplete; decide)
    | (with_reducible apply Keep.step; with_reducible apply State.raise_keep has_Fld_tierCutErrStatus_skipped; decide)
    | (with_reducible apply Keep.step; with_reducible apply State.raise_keep has_Fld_tierCutErrStatus_suspect; decide)
    | with_reducible apply Keep.ite
    | split
    | dsimp only

theorem State.cutEndCount_keep (s : State) (st : CutState) : Keep ([.regs], 0x50000000000000000000000000000000000000000) s (State.cutEndCount s st) := by
  unfold State.cutEndCount
  repeat' first
    | with_reducible exact Keep.refl _ _
    | with_reducible assumption
    | (with_reducible apply Keep.step; with_reducible apply State.bump_keep has_Fld_tierCutCounts_abandoned; decide)
    | (with_reducible apply Keep.step; with_reducible apply State.bump_keep has_Fld_tierCutCounts_skipped; decide)
    | with_reducible apply Keep.ite
    | split
    | dsimp only

theorem State.peatFlushN_keep (n : Nat) (s : State) : Keep ([.board, .regs, .mem, .log, .red, .ful, .cut, .sedge, .map, .rst, .warden, .syn, .chk, .freeCtr, .outbox], 0x4001002510000007a5f1d3e11df90000000001f7000060200000000000) s (State.peatFlushN n s) := by
  induction n generalizing s with
  | zero =>
    exact Keep.refl _ _
  | succ n ih =>
    unfold State.peatFlushN
    repeat' first
      | with_reducible exact Keep.refl _ _
      | (with_reducible apply Keep.step; with_reducible apply ih; decide)
      | with_reducible assumption
      | (with_reducible apply Keep.step; with_reducible apply State.barArrive_keep; decide)
      | (with_reducible apply Keep.step; with_reducible apply State.putCut_keep; decide)
      | with_reducible apply Keep.ite
      | split
      | dsimp only

theorem State.peatArrive_keep (s : State) (seq : W32) (veto : Bool) : Keep ([.board, .regs, .mem, .log, .red, .ful, .cut, .sedge, .map, .rst, .warden, .syn, .chk, .freeCtr, .outbox], 0x4001002510000007a5f1d3e11df90000000001f7000060200000000000) s (State.peatArrive s seq veto) := by
  unfold State.peatArrive
  repeat' first
    | with_reducible exact Keep.refl _ _
    | with_reducible assumption
    | (with_reducible apply Keep.step; with_reducible apply State.peatFlushN_keep; decide)
    | (with_reducible apply Keep.step; with_reducible apply State.putCut_keep; decide)
    | with_reducible apply Keep.ite
    | split
    | dsimp only

theorem State.cutFinal_keep (s : State) (seq : W32) (st : CutState) (status : Status) (veto : Bool) : Keep ([.board, .regs, .mem, .log, .red, .ful, .cut, .sedge, .map, .rst, .warden, .syn, .chk, .freeCtr, .outbox], 0x4001002510000007a5f1d3e11df90000000001f7000060200000000000) s (State.cutFinal s seq st status veto) := by
  unfold State.cutFinal
  repeat' first
    | with_reducible exact Keep.refl _ _
    | with_reducible assumption
    | (with_reducible apply Keep.step; with_reducible apply State.cutEndCount_keep; decide)
    | (with_reducible apply Keep.step; with_reducible apply State.sendRelease_keep; decide)
    | (with_reducible apply Keep.step; with_reducible apply State.peatArrive_keep; decide)
    | (with_reducible apply Keep.step; with_reducible apply State.cutFlush_keep; decide)
    | (with_reducible apply Keep.step; with_reducible apply State.feltStop_keep; decide)
    | (with_reducible apply Keep.step; with_reducible apply State.mapDrop_keep; decide)
    | (with_reducible apply Keep.step; with_reducible apply State.putHalf_keep; decide)
    | (with_reducible apply Keep.step; with_reducible apply State.pinHalf_keep; decide)
    | (with_reducible apply Keep.step; with_reducible apply State.mapMove_keep; decide)
    | (with_reducible apply Keep.step; with_reducible apply State.putCut_keep; decide)
    | (with_reducible apply Keep.step; with_reducible apply State.cutErr_keep; decide)
    | (with_reducible apply Keep.step; with_reducible apply State.onCut_keep; decide)
    | (with_reducible apply Keep.step; with_reducible apply State.raise_keep has_Fld_tierCutErrStatus_feltDeadline; decide)
    | with_reducible apply Keep.ite
    | split
    | dsimp only

theorem State.abandonEarly_keep {ps : Touch} {s t : State} {status : State → Status × State} (h : Keep ps s t)
    (hf : ∀ t, Keep ps t (status t).2) (hr : sub ([.board, .regs, .mem, .log, .red, .ful, .cut, .sedge, .map, .rst, .warden, .syn, .chk, .freeCtr, .outbox], 0x4001002510000007a5f1d3e11df90000000001f7000060200000000000) ps = true) : Keep ps s (t.abandonEarly status) := by
  unfold State.abandonEarly
  refine Keep.foldl h (fun t _ => ?_)
  exact Keep.step (State.cutFinal_keep _ _ _ _ _) hr (hf t)

theorem State.freeOldHalf_keep (s : State) (newest : Cut) (h : Bool) : Keep ([.cut], 0x0) s (State.freeOldHalf s newest h) := by
  unfold State.freeOldHalf
  repeat' first
    | with_reducible exact Keep.refl _ _
    | with_reducible assumption
    | (with_reducible apply Keep.step; with_reducible apply State.putHalf_keep; decide)
    | with_reducible apply Keep.ite
    | split
    | dsimp only

theorem State.retireOld_keep (s : State) (newest : Cut) (c : Cut) : Keep ([.regs, .red, .cut, .map, .chk, .outbox], 0x0) s (State.retireOld s newest c) := by
  unfold State.retireOld
  repeat' first
    | with_reducible exact Keep.refl _ _
    | with_reducible assumption
    | (with_reducible apply Keep.step; with_reducible apply State.sendRelease_keep; decide)
    | (with_reducible apply Keep.step; with_reducible apply State.feltStop_keep; decide)
    | (with_reducible apply Keep.step; with_reducible apply State.mapDrop_keep; decide)
    | (with_reducible apply Keep.step; with_reducible apply State.putCut_keep; decide)
    | with_reducible apply Keep.ite
    | split
    | dsimp only

theorem State.commitResult_keep (s : State) (seq : W32) (or' : W64) : Keep ([.board, .regs, .mem, .log, .red, .ful, .cut, .sedge, .map, .rst, .warden, .syn, .chk, .freeCtr, .outbox], 0x2040010025100001efa5f1d3e11df90000000001f7000060200000000000) s (State.commitResult s seq or') := by
  unfold State.commitResult
  repeat' first
    | with_reducible exact Keep.refl _ _
    | with_reducible assumption
    | (with_reducible apply Keep.step; with_reducible apply State.freeOldHalf_keep; decide)
    | (with_reducible apply Keep.step; with_reducible apply State.peatArrive_keep; decide)
    | (with_reducible apply Keep.step; with_reducible apply State.retireOld_keep; decide)
    | (with_reducible apply Keep.step; with_reducible apply State.cutFlush_keep; decide)
    | (with_reducible apply Keep.step; with_reducible apply State.cutFinal_keep; decide)
    | (with_reducible apply Keep.step; with_reducible apply State.putHalf_keep; decide)
    | (with_reducible apply Keep.step; with_reducible apply State.pinHalf_keep; decide)
    | (with_reducible apply Keep.step; with_reducible apply State.putCut_keep; decide)
    | (with_reducible apply Keep.step; with_reducible apply State.raise_keep has_Fld_tierCutErrStatus_vetoSeen; decide)
    | (with_reducible apply Keep.step; with_reducible apply State.setReg_keep has_Reg_tierCutJob; decide)
    | (with_reducible apply Keep.step; with_reducible apply State.wr_keep has_Fld_tierCutJobInfo_gen; decide)
    | (with_reducible apply Keep.step; with_reducible apply State.wr_keep has_Fld_tierCutJobInfo_valid; decide)
    | (with_reducible apply Keep.step; with_reducible apply State.wrB_keep has_Fld_tierCutJobInfo_half; decide)
    | (with_reducible apply Keep.step; with_reducible apply State.wrB_keep has_Fld_tierCutJobInfo_local; decide)
    | with_reducible apply Keep.foldl
    | with_reducible apply Keep.foldl_fst
    | with_reducible apply Keep.foldl_snd
    | fail_if_no_progress (with_reducible apply Keep.step; with_reducible apply keep_rst; rfl; decide)
    | with_reducible apply Keep.ite
    | split
    | dsimp only
    | intro _

theorem State.addCut_keep (s : State) (c : Cut) : Keep ([.cut], 0x0) s (State.addCut s c) := by
  unfold State.addCut
  repeat' first
    | with_reducible exact Keep.refl _ _
    | with_reducible assumption
    | (with_reducible apply Keep.step; with_reducible apply State.onCut_keep; decide)
    | with_reducible apply Keep.ite
    | split
    | dsimp only

theorem State.peatAge_keep (s : State) (step : W64) : Keep ([.regs], 0x2000000000000000000000000) s (State.peatAge s step) := by
  unfold State.peatAge
  repeat' first
    | with_reducible exact Keep.refl _ _
    | with_reducible assumption
    | (with_reducible apply Keep.step; with_reducible apply State.raise_keep has_Fld_peatErrStatus_peatAge; decide)
    | with_reducible apply Keep.ite
    | split
    | dsimp only

theorem State.cutOpen_keep (s : State) : Keep ([.board, .regs, .mem, .log, .red, .ful, .cut, .sedge, .map, .rst, .warden, .syn, .chk, .freeCtr, .outbox], 0x4001002510000007a7f1d3e11df90000020001f7000060200000000000) s (State.cutOpen s) := by
  unfold State.cutOpen
  repeat' first
    | with_reducible exact Keep.refl _ _
    | with_reducible assumption
    | (with_reducible apply Keep.step; with_reducible apply State.toPartner_keep; decide)
    | (with_reducible apply Keep.step; with_reducible apply State.cutFlush_keep; decide)
    | (with_reducible apply Keep.step; with_reducible apply State.cutFinal_keep; decide)
    | (with_reducible apply Keep.step; with_reducible apply State.peatAge_keep; decide)
    | (with_reducible apply Keep.step; with_reducible apply State.putHalf_keep; decide)
    | (with_reducible apply Keep.step; with_reducible apply State.addCut_keep; decide)
    | (with_reducible apply Keep.step; with_reducible apply State.onCut_keep; decide)
    | (with_reducible apply Keep.step; with_reducible apply State.bump_keep has_Fld_tierCutCounts_battless; decide)
    | (with_reducible apply Keep.step; with_reducible apply State.raise_keep has_Fld_tierCutErrStatus_skipped; decide)
    | with_reducible apply Keep.ite
    | split
    | dsimp only

theorem doCutOpen_keep (s : State) : OutKeep ([.board, .regs, .mem, .log, .red, .ful, .cut, .sedge, .map, .rst, .warden, .syn, .chk, .freeCtr, .outbox], 0x4001002510000007a7f1d3e11df90000020001f7000060200000000000) s (doCutOpen s) := by
  unfold doCutOpen
  repeat' first
    | with_reducible exact Keep.refl _ _
    | with_reducible assumption
    | (with_reducible apply Keep.step; with_reducible apply State.takeCount_keep; assumption; decide)
    | (with_reducible apply Keep.step; with_reducible apply State.cutOpen_keep; decide)
    | with_reducible apply Keep.ite
    | with_reducible apply OutKeep.ite
    | with_reducible apply OutKeep.next
    | split
    | dsimp only

theorem execCutNotice_keep (n : Fin 42) (f : Frame) (s : State) : OutKeep ([.regs, .sedge, .outbox], 0x20000002000000000000000000000005000000000000000000000) s (execCutNotice n f s) := by
  unfold execCutNotice
  repeat' first
    | with_reducible exact Keep.refl _ _
    | with_reducible assumption
    | (with_reducible apply Keep.step; with_reducible apply State.keepReport_keep; decide)
    | (with_reducible apply Keep.step; with_reducible apply State.acceptSet_keep; decide)
    | (with_reducible apply Keep.step; with_reducible apply State.sendTo_keep; decide)
    | with_reducible apply State.recv_keep
    | with_reducible apply Keep.ite
    | with_reducible apply OutKeep.ite
    | with_reducible apply OutKeep.next
    | (show sub _ _ = true; decide)
    | split
    | dsimp only
    | with_reducible exact Keep.id _ _
    | intro _
    | (with_reducible apply Keep.step; with_reducible apply Keep.of_snd; assumption; with_reducible apply State.acceptSet_keep; decide)

theorem doCutReply_keep (n : Fin 42) (f : Frame) (s : State) : OutKeep ([.board, .regs, .mem, .log, .red, .ful, .cut, .sedge, .map, .rst, .warden, .syn, .chk, .freeCtr, .outbox], 0x4001002512001007a5f1d3e11df90000000051f7000060200000000000) s (doCutReply n f s) := by
  unfold doCutReply
  repeat' first
    | with_reducible exact Keep.refl _ _
    | with_reducible assumption
    | (with_reducible apply Keep.step; with_reducible apply State.sendRelease_keep; decide)
    | (with_reducible apply Keep.step; with_reducible apply State.mapReserve_keep; decide)
    | (with_reducible apply Keep.step; with_reducible apply State.mapRefuse_keep; decide)
    | (with_reducible apply Keep.step; with_reducible apply State.cutFinal_keep; decide)
    | (with_reducible apply Keep.step; with_reducible apply State.staleAt_keep; decide)
    | (with_reducible apply Keep.step; with_reducible apply State.putCut_keep; decide)
    | with_reducible apply State.recv_keep
    | with_reducible apply Keep.ite
    | with_reducible apply OutKeep.ite
    | with_reducible apply OutKeep.next
    | (show sub _ _ = true; decide)
    | split
    | dsimp only
    | with_reducible exact Keep.id _ _
    | intro _

theorem execScheduleRecordLatch_keep (s : State) : OutKeep ([.regs, .mem, .cut, .syn], 0x13e00000000000000000000000000000000000) s (execScheduleRecordLatch s) := by
  unfold execScheduleRecordLatch
  repeat' first
    | with_reducible exact Keep.refl _ _
    | with_reducible assumption
    | (with_reducible apply Keep.step; with_reducible apply State.takeCount_keep; assumption; decide)
    | (with_reducible apply Keep.step; with_reducible apply State.store'_keep; decide)
    | (with_reducible apply Keep.step; with_reducible apply State.putCut_keep; decide)
    | with_reducible apply Keep.ite
    | with_reducible apply OutKeep.ite
    | with_reducible apply OutKeep.next
    | split
    | dsimp only

theorem execSumpCopyDone_keep (s : State) : OutKeep ([.regs, .mem, .sump, .cut, .syn], 0x193e00000000000000000000000000000000000) s (execSumpCopyDone s) := by
  unfold execSumpCopyDone
  split
  · exact OutKeep.next (Keep.refl _ _)
  · split
    · refine OutKeep.next ?_
      with_reducible apply Keep.step
      with_reducible apply State.produce_keep
      decide
      with_reducible apply Keep.step
      with_reducible apply State.putCut_keep
      decide
      refine Keep.step (keep_sump _ _ ?_) (by decide) (Keep.refl _ _)
      intro h
      generalize List.filter Region.isSump _ = l
      revert h
      generalize State.sump _ = m
      intro h
      induction l generalizing m with
      | nil => exact h
      | cons a l ih => exact ih _ (Memory.wf_putBytes _ _ h)
    · exact OutKeep.next (Keep.refl _ _)

theorem State.zeroTail_keep (s : State) (h : Bool) (r : Region) : Keep ([.mem], 0x0) s (State.zeroTail s h r) := by
  unfold State.zeroTail
  repeat' first
    | with_reducible exact Keep.refl _ _
    | with_reducible assumption
    | (with_reducible apply Keep.step; with_reducible apply State.store'_keep; decide)
    | with_reducible apply Keep.ite
    | split
    | dsimp only

theorem doCutSeal_keep (s : State) : OutKeep ([.board, .regs, .mem, .log, .red, .ful, .cut, .sedge, .map, .rst, .warden, .syn, .chk, .freeCtr, .outbox], 0x4001002510000007a5f1d3e11df90000000001f7000060200000000000) s (doCutSeal s) := by
  unfold doCutSeal
  repeat' first
    | with_reducible exact Keep.refl _ _
    | with_reducible assumption
    | (with_reducible apply Keep.step; with_reducible apply State.cutFinal_keep; decide)
    | (with_reducible apply Keep.step; with_reducible apply State.zeroTail_keep; decide)
    | (with_reducible apply Keep.step; with_reducible apply State.putHalf_keep; decide)
    | (with_reducible apply Keep.step; with_reducible apply State.putCut_keep; decide)
    | with_reducible apply Keep.foldl
    | with_reducible apply Keep.foldl_fst
    | with_reducible apply Keep.foldl_snd
    | with_reducible apply Keep.ite
    | with_reducible apply OutKeep.ite
    | with_reducible apply OutKeep.next
    | split
    | dsimp only
    | intro _

theorem State.allocTags_keep (n : Nat) (s : State) : Keep ([.red, .freeCtr], 0x0) s (State.allocTags n s).2 := by
  induction n generalizing s with
  | zero =>
    exact Keep.refl _ _
  | succ n ih =>
    unfold State.allocTags
    repeat' first
      | with_reducible exact Keep.refl _ _
      | (with_reducible apply Keep.step; with_reducible apply ih; decide)
      | with_reducible assumption
      | (with_reducible apply Keep.step; with_reducible apply State.allocTag_keep; decide)
      | with_reducible apply Keep.ite
      | split
      | dsimp only
      | (with_reducible apply Keep.step; with_reducible apply Keep.of_snd; assumption; with_reducible apply State.allocTag_keep; decide)

theorem State.feltSend_keep (s : State) (seq : W32) (off : Nat) (bs : List Byte) (commit : Bool) : Keep ([.regs, .red, .cut, .freeCtr, .outbox], 0x0) s (State.feltSend s seq off bs commit) := by
  unfold State.feltSend
  repeat' first
    | with_reducible exact Keep.refl _ _
    | with_reducible assumption
    | (with_reducible apply Keep.step; with_reducible apply State.allocTags_keep; decide)
    | (with_reducible apply Keep.step; with_reducible apply State.putCut_keep; decide)
    | (with_reducible apply Keep.step; with_reducible apply State.send_keep; decide)
    | with_reducible apply Keep.foldl
    | with_reducible apply Keep.foldl_fst
    | with_reducible apply Keep.foldl_snd
    | with_reducible apply Keep.ite
    | split
    | dsimp only
    | intro _
    | (with_reducible apply Keep.step; with_reducible apply Keep.of_snd; assumption; with_reducible apply State.allocTags_keep; decide)

theorem State.groupForm_keep (s : State) (seq : W32) : Keep ([.cut], 0x0) s (State.groupForm s seq) := by
  unfold State.groupForm
  repeat' first
    | with_reducible exact Keep.refl _ _
    | with_reducible assumption
    | (with_reducible apply Keep.step; with_reducible apply State.putCut_keep; decide)
    | with_reducible apply Keep.ite
    | split
    | dsimp only

theorem State.sendManifest_keep (s : State) (seq : W32) : Keep ([.regs, .red, .cut, .freeCtr, .outbox], 0x0) s (State.sendManifest s seq) := by
  unfold State.sendManifest
  repeat' first
    | with_reducible exact Keep.refl _ _
    | with_reducible assumption
    | (with_reducible apply Keep.step; with_reducible apply State.feltSend_keep; decide)
    | (with_reducible apply Keep.step; with_reducible apply State.putCut_keep; decide)
    | with_reducible apply Keep.ite
    | split
    | dsimp only

theorem State.mapWritten_keep (s : State) (seq : W32) : Keep ([.map], 0x0) s (State.mapWritten s seq) := by
  unfold State.mapWritten
  repeat' first
    | with_reducible exact Keep.refl _ _
    | with_reducible assumption
    | (with_reducible apply Keep.step; with_reducible apply State.mapMove_keep; decide)
    | with_reducible apply Keep.foldl
    | with_reducible apply Keep.foldl_fst
    | with_reducible apply Keep.foldl_snd
    | with_reducible apply Keep.ite
    | split
    | dsimp only
    | intro _

theorem State.tryCommit_keep (s : State) (seq : W32) : Keep ([.board, .regs, .mem, .log, .red, .ful, .cut, .sedge, .map, .rst, .warden, .syn, .chk, .freeCtr, .outbox], 0x4001002510000007a5f1d3e11df90000000001f7000060200000000000) s (State.tryCommit s seq) := by
  unfold State.tryCommit
  repeat' first
    | with_reducible exact Keep.refl _ _
    | with_reducible assumption
    | (with_reducible apply Keep.step; with_reducible apply State.feltSend_keep; decide)
    | (with_reducible apply Keep.step; with_reducible apply State.putCut_keep; decide)
    | (with_reducible apply Keep.step; with_reducible apply State.ready_keep; decide)
    | with_reducible apply Keep.ite
    | split
    | dsimp only

theorem State.agree_keep (s : State) (seq : W32) (expired : Bool) : Keep ([.board, .regs, .mem, .log, .red, .ful, .cut, .sedge, .map, .rst, .warden, .syn, .chk, .freeCtr, .outbox], 0x4001002510000007a5f1d3e11df90000000001f7000060200000000000) s (State.agree s seq expired) := by
  unfold State.agree
  repeat' first
    | with_reducible exact Keep.refl _ _
    | with_reducible assumption
    | (with_reducible apply Keep.step; with_reducible apply State.tryCommit_keep; decide)
    | (with_reducible apply Keep.step; with_reducible apply State.cutFinal_keep; decide)
    | (with_reducible apply Keep.step; with_reducible apply State.putCut_keep; decide)
    | (with_reducible apply Keep.step; with_reducible apply State.notice_keep; decide)
    | with_reducible apply Keep.foldl
    | with_reducible apply Keep.foldl_fst
    | with_reducible apply Keep.foldl_snd
    | fail_if_no_progress (with_reducible apply Keep.step; with_reducible apply keep_rst; rfl; decide)
    | with_reducible apply Keep.ite
    | split
    | dsimp only
    | intro _

theorem doFeltingDone_keep (s : State) : OutKeep ([.board, .regs, .mem, .log, .red, .ful, .cut, .sedge, .map, .rst, .warden, .syn, .chk, .freeCtr, .outbox], 0x4001002510000007a5f1d3e11df90000000001f7000060200000000000) s (doFeltingDone s) := by
  unfold doFeltingDone
  repeat' first
    | with_reducible exact Keep.refl _ _
    | with_reducible assumption
    | (with_reducible apply Keep.step; with_reducible apply State.sendManifest_keep; decide)
    | (with_reducible apply Keep.step; with_reducible apply State.tryCommit_keep; decide)
    | (with_reducible apply Keep.step; with_reducible apply State.putCut_keep; decide)
    | (with_reducible apply Keep.step; with_reducible apply State.sendTo_keep; decide)
    | (with_reducible apply Keep.step; with_reducible apply State.agree_keep; decide)
    | with_reducible apply Keep.foldl
    | with_reducible apply Keep.foldl_fst
    | with_reducible apply Keep.foldl_snd
    | with_reducible apply Keep.ite
    | with_reducible apply OutKeep.ite
    | with_reducible apply OutKeep.next
    | split
    | dsimp only
    | intro _

theorem doDigestFrame_keep (n : Fin 42) (f : Frame) (s : State) : OutKeep ([.board, .regs, .mem, .log, .red, .ful, .cut, .sedge, .map, .rst, .warden, .syn, .chk, .freeCtr, .outbox], 0x4001002510000007a5f1d3e11df90000000051f7000060200000000000) s (doDigestFrame n f s) := by
  unfold doDigestFrame
  repeat' first
    | with_reducible exact Keep.refl _ _
    | with_reducible assumption
    | (with_reducible apply Keep.step; with_reducible apply State.staleAt_keep; decide)
    | (with_reducible apply Keep.step; with_reducible apply State.putCut_keep; decide)
    | (with_reducible apply Keep.step; with_reducible apply State.agree_keep; decide)
    | (with_reducible apply Keep.step; with_reducible apply State.heard_keep; decide)
    | with_reducible apply State.recv_keep
    | with_reducible apply Keep.ite
    | with_reducible apply OutKeep.ite
    | with_reducible apply OutKeep.next
    | (show sub _ _ = true; decide)
    | split
    | dsimp only
    | with_reducible exact Keep.id _ _
    | intro _

theorem doXchgWatchdogExpiry_keep (race : Race) (s : State) : OutKeep ([.board, .regs, .mem, .log, .red, .ful, .cut, .sedge, .map, .rst, .warden, .syn, .chk, .freeCtr, .outbox], 0x4001002510000007a5f1d3e11df90000000001f7000060200000300000) s (doXchgWatchdogExpiry race s) := by
  unfold doXchgWatchdogExpiry
  repeat' first
    | with_reducible exact Keep.refl _ _
    | with_reducible assumption
    | (with_reducible apply Keep.step; with_reducible apply State.logRace_keep; decide)
    | (with_reducible apply Keep.step; with_reducible apply State.agree_keep; decide)
    | with_reducible apply Keep.ite
    | with_reducible apply OutKeep.ite
    | with_reducible apply OutKeep.next
    | split
    | dsimp only

theorem doKeepReport_keep (n : Fin 42) (f : Frame) (s : State) : OutKeep ([.board, .regs, .mem, .log, .red, .ful, .cut, .sedge, .map, .rst, .warden, .syn, .chk, .freeCtr, .outbox], 0x4001002510000007a5f1d3e11df90000000051f7000060200000000000) s (doKeepReport n f s) := by
  unfold doKeepReport
  repeat' first
    | with_reducible exact Keep.refl _ _
    | with_reducible assumption
    | (with_reducible apply Keep.step; with_reducible apply State.keepReport_keep; decide)
    | (with_reducible apply Keep.step; with_reducible apply State.mapWritten_keep; decide)
    | (with_reducible apply Keep.step; with_reducible apply State.tryCommit_keep; decide)
    | (with_reducible apply Keep.step; with_reducible apply State.cutFinal_keep; decide)
    | (with_reducible apply Keep.step; with_reducible apply State.staleAt_keep; decide)
    | (with_reducible apply Keep.step; with_reducible apply State.putCut_keep; decide)
    | with_reducible apply State.recv_keep
    | with_reducible apply Keep.ite
    | with_reducible apply OutKeep.ite
    | with_reducible apply OutKeep.next
    | (show sub _ _ = true; decide)
    | split
    | dsimp only
    | with_reducible exact Keep.id _ _
    | intro _

theorem doKeepWatchdogExpiry_keep (s : State) : OutKeep ([.board, .regs, .mem, .log, .red, .ful, .cut, .sedge, .map, .rst, .warden, .syn, .chk, .freeCtr, .outbox], 0x4001002510000007a5f1d3e11df90000000001f7000060200000000000) s (doKeepWatchdogExpiry s) := by
  unfold doKeepWatchdogExpiry
  repeat' first
    | with_reducible exact Keep.refl _ _
    | with_reducible assumption
    | (with_reducible apply Keep.step; with_reducible apply State.cutFinal_keep; decide)
    | (with_reducible apply Keep.step; with_reducible apply State.putCut_keep; decide)
    | with_reducible apply Keep.ite
    | with_reducible apply OutKeep.ite
    | with_reducible apply OutKeep.next
    | split
    | dsimp only

theorem State.recordStands_keep (s : State) (c : Cut) (arrive : Option Bool) : Keep ([.cut, .map], 0x0) s (State.recordStands s c arrive) := by
  unfold State.recordStands
  repeat' first
    | with_reducible exact Keep.refl _ _
    | with_reducible assumption
    | (with_reducible apply Keep.step; with_reducible apply State.mapMove_keep; decide)
    | (with_reducible apply Keep.step; with_reducible apply State.putCut_keep; decide)
    | (with_reducible apply Keep.step; with_reducible apply State.onCut_keep; decide)
    | with_reducible apply Keep.ite
    | split
    | dsimp only

theorem doCommitRecordAck_keep (s : State) : OutKeep ([.board, .regs, .mem, .log, .red, .ful, .cut, .sedge, .map, .rst, .warden, .syn, .chk, .freeCtr, .outbox], 0x4001002510000007a5f1d3e11df90000000001f7000060200000000000) s (doCommitRecordAck s) := by
  unfold doCommitRecordAck
  repeat' first
    | with_reducible exact Keep.refl _ _
    | with_reducible assumption
    | (with_reducible apply Keep.step; with_reducible apply State.recordStands_keep; decide)
    | (with_reducible apply Keep.step; with_reducible apply State.cutFlush_keep; decide)
    | with_reducible apply Keep.ite
    | with_reducible apply OutKeep.ite
    | with_reducible apply OutKeep.next
    | split
    | dsimp only

theorem execFeltAck_keep (n : Fin 42) (f : Frame) (s : State) : OutKeep ([.board, .regs, .mem, .log, .red, .ful, .cut, .sedge, .map, .rst, .warden, .syn, .chk, .freeCtr, .outbox], 0x4001002510000007a5f1d3e11df90000000051f7000060200000000000) s (execFeltAck n f s) := by
  unfold execFeltAck
  repeat' first
    | with_reducible exact Keep.refl _ _
    | with_reducible assumption
    | (with_reducible apply Keep.step; with_reducible apply State.releaseTag_keep; decide)
    | (with_reducible apply Keep.step; with_reducible apply State.mapWritten_keep; decide)
    | (with_reducible apply Keep.step; with_reducible apply State.tryCommit_keep; decide)
    | (with_reducible apply Keep.step; with_reducible apply State.staleAt_keep; decide)
    | (with_reducible apply Keep.step; with_reducible apply State.putCut_keep; decide)
    | with_reducible apply State.recv_keep
    | with_reducible apply Keep.ite
    | with_reducible apply OutKeep.ite
    | with_reducible apply OutKeep.next
    | (show sub _ _ = true; decide)
    | split
    | dsimp only
    | with_reducible exact Keep.id _ _
    | intro _

theorem State.feltLost_keep (s : State) (tag : Nat) : Keep ([.board, .regs, .mem, .log, .red, .ful, .cut, .sedge, .map, .rst, .warden, .syn, .chk, .freeCtr, .outbox], 0x4001002510000007a5f1d3e11df90000000001f7000060200000000000) s (State.feltLost s tag) := by
  unfold State.feltLost
  repeat' first
    | with_reducible exact Keep.refl _ _
    | with_reducible assumption
    | (with_reducible apply Keep.step; with_reducible apply State.feltStop_keep; decide)
    | (with_reducible apply Keep.step; with_reducible apply State.cutFinal_keep; decide)
    | with_reducible apply Keep.ite
    | split
    | dsimp only

theorem doFeltAckTimeout_keep (tag : BitVec 20) (s : State) : OutKeep ([.board, .regs, .mem, .log, .red, .ful, .cut, .sedge, .map, .rst, .warden, .syn, .chk, .freeCtr, .outbox], 0x4001002510000007a5f1d3e11df90000000001f7000060200000000000) s (doFeltAckTimeout tag s) := by
  unfold doFeltAckTimeout
  repeat' first
    | with_reducible exact Keep.refl _ _
    | with_reducible assumption
    | (with_reducible apply Keep.step; with_reducible apply State.feltLost_keep; decide)
    | with_reducible apply Keep.ite
    | with_reducible apply OutKeep.ite
    | with_reducible apply OutKeep.next
    | split
    | dsimp only

theorem State.feltReadError_keep (s : State) (seq : W32) : Keep ([.board, .regs, .mem, .log, .red, .ful, .cut, .sedge, .map, .rst, .warden, .syn, .chk, .freeCtr, .outbox], 0x4001002510000007a5f1d3e11df90000000001f7000060200000000000) s (State.feltReadError s seq) := by
  unfold State.feltReadError
  repeat' first
    | with_reducible exact Keep.refl _ _
    | with_reducible assumption
    | (with_reducible apply Keep.step; with_reducible apply State.feltStop_keep; decide)
    | (with_reducible apply Keep.step; with_reducible apply State.cutFinal_keep; decide)
    | with_reducible apply Keep.ite
    | split
    | dsimp only

theorem State.staleFelt_keep (s : State) (n : Nat) : Keep ([.regs], 0x40000008000000000000000000000004000000000000000000000) s (State.staleFelt s n) := by
  unfold State.staleFelt
  repeat' first
    | with_reducible exact Keep.refl _ _
    | with_reducible assumption
    | (with_reducible apply Keep.step; with_reducible apply State.staleAt_keep; decide)
    | (with_reducible apply Keep.step; with_reducible apply State.bump_keep has_Fld_tierSedgeCounts_staleFelt; decide)
    | (with_reducible apply Keep.step; with_reducible apply State.raise_keep has_Fld_tierErrStatus_staleFelt; decide)
    | with_reducible apply Keep.ite
    | split
    | dsimp only

theorem execFeltData_keep (n : Fin 42) (f : Frame) (s : State) : OutKeep ([.regs, .mem, .sedge, .outbox], 0x40000008000000000000000000000005000000000000000000000) s (execFeltData n f s) := by
  unfold execFeltData
  repeat' first
    | with_reducible exact Keep.refl _ _
    | with_reducible assumption
    | (with_reducible apply Keep.step; with_reducible apply State.staleFelt_keep; decide)
    | (with_reducible apply Keep.step; with_reducible apply State.setStore_keep; decide)
    | (with_reducible apply Keep.step; with_reducible apply State.sendTo_keep; decide)
    | (with_reducible apply Keep.step; with_reducible apply State.putSet_keep; decide)
    | with_reducible apply State.recv_keep
    | with_reducible apply Keep.ite
    | with_reducible apply OutKeep.ite
    | with_reducible apply OutKeep.next
    | (show sub _ _ = true; decide)
    | split
    | dsimp only
    | with_reducible exact Keep.id _ _
    | intro _

theorem execSetRelease_keep (n : Fin 42) (f : Frame) (s : State) : OutKeep ([.regs, .sedge], 0x40000008000000000000000000000005000000000000000000000) s (execSetRelease n f s) := by
  unfold execSetRelease
  repeat' first
    | with_reducible exact Keep.refl _ _
    | with_reducible assumption
    | (with_reducible apply Keep.step; with_reducible apply State.staleFelt_keep; decide)
    | (with_reducible apply Keep.step; with_reducible apply State.freeSet_keep; decide)
    | (with_reducible apply Keep.step; with_reducible apply State.staleAt_keep; decide)
    | with_reducible apply State.recv_keep
    | with_reducible apply Keep.ite
    | with_reducible apply OutKeep.ite
    | with_reducible apply OutKeep.next
    | (show sub _ _ = true; decide)
    | split
    | dsimp only
    | with_reducible exact Keep.id _ _
    | intro _

theorem State.cutEnable_keep (s : State) (value : Nat) : Keep ([.regs, .log, .cut], 0x100000000000000000500000000000000000000000000040800000000000) s (State.cutEnable s value) := by
  unfold State.cutEnable
  repeat' first
    | with_reducible exact Keep.refl _ _
    | with_reducible assumption
    | (with_reducible apply Keep.step; with_reducible apply State.accessError_keep; decide)
    | (with_reducible apply Keep.step; with_reducible apply State.onCut_keep; decide)
    | (with_reducible apply Keep.step; with_reducible apply State.raise_keep has_Fld_tierCutErrStatus_dirInvalid; decide)
    | (with_reducible apply Keep.step; with_reducible apply State.wr_keep has_Fld_tierCutCtrl_enable; decide)
    | (with_reducible apply Keep.step; with_reducible apply State.writePlain_keep has_Reg_tierCutCtrl; decide)
    | with_reducible apply Keep.ite
    | split
    | dsimp only
    | (with_reducible apply Keep.step; with_reducible apply Keep.of_fst; assumption; with_reducible apply State.writePlain_keep has_Reg_tierCutCtrl; decide)

theorem freeStatus_keep (s : State) : Keep ([.freeCtr], 0x0) s (freeStatus s).2 := by
  unfold freeStatus
  repeat' first
    | with_reducible exact Keep.refl _ _
    | with_reducible assumption
    | (with_reducible apply Keep.step; with_reducible apply State.pickFree_keep; decide)
    | with_reducible apply Keep.ite
    | split
    | dsimp only
    | (with_reducible apply Keep.step; with_reducible apply Keep.of_snd; assumption; with_reducible apply State.pickFree_keep; decide)

theorem State.cutDisable_keep (s : State) (value : Nat) : Keep ([.board, .regs, .mem, .log, .red, .ful, .cut, .sedge, .map, .rst, .warden, .syn, .chk, .freeCtr, .outbox], 0x104001002510000007a5f1d3e11df90000000001f7000060a00000000000) s (State.cutDisable s value) := by
  unfold State.cutDisable
  repeat' first
    | with_reducible exact Keep.refl _ _
    | with_reducible assumption
    | (with_reducible apply Keep.step; with_reducible apply freeStatus_keep; decide)
    | (with_reducible apply Keep.step; with_reducible apply State.writePlain_keep has_Reg_tierCutCtrl; decide)
    | with_reducible apply State.abandonEarly_keep
    | with_reducible apply Keep.ite
    | (show sub _ _ = true; decide)
    | split
    | dsimp only
    | with_reducible exact Keep.id _ _
    | intro _
    | (with_reducible apply Keep.step; with_reducible apply Keep.of_snd; assumption; with_reducible apply freeStatus_keep; decide)
    | (with_reducible apply Keep.step; with_reducible apply Keep.of_fst; assumption; with_reducible apply State.writePlain_keep has_Reg_tierCutCtrl; decide)

theorem State.battWrite_keep (s : State) (step : W64) (a : Nat) (bs : List Byte) : Keep ([.mem, .cut], 0x0) s (State.battWrite s step a bs).1 := by
  unfold State.battWrite
  repeat' first
    | with_reducible exact Keep.refl _ _
    | with_reducible assumption
    | (with_reducible apply Keep.step; with_reducible apply State.store'_keep; decide)
    | (with_reducible apply Keep.step; with_reducible apply State.putCut_keep; decide)
    | with_reducible apply Keep.ite
    | split
    | dsimp only

theorem State.laterWrite_keep (s : State) (step : W64) : Keep ([.board, .regs, .mem, .log, .red, .ful, .cut, .sedge, .map, .rst, .warden, .syn, .chk, .freeCtr, .outbox], 0x4001002510000007a5f1d3e11df90000000001f7000060200000000000) s (State.laterWrite s step) := by
  unfold State.laterWrite
  repeat' first
    | with_reducible exact Keep.refl _ _
    | with_reducible assumption
    | (with_reducible apply Keep.step; with_reducible apply State.cutFinal_keep; decide)
    | with_reducible apply Keep.foldl
    | with_reducible apply Keep.foldl_fst
    | with_reducible apply Keep.foldl_snd
    | fail_if_no_progress (with_reducible apply Keep.step; with_reducible apply keep_rst; rfl; decide)
    | with_reducible apply Keep.ite
    | split
    | dsimp only
    | intro _

theorem State.stateFaultCut_keep (s : State) (batt : Nat) (status : Status) : Keep ([.board, .regs, .mem, .log, .red, .ful, .cut, .sedge, .map, .rst, .warden, .syn, .chk, .freeCtr, .outbox], 0x4001002510000007a5f1d3e11df90000000001f7000060200000000000) s (State.stateFaultCut s batt status) := by
  unfold State.stateFaultCut
  repeat' first
    | with_reducible exact Keep.refl _ _
    | with_reducible assumption
    | (with_reducible apply Keep.step; with_reducible apply State.cutFinal_keep; decide)
    | with_reducible apply Keep.foldl
    | with_reducible apply Keep.foldl_fst
    | with_reducible apply Keep.foldl_snd
    | with_reducible apply Keep.ite
    | split
    | dsimp only
    | intro _

end Sys2Proof.Machine
end

