-- ==== Sys2Proof/Laws/KeepCtx.lean ====
section
/-! SUPPORT. What each operation of Machine/Ctx.lean can do: one lemma for each (`Keep`). -/
namespace Sys2Proof.Machine

set_option linter.all false

theorem State.onCmd_keep (s : State) (f : Cmd → Cmd) : Keep ([.cmd], 0x0) s (State.onCmd s f) := by
  unfold State.onCmd
  repeat' first
    | with_reducible exact Keep.refl _ _
    | with_reducible assumption
    | fail_if_no_progress (with_reducible apply Keep.step; with_reducible apply keep_cmd; decide)
    | with_reducible apply Keep.ite
    | split
    | dsimp only

theorem State.putCtx_keep (s : State) (k : Nat) (c : Ctx) : Keep ([.cmd], 0x0) s (State.putCtx s k c) := by
  unfold State.putCtx
  repeat' first
    | with_reducible exact Keep.refl _ _
    | with_reducible assumption
    | (with_reducible apply Keep.step; with_reducible apply State.onCmd_keep; decide)
    | with_reducible apply Keep.ite
    | split
    | dsimp only

theorem State.putQueue_keep (s : State) (q : Nat) (x : Queue) : Keep ([.cmd], 0x0) s (State.putQueue s q x) := by
  unfold State.putQueue
  repeat' first
    | with_reducible exact Keep.refl _ _
    | with_reducible assumption
    | (with_reducible apply Keep.step; with_reducible apply State.onCmd_keep; decide)
    | with_reducible apply Keep.ite
    | split
    | dsimp only

theorem State.ctxEnd_keep (s : State) (k : Nat) (st : Status) (r0 r1 : Nat) : Keep ([.regs, .log, .cmd], 0x40000000000000) s (State.ctxEnd s k st r0 r1) := by
  unfold State.ctxEnd
  repeat' first
    | with_reducible exact Keep.refl _ _
    | with_reducible assumption
    | (with_reducible apply Keep.step; with_reducible apply State.logAbort_keep; decide)
    | (with_reducible apply Keep.step; with_reducible apply State.putCtx_keep; decide)
    | with_reducible apply Keep.ite
    | split
    | dsimp only

theorem State.peatNextEnd_keep (s : State) (seq : W32) (st : Status) : Keep ([.regs, .log, .cut, .cmd], 0x40000000000000) s (State.peatNextEnd s seq st) := by
  unfold State.peatNextEnd
  repeat' first
    | with_reducible exact Keep.refl _ _
    | with_reducible assumption
    | (with_reducible apply Keep.step; with_reducible apply State.ctxEnd_keep; decide)
    | fail_if_no_progress (with_reducible apply Keep.step; with_reducible apply keep_cut; decide)
    | with_reducible apply Keep.ite
    | split
    | dsimp only

end Sys2Proof.Machine
end

