-- ==== Sys2Proof/Laws/KeepPeat.lean ====
section
/-! SUPPORT. What each operation of Machine/Peat.lean can do: one lemma for each (`Keep`). -/
namespace Sys2Proof.Machine

set_option linter.all false

theorem State.onPeat_keep (s : State) (f : Peat → Peat) (hf : ∀ x, Memory.wf x.drive.blocks = true → Memory.wf (f x).drive.blocks = true) : Keep ([.peat], 0) s (s.onPeat f) := keep_peat' s _ (hf s.peat)

theorem State.driveStore_keep (s : State) (k : Nat) (bs : List Byte) : Keep ([.peat], 0x0) s (State.driveStore s k bs) := by
  unfold State.driveStore
  repeat' first
    | with_reducible exact Keep.refl _ _
    | with_reducible assumption
    | (with_reducible apply Keep.step; with_reducible apply State.onPeat_keep; intro _ h; (first | exact h | exact Memory.wf_nil | exact Memory.wf_putBytes _ _ h | exact Memory.wf_erase _ _ h | with_unfolding_all exact h); decide)
    | with_reducible apply Keep.ite
    | split
    | dsimp only

theorem State.takeUnits_keep (n : Nat) (s : State) (mine : List Nat) : Keep ([.peat], 0x0) s (State.takeUnits n s mine).2 := by
  induction n generalizing s mine with
  | zero =>
    exact Keep.refl _ _
  | succ n ih =>
    unfold State.takeUnits
    repeat' first
      | with_reducible exact Keep.refl _ _
      | (with_reducible apply Keep.step; with_reducible apply ih; decide)
      | with_reducible assumption
      | (with_reducible apply Keep.step; with_reducible apply State.onPeat_keep; intro _ h; (first | exact h | exact Memory.wf_nil | exact Memory.wf_putBytes _ _ h | exact Memory.wf_erase _ _ h | with_unfolding_all exact h); decide)
      | with_reducible apply Keep.ite
      | split
      | dsimp only

theorem State.catWrite_keep (s : State) (owner : NvmeOwner) (es : List CatEntry) : Keep ([.peat], 0x0) s (State.catWrite s owner es) := by
  unfold State.catWrite
  repeat' first
    | with_reducible exact Keep.refl _ _
    | with_reducible assumption
    | (with_reducible apply Keep.step; with_reducible apply State.onPeat_keep; intro _ h; (first | exact h | exact Memory.wf_nil | exact Memory.wf_putBytes _ _ h | exact Memory.wf_erase _ _ h | with_unfolding_all exact h); decide)
    | with_reducible apply Keep.ite
    | split
    | dsimp only

theorem State.showGens_keep (s : State) : Keep ([.regs], 0xa0000000000000000000000000) s (State.showGens s) := by
  unfold State.showGens
  repeat' first
    | with_reducible exact Keep.refl _ _
    | with_reducible assumption
    | (with_reducible apply Keep.step; with_reducible apply State.wr_keep has_Fld_peatGen_lastGen; decide)
    | (with_reducible apply Keep.step; with_reducible apply State.wr_keep has_Fld_peatGenStep_step; decide)
    | with_reducible apply Keep.ite
    | split
    | dsimp only

theorem State.catLand_keep (s : State) (t : NvmeOwner → Bool) : Keep ([.peat], 0x0) s (State.catLand s t) := by
  unfold State.catLand
  repeat' first
    | with_reducible exact Keep.refl _ _
    | with_reducible assumption
    | (with_reducible apply Keep.step; with_reducible apply State.driveStore_keep; decide)
    | (with_reducible apply Keep.step; with_reducible apply State.onPeat_keep; intro _ h; (first | exact h | exact Memory.wf_nil | exact Memory.wf_putBytes _ _ h | exact Memory.wf_erase _ _ h | with_unfolding_all exact h); decide)
    | with_reducible apply Keep.ite
    | split
    | dsimp only

theorem State.manStore_keep (s : State) (man : List Nat) (key : Option (List Byte)) (b : List Byte) : Keep ([.peat], 0x0) s (State.manStore s man key b) := by
  unfold State.manStore
  repeat' first
    | with_reducible exact Keep.refl _ _
    | with_reducible assumption
    | (with_reducible apply Keep.step; with_reducible apply State.driveStore_keep; decide)
    | with_reducible apply Keep.foldl
    | with_reducible apply Keep.foldl_fst
    | with_reducible apply Keep.foldl_snd
    | with_reducible apply Keep.ite
    | split
    | dsimp only
    | intro _

theorem State.peatErr_keep (s : State) (st : Status) : Keep ([.regs], 0xd800000000000000000000000) s (State.peatErr s st) := by
  unfold State.peatErr
  repeat' first
    | with_reducible exact Keep.refl _ _
    | with_reducible assumption
    | (with_reducible apply Keep.step; with_reducible apply State.raise_keep has_Fld_peatErrStatus_io; decide)
    | (with_reducible apply Keep.step; with_reducible apply State.raise_keep has_Fld_peatErrStatus_keyAbsent; decide)
    | (with_reducible apply Keep.step; with_reducible apply State.raise_keep has_Fld_peatErrStatus_peatFull; decide)
    | (with_reducible apply Keep.step; with_reducible apply State.raise_keep has_Fld_peatErrStatus_pfailAbort; decide)
    | with_reducible apply Keep.ite
    | split
    | dsimp only

theorem State.flushEnds_keep (s : State) (r : Rewrite) (st : Status) : Keep ([.regs, .log, .cmd], 0xd800000000040000000000000) s (State.flushEnds s r st) := by
  unfold State.flushEnds
  repeat' first
    | with_reducible exact Keep.refl _ _
    | with_reducible assumption
    | (with_reducible apply Keep.step; with_reducible apply State.peatErr_keep; decide)
    | (with_reducible apply Keep.step; with_reducible apply State.ctxEnd_keep; decide)
    | with_reducible apply Keep.foldl
    | with_reducible apply Keep.foldl_fst
    | with_reducible apply Keep.foldl_snd
    | with_reducible apply Keep.ite
    | split
    | dsimp only
    | intro _

theorem State.takeRewrite_keep (s : State) (r : Rewrite) : Keep ([.regs, .log, .peat, .cmd], 0x4d800000000040000000000000) s (State.takeRewrite s r) := by
  unfold State.takeRewrite
  repeat' first
    | with_reducible exact Keep.refl _ _
    | with_reducible assumption
    | (with_reducible apply Keep.step; with_reducible apply State.takeUnits_keep; decide)
    | (with_reducible apply Keep.step; with_reducible apply State.flushEnds_keep; decide)
    | (with_reducible apply Keep.step; with_reducible apply State.manStore_keep; decide)
    | (with_reducible apply Keep.step; with_reducible apply State.onPeat_keep; intro _ h; (first | exact h | exact Memory.wf_nil | exact Memory.wf_putBytes _ _ h | exact Memory.wf_erase _ _ h | with_unfolding_all exact h); decide)
    | (with_reducible apply Keep.step; with_reducible apply State.wr_keep has_Fld_peatGenHigh_genHigh; decide)
    | with_reducible apply Keep.ite
    | split
    | dsimp only
    | (with_reducible apply Keep.step; with_reducible apply Keep.of_snd; assumption; with_reducible apply State.takeUnits_keep; decide)

theorem State.takeRewrites_keep (s : State) : Keep ([.regs, .log, .peat, .cmd], 0x4d800000000040000000000000) s (State.takeRewrites s) := by
  unfold State.takeRewrites
  repeat' first
    | with_reducible exact Keep.refl _ _
    | with_reducible assumption
    | (with_reducible apply Keep.step; with_reducible apply State.takeRewrite_keep; decide)
    | (with_reducible apply Keep.step; with_reducible apply State.onPeat_keep; intro _ h; (first | exact h | exact Memory.wf_nil | exact Memory.wf_putBytes _ _ h | exact Memory.wf_erase _ _ h | with_unfolding_all exact h); decide)
    | with_reducible apply Keep.foldl
    | with_reducible apply Keep.foldl_fst
    | with_reducible apply Keep.foldl_snd
    | with_reducible apply Keep.ite
    | split
    | dsimp only
    | intro _

theorem State.mapRewritten_keep (s : State) (key : Option (List Byte)) (m : Man) (old : Nat) (moves : List (Nat × Nat)) (g : Nat) : Keep ([.map], 0x0) s (State.mapRewritten s key m old moves g) := by
  unfold State.mapRewritten
  repeat' first
    | with_reducible exact Keep.refl _ _
    | with_reducible assumption
    | fail_if_no_progress (with_reducible apply Keep.step; with_reducible apply keep_map; decide)
    | with_reducible apply Keep.ite
    | split
    | dsimp only

theorem State.flushCheck_keep (s : State) : Keep ([.regs, .log, .cmd], 0x40000000000000) s (State.flushCheck s) := by
  unfold State.flushCheck
  repeat' first
    | with_reducible exact Keep.refl _ _
    | with_reducible assumption
    | (with_reducible apply Keep.step; with_reducible apply State.ctxEnd_keep; decide)
    | with_reducible apply Keep.foldl
    | with_reducible apply Keep.foldl_fst
    | with_reducible apply Keep.foldl_snd
    | with_reducible apply Keep.ite
    | split
    | dsimp only
    | intro _

theorem State.flushBegin_keep (s : State) : Keep ([.regs, .log, .peat, .cmd], 0x4d800000000040000000000000) s (State.flushBegin s) := by
  unfold State.flushBegin
  repeat' first
    | with_reducible exact Keep.refl _ _
    | with_reducible assumption
    | (with_reducible apply Keep.step; with_reducible apply State.takeRewrites_keep; decide)
    | (with_reducible apply Keep.step; with_reducible apply State.flushCheck_keep; decide)
    | (with_reducible apply Keep.step; with_reducible apply State.onPeat_keep; intro _ h; (first | exact h | exact Memory.wf_nil | exact Memory.wf_putBytes _ _ h | exact Memory.wf_erase _ _ h | with_unfolding_all exact h); decide)
    | with_reducible apply Keep.ite
    | split
    | dsimp only

theorem State.catCommit_keep (s : State) : Keep ([.regs, .log, .cut, .map, .peat, .cmd], 0xa0000000000040000000000000) s (State.catCommit s) := by
  unfold State.catCommit
  repeat' first
    | with_reducible exact Keep.refl _ _
    | with_reducible assumption
    | (with_reducible apply Keep.step; with_reducible apply State.mapRewritten_keep; decide)
    | (with_reducible apply Keep.step; with_reducible apply State.flushCheck_keep; decide)
    | (with_reducible apply Keep.step; with_reducible apply State.showGens_keep; decide)
    | (with_reducible apply Keep.step; with_reducible apply State.mapDrop_keep; decide)
    | (with_reducible apply Keep.step; with_reducible apply State.catLand_keep; decide)
    | (with_reducible apply Keep.step; with_reducible apply State.onPeat_keep; intro _ h; (first | exact h | exact Memory.wf_nil | exact Memory.wf_putBytes _ _ h | exact Memory.wf_erase _ _ h | with_unfolding_all exact h); decide)
    | (with_reducible apply Keep.step; with_reducible apply State.onCut_keep; decide)
    | with_reducible apply Keep.foldl
    | with_reducible apply Keep.foldl_fst
    | with_reducible apply Keep.foldl_snd
    | with_reducible apply Keep.ite
    | split
    | dsimp only
    | intro _

theorem State.mapPeatAdd_keep (s : State) (e : CatEntry) (m : Man) : Keep ([.regs, .map], 0x2001000000000000000000000000000000000000000000000) s (State.mapPeatAdd s e m) := by
  unfold State.mapPeatAdd
  repeat' first
    | with_reducible exact Keep.refl _ _
    | with_reducible assumption
    | (with_reducible apply Keep.step; with_reducible apply State.mapRefuse_keep; decide)
    | (with_reducible apply Keep.step; with_reducible apply State.mapAdd_keep; decide)
    | with_reducible apply Keep.foldl
    | with_reducible apply Keep.foldl_fst
    | with_reducible apply Keep.foldl_snd
    | with_reducible apply Keep.ite
    | split
    | dsimp only
    | intro _

theorem State.rebuildGen_keep (s : State) (e : CatEntry) : Keep ([.regs, .map, .peat], 0x2001000000000000000000000000000000000000000000000) s (State.rebuildGen s e) := by
  unfold State.rebuildGen
  repeat' first
    | with_reducible exact Keep.refl _ _
    | with_reducible assumption
    | (with_reducible apply Keep.step; with_reducible apply State.mapPeatAdd_keep; decide)
    | (with_reducible apply Keep.step; with_reducible apply State.onPeat_keep; intro _ h; (first | exact h | exact Memory.wf_nil | exact Memory.wf_putBytes _ _ h | exact Memory.wf_erase _ _ h | with_unfolding_all exact h); decide)
    | with_reducible apply Keep.ite
    | split
    | dsimp only

theorem State.classify_keep (s : State) : Keep ([.board, .regs, .mem, .log, .red, .ful, .cut, .sedge, .map, .peat, .rst, .warden, .syn, .chk, .freeCtr, .outbox], 0x4001002512001007a5f1d3e11df90001f00001f7000060200000000000) s (State.classify s) := by
  unfold State.classify
  repeat' first
    | with_reducible exact Keep.refl _ _
    | with_reducible assumption
    | (with_reducible apply Keep.step; with_reducible apply State.rebuildGen_keep; decide)
    | (with_reducible apply Keep.step; with_reducible apply State.showGens_keep; decide)
    | (with_reducible apply Keep.step; with_reducible apply State.mapDrop_keep; decide)
    | (with_reducible apply Keep.step; with_reducible apply State.onPeat_keep; intro _ h; (first | exact h | exact Memory.wf_nil | exact Memory.wf_putBytes _ _ h | exact Memory.wf_erase _ _ h | with_unfolding_all exact h); decide)
    | (with_reducible apply Keep.step; with_reducible apply State.ready_keep; decide)
    | (with_reducible apply Keep.step; with_reducible apply State.raise_keep has_Fld_peatErrStatus_slotTorn; decide)
    | (with_reducible apply Keep.step; with_reducible apply State.wr_keep has_Fld_peatGenHigh_genHigh; decide)
    | (with_reducible apply Keep.step; with_reducible apply State.wr_keep has_Fld_peatJobc_step; decide)
    | with_reducible apply Keep.foldl
    | with_reducible apply Keep.foldl_fst
    | with_reducible apply Keep.foldl_snd
    | with_reducible apply Keep.ite
    | split
    | dsimp only
    | intro _

theorem State.trained_keep (s : State) : Keep ([.regs, .peat], 0x200000000000000000000000) s (State.trained s) := by
  unfold State.trained
  repeat' first
    | with_reducible exact Keep.refl _ _
    | with_reducible assumption
    | (with_reducible apply Keep.step; with_reducible apply State.onPeat_keep; intro _ h; (first | exact h | exact Memory.wf_nil | exact Memory.wf_putBytes _ _ h | exact Memory.wf_erase _ _ h | with_unfolding_all exact h); decide)
    | (with_reducible apply Keep.step; with_reducible apply State.raise_keep has_Fld_peatErrStatus_degraded; decide)
    | with_reducible apply Keep.ite
    | split
    | dsimp only

theorem State.peatBringUp_keep (s : State) : Keep ([.board, .regs, .mem, .log, .red, .ful, .cut, .sedge, .map, .peat, .rst, .warden, .syn, .chk, .freeCtr, .outbox], 0x4001002512001007a5f1d3e11df90001f02001f7000060200000000000) s (State.peatBringUp s) := by
  unfold State.peatBringUp
  repeat' first
    | with_reducible exact Keep.refl _ _
    | with_reducible assumption
    | (with_reducible apply Keep.step; with_reducible apply State.classify_keep; decide)
    | (with_reducible apply Keep.step; with_reducible apply State.trained_keep; decide)
    | (with_reducible apply Keep.step; with_reducible apply State.onPeat_keep; intro _ h; (first | exact h | exact Memory.wf_nil | exact Memory.wf_putBytes _ _ h | exact Memory.wf_erase _ _ h | with_unfolding_all exact h); decide)
    | (with_reducible apply Keep.step; with_reducible apply State.ready_keep; decide)
    | with_reducible apply Keep.ite
    | split
    | dsimp only

theorem State.unpin_keep (s : State) (c : Cut) : Keep ([.cut], 0x0) s (State.unpin s c) := by
  unfold State.unpin
  repeat' first
    | with_reducible exact Keep.refl _ _
    | with_reducible assumption
    | (with_reducible apply Keep.step; with_reducible apply State.putHalf_keep; decide)
    | with_reducible apply Keep.ite
    | split
    | dsimp only

theorem State.drainEnd_keep (s : State) (seq : W32) (st : Status) (g : Nat) : Keep ([.board, .regs, .mem, .log, .red, .ful, .cut, .sedge, .map, .rst, .warden, .syn, .cmd, .chk, .freeCtr, .outbox], 0x4001002510000007a5f1d3e11df90000000001f7000060200000000000) s (State.drainEnd s seq st g) := by
  unfold State.drainEnd
  repeat' first
    | with_reducible exact Keep.refl _ _
    | with_reducible assumption
    | (with_reducible apply Keep.step; with_reducible apply State.peatNextEnd_keep; decide)
    | (with_reducible apply Keep.step; with_reducible apply State.peatArrive_keep; decide)
    | (with_reducible apply Keep.step; with_reducible apply State.dropLanes_keep; decide)
    | (with_reducible apply Keep.step; with_reducible apply State.cutFlush_keep; decide)
    | (with_reducible apply Keep.step; with_reducible apply State.dropCtxs_keep; decide)
    | (with_reducible apply Keep.step; with_reducible apply State.putCut_keep; decide)
    | (with_reducible apply Keep.step; with_reducible apply State.unpin_keep; decide)
    | with_reducible apply Keep.ite
    | split
    | dsimp only

theorem State.peatIdle_keep (s : State) : Keep ([.regs, .log, .peat, .cmd], 0x40000000000000) s (State.peatIdle s) := by
  unfold State.peatIdle
  repeat' first
    | with_reducible exact Keep.refl _ _
    | with_reducible assumption
    | (with_reducible apply Keep.step; with_reducible apply State.ctxEnd_keep; decide)
    | (with_reducible apply Keep.step; with_reducible apply State.onPeat_keep; intro _ h; (first | exact h | exact Memory.wf_nil | exact Memory.wf_putBytes _ _ h | exact Memory.wf_erase _ _ h | with_unfolding_all exact h); decide)
    | with_reducible apply Keep.foldl
    | with_reducible apply Keep.foldl_fst
    | with_reducible apply Keep.foldl_snd
    | with_reducible apply Keep.ite
    | split
    | dsimp only
    | intro _

theorem State.untake_keep (s : State) (d : Drain) : Keep ([.peat], 0x0) s (State.untake s d) := by
  unfold State.untake
  repeat' first
    | with_reducible exact Keep.refl _ _
    | with_reducible assumption
    | (with_reducible apply Keep.step; with_reducible apply State.onPeat_keep; intro _ h; (first | exact h | exact Memory.wf_nil | exact Memory.wf_putBytes _ _ h | exact Memory.wf_erase _ _ h | with_unfolding_all exact h); decide)
    | with_reducible apply Keep.ite
    | split
    | dsimp only

theorem State.drainFail_keep (s : State) (seq : W32) (st : Status) : Keep ([.board, .regs, .mem, .log, .red, .ful, .cut, .sedge, .map, .peat, .rst, .warden, .syn, .cmd, .chk, .freeCtr, .outbox], 0x4001002510000007a5f1d3e11df900000dc001f7000060200000000000) s (State.drainFail s seq st) := by
  unfold State.drainFail
  repeat' first
    | with_reducible exact Keep.refl _ _
    | with_reducible assumption
    | (with_reducible apply Keep.step; with_reducible apply State.logAbort_keep; decide)
    | (with_reducible apply Keep.step; with_reducible apply State.peatIdle_keep; decide)
    | (with_reducible apply Keep.step; with_reducible apply State.drainEnd_keep; decide)
    | (with_reducible apply Keep.step; with_reducible apply State.mapDrop_keep; decide)
    | (with_reducible apply Keep.step; with_reducible apply State.peatErr_keep; decide)
    | (with_reducible apply Keep.step; with_reducible apply State.untake_keep; decide)
    | (with_reducible apply Keep.step; with_reducible apply State.onPeat_keep; intro _ h; (first | exact h | exact Memory.wf_nil | exact Memory.wf_putBytes _ _ h | exact Memory.wf_erase _ _ h | with_unfolding_all exact h); decide)
    | (with_reducible apply Keep.step; with_reducible apply State.raise_keep has_Fld_peatErrStatus_drainFail; decide)
    | with_reducible apply Keep.ite
    | split
    | dsimp only

theorem State.drainStart_keep (s : State) (c : Cut) (ctx : Nat) : Keep ([.board, .regs, .mem, .log, .red, .ful, .cut, .sedge, .map, .peat, .rst, .warden, .syn, .cmd, .chk, .freeCtr, .outbox], 0x4001002512001007a5f1d3e11df900004dc001f7000060200000000000) s (State.drainStart s c ctx) := by
  unfold State.drainStart
  repeat' first
    | with_reducible exact Keep.refl _ _
    | with_reducible assumption
    | (with_reducible apply Keep.step; with_reducible apply State.mapReserve_keep; decide)
    | (with_reducible apply Keep.step; with_reducible apply State.drainFail_keep; decide)
    | (with_reducible apply Keep.step; with_reducible apply State.mapRefuse_keep; decide)
    | (with_reducible apply Keep.step; with_reducible apply State.catWrite_keep; decide)
    | (with_reducible apply Keep.step; with_reducible apply State.takeCtx_keep; decide)
    | (with_reducible apply Keep.step; with_reducible apply State.onPeat_keep; intro _ h; (first | exact h | exact Memory.wf_nil | exact Memory.wf_putBytes _ _ h | exact Memory.wf_erase _ _ h | with_unfolding_all exact h); decide)
    | (with_reducible apply Keep.step; with_reducible apply State.wr_keep has_Fld_peatGenHigh_genHigh; decide)
    | with_reducible apply Keep.ite
    | split
    | dsimp only

theorem State.drainTry_keep (s : State) : Keep ([.board, .regs, .mem, .log, .red, .ful, .cut, .sedge, .map, .peat, .rst, .warden, .syn, .cmd, .chk, .freeCtr, .outbox], 0x4001002512001007a5f1d3e11df900004dc001f7000060200000000000) s (State.drainTry s) := by
  unfold State.drainTry
  repeat' first
    | with_reducible exact Keep.refl _ _
    | with_reducible assumption
    | (with_reducible apply Keep.step; with_reducible apply State.drainStart_keep; decide)
    | with_reducible apply Keep.ite
    | split
    | dsimp only

theorem State.drainWrites_keep (s : State) (d : Drain) (c : Cut) (sums : List RegionSum) (du mu : List Nat) : Keep ([.cut, .peat], 0x0) s (State.drainWrites s d c sums du mu) := by
  unfold State.drainWrites
  repeat' first
    | with_reducible exact Keep.refl _ _
    | with_reducible assumption
    | (with_reducible apply Keep.step; with_reducible apply State.onPeat_keep; intro _ h; (first | exact h | exact Memory.wf_nil | exact Memory.wf_putBytes _ _ h | exact Memory.wf_erase _ _ h | with_unfolding_all exact h); decide)
    | (with_reducible apply Keep.step; with_reducible apply State.putCut_keep; decide)
    | with_reducible apply Keep.ite
    | split
    | dsimp only

theorem doDrainReservationDone_keep (s : State) : OutKeep ([.board, .regs, .mem, .log, .red, .ful, .cut, .sedge, .map, .peat, .rst, .warden, .syn, .cmd, .chk, .freeCtr, .outbox], 0x4001002510000007a5f1d3e11df900000dc001f7000060200000000000) s (doDrainReservationDone s) := by
  unfold doDrainReservationDone
  repeat' first
    | with_reducible exact Keep.refl _ _
    | with_reducible assumption
    | (with_reducible apply Keep.step; with_reducible apply State.drainWrites_keep; decide)
    | (with_reducible apply Keep.step; with_reducible apply State.takeUnits_keep; decide)
    | (with_reducible apply Keep.step; with_reducible apply State.drainFail_keep; decide)
    | (with_reducible apply Keep.step; with_reducible apply State.catLand_keep; decide)
    | with_reducible apply Keep.ite
    | with_reducible apply OutKeep.ite
    | with_reducible apply OutKeep.next
    | split
    | dsimp only
    | (with_reducible apply Keep.step; with_reducible apply Keep.of_snd; assumption; with_reducible apply State.takeUnits_keep; decide)

theorem State.drainHalt_keep (s : State) : Keep ([.peat, .freeCtr], 0x0) s (State.drainHalt s) := by
  unfold State.drainHalt
  repeat' first
    | with_reducible exact Keep.refl _ _
    | with_reducible assumption
    | (with_reducible apply Keep.step; with_reducible apply State.driveStore_keep; decide)
    | (with_reducible apply Keep.step; with_reducible apply State.pickFree_keep; decide)
    | (with_reducible apply Keep.step; with_reducible apply State.onPeat_keep; intro _ h; (first | exact h | exact Memory.wf_nil | exact Memory.wf_putBytes _ _ h | exact Memory.wf_erase _ _ h | with_unfolding_all exact h); decide)
    | with_reducible apply Keep.foldl
    | with_reducible apply Keep.foldl_fst
    | with_reducible apply Keep.foldl_snd
    | with_reducible apply Keep.ite
    | split
    | dsimp only
    | intro _
    | (with_reducible apply Keep.step; with_reducible apply Keep.of_snd; assumption; with_reducible apply State.pickFree_keep; decide)

theorem doDrainWritesDone_keep (s : State) : OutKeep ([.board, .regs, .mem, .log, .red, .ful, .cut, .sedge, .map, .peat, .rst, .warden, .syn, .cmd, .chk, .freeCtr, .outbox], 0x4001002510000007a5f1d3e11df900004dc001f7000060200000000000) s (doDrainWritesDone s) := by
  unfold doDrainWritesDone
  repeat' first
    | with_reducible exact Keep.refl _ _
    | with_reducible assumption
    | (with_reducible apply Keep.step; with_reducible apply State.takeRewrites_keep; decide)
    | (with_reducible apply Keep.step; with_reducible apply State.driveStore_keep; decide)
    | (with_reducible apply Keep.step; with_reducible apply State.drainFail_keep; decide)
    | (with_reducible apply Keep.step; with_reducible apply State.mapMove_keep; decide)
    | (with_reducible apply Keep.step; with_reducible apply State.onPeat_keep; intro _ h; (first | exact h | exact Memory.wf_nil | exact Memory.wf_putBytes _ _ h | exact Memory.wf_erase _ _ h | with_unfolding_all exact h); decide)
    | with_reducible apply Keep.foldl
    | with_reducible apply Keep.foldl_fst
    | with_reducible apply Keep.foldl_snd
    | with_reducible apply Keep.ite
    | with_reducible apply OutKeep.ite
    | with_reducible apply OutKeep.next
    | split
    | dsimp only
    | intro _

theorem doDrainFlushDone_keep (s : State) : OutKeep ([.board, .regs, .mem, .log, .red, .ful, .cut, .sedge, .map, .peat, .rst, .warden, .syn, .cmd, .chk, .freeCtr, .outbox], 0x4001002510000007a5f1d3e11df900000dc001f7000060200000000000) s (doDrainFlushDone s) := by
  unfold doDrainFlushDone
  repeat' first
    | with_reducible exact Keep.refl _ _
    | with_reducible assumption
    | (with_reducible apply Keep.step; with_reducible apply State.drainFail_keep; decide)
    | (with_reducible apply Keep.step; with_reducible apply State.catWrite_keep; decide)
    | (with_reducible apply Keep.step; with_reducible apply State.onPeat_keep; intro _ h; (first | exact h | exact Memory.wf_nil | exact Memory.wf_putBytes _ _ h | exact Memory.wf_erase _ _ h | with_unfolding_all exact h); decide)
    | with_reducible apply Keep.ite
    | with_reducible apply OutKeep.ite
    | with_reducible apply OutKeep.next
    | split
    | dsimp only

theorem doDrainCatalogueDone_keep (s : State) : OutKeep ([.board, .regs, .mem, .log, .red, .ful, .cut, .sedge, .map, .peat, .rst, .warden, .syn, .cmd, .chk, .freeCtr, .outbox], 0x4001002510000007a5f1d3e11df90000a00001f7000060200000000000) s (doDrainCatalogueDone s) := by
  unfold doDrainCatalogueDone
  repeat' first
    | with_reducible exact Keep.refl _ _
    | with_reducible assumption
    | (with_reducible apply Keep.step; with_reducible apply State.catCommit_keep; decide)
    | (with_reducible apply Keep.step; with_reducible apply State.peatIdle_keep; decide)
    | (with_reducible apply Keep.step; with_reducible apply State.drainEnd_keep; decide)
    | (with_reducible apply Keep.step; with_reducible apply State.mapMove_keep; decide)
    | (with_reducible apply Keep.step; with_reducible apply State.onPeat_keep; intro _ h; (first | exact h | exact Memory.wf_nil | exact Memory.wf_putBytes _ _ h | exact Memory.wf_erase _ _ h | with_unfolding_all exact h); decide)
    | with_reducible apply Keep.ite
    | with_reducible apply OutKeep.ite
    | with_reducible apply OutKeep.next
    | split
    | dsimp only

theorem State.flushFail_keep (s : State) (st : Status) : Keep ([.regs, .log, .peat, .cmd], 0xd800000000040000000000000) s (State.flushFail s st) := by
  unfold State.flushFail
  repeat' first
    | with_reducible exact Keep.refl _ _
    | with_reducible assumption
    | (with_reducible apply Keep.step; with_reducible apply State.peatErr_keep; decide)
    | (with_reducible apply Keep.step; with_reducible apply State.ctxEnd_keep; decide)
    | (with_reducible apply Keep.step; with_reducible apply State.onPeat_keep; intro _ h; (first | exact h | exact Memory.wf_nil | exact Memory.wf_putBytes _ _ h | exact Memory.wf_erase _ _ h | with_unfolding_all exact h); decide)
    | with_reducible apply Keep.foldl
    | with_reducible apply Keep.foldl_fst
    | with_reducible apply Keep.foldl_snd
    | with_reducible apply Keep.ite
    | split
    | dsimp only
    | intro _

theorem State.tear_keep (s : State) (t : NvmeOwner → Bool) : Keep ([.peat, .freeCtr], 0x0) s (State.tear s t) := by
  unfold State.tear
  repeat' first
    | with_reducible exact Keep.refl _ _
    | with_reducible assumption
    | (with_reducible apply Keep.step; with_reducible apply State.driveStore_keep; decide)
    | (with_reducible apply Keep.step; with_reducible apply State.freeBytes_keep; decide)
    | with_reducible apply Keep.foldl
    | with_reducible apply Keep.foldl_fst
    | with_reducible apply Keep.foldl_snd
    | with_reducible apply Keep.ite
    | split
    | dsimp only
    | intro _
    | (with_reducible apply Keep.step; with_reducible apply Keep.of_snd; assumption; with_reducible apply State.freeBytes_keep; decide)

theorem State.peatResult_keep (s : State) (seq : W32) (or' : W64) : Keep ([.regs, .log, .cut, .peat, .cmd], 0x100000000000040000000000000) s (State.peatResult s seq or') := by
  unfold State.peatResult
  repeat' first
    | with_reducible exact Keep.refl _ _
    | with_reducible assumption
    | (with_reducible apply Keep.step; with_reducible apply State.peatNextEnd_keep; decide)
    | (with_reducible apply Keep.step; with_reducible apply State.onPeat_keep; intro _ h; (first | exact h | exact Memory.wf_nil | exact Memory.wf_putBytes _ _ h | exact Memory.wf_erase _ _ h | with_unfolding_all exact h); decide)
    | (with_reducible apply Keep.step; with_reducible apply State.putCut_keep; decide)
    | (with_reducible apply Keep.step; with_reducible apply State.wr_keep has_Fld_peatJobc_step; decide)
    | with_reducible apply Keep.ite
    | split
    | dsimp only

theorem State.peatFormat_keep (s : State) : Keep ([.board, .regs, .mem, .log, .red, .ful, .cut, .sedge, .map, .peat, .rst, .warden, .syn, .cmd, .chk, .freeCtr, .outbox], 0x4001002510000007a5f1d3e11df90001e01001f7000060200000000000) s (State.peatFormat s) := by
  unfold State.peatFormat
  repeat' first
    | with_reducible exact Keep.refl _ _
    | with_reducible assumption
    | (with_reducible apply Keep.step; with_reducible apply State.driveStore_keep; decide)
    | (with_reducible apply Keep.step; with_reducible apply State.flushCheck_keep; decide)
    | (with_reducible apply Keep.step; with_reducible apply State.showGens_keep; decide)
    | (with_reducible apply Keep.step; with_reducible apply State.mapDrop_keep; decide)
    | (with_reducible apply Keep.step; with_reducible apply State.onPeat_keep; intro _ h; (first | exact h | exact Memory.wf_nil | exact Memory.wf_putBytes _ _ h | exact Memory.wf_erase _ _ h | with_unfolding_all exact h); decide)
    | (with_reducible apply Keep.step; with_reducible apply State.ready_keep; decide)
    | (with_reducible apply Keep.step; with_reducible apply State.wr_keep has_Fld_peatCtrl_formatArm; decide)
    | (with_reducible apply Keep.step; with_reducible apply State.wr_keep has_Fld_peatGenHigh_genHigh; decide)
    | (with_reducible apply Keep.step; with_reducible apply State.wr_keep has_Fld_peatJobc_step; decide)
    | with_reducible apply Keep.ite
    | split
    | dsimp only

theorem State.peatCtrlWrite_keep (s : State) (value : Nat) : Keep ([.board, .regs, .mem, .log, .red, .ful, .cut, .sedge, .map, .peat, .rst, .warden, .syn, .cmd, .chk, .freeCtr, .outbox], 0x4021002512001007a5f1d3e11df90001f03001f7000060a00000000000) s (State.peatCtrlWrite s value) := by
  unfold State.peatCtrlWrite
  repeat' first
    | with_reducible exact Keep.refl _ _
    | with_reducible assumption
    | (with_reducible apply Keep.step; with_reducible apply State.peatBringUp_keep; decide)
    | (with_reducible apply Keep.step; with_reducible apply State.accessError_keep; decide)
    | (with_reducible apply Keep.step; with_reducible apply State.peatFormat_keep; decide)
    | (with_reducible apply Keep.step; with_reducible apply State.classify_keep; decide)
    | (with_reducible apply Keep.step; with_reducible apply State.peatIdle_keep; decide)
    | (with_reducible apply Keep.step; with_reducible apply State.writePlain_keep has_Reg_peatCtrl; decide)
    | with_reducible apply Keep.ite
    | split
    | dsimp only
    | (with_reducible apply Keep.step; with_reducible apply Keep.of_fst; assumption; with_reducible apply State.writePlain_keep has_Reg_peatCtrl; decide)

theorem State.pinWrite_keep (s : State) (n value : Nat) : Keep ([.regs, .log, .map], 0x40000002001000000000000000004000000000000040800000000000) s (State.pinWrite s n value) := by
  unfold State.pinWrite
  repeat' first
    | with_reducible exact Keep.refl _ _
    | with_reducible assumption
    | (with_reducible apply Keep.step; with_reducible apply State.accessError_keep; decide)
    | (with_reducible apply Keep.step; with_reducible apply State.mapRefuse_keep; decide)
    | (with_reducible apply Keep.step; with_reducible apply State.mapDrop_keep; decide)
    | (with_reducible apply Keep.step; with_reducible apply State.mapAdd_keep; decide)
    | (with_reducible apply Keep.step; with_reducible apply State.wr_keep (has_Fld_peatPin_exported _); decide)
    | (with_reducible apply Keep.step; with_reducible apply State.writePlain_keep (has_Reg_peatPin _); decide)
    | with_reducible apply Keep.foldl
    | with_reducible apply Keep.foldl_fst
    | with_reducible apply Keep.foldl_snd
    | with_reducible apply Keep.ite
    | split
    | dsimp only
    | intro _
    | (with_reducible apply Keep.step; with_reducible apply Keep.of_fst; assumption; with_reducible apply State.writePlain_keep (has_Reg_peatPin _); decide)

theorem State.keyResult_keep (s : State) (n : Nat) : Keep ([.regs], 0x4000000000000000000000000000000000) s (State.keyResult s n) := by
  unfold State.keyResult
  repeat' first
    | with_reducible exact Keep.refl _ _
    | with_reducible assumption
    | (with_reducible apply Keep.step; with_reducible apply State.wr_keep has_Fld_secKeyCtrl_result; decide)
    | with_reducible apply Keep.ite
    | split
    | dsimp only

theorem State.keyLoaded_keep (s : State) : Keep ([.regs, .map, .peat], 0x2001000000000000000000000000000000000000000000000) s (State.keyLoaded s) := by
  unfold State.keyLoaded
  repeat' first
    | with_reducible exact Keep.refl _ _
    | with_reducible assumption
    | (with_reducible apply Keep.step; with_reducible apply State.mapPeatAdd_keep; decide)
    | (with_reducible apply Keep.step; with_reducible apply State.onPeat_keep; intro _ h; (first | exact h | exact Memory.wf_nil | exact Memory.wf_putBytes _ _ h | exact Memory.wf_erase _ _ h | with_unfolding_all exact h); decide)
    | with_reducible apply Keep.foldl
    | with_reducible apply Keep.foldl_fst
    | with_reducible apply Keep.foldl_snd
    | with_reducible apply Keep.ite
    | split
    | dsimp only
    | intro _

theorem State.keyCommit_keep (s : State) (slot : Nat) : Keep ([.regs, .map, .peat, .sec], 0x2001000000000004000000000000000000000000000000000) s (State.keyCommit s slot) := by
  unfold State.keyCommit
  repeat' first
    | with_reducible exact Keep.refl _ _
    | with_reducible assumption
    | (with_reducible apply Keep.step; with_reducible apply State.keyLoaded_keep; decide)
    | (with_reducible apply Keep.step; with_reducible apply State.keyResult_keep; decide)
    | fail_if_no_progress (with_reducible apply Keep.step; with_reducible apply keep_sec; decide)
    | with_reducible apply Keep.ite
    | split
    | dsimp only

theorem State.keyCmd_keep (s : State) (cmd : Nat) : Keep ([.regs, .map, .peat, .sec], 0x2001000000000004000000000000000000000000000000000) s (State.keyCmd s cmd) := by
  unfold State.keyCmd
  repeat' first
    | with_reducible exact Keep.refl _ _
    | with_reducible assumption
    | (with_reducible apply Keep.step; with_reducible apply State.keyCommit_keep; decide)
    | (with_reducible apply Keep.step; with_reducible apply State.keyResult_keep; decide)
    | fail_if_no_progress (with_reducible apply Keep.step; with_reducible apply keep_sec; decide)
    | with_reducible apply Keep.ite
    | split
    | dsimp only

theorem State.keyCtrlWrite_keep (s : State) (value : Nat) : Keep ([.regs, .log, .map, .peat, .sec], 0x10000000002001000000000004000000000000000000040800000000000) s (State.keyCtrlWrite s value) := by
  unfold State.keyCtrlWrite
  repeat' first
    | with_reducible exact Keep.refl _ _
    | with_reducible assumption
    | (with_reducible apply Keep.step; with_reducible apply State.keyCmd_keep; decide)
    | (with_reducible apply Keep.step; with_reducible apply State.writePlain_keep has_Reg_secKeyCtrl; decide)
    | with_reducible apply Keep.ite
    | split
    | dsimp only
    | (with_reducible apply Keep.step; with_reducible apply Keep.of_fst; assumption; with_reducible apply State.writePlain_keep has_Reg_secKeyCtrl; decide)

theorem execKeyBegin_keep (slot : Fin 16) (kind : BitVec 2) (len : BitVec 7) (s : State) : OutKeep ([.regs, .log, .map, .peat, .sec], 0x10000000002001000000000004000000000000000000040800000000000) s (execKeyBegin slot kind len s) := by
  unfold execKeyBegin
  repeat' first
    | with_reducible exact Keep.refl _ _
    | with_reducible assumption
    | (with_reducible apply Keep.step; with_reducible apply State.keyCtrlWrite_keep; decide)
    | with_reducible apply Keep.ite
    | with_reducible apply OutKeep.ite
    | with_reducible apply OutKeep.next
    | split
    | dsimp only

theorem State.keyWord_keep (s : State) (word : W64) : Keep ([.sec], 0x0) s (State.keyWord s word) := by
  unfold State.keyWord
  repeat' first
    | with_reducible exact Keep.refl _ _
    | with_reducible assumption
    | fail_if_no_progress (with_reducible apply Keep.step; with_reducible apply keep_sec; decide)
    | with_reducible apply Keep.ite
    | split
    | dsimp only

theorem execKeyDataWord_keep (word : W64) (s : State) : OutKeep ([.sec], 0x0) s (execKeyDataWord word s) := by
  unfold execKeyDataWord
  repeat' first
    | with_reducible exact Keep.refl _ _
    | with_reducible assumption
    | (with_reducible apply Keep.step; with_reducible apply State.keyWord_keep; decide)
    | with_reducible apply Keep.ite
    | with_reducible apply OutKeep.ite
    | with_reducible apply OutKeep.next
    | split
    | dsimp only

theorem execKeyCommit_keep (slot : Fin 16) (s : State) : OutKeep ([.regs, .map, .peat, .sec], 0x200100000000000c000000000000000000000000000000000) s (execKeyCommit slot s) := by
  unfold execKeyCommit
  repeat' first
    | with_reducible exact Keep.refl _ _
    | with_reducible assumption
    | (with_reducible apply Keep.step; with_reducible apply State.keyCmd_keep; decide)
    | (with_reducible apply Keep.step; with_reducible apply State.wr_keep has_Fld_secKeyCtrl_slot; decide)
    | with_reducible apply Keep.ite
    | with_reducible apply OutKeep.ite
    | with_reducible apply OutKeep.next
    | split
    | dsimp only

theorem execKeyClear_keep (slot : Fin 16) (s : State) : OutKeep ([.regs, .map, .peat, .sec], 0x200100000000000c000000000000000000000000000000000) s (execKeyClear slot s) := by
  unfold execKeyClear
  repeat' first
    | with_reducible exact Keep.refl _ _
    | with_reducible assumption
    | (with_reducible apply Keep.step; with_reducible apply State.keyCmd_keep; decide)
    | (with_reducible apply Keep.step; with_reducible apply State.wr_keep has_Fld_secKeyCtrl_slot; decide)
    | with_reducible apply Keep.ite
    | with_reducible apply OutKeep.ite
    | with_reducible apply OutKeep.next
    | split
    | dsimp only

theorem doPeatEnable_keep (value : BitVec 32) (s : State) : OutKeep ([.board, .regs, .mem, .log, .red, .ful, .cut, .sedge, .map, .peat, .rst, .warden, .syn, .cmd, .chk, .freeCtr, .outbox], 0x4021002512001007a5f1d3e11df90001f03001f7000060a00000000000) s (doPeatEnable value s) := by
  unfold doPeatEnable
  repeat' first
    | with_reducible exact Keep.refl _ _
    | with_reducible assumption
    | (with_reducible apply Keep.step; with_reducible apply State.peatCtrlWrite_keep; decide)
    | with_reducible apply Keep.ite
    | with_reducible apply OutKeep.ite
    | with_reducible apply OutKeep.next
    | split
    | dsimp only

theorem doPeatDisable_keep (value : BitVec 32) (s : State) : OutKeep ([.board, .regs, .mem, .log, .red, .ful, .cut, .sedge, .map, .peat, .rst, .warden, .syn, .cmd, .chk, .freeCtr, .outbox], 0x4021002512001007a5f1d3e11df90001f03001f7000060a00000000000) s (doPeatDisable value s) := by
  unfold doPeatDisable
  repeat' first
    | with_reducible exact Keep.refl _ _
    | with_reducible assumption
    | (with_reducible apply Keep.step; with_reducible apply State.peatCtrlWrite_keep; decide)
    | with_reducible apply Keep.ite
    | with_reducible apply OutKeep.ite
    | with_reducible apply OutKeep.next
    | split
    | dsimp only

theorem doPeatFormat_keep (value : BitVec 32) (s : State) : OutKeep ([.board, .regs, .mem, .log, .red, .ful, .cut, .sedge, .map, .peat, .rst, .warden, .syn, .cmd, .chk, .freeCtr, .outbox], 0x4021002512001007a5f1d3e11df90001f03001f7000060a00000000000) s (doPeatFormat value s) := by
  unfold doPeatFormat
  repeat' first
    | with_reducible exact Keep.refl _ _
    | with_reducible assumption
    | (with_reducible apply Keep.step; with_reducible apply State.peatCtrlWrite_keep; decide)
    | with_reducible apply Keep.ite
    | with_reducible apply OutKeep.ite
    | with_reducible apply OutKeep.next
    | split
    | dsimp only

theorem execPinExported_keep (n : Fin 4) (value : W64) (s : State) : OutKeep ([.regs, .log, .map], 0x40000002001000000000000000004000000000000040800000000000) s (execPinExported n value s) := by
  unfold execPinExported
  repeat' first
    | with_reducible exact Keep.refl _ _
    | with_reducible assumption
    | (with_reducible apply Keep.step; with_reducible apply State.pinWrite_keep; decide)
    | with_reducible apply Keep.ite
    | with_reducible apply OutKeep.ite
    | with_reducible apply OutKeep.next
    | split
    | dsimp only

end Sys2Proof.Machine
end

