-- ==== Sys2Proof/Laws/KeepFelting.lean ====
section
/-! SUPPORT. What each operation of Machine/Felting.lean can do: one lemma for each (`Keep`). -/
namespace Sys2Proof.Machine

set_option linter.all false

theorem State.startRegion_keep {s t0 : State} (seq : W32) (i : Nat) (h : State.startRegion s seq i = some t0) : Keep ([.cut, .chk], 0x0) s t0 := by
  unfold State.startRegion at h
  repeat' first
    | contradiction
    | split at h
    | dsimp only at h
  all_goals
    cases h
    repeat' first
      | with_reducible exact Keep.refl _ _
      | with_reducible assumption
      | (with_reducible apply Keep.step; with_reducible apply State.takeLane_keep; decide)
      | (with_reducible apply Keep.step; with_reducible apply State.takeCtx_keep; decide)
      | (with_reducible apply Keep.step; with_reducible apply State.putCut_keep; decide)
      | with_reducible apply Keep.ite
      | split
      | dsimp only

theorem startRegions_keep (seq : W32) (l : List Nat) (s : State) : Keep ([.cut, .chk], 0x0) s (startRegions seq l s) := by
  induction l generalizing s with
  | nil =>
    exact Keep.refl _ _
  | cons i t ih =>
    unfold startRegions
    repeat' first
      | with_reducible exact Keep.refl _ _
      | (with_reducible apply Keep.step; with_reducible apply ih; decide)
      | with_reducible assumption
      | (with_reducible apply Keep.step; with_reducible apply State.startRegion_keep; assumption; decide)
      | with_reducible apply Keep.ite
      | split
      | dsimp only

theorem State.sendRecord_keep (s : State) (seq : W32) : Keep ([.regs, .red, .cut, .freeCtr, .outbox], 0x0) s (State.sendRecord s seq) := by
  unfold State.sendRecord
  repeat' first
    | with_reducible exact Keep.refl _ _
    | with_reducible assumption
    | (with_reducible apply Keep.step; with_reducible apply State.feltSend_keep; decide)
    | (with_reducible apply Keep.step; with_reducible apply State.putCut_keep; decide)
    | with_reducible apply Keep.ite
    | split
    | dsimp only

theorem State.feltCut_keep (s : State) (seq : W32) : Keep ([.regs, .red, .cut, .chk, .freeCtr, .outbox], 0x0) s (State.feltCut s seq) := by
  unfold State.feltCut
  repeat' first
    | with_reducible exact Keep.refl _ _
    | with_reducible assumption
    | (with_reducible apply Keep.step; with_reducible apply State.sendManifest_keep; decide)
    | (with_reducible apply Keep.step; with_reducible apply State.sendRecord_keep; decide)
    | (with_reducible apply Keep.step; with_reducible apply startRegions_keep; decide)
    | with_reducible apply Keep.ite
    | split
    | dsimp only

theorem State.feltTry_keep (s : State) : Keep ([.board, .regs, .mem, .log, .red, .ful, .cut, .sedge, .map, .rst, .warden, .syn, .chk, .freeCtr, .outbox], 0x4001002510000007a5f1d3e11df90000000001f7000060200000000000) s (State.feltTry s) := by
  unfold State.feltTry
  repeat' first
    | with_reducible exact Keep.refl _ _
    | with_reducible assumption
    | (with_reducible apply Keep.step; with_reducible apply State.tryCommit_keep; decide)
    | (with_reducible apply Keep.step; with_reducible apply State.feltCut_keep; decide)
    | with_reducible apply Keep.foldl
    | with_reducible apply Keep.foldl_fst
    | with_reducible apply Keep.foldl_snd
    | with_reducible apply Keep.ite
    | split
    | dsimp only
    | intro _

theorem doFeltingSchedule_keep (s : State) : OutKeep ([.board, .regs, .mem, .log, .red, .ful, .cut, .sedge, .map, .peat, .rst, .warden, .syn, .cmd, .chk, .freeCtr, .outbox], 0x4001002512001007a5f1d3e11df900004dc001f7000060200000000000) s (doFeltingSchedule s) := by
  unfold doFeltingSchedule
  repeat' first
    | with_reducible exact Keep.refl _ _
    | with_reducible assumption
    | (with_reducible apply Keep.step; with_reducible apply State.drainTry_keep; decide)
    | (with_reducible apply Keep.step; with_reducible apply State.feltTry_keep; decide)
    | with_reducible apply Keep.ite
    | with_reducible apply OutKeep.ite
    | with_reducible apply OutKeep.next
    | split
    | dsimp only

theorem execFeltRegionComplete_keep (lane : Fin 32) (s : State) : OutKeep ([.regs, .red, .cut, .map, .chk, .freeCtr, .outbox], 0x0) s (execFeltRegionComplete lane s) := by
  unfold execFeltRegionComplete
  repeat' first
    | with_reducible exact Keep.refl _ _
    | with_reducible assumption
    | (with_reducible apply Keep.step; with_reducible apply State.mapWritten_keep; decide)
    | (with_reducible apply Keep.step; with_reducible apply State.groupForm_keep; decide)
    | (with_reducible apply Keep.step; with_reducible apply State.dropLane_keep; decide)
    | (with_reducible apply Keep.step; with_reducible apply State.feltSend_keep; decide)
    | (with_reducible apply Keep.step; with_reducible apply State.dropCtx_keep; decide)
    | (with_reducible apply Keep.step; with_reducible apply State.putCut_keep; decide)
    | with_reducible apply Keep.ite
    | with_reducible apply OutKeep.ite
    | with_reducible apply OutKeep.next
    | split
    | dsimp only

theorem doCutEnable_keep (value : BitVec 32) (s : State) : OutKeep ([.regs, .log, .cut], 0x100000000000000000500000000000000000000000000040800000000000) s (doCutEnable value s) := by
  unfold doCutEnable
  repeat' first
    | with_reducible exact Keep.refl _ _
    | with_reducible assumption
    | (with_reducible apply Keep.step; with_reducible apply State.cutEnable_keep; decide)
    | with_reducible apply Keep.ite
    | with_reducible apply OutKeep.ite
    | with_reducible apply OutKeep.next
    | split
    | dsimp only

theorem doCutDisable_keep (value : BitVec 32) (s : State) : OutKeep ([.board, .regs, .mem, .log, .red, .ful, .cut, .sedge, .map, .rst, .warden, .syn, .chk, .freeCtr, .outbox], 0x104001002510000007a5f1d3e11df90000000001f7000060a00000000000) s (doCutDisable value s) := by
  unfold doCutDisable
  repeat' first
    | with_reducible exact Keep.refl _ _
    | with_reducible assumption
    | (with_reducible apply Keep.step; with_reducible apply State.cutDisable_keep; decide)
    | with_reducible apply Keep.ite
    | with_reducible apply OutKeep.ite
    | with_reducible apply OutKeep.next
    | split
    | dsimp only

end Sys2Proof.Machine
end

