-- ==== Sys2Proof/Laws/KeepTime.lean ====
section
/-! SUPPORT. What each operation of Machine/Time.lean can do: one lemma for each (`Keep`). -/
namespace Sys2Proof.Machine

set_option linter.all false

theorem State.onTim_keep (s : State) (f : Tim → Tim) : Keep ([.tim], 0x0) s (State.onTim s f) := by
  unfold State.onTim
  repeat' first
    | with_reducible exact Keep.refl _ _
    | with_reducible assumption
    | fail_if_no_progress (with_reducible apply Keep.step; with_reducible apply keep_tim; decide)
    | with_reducible apply Keep.ite
    | split
    | dsimp only

theorem State.putDom_keep (s : State) (b : Bool) (d : Domain) : Keep ([.tim], 0x0) s (State.putDom s b d) := by
  unfold State.putDom
  repeat' first
    | with_reducible exact Keep.refl _ _
    | with_reducible assumption
    | (with_reducible apply Keep.step; with_reducible apply State.onTim_keep; decide)
    | with_reducible apply Keep.ite
    | split
    | dsimp only

theorem State.domAdvance_keep (s : State) (b : Bool) (n : Nat) : Keep ([.tim], 0x0) s (State.domAdvance s b n) := by
  unfold State.domAdvance
  repeat' first
    | with_reducible exact Keep.refl _ _
    | with_reducible assumption
    | (with_reducible apply Keep.step; with_reducible apply State.putDom_keep; decide)
    | with_reducible apply Keep.ite
    | split
    | dsimp only

theorem State.timOp_keep (s : State) (b : Bool) (op : TimOp) : Keep ([.regs, .log, .tim], 0x40800000000000) s (State.timOp s b op) := by
  unfold State.timOp
  repeat' first
    | with_reducible exact Keep.refl _ _
    | with_reducible assumption
    | (with_reducible apply Keep.step; with_reducible apply State.accessError_keep; decide)
    | (with_reducible apply Keep.step; with_reducible apply State.putDom_keep; decide)
    | with_reducible apply Keep.ite
    | split
    | dsimp only

theorem State.domTick_keep (s : State) (b : Bool) : Keep ([.regs, .log, .tim], 0x40800000000000) s (State.domTick s b) := by
  unfold State.domTick
  repeat' first
    | with_reducible exact Keep.refl _ _
    | with_reducible assumption
    | (with_reducible apply Keep.step; with_reducible apply State.domAdvance_keep; decide)
    | (with_reducible apply Keep.step; with_reducible apply State.putDom_keep; decide)
    | (with_reducible apply Keep.step; with_reducible apply State.timOp_keep; decide)
    | with_reducible apply Keep.foldl
    | with_reducible apply Keep.foldl_fst
    | with_reducible apply Keep.foldl_snd
    | with_reducible apply Keep.ite
    | split
    | dsimp only
    | intro _

theorem State.switchTick_keep (s : State) : Keep ([.regs, .log, .tim], 0x100000000000000000000000000000000000000040800000000000) s (State.switchTick s) := by
  unfold State.switchTick
  repeat' first
    | with_reducible exact Keep.refl _ _
    | with_reducible assumption
    | (with_reducible apply Keep.step; with_reducible apply State.accessError_keep; decide)
    | (with_reducible apply Keep.step; with_reducible apply State.onTim_keep; decide)
    | (with_reducible apply Keep.step; with_reducible apply State.bump_keep has_Fld_timCtrl_switches; decide)
    | with_reducible apply Keep.ite
    | split
    | dsimp only

theorem State.ticks_keep (s : State) (n : Nat) : Keep ([.regs, .log, .tim, .now], 0x100000000000000000000000000000000000000040800000000000) s (State.ticks s n) := by
  unfold State.ticks
  repeat' first
    | with_reducible exact Keep.refl _ _
    | with_reducible assumption
    | (with_reducible apply Keep.step; with_reducible apply State.switchTick_keep; decide)
    | (with_reducible apply Keep.step; with_reducible apply State.domAdvance_keep; decide)
    | (with_reducible apply Keep.step; with_reducible apply State.domTick_keep; decide)
    | fail_if_no_progress (with_reducible apply Keep.step; with_reducible apply keep_now; decide)
    | with_reducible apply Keep.ite
    | split
    | dsimp only

theorem execTimeTick_keep (ticks : Nat) (s : State) : OutKeep ([.regs, .log, .tim, .now], 0x100000000000000000000000000000000000000040800000000000) s (execTimeTick ticks s) := by
  unfold execTimeTick
  repeat' first
    | with_reducible exact Keep.refl _ _
    | with_reducible assumption
    | (with_reducible apply Keep.step; with_reducible apply State.ticks_keep; decide)
    | with_reducible apply Keep.ite
    | with_reducible apply OutKeep.ite
    | with_reducible apply OutKeep.next
    | split
    | dsimp only

theorem State.timCmd_keep (s : State) (b : Bool) (cmd : Nat) : Keep ([.regs, .log, .tim], 0x40800000000000) s (State.timCmd s b cmd) := by
  unfold State.timCmd
  repeat' first
    | with_reducible exact Keep.refl _ _
    | with_reducible assumption
    | (with_reducible apply Keep.step; with_reducible apply State.accessError_keep; decide)
    | (with_reducible apply Keep.step; with_reducible apply State.putDom_keep; decide)
    | with_reducible apply Keep.ite
    | split
    | dsimp only

theorem execTimeLoad_keep (domB : Bool) (s : State) : OutKeep ([.regs, .log, .tim], 0x40800000000000) s (execTimeLoad domB s) := by
  unfold execTimeLoad
  repeat' first
    | with_reducible exact Keep.refl _ _
    | with_reducible assumption
    | (with_reducible apply Keep.step; with_reducible apply State.timCmd_keep; decide)
    | with_reducible apply Keep.ite
    | with_reducible apply OutKeep.ite
    | with_reducible apply OutKeep.next
    | split
    | dsimp only

theorem execTimeAdd_keep (domB : Bool) (s : State) : OutKeep ([.regs, .log, .tim], 0x40800000000000) s (execTimeAdd domB s) := by
  unfold execTimeAdd
  repeat' first
    | with_reducible exact Keep.refl _ _
    | with_reducible assumption
    | (with_reducible apply Keep.step; with_reducible apply State.timCmd_keep; decide)
    | with_reducible apply Keep.ite
    | with_reducible apply OutKeep.ite
    | with_reducible apply OutKeep.next
    | split
    | dsimp only

theorem execTimeInvalidate_keep (domB : Bool) (s : State) : OutKeep ([.regs, .log, .tim], 0x40800000000000) s (execTimeInvalidate domB s) := by
  unfold execTimeInvalidate
  repeat' first
    | with_reducible exact Keep.refl _ _
    | with_reducible assumption
    | (with_reducible apply Keep.step; with_reducible apply State.timCmd_keep; decide)
    | with_reducible apply Keep.ite
    | with_reducible apply OutKeep.ite
    | with_reducible apply OutKeep.next
    | split
    | dsimp only

theorem State.timCtrlWrite_keep (s : State) (w : Nat) : Keep ([.regs, .log, .tim], 0x800000200000000000000000000000000000000000000040800000000000) s (State.timCtrlWrite s w) := by
  unfold State.timCtrlWrite
  repeat' first
    | with_reducible exact Keep.refl _ _
    | with_reducible assumption
    | (with_reducible apply Keep.step; with_reducible apply State.accessError_keep; decide)
    | (with_reducible apply Keep.step; with_reducible apply State.onTim_keep; decide)
    | (with_reducible apply Keep.step; with_reducible apply State.wr_keep has_Fld_timTslogHead_head; decide)
    | (with_reducible apply Keep.step; with_reducible apply State.writePlain_keep has_Reg_timCtrl; decide)
    | with_reducible apply Keep.ite
    | split
    | dsimp only
    | (with_reducible apply Keep.step; with_reducible apply Keep.of_fst; assumption; with_reducible apply State.writePlain_keep has_Reg_timCtrl; decide)

theorem execTimeSwitch_keep (value : W32) (s : State) : OutKeep ([.regs, .log, .tim], 0x800000200000000000000000000000000000000000000040800000000000) s (execTimeSwitch value s) := by
  unfold execTimeSwitch
  repeat' first
    | with_reducible exact Keep.refl _ _
    | with_reducible assumption
    | (with_reducible apply Keep.step; with_reducible apply State.timCtrlWrite_keep; decide)
    | with_reducible apply Keep.ite
    | with_reducible apply OutKeep.ite
    | with_reducible apply OutKeep.next
    | split
    | dsimp only

theorem State.timSecRead_keep (s : State) (b : Bool) : Keep ([.tim], 0x0) s (State.timSecRead s b).2 := by
  unfold State.timSecRead
  repeat' first
    | with_reducible exact Keep.refl _ _
    | with_reducible assumption
    | (with_reducible apply Keep.step; with_reducible apply State.putDom_keep; decide)
    | with_reducible apply Keep.ite
    | split
    | dsimp only

theorem execTimSecRead_keep (domB : Bool) (s : State) : OutKeep ([.tim, .busRead], 0x0) s (execTimSecRead domB s) := by
  unfold execTimSecRead
  repeat' first
    | with_reducible exact Keep.refl _ _
    | with_reducible assumption
    | (with_reducible apply Keep.step; with_reducible apply State.timSecRead_keep; decide)
    | fail_if_no_progress (with_reducible apply Keep.step; with_reducible apply keep_busRead; decide)
    | with_reducible apply Keep.ite
    | with_reducible apply OutKeep.ite
    | with_reducible apply OutKeep.next
    | split
    | dsimp only
    | (with_reducible apply Keep.step; with_reducible apply Keep.of_snd; assumption; with_reducible apply State.timSecRead_keep; decide)

theorem State.tslog_keep (s : State) (t : Stamp) (tx : Bool) (n : Nat) (ty : BitVec 8) (rack : BitVec 10) (pos : BitVec 7) (seq : W32) (pay : List Byte) : Keep ([.regs, .mem], 0x200000000000000000000000000000000000000000000000000000) s (State.tslog s t tx n ty rack pos seq pay) := by
  unfold State.tslog
  repeat' first
    | with_reducible exact Keep.refl _ _
    | with_reducible assumption
    | (with_reducible apply Keep.step; with_reducible apply State.store'_keep; decide)
    | (with_reducible apply Keep.step; with_reducible apply State.wr_keep has_Fld_timTslogHead_head; decide)
    | with_reducible apply Keep.ite
    | split
    | dsimp only

theorem State.probeOut_keep (s : State) (n : Nat) (ty : BitVec 8) (rack : BitVec 10) (pos : BitVec 7) (seq : W32) (domB : Bool) (pay : List Byte) (phase : BitVec 14) : Keep ([.regs, .mem, .outbox], 0x200000000000000000000000000000000000000000000000000000) s (State.probeOut s n ty rack pos seq domB pay phase) := by
  unfold State.probeOut
  repeat' first
    | with_reducible exact Keep.refl _ _
    | with_reducible assumption
    | (with_reducible apply Keep.step; with_reducible apply State.tslog_keep; decide)
    | (with_reducible apply Keep.step; with_reducible apply State.send_keep; decide)
    | with_reducible apply Keep.ite
    | split
    | dsimp only

theorem State.probeWrite_keep (s : State) (w : Nat) (phase : BitVec 14) : Keep ([.regs, .mem, .log, .outbox], 0x200000000000000000000000000000000000000040800000000000) s (State.probeWrite s w phase) := by
  unfold State.probeWrite
  repeat' first
    | with_reducible exact Keep.refl _ _
    | with_reducible assumption
    | (with_reducible apply Keep.step; with_reducible apply State.accessError_keep; decide)
    | (with_reducible apply Keep.step; with_reducible apply State.probeOut_keep; decide)
    | with_reducible apply Keep.ite
    | split
    | dsimp only

theorem execTimeProbeSend_keep (value : W32) (phase : BitVec 14) (s : State) : OutKeep ([.regs, .mem, .log, .outbox], 0x200000000000000000000000000000000000000040800000000000) s (execTimeProbeSend value phase s) := by
  unfold execTimeProbeSend
  repeat' first
    | with_reducible exact Keep.refl _ _
    | with_reducible assumption
    | (with_reducible apply Keep.step; with_reducible apply State.probeWrite_keep; decide)
    | with_reducible apply Keep.ite
    | with_reducible apply OutKeep.ite
    | with_reducible apply OutKeep.next
    | split
    | dsimp only

theorem State.probeIn_keep {ps : Touch} {s u : State} {n : Fin 42} {ty : BitVec 8} {f : Frame} {phase : BitVec 14} {act : Stamp → State → State}
    (h : Keep ps s u) (ha : ∀ a t, Keep ps t (act a t)) (hr : sub ([.regs, .mem], 0x200000000000000000000000000000005000000000000000000000) ps = true) : Keep ps s (u.probeIn n ty f phase act) := by
  have hs : sub ps ps = true := sub_self _
  unfold State.probeIn
  refine State.recv_keep h (fun t => ?_) (fun t => Keep.id _ _) ?_
  · dsimp only
    split
    · exact Keep.step (State.staleAt_keep _ _) (sub_trans (by decide) hr) (Keep.refl _ _)
    · split
      · exact Keep.refl _ _
      · exact Keep.step (ha _ _) hs (Keep.step (State.tslog_keep _ _ _ _ _ _ _ _ _) (sub_trans (by decide) hr) (Keep.refl _ _))
  · exact sub_trans (by decide) hr

theorem execTimeProbe_keep (n : Fin 42) (f : Frame) (phase : BitVec 14) (s : State) : OutKeep ([.regs, .mem, .tim, .outbox], 0x200000000000000000000000000000005000000000000000000000) s (execTimeProbe n f phase s) := by
  unfold execTimeProbe
  repeat' first
    | with_reducible exact Keep.refl _ _
    | with_reducible assumption
    | (with_reducible apply Keep.step; with_reducible apply State.probeOut_keep; decide)
    | (with_reducible apply Keep.step; with_reducible apply State.onTim_keep; decide)
    | with_reducible apply State.probeIn_keep
    | with_reducible apply Keep.ite
    | with_reducible apply OutKeep.ite
    | with_reducible apply OutKeep.next
    | (show sub _ _ = true; decide)
    | split
    | dsimp only
    | with_reducible exact Keep.id _ _
    | intro _

theorem execFollowUpSend_keep (phase : BitVec 14) (s : State) : OutKeep ([.regs, .mem, .tim, .outbox], 0x200000000000000000000000000000000000000000000000000000) s (execFollowUpSend phase s) := by
  unfold execFollowUpSend
  repeat' first
    | with_reducible exact Keep.refl _ _
    | with_reducible assumption
    | (with_reducible apply Keep.step; with_reducible apply State.probeOut_keep; decide)
    | (with_reducible apply Keep.step; with_reducible apply State.onTim_keep; decide)
    | with_reducible apply Keep.ite
    | with_reducible apply OutKeep.ite
    | with_reducible apply OutKeep.next
    | split
    | dsimp only

theorem execProbeResponse_keep (n : Fin 42) (f : Frame) (phase : BitVec 14) (s : State) : OutKeep ([.regs, .mem], 0x200000000000000000000000000000005000000000000000000000) s (execProbeResponse n f phase s) := by
  unfold execProbeResponse
  repeat' first
    | with_reducible exact Keep.refl _ _
    | with_reducible assumption
    | with_reducible apply State.probeIn_keep
    | with_reducible apply Keep.ite
    | with_reducible apply OutKeep.ite
    | with_reducible apply OutKeep.next
    | (show sub _ _ = true; decide)
    | split
    | dsimp only
    | with_reducible exact Keep.id _ _
    | intro _

theorem execFollowUp_keep (n : Fin 42) (f : Frame) (phase : BitVec 14) (s : State) : OutKeep ([.regs, .mem], 0x200000000000000000000000000000005000000000000000000000) s (execFollowUp n f phase s) := by
  unfold execFollowUp
  repeat' first
    | with_reducible exact Keep.refl _ _
    | with_reducible assumption
    | with_reducible apply State.probeIn_keep
    | with_reducible apply Keep.ite
    | with_reducible apply OutKeep.ite
    | with_reducible apply OutKeep.next
    | (show sub _ _ = true; decide)
    | split
    | dsimp only
    | with_reducible exact Keep.id _ _
    | intro _

end Sys2Proof.Machine
end

