-- ==== Sys2Proof/Laws/KeepArbiter.lean ====
section
/-! SUPPORT. What each operation of Machine/Arbiter.lean can do: one lemma for each (`Keep`). -/
namespace Sys2Proof.Machine

set_option linter.all false

theorem State.grant_keep (s : State) (point depth : Nat) (reqs : List Nat) : Keep ([.owed], 0x0) s (State.grant s point depth reqs).2 := by
  unfold State.grant
  repeat' first
    | with_reducible exact Keep.refl _ _
    | with_reducible assumption
    | fail_if_no_progress (with_reducible apply Keep.step; with_reducible apply keep_owed; decide)
    | with_reducible apply Keep.ite
    | split
    | dsimp only

theorem State.onWire_keep (s : State) (l : List Wire) : Keep ([.wire], 0x0) s (State.onWire s l) := by
  unfold State.onWire
  repeat' first
    | with_reducible exact Keep.refl _ _
    | with_reducible assumption
    | fail_if_no_progress (with_reducible apply Keep.step; with_reducible apply keep_wire; decide)
    | with_reducible apply Keep.ite
    | split
    | dsimp only

theorem State.outboxIs_keep (s : State) (l : List Sent) : Keep ([.outbox], 0x0) s (State.outboxIs s l) := by
  unfold State.outboxIs
  repeat' first
    | with_reducible exact Keep.refl _ _
    | with_reducible assumption
    | fail_if_no_progress (with_reducible apply Keep.step; with_reducible apply keep_outbox; decide)
    | with_reducible apply Keep.ite
    | split
    | dsimp only

theorem State.bx3Is_keep (s : State) (l : List (Fin 42 × Dir × Bx3Frame)) : Keep ([.bx3Out], 0x0) s (State.bx3Is s l) := by
  unfold State.bx3Is
  repeat' first
    | with_reducible exact Keep.refl _ _
    | with_reducible assumption
    | fail_if_no_progress (with_reducible apply Keep.step; with_reducible apply keep_bx3Out; decide)
    | with_reducible apply Keep.ite
    | split
    | dsimp only

theorem State.wireEngine_keep (s : State) (place : Nat) : Keep ([.outbox, .wire, .tc3], 0x0) s (State.wireEngine s place) := by
  unfold State.wireEngine
  repeat' first
    | with_reducible exact Keep.refl _ _
    | with_reducible assumption
    | (with_reducible apply Keep.step; with_reducible apply State.outboxIs_keep; decide)
    | (with_reducible apply Keep.step; with_reducible apply State.onWire_keep; decide)
    | fail_if_no_progress (with_reducible apply Keep.step; with_reducible apply keep_tc3; decide)
    | with_reducible apply Keep.ite
    | split
    | dsimp only

theorem State.wireBx3_keep (s : State) (place : Nat) : Keep ([.bx3Out, .wire], 0x0) s (State.wireBx3 s place) := by
  unfold State.wireBx3
  repeat' first
    | with_reducible exact Keep.refl _ _
    | with_reducible assumption
    | (with_reducible apply Keep.step; with_reducible apply State.onWire_keep; decide)
    | (with_reducible apply Keep.step; with_reducible apply State.bx3Is_keep; decide)
    | with_reducible apply Keep.ite
    | split
    | dsimp only

theorem State.egressGrant_keep (s : State) (point : Nat) (waits : List Waits) : Keep ([.outbox, .bx3Out, .wire, .owed, .tc3], 0x0) s (State.egressGrant s point waits) := by
  unfold State.egressGrant
  repeat' first
    | with_reducible exact Keep.refl _ _
    | with_reducible assumption
    | (with_reducible apply Keep.step; with_reducible apply State.wireEngine_keep; decide)
    | (with_reducible apply Keep.step; with_reducible apply State.wireBx3_keep; decide)
    | (with_reducible apply Keep.step; with_reducible apply State.grant_keep; decide)
    | with_reducible apply Keep.ite
    | split
    | dsimp only
    | (with_reducible apply Keep.step; with_reducible apply Keep.of_snd; assumption; with_reducible apply State.grant_keep; decide)

theorem State.egressSlice_keep (s : State) (n : Nat) : Keep ([.freeCtr, .outbox, .bx3Out, .wire, .owed, .tc3], 0x0) s (State.egressSlice s n) := by
  unfold State.egressSlice
  repeat' first
    | with_reducible exact Keep.refl _ _
    | with_reducible assumption
    | (with_reducible apply Keep.step; with_reducible apply State.egressGrant_keep; decide)
    | (with_reducible apply Keep.step; with_reducible apply State.pickBool_keep; decide)
    | with_reducible apply Keep.ite
    | split
    | dsimp only
    | (with_reducible apply Keep.step; with_reducible apply Keep.of_snd; assumption; with_reducible apply State.pickBool_keep; decide)

theorem State.egress_keep (s : State) : Keep ([.freeCtr, .outbox, .bx3Out, .wire, .owed, .tc3], 0x0) s (State.egress s) := by
  unfold State.egress
  repeat' first
    | with_reducible exact Keep.refl _ _
    | with_reducible assumption
    | (with_reducible apply Keep.step; with_reducible apply State.egressSlice_keep; decide)
    | (with_reducible apply Keep.step; with_reducible apply State.egressGrant_keep; decide)
    | with_reducible apply Keep.foldl
    | with_reducible apply Keep.foldl_fst
    | with_reducible apply Keep.foldl_snd
    | with_reducible apply Keep.ite
    | split
    | dsimp only
    | intro _

theorem State.egressDrop_keep (s : State) (n : Nat) : Keep ([.outbox], 0x0) s (State.egressDrop s n) := by
  unfold State.egressDrop
  repeat' first
    | with_reducible exact Keep.refl _ _
    | with_reducible assumption
    | (with_reducible apply Keep.step; with_reducible apply State.outboxIs_keep; decide)
    | with_reducible apply Keep.ite
    | split
    | dsimp only

theorem State.bx3Drop_keep (s : State) (n : Nat) : Keep ([.bx3Out], 0x0) s (State.bx3Drop s n) := by
  unfold State.bx3Drop
  repeat' first
    | with_reducible exact Keep.refl _ _
    | with_reducible assumption
    | (with_reducible apply Keep.step; with_reducible apply State.bx3Is_keep; decide)
    | with_reducible apply Keep.ite
    | split
    | dsimp only

theorem State.bx3Flush_keep (s : State) (n : Nat) : Keep ([.bx3Out, .wire], 0x0) s (State.bx3Flush s n) := by
  unfold State.bx3Flush
  repeat' first
    | with_reducible exact Keep.refl _ _
    | with_reducible assumption
    | (with_reducible apply Keep.step; with_reducible apply State.onWire_keep; decide)
    | (with_reducible apply Keep.step; with_reducible apply State.bx3Is_keep; decide)
    | with_reducible apply Keep.ite
    | split
    | dsimp only

end Sys2Proof.Machine
end

