-- ==== Sys2Proof/Laws/KeepFulling.lean ====
section
/-! SUPPORT. What each operation of Machine/Fulling.lean can do: one lemma for each (`Keep`). -/
namespace Sys2Proof.Machine

set_option linter.all false

theorem State.onFul_keep (s : State) (f : Ful → Ful) : Keep ([.ful], 0x0) s (State.onFul s f) := by
  unfold State.onFul
  repeat' first
    | with_reducible exact Keep.refl _ _
    | with_reducible assumption
    | fail_if_no_progress (with_reducible apply Keep.step; with_reducible apply keep_ful; decide)
    | with_reducible apply Keep.ite
    | split
    | dsimp only

theorem State.putFq_keep (s : State) (q : Nat) (x : FulQueue) : Keep ([.ful], 0x0) s (State.putFq s q x) := by
  unfold State.putFq
  repeat' first
    | with_reducible exact Keep.refl _ _
    | with_reducible assumption
    | (with_reducible apply Keep.step; with_reducible apply State.onFul_keep; decide)
    | with_reducible apply Keep.ite
    | split
    | dsimp only

theorem State.putPort_keep (s : State) (p : Nat) (x : StreamPort) : Keep ([.ful], 0x0) s (State.putPort s p x) := by
  unfold State.putPort
  repeat' first
    | with_reducible exact Keep.refl _ _
    | with_reducible assumption
    | (with_reducible apply Keep.step; with_reducible apply State.onFul_keep; decide)
    | with_reducible apply Keep.ite
    | split
    | dsimp only

theorem State.putTask_keep (s : State) (q : Nat) (t : FulTask) : Keep ([.ful], 0x0) s (State.putTask s q t) := by
  unfold State.putTask
  repeat' first
    | with_reducible exact Keep.refl _ _
    | with_reducible assumption
    | (with_reducible apply Keep.step; with_reducible apply State.putFq_keep; decide)
    | with_reducible apply Keep.ite
    | split
    | dsimp only

theorem State.onVote_keep (s : State) (step : W64) (f : Vote → Vote) : Keep ([.red], 0x0) s (State.onVote s step f) := by
  unfold State.onVote
  repeat' first
    | with_reducible exact Keep.refl _ _
    | with_reducible assumption
    | fail_if_no_progress (with_reducible apply Keep.step; with_reducible apply keep_red; decide)
    | with_reducible apply Keep.ite
    | split
    | dsimp only

theorem State.taskVote_keep (s : State) (q : Nat) (d : FulDesc) (ok : Bool) : Keep ([.red], 0x0) s (State.taskVote s q d ok) := by
  unfold State.taskVote
  repeat' first
    | with_reducible exact Keep.refl _ _
    | with_reducible assumption
    | (with_reducible apply Keep.step; with_reducible apply State.onVote_keep; decide)
    | with_reducible apply Keep.ite
    | split
    | dsimp only

theorem State.fulWriteBack_keep (s : State) (t : FulTask) (st : Status) (index : Option Nat) : Keep ([.mem], 0x0) s (State.fulWriteBack s t st index) := by
  unfold State.fulWriteBack
  repeat' first
    | with_reducible exact Keep.refl _ _
    | with_reducible assumption
    | (with_reducible apply Keep.step; with_reducible apply State.store'_keep; decide)
    | with_reducible apply Keep.ite
    | split
    | dsimp only

theorem State.fulLeavePort_keep (s : State) (t : FulTask) : Keep ([.ful], 0x0) s (State.fulLeavePort s t) := by
  unfold State.fulLeavePort
  repeat' first
    | with_reducible exact Keep.refl _ _
    | with_reducible assumption
    | (with_reducible apply Keep.step; with_reducible apply State.putPort_keep; decide)
    | with_reducible apply Keep.ite
    | split
    | dsimp only

theorem State.fulErr_keep (s : State) (st : Status) : Keep ([.regs], 0x7000000000000000000) s (State.fulErr s st) := by
  unfold State.fulErr
  repeat' first
    | with_reducible exact Keep.refl _ _
    | with_reducible assumption
    | (with_reducible apply Keep.step; with_reducible apply State.raise_keep has_Fld_fulErrStatus_lenLong; decide)
    | (with_reducible apply Keep.step; with_reducible apply State.raise_keep has_Fld_fulErrStatus_lenShort; decide)
    | (with_reducible apply Keep.step; with_reducible apply State.raise_keep has_Fld_fulErrStatus_memUe; decide)
    | with_reducible apply Keep.ite
    | split
    | dsimp only

theorem State.fulFault_keep (s : State) (q : Nat) (d : FulDesc) (st : Status) (index : Nat) (upstream : Bool) : Keep ([.regs], 0x10000000000000000000000000000000001e7000000000000000000) s (State.fulFault s q d st index upstream) := by
  unfold State.fulFault
  repeat' first
    | with_reducible exact Keep.refl _ _
    | with_reducible assumption
    | (with_reducible apply Keep.step; with_reducible apply State.fulErr_keep; decide)
    | (with_reducible apply Keep.step; with_reducible apply State.raise_keep has_Fld_fulErrStatus_upstream; decide)
    | (with_reducible apply Keep.step; with_reducible apply State.setReg_keep has_Reg_fulFaultSeq; decide)
    | (with_reducible apply Keep.step; with_reducible apply State.wr_keep has_Fld_fulFaultLog_index; decide)
    | (with_reducible apply Keep.step; with_reducible apply State.wr_keep has_Fld_fulFaultLog_queue; decide)
    | (with_reducible apply Keep.step; with_reducible apply State.wr_keep has_Fld_fulFaultLog_valid; decide)
    | with_reducible apply Keep.ite
    | split
    | dsimp only

theorem State.fulStateFault_keep (s : State) (q : Nat) (t : FulTask) (st : Status) : Keep ([.board, .regs, .mem, .log, .red, .ful, .cut, .sedge, .map, .rst, .warden, .syn, .chk, .freeCtr, .outbox], 0x4001002510000007a5f1d3e11df90000000001f7000060200000000000) s (State.fulStateFault s q t st) := by
  unfold State.fulStateFault
  repeat' first
    | with_reducible exact Keep.refl _ _
    | with_reducible assumption
    | (with_reducible apply Keep.step; with_reducible apply State.stateFaultCut_keep; decide)
    | (with_reducible apply Keep.step; with_reducible apply State.notice_keep; decide)
    | (with_reducible apply Keep.step; with_reducible apply State.raise_keep has_Fld_fulErrStatus_stateFault; decide)
    | with_reducible apply Keep.foldl
    | with_reducible apply Keep.foldl_fst
    | with_reducible apply Keep.foldl_snd
    | fail_if_no_progress (with_reducible apply Keep.step; with_reducible apply keep_rst; rfl; decide)
    | with_reducible apply Keep.ite
    | split
    | dsimp only
    | intro _

theorem State.fulAbort_keep (s : State) (q : Nat) (st : Status) (upstream : Bool) : Keep ([.board, .regs, .mem, .log, .red, .ful, .cut, .sedge, .map, .rst, .warden, .syn, .chk, .freeCtr, .outbox], 0x4001002510000007a5f1d3e11df90000000001f7000060200000000000) s (State.fulAbort s q st upstream) := by
  unfold State.fulAbort
  repeat' first
    | with_reducible exact Keep.refl _ _
    | with_reducible assumption
    | (with_reducible apply Keep.step; with_reducible apply State.fulStateFault_keep; decide)
    | (with_reducible apply Keep.step; with_reducible apply State.fulWriteBack_keep; decide)
    | (with_reducible apply Keep.step; with_reducible apply State.fulLeavePort_keep; decide)
    | (with_reducible apply Keep.step; with_reducible apply State.fulFault_keep; decide)
    | (with_reducible apply Keep.step; with_reducible apply State.logAbort_keep; decide)
    | (with_reducible apply Keep.step; with_reducible apply State.taskVote_keep; decide)
    | (with_reducible apply Keep.step; with_reducible apply State.produce_keep; decide)
    | (with_reducible apply Keep.step; with_reducible apply State.putFq_keep; decide)
    | (with_reducible apply Keep.step; with_reducible apply State.onSyn_keep; intro _; rfl; decide)
    | (with_reducible apply Keep.step; with_reducible apply State.wait_keep; decide)
    | with_reducible apply Keep.ite
    | split
    | dsimp only
    | (with_reducible apply Keep.step; with_reducible apply Keep.of_fst; assumption; with_reducible apply State.produce_keep; decide)

theorem State.portCheck_keep (s : State) (q : Nat) : Keep ([.board, .regs, .mem, .log, .red, .ful, .cut, .sedge, .map, .rst, .warden, .syn, .chk, .freeCtr, .outbox], 0x4001002510000007a5f1d3e11df90000000001f7000060200000000000) s (State.portCheck s q) := by
  unfold State.portCheck
  repeat' first
    | with_reducible exact Keep.refl _ _
    | with_reducible assumption
    | (with_reducible apply Keep.step; with_reducible apply State.fulAbort_keep; decide)
    | with_reducible apply Keep.ite
    | split
    | dsimp only

theorem State.portFeed_keep (s : State) (p ch : Nat) (seq : W32) (idx : Nat) (vals : List W32) (slice : Nat) : Keep ([.board, .regs, .mem, .log, .red, .ful, .cut, .sedge, .map, .rst, .warden, .syn, .chk, .freeCtr, .outbox], 0x4001002510000007a5f1d3e11df90000000001f7000060200000000000) s (State.portFeed s p ch seq idx vals slice) := by
  unfold State.portFeed
  repeat' first
    | with_reducible exact Keep.refl _ _
    | with_reducible assumption
    | (with_reducible apply Keep.step; with_reducible apply State.portCheck_keep; decide)
    | (with_reducible apply Keep.step; with_reducible apply State.putTask_keep; decide)
    | (with_reducible apply Keep.step; with_reducible apply State.putPort_keep; decide)
    | with_reducible apply Keep.ite
    | split
    | dsimp only

theorem State.portAbort_keep (s : State) (p ch : Nat) (seq : W32) (st : Status) : Keep ([.board, .regs, .mem, .log, .red, .ful, .cut, .sedge, .map, .rst, .warden, .syn, .chk, .freeCtr, .outbox], 0x4001002510000007a5f1d3e11df90000000001f7000060200000000000) s (State.portAbort s p ch seq st) := by
  unfold State.portAbort
  repeat' first
    | with_reducible exact Keep.refl _ _
    | with_reducible assumption
    | (with_reducible apply Keep.step; with_reducible apply State.fulAbort_keep; decide)
    | (with_reducible apply Keep.step; with_reducible apply State.putPort_keep; decide)
    | with_reducible apply Keep.ite
    | split
    | dsimp only

theorem State.fulRun_keep (s : State) (q : Nat) (t : FulTask) : Keep ([.ful, .peat], 0x0) s (State.fulRun s q t) := by
  unfold State.fulRun
  repeat' first
    | with_reducible exact Keep.refl _ _
    | with_reducible assumption
    | (with_reducible apply Keep.step; with_reducible apply State.putTask_keep; decide)
    | (with_reducible apply Keep.step; with_reducible apply State.stage_keep; assumption; decide)
    | with_reducible apply Keep.ite
    | split
    | dsimp only

theorem State.fulPastWait_keep (s : State) (q : Nat) (t : FulTask) : Keep ([.board, .regs, .mem, .log, .red, .ful, .cut, .sedge, .map, .peat, .rst, .warden, .syn, .chk, .freeCtr, .outbox], 0x4001002510000007a5f1d3e11df90000000001f7000060200000000000) s (State.fulPastWait s q t) := by
  unfold State.fulPastWait
  repeat' first
    | with_reducible exact Keep.refl _ _
    | with_reducible assumption
    | (with_reducible apply Keep.step; with_reducible apply State.fulAbort_keep; decide)
    | (with_reducible apply Keep.step; with_reducible apply State.putTask_keep; decide)
    | (with_reducible apply Keep.step; with_reducible apply State.fulRun_keep; decide)
    | (with_reducible apply Keep.step; with_reducible apply State.stage_keep; assumption; decide)
    | with_reducible apply Keep.ite
    | split
    | dsimp only

theorem doFullingTaskIssue_keep (q : Fin 4) (s : State) : OutKeep ([.board, .regs, .mem, .log, .red, .ful, .cut, .sedge, .map, .peat, .rst, .warden, .syn, .chk, .freeCtr, .outbox], 0x4001002510000007a5f1d3e11df90000000001f7000060200000000000) s (doFullingTaskIssue q s) := by
  unfold doFullingTaskIssue
  repeat' first
    | with_reducible exact Keep.refl _ _
    | with_reducible assumption
    | (with_reducible apply Keep.step; with_reducible apply State.fulPastWait_keep; decide)
    | (with_reducible apply Keep.step; with_reducible apply State.takeCount_keep; assumption; decide)
    | (with_reducible apply Keep.step; with_reducible apply State.fulAbort_keep; decide)
    | (with_reducible apply Keep.step; with_reducible apply State.putTask_keep; decide)
    | (with_reducible apply Keep.step; with_reducible apply State.direct_keep; decide)
    | (with_reducible apply Keep.step; with_reducible apply State.putFq_keep; decide)
    | (with_reducible apply Keep.step; with_reducible apply State.wait_keep; decide)
    | with_reducible apply Keep.ite
    | with_reducible apply OutKeep.ite
    | with_reducible apply OutKeep.next
    | split
    | dsimp only

theorem doFullingWaitSatisfied_keep (q : Fin 4) (s : State) : OutKeep ([.board, .regs, .mem, .log, .red, .ful, .cut, .sedge, .map, .peat, .rst, .warden, .syn, .chk, .freeCtr, .outbox], 0x4001002510000007a5f1d3e11df90000000001f7000060200000000000) s (doFullingWaitSatisfied q s) := by
  unfold doFullingWaitSatisfied
  repeat' first
    | with_reducible exact Keep.refl _ _
    | with_reducible assumption
    | (with_reducible apply Keep.step; with_reducible apply State.fulPastWait_keep; decide)
    | (with_reducible apply Keep.step; with_reducible apply State.stage_keep; assumption; decide)
    | (with_reducible apply Keep.step; with_reducible apply State.wait_keep; decide)
    | with_reducible apply Keep.ite
    | with_reducible apply OutKeep.ite
    | with_reducible apply OutKeep.next
    | split
    | dsimp only

theorem doGateTaskProceed_keep (q : Fin 4) (s : State) : OutKeep ([.board, .regs, .mem, .log, .red, .ful, .cut, .sedge, .map, .peat, .rst, .warden, .syn, .chk, .freeCtr, .outbox], 0x4001002510000007a5f1d3e11df90000000001f7000060200000000000) s (doGateTaskProceed q s) := by
  unfold doGateTaskProceed
  repeat' first
    | with_reducible exact Keep.refl _ _
    | with_reducible assumption
    | (with_reducible apply Keep.step; with_reducible apply State.fulAbort_keep; decide)
    | (with_reducible apply Keep.step; with_reducible apply State.fulRun_keep; decide)
    | (with_reducible apply Keep.step; with_reducible apply State.stage_keep; assumption; decide)
    | with_reducible apply Keep.ite
    | with_reducible apply OutKeep.ite
    | with_reducible apply OutKeep.next
    | split
    | dsimp only

theorem doDirectPieceBind_keep (p : Fin 8) (s : State) : OutKeep ([.board, .regs, .mem, .log, .red, .ful, .cut, .sedge, .map, .rst, .warden, .syn, .chk, .freeCtr, .outbox], 0x4001002510000007a5f1d3e11df90000000001f7000060200000000000) s (doDirectPieceBind p s) := by
  unfold doDirectPieceBind
  repeat' first
    | with_reducible exact Keep.refl _ _
    | with_reducible assumption
    | (with_reducible apply Keep.step; with_reducible apply State.portCheck_keep; decide)
    | (with_reducible apply Keep.step; with_reducible apply State.fulAbort_keep; decide)
    | (with_reducible apply Keep.step; with_reducible apply State.putPort_keep; decide)
    | (with_reducible apply Keep.step; with_reducible apply State.putTask_keep; decide)
    | (with_reducible apply Keep.step; with_reducible apply State.direct_keep; decide)
    | with_reducible apply Keep.ite
    | with_reducible apply OutKeep.ite
    | with_reducible apply OutKeep.next
    | split
    | dsimp only

theorem State.fulBatt_keep (s : State) (t : FulTask) (k i : Nat) (bs : List Byte) : Keep ([.regs, .mem, .cut], 0x80000000000000000000000000000000000000000) s (State.fulBatt s t k i bs).1 := by
  unfold State.fulBatt
  repeat' first
    | with_reducible exact Keep.refl _ _
    | with_reducible assumption
    | (with_reducible apply Keep.step; with_reducible apply State.battWrite_keep; decide)
    | (with_reducible apply Keep.step; with_reducible apply State.bump_keep has_Fld_tierCutCounts_suppressed; decide)
    | with_reducible apply Keep.ite
    | split
    | dsimp only
    | (with_reducible apply Keep.step; with_reducible apply Keep.of_fst; assumption; with_reducible apply State.battWrite_keep; decide)

theorem State.fulElem_keep (st : State × FulTask) (i : Nat) : Keep ([.regs, .mem, .cut], 0x80000000000000000000000000000000000000000) st.1 (State.fulElem st i).1 := by
  unfold State.fulElem
  refine Keep.foldl_fst (Keep.refl _ _) (fun p k => ?_)
  dsimp only
  have h (m : FulTask) (b : List Byte) (x : Nat) : Keep ([.regs, .mem, .cut], 0x80000000000000000000000000000000000000000) p.1 (p.1.store' x b) := Keep.step (State.store'_keep _ _ _) (by decide) (Keep.refl _ _)
  split
  · exact Keep.step (State.fulBatt_keep _ _ _ _ _) (by decide) (h p.2 _ _)
  · exact h p.2 _ _

theorem State.fulSkipElem_keep (st : State × FulTask) (i : Nat) : Keep ([.regs, .mem, .cut], 0x80000000000000000000000000000000000000000) st.1 (State.fulSkipElem st i).1 := by
  unfold State.fulSkipElem
  refine Keep.foldl_fst (Keep.refl _ _) (fun p k => ?_)
  dsimp only
  split
  · exact Keep.refl _ _
  · split
    · exact State.fulBatt_keep _ _ _ _ _
    · refine Keep.step (State.fulBatt_keep _ _ _ _ _) (by decide) ?_
      split
      · exact Keep.refl _ _
      · exact Keep.step (State.store'_keep _ _ _) (by decide) (Keep.refl _ _)

theorem State.portTake_keep (s : State) (t : FulTask) (b : Nat) : Keep ([.ful, .warden, .outbox], 0x0) s (State.portTake s t b) := by
  unfold State.portTake
  repeat' first
    | with_reducible exact Keep.refl _ _
    | with_reducible assumption
    | (with_reducible apply Keep.step; with_reducible apply State.putPort_keep; decide)
    | (with_reducible apply Keep.step; with_reducible apply State.direct_keep; decide)
    | with_reducible apply Keep.ite
    | split
    | dsimp only

theorem State.laneGrant_keep (s : State) (q : Nat) : Keep ([.owed], 0x0) s (State.laneGrant s q).2 := by
  unfold State.laneGrant
  repeat' first
    | with_reducible exact Keep.refl _ _
    | with_reducible assumption
    | (with_reducible apply Keep.step; with_reducible apply State.grant_keep; decide)
    | with_reducible apply Keep.ite
    | split
    | dsimp only
    | (with_reducible apply Keep.step; with_reducible apply Keep.of_snd; assumption; with_reducible apply State.grant_keep; decide)

theorem doLaneTakesBlock_keep (lane : Fin 192) (q : Fin 4) (b : Nat) (s : State) : OutKeep ([.board, .regs, .mem, .log, .red, .ful, .cut, .sedge, .map, .peat, .rst, .warden, .syn, .chk, .freeCtr, .outbox, .owed], 0x4001002510000007adf1d3e11df90000000001f7000060200000000000) s (doLaneTakesBlock lane q b s) := by
  unfold doLaneTakesBlock
  repeat' first
    | with_reducible exact Keep.refl _ _
    | with_reducible assumption
    | (with_reducible apply Keep.step; with_reducible apply State.fulSkipElem_keep; decide)
    | (with_reducible apply Keep.step; with_reducible apply State.laterWrite_keep; decide)
    | (with_reducible apply Keep.step; with_reducible apply State.laneGrant_keep; decide)
    | (with_reducible apply Keep.step; with_reducible apply State.portCheck_keep; decide)
    | (with_reducible apply Keep.step; with_reducible apply State.portTake_keep; decide)
    | (with_reducible apply Keep.step; with_reducible apply State.fulElem_keep; decide)
    | (with_reducible apply Keep.step; with_reducible apply State.putTask_keep; decide)
    | (with_reducible apply Keep.step; with_reducible apply State.onFul_keep; decide)
    | (with_reducible apply Keep.step; with_reducible apply State.stage_keep; assumption; decide)
    | with_reducible apply Keep.foldl
    | with_reducible apply Keep.foldl_fst
    | with_reducible apply Keep.foldl_snd
    | with_reducible apply Keep.ite
    | with_reducible apply OutKeep.ite
    | with_reducible apply OutKeep.next
    | split
    | dsimp only
    | intro _
    | (with_reducible apply Keep.step; with_reducible apply Keep.of_fst; assumption; with_reducible apply State.fulSkipElem_keep; decide)
    | (with_reducible apply Keep.step; with_reducible apply Keep.of_snd; assumption; with_reducible apply State.laneGrant_keep; decide)
    | (with_reducible apply Keep.step; with_reducible apply Keep.of_fst; assumption; with_reducible apply State.fulElem_keep; decide)

theorem doFullingStreamWatchdog_keep (q : Fin 4) (race : Race) (s : State) : OutKeep ([.board, .regs, .mem, .log, .red, .ful, .cut, .sedge, .map, .rst, .warden, .syn, .chk, .freeCtr, .outbox], 0x4001002510000007a5f1d3e11df90000000001f7000060200000300000) s (doFullingStreamWatchdog q race s) := by
  unfold doFullingStreamWatchdog
  repeat' first
    | with_reducible exact Keep.refl _ _
    | with_reducible assumption
    | (with_reducible apply Keep.step; with_reducible apply State.fulAbort_keep; decide)
    | (with_reducible apply Keep.step; with_reducible apply State.putTask_keep; decide)
    | (with_reducible apply Keep.step; with_reducible apply State.logRace_keep; decide)
    | (with_reducible apply Keep.step; with_reducible apply State.direct_keep; decide)
    | with_reducible apply Keep.ite
    | with_reducible apply OutKeep.ite
    | with_reducible apply OutKeep.next
    | split
    | dsimp only

theorem State.fulDone_keep (s : State) (q : Nat) : Keep ([.regs, .mem, .ful, .syn], 0x193e00000000000000000000000000000000000) s (State.fulDone s q) := by
  unfold State.fulDone
  repeat' first
    | with_reducible exact Keep.refl _ _
    | with_reducible assumption
    | (with_reducible apply Keep.step; with_reducible apply State.produce_keep; decide)
    | (with_reducible apply Keep.step; with_reducible apply State.putFq_keep; decide)
    | with_reducible apply Keep.ite
    | split
    | dsimp only
    | (with_reducible apply Keep.step; with_reducible apply Keep.of_fst; assumption; with_reducible apply State.produce_keep; decide)

theorem doFullingTaskComplete_keep (q : Fin 4) (s : State) : OutKeep ([.regs, .mem, .red, .ful, .peat, .syn], 0x193e00000000000000008c00000000000000000) s (doFullingTaskComplete q s) := by
  unfold doFullingTaskComplete
  repeat' first
    | with_reducible exact Keep.refl _ _
    | with_reducible assumption
    | (with_reducible apply Keep.step; with_reducible apply State.fulWriteBack_keep; decide)
    | (with_reducible apply Keep.step; with_reducible apply State.fulLeavePort_keep; decide)
    | (with_reducible apply Keep.step; with_reducible apply State.taskVote_keep; decide)
    | (with_reducible apply Keep.step; with_reducible apply State.fulDone_keep; decide)
    | (with_reducible apply Keep.step; with_reducible apply State.produce_keep; decide)
    | (with_reducible apply Keep.step; with_reducible apply State.onFul_keep; decide)
    | (with_reducible apply Keep.step; with_reducible apply State.putFq_keep; decide)
    | (with_reducible apply Keep.step; with_reducible apply State.stage_keep; assumption; decide)
    | (with_reducible apply Keep.step; with_reducible apply State.bump_keep has_Fld_fulCounts_nfTasks; decide)
    | (with_reducible apply Keep.step; with_reducible apply State.bump_keep has_Fld_fulCounts_skipped; decide)
    | (with_reducible apply Keep.step; with_reducible apply State.raise_keep has_Fld_fulErrStatus_nonfinite; decide)
    | with_reducible apply Keep.ite
    | with_reducible apply OutKeep.ite
    | with_reducible apply OutKeep.next
    | split
    | dsimp only
    | (with_reducible apply Keep.step; with_reducible apply Keep.of_fst; assumption; with_reducible apply State.produce_keep; decide)

theorem State.gateOpen_keep (s : State) (step : W64) (sum or' : W64) : Keep ([.ful], 0x0) s (State.gateOpen s step sum or') := by
  unfold State.gateOpen
  repeat' first
    | with_reducible exact Keep.refl _ _
    | with_reducible assumption
    | (with_reducible apply Keep.step; with_reducible apply State.onFul_keep; decide)
    | with_reducible apply Keep.ite
    | split
    | dsimp only

theorem State.gateFail_keep (s : State) (step : W64) (st : Status) : Keep ([.board, .regs, .mem, .log, .red, .ful, .cut, .sedge, .map, .peat, .rst, .warden, .syn, .chk, .freeCtr, .outbox], 0x4001002510000007a5f1d3e11df90000000001f7000060200000000000) s (State.gateFail s step st) := by
  unfold State.gateFail
  repeat' first
    | with_reducible exact Keep.refl _ _
    | with_reducible assumption
    | (with_reducible apply Keep.step; with_reducible apply State.fulAbort_keep; decide)
    | (with_reducible apply Keep.step; with_reducible apply State.onFul_keep; decide)
    | (with_reducible apply Keep.step; with_reducible apply State.stage_keep; assumption; decide)
    | with_reducible apply Keep.foldl
    | with_reducible apply Keep.foldl_fst
    | with_reducible apply Keep.foldl_snd
    | with_reducible apply Keep.ite
    | split
    | dsimp only
    | intro _

theorem State.loadStatus_keep (s : State) (slot v : Nat) : Keep ([.regs], 0x600000000000000000000) s (State.loadStatus s slot v) := by
  unfold State.loadStatus
  repeat' first
    | with_reducible exact Keep.refl _ _
    | with_reducible assumption
    | (with_reducible apply Keep.step; with_reducible apply State.wr_keep has_Fld_fulProgCtrl_loadStatus; decide)
    | (with_reducible apply Keep.step; with_reducible apply State.wr_keep has_Fld_fulProgCtrl_slot; decide)
    | with_reducible apply Keep.ite
    | split
    | dsimp only

theorem State.progBegin_keep (s : State) (slot : Fin 16) : Keep ([.regs, .ful], 0x600000000000000000000) s (State.progBegin s slot) := by
  unfold State.progBegin
  repeat' first
    | with_reducible exact Keep.refl _ _
    | with_reducible assumption
    | (with_reducible apply Keep.step; with_reducible apply State.loadStatus_keep; decide)
    | (with_reducible apply Keep.step; with_reducible apply State.onFul_keep; decide)
    | with_reducible apply Keep.ite
    | split
    | dsimp only

theorem execProgBegin_keep (slot : Fin 16) (s : State) : OutKeep ([.regs, .ful], 0x600000000000000000000) s (execProgBegin slot s) := by
  unfold execProgBegin
  repeat' first
    | with_reducible exact Keep.refl _ _
    | with_reducible assumption
    | (with_reducible apply Keep.step; with_reducible apply State.progBegin_keep; decide)
    | with_reducible apply Keep.ite
    | with_reducible apply OutKeep.ite
    | with_reducible apply OutKeep.next
    | split
    | dsimp only

theorem State.progWord_keep (s : State) (word : W32) : Keep ([.regs, .log, .ful], 0x40800000000000) s (State.progWord s word) := by
  unfold State.progWord
  repeat' first
    | with_reducible exact Keep.refl _ _
    | with_reducible assumption
    | (with_reducible apply Keep.step; with_reducible apply State.accessError_keep; decide)
    | (with_reducible apply Keep.step; with_reducible apply State.onFul_keep; decide)
    | with_reducible apply Keep.ite
    | split
    | dsimp only

theorem execProgDataWord_keep (word : W32) (s : State) : OutKeep ([.regs, .log, .ful], 0x40800000000000) s (execProgDataWord word s) := by
  unfold execProgDataWord
  repeat' first
    | with_reducible exact Keep.refl _ _
    | with_reducible assumption
    | (with_reducible apply Keep.step; with_reducible apply State.progWord_keep; decide)
    | with_reducible apply Keep.ite
    | with_reducible apply OutKeep.ite
    | with_reducible apply OutKeep.next
    | split
    | dsimp only

theorem State.progCommit_keep (s : State) (slot : Fin 16) : Keep ([.regs, .ful], 0x600000000000000000000) s (State.progCommit s slot) := by
  unfold State.progCommit
  repeat' first
    | with_reducible exact Keep.refl _ _
    | with_reducible assumption
    | (with_reducible apply Keep.step; with_reducible apply State.loadStatus_keep; decide)
    | (with_reducible apply Keep.step; with_reducible apply State.onFul_keep; decide)
    | with_reducible apply Keep.ite
    | split
    | dsimp only

theorem execProgCommit_keep (slot : Fin 16) (s : State) : OutKeep ([.regs, .ful], 0x600000000000000000000) s (execProgCommit slot s) := by
  unfold execProgCommit
  repeat' first
    | with_reducible exact Keep.refl _ _
    | with_reducible assumption
    | (with_reducible apply Keep.step; with_reducible apply State.progCommit_keep; decide)
    | with_reducible apply Keep.ite
    | with_reducible apply OutKeep.ite
    | with_reducible apply OutKeep.next
    | split
    | dsimp only

theorem State.progUnload_keep (s : State) (slot : Fin 16) : Keep ([.regs, .ful], 0x600000000000000000000) s (State.progUnload s slot) := by
  unfold State.progUnload
  repeat' first
    | with_reducible exact Keep.refl _ _
    | with_reducible assumption
    | (with_reducible apply Keep.step; with_reducible apply State.loadStatus_keep; decide)
    | (with_reducible apply Keep.step; with_reducible apply State.onFul_keep; decide)
    | with_reducible apply Keep.ite
    | split
    | dsimp only

theorem execProgUnload_keep (slot : Fin 16) (s : State) : OutKeep ([.regs, .ful], 0x600000000000000000000) s (execProgUnload slot s) := by
  unfold execProgUnload
  repeat' first
    | with_reducible exact Keep.refl _ _
    | with_reducible assumption
    | (with_reducible apply Keep.step; with_reducible apply State.progUnload_keep; decide)
    | with_reducible apply Keep.ite
    | with_reducible apply OutKeep.ite
    | with_reducible apply OutKeep.next
    | split
    | dsimp only

theorem State.progCtrlWrite_keep (s : State) (w : Nat) : Keep ([.regs, .log, .ful], 0x2000000000000000000000000000000000600000040800000000000) s (State.progCtrlWrite s w) := by
  unfold State.progCtrlWrite
  repeat' first
    | with_reducible exact Keep.refl _ _
    | with_reducible assumption
    | (with_reducible apply Keep.step; with_reducible apply State.progCommit_keep; decide)
    | (with_reducible apply Keep.step; with_reducible apply State.progUnload_keep; decide)
    | (with_reducible apply Keep.step; with_reducible apply State.progBegin_keep; decide)
    | (with_reducible apply Keep.step; with_reducible apply State.writePlain_keep has_Reg_fulProgCtrl; decide)
    | with_reducible apply Keep.ite
    | split
    | dsimp only
    | (with_reducible apply Keep.step; with_reducible apply Keep.of_fst; assumption; with_reducible apply State.writePlain_keep has_Reg_fulProgCtrl; decide)

theorem State.fulQCfgWrite_keep (s : State) (q w : Nat) : Keep ([.regs, .log, .ful], 0x4000000000000000000000000000000000000000040800000000000) s (State.fulQCfgWrite s q w) := by
  unfold State.fulQCfgWrite
  repeat' first
    | with_reducible exact Keep.refl _ _
    | with_reducible assumption
    | (with_reducible apply Keep.step; with_reducible apply State.putFq_keep; decide)
    | (with_reducible apply Keep.step; with_reducible apply State.writePlain_keep (has_Reg_fulQCfg _); decide)
    | with_reducible apply Keep.ite
    | split
    | dsimp only
    | (with_reducible apply Keep.step; with_reducible apply Keep.of_fst; assumption; with_reducible apply State.writePlain_keep (has_Reg_fulQCfg _); decide)

end Sys2Proof.Machine
end

