-- ==== Sys2Proof/Laws/KeepReduce.lean ====
section
/-! SUPPORT. What each operation of Machine/Reduce.lean can do: one lemma for each (`Keep`). -/
namespace Sys2Proof.Machine

set_option linter.all false

theorem State.putChan_keep (s : State) (ch : Nat) (x : Chan) : Keep ([.red], 0x0) s (State.putChan s ch x) := by
  unfold State.putChan
  repeat' first
    | with_reducible exact Keep.refl _ _
    | with_reducible assumption
    | fail_if_no_progress (with_reducible apply Keep.step; with_reducible apply keep_red; decide)
    | with_reducible apply Keep.ite
    | split
    | dsimp only

theorem State.putBucket_keep (s : State) (ch : Nat) (b : Bucket) : Keep ([.red], 0x0) s (State.putBucket s ch b) := by
  unfold State.putBucket
  repeat' first
    | with_reducible exact Keep.refl _ _
    | with_reducible assumption
    | (with_reducible apply Keep.step; with_reducible apply State.putChan_keep; decide)
    | with_reducible apply Keep.ite
    | split
    | dsimp only

theorem State.checkGone_keep (s : State) (ch : Nat) (seq : W32) : Keep ([.red], 0x0) s (State.checkGone s ch seq) := by
  unfold State.checkGone
  repeat' first
    | with_reducible exact Keep.refl _ _
    | with_reducible assumption
    | (with_reducible apply Keep.step; with_reducible apply State.putBucket_keep; decide)
    | (with_reducible apply Keep.step; with_reducible apply State.putChan_keep; decide)
    | with_reducible apply Keep.ite
    | split
    | dsimp only

theorem State.takeXfer_keep {s t : State} {ch : Nat} {seq : W32} {stage copy : Bool} {slice : Nat} {dest : Dest} {x : Nat × BitVec 4 × Bool}
    (h : s.takeXfer ch seq stage copy slice dest = some (x, t)) : Keep ([.red], 0) s t := by
  unfold State.takeXfer at h
  dsimp only at h
  split at h
  · cases h
  · split at h
    · cases h
    · cases h
      split
      · exact Keep.step (keep_red _ _) (by decide) (Keep.step (State.putBucket_keep _ _ _) (by decide) (Keep.refl _ _))
      · exact Keep.step (State.putBucket_keep _ _ _) (by decide) (Keep.refl _ _)

theorem State.redSend_keep (s : State) (ch : Nat) (seq : W32) (stage copy : Bool) (slice : Nat) (dest : Dest) (ty : BitVec 8) (f : Frame) (leaf : Nat) : Keep ([.red, .peat, .outbox], 0x0) s (State.redSend s ch seq stage copy slice dest ty f leaf) := by
  unfold State.redSend
  repeat' first
    | with_reducible exact Keep.refl _ _
    | with_reducible assumption
    | (with_reducible apply Keep.step; with_reducible apply State.checkGone_keep; decide)
    | (with_reducible apply Keep.step; with_reducible apply State.takeXfer_keep; assumption; decide)
    | (with_reducible apply Keep.step; with_reducible apply State.stage_keep; assumption; decide)
    | (with_reducible apply Keep.step; with_reducible apply State.send_keep; decide)
    | with_reducible apply Keep.ite
    | split
    | dsimp only

theorem State.sendAborts_keep (s : State) (ch : Nat) (seq stepLo : W32) (st : Status) (from' : Option (BitVec 10 × BitVec 7)) : Keep ([.red, .outbox], 0x0) s (State.sendAborts s ch seq stepLo st from') := by
  unfold State.sendAborts
  repeat' first
    | with_reducible exact Keep.refl _ _
    | with_reducible assumption
    | (with_reducible apply Keep.step; with_reducible apply State.sendTo_keep; decide)
    | (with_reducible apply Keep.step; with_reducible apply State.send_keep; decide)
    | with_reducible apply Keep.foldl
    | with_reducible apply Keep.foldl_fst
    | with_reducible apply Keep.foldl_snd
    | fail_if_no_progress (with_reducible apply Keep.step; with_reducible apply keep_red; decide)
    | with_reducible apply Keep.ite
    | split
    | dsimp only
    | intro _

theorem State.redErr_keep (s : State) (st : Status) : Keep ([.regs], 0x1f8000000000000000000000000000000) s (State.redErr s st) := by
  unfold State.redErr
  repeat' first
    | with_reducible exact Keep.refl _ _
    | with_reducible assumption
    | (with_reducible apply Keep.step; with_reducible apply State.raise_keep has_Fld_redErrStatus_contribLate; decide)
    | (with_reducible apply Keep.step; with_reducible apply State.raise_keep has_Fld_redErrStatus_crc; decide)
    | (with_reducible apply Keep.step; with_reducible apply State.raise_keep has_Fld_redErrStatus_lenLong; decide)
    | (with_reducible apply Keep.step; with_reducible apply State.raise_keep has_Fld_redErrStatus_lenShort; decide)
    | (with_reducible apply Keep.step; with_reducible apply State.raise_keep has_Fld_redErrStatus_memUe; decide)
    | (with_reducible apply Keep.step; with_reducible apply State.raise_keep has_Fld_redErrStatus_nonfinite; decide)
    | with_reducible apply Keep.ite
    | split
    | dsimp only

theorem State.nfLog_keep (s : State) (ch : Nat) (seq : W32) (nf : Option Nat) : Keep ([.regs], 0x4000000000000000000000001c00000000000000000000000000000000) s (State.nfLog s ch seq nf) := by
  unfold State.nfLog
  repeat' first
    | with_reducible exact Keep.refl _ _
    | with_reducible assumption
    | (with_reducible apply Keep.step; with_reducible apply State.setReg_keep has_Reg_redNfSeq; decide)
    | (with_reducible apply Keep.step; with_reducible apply State.wr_keep has_Fld_redNfLog_channel; decide)
    | (with_reducible apply Keep.step; with_reducible apply State.wr_keep has_Fld_redNfLog_index; decide)
    | (with_reducible apply Keep.step; with_reducible apply State.wr_keep has_Fld_redNfLog_valid; decide)
    | with_reducible apply Keep.ite
    | split
    | dsimp only

theorem State.voteAbort_keep (s : State) (ch : Nat) (b : Bucket) : Keep ([.red], 0x0) s (State.voteAbort s ch b) := by
  unfold State.voteAbort
  repeat' first
    | with_reducible exact Keep.refl _ _
    | with_reducible assumption
    | (with_reducible apply Keep.step; with_reducible apply State.onVote_keep; decide)
    | with_reducible apply Keep.ite
    | split
    | dsimp only

theorem State.bucketEnd_keep (s : State) (ch : Nat) (b : Bucket) (st : Status) (nf : Option Nat) : Keep ([.regs, .mem, .red, .syn], 0x4000000000000000000193e01df9000000000000000000000000000000) s (State.bucketEnd s ch b st nf) := by
  unfold State.bucketEnd
  repeat' first
    | with_reducible exact Keep.refl _ _
    | with_reducible assumption
    | (with_reducible apply Keep.step; with_reducible apply State.produce_keep; decide)
    | (with_reducible apply Keep.step; with_reducible apply State.putChan_keep; decide)
    | (with_reducible apply Keep.step; with_reducible apply State.store'_keep; decide)
    | (with_reducible apply Keep.step; with_reducible apply State.onVote_keep; decide)
    | (with_reducible apply Keep.step; with_reducible apply State.redErr_keep; decide)
    | (with_reducible apply Keep.step; with_reducible apply State.nfLog_keep; decide)
    | (with_reducible apply Keep.step; with_reducible apply State.bump_keep has_Fld_redCounts_backupTaken; decide)
    | with_reducible apply Keep.ite
    | split
    | dsimp only
    | (with_reducible apply Keep.step; with_reducible apply Keep.of_fst; assumption; with_reducible apply State.produce_keep; decide)

theorem State.sweep_keep (s : State) (ch : Nat) : Keep ([.red], 0x0) s (State.sweep s ch) := by
  unfold State.sweep
  repeat' first
    | with_reducible exact Keep.refl _ _
    | with_reducible assumption
    | (with_reducible apply Keep.step; with_reducible apply State.putChan_keep; decide)
    | with_reducible apply Keep.ite
    | split
    | dsimp only

theorem State.flushOverN_keep (ch : Nat) (n : Nat) (s : State) : Keep ([.regs, .mem, .red, .syn], 0x4000000000000000000193e01df9000000000000000000000000000000) s (State.flushOverN ch n s) := by
  induction n generalizing s with
  | zero =>
    exact Keep.refl _ _
  | succ n ih =>
    unfold State.flushOverN
    repeat' first
      | with_reducible exact Keep.refl _ _
      | (with_reducible apply Keep.step; with_reducible apply ih; decide)
      | with_reducible assumption
      | (with_reducible apply Keep.step; with_reducible apply State.putBucket_keep; decide)
      | (with_reducible apply Keep.step; with_reducible apply State.bucketEnd_keep; decide)
      | (with_reducible apply Keep.step; with_reducible apply State.putChan_keep; decide)
      | with_reducible apply Keep.ite
      | split
      | dsimp only

theorem State.flushOver_keep (s : State) (ch : Nat) : Keep ([.regs, .mem, .red, .syn], 0x4000000000000000000193e01df9000000000000000000000000000000) s (State.flushOver s ch) := by
  unfold State.flushOver
  repeat' first
    | with_reducible exact Keep.refl _ _
    | with_reducible assumption
    | (with_reducible apply Keep.step; with_reducible apply State.flushOverN_keep; decide)
    | (with_reducible apply Keep.step; with_reducible apply State.sweep_keep; decide)
    | with_reducible apply Keep.ite
    | split
    | dsimp only

theorem State.mcastOne_keep {s t0 : State} (ch : Nat) (seq : W32) (port : Nat) (h : State.mcastOne s ch seq port = some t0) : Keep ([.regs, .red, .peat, .outbox], 0x0) s t0 := by
  unfold State.mcastOne at h
  repeat' first
    | contradiction
    | split at h
    | dsimp only at h
  all_goals
    cases h
    repeat' first
      | with_reducible exact Keep.refl _ _
      | with_reducible assumption
      | (with_reducible apply Keep.step; with_reducible apply State.putBucket_keep; decide)
      | (with_reducible apply Keep.step; with_reducible apply State.redSend_keep; decide)
      | with_reducible apply Keep.ite
      | split
      | dsimp only

theorem State.mcastPortN_keep (ch : Nat) (seq : W32) (port : Nat) (n : Nat) (s : State) : Keep ([.regs, .red, .peat, .outbox], 0x0) s (State.mcastPortN ch seq port n s) := by
  induction n generalizing s with
  | zero =>
    exact Keep.refl _ _
  | succ n ih =>
    unfold State.mcastPortN
    repeat' first
      | with_reducible exact Keep.refl _ _
      | (with_reducible apply Keep.step; with_reducible apply ih; decide)
      | with_reducible assumption
      | (with_reducible apply Keep.step; with_reducible apply State.mcastOne_keep; assumption; decide)
      | with_reducible apply Keep.ite
      | split
      | dsimp only

theorem State.mcastDone_keep (s : State) (ch : Nat) (seq : W32) (port : Nat) : Keep ([.red], 0x0) s (State.mcastDone s ch seq port) := by
  unfold State.mcastDone
  repeat' first
    | with_reducible exact Keep.refl _ _
    | with_reducible assumption
    | (with_reducible apply Keep.step; with_reducible apply State.releaseTags_keep; decide)
    | (with_reducible apply Keep.step; with_reducible apply State.putBucket_keep; decide)
    | (with_reducible apply Keep.step; with_reducible apply State.sweep_keep; decide)
    | with_reducible apply Keep.ite
    | split
    | dsimp only

theorem State.mcastPush_keep (s : State) (ch : Nat) (seq : W32) : Keep ([.regs, .red, .peat, .outbox], 0x0) s (State.mcastPush s ch seq) := by
  unfold State.mcastPush
  repeat' first
    | with_reducible exact Keep.refl _ _
    | with_reducible assumption
    | (with_reducible apply Keep.step; with_reducible apply State.mcastPortN_keep; decide)
    | (with_reducible apply Keep.step; with_reducible apply State.mcastDone_keep; decide)
    | with_reducible apply Keep.foldl
    | with_reducible apply Keep.foldl_fst
    | with_reducible apply Keep.foldl_snd
    | with_reducible apply Keep.ite
    | split
    | dsimp only
    | intro _

theorem State.mcastPort_keep (s : State) (port : Nat) : Keep ([.regs, .red, .peat, .outbox], 0x0) s (State.mcastPort s port) := by
  unfold State.mcastPort
  repeat' first
    | with_reducible exact Keep.refl _ _
    | with_reducible assumption
    | (with_reducible apply Keep.step; with_reducible apply State.mcastPortN_keep; decide)
    | (with_reducible apply Keep.step; with_reducible apply State.mcastDone_keep; decide)
    | with_reducible apply Keep.foldl
    | with_reducible apply Keep.foldl_fst
    | with_reducible apply Keep.foldl_snd
    | with_reducible apply Keep.ite
    | split
    | dsimp only
    | intro _

theorem State.deliverOne_keep (s : State) (ch : Nat) (b : Bucket) (fr : Nat × List W32) : Keep ([.board, .regs, .mem, .log, .red, .ful, .cut, .sedge, .map, .rst, .warden, .syn, .chk, .freeCtr, .outbox], 0x4001002510000007a5f1d3e11df90000000001f7000060200000000000) s (State.deliverOne s ch b fr) := by
  unfold State.deliverOne
  repeat' first
    | with_reducible exact Keep.refl _ _
    | with_reducible assumption
    | (with_reducible apply Keep.step; with_reducible apply State.portFeed_keep; decide)
    | (with_reducible apply Keep.step; with_reducible apply State.store'_keep; decide)
    | (with_reducible apply Keep.step; with_reducible apply State.direct_keep; decide)
    | with_reducible apply Keep.ite
    | split
    | dsimp only

theorem State.land_keep (s : State) (ch : Nat) (seq : W32) (l : Landing) : Keep ([.regs, .mem, .red, .peat, .outbox, .acksOut], 0x0) s (State.land s ch seq l) := by
  unfold State.land
  repeat' first
    | with_reducible exact Keep.refl _ _
    | with_reducible assumption
    | (with_reducible apply Keep.step; with_reducible apply State.mcastPush_keep; decide)
    | (with_reducible apply Keep.step; with_reducible apply State.putBucket_keep; decide)
    | (with_reducible apply Keep.step; with_reducible apply State.store'_keep; decide)
    | fail_if_no_progress (with_reducible apply Keep.step; with_reducible apply keep_acksOut; decide)
    | with_reducible apply Keep.ite
    | split
    | dsimp only

theorem State.deliverB_keep (s : State) (ch : Nat) (seq : W32) : Keep ([.board, .regs, .mem, .log, .red, .ful, .cut, .sedge, .map, .peat, .rst, .warden, .syn, .chk, .freeCtr, .outbox, .acksOut], 0x4001002510000007a5f1d3e11df90000000001f7000060200000000000) s (State.deliverB s ch seq) := by
  unfold State.deliverB
  repeat' first
    | with_reducible exact Keep.refl _ _
    | with_reducible assumption
    | (with_reducible apply Keep.step; with_reducible apply State.deliverOne_keep; decide)
    | (with_reducible apply Keep.step; with_reducible apply State.putBucket_keep; decide)
    | (with_reducible apply Keep.step; with_reducible apply State.land_keep; decide)
    | (with_reducible apply Keep.step; with_reducible apply State.hold_keep; decide)
    | with_reducible apply Keep.foldl
    | with_reducible apply Keep.foldl_fst
    | with_reducible apply Keep.foldl_snd
    | with_reducible apply Keep.ite
    | split
    | dsimp only
    | intro _
    | (with_reducible apply Keep.step; with_reducible apply Keep.of_fst; assumption; with_reducible apply State.hold_keep; decide)

theorem State.deliverN_keep (ch : Nat) (l : List W32) (s : State) : Keep ([.board, .regs, .mem, .log, .red, .ful, .cut, .sedge, .map, .peat, .rst, .warden, .syn, .chk, .freeCtr, .outbox, .acksOut], 0x4001002510000007a5f1d3e11df90000000001f7000060200000000000) s (State.deliverN ch l s) := by
  induction l generalizing s with
  | nil =>
    exact Keep.refl _ _
  | cons q t ih =>
    unfold State.deliverN
    repeat' first
      | with_reducible exact Keep.refl _ _
      | (with_reducible apply Keep.step; with_reducible apply ih; decide)
      | with_reducible assumption
      | (with_reducible apply Keep.step; with_reducible apply State.deliverB_keep; decide)
      | with_reducible apply Keep.ite
      | split
      | dsimp only

theorem State.deliver_keep (s : State) (ch : Nat) : Keep ([.board, .regs, .mem, .log, .red, .ful, .cut, .sedge, .map, .peat, .rst, .warden, .syn, .chk, .freeCtr, .outbox, .acksOut], 0x4001002510000007a5f1d3e11df90000000001f7000060200000000000) s (State.deliver s ch) := by
  unfold State.deliver
  repeat' first
    | with_reducible exact Keep.refl _ _
    | with_reducible assumption
    | (with_reducible apply Keep.step; with_reducible apply State.deliverN_keep; decide)
    | with_reducible apply Keep.ite
    | split
    | dsimp only

theorem State.holdFor_keep (s : State) (ch : Nat) (seq : W32) (l : Landing) : Keep ([.board, .regs, .mem, .log, .red, .ful, .cut, .sedge, .map, .peat, .rst, .warden, .syn, .chk, .freeCtr, .outbox, .acksOut], 0x4001002510000007a5f1d3e11df90000000001f7000060200000000000) s (State.holdFor s ch seq l) := by
  unfold State.holdFor
  repeat' first
    | with_reducible exact Keep.refl _ _
    | with_reducible assumption
    | (with_reducible apply Keep.step; with_reducible apply State.putBucket_keep; decide)
    | (with_reducible apply Keep.step; with_reducible apply State.deliver_keep; decide)
    | (with_reducible apply Keep.step; with_reducible apply State.hold_keep; decide)
    | with_reducible apply Keep.ite
    | split
    | dsimp only
    | (with_reducible apply Keep.step; with_reducible apply Keep.of_fst; assumption; with_reducible apply State.hold_keep; decide)

theorem State.keepLost_keep (s : State) (ch : Nat) (b : Bucket) : Keep ([.sedge, .outbox], 0x0) s (State.keepLost s ch b) := by
  unfold State.keepLost
  repeat' first
    | with_reducible exact Keep.refl _ _
    | with_reducible assumption
    | (with_reducible apply Keep.step; with_reducible apply State.keepEnd_keep; decide)
    | with_reducible apply Keep.ite
    | split
    | dsimp only

theorem State.abortChan_keep (s : State) (ch : Nat) (st : Status) : Keep ([.regs, .mem, .red, .sedge, .syn, .outbox], 0x4000000000000000000193e01df9000000000000000000000000000000) s (State.abortChan s ch st) := by
  unfold State.abortChan
  repeat' first
    | with_reducible exact Keep.refl _ _
    | with_reducible assumption
    | (with_reducible apply Keep.step; with_reducible apply State.releaseTags_keep; decide)
    | (with_reducible apply Keep.step; with_reducible apply State.flushOver_keep; decide)
    | (with_reducible apply Keep.step; with_reducible apply State.voteAbort_keep; decide)
    | (with_reducible apply Keep.step; with_reducible apply State.keepLost_keep; decide)
    | (with_reducible apply Keep.step; with_reducible apply State.putChan_keep; decide)
    | with_reducible apply Keep.foldl
    | with_reducible apply Keep.foldl_fst
    | with_reducible apply Keep.foldl_snd
    | with_reducible apply Keep.ite
    | split
    | dsimp only
    | intro _

theorem State.closeBucket_keep (s : State) (ch : Nat) (b : Bucket) (st : Status) : Keep ([.board, .regs, .mem, .log, .red, .ful, .cut, .sedge, .map, .rst, .warden, .syn, .chk, .freeCtr, .outbox], 0x4001002510000007a5f1d3e11df90000000001f7000060200000000000) s (State.closeBucket s ch b st) := by
  unfold State.closeBucket
  repeat' first
    | with_reducible exact Keep.refl _ _
    | with_reducible assumption
    | (with_reducible apply Keep.step; with_reducible apply State.releaseTags_keep; decide)
    | (with_reducible apply Keep.step; with_reducible apply State.portAbort_keep; decide)
    | (with_reducible apply Keep.step; with_reducible apply State.putBucket_keep; decide)
    | (with_reducible apply Keep.step; with_reducible apply State.keepLost_keep; decide)
    | (with_reducible apply Keep.step; with_reducible apply State.direct_keep; decide)
    | (with_reducible apply Keep.step; with_reducible apply State.hold_keep; decide)
    | with_reducible apply Keep.ite
    | split
    | dsimp only
    | (with_reducible apply Keep.step; with_reducible apply Keep.of_fst; assumption; with_reducible apply State.hold_keep; decide)

theorem State.noticed_keep (s : State) (ch : Nat) (seq stepLo : W32) : Keep ([.red], 0x0) s (State.noticed s ch seq stepLo) := by
  unfold State.noticed
  repeat' first
    | with_reducible exact Keep.refl _ _
    | with_reducible assumption
    | fail_if_no_progress (with_reducible apply Keep.step; with_reducible apply keep_red; decide)
    | with_reducible apply Keep.ite
    | split
    | dsimp only

theorem State.abortIssued_keep (s : State) (ch : Nat) (b : Bucket) (st : Status) : Keep ([.regs, .mem, .log, .red, .sedge, .syn, .outbox], 0x4000000000000000000193e01df9000000000000000040000000000000) s (State.abortIssued s ch b st) := by
  unfold State.abortIssued
  repeat' first
    | with_reducible exact Keep.refl _ _
    | with_reducible assumption
    | (with_reducible apply Keep.step; with_reducible apply State.sendAborts_keep; decide)
    | (with_reducible apply Keep.step; with_reducible apply State.abortChan_keep; decide)
    | (with_reducible apply Keep.step; with_reducible apply State.logAbort_keep; decide)
    | (with_reducible apply Keep.step; with_reducible apply State.noticed_keep; decide)
    | with_reducible apply Keep.ite
    | split
    | dsimp only

theorem State.abortBucket_keep (s : State) (ch : Nat) (seq : W32) (st : Status) (from' : Option (BitVec 10 × BitVec 7)) : Keep ([.board, .regs, .mem, .log, .red, .ful, .cut, .sedge, .map, .peat, .rst, .warden, .syn, .chk, .freeCtr, .outbox, .acksOut], 0x4001002510000007a5f1d3e11dfd0000000001f7000060200000000000) s (State.abortBucket s ch seq st from') := by
  unfold State.abortBucket
  repeat' first
    | with_reducible exact Keep.refl _ _
    | with_reducible assumption
    | (with_reducible apply Keep.step; with_reducible apply State.closeBucket_keep; decide)
    | (with_reducible apply Keep.step; with_reducible apply State.sendAborts_keep; decide)
    | (with_reducible apply Keep.step; with_reducible apply State.abortChan_keep; decide)
    | (with_reducible apply Keep.step; with_reducible apply State.voteAbort_keep; decide)
    | (with_reducible apply Keep.step; with_reducible apply State.logAbort_keep; decide)
    | (with_reducible apply Keep.step; with_reducible apply State.noticed_keep; decide)
    | (with_reducible apply Keep.step; with_reducible apply State.deliver_keep; decide)
    | (with_reducible apply Keep.step; with_reducible apply State.raise_keep has_Fld_redErrStatus_abortNotice; decide)
    | with_reducible apply Keep.ite
    | split
    | dsimp only

theorem State.copyTo_keep (s : State) (ch : Nat) (seq : W32) (rg : Nat × Nat) (leaf : Nat) (h : BitVec 10 × BitVec 7) : Keep ([.regs, .red, .peat, .outbox], 0x0) s (State.copyTo s ch seq rg leaf h) := by
  unfold State.copyTo
  repeat' first
    | with_reducible exact Keep.refl _ _
    | with_reducible assumption
    | (with_reducible apply Keep.step; with_reducible apply State.redSend_keep; decide)
    | with_reducible apply Keep.foldl
    | with_reducible apply Keep.foldl_fst
    | with_reducible apply Keep.foldl_snd
    | with_reducible apply Keep.ite
    | split
    | dsimp only
    | intro _

theorem State.gotFinal_keep (s : State) (ch : Nat) (seq : W32) (first : Nat) (vs : List W32) (leaf : Nat) : Keep ([.board, .regs, .mem, .log, .red, .ful, .cut, .sedge, .map, .peat, .rst, .warden, .syn, .chk, .freeCtr, .outbox, .acksOut], 0x4001002510000007a5f1d3e11df90000000001f7000060200000000000) s (State.gotFinal s ch seq first vs leaf) := by
  unfold State.gotFinal
  repeat' first
    | with_reducible exact Keep.refl _ _
    | with_reducible assumption
    | (with_reducible apply Keep.step; with_reducible apply State.putBucket_keep; decide)
    | (with_reducible apply Keep.step; with_reducible apply State.deliver_keep; decide)
    | (with_reducible apply Keep.step; with_reducible apply State.copyTo_keep; decide)
    | with_reducible apply Keep.foldl
    | with_reducible apply Keep.foldl_fst
    | with_reducible apply Keep.foldl_snd
    | with_reducible apply Keep.ite
    | split
    | dsimp only
    | intro _

theorem State.treeAdvance_keep (s : State) (ch : Nat) (seq : W32) (q f leaf : Nat) : Keep ([.board, .regs, .mem, .log, .red, .ful, .cut, .sedge, .map, .peat, .rst, .warden, .syn, .chk, .freeCtr, .outbox, .acksOut], 0x4001002510000007a5f1d3e11df90000000001f7000060200000000000) s (State.treeAdvance s ch seq q f leaf) := by
  unfold State.treeAdvance
  repeat' first
    | with_reducible exact Keep.refl _ _
    | with_reducible assumption
    | (with_reducible apply Keep.step; with_reducible apply State.putBucket_keep; decide)
    | (with_reducible apply Keep.step; with_reducible apply State.gotFinal_keep; decide)
    | (with_reducible apply Keep.step; with_reducible apply State.redSend_keep; decide)
    | with_reducible apply Keep.foldl
    | with_reducible apply Keep.foldl_fst
    | with_reducible apply Keep.foldl_snd
    | with_reducible apply Keep.ite
    | split
    | dsimp only
    | intro _

theorem State.gotRack_keep (s : State) (ch : Nat) (seq : W32) (first : Nat) (vs : List W32) (leaf : Nat) : Keep ([.board, .regs, .mem, .log, .red, .ful, .cut, .sedge, .map, .peat, .rst, .warden, .syn, .chk, .freeCtr, .outbox, .acksOut], 0x4001002510000007a5f1d3e11df90000000001f7000060200000000000) s (State.gotRack s ch seq first vs leaf) := by
  unfold State.gotRack
  repeat' first
    | with_reducible exact Keep.refl _ _
    | with_reducible assumption
    | (with_reducible apply Keep.step; with_reducible apply State.treeAdvance_keep; decide)
    | (with_reducible apply Keep.step; with_reducible apply State.putBucket_keep; decide)
    | (with_reducible apply Keep.step; with_reducible apply State.gotFinal_keep; decide)
    | with_reducible apply Keep.foldl
    | with_reducible apply Keep.foldl_fst
    | with_reducible apply Keep.foldl_snd
    | with_reducible apply Keep.ite
    | split
    | dsimp only
    | intro _

theorem State.ringSend_keep (s : State) (ch : Nat) (seq : W32) (k t f : Nat) (vs : List W32) (leaf : Nat) : Keep ([.regs, .red, .peat, .outbox], 0x0) s (State.ringSend s ch seq k t f vs leaf) := by
  unfold State.ringSend
  repeat' first
    | with_reducible exact Keep.refl _ _
    | with_reducible assumption
    | (with_reducible apply Keep.step; with_reducible apply State.redSend_keep; decide)
    | with_reducible apply Keep.ite
    | split
    | dsimp only

theorem State.ringStep_keep (s : State) (ch : Nat) (seq : W32) (t f : Nat) (vs : List W32) (leaf : Nat) : Keep ([.board, .regs, .mem, .log, .red, .ful, .cut, .sedge, .map, .peat, .rst, .warden, .syn, .chk, .freeCtr, .outbox, .acksOut], 0x4001002510000007a5f1d3e11df90000000001f7000060200000000000) s (State.ringStep s ch seq t f vs leaf) := by
  unfold State.ringStep
  repeat' first
    | with_reducible exact Keep.refl _ _
    | with_reducible assumption
    | (with_reducible apply Keep.step; with_reducible apply State.ringSend_keep; decide)
    | (with_reducible apply Keep.step; with_reducible apply State.gotRack_keep; decide)
    | with_reducible apply Keep.ite
    | split
    | dsimp only

theorem State.longFrame_keep (s : State) (n ch : Nat) (seq : W32) : Keep ([.board, .regs, .mem, .log, .red, .ful, .cut, .sedge, .map, .peat, .rst, .warden, .syn, .chk, .freeCtr, .outbox, .acksOut], 0x4001002510000007a5f1d3e11dfd0000000021f7000060200000000000) s (State.longFrame s n ch seq) := by
  unfold State.longFrame
  repeat' first
    | with_reducible exact Keep.refl _ _
    | with_reducible assumption
    | (with_reducible apply Keep.step; with_reducible apply State.abortBucket_keep; decide)
    | (with_reducible apply Keep.step; with_reducible apply State.bump_keep (has_Fld_lnkDrop_long _); decide)
    | with_reducible apply Keep.ite
    | split
    | dsimp only

theorem State.takeData_keep {ps : Touch} {s u : State} {n : Nat} {ty : BitVec 8} {f : Frame} {b : Bucket} {port key : Nat} {p : Place}
    {act : Nat → Bucket → State → State} (h : Keep ps s u) (ha : ∀ i b t, Keep ps t (act i b t)) (hr : sub ([.board, .regs, .mem, .log, .red, .ful, .cut, .sedge, .map, .peat, .rst, .warden, .syn, .chk, .freeCtr, .outbox, .acksOut], 0x4001002510000007a5f1d3e11dfd0000000061f7000060200000000000) ps = true) :
    Keep ps s (u.takeData n ty f b port key p act) := by
  unfold State.takeData
  split
  · exact Keep.step (State.staleAt_keep _ _) (sub_trans (by decide) hr) h
  · exact Keep.step (State.staleAt_keep _ _) (sub_trans (by decide) hr) h
  · exact Keep.step (State.longFrame_keep _ _ _ _) (sub_trans (by decide) hr) h
  · split
    · exact Keep.step (State.staleAt_keep _ _) (sub_trans (by decide) hr) h
    · exact Keep.step (ha _ _ _) (sub_self _) h

theorem State.ringIn_keep (s : State) (n : Nat) (f : Frame) (b : Bucket) : Keep ([.board, .regs, .mem, .log, .red, .ful, .cut, .sedge, .map, .peat, .rst, .warden, .syn, .chk, .freeCtr, .outbox, .acksOut], 0x4001002510000007a5f1d3e11dfd0000000061f7000060200000000000) s (State.ringIn s n f b) := by
  unfold State.ringIn
  repeat' first
    | with_reducible exact Keep.refl _ _
    | with_reducible assumption
    | (with_reducible apply Keep.step; with_reducible apply State.putBucket_keep; decide)
    | (with_reducible apply Keep.step; with_reducible apply State.ringStep_keep; decide)
    | (with_reducible apply Keep.step; with_reducible apply State.staleAt_keep; decide)
    | with_reducible apply State.takeData_keep
    | with_reducible apply Keep.ite
    | (show sub _ _ = true; decide)
    | split
    | dsimp only
    | with_reducible exact Keep.id _ _
    | intro _

theorem State.treeIn_keep (s : State) (n : Nat) (f : Frame) (b : Bucket) : Keep ([.board, .regs, .mem, .log, .red, .ful, .cut, .sedge, .map, .peat, .rst, .warden, .syn, .chk, .freeCtr, .outbox, .acksOut], 0x4001002510000007a5f1d3e11dfd0000000061f7000060200000000000) s (State.treeIn s n f b) := by
  unfold State.treeIn
  repeat' first
    | with_reducible exact Keep.refl _ _
    | with_reducible assumption
    | (with_reducible apply Keep.step; with_reducible apply State.treeAdvance_keep; decide)
    | (with_reducible apply Keep.step; with_reducible apply State.putBucket_keep; decide)
    | (with_reducible apply Keep.step; with_reducible apply State.staleAt_keep; decide)
    | with_reducible apply State.takeData_keep
    | with_reducible apply Keep.ite
    | (show sub _ _ = true; decide)
    | split
    | dsimp only
    | with_reducible exact Keep.id _ _
    | intro _

theorem State.partialIn_keep (s : State) (n : Nat) (f : Frame) (b : Bucket) : Keep ([.board, .regs, .mem, .log, .red, .ful, .cut, .sedge, .map, .peat, .rst, .warden, .syn, .chk, .freeCtr, .outbox, .acksOut], 0x4001002510000007a5f1d3e11dfd0000000061f7000060200000000000) s (State.partialIn s n f b) := by
  unfold State.partialIn
  repeat' first
    | with_reducible exact Keep.refl _ _
    | with_reducible assumption
    | (with_reducible apply Keep.step; with_reducible apply State.staleAt_keep; decide)
    | (with_reducible apply Keep.step; with_reducible apply State.ringIn_keep; decide)
    | (with_reducible apply Keep.step; with_reducible apply State.treeIn_keep; decide)
    | (with_reducible apply Keep.step; with_reducible apply State.stage_keep; assumption; decide)
    | with_reducible apply Keep.ite
    | split
    | dsimp only

theorem State.lateCopy_keep (s : State) (ch : Nat) (seq : W32) : Keep ([.regs, .mem, .red], 0x4000000000000000000000001df8000000000000000000000000000000) s (State.lateCopy s ch seq) := by
  unfold State.lateCopy
  repeat' first
    | with_reducible exact Keep.refl _ _
    | with_reducible assumption
    | (with_reducible apply Keep.step; with_reducible apply State.putBucket_keep; decide)
    | (with_reducible apply Keep.step; with_reducible apply State.store'_keep; decide)
    | (with_reducible apply Keep.step; with_reducible apply State.redErr_keep; decide)
    | (with_reducible apply Keep.step; with_reducible apply State.sweep_keep; decide)
    | (with_reducible apply Keep.step; with_reducible apply State.nfLog_keep; decide)
    | with_reducible apply Keep.ite
    | split
    | dsimp only

theorem State.copyIn_keep (s : State) (n : Nat) (f : Frame) (b : Bucket) : Keep ([.board, .regs, .mem, .log, .red, .ful, .cut, .sedge, .map, .peat, .rst, .warden, .syn, .chk, .freeCtr, .outbox, .acksOut], 0x4001002510000007a5f1d3e11dfd0000000061f7000060200000000000) s (State.copyIn s n f b) := by
  unfold State.copyIn
  repeat' first
    | with_reducible exact Keep.refl _ _
    | with_reducible assumption
    | (with_reducible apply Keep.step; with_reducible apply State.putBucket_keep; decide)
    | (with_reducible apply Keep.step; with_reducible apply State.lateCopy_keep; decide)
    | (with_reducible apply Keep.step; with_reducible apply State.holdFor_keep; decide)
    | (with_reducible apply Keep.step; with_reducible apply State.staleAt_keep; decide)
    | (with_reducible apply Keep.step; with_reducible apply State.direct_keep; decide)
    | (with_reducible apply Keep.step; with_reducible apply State.stage_keep; assumption; decide)
    | with_reducible apply State.takeData_keep
    | with_reducible apply Keep.foldl
    | with_reducible apply Keep.foldl_fst
    | with_reducible apply Keep.foldl_snd
    | with_reducible apply Keep.ite
    | (show sub _ _ = true; decide)
    | split
    | dsimp only
    | with_reducible exact Keep.id _ _
    | intro _

theorem State.gatherIn_keep (s : State) (n : Nat) (f : Frame) (b : Bucket) : Keep ([.board, .regs, .mem, .log, .red, .ful, .cut, .sedge, .map, .peat, .rst, .warden, .syn, .chk, .freeCtr, .outbox, .acksOut], 0x4001042510008007a5f1d3e11dfd00000001e1f7000060200000000000) s (State.gatherIn s n f b) := by
  unfold State.gatherIn
  repeat' first
    | with_reducible exact Keep.refl _ _
    | with_reducible assumption
    | (with_reducible apply Keep.step; with_reducible apply State.putBucket_keep; decide)
    | (with_reducible apply Keep.step; with_reducible apply State.keepFrame_keep; decide)
    | (with_reducible apply Keep.step; with_reducible apply State.holdFor_keep; decide)
    | (with_reducible apply Keep.step; with_reducible apply State.staleAt_keep; decide)
    | (with_reducible apply Keep.step; with_reducible apply State.stage_keep; assumption; decide)
    | with_reducible apply State.takeData_keep
    | with_reducible apply Keep.ite
    | (show sub _ _ = true; decide)
    | split
    | dsimp only
    | with_reducible exact Keep.id _ _
    | intro _

theorem State.revive_keep (s : State) (f : Frame) : Keep ([.red], 0x0) s (State.revive s f) := by
  unfold State.revive
  repeat' first
    | with_reducible exact Keep.refl _ _
    | with_reducible assumption
    | (with_reducible apply Keep.step; with_reducible apply State.putChan_keep; decide)
    | with_reducible apply Keep.ite
    | split
    | dsimp only

theorem State.bucketIn_keep (s : State) (n : Fin 42) (ty : BitVec 8) (f : Frame) : Keep ([.board, .regs, .mem, .log, .red, .ful, .cut, .sedge, .map, .peat, .rst, .warden, .syn, .chk, .freeCtr, .outbox, .acksOut], 0x4001042510008007a5f1d3e11dfd00000001e1f7000060200000000000) s (State.bucketIn s n ty f) := by
  unfold State.bucketIn
  repeat' first
    | with_reducible exact Keep.refl _ _
    | with_reducible assumption
    | (with_reducible apply Keep.step; with_reducible apply State.partialIn_keep; decide)
    | (with_reducible apply Keep.step; with_reducible apply State.gatherIn_keep; decide)
    | (with_reducible apply Keep.step; with_reducible apply State.staleAt_keep; decide)
    | (with_reducible apply Keep.step; with_reducible apply State.revive_keep; decide)
    | (with_reducible apply Keep.step; with_reducible apply State.copyIn_keep; decide)
    | fail_if_no_progress (with_reducible apply Keep.step; with_reducible apply keep_red; decide)
    | with_reducible apply Keep.ite
    | split
    | dsimp only

theorem State.bucketBadCrc_keep (s : State) (f : Frame) : Keep ([.board, .regs, .mem, .log, .red, .ful, .cut, .sedge, .map, .peat, .rst, .warden, .syn, .chk, .freeCtr, .outbox, .acksOut], 0x4001002510000007a5f1d3e11dfd0000000001f7000060200000000000) s (State.bucketBadCrc s f) := by
  unfold State.bucketBadCrc
  repeat' first
    | with_reducible exact Keep.refl _ _
    | with_reducible assumption
    | (with_reducible apply Keep.step; with_reducible apply State.abortIssued_keep; decide)
    | (with_reducible apply Keep.step; with_reducible apply State.abortBucket_keep; decide)
    | with_reducible apply Keep.ite
    | split
    | dsimp only

theorem State.redFrame_keep (s : State) (n : Fin 42) (ty : BitVec 8) (f : Frame) : Keep ([.board, .regs, .mem, .log, .red, .ful, .cut, .sedge, .map, .peat, .rst, .warden, .syn, .chk, .freeCtr, .outbox, .acksOut], 0x4001042510008007a5f1d3e11dfd00000001f1f7000060200000000000) s (State.redFrame s n ty f) := by
  unfold State.redFrame
  repeat' first
    | with_reducible exact Keep.refl _ _
    | with_reducible assumption
    | (with_reducible apply Keep.step; with_reducible apply State.bucketBadCrc_keep; decide)
    | (with_reducible apply Keep.step; with_reducible apply State.bucketIn_keep; decide)
    | (with_reducible apply Keep.step; with_reducible apply State.staleAt_keep; decide)
    | with_reducible apply State.recv_keep
    | with_reducible apply Keep.ite
    | (show sub _ _ = true; decide)
    | split
    | dsimp only
    | with_reducible exact Keep.id _ _
    | intro _

theorem doReducePartialFrame_keep (n : Fin 42) (f : Frame) (s : State) : OutKeep ([.board, .regs, .mem, .log, .red, .ful, .cut, .sedge, .map, .peat, .rst, .warden, .syn, .chk, .freeCtr, .outbox, .acksOut], 0x4001042510008007a5f1d3e11dfd00000001f1f7000060200000000000) s (doReducePartialFrame n f s) := by
  unfold doReducePartialFrame
  repeat' first
    | with_reducible exact Keep.refl _ _
    | with_reducible assumption
    | (with_reducible apply Keep.step; with_reducible apply State.redFrame_keep; decide)
    | with_reducible apply Keep.ite
    | with_reducible apply OutKeep.ite
    | with_reducible apply OutKeep.next
    | split
    | dsimp only

theorem doResultCopyFrame_keep (n : Fin 42) (f : Frame) (s : State) : OutKeep ([.board, .regs, .mem, .log, .red, .ful, .cut, .sedge, .map, .peat, .rst, .warden, .syn, .chk, .freeCtr, .outbox, .acksOut], 0x4001042510008007a5f1d3e11dfd00000001f1f7000060200000000000) s (doResultCopyFrame n f s) := by
  unfold doResultCopyFrame
  repeat' first
    | with_reducible exact Keep.refl _ _
    | with_reducible assumption
    | (with_reducible apply Keep.step; with_reducible apply State.redFrame_keep; decide)
    | with_reducible apply Keep.ite
    | with_reducible apply OutKeep.ite
    | with_reducible apply OutKeep.next
    | split
    | dsimp only

theorem doAllGatherDataFrame_keep (n : Fin 42) (f : Frame) (s : State) : OutKeep ([.board, .regs, .mem, .log, .red, .ful, .cut, .sedge, .map, .peat, .rst, .warden, .syn, .chk, .freeCtr, .outbox, .acksOut], 0x4001042510008007a5f1d3e11dfd00000001f1f7000060200000000000) s (doAllGatherDataFrame n f s) := by
  unfold doAllGatherDataFrame
  repeat' first
    | with_reducible exact Keep.refl _ _
    | with_reducible assumption
    | (with_reducible apply Keep.step; with_reducible apply State.redFrame_keep; decide)
    | with_reducible apply Keep.ite
    | with_reducible apply OutKeep.ite
    | with_reducible apply OutKeep.next
    | split
    | dsimp only

theorem State.takeDesc_keep (s : State) (ch : Nat) (seq : W32) (late : Bool) : Keep ([.regs, .mem, .log, .red, .sedge, .syn, .outbox], 0x4000000000000000000193e01df9000000000000000040000000000000) s (State.takeDesc s ch seq late) := by
  unfold State.takeDesc
  repeat' first
    | with_reducible exact Keep.refl _ _
    | with_reducible assumption
    | (with_reducible apply Keep.step; with_reducible apply State.abortIssued_keep; decide)
    | (with_reducible apply Keep.step; with_reducible apply State.voteAbort_keep; decide)
    | (with_reducible apply Keep.step; with_reducible apply State.keepLost_keep; decide)
    | (with_reducible apply Keep.step; with_reducible apply State.putChan_keep; decide)
    | with_reducible apply Keep.ite
    | split
    | dsimp only

theorem doBucketIssue_keep (ch : Fin 32) (s : State) : OutKeep ([.regs, .mem, .log, .red, .sedge, .syn, .outbox], 0x4000000000000000000193e01dfb000000000000000040000000000000) s (doBucketIssue ch s) := by
  unfold doBucketIssue
  repeat' first
    | with_reducible exact Keep.refl _ _
    | with_reducible assumption
    | (with_reducible apply Keep.step; with_reducible apply State.takeCount_keep; assumption; decide)
    | (with_reducible apply Keep.step; with_reducible apply State.takeDesc_keep; decide)
    | (with_reducible apply Keep.step; with_reducible apply State.putChan_keep; decide)
    | (with_reducible apply Keep.step; with_reducible apply State.bump_keep has_Fld_redCounts_lateDiscard; decide)
    | with_reducible apply Keep.ite
    | with_reducible apply OutKeep.ite
    | with_reducible apply OutKeep.next
    | split
    | dsimp only

theorem State.openXfers_keep (l : List (Bool × Bool × Nat × Dest × Nat)) (s : State) : Keep ([.red, .peat, .freeCtr], 0x0) s (State.openXfers l s).2 := by
  induction l generalizing s with
  | nil =>
    exact Keep.refl _ _
  | cons x t ih =>
    unfold State.openXfers
    repeat' first
      | with_reducible exact Keep.refl _ _
      | (with_reducible apply Keep.step; with_reducible apply ih; decide)
      | with_reducible assumption
      | (with_reducible apply Keep.step; with_reducible apply State.allocTag_keep; decide)
      | (with_reducible apply Keep.step; with_reducible apply State.stage_keep; assumption; decide)
      | with_reducible apply Keep.ite
      | split
      | dsimp only
      | (with_reducible apply Keep.step; with_reducible apply Keep.of_snd; assumption; with_reducible apply State.allocTag_keep; decide)

theorem State.startReduce_keep (s : State) (ch : Nat) (seq : W32) : Keep ([.regs, .red, .peat, .outbox], 0x0) s (State.startReduce s ch seq) := by
  unfold State.startReduce
  repeat' first
    | with_reducible exact Keep.refl _ _
    | with_reducible assumption
    | (with_reducible apply Keep.step; with_reducible apply State.ringSend_keep; decide)
    | with_reducible apply Keep.foldl
    | with_reducible apply Keep.foldl_fst
    | with_reducible apply Keep.foldl_snd
    | with_reducible apply Keep.ite
    | split
    | dsimp only
    | intro _

theorem State.startGather_keep (s : State) (ch : Nat) (seq : W32) : Keep ([.board, .regs, .mem, .log, .red, .ful, .cut, .sedge, .map, .peat, .rst, .warden, .syn, .chk, .freeCtr, .outbox, .acksOut], 0x4001002510000007a5f1d3e11df90000000001f7000060200000000000) s (State.startGather s ch seq) := by
  unfold State.startGather
  repeat' first
    | with_reducible exact Keep.refl _ _
    | with_reducible assumption
    | (with_reducible apply Keep.step; with_reducible apply State.putBucket_keep; decide)
    | (with_reducible apply Keep.step; with_reducible apply State.holdFor_keep; decide)
    | (with_reducible apply Keep.step; with_reducible apply State.redSend_keep; decide)
    | with_reducible apply Keep.foldl
    | with_reducible apply Keep.foldl_fst
    | with_reducible apply Keep.foldl_snd
    | with_reducible apply Keep.ite
    | split
    | dsimp only
    | intro _

theorem doBucketStart_keep (ch : Fin 32) (s : State) : OutKeep ([.board, .regs, .mem, .log, .red, .ful, .cut, .sedge, .map, .peat, .rst, .warden, .syn, .chk, .freeCtr, .outbox, .acksOut], 0x4001042510008007a5f1d3e13dfd00000001e1f7000060200000000000) s (doBucketStart ch s) := by
  unfold doBucketStart
  repeat' first
    | with_reducible exact Keep.refl _ _
    | with_reducible assumption
    | (with_reducible apply Keep.step; with_reducible apply State.startGather_keep; decide)
    | (with_reducible apply Keep.step; with_reducible apply State.abortIssued_keep; decide)
    | (with_reducible apply Keep.step; with_reducible apply State.startReduce_keep; decide)
    | (with_reducible apply Keep.step; with_reducible apply State.openXfers_keep; decide)
    | (with_reducible apply Keep.step; with_reducible apply State.checkGone_keep; decide)
    | (with_reducible apply Keep.step; with_reducible apply State.bucketIn_keep; decide)
    | (with_reducible apply Keep.step; with_reducible apply State.pickFree_keep; decide)
    | (with_reducible apply Keep.step; with_reducible apply State.putChan_keep; decide)
    | (with_reducible apply Keep.step; with_reducible apply State.putPort_keep; decide)
    | (with_reducible apply Keep.step; with_reducible apply State.direct_keep; decide)
    | (with_reducible apply Keep.step; with_reducible apply State.bump_keep has_Fld_redTags_waits; decide)
    | with_reducible apply Keep.foldl
    | with_reducible apply Keep.foldl_fst
    | with_reducible apply Keep.foldl_snd
    | fail_if_no_progress (with_reducible apply Keep.step; with_reducible apply keep_red; decide)
    | with_reducible apply Keep.ite
    | with_reducible apply OutKeep.ite
    | with_reducible apply OutKeep.next
    | split
    | dsimp only
    | intro _
    | (with_reducible apply Keep.step; with_reducible apply Keep.of_snd; assumption; with_reducible apply State.openXfers_keep; decide)
    | (with_reducible apply Keep.step; with_reducible apply Keep.of_snd; assumption; with_reducible apply State.pickFree_keep; decide)

theorem State.doneStatus_keep (s : State) (b : Bucket) (nf : Option Nat) : Keep ([.freeCtr], 0x0) s (State.doneStatus s b nf).2 := by
  unfold State.doneStatus
  repeat' first
    | with_reducible exact Keep.refl _ _
    | with_reducible assumption
    | (with_reducible apply Keep.step; with_reducible apply State.pickBool_keep; decide)
    | with_reducible apply Keep.ite
    | split
    | dsimp only
    | (with_reducible apply Keep.step; with_reducible apply Keep.of_snd; assumption; with_reducible apply State.pickBool_keep; decide)

theorem doBucketComplete_keep (ch : Fin 32) (s : State) : OutKeep ([.regs, .mem, .red, .sedge, .warden, .syn, .freeCtr, .outbox], 0x4000000000000000000193e01df9000000000000000000000000000000) s (doBucketComplete ch s) := by
  unfold doBucketComplete
  repeat' first
    | with_reducible exact Keep.refl _ _
    | with_reducible assumption
    | (with_reducible apply Keep.step; with_reducible apply State.doneStatus_keep; decide)
    | (with_reducible apply Keep.step; with_reducible apply State.putBucket_keep; decide)
    | (with_reducible apply Keep.step; with_reducible apply State.flushOver_keep; decide)
    | (with_reducible apply Keep.step; with_reducible apply State.bucketEnd_keep; decide)
    | (with_reducible apply Keep.step; with_reducible apply State.keepEnd_keep; decide)
    | (with_reducible apply Keep.step; with_reducible apply State.direct_keep; decide)
    | (with_reducible apply Keep.step; with_reducible apply State.sweep_keep; decide)
    | (with_reducible apply Keep.step; with_reducible apply State.hold_keep; decide)
    | with_reducible apply Keep.ite
    | with_reducible apply OutKeep.ite
    | with_reducible apply OutKeep.next
    | split
    | dsimp only
    | (with_reducible apply Keep.step; with_reducible apply Keep.of_snd; assumption; with_reducible apply State.doneStatus_keep; decide)
    | (with_reducible apply Keep.step; with_reducible apply Keep.of_fst; assumption; with_reducible apply State.hold_keep; decide)

theorem State.streamAgain_keep (s : State) (ch : Nat) (seq : W32) : Keep ([.red], 0x0) s (State.streamAgain s ch seq) := by
  unfold State.streamAgain
  repeat' first
    | with_reducible exact Keep.refl _ _
    | with_reducible assumption
    | (with_reducible apply Keep.step; with_reducible apply State.putChan_keep; decide)
    | with_reducible apply Keep.ite
    | split
    | dsimp only

theorem doReductionStreamWatchdog_keep (ch : Fin 32) (race : Race) (s : State) : OutKeep ([.board, .regs, .mem, .log, .red, .ful, .cut, .sedge, .map, .peat, .rst, .warden, .syn, .chk, .freeCtr, .outbox, .acksOut], 0x4001002510000007a5f1d3e11dfd0000000001f7000060200000300000) s (doReductionStreamWatchdog ch race s) := by
  unfold doReductionStreamWatchdog
  repeat' first
    | with_reducible exact Keep.refl _ _
    | with_reducible assumption
    | (with_reducible apply Keep.step; with_reducible apply State.abortIssued_keep; decide)
    | (with_reducible apply Keep.step; with_reducible apply State.streamAgain_keep; decide)
    | (with_reducible apply Keep.step; with_reducible apply State.abortBucket_keep; decide)
    | (with_reducible apply Keep.step; with_reducible apply State.logRace_keep; decide)
    | with_reducible apply Keep.ite
    | with_reducible apply OutKeep.ite
    | with_reducible apply OutKeep.next
    | split
    | dsimp only

theorem State.fetchReq_keep (s : State) (ch : Nat) (seq stepLo : W32) (tag : Nat) (gen : BitVec 4) (rack : BitVec 10) (pos : BitVec 7) (stage : Bool) (rg : Nat × Nat) : Keep ([.peat, .outbox], 0x0) s (State.fetchReq s ch seq stepLo tag gen rack pos stage rg) := by
  unfold State.fetchReq
  repeat' first
    | with_reducible exact Keep.refl _ _
    | with_reducible assumption
    | (with_reducible apply Keep.step; with_reducible apply State.sendTo_keep; decide)
    | (with_reducible apply Keep.step; with_reducible apply State.stage_keep; assumption; decide)
    | with_reducible apply Keep.ite
    | split
    | dsimp only

theorem State.fetchBackup_keep (s : State) (ch : Nat) (b : Bucket) : Keep ([.red, .peat, .freeCtr, .outbox], 0x0) s (State.fetchBackup s ch b) := by
  unfold State.fetchBackup
  repeat' first
    | with_reducible exact Keep.refl _ _
    | with_reducible assumption
    | (with_reducible apply Keep.step; with_reducible apply State.allocTag_keep; decide)
    | (with_reducible apply Keep.step; with_reducible apply State.fetchReq_keep; decide)
    | (with_reducible apply Keep.step; with_reducible apply State.putChan_keep; decide)
    | with_reducible apply Keep.ite
    | split
    | dsimp only
    | (with_reducible apply Keep.step; with_reducible apply Keep.of_snd; assumption; with_reducible apply State.allocTag_keep; decide)

theorem doContribWatchdogExpiry_keep (ch : Fin 32) (race : Race) (s : State) : OutKeep ([.regs, .mem, .log, .red, .sedge, .peat, .syn, .freeCtr, .outbox], 0x4000000000000000000193e01df9000000000000000040000000300000) s (doContribWatchdogExpiry ch race s) := by
  unfold doContribWatchdogExpiry
  repeat' first
    | with_reducible exact Keep.refl _ _
    | with_reducible assumption
    | (with_reducible apply Keep.step; with_reducible apply State.fetchBackup_keep; decide)
    | (with_reducible apply Keep.step; with_reducible apply State.takeDesc_keep; decide)
    | (with_reducible apply Keep.step; with_reducible apply State.logRace_keep; decide)
    | (with_reducible apply Keep.step; with_reducible apply State.putChan_keep; decide)
    | with_reducible apply Keep.ite
    | with_reducible apply OutKeep.ite
    | with_reducible apply OutKeep.next
    | split
    | dsimp only

theorem State.fetchServe_keep (s : State) (f : Frame) : Keep ([.regs, .peat, .outbox], 0x0) s (State.fetchServe s f) := by
  unfold State.fetchServe
  repeat' first
    | with_reducible exact Keep.refl _ _
    | with_reducible assumption
    | (with_reducible apply Keep.step; with_reducible apply State.sendTo_keep; decide)
    | (with_reducible apply Keep.step; with_reducible apply State.stage_keep; assumption; decide)
    | with_reducible apply Keep.foldl
    | with_reducible apply Keep.foldl_fst
    | with_reducible apply Keep.foldl_snd
    | with_reducible apply Keep.ite
    | split
    | dsimp only
    | intro _

theorem doFetchRequestFrame_keep (n : Fin 42) (f : Frame) (s : State) : OutKeep ([.regs, .peat, .outbox], 0x5000000000000000000000) s (doFetchRequestFrame n f s) := by
  unfold doFetchRequestFrame
  repeat' first
    | with_reducible exact Keep.refl _ _
    | with_reducible assumption
    | (with_reducible apply Keep.step; with_reducible apply State.fetchServe_keep; decide)
    | (with_reducible apply Keep.step; with_reducible apply State.staleAt_keep; decide)
    | with_reducible apply State.recv_keep
    | with_reducible apply Keep.ite
    | with_reducible apply OutKeep.ite
    | with_reducible apply OutKeep.next
    | (show sub _ _ = true; decide)
    | split
    | dsimp only
    | with_reducible exact Keep.id _ _
    | intro _

theorem State.fetchOver_keep (s : State) (tag : Nat) : Keep ([.red], 0x0) s (State.fetchOver s tag) := by
  unfold State.fetchOver
  repeat' first
    | with_reducible exact Keep.refl _ _
    | with_reducible assumption
    | fail_if_no_progress (with_reducible apply Keep.step; with_reducible apply keep_red; decide)
    | with_reducible apply Keep.ite
    | split
    | dsimp only

theorem State.backupIn_keep (s : State) (n : Nat) (f : Frame) (b : Bucket) : Keep ([.regs, .mem, .log, .red, .sedge, .peat, .syn, .outbox], 0x4000000000000000000193e01df9000000006000000040000000000000) s (State.backupIn s n f b) := by
  unfold State.backupIn
  repeat' first
    | with_reducible exact Keep.refl _ _
    | with_reducible assumption
    | (with_reducible apply Keep.step; with_reducible apply State.abortIssued_keep; decide)
    | (with_reducible apply Keep.step; with_reducible apply State.fetchOver_keep; decide)
    | (with_reducible apply Keep.step; with_reducible apply State.staleAt_keep; decide)
    | (with_reducible apply Keep.step; with_reducible apply State.putChan_keep; decide)
    | (with_reducible apply Keep.step; with_reducible apply State.stage_keep; assumption; decide)
    | (with_reducible apply Keep.step; with_reducible apply State.bump_keep (has_Fld_lnkDrop_long _); decide)
    | with_reducible apply Keep.foldl
    | with_reducible apply Keep.foldl_fst
    | with_reducible apply Keep.foldl_snd
    | with_reducible apply Keep.ite
    | split
    | dsimp only
    | intro _

theorem State.catchUpIn_keep (s : State) (n : Nat) (f : Frame) (b : Bucket) : Keep ([.board, .regs, .mem, .log, .red, .ful, .cut, .sedge, .map, .peat, .rst, .warden, .syn, .chk, .freeCtr, .outbox, .acksOut], 0x4001002510000007a5f1d3e11dfd0000000061f7000060200000000000) s (State.catchUpIn s n f b) := by
  unfold State.catchUpIn
  repeat' first
    | with_reducible exact Keep.refl _ _
    | with_reducible assumption
    | (with_reducible apply Keep.step; with_reducible apply State.putBucket_keep; decide)
    | (with_reducible apply Keep.step; with_reducible apply State.longFrame_keep; decide)
    | (with_reducible apply Keep.step; with_reducible apply State.fetchOver_keep; decide)
    | (with_reducible apply Keep.step; with_reducible apply State.holdFor_keep; decide)
    | (with_reducible apply Keep.step; with_reducible apply State.staleAt_keep; decide)
    | (with_reducible apply Keep.step; with_reducible apply State.stage_keep; assumption; decide)
    | with_reducible apply Keep.ite
    | split
    | dsimp only

theorem doFetchDataFrame_keep (n : Fin 42) (f : Frame) (s : State) : OutKeep ([.board, .regs, .mem, .log, .red, .ful, .cut, .sedge, .map, .peat, .rst, .warden, .syn, .chk, .freeCtr, .outbox, .acksOut], 0x4001002510000007a5f1d3e11dfd0000000071f7000060200000000000) s (doFetchDataFrame n f s) := by
  unfold doFetchDataFrame
  repeat' first
    | with_reducible exact Keep.refl _ _
    | with_reducible assumption
    | (with_reducible apply Keep.step; with_reducible apply State.bucketBadCrc_keep; decide)
    | (with_reducible apply Keep.step; with_reducible apply State.catchUpIn_keep; decide)
    | (with_reducible apply Keep.step; with_reducible apply State.backupIn_keep; decide)
    | (with_reducible apply Keep.step; with_reducible apply State.staleAt_keep; decide)
    | with_reducible apply State.recv_keep
    | with_reducible apply Keep.ite
    | with_reducible apply OutKeep.ite
    | with_reducible apply OutKeep.next
    | (show sub _ _ = true; decide)
    | split
    | dsimp only
    | with_reducible exact Keep.id _ _
    | intro _

theorem State.fetchNow_keep (s : State) (ch : Nat) (seq : W32) : Keep ([.red, .peat, .rst, .freeCtr, .outbox], 0x0) s (State.fetchNow s ch seq) := by
  unfold State.fetchNow
  repeat' first
    | with_reducible exact Keep.refl _ _
    | with_reducible assumption
    | (with_reducible apply Keep.step; with_reducible apply State.putBucket_keep; decide)
    | (with_reducible apply Keep.step; with_reducible apply State.allocTag_keep; decide)
    | (with_reducible apply Keep.step; with_reducible apply State.fetchReq_keep; decide)
    | (with_reducible apply Keep.step; with_reducible apply State.ask_keep; decide)
    | with_reducible apply Keep.foldl
    | with_reducible apply Keep.foldl_fst
    | with_reducible apply Keep.foldl_snd
    | with_reducible apply Keep.ite
    | split
    | dsimp only
    | intro _
    | (with_reducible apply Keep.step; with_reducible apply Keep.of_snd; assumption; with_reducible apply State.allocTag_keep; decide)

theorem doDropNotice_keep (n : Fin 42) (f : Frame) (s : State) : OutKeep ([.regs, .red, .sedge, .peat, .rst, .freeCtr, .outbox], 0x200000000005000000000000000000000) s (doDropNotice n f s) := by
  unfold doDropNotice
  repeat' first
    | with_reducible exact Keep.refl _ _
    | with_reducible assumption
    | (with_reducible apply Keep.step; with_reducible apply State.putBucket_keep; decide)
    | (with_reducible apply Keep.step; with_reducible apply State.fetchNow_keep; decide)
    | (with_reducible apply Keep.step; with_reducible apply State.keepEnd_keep; decide)
    | (with_reducible apply Keep.step; with_reducible apply State.staleAt_keep; decide)
    | (with_reducible apply Keep.step; with_reducible apply State.stage_keep; assumption; decide)
    | (with_reducible apply Keep.step; with_reducible apply State.raise_keep has_Fld_redErrStatus_rcvDropped; decide)
    | with_reducible apply State.recv_keep
    | with_reducible apply Keep.ite
    | with_reducible apply OutKeep.ite
    | with_reducible apply OutKeep.next
    | (show sub _ _ = true; decide)
    | split
    | dsimp only
    | with_reducible exact Keep.id _ _
    | intro _

theorem State.onMcast_keep (s : State) (ch : Nat) (seq : W32) (port : Nat) (f : Mcast → Mcast) : Keep ([.red], 0x0) s (State.onMcast s ch seq port f) := by
  unfold State.onMcast
  repeat' first
    | with_reducible exact Keep.refl _ _
    | with_reducible assumption
    | (with_reducible apply Keep.step; with_reducible apply State.putBucket_keep; decide)
    | with_reducible apply Keep.ite
    | split
    | dsimp only

theorem doMcastAck_keep (ch : Fin 32) (seq : W32) (port : Fin 36) (pos : BitVec 7) (bytes : Nat) (last : Bool) (s : State) : OutKeep ([.regs, .red, .peat, .outbox], 0x0) s (doMcastAck ch seq port pos bytes last s) := by
  unfold doMcastAck
  repeat' first
    | with_reducible exact Keep.refl _ _
    | with_reducible assumption
    | (with_reducible apply Keep.step; with_reducible apply State.mcastPort_keep; decide)
    | (with_reducible apply Keep.step; with_reducible apply State.mcastDone_keep; decide)
    | (with_reducible apply Keep.step; with_reducible apply State.onMcast_keep; decide)
    | with_reducible apply Keep.ite
    | with_reducible apply OutKeep.ite
    | with_reducible apply OutKeep.next
    | split
    | dsimp only

theorem doMcastStallExpiry_keep (ch : Fin 32) (port : Fin 36) (pos : BitVec 7) (race : Race) (s : State) : OutKeep ([.regs, .log, .red, .peat, .outbox], 0x40000000300000) s (doMcastStallExpiry ch port pos race s) := by
  unfold doMcastStallExpiry
  repeat' first
    | with_reducible exact Keep.refl _ _
    | with_reducible assumption
    | (with_reducible apply Keep.step; with_reducible apply State.mcastDone_keep; decide)
    | (with_reducible apply Keep.step; with_reducible apply State.mcastPort_keep; decide)
    | (with_reducible apply Keep.step; with_reducible apply State.logRace_keep; decide)
    | (with_reducible apply Keep.step; with_reducible apply State.onMcast_keep; decide)
    | (with_reducible apply Keep.step; with_reducible apply State.sendTo_keep; decide)
    | (with_reducible apply Keep.step; with_reducible apply State.stage_keep; assumption; decide)
    | with_reducible apply Keep.ite
    | with_reducible apply OutKeep.ite
    | with_reducible apply OutKeep.next
    | split
    | dsimp only

theorem State.abortNoticeIn_keep (s : State) (n : Fin 42) (f : Frame) : Keep ([.board, .regs, .mem, .log, .red, .ful, .cut, .sedge, .map, .peat, .rst, .warden, .syn, .chk, .freeCtr, .outbox, .acksOut], 0x4001002510000007a5f1d3e11dfd0000000041f7000060200000000000) s (State.abortNoticeIn s n f) := by
  unfold State.abortNoticeIn
  repeat' first
    | with_reducible exact Keep.refl _ _
    | with_reducible assumption
    | (with_reducible apply Keep.step; with_reducible apply State.abortBucket_keep; decide)
    | (with_reducible apply Keep.step; with_reducible apply State.sendAborts_keep; decide)
    | (with_reducible apply Keep.step; with_reducible apply State.abortChan_keep; decide)
    | (with_reducible apply Keep.step; with_reducible apply State.noticed_keep; decide)
    | (with_reducible apply Keep.step; with_reducible apply State.staleAt_keep; decide)
    | (with_reducible apply Keep.step; with_reducible apply State.raiseIf_keep has_Fld_redErrStatus_abortNotice; decide)
    | with_reducible apply Keep.ite
    | split
    | dsimp only

theorem execLinkLastAck_keep (tag : BitVec 20) (s : State) : OutKeep ([.red], 0x0) s (execLinkLastAck tag s) := by
  unfold execLinkLastAck
  repeat' first
    | with_reducible exact Keep.refl _ _
    | with_reducible assumption
    | (with_reducible apply Keep.step; with_reducible apply State.releaseTag_keep; decide)
    | with_reducible apply Keep.ite
    | with_reducible apply OutKeep.ite
    | with_reducible apply OutKeep.next
    | split
    | dsimp only

theorem State.fetchesNow_keep (s : State) : Keep ([.red, .peat, .rst, .freeCtr, .outbox], 0x0) s (State.fetchesNow s) := by
  unfold State.fetchesNow
  repeat' first
    | with_reducible exact Keep.refl _ _
    | with_reducible assumption
    | (with_reducible apply Keep.step; with_reducible apply State.fetchNow_keep; decide)
    | with_reducible apply Keep.foldl
    | with_reducible apply Keep.foldl_fst
    | with_reducible apply Keep.foldl_snd
    | with_reducible apply Keep.ite
    | split
    | dsimp only
    | intro _

theorem execTagQuarantineExpiry_keep (tag : BitVec 20) (s : State) : OutKeep ([.red, .peat, .rst, .freeCtr, .outbox], 0x0) s (execTagQuarantineExpiry tag s) := by
  unfold execTagQuarantineExpiry
  repeat' first
    | with_reducible exact Keep.refl _ _
    | with_reducible assumption
    | (with_reducible apply Keep.step; with_reducible apply State.fetchesNow_keep; decide)
    | fail_if_no_progress (with_reducible apply Keep.step; with_reducible apply keep_red; decide)
    | with_reducible apply Keep.ite
    | with_reducible apply OutKeep.ite
    | with_reducible apply OutKeep.next
    | split
    | dsimp only

theorem doVoteArrival_keep (s : State) : OutKeep ([.board, .regs, .mem, .log, .red, .ful, .cut, .sedge, .map, .rst, .warden, .syn, .chk, .freeCtr, .outbox], 0x4001002510000007a5f1d3e11df90000000001f7000060200000000000) s (doVoteArrival s) := by
  unfold doVoteArrival
  repeat' first
    | with_reducible exact Keep.refl _ _
    | with_reducible assumption
    | (with_reducible apply Keep.step; with_reducible apply State.barArrive_keep; decide)
    | (with_reducible apply Keep.step; with_reducible apply State.onFul_keep; decide)
    | fail_if_no_progress (with_reducible apply Keep.step; with_reducible apply keep_red; decide)
    | with_reducible apply Keep.ite
    | with_reducible apply OutKeep.ite
    | with_reducible apply OutKeep.next
    | split
    | dsimp only

theorem State.place'_keep (s : State) (ch : Nat) : Keep ([.placed], 0x0) s (State.place' s ch) := by
  unfold State.place'
  repeat' first
    | with_reducible exact Keep.refl _ _
    | with_reducible assumption
    | with_reducible apply Keep.foldl
    | with_reducible apply Keep.foldl_fst
    | with_reducible apply Keep.foldl_snd
    | fail_if_no_progress (with_reducible apply Keep.step; with_reducible apply keep_placed; decide)
    | with_reducible apply Keep.ite
    | split
    | dsimp only
    | intro _

theorem State.redChWrite_keep (s : State) (ch value : Nat) : Keep ([.regs, .log, .placed, .red], 0x40800000000001) s (State.redChWrite s ch value) := by
  unfold State.redChWrite
  repeat' first
    | with_reducible exact Keep.refl _ _
    | with_reducible assumption
    | (with_reducible apply Keep.step; with_reducible apply State.accessError_keep; decide)
    | (with_reducible apply Keep.step; with_reducible apply State.putChan_keep; decide)
    | (with_reducible apply Keep.step; with_reducible apply State.place'_keep; decide)
    | (with_reducible apply Keep.step; with_reducible apply State.writePlain_keep (hasReg_all _); decide)
    | with_reducible apply Keep.ite
    | split
    | dsimp only
    | (with_reducible apply Keep.step; with_reducible apply Keep.of_fst; assumption; with_reducible apply State.writePlain_keep (hasReg_all _); decide)

theorem State.cfgStage_keep (s : State) (off : Nat) (v : W64) : Keep ([.red], 0) s (s.cfgStage off v) := keep_red s _

theorem State.applyReg_keep {m off : Nat} (hf : HasReg m off) (s : State) : Keep ([.regs], m) s (s.applyReg off) := by
  unfold State.applyReg
  split
  · exact State.setReg_keep hf s _
  · exact Keep.refl _ _

theorem State.cfgWr_keep {m : Nat} {f : Fld} (hf : Has m f) (s : State) (v : Nat) : Keep ([.regs, .red], m) s (s.cfgWr f v) := by
  unfold State.cfgWr
  split
  · exact Keep.step (State.cfgStage_keep s _ _) (by simp [sub]) (Keep.refl _ _)
  · exact Keep.step (State.wr_keep hf s v) (by simp [sub]) (Keep.refl _ _)

theorem State.cfgRename_keep {m : Nat} {f : Fld} (hf : Has m f) (s : State) (a b : Nat) : Keep ([.regs, .red], m) s (s.cfgRename f a b) := by
  unfold State.cfgRename
  split
  · exact State.cfgWr_keep hf s _
  · exact Keep.refl _ _

theorem State.cfgClearBit_keep {m : Nat} {f : Fld} (hf : Has m f) (s : State) (k : Nat) : Keep ([.regs, .red], m) s (s.cfgClearBit f k) :=
  State.cfgWr_keep hf s _




theorem State.cfgInstall_keep (s : State) (off : Nat) (fields : List FieldRow) (w : Nat) : Keep ([.regs, .red], 0x10000000000000000000000000000) s (State.cfgInstall s off fields w) := by
  unfold State.cfgInstall
  repeat' first
    | with_reducible exact Keep.refl _ _
    | with_reducible assumption
    | (with_reducible apply Keep.step; with_reducible apply State.cfgStage_keep; decide)
    | (with_reducible apply Keep.step; with_reducible apply State.wr_keep (has_Fld_redChCfg_enable _); decide)
    | with_reducible apply Keep.ite
    | split
    | dsimp only


theorem State.applyCh_keep (s : State) (ch : Nat) : Keep ([.regs], 0x3f80000000000000000000000000010000000000000000000000000000) s (State.applyCh s ch) := by
  unfold State.applyCh
  repeat' first
    | with_reducible exact Keep.refl _ _
    | with_reducible assumption
    | (with_reducible apply Keep.step; with_reducible apply State.applyReg_keep (has_Reg_redChBackup _); decide)
    | (with_reducible apply Keep.step; with_reducible apply State.applyReg_keep (has_Reg_redChCfg _); decide)
    | (with_reducible apply Keep.step; with_reducible apply State.applyReg_keep (has_Reg_redChDesc _); decide)
    | (with_reducible apply Keep.step; with_reducible apply State.applyReg_keep (has_Reg_redChKeep _); decide)
    | (with_reducible apply Keep.step; with_reducible apply State.applyReg_keep (has_Reg_redChPorts _); decide)
    | (with_reducible apply Keep.step; with_reducible apply State.applyReg_keep (has_Reg_redChRepl _); decide)
    | (with_reducible apply Keep.step; with_reducible apply State.applyReg_keep (has_Reg_redChSync _); decide)
    | (with_reducible apply Keep.step; with_reducible apply State.wr_keep (has_Fld_redChCfg_enable _); decide)
    | with_reducible apply Keep.ite
    | split
    | dsimp only

theorem State.applyStaged_keep (s : State) : Keep ([.regs, .red], 0x3f80000000000000000000000000010000000000000000000000000000) s (State.applyStaged s) := by
  unfold State.applyStaged
  repeat' first
    | with_reducible exact Keep.refl _ _
    | with_reducible assumption
    | (with_reducible apply Keep.step; with_reducible apply State.applyCh_keep; decide)
    | with_reducible apply Keep.foldl
    | with_reducible apply Keep.foldl_fst
    | with_reducible apply Keep.foldl_snd
    | fail_if_no_progress (with_reducible apply Keep.step; with_reducible apply keep_red; decide)
    | with_reducible apply Keep.ite
    | split
    | dsimp only
    | intro _

theorem State.redReleased_keep (s : State) : Keep ([.regs, .red], 0x3f80000000000000000000000000010000000000000000000000000000) s (State.redReleased s) := by
  unfold State.redReleased
  repeat' first
    | with_reducible exact Keep.refl _ _
    | with_reducible assumption
    | (with_reducible apply Keep.step; with_reducible apply State.applyStaged_keep; decide)
    | fail_if_no_progress (with_reducible apply Keep.step; with_reducible apply keep_red; decide)
    | with_reducible apply Keep.ite
    | split
    | dsimp only

theorem execRedChEnable_keep (ch : Fin 32) (value : W64) (s : State) : OutKeep ([.regs, .log, .placed, .red], 0x40800000000001) s (execRedChEnable ch value s) := by
  unfold execRedChEnable
  repeat' first
    | with_reducible exact Keep.refl _ _
    | with_reducible assumption
    | (with_reducible apply Keep.step; with_reducible apply State.redChWrite_keep; decide)
    | with_reducible apply Keep.ite
    | with_reducible apply OutKeep.ite
    | with_reducible apply OutKeep.next
    | split
    | dsimp only

theorem execRedChDisable_keep (ch : Fin 32) (value : W64) (s : State) : OutKeep ([.regs, .log, .placed, .red], 0x40800000000001) s (execRedChDisable ch value s) := by
  unfold execRedChDisable
  repeat' first
    | with_reducible exact Keep.refl _ _
    | with_reducible assumption
    | (with_reducible apply Keep.step; with_reducible apply State.redChWrite_keep; decide)
    | with_reducible apply Keep.ite
    | with_reducible apply OutKeep.ite
    | with_reducible apply OutKeep.next
    | split
    | dsimp only

end Sys2Proof.Machine
end

