-- ==== Sys2Proof/Laws/KeepSync.lean ====
section
/-! SUPPORT. What each operation of Machine/Sync.lean can do: one lemma for each (`Keep`). -/
namespace Sys2Proof.Machine

set_option linter.all false

theorem State.unheld_keep (s : State) (before : State) : Keep ([.board, .regs, .mem, .log, .red, .ful, .cut, .sedge, .map, .rst, .warden, .syn, .chk, .freeCtr, .outbox], 0x4001002510000007a5f1d3e11df90000000001f7000060200000000000) s (State.unheld s before) := by
  unfold State.unheld
  repeat' first
    | with_reducible exact Keep.refl _ _
    | with_reducible assumption
    | (with_reducible apply Keep.step; with_reducible apply State.cutFlush_keep; decide)
    | with_reducible apply Keep.ite
    | split
    | dsimp only

theorem State.flagOp_keep (s : State) (flag op : Nat) : Keep ([.regs, .mem, .log, .syn], 0x53e10000000000000000000040800000000000) s (State.flagOp s flag op) := by
  unfold State.flagOp
  repeat' first
    | with_reducible exact Keep.refl _ _
    | with_reducible assumption
    | (with_reducible apply Keep.step; with_reducible apply State.clearFlagNow_keep; decide)
    | (with_reducible apply Keep.step; with_reducible apply State.accessError_keep; decide)
    | (with_reducible apply Keep.step; with_reducible apply State.setFlagNow_keep; decide)
    | with_reducible apply Keep.ite
    | split
    | dsimp only
    | (with_reducible apply Keep.step; with_reducible apply Keep.of_fst; assumption; with_reducible apply State.setFlagNow_keep; decide)

theorem State.produceWrite_keep (s : State) (pair n : Nat) : Keep ([.regs, .mem, .log, .syn], 0x193e00000000000000000000040800000000000) s (State.produceWrite s pair n) := by
  unfold State.produceWrite
  repeat' first
    | with_reducible exact Keep.refl _ _
    | with_reducible assumption
    | (with_reducible apply Keep.step; with_reducible apply State.accessError_keep; decide)
    | (with_reducible apply Keep.step; with_reducible apply State.produceNow_keep; decide)
    | with_reducible apply Keep.ite
    | split
    | dsimp only
    | (with_reducible apply Keep.step; with_reducible apply Keep.of_fst; assumption; with_reducible apply State.produceNow_keep; decide)

theorem State.consumeWrite_keep (s : State) (pair n : Nat) : Keep ([.regs, .mem, .log, .syn], 0x33e80000000000000000000040800000000000) s (State.consumeWrite s pair n) := by
  unfold State.consumeWrite
  repeat' first
    | with_reducible exact Keep.refl _ _
    | with_reducible assumption
    | (with_reducible apply Keep.step; with_reducible apply State.accessError_keep; decide)
    | (with_reducible apply Keep.step; with_reducible apply State.consumeNow_keep; decide)
    | with_reducible apply Keep.ite
    | split
    | dsimp only
    | (with_reducible apply Keep.step; with_reducible apply Keep.of_fst; assumption; with_reducible apply State.consumeNow_keep; decide)

theorem State.pairInit_keep (s : State) (pair v : Nat) (hv : v < 2 ^ 48) : Keep ([.regs, .mem, .log, .syn], 0x13e00000000000000000000040800000000000) s (s.pairInit pair v) := by
  have h : Keep ([.regs, .mem, .log, .syn], 0x13e00000000000000000000040800000000000) s (s.putPair pair { s.pair pair with p := v, c := v }) := by
    refine Keep.step (State.putPair_keep _ _ _ (fun _ => ?_)) (by decide) (Keep.refl _ _)
    simp only [Pair.ok, Bool.and_eq_true, decide_eq_true_eq]
    omega
  unfold State.pairInit
  split
  · dsimp only
    split
    · exact h
    · exact Keep.step (State.serve_keep _ _ _) (by decide) h
  · exact Keep.step (State.accessError_keep _ _ _ _) (by decide) (Keep.refl _ _)

theorem State.pairDepth_keep (s : State) (pair v : Nat) : Keep ([.regs, .mem, .log, .syn], 0x13e00000000000000000000040800000000000) s (s.pairDepth pair v) := by
  unfold State.pairDepth
  dsimp only
  split
  · exact Keep.step (State.accessError_keep _ _ _ _) (by decide) (Keep.refl _ _)
  · rename_i hv
    have h : Keep ([.regs, .mem, .log, .syn], 0x13e00000000000000000000040800000000000) s (s.putPair pair { s.pair pair with depth := v }) := by
      refine Keep.step (State.putPair_keep _ _ _ (fun hi => ?_)) (by decide) (Keep.refl _ _)
      have := State.pair_ok hi pair
      simp only [Pair.ok, Bool.and_eq_true, decide_eq_true_eq] at *
      simp only [Pair.avail] at *
      omega
    split
    · exact h
    · exact Keep.step (State.serve_keep _ _ _) (by decide) h

theorem execFlagSet_keep (flag : BitVec 10) (s : State) : OutKeep ([.regs, .mem, .log, .syn], 0x53e10000000000000000000040800000000000) s (execFlagSet flag s) := by
  unfold execFlagSet
  repeat' first
    | with_reducible exact Keep.refl _ _
    | with_reducible assumption
    | (with_reducible apply Keep.step; with_reducible apply State.flagOp_keep; decide)
    | with_reducible apply Keep.ite
    | with_reducible apply OutKeep.ite
    | with_reducible apply OutKeep.next
    | split
    | dsimp only

theorem execFlagClear_keep (flag : BitVec 10) (s : State) : OutKeep ([.regs, .mem, .log, .syn], 0x53e10000000000000000000040800000000000) s (execFlagClear flag s) := by
  unfold execFlagClear
  repeat' first
    | with_reducible exact Keep.refl _ _
    | with_reducible assumption
    | (with_reducible apply Keep.step; with_reducible apply State.flagOp_keep; decide)
    | with_reducible apply Keep.ite
    | with_reducible apply OutKeep.ite
    | with_reducible apply OutKeep.next
    | split
    | dsimp only

theorem execProduce_keep (pair : BitVec 9) (count : W32) (s : State) : OutKeep ([.board, .regs, .mem, .log, .red, .ful, .cut, .sedge, .map, .rst, .warden, .syn, .chk, .freeCtr, .outbox], 0x4001002510000007a5f1d3e11df90000000001f7000060a00000000000) s (execProduce pair count s) := by
  unfold execProduce
  repeat' first
    | with_reducible exact Keep.refl _ _
    | with_reducible assumption
    | (with_reducible apply Keep.step; with_reducible apply State.produceWrite_keep; decide)
    | (with_reducible apply Keep.step; with_reducible apply State.unheld_keep; decide)
    | with_reducible apply Keep.ite
    | with_reducible apply OutKeep.ite
    | with_reducible apply OutKeep.next
    | split
    | dsimp only

theorem execConsume_keep (pair : BitVec 9) (count : W32) (s : State) : OutKeep ([.board, .regs, .mem, .log, .red, .ful, .cut, .sedge, .map, .rst, .warden, .syn, .chk, .freeCtr, .outbox], 0x4001002510000007a5f1f3e91df90000000001f7000060a00000000000) s (execConsume pair count s) := by
  unfold execConsume
  repeat' first
    | with_reducible exact Keep.refl _ _
    | with_reducible assumption
    | (with_reducible apply Keep.step; with_reducible apply State.consumeWrite_keep; decide)
    | (with_reducible apply Keep.step; with_reducible apply State.unheld_keep; decide)
    | with_reducible apply Keep.ite
    | with_reducible apply OutKeep.ite
    | with_reducible apply OutKeep.next
    | split
    | dsimp only

theorem execPairInit_keep (pair : BitVec 9) (value : BitVec 48) (s : State) : OutKeep ([.board, .regs, .mem, .log, .red, .ful, .cut, .sedge, .map, .rst, .warden, .syn, .chk, .freeCtr, .outbox], 0x4001002510000007a5f1d3e11df90000000001f7000060a00000000000) s (execPairInit pair value s) := by
  unfold execPairInit
  split
  · exact OutKeep.next (Keep.refl _ _)
  · exact OutKeep.next (Keep.step (State.unheld_keep _ _) (by decide) (Keep.step (State.pairInit_keep _ _ _ value.isLt) (by decide) (Keep.refl _ _)))

theorem State.fenceWrite_keep (s : State) (token : BitVec 16) (obj op count : Nat) : Keep ([.regs, .log, .syn], 0x40800000000000) s (State.fenceWrite s token obj op count) := by
  unfold State.fenceWrite
  repeat' first
    | with_reducible exact Keep.refl _ _
    | with_reducible assumption
    | (with_reducible apply Keep.step; with_reducible apply State.accessError_keep; decide)
    | (with_reducible apply Keep.step; with_reducible apply State.onSyn_keep; intro _; rfl; decide)
    | with_reducible apply Keep.ite
    | split
    | dsimp only

theorem execSynFence_keep (token : BitVec 16) (object : BitVec 10) (op : BitVec 2) (count : BitVec 16) (s : State) : OutKeep ([.regs, .log, .syn], 0x40800000000000) s (execSynFence token object op count s) := by
  unfold execSynFence
  repeat' first
    | with_reducible exact Keep.refl _ _
    | with_reducible assumption
    | (with_reducible apply Keep.step; with_reducible apply State.fenceWrite_keep; decide)
    | with_reducible apply Keep.ite
    | with_reducible apply OutKeep.ite
    | with_reducible apply OutKeep.next
    | split
    | dsimp only

theorem State.fenceSignal_keep (s : State) (f : Fence) : Keep ([.regs, .mem, .syn], 0x1d3e10000000000000000000000000000000000) s (State.fenceSignal s f) := by
  unfold State.fenceSignal
  repeat' first
    | with_reducible exact Keep.refl _ _
    | with_reducible assumption
    | (with_reducible apply Keep.step; with_reducible apply State.produce_keep; decide)
    | (with_reducible apply Keep.step; with_reducible apply State.setFlag_keep; decide)
    | with_reducible apply Keep.ite
    | split
    | dsimp only
    | (with_reducible apply Keep.step; with_reducible apply Keep.of_fst; assumption; with_reducible apply State.produce_keep; decide)
    | (with_reducible apply Keep.step; with_reducible apply Keep.of_fst; assumption; with_reducible apply State.setFlag_keep; decide)

theorem execSynFenceComplete_keep (s : State) : OutKeep ([.regs, .mem, .syn], 0x9d3e10000000000000000000000000000000000) s (execSynFenceComplete s) := by
  unfold execSynFenceComplete
  repeat' first
    | with_reducible exact Keep.refl _ _
    | with_reducible assumption
    | (with_reducible apply Keep.step; with_reducible apply State.fenceSignal_keep; decide)
    | (with_reducible apply Keep.step; with_reducible apply State.onSyn_keep; intro _; rfl; decide)
    | (with_reducible apply Keep.step; with_reducible apply State.wr_keep has_Fld_synFence_tokenDone; decide)
    | with_reducible apply Keep.ite
    | with_reducible apply OutKeep.ite
    | with_reducible apply OutKeep.next
    | split
    | dsimp only

theorem State.waitWrite_keep (s : State) (n w : Nat) : Keep ([.regs, .mem, .log, .syn], 0x13e00000000000000000000040800000000001) s (State.waitWrite s n w) := by
  unfold State.waitWrite
  repeat' first
    | with_reducible exact Keep.refl _ _
    | with_reducible assumption
    | (with_reducible apply Keep.step; with_reducible apply State.accessError_keep; decide)
    | (with_reducible apply Keep.step; with_reducible apply State.onSyn_keep; intro _; rfl; decide)
    | (with_reducible apply Keep.step; with_reducible apply State.wait_keep; decide)
    | (with_reducible apply Keep.step; with_reducible apply State.writePlain_keep (hasReg_all _); decide)
    | with_reducible apply Keep.ite
    | split
    | dsimp only
    | (with_reducible apply Keep.step; with_reducible apply Keep.of_fst; assumption; with_reducible apply State.writePlain_keep (hasReg_all _); decide)

theorem execWaitArm_keep (slot : Fin 64) (value : W64) (s : State) : OutKeep ([.board, .regs, .mem, .log, .red, .ful, .cut, .sedge, .map, .rst, .warden, .syn, .chk, .freeCtr, .outbox], 0x4001002510000007a5f1d3e11df90000000001f7000060a00000000001) s (execWaitArm slot value s) := by
  unfold execWaitArm
  repeat' first
    | with_reducible exact Keep.refl _ _
    | with_reducible assumption
    | (with_reducible apply Keep.step; with_reducible apply State.waitWrite_keep; decide)
    | (with_reducible apply Keep.step; with_reducible apply State.unheld_keep; decide)
    | with_reducible apply Keep.ite
    | with_reducible apply OutKeep.ite
    | with_reducible apply OutKeep.next
    | split
    | dsimp only

theorem State.dropWaiter_keep (s : State) (who : Who) : Keep ([.regs, .mem, .syn], 0x13e00000000000000000000000000000000000) s (State.dropWaiter s who) := by
  unfold State.dropWaiter
  repeat' first
    | with_reducible exact Keep.refl _ _
    | with_reducible assumption
    | (with_reducible apply Keep.step; with_reducible apply State.onSyn_keep; intro _; rfl; decide)
    | (with_reducible apply Keep.step; with_reducible apply State.wait_keep; decide)
    | with_reducible apply Keep.ite
    | split
    | dsimp only

theorem execWaitTimeout_keep (slot : Fin 64) (race : Race) (s : State) : OutKeep ([.board, .regs, .mem, .log, .red, .ful, .cut, .sedge, .map, .rst, .warden, .syn, .chk, .freeCtr, .outbox], 0x4001002510000007a5f1d3e11df90000000001f7000060200000300000) s (execWaitTimeout slot race s) := by
  unfold execWaitTimeout
  repeat' first
    | with_reducible exact Keep.refl _ _
    | with_reducible assumption
    | (with_reducible apply Keep.step; with_reducible apply State.notifySlot_keep; decide)
    | (with_reducible apply Keep.step; with_reducible apply State.dropWaiter_keep; decide)
    | (with_reducible apply Keep.step; with_reducible apply State.logRace_keep; decide)
    | (with_reducible apply Keep.step; with_reducible apply State.unheld_keep; decide)
    | (with_reducible apply Keep.step; with_reducible apply State.serve_keep; decide)
    | (with_reducible apply Keep.step; with_reducible apply State.wait_keep; decide)
    | with_reducible apply Keep.ite
    | with_reducible apply OutKeep.ite
    | with_reducible apply OutKeep.next
    | split
    | dsimp only

theorem State.waitsHalt_keep (s : State) : Keep ([.regs, .mem, .syn], 0x13e00000000000000000000000000000000000) s (State.waitsHalt s) := by
  unfold State.waitsHalt
  repeat' first
    | with_reducible exact Keep.refl _ _
    | with_reducible assumption
    | (with_reducible apply Keep.step; with_reducible apply State.dropWaiter_keep; decide)
    | (with_reducible apply Keep.step; with_reducible apply State.notifySlot_keep; decide)
    | with_reducible apply Keep.foldl
    | with_reducible apply Keep.foldl_fst
    | with_reducible apply Keep.foldl_snd
    | with_reducible apply Keep.ite
    | split
    | dsimp only
    | intro _

theorem State.remoteRefuse_keep (s : State) : Keep ([.regs], 0x400020000000000000000000000000000000000) s (State.remoteRefuse s) := by
  unfold State.remoteRefuse
  repeat' first
    | with_reducible exact Keep.refl _ _
    | with_reducible assumption
    | (with_reducible apply Keep.step; with_reducible apply State.bump_keep has_Fld_synCounts_remoteRefused; decide)
    | (with_reducible apply Keep.step; with_reducible apply State.raise_keep has_Fld_synErrStatus_remoteRefused; decide)
    | with_reducible apply Keep.ite
    | split
    | dsimp only

theorem State.putRemote_keep (s : State) (r : Remote) : Keep ([.syn], 0x0) s (State.putRemote s r) := by
  unfold State.putRemote
  repeat' first
    | with_reducible exact Keep.refl _ _
    | with_reducible assumption
    | (with_reducible apply Keep.step; with_reducible apply State.onSyn_keep; intro _; rfl; decide)
    | with_reducible apply Keep.ite
    | split
    | dsimp only

theorem State.remoteAbort_keep (s : State) (r : Remote) (st : Status) (signal : Bool) : Keep ([.regs, .log, .syn], 0x203e40000000000000000000040000000000000) s (State.remoteAbort s r st signal) := by
  unfold State.remoteAbort
  repeat' first
    | with_reducible exact Keep.refl _ _
    | with_reducible assumption
    | (with_reducible apply Keep.step; with_reducible apply State.putRemote_keep; decide)
    | (with_reducible apply Keep.step; with_reducible apply State.synErr_keep; decide)
    | (with_reducible apply Keep.step; with_reducible apply State.logIt_keep; decide)
    | (with_reducible apply Keep.step; with_reducible apply State.bump_keep has_Fld_synCounts_signalsDiscarded; decide)
    | (with_reducible apply Keep.step; with_reducible apply State.raise_keep has_Fld_synErrStatus_remoteAbort; decide)
    | with_reducible apply Keep.ite
    | split
    | dsimp only

theorem State.remoteTry_keep (s : State) (r : Remote) : Keep ([.regs, .mem, .log, .syn], 0x3d3e50000000000000000000040000000000000) s (State.remoteTry s r) := by
  unfold State.remoteTry
  repeat' first
    | with_reducible exact Keep.refl _ _
    | with_reducible assumption
    | (with_reducible apply Keep.step; with_reducible apply State.remoteAbort_keep; decide)
    | (with_reducible apply Keep.step; with_reducible apply State.putRemote_keep; decide)
    | (with_reducible apply Keep.step; with_reducible apply State.produce_keep; decide)
    | (with_reducible apply Keep.step; with_reducible apply State.setFlag_keep; decide)
    | with_reducible apply Keep.ite
    | split
    | dsimp only
    | (with_reducible apply Keep.step; with_reducible apply Keep.of_fst; assumption; with_reducible apply State.produce_keep; decide)
    | (with_reducible apply Keep.step; with_reducible apply Keep.of_fst; assumption; with_reducible apply State.setFlag_keep; decide)

theorem execRemoteWrite_keep (n : Fin 42) (f : Frame) (s : State) : OutKeep ([.regs, .mem, .log, .syn], 0x7d3e70000000000005000000040000000000000) s (execRemoteWrite n f s) := by
  unfold execRemoteWrite
  repeat' first
    | with_reducible exact Keep.refl _ _
    | with_reducible assumption
    | (with_reducible apply Keep.step; with_reducible apply State.remoteRefuse_keep; decide)
    | (with_reducible apply Keep.step; with_reducible apply State.remoteTry_keep; decide)
    | (with_reducible apply Keep.step; with_reducible apply State.staleAt_keep; decide)
    | (with_reducible apply Keep.step; with_reducible apply State.store'_keep; decide)
    | with_reducible apply State.recv_keep
    | with_reducible apply Keep.ite
    | with_reducible apply OutKeep.ite
    | with_reducible apply OutKeep.next
    | (show sub _ _ = true; decide)
    | split
    | dsimp only
    | with_reducible exact Keep.id _ _
    | intro _

theorem execRemoteSignal_keep (n : Fin 42) (f : Frame) (s : State) : OutKeep ([.regs, .mem, .log, .syn], 0x7d3e70000000000005000000040000000000000) s (execRemoteSignal n f s) := by
  unfold execRemoteSignal
  repeat' first
    | with_reducible exact Keep.refl _ _
    | with_reducible assumption
    | (with_reducible apply Keep.step; with_reducible apply State.remoteRefuse_keep; decide)
    | (with_reducible apply Keep.step; with_reducible apply State.remoteAbort_keep; decide)
    | (with_reducible apply Keep.step; with_reducible apply State.remoteTry_keep; decide)
    | (with_reducible apply Keep.step; with_reducible apply State.staleAt_keep; decide)
    | with_reducible apply State.recv_keep
    | with_reducible apply Keep.ite
    | with_reducible apply OutKeep.ite
    | with_reducible apply OutKeep.next
    | (show sub _ _ = true; decide)
    | split
    | dsimp only
    | with_reducible exact Keep.id _ _
    | intro _

theorem execRemoteTransferWatchdog_keep (rack : BitVec 10) (pos : BitVec 7) (tag : BitVec 20) (race : Race) (s : State) : OutKeep ([.regs, .log, .syn], 0x203e40000000000000000000040000000300000) s (execRemoteTransferWatchdog rack pos tag race s) := by
  unfold execRemoteTransferWatchdog
  repeat' first
    | with_reducible exact Keep.refl _ _
    | with_reducible assumption
    | (with_reducible apply Keep.step; with_reducible apply State.remoteAbort_keep; decide)
    | (with_reducible apply Keep.step; with_reducible apply State.logRace_keep; decide)
    | with_reducible apply Keep.ite
    | with_reducible apply OutKeep.ite
    | with_reducible apply OutKeep.next
    | split
    | dsimp only

theorem keep_pairs (s : State) (y : Syn) (hy : y.pairs.toList.all Pair.ok = true) : Keep ([.syn], 0) s { s with syn := y } := by
  refine ⟨fun h => ⟨h.1, h.2, h.3, h.4, h.5, h.6, fun n hn => ?_⟩, fun c => by cases c <;> first | exact .inr rfl | exact .inl (by decide), fun _ => BitsBut.of_regs 0 rfl⟩
  simp only [List.all_eq_true, Vector.mem_toList_iff] at hy
  have e : State.pair { s with syn := y } n = y.pairs[n] := by simp [State.pair, vget, hn]
  rw [e]
  exact hy _ (Vector.getElem_mem hn)

theorem State.ctxLoadImage_keep (s : State) (flags ovr : Nat) (pairs : Vector Pair 512) (hp : pairs.toList.all Pair.ok = true) :
    Keep ([.syn], 0) s (s.ctxLoadImage flags ovr pairs) := keep_pairs s _ hp

theorem leNat_lt (bs : List Byte) : leNat bs < 256 ^ bs.length := by
  induction bs with
  | nil => simp [leNat]
  | cons b t ih =>
    simp only [leNat, List.length_cons, Nat.pow_succ]
    have := b.isLt
    omega

theorem fieldLE_lt (bs : List Byte) (a n : Nat) : fieldLE bs a n < 256 ^ n := by
  refine Nat.lt_of_lt_of_le (leNat_lt _) (Nat.pow_le_pow_right (by omega) ?_)
  simp only [List.length_take]
  omega

/-- What the checks of R241 and R272 leave to be shown of a pair read from an image. -/
theorem Pair.ok_ofBytes {bs : List Byte} (h : (Pair.ofBytes bs).c ≤ (Pair.ofBytes bs).p ∧ (Pair.ofBytes bs).p - (Pair.ofBytes bs).c ≤ (Pair.ofBytes bs).depth) :
    (Pair.ofBytes bs).ok = true := by
  have := fieldLE_lt bs 0 6
  simp only [Pair.ok, Bool.and_eq_true, decide_eq_true_eq]
  exact ⟨h, this⟩

theorem State.onSyn_zero (s : State) (f : Syn → Syn) (hf : ∀ x, (f x).pairs = Vector.replicate 512 {}) : Keep ([.syn], 0) s (s.onSyn f) := by
  refine keep_pairs s _ ?_
  rw [hf]
  simp only [List.all_eq_true, Vector.mem_toList_iff]
  intro p hp
  simp only [Vector.mem_replicate] at hp
  rw [hp.2]
  decide

theorem State.ctxWrite_keep (s : State) (w : Nat) : Keep ([.regs, .mem, .log, .syn], 0x80000000000000000000000100000000000000000000040800000000000) s (s.ctxWrite w) := by
  unfold State.ctxWrite
  dsimp only
  have k1 : Keep ([.regs, .mem, .log, .syn], 0x80000000000000000000000100000000000000000000040800000000000) s (s.writePlain Reg.synCtx w).1 := Keep.step (State.writePlain_keep has_Reg_synCtx _ _) (by decide) (Keep.refl _ _)
  revert k1
  generalize (s.writePlain Reg.synCtx w).1 = s1
  generalize bits w 0 3 = c
  intro k1
  split
  · exact Keep.step (State.wr_keep has_Fld_synCtx_result _ _) (by decide) (Keep.step (State.store'_keep _ _ _) (by decide) k1)
  · split
    · exact Keep.step (State.wr_keep has_Fld_synCtx_result _ _) (by decide) k1
    · split
      · rename_i hp
        refine Keep.step (State.wr_keep has_Fld_synCtx_result _ _) (by decide) (Keep.step (State.ctxLoadImage_keep _ _ _ _ ?_) (by decide) k1)
        simp only [List.all_eq_true, Vector.mem_toList_iff, Vector.mem_ofFn, Bool.and_eq_true, decide_eq_true_eq] at hp ⊢
        rintro p ⟨i, rfl⟩
        exact Pair.ok_ofBytes (hp _ ⟨i, rfl⟩)
      · exact Keep.step (State.wr_keep has_Fld_synCtx_result _ _) (by decide) k1
  · exact k1

theorem execCtxSave_keep (value : W64) (s : State) : OutKeep ([.regs, .mem, .log, .syn], 0x80000000000000000000000100000000000000000000040800000000000) s (execCtxSave value s) := by
  unfold execCtxSave
  repeat' first
    | with_reducible exact Keep.refl _ _
    | with_reducible assumption
    | (with_reducible apply Keep.step; with_reducible apply State.ctxWrite_keep; decide)
    | with_reducible apply Keep.ite
    | with_reducible apply OutKeep.ite
    | with_reducible apply OutKeep.next
    | split
    | dsimp only

theorem execCtxLoad_keep (value : W64) (s : State) : OutKeep ([.board, .regs, .mem, .log, .red, .ful, .cut, .sedge, .map, .rst, .warden, .syn, .chk, .freeCtr, .outbox], 0x84001002510000007a5f1d3f11df90000000001f7000060a00000000000) s (execCtxLoad value s) := by
  unfold execCtxLoad
  repeat' first
    | with_reducible exact Keep.refl _ _
    | with_reducible assumption
    | (with_reducible apply Keep.step; with_reducible apply State.ctxWrite_keep; decide)
    | (with_reducible apply Keep.step; with_reducible apply State.unheld_keep; decide)
    | with_reducible apply Keep.ite
    | with_reducible apply OutKeep.ite
    | with_reducible apply OutKeep.next
    | split
    | dsimp only

theorem State.quiesceEnd_keep (s : State) : Keep ([.regs, .mem, .syn], 0x1d3e10000000000000000000000000000000000) s (State.quiesceEnd s) := by
  unfold State.quiesceEnd
  repeat' first
    | with_reducible exact Keep.refl _ _
    | with_reducible assumption
    | (with_reducible apply Keep.step; with_reducible apply State.release_keep; decide)
    | (with_reducible apply Keep.step; with_reducible apply State.onSyn_keep; intro _; rfl; decide)
    | (with_reducible apply Keep.step; with_reducible apply State.serve_keep; decide)
    | with_reducible apply Keep.foldl
    | with_reducible apply Keep.foldl_fst
    | with_reducible apply Keep.foldl_snd
    | with_reducible apply Keep.ite
    | split
    | dsimp only
    | intro _

theorem State.synCtrlWrite_keep (s : State) (w : Nat) : Keep ([.regs, .mem, .log, .syn], 0x400000000000000000001d3e10000000000000000000040800000000000) s (State.synCtrlWrite s w) := by
  unfold State.synCtrlWrite
  repeat' first
    | with_reducible exact Keep.refl _ _
    | with_reducible assumption
    | (with_reducible apply Keep.step; with_reducible apply State.quiesceEnd_keep; decide)
    | (with_reducible apply Keep.step; with_reducible apply State.writePlain_keep has_Reg_synCtrl; decide)
    | with_reducible apply Keep.ite
    | split
    | dsimp only
    | (with_reducible apply Keep.step; with_reducible apply Keep.of_fst; assumption; with_reducible apply State.writePlain_keep has_Reg_synCtrl; decide)

theorem execQuiesceClear_keep (value : W32) (s : State) : OutKeep ([.board, .regs, .mem, .log, .red, .ful, .cut, .sedge, .map, .rst, .warden, .syn, .chk, .freeCtr, .outbox], 0x44001002510000007a5f1d3e11df90000000001f7000060a00000000000) s (execQuiesceClear value s) := by
  unfold execQuiesceClear
  repeat' first
    | with_reducible exact Keep.refl _ _
    | with_reducible assumption
    | (with_reducible apply Keep.step; with_reducible apply State.synCtrlWrite_keep; decide)
    | (with_reducible apply Keep.step; with_reducible apply State.unheld_keep; decide)
    | with_reducible apply Keep.ite
    | with_reducible apply OutKeep.ite
    | with_reducible apply OutKeep.next
    | split
    | dsimp only

theorem State.arriveWrite_keep (s : State) (b : Nat) : Keep ([.board, .regs, .mem, .log, .red, .ful, .cut, .sedge, .map, .rst, .warden, .syn, .chk, .freeCtr, .outbox], 0x4001002510000007a5f1d3e11df90000000001f7000060a00000000000) s (State.arriveWrite s b) := by
  unfold State.arriveWrite
  repeat' first
    | with_reducible exact Keep.refl _ _
    | with_reducible assumption
    | (with_reducible apply Keep.step; with_reducible apply State.accessError_keep; decide)
    | (with_reducible apply Keep.step; with_reducible apply State.barArrive_keep; decide)
    | with_reducible apply Keep.ite
    | split
    | dsimp only

theorem State.barCfgWrite_keep (s : State) (b w : Nat) : Keep ([.regs, .log, .syn], 0x20000000000000000000000000000000000000000000040800000000000) s (State.barCfgWrite s b w) := by
  unfold State.barCfgWrite
  repeat' first
    | with_reducible exact Keep.refl _ _
    | with_reducible assumption
    | (with_reducible apply Keep.step; with_reducible apply State.barEnable_keep; decide)
    | (with_reducible apply Keep.step; with_reducible apply State.writePlain_keep (has_Reg_synBarCfg _); decide)
    | with_reducible apply Keep.ite
    | split
    | dsimp only
    | (with_reducible apply Keep.step; with_reducible apply Keep.of_fst; assumption; with_reducible apply State.writePlain_keep (has_Reg_synBarCfg _); decide)

theorem doBarrierArrive_keep (b : Fin 20) (s : State) : OutKeep ([.board, .regs, .mem, .log, .red, .ful, .cut, .sedge, .map, .rst, .warden, .syn, .chk, .freeCtr, .outbox], 0x4001002510000007a5f1d3e11df90000000001f7000060a00000000000) s (doBarrierArrive b s) := by
  unfold doBarrierArrive
  repeat' first
    | with_reducible exact Keep.refl _ _
    | with_reducible assumption
    | (with_reducible apply Keep.step; with_reducible apply State.arriveWrite_keep; decide)
    | with_reducible apply Keep.ite
    | with_reducible apply OutKeep.ite
    | with_reducible apply OutKeep.next
    | split
    | dsimp only

theorem doBarrierArrivalFrame_keep (n : Fin 42) (f : Frame) (s : State) : OutKeep ([.board, .regs, .mem, .log, .red, .ful, .cut, .sedge, .map, .rst, .warden, .syn, .chk, .freeCtr, .outbox], 0x4001002510000007a5f1d3e11df90000000051f7000060a00000000000) s (doBarrierArrivalFrame n f s) := by
  unfold doBarrierArrivalFrame
  repeat' first
    | with_reducible exact Keep.refl _ _
    | with_reducible assumption
    | (with_reducible apply Keep.step; with_reducible apply State.barRecord_keep; decide)
    | (with_reducible apply Keep.step; with_reducible apply State.staleAt_keep; decide)
    | with_reducible apply State.recv_keep
    | with_reducible apply Keep.ite
    | with_reducible apply OutKeep.ite
    | with_reducible apply OutKeep.next
    | (show sub _ _ = true; decide)
    | split
    | dsimp only
    | with_reducible exact Keep.id _ _
    | intro _

theorem State.addKid_keep (s : State) (b : Nat) (f : Frame) : Keep ([.syn], 0x0) s (State.addKid s b f) := by
  unfold State.addKid
  repeat' first
    | with_reducible exact Keep.refl _ _
    | with_reducible assumption
    | (with_reducible apply Keep.step; with_reducible apply State.putBar_keep; decide)
    | with_reducible apply Keep.ite
    | split
    | dsimp only

theorem doTreeArrivalUp_keep (n : Fin 42) (f : Frame) (s : State) : OutKeep ([.board, .regs, .mem, .log, .red, .ful, .cut, .sedge, .map, .rst, .warden, .syn, .chk, .freeCtr, .outbox], 0x4001002510000007a5f1d3e11df90000000051f7000060a00000000000) s (doTreeArrivalUp n f s) := by
  unfold doTreeArrivalUp
  repeat' first
    | with_reducible exact Keep.refl _ _
    | with_reducible assumption
    | (with_reducible apply Keep.step; with_reducible apply State.barRecord_keep; decide)
    | (with_reducible apply Keep.step; with_reducible apply State.staleAt_keep; decide)
    | (with_reducible apply Keep.step; with_reducible apply State.addKid_keep; decide)
    | with_reducible apply State.recv_keep
    | with_reducible apply Keep.ite
    | with_reducible apply OutKeep.ite
    | with_reducible apply OutKeep.next
    | (show sub _ _ = true; decide)
    | split
    | dsimp only
    | with_reducible exact Keep.id _ _
    | intro _

theorem doTreeCompletion_keep (n : Fin 42) (f : Frame) (s : State) : OutKeep ([.board, .regs, .mem, .log, .red, .ful, .cut, .sedge, .map, .rst, .warden, .syn, .chk, .freeCtr, .outbox], 0x4001002510000007a5f1d3e11df90000000051f7000060200000000000) s (doTreeCompletion n f s) := by
  unfold doTreeCompletion
  repeat' first
    | with_reducible exact Keep.refl _ _
    | with_reducible assumption
    | (with_reducible apply Keep.step; with_reducible apply State.staleAt_keep; decide)
    | (with_reducible apply Keep.step; with_reducible apply State.barDown_keep; decide)
    | (with_reducible apply Keep.step; with_reducible apply State.barEnd_keep; decide)
    | (with_reducible apply Keep.step; with_reducible apply State.heard_keep; decide)
    | with_reducible apply State.recv_keep
    | with_reducible apply Keep.ite
    | with_reducible apply OutKeep.ite
    | with_reducible apply OutKeep.next
    | (show sub _ _ = true; decide)
    | split
    | dsimp only
    | with_reducible exact Keep.id _ _
    | intro _

theorem State.treeAbortIn_keep (s : State) (n : Nat) (b : Nat) (f : Frame) (st : Status) : Keep ([.regs, .mem, .syn, .outbox], 0x1d7e10000000000004000000000000000000000) s (State.treeAbortIn s n b f st) := by
  unfold State.treeAbortIn
  repeat' first
    | with_reducible exact Keep.refl _ _
    | with_reducible assumption
    | (with_reducible apply Keep.step; with_reducible apply State.treeAbort_keep; decide)
    | (with_reducible apply Keep.step; with_reducible apply State.barAbort_keep; decide)
    | (with_reducible apply Keep.step; with_reducible apply State.staleAt_keep; decide)
    | (with_reducible apply Keep.step; with_reducible apply State.barDown_keep; decide)
    | (with_reducible apply Keep.step; with_reducible apply State.synErr_keep; decide)
    | (with_reducible apply Keep.step; with_reducible apply State.addKid_keep; decide)
    | (with_reducible apply Keep.step; with_reducible apply State.raise_keep has_Fld_synErrStatus_barAbort; decide)
    | with_reducible apply Keep.ite
    | split
    | dsimp only

theorem doBarrierAbortFrame_keep (n : Fin 42) (f : Frame) (s : State) : OutKeep ([.regs, .mem, .syn, .outbox], 0x1d7e10000000000005000000000000000000000) s (doBarrierAbortFrame n f s) := by
  unfold doBarrierAbortFrame
  repeat' first
    | with_reducible exact Keep.refl _ _
    | with_reducible assumption
    | (with_reducible apply Keep.step; with_reducible apply State.treeAbortIn_keep; decide)
    | (with_reducible apply Keep.step; with_reducible apply State.barAbort_keep; decide)
    | (with_reducible apply Keep.step; with_reducible apply State.staleAt_keep; decide)
    | (with_reducible apply Keep.step; with_reducible apply State.synErr_keep; decide)
    | (with_reducible apply Keep.step; with_reducible apply State.raise_keep has_Fld_synErrStatus_barAbort; decide)
    | with_reducible apply State.recv_keep
    | with_reducible apply Keep.ite
    | with_reducible apply OutKeep.ite
    | with_reducible apply OutKeep.next
    | (show sub _ _ = true; decide)
    | split
    | dsimp only
    | with_reducible exact Keep.id _ _
    | intro _

theorem doBarrierTimeout_keep (b : Fin 20) (race : Race) (s : State) : OutKeep ([.regs, .mem, .log, .syn, .outbox], 0x1dbe10000000000000000000040000000300000) s (doBarrierTimeout b race s) := by
  unfold doBarrierTimeout
  repeat' first
    | with_reducible exact Keep.refl _ _
    | with_reducible assumption
    | (with_reducible apply Keep.step; with_reducible apply State.barTimeout_keep; decide)
    | (with_reducible apply Keep.step; with_reducible apply State.logRace_keep; decide)
    | with_reducible apply Keep.ite
    | with_reducible apply OutKeep.ite
    | with_reducible apply OutKeep.next
    | split
    | dsimp only

theorem doBarrierEnable_keep (b : Fin 20) (value : W64) (s : State) : OutKeep ([.regs, .log, .syn], 0x20000000000000000000000000000000000000000000040800000000000) s (doBarrierEnable b value s) := by
  unfold doBarrierEnable
  repeat' first
    | with_reducible exact Keep.refl _ _
    | with_reducible assumption
    | (with_reducible apply Keep.step; with_reducible apply State.barCfgWrite_keep; decide)
    | with_reducible apply Keep.ite
    | with_reducible apply OutKeep.ite
    | with_reducible apply OutKeep.next
    | split
    | dsimp only

theorem doBarrierDisable_keep (b : Fin 20) (value : W64) (s : State) : OutKeep ([.regs, .log, .syn], 0x20000000000000000000000000000000000000000000040800000000000) s (doBarrierDisable b value s) := by
  unfold doBarrierDisable
  repeat' first
    | with_reducible exact Keep.refl _ _
    | with_reducible assumption
    | (with_reducible apply Keep.step; with_reducible apply State.barCfgWrite_keep; decide)
    | with_reducible apply Keep.ite
    | with_reducible apply OutKeep.ite
    | with_reducible apply OutKeep.next
    | split
    | dsimp only

end Sys2Proof.Machine
end

