-- ==== Sys2Proof/Laws/KeepRestore.lean ====
section
/-! SUPPORT. What each operation of Machine/Restore.lean can do: one lemma for each (`Keep`). -/
namespace Sys2Proof.Machine

set_option linter.all false

theorem State.onRst_keep (s : State) (f : Rst → Rst) (hf : ∀ x, Memory.wf x.area = true → Memory.wf (f x).area = true) : Keep ([.rst], 0) s (s.onRst f) := keep_rst' s _ (hf s.rst)

theorem State.staleRestore_keep (s : State) : Keep ([.regs], 0x80000000000000000000000000000000000000000000000000) s (State.staleRestore s) := by
  unfold State.staleRestore
  repeat' first
    | with_reducible exact Keep.refl _ _
    | with_reducible assumption
    | (with_reducible apply Keep.step; with_reducible apply State.bump_keep has_Fld_tierRstCounts_staleRestore; decide)
    | with_reducible apply Keep.ite
    | split
    | dsimp only

theorem State.rstRecv_keep {ps : Touch} {s t : State} {n : Nat} {ty : BitVec 8} {f : Frame} {act : State → State} (h : Keep ps s t)
    (ha : ∀ t, Keep ps t (act t)) (hr : sub ([.regs], 0x80000000000000000000000000005000000000000000000000) ps = true) : Keep ps s (t.rstRecv n ty f act) := by
  unfold State.rstRecv
  refine State.recv_keep h (fun t => ?_) (fun t => Keep.id _ _) (sub_trans (by decide) hr)
  split
  · exact Keep.step (State.staleRestore_keep _) (sub_trans (by decide) hr) (Keep.refl _ _)
  · exact ha _

theorem State.heartbeat_keep (s : State) : Keep ([.rst, .outbox], 0x0) s (State.heartbeat s) := by
  unfold State.heartbeat
  repeat' first
    | with_reducible exact Keep.refl _ _
    | with_reducible assumption
    | (with_reducible apply Keep.step; with_reducible apply State.sendTo_keep; decide)
    | (with_reducible apply Keep.step; with_reducible apply State.onRst_keep; intro _ h; (first | exact h | exact Memory.wf_nil | exact Memory.wf_putBytes _ _ h | exact Memory.wf_erase _ _ h | with_unfolding_all exact h); decide)
    | with_reducible apply Keep.foldl
    | with_reducible apply Keep.foldl_fst
    | with_reducible apply Keep.foldl_snd
    | with_reducible apply Keep.ite
    | split
    | dsimp only
    | intro _

theorem execHeartbeatSend_keep (s : State) : OutKeep ([.rst, .outbox], 0x0) s (execHeartbeatSend s) := by
  unfold execHeartbeatSend
  repeat' first
    | with_reducible exact Keep.refl _ _
    | with_reducible assumption
    | (with_reducible apply Keep.step; with_reducible apply State.heartbeat_keep; decide)
    | with_reducible apply Keep.ite
    | with_reducible apply OutKeep.ite
    | with_reducible apply OutKeep.next
    | split
    | dsimp only

theorem State.chanHalt_keep (s : State) (ch : Nat) : Keep ([.board, .regs, .mem, .log, .red, .ful, .cut, .sedge, .map, .rst, .warden, .syn, .chk, .freeCtr, .outbox], 0x4001002510000007a5f1d3e11df90000000001f7000060200000000000) s (State.chanHalt s ch) := by
  unfold State.chanHalt
  repeat' first
    | with_reducible exact Keep.refl _ _
    | with_reducible assumption
    | (with_reducible apply Keep.step; with_reducible apply State.closeBucket_keep; decide)
    | (with_reducible apply Keep.step; with_reducible apply State.flushOver_keep; decide)
    | (with_reducible apply Keep.step; with_reducible apply State.logAbort_keep; decide)
    | (with_reducible apply Keep.step; with_reducible apply State.keepLost_keep; decide)
    | (with_reducible apply Keep.step; with_reducible apply State.putChan_keep; decide)
    | with_reducible apply Keep.foldl
    | with_reducible apply Keep.foldl_fst
    | with_reducible apply Keep.foldl_snd
    | with_reducible apply Keep.ite
    | split
    | dsimp only
    | intro _

theorem State.recordAtHalt_keep (s : State) (c : Cut) : Keep ([.cut, .map, .freeCtr], 0x0) s (State.recordAtHalt s c) := by
  unfold State.recordAtHalt
  repeat' first
    | with_reducible exact Keep.refl _ _
    | with_reducible assumption
    | (with_reducible apply Keep.step; with_reducible apply State.recordStands_keep; decide)
    | (with_reducible apply Keep.step; with_reducible apply State.pickBool_keep; decide)
    | with_reducible apply Keep.ite
    | split
    | dsimp only
    | (with_reducible apply Keep.step; with_reducible apply Keep.of_snd; assumption; with_reducible apply State.pickBool_keep; decide)

theorem State.cutsHalt_keep (s : State) : Keep ([.board, .regs, .mem, .log, .red, .ful, .cut, .sedge, .map, .rst, .warden, .syn, .chk, .freeCtr, .outbox], 0x4001002510000007a5f1d3e11df90000000001f7000060200000000000) s (State.cutsHalt s) := by
  unfold State.cutsHalt
  repeat' first
    | with_reducible exact Keep.refl _ _
    | with_reducible assumption
    | (with_reducible apply Keep.step; with_reducible apply State.recordAtHalt_keep; decide)
    | (with_reducible apply Keep.step; with_reducible apply State.cutFlush_keep; decide)
    | (with_reducible apply Keep.step; with_reducible apply State.feltStop_keep; decide)
    | (with_reducible apply Keep.step; with_reducible apply State.onCut_keep; decide)
    | with_reducible apply State.abandonEarly_keep
    | with_reducible apply Keep.foldl
    | with_reducible apply Keep.foldl_fst
    | with_reducible apply Keep.foldl_snd
    | with_reducible apply Keep.ite
    | (show sub _ _ = true; decide)
    | split
    | dsimp only
    | with_reducible exact Keep.id _ _
    | intro _

theorem State.setsHalt_keep (s : State) : Keep ([.sedge], 0x0) s (State.setsHalt s) := by
  unfold State.setsHalt
  repeat' first
    | with_reducible exact Keep.refl _ _
    | with_reducible assumption
    | (with_reducible apply Keep.step; with_reducible apply State.freeSet_keep; decide)
    | (with_reducible apply Keep.step; with_reducible apply State.putSet_keep; decide)
    | with_reducible apply Keep.foldl
    | with_reducible apply Keep.foldl_fst
    | with_reducible apply Keep.foldl_snd
    | with_reducible apply Keep.ite
    | split
    | dsimp only
    | intro _

theorem State.haltTake_keep (s : State) (e : BitVec 16) : Keep ([.board, .regs, .mem, .log, .red, .ful, .cut, .sedge, .map, .rst, .warden, .syn, .chk, .freeCtr, .outbox], 0x4001002510000007a5f1d3e11df90000000001f7000060200000000000) s (State.haltTake s e) := by
  unfold State.haltTake
  repeat' first
    | with_reducible exact Keep.refl _ _
    | with_reducible assumption
    | (with_reducible apply Keep.step; with_reducible apply State.releaseTags_keep; decide)
    | (with_reducible apply Keep.step; with_reducible apply State.heartbeat_keep; decide)
    | (with_reducible apply Keep.step; with_reducible apply State.waitsHalt_keep; decide)
    | (with_reducible apply Keep.step; with_reducible apply State.dropLanes_keep; decide)
    | (with_reducible apply Keep.step; with_reducible apply State.setsHalt_keep; decide)
    | (with_reducible apply Keep.step; with_reducible apply State.cutsHalt_keep; decide)
    | (with_reducible apply Keep.step; with_reducible apply State.fulAbort_keep; decide)
    | (with_reducible apply Keep.step; with_reducible apply State.chanHalt_keep; decide)
    | (with_reducible apply Keep.step; with_reducible apply State.dropCtxs_keep; decide)
    | (with_reducible apply Keep.step; with_reducible apply State.barsHalt_keep; decide)
    | (with_reducible apply Keep.step; with_reducible apply State.queries_keep; decide)
    | (with_reducible apply Keep.step; with_reducible apply State.setFlag_keep; decide)
    | (with_reducible apply Keep.step; with_reducible apply State.replan_keep; decide)
    | (with_reducible apply Keep.step; with_reducible apply State.onRst_keep; intro _ h; (first | exact h | exact Memory.wf_nil | exact Memory.wf_putBytes _ _ h | exact Memory.wf_erase _ _ h | with_unfolding_all exact h); decide)
    | (with_reducible apply Keep.step; with_reducible apply State.bump_keep has_Fld_tierRstCounts_replans; decide)
    | (with_reducible apply Keep.step; with_reducible apply State.raise_keep has_Fld_tierRstErrStatus_haltSeen; decide)
    | (with_reducible apply Keep.step; with_reducible apply State.raise_keep has_Fld_tierRstErrStatus_replan; decide)
    | with_reducible apply Keep.foldl
    | with_reducible apply Keep.foldl_fst
    | with_reducible apply Keep.foldl_snd
    | fail_if_no_progress (with_reducible apply Keep.step; with_reducible apply keep_red; decide)
    | with_reducible apply Keep.ite
    | split
    | dsimp only
    | intro _
    | (with_reducible apply Keep.step; with_reducible apply Keep.of_fst; assumption; with_reducible apply State.setFlag_keep; decide)

theorem State.planVote_keep (s : State) (step : W64) (gen : BitVec 8) : Keep ([.board, .regs, .mem, .log, .red, .ful, .cut, .sedge, .map, .rst, .warden, .syn, .chk, .freeCtr, .outbox], 0x4001002510000007a5f1d3e11df90000000001f7000060200000000000) s (State.planVote s step gen) := by
  unfold State.planVote
  repeat' first
    | with_reducible exact Keep.refl _ _
    | with_reducible assumption
    | (with_reducible apply Keep.step; with_reducible apply State.barArrive_keep; decide)
    | (with_reducible apply Keep.step; with_reducible apply State.onRst_keep; intro _ h; (first | exact h | exact Memory.wf_nil | exact Memory.wf_putBytes _ _ h | exact Memory.wf_erase _ _ h | with_unfolding_all exact h); decide)
    | with_reducible apply Keep.ite
    | split
    | dsimp only

theorem execSupplyQuery_keep (n : Fin 42) (f : Frame) (s : State) : OutKeep ([.regs, .rst, .freeCtr, .outbox], 0x80000000000000000000000000005000000000000000000000) s (execSupplyQuery n f s) := by
  unfold execSupplyQuery
  repeat' first
    | with_reducible exact Keep.refl _ _
    | with_reducible assumption
    | (with_reducible apply Keep.step; with_reducible apply State.queries_keep; decide)
    | (with_reducible apply Keep.step; with_reducible apply State.staleAt_keep; decide)
    | (with_reducible apply Keep.step; with_reducible apply State.onRst_keep; intro _ h; (first | exact h | exact Memory.wf_nil | exact Memory.wf_putBytes _ _ h | exact Memory.wf_erase _ _ h | with_unfolding_all exact h); decide)
    | with_reducible apply State.rstRecv_keep
    | with_reducible apply Keep.ite
    | with_reducible apply OutKeep.ite
    | with_reducible apply OutKeep.next
    | (show sub _ _ = true; decide)
    | split
    | dsimp only
    | with_reducible exact Keep.id _ _
    | intro _

theorem State.onInput_keep (s : State) (i : Input) (f : Supply → Supply) : Keep ([.rst], 0x0) s (State.onInput s i f) := by
  unfold State.onInput
  repeat' first
    | with_reducible exact Keep.refl _ _
    | with_reducible assumption
    | (with_reducible apply Keep.step; with_reducible apply State.onRst_keep; intro _ h; (first | exact h | exact Memory.wf_nil | exact Memory.wf_putBytes _ _ h | exact Memory.wf_erase _ _ h | with_unfolding_all exact h); decide)
    | with_reducible apply Keep.ite
    | split
    | dsimp only

theorem State.ask_keep (s : State) (i : Input) : Keep ([.rst, .outbox], 0x0) s (State.ask s i) := by
  unfold State.ask
  repeat' first
    | with_reducible exact Keep.refl _ _
    | with_reducible assumption
    | (with_reducible apply Keep.step; with_reducible apply State.sendTo_keep; decide)
    | (with_reducible apply Keep.step; with_reducible apply State.onRst_keep; intro _ h; (first | exact h | exact Memory.wf_nil | exact Memory.wf_putBytes _ _ h | exact Memory.wf_erase _ _ h | with_unfolding_all exact h); decide)
    | with_reducible apply Keep.foldl
    | with_reducible apply Keep.foldl_fst
    | with_reducible apply Keep.foldl_snd
    | with_reducible apply Keep.ite
    | split
    | dsimp only
    | intro _

theorem State.noSource_keep (s : State) (i : Input) : Keep ([.regs, .rst, .outbox], 0x400000000000000000000000000000000000000000000000000) s (State.noSource s i) := by
  unfold State.noSource
  repeat' first
    | with_reducible exact Keep.refl _ _
    | with_reducible assumption
    | (with_reducible apply Keep.step; with_reducible apply State.noticeTo_keep; decide)
    | (with_reducible apply Keep.step; with_reducible apply State.onInput_keep; decide)
    | (with_reducible apply Keep.step; with_reducible apply State.notice_keep; decide)
    | (with_reducible apply Keep.step; with_reducible apply State.onRst_keep; intro _ h; (first | exact h | exact Memory.wf_nil | exact Memory.wf_putBytes _ _ h | exact Memory.wf_erase _ _ h | with_unfolding_all exact h); decide)
    | (with_reducible apply Keep.step; with_reducible apply State.raise_keep has_Fld_tierRstErrStatus_noSource; decide)
    | with_reducible apply Keep.ite
    | split
    | dsimp only

theorem State.nextSource_keep (s : State) (i : Input) : Keep ([.regs, .rst, .outbox], 0x400000000000000000000000000000000000000000000000000) s (State.nextSource s i) := by
  unfold State.nextSource
  repeat' first
    | with_reducible exact Keep.refl _ _
    | with_reducible assumption
    | (with_reducible apply Keep.step; with_reducible apply State.noSource_keep; decide)
    | (with_reducible apply Keep.step; with_reducible apply State.onInput_keep; decide)
    | (with_reducible apply Keep.step; with_reducible apply State.onRst_keep; intro _ h; (first | exact h | exact Memory.wf_nil | exact Memory.wf_putBytes _ _ h | exact Memory.wf_erase _ _ h | with_unfolding_all exact h); decide)
    | (with_reducible apply Keep.step; with_reducible apply State.ask_keep; decide)
    | with_reducible apply Keep.ite
    | split
    | dsimp only

theorem State.leaveSource_keep (s : State) (i : Input) : Keep ([.regs, .rst, .outbox], 0x400000000000000000000000000000000000000000000000000) s (State.leaveSource s i) := by
  unfold State.leaveSource
  repeat' first
    | with_reducible exact Keep.refl _ _
    | with_reducible assumption
    | (with_reducible apply Keep.step; with_reducible apply State.nextSource_keep; decide)
    | (with_reducible apply Keep.step; with_reducible apply State.onInput_keep; decide)
    | with_reducible apply Keep.ite
    | split
    | dsimp only

theorem State.switchInputs_keep (s : State) (l : List Input) : Keep ([.regs, .rst, .outbox], 0x8440000000000000000000000000000000000000000000000000) s (State.switchInputs s l) := by
  unfold State.switchInputs
  repeat' first
    | with_reducible exact Keep.refl _ _
    | with_reducible assumption
    | (with_reducible apply Keep.step; with_reducible apply State.leaveSource_keep; decide)
    | (with_reducible apply Keep.step; with_reducible apply State.bump_keep has_Fld_tierRstCounts_sourceSwitches; decide)
    | (with_reducible apply Keep.step; with_reducible apply State.raise_keep has_Fld_tierRstErrStatus_sourceSwitch; decide)
    | with_reducible apply Keep.foldl
    | with_reducible apply Keep.foldl_fst
    | with_reducible apply Keep.foldl_snd
    | with_reducible apply Keep.ite
    | split
    | dsimp only
    | intro _

theorem State.sourceLost_keep (s : State) (rack : BitVec 10) (pos : BitVec 7) : Keep ([.regs, .rst, .outbox], 0x8440000000000000000000000000000000000000000000000000) s (State.sourceLost s rack pos) := by
  unfold State.sourceLost
  repeat' first
    | with_reducible exact Keep.refl _ _
    | with_reducible assumption
    | (with_reducible apply Keep.step; with_reducible apply State.switchInputs_keep; decide)
    | with_reducible apply Keep.ite
    | split
    | dsimp only

theorem State.recQueues_keep (s : State) (b : List Byte) : Keep ([.cmd], 0x0) s (State.recQueues s b) := by
  unfold State.recQueues
  repeat' first
    | with_reducible exact Keep.refl _ _
    | with_reducible assumption
    | fail_if_no_progress (with_reducible apply Keep.step; with_reducible apply keep_cmd; decide)
    | with_reducible apply Keep.ite
    | split
    | dsimp only

theorem State.recSeqs_keep (s : State) (b : List Byte) : Keep ([.red, .ful, .cut], 0x0) s (State.recSeqs s b) := by
  unfold State.recSeqs
  repeat' first
    | with_reducible exact Keep.refl _ _
    | with_reducible assumption
    | (with_reducible apply Keep.step; with_reducible apply State.putChan_keep; decide)
    | (with_reducible apply Keep.step; with_reducible apply State.putFq_keep; decide)
    | (with_reducible apply Keep.step; with_reducible apply State.onCut_keep; decide)
    | with_reducible apply Keep.foldl
    | with_reducible apply Keep.foldl_fst
    | with_reducible apply Keep.foldl_snd
    | with_reducible apply Keep.ite
    | split
    | dsimp only
    | intro _

theorem State.settleHalves_keep (s : State) : Keep ([.cut, .map], 0x0) s (State.settleHalves s) := by
  unfold State.settleHalves
  repeat' first
    | with_reducible exact Keep.refl _ _
    | with_reducible assumption
    | (with_reducible apply Keep.step; with_reducible apply State.mapDrop_keep; decide)
    | (with_reducible apply Keep.step; with_reducible apply State.putHalf_keep; decide)
    | (with_reducible apply Keep.step; with_reducible apply State.onCut_keep; decide)
    | with_reducible apply Keep.ite
    | split
    | dsimp only

theorem State.jobCutIs_keep (s : State) (step : W64) (gen : BitVec 8) (half : Option Bool) : Keep ([.regs], 0x2000000000000001e0000000000000000000000000000000000000000000) s (State.jobCutIs s step gen half) := by
  unfold State.jobCutIs
  repeat' first
    | with_reducible exact Keep.refl _ _
    | with_reducible assumption
    | (with_reducible apply Keep.step; with_reducible apply State.setReg_keep has_Reg_tierCutJob; decide)
    | (with_reducible apply Keep.step; with_reducible apply State.wr_keep has_Fld_tierCutJobInfo_gen; decide)
    | (with_reducible apply Keep.step; with_reducible apply State.wr_keep has_Fld_tierCutJobInfo_valid; decide)
    | (with_reducible apply Keep.step; with_reducible apply State.wrB_keep has_Fld_tierCutJobInfo_half; decide)
    | (with_reducible apply Keep.step; with_reducible apply State.wrB_keep has_Fld_tierCutJobInfo_local; decide)
    | with_reducible apply Keep.ite
    | split
    | dsimp only

theorem State.recordSyn_keep (s : State) (b : List Byte) (hb : s.recordOk b = true) (y : Syn) (hy : y.pairs = recPairs b) :
    Keep ([.syn], 0) s { s with syn := y } := by
  refine keep_pairs s y ?_
  simp only [State.recordOk, Bool.and_eq_true, List.all_eq_true, Vector.mem_toList_iff, decide_eq_true_eq] at hb
  rw [hy]
  simp only [List.all_eq_true, Vector.mem_toList_iff]
  intro p hp
  have h := hb.2 p hp
  simp only [recPairs, Vector.mem_ofFn] at hp
  obtain ⟨i, rfl⟩ := hp
  exact Pair.ok_ofBytes h

theorem State.recordWrite_ok (s : State) (b : List Byte) (hb : s.recordOk b = true) : Keep ([.board, .regs, .mem, .log, .red, .ful, .cut, .sedge, .map, .rst, .warden, .syn, .cmd, .chk, .freeCtr, .outbox], 0x20c0090025100001e7a5f1d3e11df90000000001f7000060200000000000) s (s.recordWrite b) := by
  unfold State.recordWrite
  repeat' first
    | with_reducible exact Keep.refl _ _
    | (with_reducible apply Keep.step; with_reducible apply State.settleHalves_keep; decide)
    | (with_reducible apply Keep.step; with_reducible apply State.jobCutIs_keep; decide)
    | (with_reducible apply Keep.step; with_reducible apply State.recQueues_keep; decide)
    | (with_reducible apply Keep.step; with_reducible apply State.cutFlush_keep; decide)
    | (with_reducible apply Keep.step; with_reducible apply State.recSeqs_keep; decide)
    | (with_reducible apply Keep.step; with_reducible apply State.setReg_keep has_Reg_redSrSeed; decide)
    | (with_reducible apply Keep.step; with_reducible apply State.setReg_keep has_Reg_fulSrSeed; decide)
    | (with_reducible apply Keep.step; with_reducible apply State.setReg_keep has_Reg_tierCutJob; decide)
    | (with_reducible apply Keep.step; with_reducible apply State.store'_keep; decide)
    | (with_reducible apply Keep.step; with_reducible apply State.onFul_keep; decide)
    | with_reducible apply Keep.ite
  all_goals exact Keep.step (State.recordSyn_keep s b hb _ rfl) (by decide) (Keep.refl _ _)

theorem State.recordWrite_keep (s : State) (b : List Byte) (hb : s.recordOk b = true) : Keep ([.board, .regs, .mem, .log, .red, .ful, .cut, .sedge, .map, .rst, .warden, .syn, .cmd, .chk, .freeCtr, .outbox], 0x20c0090025100001e7a5f1d3e11df90000000001f7000060200000000000) s (s.recordWrite b) := State.recordWrite_ok s b hb

theorem State.verifyLanes_keep (s : State) : Keep ([.chk], 0x0) s (State.verifyLanes s) := by
  unfold State.verifyLanes
  repeat' first
    | with_reducible exact Keep.refl _ _
    | with_reducible assumption
    | (with_reducible apply Keep.step; with_reducible apply State.takeLane_keep; decide)
    | with_reducible apply Keep.foldl
    | with_reducible apply Keep.foldl_fst
    | with_reducible apply Keep.foldl_snd
    | with_reducible apply Keep.ite
    | split
    | dsimp only
    | intro _

theorem State.recordGo_keep (s : State) (b : List Byte) (hb : s.recordOk b = true) : Keep ([.board, .regs, .mem, .log, .red, .ful, .cut, .sedge, .map, .rst, .warden, .syn, .cmd, .chk, .freeCtr, .outbox], 0x20c0090025100001e7a5f1d3e11df90000000001f7000060200000000000) s (s.recordGo b) := by
  unfold State.recordGo
  refine Keep.step (State.verifyLanes_keep _) (by decide) ?_
  refine Keep.step (State.onRst_keep _ _ (fun _ h => h)) (by decide) ?_
  exact State.recordWrite_keep s b hb

theorem State.recordBad_keep (s : State) (b : List Byte) : Keep ([.regs, .rst], 0x1200000000000000000000000000000000000000000000000000) s (State.recordBad s b) := by
  unfold State.recordBad
  repeat' first
    | with_reducible exact Keep.refl _ _
    | with_reducible assumption
    | (with_reducible apply Keep.step; with_reducible apply State.onRst_keep; intro _ h; (first | exact h | exact Memory.wf_nil | exact Memory.wf_putBytes _ _ h | exact Memory.wf_erase _ _ h | with_unfolding_all exact h); decide)
    | (with_reducible apply Keep.step; with_reducible apply State.raise_keep has_Fld_tierRstErrStatus_recordInvalid; decide)
    | (with_reducible apply Keep.step; with_reducible apply State.raiseIf_keep has_Fld_tierRstErrStatus_mixedStep; decide)
    | with_reducible apply Keep.ite
    | split
    | dsimp only

theorem State.recordNext_keep (s : State) : Keep ([.board, .regs, .mem, .log, .red, .ful, .cut, .sedge, .map, .rst, .warden, .syn, .cmd, .chk, .freeCtr, .outbox], 0x20c00900b7500001e7a5f1d3e11df90000000001f7000060200000000000) s (State.recordNext s) := by
  unfold State.recordNext
  repeat' first
    | with_reducible exact Keep.refl _ _
    | with_reducible assumption
    | split
    | (with_reducible apply Keep.step; with_reducible apply State.switchInputs_keep; decide)
    | (with_reducible apply Keep.step; with_reducible apply State.nextSource_keep; decide)
    | (with_reducible apply Keep.step; with_reducible apply State.recordBad_keep; decide)
    | (with_reducible apply Keep.step; with_reducible apply State.recordGo_keep; assumption; decide)
    | with_reducible apply Keep.ite
    | dsimp only

theorem State.recordTry_keep (s : State) (ring : List Byte) : Keep ([.board, .regs, .mem, .log, .red, .ful, .cut, .sedge, .map, .rst, .warden, .syn, .cmd, .chk, .freeCtr, .outbox], 0x20c00900b7500001e7a5f1d3e11df90000000001f7000060200000000000) s (State.recordTry s ring) := by
  unfold State.recordTry
  repeat' first
    | with_reducible exact Keep.refl _ _
    | with_reducible assumption
    | split
    | (with_reducible apply Keep.step; with_reducible apply State.recordNext_keep; decide)
    | (with_reducible apply Keep.step; with_reducible apply State.recordBad_keep; decide)
    | (with_reducible apply Keep.step; with_reducible apply State.recordGo_keep; assumption; decide)
    | (with_reducible apply Keep.step; with_reducible apply State.onInput_keep; decide)
    | with_reducible apply Keep.ite
    | dsimp only

theorem State.recordRestore_keep (s : State) : Keep ([.board, .regs, .mem, .log, .red, .ful, .cut, .sedge, .map, .rst, .warden, .syn, .cmd, .chk, .freeCtr, .outbox], 0x20c00900b7500001e7a5f1d3e11df90000000001f7000060200000000000) s (State.recordRestore s) := by
  unfold State.recordRestore
  repeat' first
    | with_reducible exact Keep.refl _ _
    | with_reducible assumption
    | (with_reducible apply Keep.step; with_reducible apply State.recordTry_keep; decide)
    | (with_reducible apply Keep.step; with_reducible apply State.onRst_keep; intro _ h; (first | exact h | exact Memory.wf_nil | exact Memory.wf_putBytes _ _ h | exact Memory.wf_erase _ _ h | with_unfolding_all exact h); decide)
    | with_reducible apply Keep.ite
    | split
    | dsimp only

theorem State.setsChosen_keep (s : State) : Keep ([.sedge], 0x0) s (State.setsChosen s) := by
  unfold State.setsChosen
  repeat' first
    | with_reducible exact Keep.refl _ _
    | with_reducible assumption
    | (with_reducible apply Keep.step; with_reducible apply State.freeSet_keep; decide)
    | (with_reducible apply Keep.step; with_reducible apply State.putSet_keep; decide)
    | with_reducible apply Keep.foldl
    | with_reducible apply Keep.foldl_fst
    | with_reducible apply Keep.foldl_snd
    | with_reducible apply Keep.ite
    | split
    | dsimp only
    | intro _

theorem State.startWork_keep (s : State) : Keep ([.board, .regs, .mem, .log, .red, .ful, .cut, .sedge, .map, .rst, .warden, .syn, .cmd, .chk, .freeCtr, .outbox], 0x20c00900b7500001e7a5f1d3e11df90000000001f7000060200000000000) s (State.startWork s) := by
  unfold State.startWork
  repeat' first
    | with_reducible exact Keep.refl _ _
    | with_reducible assumption
    | (with_reducible apply Keep.step; with_reducible apply State.recordRestore_keep; decide)
    | (with_reducible apply Keep.step; with_reducible apply State.nextSource_keep; decide)
    | (with_reducible apply Keep.step; with_reducible apply State.onRst_keep; intro _ h; (first | exact h | exact Memory.wf_nil | exact Memory.wf_putBytes _ _ h | exact Memory.wf_erase _ _ h | with_unfolding_all exact h); decide)
    | with_reducible apply Keep.ite
    | split
    | dsimp only

theorem State.ready_keep (s : State) : Keep ([.board, .regs, .mem, .log, .red, .ful, .cut, .sedge, .map, .rst, .warden, .syn, .chk, .freeCtr, .outbox], 0x4001002510000007a5f1d3e11df90000000001f7000060200000000000) s (State.ready s) := by
  unfold State.ready
  repeat' first
    | with_reducible exact Keep.refl _ _
    | with_reducible assumption
    | (with_reducible apply Keep.step; with_reducible apply State.barArrive_keep; decide)
    | (with_reducible apply Keep.step; with_reducible apply State.release_keep; decide)
    | (with_reducible apply Keep.step; with_reducible apply State.onRst_keep; intro _ h; (first | exact h | exact Memory.wf_nil | exact Memory.wf_putBytes _ _ h | exact Memory.wf_erase _ _ h | with_unfolding_all exact h); decide)
    | with_reducible apply Keep.ite
    | split
    | dsimp only

theorem State.resumeWork_keep (s : State) : Keep ([.board, .regs, .mem, .log, .red, .ful, .cut, .sedge, .map, .rst, .warden, .syn, .cmd, .chk, .freeCtr, .outbox], 0x20c00900b7500001e7a5f1d3e11df90000000001f7000060200000000000) s (State.resumeWork s) := by
  unfold State.resumeWork
  repeat' first
    | with_reducible exact Keep.refl _ _
    | with_reducible assumption
    | (with_reducible apply Keep.step; with_reducible apply State.recordRestore_keep; decide)
    | (with_reducible apply Keep.step; with_reducible apply State.verifyLanes_keep; decide)
    | (with_reducible apply Keep.step; with_reducible apply State.onRst_keep; intro _ h; (first | exact h | exact Memory.wf_nil | exact Memory.wf_putBytes _ _ h | exact Memory.wf_erase _ _ h | with_unfolding_all exact h); decide)
    | (with_reducible apply Keep.step; with_reducible apply State.ready_keep; decide)
    | (with_reducible apply Keep.step; with_reducible apply State.ask_keep; decide)
    | with_reducible apply Keep.foldl
    | with_reducible apply Keep.foldl_fst
    | with_reducible apply Keep.foldl_snd
    | with_reducible apply Keep.ite
    | split
    | dsimp only
    | intro _

theorem State.chosen_keep (s : State) (step : W64) (gen : BitVec 8) : Keep ([.board, .regs, .mem, .log, .red, .ful, .cut, .sedge, .map, .rst, .warden, .syn, .cmd, .chk, .freeCtr, .outbox], 0x20c00900b7500001e7a5f1d3e11df90000000001f7000060200000000000) s (State.chosen s step gen) := by
  unfold State.chosen
  repeat' first
    | with_reducible exact Keep.refl _ _
    | with_reducible assumption
    | (with_reducible apply Keep.step; with_reducible apply State.resumeWork_keep; decide)
    | (with_reducible apply Keep.step; with_reducible apply State.setsChosen_keep; decide)
    | (with_reducible apply Keep.step; with_reducible apply State.startWork_keep; decide)
    | (with_reducible apply Keep.step; with_reducible apply State.onRst_keep; intro _ h; (first | exact h | exact Memory.wf_nil | exact Memory.wf_putBytes _ _ h | exact Memory.wf_erase _ _ h | with_unfolding_all exact h); decide)
    | with_reducible apply Keep.ite
    | split
    | dsimp only

theorem State.chosenLate_keep (s : State) : Keep ([.board, .regs, .mem, .log, .red, .ful, .cut, .sedge, .map, .rst, .warden, .syn, .cmd, .chk, .freeCtr, .outbox], 0x20c00900b7500001e7a5f1d3e11df90000000001f7000060200000000000) s (State.chosenLate s) := by
  unfold State.chosenLate
  repeat' first
    | with_reducible exact Keep.refl _ _
    | with_reducible assumption
    | (with_reducible apply Keep.step; with_reducible apply State.startWork_keep; decide)
    | with_reducible apply Keep.ite
    | split
    | dsimp only

theorem State.planNone_keep (s : State) : Keep ([.regs, .rst, .outbox], 0x400000000000000000000000000000000000000000000000000) s (State.planNone s) := by
  unfold State.planNone
  repeat' first
    | with_reducible exact Keep.refl _ _
    | with_reducible assumption
    | (with_reducible apply Keep.step; with_reducible apply State.noSource_keep; decide)
    | (with_reducible apply Keep.step; with_reducible apply State.onRst_keep; intro _ h; (first | exact h | exact Memory.wf_nil | exact Memory.wf_putBytes _ _ h | exact Memory.wf_erase _ _ h | with_unfolding_all exact h); decide)
    | with_reducible apply Keep.ite
    | split
    | dsimp only

theorem State.peatBack_keep {s t : State} (h : s.peatBack = some t) : Keep ([.mem], 0) s t := by
  have key (g : Option State → Region → Option State) (hg : ∀ a r u, g a r = some u → ∃ v, a = some v ∧ Keep ([.mem], 0) v u) (l : List Region)
      (a : Option State) (ha : ∀ v, a = some v → Keep ([.mem], 0) s v) (u : State) (hu : l.foldl g a = some u) : Keep ([.mem], 0) s u := by
    induction l generalizing a with
    | nil => exact ha u hu
    | cons r l ih =>
      refine ih (g a r) (fun v hv => ?_) hu
      obtain ⟨w, hw, k⟩ := hg a r v hv
      exact Keep.step k (by decide) (ha w hw)
  unfold State.peatBack at h
  split at h
  · cases h
  · split at h
    · refine key _ (fun a r u hu => ?_) _ _ (fun v hv => ?_) t h
      · split at hu
        · cases hu
          exact ⟨_, rfl, State.store'_keep _ _ _⟩
        · cases hu
      · cases hv
        exact Keep.refl _ _
    · cases h

theorem State.copyBack_keep (s : State) (h : Bool) (r : Region) : Keep ([.mem], 0x0) s (State.copyBack s h r) := by
  unfold State.copyBack
  repeat' first
    | with_reducible exact Keep.refl _ _
    | with_reducible assumption
    | (with_reducible apply Keep.step; with_reducible apply State.store'_keep; decide)
    | with_reducible apply Keep.ite
    | split
    | dsimp only

theorem State.dataHere_keep (s : State) : Keep ([.board, .regs, .mem, .log, .red, .ful, .cut, .sedge, .map, .rst, .warden, .syn, .cmd, .chk, .freeCtr, .outbox], 0x20c00900b7500001e7a5f1d3e11df90000000001f7000060200000000000) s (State.dataHere s) := by
  unfold State.dataHere
  repeat' first
    | with_reducible exact Keep.refl _ _
    | with_reducible assumption
    | (with_reducible apply Keep.step; with_reducible apply State.recordRestore_keep; decide)
    | (with_reducible apply Keep.step; with_reducible apply State.onInput_keep; decide)
    | with_reducible apply Keep.ite
    | split
    | dsimp only

theorem doRollbackComplete_keep (s : State) : OutKeep ([.board, .regs, .mem, .log, .red, .ful, .cut, .sedge, .map, .rst, .warden, .syn, .cmd, .chk, .freeCtr, .outbox], 0x20c00900b7500001e7a5f1d3e11df90000000001f7000060200000000000) s (doRollbackComplete s) := by
  unfold doRollbackComplete
  repeat' first
    | with_reducible exact Keep.refl _ _
    | with_reducible assumption
    | (with_reducible apply Keep.step; with_reducible apply State.recordRestore_keep; decide)
    | (with_reducible apply Keep.step; with_reducible apply State.switchInputs_keep; decide)
    | (with_reducible apply Keep.step; with_reducible apply State.dataHere_keep; decide)
    | (with_reducible apply Keep.step; with_reducible apply State.peatBack_keep; assumption; decide)
    | (with_reducible apply Keep.step; with_reducible apply State.copyBack_keep; decide)
    | with_reducible apply Keep.foldl
    | with_reducible apply Keep.foldl_fst
    | with_reducible apply Keep.foldl_snd
    | with_reducible apply Keep.ite
    | with_reducible apply OutKeep.ite
    | with_reducible apply OutKeep.next
    | split
    | dsimp only
    | intro _

theorem State.landRegion_keep (off : Nat) (bs : List Byte) (s : State) (r : Region) : Keep ([.mem], 0x0) s (State.landRegion off bs s r) := by
  unfold State.landRegion
  repeat' first
    | with_reducible exact Keep.refl _ _
    | with_reducible assumption
    | (with_reducible apply Keep.step; with_reducible apply State.store'_keep; decide)
    | with_reducible apply Keep.ite
    | split
    | dsimp only

theorem State.landAt_keep (s : State) (off : Nat) (bs : List Byte) : Keep ([.mem, .rst], 0x0) s (State.landAt s off bs) := by
  unfold State.landAt
  repeat' first
    | with_reducible exact Keep.refl _ _
    | with_reducible assumption
    | (with_reducible apply Keep.step; with_reducible apply State.landRegion_keep; decide)
    | (with_reducible apply Keep.step; with_reducible apply State.store'_keep; decide)
    | (with_reducible apply Keep.step; with_reducible apply State.onRst_keep; intro _ h; (first | exact h | exact Memory.wf_nil | exact Memory.wf_putBytes _ _ h | exact Memory.wf_erase _ _ h | with_unfolding_all exact h); decide)
    | with_reducible apply Keep.foldl
    | with_reducible apply Keep.foldl_fst
    | with_reducible apply Keep.foldl_snd
    | with_reducible apply Keep.ite
    | split
    | dsimp only
    | intro _

theorem State.refillSend_keep (s : State) (rack : BitVec 10) (pos : BitVec 7) (step : W64) (cgen : BitVec 8) (off : Nat) (bs : List Byte) : Keep ([.regs, .red, .rst, .freeCtr, .outbox], 0x0) s (State.refillSend s rack pos step cgen off bs) := by
  unfold State.refillSend
  repeat' first
    | with_reducible exact Keep.refl _ _
    | with_reducible assumption
    | (with_reducible apply Keep.step; with_reducible apply State.allocTag_keep; decide)
    | (with_reducible apply Keep.step; with_reducible apply State.sendTo_keep; decide)
    | (with_reducible apply Keep.step; with_reducible apply State.onRst_keep; intro _ h; (first | exact h | exact Memory.wf_nil | exact Memory.wf_putBytes _ _ h | exact Memory.wf_erase _ _ h | with_unfolding_all exact h); decide)
    | with_reducible apply Keep.foldl
    | with_reducible apply Keep.foldl_fst
    | with_reducible apply Keep.foldl_snd
    | with_reducible apply Keep.ite
    | split
    | dsimp only
    | intro _
    | (with_reducible apply Keep.step; with_reducible apply Keep.of_snd; assumption; with_reducible apply State.allocTag_keep; decide)

theorem State.peatServe_keep (s : State) (e : CatEntry) (rack : BitVec 10) (pos : BitVec 7) (off n : Nat) : Keep ([.regs, .red, .rst, .freeCtr, .outbox], 0x0) s (State.peatServe s e rack pos off n) := by
  unfold State.peatServe
  repeat' first
    | with_reducible exact Keep.refl _ _
    | with_reducible assumption
    | (with_reducible apply Keep.step; with_reducible apply State.refillSend_keep; decide)
    | (with_reducible apply Keep.step; with_reducible apply State.onRst_keep; intro _ h; (first | exact h | exact Memory.wf_nil | exact Memory.wf_putBytes _ _ h | exact Memory.wf_erase _ _ h | with_unfolding_all exact h); decide)
    | with_reducible apply Keep.ite
    | split
    | dsimp only

theorem execRefillRequest_keep (n : Fin 42) (f : Frame) (s : State) : OutKeep ([.regs, .red, .rst, .freeCtr, .outbox], 0x280000000000000000000000000005000000000000000000000) s (execRefillRequest n f s) := by
  unfold execRefillRequest
  repeat' first
    | with_reducible exact Keep.refl _ _
    | with_reducible assumption
    | (with_reducible apply Keep.step; with_reducible apply State.refillSend_keep; decide)
    | (with_reducible apply Keep.step; with_reducible apply State.peatServe_keep; decide)
    | (with_reducible apply Keep.step; with_reducible apply State.staleAt_keep; decide)
    | (with_reducible apply Keep.step; with_reducible apply State.raise_keep has_Fld_tierRstErrStatus_mixedStep; decide)
    | with_reducible apply State.rstRecv_keep
    | with_reducible apply Keep.ite
    | with_reducible apply OutKeep.ite
    | with_reducible apply OutKeep.next
    | (show sub _ _ = true; decide)
    | split
    | dsimp only
    | with_reducible exact Keep.id _ _
    | intro _

theorem State.landReads_keep (s : State) (f : Frame) : Keep ([.regs, .cmd], 0x0) s (State.landReads s f).1 := by
  unfold State.landReads
  repeat' first
    | with_reducible exact Keep.refl _ _
    | with_reducible assumption
    | (with_reducible apply Keep.step; with_reducible apply State.putCtx_keep; decide)
    | with_reducible apply Keep.foldl
    | with_reducible apply Keep.foldl_fst
    | with_reducible apply Keep.foldl_snd
    | with_reducible apply Keep.ite
    | split
    | dsimp only
    | intro _

theorem State.hasLanded_keep (s : State) (off k : Nat) : Keep ([.rst], 0x0) s (State.hasLanded s off k) := by
  unfold State.hasLanded
  repeat' first
    | with_reducible exact Keep.refl _ _
    | with_reducible assumption
    | (with_reducible apply Keep.step; with_reducible apply State.onRst_keep; intro _ h; (first | exact h | exact Memory.wf_nil | exact Memory.wf_putBytes _ _ h | exact Memory.wf_erase _ _ h | with_unfolding_all exact h); decide)
    | with_reducible apply Keep.ite
    | split
    | dsimp only

theorem execRefillData_keep (n : Fin 42) (f : Frame) (s : State) : OutKeep ([.regs, .mem, .rst, .cmd, .outbox], 0x86c0000000000000000000000000005000000000000000000000) s (execRefillData n f s) := by
  unfold execRefillData
  repeat' first
    | with_reducible exact Keep.refl _ _
    | with_reducible assumption
    | (with_reducible apply Keep.step; with_reducible apply State.switchInputs_keep; decide)
    | (with_reducible apply Keep.step; with_reducible apply State.staleRestore_keep; decide)
    | (with_reducible apply Keep.step; with_reducible apply State.hasLanded_keep; decide)
    | (with_reducible apply Keep.step; with_reducible apply State.landReads_keep; decide)
    | (with_reducible apply Keep.step; with_reducible apply State.staleAt_keep; decide)
    | (with_reducible apply Keep.step; with_reducible apply State.landAt_keep; decide)
    | (with_reducible apply Keep.step; with_reducible apply State.sendTo_keep; decide)
    | (with_reducible apply Keep.step; with_reducible apply State.onRst_keep; intro _ h; (first | exact h | exact Memory.wf_nil | exact Memory.wf_putBytes _ _ h | exact Memory.wf_erase _ _ h | with_unfolding_all exact h); decide)
    | (with_reducible apply Keep.step; with_reducible apply State.raise_keep has_Fld_tierRstErrStatus_mixedStep; decide)
    | with_reducible apply State.recv_keep
    | with_reducible apply Keep.ite
    | with_reducible apply OutKeep.ite
    | with_reducible apply OutKeep.next
    | (show sub _ _ = true; decide)
    | split
    | dsimp only
    | with_reducible exact Keep.id _ _
    | intro _
    | (with_reducible apply Keep.step; with_reducible apply Keep.of_fst; assumption; with_reducible apply State.landReads_keep; decide)

theorem execRefillAck_keep (n : Fin 42) (f : Frame) (s : State) : OutKeep ([.regs, .red, .rst], 0x80000000000000000000000000005000000000000000000000) s (execRefillAck n f s) := by
  unfold execRefillAck
  repeat' first
    | with_reducible exact Keep.refl _ _
    | with_reducible assumption
    | (with_reducible apply Keep.step; with_reducible apply State.releaseTag_keep; decide)
    | (with_reducible apply Keep.step; with_reducible apply State.staleAt_keep; decide)
    | (with_reducible apply Keep.step; with_reducible apply State.onRst_keep; intro _ h; (first | exact h | exact Memory.wf_nil | exact Memory.wf_putBytes _ _ h | exact Memory.wf_erase _ _ h | with_unfolding_all exact h); decide)
    | with_reducible apply State.rstRecv_keep
    | with_reducible apply Keep.ite
    | with_reducible apply OutKeep.ite
    | with_reducible apply OutKeep.next
    | (show sub _ _ = true; decide)
    | split
    | dsimp only
    | with_reducible exact Keep.id _ _
    | intro _

theorem State.elasticRow_keep (s : State) (r : Region) (pos : Nat) (m : MapRow) : Keep ([.regs, .mem, .freeCtr], 0x0) s (State.elasticRow s r pos m).1 := by
  unfold State.elasticRow
  repeat' first
    | with_reducible exact Keep.refl _ _
    | with_reducible assumption
    | (with_reducible apply Keep.step; with_reducible apply State.freeBytes_keep; decide)
    | (with_reducible apply Keep.step; with_reducible apply State.pickFree_keep; decide)
    | (with_reducible apply Keep.step; with_reducible apply State.pickBool_keep; decide)
    | (with_reducible apply Keep.step; with_reducible apply State.store'_keep; decide)
    | with_reducible apply Keep.ite
    | split
    | dsimp only
    | (with_reducible apply Keep.step; with_reducible apply Keep.of_snd; assumption; with_reducible apply State.freeBytes_keep; decide)
    | (with_reducible apply Keep.step; with_reducible apply Keep.of_snd; assumption; with_reducible apply State.pickFree_keep; decide)
    | (with_reducible apply Keep.step; with_reducible apply Keep.of_snd; assumption; with_reducible apply State.pickBool_keep; decide)

theorem State.elasticCopy_keep (s : State) (rows : List MapRow) : Keep ([.regs, .mem, .freeCtr], 0x0) s (s.elasticCopy rows).1 := by
  unfold State.elasticCopy
  refine Keep.foldl_fst (Keep.refl _ _) (fun p r => ?_)
  dsimp only
  have key (l : List MapRow) (z : (State × Option Status) × Nat) (h : Keep ([.regs, .mem, .freeCtr], 0x0) p.1 z.1.1) :
      Keep ([.regs, .mem, .freeCtr], 0x0) p.1 (l.foldl (fun b m => match b.1.2 with
        | some _ => b
        | none => (b.1.1.elasticRow r b.2 m, b.2 + m.count)) z).1.1 := by
    induction l generalizing z with
    | nil => exact h
    | cons m l ih =>
      refine ih _ ?_
      dsimp only
      split
      · exact h
      · exact Keep.step (State.elasticRow_keep _ _ _ _) (by decide) h
  exact key _ _ (Keep.refl _ _)

theorem State.rankZeroRecord_keep (s : State) : Keep ([.freeCtr], 0x0) s (State.rankZeroRecord s).2 := by
  unfold State.rankZeroRecord
  repeat' first
    | with_reducible exact Keep.refl _ _
    | with_reducible assumption
    | (with_reducible apply Keep.step; with_reducible apply State.freeBytes_keep; decide)
    | with_reducible apply Keep.ite
    | split
    | dsimp only
    | (with_reducible apply Keep.step; with_reducible apply Keep.of_snd; assumption; with_reducible apply State.freeBytes_keep; decide)

theorem State.elasticRefuse_keep (s : State) (st : Status) : Keep ([.regs, .log, .rst, .cmd], 0x4000000000000000000000000000000000000040000000000000) s (State.elasticRefuse s st) := by
  unfold State.elasticRefuse
  repeat' first
    | with_reducible exact Keep.refl _ _
    | with_reducible assumption
    | (with_reducible apply Keep.step; with_reducible apply State.ctxEnd_keep; decide)
    | (with_reducible apply Keep.step; with_reducible apply State.onRst_keep; intro _ h; (first | exact h | exact Memory.wf_nil | exact Memory.wf_putBytes _ _ h | exact Memory.wf_erase _ _ h | with_unfolding_all exact h); decide)
    | (with_reducible apply Keep.step; with_reducible apply State.raise_keep has_Fld_tierRstErrStatus_reshardInvalid; decide)
    | with_reducible apply Keep.ite
    | split
    | dsimp only

theorem State.elasticDone_keep (s : State) : Keep ([.regs, .mem, .log, .red, .ful, .cut, .rst, .syn, .cmd, .chk, .freeCtr], 0x8008004000000000000000000000000000000000000040000000000000) s (State.elasticDone s) := by
  unfold State.elasticDone
  repeat' first
    | with_reducible exact Keep.refl _ _
    | with_reducible assumption
    | (with_reducible apply Keep.step; with_reducible apply State.rankZeroRecord_keep; decide)
    | (with_reducible apply Keep.step; with_reducible apply State.elasticRefuse_keep; decide)
    | (with_reducible apply Keep.step; with_reducible apply State.verifyLanes_keep; decide)
    | (with_reducible apply Keep.step; with_reducible apply State.elasticCopy_keep; decide)
    | (with_reducible apply Keep.step; with_reducible apply State.recSeqs_keep; decide)
    | (with_reducible apply Keep.step; with_reducible apply State.store'_keep; decide)
    | (with_reducible apply Keep.step; with_reducible apply State.onFul_keep; decide)
    | (with_reducible apply Keep.step; with_reducible apply State.onRst_keep; intro _ h; (first | exact h | exact Memory.wf_nil | exact Memory.wf_putBytes _ _ h | exact Memory.wf_erase _ _ h | with_unfolding_all exact h); decide)
    | (with_reducible apply Keep.step; with_reducible apply State.onSyn_keep; intro _; rfl; decide)
    | (with_reducible apply Keep.step; with_reducible apply State.setReg_keep has_Reg_fulSrSeed; decide)
    | (with_reducible apply Keep.step; with_reducible apply State.setReg_keep has_Reg_redSrSeed; decide)
    | with_reducible apply Keep.ite
    | split
    | dsimp only
    | (with_reducible apply Keep.step; with_reducible apply Keep.of_snd; assumption; with_reducible apply State.rankZeroRecord_keep; decide)
    | (with_reducible apply Keep.step; with_reducible apply Keep.of_fst; assumption; with_reducible apply State.elasticCopy_keep; decide)
    | (with_reducible apply Keep.step; with_reducible apply State.onSyn_zero; intro _; rfl; decide)

theorem doRefillComplete_keep (s : State) : OutKeep ([.board, .regs, .mem, .log, .red, .ful, .cut, .sedge, .map, .rst, .warden, .syn, .cmd, .chk, .freeCtr, .outbox], 0x20c00900f7500001e7a5f1d3e11df90000000001f7000060200000000000) s (doRefillComplete s) := by
  unfold doRefillComplete
  repeat' first
    | with_reducible exact Keep.refl _ _
    | with_reducible assumption
    | (with_reducible apply Keep.step; with_reducible apply State.recordRestore_keep; decide)
    | (with_reducible apply Keep.step; with_reducible apply State.elasticDone_keep; decide)
    | with_reducible apply Keep.ite
    | with_reducible apply OutKeep.ite
    | with_reducible apply OutKeep.next
    | split
    | dsimp only

theorem doRefillWatchdogExpiry_keep (race : Race) (s : State) : OutKeep ([.regs, .log, .rst, .cmd, .outbox], 0x8440000000000000000000000000000000000040000000300000) s (doRefillWatchdogExpiry race s) := by
  unfold doRefillWatchdogExpiry
  repeat' first
    | with_reducible exact Keep.refl _ _
    | with_reducible assumption
    | (with_reducible apply Keep.step; with_reducible apply State.switchInputs_keep; decide)
    | (with_reducible apply Keep.step; with_reducible apply State.logAbort_keep; decide)
    | (with_reducible apply Keep.step; with_reducible apply State.logRace_keep; decide)
    | (with_reducible apply Keep.step; with_reducible apply State.ctxEnd_keep; decide)
    | with_reducible apply Keep.foldl
    | with_reducible apply Keep.foldl_fst
    | with_reducible apply Keep.foldl_snd
    | with_reducible apply Keep.ite
    | with_reducible apply OutKeep.ite
    | with_reducible apply OutKeep.next
    | split
    | dsimp only
    | intro _

theorem State.spareHalf_keep (s : State) : Keep ([.regs, .mem, .sump, .cut, .freeCtr], 0x2000000000000001e0000000000000000000000000000000000000000000) s (State.spareHalf s) := by
  unfold State.spareHalf
  repeat' first
    | with_reducible exact Keep.refl _ _
    | with_reducible assumption
    | (with_reducible apply Keep.step; with_reducible apply State.jobCutIs_keep; decide)
    | (with_reducible apply Keep.step; with_reducible apply State.pickFree_keep; decide)
    | (with_reducible apply Keep.step; with_reducible apply State.pickBool_keep; decide)
    | (with_reducible apply Keep.step; with_reducible apply State.putHalf_keep; decide)
    | (with_reducible apply Keep.step; with_reducible apply State.store'_keep; decide)
    | (with_reducible apply Keep.step; with_reducible apply State.onCut_keep; decide)
    | with_reducible apply Keep.foldl
    | with_reducible apply Keep.foldl_fst
    | with_reducible apply Keep.foldl_snd
    | fail_if_no_progress (with_reducible apply Keep.step; with_reducible apply keep_sump; intro h; exact Memory.wf_putBytes _ _ h; decide)
    | with_reducible apply Keep.ite
    | split
    | dsimp only
    | intro _
    | (with_reducible apply Keep.step; with_reducible apply Keep.of_snd; assumption; with_reducible apply State.pickFree_keep; decide)
    | (with_reducible apply Keep.step; with_reducible apply Keep.of_snd; assumption; with_reducible apply State.pickBool_keep; decide)

theorem State.retakeMan_keep (s : State) : Keep ([.regs, .rst, .outbox], 0x8440000000000000000000000000000000000000000000000000) s (State.retakeMan s) := by
  unfold State.retakeMan
  repeat' first
    | with_reducible exact Keep.refl _ _
    | with_reducible assumption
    | (with_reducible apply Keep.step; with_reducible apply State.switchInputs_keep; decide)
    | (with_reducible apply Keep.step; with_reducible apply State.onInput_keep; decide)
    | with_reducible apply Keep.ite
    | split
    | dsimp only

theorem State.retake_keep (s : State) (rs : List Region) : Keep ([.regs, .log, .rst, .outbox], 0x18440000000000000000000000000000000000040000000000000) s (State.retake s rs) := by
  unfold State.retake
  repeat' first
    | with_reducible exact Keep.refl _ _
    | with_reducible assumption
    | (with_reducible apply Keep.step; with_reducible apply State.switchInputs_keep; decide)
    | (with_reducible apply Keep.step; with_reducible apply State.logAbort_keep; decide)
    | (with_reducible apply Keep.step; with_reducible apply State.onRst_keep; intro _ h; (first | exact h | exact Memory.wf_nil | exact Memory.wf_putBytes _ _ h | exact Memory.wf_erase _ _ h | with_unfolding_all exact h); decide)
    | (with_reducible apply Keep.step; with_reducible apply State.raise_keep has_Fld_tierRstErrStatus_verifyFail; decide)
    | with_reducible apply Keep.foldl
    | with_reducible apply Keep.foldl_fst
    | with_reducible apply Keep.foldl_snd
    | with_reducible apply Keep.ite
    | split
    | dsimp only
    | intro _

theorem doVerifyComplete_keep (s : State) : OutKeep ([.board, .regs, .mem, .sump, .log, .red, .ful, .cut, .sedge, .map, .rst, .warden, .syn, .chk, .freeCtr, .outbox], 0x20400101a7500001e7a5f1d3e11df90000000001f7000060200000000000) s (doVerifyComplete s) := by
  unfold doVerifyComplete
  repeat' first
    | with_reducible exact Keep.refl _ _
    | with_reducible assumption
    | (with_reducible apply Keep.step; with_reducible apply State.verifyLanes_keep; decide)
    | (with_reducible apply Keep.step; with_reducible apply State.spareHalf_keep; decide)
    | (with_reducible apply Keep.step; with_reducible apply State.retakeMan_keep; decide)
    | (with_reducible apply Keep.step; with_reducible apply State.dropLanes_keep; decide)
    | (with_reducible apply Keep.step; with_reducible apply State.dropCtxs_keep; decide)
    | (with_reducible apply Keep.step; with_reducible apply State.retake_keep; decide)
    | (with_reducible apply Keep.step; with_reducible apply State.onRst_keep; intro _ h; (first | exact h | exact Memory.wf_nil | exact Memory.wf_putBytes _ _ h | exact Memory.wf_erase _ _ h | with_unfolding_all exact h); decide)
    | (with_reducible apply Keep.step; with_reducible apply State.ready_keep; decide)
    | (with_reducible apply Keep.step; with_reducible apply State.raise_keep has_Fld_tierRstErrStatus_mixedStep; decide)
    | with_reducible apply Keep.ite
    | with_reducible apply OutKeep.ite
    | with_reducible apply OutKeep.next
    | split
    | dsimp only

theorem State.refeltStart_keep (s : State) : Keep ([.cut, .outbox], 0x0) s (State.refeltStart s) := by
  unfold State.refeltStart
  repeat' first
    | with_reducible exact Keep.refl _ _
    | with_reducible assumption
    | (with_reducible apply Keep.step; with_reducible apply State.toPartner_keep; decide)
    | (with_reducible apply Keep.step; with_reducible apply State.putCut_keep; decide)
    | with_reducible apply Keep.foldl
    | with_reducible apply Keep.foldl_fst
    | with_reducible apply Keep.foldl_snd
    | with_reducible apply Keep.ite
    | split
    | dsimp only
    | intro _

theorem State.released_keep (s : State) : Keep ([.board, .regs, .mem, .log, .red, .ful, .cut, .sedge, .map, .rst, .warden, .syn, .chk, .freeCtr, .outbox], 0x7f81002530000017a5f1d3e11df90100000001f7000060200000000000) s (State.released s) := by
  unfold State.released
  repeat' first
    | with_reducible exact Keep.refl _ _
    | with_reducible assumption
    | (with_reducible apply Keep.step; with_reducible apply State.clearFlagNow_keep; decide)
    | (with_reducible apply Keep.step; with_reducible apply State.refeltStart_keep; decide)
    | (with_reducible apply Keep.step; with_reducible apply State.redReleased_keep; decide)
    | (with_reducible apply Keep.step; with_reducible apply State.queries_keep; decide)
    | (with_reducible apply Keep.step; with_reducible apply State.logIt_keep; decide)
    | (with_reducible apply Keep.step; with_reducible apply State.onRst_keep; intro _ h; (first | exact h | exact Memory.wf_nil | exact Memory.wf_putBytes _ _ h | exact Memory.wf_erase _ _ h | with_unfolding_all exact h); decide)
    | (with_reducible apply Keep.step; with_reducible apply State.ready_keep; decide)
    | (with_reducible apply Keep.step; with_reducible apply State.bump_keep has_Fld_tierRstCounts_restores; decide)
    | (with_reducible apply Keep.step; with_reducible apply State.wr_keep has_Fld_tierCutGen_gen; decide)
    | with_reducible apply Keep.ite
    | split
    | dsimp only

end Sys2Proof.Machine
end

