-- ==== Sys2Proof/Laws/KeepWarden.lean ====
section
/-! SUPPORT. What each operation of Machine/Warden.lean can do: one lemma for each (`Keep`). -/
namespace Sys2Proof.Machine

set_option linter.all false

theorem State.onWarden_keep (s : State) (f : Warden → Warden) : Keep ([.warden], 0x0) s (State.onWarden s f) := by
  unfold State.onWarden
  repeat' first
    | with_reducible exact Keep.refl _ _
    | with_reducible assumption
    | fail_if_no_progress (with_reducible apply Keep.step; with_reducible apply keep_warden; decide)
    | with_reducible apply Keep.ite
    | split
    | dsimp only

theorem State.onElect_keep (s : State) (f : Elect → Elect) : Keep ([.elect], 0x0) s (State.onElect s f) := by
  unfold State.onElect
  repeat' first
    | with_reducible exact Keep.refl _ _
    | with_reducible assumption
    | fail_if_no_progress (with_reducible apply Keep.step; with_reducible apply keep_elect; decide)
    | with_reducible apply Keep.ite
    | split
    | dsimp only

theorem State.putMember_keep (s : State) (m : Member) : Keep ([.warden], 0x0) s (State.putMember s m) := by
  unfold State.putMember
  repeat' first
    | with_reducible exact Keep.refl _ _
    | with_reducible assumption
    | (with_reducible apply Keep.step; with_reducible apply State.onWarden_keep; decide)
    | with_reducible apply Keep.ite
    | split
    | dsimp only

theorem State.treeRole'_keep (s : State) (role t : Nat) : Keep ([.regs], 0xf000000000000000000000000000000000000000) s (State.treeRole' s role t) := by
  unfold State.treeRole'
  repeat' first
    | with_reducible exact Keep.refl _ _
    | with_reducible assumption
    | (with_reducible apply Keep.step; with_reducible apply State.wr_keep (has_Fld_synTbarTree_children _); decide)
    | (with_reducible apply Keep.step; with_reducible apply State.wr_keep (has_Fld_synTbarTree_role _); decide)
    | (with_reducible apply Keep.step; with_reducible apply State.wr_keep (has_Fld_synTbarTree_upPos _); decide)
    | (with_reducible apply Keep.step; with_reducible apply State.wr_keep (has_Fld_synTbarTree_upRack _); decide)
    | with_reducible apply Keep.ite
    | split
    | dsimp only

theorem State.setRole_keep (s : State) (role : Nat) : Keep ([.regs], 0xf000000000000000000000000020200000000000) s (State.setRole s role) := by
  unfold State.setRole
  repeat' first
    | with_reducible exact Keep.refl _ _
    | with_reducible assumption
    | (with_reducible apply Keep.step; with_reducible apply State.treeRole'_keep; decide)
    | (with_reducible apply Keep.step; with_reducible apply State.raise_keep has_Fld_ctlErrStatus_roleChange; decide)
    | (with_reducible apply Keep.step; with_reducible apply State.wr_keep has_Fld_ctlElect_role; decide)
    | with_reducible apply Keep.foldl
    | with_reducible apply Keep.foldl_fst
    | with_reducible apply Keep.foldl_snd
    | with_reducible apply Keep.ite
    | split
    | dsimp only
    | intro _

theorem State.toPeers_keep (s : State) (skip : List (BitVec 10 × BitVec 7)) (ty : BitVec 8) (f : Frame) : Keep ([.outbox], 0x0) s (State.toPeers s skip ty f) := by
  unfold State.toPeers
  repeat' first
    | with_reducible exact Keep.refl _ _
    | with_reducible assumption
    | (with_reducible apply Keep.step; with_reducible apply State.sendTo_keep; decide)
    | with_reducible apply Keep.foldl
    | with_reducible apply Keep.foldl_fst
    | with_reducible apply Keep.foldl_snd
    | with_reducible apply Keep.ite
    | split
    | dsimp only
    | intro _

theorem State.classStart_keep (s : State) : Keep ([.warden], 0x0) s (State.classStart s) := by
  unfold State.classStart
  repeat' first
    | with_reducible exact Keep.refl _ _
    | with_reducible assumption
    | (with_reducible apply Keep.step; with_reducible apply State.onWarden_keep; decide)
    | with_reducible apply Keep.ite
    | split
    | dsimp only

theorem State.raiseHalt_keep (s : State) : Keep ([.board, .regs, .mem, .log, .red, .ful, .cut, .sedge, .map, .rst, .warden, .syn, .chk, .freeCtr, .outbox], 0x4001002510000007a5f1d3e11df90000000001f7000060200000000000) s (State.raiseHalt s) := by
  unfold State.raiseHalt
  repeat' first
    | with_reducible exact Keep.refl _ _
    | with_reducible assumption
    | (with_reducible apply Keep.step; with_reducible apply State.classStart_keep; decide)
    | (with_reducible apply Keep.step; with_reducible apply State.haltTake_keep; decide)
    | (with_reducible apply Keep.step; with_reducible apply State.toPeers_keep; decide)
    | with_reducible apply Keep.ite
    | split
    | dsimp only

theorem State.planFails_keep (s : State) : Keep ([.regs, .rst, .warden, .outbox], 0x400000000000000000000000000000000000000000000000000) s (State.planFails s) := by
  unfold State.planFails
  repeat' first
    | with_reducible exact Keep.refl _ _
    | with_reducible assumption
    | (with_reducible apply Keep.step; with_reducible apply State.onWarden_keep; decide)
    | (with_reducible apply Keep.step; with_reducible apply State.planNone_keep; decide)
    | (with_reducible apply Keep.step; with_reducible apply State.noSource_keep; decide)
    | (with_reducible apply Keep.step; with_reducible apply State.toPeers_keep; decide)
    | (with_reducible apply Keep.step; with_reducible apply State.raise_keep has_Fld_tierRstErrStatus_noSource; decide)
    | with_reducible apply Keep.ite
    | split
    | dsimp only

theorem State.propose_keep (s : State) : Keep ([.board, .regs, .mem, .log, .red, .ful, .cut, .sedge, .map, .rst, .warden, .syn, .chk, .freeCtr, .outbox], 0x4001002510000007a5f1d3e11df90000000001f7000060200000000000) s (State.propose s) := by
  unfold State.propose
  repeat' first
    | with_reducible exact Keep.refl _ _
    | with_reducible assumption
    | (with_reducible apply Keep.step; with_reducible apply State.planFails_keep; decide)
    | (with_reducible apply Keep.step; with_reducible apply State.onWarden_keep; decide)
    | (with_reducible apply Keep.step; with_reducible apply State.planVote_keep; decide)
    | (with_reducible apply Keep.step; with_reducible apply State.toPeers_keep; decide)
    | with_reducible apply Keep.ite
    | split
    | dsimp only

theorem State.queryTo_keep (s : State) (rack : BitVec 10) (pos : BitVec 7) (rank : BitVec 32) (bit : Nat) (host : Bool) : Keep ([.regs, .rst, .freeCtr, .outbox], 0x0) s (State.queryTo s rack pos rank bit host) := by
  unfold State.queryTo
  repeat' first
    | with_reducible exact Keep.refl _ _
    | with_reducible assumption
    | (with_reducible apply Keep.step; with_reducible apply State.queries_keep; decide)
    | (with_reducible apply Keep.step; with_reducible apply State.sendTo_keep; decide)
    | (with_reducible apply Keep.step; with_reducible apply State.onRst_keep; intro _ h; (first | exact h | exact Memory.wf_nil | exact Memory.wf_putBytes _ _ h | exact Memory.wf_erase _ _ h | with_unfolding_all exact h); decide)
    | with_reducible apply Keep.ite
    | split
    | dsimp only

theorem State.planEngine_keep (s : State) : Keep ([.freeCtr], 0x0) s (State.planEngine s).2 := by
  unfold State.planEngine
  repeat' first
    | with_reducible exact Keep.refl _ _
    | with_reducible assumption
    | (with_reducible apply Keep.step; with_reducible apply State.pickFree_keep; decide)
    | with_reducible apply Keep.ite
    | split
    | dsimp only
    | (with_reducible apply Keep.step; with_reducible apply Keep.of_snd; assumption; with_reducible apply State.pickFree_keep; decide)

theorem State.queries_keep (s : State) : Keep ([.regs, .rst, .freeCtr, .outbox], 0x0) s (State.queries s) := by
  unfold State.queries
  repeat' first
    | with_reducible exact Keep.refl _ _
    | with_reducible assumption
    | (with_reducible apply Keep.step; with_reducible apply State.planEngine_keep; decide)
    | (with_reducible apply Keep.step; with_reducible apply State.pickFree_keep; decide)
    | (with_reducible apply Keep.step; with_reducible apply State.queryTo_keep; decide)
    | with_reducible apply Keep.foldl
    | with_reducible apply Keep.foldl_fst
    | with_reducible apply Keep.foldl_snd
    | with_reducible apply Keep.ite
    | split
    | dsimp only
    | intro _
    | (with_reducible apply Keep.step; with_reducible apply Keep.of_snd; assumption; with_reducible apply State.planEngine_keep; decide)
    | (with_reducible apply Keep.step; with_reducible apply Keep.of_snd; assumption; with_reducible apply State.pickFree_keep; decide)

theorem State.startPlan_keep (s : State) : Keep ([.board, .regs, .mem, .log, .red, .ful, .cut, .sedge, .map, .rst, .warden, .syn, .chk, .freeCtr, .outbox], 0x4001002510000007a5f1d3e11df90000000001f7000060200000000000) s (State.startPlan s) := by
  unfold State.startPlan
  repeat' first
    | with_reducible exact Keep.refl _ _
    | with_reducible assumption
    | (with_reducible apply Keep.step; with_reducible apply State.planFails_keep; decide)
    | (with_reducible apply Keep.step; with_reducible apply State.onWarden_keep; decide)
    | (with_reducible apply Keep.step; with_reducible apply State.queries_keep; decide)
    | (with_reducible apply Keep.step; with_reducible apply State.propose_keep; decide)
    | with_reducible apply Keep.ite
    | split
    | dsimp only

theorem State.classEnd_keep (s : State) : Keep ([.board, .regs, .mem, .log, .red, .ful, .cut, .sedge, .map, .rst, .warden, .syn, .chk, .freeCtr, .outbox], 0x4001002510000007a5f1d3e11df90000000001f7000060200000000000) s (State.classEnd s) := by
  unfold State.classEnd
  repeat' first
    | with_reducible exact Keep.refl _ _
    | with_reducible assumption
    | (with_reducible apply Keep.step; with_reducible apply State.startPlan_keep; decide)
    | (with_reducible apply Keep.step; with_reducible apply State.onWarden_keep; decide)
    | with_reducible apply Keep.ite
    | split
    | dsimp only

theorem State.jobGoes_keep (s : State) : Keep ([.regs, .rst, .warden], 0x800000000000000000000000000000000000000000000000000) s (State.jobGoes s) := by
  unfold State.jobGoes
  repeat' first
    | with_reducible exact Keep.refl _ _
    | with_reducible assumption
    | (with_reducible apply Keep.step; with_reducible apply State.onWarden_keep; decide)
    | (with_reducible apply Keep.step; with_reducible apply State.onRst_keep; intro _ h; (first | exact h | exact Memory.wf_nil | exact Memory.wf_putBytes _ _ h | exact Memory.wf_erase _ _ h | with_unfolding_all exact h); decide)
    | (with_reducible apply Keep.step; with_reducible apply State.raise_keep has_Fld_tierRstErrStatus_noSpare; decide)
    | with_reducible apply Keep.ite
    | split
    | dsimp only

theorem State.planResult_keep (s : State) (st : Status) (or' : W64) : Keep ([.board, .regs, .mem, .log, .red, .ful, .cut, .sedge, .map, .rst, .warden, .syn, .cmd, .chk, .freeCtr, .outbox], 0x20c00900bf500001e7a5f1d3e11df90000000001f7000060200000000000) s (State.planResult s st or') := by
  unfold State.planResult
  repeat' first
    | with_reducible exact Keep.refl _ _
    | with_reducible assumption
    | (with_reducible apply Keep.step; with_reducible apply State.onWarden_keep; decide)
    | (with_reducible apply Keep.step; with_reducible apply State.jobGoes_keep; decide)
    | (with_reducible apply Keep.step; with_reducible apply State.toPeers_keep; decide)
    | (with_reducible apply Keep.step; with_reducible apply State.propose_keep; decide)
    | (with_reducible apply Keep.step; with_reducible apply State.chosen_keep; decide)
    | with_reducible apply Keep.ite
    | split
    | dsimp only

theorem State.replan_keep (s : State) : Keep ([.board, .regs, .mem, .log, .red, .ful, .cut, .sedge, .map, .rst, .warden, .syn, .chk, .freeCtr, .outbox], 0x4001002510000007a5f1d3e11df90000000001f7000060200000000000) s (State.replan s) := by
  unfold State.replan
  repeat' first
    | with_reducible exact Keep.refl _ _
    | with_reducible assumption
    | (with_reducible apply Keep.step; with_reducible apply State.raiseHalt_keep; decide)
    | (with_reducible apply Keep.step; with_reducible apply State.sendTo_keep; decide)
    | with_reducible apply Keep.ite
    | split
    | dsimp only

theorem State.react_keep (s : State) (further : Bool) : Keep ([.board, .regs, .mem, .log, .red, .ful, .cut, .sedge, .map, .rst, .warden, .syn, .chk, .freeCtr, .outbox], 0x4001002510000007a5f1d3e11df90000000001f7000060200000000000) s (State.react s further) := by
  unfold State.react
  repeat' first
    | with_reducible exact Keep.refl _ _
    | with_reducible assumption
    | (with_reducible apply Keep.step; with_reducible apply State.raiseHalt_keep; decide)
    | (with_reducible apply Keep.step; with_reducible apply State.classEnd_keep; decide)
    | (with_reducible apply Keep.step; with_reducible apply State.replan_keep; decide)
    | (with_reducible apply Keep.step; with_reducible apply State.sendTo_keep; decide)
    | with_reducible apply Keep.ite
    | split
    | dsimp only

theorem State.declareFailed_keep (s : State) (m : Member) : Keep ([.regs, .rst, .warden, .freeCtr, .outbox], 0x88440000000000000000000000000000000000000000000000000) s (State.declareFailed s m) := by
  unfold State.declareFailed
  repeat' first
    | with_reducible exact Keep.refl _ _
    | with_reducible assumption
    | (with_reducible apply Keep.step; with_reducible apply State.sourceLost_keep; decide)
    | (with_reducible apply Keep.step; with_reducible apply State.putMember_keep; decide)
    | (with_reducible apply Keep.step; with_reducible apply State.onWarden_keep; decide)
    | (with_reducible apply Keep.step; with_reducible apply State.pickFree_keep; decide)
    | (with_reducible apply Keep.step; with_reducible apply State.bump_keep has_Fld_tierWardenStatus_detections; decide)
    | with_reducible apply Keep.ite
    | split
    | dsimp only
    | (with_reducible apply Keep.step; with_reducible apply Keep.of_snd; assumption; with_reducible apply State.pickFree_keep; decide)

theorem State.rolesAgain_keep (s : State) : Keep ([.board, .regs, .mem, .log, .red, .ful, .cut, .sedge, .map, .rst, .warden, .syn, .chk, .freeCtr, .outbox], 0x4001002510000007a5f1d3e11df90000000001f7000060200000000000) s (State.rolesAgain s) := by
  unfold State.rolesAgain
  repeat' first
    | with_reducible exact Keep.refl _ _
    | with_reducible assumption
    | (with_reducible apply Keep.step; with_reducible apply State.raiseHalt_keep; decide)
    | (with_reducible apply Keep.step; with_reducible apply State.classEnd_keep; decide)
    | (with_reducible apply Keep.step; with_reducible apply State.setRole_keep; decide)
    | with_reducible apply Keep.ite
    | split
    | dsimp only

theorem State.heard_keep (s : State) (f : Frame) : Keep ([.board, .regs, .mem, .log, .red, .ful, .cut, .sedge, .map, .rst, .warden, .syn, .chk, .freeCtr, .outbox], 0x4001002510000007a5f1d3e11df90000000001f7000060200000000000) s (State.heard s f) := by
  unfold State.heard
  repeat' first
    | with_reducible exact Keep.refl _ _
    | with_reducible assumption
    | (with_reducible apply Keep.step; with_reducible apply State.rolesAgain_keep; decide)
    | (with_reducible apply Keep.step; with_reducible apply State.putMember_keep; decide)
    | (with_reducible apply Keep.step; with_reducible apply State.classEnd_keep; decide)
    | (with_reducible apply Keep.step; with_reducible apply State.replan_keep; decide)
    | with_reducible apply Keep.ite
    | split
    | dsimp only

theorem doHeartbeatFrame_keep (n : Fin 42) (f : Frame) (s : State) : OutKeep ([.board, .regs, .mem, .log, .red, .ful, .cut, .sedge, .map, .rst, .warden, .syn, .chk, .elect, .freeCtr, .outbox], 0x4001002590000007a5f1d3e11df90000000051f7000060200000000000) s (doHeartbeatFrame n f s) := by
  unfold doHeartbeatFrame
  repeat' first
    | with_reducible exact Keep.refl _ _
    | with_reducible assumption
    | (with_reducible apply Keep.step; with_reducible apply State.heartbeat_keep; decide)
    | (with_reducible apply Keep.step; with_reducible apply State.onElect_keep; decide)
    | (with_reducible apply Keep.step; with_reducible apply State.staleAt_keep; decide)
    | (with_reducible apply Keep.step; with_reducible apply State.heard_keep; decide)
    | with_reducible apply State.rstRecv_keep
    | with_reducible apply Keep.ite
    | with_reducible apply OutKeep.ite
    | with_reducible apply OutKeep.next
    | (show sub _ _ = true; decide)
    | split
    | dsimp only
    | with_reducible exact Keep.id _ _
    | intro _

theorem State.electSend_keep (s : State) (ty : BitVec 8) : Keep ([.outbox], 0x0) s (State.electSend s ty) := by
  unfold State.electSend
  repeat' first
    | with_reducible exact Keep.refl _ _
    | with_reducible assumption
    | with_reducible apply Keep.foldl
    | with_reducible apply Keep.foldl_fst
    | with_reducible apply Keep.foldl_snd
    | fail_if_no_progress (with_reducible apply Keep.step; with_reducible apply keep_outbox; decide)
    | with_reducible apply Keep.ite
    | split
    | dsimp only
    | intro _

theorem State.electBegin_keep (s : State) (num : Nat) : Keep ([.board, .regs, .mem, .log, .red, .ful, .cut, .sedge, .map, .rst, .warden, .syn, .chk, .elect, .freeCtr, .outbox], 0x4001002510000007a5f1d3e11df90000000001f7000060300000000000) s (State.electBegin s num) := by
  unfold State.electBegin
  repeat' first
    | with_reducible exact Keep.refl _ _
    | with_reducible assumption
    | (with_reducible apply Keep.step; with_reducible apply State.electSend_keep; decide)
    | (with_reducible apply Keep.step; with_reducible apply State.onElect_keep; decide)
    | (with_reducible apply Keep.step; with_reducible apply State.heard_keep; decide)
    | (with_reducible apply Keep.step; with_reducible apply State.wr_keep has_Fld_ctlElect_election; decide)
    | with_reducible apply Keep.ite
    | split
    | dsimp only

theorem State.electStart_keep (s : State) : Keep ([.board, .regs, .mem, .log, .red, .ful, .cut, .sedge, .map, .rst, .warden, .syn, .chk, .elect, .freeCtr, .outbox], 0x4001002510000007a5f1d3e11df90000000001f7000060300000000000) s (State.electStart s) := by
  unfold State.electStart
  repeat' first
    | with_reducible exact Keep.refl _ _
    | with_reducible assumption
    | (with_reducible apply Keep.step; with_reducible apply State.electBegin_keep; decide)
    | with_reducible apply Keep.ite
    | split
    | dsimp only

theorem execElectionStart_keep (s : State) : OutKeep ([.board, .regs, .mem, .log, .red, .ful, .cut, .sedge, .map, .rst, .warden, .syn, .chk, .elect, .freeCtr, .outbox], 0x4001002510000007a5f1d3e11df90000000001f7000060300000000000) s (execElectionStart s) := by
  unfold execElectionStart
  repeat' first
    | with_reducible exact Keep.refl _ _
    | with_reducible assumption
    | (with_reducible apply Keep.step; with_reducible apply State.electStart_keep; decide)
    | with_reducible apply Keep.ite
    | with_reducible apply OutKeep.ite
    | with_reducible apply OutKeep.next
    | split
    | dsimp only

theorem State.rackMembers_keep (s : State) : Keep ([.board, .regs, .mem, .log, .red, .ful, .cut, .sedge, .map, .rst, .warden, .syn, .chk, .freeCtr, .outbox], 0x4001002510000007a5f1d3e11df90000000001f7000060200000000000) s (State.rackMembers s) := by
  unfold State.rackMembers
  repeat' first
    | with_reducible exact Keep.refl _ _
    | with_reducible assumption
    | (with_reducible apply Keep.step; with_reducible apply State.onWarden_keep; decide)
    | (with_reducible apply Keep.step; with_reducible apply State.pickFree_keep; decide)
    | (with_reducible apply Keep.step; with_reducible apply State.heard_keep; decide)
    | with_reducible apply Keep.ite
    | split
    | dsimp only
    | (with_reducible apply Keep.step; with_reducible apply Keep.of_snd; assumption; with_reducible apply State.pickFree_keep; decide)

theorem State.becomeWarden_keep (s : State) : Keep ([.board, .regs, .mem, .log, .red, .ful, .cut, .sedge, .map, .rst, .warden, .syn, .chk, .elect, .freeCtr, .outbox], 0x400108a550000007a5f1d3e11df90000000001f7000060600000000000) s (State.becomeWarden s) := by
  unfold State.becomeWarden
  repeat' first
    | with_reducible exact Keep.refl _ _
    | with_reducible assumption
    | (with_reducible apply Keep.step; with_reducible apply State.declareFailed_keep; decide)
    | (with_reducible apply Keep.step; with_reducible apply State.rackMembers_keep; decide)
    | (with_reducible apply Keep.step; with_reducible apply State.heartbeat_keep; decide)
    | (with_reducible apply Keep.step; with_reducible apply State.setRole_keep; decide)
    | (with_reducible apply Keep.step; with_reducible apply State.onElect_keep; decide)
    | (with_reducible apply Keep.step; with_reducible apply State.react_keep; decide)
    | (with_reducible apply Keep.step; with_reducible apply State.wr_keep has_Fld_ctlElect_wardenPos; decide)
    | with_reducible apply Keep.ite
    | split
    | dsimp only

theorem doElectionTimer_keep (s : State) : OutKeep ([.board, .regs, .mem, .log, .red, .ful, .cut, .sedge, .map, .rst, .warden, .syn, .chk, .elect, .freeCtr, .outbox], 0x400108a550000007a5f1d3e11df90000000001f7000060600000000000) s (doElectionTimer s) := by
  unfold doElectionTimer
  repeat' first
    | with_reducible exact Keep.refl _ _
    | with_reducible assumption
    | (with_reducible apply Keep.step; with_reducible apply State.becomeWarden_keep; decide)
    | (with_reducible apply Keep.step; with_reducible apply State.electSend_keep; decide)
    | (with_reducible apply Keep.step; with_reducible apply State.onElect_keep; decide)
    | with_reducible apply Keep.ite
    | with_reducible apply OutKeep.ite
    | with_reducible apply OutKeep.next
    | split
    | dsimp only

theorem State.electRecv_keep {ps : Touch} {s t : State} {n : Fin 42} {ty : BitVec 8} {f : Frame} {act : Nat → Candidacy → State → State} (h : Keep ps s t)
    (ha : ∀ k c t, Keep ps t (act k c t)) (hr : sub ([.regs], 0x5000000000000000000000) ps = true) : Keep ps s (t.electRecv n ty f act) := by
  unfold State.electRecv
  refine State.recv_keep h (fun t => ?_) (fun t => Keep.id _ _) (sub_trans (by decide) hr)
  dsimp only
  split
  · exact Keep.step (State.staleAt_keep _ _) (sub_trans (by decide) hr) (Keep.refl _ _)
  · exact ha _ _ _

theorem execCandidacy_keep (n : Fin 42) (f : Frame) (s : State) : OutKeep ([.board, .regs, .mem, .log, .red, .ful, .cut, .sedge, .map, .rst, .warden, .syn, .chk, .elect, .freeCtr, .outbox], 0x4001002510000007a5f1d3e11df90000000051f7000060300000000000) s (execCandidacy n f s) := by
  unfold execCandidacy
  repeat' first
    | with_reducible exact Keep.refl _ _
    | with_reducible assumption
    | (with_reducible apply Keep.step; with_reducible apply State.electBegin_keep; decide)
    | (with_reducible apply Keep.step; with_reducible apply State.onElect_keep; decide)
    | (with_reducible apply Keep.step; with_reducible apply State.heard_keep; decide)
    | with_reducible apply State.electRecv_keep
    | with_reducible apply Keep.ite
    | with_reducible apply OutKeep.ite
    | with_reducible apply OutKeep.next
    | (show sub _ _ = true; decide)
    | split
    | dsimp only
    | with_reducible exact Keep.id _ _
    | intro _

theorem execClaim_keep (n : Fin 42) (f : Frame) (s : State) : OutKeep ([.board, .regs, .mem, .log, .red, .ful, .cut, .sedge, .map, .rst, .warden, .syn, .chk, .elect, .freeCtr, .outbox], 0x4001002510000007a5f1d3e11df90000000051f7000060700000000000) s (execClaim n f s) := by
  unfold execClaim
  repeat' first
    | with_reducible exact Keep.refl _ _
    | with_reducible assumption
    | (with_reducible apply Keep.step; with_reducible apply State.setRole_keep; decide)
    | (with_reducible apply Keep.step; with_reducible apply State.onElect_keep; decide)
    | (with_reducible apply Keep.step; with_reducible apply State.heard_keep; decide)
    | (with_reducible apply Keep.step; with_reducible apply State.wr_keep has_Fld_ctlElect_election; decide)
    | (with_reducible apply Keep.step; with_reducible apply State.wr_keep has_Fld_ctlElect_wardenPos; decide)
    | with_reducible apply State.electRecv_keep
    | with_reducible apply Keep.ite
    | with_reducible apply OutKeep.ite
    | with_reducible apply OutKeep.next
    | (show sub _ _ = true; decide)
    | split
    | dsimp only
    | with_reducible exact Keep.id _ _
    | intro _

theorem doHeartbeatMiss_keep (rack : BitVec 10) (pos : BitVec 7) (s : State) : OutKeep ([.board, .regs, .mem, .log, .red, .ful, .cut, .sedge, .map, .rst, .warden, .syn, .chk, .elect, .freeCtr, .outbox], 0x400108a550000007a5f1d3e11df90000000001f7000060300000000000) s (doHeartbeatMiss rack pos s) := by
  unfold doHeartbeatMiss
  repeat' first
    | with_reducible exact Keep.refl _ _
    | with_reducible assumption
    | (with_reducible apply Keep.step; with_reducible apply State.declareFailed_keep; decide)
    | (with_reducible apply Keep.step; with_reducible apply State.rolesAgain_keep; decide)
    | (with_reducible apply Keep.step; with_reducible apply State.electStart_keep; decide)
    | (with_reducible apply Keep.step; with_reducible apply State.classEnd_keep; decide)
    | (with_reducible apply Keep.step; with_reducible apply State.react_keep; decide)
    | with_reducible apply Keep.ite
    | with_reducible apply OutKeep.ite
    | with_reducible apply OutKeep.next
    | split
    | dsimp only

theorem execLinkLoss_keep (n : LockLoss) (s : State) : OutKeep ([.board, .outbox], 0x0) s (execLinkLoss n s) := by
  unfold execLinkLoss
  repeat' first
    | with_reducible exact Keep.refl _ _
    | with_reducible assumption
    | (with_reducible apply Keep.step; with_reducible apply State.notice_keep; decide)
    | fail_if_no_progress (with_reducible apply Keep.step; with_reducible apply keep_board; decide)
    | with_reducible apply Keep.ite
    | with_reducible apply OutKeep.ite
    | with_reducible apply OutKeep.next
    | split
    | dsimp only

theorem State.dropPort_keep (s : State) (n : Nat) : Keep ([.regs, .red], 0xc0000000000000000180000000000000000000000000000) s (State.dropPort s n) := by
  unfold State.dropPort
  repeat' first
    | with_reducible exact Keep.refl _ _
    | with_reducible assumption
    | (with_reducible apply Keep.step; with_reducible apply State.cfgClearBit_keep (has_Fld_redChPorts_soMask _); decide)
    | (with_reducible apply Keep.step; with_reducible apply State.cfgClearBit_keep (has_Fld_redChPorts_uflMask _); decide)
    | (with_reducible apply Keep.step; with_reducible apply State.cfgClearBit_keep has_Fld_tierFeltPorts_soMask; decide)
    | (with_reducible apply Keep.step; with_reducible apply State.cfgClearBit_keep has_Fld_tierFeltPorts_uflMask; decide)
    | with_reducible apply Keep.foldl
    | with_reducible apply Keep.foldl_fst
    | with_reducible apply Keep.foldl_snd
    | with_reducible apply Keep.ite
    | split
    | dsimp only
    | intro _

theorem State.sourceless_keep (s : State) (step : W64) : Keep ([.board, .regs, .mem, .log, .red, .ful, .cut, .sedge, .map, .rst, .warden, .syn, .chk, .freeCtr, .outbox], 0x4001002510000007a5f1d3e11df90000000001f7000060200000000000) s (State.sourceless s step) := by
  unfold State.sourceless
  repeat' first
    | with_reducible exact Keep.refl _ _
    | with_reducible assumption
    | (with_reducible apply Keep.step; with_reducible apply State.raiseHalt_keep; decide)
    | (with_reducible apply Keep.step; with_reducible apply State.onWarden_keep; decide)
    | (with_reducible apply Keep.step; with_reducible apply State.classEnd_keep; decide)
    | (with_reducible apply Keep.step; with_reducible apply State.noticeTo_keep; decide)
    | (with_reducible apply Keep.step; with_reducible apply State.noSource_keep; decide)
    | with_reducible apply Keep.ite
    | split
    | dsimp only

theorem State.linkFails_keep (s : State) (slice : Nat) (src : BitVec 10 × BitVec 7) : Keep ([.board, .regs, .mem, .log, .red, .ful, .cut, .sedge, .map, .rst, .warden, .syn, .chk, .freeCtr, .outbox], 0x40010025100c0007a5f1d3e11df91800000001f7000060200000000000) s (State.linkFails s slice src) := by
  unfold State.linkFails
  repeat' first
    | with_reducible exact Keep.refl _ _
    | with_reducible assumption
    | (with_reducible apply Keep.step; with_reducible apply State.dropPort_keep; decide)
    | (with_reducible apply Keep.step; with_reducible apply State.noticeTo_keep; decide)
    | (with_reducible apply Keep.step; with_reducible apply State.react_keep; decide)
    | with_reducible apply Keep.foldl
    | with_reducible apply Keep.foldl_fst
    | with_reducible apply Keep.foldl_snd
    | with_reducible apply Keep.ite
    | split
    | dsimp only
    | intro _

theorem doEngineNotice_keep (n : Fin 42) (f : Frame) (s : State) : OutKeep ([.board, .regs, .mem, .log, .red, .ful, .cut, .sedge, .map, .rst, .warden, .syn, .chk, .freeCtr, .outbox], 0x400108a5d00c0007a5f1d3e11df91800000051f7000060200000000000) s (doEngineNotice n f s) := by
  unfold doEngineNotice
  repeat' first
    | with_reducible exact Keep.refl _ _
    | with_reducible assumption
    | (with_reducible apply Keep.step; with_reducible apply State.declareFailed_keep; decide)
    | (with_reducible apply Keep.step; with_reducible apply State.sourceless_keep; decide)
    | (with_reducible apply Keep.step; with_reducible apply State.linkFails_keep; decide)
    | (with_reducible apply Keep.step; with_reducible apply State.putMember_keep; decide)
    | (with_reducible apply Keep.step; with_reducible apply State.classEnd_keep; decide)
    | (with_reducible apply Keep.step; with_reducible apply State.dropPort_keep; decide)
    | (with_reducible apply Keep.step; with_reducible apply State.noSource_keep; decide)
    | (with_reducible apply Keep.step; with_reducible apply State.staleAt_keep; decide)
    | (with_reducible apply Keep.step; with_reducible apply State.react_keep; decide)
    | with_reducible apply State.rstRecv_keep
    | with_reducible apply Keep.ite
    | with_reducible apply OutKeep.ite
    | with_reducible apply OutKeep.next
    | (show sub _ _ = true; decide)
    | split
    | dsimp only
    | with_reducible exact Keep.id _ _
    | intro _

theorem doBucketAbortNotice_keep (n : Fin 42) (f : Frame) (s : State) : OutKeep ([.board, .regs, .mem, .log, .red, .ful, .cut, .sedge, .map, .peat, .rst, .warden, .syn, .chk, .freeCtr, .outbox, .acksOut], 0x4001002510000007a5f1d3e11dfd0000000051f7000060200000000000) s (doBucketAbortNotice n f s) := by
  unfold doBucketAbortNotice
  repeat' first
    | with_reducible exact Keep.refl _ _
    | with_reducible assumption
    | (with_reducible apply Keep.step; with_reducible apply State.abortNoticeIn_keep; decide)
    | (with_reducible apply Keep.step; with_reducible apply State.react_keep; decide)
    | with_reducible apply State.recv_keep
    | with_reducible apply Keep.ite
    | with_reducible apply OutKeep.ite
    | with_reducible apply OutKeep.next
    | (show sub _ _ = true; decide)
    | split
    | dsimp only
    | with_reducible exact Keep.id _ _
    | intro _

theorem doHalt_keep (n : Fin 42) (f : Frame) (s : State) : OutKeep ([.board, .regs, .mem, .log, .red, .ful, .cut, .sedge, .map, .rst, .warden, .syn, .chk, .freeCtr, .outbox], 0x4001002590000007a5f1d3e11df90000000051f7000060200000000000) s (doHalt n f s) := by
  unfold doHalt
  repeat' first
    | with_reducible exact Keep.refl _ _
    | with_reducible assumption
    | (with_reducible apply Keep.step; with_reducible apply State.staleRestore_keep; decide)
    | (with_reducible apply Keep.step; with_reducible apply State.classStart_keep; decide)
    | (with_reducible apply Keep.step; with_reducible apply State.haltTake_keep; decide)
    | (with_reducible apply Keep.step; with_reducible apply State.onWarden_keep; decide)
    | (with_reducible apply Keep.step; with_reducible apply State.classEnd_keep; decide)
    | (with_reducible apply Keep.step; with_reducible apply State.barsHalt_keep; decide)
    | (with_reducible apply Keep.step; with_reducible apply State.staleAt_keep; decide)
    | (with_reducible apply Keep.step; with_reducible apply State.toPeers_keep; decide)
    | (with_reducible apply Keep.step; with_reducible apply State.replan_keep; decide)
    | (with_reducible apply Keep.step; with_reducible apply State.onRst_keep; intro _ h; (first | exact h | exact Memory.wf_nil | exact Memory.wf_putBytes _ _ h | exact Memory.wf_erase _ _ h | with_unfolding_all exact h); decide)
    | (with_reducible apply Keep.step; with_reducible apply State.raise_keep has_Fld_tierRstErrStatus_haltSeen; decide)
    | with_reducible apply State.recv_keep
    | with_reducible apply Keep.ite
    | with_reducible apply OutKeep.ite
    | with_reducible apply OutKeep.next
    | (show sub _ _ = true; decide)
    | split
    | dsimp only
    | with_reducible exact Keep.id _ _
    | intro _

theorem doCandidate_keep (n : Fin 42) (f : Frame) (s : State) : OutKeep ([.board, .regs, .mem, .log, .red, .ful, .cut, .sedge, .map, .rst, .warden, .syn, .cmd, .chk, .freeCtr, .outbox], 0x20c00900bfd00001e7a5f1d3e11df90000000051f7000060200000000000) s (doCandidate n f s) := by
  unfold doCandidate
  repeat' first
    | with_reducible exact Keep.refl _ _
    | with_reducible assumption
    | (with_reducible apply Keep.step; with_reducible apply State.onWarden_keep; decide)
    | (with_reducible apply Keep.step; with_reducible apply State.planNone_keep; decide)
    | (with_reducible apply Keep.step; with_reducible apply State.planVote_keep; decide)
    | (with_reducible apply Keep.step; with_reducible apply State.jobGoes_keep; decide)
    | (with_reducible apply Keep.step; with_reducible apply State.staleAt_keep; decide)
    | (with_reducible apply Keep.step; with_reducible apply State.toPeers_keep; decide)
    | (with_reducible apply Keep.step; with_reducible apply State.chosen_keep; decide)
    | with_reducible apply State.rstRecv_keep
    | with_reducible apply Keep.ite
    | with_reducible apply OutKeep.ite
    | with_reducible apply OutKeep.next
    | (show sub _ _ = true; decide)
    | split
    | dsimp only
    | with_reducible exact Keep.id _ _
    | intro _

theorem State.wardenReleased_keep (s : State) : Keep ([.warden], 0x0) s (State.wardenReleased s) := by
  unfold State.wardenReleased
  repeat' first
    | with_reducible exact Keep.refl _ _
    | with_reducible assumption
    | (with_reducible apply Keep.step; with_reducible apply State.onWarden_keep; decide)
    | with_reducible apply Keep.ite
    | split
    | dsimp only

theorem State.leadReplans_keep (s : State) : Keep ([.board, .regs, .mem, .log, .red, .ful, .cut, .sedge, .map, .rst, .warden, .syn, .chk, .freeCtr, .outbox], 0x4001002510000007a5f1d3e11df90000000001f7000060200000000000) s (State.leadReplans s) := by
  unfold State.leadReplans
  repeat' first
    | with_reducible exact Keep.refl _ _
    | with_reducible assumption
    | (with_reducible apply Keep.step; with_reducible apply State.sourceless_keep; decide)
    | (with_reducible apply Keep.step; with_reducible apply State.noSource_keep; decide)
    | with_reducible apply Keep.ite
    | split
    | dsimp only

end Sys2Proof.Machine
end

