-- ==== Sys2Proof/Laws/KeepBoard.lean ====
section
/-! SUPPORT. What each operation of Machine/Board.lean can do: one lemma for each (`Keep`). -/
namespace Sys2Proof.Machine

set_option linter.all false

theorem State.onBoard_keep (s : State) (f : Board → Board) : Keep ([.board], 0x0) s (State.onBoard s f) := by
  unfold State.onBoard
  repeat' first
    | with_reducible exact Keep.refl _ _
    | with_reducible assumption
    | fail_if_no_progress (with_reducible apply Keep.step; with_reducible apply keep_board; decide)
    | with_reducible apply Keep.ite
    | split
    | dsimp only

theorem State.onBoot_keep (s : State) (f : Boot → Boot) : Keep ([.boot], 0x0) s (State.onBoot s f) := by
  unfold State.onBoot
  repeat' first
    | with_reducible exact Keep.refl _ _
    | with_reducible assumption
    | fail_if_no_progress (with_reducible apply Keep.step; with_reducible apply keep_boot; decide)
    | with_reducible apply Keep.ite
    | split
    | dsimp only

theorem State.boardSync_keep (s : State) : Keep ([.regs], 0x2c00000) s (State.boardSync s) := by
  unfold State.boardSync
  repeat' first
    | with_reducible exact Keep.refl _ _
    | with_reducible assumption
    | (with_reducible apply Keep.step; with_reducible apply State.wrB_keep has_Fld_ctlBoardStatus_holdupLow; decide)
    | (with_reducible apply Keep.step; with_reducible apply State.wrB_keep has_Fld_ctlBoardStatus_holdupOk; decide)
    | (with_reducible apply Keep.step; with_reducible apply State.wrB_keep has_Fld_ctlBoardStatus_pfailN; decide)
    | with_reducible apply Keep.ite
    | split
    | dsimp only

theorem State.filtered_keep (s : State) (ns : Nat) : Keep ([.freeCtr], 0x0) s (State.filtered s ns).2 := by
  unfold State.filtered
  repeat' first
    | with_reducible exact Keep.refl _ _
    | with_reducible assumption
    | (with_reducible apply Keep.step; with_reducible apply State.pickBool_keep; decide)
    | with_reducible apply Keep.ite
    | split
    | dsimp only
    | (with_reducible apply Keep.step; with_reducible apply Keep.of_snd; assumption; with_reducible apply State.pickBool_keep; decide)

theorem State.flushPfail_keep (s : State) : Keep ([.regs, .log, .peat, .cmd], 0xd800000000040000000000000) s (State.flushPfail s) := by
  unfold State.flushPfail
  repeat' first
    | with_reducible exact Keep.refl _ _
    | with_reducible assumption
    | (with_reducible apply Keep.step; with_reducible apply State.flushFail_keep; decide)
    | (with_reducible apply Keep.step; with_reducible apply State.ctxEnd_keep; decide)
    | (with_reducible apply Keep.step; with_reducible apply State.onPeat_keep; intro _ h; (first | exact h | exact Memory.wf_nil | exact Memory.wf_putBytes _ _ h | exact Memory.wf_erase _ _ h | with_unfolding_all exact h); decide)
    | with_reducible apply Keep.foldl
    | with_reducible apply Keep.foldl_fst
    | with_reducible apply Keep.foldl_snd
    | with_reducible apply Keep.ite
    | split
    | dsimp only
    | intro _

theorem State.pfailBegin_keep (s : State) : Keep ([.board, .regs, .log, .peat, .cmd, .freeCtr, .outbox], 0xd800000000040000004000000) s (State.pfailBegin s) := by
  unfold State.pfailBegin
  repeat' first
    | with_reducible exact Keep.refl _ _
    | with_reducible assumption
    | (with_reducible apply Keep.step; with_reducible apply State.flushPfail_keep; decide)
    | (with_reducible apply Keep.step; with_reducible apply State.drainHalt_keep; decide)
    | (with_reducible apply Keep.step; with_reducible apply State.onBoard_keep; decide)
    | (with_reducible apply Keep.step; with_reducible apply State.notice_keep; decide)
    | (with_reducible apply Keep.step; with_reducible apply State.logFw_keep; decide)
    | (with_reducible apply Keep.step; with_reducible apply State.raise_keep has_Fld_ctlBoardStatus_pfailSeen; decide)
    | with_reducible apply Keep.ite
    | split
    | dsimp only

theorem execPfailNAssert_keep (ns : Nat) (s : State) : OutKeep ([.board, .regs, .log, .peat, .cmd, .freeCtr, .outbox], 0xd800000000040000006c00000) s (execPfailNAssert ns s) := by
  unfold execPfailNAssert
  repeat' first
    | with_reducible exact Keep.refl _ _
    | with_reducible assumption
    | (with_reducible apply Keep.step; with_reducible apply State.pfailBegin_keep; decide)
    | (with_reducible apply Keep.step; with_reducible apply State.boardSync_keep; decide)
    | (with_reducible apply Keep.step; with_reducible apply State.filtered_keep; decide)
    | (with_reducible apply Keep.step; with_reducible apply State.onBoard_keep; decide)
    | with_reducible apply Keep.ite
    | with_reducible apply OutKeep.ite
    | with_reducible apply OutKeep.next
    | split
    | dsimp only
    | (with_reducible apply Keep.step; with_reducible apply Keep.of_snd; assumption; with_reducible apply State.filtered_keep; decide)

theorem execPfailNDeassert_keep (ns : Nat) (s : State) : OutKeep ([.board, .regs, .freeCtr], 0x3c00000) s (execPfailNDeassert ns s) := by
  unfold execPfailNDeassert
  repeat' first
    | with_reducible exact Keep.refl _ _
    | with_reducible assumption
    | (with_reducible apply Keep.step; with_reducible apply State.boardSync_keep; decide)
    | (with_reducible apply Keep.step; with_reducible apply State.filtered_keep; decide)
    | (with_reducible apply Keep.step; with_reducible apply State.onBoard_keep; decide)
    | (with_reducible apply Keep.step; with_reducible apply State.raise_keep has_Fld_ctlBoardStatus_pfailCleared; decide)
    | with_reducible apply Keep.ite
    | with_reducible apply OutKeep.ite
    | with_reducible apply OutKeep.next
    | split
    | dsimp only
    | (with_reducible apply Keep.step; with_reducible apply Keep.of_snd; assumption; with_reducible apply State.filtered_keep; decide)

theorem doPfailHoldExpiry_keep (s : State) : OutKeep ([.board, .regs, .log, .cmd, .freeCtr], 0x40000000000000) s (doPfailHoldExpiry s) := by
  unfold doPfailHoldExpiry
  repeat' first
    | with_reducible exact Keep.refl _ _
    | with_reducible assumption
    | (with_reducible apply Keep.step; with_reducible apply State.flushCheck_keep; decide)
    | (with_reducible apply Keep.step; with_reducible apply State.onBoard_keep; decide)
    | (with_reducible apply Keep.step; with_reducible apply State.logFw_keep; decide)
    | with_reducible apply Keep.ite
    | with_reducible apply OutKeep.ite
    | with_reducible apply OutKeep.next
    | split
    | dsimp only

theorem execHoldupOkChange_keep (level : Bool) (ns : Nat) (s : State) : OutKeep ([.board, .regs, .log, .freeCtr], 0x40000002c00000) s (execHoldupOkChange level ns s) := by
  unfold execHoldupOkChange
  repeat' first
    | with_reducible exact Keep.refl _ _
    | with_reducible assumption
    | (with_reducible apply Keep.step; with_reducible apply State.boardSync_keep; decide)
    | (with_reducible apply Keep.step; with_reducible apply State.filtered_keep; decide)
    | (with_reducible apply Keep.step; with_reducible apply State.onBoard_keep; decide)
    | (with_reducible apply Keep.step; with_reducible apply State.logFw_keep; decide)
    | with_reducible apply Keep.ite
    | with_reducible apply OutKeep.ite
    | with_reducible apply OutKeep.next
    | split
    | dsimp only
    | (with_reducible apply Keep.step; with_reducible apply Keep.of_snd; assumption; with_reducible apply State.filtered_keep; decide)

theorem doPowerFailDeadline_keep (limit : PfailLimit) (s : State) : OutKeep ([.board, .regs, .mem, .log, .red, .ful, .cut, .sedge, .map, .peat, .rst, .warden, .syn, .cmd, .chk, .freeCtr, .outbox], 0x4001002510000007a5f1d3e11df900000dc001f7000060200000000000) s (doPowerFailDeadline limit s) := by
  unfold doPowerFailDeadline
  repeat' first
    | with_reducible exact Keep.refl _ _
    | with_reducible assumption
    | (with_reducible apply Keep.step; with_reducible apply State.drainFail_keep; decide)
    | (with_reducible apply Keep.step; with_reducible apply State.onBoard_keep; decide)
    | with_reducible apply Keep.ite
    | with_reducible apply OutKeep.ite
    | with_reducible apply OutKeep.next
    | split
    | dsimp only

theorem State.regsAfter_wf (s : State) (kind : ResetKind) (source : Nat) : regsWf (s.regsAfter kind source).regs = true := by
  have h0 : State.Inv { regs := [] } := ⟨rfl, rfl, rfl, rfl, rfl, rfl, fun n hn => by simp [State.pair, vget, hn]; decide⟩
  refine (Keep.inv (ps := ([.regs], 1)) (s := { regs := [] }) ?_ h0).regs
  unfold State.regsAfter
  repeat' first
    | with_reducible exact Keep.refl _ _
    | (with_reducible apply Keep.step; with_reducible apply State.setReg_keep (hasReg_all _); decide)
    | (with_reducible apply Keep.step; with_reducible apply State.wr_keep (has_all _); decide)
    | with_reducible apply Keep.foldl
    | with_reducible apply Keep.ite
    | dsimp only
    | intro _

theorem State.resetAll_keep (s : State) (kind : ResetKind) (source : Nat) : Keep ([.board, .boot, .store, .regs, .mem, .sump, .log, .mon, .slices, .placed, .bscan, .red, .ful, .cut, .sedge, .map, .peat, .sec, .rst, .warden, .syn, .tim, .cmd, .chk, .elect, .freeCtr, .outbox, .owed, .tc3], 0x4001002510000007a5f1d3e11df90000000001f7000060200002c00001) s (s.resetAll kind source) := by
  have k1 : Keep ([.board, .boot, .store, .regs, .mem, .sump, .log, .mon, .slices, .placed, .bscan, .red, .ful, .cut, .sedge, .map, .peat, .sec, .rst, .warden, .syn, .tim, .cmd, .chk, .elect, .freeCtr, .outbox, .owed, .tc3], 0x4001002510000007a5f1d3e11df90000000001f7000060200002c00001) s (s.tear (fun _ => true)) := Keep.step (State.tear_keep s _) (by decide) (Keep.refl _ _)
  unfold State.resetAll
  revert k1
  generalize s.tear _ = s1
  intro k1
  dsimp only
  have k2 (t : State) (k : Keep ([.board, .boot, .store, .regs, .mem, .sump, .log, .mon, .slices, .placed, .bscan, .red, .ful, .cut, .sedge, .map, .peat, .sec, .rst, .warden, .syn, .tim, .cmd, .chk, .elect, .freeCtr, .outbox, .owed, .tc3], 0x4001002510000007a5f1d3e11df90000000001f7000060200002c00001) s1 t) :
      Keep ([.board, .boot, .store, .regs, .mem, .sump, .log, .mon, .slices, .placed, .bscan, .red, .ful, .cut, .sedge, .map, .peat, .sec, .rst, .warden, .syn, .tim, .cmd, .chk, .elect, .freeCtr, .outbox, .owed, .tc3], 0x4001002510000007a5f1d3e11df90000000001f7000060200002c00001) s (if kind == .cold then t.boardSync else t.boardSync.logIt Kind.reset 0 Unit'.ctl (leBytes 1 source)) := by
    have k3 := Keep.step (State.boardSync_keep t) (ps := ([.board, .boot, .store, .regs, .mem, .sump, .log, .mon, .slices, .placed, .bscan, .red, .ful, .cut, .sedge, .map, .peat, .sec, .rst, .warden, .syn, .tim, .cmd, .chk, .elect, .freeCtr, .outbox, .owed, .tc3], 0x4001002510000007a5f1d3e11df90000000001f7000060200002c00001)) (by decide) (Keep.step k (by decide) k1)
    split
    · exact k3
    · exact Keep.step (State.logIt_keep _ _ _ _ _) (by decide) k3
  refine k2 _ ⟨fun h => ⟨State.regsAfter_wf s1 kind source, ?_, ?_, h.4, h.5, rfl, fun n hn => ?_⟩, fun p => by cases p <;> first | exact .inr rfl | exact .inl (by decide), fun _ _ _ => .inl ((cov_all _ _).mono (by decide))⟩
  · dsimp only
    split
    · rfl
    · exact h.2
  · dsimp only
    split
    · rfl
    · exact h.3
  · simp [State.pair, vget, hn]
    decide

theorem State.reset'_keep (s : State) (kind : ResetKind) (source : Nat) : Keep ([.board, .boot, .store, .regs, .mem, .sump, .log, .mon, .slices, .placed, .bscan, .red, .ful, .cut, .sedge, .map, .peat, .sec, .rst, .warden, .syn, .tim, .cmd, .chk, .elect, .freeCtr, .outbox, .owed, .tc3], 0x4001002510000007a5f1d3e11df90000000001f7000060200002c00001) s (State.reset' s kind source) := by
  unfold State.reset'
  repeat' first
    | with_reducible exact Keep.refl _ _
    | with_reducible assumption
    | (with_reducible apply Keep.step; with_reducible apply State.resetAll_keep; decide)
    | (with_reducible apply Keep.step; with_reducible apply State.logIt_keep; decide)
    | with_reducible apply Keep.ite
    | split
    | dsimp only

theorem State.startFails_keep (s : State) (cause : Nat) : Keep ([.boot], 0x0) s (State.startFails s cause) := by
  unfold State.startFails
  repeat' first
    | with_reducible exact Keep.refl _ _
    | with_reducible assumption
    | (with_reducible apply Keep.step; with_reducible apply State.onBoot_keep; decide)
    | with_reducible apply Keep.ite
    | split
    | dsimp only

theorem State.fatal_keep (s : State) (source : Nat) : Keep ([.board, .boot, .store, .regs, .mem, .sump, .log, .mon, .slices, .placed, .bscan, .red, .ful, .cut, .sedge, .map, .peat, .sec, .rst, .warden, .syn, .tim, .cmd, .chk, .elect, .freeCtr, .outbox, .owed, .tc3], 0x4001002510000007a5f1d3e11df90000000001f7000060200002c00001) s (State.fatal s source) := by
  unfold State.fatal
  repeat' first
    | with_reducible exact Keep.refl _ _
    | with_reducible assumption
    | (with_reducible apply Keep.step; with_reducible apply State.startFails_keep; decide)
    | (with_reducible apply Keep.step; with_reducible apply State.reset'_keep; decide)
    | with_reducible apply Keep.ite
    | split
    | dsimp only

theorem execPowerGoodRise_keep (s : State) : OutKeep ([.board, .boot, .store, .regs, .mem, .sump, .log, .mon, .slices, .placed, .bscan, .red, .ful, .cut, .sedge, .map, .peat, .sec, .rst, .warden, .syn, .tim, .cmd, .chk, .elect, .freeCtr, .outbox, .owed, .tc3], 0x4001002510000007a5f1d3e11df90000000001f7000060200002c00001) s (execPowerGoodRise s) := by
  unfold execPowerGoodRise
  repeat' first
    | with_reducible exact Keep.refl _ _
    | with_reducible assumption
    | (with_reducible apply Keep.step; with_reducible apply State.resetAll_keep; decide)
    | (with_reducible apply Keep.step; with_reducible apply State.onBoard_keep; decide)
    | with_reducible apply Keep.ite
    | with_reducible apply OutKeep.ite
    | with_reducible apply OutKeep.next
    | split
    | dsimp only

theorem execPowerGoodFall_keep (s : State) : OutKeep ([.board, .boot, .store, .regs, .mem, .sump, .log, .mon, .slices, .placed, .bscan, .red, .ful, .cut, .sedge, .map, .peat, .sec, .rst, .warden, .syn, .tim, .cmd, .chk, .elect, .freeCtr, .outbox, .bx3Out, .owed, .tc3], 0x4001002510000007a5f1d3e11df90000000001f7000060200002c00001) s (execPowerGoodFall s) := by
  unfold execPowerGoodFall
  repeat' first
    | with_reducible exact Keep.refl _ _
    | with_reducible assumption
    | (with_reducible apply Keep.step; with_reducible apply State.resetAll_keep; decide)
    | (with_reducible apply Keep.step; with_reducible apply State.onBoard_keep; decide)
    | (with_reducible apply Keep.step; with_reducible apply State.bx3Drop_keep; decide)
    | (with_reducible apply Keep.step; with_reducible apply State.onBoot_keep; decide)
    | with_reducible apply Keep.foldl
    | with_reducible apply Keep.foldl_fst
    | with_reducible apply Keep.foldl_snd
    | with_reducible apply Keep.ite
    | with_reducible apply OutKeep.ite
    | with_reducible apply OutKeep.next
    | split
    | dsimp only
    | intro _

theorem execColdReset_keep (s : State) : OutKeep ([.board, .boot, .store, .regs, .mem, .sump, .log, .mon, .slices, .placed, .bscan, .red, .ful, .cut, .sedge, .map, .peat, .sec, .rst, .warden, .syn, .tim, .cmd, .chk, .elect, .freeCtr, .outbox, .owed, .tc3], 0x4001002510000007a5f1d3e11df90000000001f7000060200002c00001) s (execColdReset s) := by
  unfold execColdReset
  repeat' first
    | with_reducible exact Keep.refl _ _
    | with_reducible assumption
    | (with_reducible apply Keep.step; with_reducible apply State.reset'_keep; decide)
    | with_reducible apply Keep.ite
    | with_reducible apply OutKeep.ite
    | with_reducible apply OutKeep.next
    | split
    | dsimp only

theorem execWarmReset_keep (s : State) : OutKeep ([.board, .boot, .store, .regs, .mem, .sump, .log, .mon, .slices, .placed, .bscan, .red, .ful, .cut, .sedge, .map, .peat, .sec, .rst, .warden, .syn, .tim, .cmd, .chk, .elect, .freeCtr, .outbox, .owed, .tc3], 0x4001002510000007a5f1d3e11df90000000001f7000060200002c00001) s (execWarmReset s) := by
  unfold execWarmReset
  repeat' first
    | with_reducible exact Keep.refl _ _
    | with_reducible assumption
    | (with_reducible apply Keep.step; with_reducible apply State.reset'_keep; decide)
    | with_reducible apply Keep.ite
    | with_reducible apply OutKeep.ite
    | with_reducible apply OutKeep.next
    | split
    | dsimp only

theorem execCtlResetEngine_keep (s : State) : OutKeep ([.board, .boot, .store, .regs, .mem, .sump, .log, .mon, .slices, .placed, .bscan, .red, .ful, .cut, .sedge, .map, .peat, .sec, .rst, .warden, .syn, .tim, .cmd, .chk, .elect, .freeCtr, .outbox, .owed, .tc3], 0x4001002510000007a5f1d3e11df90000000001f7000060200002c00001) s (execCtlResetEngine s) := by
  unfold execCtlResetEngine
  repeat' first
    | with_reducible exact Keep.refl _ _
    | with_reducible assumption
    | (with_reducible apply Keep.step; with_reducible apply State.reset'_keep; decide)
    | with_reducible apply Keep.ite
    | with_reducible apply OutKeep.ite
    | with_reducible apply OutKeep.next
    | split
    | dsimp only

theorem execTapTestEntry_keep (s : State) : OutKeep ([.board, .boot, .store, .regs, .mem, .sump, .log, .mon, .slices, .placed, .bscan, .red, .ful, .cut, .sedge, .map, .peat, .sec, .rst, .warden, .syn, .tim, .cmd, .chk, .elect, .freeCtr, .outbox, .owed, .tc3], 0x4001002510000007a5f1d3e11df90000000001f7000060200002c00001) s (execTapTestEntry s) := by
  unfold execTapTestEntry
  repeat' first
    | with_reducible exact Keep.refl _ _
    | with_reducible assumption
    | (with_reducible apply Keep.step; with_reducible apply State.resetAll_keep; decide)
    | (with_reducible apply Keep.step; with_reducible apply State.onBoot_keep; decide)
    | fail_if_no_progress (with_reducible apply Keep.step; with_reducible apply keep_bscan; decide)
    | fail_if_no_progress (with_reducible apply Keep.step; with_reducible apply keep_freeCtr; decide)
    | with_reducible apply Keep.ite
    | with_reducible apply OutKeep.ite
    | with_reducible apply OutKeep.next
    | split
    | dsimp only

theorem execTapTestExit_keep (s : State) : OutKeep ([.board, .boot, .store, .regs, .mem, .sump, .log, .mon, .slices, .placed, .bscan, .red, .ful, .cut, .sedge, .map, .peat, .sec, .rst, .warden, .syn, .tim, .cmd, .chk, .elect, .freeCtr, .outbox, .owed, .tc3], 0x4001002510000007a5f1d3e11df90000000001f7000060200002c00001) s (execTapTestExit s) := by
  unfold execTapTestExit
  repeat' first
    | with_reducible exact Keep.refl _ _
    | with_reducible assumption
    | (with_reducible apply Keep.step; with_reducible apply State.resetAll_keep; decide)
    | with_reducible apply Keep.ite
    | with_reducible apply OutKeep.ite
    | with_reducible apply OutKeep.next
    | split
    | dsimp only

theorem State.speedShow_keep (s : State) (x : Sample) : Keep ([.regs], 0x3ff000000000000000) s (State.speedShow s x) := by
  unfold State.speedShow
  repeat' first
    | with_reducible exact Keep.refl _ _
    | with_reducible assumption
    | (with_reducible apply Keep.step; with_reducible apply State.count_keep has_Fld_ctlSpeedStatus_sampleSeq; decide)
    | (with_reducible apply Keep.step; with_reducible apply State.wr_keep has_Fld_ctlSpeedPeak_cyclePeakPs; decide)
    | (with_reducible apply Keep.step; with_reducible apply State.wr_keep has_Fld_ctlSpeedPeak_tjPeakQ; decide)
    | (with_reducible apply Keep.step; with_reducible apply State.wr_keep has_Fld_ctlSpeedPeak_vddDroopMv; decide)
    | (with_reducible apply Keep.step; with_reducible apply State.wr_keep has_Fld_ctlSpeedStatus_cycleBestPs; decide)
    | (with_reducible apply Keep.step; with_reducible apply State.wr_keep has_Fld_ctlSpeedStatus_cyclePs; decide)
    | (with_reducible apply Keep.step; with_reducible apply State.wr_keep has_Fld_ctlSpeedStatus_cycleSensor; decide)
    | (with_reducible apply Keep.step; with_reducible apply State.wr_keep has_Fld_ctlSpeedStatus_tjQ; decide)
    | (with_reducible apply Keep.step; with_reducible apply State.wr_keep has_Fld_ctlSpeedStatus_tjSensor; decide)
    | (with_reducible apply Keep.step; with_reducible apply State.wr_keep has_Fld_ctlSpeedStatus_vddMv; decide)
    | with_reducible apply Keep.foldl
    | with_reducible apply Keep.foldl_fst
    | with_reducible apply Keep.foldl_snd
    | with_reducible apply Keep.ite
    | split
    | dsimp only
    | intro _

theorem State.cornerStep_keep (s : State) (x : Sample) : Keep ([.regs, .log, .mon, .freeCtr, .outbox], 0x4000fe00000000) s (State.cornerStep s x) := by
  unfold State.cornerStep
  repeat' first
    | with_reducible exact Keep.refl _ _
    | with_reducible assumption
    | (with_reducible apply Keep.step; with_reducible apply State.notice_keep; decide)
    | (with_reducible apply Keep.step; with_reducible apply State.logFw_keep; decide)
    | (with_reducible apply Keep.step; with_reducible apply State.bump_keep has_Fld_ctlCornerStatus_excCount; decide)
    | (with_reducible apply Keep.step; with_reducible apply State.raiseIf_keep has_Fld_ctlCornerStatus_excCycle; decide)
    | (with_reducible apply Keep.step; with_reducible apply State.raiseIf_keep has_Fld_ctlCornerStatus_excTemp; decide)
    | (with_reducible apply Keep.step; with_reducible apply State.raiseIf_keep has_Fld_ctlCornerStatus_excVhigh; decide)
    | (with_reducible apply Keep.step; with_reducible apply State.raiseIf_keep has_Fld_ctlCornerStatus_excVlow; decide)
    | (with_reducible apply Keep.step; with_reducible apply State.raiseIf_keep has_Fld_ctlCornerStatus_monFault; decide)
    | (with_reducible apply Keep.step; with_reducible apply State.wrB_keep has_Fld_ctlCornerStatus_inRange; decide)
    | fail_if_no_progress (with_reducible apply Keep.step; with_reducible apply keep_mon; decide)
    | with_reducible apply Keep.ite
    | split
    | dsimp only

theorem State.floorStep_keep (s : State) (x : Sample) : Keep ([.regs], 0x20000000000) s (State.floorStep s x) := by
  unfold State.floorStep
  repeat' first
    | with_reducible exact Keep.refl _ _
    | with_reducible assumption
    | (with_reducible apply Keep.step; with_reducible apply State.raise_keep has_Fld_ctlCornerStatus_vfloorReq; decide)
    | (with_reducible apply Keep.step; with_reducible apply State.wr_keep has_Fld_ctlCornerStatus_vfloorReq; decide)
    | with_reducible apply Keep.ite
    | split
    | dsimp only

theorem doSpeedSample_keep (r : SpeedReading) (s : State) : OutKeep ([.board, .boot, .store, .regs, .mem, .sump, .log, .mon, .slices, .placed, .bscan, .red, .ful, .cut, .sedge, .map, .peat, .sec, .rst, .warden, .syn, .tim, .cmd, .chk, .elect, .freeCtr, .outbox, .owed, .tc3], 0x4001002510000007a5f1d3e11df90000000001f73ff06023fe02c00001) s (doSpeedSample r s) := by
  unfold doSpeedSample
  repeat' first
    | with_reducible exact Keep.refl _ _
    | with_reducible assumption
    | (with_reducible apply Keep.step; with_reducible apply State.cornerStep_keep; decide)
    | (with_reducible apply Keep.step; with_reducible apply State.floorStep_keep; decide)
    | (with_reducible apply Keep.step; with_reducible apply State.speedShow_keep; decide)
    | (with_reducible apply Keep.step; with_reducible apply State.notice_keep; decide)
    | (with_reducible apply Keep.step; with_reducible apply State.reset'_keep; decide)
    | (with_reducible apply Keep.step; with_reducible apply State.onBoot_keep; decide)
    | (with_reducible apply Keep.step; with_reducible apply State.raise_keep has_Fld_ctlCornerStatus_thermTrip; decide)
    | fail_if_no_progress (with_reducible apply Keep.step; with_reducible apply keep_mon; decide)
    | fail_if_no_progress (with_reducible apply Keep.step; with_reducible apply keep_freeCtr; decide)
    | with_reducible apply Keep.ite
    | with_reducible apply OutKeep.ite
    | with_reducible apply OutKeep.next
    | split
    | dsimp only

theorem State.putSlice_keep (s : State) (n : Nat) (c : Causeway) : Keep ([.slices], 0x0) s (State.putSlice s n c) := by
  unfold State.putSlice
  repeat' first
    | with_reducible exact Keep.refl _ _
    | with_reducible assumption
    | fail_if_no_progress (with_reducible apply Keep.step; with_reducible apply keep_slices; decide)
    | with_reducible apply Keep.ite
    | split
    | dsimp only

theorem State.sliceDrops_keep (s : State) (n : Nat) : Keep ([.board, .regs, .mem, .log, .red, .ful, .cut, .sedge, .map, .peat, .rst, .warden, .syn, .chk, .freeCtr, .outbox, .acksOut], 0x4001002510000007a5f1d3e11dfd0000000001f7000060200000000000) s (State.sliceDrops s n) := by
  unfold State.sliceDrops
  repeat' first
    | with_reducible exact Keep.refl _ _
    | with_reducible assumption
    | (with_reducible apply Keep.step; with_reducible apply State.abortBucket_keep; decide)
    | (with_reducible apply Keep.step; with_reducible apply State.egressDrop_keep; decide)
    | (with_reducible apply Keep.step; with_reducible apply State.feltLost_keep; decide)
    | (with_reducible apply Keep.step; with_reducible apply State.pickFree_keep; decide)
    | with_reducible apply Keep.foldl
    | with_reducible apply Keep.foldl_fst
    | with_reducible apply Keep.foldl_snd
    | with_reducible apply Keep.ite
    | split
    | dsimp only
    | intro _
    | (with_reducible apply Keep.step; with_reducible apply Keep.of_snd; assumption; with_reducible apply State.pickFree_keep; decide)

theorem State.sliceOpens_keep (s : State) (n : Nat) : Keep ([.slices], 0x0) s (State.sliceOpens s n) := by
  unfold State.sliceOpens
  repeat' first
    | with_reducible exact Keep.refl _ _
    | with_reducible assumption
    | (with_reducible apply Keep.step; with_reducible apply State.putSlice_keep; decide)
    | with_reducible apply Keep.ite
    | split
    | dsimp only

theorem State.sliceCloses_keep (s : State) (n : Nat) : Keep ([.board, .regs, .mem, .log, .slices, .red, .ful, .cut, .sedge, .map, .peat, .rst, .warden, .syn, .chk, .freeCtr, .outbox, .acksOut], 0x4001002510000007a5f1d3e11dfd0000000001f7000060200000000000) s (State.sliceCloses s n) := by
  unfold State.sliceCloses
  repeat' first
    | with_reducible exact Keep.refl _ _
    | with_reducible assumption
    | (with_reducible apply Keep.step; with_reducible apply State.sliceDrops_keep; decide)
    | (with_reducible apply Keep.step; with_reducible apply State.putSlice_keep; decide)
    | with_reducible apply Keep.ite
    | split
    | dsimp only

theorem State.lnkCtrlWrite_keep (s : State) (n : Nat) (w : Nat) : Keep ([.board, .regs, .mem, .log, .slices, .red, .ful, .cut, .sedge, .map, .peat, .rst, .warden, .syn, .chk, .freeCtr, .outbox, .acksOut], 0x4001002510000007a5f1d3e11dfd0000000009f7000060200000000000) s (State.lnkCtrlWrite s n w) := by
  unfold State.lnkCtrlWrite
  repeat' first
    | with_reducible exact Keep.refl _ _
    | with_reducible assumption
    | (with_reducible apply Keep.step; with_reducible apply State.sliceCloses_keep; decide)
    | (with_reducible apply Keep.step; with_reducible apply State.sliceOpens_keep; decide)
    | (with_reducible apply Keep.step; with_reducible apply State.wrB_keep (has_Fld_lnkCtrl_close _); decide)
    | with_reducible apply Keep.ite
    | split
    | dsimp only

theorem doLnkCtrlClose_keep (n : Fin 42) (s : State) : OutKeep ([.board, .regs, .mem, .log, .slices, .red, .ful, .cut, .sedge, .map, .peat, .rst, .warden, .syn, .chk, .freeCtr, .outbox, .acksOut], 0x4001002510000007a5f1d3e11dfd0000000009f7000060200000000000) s (doLnkCtrlClose n s) := by
  unfold doLnkCtrlClose
  repeat' first
    | with_reducible exact Keep.refl _ _
    | with_reducible assumption
    | (with_reducible apply Keep.step; with_reducible apply State.lnkCtrlWrite_keep; decide)
    | with_reducible apply Keep.ite
    | with_reducible apply OutKeep.ite
    | with_reducible apply OutKeep.next
    | split
    | dsimp only

theorem execCausewayClosed_keep (n : Fin 42) (s : State) : OutKeep ([.slices, .bx3Out, .wire], 0x0) s (execCausewayClosed n s) := by
  unfold execCausewayClosed
  repeat' first
    | with_reducible exact Keep.refl _ _
    | with_reducible assumption
    | (with_reducible apply Keep.step; with_reducible apply State.sliceOpens_keep; decide)
    | (with_reducible apply Keep.step; with_reducible apply State.bx3Flush_keep; decide)
    | (with_reducible apply Keep.step; with_reducible apply State.putSlice_keep; decide)
    | with_reducible apply Keep.ite
    | with_reducible apply OutKeep.ite
    | with_reducible apply OutKeep.next
    | split
    | dsimp only

theorem execLnkCtrlOpen_keep (n : Fin 42) (s : State) : OutKeep ([.board, .regs, .mem, .log, .slices, .red, .ful, .cut, .sedge, .map, .peat, .rst, .warden, .syn, .chk, .freeCtr, .outbox, .acksOut], 0x4001002510000007a5f1d3e11dfd0000000009f7000060200000000000) s (execLnkCtrlOpen n s) := by
  unfold execLnkCtrlOpen
  repeat' first
    | with_reducible exact Keep.refl _ _
    | with_reducible assumption
    | (with_reducible apply Keep.step; with_reducible apply State.lnkCtrlWrite_keep; decide)
    | with_reducible apply Keep.ite
    | with_reducible apply OutKeep.ite
    | with_reducible apply OutKeep.next
    | split
    | dsimp only

theorem execCausewayOpen_keep (n : Fin 42) (s : State) : OutKeep ([.slices, .placed], 0x0) s (execCausewayOpen n s) := by
  unfold execCausewayOpen
  repeat' first
    | with_reducible exact Keep.refl _ _
    | with_reducible assumption
    | (with_reducible apply Keep.step; with_reducible apply State.putSlice_keep; decide)
    | fail_if_no_progress (with_reducible apply Keep.step; with_reducible apply keep_placed; decide)
    | with_reducible apply Keep.ite
    | with_reducible apply OutKeep.ite
    | with_reducible apply OutKeep.next
    | split
    | dsimp only

theorem execBx3FramePass_keep (n : Fin 42) (dir : Dir) (frame : Bx3Frame) (s : State) : OutKeep ([.bx3Out], 0x0) s (execBx3FramePass n dir frame s) := by
  unfold execBx3FramePass
  repeat' first
    | with_reducible exact Keep.refl _ _
    | with_reducible assumption
    | (with_reducible apply Keep.step; with_reducible apply State.bx3Is_keep; decide)
    | with_reducible apply Keep.ite
    | with_reducible apply OutKeep.ite
    | with_reducible apply OutKeep.next
    | split
    | dsimp only

theorem State.eccUe_keep (s : State) (sram : Sram) (word : Nat) : Keep ([.regs, .log], 0x44080000000000) s (State.eccUe s sram word) := by
  unfold State.eccUe
  repeat' first
    | with_reducible exact Keep.refl _ _
    | with_reducible assumption
    | (with_reducible apply Keep.step; with_reducible apply State.logIt_keep; decide)
    | (with_reducible apply Keep.step; with_reducible apply State.bump_keep has_Fld_ctlEccCounts_uncorrectable; decide)
    | (with_reducible apply Keep.step; with_reducible apply State.raise_keep has_Fld_ctlErrStatus_eccUe; decide)
    | with_reducible apply Keep.ite
    | split
    | dsimp only

theorem State.bufError_keep (s : State) (n : Nat) : Keep ([.board, .regs, .mem, .log, .slices, .red, .ful, .cut, .sedge, .map, .peat, .rst, .warden, .syn, .chk, .freeCtr, .outbox, .acksOut, .bx3Out], 0x4001002510000007a5f1d3e11dfd0000000201f7000060200000000000) s (State.bufError s n) := by
  unfold State.bufError
  repeat' first
    | with_reducible exact Keep.refl _ _
    | with_reducible assumption
    | (with_reducible apply Keep.step; with_reducible apply State.sliceDrops_keep; decide)
    | (with_reducible apply Keep.step; with_reducible apply State.putSlice_keep; decide)
    | (with_reducible apply Keep.step; with_reducible apply State.bx3Drop_keep; decide)
    | (with_reducible apply Keep.step; with_reducible apply State.raise_keep (has_Fld_lnkStatus_bufErr _); decide)
    | with_reducible apply Keep.ite
    | split
    | dsimp only

theorem doSliceBufferError_keep (n : Fin 42) (s : State) : OutKeep ([.board, .regs, .mem, .log, .slices, .red, .ful, .cut, .sedge, .map, .peat, .rst, .warden, .syn, .chk, .freeCtr, .outbox, .acksOut, .bx3Out], 0x4001002510000007a5f1d3e11dfd0000000201f7000064280000000000) s (doSliceBufferError n s) := by
  unfold doSliceBufferError
  repeat' first
    | with_reducible exact Keep.refl _ _
    | with_reducible assumption
    | (with_reducible apply Keep.step; with_reducible apply State.bufError_keep; decide)
    | (with_reducible apply Keep.step; with_reducible apply State.pickFree_keep; decide)
    | (with_reducible apply Keep.step; with_reducible apply State.eccUe_keep; decide)
    | with_reducible apply Keep.ite
    | with_reducible apply OutKeep.ite
    | with_reducible apply OutKeep.next
    | split
    | dsimp only
    | (with_reducible apply Keep.step; with_reducible apply Keep.of_snd; assumption; with_reducible apply State.pickFree_keep; decide)

theorem execSramScrubPass_keep (corrected : Nat) (s : State) : OutKeep ([.regs], 0x2040000000000) s (execSramScrubPass corrected s) := by
  unfold execSramScrubPass
  repeat' first
    | with_reducible exact Keep.refl _ _
    | with_reducible assumption
    | (with_reducible apply Keep.step; with_reducible apply State.bump_keep has_Fld_ctlEccCounts_corrected; decide)
    | (with_reducible apply Keep.step; with_reducible apply State.raise_keep has_Fld_ctlErrStatus_eccCorr; decide)
    | with_reducible apply Keep.ite
    | with_reducible apply OutKeep.ite
    | with_reducible apply OutKeep.next
    | split
    | dsimp only

end Sys2Proof.Machine
end

