-- ==== Sys2Proof/Laws/KeepCheck.lean ====
section
/-! SUPPORT. What each operation of Machine/Check.lean can do: one lemma for each (`Keep`). -/
namespace Sys2Proof.Machine

set_option linter.all false

theorem State.scanEnd_keep (s : State) (n : Nat) (st : Status) : Keep ([.regs, .chk, .irqs], 0x374) s (State.scanEnd s n st) := by
  unfold State.scanEnd
  repeat' first
    | with_reducible exact Keep.refl _ _
    | with_reducible assumption
    | (with_reducible apply Keep.step; with_reducible apply State.dropCtx_keep; decide)
    | (with_reducible apply Keep.step; with_reducible apply State.onChk_keep; decide)
    | (with_reducible apply Keep.step; with_reducible apply State.irq_keep; decide)
    | (with_reducible apply Keep.step; with_reducible apply State.bump_keep has_Fld_chkCounts_mismatches; decide)
    | (with_reducible apply Keep.step; with_reducible apply State.raise_keep has_Fld_chkErrStatus_memUe; decide)
    | (with_reducible apply Keep.step; with_reducible apply State.raise_keep has_Fld_chkErrStatus_scanMismatch; decide)
    | (with_reducible apply Keep.step; with_reducible apply State.raise_keep has_Fld_chkErrStatus_scanWindow; decide)
    | (with_reducible apply Keep.step; with_reducible apply State.wr_keep (has_Fld_chkEngStatus_done _); decide)
    | (with_reducible apply Keep.step; with_reducible apply State.wr_keep (has_Fld_chkEngStatus_lastStatus _); decide)
    | with_reducible apply Keep.ite
    | split
    | dsimp only

theorem State.scanCtrlWrite_keep (s : State) (n w : Nat) : Keep ([.regs, .log, .chk, .irqs], 0x400000000000000000000000000000000000000040800000000374) s (State.scanCtrlWrite s n w) := by
  unfold State.scanCtrlWrite
  repeat' first
    | with_reducible exact Keep.refl _ _
    | with_reducible assumption
    | (with_reducible apply Keep.step; with_reducible apply State.accessError_keep; decide)
    | (with_reducible apply Keep.step; with_reducible apply State.scanEnd_keep; decide)
    | (with_reducible apply Keep.step; with_reducible apply State.takeCtx_keep; decide)
    | (with_reducible apply Keep.step; with_reducible apply State.onChk_keep; decide)
    | (with_reducible apply Keep.step; with_reducible apply State.writePlain_keep (has_Reg_chkEngCtrl _); decide)
    | with_reducible apply Keep.ite
    | split
    | dsimp only
    | (with_reducible apply Keep.step; with_reducible apply Keep.of_fst; assumption; with_reducible apply State.writePlain_keep (has_Reg_chkEngCtrl _); decide)

theorem execScanStart_keep (n : Fin 4) (value : W32) (s : State) : OutKeep ([.regs, .log, .chk, .irqs], 0x400000000000000000000000000000000000000040800000000374) s (execScanStart n value s) := by
  unfold execScanStart
  repeat' first
    | with_reducible exact Keep.refl _ _
    | with_reducible assumption
    | (with_reducible apply Keep.step; with_reducible apply State.scanCtrlWrite_keep; decide)
    | with_reducible apply Keep.ite
    | with_reducible apply OutKeep.ite
    | with_reducible apply OutKeep.next
    | split
    | dsimp only

theorem execScanComplete_keep (n : Fin 4) (s : State) : OutKeep ([.regs, .chk, .irqs], 0x37c) s (execScanComplete n s) := by
  unfold execScanComplete
  repeat' first
    | with_reducible exact Keep.refl _ _
    | with_reducible assumption
    | (with_reducible apply Keep.step; with_reducible apply State.scanEnd_keep; decide)
    | (with_reducible apply Keep.step; with_reducible apply State.wr_keep (has_Fld_chkEngResult_result _); decide)
    | with_reducible apply Keep.ite
    | with_reducible apply OutKeep.ite
    | with_reducible apply OutKeep.next
    | split
    | dsimp only

theorem State.laneGive_keep (s : State) (n k : Nat) : Keep ([.regs, .log, .cmd, .chk], 0x40000000000000) s (State.laneGive s n k) := by
  unfold State.laneGive
  repeat' first
    | with_reducible exact Keep.refl _ _
    | with_reducible assumption
    | (with_reducible apply Keep.step; with_reducible apply State.takeLane_keep; decide)
    | (with_reducible apply Keep.step; with_reducible apply State.ctxEnd_keep; decide)
    | (with_reducible apply Keep.step; with_reducible apply State.putCtx_keep; decide)
    | with_reducible apply Keep.ite
    | split
    | dsimp only

theorem State.laneAsk_keep (s : State) (k : Nat) : Keep ([.regs, .log, .cmd, .chk], 0x40000000000002) s (State.laneAsk s k) := by
  unfold State.laneAsk
  repeat' first
    | with_reducible exact Keep.refl _ _
    | with_reducible assumption
    | (with_reducible apply Keep.step; with_reducible apply State.laneGive_keep; decide)
    | (with_reducible apply Keep.step; with_reducible apply State.onChk_keep; decide)
    | (with_reducible apply Keep.step; with_reducible apply State.bump_keep has_Fld_chkCounts_laneWaits; decide)
    | with_reducible apply Keep.ite
    | split
    | dsimp only

theorem execLaneGrant_keep (s : State) : OutKeep ([.regs, .log, .cmd, .chk], 0x40000000000000) s (execLaneGrant s) := by
  unfold execLaneGrant
  repeat' first
    | with_reducible exact Keep.refl _ _
    | with_reducible assumption
    | (with_reducible apply Keep.step; with_reducible apply State.laneGive_keep; decide)
    | (with_reducible apply Keep.step; with_reducible apply State.takeLane_keep; decide)
    | (with_reducible apply Keep.step; with_reducible apply State.onChk_keep; decide)
    | with_reducible apply Keep.ite
    | with_reducible apply OutKeep.ite
    | with_reducible apply OutKeep.next
    | split
    | dsimp only

theorem State.digestStart_keep (s : State) (k : Nat) (c : Ctx) : Keep ([.regs, .log, .cmd, .chk], 0x40000000000002) s (State.digestStart s k c) := by
  unfold State.digestStart
  repeat' first
    | with_reducible exact Keep.refl _ _
    | with_reducible assumption
    | (with_reducible apply Keep.step; with_reducible apply State.laneAsk_keep; decide)
    | (with_reducible apply Keep.step; with_reducible apply State.ctxEnd_keep; decide)
    | (with_reducible apply Keep.step; with_reducible apply State.putCtx_keep; decide)
    | with_reducible apply Keep.ite
    | split
    | dsimp only

theorem State.padCheck_keep (s : State) (p : ShaSet) (hmac : Bool) (m : List Byte) : Keep ([.freeCtr], 0x0) s (State.padCheck s p hmac m).2 := by
  unfold State.padCheck
  repeat' first
    | with_reducible exact Keep.refl _ _
    | with_reducible assumption
    | (with_reducible apply Keep.step; with_reducible apply State.pickFree_keep; decide)
    | with_reducible apply Keep.ite
    | split
    | dsimp only
    | (with_reducible apply Keep.step; with_reducible apply Keep.of_snd; assumption; with_reducible apply State.pickFree_keep; decide)

theorem execDigestComplete_keep (lane : Fin 32) (s : State) : OutKeep ([.regs, .mem, .log, .cmd, .chk, .freeCtr], 0x40000000000080) s (execDigestComplete lane s) := by
  unfold execDigestComplete
  repeat' first
    | with_reducible exact Keep.refl _ _
    | with_reducible assumption
    | (with_reducible apply Keep.step; with_reducible apply State.dropLane_keep; decide)
    | (with_reducible apply Keep.step; with_reducible apply State.padCheck_keep; decide)
    | (with_reducible apply Keep.step; with_reducible apply State.store'_keep; decide)
    | (with_reducible apply Keep.step; with_reducible apply State.ctxEnd_keep; decide)
    | (with_reducible apply Keep.step; with_reducible apply State.raise_keep has_Fld_chkErrStatus_padInvalid; decide)
    | with_reducible apply Keep.ite
    | with_reducible apply OutKeep.ite
    | with_reducible apply OutKeep.next
    | split
    | dsimp only
    | (with_reducible apply Keep.step; with_reducible apply Keep.of_snd; assumption; with_reducible apply State.padCheck_keep; decide)

theorem State.ctxAbort_keep (s : State) (k : Nat) (st : Status) : Keep ([.regs, .log, .cmd, .chk], 0x40000000000000) s (State.ctxAbort s k st) := by
  unfold State.ctxAbort
  repeat' first
    | with_reducible exact Keep.refl _ _
    | with_reducible assumption
    | (with_reducible apply Keep.step; with_reducible apply State.dropLanes_keep; decide)
    | (with_reducible apply Keep.step; with_reducible apply State.dropCtxs_keep; decide)
    | (with_reducible apply Keep.step; with_reducible apply State.ctxEnd_keep; decide)
    | with_reducible apply Keep.ite
    | split
    | dsimp only

theorem State.laneError_keep (s : State) (lane : Nat) : Keep ([.board, .regs, .mem, .log, .red, .ful, .cut, .sedge, .map, .peat, .rst, .warden, .syn, .cmd, .chk, .freeCtr, .outbox], 0x4001002510000007a5f1d3e11df900000dc001f7000060200000000040) s (State.laneError s lane) := by
  unfold State.laneError
  repeat' first
    | with_reducible exact Keep.refl _ _
    | with_reducible assumption
    | (with_reducible apply Keep.step; with_reducible apply State.feltReadError_keep; decide)
    | (with_reducible apply Keep.step; with_reducible apply State.drainFail_keep; decide)
    | (with_reducible apply Keep.step; with_reducible apply State.dropLane_keep; decide)
    | (with_reducible apply Keep.step; with_reducible apply State.ctxAbort_keep; decide)
    | (with_reducible apply Keep.step; with_reducible apply State.onRst_keep; intro _ h; (first | exact h | exact Memory.wf_nil | exact Memory.wf_putBytes _ _ h | exact Memory.wf_erase _ _ h | with_unfolding_all exact h); decide)
    | (with_reducible apply Keep.step; with_reducible apply State.raise_keep has_Fld_chkErrStatus_memUe; decide)
    | with_reducible apply Keep.ite
    | split
    | dsimp only

theorem State.scanCtxError_keep (s : State) (k : Nat) : Keep ([.board, .regs, .mem, .log, .red, .ful, .cut, .sedge, .map, .peat, .rst, .warden, .syn, .cmd, .chk, .freeCtr, .outbox, .irqs], 0x4001002510000007a5f1d3e11df900000dc001f7000060200000000374) s (State.scanCtxError s k) := by
  unfold State.scanCtxError
  repeat' first
    | with_reducible exact Keep.refl _ _
    | with_reducible assumption
    | (with_reducible apply Keep.step; with_reducible apply State.feltReadError_keep; decide)
    | (with_reducible apply Keep.step; with_reducible apply State.drainFail_keep; decide)
    | (with_reducible apply Keep.step; with_reducible apply State.ctxAbort_keep; decide)
    | (with_reducible apply Keep.step; with_reducible apply State.scanEnd_keep; decide)
    | (with_reducible apply Keep.step; with_reducible apply State.dropCtx_keep; decide)
    | (with_reducible apply Keep.step; with_reducible apply State.onRst_keep; intro _ h; (first | exact h | exact Memory.wf_nil | exact Memory.wf_putBytes _ _ h | exact Memory.wf_erase _ _ h | with_unfolding_all exact h); decide)
    | (with_reducible apply Keep.step; with_reducible apply State.raise_keep has_Fld_chkErrStatus_memUe; decide)
    | with_reducible apply Keep.ite
    | split
    | dsimp only

end Sys2Proof.Machine
end

