-- ==== Sys2Proof/Laws/KeepBoot.lean ====
section
/-! SUPPORT. What each operation of Machine/Boot.lean can do: one lemma for each (`Keep`). -/
namespace Sys2Proof.Machine

set_option linter.all false

theorem State.onStore_keep (s : State) (f : Store → Store) (hf : ∀ x, Memory.wf x.bytes = true → Memory.wf (f x).bytes = true) : Keep ([.store], 0) s (s.onStore f) := keep_store' s _ (hf s.store)

theorem Store.write_bytes (t : Store) (r : StateRecord) : (t.write r).bytes = t.bytes := by
  unfold Store.write
  split <;> rfl

theorem State.record'_keep (s : State) (f : StateRecord → StateRecord) : Keep ([.store], 0) s (s.record' f) := by
  unfold State.record'
  refine Keep.ite (Keep.refl _ _) ?_
  exact State.onStore_keep _ _ (fun x h => by rw [Store.write_bytes]; exact h)

theorem State.enterSlot_keep (s : State) (was b : Bool) : Keep ([.board, .boot, .regs, .mem, .log, .red, .ful, .cut, .sedge, .map, .peat, .rst, .warden, .syn, .chk, .freeCtr, .outbox], 0x4001002512001007a5f1d3e11df90001f02001f70004602000a0000000) s (State.enterSlot s was b) := by
  unfold State.enterSlot
  repeat' first
    | with_reducible exact Keep.refl _ _
    | with_reducible assumption
    | (with_reducible apply Keep.step; with_reducible apply State.peatBringUp_keep; decide)
    | (with_reducible apply Keep.step; with_reducible apply State.onBoard_keep; decide)
    | (with_reducible apply Keep.step; with_reducible apply State.onBoot_keep; decide)
    | (with_reducible apply Keep.step; with_reducible apply State.wr_keep has_Fld_ctlFwStatus_svn; decide)
    | (with_reducible apply Keep.step; with_reducible apply State.wrB_keep has_Fld_ctlBootReason_fallback; decide)
    | (with_reducible apply Keep.step; with_reducible apply State.wrB_keep has_Fld_ctlBootReason_slot; decide)
    | with_reducible apply Keep.ite
    | split
    | dsimp only

theorem State.enterHummock_keep (s : State) : Keep ([.board, .boot, .regs, .mem, .log, .red, .ful, .cut, .sedge, .map, .peat, .rst, .warden, .syn, .chk, .freeCtr, .outbox], 0x4001002512001007a5f1d3e11df90001f02001f70000602000e0000000) s (State.enterHummock s) := by
  unfold State.enterHummock
  repeat' first
    | with_reducible exact Keep.refl _ _
    | with_reducible assumption
    | (with_reducible apply Keep.step; with_reducible apply State.peatBringUp_keep; decide)
    | (with_reducible apply Keep.step; with_reducible apply State.onBoard_keep; decide)
    | (with_reducible apply Keep.step; with_reducible apply State.onBoot_keep; decide)
    | (with_reducible apply Keep.step; with_reducible apply State.logFw_keep; decide)
    | (with_reducible apply Keep.step; with_reducible apply State.wr_keep has_Fld_ctlBootReason_fallback; decide)
    | (with_reducible apply Keep.step; with_reducible apply State.wr_keep has_Fld_ctlBootReason_hummock; decide)
    | (with_reducible apply Keep.step; with_reducible apply State.wr_keep has_Fld_ctlBootReason_slot; decide)
    | with_reducible apply Keep.ite
    | split
    | dsimp only

theorem State.romFails_keep (s : State) (cause : Nat) : Keep ([.board, .boot, .store, .regs, .mem, .sump, .log, .mon, .slices, .placed, .bscan, .red, .ful, .cut, .sedge, .map, .peat, .sec, .rst, .warden, .syn, .tim, .cmd, .chk, .elect, .freeCtr, .outbox, .owed, .tc3], 0x4001002510000007a5f1d3e11df90000000001f7000060200002c00001) s (State.romFails s cause) := by
  unfold State.romFails
  repeat' first
    | with_reducible exact Keep.refl _ _
    | with_reducible assumption
    | (with_reducible apply Keep.step; with_reducible apply State.resetAll_keep; decide)
    | (with_reducible apply Keep.step; with_reducible apply State.onBoot_keep; decide)
    | with_reducible apply Keep.ite
    | split
    | dsimp only

theorem State.romRun_keep (s : State) (check : RomCheck) : Keep ([.board, .boot, .store, .regs, .mem, .sump, .log, .mon, .slices, .placed, .bscan, .red, .ful, .cut, .sedge, .map, .peat, .sec, .rst, .warden, .syn, .tim, .cmd, .chk, .elect, .freeCtr, .outbox, .owed, .tc3], 0x4001002512001007a5f1d3e11df90001f02001f70004702000fac00001) s (State.romRun s check) := by
  unfold State.romRun
  repeat' first
    | with_reducible exact Keep.refl _ _
    | with_reducible assumption
    | (with_reducible apply Keep.step; with_reducible apply State.enterHummock_keep; decide)
    | (with_reducible apply Keep.step; with_reducible apply State.enterSlot_keep; decide)
    | (with_reducible apply Keep.step; with_reducible apply State.romFails_keep; decide)
    | (with_reducible apply Keep.step; with_reducible apply State.record'_keep; decide)
    | (with_reducible apply Keep.step; with_reducible apply State.onBoot_keep; decide)
    | (with_reducible apply Keep.step; with_reducible apply State.raise_keep has_Fld_ctlErrStatus_mbistRepair; decide)
    | (with_reducible apply Keep.step; with_reducible apply State.wr_keep has_Fld_ctlBootReason_failCause; decide)
    | (with_reducible apply Keep.step; with_reducible apply State.wr_keep has_Fld_ctlBootReason_failCount; decide)
    | with_reducible apply Keep.ite
    | split
    | dsimp only

theorem doBootRomStart_keep (check : RomCheck) (s : State) : OutKeep ([.board, .boot, .store, .regs, .mem, .sump, .log, .mon, .slices, .placed, .bscan, .red, .ful, .cut, .sedge, .map, .peat, .sec, .rst, .warden, .syn, .tim, .cmd, .chk, .elect, .freeCtr, .outbox, .owed, .tc3], 0x4001002512001007a5f1d3e11df90001f02001f70004702001fac00001) s (doBootRomStart check s) := by
  unfold doBootRomStart
  repeat' first
    | with_reducible exact Keep.refl _ _
    | with_reducible assumption
    | (with_reducible apply Keep.step; with_reducible apply State.romRun_keep; decide)
    | (with_reducible apply Keep.step; with_reducible apply State.onBoot_keep; decide)
    | (with_reducible apply Keep.step; with_reducible apply State.wr_keep has_Fld_ctlBootReason_thermalHold; decide)
    | with_reducible apply Keep.ite
    | with_reducible apply OutKeep.ite
    | with_reducible apply OutKeep.next
    | split
    | dsimp only

theorem doThermalHoldRelease_keep (tj : BitVec 11) (s : State) : OutKeep ([.board, .boot, .store, .regs, .mem, .sump, .log, .mon, .slices, .placed, .bscan, .red, .ful, .cut, .sedge, .map, .peat, .sec, .rst, .warden, .syn, .tim, .cmd, .chk, .elect, .freeCtr, .outbox, .owed, .tc3], 0x4001002512001007a5f1d3e11df90001f02001f70004702000fac00001) s (doThermalHoldRelease tj s) := by
  unfold doThermalHoldRelease
  repeat' first
    | with_reducible exact Keep.refl _ _
    | with_reducible assumption
    | (with_reducible apply Keep.step; with_reducible apply State.romRun_keep; decide)
    | (with_reducible apply Keep.step; with_reducible apply State.onBoot_keep; decide)
    | with_reducible apply Keep.ite
    | with_reducible apply OutKeep.ite
    | with_reducible apply OutKeep.next
    | split
    | dsimp only

theorem State.setLost_keep (s : State) (k : Nat) : Keep ([.regs, .sedge], 0x4000000000000000000000000000000000000000000000) s (State.setLost s k) := by
  unfold State.setLost
  repeat' first
    | with_reducible exact Keep.refl _ _
    | with_reducible assumption
    | (with_reducible apply Keep.step; with_reducible apply State.putSet_keep; decide)
    | (with_reducible apply Keep.step; with_reducible apply State.raise_keep has_Fld_tierErrStatus_setLost; decide)
    | with_reducible apply Keep.ite
    | split
    | dsimp only

theorem State.pagesAgain_keep (s : State) (k : Nat) : Keep ([.sedge], 0x0) s (State.pagesAgain s k) := by
  unfold State.pagesAgain
  repeat' first
    | with_reducible exact Keep.refl _ _
    | with_reducible assumption
    | (with_reducible apply Keep.step; with_reducible apply State.putSet_keep; decide)
    | with_reducible apply Keep.ite
    | split
    | dsimp only

theorem State.mapAgain_keep (s : State) : Keep ([.map, .freeCtr], 0x0) s (State.mapAgain s) := by
  unfold State.mapAgain
  repeat' first
    | with_reducible exact Keep.refl _ _
    | with_reducible assumption
    | (with_reducible apply Keep.step; with_reducible apply State.pickBool_keep; decide)
    | (with_reducible apply Keep.step; with_reducible apply State.mapDrop_keep; decide)
    | with_reducible apply Keep.foldl
    | with_reducible apply Keep.foldl_fst
    | with_reducible apply Keep.foldl_snd
    | with_reducible apply Keep.ite
    | split
    | dsimp only
    | intro _
    | (with_reducible apply Keep.step; with_reducible apply Keep.of_snd; assumption; with_reducible apply State.pickBool_keep; decide)

theorem State.floorRaise_keep (s : State) : Keep ([.boot, .store], 0x0) s (State.floorRaise s) := by
  unfold State.floorRaise
  repeat' first
    | with_reducible exact Keep.refl _ _
    | with_reducible assumption
    | (with_reducible apply Keep.step; with_reducible apply State.record'_keep; decide)
    | (with_reducible apply Keep.step; with_reducible apply State.onBoot_keep; decide)
    | with_reducible apply Keep.ite
    | split
    | dsimp only

theorem State.openAll_keep (s : State) : Keep ([.regs, .slices], 0x800000000000000000000) s (State.openAll s) := by
  unfold State.openAll
  repeat' first
    | with_reducible exact Keep.refl _ _
    | with_reducible assumption
    | (with_reducible apply Keep.step; with_reducible apply State.putSlice_keep; decide)
    | (with_reducible apply Keep.step; with_reducible apply State.wr_keep (has_Fld_lnkCtrl_close _); decide)
    | with_reducible apply Keep.foldl
    | with_reducible apply Keep.foldl_fst
    | with_reducible apply Keep.foldl_snd
    | with_reducible apply Keep.ite
    | split
    | dsimp only
    | intro _

theorem doStartOk_keep (t : TableCheck) (s : State) : OutKeep ([.board, .boot, .store, .regs, .mem, .sump, .log, .mon, .slices, .placed, .bscan, .red, .ful, .cut, .sedge, .map, .peat, .sec, .rst, .warden, .syn, .tim, .cmd, .chk, .elect, .freeCtr, .outbox, .owed, .tc3], 0x4001002510004007a5f1d3e11df90000000009f7000370200002c00001) s (doStartOk t s) := by
  unfold doStartOk
  repeat' first
    | with_reducible exact Keep.refl _ _
    | with_reducible assumption
    | (with_reducible apply Keep.step; with_reducible apply State.pagesAgain_keep; decide)
    | (with_reducible apply Keep.step; with_reducible apply State.floorRaise_keep; decide)
    | (with_reducible apply Keep.step; with_reducible apply State.resetAll_keep; decide)
    | (with_reducible apply Keep.step; with_reducible apply State.mapAgain_keep; decide)
    | (with_reducible apply Keep.step; with_reducible apply State.onElect_keep; decide)
    | (with_reducible apply Keep.step; with_reducible apply State.openAll_keep; decide)
    | (with_reducible apply Keep.step; with_reducible apply State.setLost_keep; decide)
    | (with_reducible apply Keep.step; with_reducible apply State.record'_keep; decide)
    | (with_reducible apply Keep.step; with_reducible apply State.onBoot_keep; decide)
    | (with_reducible apply Keep.step; with_reducible apply State.onRst_keep; intro _ h; (first | exact h | exact Memory.wf_nil | exact Memory.wf_putBytes _ _ h | exact Memory.wf_erase _ _ h | with_unfolding_all exact h); decide)
    | (with_reducible apply Keep.step; with_reducible apply State.raise_keep has_Fld_ctlErrStatus_mbistRepair; decide)
    | (with_reducible apply Keep.step; with_reducible apply State.wr_keep has_Fld_ctlFwStatus_startOk; decide)
    | (with_reducible apply Keep.step; with_reducible apply State.wr_keep has_Fld_ctlFwStatus_startUs; decide)
    | with_reducible apply Keep.foldl
    | with_reducible apply Keep.foldl_fst
    | with_reducible apply Keep.foldl_snd
    | with_reducible apply Keep.ite
    | with_reducible apply OutKeep.ite
    | with_reducible apply OutKeep.next
    | split
    | dsimp only
    | intro _

theorem doStartWatchdogExpiry_keep (s : State) : OutKeep ([.board, .boot, .store, .regs, .mem, .sump, .log, .mon, .slices, .placed, .bscan, .red, .ful, .cut, .sedge, .map, .peat, .sec, .rst, .warden, .syn, .tim, .cmd, .chk, .elect, .freeCtr, .outbox, .owed, .tc3], 0x4001002510000007a5f1d3e11df90000000001f7000060200002c00001) s (doStartWatchdogExpiry s) := by
  unfold doStartWatchdogExpiry
  repeat' first
    | with_reducible exact Keep.refl _ _
    | with_reducible assumption
    | (with_reducible apply Keep.step; with_reducible apply State.startFails_keep; decide)
    | (with_reducible apply Keep.step; with_reducible apply State.reset'_keep; decide)
    | with_reducible apply Keep.ite
    | with_reducible apply OutKeep.ite
    | with_reducible apply OutKeep.next
    | split
    | dsimp only

theorem doCoreWatchdogExpiry_keep (_core : Fin 4) (s : State) : OutKeep ([.board, .boot, .store, .regs, .mem, .sump, .log, .mon, .slices, .placed, .bscan, .red, .ful, .cut, .sedge, .map, .peat, .sec, .rst, .warden, .syn, .tim, .cmd, .chk, .elect, .freeCtr, .outbox, .owed, .tc3], 0x4001002510000007a5f1d3e11df90000000001f7000061200002c00001) s (doCoreWatchdogExpiry _core s) := by
  unfold doCoreWatchdogExpiry
  repeat' first
    | with_reducible exact Keep.refl _ _
    | with_reducible assumption
    | (with_reducible apply Keep.step; with_reducible apply State.fatal_keep; decide)
    | (with_reducible apply Keep.step; with_reducible apply State.raise_keep has_Fld_ctlErrStatus_coreWd; decide)
    | with_reducible apply Keep.ite
    | with_reducible apply OutKeep.ite
    | with_reducible apply OutKeep.next
    | split
    | dsimp only

theorem State.activateWrite_keep (s : State) : Keep ([.boot, .regs], 0x800000000000000) s (State.activateWrite s) := by
  unfold State.activateWrite
  repeat' first
    | with_reducible exact Keep.refl _ _
    | with_reducible assumption
    | (with_reducible apply Keep.step; with_reducible apply State.onBoot_keep; decide)
    | (with_reducible apply Keep.step; with_reducible apply State.wr_keep has_Fld_ctlReset_quiescing; decide)
    | with_reducible apply Keep.ite
    | split
    | dsimp only

theorem execActivate_keep (s : State) : OutKeep ([.boot, .regs], 0x800000000000000) s (execActivate s) := by
  unfold execActivate
  repeat' first
    | with_reducible exact Keep.refl _ _
    | with_reducible assumption
    | (with_reducible apply Keep.step; with_reducible apply State.activateWrite_keep; decide)
    | with_reducible apply Keep.ite
    | with_reducible apply OutKeep.ite
    | with_reducible apply OutKeep.next
    | split
    | dsimp only

theorem doActivationReset_keep (s : State) : OutKeep ([.board, .boot, .store, .regs, .mem, .sump, .log, .mon, .slices, .placed, .bscan, .red, .ful, .cut, .sedge, .map, .peat, .sec, .rst, .warden, .syn, .tim, .cmd, .chk, .elect, .freeCtr, .outbox, .owed, .tc3], 0x4001002510000007a5f1d3e11df90000000001f7000060200002c00001) s (doActivationReset s) := by
  unfold doActivationReset
  repeat' first
    | with_reducible exact Keep.refl _ _
    | with_reducible assumption
    | (with_reducible apply Keep.step; with_reducible apply State.reset'_keep; decide)
    | (with_reducible apply Keep.step; with_reducible apply State.logFw_keep; decide)
    | with_reducible apply Keep.ite
    | with_reducible apply OutKeep.ite
    | with_reducible apply OutKeep.next
    | split
    | dsimp only

theorem State.bucketError_keep (s : State) (ch : Nat) (seq : W32) (st : Status) : Keep ([.board, .regs, .mem, .log, .red, .ful, .cut, .sedge, .map, .peat, .rst, .warden, .syn, .chk, .freeCtr, .outbox, .acksOut], 0x4001002510000007a5f1d3e11dfd0000000001f7000060200000000000) s (State.bucketError s ch seq st) := by
  unfold State.bucketError
  repeat' first
    | with_reducible exact Keep.refl _ _
    | with_reducible assumption
    | (with_reducible apply Keep.step; with_reducible apply State.abortIssued_keep; decide)
    | (with_reducible apply Keep.step; with_reducible apply State.abortBucket_keep; decide)
    | with_reducible apply Keep.ite
    | split
    | dsimp only

theorem State.refillStops_keep (s : State) (tag : Nat) : Keep ([.red, .rst, .outbox], 0x0) s (State.refillStops s tag) := by
  unfold State.refillStops
  repeat' first
    | with_reducible exact Keep.refl _ _
    | with_reducible assumption
    | (with_reducible apply Keep.step; with_reducible apply State.releaseTag_keep; decide)
    | (with_reducible apply Keep.step; with_reducible apply State.outboxIs_keep; decide)
    | (with_reducible apply Keep.step; with_reducible apply State.onRst_keep; intro _ h; (first | exact h | exact Memory.wf_nil | exact Memory.wf_putBytes _ _ h | exact Memory.wf_erase _ _ h | with_unfolding_all exact h); decide)
    | with_reducible apply Keep.ite
    | split
    | dsimp only

theorem doSramUncorrectable_keep (sram : Sram) (word : W32) (s : State) : OutKeep ([.board, .boot, .store, .regs, .mem, .sump, .log, .mon, .slices, .placed, .bscan, .red, .ful, .cut, .sedge, .map, .peat, .sec, .rst, .warden, .syn, .tim, .cmd, .chk, .elect, .freeCtr, .outbox, .acksOut, .irqs, .bx3Out, .owed, .tc3], 0x4001002510004007a5f1d3e11dfd00000dc201f70000ec280002c00375) s (doSramUncorrectable sram word s) := by
  unfold doSramUncorrectable
  repeat' first
    | with_reducible exact Keep.refl _ _
    | with_reducible assumption
    | (with_reducible apply Keep.step; with_reducible apply State.scanCtxError_keep; decide)
    | (with_reducible apply Keep.step; with_reducible apply State.bucketError_keep; decide)
    | (with_reducible apply Keep.step; with_reducible apply State.pagesAgain_keep; decide)
    | (with_reducible apply Keep.step; with_reducible apply State.laneError_keep; decide)
    | (with_reducible apply Keep.step; with_reducible apply State.pickFree_keep; decide)
    | (with_reducible apply Keep.step; with_reducible apply State.fulAbort_keep; decide)
    | (with_reducible apply Keep.step; with_reducible apply State.ctxAbort_keep; decide)
    | (with_reducible apply Keep.step; with_reducible apply State.bufError_keep; decide)
    | (with_reducible apply Keep.step; with_reducible apply State.setLost_keep; decide)
    | (with_reducible apply Keep.step; with_reducible apply State.eccUe_keep; decide)
    | (with_reducible apply Keep.step; with_reducible apply State.fatal_keep; decide)
    | (with_reducible apply Keep.step; with_reducible apply State.bump_keep has_Fld_ctlErrlog_lost; decide)
    | (with_reducible apply Keep.step; with_reducible apply State.raise_keep has_Fld_ctlErrStatus_logLost; decide)
    | fail_if_no_progress (with_reducible apply Keep.step; with_reducible apply keep_log; decide)
    | with_reducible apply Keep.ite
    | with_reducible apply OutKeep.ite
    | with_reducible apply OutKeep.next
    | split
    | dsimp only
    | (with_reducible apply Keep.step; with_reducible apply Keep.of_snd; assumption; with_reducible apply State.pickFree_keep; decide)

theorem doMemoryReadUncorrectable_keep (task : TaskId) (addr : BitVec 48) (s : State) : OutKeep ([.board, .regs, .mem, .log, .red, .ful, .cut, .sedge, .map, .peat, .rst, .warden, .syn, .cmd, .chk, .freeCtr, .outbox, .acksOut, .irqs], 0x4001002510000007a5f1d3e11dfd00000dc001f7000060200000000374) s (doMemoryReadUncorrectable task addr s) := by
  unfold doMemoryReadUncorrectable
  repeat' first
    | with_reducible exact Keep.refl _ _
    | with_reducible assumption
    | (with_reducible apply Keep.step; with_reducible apply State.bucketError_keep; decide)
    | (with_reducible apply Keep.step; with_reducible apply State.refillStops_keep; decide)
    | (with_reducible apply Keep.step; with_reducible apply State.laneError_keep; decide)
    | (with_reducible apply Keep.step; with_reducible apply State.drainFail_keep; decide)
    | (with_reducible apply Keep.step; with_reducible apply State.fulAbort_keep; decide)
    | (with_reducible apply Keep.step; with_reducible apply State.ctxAbort_keep; decide)
    | (with_reducible apply Keep.step; with_reducible apply State.cutFinal_keep; decide)
    | (with_reducible apply Keep.step; with_reducible apply State.scanEnd_keep; decide)
    | (with_reducible apply Keep.step; with_reducible apply State.logIt_keep; decide)
    | (with_reducible apply Keep.step; with_reducible apply State.onRst_keep; intro _ h; (first | exact h | exact Memory.wf_nil | exact Memory.wf_putBytes _ _ h | exact Memory.wf_erase _ _ h | with_unfolding_all exact h); decide)
    | (with_reducible apply Keep.step; with_reducible apply State.raise_keep has_Fld_chkErrStatus_memUe; decide)
    | with_reducible apply Keep.ite
    | with_reducible apply OutKeep.ite
    | with_reducible apply OutKeep.next
    | split
    | dsimp only

theorem doFenceFrame_keep (n : Fin 42) (f : Frame) (s : State) : OutKeep ([.board, .boot, .store, .regs, .mem, .sump, .log, .mon, .slices, .placed, .bscan, .red, .ful, .cut, .sedge, .map, .peat, .sec, .rst, .warden, .syn, .tim, .cmd, .chk, .elect, .freeCtr, .outbox, .owed, .tc3], 0x4001002590000007a5f1d3e11df90000000051f7000060200002c00001) s (doFenceFrame n f s) := by
  unfold doFenceFrame
  repeat' first
    | with_reducible exact Keep.refl _ _
    | with_reducible assumption
    | (with_reducible apply Keep.step; with_reducible apply State.staleAt_keep; decide)
    | (with_reducible apply Keep.step; with_reducible apply State.reset'_keep; decide)
    | (with_reducible apply Keep.step; with_reducible apply State.onRst_keep; intro _ h; (first | exact h | exact Memory.wf_nil | exact Memory.wf_putBytes _ _ h | exact Memory.wf_erase _ _ h | with_unfolding_all exact h); decide)
    | with_reducible apply State.rstRecv_keep
    | with_reducible apply Keep.ite
    | with_reducible apply OutKeep.ite
    | with_reducible apply OutKeep.next
    | (show sub _ _ = true; decide)
    | split
    | dsimp only
    | with_reducible exact Keep.id _ _
    | intro _

end Sys2Proof.Machine
end

