-- ==== Sys2Proof/Laws/KeepQueue.lean ====
section
/-! SUPPORT. What each operation of Machine/Queue.lean can do: one lemma for each (`Keep`). -/
namespace Sys2Proof.Machine

set_option linter.all false

theorem State.queueIdle_keep (s : State) (q : Nat) : Keep ([.cmd], 0x0) s (State.queueIdle s q) := by
  unfold State.queueIdle
  repeat' first
    | with_reducible exact Keep.refl _ _
    | with_reducible assumption
    | (with_reducible apply Keep.step; with_reducible apply State.putQueue_keep; decide)
    | with_reducible apply Keep.ite
    | split
    | dsimp only

theorem State.queueStart_keep (s : State) (q : Nat) (sizesOk : Bool) : Keep ([.regs, .cmd], 0xe8000) s (State.queueStart s q sizesOk) := by
  unfold State.queueStart
  repeat' first
    | with_reducible exact Keep.refl _ _
    | with_reducible assumption
    | (with_reducible apply Keep.step; with_reducible apply State.putQueue_keep; decide)
    | (with_reducible apply Keep.step; with_reducible apply State.raise_keep has_Fld_cmdErrStatus_ringInvalid; decide)
    | (with_reducible apply Keep.step; with_reducible apply State.wr_keep (has_Fld_cmdQCfg_enable _); decide)
    | (with_reducible apply Keep.step; with_reducible apply State.wr_keep (has_Fld_cmdQCqHead_head _); decide)
    | (with_reducible apply Keep.step; with_reducible apply State.wr_keep (has_Fld_cmdQSqTail_tail _); decide)
    | with_reducible apply Keep.ite
    | split
    | dsimp only

theorem State.queueCfgWrite_keep (s : State) (q w : Nat) : Keep ([.regs, .log, .cmd], 0x8000000000000000000000000000000000000000408000000e8000) s (State.queueCfgWrite s q w) := by
  unfold State.queueCfgWrite
  repeat' first
    | with_reducible exact Keep.refl _ _
    | with_reducible assumption
    | (with_reducible apply Keep.step; with_reducible apply State.accessError_keep; decide)
    | (with_reducible apply Keep.step; with_reducible apply State.queueStart_keep; decide)
    | (with_reducible apply Keep.step; with_reducible apply State.queueIdle_keep; decide)
    | (with_reducible apply Keep.step; with_reducible apply State.wr_keep (has_Fld_cmdQCfg_enable _); decide)
    | (with_reducible apply Keep.step; with_reducible apply State.writePlain_keep (has_Reg_cmdQCfg _); decide)
    | with_reducible apply Keep.ite
    | split
    | dsimp only
    | (with_reducible apply Keep.step; with_reducible apply Keep.of_fst; assumption; with_reducible apply State.writePlain_keep (has_Reg_cmdQCfg _); decide)

theorem execQueueEnable_keep (q : Fin 8) (value : W64) (s : State) : OutKeep ([.regs, .log, .cmd], 0x8000000000000000000000000000000000000000408000000e8000) s (execQueueEnable q value s) := by
  unfold execQueueEnable
  repeat' first
    | with_reducible exact Keep.refl _ _
    | with_reducible assumption
    | (with_reducible apply Keep.step; with_reducible apply State.queueCfgWrite_keep; decide)
    | with_reducible apply Keep.ite
    | with_reducible apply OutKeep.ite
    | with_reducible apply OutKeep.next
    | split
    | dsimp only

theorem execQueueDisable_keep (q : Fin 8) (value : W64) (s : State) : OutKeep ([.regs, .log, .cmd], 0x8000000000000000000000000000000000000000408000000e8000) s (execQueueDisable q value s) := by
  unfold execQueueDisable
  repeat' first
    | with_reducible exact Keep.refl _ _
    | with_reducible assumption
    | (with_reducible apply Keep.step; with_reducible apply State.queueCfgWrite_keep; decide)
    | with_reducible apply Keep.ite
    | with_reducible apply OutKeep.ite
    | with_reducible apply OutKeep.next
    | split
    | dsimp only

theorem State.queueOverflow_keep (s : State) (q : Nat) : Keep ([.regs, .cmd], 0x10000) s (State.queueOverflow s q) := by
  unfold State.queueOverflow
  repeat' first
    | with_reducible exact Keep.refl _ _
    | with_reducible assumption
    | (with_reducible apply Keep.step; with_reducible apply State.putQueue_keep; decide)
    | (with_reducible apply Keep.step; with_reducible apply State.raise_keep has_Fld_cmdErrStatus_sqOverflow; decide)
    | with_reducible apply Keep.ite
    | split
    | dsimp only

theorem State.sqTailWrite_keep (s : State) (q w : Nat) : Keep ([.regs, .log, .cmd], 0x40800000090000) s (State.sqTailWrite s q w) := by
  unfold State.sqTailWrite
  repeat' first
    | with_reducible exact Keep.refl _ _
    | with_reducible assumption
    | (with_reducible apply Keep.step; with_reducible apply State.queueOverflow_keep; decide)
    | (with_reducible apply Keep.step; with_reducible apply State.accessError_keep; decide)
    | (with_reducible apply Keep.step; with_reducible apply State.putQueue_keep; decide)
    | (with_reducible apply Keep.step; with_reducible apply State.wr_keep (has_Fld_cmdQSqTail_tail _); decide)
    | with_reducible apply Keep.ite
    | split
    | dsimp only

theorem execSqTailWrite_keep (q : Fin 8) (value : W32) (s : State) : OutKeep ([.regs, .log, .cmd], 0x40800000090000) s (execSqTailWrite q value s) := by
  unfold execSqTailWrite
  repeat' first
    | with_reducible exact Keep.refl _ _
    | with_reducible assumption
    | (with_reducible apply Keep.step; with_reducible apply State.sqTailWrite_keep; decide)
    | with_reducible apply Keep.ite
    | with_reducible apply OutKeep.ite
    | with_reducible apply OutKeep.next
    | split
    | dsimp only

theorem State.cqHeadWrite_keep (s : State) (q w : Nat) : Keep ([.regs, .log, .cmd], 0x40800000050000) s (State.cqHeadWrite s q w) := by
  unfold State.cqHeadWrite
  repeat' first
    | with_reducible exact Keep.refl _ _
    | with_reducible assumption
    | (with_reducible apply Keep.step; with_reducible apply State.queueOverflow_keep; decide)
    | (with_reducible apply Keep.step; with_reducible apply State.accessError_keep; decide)
    | (with_reducible apply Keep.step; with_reducible apply State.putQueue_keep; decide)
    | (with_reducible apply Keep.step; with_reducible apply State.wr_keep (has_Fld_cmdQCqHead_head _); decide)
    | with_reducible apply Keep.ite
    | split
    | dsimp only

theorem execCqHeadWrite_keep (q : Fin 8) (value : W32) (s : State) : OutKeep ([.regs, .log, .cmd], 0x40800000050000) s (execCqHeadWrite q value s) := by
  unfold execCqHeadWrite
  repeat' first
    | with_reducible exact Keep.refl _ _
    | with_reducible assumption
    | (with_reducible apply Keep.step; with_reducible apply State.cqHeadWrite_keep; decide)
    | with_reducible apply Keep.ite
    | with_reducible apply OutKeep.ite
    | with_reducible apply OutKeep.next
    | split
    | dsimp only

theorem State.pushWrite_keep (s : State) (q slot k : Nat) (w : W64) : Keep ([.regs, .log, .cmd], 0x40800000002000) s (State.pushWrite s q slot k w) := by
  unfold State.pushWrite
  repeat' first
    | with_reducible exact Keep.refl _ _
    | with_reducible assumption
    | (with_reducible apply Keep.step; with_reducible apply State.accessError_keep; decide)
    | (with_reducible apply Keep.step; with_reducible apply State.putQueue_keep; decide)
    | (with_reducible apply Keep.step; with_reducible apply State.raise_keep has_Fld_cmdErrStatus_pushBusy; decide)
    | with_reducible apply Keep.ite
    | split
    | dsimp only

theorem execPushSubmit_keep (q : Fin 8) (slot : Fin 4) (w7 : W64) (s : State) : OutKeep ([.regs, .log, .cmd], 0x40800000002000) s (execPushSubmit q slot w7 s) := by
  unfold execPushSubmit
  repeat' first
    | with_reducible exact Keep.refl _ _
    | with_reducible assumption
    | (with_reducible apply Keep.step; with_reducible apply State.pushWrite_keep; decide)
    | with_reducible apply Keep.ite
    | with_reducible apply OutKeep.ite
    | with_reducible apply OutKeep.next
    | split
    | dsimp only

theorem State.queueReset_keep (s : State) (q : Nat) : Keep ([.cut, .peat, .rst, .cmd, .chk], 0x0) s (State.queueReset s q) := by
  unfold State.queueReset
  repeat' first
    | with_reducible exact Keep.refl _ _
    | with_reducible assumption
    | (with_reducible apply Keep.step; with_reducible apply State.dropLanes_keep; decide)
    | (with_reducible apply Keep.step; with_reducible apply State.putQueue_keep; decide)
    | (with_reducible apply Keep.step; with_reducible apply State.dropCtxs_keep; decide)
    | (with_reducible apply Keep.step; with_reducible apply State.onPeat_keep; intro _ h; (first | exact h | exact Memory.wf_nil | exact Memory.wf_putBytes _ _ h | exact Memory.wf_erase _ _ h | with_unfolding_all exact h); decide)
    | (with_reducible apply Keep.step; with_reducible apply State.onCut_keep; decide)
    | (with_reducible apply Keep.step; with_reducible apply State.onCmd_keep; decide)
    | (with_reducible apply Keep.step; with_reducible apply State.onRst_keep; intro _ h; (first | exact h | exact Memory.wf_nil | exact Memory.wf_putBytes _ _ h | exact Memory.wf_erase _ _ h | with_unfolding_all exact h); decide)
    | with_reducible apply Keep.ite
    | split
    | dsimp only

theorem State.queueResetWrite_keep (s : State) (q : Nat) : Keep ([.regs, .log, .cut, .peat, .rst, .cmd, .chk, .freeCtr], 0x40000000000000) s (State.queueResetWrite s q) := by
  unfold State.queueResetWrite
  repeat' first
    | with_reducible exact Keep.refl _ _
    | with_reducible assumption
    | (with_reducible apply Keep.step; with_reducible apply State.queueReset_keep; decide)
    | (with_reducible apply Keep.step; with_reducible apply State.pickFree_keep; decide)
    | (with_reducible apply Keep.step; with_reducible apply State.logIt_keep; decide)
    | with_reducible apply Keep.ite
    | split
    | dsimp only
    | (with_reducible apply Keep.step; with_reducible apply Keep.of_snd; assumption; with_reducible apply State.pickFree_keep; decide)

theorem execQueueReset_keep (q : Fin 8) (s : State) : OutKeep ([.regs, .log, .cut, .peat, .rst, .cmd, .chk, .freeCtr], 0x40000000000000) s (execQueueReset q s) := by
  unfold execQueueReset
  repeat' first
    | with_reducible exact Keep.refl _ _
    | with_reducible assumption
    | (with_reducible apply Keep.step; with_reducible apply State.queueResetWrite_keep; decide)
    | with_reducible apply Keep.ite
    | with_reducible apply OutKeep.ite
    | with_reducible apply OutKeep.next
    | split
    | dsimp only

theorem State.queueRegs_keep (s : State) (q : Nat) : Keep ([.regs], 0x1) s (s.queueRegs q) := by
  refine keep_regs s _ (fun h => ?_)
  simp only [regsWf, Bool.and_eq_true, List.all_eq_true, List.mem_filter] at h ⊢
  exact ⟨rising_filter _ h.1, fun c hc => h.2 c hc.1⟩

theorem execQueueResetComplete_keep (q : Fin 8) (s : State) : OutKeep ([.regs, .cmd], 0x1) s (execQueueResetComplete q s) := by
  unfold execQueueResetComplete
  repeat' first
    | with_reducible exact Keep.refl _ _
    | with_reducible assumption
    | (with_reducible apply Keep.step; with_reducible apply State.queueRegs_keep; decide)
    | (with_reducible apply Keep.step; with_reducible apply State.putQueue_keep; decide)
    | (with_reducible apply Keep.step; with_reducible apply State.onCmd_keep; decide)
    | with_reducible apply Keep.ite
    | with_reducible apply OutKeep.ite
    | with_reducible apply OutKeep.next
    | split
    | dsimp only

theorem State.latch_keep (s : State) (q k : Nat) (c : Ctx) (rest : List Sub) : Keep ([.cmd], 0x0) s (State.latch s q k c rest) := by
  unfold State.latch
  repeat' first
    | with_reducible exact Keep.refl _ _
    | with_reducible assumption
    | (with_reducible apply Keep.step; with_reducible apply State.putQueue_keep; decide)
    | (with_reducible apply Keep.step; with_reducible apply State.putCtx_keep; decide)
    | (with_reducible apply Keep.step; with_reducible apply State.onCmd_keep; decide)
    | with_reducible apply Keep.ite
    | split
    | dsimp only

theorem State.resultOr_keep (s : State) (defined : Bool) (v : BitVec 32) : Keep ([.freeCtr], 0x0) s (State.resultOr s defined v).2 := by
  unfold State.resultOr
  repeat' first
    | with_reducible exact Keep.refl _ _
    | with_reducible assumption
    | (with_reducible apply Keep.step; with_reducible apply State.pickFree_keep; decide)
    | with_reducible apply Keep.ite
    | split
    | dsimp only
    | (with_reducible apply Keep.step; with_reducible apply Keep.of_snd; assumption; with_reducible apply State.pickFree_keep; decide)

theorem State.cqNotify_keep (s : State) (q : Nat) : Keep ([.regs, .mem, .syn, .cmd, .irqs], 0x1d3e10000000000000000000000000000000000) s (State.cqNotify s q) := by
  unfold State.cqNotify
  repeat' first
    | with_reducible exact Keep.refl _ _
    | with_reducible assumption
    | (with_reducible apply Keep.step; with_reducible apply State.putQueue_keep; decide)
    | (with_reducible apply Keep.step; with_reducible apply State.produce_keep; decide)
    | (with_reducible apply Keep.step; with_reducible apply State.setFlag_keep; decide)
    | (with_reducible apply Keep.step; with_reducible apply State.irq_keep; decide)
    | with_reducible apply Keep.ite
    | split
    | dsimp only
    | (with_reducible apply Keep.step; with_reducible apply Keep.of_fst; assumption; with_reducible apply State.produce_keep; decide)
    | (with_reducible apply Keep.step; with_reducible apply Keep.of_fst; assumption; with_reducible apply State.setFlag_keep; decide)

theorem State.ctxSignal_keep (s : State) (c : Ctx) : Keep ([.regs, .mem, .syn], 0x1d3e10000000000000000000000000000000000) s (State.ctxSignal s c) := by
  unfold State.ctxSignal
  repeat' first
    | with_reducible exact Keep.refl _ _
    | with_reducible assumption
    | (with_reducible apply Keep.step; with_reducible apply State.produce_keep; decide)
    | (with_reducible apply Keep.step; with_reducible apply State.setFlag_keep; decide)
    | with_reducible apply Keep.ite
    | split
    | dsimp only
    | (with_reducible apply Keep.step; with_reducible apply Keep.of_fst; assumption; with_reducible apply State.produce_keep; decide)
    | (with_reducible apply Keep.step; with_reducible apply Keep.of_fst; assumption; with_reducible apply State.setFlag_keep; decide)

theorem State.ctxFree_keep (s : State) (k : Nat) : Keep ([.cmd], 0x0) s (State.ctxFree s k) := by
  unfold State.ctxFree
  repeat' first
    | with_reducible exact Keep.refl _ _
    | with_reducible assumption
    | (with_reducible apply Keep.step; with_reducible apply State.onCmd_keep; decide)
    | with_reducible apply Keep.ite
    | split
    | dsimp only

theorem State.cqPost_keep (s : State) (k : Nat) (c : Ctx) (r0 r1 : BitVec 32) : Keep ([.regs, .mem, .syn, .cmd, .irqs], 0x1d3e10000000000000000000000000000000c00) s (State.cqPost s k c r0 r1) := by
  unfold State.cqPost
  repeat' first
    | with_reducible exact Keep.refl _ _
    | with_reducible assumption
    | (with_reducible apply Keep.step; with_reducible apply State.ctxSignal_keep; decide)
    | (with_reducible apply Keep.step; with_reducible apply State.queueIdle_keep; decide)
    | (with_reducible apply Keep.step; with_reducible apply State.putQueue_keep; decide)
    | (with_reducible apply Keep.step; with_reducible apply State.cqNotify_keep; decide)
    | (with_reducible apply Keep.step; with_reducible apply State.ctxFree_keep; decide)
    | (with_reducible apply Keep.step; with_reducible apply State.store'_keep; decide)
    | (with_reducible apply Keep.step; with_reducible apply State.bump_keep has_Fld_cmdCounts_commands; decide)
    | (with_reducible apply Keep.step; with_reducible apply State.bump_keep has_Fld_cmdCounts_errors; decide)
    | with_reducible apply Keep.ite
    | split
    | dsimp only

theorem execNotifyTimerExpiry_keep (q : Fin 8) (s : State) : OutKeep ([.regs, .mem, .syn, .cmd, .irqs], 0x1d3e10000000000000000000000000000000000) s (execNotifyTimerExpiry q s) := by
  unfold execNotifyTimerExpiry
  repeat' first
    | with_reducible exact Keep.refl _ _
    | with_reducible assumption
    | (with_reducible apply Keep.step; with_reducible apply State.cqNotify_keep; decide)
    | with_reducible apply Keep.ite
    | with_reducible apply OutKeep.ite
    | with_reducible apply OutKeep.next
    | split
    | dsimp only

end Sys2Proof.Machine
end

