-- ==== Sys2Proof/Laws/KeepRelay.lean ====
section
/-! SUPPORT. What each operation of Machine/Relay.lean can do: one lemma for each (`Keep`). -/
namespace Sys2Proof.Machine

set_option linter.all false

theorem State.relayTo_keep (s : State) (k : Nat) (c : Ctx) (all : Bool) (rack : BitVec 10) (pos : BitVec 7) (rank : BitVec 32) : Keep ([.regs, .red, .cmd, .freeCtr, .outbox], 0x0) s (State.relayTo s k c all rack pos rank) := by
  unfold State.relayTo
  repeat' first
    | with_reducible exact Keep.refl _ _
    | with_reducible assumption
    | (with_reducible apply Keep.step; with_reducible apply State.allocTag_keep; decide)
    | (with_reducible apply Keep.step; with_reducible apply State.sendTo_keep; decide)
    | (with_reducible apply Keep.step; with_reducible apply State.onCmd_keep; decide)
    | with_reducible apply Keep.foldl
    | with_reducible apply Keep.foldl_fst
    | with_reducible apply Keep.foldl_snd
    | with_reducible apply Keep.ite
    | split
    | dsimp only
    | intro _
    | (with_reducible apply Keep.step; with_reducible apply Keep.of_snd; assumption; with_reducible apply State.allocTag_keep; decide)

theorem State.relayOwn_keep (s : State) (k : Nat) (c : Ctx) : Keep ([.red, .cmd, .freeCtr], 0x0) s (State.relayOwn s k c) := by
  unfold State.relayOwn
  repeat' first
    | with_reducible exact Keep.refl _ _
    | with_reducible assumption
    | (with_reducible apply Keep.step; with_reducible apply State.putQueue_keep; decide)
    | (with_reducible apply Keep.step; with_reducible apply State.allocTag_keep; decide)
    | (with_reducible apply Keep.step; with_reducible apply State.onCmd_keep; decide)
    | with_reducible apply Keep.ite
    | split
    | dsimp only
    | (with_reducible apply Keep.step; with_reducible apply Keep.of_snd; assumption; with_reducible apply State.allocTag_keep; decide)

theorem State.relayOut_keep (s : State) (k : Nat) (c : Ctx) : Keep ([.regs, .log, .red, .cmd, .freeCtr, .outbox], 0x40000000004000) s (State.relayOut s k c) := by
  unfold State.relayOut
  repeat' first
    | with_reducible exact Keep.refl _ _
    | with_reducible assumption
    | (with_reducible apply Keep.step; with_reducible apply State.pickFree_keep; decide)
    | (with_reducible apply Keep.step; with_reducible apply State.pickBool_keep; decide)
    | (with_reducible apply Keep.step; with_reducible apply State.relayOwn_keep; decide)
    | (with_reducible apply Keep.step; with_reducible apply State.relayTo_keep; decide)
    | (with_reducible apply Keep.step; with_reducible apply State.ctxEnd_keep; decide)
    | (with_reducible apply Keep.step; with_reducible apply State.raise_keep has_Fld_cmdErrStatus_relayFailed; decide)
    | with_reducible apply Keep.foldl
    | with_reducible apply Keep.foldl_fst
    | with_reducible apply Keep.foldl_snd
    | with_reducible apply Keep.ite
    | split
    | dsimp only
    | intro _
    | (with_reducible apply Keep.step; with_reducible apply Keep.of_snd; assumption; with_reducible apply State.pickFree_keep; decide)
    | (with_reducible apply Keep.step; with_reducible apply Keep.of_snd; assumption; with_reducible apply State.pickBool_keep; decide)

theorem State.tryStart_keep (s : State) (q : Nat) : Keep ([.regs, .log, .red, .cmd, .freeCtr, .outbox], 0x40000000005000) s (State.tryStart s q).1 := by
  unfold State.tryStart
  repeat' first
    | with_reducible exact Keep.refl _ _
    | with_reducible assumption
    | (with_reducible apply Keep.step; with_reducible apply State.putQueue_keep; decide)
    | (with_reducible apply Keep.step; with_reducible apply State.relayOut_keep; decide)
    | (with_reducible apply Keep.step; with_reducible apply State.ctxEnd_keep; decide)
    | (with_reducible apply Keep.step; with_reducible apply State.onCmd_keep; decide)
    | (with_reducible apply Keep.step; with_reducible apply State.latch_keep; decide)
    | (with_reducible apply Keep.step; with_reducible apply State.bump_keep has_Fld_cmdCounts_lockWaits; decide)
    | (with_reducible apply Keep.step; with_reducible apply State.raise_keep has_Fld_cmdErrStatus_relayFailed; decide)
    | with_reducible apply Keep.ite
    | split
    | dsimp only

theorem State.startScan_keep (l : List Nat) (s : State) : Keep ([.regs, .log, .red, .cmd, .freeCtr, .outbox], 0x40000000005000) s (State.startScan l s) := by
  induction l generalizing s with
  | nil =>
    exact Keep.refl _ _
  | cons q t ih =>
    unfold State.startScan
    repeat' first
      | with_reducible exact Keep.refl _ _
      | (with_reducible apply Keep.step; with_reducible apply ih; decide)
      | with_reducible assumption
      | (with_reducible apply Keep.step; with_reducible apply State.tryStart_keep; decide)
      | with_reducible apply Keep.ite
      | split
      | dsimp only
      | (with_reducible apply Keep.step; with_reducible apply Keep.of_fst; assumption; with_reducible apply State.tryStart_keep; decide)

theorem execCommandStart_keep (s : State) : OutKeep ([.regs, .log, .red, .cmd, .freeCtr, .outbox], 0x40000000005000) s (execCommandStart s) := by
  unfold execCommandStart
  repeat' first
    | with_reducible exact Keep.refl _ _
    | with_reducible assumption
    | (with_reducible apply Keep.step; with_reducible apply State.startScan_keep; decide)
    | with_reducible apply Keep.ite
    | with_reducible apply OutKeep.ite
    | with_reducible apply OutKeep.next
    | split
    | dsimp only

theorem State.relayAnswer_keep (s : State) (r : RelayFrom) (entry data : List Byte) : Keep ([.outbox], 0x0) s (State.relayAnswer s r entry data) := by
  unfold State.relayAnswer
  repeat' first
    | with_reducible exact Keep.refl _ _
    | with_reducible assumption
    | (with_reducible apply Keep.step; with_reducible apply State.sendTo_keep; decide)
    | with_reducible apply Keep.ite
    | split
    | dsimp only

theorem State.relayStatus_keep (s : State) (r : RelayFrom) (entry : List Byte) (st : Status) : Keep ([.freeCtr, .outbox], 0x0) s (State.relayStatus s r entry st) := by
  unfold State.relayStatus
  repeat' first
    | with_reducible exact Keep.refl _ _
    | with_reducible assumption
    | (with_reducible apply Keep.step; with_reducible apply State.relayAnswer_keep; decide)
    | (with_reducible apply Keep.step; with_reducible apply State.resultOr_keep; decide)
    | with_reducible apply Keep.ite
    | split
    | dsimp only
    | (with_reducible apply Keep.step; with_reducible apply Keep.of_snd; assumption; with_reducible apply State.resultOr_keep; decide)

theorem State.relaySubmit_keep (s : State) (r : RelayFrom) (entry : List Byte) : Keep ([.cmd], 0x0) s (State.relaySubmit s r entry) := by
  unfold State.relaySubmit
  repeat' first
    | with_reducible exact Keep.refl _ _
    | with_reducible assumption
    | (with_reducible apply Keep.step; with_reducible apply State.putQueue_keep; decide)
    | with_reducible apply Keep.ite
    | split
    | dsimp only

theorem State.stagedTry_keep (s : State) (x : Staged) : Keep ([.cmd, .freeCtr, .outbox], 0x0) s (State.stagedTry s x) := by
  unfold State.stagedTry
  repeat' first
    | with_reducible exact Keep.refl _ _
    | with_reducible assumption
    | (with_reducible apply Keep.step; with_reducible apply State.relayStatus_keep; decide)
    | (with_reducible apply Keep.step; with_reducible apply State.relaySubmit_keep; decide)
    | (with_reducible apply Keep.step; with_reducible apply State.onCmd_keep; decide)
    | with_reducible apply Keep.ite
    | split
    | dsimp only

theorem execCommandRelay_keep (n : Fin 42) (f : Frame) (s : State) : OutKeep ([.regs, .cmd, .freeCtr, .outbox], 0x5000000000000000000000) s (execCommandRelay n f s) := by
  unfold execCommandRelay
  repeat' first
    | with_reducible exact Keep.refl _ _
    | with_reducible assumption
    | (with_reducible apply Keep.step; with_reducible apply State.relaySubmit_keep; decide)
    | (with_reducible apply Keep.step; with_reducible apply State.stagedTry_keep; decide)
    | (with_reducible apply Keep.step; with_reducible apply State.staleAt_keep; decide)
    | (with_reducible apply Keep.step; with_reducible apply State.onCmd_keep; decide)
    | with_reducible apply State.recv_keep
    | with_reducible apply Keep.ite
    | with_reducible apply OutKeep.ite
    | with_reducible apply OutKeep.next
    | (show sub _ _ = true; decide)
    | split
    | dsimp only
    | with_reducible exact Keep.id _ _
    | intro _

theorem State.putRelay_keep (s : State) (r : Relay) : Keep ([.cmd], 0x0) s (State.putRelay s r) := by
  unfold State.putRelay
  repeat' first
    | with_reducible exact Keep.refl _ _
    | with_reducible assumption
    | (with_reducible apply Keep.step; with_reducible apply State.onCmd_keep; decide)
    | with_reducible apply Keep.ite
    | split
    | dsimp only

theorem State.relayDone_keep (s : State) (k : Nat) : Keep ([.regs, .log, .red, .cmd, .freeCtr], 0x40000000000000) s (State.relayDone s k) := by
  unfold State.relayDone
  repeat' first
    | with_reducible exact Keep.refl _ _
    | with_reducible assumption
    | (with_reducible apply Keep.step; with_reducible apply State.releaseTags_keep; decide)
    | (with_reducible apply Keep.step; with_reducible apply State.pickBool_keep; decide)
    | (with_reducible apply Keep.step; with_reducible apply State.putCtx_keep; decide)
    | (with_reducible apply Keep.step; with_reducible apply State.ctxEnd_keep; decide)
    | (with_reducible apply Keep.step; with_reducible apply State.onCmd_keep; decide)
    | with_reducible apply Keep.foldl
    | with_reducible apply Keep.foldl_fst
    | with_reducible apply Keep.foldl_snd
    | with_reducible apply Keep.ite
    | split
    | dsimp only
    | intro _
    | (with_reducible apply Keep.step; with_reducible apply Keep.of_snd; assumption; with_reducible apply State.pickBool_keep; decide)

theorem relayFail_keep (s : State) (r : Relay) (st : Status) : Keep ([.cmd], 0x0) s (relayFail s r st) := by
  unfold relayFail
  repeat' first
    | with_reducible exact Keep.refl _ _
    | with_reducible assumption
    | (with_reducible apply Keep.step; with_reducible apply State.putRelay_keep; decide)
    | with_reducible apply Keep.ite
    | split
    | dsimp only

theorem State.relayJudge_keep (s : State) (r : Relay) (b : List Byte) : Keep ([.regs, .log, .red, .cmd, .freeCtr], 0x40000000000000) s (State.relayJudge s r b) := by
  unfold State.relayJudge
  repeat' first
    | with_reducible exact Keep.refl _ _
    | with_reducible assumption
    | (with_reducible apply Keep.step; with_reducible apply State.relayDone_keep; decide)
    | (with_reducible apply Keep.step; with_reducible apply State.putRelay_keep; decide)
    | (with_reducible apply Keep.step; with_reducible apply relayFail_keep; decide)
    | with_reducible apply Keep.ite
    | split
    | dsimp only

theorem execCompletionRelay_keep (n : Fin 42) (f : Frame) (s : State) : OutKeep ([.regs, .mem, .log, .red, .cmd, .freeCtr], 0x5000000040000000000000) s (execCompletionRelay n f s) := by
  unfold execCompletionRelay
  repeat' first
    | with_reducible exact Keep.refl _ _
    | with_reducible assumption
    | (with_reducible apply Keep.step; with_reducible apply State.relayJudge_keep; decide)
    | (with_reducible apply Keep.step; with_reducible apply State.putRelay_keep; decide)
    | (with_reducible apply Keep.step; with_reducible apply State.staleAt_keep; decide)
    | (with_reducible apply Keep.step; with_reducible apply State.store'_keep; decide)
    | with_reducible apply State.recv_keep
    | with_reducible apply Keep.ite
    | with_reducible apply OutKeep.ite
    | with_reducible apply OutKeep.next
    | (show sub _ _ = true; decide)
    | split
    | dsimp only
    | with_reducible exact Keep.id _ _
    | intro _

theorem execRelayData_keep (n : Fin 42) (f : Frame) (s : State) : OutKeep ([.regs, .mem, .log, .red, .cmd, .freeCtr, .outbox], 0x5000000040000000000000) s (execRelayData n f s) := by
  unfold execRelayData
  repeat' first
    | with_reducible exact Keep.refl _ _
    | with_reducible assumption
    | (with_reducible apply Keep.step; with_reducible apply State.relayJudge_keep; decide)
    | (with_reducible apply Keep.step; with_reducible apply State.stagedTry_keep; decide)
    | (with_reducible apply Keep.step; with_reducible apply State.relayDone_keep; decide)
    | (with_reducible apply Keep.step; with_reducible apply State.putRelay_keep; decide)
    | (with_reducible apply Keep.step; with_reducible apply State.staleAt_keep; decide)
    | (with_reducible apply Keep.step; with_reducible apply State.store'_keep; decide)
    | (with_reducible apply Keep.step; with_reducible apply State.onCmd_keep; decide)
    | (with_reducible apply Keep.step; with_reducible apply relayFail_keep; decide)
    | with_reducible apply State.recv_keep
    | with_reducible apply Keep.ite
    | with_reducible apply OutKeep.ite
    | with_reducible apply OutKeep.next
    | (show sub _ _ = true; decide)
    | split
    | dsimp only
    | with_reducible exact Keep.id _ _
    | intro _

theorem execRelayTimeout_keep (seq : BitVec 32) (s : State) : OutKeep ([.regs, .log, .red, .cmd, .freeCtr], 0x40000000004000) s (execRelayTimeout seq s) := by
  unfold execRelayTimeout
  repeat' first
    | with_reducible exact Keep.refl _ _
    | with_reducible assumption
    | (with_reducible apply Keep.step; with_reducible apply State.relayDone_keep; decide)
    | (with_reducible apply Keep.step; with_reducible apply relayFail_keep; decide)
    | (with_reducible apply Keep.step; with_reducible apply State.raise_keep has_Fld_cmdErrStatus_relayFailed; decide)
    | with_reducible apply Keep.ite
    | with_reducible apply OutKeep.ite
    | with_reducible apply OutKeep.next
    | split
    | dsimp only

theorem execRelayDataWatchdog_keep (seq : BitVec 32) (race : Race) (s : State) : OutKeep ([.regs, .log, .red, .cmd, .freeCtr, .outbox], 0x40000000300000) s (execRelayDataWatchdog seq race s) := by
  unfold execRelayDataWatchdog
  repeat' first
    | with_reducible exact Keep.refl _ _
    | with_reducible assumption
    | (with_reducible apply Keep.step; with_reducible apply State.relayStatus_keep; decide)
    | (with_reducible apply Keep.step; with_reducible apply State.relayDone_keep; decide)
    | (with_reducible apply Keep.step; with_reducible apply State.logRace_keep; decide)
    | (with_reducible apply Keep.step; with_reducible apply State.onCmd_keep; decide)
    | (with_reducible apply Keep.step; with_reducible apply relayFail_keep; decide)
    | with_reducible apply Keep.ite
    | with_reducible apply OutKeep.ite
    | with_reducible apply OutKeep.next
    | split
    | dsimp only

theorem State.relayOwnEnd_keep (s : State) (k : Nat) (c : Ctx) (r : RelayFrom) (r0 r1 : BitVec 32) : Keep ([.regs, .log, .red, .cmd, .freeCtr], 0x40000000000000) s (State.relayOwnEnd s k c r r0 r1) := by
  unfold State.relayOwnEnd
  repeat' first
    | with_reducible exact Keep.refl _ _
    | with_reducible assumption
    | (with_reducible apply Keep.step; with_reducible apply State.relayJudge_keep; decide)
    | (with_reducible apply Keep.step; with_reducible apply State.putRelay_keep; decide)
    | (with_reducible apply Keep.step; with_reducible apply State.ctxFree_keep; decide)
    | with_reducible apply Keep.ite
    | split
    | dsimp only

theorem State.relayPost_keep (s : State) (k : Nat) (c : Ctx) (r : RelayFrom) (r0 r1 : BitVec 32) : Keep ([.regs, .mem, .syn, .cmd, .outbox], 0x1d3e10000000000000000000000000000000000) s (State.relayPost s k c r r0 r1) := by
  unfold State.relayPost
  repeat' first
    | with_reducible exact Keep.refl _ _
    | with_reducible assumption
    | (with_reducible apply Keep.step; with_reducible apply State.relayAnswer_keep; decide)
    | (with_reducible apply Keep.step; with_reducible apply State.ctxSignal_keep; decide)
    | (with_reducible apply Keep.step; with_reducible apply State.ctxFree_keep; decide)
    | (with_reducible apply Keep.step; with_reducible apply State.sendTo_keep; decide)
    | with_reducible apply Keep.foldl
    | with_reducible apply Keep.foldl_fst
    | with_reducible apply Keep.foldl_snd
    | with_reducible apply Keep.ite
    | split
    | dsimp only
    | intro _

theorem execCommandComplete_keep (k : Fin 128) (s : State) : OutKeep ([.regs, .mem, .log, .red, .syn, .cmd, .freeCtr, .outbox, .irqs], 0x1d3e10000000000000000000040000000000c00) s (execCommandComplete k s) := by
  unfold execCommandComplete
  repeat' first
    | with_reducible exact Keep.refl _ _
    | with_reducible assumption
    | (with_reducible apply Keep.step; with_reducible apply State.relayOwnEnd_keep; decide)
    | (with_reducible apply Keep.step; with_reducible apply State.relayPost_keep; decide)
    | (with_reducible apply Keep.step; with_reducible apply State.queueIdle_keep; decide)
    | (with_reducible apply Keep.step; with_reducible apply State.resultOr_keep; decide)
    | (with_reducible apply Keep.step; with_reducible apply State.cqPost_keep; decide)
    | with_reducible apply Keep.ite
    | with_reducible apply OutKeep.ite
    | with_reducible apply OutKeep.next
    | split
    | dsimp only
    | (with_reducible apply Keep.step; with_reducible apply Keep.of_snd; assumption; with_reducible apply State.resultOr_keep; decide)

end Sys2Proof.Machine
end

