-- ==== Sys2Proof/Laws/KeepShard.lean ====
section
/-! SUPPORT. What each operation of Machine/Shard.lean can do: one lemma for each (`Keep`). -/
namespace Sys2Proof.Machine

set_option linter.all false

theorem State.readDone_keep (s : State) (k : Nat) (c : Ctx) (bs : List Byte) (st : Status) (r1 : Nat) : Keep ([.regs, .mem, .log, .cmd, .freeCtr], 0x40000000000000) s (State.readDone s k c bs st r1) := by
  unfold State.readDone
  repeat' first
    | with_reducible exact Keep.refl _ _
    | with_reducible assumption
    | (with_reducible apply Keep.step; with_reducible apply State.pickBool_keep; decide)
    | (with_reducible apply Keep.step; with_reducible apply State.ctxEnd_keep; decide)
    | (with_reducible apply Keep.step; with_reducible apply State.store'_keep; decide)
    | (with_reducible apply Keep.step; with_reducible apply State.putCtx_keep; decide)
    | with_reducible apply Keep.ite
    | split
    | dsimp only
    | (with_reducible apply Keep.step; with_reducible apply Keep.of_snd; assumption; with_reducible apply State.pickBool_keep; decide)

theorem State.readFrom_keep (s : State) (k : Nat) (c : Ctx) (x : Except Status Shard) : Keep ([.regs, .mem, .log, .cmd, .freeCtr], 0x40000000000000) s (State.readFrom s k c x) := by
  unfold State.readFrom
  repeat' first
    | with_reducible exact Keep.refl _ _
    | with_reducible assumption
    | (with_reducible apply Keep.step; with_reducible apply State.readDone_keep; decide)
    | (with_reducible apply Keep.step; with_reducible apply State.ctxEnd_keep; decide)
    | with_reducible apply Keep.ite
    | split
    | dsimp only

theorem State.fetchFrom_keep (s : State) (k : Nat) (c : Ctx) (at' : BitVec 10 × BitVec 7) (step : W64) (gen : BitVec 8) (want : List (Nat × Nat)) : Keep ([.cmd, .outbox], 0x0) s (State.fetchFrom s k c at' step gen want) := by
  unfold State.fetchFrom
  repeat' first
    | with_reducible exact Keep.refl _ _
    | with_reducible assumption
    | (with_reducible apply Keep.step; with_reducible apply State.sendTo_keep; decide)
    | (with_reducible apply Keep.step; with_reducible apply State.putCtx_keep; decide)
    | with_reducible apply Keep.foldl
    | with_reducible apply Keep.foldl_fst
    | with_reducible apply Keep.foldl_snd
    | with_reducible apply Keep.ite
    | split
    | dsimp only
    | intro _

theorem State.readSedge_keep (s : State) (k : Nat) (c : Ctx) : Keep ([.regs, .mem, .log, .cmd, .freeCtr, .outbox], 0x40000000000000) s (State.readSedge s k c) := by
  unfold State.readSedge
  repeat' first
    | with_reducible exact Keep.refl _ _
    | with_reducible assumption
    | (with_reducible apply Keep.step; with_reducible apply State.fetchFrom_keep; decide)
    | (with_reducible apply Keep.step; with_reducible apply State.readDone_keep; decide)
    | (with_reducible apply Keep.step; with_reducible apply State.ctxEnd_keep; decide)
    | with_reducible apply Keep.ite
    | split
    | dsimp only

theorem State.readGood_keep (s : State) (k : Nat) (c : Ctx) (peatGen : Nat) (shard : W32) (b : List Byte) (bad : Option Nat) : Keep ([.regs, .mem, .log, .map, .cmd, .freeCtr], 0x2001000000000000000000000000000000040000000000000) s (State.readGood s k c peatGen shard b bad) := by
  unfold State.readGood
  repeat' first
    | with_reducible exact Keep.refl _ _
    | with_reducible assumption
    | (with_reducible apply Keep.step; with_reducible apply State.readDone_keep; decide)
    | (with_reducible apply Keep.step; with_reducible apply State.mapBad_keep; decide)
    | with_reducible apply Keep.ite
    | split
    | dsimp only

theorem State.readPeatRegion_keep (s : State) (k : Nat) (c : Ctx) (e : CatEntry) (key : Option (List Byte)) (m : Man) (x : ManRegion) : Keep ([.regs, .mem, .log, .map, .cmd, .freeCtr], 0x2001000000000000000000000000000000040000000000000) s (State.readPeatRegion s k c e key m x) := by
  rw [State.readPeatRegion]
  cases spanBad 4096 x.region.len c.off c.len with
  | some st => exact Keep.step (State.ctxEnd_keep _ _ _ _ _) (by decide) (Keep.refl _ _)
  | none => exact Keep.step (State.readGood_keep _ _ _ _ _ _ _) (by decide) (Keep.refl _ _)

theorem State.keyMissing_keep (s : State) (k : Nat) : Keep ([.regs, .log, .cmd], 0xd800000000040000000000000) s (State.keyMissing s k) := by
  unfold State.keyMissing
  repeat' first
    | with_reducible exact Keep.refl _ _
    | with_reducible assumption
    | (with_reducible apply Keep.step; with_reducible apply State.peatErr_keep; decide)
    | (with_reducible apply Keep.step; with_reducible apply State.ctxEnd_keep; decide)
    | with_reducible apply Keep.ite
    | split
    | dsimp only

theorem State.readPeat_keep (s : State) (k : Nat) (c : Ctx) : Keep ([.regs, .mem, .log, .map, .cmd, .freeCtr], 0x200100000000000000000000d800000000040000000000000) s (State.readPeat s k c) := by
  unfold State.readPeat
  repeat' first
    | with_reducible exact Keep.refl _ _
    | with_reducible assumption
    | (with_reducible apply Keep.step; with_reducible apply State.readPeatRegion_keep; decide)
    | (with_reducible apply Keep.step; with_reducible apply State.keyMissing_keep; decide)
    | (with_reducible apply Keep.step; with_reducible apply State.readFrom_keep; decide)
    | (with_reducible apply Keep.step; with_reducible apply State.ctxEnd_keep; decide)
    | with_reducible apply Keep.ite
    | split
    | dsimp only

theorem execReadShard_keep (k : Fin 128) (s : State) : OutKeep ([.regs, .mem, .log, .map, .cmd, .freeCtr, .outbox], 0x200100000000000000000000d800000000040000000000000) s (execReadShard k s) := by
  unfold execReadShard
  repeat' first
    | with_reducible exact Keep.refl _ _
    | with_reducible assumption
    | (with_reducible apply Keep.step; with_reducible apply State.readSedge_keep; decide)
    | (with_reducible apply Keep.step; with_reducible apply State.readPeat_keep; decide)
    | (with_reducible apply Keep.step; with_reducible apply State.readFrom_keep; decide)
    | (with_reducible apply Keep.step; with_reducible apply State.ctxEnd_keep; decide)
    | with_reducible apply Keep.ite
    | with_reducible apply OutKeep.ite
    | with_reducible apply OutKeep.next
    | split
    | dsimp only

theorem State.writeRestore_keep (s : State) (k : Nat) (c : Ctx) : Keep ([.regs, .mem, .log, .rst, .cmd], 0x200000000000000000000000000000000000040000000000000) s (State.writeRestore s k c) := by
  unfold State.writeRestore
  repeat' first
    | with_reducible exact Keep.refl _ _
    | with_reducible assumption
    | (with_reducible apply Keep.step; with_reducible apply State.ctxEnd_keep; decide)
    | (with_reducible apply Keep.step; with_reducible apply State.landAt_keep; decide)
    | (with_reducible apply Keep.step; with_reducible apply State.onRst_keep; intro _ h; (first | exact h | exact Memory.wf_nil | exact Memory.wf_putBytes _ _ h | exact Memory.wf_erase _ _ h | with_unfolding_all exact h); decide)
    | (with_reducible apply Keep.step; with_reducible apply State.raise_keep has_Fld_tierRstErrStatus_mixedStep; decide)
    | with_reducible apply Keep.ite
    | split
    | dsimp only

theorem State.writeLive_keep (s : State) (k : Nat) (c : Ctx) : Keep ([.regs, .mem, .log, .rst, .cmd], 0x40000000000000) s (State.writeLive s k c) := by
  unfold State.writeLive
  repeat' first
    | with_reducible exact Keep.refl _ _
    | with_reducible assumption
    | (with_reducible apply Keep.step; with_reducible apply State.ctxEnd_keep; decide)
    | (with_reducible apply Keep.step; with_reducible apply State.store'_keep; decide)
    | (with_reducible apply Keep.step; with_reducible apply State.onRst_keep; intro _ h; (first | exact h | exact Memory.wf_nil | exact Memory.wf_putBytes _ _ h | exact Memory.wf_erase _ _ h | with_unfolding_all exact h); decide)
    | with_reducible apply Keep.ite
    | split
    | dsimp only

theorem State.putExts_keep (s : State) (key : Option (List Byte)) (l : List (Nat × List Byte)) : Keep ([.peat], 0x0) s (State.putExts s key l) := by
  unfold State.putExts
  repeat' first
    | with_reducible exact Keep.refl _ _
    | with_reducible assumption
    | (with_reducible apply Keep.step; with_reducible apply State.driveStore_keep; decide)
    | with_reducible apply Keep.foldl
    | with_reducible apply Keep.foldl_fst
    | with_reducible apply Keep.foldl_snd
    | with_reducible apply Keep.ite
    | split
    | dsimp only
    | intro _

theorem State.stage_keep {s t0 : State} (c : Ctx) (peatGen : Nat) (key : Option (List Byte)) (l : List (Nat × List Byte)) (h : State.stage s c peatGen key l = some t0) : Keep ([.peat], 0x0) s t0 := by
  unfold State.stage at h
  repeat' first
    | contradiction
    | split at h
    | dsimp only at h
  all_goals
    cases h
    repeat' first
      | with_reducible exact Keep.refl _ _
      | with_reducible assumption
      | (with_reducible apply Keep.step; with_reducible apply State.takeUnits_keep; decide)
      | (with_reducible apply Keep.step; with_reducible apply State.putExts_keep; decide)
      | (with_reducible apply Keep.step; with_reducible apply State.onPeat_keep; intro _ h; (first | exact h | exact Memory.wf_nil | exact Memory.wf_putBytes _ _ h | exact Memory.wf_erase _ _ h | with_unfolding_all exact h); decide)
      | with_reducible apply Keep.ite
      | split
      | dsimp only
      | (with_reducible apply Keep.step; with_reducible apply Keep.of_snd; assumption; with_reducible apply State.takeUnits_keep; decide)

theorem State.writePeatRegion_keep (s : State) (k : Nat) (c : Ctx) (e : CatEntry) (key : Option (List Byte)) (m : Man) (x : ManRegion) : Keep ([.regs, .log, .peat, .cmd], 0xd800000000040000000000000) s (State.writePeatRegion s k c e key m x) := by
  unfold State.writePeatRegion
  repeat' first
    | with_reducible exact Keep.refl _ _
    | with_reducible assumption
    | (with_reducible apply Keep.step; with_reducible apply State.peatErr_keep; decide)
    | (with_reducible apply Keep.step; with_reducible apply State.ctxEnd_keep; decide)
    | (with_reducible apply Keep.step; with_reducible apply State.stage_keep; assumption; decide)
    | with_reducible apply Keep.ite
    | split
    | dsimp only

theorem State.writePeat_keep (s : State) (k : Nat) (c : Ctx) : Keep ([.regs, .log, .peat, .cmd], 0xd800000000040000000000000) s (State.writePeat s k c) := by
  unfold State.writePeat
  repeat' first
    | with_reducible exact Keep.refl _ _
    | with_reducible assumption
    | (with_reducible apply Keep.step; with_reducible apply State.writePeatRegion_keep; decide)
    | (with_reducible apply Keep.step; with_reducible apply State.keyMissing_keep; decide)
    | (with_reducible apply Keep.step; with_reducible apply State.ctxEnd_keep; decide)
    | with_reducible apply Keep.ite
    | split
    | dsimp only

theorem execWriteShard_keep (k : Fin 128) (s : State) : OutKeep ([.regs, .mem, .log, .peat, .rst, .cmd], 0x20000000000000000000000000d800000000040000000000000) s (execWriteShard k s) := by
  unfold execWriteShard
  repeat' first
    | with_reducible exact Keep.refl _ _
    | with_reducible assumption
    | (with_reducible apply Keep.step; with_reducible apply State.writeRestore_keep; decide)
    | (with_reducible apply Keep.step; with_reducible apply State.writeLive_keep; decide)
    | (with_reducible apply Keep.step; with_reducible apply State.writePeat_keep; decide)
    | (with_reducible apply Keep.step; with_reducible apply State.ctxEnd_keep; decide)
    | with_reducible apply Keep.ite
    | with_reducible apply OutKeep.ite
    | with_reducible apply OutKeep.next
    | split
    | dsimp only

theorem doFlush_keep (k : Fin 128) (s : State) : OutKeep ([.regs, .log, .peat, .cmd], 0x4d800000000040000000000000) s (doFlush k s) := by
  unfold doFlush
  repeat' first
    | with_reducible exact Keep.refl _ _
    | with_reducible assumption
    | (with_reducible apply Keep.step; with_reducible apply State.flushBegin_keep; decide)
    | (with_reducible apply Keep.step; with_reducible apply State.ctxEnd_keep; decide)
    | (with_reducible apply Keep.step; with_reducible apply State.onPeat_keep; intro _ h; (first | exact h | exact Memory.wf_nil | exact Memory.wf_putBytes _ _ h | exact Memory.wf_erase _ _ h | with_unfolding_all exact h); decide)
    | with_reducible apply Keep.ite
    | with_reducible apply OutKeep.ite
    | with_reducible apply OutKeep.next
    | split
    | dsimp only

theorem State.verifyEnd_keep (s : State) (k : Nat) (st : Status) (checked : Nat) (ext : Option Nat) : Keep ([.regs, .log, .cmd], 0x40000000000000) s (State.verifyEnd s k st checked ext) := by
  unfold State.verifyEnd
  repeat' first
    | with_reducible exact Keep.refl _ _
    | with_reducible assumption
    | (with_reducible apply Keep.step; with_reducible apply State.ctxEnd_keep; decide)
    | (with_reducible apply Keep.step; with_reducible apply State.putCtx_keep; decide)
    | with_reducible apply Keep.ite
    | split
    | dsimp only

theorem State.verifyNow_keep (s : State) (k : Nat) (man group : List Byte) (agreed : Bool) (rs : List ManRegion) (bytes : Region → List Byte) (mark : MapEntry → Bool) : Keep ([.regs, .log, .map, .cmd], 0x2001000000000000000000000000000000040000000000000) s (State.verifyNow s k man group agreed rs bytes mark) := by
  unfold State.verifyNow
  repeat' first
    | with_reducible exact Keep.refl _ _
    | with_reducible assumption
    | (with_reducible apply Keep.step; with_reducible apply State.verifyEnd_keep; decide)
    | (with_reducible apply Keep.step; with_reducible apply State.mapBad_keep; decide)
    | with_reducible apply Keep.foldl
    | with_reducible apply Keep.foldl_fst
    | with_reducible apply Keep.foldl_snd
    | with_reducible apply Keep.ite
    | split
    | dsimp only
    | intro _

theorem State.verifyBatt_keep (s : State) (k : Nat) (c : Ctx) : Keep ([.regs, .log, .map, .cmd, .freeCtr], 0x2001000000000000000000000000000000040000000000000) s (State.verifyBatt s k c) := by
  unfold State.verifyBatt
  repeat' first
    | with_reducible exact Keep.refl _ _
    | with_reducible assumption
    | (with_reducible apply Keep.step; with_reducible apply State.verifyNow_keep; decide)
    | (with_reducible apply Keep.step; with_reducible apply State.verifyEnd_keep; decide)
    | (with_reducible apply Keep.step; with_reducible apply State.pickFree_keep; decide)
    | (with_reducible apply Keep.step; with_reducible apply State.ctxEnd_keep; decide)
    | with_reducible apply Keep.ite
    | split
    | dsimp only
    | (with_reducible apply Keep.step; with_reducible apply Keep.of_snd; assumption; with_reducible apply State.pickFree_keep; decide)

theorem State.verifySedge_keep (s : State) (k : Nat) (c : Ctx) : Keep ([.regs, .log, .map, .cmd, .outbox], 0x2001000000000000000000000000000000040000000000000) s (State.verifySedge s k c) := by
  unfold State.verifySedge
  repeat' first
    | with_reducible exact Keep.refl _ _
    | with_reducible assumption
    | (with_reducible apply Keep.step; with_reducible apply State.verifyNow_keep; decide)
    | (with_reducible apply Keep.step; with_reducible apply State.fetchFrom_keep; decide)
    | (with_reducible apply Keep.step; with_reducible apply State.ctxEnd_keep; decide)
    | with_reducible apply Keep.ite
    | split
    | dsimp only

theorem State.verifyPeat_keep (s : State) (k : Nat) (c : Ctx) : Keep ([.regs, .log, .map, .cmd], 0x200100000000000000000000d800000000040000000000000) s (State.verifyPeat s k c) := by
  unfold State.verifyPeat
  repeat' first
    | with_reducible exact Keep.refl _ _
    | with_reducible assumption
    | (with_reducible apply Keep.step; with_reducible apply State.keyMissing_keep; decide)
    | (with_reducible apply Keep.step; with_reducible apply State.verifyNow_keep; decide)
    | (with_reducible apply Keep.step; with_reducible apply State.ctxEnd_keep; decide)
    | with_reducible apply Keep.ite
    | split
    | dsimp only

theorem execVerify_keep (k : Fin 128) (s : State) : OutKeep ([.regs, .log, .map, .cmd, .freeCtr, .outbox], 0x200100000000000000000000d800000000040000000000000) s (execVerify k s) := by
  unfold execVerify
  repeat' first
    | with_reducible exact Keep.refl _ _
    | with_reducible assumption
    | (with_reducible apply Keep.step; with_reducible apply State.verifySedge_keep; decide)
    | (with_reducible apply Keep.step; with_reducible apply State.verifyBatt_keep; decide)
    | (with_reducible apply Keep.step; with_reducible apply State.verifyPeat_keep; decide)
    | with_reducible apply Keep.ite
    | with_reducible apply OutKeep.ite
    | with_reducible apply OutKeep.next
    | split
    | dsimp only

theorem execDigest_keep (k : Fin 128) (s : State) : OutKeep ([.regs, .log, .cmd, .chk], 0x40000000000002) s (execDigest k s) := by
  unfold execDigest
  repeat' first
    | with_reducible exact Keep.refl _ _
    | with_reducible assumption
    | (with_reducible apply Keep.step; with_reducible apply State.digestStart_keep; decide)
    | with_reducible apply Keep.ite
    | with_reducible apply OutKeep.ite
    | with_reducible apply OutKeep.next
    | split
    | dsimp only

theorem State.scrubSedge_keep (s : State) (k : Nat) : Keep ([.regs, .log, .cmd], 0x40000000000000) s (State.scrubSedge s k) := by
  unfold State.scrubSedge
  repeat' first
    | with_reducible exact Keep.refl _ _
    | with_reducible assumption
    | (with_reducible apply Keep.step; with_reducible apply State.ctxEnd_keep; decide)
    | with_reducible apply Keep.foldl
    | with_reducible apply Keep.foldl_fst
    | with_reducible apply Keep.foldl_snd
    | with_reducible apply Keep.ite
    | split
    | dsimp only
    | intro _

theorem State.scrubPeat_keep (s : State) : Keep ([.regs, .map], 0x2001000000000000000000000000000000000000000000000) s (State.scrubPeat s).1 := by
  unfold State.scrubPeat
  repeat' first
    | with_reducible exact Keep.refl _ _
    | with_reducible assumption
    | (with_reducible apply Keep.step; with_reducible apply State.mapBad_keep; decide)
    | with_reducible apply Keep.foldl
    | with_reducible apply Keep.foldl_fst
    | with_reducible apply Keep.foldl_snd
    | with_reducible apply Keep.ite
    | split
    | dsimp only
    | intro _

theorem State.repairNext_keep (s : State) (k : Nat) (c : Ctx) : Keep ([.cmd], 0x0) s (State.repairNext s k c) := by
  unfold State.repairNext
  repeat' first
    | with_reducible exact Keep.refl _ _
    | with_reducible assumption
    | (with_reducible apply Keep.step; with_reducible apply State.putCtx_keep; decide)
    | with_reducible apply Keep.ite
    | split
    | dsimp only

theorem State.repairStep_keep (s : State) (k : Nat) (c : Ctx) (g x : Nat) : Keep ([.peat, .cmd, .outbox], 0x0) s (State.repairStep s k c g x) := by
  unfold State.repairStep
  repeat' first
    | with_reducible exact Keep.refl _ _
    | with_reducible assumption
    | (with_reducible apply Keep.step; with_reducible apply State.repairNext_keep; decide)
    | (with_reducible apply Keep.step; with_reducible apply State.fetchFrom_keep; decide)
    | (with_reducible apply Keep.step; with_reducible apply State.stage_keep; assumption; decide)
    | with_reducible apply Keep.ite
    | split
    | dsimp only

theorem State.repairN_keep (n : Nat) (s : State) (k : Nat) : Keep ([.regs, .log, .peat, .cmd, .outbox], 0x4d800000000040000000000000) s (State.repairN n s k) := by
  induction n generalizing s with
  | zero =>
    exact Keep.refl _ _
  | succ n ih =>
    unfold State.repairN
    repeat' first
      | with_reducible exact Keep.refl _ _
      | (with_reducible apply Keep.step; with_reducible apply ih; decide)
      | with_reducible assumption
      | (with_reducible apply Keep.step; with_reducible apply State.repairStep_keep; decide)
      | (with_reducible apply Keep.step; with_reducible apply State.flushBegin_keep; decide)
      | (with_reducible apply Keep.step; with_reducible apply State.onPeat_keep; intro _ h; (first | exact h | exact Memory.wf_nil | exact Memory.wf_putBytes _ _ h | exact Memory.wf_erase _ _ h | with_unfolding_all exact h); decide)
      | (with_reducible apply Keep.step; with_reducible apply State.putCtx_keep; decide)
      | (with_reducible apply Keep.step; with_reducible apply State.ctxEnd_keep; decide)
      | with_reducible apply Keep.ite
      | split
      | dsimp only

theorem doScrub_keep (k : Fin 128) (s : State) : OutKeep ([.regs, .log, .map, .peat, .cmd, .outbox], 0x200100000000000000000004d800000000040000000000000) s (doScrub k s) := by
  unfold doScrub
  repeat' first
    | with_reducible exact Keep.refl _ _
    | with_reducible assumption
    | (with_reducible apply Keep.step; with_reducible apply State.scrubSedge_keep; decide)
    | (with_reducible apply Keep.step; with_reducible apply State.scrubPeat_keep; decide)
    | (with_reducible apply Keep.step; with_reducible apply State.peatErr_keep; decide)
    | (with_reducible apply Keep.step; with_reducible apply State.repairN_keep; decide)
    | (with_reducible apply Keep.step; with_reducible apply State.putCtx_keep; decide)
    | (with_reducible apply Keep.step; with_reducible apply State.ctxEnd_keep; decide)
    | with_reducible apply Keep.ite
    | with_reducible apply OutKeep.ite
    | with_reducible apply OutKeep.next
    | split
    | dsimp only
    | (with_reducible apply Keep.step; with_reducible apply Keep.of_fst; assumption; with_reducible apply State.scrubPeat_keep; decide)

theorem execFence_keep (k : Fin 128) (s : State) : OutKeep ([.regs, .log, .cmd], 0x40000000000000) s (execFence k s) := by
  unfold execFence
  repeat' first
    | with_reducible exact Keep.refl _ _
    | with_reducible assumption
    | (with_reducible apply Keep.step; with_reducible apply State.ctxEnd_keep; decide)
    | with_reducible apply Keep.ite
    | with_reducible apply OutKeep.ite
    | with_reducible apply OutKeep.next
    | split
    | dsimp only

theorem execCutQuery_keep (k : Fin 128) (s : State) : OutKeep ([.regs, .log, .cmd, .freeCtr], 0x40000000000000) s (execCutQuery k s) := by
  unfold execCutQuery
  repeat' first
    | with_reducible exact Keep.refl _ _
    | with_reducible assumption
    | (with_reducible apply Keep.step; with_reducible apply State.pickFree_keep; decide)
    | (with_reducible apply Keep.step; with_reducible apply State.ctxEnd_keep; decide)
    | with_reducible apply Keep.ite
    | with_reducible apply OutKeep.ite
    | with_reducible apply OutKeep.next
    | split
    | dsimp only
    | (with_reducible apply Keep.step; with_reducible apply Keep.of_snd; assumption; with_reducible apply State.pickFree_keep; decide)

theorem execCutPeatNext_keep (k : Fin 128) (s : State) : OutKeep ([.regs, .log, .cut, .cmd, .freeCtr], 0x40000000000000) s (execCutPeatNext k s) := by
  unfold execCutPeatNext
  repeat' first
    | with_reducible exact Keep.refl _ _
    | with_reducible assumption
    | (with_reducible apply Keep.step; with_reducible apply State.pickFree_keep; decide)
    | (with_reducible apply Keep.step; with_reducible apply State.ctxEnd_keep; decide)
    | (with_reducible apply Keep.step; with_reducible apply State.onCut_keep; decide)
    | with_reducible apply Keep.ite
    | with_reducible apply OutKeep.ite
    | with_reducible apply OutKeep.next
    | split
    | dsimp only
    | (with_reducible apply Keep.step; with_reducible apply Keep.of_snd; assumption; with_reducible apply State.pickFree_keep; decide)

theorem doRestore_keep (k : Fin 128) (s : State) : OutKeep ([.board, .regs, .mem, .log, .red, .ful, .cut, .sedge, .map, .rst, .warden, .syn, .cmd, .chk, .freeCtr, .outbox], 0x4001002510000007a5f1d3e11df90000000001f7000060200000000000) s (doRestore k s) := by
  unfold doRestore
  repeat' first
    | with_reducible exact Keep.refl _ _
    | with_reducible assumption
    | (with_reducible apply Keep.step; with_reducible apply State.raiseHalt_keep; decide)
    | (with_reducible apply Keep.step; with_reducible apply State.onWarden_keep; decide)
    | (with_reducible apply Keep.step; with_reducible apply State.classEnd_keep; decide)
    | (with_reducible apply Keep.step; with_reducible apply State.ctxEnd_keep; decide)
    | (with_reducible apply Keep.step; with_reducible apply State.onRst_keep; intro _ h; (first | exact h | exact Memory.wf_nil | exact Memory.wf_putBytes _ _ h | exact Memory.wf_erase _ _ h | with_unfolding_all exact h); decide)
    | with_reducible apply Keep.ite
    | with_reducible apply OutKeep.ite
    | with_reducible apply OutKeep.next
    | split
    | dsimp only

theorem doRestoreElastic_keep (k : Fin 128) (s : State) : OutKeep ([.regs, .log, .rst, .cmd], 0x4000000000000000000000000000000000000040000000000000) s (doRestoreElastic k s) := by
  unfold doRestoreElastic
  repeat' first
    | with_reducible exact Keep.refl _ _
    | with_reducible assumption
    | (with_reducible apply Keep.step; with_reducible apply State.ctxEnd_keep; decide)
    | (with_reducible apply Keep.step; with_reducible apply State.onRst_keep; intro _ h; (first | exact h | exact Memory.wf_nil | exact Memory.wf_putBytes _ _ h | exact Memory.wf_erase _ _ h | with_unfolding_all exact h); decide)
    | (with_reducible apply Keep.step; with_reducible apply State.raise_keep has_Fld_tierRstErrStatus_reshardInvalid; decide)
    | with_reducible apply Keep.ite
    | with_reducible apply OutKeep.ite
    | with_reducible apply OutKeep.next
    | split
    | dsimp only

end Sys2Proof.Machine
end

