-- ==== Sys2Proof/Laws/KeepRegAccess.lean ====
section
/-! SUPPORT. What each operation of Machine/RegAccess.lean can do: one lemma for each (`Keep`). -/
namespace Sys2Proof.Machine

set_option linter.all false

theorem State.clearRc_keep (s : State) (off : Nat) (fields : List FieldRow) : Keep ([.regs], 0x1) s (State.clearRc s off fields) := by
  unfold State.clearRc
  repeat' first
    | with_reducible exact Keep.refl _ _
    | with_reducible assumption
    | (with_reducible apply Keep.step; with_reducible apply State.setReg_keep (hasReg_all _); decide)
    | with_reducible apply Keep.foldl
    | with_reducible apply Keep.foldl_fst
    | with_reducible apply Keep.foldl_snd
    | with_reducible apply Keep.ite
    | split
    | dsimp only
    | intro _

theorem State.readReg_keep (s : State) (off bytes : Nat) : Keep ([.regs, .log, .tim], 0x40800000000001) s (State.readReg s off bytes).2 := by
  unfold State.readReg
  repeat' first
    | with_reducible exact Keep.refl _ _
    | with_reducible assumption
    | (with_reducible apply Keep.step; with_reducible apply State.accessError_keep; decide)
    | (with_reducible apply Keep.step; with_reducible apply State.timSecRead_keep; decide)
    | (with_reducible apply Keep.step; with_reducible apply State.clearRc_keep; decide)
    | with_reducible apply Keep.ite
    | split
    | dsimp only
    | (with_reducible apply Keep.step; with_reducible apply Keep.of_snd; assumption; with_reducible apply State.timSecRead_keep; decide)

theorem State.ctlResetWrite_keep (s : State) (w : Nat) : Keep ([.board, .boot, .store, .regs, .mem, .sump, .log, .mon, .slices, .placed, .bscan, .red, .ful, .cut, .sedge, .map, .peat, .sec, .rst, .warden, .syn, .tim, .cmd, .chk, .elect, .freeCtr, .outbox, .owed, .tc3], 0x4001002510000007a5f1d3e11df90000000001f7000860200002c00001) s (State.ctlResetWrite s w) := by
  unfold State.ctlResetWrite
  repeat' first
    | with_reducible exact Keep.refl _ _
    | with_reducible assumption
    | (with_reducible apply Keep.step; with_reducible apply State.activateWrite_keep; decide)
    | (with_reducible apply Keep.step; with_reducible apply State.reset'_keep; decide)
    | with_reducible apply Keep.ite
    | split
    | dsimp only

theorem State.lnkStatusWrite_keep (s : State) (n w : Nat) : Keep ([.regs, .log, .slices], 0x10000000000000000000000000000000000000000040800000000000) s (State.lnkStatusWrite s n w) := by
  unfold State.lnkStatusWrite
  repeat' first
    | with_reducible exact Keep.refl _ _
    | with_reducible assumption
    | (with_reducible apply Keep.step; with_reducible apply State.sliceOpens_keep; decide)
    | (with_reducible apply Keep.step; with_reducible apply State.writePlain_keep (has_Reg_lnkStatus _); decide)
    | with_reducible apply Keep.ite
    | split
    | dsimp only
    | (with_reducible apply Keep.step; with_reducible apply Keep.of_fst; assumption; with_reducible apply State.writePlain_keep (has_Reg_lnkStatus _); decide)

theorem State.ownerWrite_keep (s : State) (i w : Nat) : Keep ([.regs, .log, .sedge], 0x400000000000000000000000000000000000000000000040800000000000) s (State.ownerWrite s i w) := by
  unfold State.ownerWrite
  repeat' first
    | with_reducible exact Keep.refl _ _
    | with_reducible assumption
    | (with_reducible apply Keep.step; with_reducible apply State.accessError_keep; decide)
    | (with_reducible apply Keep.step; with_reducible apply State.freeSet_keep; decide)
    | (with_reducible apply Keep.step; with_reducible apply State.writePlain_keep (has_Reg_tierOwner _); decide)
    | with_reducible apply Keep.foldl
    | with_reducible apply Keep.foldl_fst
    | with_reducible apply Keep.foldl_snd
    | with_reducible apply Keep.ite
    | split
    | dsimp only
    | intro _
    | (with_reducible apply Keep.step; with_reducible apply Keep.of_fst; assumption; with_reducible apply State.writePlain_keep (has_Reg_tierOwner _); decide)

theorem State.ovrWrite_keep (s : State) (n w : Nat) : Keep ([.syn], 0x0) s (State.ovrWrite s n w) := by
  unfold State.ovrWrite
  repeat' first
    | with_reducible exact Keep.refl _ _
    | with_reducible assumption
    | (with_reducible apply Keep.step; with_reducible apply State.onSyn_keep; intro _; rfl; decide)
    | with_reducible apply Keep.ite
    | split
    | dsimp only

theorem State.writeEngine_keep (s : State) (off c n w : Nat) : Keep ([.board, .boot, .store, .regs, .mem, .sump, .log, .mon, .slices, .placed, .bscan, .red, .ful, .cut, .sedge, .map, .peat, .sec, .rst, .warden, .syn, .tim, .cmd, .chk, .elect, .freeCtr, .outbox, .acksOut, .owed, .tc3], 0x4017002510000007a5f1d3e11dfd000000000ff7000860a00002c00001) s (State.writeEngine s off c n w) := by
  unfold State.writeEngine
  repeat' first
    | with_reducible exact Keep.refl _ _
    | with_reducible assumption
    | (with_reducible apply Keep.step; with_reducible apply State.lnkStatusWrite_keep; decide)
    | (with_reducible apply Keep.step; with_reducible apply State.ctlResetWrite_keep; decide)
    | (with_reducible apply Keep.step; with_reducible apply State.progCtrlWrite_keep; decide)
    | (with_reducible apply Keep.step; with_reducible apply State.lnkCtrlWrite_keep; decide)
    | (with_reducible apply Keep.step; with_reducible apply State.fulQCfgWrite_keep; decide)
    | (with_reducible apply Keep.step; with_reducible apply State.redChWrite_keep; decide)
    | (with_reducible apply Keep.step; with_reducible apply State.progWord_keep; decide)
    | (with_reducible apply Keep.step; with_reducible apply State.writePlain_keep (hasReg_all _); decide)
    | with_reducible apply Keep.ite
    | split
    | dsimp only
    | (with_reducible apply Keep.step; with_reducible apply Keep.of_fst; assumption; with_reducible apply State.writePlain_keep (hasReg_all _); decide)

theorem State.writeTier_keep (s : State) (off c n w : Nat) : Keep ([.board, .regs, .mem, .log, .red, .ful, .cut, .sedge, .map, .peat, .sec, .rst, .warden, .syn, .cmd, .chk, .freeCtr, .outbox], 0x514061002512001007f5f1d3e15df90041f03001f7000060a00000000001) s (State.writeTier s off c n w) := by
  unfold State.writeTier
  repeat' first
    | with_reducible exact Keep.refl _ _
    | with_reducible assumption
    | (with_reducible apply Keep.step; with_reducible apply State.peatCtrlWrite_keep; decide)
    | (with_reducible apply Keep.step; with_reducible apply State.keyCtrlWrite_keep; decide)
    | (with_reducible apply Keep.step; with_reducible apply State.ownerWrite_keep; decide)
    | (with_reducible apply Keep.step; with_reducible apply State.cutDisable_keep; decide)
    | (with_reducible apply Keep.step; with_reducible apply State.cutEnable_keep; decide)
    | (with_reducible apply Keep.step; with_reducible apply State.pinWrite_keep; decide)
    | (with_reducible apply Keep.step; with_reducible apply State.keyWord_keep; decide)
    | (with_reducible apply Keep.step; with_reducible apply State.writePlain_keep (hasReg_all _); decide)
    | with_reducible apply Keep.ite
    | split
    | dsimp only
    | (with_reducible apply Keep.step; with_reducible apply Keep.of_fst; assumption; with_reducible apply State.writePlain_keep (hasReg_all _); decide)

theorem State.writeSync_keep (s : State) (off c n w : Nat) : Keep ([.board, .regs, .mem, .log, .red, .ful, .cut, .sedge, .map, .rst, .warden, .syn, .tim, .chk, .freeCtr, .outbox], 0x8e4001202510000007a5f1f3f91df90000000001f7000060a00000000001) s (State.writeSync s off c n w) := by
  unfold State.writeSync
  repeat' first
    | with_reducible exact Keep.refl _ _
    | with_reducible assumption
    | (with_reducible apply Keep.step; with_reducible apply State.consumeWrite_keep; decide)
    | (with_reducible apply Keep.step; with_reducible apply State.timCtrlWrite_keep; decide)
    | (with_reducible apply Keep.step; with_reducible apply State.produceWrite_keep; decide)
    | (with_reducible apply Keep.step; with_reducible apply State.synCtrlWrite_keep; decide)
    | (with_reducible apply Keep.step; with_reducible apply State.barCfgWrite_keep; decide)
    | (with_reducible apply Keep.step; with_reducible apply State.arriveWrite_keep; decide)
    | (with_reducible apply Keep.step; with_reducible apply State.probeWrite_keep; decide)
    | (with_reducible apply Keep.step; with_reducible apply State.fenceWrite_keep; decide)
    | (with_reducible apply Keep.step; with_reducible apply State.pairDepth_keep; decide)
    | (with_reducible apply Keep.step; with_reducible apply State.waitWrite_keep; decide)
    | (with_reducible apply Keep.step; with_reducible apply State.pickFree_keep; decide)
    | (with_reducible apply Keep.step; with_reducible apply State.pairInit_keep; exact bits_lt _ _ _; decide)
    | (with_reducible apply Keep.step; with_reducible apply State.ovrWrite_keep; decide)
    | (with_reducible apply Keep.step; with_reducible apply State.ctxWrite_keep; decide)
    | (with_reducible apply Keep.step; with_reducible apply State.timCmd_keep; decide)
    | (with_reducible apply Keep.step; with_reducible apply State.flagOp_keep; decide)
    | (with_reducible apply Keep.step; with_reducible apply State.writePlain_keep (hasReg_all _); decide)
    | with_reducible apply Keep.ite
    | split
    | dsimp only
    | (with_reducible apply Keep.step; with_reducible apply Keep.of_snd; assumption; with_reducible apply State.pickFree_keep; decide)
    | (with_reducible apply Keep.step; with_reducible apply Keep.of_fst; assumption; with_reducible apply State.writePlain_keep (hasReg_all _); decide)

theorem State.writeCmd_keep (s : State) (off c n w : Nat) : Keep ([.regs, .log, .cut, .peat, .rst, .cmd, .chk, .freeCtr, .irqs], 0xc000000000000000000000000000000000000000408000000fa375) s (State.writeCmd s off c n w) := by
  unfold State.writeCmd
  repeat' first
    | with_reducible exact Keep.refl _ _
    | with_reducible assumption
    | (with_reducible apply Keep.step; with_reducible apply State.queueResetWrite_keep; decide)
    | (with_reducible apply Keep.step; with_reducible apply State.scanCtrlWrite_keep; decide)
    | (with_reducible apply Keep.step; with_reducible apply State.queueCfgWrite_keep; decide)
    | (with_reducible apply Keep.step; with_reducible apply State.sqTailWrite_keep; decide)
    | (with_reducible apply Keep.step; with_reducible apply State.cqHeadWrite_keep; decide)
    | (with_reducible apply Keep.step; with_reducible apply State.pushWrite_keep; decide)
    | (with_reducible apply Keep.step; with_reducible apply State.writePlain_keep (hasReg_all _); decide)
    | with_reducible apply Keep.ite
    | split
    | dsimp only
    | (with_reducible apply Keep.step; with_reducible apply Keep.of_fst; assumption; with_reducible apply State.writePlain_keep (hasReg_all _); decide)

theorem State.writeReg_keep (s : State) (off bytes w : Nat) : Keep ([.board, .boot, .store, .regs, .mem, .sump, .log, .mon, .slices, .placed, .bscan, .red, .ful, .cut, .sedge, .map, .peat, .sec, .rst, .warden, .syn, .tim, .cmd, .chk, .elect, .freeCtr, .outbox, .acksOut, .irqs, .owed, .tc3], 0xdf4077e02512001007f5f1f3f95dfd0041f0300ff7000860a00002cfa375) s (State.writeReg s off bytes w) := by
  unfold State.writeReg
  repeat' first
    | with_reducible exact Keep.refl _ _
    | with_reducible assumption
    | (with_reducible apply Keep.step; with_reducible apply State.writeEngine_keep; decide)
    | (with_reducible apply Keep.step; with_reducible apply State.accessError_keep; decide)
    | (with_reducible apply Keep.step; with_reducible apply State.writeSync_keep; decide)
    | (with_reducible apply Keep.step; with_reducible apply State.writeTier_keep; decide)
    | (with_reducible apply Keep.step; with_reducible apply State.writeCmd_keep; decide)
    | with_reducible apply Keep.ite
    | split
    | dsimp only

theorem doRegisterWrite_keep (off : BitVec 20) (width : AccWidth) (value : W64) (s : State) : OutKeep ([.board, .boot, .store, .regs, .mem, .sump, .log, .mon, .slices, .placed, .bscan, .red, .ful, .cut, .sedge, .map, .peat, .sec, .rst, .warden, .syn, .tim, .cmd, .chk, .elect, .freeCtr, .outbox, .acksOut, .irqs, .owed, .tc3], 0xdf4077e02512001007f5f1f3f95dfd0041f0300ff7000860a00002cfa375) s (doRegisterWrite off width value s) := by
  unfold doRegisterWrite
  repeat' first
    | with_reducible exact Keep.refl _ _
    | with_reducible assumption
    | (with_reducible apply Keep.step; with_reducible apply State.writeReg_keep; decide)
    | with_reducible apply Keep.ite
    | with_reducible apply OutKeep.ite
    | with_reducible apply OutKeep.next
    | split
    | dsimp only

theorem execRcRegisterRead_keep (off : BitVec 20) (width : AccWidth) (s : State) : OutKeep ([.regs, .log, .tim, .busRead], 0x40800000000001) s (execRcRegisterRead off width s) := by
  unfold execRcRegisterRead
  repeat' first
    | with_reducible exact Keep.refl _ _
    | with_reducible assumption
    | (with_reducible apply Keep.step; with_reducible apply State.readReg_keep; decide)
    | fail_if_no_progress (with_reducible apply Keep.step; with_reducible apply keep_busRead; decide)
    | with_reducible apply Keep.ite
    | with_reducible apply OutKeep.ite
    | with_reducible apply OutKeep.next
    | split
    | dsimp only
    | (with_reducible apply Keep.step; with_reducible apply Keep.of_snd; assumption; with_reducible apply State.readReg_keep; decide)

end Sys2Proof.Machine
end

