-- ==== Sys2Proof/Laws/KeepAdmin.lean ====
section
/-! SUPPORT. What each operation of Machine/Admin.lean can do: one lemma for each (`Keep`). -/
namespace Sys2Proof.Machine

set_option linter.all false

theorem execIdentify_keep (k : Fin 128) (s : State) : OutKeep ([.regs, .mem, .log, .cmd], 0x40000000000000) s (execIdentify k s) := by
  unfold execIdentify
  repeat' first
    | with_reducible exact Keep.refl _ _
    | with_reducible assumption
    | (with_reducible apply Keep.step; with_reducible apply State.ctxEnd_keep; decide)
    | (with_reducible apply Keep.step; with_reducible apply State.store'_keep; decide)
    | with_reducible apply Keep.ite
    | with_reducible apply OutKeep.ite
    | with_reducible apply OutKeep.next
    | split
    | dsimp only

theorem execGetLogPage_keep (k : Fin 128) (s : State) : OutKeep ([.regs, .mem, .log, .cmd], 0x40000000000000) s (execGetLogPage k s) := by
  unfold execGetLogPage
  repeat' first
    | with_reducible exact Keep.refl _ _
    | with_reducible assumption
    | (with_reducible apply Keep.step; with_reducible apply State.ctxEnd_keep; decide)
    | (with_reducible apply Keep.step; with_reducible apply State.store'_keep; decide)
    | with_reducible apply Keep.ite
    | with_reducible apply OutKeep.ite
    | with_reducible apply OutKeep.next
    | split
    | dsimp only

theorem execGetFeatures_keep (k : Fin 128) (s : State) : OutKeep ([.regs, .log, .cmd], 0x40000000000000) s (execGetFeatures k s) := by
  unfold execGetFeatures
  repeat' first
    | with_reducible exact Keep.refl _ _
    | with_reducible assumption
    | (with_reducible apply Keep.step; with_reducible apply State.ctxEnd_keep; decide)
    | with_reducible apply Keep.ite
    | with_reducible apply OutKeep.ite
    | with_reducible apply OutKeep.next
    | split
    | dsimp only

theorem State.setFeature_keep (s : State) (fid v : Nat) : Keep ([.regs, .peat, .cmd], 0x3300000000000000000000000c0000000000000000000000) s (State.setFeature s fid v).2 := by
  unfold State.setFeature
  repeat' first
    | with_reducible exact Keep.refl _ _
    | with_reducible assumption
    | (with_reducible apply Keep.step; with_reducible apply State.onPeat_keep; intro _ h; (first | exact h | exact Memory.wf_nil | exact Memory.wf_putBytes _ _ h | exact Memory.wf_erase _ _ h | with_unfolding_all exact h); decide)
    | (with_reducible apply Keep.step; with_reducible apply State.onCmd_keep; decide)
    | (with_reducible apply Keep.step; with_reducible apply State.wr_keep has_Fld_peatCfg_ageMax; decide)
    | (with_reducible apply Keep.step; with_reducible apply State.wr_keep has_Fld_peatCfg_retain; decide)
    | (with_reducible apply Keep.step; with_reducible apply State.wr_keep has_Fld_tierFeltCfg_feltLanes; decide)
    | (with_reducible apply Keep.step; with_reducible apply State.wr_keep has_Fld_tierFeltCfg_tc3CapPct; decide)
    | (with_reducible apply Keep.step; with_reducible apply State.wr_keep has_Fld_tierHbCfg_hbIntervalMs; decide)
    | (with_reducible apply Keep.step; with_reducible apply State.wr_keep has_Fld_tierHbCfg_missLimit; decide)
    | with_reducible apply Keep.ite
    | split
    | dsimp only

theorem execSetFeatures_keep (k : Fin 128) (s : State) : OutKeep ([.regs, .log, .peat, .cmd], 0x3300000000000000000000000c0000000040000000000000) s (execSetFeatures k s) := by
  unfold execSetFeatures
  repeat' first
    | with_reducible exact Keep.refl _ _
    | with_reducible assumption
    | (with_reducible apply Keep.step; with_reducible apply State.setFeature_keep; decide)
    | (with_reducible apply Keep.step; with_reducible apply State.ctxEnd_keep; decide)
    | with_reducible apply Keep.ite
    | with_reducible apply OutKeep.ite
    | with_reducible apply OutKeep.next
    | split
    | dsimp only
    | (with_reducible apply Keep.step; with_reducible apply Keep.of_snd; assumption; with_reducible apply State.setFeature_keep; decide)

theorem execFirmwareDownload_keep (k : Fin 128) (s : State) : OutKeep ([.store, .regs, .log, .cmd], 0x40000000000000) s (execFirmwareDownload k s) := by
  unfold execFirmwareDownload
  repeat' first
    | with_reducible exact Keep.refl _ _
    | with_reducible assumption
    | (with_reducible apply Keep.step; with_reducible apply State.onStore_keep; intro _ h; (first | exact h | exact Memory.wf_nil | exact Memory.wf_putBytes _ _ h | exact Memory.wf_erase _ _ h | with_unfolding_all exact h); decide)
    | (with_reducible apply Keep.step; with_reducible apply State.ctxEnd_keep; decide)
    | with_reducible apply Keep.ite
    | with_reducible apply OutKeep.ite
    | with_reducible apply OutKeep.next
    | split
    | dsimp only

theorem State.commitEnd_keep (s : State) (k : Nat) : Keep ([.store, .regs, .log, .cmd], 0x40000000000000) s (State.commitEnd s k) := by
  unfold State.commitEnd
  repeat' first
    | with_reducible exact Keep.refl _ _
    | with_reducible assumption
    | (with_reducible apply Keep.step; with_reducible apply State.record'_keep; decide)
    | (with_reducible apply Keep.step; with_reducible apply State.ctxEnd_keep; decide)
    | with_reducible apply Keep.ite
    | split
    | dsimp only

theorem State.commitImage_keep (s : State) (k : Nat) (slot mark : Bool) : Keep ([.store, .regs, .log, .cmd], 0x40000000000000) s (State.commitImage s k slot mark) := by
  unfold State.commitImage
  repeat' first
    | with_reducible exact Keep.refl _ _
    | with_reducible assumption
    | (with_reducible apply Keep.step; with_reducible apply State.commitEnd_keep; decide)
    | (with_reducible apply Keep.step; with_reducible apply State.onStore_keep; intro _ h; (first | exact h | exact Memory.wf_nil | exact Memory.wf_putBytes _ _ h | exact Memory.wf_erase _ _ h | with_unfolding_all exact h); decide)
    | (with_reducible apply Keep.step; with_reducible apply State.record'_keep; decide)
    | (with_reducible apply Keep.step; with_reducible apply State.ctxEnd_keep; decide)
    | with_reducible apply Keep.ite
    | split
    | dsimp only

theorem State.commitMark_keep (s : State) (k : Nat) (slot : Bool) : Keep ([.store, .regs, .log, .cmd], 0x40000000000000) s (State.commitMark s k slot) := by
  unfold State.commitMark
  repeat' first
    | with_reducible exact Keep.refl _ _
    | with_reducible assumption
    | (with_reducible apply Keep.step; with_reducible apply State.commitEnd_keep; decide)
    | (with_reducible apply Keep.step; with_reducible apply State.record'_keep; decide)
    | (with_reducible apply Keep.step; with_reducible apply State.ctxEnd_keep; decide)
    | with_reducible apply Keep.ite
    | split
    | dsimp only

theorem State.commitOf_keep {ps : Touch} {s : State} {k : Fin 128} {action : Nat} {f : Bool → State} (hf : ∀ b, Keep ps s (f b)) : OutKeep ps s (State.commitOf s k action f) := by
  unfold State.commitOf
  split
  · exact OutKeep.next (Keep.refl _ _)
  · split
    · exact OutKeep.next (Keep.refl _ _)
    · exact OutKeep.next (hf _)

theorem execFirmwareCommit_keep (k : Fin 128) (s : State) : OutKeep ([.store, .regs, .log, .cmd], 0x40000000000000) s (execFirmwareCommit k s) := by
  unfold execFirmwareCommit
  repeat' first
    | with_reducible exact Keep.refl _ _
    | with_reducible assumption
    | (with_reducible apply Keep.step; with_reducible apply State.commitImage_keep; decide)
    | with_reducible apply State.commitOf_keep
    | with_reducible apply Keep.ite
    | with_reducible apply OutKeep.ite
    | with_reducible apply OutKeep.next
    | (show sub _ _ = true; decide)
    | split
    | dsimp only
    | with_reducible exact Keep.id _ _
    | intro _

theorem execFirmwareCommitAndMark_keep (k : Fin 128) (s : State) : OutKeep ([.store, .regs, .log, .cmd], 0x40000000000000) s (execFirmwareCommitAndMark k s) := by
  unfold execFirmwareCommitAndMark
  repeat' first
    | with_reducible exact Keep.refl _ _
    | with_reducible assumption
    | (with_reducible apply Keep.step; with_reducible apply State.commitImage_keep; decide)
    | with_reducible apply State.commitOf_keep
    | with_reducible apply Keep.ite
    | with_reducible apply OutKeep.ite
    | with_reducible apply OutKeep.next
    | (show sub _ _ = true; decide)
    | split
    | dsimp only
    | with_reducible exact Keep.id _ _
    | intro _

theorem execFirmwareMark_keep (k : Fin 128) (s : State) : OutKeep ([.store, .regs, .log, .cmd], 0x40000000000000) s (execFirmwareMark k s) := by
  unfold execFirmwareMark
  repeat' first
    | with_reducible exact Keep.refl _ _
    | with_reducible assumption
    | (with_reducible apply Keep.step; with_reducible apply State.commitMark_keep; decide)
    | with_reducible apply State.commitOf_keep
    | with_reducible apply Keep.ite
    | with_reducible apply OutKeep.ite
    | with_reducible apply OutKeep.next
    | (show sub _ _ = true; decide)
    | split
    | dsimp only
    | with_reducible exact Keep.id _ _
    | intro _

end Sys2Proof.Machine
end

