-- ==== Sys2Proof/Laws/KeepTakeover.lean ====
section
/-! SUPPORT. What each operation of Machine/Takeover.lean can do: one lemma for each (`Keep`). -/
namespace Sys2Proof.Machine

set_option linter.all false

theorem State.installReg_keep (s : State) (r : RegValue) : Keep ([.board, .boot, .store, .regs, .mem, .sump, .log, .mon, .slices, .placed, .bscan, .red, .ful, .cut, .sedge, .map, .peat, .sec, .rst, .warden, .syn, .tim, .cmd, .chk, .elect, .freeCtr, .outbox, .acksOut, .irqs, .owed, .tc3], 0xdf4077e02512001007f5f1f3f95dfd0141f0300ff7000860a00002cfa375) s (State.installReg s r) := by
  unfold State.installReg
  repeat' first
    | with_reducible exact Keep.refl _ _
    | with_reducible assumption
    | (with_reducible apply Keep.step; with_reducible apply State.accessError_keep; decide)
    | (with_reducible apply Keep.step; with_reducible apply State.cfgInstall_keep; decide)
    | (with_reducible apply Keep.step; with_reducible apply State.writeReg_keep; decide)
    | (with_reducible apply Keep.step; with_reducible apply State.putChan_keep; decide)
    | with_reducible apply Keep.ite
    | split
    | dsimp only

theorem State.install_keep (s : State) (t : Takeover) : Keep ([.board, .boot, .store, .regs, .mem, .sump, .log, .mon, .slices, .placed, .bscan, .red, .ful, .cut, .sedge, .map, .peat, .sec, .rst, .warden, .syn, .tim, .cmd, .chk, .elect, .freeCtr, .outbox, .acksOut, .irqs, .owed, .tc3], 0xdf4077e02513c01007f5f1f3f95dfd0141f0300ff7000860a00002cfa375) s (State.install s t) := by
  unfold State.install
  repeat' first
    | with_reducible exact Keep.refl _ _
    | with_reducible assumption
    | (with_reducible apply Keep.step; with_reducible apply State.installReg_keep; decide)
    | (with_reducible apply Keep.step; with_reducible apply State.barsHalt_keep; decide)
    | (with_reducible apply Keep.step; with_reducible apply State.queries_keep; decide)
    | (with_reducible apply Keep.step; with_reducible apply State.onRst_keep; intro _ h; (first | exact h | exact Memory.wf_nil | exact Memory.wf_putBytes _ _ h | exact Memory.wf_erase _ _ h | with_unfolding_all exact h); decide)
    | (with_reducible apply Keep.step; with_reducible apply State.wr_keep has_Fld_tierIdent_position; decide)
    | (with_reducible apply Keep.step; with_reducible apply State.wr_keep has_Fld_tierIdent_rack; decide)
    | (with_reducible apply Keep.step; with_reducible apply State.wr_keep has_Fld_tierIdent_rank; decide)
    | with_reducible apply Keep.foldl
    | with_reducible apply Keep.foldl_fst
    | with_reducible apply Keep.foldl_snd
    | with_reducible apply Keep.ite
    | split
    | dsimp only
    | intro _

theorem State.direct_keep (s : State) (t : Takeover) : Keep ([.warden, .outbox], 0x0) s (State.direct s t) := by
  unfold State.direct
  repeat' first
    | with_reducible exact Keep.refl _ _
    | with_reducible assumption
    | (with_reducible apply Keep.step; with_reducible apply State.putMember_keep; decide)
    | (with_reducible apply Keep.step; with_reducible apply State.onWarden_keep; decide)
    | (with_reducible apply Keep.step; with_reducible apply State.sendTo_keep; decide)
    | with_reducible apply Keep.ite
    | split
    | dsimp only

theorem State.renameChannels_keep (s : State) (t : Takeover) : Keep ([.regs, .red], 0xe00000000000000e68000000000000000000000000000) s (State.renameChannels s t) := by
  unfold State.renameChannels
  repeat' first
    | with_reducible exact Keep.refl _ _
    | with_reducible assumption
    | (with_reducible apply Keep.step; with_reducible apply State.cfgRename_keep (has_Fld_redChBackup_backupPos _); decide)
    | (with_reducible apply Keep.step; with_reducible apply State.cfgRename_keep (has_Fld_redChCfg_nextPos _); decide)
    | (with_reducible apply Keep.step; with_reducible apply State.cfgRename_keep (has_Fld_redChCfg_prevPos _); decide)
    | (with_reducible apply Keep.step; with_reducible apply State.cfgRename_keep (has_Fld_redChRepl_holder0 _); decide)
    | (with_reducible apply Keep.step; with_reducible apply State.cfgRename_keep (has_Fld_redChRepl_holder1 _); decide)
    | (with_reducible apply Keep.step; with_reducible apply State.cfgRename_keep (has_Fld_redChRepl_holder2 _); decide)
    | (with_reducible apply Keep.step; with_reducible apply State.rename_keep has_Fld_tierCutRepl_member0; decide)
    | (with_reducible apply Keep.step; with_reducible apply State.rename_keep has_Fld_tierCutRepl_member1; decide)
    | (with_reducible apply Keep.step; with_reducible apply State.rename_keep has_Fld_tierCutRepl_member2; decide)
    | with_reducible apply Keep.foldl
    | with_reducible apply Keep.foldl_fst
    | with_reducible apply Keep.foldl_snd
    | with_reducible apply Keep.ite
    | split
    | dsimp only
    | intro _

theorem State.rebind_keep (s : State) (t : Takeover) : Keep ([.regs], 0x4000000000000000000000000000000000000000000000000) s (State.rebind s t) := by
  unfold State.rebind
  repeat' first
    | with_reducible exact Keep.refl _ _
    | with_reducible assumption
    | (with_reducible apply Keep.step; with_reducible apply State.wr_keep (has_Fld_tierOwner_position _); decide)
    | with_reducible apply Keep.foldl
    | with_reducible apply Keep.foldl_fst
    | with_reducible apply Keep.foldl_snd
    | with_reducible apply Keep.ite
    | split
    | dsimp only
    | intro _

theorem State.rehost_keep (s : State) (t : Takeover) : Keep ([.regs, .cut, .map], 0x8000000000000000000000000000000000000000000000000) s (State.rehost s t) := by
  unfold State.rehost
  repeat' first
    | with_reducible exact Keep.refl _ _
    | with_reducible assumption
    | (with_reducible apply Keep.step; with_reducible apply State.mapDrop_keep; decide)
    | (with_reducible apply Keep.step; with_reducible apply State.onCut_keep; decide)
    | (with_reducible apply Keep.step; with_reducible apply State.wr_keep has_Fld_tierPartner_position; decide)
    | with_reducible apply Keep.ite
    | split
    | dsimp only

theorem State.renameMembers_keep (s : State) (t : Takeover) : Keep ([.mem], 0x0) s (State.renameMembers s t) := by
  unfold State.renameMembers
  repeat' first
    | with_reducible exact Keep.refl _ _
    | with_reducible assumption
    | (with_reducible apply Keep.step; with_reducible apply State.store'_keep; decide)
    | with_reducible apply Keep.foldl
    | with_reducible apply Keep.foldl_fst
    | with_reducible apply Keep.foldl_snd
    | with_reducible apply Keep.ite
    | split
    | dsimp only
    | intro _

theorem State.renamed_keep (s : State) (t : Takeover) : Keep ([.regs, .mem, .red, .cut, .map, .rst, .outbox], 0x844c000e00000000000000e68000000000000000000000000000) s (State.renamed s t) := by
  unfold State.renamed
  repeat' first
    | with_reducible exact Keep.refl _ _
    | with_reducible assumption
    | (with_reducible apply Keep.step; with_reducible apply State.renameChannels_keep; decide)
    | (with_reducible apply Keep.step; with_reducible apply State.renameMembers_keep; decide)
    | (with_reducible apply Keep.step; with_reducible apply State.sourceLost_keep; decide)
    | (with_reducible apply Keep.step; with_reducible apply State.rehost_keep; decide)
    | (with_reducible apply Keep.step; with_reducible apply State.rebind_keep; decide)
    | with_reducible apply Keep.ite
    | split
    | dsimp only

theorem doTakeover_keep (t : Takeover) (s : State) : OutKeep ([.board, .boot, .store, .regs, .mem, .sump, .log, .mon, .slices, .placed, .bscan, .red, .ful, .cut, .sedge, .map, .peat, .sec, .rst, .warden, .syn, .tim, .cmd, .chk, .elect, .freeCtr, .outbox, .acksOut, .irqs, .owed, .tc3], 0xdf4077e0a55fc01e07f5f1f3f95dfde7c1f0300ff7000860a00002cfa375) s (doTakeover t s) := by
  unfold doTakeover
  repeat' first
    | with_reducible exact Keep.refl _ _
    | with_reducible assumption
    | (with_reducible apply Keep.step; with_reducible apply State.install_keep; decide)
    | (with_reducible apply Keep.step; with_reducible apply State.renamed_keep; decide)
    | (with_reducible apply Keep.step; with_reducible apply State.direct_keep; decide)
    | with_reducible apply Keep.ite
    | with_reducible apply OutKeep.ite
    | with_reducible apply OutKeep.next
    | split
    | dsimp only

end Sys2Proof.Machine
end

