-- ==== Sys2Proof/Laws/KeepNvme.lean ====
section
/-! SUPPORT. What each operation of Machine/Nvme.lean can do: one lemma for each (`Keep`). -/
namespace Sys2Proof.Machine

set_option linter.all false

theorem State.nvmeErr_keep (s : State) (opcode : Nat) (st : Option NvmeStatus) : Keep ([.regs, .log, .freeCtr], 0x3e00000000000040000000000000) s (State.nvmeErr s opcode st) := by
  unfold State.nvmeErr
  repeat' first
    | with_reducible exact Keep.refl _ _
    | with_reducible assumption
    | (with_reducible apply Keep.step; with_reducible apply State.logFw_keep; decide)
    | (with_reducible apply Keep.step; with_reducible apply State.bump_keep has_Fld_peatNvmeErr_count; decide)
    | (with_reducible apply Keep.step; with_reducible apply State.wr_keep has_Fld_peatNvmeErr_opcode; decide)
    | (with_reducible apply Keep.step; with_reducible apply State.wr_keep has_Fld_peatNvmeErr_sc; decide)
    | (with_reducible apply Keep.step; with_reducible apply State.wr_keep has_Fld_peatNvmeErr_sct; decide)
    | (with_reducible apply Keep.step; with_reducible apply State.wrB_keep has_Fld_peatNvmeErr_dnr; decide)
    | with_reducible apply Keep.ite
    | split
    | dsimp only

theorem State.writeFail_keep (s : State) (o : NvmeOwner) (st : Status) : Keep ([.board, .regs, .mem, .log, .red, .ful, .cut, .sedge, .map, .peat, .rst, .warden, .syn, .cmd, .chk, .freeCtr, .outbox], 0x4001002510000007a5f1d3e11df900000dc001f7000060200000000000) s (State.writeFail s o st) := by
  unfold State.writeFail
  repeat' first
    | with_reducible exact Keep.refl _ _
    | with_reducible assumption
    | (with_reducible apply Keep.step; with_reducible apply State.drainFail_keep; decide)
    | (with_reducible apply Keep.step; with_reducible apply State.flushFail_keep; decide)
    | with_reducible apply Keep.ite
    | split
    | dsimp only

theorem State.restoreReadFails_keep (s : State) : Keep ([.regs, .rst, .outbox], 0x844000000000000000000000000d800000000000000000000000) s (State.restoreReadFails s) := by
  unfold State.restoreReadFails
  repeat' first
    | with_reducible exact Keep.refl _ _
    | with_reducible assumption
    | (with_reducible apply Keep.step; with_reducible apply State.switchInputs_keep; decide)
    | (with_reducible apply Keep.step; with_reducible apply State.peatErr_keep; decide)
    | with_reducible apply Keep.ite
    | split
    | dsimp only

theorem State.bringUpFails_keep (s : State) : Keep ([.board, .regs, .mem, .log, .red, .ful, .cut, .sedge, .map, .peat, .rst, .warden, .syn, .cmd, .chk, .freeCtr, .outbox], 0x4001002510000007a5f1d3e11df900000dc001f7000060200000000000) s (State.bringUpFails s) := by
  unfold State.bringUpFails
  repeat' first
    | with_reducible exact Keep.refl _ _
    | with_reducible assumption
    | (with_reducible apply Keep.step; with_reducible apply State.drainFail_keep; decide)
    | (with_reducible apply Keep.step; with_reducible apply State.peatErr_keep; decide)
    | (with_reducible apply Keep.step; with_reducible apply State.onPeat_keep; intro _ h; (first | exact h | exact Memory.wf_nil | exact Memory.wf_putBytes _ _ h | exact Memory.wf_erase _ _ h | with_unfolding_all exact h); decide)
    | with_reducible apply Keep.foldl
    | with_reducible apply Keep.foldl_fst
    | with_reducible apply Keep.foldl_snd
    | with_reducible apply Keep.ite
    | split
    | dsimp only
    | intro _

theorem State.ctxIo_keep (s : State) (t : Ctx → Bool) (retry : Bool) : Keep ([.regs, .log, .cmd], 0xd800000000040000000000000) s (State.ctxIo s t retry) := by
  unfold State.ctxIo
  repeat' first
    | with_reducible exact Keep.refl _ _
    | with_reducible assumption
    | (with_reducible apply Keep.step; with_reducible apply State.peatErr_keep; decide)
    | (with_reducible apply Keep.step; with_reducible apply State.ctxEnd_keep; decide)
    | (with_reducible apply Keep.step; with_reducible apply State.putCtx_keep; decide)
    | with_reducible apply Keep.ite
    | split
    | dsimp only

theorem State.retryOr_keep {ps : Touch} {s t : State} {retry : Bool} {f : State → State} (h : Keep ps s t) (hf : ∀ u, Keep ps u (f u))
    (hr : sub ([.peat], 0x0) ps = true) : Keep ps s (t.retryOr retry f) := by
  unfold State.retryOr
  split
  · exact Keep.step (State.onPeat_keep _ _ (fun _ h => h)) (sub_trans (by decide) hr) h
  · exact Keep.step (hf _) (sub_self _) (Keep.step (State.onPeat_keep _ _ (fun _ h => h)) (sub_trans (by decide) hr) h)

theorem State.nvmeFail_keep (s : State) (opcode : Nat) (retry : Bool) : Keep ([.board, .regs, .mem, .log, .red, .ful, .cut, .sedge, .map, .peat, .rst, .warden, .syn, .cmd, .chk, .freeCtr, .outbox], 0x400100a550000007a5f1d3e11df900000dc001f7000060200000000000) s (State.nvmeFail s opcode retry) := by
  unfold State.nvmeFail
  repeat' first
    | with_reducible exact Keep.refl _ _
    | with_reducible assumption
    | (with_reducible apply Keep.step; with_reducible apply State.restoreReadFails_keep; decide)
    | (with_reducible apply Keep.step; with_reducible apply State.bringUpFails_keep; decide)
    | (with_reducible apply Keep.step; with_reducible apply State.flushFail_keep; decide)
    | (with_reducible apply Keep.step; with_reducible apply State.drainFail_keep; decide)
    | (with_reducible apply Keep.step; with_reducible apply State.writeFail_keep; decide)
    | (with_reducible apply Keep.step; with_reducible apply State.onPeat_keep; intro _ h; (first | exact h | exact Memory.wf_nil | exact Memory.wf_putBytes _ _ h | exact Memory.wf_erase _ _ h | with_unfolding_all exact h); decide)
    | (with_reducible apply Keep.step; with_reducible apply State.ctxIo_keep; decide)
    | (with_reducible apply Keep.step; with_reducible apply State.tear_keep; decide)
    | with_reducible apply State.retryOr_keep
    | with_reducible apply Keep.ite
    | (show sub _ _ = true; decide)
    | split
    | dsimp only
    | with_reducible exact Keep.id _ _
    | intro _

theorem doNvmeCommandError_keep (opcode : BitVec 8) (st : NvmeStatus) (s : State) : OutKeep ([.board, .regs, .mem, .log, .red, .ful, .cut, .sedge, .map, .peat, .rst, .warden, .syn, .cmd, .chk, .freeCtr, .outbox], 0x400100a550000007a5f1d3e11df9003e0dc001f7000060200000000000) s (doNvmeCommandError opcode st s) := by
  unfold doNvmeCommandError
  repeat' first
    | with_reducible exact Keep.refl _ _
    | with_reducible assumption
    | (with_reducible apply Keep.step; with_reducible apply State.nvmeFail_keep; decide)
    | (with_reducible apply Keep.step; with_reducible apply State.nvmeErr_keep; decide)
    | with_reducible apply Keep.ite
    | with_reducible apply OutKeep.ite
    | with_reducible apply OutKeep.next
    | split
    | dsimp only

theorem State.peatAgain_keep (s : State) : Keep ([.board, .regs, .mem, .log, .red, .ful, .cut, .sedge, .map, .peat, .rst, .warden, .syn, .cmd, .chk, .freeCtr, .outbox], 0x400100a550000007a5f1d3e11df900000dc001f7000060200000000000) s (State.peatAgain s) := by
  unfold State.peatAgain
  repeat' first
    | with_reducible exact Keep.refl _ _
    | with_reducible assumption
    | (with_reducible apply Keep.step; with_reducible apply State.restoreReadFails_keep; decide)
    | (with_reducible apply Keep.step; with_reducible apply State.flushFail_keep; decide)
    | (with_reducible apply Keep.step; with_reducible apply State.drainFail_keep; decide)
    | (with_reducible apply Keep.step; with_reducible apply State.peatIdle_keep; decide)
    | (with_reducible apply Keep.step; with_reducible apply State.peatErr_keep; decide)
    | (with_reducible apply Keep.step; with_reducible apply State.onPeat_keep; intro _ h; (first | exact h | exact Memory.wf_nil | exact Memory.wf_putBytes _ _ h | exact Memory.wf_erase _ _ h | with_unfolding_all exact h); decide)
    | (with_reducible apply Keep.step; with_reducible apply State.ctxEnd_keep; decide)
    | (with_reducible apply Keep.step; with_reducible apply State.ready_keep; decide)
    | (with_reducible apply Keep.step; with_reducible apply State.tear_keep; decide)
    | with_reducible apply Keep.foldl
    | with_reducible apply Keep.foldl_fst
    | with_reducible apply Keep.foldl_snd
    | with_reducible apply Keep.ite
    | split
    | dsimp only
    | intro _

theorem doNvmeTimeout_keep (opcode : BitVec 8) (s : State) : OutKeep ([.board, .regs, .mem, .log, .red, .ful, .cut, .sedge, .map, .peat, .rst, .warden, .syn, .cmd, .chk, .freeCtr, .outbox], 0x400100a550000007a5f1d3e11df9003e0dc001f7000060200000000000) s (doNvmeTimeout opcode s) := by
  unfold doNvmeTimeout
  repeat' first
    | with_reducible exact Keep.refl _ _
    | with_reducible assumption
    | (with_reducible apply Keep.step; with_reducible apply State.peatAgain_keep; decide)
    | (with_reducible apply Keep.step; with_reducible apply State.nvmeFail_keep; decide)
    | (with_reducible apply Keep.step; with_reducible apply State.nvmeErr_keep; decide)
    | with_reducible apply Keep.ite
    | with_reducible apply OutKeep.ite
    | with_reducible apply OutKeep.next
    | split
    | dsimp only

theorem doPeatLinkDown_keep (s : State) : OutKeep ([.board, .regs, .mem, .log, .red, .ful, .cut, .sedge, .map, .peat, .rst, .warden, .syn, .cmd, .chk, .freeCtr, .outbox], 0x400100a550000007a5f1d3e11df900000dc001f7000060200000000000) s (doPeatLinkDown s) := by
  unfold doPeatLinkDown
  repeat' first
    | with_reducible exact Keep.refl _ _
    | with_reducible assumption
    | (with_reducible apply Keep.step; with_reducible apply State.peatAgain_keep; decide)
    | (with_reducible apply Keep.step; with_reducible apply State.onPeat_keep; intro _ h; (first | exact h | exact Memory.wf_nil | exact Memory.wf_putBytes _ _ h | exact Memory.wf_erase _ _ h | with_unfolding_all exact h); decide)
    | with_reducible apply Keep.ite
    | with_reducible apply OutKeep.ite
    | with_reducible apply OutKeep.next
    | split
    | dsimp only

theorem execSmartLogPoll_keep (page : List Byte) (s : State) : OutKeep ([.peat], 0x0) s (execSmartLogPoll page s) := by
  unfold execSmartLogPoll
  repeat' first
    | with_reducible exact Keep.refl _ _
    | with_reducible assumption
    | (with_reducible apply Keep.step; with_reducible apply State.onPeat_keep; intro _ h; (first | exact h | exact Memory.wf_nil | exact Memory.wf_putBytes _ _ h | exact Memory.wf_erase _ _ h | with_unfolding_all exact h); decide)
    | with_reducible apply Keep.ite
    | with_reducible apply OutKeep.ite
    | with_reducible apply OutKeep.next
    | split
    | dsimp only

theorem execPeatDriveReady_keep (s : State) : OutKeep ([.board, .regs, .mem, .log, .red, .ful, .cut, .sedge, .map, .peat, .rst, .warden, .syn, .chk, .freeCtr, .outbox], 0x4001002512001007a5f1d3e11df90001f02001f7000060200000000000) s (execPeatDriveReady s) := by
  unfold execPeatDriveReady
  repeat' first
    | with_reducible exact Keep.refl _ _
    | with_reducible assumption
    | (with_reducible apply Keep.step; with_reducible apply State.classify_keep; decide)
    | (with_reducible apply Keep.step; with_reducible apply State.trained_keep; decide)
    | (with_reducible apply Keep.step; with_reducible apply State.onPeat_keep; intro _ h; (first | exact h | exact Memory.wf_nil | exact Memory.wf_putBytes _ _ h | exact Memory.wf_erase _ _ h | with_unfolding_all exact h); decide)
    | (with_reducible apply Keep.step; with_reducible apply State.ready_keep; decide)
    | with_reducible apply Keep.ite
    | with_reducible apply OutKeep.ite
    | with_reducible apply OutKeep.next
    | split
    | dsimp only

theorem doPeatReadyTimeout_keep (s : State) : OutKeep ([.board, .regs, .mem, .log, .red, .ful, .cut, .sedge, .map, .peat, .rst, .warden, .syn, .cmd, .chk, .freeCtr, .outbox], 0x4001002510000007a5f1d3e11df900000dc001f7000060200000000000) s (doPeatReadyTimeout s) := by
  unfold doPeatReadyTimeout
  repeat' first
    | with_reducible exact Keep.refl _ _
    | with_reducible assumption
    | (with_reducible apply Keep.step; with_reducible apply State.drainFail_keep; decide)
    | (with_reducible apply Keep.step; with_reducible apply State.onPeat_keep; intro _ h; (first | exact h | exact Memory.wf_nil | exact Memory.wf_putBytes _ _ h | exact Memory.wf_erase _ _ h | with_unfolding_all exact h); decide)
    | with_reducible apply Keep.foldl
    | with_reducible apply Keep.foldl_fst
    | with_reducible apply Keep.foldl_snd
    | with_reducible apply Keep.ite
    | with_reducible apply OutKeep.ite
    | with_reducible apply OutKeep.next
    | split
    | dsimp only
    | intro _

end Sys2Proof.Machine
end

