-- ==== Sys2Proof/Laws/KeepSettle.lean ====
section
/-! SUPPORT. What each operation of Machine/Settle.lean can do: one lemma for each (`Keep`). -/
namespace Sys2Proof.Machine

set_option linter.all false

theorem State.giveResult_keep (s : State) (fn : BarFn) (st : Status) (res : Option (W64 × W64)) : Keep ([.board, .regs, .mem, .log, .red, .ful, .cut, .sedge, .map, .peat, .rst, .warden, .syn, .cmd, .chk, .freeCtr, .outbox], 0x20ff8900bf700001ffa5f1d3e11df90101000001f7000060200000000000) s (State.giveResult s fn st res) := by
  unfold State.giveResult
  repeat' first
    | with_reducible exact Keep.refl _ _
    | with_reducible assumption
    | (with_reducible apply Keep.step; with_reducible apply State.wardenReleased_keep; decide)
    | (with_reducible apply Keep.step; with_reducible apply State.commitResult_keep; decide)
    | (with_reducible apply Keep.step; with_reducible apply State.peatNextEnd_keep; decide)
    | (with_reducible apply Keep.step; with_reducible apply State.peatResult_keep; decide)
    | (with_reducible apply Keep.step; with_reducible apply State.planResult_keep; decide)
    | (with_reducible apply Keep.step; with_reducible apply State.cutFlush_keep; decide)
    | (with_reducible apply Keep.step; with_reducible apply State.gateOpen_keep; decide)
    | (with_reducible apply Keep.step; with_reducible apply State.gateFail_keep; decide)
    | (with_reducible apply Keep.step; with_reducible apply State.released_keep; decide)
    | (with_reducible apply Keep.step; with_reducible apply State.release_keep; decide)
    | with_reducible apply Keep.ite
    | split
    | dsimp only

theorem State.barsNext_keep (s : State) : Keep ([.board, .regs, .mem, .log, .red, .ful, .cut, .sedge, .map, .rst, .warden, .syn, .chk, .freeCtr, .outbox], 0x4001002510000007a5f1d3e11df90000000001f7000060200000000000) s (State.barsNext s) := by
  unfold State.barsNext
  repeat' first
    | with_reducible exact Keep.refl _ _
    | with_reducible assumption
    | (with_reducible apply Keep.step; with_reducible apply State.barNext_keep; decide)
    | with_reducible apply Keep.foldl
    | with_reducible apply Keep.foldl_fst
    | with_reducible apply Keep.foldl_snd
    | with_reducible apply Keep.ite
    | split
    | dsimp only
    | intro _

theorem State.giveFirst_keep (s : State) : Keep ([.board, .regs, .mem, .log, .red, .ful, .cut, .sedge, .map, .peat, .rst, .warden, .syn, .cmd, .chk, .freeCtr, .outbox], 0x20ff8900bf700001ffa5f1d3e11df90101000001f7000060200000000000) s (State.giveFirst s) := by
  unfold State.giveFirst
  cases s.syn.results with
  | nil => exact Keep.refl _ _
  | cons x t =>
    exact Keep.step (State.giveResult_keep _ _ _ _) (by decide) (Keep.step (State.onSyn_keep _ _ (fun _ => rfl)) (by decide) (Keep.refl _ _))

theorem State.giveN_keep (n : Nat) (s : State) : Keep ([.board, .regs, .mem, .log, .red, .ful, .cut, .sedge, .map, .peat, .rst, .warden, .syn, .cmd, .chk, .freeCtr, .outbox], 0x20ff8900bf700001ffa5f1d3e11df90101000001f7000060200000000000) s (State.giveN n s) := by
  induction n generalizing s with
  | zero => exact Keep.refl _ _
  | succ n ih =>
    have h : Keep ([.board, .regs, .mem, .log, .red, .ful, .cut, .sedge, .map, .peat, .rst, .warden, .syn, .cmd, .chk, .freeCtr, .outbox], 0x20ff8900bf700001ffa5f1d3e11df90101000001f7000060200000000000) s s.barsNext := Keep.step (State.barsNext_keep s) (by decide) (Keep.refl _ _)
    rw [State.giveN]
    split
    · exact h
    · exact Keep.step (ih _) (by decide) (Keep.step (State.giveFirst_keep _) (by decide) h)

theorem State.restoreEnd_keep (s : State) : Keep ([.regs, .log, .rst, .cmd, .outbox], 0x400000000000000000000000000000000000040000000000000) s (State.restoreEnd s) := by
  unfold State.restoreEnd
  repeat' first
    | with_reducible exact Keep.refl _ _
    | with_reducible assumption
    | (with_reducible apply Keep.step; with_reducible apply State.noSource_keep; decide)
    | (with_reducible apply Keep.step; with_reducible apply State.ctxEnd_keep; decide)
    | (with_reducible apply Keep.step; with_reducible apply State.onRst_keep; intro _ h; (first | exact h | exact Memory.wf_nil | exact Memory.wf_putBytes _ _ h | exact Memory.wf_erase _ _ h | with_unfolding_all exact h); decide)
    | with_reducible apply Keep.ite
    | split
    | dsimp only

theorem State.peatNextFinal_keep (s : State) : Keep ([.regs, .log, .cut, .cmd], 0x40000000000000) s (State.peatNextFinal s) := by
  unfold State.peatNextFinal
  repeat' first
    | with_reducible exact Keep.refl _ _
    | with_reducible assumption
    | (with_reducible apply Keep.step; with_reducible apply State.peatNextEnd_keep; decide)
    | with_reducible apply Keep.ite
    | split
    | dsimp only

theorem State.flushLate_keep (s : State) : Keep ([.regs, .log, .peat, .cmd], 0x4d800000000040000000000000) s (State.flushLate s) := by
  unfold State.flushLate
  repeat' first
    | with_reducible exact Keep.refl _ _
    | with_reducible assumption
    | (with_reducible apply Keep.step; with_reducible apply State.flushBegin_keep; decide)
    | with_reducible apply Keep.ite
    | split
    | dsimp only

theorem State.ownAborts_keep (s : State) : Keep ([.board, .regs, .mem, .log, .red, .ful, .cut, .sedge, .map, .rst, .warden, .syn, .chk, .freeCtr, .outbox], 0x4001002510000007a5f1d3e11df90000000001f7000060200000000000) s (State.ownAborts s) := by
  unfold State.ownAborts
  repeat' first
    | with_reducible exact Keep.refl _ _
    | with_reducible assumption
    | (with_reducible apply Keep.step; with_reducible apply State.react_keep; decide)
    | fail_if_no_progress (with_reducible apply Keep.step; with_reducible apply keep_red; decide)
    | with_reducible apply Keep.ite
    | split
    | dsimp only

theorem State.settle_keep (s : State) : Keep ([.board, .regs, .mem, .log, .red, .ful, .cut, .sedge, .map, .peat, .rst, .warden, .syn, .cmd, .chk, .freeCtr, .outbox], 0x20ff8900bf700001ffa5f1d3e11df901014d8001f7000060200000000000) s (State.settle s) := by
  unfold State.settle
  repeat' first
    | with_reducible exact Keep.refl _ _
    | with_reducible assumption
    | (with_reducible apply Keep.step; with_reducible apply State.peatNextFinal_keep; decide)
    | (with_reducible apply Keep.step; with_reducible apply State.leadReplans_keep; decide)
    | (with_reducible apply Keep.step; with_reducible apply State.restoreEnd_keep; decide)
    | (with_reducible apply Keep.step; with_reducible apply State.chosenLate_keep; decide)
    | (with_reducible apply Keep.step; with_reducible apply State.flushLate_keep; decide)
    | (with_reducible apply Keep.step; with_reducible apply State.ownAborts_keep; decide)
    | (with_reducible apply Keep.step; with_reducible apply State.cutFlush_keep; decide)
    | (with_reducible apply Keep.step; with_reducible apply State.giveN_keep; decide)
    | with_reducible apply Keep.ite
    | split
    | dsimp only

theorem settled_keep {ps : Touch} {s : State} {o : Out} (h : OutKeep ps s o) (hs : sub ([.board, .regs, .mem, .log, .red, .ful, .cut, .sedge, .map, .peat, .rst, .warden, .syn, .cmd, .chk, .freeCtr, .outbox], 0x20ff8900bf700001ffa5f1d3e11df901014d8001f7000060200000000000) ps = true) : OutKeep ps s (settled o) := by
  obtain ⟨t, rfl, ht⟩ := h
  exact ⟨t.settle, rfl, Keep.step (State.settle_keep t) hs ht⟩

theorem execRegisterWrite_keep (off : BitVec 20) (width : AccWidth) (value : W64) (s : State) : OutKeep ([.board, .boot, .store, .regs, .mem, .sump, .log, .mon, .slices, .placed, .bscan, .red, .ful, .cut, .sedge, .map, .peat, .sec, .rst, .warden, .syn, .tim, .cmd, .chk, .elect, .freeCtr, .outbox, .acksOut, .irqs, .owed, .tc3], 0xffffffe0bf720011fff5f1f3f95dfd0141fdb00ff7000860a00002cfa375) s (execRegisterWrite off width value s) := by
  unfold execRegisterWrite
  repeat' first
    | with_reducible exact Keep.refl _ _
    | with_reducible assumption
    | (with_reducible refine settled_keep ?_ (by decide))
    | (with_reducible apply OutKeep.mono; with_reducible apply doRegisterWrite_keep; decide)
    | with_reducible apply Keep.ite
    | with_reducible apply OutKeep.ite
    | with_reducible apply OutKeep.next
    | (show sub _ _ = true; decide)
    | split
    | dsimp only
    | with_reducible exact Keep.id _ _
    | intro _

theorem execMemoryReadUncorrectable_keep (task : TaskId) (addr : BitVec 48) (s : State) : OutKeep ([.board, .regs, .mem, .log, .red, .ful, .cut, .sedge, .map, .peat, .rst, .warden, .syn, .cmd, .chk, .freeCtr, .outbox, .acksOut, .irqs], 0x20ff8900bf700001ffa5f1d3e11dfd01014dc001f7000060200000000374) s (execMemoryReadUncorrectable task addr s) := by
  unfold execMemoryReadUncorrectable
  repeat' first
    | with_reducible exact Keep.refl _ _
    | with_reducible assumption
    | (with_reducible refine settled_keep ?_ (by decide))
    | (with_reducible apply OutKeep.mono; with_reducible apply doMemoryReadUncorrectable_keep; decide)
    | with_reducible apply Keep.ite
    | with_reducible apply OutKeep.ite
    | with_reducible apply OutKeep.next
    | (show sub _ _ = true; decide)
    | split
    | dsimp only
    | with_reducible exact Keep.id _ _
    | intro _

theorem execPfailHoldExpiry_keep (s : State) : OutKeep ([.board, .regs, .mem, .log, .red, .ful, .cut, .sedge, .map, .peat, .rst, .warden, .syn, .cmd, .chk, .freeCtr, .outbox], 0x20ff8900bf700001ffa5f1d3e11df901014d8001f7000060200000000000) s (execPfailHoldExpiry s) := by
  unfold execPfailHoldExpiry
  repeat' first
    | with_reducible exact Keep.refl _ _
    | with_reducible assumption
    | (with_reducible refine settled_keep ?_ (by decide))
    | (with_reducible apply OutKeep.mono; with_reducible apply doPfailHoldExpiry_keep; decide)
    | with_reducible apply Keep.ite
    | with_reducible apply OutKeep.ite
    | with_reducible apply OutKeep.next
    | (show sub _ _ = true; decide)
    | split
    | dsimp only
    | with_reducible exact Keep.id _ _
    | intro _

theorem execSliceBufferError_keep (n : Fin 42) (s : State) : OutKeep ([.board, .regs, .mem, .log, .slices, .red, .ful, .cut, .sedge, .map, .peat, .rst, .warden, .syn, .cmd, .chk, .freeCtr, .outbox, .acksOut, .bx3Out], 0x20ff8900bf700001ffa5f1d3e11dfd01014d8201f7000064280000000000) s (execSliceBufferError n s) := by
  unfold execSliceBufferError
  repeat' first
    | with_reducible exact Keep.refl _ _
    | with_reducible assumption
    | (with_reducible refine settled_keep ?_ (by decide))
    | (with_reducible apply OutKeep.mono; with_reducible apply doSliceBufferError_keep; decide)
    | with_reducible apply Keep.ite
    | with_reducible apply OutKeep.ite
    | with_reducible apply OutKeep.next
    | (show sub _ _ = true; decide)
    | split
    | dsimp only
    | with_reducible exact Keep.id _ _
    | intro _

theorem execLnkCtrlClose_keep (n : Fin 42) (s : State) : OutKeep ([.board, .regs, .mem, .log, .slices, .red, .ful, .cut, .sedge, .map, .peat, .rst, .warden, .syn, .cmd, .chk, .freeCtr, .outbox, .acksOut], 0x20ff8900bf700001ffa5f1d3e11dfd01014d8009f7000060200000000000) s (execLnkCtrlClose n s) := by
  unfold execLnkCtrlClose
  repeat' first
    | with_reducible exact Keep.refl _ _
    | with_reducible assumption
    | (with_reducible refine settled_keep ?_ (by decide))
    | (with_reducible apply OutKeep.mono; with_reducible apply doLnkCtrlClose_keep; decide)
    | with_reducible apply Keep.ite
    | with_reducible apply OutKeep.ite
    | with_reducible apply OutKeep.next
    | (show sub _ _ = true; decide)
    | split
    | dsimp only
    | with_reducible exact Keep.id _ _
    | intro _

theorem execSpeedSample_keep (r : SpeedReading) (s : State) : OutKeep ([.board, .boot, .store, .regs, .mem, .sump, .log, .mon, .slices, .placed, .bscan, .red, .ful, .cut, .sedge, .map, .peat, .sec, .rst, .warden, .syn, .tim, .cmd, .chk, .elect, .freeCtr, .outbox, .owed, .tc3], 0x20ff8900bf700001ffa5f1d3e11df901014d8001f73ff06023fe02c00001) s (execSpeedSample r s) := by
  unfold execSpeedSample
  repeat' first
    | with_reducible exact Keep.refl _ _
    | with_reducible assumption
    | (with_reducible refine settled_keep ?_ (by decide))
    | (with_reducible apply OutKeep.mono; with_reducible apply doSpeedSample_keep; decide)
    | with_reducible apply Keep.ite
    | with_reducible apply OutKeep.ite
    | with_reducible apply OutKeep.next
    | (show sub _ _ = true; decide)
    | split
    | dsimp only
    | with_reducible exact Keep.id _ _
    | intro _

theorem execThermalHoldRelease_keep (tj : BitVec 11) (s : State) : OutKeep ([.board, .boot, .store, .regs, .mem, .sump, .log, .mon, .slices, .placed, .bscan, .red, .ful, .cut, .sedge, .map, .peat, .sec, .rst, .warden, .syn, .tim, .cmd, .chk, .elect, .freeCtr, .outbox, .owed, .tc3], 0x20ff8900bf720011ffa5f1d3e11df90101fda001f70004702000fac00001) s (execThermalHoldRelease tj s) := by
  unfold execThermalHoldRelease
  repeat' first
    | with_reducible exact Keep.refl _ _
    | with_reducible assumption
    | (with_reducible refine settled_keep ?_ (by decide))
    | (with_reducible apply OutKeep.mono; with_reducible apply doThermalHoldRelease_keep; decide)
    | with_reducible apply Keep.ite
    | with_reducible apply OutKeep.ite
    | with_reducible apply OutKeep.next
    | (show sub _ _ = true; decide)
    | split
    | dsimp only
    | with_reducible exact Keep.id _ _
    | intro _

theorem execBucketIssue_keep (ch : Fin 32) (s : State) : OutKeep ([.board, .regs, .mem, .log, .red, .ful, .cut, .sedge, .map, .peat, .rst, .warden, .syn, .cmd, .chk, .freeCtr, .outbox], 0x20ff8900bf700001ffa5f1d3e11dfb01014d8001f7000060200000000000) s (execBucketIssue ch s) := by
  unfold execBucketIssue
  repeat' first
    | with_reducible exact Keep.refl _ _
    | with_reducible assumption
    | (with_reducible refine settled_keep ?_ (by decide))
    | (with_reducible apply OutKeep.mono; with_reducible apply doBucketIssue_keep; decide)
    | with_reducible apply Keep.ite
    | with_reducible apply OutKeep.ite
    | with_reducible apply OutKeep.next
    | (show sub _ _ = true; decide)
    | split
    | dsimp only
    | with_reducible exact Keep.id _ _
    | intro _

theorem execBucketStart_keep (ch : Fin 32) (s : State) : OutKeep ([.board, .regs, .mem, .log, .red, .ful, .cut, .sedge, .map, .peat, .rst, .warden, .syn, .cmd, .chk, .freeCtr, .outbox, .acksOut], 0x20ff8904bf700081ffa5f1d3e13dfd01014d81e1f7000060200000000000) s (execBucketStart ch s) := by
  unfold execBucketStart
  repeat' first
    | with_reducible exact Keep.refl _ _
    | with_reducible assumption
    | (with_reducible refine settled_keep ?_ (by decide))
    | (with_reducible apply OutKeep.mono; with_reducible apply doBucketStart_keep; decide)
    | with_reducible apply Keep.ite
    | with_reducible apply OutKeep.ite
    | with_reducible apply OutKeep.next
    | (show sub _ _ = true; decide)
    | split
    | dsimp only
    | with_reducible exact Keep.id _ _
    | intro _

theorem execReducePartialFrame_keep (n : Fin 42) (f : Frame) (s : State) : OutKeep ([.board, .regs, .mem, .log, .red, .ful, .cut, .sedge, .map, .peat, .rst, .warden, .syn, .cmd, .chk, .freeCtr, .outbox, .acksOut], 0x20ff8904bf700081ffa5f1d3e11dfd01014d81f1f7000060200000000000) s (execReducePartialFrame n f s) := by
  unfold execReducePartialFrame
  repeat' first
    | with_reducible exact Keep.refl _ _
    | with_reducible assumption
    | (with_reducible refine settled_keep ?_ (by decide))
    | (with_reducible apply OutKeep.mono; with_reducible apply doReducePartialFrame_keep; decide)
    | with_reducible apply Keep.ite
    | with_reducible apply OutKeep.ite
    | with_reducible apply OutKeep.next
    | (show sub _ _ = true; decide)
    | split
    | dsimp only
    | with_reducible exact Keep.id _ _
    | intro _

theorem execResultCopyFrame_keep (n : Fin 42) (f : Frame) (s : State) : OutKeep ([.board, .regs, .mem, .log, .red, .ful, .cut, .sedge, .map, .peat, .rst, .warden, .syn, .cmd, .chk, .freeCtr, .outbox, .acksOut], 0x20ff8904bf700081ffa5f1d3e11dfd01014d81f1f7000060200000000000) s (execResultCopyFrame n f s) := by
  unfold execResultCopyFrame
  repeat' first
    | with_reducible exact Keep.refl _ _
    | with_reducible assumption
    | (with_reducible refine settled_keep ?_ (by decide))
    | (with_reducible apply OutKeep.mono; with_reducible apply doResultCopyFrame_keep; decide)
    | with_reducible apply Keep.ite
    | with_reducible apply OutKeep.ite
    | with_reducible apply OutKeep.next
    | (show sub _ _ = true; decide)
    | split
    | dsimp only
    | with_reducible exact Keep.id _ _
    | intro _

theorem execAllGatherDataFrame_keep (n : Fin 42) (f : Frame) (s : State) : OutKeep ([.board, .regs, .mem, .log, .red, .ful, .cut, .sedge, .map, .peat, .rst, .warden, .syn, .cmd, .chk, .freeCtr, .outbox, .acksOut], 0x20ff8904bf700081ffa5f1d3e11dfd01014d81f1f7000060200000000000) s (execAllGatherDataFrame n f s) := by
  unfold execAllGatherDataFrame
  repeat' first
    | with_reducible exact Keep.refl _ _
    | with_reducible assumption
    | (with_reducible refine settled_keep ?_ (by decide))
    | (with_reducible apply OutKeep.mono; with_reducible apply doAllGatherDataFrame_keep; decide)
    | with_reducible apply Keep.ite
    | with_reducible apply OutKeep.ite
    | with_reducible apply OutKeep.next
    | (show sub _ _ = true; decide)
    | split
    | dsimp only
    | with_reducible exact Keep.id _ _
    | intro _

theorem execFetchRequestFrame_keep (n : Fin 42) (f : Frame) (s : State) : OutKeep ([.board, .regs, .mem, .log, .red, .ful, .cut, .sedge, .map, .peat, .rst, .warden, .syn, .cmd, .chk, .freeCtr, .outbox], 0x20ff8900bf700001ffa5f1d3e11df901014d8051f7000060200000000000) s (execFetchRequestFrame n f s) := by
  unfold execFetchRequestFrame
  repeat' first
    | with_reducible exact Keep.refl _ _
    | with_reducible assumption
    | (with_reducible refine settled_keep ?_ (by decide))
    | (with_reducible apply OutKeep.mono; with_reducible apply doFetchRequestFrame_keep; decide)
    | with_reducible apply Keep.ite
    | with_reducible apply OutKeep.ite
    | with_reducible apply OutKeep.next
    | (show sub _ _ = true; decide)
    | split
    | dsimp only
    | with_reducible exact Keep.id _ _
    | intro _

theorem execFetchDataFrame_keep (n : Fin 42) (f : Frame) (s : State) : OutKeep ([.board, .regs, .mem, .log, .red, .ful, .cut, .sedge, .map, .peat, .rst, .warden, .syn, .cmd, .chk, .freeCtr, .outbox, .acksOut], 0x20ff8900bf700001ffa5f1d3e11dfd01014d8071f7000060200000000000) s (execFetchDataFrame n f s) := by
  unfold execFetchDataFrame
  repeat' first
    | with_reducible exact Keep.refl _ _
    | with_reducible assumption
    | (with_reducible refine settled_keep ?_ (by decide))
    | (with_reducible apply OutKeep.mono; with_reducible apply doFetchDataFrame_keep; decide)
    | with_reducible apply Keep.ite
    | with_reducible apply OutKeep.ite
    | with_reducible apply OutKeep.next
    | (show sub _ _ = true; decide)
    | split
    | dsimp only
    | with_reducible exact Keep.id _ _
    | intro _

theorem execBucketAbortNotice_keep (n : Fin 42) (f : Frame) (s : State) : OutKeep ([.board, .regs, .mem, .log, .red, .ful, .cut, .sedge, .map, .peat, .rst, .warden, .syn, .cmd, .chk, .freeCtr, .outbox, .acksOut], 0x20ff8900bf700001ffa5f1d3e11dfd01014d8051f7000060200000000000) s (execBucketAbortNotice n f s) := by
  unfold execBucketAbortNotice
  repeat' first
    | with_reducible exact Keep.refl _ _
    | with_reducible assumption
    | (with_reducible refine settled_keep ?_ (by decide))
    | (with_reducible apply OutKeep.mono; with_reducible apply doBucketAbortNotice_keep; decide)
    | with_reducible apply Keep.ite
    | with_reducible apply OutKeep.ite
    | with_reducible apply OutKeep.next
    | (show sub _ _ = true; decide)
    | split
    | dsimp only
    | with_reducible exact Keep.id _ _
    | intro _

theorem execDropNotice_keep (n : Fin 42) (f : Frame) (s : State) : OutKeep ([.board, .regs, .mem, .log, .red, .ful, .cut, .sedge, .map, .peat, .rst, .warden, .syn, .cmd, .chk, .freeCtr, .outbox], 0x20ff8900bf700001ffa5f1d3e11ff901014d8051f7000060200000000000) s (execDropNotice n f s) := by
  unfold execDropNotice
  repeat' first
    | with_reducible exact Keep.refl _ _
    | with_reducible assumption
    | (with_reducible refine settled_keep ?_ (by decide))
    | (with_reducible apply OutKeep.mono; with_reducible apply doDropNotice_keep; decide)
    | with_reducible apply Keep.ite
    | with_reducible apply OutKeep.ite
    | with_reducible apply OutKeep.next
    | (show sub _ _ = true; decide)
    | split
    | dsimp only
    | with_reducible exact Keep.id _ _
    | intro _

theorem execMcastAck_keep (ch : Fin 32) (seq : W32) (port : Fin 36) (pos : BitVec 7) (bytes : Nat) (last : Bool) (s : State) : OutKeep ([.board, .regs, .mem, .log, .red, .ful, .cut, .sedge, .map, .peat, .rst, .warden, .syn, .cmd, .chk, .freeCtr, .outbox], 0x20ff8900bf700001ffa5f1d3e11df901014d8001f7000060200000000000) s (execMcastAck ch seq port pos bytes last s) := by
  unfold execMcastAck
  repeat' first
    | with_reducible exact Keep.refl _ _
    | with_reducible assumption
    | (with_reducible refine settled_keep ?_ (by decide))
    | (with_reducible apply OutKeep.mono; with_reducible apply doMcastAck_keep; decide)
    | with_reducible apply Keep.ite
    | with_reducible apply OutKeep.ite
    | with_reducible apply OutKeep.next
    | (show sub _ _ = true; decide)
    | split
    | dsimp only
    | with_reducible exact Keep.id _ _
    | intro _

theorem execMcastStallExpiry_keep (ch : Fin 32) (port : Fin 36) (pos : BitVec 7) (race : Race) (s : State) : OutKeep ([.board, .regs, .mem, .log, .red, .ful, .cut, .sedge, .map, .peat, .rst, .warden, .syn, .cmd, .chk, .freeCtr, .outbox], 0x20ff8900bf700001ffa5f1d3e11df901014d8001f7000060200000300000) s (execMcastStallExpiry ch port pos race s) := by
  unfold execMcastStallExpiry
  repeat' first
    | with_reducible exact Keep.refl _ _
    | with_reducible assumption
    | (with_reducible refine settled_keep ?_ (by decide))
    | (with_reducible apply OutKeep.mono; with_reducible apply doMcastStallExpiry_keep; decide)
    | with_reducible apply Keep.ite
    | with_reducible apply OutKeep.ite
    | with_reducible apply OutKeep.next
    | (show sub _ _ = true; decide)
    | split
    | dsimp only
    | with_reducible exact Keep.id _ _
    | intro _

theorem execBucketComplete_keep (ch : Fin 32) (s : State) : OutKeep ([.board, .regs, .mem, .log, .red, .ful, .cut, .sedge, .map, .peat, .rst, .warden, .syn, .cmd, .chk, .freeCtr, .outbox], 0x20ff8900bf700001ffa5f1d3e11df901014d8001f7000060200000000000) s (execBucketComplete ch s) := by
  unfold execBucketComplete
  repeat' first
    | with_reducible exact Keep.refl _ _
    | with_reducible assumption
    | (with_reducible refine settled_keep ?_ (by decide))
    | (with_reducible apply OutKeep.mono; with_reducible apply doBucketComplete_keep; decide)
    | with_reducible apply Keep.ite
    | with_reducible apply OutKeep.ite
    | with_reducible apply OutKeep.next
    | (show sub _ _ = true; decide)
    | split
    | dsimp only
    | with_reducible exact Keep.id _ _
    | intro _

theorem execReductionStreamWatchdog_keep (ch : Fin 32) (race : Race) (s : State) : OutKeep ([.board, .regs, .mem, .log, .red, .ful, .cut, .sedge, .map, .peat, .rst, .warden, .syn, .cmd, .chk, .freeCtr, .outbox, .acksOut], 0x20ff8900bf700001ffa5f1d3e11dfd01014d8001f7000060200000300000) s (execReductionStreamWatchdog ch race s) := by
  unfold execReductionStreamWatchdog
  repeat' first
    | with_reducible exact Keep.refl _ _
    | with_reducible assumption
    | (with_reducible refine settled_keep ?_ (by decide))
    | (with_reducible apply OutKeep.mono; with_reducible apply doReductionStreamWatchdog_keep; decide)
    | with_reducible apply Keep.ite
    | with_reducible apply OutKeep.ite
    | with_reducible apply OutKeep.next
    | (show sub _ _ = true; decide)
    | split
    | dsimp only
    | with_reducible exact Keep.id _ _
    | intro _

theorem execContribWatchdogExpiry_keep (ch : Fin 32) (race : Race) (s : State) : OutKeep ([.board, .regs, .mem, .log, .red, .ful, .cut, .sedge, .map, .peat, .rst, .warden, .syn, .cmd, .chk, .freeCtr, .outbox], 0x20ff8900bf700001ffa5f1d3e11df901014d8001f7000060200000300000) s (execContribWatchdogExpiry ch race s) := by
  unfold execContribWatchdogExpiry
  repeat' first
    | with_reducible exact Keep.refl _ _
    | with_reducible assumption
    | (with_reducible refine settled_keep ?_ (by decide))
    | (with_reducible apply OutKeep.mono; with_reducible apply doContribWatchdogExpiry_keep; decide)
    | with_reducible apply Keep.ite
    | with_reducible apply OutKeep.ite
    | with_reducible apply OutKeep.next
    | (show sub _ _ = true; decide)
    | split
    | dsimp only
    | with_reducible exact Keep.id _ _
    | intro _

theorem execVoteArrival_keep (s : State) : OutKeep ([.board, .regs, .mem, .log, .red, .ful, .cut, .sedge, .map, .peat, .rst, .warden, .syn, .cmd, .chk, .freeCtr, .outbox], 0x20ff8900bf700001ffa5f1d3e11df901014d8001f7000060200000000000) s (execVoteArrival s) := by
  unfold execVoteArrival
  repeat' first
    | with_reducible exact Keep.refl _ _
    | with_reducible assumption
    | (with_reducible refine settled_keep ?_ (by decide))
    | (with_reducible apply OutKeep.mono; with_reducible apply doVoteArrival_keep; decide)
    | with_reducible apply Keep.ite
    | with_reducible apply OutKeep.ite
    | with_reducible apply OutKeep.next
    | (show sub _ _ = true; decide)
    | split
    | dsimp only
    | with_reducible exact Keep.id _ _
    | intro _

theorem execFullingTaskIssue_keep (q : Fin 4) (s : State) : OutKeep ([.board, .regs, .mem, .log, .red, .ful, .cut, .sedge, .map, .peat, .rst, .warden, .syn, .cmd, .chk, .freeCtr, .outbox], 0x20ff8900bf700001ffa5f1d3e11df901014d8001f7000060200000000000) s (execFullingTaskIssue q s) := by
  unfold execFullingTaskIssue
  repeat' first
    | with_reducible exact Keep.refl _ _
    | with_reducible assumption
    | (with_reducible refine settled_keep ?_ (by decide))
    | (with_reducible apply OutKeep.mono; with_reducible apply doFullingTaskIssue_keep; decide)
    | with_reducible apply Keep.ite
    | with_reducible apply OutKeep.ite
    | with_reducible apply OutKeep.next
    | (show sub _ _ = true; decide)
    | split
    | dsimp only
    | with_reducible exact Keep.id _ _
    | intro _

theorem execFullingWaitSatisfied_keep (q : Fin 4) (s : State) : OutKeep ([.board, .regs, .mem, .log, .red, .ful, .cut, .sedge, .map, .peat, .rst, .warden, .syn, .cmd, .chk, .freeCtr, .outbox], 0x20ff8900bf700001ffa5f1d3e11df901014d8001f7000060200000000000) s (execFullingWaitSatisfied q s) := by
  unfold execFullingWaitSatisfied
  repeat' first
    | with_reducible exact Keep.refl _ _
    | with_reducible assumption
    | (with_reducible refine settled_keep ?_ (by decide))
    | (with_reducible apply OutKeep.mono; with_reducible apply doFullingWaitSatisfied_keep; decide)
    | with_reducible apply Keep.ite
    | with_reducible apply OutKeep.ite
    | with_reducible apply OutKeep.next
    | (show sub _ _ = true; decide)
    | split
    | dsimp only
    | with_reducible exact Keep.id _ _
    | intro _

theorem execGateTaskProceed_keep (q : Fin 4) (s : State) : OutKeep ([.board, .regs, .mem, .log, .red, .ful, .cut, .sedge, .map, .peat, .rst, .warden, .syn, .cmd, .chk, .freeCtr, .outbox], 0x20ff8900bf700001ffa5f1d3e11df901014d8001f7000060200000000000) s (execGateTaskProceed q s) := by
  unfold execGateTaskProceed
  repeat' first
    | with_reducible exact Keep.refl _ _
    | with_reducible assumption
    | (with_reducible refine settled_keep ?_ (by decide))
    | (with_reducible apply OutKeep.mono; with_reducible apply doGateTaskProceed_keep; decide)
    | with_reducible apply Keep.ite
    | with_reducible apply OutKeep.ite
    | with_reducible apply OutKeep.next
    | (show sub _ _ = true; decide)
    | split
    | dsimp only
    | with_reducible exact Keep.id _ _
    | intro _

theorem execLaneTakesBlock_keep (lane : Fin 192) (q : Fin 4) (b : Nat) (s : State) : OutKeep ([.board, .regs, .mem, .log, .red, .ful, .cut, .sedge, .map, .peat, .rst, .warden, .syn, .cmd, .chk, .freeCtr, .outbox, .owed], 0x20ff8900bf700001ffadf1d3e11df901014d8001f7000060200000000000) s (execLaneTakesBlock lane q b s) := by
  unfold execLaneTakesBlock
  repeat' first
    | with_reducible exact Keep.refl _ _
    | with_reducible assumption
    | (with_reducible refine settled_keep ?_ (by decide))
    | (with_reducible apply OutKeep.mono; with_reducible apply doLaneTakesBlock_keep; decide)
    | with_reducible apply Keep.ite
    | with_reducible apply OutKeep.ite
    | with_reducible apply OutKeep.next
    | (show sub _ _ = true; decide)
    | split
    | dsimp only
    | with_reducible exact Keep.id _ _
    | intro _

theorem execDirectPieceBind_keep (p : Fin 8) (s : State) : OutKeep ([.board, .regs, .mem, .log, .red, .ful, .cut, .sedge, .map, .peat, .rst, .warden, .syn, .cmd, .chk, .freeCtr, .outbox], 0x20ff8900bf700001ffa5f1d3e11df901014d8001f7000060200000000000) s (execDirectPieceBind p s) := by
  unfold execDirectPieceBind
  repeat' first
    | with_reducible exact Keep.refl _ _
    | with_reducible assumption
    | (with_reducible refine settled_keep ?_ (by decide))
    | (with_reducible apply OutKeep.mono; with_reducible apply doDirectPieceBind_keep; decide)
    | with_reducible apply Keep.ite
    | with_reducible apply OutKeep.ite
    | with_reducible apply OutKeep.next
    | (show sub _ _ = true; decide)
    | split
    | dsimp only
    | with_reducible exact Keep.id _ _
    | intro _

theorem execFullingStreamWatchdog_keep (q : Fin 4) (race : Race) (s : State) : OutKeep ([.board, .regs, .mem, .log, .red, .ful, .cut, .sedge, .map, .peat, .rst, .warden, .syn, .cmd, .chk, .freeCtr, .outbox], 0x20ff8900bf700001ffa5f1d3e11df901014d8001f7000060200000300000) s (execFullingStreamWatchdog q race s) := by
  unfold execFullingStreamWatchdog
  repeat' first
    | with_reducible exact Keep.refl _ _
    | with_reducible assumption
    | (with_reducible refine settled_keep ?_ (by decide))
    | (with_reducible apply OutKeep.mono; with_reducible apply doFullingStreamWatchdog_keep; decide)
    | with_reducible apply Keep.ite
    | with_reducible apply OutKeep.ite
    | with_reducible apply OutKeep.next
    | (show sub _ _ = true; decide)
    | split
    | dsimp only
    | with_reducible exact Keep.id _ _
    | intro _

theorem execFullingTaskComplete_keep (q : Fin 4) (s : State) : OutKeep ([.board, .regs, .mem, .log, .red, .ful, .cut, .sedge, .map, .peat, .rst, .warden, .syn, .cmd, .chk, .freeCtr, .outbox], 0x20ff8900bf700001ffa5f1d3e11df901014d8001ffc00060200000000000) s (execFullingTaskComplete q s) := by
  unfold execFullingTaskComplete
  repeat' first
    | with_reducible exact Keep.refl _ _
    | with_reducible assumption
    | (with_reducible refine settled_keep ?_ (by decide))
    | (with_reducible apply OutKeep.mono; with_reducible apply doFullingTaskComplete_keep; decide)
    | with_reducible apply Keep.ite
    | with_reducible apply OutKeep.ite
    | with_reducible apply OutKeep.next
    | (show sub _ _ = true; decide)
    | split
    | dsimp only
    | with_reducible exact Keep.id _ _
    | intro _

theorem execCutOpen_keep (s : State) : OutKeep ([.board, .regs, .mem, .log, .red, .ful, .cut, .sedge, .map, .peat, .rst, .warden, .syn, .cmd, .chk, .freeCtr, .outbox], 0x20ff8900bf700001ffa7f1d3e11df901014f8001f7000060200000000000) s (execCutOpen s) := by
  unfold execCutOpen
  repeat' first
    | with_reducible exact Keep.refl _ _
    | with_reducible assumption
    | (with_reducible refine settled_keep ?_ (by decide))
    | (with_reducible apply OutKeep.mono; with_reducible apply doCutOpen_keep; decide)
    | with_reducible apply Keep.ite
    | with_reducible apply OutKeep.ite
    | with_reducible apply OutKeep.next
    | (show sub _ _ = true; decide)
    | split
    | dsimp only
    | with_reducible exact Keep.id _ _
    | intro _

theorem execCutReply_keep (n : Fin 42) (f : Frame) (s : State) : OutKeep ([.board, .regs, .mem, .log, .red, .ful, .cut, .sedge, .map, .peat, .rst, .warden, .syn, .cmd, .chk, .freeCtr, .outbox], 0x20ff8900bf720011ffa5f1d3e11df901014d8051f7000060200000000000) s (execCutReply n f s) := by
  unfold execCutReply
  repeat' first
    | with_reducible exact Keep.refl _ _
    | with_reducible assumption
    | (with_reducible refine settled_keep ?_ (by decide))
    | (with_reducible apply OutKeep.mono; with_reducible apply doCutReply_keep; decide)
    | with_reducible apply Keep.ite
    | with_reducible apply OutKeep.ite
    | with_reducible apply OutKeep.next
    | (show sub _ _ = true; decide)
    | split
    | dsimp only
    | with_reducible exact Keep.id _ _
    | intro _

theorem execCutSeal_keep (s : State) : OutKeep ([.board, .regs, .mem, .log, .red, .ful, .cut, .sedge, .map, .peat, .rst, .warden, .syn, .cmd, .chk, .freeCtr, .outbox], 0x20ff8900bf700001ffa5f1d3e11df901014d8001f7000060200000000000) s (execCutSeal s) := by
  unfold execCutSeal
  repeat' first
    | with_reducible exact Keep.refl _ _
    | with_reducible assumption
    | (with_reducible refine settled_keep ?_ (by decide))
    | (with_reducible apply OutKeep.mono; with_reducible apply doCutSeal_keep; decide)
    | with_reducible apply Keep.ite
    | with_reducible apply OutKeep.ite
    | with_reducible apply OutKeep.next
    | (show sub _ _ = true; decide)
    | split
    | dsimp only
    | with_reducible exact Keep.id _ _
    | intro _

theorem execFeltingSchedule_keep (s : State) : OutKeep ([.board, .regs, .mem, .log, .red, .ful, .cut, .sedge, .map, .peat, .rst, .warden, .syn, .cmd, .chk, .freeCtr, .outbox], 0x20ff8900bf720011ffa5f1d3e11df901014dc001f7000060200000000000) s (execFeltingSchedule s) := by
  unfold execFeltingSchedule
  repeat' first
    | with_reducible exact Keep.refl _ _
    | with_reducible assumption
    | (with_reducible refine settled_keep ?_ (by decide))
    | (with_reducible apply OutKeep.mono; with_reducible apply doFeltingSchedule_keep; decide)
    | with_reducible apply Keep.ite
    | with_reducible apply OutKeep.ite
    | with_reducible apply OutKeep.next
    | (show sub _ _ = true; decide)
    | split
    | dsimp only
    | with_reducible exact Keep.id _ _
    | intro _

theorem execFeltingDone_keep (s : State) : OutKeep ([.board, .regs, .mem, .log, .red, .ful, .cut, .sedge, .map, .peat, .rst, .warden, .syn, .cmd, .chk, .freeCtr, .outbox], 0x20ff8900bf700001ffa5f1d3e11df901014d8001f7000060200000000000) s (execFeltingDone s) := by
  unfold execFeltingDone
  repeat' first
    | with_reducible exact Keep.refl _ _
    | with_reducible assumption
    | (with_reducible refine settled_keep ?_ (by decide))
    | (with_reducible apply OutKeep.mono; with_reducible apply doFeltingDone_keep; decide)
    | with_reducible apply Keep.ite
    | with_reducible apply OutKeep.ite
    | with_reducible apply OutKeep.next
    | (show sub _ _ = true; decide)
    | split
    | dsimp only
    | with_reducible exact Keep.id _ _
    | intro _

theorem execFeltAckTimeout_keep (tag : BitVec 20) (s : State) : OutKeep ([.board, .regs, .mem, .log, .red, .ful, .cut, .sedge, .map, .peat, .rst, .warden, .syn, .cmd, .chk, .freeCtr, .outbox], 0x20ff8900bf700001ffa5f1d3e11df901014d8001f7000060200000000000) s (execFeltAckTimeout tag s) := by
  unfold execFeltAckTimeout
  repeat' first
    | with_reducible exact Keep.refl _ _
    | with_reducible assumption
    | (with_reducible refine settled_keep ?_ (by decide))
    | (with_reducible apply OutKeep.mono; with_reducible apply doFeltAckTimeout_keep; decide)
    | with_reducible apply Keep.ite
    | with_reducible apply OutKeep.ite
    | with_reducible apply OutKeep.next
    | (show sub _ _ = true; decide)
    | split
    | dsimp only
    | with_reducible exact Keep.id _ _
    | intro _

theorem execKeepReport_keep (n : Fin 42) (f : Frame) (s : State) : OutKeep ([.board, .regs, .mem, .log, .red, .ful, .cut, .sedge, .map, .peat, .rst, .warden, .syn, .cmd, .chk, .freeCtr, .outbox], 0x20ff8900bf700001ffa5f1d3e11df901014d8051f7000060200000000000) s (execKeepReport n f s) := by
  unfold execKeepReport
  repeat' first
    | with_reducible exact Keep.refl _ _
    | with_reducible assumption
    | (with_reducible refine settled_keep ?_ (by decide))
    | (with_reducible apply OutKeep.mono; with_reducible apply doKeepReport_keep; decide)
    | with_reducible apply Keep.ite
    | with_reducible apply OutKeep.ite
    | with_reducible apply OutKeep.next
    | (show sub _ _ = true; decide)
    | split
    | dsimp only
    | with_reducible exact Keep.id _ _
    | intro _

theorem execKeepWatchdogExpiry_keep (s : State) : OutKeep ([.board, .regs, .mem, .log, .red, .ful, .cut, .sedge, .map, .peat, .rst, .warden, .syn, .cmd, .chk, .freeCtr, .outbox], 0x20ff8900bf700001ffa5f1d3e11df901014d8001f7000060200000000000) s (execKeepWatchdogExpiry s) := by
  unfold execKeepWatchdogExpiry
  repeat' first
    | with_reducible exact Keep.refl _ _
    | with_reducible assumption
    | (with_reducible refine settled_keep ?_ (by decide))
    | (with_reducible apply OutKeep.mono; with_reducible apply doKeepWatchdogExpiry_keep; decide)
    | with_reducible apply Keep.ite
    | with_reducible apply OutKeep.ite
    | with_reducible apply OutKeep.next
    | (show sub _ _ = true; decide)
    | split
    | dsimp only
    | with_reducible exact Keep.id _ _
    | intro _

theorem execDigestFrame_keep (n : Fin 42) (f : Frame) (s : State) : OutKeep ([.board, .regs, .mem, .log, .red, .ful, .cut, .sedge, .map, .peat, .rst, .warden, .syn, .cmd, .chk, .freeCtr, .outbox], 0x20ff8900bf700001ffa5f1d3e11df901014d8051f7000060200000000000) s (execDigestFrame n f s) := by
  unfold execDigestFrame
  repeat' first
    | with_reducible exact Keep.refl _ _
    | with_reducible assumption
    | (with_reducible refine settled_keep ?_ (by decide))
    | (with_reducible apply OutKeep.mono; with_reducible apply doDigestFrame_keep; decide)
    | with_reducible apply Keep.ite
    | with_reducible apply OutKeep.ite
    | with_reducible apply OutKeep.next
    | (show sub _ _ = true; decide)
    | split
    | dsimp only
    | with_reducible exact Keep.id _ _
    | intro _

theorem execXchgWatchdogExpiry_keep (race : Race) (s : State) : OutKeep ([.board, .regs, .mem, .log, .red, .ful, .cut, .sedge, .map, .peat, .rst, .warden, .syn, .cmd, .chk, .freeCtr, .outbox], 0x20ff8900bf700001ffa5f1d3e11df901014d8001f7000060200000300000) s (execXchgWatchdogExpiry race s) := by
  unfold execXchgWatchdogExpiry
  repeat' first
    | with_reducible exact Keep.refl _ _
    | with_reducible assumption
    | (with_reducible refine settled_keep ?_ (by decide))
    | (with_reducible apply OutKeep.mono; with_reducible apply doXchgWatchdogExpiry_keep; decide)
    | with_reducible apply Keep.ite
    | with_reducible apply OutKeep.ite
    | with_reducible apply OutKeep.next
    | (show sub _ _ = true; decide)
    | split
    | dsimp only
    | with_reducible exact Keep.id _ _
    | intro _

theorem execCommitRecordAck_keep (s : State) : OutKeep ([.board, .regs, .mem, .log, .red, .ful, .cut, .sedge, .map, .peat, .rst, .warden, .syn, .cmd, .chk, .freeCtr, .outbox], 0x20ff8900bf700001ffa5f1d3e11df901014d8001f7000060200000000000) s (execCommitRecordAck s) := by
  unfold execCommitRecordAck
  repeat' first
    | with_reducible exact Keep.refl _ _
    | with_reducible assumption
    | (with_reducible refine settled_keep ?_ (by decide))
    | (with_reducible apply OutKeep.mono; with_reducible apply doCommitRecordAck_keep; decide)
    | with_reducible apply Keep.ite
    | with_reducible apply OutKeep.ite
    | with_reducible apply OutKeep.next
    | (show sub _ _ = true; decide)
    | split
    | dsimp only
    | with_reducible exact Keep.id _ _
    | intro _

theorem execCutEnable_keep (value : BitVec 32) (s : State) : OutKeep ([.board, .regs, .mem, .log, .red, .ful, .cut, .sedge, .map, .peat, .rst, .warden, .syn, .cmd, .chk, .freeCtr, .outbox], 0x30ff8900bf700001fff5f1d3e11df901014d8001f7000060a00000000000) s (execCutEnable value s) := by
  unfold execCutEnable
  repeat' first
    | with_reducible exact Keep.refl _ _
    | with_reducible assumption
    | (with_reducible refine settled_keep ?_ (by decide))
    | (with_reducible apply OutKeep.mono; with_reducible apply doCutEnable_keep; decide)
    | with_reducible apply Keep.ite
    | with_reducible apply OutKeep.ite
    | with_reducible apply OutKeep.next
    | (show sub _ _ = true; decide)
    | split
    | dsimp only
    | with_reducible exact Keep.id _ _
    | intro _

theorem execCutDisable_keep (value : BitVec 32) (s : State) : OutKeep ([.board, .regs, .mem, .log, .red, .ful, .cut, .sedge, .map, .peat, .rst, .warden, .syn, .cmd, .chk, .freeCtr, .outbox], 0x30ff8900bf700001ffa5f1d3e11df901014d8001f7000060a00000000000) s (execCutDisable value s) := by
  unfold execCutDisable
  repeat' first
    | with_reducible exact Keep.refl _ _
    | with_reducible assumption
    | (with_reducible refine settled_keep ?_ (by decide))
    | (with_reducible apply OutKeep.mono; with_reducible apply doCutDisable_keep; decide)
    | with_reducible apply Keep.ite
    | with_reducible apply OutKeep.ite
    | with_reducible apply OutKeep.next
    | (show sub _ _ = true; decide)
    | split
    | dsimp only
    | with_reducible exact Keep.id _ _
    | intro _

theorem execPeatEnable_keep (value : BitVec 32) (s : State) : OutKeep ([.board, .regs, .mem, .log, .red, .ful, .cut, .sedge, .map, .peat, .rst, .warden, .syn, .cmd, .chk, .freeCtr, .outbox], 0x20ffa900bf720011ffa5f1d3e11df90101fdb001f7000060a00000000000) s (execPeatEnable value s) := by
  unfold execPeatEnable
  repeat' first
    | with_reducible exact Keep.refl _ _
    | with_reducible assumption
    | (with_reducible refine settled_keep ?_ (by decide))
    | (with_reducible apply OutKeep.mono; with_reducible apply doPeatEnable_keep; decide)
    | with_reducible apply Keep.ite
    | with_reducible apply OutKeep.ite
    | with_reducible apply OutKeep.next
    | (show sub _ _ = true; decide)
    | split
    | dsimp only
    | with_reducible exact Keep.id _ _
    | intro _

theorem execPeatDisable_keep (value : BitVec 32) (s : State) : OutKeep ([.board, .regs, .mem, .log, .red, .ful, .cut, .sedge, .map, .peat, .rst, .warden, .syn, .cmd, .chk, .freeCtr, .outbox], 0x20ffa900bf720011ffa5f1d3e11df90101fdb001f7000060a00000000000) s (execPeatDisable value s) := by
  unfold execPeatDisable
  repeat' first
    | with_reducible exact Keep.refl _ _
    | with_reducible assumption
    | (with_reducible refine settled_keep ?_ (by decide))
    | (with_reducible apply OutKeep.mono; with_reducible apply doPeatDisable_keep; decide)
    | with_reducible apply Keep.ite
    | with_reducible apply OutKeep.ite
    | with_reducible apply OutKeep.next
    | (show sub _ _ = true; decide)
    | split
    | dsimp only
    | with_reducible exact Keep.id _ _
    | intro _

theorem execPeatFormat_keep (value : BitVec 32) (s : State) : OutKeep ([.board, .regs, .mem, .log, .red, .ful, .cut, .sedge, .map, .peat, .rst, .warden, .syn, .cmd, .chk, .freeCtr, .outbox], 0x20ffa900bf720011ffa5f1d3e11df90101fdb001f7000060a00000000000) s (execPeatFormat value s) := by
  unfold execPeatFormat
  repeat' first
    | with_reducible exact Keep.refl _ _
    | with_reducible assumption
    | (with_reducible refine settled_keep ?_ (by decide))
    | (with_reducible apply OutKeep.mono; with_reducible apply doPeatFormat_keep; decide)
    | with_reducible apply Keep.ite
    | with_reducible apply OutKeep.ite
    | with_reducible apply OutKeep.next
    | (show sub _ _ = true; decide)
    | split
    | dsimp only
    | with_reducible exact Keep.id _ _
    | intro _

theorem execDrainReservationDone_keep (s : State) : OutKeep ([.board, .regs, .mem, .log, .red, .ful, .cut, .sedge, .map, .peat, .rst, .warden, .syn, .cmd, .chk, .freeCtr, .outbox], 0x20ff8900bf700001ffa5f1d3e11df901014dc001f7000060200000000000) s (execDrainReservationDone s) := by
  unfold execDrainReservationDone
  repeat' first
    | with_reducible exact Keep.refl _ _
    | with_reducible assumption
    | (with_reducible refine settled_keep ?_ (by decide))
    | (with_reducible apply OutKeep.mono; with_reducible apply doDrainReservationDone_keep; decide)
    | with_reducible apply Keep.ite
    | with_reducible apply OutKeep.ite
    | with_reducible apply OutKeep.next
    | (show sub _ _ = true; decide)
    | split
    | dsimp only
    | with_reducible exact Keep.id _ _
    | intro _

theorem execDrainWritesDone_keep (s : State) : OutKeep ([.board, .regs, .mem, .log, .red, .ful, .cut, .sedge, .map, .peat, .rst, .warden, .syn, .cmd, .chk, .freeCtr, .outbox], 0x20ff8900bf700001ffa5f1d3e11df901014dc001f7000060200000000000) s (execDrainWritesDone s) := by
  unfold execDrainWritesDone
  repeat' first
    | with_reducible exact Keep.refl _ _
    | with_reducible assumption
    | (with_reducible refine settled_keep ?_ (by decide))
    | (with_reducible apply OutKeep.mono; with_reducible apply doDrainWritesDone_keep; decide)
    | with_reducible apply Keep.ite
    | with_reducible apply OutKeep.ite
    | with_reducible apply OutKeep.next
    | (show sub _ _ = true; decide)
    | split
    | dsimp only
    | with_reducible exact Keep.id _ _
    | intro _

theorem execDrainFlushDone_keep (s : State) : OutKeep ([.board, .regs, .mem, .log, .red, .ful, .cut, .sedge, .map, .peat, .rst, .warden, .syn, .cmd, .chk, .freeCtr, .outbox], 0x20ff8900bf700001ffa5f1d3e11df901014dc001f7000060200000000000) s (execDrainFlushDone s) := by
  unfold execDrainFlushDone
  repeat' first
    | with_reducible exact Keep.refl _ _
    | with_reducible assumption
    | (with_reducible refine settled_keep ?_ (by decide))
    | (with_reducible apply OutKeep.mono; with_reducible apply doDrainFlushDone_keep; decide)
    | with_reducible apply Keep.ite
    | with_reducible apply OutKeep.ite
    | with_reducible apply OutKeep.next
    | (show sub _ _ = true; decide)
    | split
    | dsimp only
    | with_reducible exact Keep.id _ _
    | intro _

theorem execDrainCatalogueDone_keep (s : State) : OutKeep ([.board, .regs, .mem, .log, .red, .ful, .cut, .sedge, .map, .peat, .rst, .warden, .syn, .cmd, .chk, .freeCtr, .outbox], 0x20ff8900bf700001ffa5f1d3e11df90101ed8001f7000060200000000000) s (execDrainCatalogueDone s) := by
  unfold execDrainCatalogueDone
  repeat' first
    | with_reducible exact Keep.refl _ _
    | with_reducible assumption
    | (with_reducible refine settled_keep ?_ (by decide))
    | (with_reducible apply OutKeep.mono; with_reducible apply doDrainCatalogueDone_keep; decide)
    | with_reducible apply Keep.ite
    | with_reducible apply OutKeep.ite
    | with_reducible apply OutKeep.next
    | (show sub _ _ = true; decide)
    | split
    | dsimp only
    | with_reducible exact Keep.id _ _
    | intro _

theorem execNvmeCommandError_keep (opcode : BitVec 8) (st : NvmeStatus) (s : State) : OutKeep ([.board, .regs, .mem, .log, .red, .ful, .cut, .sedge, .map, .peat, .rst, .warden, .syn, .cmd, .chk, .freeCtr, .outbox], 0x20ff8900bf700001ffa5f1d3e11df9013f4dc001f7000060200000000000) s (execNvmeCommandError opcode st s) := by
  unfold execNvmeCommandError
  repeat' first
    | with_reducible exact Keep.refl _ _
    | with_reducible assumption
    | (with_reducible refine settled_keep ?_ (by decide))
    | (with_reducible apply OutKeep.mono; with_reducible apply doNvmeCommandError_keep; decide)
    | with_reducible apply Keep.ite
    | with_reducible apply OutKeep.ite
    | with_reducible apply OutKeep.next
    | (show sub _ _ = true; decide)
    | split
    | dsimp only
    | with_reducible exact Keep.id _ _
    | intro _

theorem execNvmeTimeout_keep (opcode : BitVec 8) (s : State) : OutKeep ([.board, .regs, .mem, .log, .red, .ful, .cut, .sedge, .map, .peat, .rst, .warden, .syn, .cmd, .chk, .freeCtr, .outbox], 0x20ff8900bf700001ffa5f1d3e11df9013f4dc001f7000060200000000000) s (execNvmeTimeout opcode s) := by
  unfold execNvmeTimeout
  repeat' first
    | with_reducible exact Keep.refl _ _
    | with_reducible assumption
    | (with_reducible refine settled_keep ?_ (by decide))
    | (with_reducible apply OutKeep.mono; with_reducible apply doNvmeTimeout_keep; decide)
    | with_reducible apply Keep.ite
    | with_reducible apply OutKeep.ite
    | with_reducible apply OutKeep.next
    | (show sub _ _ = true; decide)
    | split
    | dsimp only
    | with_reducible exact Keep.id _ _
    | intro _

theorem execPeatLinkDown_keep (s : State) : OutKeep ([.board, .regs, .mem, .log, .red, .ful, .cut, .sedge, .map, .peat, .rst, .warden, .syn, .cmd, .chk, .freeCtr, .outbox], 0x20ff8900bf700001ffa5f1d3e11df901014dc001f7000060200000000000) s (execPeatLinkDown s) := by
  unfold execPeatLinkDown
  repeat' first
    | with_reducible exact Keep.refl _ _
    | with_reducible assumption
    | (with_reducible refine settled_keep ?_ (by decide))
    | (with_reducible apply OutKeep.mono; with_reducible apply doPeatLinkDown_keep; decide)
    | with_reducible apply Keep.ite
    | with_reducible apply OutKeep.ite
    | with_reducible apply OutKeep.next
    | (show sub _ _ = true; decide)
    | split
    | dsimp only
    | with_reducible exact Keep.id _ _
    | intro _

theorem execPeatReadyTimeout_keep (s : State) : OutKeep ([.board, .regs, .mem, .log, .red, .ful, .cut, .sedge, .map, .peat, .rst, .warden, .syn, .cmd, .chk, .freeCtr, .outbox], 0x20ff8900bf700001ffa5f1d3e11df901014dc001f7000060200000000000) s (execPeatReadyTimeout s) := by
  unfold execPeatReadyTimeout
  repeat' first
    | with_reducible exact Keep.refl _ _
    | with_reducible assumption
    | (with_reducible refine settled_keep ?_ (by decide))
    | (with_reducible apply OutKeep.mono; with_reducible apply doPeatReadyTimeout_keep; decide)
    | with_reducible apply Keep.ite
    | with_reducible apply OutKeep.ite
    | with_reducible apply OutKeep.next
    | (show sub _ _ = true; decide)
    | split
    | dsimp only
    | with_reducible exact Keep.id _ _
    | intro _

theorem execHeartbeatFrame_keep (n : Fin 42) (f : Frame) (s : State) : OutKeep ([.board, .regs, .mem, .log, .red, .ful, .cut, .sedge, .map, .peat, .rst, .warden, .syn, .cmd, .chk, .elect, .freeCtr, .outbox], 0x20ff8900bff00001ffa5f1d3e11df901014d8051f7000060200000000000) s (execHeartbeatFrame n f s) := by
  unfold execHeartbeatFrame
  repeat' first
    | with_reducible exact Keep.refl _ _
    | with_reducible assumption
    | (with_reducible refine settled_keep ?_ (by decide))
    | (with_reducible apply OutKeep.mono; with_reducible apply doHeartbeatFrame_keep; decide)
    | with_reducible apply Keep.ite
    | with_reducible apply OutKeep.ite
    | with_reducible apply OutKeep.next
    | (show sub _ _ = true; decide)
    | split
    | dsimp only
    | with_reducible exact Keep.id _ _
    | intro _

theorem execHeartbeatMiss_keep (rack : BitVec 10) (pos : BitVec 7) (s : State) : OutKeep ([.board, .regs, .mem, .log, .red, .ful, .cut, .sedge, .map, .peat, .rst, .warden, .syn, .cmd, .chk, .elect, .freeCtr, .outbox], 0x20ff8908bf700001ffa5f1d3e11df901014d8001f7000060300000000000) s (execHeartbeatMiss rack pos s) := by
  unfold execHeartbeatMiss
  repeat' first
    | with_reducible exact Keep.refl _ _
    | with_reducible assumption
    | (with_reducible refine settled_keep ?_ (by decide))
    | (with_reducible apply OutKeep.mono; with_reducible apply doHeartbeatMiss_keep; decide)
    | with_reducible apply Keep.ite
    | with_reducible apply OutKeep.ite
    | with_reducible apply OutKeep.next
    | (show sub _ _ = true; decide)
    | split
    | dsimp only
    | with_reducible exact Keep.id _ _
    | intro _

theorem execEngineNotice_keep (n : Fin 42) (f : Frame) (s : State) : OutKeep ([.board, .regs, .mem, .log, .red, .ful, .cut, .sedge, .map, .peat, .rst, .warden, .syn, .cmd, .chk, .freeCtr, .outbox], 0x20ff8908bff00c01ffa5f1d3e11df919014d8051f7000060200000000000) s (execEngineNotice n f s) := by
  unfold execEngineNotice
  repeat' first
    | with_reducible exact Keep.refl _ _
    | with_reducible assumption
    | (with_reducible refine settled_keep ?_ (by decide))
    | (with_reducible apply OutKeep.mono; with_reducible apply doEngineNotice_keep; decide)
    | with_reducible apply Keep.ite
    | with_reducible apply OutKeep.ite
    | with_reducible apply OutKeep.next
    | (show sub _ _ = true; decide)
    | split
    | dsimp only
    | with_reducible exact Keep.id _ _
    | intro _

theorem execHalt_keep (n : Fin 42) (f : Frame) (s : State) : OutKeep ([.board, .regs, .mem, .log, .red, .ful, .cut, .sedge, .map, .peat, .rst, .warden, .syn, .cmd, .chk, .freeCtr, .outbox], 0x20ff8900bff00001ffa5f1d3e11df901014d8051f7000060200000000000) s (execHalt n f s) := by
  unfold execHalt
  repeat' first
    | with_reducible exact Keep.refl _ _
    | with_reducible assumption
    | (with_reducible refine settled_keep ?_ (by decide))
    | (with_reducible apply OutKeep.mono; with_reducible apply doHalt_keep; decide)
    | with_reducible apply Keep.ite
    | with_reducible apply OutKeep.ite
    | with_reducible apply OutKeep.next
    | (show sub _ _ = true; decide)
    | split
    | dsimp only
    | with_reducible exact Keep.id _ _
    | intro _

theorem execCandidate_keep (n : Fin 42) (f : Frame) (s : State) : OutKeep ([.board, .regs, .mem, .log, .red, .ful, .cut, .sedge, .map, .peat, .rst, .warden, .syn, .cmd, .chk, .freeCtr, .outbox], 0x20ff8900bff00001ffa5f1d3e11df901014d8051f7000060200000000000) s (execCandidate n f s) := by
  unfold execCandidate
  repeat' first
    | with_reducible exact Keep.refl _ _
    | with_reducible assumption
    | (with_reducible refine settled_keep ?_ (by decide))
    | (with_reducible apply OutKeep.mono; with_reducible apply doCandidate_keep; decide)
    | with_reducible apply Keep.ite
    | with_reducible apply OutKeep.ite
    | with_reducible apply OutKeep.next
    | (show sub _ _ = true; decide)
    | split
    | dsimp only
    | with_reducible exact Keep.id _ _
    | intro _

theorem execTakeover_keep (t : Takeover) (s : State) : OutKeep ([.board, .boot, .store, .regs, .mem, .sump, .log, .mon, .slices, .placed, .bscan, .red, .ful, .cut, .sedge, .map, .peat, .sec, .rst, .warden, .syn, .tim, .cmd, .chk, .elect, .freeCtr, .outbox, .acksOut, .irqs, .owed, .tc3], 0xffffffe0bf7fc01ffff5f1f3f95dfde7c1fdb00ff7000860a00002cfa375) s (execTakeover t s) := by
  unfold execTakeover
  repeat' first
    | with_reducible exact Keep.refl _ _
    | with_reducible assumption
    | (with_reducible refine settled_keep ?_ (by decide))
    | (with_reducible apply OutKeep.mono; with_reducible apply doTakeover_keep; decide)
    | with_reducible apply Keep.ite
    | with_reducible apply OutKeep.ite
    | with_reducible apply OutKeep.next
    | (show sub _ _ = true; decide)
    | split
    | dsimp only
    | with_reducible exact Keep.id _ _
    | intro _

theorem execFenceFrame_keep (n : Fin 42) (f : Frame) (s : State) : OutKeep ([.board, .boot, .store, .regs, .mem, .sump, .log, .mon, .slices, .placed, .bscan, .red, .ful, .cut, .sedge, .map, .peat, .sec, .rst, .warden, .syn, .tim, .cmd, .chk, .elect, .freeCtr, .outbox, .owed, .tc3], 0x20ff8900bff00001ffa5f1d3e11df901014d8051f7000060200002c00001) s (execFenceFrame n f s) := by
  unfold execFenceFrame
  repeat' first
    | with_reducible exact Keep.refl _ _
    | with_reducible assumption
    | (with_reducible refine settled_keep ?_ (by decide))
    | (with_reducible apply OutKeep.mono; with_reducible apply doFenceFrame_keep; decide)
    | with_reducible apply Keep.ite
    | with_reducible apply OutKeep.ite
    | with_reducible apply OutKeep.next
    | (show sub _ _ = true; decide)
    | split
    | dsimp only
    | with_reducible exact Keep.id _ _
    | intro _

theorem execRollbackComplete_keep (s : State) : OutKeep ([.board, .regs, .mem, .log, .red, .ful, .cut, .sedge, .map, .peat, .rst, .warden, .syn, .cmd, .chk, .freeCtr, .outbox], 0x20ff8900bf700001ffa5f1d3e11df901014d8001f7000060200000000000) s (execRollbackComplete s) := by
  unfold execRollbackComplete
  repeat' first
    | with_reducible exact Keep.refl _ _
    | with_reducible assumption
    | (with_reducible refine settled_keep ?_ (by decide))
    | (with_reducible apply OutKeep.mono; with_reducible apply doRollbackComplete_keep; decide)
    | with_reducible apply Keep.ite
    | with_reducible apply OutKeep.ite
    | with_reducible apply OutKeep.next
    | (show sub _ _ = true; decide)
    | split
    | dsimp only
    | with_reducible exact Keep.id _ _
    | intro _

theorem execRefillComplete_keep (s : State) : OutKeep ([.board, .regs, .mem, .log, .red, .ful, .cut, .sedge, .map, .peat, .rst, .warden, .syn, .cmd, .chk, .freeCtr, .outbox], 0x20ff8900ff700001ffa5f1d3e11df901014d8001f7000060200000000000) s (execRefillComplete s) := by
  unfold execRefillComplete
  repeat' first
    | with_reducible exact Keep.refl _ _
    | with_reducible assumption
    | (with_reducible refine settled_keep ?_ (by decide))
    | (with_reducible apply OutKeep.mono; with_reducible apply doRefillComplete_keep; decide)
    | with_reducible apply Keep.ite
    | with_reducible apply OutKeep.ite
    | with_reducible apply OutKeep.next
    | (show sub _ _ = true; decide)
    | split
    | dsimp only
    | with_reducible exact Keep.id _ _
    | intro _

theorem execRefillWatchdogExpiry_keep (race : Race) (s : State) : OutKeep ([.board, .regs, .mem, .log, .red, .ful, .cut, .sedge, .map, .peat, .rst, .warden, .syn, .cmd, .chk, .freeCtr, .outbox], 0x20ff8900bf700001ffa5f1d3e11df901014d8001f7000060200000300000) s (execRefillWatchdogExpiry race s) := by
  unfold execRefillWatchdogExpiry
  repeat' first
    | with_reducible exact Keep.refl _ _
    | with_reducible assumption
    | (with_reducible refine settled_keep ?_ (by decide))
    | (with_reducible apply OutKeep.mono; with_reducible apply doRefillWatchdogExpiry_keep; decide)
    | with_reducible apply Keep.ite
    | with_reducible apply OutKeep.ite
    | with_reducible apply OutKeep.next
    | (show sub _ _ = true; decide)
    | split
    | dsimp only
    | with_reducible exact Keep.id _ _
    | intro _

theorem execVerifyComplete_keep (s : State) : OutKeep ([.board, .regs, .mem, .sump, .log, .red, .ful, .cut, .sedge, .map, .peat, .rst, .warden, .syn, .cmd, .chk, .freeCtr, .outbox], 0x20ff8901bf700001ffa5f1d3e11df901014d8001f7000060200000000000) s (execVerifyComplete s) := by
  unfold execVerifyComplete
  repeat' first
    | with_reducible exact Keep.refl _ _
    | with_reducible assumption
    | (with_reducible refine settled_keep ?_ (by decide))
    | (with_reducible apply OutKeep.mono; with_reducible apply doVerifyComplete_keep; decide)
    | with_reducible apply Keep.ite
    | with_reducible apply OutKeep.ite
    | with_reducible apply OutKeep.next
    | (show sub _ _ = true; decide)
    | split
    | dsimp only
    | with_reducible exact Keep.id _ _
    | intro _

theorem execBarrierArrive_keep (b : Fin 20) (s : State) : OutKeep ([.board, .regs, .mem, .log, .red, .ful, .cut, .sedge, .map, .peat, .rst, .warden, .syn, .cmd, .chk, .freeCtr, .outbox], 0x20ff8900bf700001ffa5f1d3e11df901014d8001f7000060a00000000000) s (execBarrierArrive b s) := by
  unfold execBarrierArrive
  repeat' first
    | with_reducible exact Keep.refl _ _
    | with_reducible assumption
    | (with_reducible refine settled_keep ?_ (by decide))
    | (with_reducible apply OutKeep.mono; with_reducible apply doBarrierArrive_keep; decide)
    | with_reducible apply Keep.ite
    | with_reducible apply OutKeep.ite
    | with_reducible apply OutKeep.next
    | (show sub _ _ = true; decide)
    | split
    | dsimp only
    | with_reducible exact Keep.id _ _
    | intro _

theorem execBarrierArrivalFrame_keep (n : Fin 42) (f : Frame) (s : State) : OutKeep ([.board, .regs, .mem, .log, .red, .ful, .cut, .sedge, .map, .peat, .rst, .warden, .syn, .cmd, .chk, .freeCtr, .outbox], 0x20ff8900bf700001ffa5f1d3e11df901014d8051f7000060a00000000000) s (execBarrierArrivalFrame n f s) := by
  unfold execBarrierArrivalFrame
  repeat' first
    | with_reducible exact Keep.refl _ _
    | with_reducible assumption
    | (with_reducible refine settled_keep ?_ (by decide))
    | (with_reducible apply OutKeep.mono; with_reducible apply doBarrierArrivalFrame_keep; decide)
    | with_reducible apply Keep.ite
    | with_reducible apply OutKeep.ite
    | with_reducible apply OutKeep.next
    | (show sub _ _ = true; decide)
    | split
    | dsimp only
    | with_reducible exact Keep.id _ _
    | intro _

theorem execTreeArrivalUp_keep (n : Fin 42) (f : Frame) (s : State) : OutKeep ([.board, .regs, .mem, .log, .red, .ful, .cut, .sedge, .map, .peat, .rst, .warden, .syn, .cmd, .chk, .freeCtr, .outbox], 0x20ff8900bf700001ffa5f1d3e11df901014d8051f7000060a00000000000) s (execTreeArrivalUp n f s) := by
  unfold execTreeArrivalUp
  repeat' first
    | with_reducible exact Keep.refl _ _
    | with_reducible assumption
    | (with_reducible refine settled_keep ?_ (by decide))
    | (with_reducible apply OutKeep.mono; with_reducible apply doTreeArrivalUp_keep; decide)
    | with_reducible apply Keep.ite
    | with_reducible apply OutKeep.ite
    | with_reducible apply OutKeep.next
    | (show sub _ _ = true; decide)
    | split
    | dsimp only
    | with_reducible exact Keep.id _ _
    | intro _

theorem execTreeCompletion_keep (n : Fin 42) (f : Frame) (s : State) : OutKeep ([.board, .regs, .mem, .log, .red, .ful, .cut, .sedge, .map, .peat, .rst, .warden, .syn, .cmd, .chk, .freeCtr, .outbox], 0x20ff8900bf700001ffa5f1d3e11df901014d8051f7000060200000000000) s (execTreeCompletion n f s) := by
  unfold execTreeCompletion
  repeat' first
    | with_reducible exact Keep.refl _ _
    | with_reducible assumption
    | (with_reducible refine settled_keep ?_ (by decide))
    | (with_reducible apply OutKeep.mono; with_reducible apply doTreeCompletion_keep; decide)
    | with_reducible apply Keep.ite
    | with_reducible apply OutKeep.ite
    | with_reducible apply OutKeep.next
    | (show sub _ _ = true; decide)
    | split
    | dsimp only
    | with_reducible exact Keep.id _ _
    | intro _

theorem execBarrierAbortFrame_keep (n : Fin 42) (f : Frame) (s : State) : OutKeep ([.board, .regs, .mem, .log, .red, .ful, .cut, .sedge, .map, .peat, .rst, .warden, .syn, .cmd, .chk, .freeCtr, .outbox], 0x20ff8900bf700001ffa5f1d7e11df901014d8051f7000060200000000000) s (execBarrierAbortFrame n f s) := by
  unfold execBarrierAbortFrame
  repeat' first
    | with_reducible exact Keep.refl _ _
    | with_reducible assumption
    | (with_reducible refine settled_keep ?_ (by decide))
    | (with_reducible apply OutKeep.mono; with_reducible apply doBarrierAbortFrame_keep; decide)
    | with_reducible apply Keep.ite
    | with_reducible apply OutKeep.ite
    | with_reducible apply OutKeep.next
    | (show sub _ _ = true; decide)
    | split
    | dsimp only
    | with_reducible exact Keep.id _ _
    | intro _

theorem execBarrierTimeout_keep (b : Fin 20) (race : Race) (s : State) : OutKeep ([.board, .regs, .mem, .log, .red, .ful, .cut, .sedge, .map, .peat, .rst, .warden, .syn, .cmd, .chk, .freeCtr, .outbox], 0x20ff8900bf700001ffa5f1dbe11df901014d8001f7000060200000300000) s (execBarrierTimeout b race s) := by
  unfold execBarrierTimeout
  repeat' first
    | with_reducible exact Keep.refl _ _
    | with_reducible assumption
    | (with_reducible refine settled_keep ?_ (by decide))
    | (with_reducible apply OutKeep.mono; with_reducible apply doBarrierTimeout_keep; decide)
    | with_reducible apply Keep.ite
    | with_reducible apply OutKeep.ite
    | with_reducible apply OutKeep.next
    | (show sub _ _ = true; decide)
    | split
    | dsimp only
    | with_reducible exact Keep.id _ _
    | intro _

theorem execBarrierEnable_keep (b : Fin 20) (value : W64) (s : State) : OutKeep ([.board, .regs, .mem, .log, .red, .ful, .cut, .sedge, .map, .peat, .rst, .warden, .syn, .cmd, .chk, .freeCtr, .outbox], 0x22ff8900bf700001ffa5f1d3e11df901014d8001f7000060a00000000000) s (execBarrierEnable b value s) := by
  unfold execBarrierEnable
  repeat' first
    | with_reducible exact Keep.refl _ _
    | with_reducible assumption
    | (with_reducible refine settled_keep ?_ (by decide))
    | (with_reducible apply OutKeep.mono; with_reducible apply doBarrierEnable_keep; decide)
    | with_reducible apply Keep.ite
    | with_reducible apply OutKeep.ite
    | with_reducible apply OutKeep.next
    | (show sub _ _ = true; decide)
    | split
    | dsimp only
    | with_reducible exact Keep.id _ _
    | intro _

theorem execBarrierDisable_keep (b : Fin 20) (value : W64) (s : State) : OutKeep ([.board, .regs, .mem, .log, .red, .ful, .cut, .sedge, .map, .peat, .rst, .warden, .syn, .cmd, .chk, .freeCtr, .outbox], 0x22ff8900bf700001ffa5f1d3e11df901014d8001f7000060a00000000000) s (execBarrierDisable b value s) := by
  unfold execBarrierDisable
  repeat' first
    | with_reducible exact Keep.refl _ _
    | with_reducible assumption
    | (with_reducible refine settled_keep ?_ (by decide))
    | (with_reducible apply OutKeep.mono; with_reducible apply doBarrierDisable_keep; decide)
    | with_reducible apply Keep.ite
    | with_reducible apply OutKeep.ite
    | with_reducible apply OutKeep.next
    | (show sub _ _ = true; decide)
    | split
    | dsimp only
    | with_reducible exact Keep.id _ _
    | intro _

theorem execFlush_keep (k : Fin 128) (s : State) : OutKeep ([.board, .regs, .mem, .log, .red, .ful, .cut, .sedge, .map, .peat, .rst, .warden, .syn, .cmd, .chk, .freeCtr, .outbox], 0x20ff8900bf700001ffa5f1d3e11df901014d8001f7000060200000000000) s (execFlush k s) := by
  unfold execFlush
  repeat' first
    | with_reducible exact Keep.refl _ _
    | with_reducible assumption
    | (with_reducible refine settled_keep ?_ (by decide))
    | (with_reducible apply OutKeep.mono; with_reducible apply doFlush_keep; decide)
    | with_reducible apply Keep.ite
    | with_reducible apply OutKeep.ite
    | with_reducible apply OutKeep.next
    | (show sub _ _ = true; decide)
    | split
    | dsimp only
    | with_reducible exact Keep.id _ _
    | intro _

theorem execScrub_keep (k : Fin 128) (s : State) : OutKeep ([.board, .regs, .mem, .log, .red, .ful, .cut, .sedge, .map, .peat, .rst, .warden, .syn, .cmd, .chk, .freeCtr, .outbox], 0x20ff8900bf720011ffa5f1d3e11df901014d8001f7000060200000000000) s (execScrub k s) := by
  unfold execScrub
  repeat' first
    | with_reducible exact Keep.refl _ _
    | with_reducible assumption
    | (with_reducible refine settled_keep ?_ (by decide))
    | (with_reducible apply OutKeep.mono; with_reducible apply doScrub_keep; decide)
    | with_reducible apply Keep.ite
    | with_reducible apply OutKeep.ite
    | with_reducible apply OutKeep.next
    | (show sub _ _ = true; decide)
    | split
    | dsimp only
    | with_reducible exact Keep.id _ _
    | intro _

theorem execRestore_keep (k : Fin 128) (s : State) : OutKeep ([.board, .regs, .mem, .log, .red, .ful, .cut, .sedge, .map, .peat, .rst, .warden, .syn, .cmd, .chk, .freeCtr, .outbox], 0x20ff8900bf700001ffa5f1d3e11df901014d8001f7000060200000000000) s (execRestore k s) := by
  unfold execRestore
  repeat' first
    | with_reducible exact Keep.refl _ _
    | with_reducible assumption
    | (with_reducible refine settled_keep ?_ (by decide))
    | (with_reducible apply OutKeep.mono; with_reducible apply doRestore_keep; decide)
    | with_reducible apply Keep.ite
    | with_reducible apply OutKeep.ite
    | with_reducible apply OutKeep.next
    | (show sub _ _ = true; decide)
    | split
    | dsimp only
    | with_reducible exact Keep.id _ _
    | intro _

theorem execRestoreElastic_keep (k : Fin 128) (s : State) : OutKeep ([.board, .regs, .mem, .log, .red, .ful, .cut, .sedge, .map, .peat, .rst, .warden, .syn, .cmd, .chk, .freeCtr, .outbox], 0x20ff8900ff700001ffa5f1d3e11df901014d8001f7000060200000000000) s (execRestoreElastic k s) := by
  unfold execRestoreElastic
  repeat' first
    | with_reducible exact Keep.refl _ _
    | with_reducible assumption
    | (with_reducible refine settled_keep ?_ (by decide))
    | (with_reducible apply OutKeep.mono; with_reducible apply doRestoreElastic_keep; decide)
    | with_reducible apply Keep.ite
    | with_reducible apply OutKeep.ite
    | with_reducible apply OutKeep.next
    | (show sub _ _ = true; decide)
    | split
    | dsimp only
    | with_reducible exact Keep.id _ _
    | intro _

theorem execBootRomStart_keep (check : RomCheck) (s : State) : OutKeep ([.board, .boot, .store, .regs, .mem, .sump, .log, .mon, .slices, .placed, .bscan, .red, .ful, .cut, .sedge, .map, .peat, .sec, .rst, .warden, .syn, .tim, .cmd, .chk, .elect, .freeCtr, .outbox, .owed, .tc3], 0x20ff8900bf720011ffa5f1d3e11df90101fda001f70004702001fac00001) s (execBootRomStart check s) := by
  unfold execBootRomStart
  repeat' first
    | with_reducible exact Keep.refl _ _
    | with_reducible assumption
    | (with_reducible refine settled_keep ?_ (by decide))
    | (with_reducible apply OutKeep.mono; with_reducible apply doBootRomStart_keep; decide)
    | with_reducible apply Keep.ite
    | with_reducible apply OutKeep.ite
    | with_reducible apply OutKeep.next
    | (show sub _ _ = true; decide)
    | split
    | dsimp only
    | with_reducible exact Keep.id _ _
    | intro _

theorem execStartOk_keep (t : TableCheck) (s : State) : OutKeep ([.board, .boot, .store, .regs, .mem, .sump, .log, .mon, .slices, .placed, .bscan, .red, .ful, .cut, .sedge, .map, .peat, .sec, .rst, .warden, .syn, .tim, .cmd, .chk, .elect, .freeCtr, .outbox, .owed, .tc3], 0x20ff8900bf700041ffa5f1d3e11df901014d8009f7000370200002c00001) s (execStartOk t s) := by
  unfold execStartOk
  repeat' first
    | with_reducible exact Keep.refl _ _
    | with_reducible assumption
    | (with_reducible refine settled_keep ?_ (by decide))
    | (with_reducible apply OutKeep.mono; with_reducible apply doStartOk_keep; decide)
    | with_reducible apply Keep.ite
    | with_reducible apply OutKeep.ite
    | with_reducible apply OutKeep.next
    | (show sub _ _ = true; decide)
    | split
    | dsimp only
    | with_reducible exact Keep.id _ _
    | intro _

theorem execStartWatchdogExpiry_keep (s : State) : OutKeep ([.board, .boot, .store, .regs, .mem, .sump, .log, .mon, .slices, .placed, .bscan, .red, .ful, .cut, .sedge, .map, .peat, .sec, .rst, .warden, .syn, .tim, .cmd, .chk, .elect, .freeCtr, .outbox, .owed, .tc3], 0x20ff8900bf700001ffa5f1d3e11df901014d8001f7000060200002c00001) s (execStartWatchdogExpiry s) := by
  unfold execStartWatchdogExpiry
  repeat' first
    | with_reducible exact Keep.refl _ _
    | with_reducible assumption
    | (with_reducible refine settled_keep ?_ (by decide))
    | (with_reducible apply OutKeep.mono; with_reducible apply doStartWatchdogExpiry_keep; decide)
    | with_reducible apply Keep.ite
    | with_reducible apply OutKeep.ite
    | with_reducible apply OutKeep.next
    | (show sub _ _ = true; decide)
    | split
    | dsimp only
    | with_reducible exact Keep.id _ _
    | intro _

theorem execCoreWatchdogExpiry_keep (core : Fin 4) (s : State) : OutKeep ([.board, .boot, .store, .regs, .mem, .sump, .log, .mon, .slices, .placed, .bscan, .red, .ful, .cut, .sedge, .map, .peat, .sec, .rst, .warden, .syn, .tim, .cmd, .chk, .elect, .freeCtr, .outbox, .owed, .tc3], 0x20ff8900bf700001ffa5f1d3e11df901014d8001f7000061200002c00001) s (execCoreWatchdogExpiry core s) := by
  unfold execCoreWatchdogExpiry
  repeat' first
    | with_reducible exact Keep.refl _ _
    | with_reducible assumption
    | (with_reducible refine settled_keep ?_ (by decide))
    | (with_reducible apply OutKeep.mono; with_reducible apply doCoreWatchdogExpiry_keep; decide)
    | with_reducible apply Keep.ite
    | with_reducible apply OutKeep.ite
    | with_reducible apply OutKeep.next
    | (show sub _ _ = true; decide)
    | split
    | dsimp only
    | with_reducible exact Keep.id _ _
    | intro _

theorem execSramUncorrectable_keep (sram : Sram) (word : W32) (s : State) : OutKeep ([.board, .boot, .store, .regs, .mem, .sump, .log, .mon, .slices, .placed, .bscan, .red, .ful, .cut, .sedge, .map, .peat, .sec, .rst, .warden, .syn, .tim, .cmd, .chk, .elect, .freeCtr, .outbox, .acksOut, .irqs, .bx3Out, .owed, .tc3], 0x20ff8900bf700041ffa5f1d3e11dfd01014dc201f70000ec280002c00375) s (execSramUncorrectable sram word s) := by
  unfold execSramUncorrectable
  repeat' first
    | with_reducible exact Keep.refl _ _
    | with_reducible assumption
    | (with_reducible refine settled_keep ?_ (by decide))
    | (with_reducible apply OutKeep.mono; with_reducible apply doSramUncorrectable_keep; decide)
    | with_reducible apply Keep.ite
    | with_reducible apply OutKeep.ite
    | with_reducible apply OutKeep.next
    | (show sub _ _ = true; decide)
    | split
    | dsimp only
    | with_reducible exact Keep.id _ _
    | intro _

theorem execElectionTimer_keep (s : State) : OutKeep ([.board, .regs, .mem, .log, .red, .ful, .cut, .sedge, .map, .peat, .rst, .warden, .syn, .cmd, .chk, .elect, .freeCtr, .outbox], 0x20ff8908bf700001ffa5f1d3e11df901014d8001f7000060600000000000) s (execElectionTimer s) := by
  unfold execElectionTimer
  repeat' first
    | with_reducible exact Keep.refl _ _
    | with_reducible assumption
    | (with_reducible refine settled_keep ?_ (by decide))
    | (with_reducible apply OutKeep.mono; with_reducible apply doElectionTimer_keep; decide)
    | with_reducible apply Keep.ite
    | with_reducible apply OutKeep.ite
    | with_reducible apply OutKeep.next
    | (show sub _ _ = true; decide)
    | split
    | dsimp only
    | with_reducible exact Keep.id _ _
    | intro _

theorem execActivationReset_keep (s : State) : OutKeep ([.board, .boot, .store, .regs, .mem, .sump, .log, .mon, .slices, .placed, .bscan, .red, .ful, .cut, .sedge, .map, .peat, .sec, .rst, .warden, .syn, .tim, .cmd, .chk, .elect, .freeCtr, .outbox, .owed, .tc3], 0x20ff8900bf700001ffa5f1d3e11df901014d8001f7000060200002c00001) s (execActivationReset s) := by
  unfold execActivationReset
  repeat' first
    | with_reducible exact Keep.refl _ _
    | with_reducible assumption
    | (with_reducible refine settled_keep ?_ (by decide))
    | (with_reducible apply OutKeep.mono; with_reducible apply doActivationReset_keep; decide)
    | with_reducible apply Keep.ite
    | with_reducible apply OutKeep.ite
    | with_reducible apply OutKeep.next
    | (show sub _ _ = true; decide)
    | split
    | dsimp only
    | with_reducible exact Keep.id _ _
    | intro _

theorem execPowerFailDeadline_keep (limit : PfailLimit) (s : State) : OutKeep ([.board, .regs, .mem, .log, .red, .ful, .cut, .sedge, .map, .peat, .rst, .warden, .syn, .cmd, .chk, .freeCtr, .outbox], 0x20ff8900bf700001ffa5f1d3e11df901014dc001f7000060200000000000) s (execPowerFailDeadline limit s) := by
  unfold execPowerFailDeadline
  repeat' first
    | with_reducible exact Keep.refl _ _
    | with_reducible assumption
    | (with_reducible refine settled_keep ?_ (by decide))
    | (with_reducible apply OutKeep.mono; with_reducible apply doPowerFailDeadline_keep; decide)
    | with_reducible apply Keep.ite
    | with_reducible apply OutKeep.ite
    | with_reducible apply OutKeep.next
    | (show sub _ _ = true; decide)
    | split
    | dsimp only
    | with_reducible exact Keep.id _ _
    | intro _

end Sys2Proof.Machine
end

