-- ==== Sys2Proof/Laws/Quiet.lean ====
section
/-! SUPPORT. In a quiet state nothing follows: settling leaves it as it is. -/
namespace Sys2Proof.Machine

variable {s : State}

theorem barNext_of_idle (b : Nat) (h : ((s.bar b).st == .opened && !(s.bar b).queue.isEmpty) = false) : s.barNext b = s := by
  unfold State.barNext
  cases h1 : (s.bar b).st <;> cases h2 : (s.bar b).queue <;> simp_all <;> rfl

theorem foldl_stays {α : Type} (f : State → α → State) (l : List α) (h : ∀ a ∈ l, f s a = s) : l.foldl f s = s := by
  induction l with
  | nil => rfl
  | cons a l ih =>
    rw [List.foldl_cons, h a (List.mem_cons_self ..)]
    exact ih fun b hb => h b (List.mem_cons_of_mem _ hb)

theorem commitFlushN_of_none (n : Nat) (h : (match s.cut.cuts.reverse.find? (fun c => !c.arrived) with
    | some c => c.arrive.isNone
    | none => true) = true) : s.commitFlushN n = s := by
  cases n with
  | zero => rfl
  | succ n =>
    unfold State.commitFlushN
    cases hc : s.cut.cuts.reverse.find? (fun c => !c.arrived) with
    | none => rfl
    | some c =>
      simp only [hc, Option.isNone_iff_eq_none] at h
      simp only [h]

theorem doneFlushN_of_none (n : Nat) (h : (match s.cut.cuts.reverse.find? (fun c => !c.doneOut) with
    | some c => !(c.st.isFinal && c.arrived && !(c.pinned && c.drainStatus.isNone))
    | none => true) = true) : s.doneFlushN n = s := by
  cases n with
  | zero => rfl
  | succ n =>
    unfold State.doneFlushN
    cases hc : s.cut.cuts.reverse.find? (fun c => !c.doneOut) with
    | none => rfl
    | some c =>
      simp only [hc, Bool.not_eq_true'] at h
      simp only [h, Bool.false_and, Bool.false_eq_true, if_false]

theorem giveN_of_none (n : Nat) (hr : s.syn.results.isEmpty = true) (hb : s.barsNext = s) : s.giveN n = s := by
  cases n with
  | zero => rfl
  | succ n => simp only [State.giveN, hb, hr, if_true]

/-- Nothing follows in a quiet state. -/
theorem settle_of_quiet (h : s.quiet = true) : s.settle = s := by
  simp only [State.quiet, Bool.and_eq_true, Bool.not_eq_true'] at h
  obtain ⟨⟨⟨⟨⟨⟨⟨⟨⟨⟨hr, hb⟩, hc⟩, hd⟩, ho⟩, hw⟩, hj⟩, hj'⟩, hx⟩, hp⟩, hf⟩ := h
  have e1 : s.ownAborts = s := by simp [State.ownAborts, ho]
  have e2 : s.cutFlush = s := by rw [State.cutFlush, commitFlushN_of_none _ hc, doneFlushN_of_none _ hd]
  have e3 : s.barsNext = s := foldl_stays _ _ fun b hm => barNext_of_idle b (Bool.not_eq_true' _ ▸ List.all_eq_true.1 hb b hm)
  have e4 : s.giveN 256 = s := giveN_of_none _ hr e3
  have e5 : s.chosenLate = s := by simp [State.chosenLate, hw]
  have e6 : s.leadReplans = s := by
    unfold State.leadReplans
    split
    · next hl =>
      simp only [Bool.and_eq_true] at hl
      simp only [State.sourceless, hl.1.1.1.1.1, if_true]
      simp_all [bne]
    · rfl
  have e7 : s.restoreEnd = s := by
    unfold State.restoreEnd
    simp_all
  have e8 : s.peatNextFinal = s := by
    unfold State.peatNextFinal
    simp_all
  have e9 : s.flushLate = s := by simp [State.flushLate, hf]
  simp only [State.settle, e1, e2, e4, e5, e6, e7, e8, e9]

/-- What a command with settled outcome answers where nothing follows. -/
theorem settled_of_quiet (h : s.quiet = true) : settled (.next s) = .next s := by rw [settled, settle_of_quiet h]

end Sys2Proof.Machine
end

