-- ==== Sys2Proof/Laws/State.lean ====
section
/-! SUPPORT. What each update of a state leaves and sets, field by field; and the invariant of states written out. -/
namespace Sys2Proof.Machine

/-! ## A register -/

@[simp] theorem State.setReg_part (s : State) (off : Nat) (v : W64) : (s.setReg off v).part = s.part := rfl
@[simp] theorem State.setReg_board (s : State) (off : Nat) (v : W64) : (s.setReg off v).board = s.board := rfl
@[simp] theorem State.setReg_boot (s : State) (off : Nat) (v : W64) : (s.setReg off v).boot = s.boot := rfl
@[simp] theorem State.setReg_store (s : State) (off : Nat) (v : W64) : (s.setReg off v).store = s.store := rfl
@[simp] theorem State.setReg_regs (s : State) (off : Nat) (v : W64) : (s.setReg off v).regs = if v = regReset off then kdel s.regs off else kset s.regs off v := rfl
@[simp] theorem State.setReg_mem (s : State) (off : Nat) (v : W64) : (s.setReg off v).mem = s.mem := rfl
@[simp] theorem State.setReg_sump (s : State) (off : Nat) (v : W64) : (s.setReg off v).sump = s.sump := rfl
@[simp] theorem State.setReg_log (s : State) (off : Nat) (v : W64) : (s.setReg off v).log = s.log := rfl
@[simp] theorem State.setReg_mon (s : State) (off : Nat) (v : W64) : (s.setReg off v).mon = s.mon := rfl
@[simp] theorem State.setReg_slices (s : State) (off : Nat) (v : W64) : (s.setReg off v).slices = s.slices := rfl
@[simp] theorem State.setReg_placed (s : State) (off : Nat) (v : W64) : (s.setReg off v).placed = s.placed := rfl
@[simp] theorem State.setReg_bscan (s : State) (off : Nat) (v : W64) : (s.setReg off v).bscan = s.bscan := rfl
@[simp] theorem State.setReg_red (s : State) (off : Nat) (v : W64) : (s.setReg off v).red = s.red := rfl
@[simp] theorem State.setReg_ful (s : State) (off : Nat) (v : W64) : (s.setReg off v).ful = s.ful := rfl
@[simp] theorem State.setReg_cut (s : State) (off : Nat) (v : W64) : (s.setReg off v).cut = s.cut := rfl
@[simp] theorem State.setReg_sedge (s : State) (off : Nat) (v : W64) : (s.setReg off v).sedge = s.sedge := rfl
@[simp] theorem State.setReg_map (s : State) (off : Nat) (v : W64) : (s.setReg off v).map = s.map := rfl
@[simp] theorem State.setReg_peat (s : State) (off : Nat) (v : W64) : (s.setReg off v).peat = s.peat := rfl
@[simp] theorem State.setReg_sec (s : State) (off : Nat) (v : W64) : (s.setReg off v).sec = s.sec := rfl
@[simp] theorem State.setReg_rst (s : State) (off : Nat) (v : W64) : (s.setReg off v).rst = s.rst := rfl
@[simp] theorem State.setReg_warden (s : State) (off : Nat) (v : W64) : (s.setReg off v).warden = s.warden := rfl
@[simp] theorem State.setReg_syn (s : State) (off : Nat) (v : W64) : (s.setReg off v).syn = s.syn := rfl
@[simp] theorem State.setReg_tim (s : State) (off : Nat) (v : W64) : (s.setReg off v).tim = s.tim := rfl
@[simp] theorem State.setReg_cmd (s : State) (off : Nat) (v : W64) : (s.setReg off v).cmd = s.cmd := rfl
@[simp] theorem State.setReg_chk (s : State) (off : Nat) (v : W64) : (s.setReg off v).chk = s.chk := rfl
@[simp] theorem State.setReg_elect (s : State) (off : Nat) (v : W64) : (s.setReg off v).elect = s.elect := rfl
@[simp] theorem State.setReg_now (s : State) (off : Nat) (v : W64) : (s.setReg off v).now = s.now := rfl
@[simp] theorem State.setReg_freeCtr (s : State) (off : Nat) (v : W64) : (s.setReg off v).freeCtr = s.freeCtr := rfl
@[simp] theorem State.setReg_busRead (s : State) (off : Nat) (v : W64) : (s.setReg off v).busRead = s.busRead := rfl
@[simp] theorem State.setReg_outbox (s : State) (off : Nat) (v : W64) : (s.setReg off v).outbox = s.outbox := rfl
@[simp] theorem State.setReg_acksOut (s : State) (off : Nat) (v : W64) : (s.setReg off v).acksOut = s.acksOut := rfl
@[simp] theorem State.setReg_irqs (s : State) (off : Nat) (v : W64) : (s.setReg off v).irqs = s.irqs := rfl
@[simp] theorem State.setReg_bx3Out (s : State) (off : Nat) (v : W64) : (s.setReg off v).bx3Out = s.bx3Out := rfl
@[simp] theorem State.setReg_wire (s : State) (off : Nat) (v : W64) : (s.setReg off v).wire = s.wire := rfl
@[simp] theorem State.setReg_owed (s : State) (off : Nat) (v : W64) : (s.setReg off v).owed = s.owed := rfl
@[simp] theorem State.setReg_tc3 (s : State) (off : Nat) (v : W64) : (s.setReg off v).tc3 = s.tc3 := rfl
@[simp] theorem State.setReg_pending (s : State) (off : Nat) (v : W64) : (s.setReg off v).pending = s.pending := rfl

/-! ## A field of a register -/

@[simp] theorem State.wr_part (s : State) (f : Fld) (v : Nat) : (s.wr f v).part = s.part := rfl
@[simp] theorem State.wr_board (s : State) (f : Fld) (v : Nat) : (s.wr f v).board = s.board := rfl
@[simp] theorem State.wr_boot (s : State) (f : Fld) (v : Nat) : (s.wr f v).boot = s.boot := rfl
@[simp] theorem State.wr_store (s : State) (f : Fld) (v : Nat) : (s.wr f v).store = s.store := rfl
@[simp] theorem State.wr_mem (s : State) (f : Fld) (v : Nat) : (s.wr f v).mem = s.mem := rfl
@[simp] theorem State.wr_sump (s : State) (f : Fld) (v : Nat) : (s.wr f v).sump = s.sump := rfl
@[simp] theorem State.wr_log (s : State) (f : Fld) (v : Nat) : (s.wr f v).log = s.log := rfl
@[simp] theorem State.wr_mon (s : State) (f : Fld) (v : Nat) : (s.wr f v).mon = s.mon := rfl
@[simp] theorem State.wr_slices (s : State) (f : Fld) (v : Nat) : (s.wr f v).slices = s.slices := rfl
@[simp] theorem State.wr_placed (s : State) (f : Fld) (v : Nat) : (s.wr f v).placed = s.placed := rfl
@[simp] theorem State.wr_bscan (s : State) (f : Fld) (v : Nat) : (s.wr f v).bscan = s.bscan := rfl
@[simp] theorem State.wr_red (s : State) (f : Fld) (v : Nat) : (s.wr f v).red = s.red := rfl
@[simp] theorem State.wr_ful (s : State) (f : Fld) (v : Nat) : (s.wr f v).ful = s.ful := rfl
@[simp] theorem State.wr_cut (s : State) (f : Fld) (v : Nat) : (s.wr f v).cut = s.cut := rfl
@[simp] theorem State.wr_sedge (s : State) (f : Fld) (v : Nat) : (s.wr f v).sedge = s.sedge := rfl
@[simp] theorem State.wr_map (s : State) (f : Fld) (v : Nat) : (s.wr f v).map = s.map := rfl
@[simp] theorem State.wr_peat (s : State) (f : Fld) (v : Nat) : (s.wr f v).peat = s.peat := rfl
@[simp] theorem State.wr_sec (s : State) (f : Fld) (v : Nat) : (s.wr f v).sec = s.sec := rfl
@[simp] theorem State.wr_rst (s : State) (f : Fld) (v : Nat) : (s.wr f v).rst = s.rst := rfl
@[simp] theorem State.wr_warden (s : State) (f : Fld) (v : Nat) : (s.wr f v).warden = s.warden := rfl
@[simp] theorem State.wr_syn (s : State) (f : Fld) (v : Nat) : (s.wr f v).syn = s.syn := rfl
@[simp] theorem State.wr_tim (s : State) (f : Fld) (v : Nat) : (s.wr f v).tim = s.tim := rfl
@[simp] theorem State.wr_cmd (s : State) (f : Fld) (v : Nat) : (s.wr f v).cmd = s.cmd := rfl
@[simp] theorem State.wr_chk (s : State) (f : Fld) (v : Nat) : (s.wr f v).chk = s.chk := rfl
@[simp] theorem State.wr_elect (s : State) (f : Fld) (v : Nat) : (s.wr f v).elect = s.elect := rfl
@[simp] theorem State.wr_now (s : State) (f : Fld) (v : Nat) : (s.wr f v).now = s.now := rfl
@[simp] theorem State.wr_freeCtr (s : State) (f : Fld) (v : Nat) : (s.wr f v).freeCtr = s.freeCtr := rfl
@[simp] theorem State.wr_busRead (s : State) (f : Fld) (v : Nat) : (s.wr f v).busRead = s.busRead := rfl
@[simp] theorem State.wr_outbox (s : State) (f : Fld) (v : Nat) : (s.wr f v).outbox = s.outbox := rfl
@[simp] theorem State.wr_acksOut (s : State) (f : Fld) (v : Nat) : (s.wr f v).acksOut = s.acksOut := rfl
@[simp] theorem State.wr_irqs (s : State) (f : Fld) (v : Nat) : (s.wr f v).irqs = s.irqs := rfl
@[simp] theorem State.wr_bx3Out (s : State) (f : Fld) (v : Nat) : (s.wr f v).bx3Out = s.bx3Out := rfl
@[simp] theorem State.wr_wire (s : State) (f : Fld) (v : Nat) : (s.wr f v).wire = s.wire := rfl
@[simp] theorem State.wr_owed (s : State) (f : Fld) (v : Nat) : (s.wr f v).owed = s.owed := rfl
@[simp] theorem State.wr_tc3 (s : State) (f : Fld) (v : Nat) : (s.wr f v).tc3 = s.tc3 := rfl
@[simp] theorem State.wr_pending (s : State) (f : Fld) (v : Nat) : (s.wr f v).pending = s.pending := rfl

/-! ## Bytes of BX3 memory -/

@[simp] theorem State.store'_part (s : State) (a : Nat) (bs : List Byte) : (s.store' a bs).part = s.part := rfl
@[simp] theorem State.store'_board (s : State) (a : Nat) (bs : List Byte) : (s.store' a bs).board = s.board := rfl
@[simp] theorem State.store'_boot (s : State) (a : Nat) (bs : List Byte) : (s.store' a bs).boot = s.boot := rfl
@[simp] theorem State.store'_store (s : State) (a : Nat) (bs : List Byte) : (s.store' a bs).store = s.store := rfl
@[simp] theorem State.store'_regs (s : State) (a : Nat) (bs : List Byte) : (s.store' a bs).regs = s.regs := rfl
@[simp] theorem State.store'_mem (s : State) (a : Nat) (bs : List Byte) : (s.store' a bs).mem = Memory.putBytes s.mem a bs := rfl
@[simp] theorem State.store'_sump (s : State) (a : Nat) (bs : List Byte) : (s.store' a bs).sump = s.sump := rfl
@[simp] theorem State.store'_log (s : State) (a : Nat) (bs : List Byte) : (s.store' a bs).log = s.log := rfl
@[simp] theorem State.store'_mon (s : State) (a : Nat) (bs : List Byte) : (s.store' a bs).mon = s.mon := rfl
@[simp] theorem State.store'_slices (s : State) (a : Nat) (bs : List Byte) : (s.store' a bs).slices = s.slices := rfl
@[simp] theorem State.store'_placed (s : State) (a : Nat) (bs : List Byte) : (s.store' a bs).placed = s.placed := rfl
@[simp] theorem State.store'_bscan (s : State) (a : Nat) (bs : List Byte) : (s.store' a bs).bscan = s.bscan := rfl
@[simp] theorem State.store'_red (s : State) (a : Nat) (bs : List Byte) : (s.store' a bs).red = s.red := rfl
@[simp] theorem State.store'_ful (s : State) (a : Nat) (bs : List Byte) : (s.store' a bs).ful = s.ful := rfl
@[simp] theorem State.store'_cut (s : State) (a : Nat) (bs : List Byte) : (s.store' a bs).cut = s.cut := rfl
@[simp] theorem State.store'_sedge (s : State) (a : Nat) (bs : List Byte) : (s.store' a bs).sedge = s.sedge := rfl
@[simp] theorem State.store'_map (s : State) (a : Nat) (bs : List Byte) : (s.store' a bs).map = s.map := rfl
@[simp] theorem State.store'_peat (s : State) (a : Nat) (bs : List Byte) : (s.store' a bs).peat = s.peat := rfl
@[simp] theorem State.store'_sec (s : State) (a : Nat) (bs : List Byte) : (s.store' a bs).sec = s.sec := rfl
@[simp] theorem State.store'_rst (s : State) (a : Nat) (bs : List Byte) : (s.store' a bs).rst = s.rst := rfl
@[simp] theorem State.store'_warden (s : State) (a : Nat) (bs : List Byte) : (s.store' a bs).warden = s.warden := rfl
@[simp] theorem State.store'_syn (s : State) (a : Nat) (bs : List Byte) : (s.store' a bs).syn = s.syn := rfl
@[simp] theorem State.store'_tim (s : State) (a : Nat) (bs : List Byte) : (s.store' a bs).tim = s.tim := rfl
@[simp] theorem State.store'_cmd (s : State) (a : Nat) (bs : List Byte) : (s.store' a bs).cmd = s.cmd := rfl
@[simp] theorem State.store'_chk (s : State) (a : Nat) (bs : List Byte) : (s.store' a bs).chk = s.chk := rfl
@[simp] theorem State.store'_elect (s : State) (a : Nat) (bs : List Byte) : (s.store' a bs).elect = s.elect := rfl
@[simp] theorem State.store'_now (s : State) (a : Nat) (bs : List Byte) : (s.store' a bs).now = s.now := rfl
@[simp] theorem State.store'_freeCtr (s : State) (a : Nat) (bs : List Byte) : (s.store' a bs).freeCtr = s.freeCtr := rfl
@[simp] theorem State.store'_busRead (s : State) (a : Nat) (bs : List Byte) : (s.store' a bs).busRead = s.busRead := rfl
@[simp] theorem State.store'_outbox (s : State) (a : Nat) (bs : List Byte) : (s.store' a bs).outbox = s.outbox := rfl
@[simp] theorem State.store'_acksOut (s : State) (a : Nat) (bs : List Byte) : (s.store' a bs).acksOut = s.acksOut := rfl
@[simp] theorem State.store'_irqs (s : State) (a : Nat) (bs : List Byte) : (s.store' a bs).irqs = s.irqs := rfl
@[simp] theorem State.store'_bx3Out (s : State) (a : Nat) (bs : List Byte) : (s.store' a bs).bx3Out = s.bx3Out := rfl
@[simp] theorem State.store'_wire (s : State) (a : Nat) (bs : List Byte) : (s.store' a bs).wire = s.wire := rfl
@[simp] theorem State.store'_owed (s : State) (a : Nat) (bs : List Byte) : (s.store' a bs).owed = s.owed := rfl
@[simp] theorem State.store'_tc3 (s : State) (a : Nat) (bs : List Byte) : (s.store' a bs).tc3 = s.tc3 := rfl
@[simp] theorem State.store'_pending (s : State) (a : Nat) (bs : List Byte) : (s.store' a bs).pending = s.pending := rfl

/-! ## Interrupts -/

@[simp] theorem State.irq_part (s : State) (v : Nat) : (s.irq v).part = s.part := rfl
@[simp] theorem State.irq_board (s : State) (v : Nat) : (s.irq v).board = s.board := rfl
@[simp] theorem State.irq_boot (s : State) (v : Nat) : (s.irq v).boot = s.boot := rfl
@[simp] theorem State.irq_store (s : State) (v : Nat) : (s.irq v).store = s.store := rfl
@[simp] theorem State.irq_regs (s : State) (v : Nat) : (s.irq v).regs = s.regs := rfl
@[simp] theorem State.irq_mem (s : State) (v : Nat) : (s.irq v).mem = s.mem := rfl
@[simp] theorem State.irq_sump (s : State) (v : Nat) : (s.irq v).sump = s.sump := rfl
@[simp] theorem State.irq_log (s : State) (v : Nat) : (s.irq v).log = s.log := rfl
@[simp] theorem State.irq_mon (s : State) (v : Nat) : (s.irq v).mon = s.mon := rfl
@[simp] theorem State.irq_slices (s : State) (v : Nat) : (s.irq v).slices = s.slices := rfl
@[simp] theorem State.irq_placed (s : State) (v : Nat) : (s.irq v).placed = s.placed := rfl
@[simp] theorem State.irq_bscan (s : State) (v : Nat) : (s.irq v).bscan = s.bscan := rfl
@[simp] theorem State.irq_red (s : State) (v : Nat) : (s.irq v).red = s.red := rfl
@[simp] theorem State.irq_ful (s : State) (v : Nat) : (s.irq v).ful = s.ful := rfl
@[simp] theorem State.irq_cut (s : State) (v : Nat) : (s.irq v).cut = s.cut := rfl
@[simp] theorem State.irq_sedge (s : State) (v : Nat) : (s.irq v).sedge = s.sedge := rfl
@[simp] theorem State.irq_map (s : State) (v : Nat) : (s.irq v).map = s.map := rfl
@[simp] theorem State.irq_peat (s : State) (v : Nat) : (s.irq v).peat = s.peat := rfl
@[simp] theorem State.irq_sec (s : State) (v : Nat) : (s.irq v).sec = s.sec := rfl
@[simp] theorem State.irq_rst (s : State) (v : Nat) : (s.irq v).rst = s.rst := rfl
@[simp] theorem State.irq_warden (s : State) (v : Nat) : (s.irq v).warden = s.warden := rfl
@[simp] theorem State.irq_syn (s : State) (v : Nat) : (s.irq v).syn = s.syn := rfl
@[simp] theorem State.irq_tim (s : State) (v : Nat) : (s.irq v).tim = s.tim := rfl
@[simp] theorem State.irq_cmd (s : State) (v : Nat) : (s.irq v).cmd = s.cmd := rfl
@[simp] theorem State.irq_chk (s : State) (v : Nat) : (s.irq v).chk = s.chk := rfl
@[simp] theorem State.irq_elect (s : State) (v : Nat) : (s.irq v).elect = s.elect := rfl
@[simp] theorem State.irq_now (s : State) (v : Nat) : (s.irq v).now = s.now := rfl
@[simp] theorem State.irq_freeCtr (s : State) (v : Nat) : (s.irq v).freeCtr = s.freeCtr := rfl
@[simp] theorem State.irq_busRead (s : State) (v : Nat) : (s.irq v).busRead = s.busRead := rfl
@[simp] theorem State.irq_outbox (s : State) (v : Nat) : (s.irq v).outbox = s.outbox := rfl
@[simp] theorem State.irq_acksOut (s : State) (v : Nat) : (s.irq v).acksOut = s.acksOut := rfl
@[simp] theorem State.irq_irqs (s : State) (v : Nat) : (s.irq v).irqs = s.irqs ++ [BitVec.ofNat 3 v] := rfl
@[simp] theorem State.irq_bx3Out (s : State) (v : Nat) : (s.irq v).bx3Out = s.bx3Out := rfl
@[simp] theorem State.irq_wire (s : State) (v : Nat) : (s.irq v).wire = s.wire := rfl
@[simp] theorem State.irq_owed (s : State) (v : Nat) : (s.irq v).owed = s.owed := rfl
@[simp] theorem State.irq_tc3 (s : State) (v : Nat) : (s.irq v).tc3 = s.tc3 := rfl
@[simp] theorem State.irq_pending (s : State) (v : Nat) : (s.irq v).pending = s.pending := rfl

/-! ## Synchronisation -/

@[simp] theorem State.onSyn_part (s : State) (f : Syn → Syn) : (s.onSyn f).part = s.part := rfl
@[simp] theorem State.onSyn_board (s : State) (f : Syn → Syn) : (s.onSyn f).board = s.board := rfl
@[simp] theorem State.onSyn_boot (s : State) (f : Syn → Syn) : (s.onSyn f).boot = s.boot := rfl
@[simp] theorem State.onSyn_store (s : State) (f : Syn → Syn) : (s.onSyn f).store = s.store := rfl
@[simp] theorem State.onSyn_regs (s : State) (f : Syn → Syn) : (s.onSyn f).regs = s.regs := rfl
@[simp] theorem State.onSyn_mem (s : State) (f : Syn → Syn) : (s.onSyn f).mem = s.mem := rfl
@[simp] theorem State.onSyn_sump (s : State) (f : Syn → Syn) : (s.onSyn f).sump = s.sump := rfl
@[simp] theorem State.onSyn_log (s : State) (f : Syn → Syn) : (s.onSyn f).log = s.log := rfl
@[simp] theorem State.onSyn_mon (s : State) (f : Syn → Syn) : (s.onSyn f).mon = s.mon := rfl
@[simp] theorem State.onSyn_slices (s : State) (f : Syn → Syn) : (s.onSyn f).slices = s.slices := rfl
@[simp] theorem State.onSyn_placed (s : State) (f : Syn → Syn) : (s.onSyn f).placed = s.placed := rfl
@[simp] theorem State.onSyn_bscan (s : State) (f : Syn → Syn) : (s.onSyn f).bscan = s.bscan := rfl
@[simp] theorem State.onSyn_red (s : State) (f : Syn → Syn) : (s.onSyn f).red = s.red := rfl
@[simp] theorem State.onSyn_ful (s : State) (f : Syn → Syn) : (s.onSyn f).ful = s.ful := rfl
@[simp] theorem State.onSyn_cut (s : State) (f : Syn → Syn) : (s.onSyn f).cut = s.cut := rfl
@[simp] theorem State.onSyn_sedge (s : State) (f : Syn → Syn) : (s.onSyn f).sedge = s.sedge := rfl
@[simp] theorem State.onSyn_map (s : State) (f : Syn → Syn) : (s.onSyn f).map = s.map := rfl
@[simp] theorem State.onSyn_peat (s : State) (f : Syn → Syn) : (s.onSyn f).peat = s.peat := rfl
@[simp] theorem State.onSyn_sec (s : State) (f : Syn → Syn) : (s.onSyn f).sec = s.sec := rfl
@[simp] theorem State.onSyn_rst (s : State) (f : Syn → Syn) : (s.onSyn f).rst = s.rst := rfl
@[simp] theorem State.onSyn_warden (s : State) (f : Syn → Syn) : (s.onSyn f).warden = s.warden := rfl
@[simp] theorem State.onSyn_syn (s : State) (f : Syn → Syn) : (s.onSyn f).syn = f s.syn := rfl
@[simp] theorem State.onSyn_tim (s : State) (f : Syn → Syn) : (s.onSyn f).tim = s.tim := rfl
@[simp] theorem State.onSyn_cmd (s : State) (f : Syn → Syn) : (s.onSyn f).cmd = s.cmd := rfl
@[simp] theorem State.onSyn_chk (s : State) (f : Syn → Syn) : (s.onSyn f).chk = s.chk := rfl
@[simp] theorem State.onSyn_elect (s : State) (f : Syn → Syn) : (s.onSyn f).elect = s.elect := rfl
@[simp] theorem State.onSyn_now (s : State) (f : Syn → Syn) : (s.onSyn f).now = s.now := rfl
@[simp] theorem State.onSyn_freeCtr (s : State) (f : Syn → Syn) : (s.onSyn f).freeCtr = s.freeCtr := rfl
@[simp] theorem State.onSyn_busRead (s : State) (f : Syn → Syn) : (s.onSyn f).busRead = s.busRead := rfl
@[simp] theorem State.onSyn_outbox (s : State) (f : Syn → Syn) : (s.onSyn f).outbox = s.outbox := rfl
@[simp] theorem State.onSyn_acksOut (s : State) (f : Syn → Syn) : (s.onSyn f).acksOut = s.acksOut := rfl
@[simp] theorem State.onSyn_irqs (s : State) (f : Syn → Syn) : (s.onSyn f).irqs = s.irqs := rfl
@[simp] theorem State.onSyn_bx3Out (s : State) (f : Syn → Syn) : (s.onSyn f).bx3Out = s.bx3Out := rfl
@[simp] theorem State.onSyn_wire (s : State) (f : Syn → Syn) : (s.onSyn f).wire = s.wire := rfl
@[simp] theorem State.onSyn_owed (s : State) (f : Syn → Syn) : (s.onSyn f).owed = s.owed := rfl
@[simp] theorem State.onSyn_tc3 (s : State) (f : Syn → Syn) : (s.onSyn f).tc3 = s.tc3 := rfl
@[simp] theorem State.onSyn_pending (s : State) (f : Syn → Syn) : (s.onSyn f).pending = s.pending := rfl

/-! ## Fulling -/

@[simp] theorem State.onFul_part (s : State) (f : Ful → Ful) : (s.onFul f).part = s.part := rfl
@[simp] theorem State.onFul_board (s : State) (f : Ful → Ful) : (s.onFul f).board = s.board := rfl
@[simp] theorem State.onFul_boot (s : State) (f : Ful → Ful) : (s.onFul f).boot = s.boot := rfl
@[simp] theorem State.onFul_store (s : State) (f : Ful → Ful) : (s.onFul f).store = s.store := rfl
@[simp] theorem State.onFul_regs (s : State) (f : Ful → Ful) : (s.onFul f).regs = s.regs := rfl
@[simp] theorem State.onFul_mem (s : State) (f : Ful → Ful) : (s.onFul f).mem = s.mem := rfl
@[simp] theorem State.onFul_sump (s : State) (f : Ful → Ful) : (s.onFul f).sump = s.sump := rfl
@[simp] theorem State.onFul_log (s : State) (f : Ful → Ful) : (s.onFul f).log = s.log := rfl
@[simp] theorem State.onFul_mon (s : State) (f : Ful → Ful) : (s.onFul f).mon = s.mon := rfl
@[simp] theorem State.onFul_slices (s : State) (f : Ful → Ful) : (s.onFul f).slices = s.slices := rfl
@[simp] theorem State.onFul_placed (s : State) (f : Ful → Ful) : (s.onFul f).placed = s.placed := rfl
@[simp] theorem State.onFul_bscan (s : State) (f : Ful → Ful) : (s.onFul f).bscan = s.bscan := rfl
@[simp] theorem State.onFul_red (s : State) (f : Ful → Ful) : (s.onFul f).red = s.red := rfl
@[simp] theorem State.onFul_ful (s : State) (f : Ful → Ful) : (s.onFul f).ful = f s.ful := rfl
@[simp] theorem State.onFul_cut (s : State) (f : Ful → Ful) : (s.onFul f).cut = s.cut := rfl
@[simp] theorem State.onFul_sedge (s : State) (f : Ful → Ful) : (s.onFul f).sedge = s.sedge := rfl
@[simp] theorem State.onFul_map (s : State) (f : Ful → Ful) : (s.onFul f).map = s.map := rfl
@[simp] theorem State.onFul_peat (s : State) (f : Ful → Ful) : (s.onFul f).peat = s.peat := rfl
@[simp] theorem State.onFul_sec (s : State) (f : Ful → Ful) : (s.onFul f).sec = s.sec := rfl
@[simp] theorem State.onFul_rst (s : State) (f : Ful → Ful) : (s.onFul f).rst = s.rst := rfl
@[simp] theorem State.onFul_warden (s : State) (f : Ful → Ful) : (s.onFul f).warden = s.warden := rfl
@[simp] theorem State.onFul_syn (s : State) (f : Ful → Ful) : (s.onFul f).syn = s.syn := rfl
@[simp] theorem State.onFul_tim (s : State) (f : Ful → Ful) : (s.onFul f).tim = s.tim := rfl
@[simp] theorem State.onFul_cmd (s : State) (f : Ful → Ful) : (s.onFul f).cmd = s.cmd := rfl
@[simp] theorem State.onFul_chk (s : State) (f : Ful → Ful) : (s.onFul f).chk = s.chk := rfl
@[simp] theorem State.onFul_elect (s : State) (f : Ful → Ful) : (s.onFul f).elect = s.elect := rfl
@[simp] theorem State.onFul_now (s : State) (f : Ful → Ful) : (s.onFul f).now = s.now := rfl
@[simp] theorem State.onFul_freeCtr (s : State) (f : Ful → Ful) : (s.onFul f).freeCtr = s.freeCtr := rfl
@[simp] theorem State.onFul_busRead (s : State) (f : Ful → Ful) : (s.onFul f).busRead = s.busRead := rfl
@[simp] theorem State.onFul_outbox (s : State) (f : Ful → Ful) : (s.onFul f).outbox = s.outbox := rfl
@[simp] theorem State.onFul_acksOut (s : State) (f : Ful → Ful) : (s.onFul f).acksOut = s.acksOut := rfl
@[simp] theorem State.onFul_irqs (s : State) (f : Ful → Ful) : (s.onFul f).irqs = s.irqs := rfl
@[simp] theorem State.onFul_bx3Out (s : State) (f : Ful → Ful) : (s.onFul f).bx3Out = s.bx3Out := rfl
@[simp] theorem State.onFul_wire (s : State) (f : Ful → Ful) : (s.onFul f).wire = s.wire := rfl
@[simp] theorem State.onFul_owed (s : State) (f : Ful → Ful) : (s.onFul f).owed = s.owed := rfl
@[simp] theorem State.onFul_tc3 (s : State) (f : Ful → Ful) : (s.onFul f).tc3 = s.tc3 := rfl
@[simp] theorem State.onFul_pending (s : State) (f : Ful → Ful) : (s.onFul f).pending = s.pending := rfl

/-! ## Cuts -/

@[simp] theorem State.onCut_part (s : State) (f : CutUnit → CutUnit) : (s.onCut f).part = s.part := rfl
@[simp] theorem State.onCut_board (s : State) (f : CutUnit → CutUnit) : (s.onCut f).board = s.board := rfl
@[simp] theorem State.onCut_boot (s : State) (f : CutUnit → CutUnit) : (s.onCut f).boot = s.boot := rfl
@[simp] theorem State.onCut_store (s : State) (f : CutUnit → CutUnit) : (s.onCut f).store = s.store := rfl
@[simp] theorem State.onCut_regs (s : State) (f : CutUnit → CutUnit) : (s.onCut f).regs = s.regs := rfl
@[simp] theorem State.onCut_mem (s : State) (f : CutUnit → CutUnit) : (s.onCut f).mem = s.mem := rfl
@[simp] theorem State.onCut_sump (s : State) (f : CutUnit → CutUnit) : (s.onCut f).sump = s.sump := rfl
@[simp] theorem State.onCut_log (s : State) (f : CutUnit → CutUnit) : (s.onCut f).log = s.log := rfl
@[simp] theorem State.onCut_mon (s : State) (f : CutUnit → CutUnit) : (s.onCut f).mon = s.mon := rfl
@[simp] theorem State.onCut_slices (s : State) (f : CutUnit → CutUnit) : (s.onCut f).slices = s.slices := rfl
@[simp] theorem State.onCut_placed (s : State) (f : CutUnit → CutUnit) : (s.onCut f).placed = s.placed := rfl
@[simp] theorem State.onCut_bscan (s : State) (f : CutUnit → CutUnit) : (s.onCut f).bscan = s.bscan := rfl
@[simp] theorem State.onCut_red (s : State) (f : CutUnit → CutUnit) : (s.onCut f).red = s.red := rfl
@[simp] theorem State.onCut_ful (s : State) (f : CutUnit → CutUnit) : (s.onCut f).ful = s.ful := rfl
@[simp] theorem State.onCut_cut (s : State) (f : CutUnit → CutUnit) : (s.onCut f).cut = f s.cut := rfl
@[simp] theorem State.onCut_sedge (s : State) (f : CutUnit → CutUnit) : (s.onCut f).sedge = s.sedge := rfl
@[simp] theorem State.onCut_map (s : State) (f : CutUnit → CutUnit) : (s.onCut f).map = s.map := rfl
@[simp] theorem State.onCut_peat (s : State) (f : CutUnit → CutUnit) : (s.onCut f).peat = s.peat := rfl
@[simp] theorem State.onCut_sec (s : State) (f : CutUnit → CutUnit) : (s.onCut f).sec = s.sec := rfl
@[simp] theorem State.onCut_rst (s : State) (f : CutUnit → CutUnit) : (s.onCut f).rst = s.rst := rfl
@[simp] theorem State.onCut_warden (s : State) (f : CutUnit → CutUnit) : (s.onCut f).warden = s.warden := rfl
@[simp] theorem State.onCut_syn (s : State) (f : CutUnit → CutUnit) : (s.onCut f).syn = s.syn := rfl
@[simp] theorem State.onCut_tim (s : State) (f : CutUnit → CutUnit) : (s.onCut f).tim = s.tim := rfl
@[simp] theorem State.onCut_cmd (s : State) (f : CutUnit → CutUnit) : (s.onCut f).cmd = s.cmd := rfl
@[simp] theorem State.onCut_chk (s : State) (f : CutUnit → CutUnit) : (s.onCut f).chk = s.chk := rfl
@[simp] theorem State.onCut_elect (s : State) (f : CutUnit → CutUnit) : (s.onCut f).elect = s.elect := rfl
@[simp] theorem State.onCut_now (s : State) (f : CutUnit → CutUnit) : (s.onCut f).now = s.now := rfl
@[simp] theorem State.onCut_freeCtr (s : State) (f : CutUnit → CutUnit) : (s.onCut f).freeCtr = s.freeCtr := rfl
@[simp] theorem State.onCut_busRead (s : State) (f : CutUnit → CutUnit) : (s.onCut f).busRead = s.busRead := rfl
@[simp] theorem State.onCut_outbox (s : State) (f : CutUnit → CutUnit) : (s.onCut f).outbox = s.outbox := rfl
@[simp] theorem State.onCut_acksOut (s : State) (f : CutUnit → CutUnit) : (s.onCut f).acksOut = s.acksOut := rfl
@[simp] theorem State.onCut_irqs (s : State) (f : CutUnit → CutUnit) : (s.onCut f).irqs = s.irqs := rfl
@[simp] theorem State.onCut_bx3Out (s : State) (f : CutUnit → CutUnit) : (s.onCut f).bx3Out = s.bx3Out := rfl
@[simp] theorem State.onCut_wire (s : State) (f : CutUnit → CutUnit) : (s.onCut f).wire = s.wire := rfl
@[simp] theorem State.onCut_owed (s : State) (f : CutUnit → CutUnit) : (s.onCut f).owed = s.owed := rfl
@[simp] theorem State.onCut_tc3 (s : State) (f : CutUnit → CutUnit) : (s.onCut f).tc3 = s.tc3 := rfl
@[simp] theorem State.onCut_pending (s : State) (f : CutUnit → CutUnit) : (s.onCut f).pending = s.pending := rfl

/-! ## Peat -/

@[simp] theorem State.onPeat_part (s : State) (f : Peat → Peat) : (s.onPeat f).part = s.part := rfl
@[simp] theorem State.onPeat_board (s : State) (f : Peat → Peat) : (s.onPeat f).board = s.board := rfl
@[simp] theorem State.onPeat_boot (s : State) (f : Peat → Peat) : (s.onPeat f).boot = s.boot := rfl
@[simp] theorem State.onPeat_store (s : State) (f : Peat → Peat) : (s.onPeat f).store = s.store := rfl
@[simp] theorem State.onPeat_regs (s : State) (f : Peat → Peat) : (s.onPeat f).regs = s.regs := rfl
@[simp] theorem State.onPeat_mem (s : State) (f : Peat → Peat) : (s.onPeat f).mem = s.mem := rfl
@[simp] theorem State.onPeat_sump (s : State) (f : Peat → Peat) : (s.onPeat f).sump = s.sump := rfl
@[simp] theorem State.onPeat_log (s : State) (f : Peat → Peat) : (s.onPeat f).log = s.log := rfl
@[simp] theorem State.onPeat_mon (s : State) (f : Peat → Peat) : (s.onPeat f).mon = s.mon := rfl
@[simp] theorem State.onPeat_slices (s : State) (f : Peat → Peat) : (s.onPeat f).slices = s.slices := rfl
@[simp] theorem State.onPeat_placed (s : State) (f : Peat → Peat) : (s.onPeat f).placed = s.placed := rfl
@[simp] theorem State.onPeat_bscan (s : State) (f : Peat → Peat) : (s.onPeat f).bscan = s.bscan := rfl
@[simp] theorem State.onPeat_red (s : State) (f : Peat → Peat) : (s.onPeat f).red = s.red := rfl
@[simp] theorem State.onPeat_ful (s : State) (f : Peat → Peat) : (s.onPeat f).ful = s.ful := rfl
@[simp] theorem State.onPeat_cut (s : State) (f : Peat → Peat) : (s.onPeat f).cut = s.cut := rfl
@[simp] theorem State.onPeat_sedge (s : State) (f : Peat → Peat) : (s.onPeat f).sedge = s.sedge := rfl
@[simp] theorem State.onPeat_map (s : State) (f : Peat → Peat) : (s.onPeat f).map = s.map := rfl
@[simp] theorem State.onPeat_peat (s : State) (f : Peat → Peat) : (s.onPeat f).peat = f s.peat := rfl
@[simp] theorem State.onPeat_sec (s : State) (f : Peat → Peat) : (s.onPeat f).sec = s.sec := rfl
@[simp] theorem State.onPeat_rst (s : State) (f : Peat → Peat) : (s.onPeat f).rst = s.rst := rfl
@[simp] theorem State.onPeat_warden (s : State) (f : Peat → Peat) : (s.onPeat f).warden = s.warden := rfl
@[simp] theorem State.onPeat_syn (s : State) (f : Peat → Peat) : (s.onPeat f).syn = s.syn := rfl
@[simp] theorem State.onPeat_tim (s : State) (f : Peat → Peat) : (s.onPeat f).tim = s.tim := rfl
@[simp] theorem State.onPeat_cmd (s : State) (f : Peat → Peat) : (s.onPeat f).cmd = s.cmd := rfl
@[simp] theorem State.onPeat_chk (s : State) (f : Peat → Peat) : (s.onPeat f).chk = s.chk := rfl
@[simp] theorem State.onPeat_elect (s : State) (f : Peat → Peat) : (s.onPeat f).elect = s.elect := rfl
@[simp] theorem State.onPeat_now (s : State) (f : Peat → Peat) : (s.onPeat f).now = s.now := rfl
@[simp] theorem State.onPeat_freeCtr (s : State) (f : Peat → Peat) : (s.onPeat f).freeCtr = s.freeCtr := rfl
@[simp] theorem State.onPeat_busRead (s : State) (f : Peat → Peat) : (s.onPeat f).busRead = s.busRead := rfl
@[simp] theorem State.onPeat_outbox (s : State) (f : Peat → Peat) : (s.onPeat f).outbox = s.outbox := rfl
@[simp] theorem State.onPeat_acksOut (s : State) (f : Peat → Peat) : (s.onPeat f).acksOut = s.acksOut := rfl
@[simp] theorem State.onPeat_irqs (s : State) (f : Peat → Peat) : (s.onPeat f).irqs = s.irqs := rfl
@[simp] theorem State.onPeat_bx3Out (s : State) (f : Peat → Peat) : (s.onPeat f).bx3Out = s.bx3Out := rfl
@[simp] theorem State.onPeat_wire (s : State) (f : Peat → Peat) : (s.onPeat f).wire = s.wire := rfl
@[simp] theorem State.onPeat_owed (s : State) (f : Peat → Peat) : (s.onPeat f).owed = s.owed := rfl
@[simp] theorem State.onPeat_tc3 (s : State) (f : Peat → Peat) : (s.onPeat f).tc3 = s.tc3 := rfl
@[simp] theorem State.onPeat_pending (s : State) (f : Peat → Peat) : (s.onPeat f).pending = s.pending := rfl

/-! ## Commands -/

@[simp] theorem State.onCmd_part (s : State) (f : Cmd → Cmd) : (s.onCmd f).part = s.part := rfl
@[simp] theorem State.onCmd_board (s : State) (f : Cmd → Cmd) : (s.onCmd f).board = s.board := rfl
@[simp] theorem State.onCmd_boot (s : State) (f : Cmd → Cmd) : (s.onCmd f).boot = s.boot := rfl
@[simp] theorem State.onCmd_store (s : State) (f : Cmd → Cmd) : (s.onCmd f).store = s.store := rfl
@[simp] theorem State.onCmd_regs (s : State) (f : Cmd → Cmd) : (s.onCmd f).regs = s.regs := rfl
@[simp] theorem State.onCmd_mem (s : State) (f : Cmd → Cmd) : (s.onCmd f).mem = s.mem := rfl
@[simp] theorem State.onCmd_sump (s : State) (f : Cmd → Cmd) : (s.onCmd f).sump = s.sump := rfl
@[simp] theorem State.onCmd_log (s : State) (f : Cmd → Cmd) : (s.onCmd f).log = s.log := rfl
@[simp] theorem State.onCmd_mon (s : State) (f : Cmd → Cmd) : (s.onCmd f).mon = s.mon := rfl
@[simp] theorem State.onCmd_slices (s : State) (f : Cmd → Cmd) : (s.onCmd f).slices = s.slices := rfl
@[simp] theorem State.onCmd_placed (s : State) (f : Cmd → Cmd) : (s.onCmd f).placed = s.placed := rfl
@[simp] theorem State.onCmd_bscan (s : State) (f : Cmd → Cmd) : (s.onCmd f).bscan = s.bscan := rfl
@[simp] theorem State.onCmd_red (s : State) (f : Cmd → Cmd) : (s.onCmd f).red = s.red := rfl
@[simp] theorem State.onCmd_ful (s : State) (f : Cmd → Cmd) : (s.onCmd f).ful = s.ful := rfl
@[simp] theorem State.onCmd_cut (s : State) (f : Cmd → Cmd) : (s.onCmd f).cut = s.cut := rfl
@[simp] theorem State.onCmd_sedge (s : State) (f : Cmd → Cmd) : (s.onCmd f).sedge = s.sedge := rfl
@[simp] theorem State.onCmd_map (s : State) (f : Cmd → Cmd) : (s.onCmd f).map = s.map := rfl
@[simp] theorem State.onCmd_peat (s : State) (f : Cmd → Cmd) : (s.onCmd f).peat = s.peat := rfl
@[simp] theorem State.onCmd_sec (s : State) (f : Cmd → Cmd) : (s.onCmd f).sec = s.sec := rfl
@[simp] theorem State.onCmd_rst (s : State) (f : Cmd → Cmd) : (s.onCmd f).rst = s.rst := rfl
@[simp] theorem State.onCmd_warden (s : State) (f : Cmd → Cmd) : (s.onCmd f).warden = s.warden := rfl
@[simp] theorem State.onCmd_syn (s : State) (f : Cmd → Cmd) : (s.onCmd f).syn = s.syn := rfl
@[simp] theorem State.onCmd_tim (s : State) (f : Cmd → Cmd) : (s.onCmd f).tim = s.tim := rfl
@[simp] theorem State.onCmd_cmd (s : State) (f : Cmd → Cmd) : (s.onCmd f).cmd = f s.cmd := rfl
@[simp] theorem State.onCmd_chk (s : State) (f : Cmd → Cmd) : (s.onCmd f).chk = s.chk := rfl
@[simp] theorem State.onCmd_elect (s : State) (f : Cmd → Cmd) : (s.onCmd f).elect = s.elect := rfl
@[simp] theorem State.onCmd_now (s : State) (f : Cmd → Cmd) : (s.onCmd f).now = s.now := rfl
@[simp] theorem State.onCmd_freeCtr (s : State) (f : Cmd → Cmd) : (s.onCmd f).freeCtr = s.freeCtr := rfl
@[simp] theorem State.onCmd_busRead (s : State) (f : Cmd → Cmd) : (s.onCmd f).busRead = s.busRead := rfl
@[simp] theorem State.onCmd_outbox (s : State) (f : Cmd → Cmd) : (s.onCmd f).outbox = s.outbox := rfl
@[simp] theorem State.onCmd_acksOut (s : State) (f : Cmd → Cmd) : (s.onCmd f).acksOut = s.acksOut := rfl
@[simp] theorem State.onCmd_irqs (s : State) (f : Cmd → Cmd) : (s.onCmd f).irqs = s.irqs := rfl
@[simp] theorem State.onCmd_bx3Out (s : State) (f : Cmd → Cmd) : (s.onCmd f).bx3Out = s.bx3Out := rfl
@[simp] theorem State.onCmd_wire (s : State) (f : Cmd → Cmd) : (s.onCmd f).wire = s.wire := rfl
@[simp] theorem State.onCmd_owed (s : State) (f : Cmd → Cmd) : (s.onCmd f).owed = s.owed := rfl
@[simp] theorem State.onCmd_tc3 (s : State) (f : Cmd → Cmd) : (s.onCmd f).tc3 = s.tc3 := rfl
@[simp] theorem State.onCmd_pending (s : State) (f : Cmd → Cmd) : (s.onCmd f).pending = s.pending := rfl

/-! ## Lanes and scans -/

@[simp] theorem State.onChk_part (s : State) (f : Chk → Chk) : (s.onChk f).part = s.part := rfl
@[simp] theorem State.onChk_board (s : State) (f : Chk → Chk) : (s.onChk f).board = s.board := rfl
@[simp] theorem State.onChk_boot (s : State) (f : Chk → Chk) : (s.onChk f).boot = s.boot := rfl
@[simp] theorem State.onChk_store (s : State) (f : Chk → Chk) : (s.onChk f).store = s.store := rfl
@[simp] theorem State.onChk_regs (s : State) (f : Chk → Chk) : (s.onChk f).regs = s.regs := rfl
@[simp] theorem State.onChk_mem (s : State) (f : Chk → Chk) : (s.onChk f).mem = s.mem := rfl
@[simp] theorem State.onChk_sump (s : State) (f : Chk → Chk) : (s.onChk f).sump = s.sump := rfl
@[simp] theorem State.onChk_log (s : State) (f : Chk → Chk) : (s.onChk f).log = s.log := rfl
@[simp] theorem State.onChk_mon (s : State) (f : Chk → Chk) : (s.onChk f).mon = s.mon := rfl
@[simp] theorem State.onChk_slices (s : State) (f : Chk → Chk) : (s.onChk f).slices = s.slices := rfl
@[simp] theorem State.onChk_placed (s : State) (f : Chk → Chk) : (s.onChk f).placed = s.placed := rfl
@[simp] theorem State.onChk_bscan (s : State) (f : Chk → Chk) : (s.onChk f).bscan = s.bscan := rfl
@[simp] theorem State.onChk_red (s : State) (f : Chk → Chk) : (s.onChk f).red = s.red := rfl
@[simp] theorem State.onChk_ful (s : State) (f : Chk → Chk) : (s.onChk f).ful = s.ful := rfl
@[simp] theorem State.onChk_cut (s : State) (f : Chk → Chk) : (s.onChk f).cut = s.cut := rfl
@[simp] theorem State.onChk_sedge (s : State) (f : Chk → Chk) : (s.onChk f).sedge = s.sedge := rfl
@[simp] theorem State.onChk_map (s : State) (f : Chk → Chk) : (s.onChk f).map = s.map := rfl
@[simp] theorem State.onChk_peat (s : State) (f : Chk → Chk) : (s.onChk f).peat = s.peat := rfl
@[simp] theorem State.onChk_sec (s : State) (f : Chk → Chk) : (s.onChk f).sec = s.sec := rfl
@[simp] theorem State.onChk_rst (s : State) (f : Chk → Chk) : (s.onChk f).rst = s.rst := rfl
@[simp] theorem State.onChk_warden (s : State) (f : Chk → Chk) : (s.onChk f).warden = s.warden := rfl
@[simp] theorem State.onChk_syn (s : State) (f : Chk → Chk) : (s.onChk f).syn = s.syn := rfl
@[simp] theorem State.onChk_tim (s : State) (f : Chk → Chk) : (s.onChk f).tim = s.tim := rfl
@[simp] theorem State.onChk_cmd (s : State) (f : Chk → Chk) : (s.onChk f).cmd = s.cmd := rfl
@[simp] theorem State.onChk_chk (s : State) (f : Chk → Chk) : (s.onChk f).chk = f s.chk := rfl
@[simp] theorem State.onChk_elect (s : State) (f : Chk → Chk) : (s.onChk f).elect = s.elect := rfl
@[simp] theorem State.onChk_now (s : State) (f : Chk → Chk) : (s.onChk f).now = s.now := rfl
@[simp] theorem State.onChk_freeCtr (s : State) (f : Chk → Chk) : (s.onChk f).freeCtr = s.freeCtr := rfl
@[simp] theorem State.onChk_busRead (s : State) (f : Chk → Chk) : (s.onChk f).busRead = s.busRead := rfl
@[simp] theorem State.onChk_outbox (s : State) (f : Chk → Chk) : (s.onChk f).outbox = s.outbox := rfl
@[simp] theorem State.onChk_acksOut (s : State) (f : Chk → Chk) : (s.onChk f).acksOut = s.acksOut := rfl
@[simp] theorem State.onChk_irqs (s : State) (f : Chk → Chk) : (s.onChk f).irqs = s.irqs := rfl
@[simp] theorem State.onChk_bx3Out (s : State) (f : Chk → Chk) : (s.onChk f).bx3Out = s.bx3Out := rfl
@[simp] theorem State.onChk_wire (s : State) (f : Chk → Chk) : (s.onChk f).wire = s.wire := rfl
@[simp] theorem State.onChk_owed (s : State) (f : Chk → Chk) : (s.onChk f).owed = s.owed := rfl
@[simp] theorem State.onChk_tc3 (s : State) (f : Chk → Chk) : (s.onChk f).tc3 = s.tc3 := rfl
@[simp] theorem State.onChk_pending (s : State) (f : Chk → Chk) : (s.onChk f).pending = s.pending := rfl

/-! ## Restore -/

@[simp] theorem State.onRst_part (s : State) (f : Rst → Rst) : (s.onRst f).part = s.part := rfl
@[simp] theorem State.onRst_board (s : State) (f : Rst → Rst) : (s.onRst f).board = s.board := rfl
@[simp] theorem State.onRst_boot (s : State) (f : Rst → Rst) : (s.onRst f).boot = s.boot := rfl
@[simp] theorem State.onRst_store (s : State) (f : Rst → Rst) : (s.onRst f).store = s.store := rfl
@[simp] theorem State.onRst_regs (s : State) (f : Rst → Rst) : (s.onRst f).regs = s.regs := rfl
@[simp] theorem State.onRst_mem (s : State) (f : Rst → Rst) : (s.onRst f).mem = s.mem := rfl
@[simp] theorem State.onRst_sump (s : State) (f : Rst → Rst) : (s.onRst f).sump = s.sump := rfl
@[simp] theorem State.onRst_log (s : State) (f : Rst → Rst) : (s.onRst f).log = s.log := rfl
@[simp] theorem State.onRst_mon (s : State) (f : Rst → Rst) : (s.onRst f).mon = s.mon := rfl
@[simp] theorem State.onRst_slices (s : State) (f : Rst → Rst) : (s.onRst f).slices = s.slices := rfl
@[simp] theorem State.onRst_placed (s : State) (f : Rst → Rst) : (s.onRst f).placed = s.placed := rfl
@[simp] theorem State.onRst_bscan (s : State) (f : Rst → Rst) : (s.onRst f).bscan = s.bscan := rfl
@[simp] theorem State.onRst_red (s : State) (f : Rst → Rst) : (s.onRst f).red = s.red := rfl
@[simp] theorem State.onRst_ful (s : State) (f : Rst → Rst) : (s.onRst f).ful = s.ful := rfl
@[simp] theorem State.onRst_cut (s : State) (f : Rst → Rst) : (s.onRst f).cut = s.cut := rfl
@[simp] theorem State.onRst_sedge (s : State) (f : Rst → Rst) : (s.onRst f).sedge = s.sedge := rfl
@[simp] theorem State.onRst_map (s : State) (f : Rst → Rst) : (s.onRst f).map = s.map := rfl
@[simp] theorem State.onRst_peat (s : State) (f : Rst → Rst) : (s.onRst f).peat = s.peat := rfl
@[simp] theorem State.onRst_sec (s : State) (f : Rst → Rst) : (s.onRst f).sec = s.sec := rfl
@[simp] theorem State.onRst_rst (s : State) (f : Rst → Rst) : (s.onRst f).rst = f s.rst := rfl
@[simp] theorem State.onRst_warden (s : State) (f : Rst → Rst) : (s.onRst f).warden = s.warden := rfl
@[simp] theorem State.onRst_syn (s : State) (f : Rst → Rst) : (s.onRst f).syn = s.syn := rfl
@[simp] theorem State.onRst_tim (s : State) (f : Rst → Rst) : (s.onRst f).tim = s.tim := rfl
@[simp] theorem State.onRst_cmd (s : State) (f : Rst → Rst) : (s.onRst f).cmd = s.cmd := rfl
@[simp] theorem State.onRst_chk (s : State) (f : Rst → Rst) : (s.onRst f).chk = s.chk := rfl
@[simp] theorem State.onRst_elect (s : State) (f : Rst → Rst) : (s.onRst f).elect = s.elect := rfl
@[simp] theorem State.onRst_now (s : State) (f : Rst → Rst) : (s.onRst f).now = s.now := rfl
@[simp] theorem State.onRst_freeCtr (s : State) (f : Rst → Rst) : (s.onRst f).freeCtr = s.freeCtr := rfl
@[simp] theorem State.onRst_busRead (s : State) (f : Rst → Rst) : (s.onRst f).busRead = s.busRead := rfl
@[simp] theorem State.onRst_outbox (s : State) (f : Rst → Rst) : (s.onRst f).outbox = s.outbox := rfl
@[simp] theorem State.onRst_acksOut (s : State) (f : Rst → Rst) : (s.onRst f).acksOut = s.acksOut := rfl
@[simp] theorem State.onRst_irqs (s : State) (f : Rst → Rst) : (s.onRst f).irqs = s.irqs := rfl
@[simp] theorem State.onRst_bx3Out (s : State) (f : Rst → Rst) : (s.onRst f).bx3Out = s.bx3Out := rfl
@[simp] theorem State.onRst_wire (s : State) (f : Rst → Rst) : (s.onRst f).wire = s.wire := rfl
@[simp] theorem State.onRst_owed (s : State) (f : Rst → Rst) : (s.onRst f).owed = s.owed := rfl
@[simp] theorem State.onRst_tc3 (s : State) (f : Rst → Rst) : (s.onRst f).tc3 = s.tc3 := rfl
@[simp] theorem State.onRst_pending (s : State) (f : Rst → Rst) : (s.onRst f).pending = s.pending := rfl

/-! ## Warden -/

@[simp] theorem State.onWarden_part (s : State) (f : Warden → Warden) : (s.onWarden f).part = s.part := rfl
@[simp] theorem State.onWarden_board (s : State) (f : Warden → Warden) : (s.onWarden f).board = s.board := rfl
@[simp] theorem State.onWarden_boot (s : State) (f : Warden → Warden) : (s.onWarden f).boot = s.boot := rfl
@[simp] theorem State.onWarden_store (s : State) (f : Warden → Warden) : (s.onWarden f).store = s.store := rfl
@[simp] theorem State.onWarden_regs (s : State) (f : Warden → Warden) : (s.onWarden f).regs = s.regs := rfl
@[simp] theorem State.onWarden_mem (s : State) (f : Warden → Warden) : (s.onWarden f).mem = s.mem := rfl
@[simp] theorem State.onWarden_sump (s : State) (f : Warden → Warden) : (s.onWarden f).sump = s.sump := rfl
@[simp] theorem State.onWarden_log (s : State) (f : Warden → Warden) : (s.onWarden f).log = s.log := rfl
@[simp] theorem State.onWarden_mon (s : State) (f : Warden → Warden) : (s.onWarden f).mon = s.mon := rfl
@[simp] theorem State.onWarden_slices (s : State) (f : Warden → Warden) : (s.onWarden f).slices = s.slices := rfl
@[simp] theorem State.onWarden_placed (s : State) (f : Warden → Warden) : (s.onWarden f).placed = s.placed := rfl
@[simp] theorem State.onWarden_bscan (s : State) (f : Warden → Warden) : (s.onWarden f).bscan = s.bscan := rfl
@[simp] theorem State.onWarden_red (s : State) (f : Warden → Warden) : (s.onWarden f).red = s.red := rfl
@[simp] theorem State.onWarden_ful (s : State) (f : Warden → Warden) : (s.onWarden f).ful = s.ful := rfl
@[simp] theorem State.onWarden_cut (s : State) (f : Warden → Warden) : (s.onWarden f).cut = s.cut := rfl
@[simp] theorem State.onWarden_sedge (s : State) (f : Warden → Warden) : (s.onWarden f).sedge = s.sedge := rfl
@[simp] theorem State.onWarden_map (s : State) (f : Warden → Warden) : (s.onWarden f).map = s.map := rfl
@[simp] theorem State.onWarden_peat (s : State) (f : Warden → Warden) : (s.onWarden f).peat = s.peat := rfl
@[simp] theorem State.onWarden_sec (s : State) (f : Warden → Warden) : (s.onWarden f).sec = s.sec := rfl
@[simp] theorem State.onWarden_rst (s : State) (f : Warden → Warden) : (s.onWarden f).rst = s.rst := rfl
@[simp] theorem State.onWarden_warden (s : State) (f : Warden → Warden) : (s.onWarden f).warden = f s.warden := rfl
@[simp] theorem State.onWarden_syn (s : State) (f : Warden → Warden) : (s.onWarden f).syn = s.syn := rfl
@[simp] theorem State.onWarden_tim (s : State) (f : Warden → Warden) : (s.onWarden f).tim = s.tim := rfl
@[simp] theorem State.onWarden_cmd (s : State) (f : Warden → Warden) : (s.onWarden f).cmd = s.cmd := rfl
@[simp] theorem State.onWarden_chk (s : State) (f : Warden → Warden) : (s.onWarden f).chk = s.chk := rfl
@[simp] theorem State.onWarden_elect (s : State) (f : Warden → Warden) : (s.onWarden f).elect = s.elect := rfl
@[simp] theorem State.onWarden_now (s : State) (f : Warden → Warden) : (s.onWarden f).now = s.now := rfl
@[simp] theorem State.onWarden_freeCtr (s : State) (f : Warden → Warden) : (s.onWarden f).freeCtr = s.freeCtr := rfl
@[simp] theorem State.onWarden_busRead (s : State) (f : Warden → Warden) : (s.onWarden f).busRead = s.busRead := rfl
@[simp] theorem State.onWarden_outbox (s : State) (f : Warden → Warden) : (s.onWarden f).outbox = s.outbox := rfl
@[simp] theorem State.onWarden_acksOut (s : State) (f : Warden → Warden) : (s.onWarden f).acksOut = s.acksOut := rfl
@[simp] theorem State.onWarden_irqs (s : State) (f : Warden → Warden) : (s.onWarden f).irqs = s.irqs := rfl
@[simp] theorem State.onWarden_bx3Out (s : State) (f : Warden → Warden) : (s.onWarden f).bx3Out = s.bx3Out := rfl
@[simp] theorem State.onWarden_wire (s : State) (f : Warden → Warden) : (s.onWarden f).wire = s.wire := rfl
@[simp] theorem State.onWarden_owed (s : State) (f : Warden → Warden) : (s.onWarden f).owed = s.owed := rfl
@[simp] theorem State.onWarden_tc3 (s : State) (f : Warden → Warden) : (s.onWarden f).tc3 = s.tc3 := rfl
@[simp] theorem State.onWarden_pending (s : State) (f : Warden → Warden) : (s.onWarden f).pending = s.pending := rfl

/-! ## Board -/

@[simp] theorem State.onBoard_part (s : State) (f : Board → Board) : (s.onBoard f).part = s.part := rfl
@[simp] theorem State.onBoard_board (s : State) (f : Board → Board) : (s.onBoard f).board = f s.board := rfl
@[simp] theorem State.onBoard_boot (s : State) (f : Board → Board) : (s.onBoard f).boot = s.boot := rfl
@[simp] theorem State.onBoard_store (s : State) (f : Board → Board) : (s.onBoard f).store = s.store := rfl
@[simp] theorem State.onBoard_regs (s : State) (f : Board → Board) : (s.onBoard f).regs = s.regs := rfl
@[simp] theorem State.onBoard_mem (s : State) (f : Board → Board) : (s.onBoard f).mem = s.mem := rfl
@[simp] theorem State.onBoard_sump (s : State) (f : Board → Board) : (s.onBoard f).sump = s.sump := rfl
@[simp] theorem State.onBoard_log (s : State) (f : Board → Board) : (s.onBoard f).log = s.log := rfl
@[simp] theorem State.onBoard_mon (s : State) (f : Board → Board) : (s.onBoard f).mon = s.mon := rfl
@[simp] theorem State.onBoard_slices (s : State) (f : Board → Board) : (s.onBoard f).slices = s.slices := rfl
@[simp] theorem State.onBoard_placed (s : State) (f : Board → Board) : (s.onBoard f).placed = s.placed := rfl
@[simp] theorem State.onBoard_bscan (s : State) (f : Board → Board) : (s.onBoard f).bscan = s.bscan := rfl
@[simp] theorem State.onBoard_red (s : State) (f : Board → Board) : (s.onBoard f).red = s.red := rfl
@[simp] theorem State.onBoard_ful (s : State) (f : Board → Board) : (s.onBoard f).ful = s.ful := rfl
@[simp] theorem State.onBoard_cut (s : State) (f : Board → Board) : (s.onBoard f).cut = s.cut := rfl
@[simp] theorem State.onBoard_sedge (s : State) (f : Board → Board) : (s.onBoard f).sedge = s.sedge := rfl
@[simp] theorem State.onBoard_map (s : State) (f : Board → Board) : (s.onBoard f).map = s.map := rfl
@[simp] theorem State.onBoard_peat (s : State) (f : Board → Board) : (s.onBoard f).peat = s.peat := rfl
@[simp] theorem State.onBoard_sec (s : State) (f : Board → Board) : (s.onBoard f).sec = s.sec := rfl
@[simp] theorem State.onBoard_rst (s : State) (f : Board → Board) : (s.onBoard f).rst = s.rst := rfl
@[simp] theorem State.onBoard_warden (s : State) (f : Board → Board) : (s.onBoard f).warden = s.warden := rfl
@[simp] theorem State.onBoard_syn (s : State) (f : Board → Board) : (s.onBoard f).syn = s.syn := rfl
@[simp] theorem State.onBoard_tim (s : State) (f : Board → Board) : (s.onBoard f).tim = s.tim := rfl
@[simp] theorem State.onBoard_cmd (s : State) (f : Board → Board) : (s.onBoard f).cmd = s.cmd := rfl
@[simp] theorem State.onBoard_chk (s : State) (f : Board → Board) : (s.onBoard f).chk = s.chk := rfl
@[simp] theorem State.onBoard_elect (s : State) (f : Board → Board) : (s.onBoard f).elect = s.elect := rfl
@[simp] theorem State.onBoard_now (s : State) (f : Board → Board) : (s.onBoard f).now = s.now := rfl
@[simp] theorem State.onBoard_freeCtr (s : State) (f : Board → Board) : (s.onBoard f).freeCtr = s.freeCtr := rfl
@[simp] theorem State.onBoard_busRead (s : State) (f : Board → Board) : (s.onBoard f).busRead = s.busRead := rfl
@[simp] theorem State.onBoard_outbox (s : State) (f : Board → Board) : (s.onBoard f).outbox = s.outbox := rfl
@[simp] theorem State.onBoard_acksOut (s : State) (f : Board → Board) : (s.onBoard f).acksOut = s.acksOut := rfl
@[simp] theorem State.onBoard_irqs (s : State) (f : Board → Board) : (s.onBoard f).irqs = s.irqs := rfl
@[simp] theorem State.onBoard_bx3Out (s : State) (f : Board → Board) : (s.onBoard f).bx3Out = s.bx3Out := rfl
@[simp] theorem State.onBoard_wire (s : State) (f : Board → Board) : (s.onBoard f).wire = s.wire := rfl
@[simp] theorem State.onBoard_owed (s : State) (f : Board → Board) : (s.onBoard f).owed = s.owed := rfl
@[simp] theorem State.onBoard_tc3 (s : State) (f : Board → Board) : (s.onBoard f).tc3 = s.tc3 := rfl
@[simp] theorem State.onBoard_pending (s : State) (f : Board → Board) : (s.onBoard f).pending = s.pending := rfl

/-! ## Boot -/

@[simp] theorem State.onBoot_part (s : State) (f : Boot → Boot) : (s.onBoot f).part = s.part := rfl
@[simp] theorem State.onBoot_board (s : State) (f : Boot → Boot) : (s.onBoot f).board = s.board := rfl
@[simp] theorem State.onBoot_boot (s : State) (f : Boot → Boot) : (s.onBoot f).boot = f s.boot := rfl
@[simp] theorem State.onBoot_store (s : State) (f : Boot → Boot) : (s.onBoot f).store = s.store := rfl
@[simp] theorem State.onBoot_regs (s : State) (f : Boot → Boot) : (s.onBoot f).regs = s.regs := rfl
@[simp] theorem State.onBoot_mem (s : State) (f : Boot → Boot) : (s.onBoot f).mem = s.mem := rfl
@[simp] theorem State.onBoot_sump (s : State) (f : Boot → Boot) : (s.onBoot f).sump = s.sump := rfl
@[simp] theorem State.onBoot_log (s : State) (f : Boot → Boot) : (s.onBoot f).log = s.log := rfl
@[simp] theorem State.onBoot_mon (s : State) (f : Boot → Boot) : (s.onBoot f).mon = s.mon := rfl
@[simp] theorem State.onBoot_slices (s : State) (f : Boot → Boot) : (s.onBoot f).slices = s.slices := rfl
@[simp] theorem State.onBoot_placed (s : State) (f : Boot → Boot) : (s.onBoot f).placed = s.placed := rfl
@[simp] theorem State.onBoot_bscan (s : State) (f : Boot → Boot) : (s.onBoot f).bscan = s.bscan := rfl
@[simp] theorem State.onBoot_red (s : State) (f : Boot → Boot) : (s.onBoot f).red = s.red := rfl
@[simp] theorem State.onBoot_ful (s : State) (f : Boot → Boot) : (s.onBoot f).ful = s.ful := rfl
@[simp] theorem State.onBoot_cut (s : State) (f : Boot → Boot) : (s.onBoot f).cut = s.cut := rfl
@[simp] theorem State.onBoot_sedge (s : State) (f : Boot → Boot) : (s.onBoot f).sedge = s.sedge := rfl
@[simp] theorem State.onBoot_map (s : State) (f : Boot → Boot) : (s.onBoot f).map = s.map := rfl
@[simp] theorem State.onBoot_peat (s : State) (f : Boot → Boot) : (s.onBoot f).peat = s.peat := rfl
@[simp] theorem State.onBoot_sec (s : State) (f : Boot → Boot) : (s.onBoot f).sec = s.sec := rfl
@[simp] theorem State.onBoot_rst (s : State) (f : Boot → Boot) : (s.onBoot f).rst = s.rst := rfl
@[simp] theorem State.onBoot_warden (s : State) (f : Boot → Boot) : (s.onBoot f).warden = s.warden := rfl
@[simp] theorem State.onBoot_syn (s : State) (f : Boot → Boot) : (s.onBoot f).syn = s.syn := rfl
@[simp] theorem State.onBoot_tim (s : State) (f : Boot → Boot) : (s.onBoot f).tim = s.tim := rfl
@[simp] theorem State.onBoot_cmd (s : State) (f : Boot → Boot) : (s.onBoot f).cmd = s.cmd := rfl
@[simp] theorem State.onBoot_chk (s : State) (f : Boot → Boot) : (s.onBoot f).chk = s.chk := rfl
@[simp] theorem State.onBoot_elect (s : State) (f : Boot → Boot) : (s.onBoot f).elect = s.elect := rfl
@[simp] theorem State.onBoot_now (s : State) (f : Boot → Boot) : (s.onBoot f).now = s.now := rfl
@[simp] theorem State.onBoot_freeCtr (s : State) (f : Boot → Boot) : (s.onBoot f).freeCtr = s.freeCtr := rfl
@[simp] theorem State.onBoot_busRead (s : State) (f : Boot → Boot) : (s.onBoot f).busRead = s.busRead := rfl
@[simp] theorem State.onBoot_outbox (s : State) (f : Boot → Boot) : (s.onBoot f).outbox = s.outbox := rfl
@[simp] theorem State.onBoot_acksOut (s : State) (f : Boot → Boot) : (s.onBoot f).acksOut = s.acksOut := rfl
@[simp] theorem State.onBoot_irqs (s : State) (f : Boot → Boot) : (s.onBoot f).irqs = s.irqs := rfl
@[simp] theorem State.onBoot_bx3Out (s : State) (f : Boot → Boot) : (s.onBoot f).bx3Out = s.bx3Out := rfl
@[simp] theorem State.onBoot_wire (s : State) (f : Boot → Boot) : (s.onBoot f).wire = s.wire := rfl
@[simp] theorem State.onBoot_owed (s : State) (f : Boot → Boot) : (s.onBoot f).owed = s.owed := rfl
@[simp] theorem State.onBoot_tc3 (s : State) (f : Boot → Boot) : (s.onBoot f).tc3 = s.tc3 := rfl
@[simp] theorem State.onBoot_pending (s : State) (f : Boot → Boot) : (s.onBoot f).pending = s.pending := rfl

/-! ## The invariant of a state written out -/

/-- All of the invariant but the counter pairs, as a computation. -/
def State.plainWf (s : State) : Bool :=
  regsWf s.regs && Memory.wf s.mem && Memory.wf s.sump && Memory.wf s.store.bytes && Memory.wf s.peat.drive.blocks && Memory.wf s.rst.area

/-- A state whose counter pairs are as after reset but for one. -/
theorem State.inv_of {s : State} (n : Nat) (p : Pair) (hp : s.syn.pairs = vset (Vector.replicate 512 {}) n p) (h : (s.plainWf && p.ok) = true) :
    s.Inv := by
  simp only [State.plainWf, Bool.and_eq_true] at h
  obtain ⟨⟨⟨⟨⟨⟨h1, h2⟩, h3⟩, h4⟩, h5⟩, h6⟩, h7⟩ := h
  refine ⟨h1, h2, h3, h4, h5, h6, fun m hm => ?_⟩
  simp only [State.pair, hp, vget, vset, Vector.getElem?_setIfInBounds]
  split
  · split
    · exact h7
    · decide
  · simp [hm]
    decide

/-- A state whose counter pairs are as after reset. -/
theorem State.inv_plain {s : State} (hp : s.syn.pairs = Vector.replicate 512 {}) (h : s.plainWf = true) : s.Inv := by
  refine State.inv_of 512 {} ?_ (by rw [h]; rfl)
  rw [hp]
  exact (Vector.setIfInBounds_eq_of_size_le (by decide)).symm

/-- A state whose counter pairs all hold the same counts. -/
theorem State.inv_pairs {s : State} (p : Pair) (hp : s.syn.pairs = Vector.replicate 512 p) (h : (s.plainWf && p.ok) = true) : s.Inv := by
  simp only [State.plainWf, Bool.and_eq_true] at h
  obtain ⟨⟨⟨⟨⟨⟨h1, h2⟩, h3⟩, h4⟩, h5⟩, h6⟩, h7⟩ := h
  refine ⟨h1, h2, h3, h4, h5, h6, fun m hm => ?_⟩
  simp only [State.pair, hp, vget, Vector.getElem?_replicate, hm, if_true, Option.getD_some]
  exact h7

end Sys2Proof.Machine
end

