-- ==== Sys2Proof/WellFormed.lean ====
section
/-! DEFINITION. Which operands a command can bear at all: what the environment never sends. No meaning relies on it. -/
namespace Sys2Proof

/-- A frame that can stand on a link (R84, R112): a physical position of a rack, and at most 8,192 elements of 4 bytes. -/
def Frame.wf (f : Frame) : Bool := f.srcPos.toNat ≤ 71 && f.payload.length ≤ 32768

/-- The engine frame that a command brings. -/
def Instr.frame? : Instr → Option Frame
  | .reducePartialFrame _ f | .resultCopyFrame _ f | .allGatherDataFrame _ f | .fetchRequestFrame _ f | .fetchDataFrame _ f
  | .bucketAbortNotice _ f | .dropNotice _ f | .cutNotice _ f | .cutReply _ f | .feltData _ f | .feltAck _ f | .setRelease _ f
  | .keepReport _ f | .digestFrame _ f | .heartbeatFrame _ f | .engineNotice _ f | .halt _ f | .supplyQuery _ f | .candidate _ f
  | .fenceFrame _ f | .refillRequest _ f | .refillData _ f | .refillAck _ f | .remoteWrite _ f | .remoteSignal _ f
  | .barrierArrivalFrame _ f | .treeArrivalUp _ f | .treeCompletion _ f | .barrierAbortFrame _ f | .timeProbe _ f _
  | .probeResponse _ f _ | .followUp _ f _ | .commandRelay _ f | .completionRelay _ f | .relayData _ f | .candidacy _ f | .claim _ f => some f
  | _ => none

/-- Operands other than a frame: positions of a rack, phases inside a tick of 10,000 ps, a SMART log page of 512 bytes (R193), a spare that is
another position than the one it replaces (R235). -/
def Instr.operandsOk : Instr → Bool
  | .mcastAck _ _ _ p _ _ => p.toNat ≤ 71
  | .mcastStallExpiry _ _ p _ => p.toNat ≤ 71
  | .heartbeatMiss _ p => p.toNat ≤ 71
  | .remoteTransferWatchdog _ p _ _ => p.toNat ≤ 71
  | .timeProbeSend _ p | .timeProbe _ _ p | .followUpSend p | .probeResponse _ _ p | .followUp _ _ p => p.toNat < 10000
  | .smartLogPoll b => b.length == 512
  | .takeover t => t.oldPos.toNat ≤ 71 && t.sparePos.toNat ≤ 71 && t.oldPos != t.sparePos
  | _ => true

/-- A command that the environment can send. -/
def Instr.WellFormed (i : Instr) : Bool :=
  (match i.frame? with
   | some f => f.wf
   | none => true) && i.operandsOk

end Sys2Proof
end

