-- ==== Sys2Proof/Tests/Slice0.lean ====
section
/-! SUPPORT. Tests: an ill-formed command for each check of WellFormed, one step of some commands against the manual's words, and for every
hypothesis of a statement a state that meets it. -/
set_option Elab.async false
open Sys2Proof Sys2Proof.Machine

/-! ## Well-formed commands -/

theorem test_wf_frame_position : (Instr.claim 0 { srcPos := 71 }).WellFormed = true ∧ (Instr.claim 0 { srcPos := 72 }).WellFormed = false := by decide
theorem test_wf_frame_payload : Frame.wf { payload := List.replicate 32769 0 } = false := by
  rw [Frame.wf, List.length_replicate]; rfl
theorem test_wf_mcast_ack : (Instr.mcastAck 0 0 0 72 0 false).WellFormed = false := by decide
theorem test_wf_mcast_stall : (Instr.mcastStallExpiry 0 0 72 .none).WellFormed = false := by decide
theorem test_wf_heartbeat_miss : (Instr.heartbeatMiss 0 71).WellFormed = true ∧ (Instr.heartbeatMiss 0 72).WellFormed = false := by decide
theorem test_wf_remote_watchdog : (Instr.remoteTransferWatchdog 0 72 0 .none).WellFormed = false := by decide
theorem test_wf_phase : (Instr.timeProbeSend 0 9999).WellFormed = true ∧ (Instr.timeProbeSend 0 10000).WellFormed = false ∧
    (Instr.timeProbe 0 {} 10000).WellFormed = false ∧ (Instr.followUpSend 10000).WellFormed = false ∧
    (Instr.probeResponse 0 {} 10000).WellFormed = false ∧ (Instr.followUp 0 {} 10000).WellFormed = false := by decide
theorem test_wf_smart_log : (Instr.smartLogPoll [0]).WellFormed = false := by decide
/-- A takeover from one position by another. -/
def Takeover.between (old spare : BitVec 7) : Takeover := { rank := 1, rack := 2, oldPos := old, sparePos := spare, epoch := 3 }
theorem test_wf_takeover : (Instr.takeover (Takeover.between 4 65)).WellFormed = true ∧ (Instr.takeover (Takeover.between 4 4)).WellFormed = false ∧
    (Instr.takeover (Takeover.between 72 65)).WellFormed = false ∧ (Instr.takeover (Takeover.between 4 72)).WellFormed = false := by decide

/-! ## States -/

/-- Unpowered. -/
def St.off : State := { boot := { phase := .unpowered } }
/-- Firmware running, board pins high, nothing else set up. -/
def St.run : State := { boot := { phase := .running, kind := .engine }, board := { pfailN := true, holdupOk := true } }
/-- In a boundary-scan test. -/
def St.tap : State := { boot := { phase := .tapTest } }
/-- In an engine reset. -/
def St.engineReset : State := { boot := { phase := .reset, kind := .engine }, board := { pfailN := true } }
/-- Power-fail work complete, the pin high again for 10 ms. -/
def St.held : State := { St.run with board := { pfailN := true, pfHold := true, holdupOk := true }, now := 1000000 }
/-- Past every limit of the power-fail work, nothing draining. -/
def St.pfLate : State := { St.run with board := { pfWork := true }, now := 100000000 }
--~ St.pfDrain St.pfDrain .reservation; St.pfDrain .writes; St.pfDrain .flush; St.pfDrain .catalogue
/-- The same with a drain in a phase. -/
def St.pfDrain (d : DrainStep) : State := { St.pfLate with peat := { drain := some { seq := 1, peatGen := 3, step := d } } }

theorem St.run_inv : St.run.Inv := State.inv_plain rfl rfl
theorem St.reset_inv : State.reset.Inv := State.inv_plain rfl rfl

/-! ## Power, pins, resets -/

theorem wit_PowerAndTest_rise : St.off.boot.phase = .unpowered := rfl
theorem wit_PowerAndTest_fall : St.run.boot.phase ≠ .unpowered ∧ St.run.powered = true := by decide
theorem wit_PowerAndTest_tap : St.tap.boot.phase = .tapTest := rfl
theorem wit_ResetKinds_running : St.run.Inv ∧ St.run.powered = true ∧ ¬ (St.run.boot.phase = .reset ∧ St.run.boot.kind = .cold) ∧
    (St.run.boot.phase = .reset → St.run.boot.kind = .engine) := ⟨St.run_inv, by decide⟩
theorem wit_ResetKinds_within : St.engineReset.Inv ∧ St.engineReset.powered = true ∧ ¬ (St.engineReset.boot.phase = .reset ∧ St.engineReset.boot.kind = .cold) ∧
    (St.engineReset.boot.phase = .reset → St.engineReset.boot.kind = .engine) := ⟨State.inv_plain rfl rfl, by decide⟩
theorem wit_ResetKinds_absorbed : State.reset.Inv ∧ State.reset.powered = true ∧ State.reset.boot.phase = .reset ∧ State.reset.boot.kind = .cold :=
  ⟨St.reset_inv, by decide⟩
theorem wit_PowerFailPins_high : St.run.Inv ∧ St.run.powered = true ∧ St.run.board.pfailN = true ∧ St.run.awake = true ∧ 1000 ≤ 1000 ∧
    St.run.board.holdupOk ≠ false := ⟨St.run_inv, by decide⟩
theorem wit_PowerFailPins_asleep : St.engineReset.Inv ∧ St.engineReset.powered = true ∧ St.engineReset.board.pfailN = true ∧
    St.engineReset.awake = false ∧ St.engineReset.board.holdupOk ≠ true := ⟨State.inv_plain rfl rfl, by decide⟩
theorem wit_PowerFailPins_low : St.pfLate.Inv ∧ St.pfLate.powered = true ∧ St.pfLate.board.pfailN = false ∧ St.pfLate.awake = true ∧
    (St.pfLate.board.pfWork || St.pfLate.board.pfHold) = true ∧ 199 < 200 := ⟨State.inv_plain rfl rfl, by decide⟩
theorem wit_PowerFailEnds_hold : St.held.Inv ∧ St.held.awake = true ∧ St.held.board.pfHold = true ∧ St.held.board.pfWork = false ∧
    St.held.board.pfailN = true ∧ St.held.board.pfHighSince + msTicks 10 ≤ St.held.now := ⟨State.inv_plain rfl rfl, by decide⟩
theorem wit_PowerFailEnds_done : St.pfLate.Inv ∧ St.pfLate.pfPast .done = true ∧ St.pfLate.peat.drain = none := ⟨State.inv_plain rfl rfl, by decide⟩
theorem wit_PowerFailEnds_drain (d : DrainStep) : (St.pfDrain d).Inv ∧ (St.pfDrain d).peat.drain = some { seq := 1, peatGen := 3, step := d } ∧
    (St.pfDrain d).pfPast .done = true ∧ (St.pfDrain d).pfPast .dataWrites = true ∧ (St.pfDrain d).pfPast .flush = true ∧
    (St.pfDrain d).pfPast .catalogue = true := ⟨State.inv_plain rfl rfl, by cases d <;> decide⟩

/-! ## The speed monitor, Causeways, scrub passes -/

/-- A sample: ring counts, diodes in quarter degrees, taps in millivolts. -/
def St.sample (count : BitVec 16) (tj : BitVec 11) (mv : BitVec 10) : SpeedReading :=
  { counts := Vector.replicate 16 count, diodes := Vector.replicate 8 tj, taps := Vector.replicate 4 mv }
/-- Nine good samples before, in range at the next. -/
def St.nine : State := { St.run with mon := { good := 9 } }
/-- In range, with one hot sample before. -/
def St.warmed : State := { St.run with mon := { good := 10, hot := 1 } }.wr Fld.ctlCornerStatus.inRange 1
/-- The last sample was at this tick. -/
def St.sampled : State := { St.run with mon := { last := some 0 } }
/-- Running, every Causeway in one state. -/
--~ St.links St.links .closed; St.links .opening; St.links .opened; St.links .closing
def St.links (c : Causeway) : State := { St.run with slices := Vector.replicate 42 c }

theorem St.warmed_inv : St.warmed.Inv := State.inv_plain rfl rfl

/-- The tenth good sample in a row sets IN_RANGE (R64). -/
theorem test_speed_tenth : (match exec (.speedSample (St.sample 1250 260 750)) St.nine with
    | .next t => (t.rd Fld.ctlCornerStatus.inRange, t.rd Fld.ctlSpeedStatus.cyclePs)
    | _ => (9, 9)) = (1, 800) := by decide +kernel
theorem wit_SpeedMonitor_cool : St.nine.Inv ∧ St.nine.awake = true ∧ St.nine.mon.hot = 0 ∧ St.nine.sampleDue = true ∧ St.nine.quiet = true :=
  ⟨State.inv_plain rfl rfl, by decide⟩
theorem wit_SpeedMonitor_leaves : St.warmed.rdB Fld.ctlCornerStatus.inRange = true ∧
    ((St.warmed.broken (St.warmed.sample (St.sample 500 260 750))).any id) = true := by decide
theorem wit_SpeedMonitor_early : St.sampled.Inv ∧ St.sampled.awake = true ∧ St.sampled.sampleDue = false := ⟨State.inv_plain rfl rfl, by decide⟩
theorem wit_SpeedMonitor_trip : St.warmed.Inv ∧ St.warmed.awake = true ∧ 1 ≤ St.warmed.mon.hot ∧ St.warmed.sampleDue = true ∧
    (St.warmed.sample (St.sample 1250 460 750)).temps.any (fun t => 460 ≤ t.2) = true := ⟨St.warmed_inv, by decide⟩
theorem wit_Causeways (c : Causeway) (n : Fin 42) : (St.links c).Inv ∧ (St.links c).powered = true ∧ (St.links c).present n = true ∧
    (St.links c).slice n = c := ⟨State.inv_plain rfl rfl, rfl, by cases c <;> revert n <;> decide, by cases c <;> revert n <;> decide⟩
theorem wit_BufferErrors : (St.links .opened).awake = true ∧ (St.links .opened).slice (0 : Nat) ≠ .closed ∧ (St.links .opened).served = true ∧
    (∀ ch : Fin 32, ((St.links .opened).chan ch).running = []) := by decide
/-- Slice 0 open, with a BX3 frame of TC2 and an engine frame of TC0 behind it at the egress. -/
def St.queued : State :=
  { St.links .opened with
    bx3Out := [(0, .tx, { tc := 2, bytes := [] })], outbox := [{ slice := some 0, dest := .pos 0 1, ty := Ty.halt, frame := {} }] }
/-- At a frame boundary the TC0 frame goes ahead of the TC2 frame (R74, R79). -/
theorem test_egress_class : (St.queued.egressGrant 0 (St.queued.egressBx3 0 .tx ++ St.queued.egressEngine (some 0) true)).wire =
    [.engine { slice := some 0, dest := .pos 0 1, ty := Ty.halt, frame := {} }] := by decide

/-! ## Registers -/

/-- An access of a register that exists, in the wrong width, and of an offset that no block assigns. -/
theorem wit_WrongAccesses : St.run.powered = true ∧ St.run.absentSlice (0x400 : BitVec 20).toNat = false ∧
    (∀ row, regRow? (0x400 : BitVec 20).toNat = some row → row.bytes ≠ AccWidth.bytes .b2) ∧
    (∀ row, regRow? (0xFFFF8 : BitVec 20).toNat = some row → row.bytes ≠ AccWidth.bytes .b8) := by
  refine ⟨rfl, rfl, fun row h => ?_, fun row h => ?_⟩ <;> revert h <;> revert row <;> decide +kernel
/-- A running engine of the variant with two I/O dies. -/
def St.two : State := { St.run with part := { dies := 2 } }
theorem wit_RegisterRead_absent : St.two.Inv ∧ St.two.powered = true ∧ St.two.absentSlice (0x21C00 : BitVec 20).toNat = true :=
  ⟨State.inv_plain rfl rfl, by decide⟩
/-- A count that a read clears stands at 5. -/
def St.counted : State := { St.run with regs := [(Reg.synCounts, 5)] }
theorem wit_RegisterRead : St.counted.Inv ∧ (∃ row, regRow? (BitVec.ofNat 20 Reg.synCounts).toNat = some row ∧ row.bytes = 8 ∧
    row.fields.any (fun f => f.ty == .rc) = true) ∧ regCanon (BitVec.ofNat 20 Reg.synCounts).toNat ≠ 0x80100 :=
  ⟨State.inv_plain rfl rfl, by decide +kernel⟩
theorem wit_RegisterWrite_good : (∃ row, regRow? (0x408 : BitVec 20).toNat = some row ∧ row.bytes = 4 ∧
    row.fields.all (fun f => St.run.fieldOk 0x408 f.lo f.len (1200 + 620 * 4096 + 400 * 2 ^ 22)) = true) ∧
    St.run.regLocked 0x408 = false ∧ regCanon 0x408 ∉ actingRegs := by decide +kernel
theorem wit_RegisterWrite_reserved : (∃ row, regRow? (0x408 : BitVec 20).toNat = some row ∧
    row.fields.any (fun f => f.ty == .rw && !St.run.fieldOk 0x408 f.lo f.len (1301 + 620 * 4096)) = true) := by decide +kernel
/-- The commit unit is enabled. -/
def St.cutOn : State := St.run.wr Fld.tierCutCtrl.enable 1
theorem wit_RegisterWrite_locked : St.cutOn.Inv ∧ St.cutOn.regLocked 0x48008 = true ∧ regCanon 0x48008 ∉ actingRegs :=
  ⟨State.inv_plain rfl rfl, by decide +kernel⟩

/-! ## Synchronisation -/

/-- Running, every Causeway open. -/
def St.open' : State := St.links .opened
/-- Flag 5 is set. -/
def St.flag5 : State := { St.run with syn := { flags := 32 } }
/-- Somebody waits on flag 5; slot 3 is armed. -/
--~ St.flagWait St.flagWait (.slot 3); St.flagWait (.fulling 1)
def St.flagWait (who : Who) : State :=
  { St.run with syn := { waiters := [{ isPair := false, obj := 5, count := 0, consume := true, who := who }],
                         waits := (Vector.replicate 64 {}).set 3 { armed := true } } }
/-- QUIESCE is 1, with a set of flag 7 held. -/
def St.quiesced : State := { St.run with syn := { held := [.set 7 .software] } }.wr Fld.synCtrl.quiesce 1
/-- Every pair holds the same counts. -/
--~ St.pairs St.pairs 10 4 8; St.pairs (2 ^ 48 - 3) (2 ^ 48 - 3) 70000; St.pairs 10 4 70000
def St.pairs (p c d : Nat) : State := { St.run with syn := { pairs := Vector.replicate 512 { p := p, c := c, depth := d } } }
/-- A software produce of 2 waits on pair 5. -/
def St.pended : State :=
  { St.run with syn := { pairs := Vector.replicate 512 { p := 12, c := 4, depth := 8 }, pends := [{ pair := 5, count := 2, who := .software }] } }
/-- A produce of an engine unit waits on pair 5. -/
--~ St.unitPend St.unitPend .cutUnit; St.unitPend (.channel 3)
def St.unitPend (who : Who) : State :=
  { St.run with syn := { pairs := Vector.replicate 512 { p := 12, c := 4, depth := 8 }, pends := [{ pair := 5, count := 2, who := who }] } }
/-- An engine unit waits for 7 counts of pair 5. -/
--~ St.pairWait St.pairWait true; St.pairWait false
def St.pairWait (consume : Bool) : State :=
  { St.run with syn := { pairs := Vector.replicate 512 { p := 10, c := 4, depth := 8 },
                         waiters := [{ isPair := true, obj := 5, count := 7, consume := consume, who := .fulling 1 }] } }
/-- A FENCE is under way. -/
--~ St.fenced St.fenced 0 false; St.fenced 1 false; St.fenced 2 false; St.fenced 1 true; St.fenced 3 false
def St.fenced (op : BitVec 2) (q : Bool) : State :=
  { St.run with syn := { pairs := Vector.replicate 512 { p := 10, c := 4, depth := 8 },
                         fences := [{ token := 9, op := op, obj := 5, count := 2 }, { token := 10, op := 0, obj := 0, count := 0 }] } }.wrB Fld.synCtrl.quiesce q
/-- Slot 3 is armed on flag 5 and its TIMEOUT_US of 1 has passed. -/
def St.armed : State :=
  { St.flagWait (.slot 3) with now := 1000000, regs := [(Reg.synWait 3, BitVec.ofNat 64 (5 * 4 + 2 ^ 29))] }
/-- Remote-open or not, with a window of 16 pages. -/
--~ St.remote St.remote false; St.remote true
def St.remote (service : Bool) : State :=
  ((St.open'.wr Fld.synRemoteWin.base 16).wr Fld.synRemoteCfg.size 16).wrB Fld.synCtrl.service service
/-- An open transfer that nothing has followed for long. -/
--~ St.remoteOld St.remoteOld none; St.remoteOld (some (64, false, 5, 0))
def St.remoteOld (signal : Option (Nat × Bool × Nat × Nat)) : State :=
  { St.remote false with now := 100000000, syn := { remote := [{ rack := 3, pos := 2, tag := 100, gen := 1, bytes := 32, signal := signal }] } }
/-- QUIESCE is 1 and memory holds an image of one used pair, good or bad. -/
--~ St.image St.image 3; St.image 9
def St.image (c : Byte) : State := { St.run with mem := [(256 + 16 * 4, 8), (256 + 16 * 4 + 6, c), (256 + 16 * 4 + 12, 9)] }.wr Fld.synCtrl.quiesce 1

theorem wit_FrameChecks_closed : frameOf (.halt 0 {}) = some (0, Ty.halt, {}) ∧ (St.run.hw && St.run.isOpen 0 && St.run.credit 0 Ty.halt {}) = false := by decide
theorem wit_FrameChecks_open : (St.open'.hw && St.open'.isOpen 0 && St.open'.credit 0 Ty.halt {}) = true ∧ Frame.crcOf Ty.halt {} ≠ (0 : W32) := by decide +kernel
theorem wit_FrameChecks_reserved :
    (let f : Frame := { rsv := 1 }; let g : Frame := { f with crc := Frame.crcOf Ty.halt f }
     (St.open'.hw && St.open'.isOpen 41 && St.open'.credit 41 Ty.halt g) = true ∧ Frame.crcOf Ty.halt g = g.crc ∧ g.rsv ≠ 0) ∧
    (let f : Frame := { payload := zeros 40 }; let g : Frame := { f with crc := Frame.crcOf Ty.halt f }
     (St.open'.hw && St.open'.isOpen 41 && St.open'.credit 41 Ty.halt g) = true ∧ Frame.crcOf Ty.halt g = g.crc ∧ Frame.tooLong Ty.halt g = true) := by decide +kernel
theorem wit_Flags : St.run.Inv ∧ St.run.powered = true ∧ St.run.quiesced = false ∧ St.run.flag 1023 = false ∧ St.run.syn.waiters = [] :=
  ⟨St.run_inv, by decide +kernel⟩
theorem wit_Flags_waiter : (St.flagWait (.slot 3)).Inv ∧ (St.flagWait (.slot 3)).flag 5 = false ∧
    (St.flagWait (.slot 3)).syn.waiters.any (fun w => !w.isPair && w.obj == 5) = true ∧
    (St.flagWait (.slot 3)).slotArmed 3 = true ∧ (St.flagWait (.slot 3)).rdB (Fld.synWait.kind 3) = false :=
  ⟨State.inv_plain rfl (by decide +kernel), by decide +kernel⟩
theorem wit_Flags_unit : (St.flagWait (.fulling 1)).Inv ∧ (St.flagWait (.fulling 1)).flag 5 = false ∧ ∀ n, Who.fulling 1 ≠ .slot n :=
  ⟨State.inv_plain rfl (by decide +kernel), by decide +kernel, fun _ => Who.noConfusion⟩
theorem wit_Flags_overrun : St.flag5.Inv ∧ St.flag5.flag 5 = true ∧ St.flag5.rd Fld.synErrLog.valid = 0 :=
  ⟨State.inv_plain rfl (by decide +kernel), by decide +kernel⟩
theorem wit_quiesced : St.quiesced.Inv ∧ St.quiesced.powered = true ∧ St.quiesced.quiesced = true ∧ St.quiesced.syn.waiters = [] ∧
    St.quiesced.syn.pends = [] ∧ St.quiesced.flag 7 = false ∧ St.quiesced.syn.held = [.set 7 .software] :=
  ⟨State.inv_plain rfl (by decide +kernel), by decide +kernel⟩
/-- A produce at the depth, one above it, one that does not fit now; P two below its end. -/
theorem wit_CounterPairs : (St.pairs 10 4 8).Inv ∧ (St.pairs 10 4 8).pair 5 = { p := 10, c := 4, depth := 8 } ∧ (St.pairs 10 4 8).noWaiter 5 = true ∧
    (St.pairs 10 4 8).syn.pends = [] ∧ 10 - 4 + 2 ≤ 8 ∧ 8 < 10 - 4 + 3 ∧ (St.pairs 10 4 8).pend 5 + 8 ≤ 8 ∧ 8 < (St.pairs 10 4 8).pend 5 + 9 :=
  ⟨State.inv_pairs _ rfl (by decide +kernel), by decide +kernel⟩
theorem wit_SaturationAndInit : (St.pairs (2 ^ 48 - 3) (2 ^ 48 - 3) 70000).Inv ∧ 3 ≤ 70000 ∧ 2 ^ 48 ≤ 2 ^ 48 - 3 + 3 ∧
    (St.pairs (2 ^ 48 - 3) (2 ^ 48 - 3) 70000).pair 511 = { p := 2 ^ 48 - 3, c := 2 ^ 48 - 3, depth := 70000 } :=
  ⟨State.inv_pairs _ rfl (by decide +kernel), by decide +kernel⟩
theorem wit_SaturationAndInit_init : (St.unitPend .cutUnit).Inv ∧ (St.unitPend .cutUnit).pend 5 = 0 ∧ (St.unitPend .cutUnit).noWaiter 5 = true ∧ St.pended.Inv ∧ St.pended.pend 5 ≠ 0 ∧ (St.pairWait true).noWaiter 5 = false ∧ (St.run.pair 5).depth = 0 :=
  ⟨State.inv_pairs _ rfl (by decide +kernel), by decide +kernel, by decide +kernel, State.inv_pairs _ rfl (by decide +kernel), by decide +kernel⟩
theorem wit_PairsServed : St.pended.Inv ∧ St.pended.syn.pends = [{ pair := 5, count := 2, who := .software }] ∧ St.pended.noWaiter 5 = true ∧
    St.pended.pair 5 = { p := 12, c := 4, depth := 8 } ∧ 2 ≤ 12 - 4 ∧ 12 - (4 + 2) + 2 ≤ 8 :=
  ⟨State.inv_pairs _ rfl (by decide +kernel), by decide +kernel⟩
theorem wit_PairsServed_wait : (St.pairWait true).Inv ∧ (St.pairWait true).pair 5 = { p := 10, c := 4, depth := 8 } ∧ 10 - 4 + 1 ≤ 8 ∧
    (St.pairWait true).syn.waiters = [{ isPair := true, obj := 5, count := 7, consume := true, who := .fulling 1 }] ∧ 7 ≤ 10 + 1 - 4 :=
  ⟨State.inv_pairs _ rfl (by decide +kernel), by decide +kernel⟩
theorem wit_Fences : (St.fenced 2 false).Inv ∧ (St.fenced 2 false).syn.fences.head? = some { token := 9, op := 2, obj := 5, count := 2 } ∧
    (St.fenced 2 false).quiesced = false ∧ (St.fenced 1 true).quiesced = true ∧ 10 - 4 + 2 ≤ 8 ∧
    (St.fenced 1 true).syn.fences.head? = some { token := 9, op := 1, obj := 5, count := 2 } :=
  ⟨State.inv_pairs _ rfl (by decide +kernel), by decide +kernel⟩
/-- The produce of the first FENCE has been handed in; it still waits, or not. -/
--~ St.handed St.handed true; St.handed false
def St.handed (waits : Bool) : State :=
  { St.run with syn := { pairs := Vector.replicate 512 { p := 12, c := 4, depth := 8 },
                         fences := [{ token := 9, op := 2, obj := 5, count := 2, handed := true }, { token := 10, op := 0, obj := 0, count := 0 }],
                         pends := if waits then [{ pair := 5, count := 2, who := .fence }] else [] } }
theorem wit_Fences_handed : (St.handed true).Inv ∧ (St.handed true).unitHolds .fence = true ∧ (St.handed false).unitHolds .fence = false ∧
    (St.fenced 0 false).unitHolds .fence = false := ⟨State.inv_pairs _ rfl (by decide +kernel), by decide +kernel⟩
/-- Every pair is full, and a FENCE produces. -/
def St.fencedFull : State :=
  { St.fenced 2 false with syn := { (St.fenced 2 false).syn with pairs := Vector.replicate 512 { p := 11, c := 4, depth := 8 } } }
theorem wit_Fences_full : St.fencedFull.Inv ∧ St.fencedFull.pair 5 = { p := 11, c := 4, depth := 8 } ∧ 8 < 11 - 4 + 2 ∧
    St.fencedFull.unitHolds .fence = false := ⟨State.inv_pairs _ rfl (by decide +kernel), by decide +kernel⟩
theorem wit_WaitSlots : St.armed.Inv ∧ St.armed.slotArmed 3 = true ∧ St.armed.rd (Fld.synWait.timeoutUs 3) = 1 ∧
    St.armed.elapsed (vget St.armed.syn.waits 3 {}).tick (usTicks 1) = true ∧ St.armed.syn.waiters.length = 1 ∧ St.armed.syn.pends = [] :=
  ⟨State.inv_plain rfl (by decide +kernel), by decide +kernel⟩
/-- A wait on a flag that is 0 and on one that is 1. -/
theorem wit_WaitSlots_arm : St.flag5.slotArmed 63 = false ∧ (21 : W64).getLsbD 0 = true ∧ (21 : W64).getLsbD 1 = false ∧
    St.flag5.flag (bits (21 : W64).toNat 2 10) = true ∧ St.run.flag (bits (21 : W64).toNat 2 10) = false := by decide +kernel
/-- Eight bytes at the window's last 8, and behind them a signal of 8 bytes on flag 5. -/
def St.remoteFrame : Frame :=
  let f : Frame := { srcRack := 1, srcPos := 2, tag := 7, offset := 65528, count := 2, payload := [1, 2, 3, 4, 5, 6, 7, 8] }
  { f with crc := Frame.crcOf Ty.remoteWrite f }
def St.signalFrame (bytes : Nat) : Frame :=
  let f : Frame := { srcRack := 1, srcPos := 2, tag := 7, payload := leBytes 8 bytes ++ [1, 0, 5, 0, 0, 0, 0, 0] }
  { f with crc := Frame.crcOf Ty.remoteSignal f }
theorem wit_RemoteSignals_write : (St.remote false).Inv ∧ (St.remote false).hears 0 Ty.remoteWrite St.remoteFrame = true ∧
    (St.remote false).remoteOpen = true ∧ 65528 + 8 ≤ (St.remote false).rd Fld.synRemoteCfg.size * 4096 ∧ (St.remote true).remoteOpen = false :=
  ⟨State.inv_plain rfl (by decide +kernel), by decide +kernel⟩
theorem wit_RemoteSignals_signal : (St.remote false).hears 0 Ty.remoteSignal (St.signalFrame 64) = true ∧
    (St.remote false).hears 0 Ty.remoteSignal (St.signalFrame 0) = true ∧ fieldLE (St.signalFrame 64).payload 8 1 = 1 ∧
    bits (fieldLE (St.signalFrame 64).payload 0 8) 0 48 = 64 ∧ bits (fieldLE (St.signalFrame 0).payload 0 8) 0 48 = 0 ∧
    fieldLE (St.signalFrame 0).payload 10 2 = 5 ∧ (St.remote false).flag 5 = false := by decide +kernel
theorem wit_RemoteSignals_old : (St.remoteOld none).Inv ∧ (St.remoteOld none).hw = true ∧
    (St.remoteOld none).syn.remote.head? = some { rack := 3, pos := 2, tag := 100, gen := 1, bytes := 32 } ∧
    (St.remoteOld none).elapsed 0 (usTicks ((St.remoteOld none).rd Fld.synRemoteCfg.wdUs)) = true :=
  ⟨State.inv_plain rfl (by decide +kernel), by decide +kernel⟩
theorem wit_ContextImages : (St.image 3).Inv ∧ (St.image 3).quiesced = true ∧ (St.image 9).quiesced = true ∧ (St.image 3).syn.pends = [] ∧
    (∀ m : Fin 512, (Pair.ofBytes ((St.image 3).load (bits (0 : W64).toNat 6 42 * 64 + 256 + 16 * m.val) 16)).sound = true) ∧
    (Pair.ofBytes ((St.image 9).load (bits (0 : W64).toNat 6 42 * 64 + 256 + 16 * 4) 16)).sound = false := ⟨State.inv_plain rfl (by decide +kernel), by decide +kernel⟩
/-- A produce of exactly what room there is, and one more (R262). -/
theorem test_produce_fits : ((match exec (.produce 5 2) (St.pairs 10 4 8) with | .next t => t.pair 5 | _ => {}).p,
    (match exec (.produce 5 9) (St.pairs 10 4 8) with | .next t => t.rd Fld.synErrStatus.produceOverflow | _ => 9)) = (12, 1) := by decide +kernel

/-! ## Time -/

/-- Domain A at 5 s, valid and active or not; an operation waits on domain B, which is valid or not. -/
--~ St.times St.times [] true false; St.times [.load 8 9] false false; St.times [.invalidate] true false; St.times [.add 20] true false; St.times [] true true; St.times [.load 8 9, .add 20] false false
def St.times (ops : List TimOp) (vb sw : Bool) : State :=
  { St.open' with tim := { domA := { sec := 5, ns := 999999995, valid := true }, domB := { sec := 7, valid := vb, ops := ops }, switchPending := sw } }
/-- The same with increment 10 ns, offset 20 ns and a follow-up due; the log off or on. -/
--~ St.probing St.probing false; St.probing true
def St.probing (on : Bool) : State :=
  { St.times [] true false with
    placed := BitVec.allOnes 42
    regs := [(Reg.timCtrl, if on then 16 else 0), (Reg.timTslog, 4096)],
    tim := { domA := { sec := 5, valid := true }, due := [{ slice := 3, rack := 1, pos := 2, seq := 9, stamp := { domB := false, sec := 5, ns := 1, frac := 2, valid := true } }] } }
def St.probe (ty : BitVec 8) : Frame :=
  let f : Frame := { srcRack := 1, srcPos := 2, seq := 7, count := 16, payload := zeros 16 }
  { f with crc := Frame.crcOf ty f }

theorem wit_Ticks : (St.times [] true false).Inv ∧ (∀ b, ((St.times [] true false).dom b).ops = []) ∧
    (St.times [] true false).tim.switchPending = false := ⟨State.inv_plain rfl (by decide +kernel), by decide⟩
theorem wit_Ticks_ops : ((St.times [.load 8 9] false false).dom true).ops = [.load 8 9] ∧ ((St.times [.invalidate] true false).dom true).ops = [.invalidate] ∧
    ((St.times [.add 20] true false).dom true).ops = [.add 20] ∧ ((St.times [.add 20] true false).dom true).valid = true ∧
    (((St.times [.add 20] true false).dom true).total + (St.times [.add 20] true false).domInc true +
      20 * 2 ^ 32 : Int) = ((7 * secUnits + 30 * 2 ^ 32 : Nat) : Int) := by decide +kernel
theorem wit_Ticks_switch : (St.times [] true true).tim.switchPending = true ∧ ((St.times [] true true).dom (!(St.times [] true true).tim.activeB)).valid = true := by decide
theorem wit_TimeCommands : (St.times [] true false).powered = true ∧ (St.times [] true false).tim.activeB ≠ true ∧
    (St.times [] true false).tim.activeB = false ∧ ((St.times [] true false).dom false).valid = true ∧
    ((St.times [] true false).dom (!(St.times [] true false).tim.activeB)).valid = true ∧
    ((St.times [] false false).dom (!(St.times [] false false).tim.activeB)).valid = false := by decide
theorem wit_TimeProbes : (St.probing true).Inv ∧ (St.probing true).powered = true ∧ (St.probing true).rdB Fld.timCtrl.tslogEn = true ∧
    (St.probing true).hw = true ∧ (St.probing true).tim.due.head?.isSome = true ∧ (St.probing true).takesPart 3 = true ∧
    (St.probing true).present 41 = true ∧ (St.probing true).present 42 = false ∧ St.open'.takesPart 3 = false ∧ St.open'.present 3 = true :=
  ⟨State.inv_plain rfl (by decide +kernel), by decide +kernel⟩
theorem wit_TimeProbes_frames : (St.probing true).hears 3 Ty.probe (St.probe Ty.probe) = true ∧
    (St.probing true).hears 3 Ty.probeResponse (St.probe Ty.probeResponse) = true ∧
    (St.probing true).hears 3 Ty.followUp (St.probe Ty.followUp) = true := by decide +kernel
/-- One tick of 10 ns carries into the seconds. -/
theorem test_tick_carries : (match exec (.timeTick 1) (St.times [] true false) with | .next t => (t.tim.domA.sec, t.tim.domA.ns) | _ => (0, 0)) = (6, 5) := by
  decide +kernel

/-! ## Barriers -/

/-- A barrier in the middle of an epoch, this engine's values 7 and 8 recorded if it has arrived. -/
def St.bar (st : BarState) : Barrier :=
  { st := st, episode := 0x10005, fn := some .software, cur := if st = .arrived then [{ idx := 4, sum := 7, or := 8 }] else [] }
/-- Member 4, valid; barrier 2 in a state, waiting for member 1 or for nobody. -/
--~ St.bars St.bars .opened true; St.bars .arrived true; St.bars .opened false; St.bars .disabled false
def St.bars (st : BarState) (mate : Bool) : State :=
  { St.open' with
    now := 100000000, regs := [(Reg.synSelf, 0x84), (Reg.synBarCfg 2, 3)] ++ (if mate then [(Reg.synBarMaskLo 2, 2)] else []),
    syn := { bars := (Vector.replicate 20 {}).set 2 (St.bar st) } }
/-- Tree barrier 17 of a role, open or arrived. -/
--~ St.tree St.tree 0 .arrived; St.tree 2 .opened; St.tree 3 .opened; St.tree 3 .arrived
def St.tree (role : Nat) (st : BarState) : State :=
  { St.open' with
    now := 100000000, regs := [(Reg.synSelf, 0x84), (Reg.synBarCfg 17, 3), (Reg.synTbarTree 1, BitVec.ofNat 64 (role + 8))],
    syn := { bars := (Vector.replicate 20 {}).set 17 { st := st, episode := 0x10005, fn := some .software } } }
def St.barF (ty : BitVec 8) (b : BitVec 5) (e : W32) (hop : BitVec 8) (pay : List Byte) : Frame :=
  let f : Frame := { srcRack := 1, srcPos := 2, channel := b, seq := e, hop := hop, count := BitVec.ofNat 16 pay.length, payload := pay }
  { f with crc := Frame.crcOf ty f }
/-- Values 9 and 2 of member 1. -/
def St.arr : List Byte := leBytes 8 9 ++ leBytes 8 2 ++ [1] ++ zeros 7

theorem wit_BarrierArrivals : (St.bars .opened true).Inv ∧ (St.bars .opened true).powered = true ∧
    ((St.bars .opened true).barMask 2).any (fun i => i != (St.bars .opened true).memberIdx && !((St.bars .opened true).bar 2).cur.any (fun v => v.idx == i)) = true ∧
    ((St.bars .opened false).barMask 2).any (fun i => i != (St.bars .opened false).memberIdx) = false ∧
    (St.bars .opened true).rdB (Fld.synBarCfg.enable 2) = true ∧ (St.bars .opened true).rdB (Fld.synBarCfg.enable 3) = false ∧
    (St.bars .opened false).rdB (Fld.synBarCfg.doneFlagEn 2) = false ∧ (St.bars .opened false).rdB (Fld.synBarCfg.donePairEn 2) = false :=
  ⟨State.inv_plain rfl (by decide +kernel), by decide +kernel⟩
/-- Member 1 has arrived before, at a barrier whose DONE count still waits. -/
def St.barTwice : State :=
  { St.bars .opened true with
    syn := { bars := (Vector.replicate 20 {}).set 2 { St.bar .opened with cur := [{ idx := 1, sum := 9, or := 2 }] },
             pends := [{ pair := 5, count := 1, who := .barrier 2 }] } }
theorem wit_BarrierFrames_again : St.barTwice.Inv ∧ St.barTwice.hears 3 Ty.arrival (St.barF Ty.arrival 2 0x10005 0 St.arr) = true ∧
    (St.barTwice.bar 2).cur.any (fun v => v.idx == 1) = true ∧ St.barTwice.unitHolds (.barrier 2) = true ∧
    (St.bars .opened true).unitHolds (.barrier 2) = false := ⟨State.inv_plain rfl (by decide +kernel), by decide +kernel⟩
theorem wit_BarrierFrames : (St.bars .arrived true).hears 3 Ty.arrival (St.barF Ty.arrival 2 0x10005 0 St.arr) = true ∧
    (St.bars .opened true).hears 3 Ty.arrival (St.barF Ty.arrival 2 0x10006 0 St.arr) = true ∧
    (St.bars .opened true).hears 3 Ty.arrival (St.barF Ty.arrival 2 0x20005 0 St.arr) = true ∧
    nextEpisode 0x10005 = 0x10006 ∧ nextEpisode 0x1FFFF = 0x10000 ∧
    ((St.bars .arrived true).barMask 2 ++ [(St.bars .arrived true).memberIdx]).all
      (fun i => (barInsert { idx := 1, sum := 9, or := 2 } ((St.bars .arrived true).bar 2).cur).any (fun v => v.idx == i)) = true := by decide +kernel
theorem wit_BarrierFrames_tree : (St.tree 3 .opened).Inv ∧ (St.tree 3 .opened).treeRole 17 = 3 ∧ ((St.tree 3 .opened).bar 17).st = .opened ∧
    (St.tree 3 .opened).hears 3 Ty.treeUp (St.barF Ty.treeUp 17 0x10005 1 St.arr) = true ∧
    (St.tree 3 .opened).hears 3 Ty.treeUp (St.barF Ty.treeUp 17 0x10005 2 St.arr) = true := ⟨State.inv_plain rfl (by decide +kernel), by decide +kernel⟩
theorem wit_BarrierEnds : (St.tree 0 .arrived).Inv ∧ (St.tree 0 .arrived).treeRole 17 = 0 ∧
    (St.tree 0 .arrived).hears 3 Ty.treeDone (St.barF Ty.treeDone 17 0x10005 0 (zeros 16)) = true ∧
    (St.bars .arrived true).hears 3 Ty.barAbort (St.barF Ty.barAbort 2 0x10005 0 (abortPayload 0x0604)) = true ∧
    (St.bars .arrived true).elapsed ((St.bars .arrived true).bar 2).tick (usTicks ((St.bars .arrived true).rd (Fld.synBarCfg.timeoutUs 2))) = true ∧
    (St.bars .arrived true).rd (Fld.synBarCfg.timeoutUs 2) = 1 := ⟨State.inv_plain rfl (by decide +kernel), by decide +kernel⟩
/-- The last arrival completes the episode with the sum of both values (R274). -/
theorem test_barrier_sum : (match exec (.barrierArrivalFrame 3 (St.barF Ty.arrival 2 0x10005 0 St.arr)) (St.bars .arrived true) with
    | .next t => ((t.bar 2).episode, (t.bar 2).resOr) | _ => (0, 0)) = (0x10006, 10) := by decide +kernel

/-! ## Reduction -/

/-- Channel 2: two members, this one at ring position 0, UFL port 0, its issue pair 1 with counts; descriptors at 0x4000. -/
def St.red : State :=
  ((((({ St.open' with
      now := 100000000, placed := BitVec.allOnes 42, syn := { pairs := Vector.replicate 512 { p := 3, c := 1, depth := 8 } } }.wr Fld.redCtrl.enable 1).wr (Fld.redChCfg.enable 2) 1).wr
    (Fld.redChCfg.n 2) 2).wr (Fld.redChCfg.r 2) 1).wr (Fld.redChPorts.uflMask 2) 1 |>.wr (Fld.redChDesc.base 2) 0x100).wr (Fld.redChSync.issuePair 2) 1 |>.wr
    (Fld.redChCfg.nextPos 2) 5 |>.wr (Fld.redChCfg.prevPos 2) 5
/-- A descriptor of 4 FP32 elements at SEQ 7, good or of the wrong SEQ. -/
def St.desc (seq : Byte) : Memory := Memory.putBytes [] (0x4000 + 64 * 7) (leBytes 8 3 ++ [seq, 0, 0, 0, 0, 0, 0, 0] ++ leBytes 8 4 ++ leBytes 8 0x1000 ++ zeros 8 ++ leBytes 8 0x2000)
/-- Channel 2 with what is issued, running and late. -/
def St.withChan (x : Chan) : State := { St.red with red := { chans := (Vector.replicate 32 {}).set 2 x } }
--~ St.issue St.issue 7 []; St.issue 9 []; St.issue 7 [5]
def St.issue (seq : Byte) (late : List W32) : State :=
  { St.withChan { nextSeq := 7, nextIssue := 7, lateSeqs := late } with mem := St.desc seq }
/-- A bucket of SEQ 7: a reduce of 4 elements, or an all-gather of 516. -/
def St.bucket (gather : Bool) : Bucket :=
  { seq := 7, desc := { step := 3, seq := 7, gather := gather, fmt := if gather then 4 else 0, e := if gather then 516 else 4, src := 0x1000, result := 0x2000, lastOfStep := true } }
/-- A reduce of 516 elements. -/
def St.long : Bucket := { St.bucket false with desc := { (St.bucket false).desc with e := 516 } }
/-- It is to start, with tags free or none. -/
--~ St.toStart St.toStart false true; St.toStart true true; St.toStart false false
def St.toStart (gather free : Bool) : State :=
  if free then St.withChan { nextSeq := 7, nextIssue := 8, issued := [if gather then St.bucket true else St.long] }
  else { St.withChan { nextSeq := 7, nextIssue := 8, issued := [St.bucket gather, { St.bucket gather with seq := 8 }], running := [{ St.bucket true with seq := 6 }] } with now := 5 }
/-- It runs, waiting for data. -/
--~ St.running St.running false; St.running true
def St.running (gather : Bool) : State := St.withChan { nextSeq := 8, nextIssue := 8, running := [St.bucket gather] }
/-- A reduce of 516 elements of which a copy of the other piece is to land. -/
def St.copying : State := St.withChan { nextSeq := 8, nextIssue := 8, running := [St.long] }
/-- The same behind a bucket that still waits. -/
def St.behind : State := St.withChan { nextSeq := 9, nextIssue := 9, running := [{ St.bucket false with seq := 6, gone := true }, St.long] }
/-- All its results are here; one of them may be an infinity. -/
--~ St.full St.full false; St.full true
def St.full (inf : Bool) : State :=
  St.withChan { nextSeq := 8, nextIssue := 8, running := [{ St.bucket false with gone := true, finals := [(0, 1), (1, if inf then 0x7F800000 else 2), (2, 3), (3, 4)] }] }
/-- A late bucket that is fetched. -/
def St.fetching : State :=
  (St.withChan { nextSeq := 7, nextIssue := 8, issued := [{ St.bucket false with late := true, fetch := some 9 }] }).wr (Fld.redChBackup.backupPos 2) 5
/-- The window of a multicast is full. -/
def St.casting : State :=
  St.withChan { nextSeq := 8, nextIssue := 8, running := [{ St.bucket true with mcast := [{ port := 0, queue := [(0, 4)], sent := 168000 }] }] }
/-- A backup worker stands by for channel 2, whose next descriptor is good. -/
def St.backed : State := { (St.issue 7 []).wr (Fld.redChBackup.backupEn 2) 1 |>.wr Fld.redWd.contribWdUs 10 with mem := St.desc 7 }
/-- Tags 9 sent and 10 in quarantine since long. -/
def St.tags : State := { St.run with now := 100, red := { tags := { inUse := [8, 9], lastSent := [9], quarantine := [(10, 100)] } } }
/-- A vote is due. -/
def St.voting : State := { St.open'.wr Fld.redCtrl.skipVoteEn 1 with red := { votes := [{ step := 3, skip := true }] } }
def St.redF (ty : BitVec 8) (pos : BitVec 7) (off : BitVec 48) (pay : List Byte) : Frame :=
  let f : Frame := { srcPos := pos, channel := 2, seq := 7, stepLo := 3, tag := 9, offset := off, count := BitVec.ofNat 16 (pay.length / 4), payload := pay }
  { f with crc := Frame.crcOf ty f }

theorem St.red_pairs : (St.issue 7 []).Inv ∧ (St.full true).Inv ∧ (St.toStart false true).Inv :=
  ⟨State.inv_pairs _ rfl (by decide +kernel), State.inv_pairs _ rfl (by decide +kernel), State.inv_pairs _ rfl (by decide +kernel)⟩
theorem wit_BucketIssueStart : (St.issue 7 []).chanServes 2 = true ∧ (St.issue 7 []).noWaiter 1 = true ∧ (St.issue 7 []).rd (Fld.redChSync.issuePair 2) = 1 ∧
    (St.issue 7 []).bucketBad 2 ((St.issue 7 []).load ((St.issue 7 []).redDescAt 2 7) 64) 7 = false ∧
    (St.issue 9 []).bucketBad 2 ((St.issue 9 []).load ((St.issue 9 []).redDescAt 2 7) 64) 7 = true ∧
    ((St.issue 7 [5]).chan 2).lateSeqs ≠ [] ∧ St.run.chanServes 2 = false := by decide +kernel
theorem wit_BucketIssueStart_start : (St.toStart false true).chanServes 2 = true ∧ ((St.toStart false true).plan 2 St.long).length ≤ 2 ^ 20 ∧
    (St.toStart false true).red.tags.freeCount = 2 ^ 20 ∧ 2 ≤ ((St.toStart false true).chCfg 2).n ∧ (St.toStart false true).bucket 2 7 = none ∧
    (St.toStart false true).planOpen ((St.toStart false true).plan 2 St.long) = true ∧
    ((St.toStart false false).chan 2).running.all (fun r => r.gone) = false := by decide +kernel
/-- The slices of the channel are not placed in it since they opened. -/
def St.unplaced : State := { St.toStart false true with placed := 0 }
theorem wit_BucketIssueStart_unplaced : St.unplaced.chanServes 2 = true ∧ St.unplaced.planOpen (St.unplaced.plan 2 St.long) = false ∧
    St.unplaced.bucketReady 2 St.long = true := by decide +kernel
/-- No tag is free: the list of tags in use is as long as there are tags. -/
theorem wit_BucketIssueStart_tags (l : List Nat) (h : l.length = 2 ^ 20) :
    ({ (St.toStart false true) with red := { (St.toStart false true).red with tags := { inUse := l } } } : State).red.tags.freeCount <
      ((St.toStart false true).plan 2 St.long).length := by
  simp only [Tags.freeCount, h]; decide +kernel
theorem wit_BucketFrames_ring : (St.running false).Inv ∧
    (St.running false).lookup (St.redF Ty.partial' 5 0 (zeros 16)) = .started (St.bucket false) ∧
    (St.running false).hears 0 Ty.partial' (St.redF Ty.partial' 5 0 (zeros 16)) = true ∧
    ((St.running false).chCfg 2).prev = 5 ∧ (St.running false).holders 2 = [] ∧ ((St.running false).chCfg 2).n = 2 ∧
    place (((St.running false).chCfg 2).chunk 4 0) (uflFrag 4) 4 0 4 16 = .at' 0 ∧ (St.running false).takesPart 0 = true ∧
    (St.running false).hopReady 2 (St.bucket false) 0 0 = true ∧
    (((St.bucket false).bindRx Ty.partial' 0 (St.redF Ty.partial' 5 0 (zeros 16))).bind (fun b => b.take' 0 0)).isSome = true :=
  ⟨State.inv_pairs _ rfl (by decide +kernel), by decide +kernel⟩
theorem wit_BucketFrames_copy : St.copying.hears 0 Ty.resultCopy (St.redF Ty.resultCopy 5 512 (zeros 16)) = true ∧
    512 / max 1 ((St.copying.chCfg 2).u 516) = 1 ∧ (St.copying.chCfg 2).own = 0 ∧ place ((St.copying.chCfg 2).piece 516 1) 512 4 512 4 16 = .at' 0 ∧
    1 % (St.copying.chCfg 2).r = (St.copying.chCfg 2).x ∧ St.copying.myRack = 0 ∧ St.behind.delivered 2 { St.bucket false with seq := 6, gone := true } = false ∧
    St.behind.hears 0 Ty.resultCopy (St.redF Ty.resultCopy 5 512 (zeros 16)) = true ∧ St.open'.takesPart 0 = false := by
  decide +kernel
theorem wit_BucketFrames_gather : (St.running true).hears 0 Ty.allGather (St.redF Ty.allGather 5 512 (zeros 16)) = true ∧
    (St.running true).lookup (St.redF Ty.allGather 5 512 (zeros 16)) = .started (St.bucket true) ∧
    (St.running true).myPos ≠ 5 ∧ place (((St.running true).chCfg 2).chunk 516 1) (uflFrag 4) 4 512 4 16 = .at' 0 ∧
    (St.issue 7 []).lookup (St.redF Ty.allGather 5 512 (zeros 16)) = .early ∧ St.open'.lookup (St.redF Ty.allGather 5 512 (zeros 16)) = .stale := by
  decide +kernel
theorem wit_BucketEnds : (St.full true).unitHolds (.channel 2) = false ∧ (St.full true).hw = true ∧
    ((St.full true).chan 2).running.any (fun b => b.dead) = false ∧ (St.full true).rd (Fld.redChSync.donePair 2) = 0 ∧
    (St.full true).bucketFull 2 { St.bucket false with finals := [(0, 1), (1, 2), (2, 3), (3, 4)] } = true ∧
    firstNf [(0, 1), (1, 0x7F800000), (2, 3)] = some 1 := by decide +kernel
theorem wit_BucketEnds_watchdog : (St.running false).elapsed (St.bucket false).arrival (usTicks ((St.running false).rd Fld.redWd.streamWdUs)) = true ∧
    (St.running false).streamLate 2 = some (St.bucket false) ∧ (St.running false).bucket 2 7 = some (St.bucket false) ∧
    (St.fetching.streamLate 2).isSome = true ∧ St.fetching.bucket 2 7 = none := by decide +kernel
theorem wit_BucketEnds_notice : (St.issue 7 []).hears 0 Ty.bucketAbort (St.redF Ty.bucketAbort 5 0 (zeros 8)) = true ∧ (St.issue 7 []).isWarden = false ∧
    (St.issue 7 []).red.notices = [] ∧ ((St.issue 7 []).chCfg 2).n = 2 ∧ (St.issue 7 []).bucket 2 7 = none := by decide +kernel
theorem wit_FetchesMulticast : (St.issue 7 []).hears 0 Ty.fetchRequest (St.redF Ty.fetchRequest 5 0 (leBytes 8 1 ++ leBytes 8 3)) = true ∧
    (bucketDesc ((St.issue 7 []).load ((St.issue 7 []).redDescAt 2 7) 64)).e = 4 ∧ 1 + 3 ≤ 4 ∧
    St.fetching.hears 0 Ty.fetchData (St.redF Ty.fetchData 5 0 (zeros 16)) = true ∧
    (St.fetching.fetching 2 7).isSome = true ∧ St.fetching.fetchMatch (St.redF Ty.fetchData 5 0 (zeros 16)) { St.bucket false with late := true, fetch := some 9 } = true ∧
    St.fetching.backupRange 2 { St.bucket false with late := true, fetch := some 9 } = (0, 4) ∧ (St.bucket false).desc.backupBytes 4 = 16 ∧
    St.fetching.rd (Fld.redChBackup.backupPos 2) = 5 ∧ St.backed.chanServes 2 = true ∧
    St.backed.elapsed (St.backed.chan 2).goneTick (usTicks (St.backed.rd Fld.redWd.contribWdUs)) = true := by decide +kernel
theorem wit_FetchesMulticast_cast : (St.running true).hears 0 Ty.drop (St.redF Ty.drop 5 0 (leBytes 6 512 ++ zeros 2)) = true ∧
    512 < (((St.running true).chCfg 2).chunk 516 1).2 ∧ (St.casting.chan 2).running.any (fun b => b.mcast.any (fun m => m.port == uflSlice 0)) = true ∧
    (St.casting.stalled 2 (uflSlice 0) 5).isSome = true ∧ St.casting.bucket 2 7 ≠ none ∧
    0 + 1 < (St.casting.chCfg 2).n := by decide +kernel
theorem wit_TagsChannelsVote : St.tags.Inv ∧ St.tags.powered = true ∧ St.tags.red.tags.lastSent.contains 9 = true ∧ St.tags.red.tags.inUse.contains 9 = true ∧
    St.tags.red.tags.quarantine.any (fun q => q.1 == 10 && q.2 ≤ St.tags.now) = true := ⟨State.inv_plain rfl (by decide +kernel), by decide +kernel⟩
theorem wit_TagsChannelsVote_enable : St.red.rdB (Fld.redChCfg.enable 3) = false ∧ (St.red.writePlain (Reg.redChCfg 3) (1 + 2 * 4 + 2 ^ 29)).2 = true ∧
    (St.red.writePlain (Reg.redChCfg 3) (1 + 2 * 4 + 2 ^ 29)).1.chanOk 3 = true ∧ St.red.isOpen 0 = true ∧
    (St.red.writePlain (Reg.redChCfg 3) (1 + 2 * 4 + 2 ^ 9 * 2 + 2 ^ 29)).1.chanOk 3 = false := by decide +kernel
theorem wit_TagsChannelsVote_vote : St.voting.halted = false ∧ (St.voting.red.votes.find? St.voting.voteDue).isSome = true := by decide +kernel

/-! ## Fulling -/

/-- A load of slot 3 under way, its image valid, too short, or of another slot; slot 5 is in use. -/
--~ St.load St.load 3 true; St.load 3 false; St.load 4 true
def St.load (slot : Fin 16) (good : Bool) : State :=
  { St.run with ful := { load := some { slot := slot, words := [0x241, 0, 0x5, if good then 1 + 8 * 2 ^ 12 + 8 * 2 ^ 17 else 0x3F], count := 4 },
                         queues := (Vector.replicate 4 {}).set 1 ({ task := some { desc := { prog := 5 } } } : FulQueue) } }
/-- Queue 1 enabled, issue pair 1 and done pair 0 with counts, descriptors at 0x8000. -/
def St.fulBase : State :=
  (((({ St.open' with now := 100000000, syn := { pairs := (Vector.replicate 512 ({ p := 3, c := 1, depth := 8 } : Pair)).set 300 {} } }.wr Fld.fulCtrl.enable 1).wr
    (Fld.fulQCfg.enable 1) 1).wr (Fld.fulQCfg.base 1) 0x200).wr (Fld.fulQSync.issuePair 1) 1)
/-- A task of one element with program 17 (NORM): plain, waiting on pair 300, or naming an empty slot. -/
def St.fulBytes (prog : Byte) (sync : List Byte) : List Byte :=
  leBytes 8 3 ++ leBytes 4 0 ++ leBytes 4 7 ++ [prog, 0, 0, 0, 0, 0, 0, 0] ++ sync ++ zeros 4 ++ leBytes 8 1 ++ zeros 8 ++ leBytes 8 0x40 ++ leBytes 8 0x1000
--~ St.fulIssue St.fulIssue 17 [0,0,0,0]; St.fulIssue 17 [44,3,0,0]; St.fulIssue 17 [7,2,0,0]; St.fulIssue 3 [0,0,0,0]
def St.fulIssue (prog : Byte) (sync : List Byte) : State := { St.fulBase with mem := Memory.putBytes [] 0x8000 (St.fulBytes prog sync) }
/-- A task of one element that adds it to itself: at a stage, gated or direct. -/
def St.task (stage : FulStage) (gate direct : Bool) : FulTask :=
  { desc := { step := 3, e := 1, gate := gate, clip := gate, direct := direct, port := if direct then 2 else 0, param := 0x40, inAddr := [0x1000], outAddr := [0x2000],
              ifmt := [0], ofmt := [0] },
    stage := stage, prog := { nin := 1, nout := 1, osrc := [0], skip := [5], ops := [mop opADD 0 (oI 0) (oI 0)] }, addr := 0x8000, arrival := if direct then some 0 else none }
--~ St.tasking St.tasking .waitPair false false 3; St.tasking .waitPair true false 3; St.tasking .waitGate true false 3; St.tasking .waitGate true false 4; St.tasking .waitGate true false 2; St.tasking .run false false 3; St.tasking .run false true 3
def St.tasking (stage : FulStage) (gate direct : Bool) (step : W64) : State :=
  { St.fulBase.wr (Fld.fulPortCfg.queue 2) 1 with
    mem := [(0x1002, 0x80), (0x1003, 0x3F)],
    ful := { queues := (Vector.replicate 4 {}).set 1 ({ task := some (St.task stage gate direct) } : FulQueue), gate := { opened := true, step := step, skip := true, clipK := 7 },
             ports := (Vector.replicate 8 {}).set 2 ({ pieces := [{ ch := 2, seq := 7, first := 0, len := 1 }] } : StreamPort) } }
/-- The vote of the task's step has failed while it waits; or the head piece of its port is that of an aborted bucket. -/
--~ St.upstream St.upstream
def St.upstream : State :=
  let s := St.tasking .waitPair true true 3
  { s with ful := { s.ful with gate := { s.ful.gate with failed := [(3, St.barrierTimeout)] },
                               ports := (Vector.replicate 8 {}).set 2 ({ pieces := [{ ch := 2, seq := 7, first := 0, len := 1, dead := some St.lengthShort }] } : StreamPort) } }
/-- The task has taken its block and posts on pair 5, which has room or is full; or it waits for its done count. -/
--~ St.posting St.posting 8 false; St.posting 2 false; St.posting 8 true
def St.posting (depth : Nat) (posted : Bool) : State :=
  let t0 := St.task .run false false
  { St.fulBase with
    syn := { pairs := (Vector.replicate 512 ({ p := 3, c := 1, depth := 8 } : Pair)).set 5 ({ p := 3, c := 1, depth := depth } : Pair) },
    ful := { queues := (Vector.replicate 4 {}).set 1 ({ task := some { t0 with taken := [0], posted := posted, desc := { t0.desc with postEn := true, postPair := 5 } } } : FulQueue) } }
/-- The task has taken its block, with a non-finite element or not. -/
--~ St.taken St.taken none; St.taken (some 0)
def St.taken (nf : Option Nat) : State :=
  { St.fulBase with ful := { queues := (Vector.replicate 4 {}).set 1 ({ task := some { St.task .run false false with taken := [0], nonfinite := nf } } : FulQueue) } }

theorem wit_FullingPrograms : (St.load 3 true).Inv ∧ (St.load 3 true).powered = true ∧ (St.load 3 true).slotBusy 5 = true ∧ (St.load 3 true).slotBusy 3 = false ∧
    ((St.load 3 true).ful.load.map (fun l => imageCheck l.words l.count)) = some 0 ∧
    ((St.load 3 false).ful.load.map (fun l => imageCheck l.words l.count)) = some 3 ∧ St.run.ful.load = none :=
  ⟨State.inv_plain rfl (by decide +kernel), by decide +kernel⟩
theorem St.fulBase_pairs (n : Nat) (hn : n < 512) :
    (vget ((Vector.replicate 512 { p := 3, c := 1, depth := 8 } : Vector Pair 512).set 300 ({} : Pair)) n {}).ok = true := by
  simp only [vget, Vector.getElem?_set, Vector.getElem?_replicate, hn, if_true]
  split <;> decide
theorem wit_FullingTasks : (St.fulIssue 17 [0, 0, 0, 0]).rd (Fld.fulQSync.issuePair 1) = 1 ∧ (St.fulIssue 17 [0, 0, 0, 0]).halted = false ∧
    (St.fulIssue 17 [0, 0, 0, 0]).hw = true ∧ (St.fulIssue 17 [0, 0, 0, 0]).rdB Fld.fulCtrl.enable = true ∧
    (let d := fulDesc ((St.fulIssue 17 [0, 0, 0, 0]).load 0x8000 192); let p := (St.fulIssue 17 [0, 0, 0, 0]).fulProgram d
     p = some progNorm ∧ (St.fulIssue 17 [0, 0, 0, 0]).fulMalformed ((St.fulIssue 17 [0, 0, 0, 0]).load 0x8000 192) d progNorm 0 = false) := by decide +kernel
theorem wit_FullingTasks_wait : (let d := fulDesc ((St.fulIssue 17 [44, 3, 0, 0]).load 0x8000 192)
     d.waitEn = true ∧ d.waitPair = 300 ∧ (St.fulIssue 17 [44, 3, 0, 0]).pair 300 = {}) ∧
    (fulDesc ((St.fulIssue 17 [7, 2, 0, 0]).load 0x8000 192)).waitPair = 7 ∧ (St.fulIssue 17 [7, 2, 0, 0]).pair 7 = { p := 3, c := 1, depth := 8 } ∧ (St.fulIssue 17 [7, 2, 0, 0]).quiet = true ∧
    (St.fulIssue 3 [0, 0, 0, 0]).fulProgram (fulDesc ((St.fulIssue 3 [0, 0, 0, 0]).load 0x8000 192)) = none := by decide +kernel
theorem wit_FullingTasks_stages : (St.tasking .waitGate true false 3).ful.gate.step = (St.task .waitGate true false).desc.step ∧
    (St.task .waitGate true false).desc.step.toNat < (St.tasking .waitGate true false 4).ful.gate.step.toNat ∧
    (St.tasking .waitGate true false 2).ful.gate.step.toNat < (St.task .waitGate true false).desc.step.toNat ∧
    (St.tasking .run false true 3).rd (Fld.fulPortCfg.queue 2) = 1 ∧ (St.tasking .waitPair true false 3).ful.gate.failed = [] ∧
    (St.upstream.ful.gate.failed.find? (fun f => f.1 == 3)).isSome = true ∧ ((St.upstream.port 2).pieces.head?.bind (fun h => h.dead)) = some St.lengthShort ∧
    (St.tasking .waitGate true false 3).quiet = true := by decide +kernel
theorem St.tasking_inv : (St.tasking .run false false 3).Inv where
  regs := by decide +kernel
  mem := by decide
  sump := rfl
  store := rfl
  blocks := rfl
  area := rfl
  pairs n hn := by
    have h : (St.tasking .run false false 3).syn.pairs = (Vector.replicate 512 { p := 3, c := 1, depth := 8 }).set 300 ({} : Pair) := rfl
    simp only [State.pair, h]; exact St.fulBase_pairs n hn
theorem wit_FullingBlocks : (St.tasking .run false false 3).hw = true ∧ (St.task .run false false).desc.blocks = 1 ∧ (St.task .run false false).desc.blockLen 0 = 1 ∧
    (St.taken none).rd (Fld.fulQSync.donePair 1) = 0 ∧ (St.taken none).pair 0 = { p := 3, c := 1, depth := 8 } ∧
    ((List.range 1).any (fun b => !(St.task .run false true).taken.contains b && !(St.tasking .run false true 3).blockReady (St.task .run false true) b)) = true ∧
    (St.tasking .run false true 3).elapsed 0 (usTicks ((St.tasking .run false true 3).rd Fld.fulWd.streamWdUs)) = true ∧
    ((St.tasking .run false false 3).laneGrant 1).1 = some 1 ∧ (St.tasking .run false false 3).quiet = true ∧ (St.taken none).quiet = true ∧
    (St.taken none).pieceDone (St.task .run false false) = true := by decide +kernel
theorem wit_FullingBlocks_post : (St.posting 8 false).pair 5 = { p := 3, c := 1, depth := 8 } ∧ (St.posting 2 false).pair 5 = { p := 3, c := 1, depth := 2 } ∧
    (St.posting 8 true).unitHolds (.fulling 1) = false ∧ (St.posting 8 true).quiesced = false ∧
    (((St.posting 2 false).produce 5 1 (.fulling 1)).1.unitHolds (.fulling 1)) = true := by decide +kernel
/-- 1.0 + 1.0 = 2.0 in a lane (R128). -/
theorem test_lane_adds : (match exec (.laneTakesBlock 0 1 0) (St.tasking .run false false 3) with | .next t => t.loadN 0x2000 4 | _ => 0) = 0x40000000 := by
  decide +kernel

/-! ## Cuts -/

/-- A PARAM region of 1000 words, a carded one of 4 KiB and a Sump region. -/
def St.regions (sump : Bool) : List Region :=
  [{ shard := 7, kind := 1, len := 4096, live := 0x40000, elems := 1000 }, { shard := 8, kind := 2, offset := 4096, len := 8192, elems := 2040 }] ++
    (if sump then [{ shard := 9, kind := 3, len := 4096, live := 0x50000, elems := 1024 }] else [])
/-- The cut unit serves; partner at position 3, UFL port 0; pairs with counts. -/
def St.cutUnit (u : CutUnit) : State :=
  (((((({ St.open' with
      now := 100000000, cut := u, syn := { pairs := Vector.replicate 512 { p := 3, c := 1, depth := 8 } } }.wr Fld.tierCutCtrl.enable 1).wr
    Fld.tierCutqCfg.enable 1).wr Fld.tierCutqCfg.base 0x100).wr Fld.tierPartner.position 3).wr Fld.tierPartner.valid 1).wr Fld.tierFeltPorts.uflMask 1).wr
    Fld.tierFeltCfg.feltLanes 4 |>.wr Fld.tierCtrl.feltEn 1 |>.wr Fld.tierBattA.base 0x100 |>.wr Fld.tierBattSize.size 0x10000
/-- A descriptor of the next cut, good or of the wrong SEQ; its half empty or taken. -/
--~ St.toOpen St.toOpen 5 .empty false; St.toOpen 5 .held false; St.toOpen 5 .held true; St.toOpen 9 .empty false
def St.toOpen (seq : Byte) (a : Half) (sump : Bool) : State :=
  { St.cutUnit { nextSeq := 5, halfA := a, dir := St.regions sump } with
    mem := Memory.putBytes [] (0x4000 + 64 * 5) (leBytes 8 3 ++ [seq, 0, 0, 0, 2, 0, 0, 0]) }
/-- One cut of STEP 3 in progress. -/
def St.aCut (st : CutState) : Cut :=
  { seq := 4, step := 3, st := st, half := some false, bytes := 12160, record := zeros 16, sealTaken := true, accepted := st != .opened, recSent := true }
def St.withCut (c : Cut) (sump : Bool) : State :=
  { St.cutUnit { nextSeq := 5, halfA := .felting, dir := St.regions sump, cuts := [c] } with map := [(0, { shard := 7, tier := 0, st := .written, gen := 0, step := 3, firstExt := 0, extCount := 1, loc := 6 })] }
--~ St.opened St.opened 12160 true false; St.opened 12160 false false; St.opened 12160 true true; St.opened 5 true false; St.opened 99999 true false
def St.opened (bytes : Nat) (taken sump : Bool) : State :=
  St.withCut { St.aCut .opened with bytes := bytes, sealTaken := taken, sumpRuns := sump } sump
def St.sealBattless : State := St.withCut { St.aCut .opened with half := none, battless := true } false
/-- A seal count is due for a cut that has ended. -/
def St.late : State := St.withCut { St.aCut .abandoned with sealTaken := false, arrived := true, doneOut := true } false
/-- Two sets of one owner; the first in a state. -/
--~ St.host St.host .free 8; St.host .free 1; St.host .filling 8; St.host .committed 8; St.host .held 8
def St.host (st : SetState) (pages : Nat) : State :=
  { ((((St.open'.wr (Fld.tierOwner.valid 0) 1).wr (Fld.tierOwner.position 0) 2).wr (Fld.tierOwner.rack 0) 1).wr (Fld.tierOwner.setPages 0) 2).wr Fld.tierSedgePool.pages pages |>.wr
      Fld.tierSedgePool.base 0x10 |>.wr (Fld.tierOwner.tMib 0) 1 with
    sedge := (Vector.replicate 8 {}).set 0 (if st = .free then ({} : SedgeSet) else { st := st, step := 3, pages := [0, 1], reported := true }) |>.set 1 { st := .held, step := 2, pages := if pages = 1 then [] else [2] } }
/-- Both sets are taken. -/
def St.hostFull : State := { St.host .held 8 with sedge := Vector.replicate 8 { st := .held } }
def St.cutF (ty : BitVec 8) (off : BitVec 48) (pay : List Byte) : Frame :=
  let f : Frame := { srcRack := 1, srcPos := 2, stepLo := 3, tag := 9, gen := 1, offset := off, count := BitVec.ofNat 16 (pay.length / 4), payload := pay }
  { f with crc := Frame.crcOf ty f }
/-- A cut that felts, with what has been read, sent and acknowledged. -/
def St.felts (sums : List Nat) (man out : Bool) : Cut :=
  { St.aCut .felting with
    sums := sums.map (fun i => { region := i, digest := zeros 48, crcs := [0] }), manSent := man, group := zeros 48, accepted := true,
    out := if out then [{ tag := 9, gen := 1, off := 4096, words := 4, tick := 0, commit := false }] else [] }
--~ St.felting St.felting [] false false; St.felting [0] false true; St.felting [0, 1] false false; St.felting [0, 1] true false
def St.felting (sums : List Nat) (man out : Bool) : State :=
  { St.withCut (St.felts sums man out) false with red := { tags := { inUse := if out then [9] else [] } } }
--~ St.waitsReply St.waitsReply false; St.waitsReply true
def St.waitsReply (full : Bool) : State :=
  { St.withCut { St.aCut .felting with accepted := false } false with
    map := if full then (List.replicate 131072 (0, ({ shard := 7, tier := 0, st := .written, gen := 0, step := 2, firstExt := 0, extCount := 1, loc := 6 } : MapEntry))) else [] }
/-- Lane 2 reads region 1. -/
--~ St.reading St.reading 1; St.reading 0
def St.reading (i : Nat) : State :=
  { St.withCut { St.felts [] false false with runs := [{ region := i, lane := 2, scan := 7 }] } false with
    chk := { lanes := (Vector.replicate 32 none).set 2 (some (.felt 4 i)), ctxs := [(7, .felt 4 i)] } }
/-- A cut felted again. -/
def St.refelting : State := St.withCut { St.felts [] false true with st := .jobCommitted, refelt := true, arrived := true } false
/-- The last frame is still to be acknowledged, and the keep has been reported. -/
def St.lastFrame : State :=
  { St.withCut { St.felts [0, 1] true true with feltEnd := some 0, keep := some true } false with red := { tags := { inUse := [9] } } }
/-- A cut that was agreed on before. -/
def St.agreed : State := St.withCut { St.felts [0, 1] true false with st := .agreeing, agreed := true } false |>.wr Fld.tierCutCtrl.replEn 1 |>.wr Fld.tierCutRepl.count 1 |>.wr
    Fld.tierCutRepl.member0 (128 + 2)
/-- All acknowledged, waiting for the keep report; or the keep is late. -/
def St.waitsKeep : State := St.withCut { St.felts [0, 1] true false with feltEnd := some 0 } false
/-- Two or three replicas agree. -/
--~ St.agreeing St.agreeing 1 [(0, 1, leBytes 24 5)]; St.agreeing 1 []; St.agreeing 2 [(0, 1, leBytes 24 5), (1, 0, zeros 24), (1, 1, leBytes 24 5)]; St.agreeing 1 [(0, 1, zeros 24)]; St.agreeing 2 [(0, 1, zeros 24)]
def St.agreeing (k : Nat) (heard : List (Nat × Nat × List Byte)) : State :=
  ((St.withCut { St.felts [0, 1] true false with st := .agreeing, feltEnd := some 0, heard := heard } false).wr Fld.tierCutCtrl.replEn 1).wr Fld.tierCutRepl.count k |>.wr
    Fld.tierCutRepl.member0 (128 + 2)
def St.agreeingNow : State := { St.agreeing 1 [] with now := 5 }
def St.replFelting : State := ((St.felting [0, 1] true false).wr Fld.tierCutCtrl.replEn 1).wr Fld.tierCutRepl.count 1
--~ St.committing St.committing false; St.committing true
def St.committing (again : Bool) : State :=
  St.withCut { St.felts [0, 1] true false with st := if again then .jobCommitted else .committing, refelt := again, comSent := true, arrived := again } false
/-- A directory of one region stands in memory: it keeps R154, or has a bad KIND. -/
--~ St.toEnable St.toEnable 1; St.toEnable 9
def St.toEnable (kind : Byte) : State :=
  { (((St.open'.wr Fld.tierBattDir.base 0x100).wr Fld.tierBattDir.count 1).wr Fld.tierShardTab.base 0x400).wr Fld.tierBattA.base 0x100 |>.wr Fld.tierBattB.base 0x200 |>.wr Fld.tierBattSize.size 0x10000 |>.wr
      Fld.peatCfg.peatBarrier 3 |>.wr Fld.tierRstCtrl.planBarrier 4 |>.wr Fld.tierRstCtrl.releaseBarrier 5 with
    mem := Memory.putBytes (Memory.putBytes [] 0x4000 (leBytes 4 7 ++ [kind, 0, 0, 0] ++ leBytes 8 0 ++ leBytes 8 4096 ++ leBytes 8 0x40000)) 0x8000
      (leBytes 4 1 ++ [1, 0, 0, 0] ++ leBytes 8 1000 ++ leBytes 8 0 ++ leBytes 8 1000) }

theorem wit_CutOpenSeal : (St.toOpen 5 .empty false).Inv ∧ (St.toOpen 5 .empty false).hw = true ∧
    (St.toOpen 5 .empty false).cutDescOk ((St.toOpen 5 .empty false).load ((St.toOpen 5 .empty false).cutDesc 5) 64) 5 = true ∧
    (St.toOpen 9 .empty false).cutDescOk ((St.toOpen 9 .empty false).load ((St.toOpen 9 .empty false).cutDesc 5) 64) 5 = false ∧
    (St.toOpen 5 .held true).half (bitAt (fieldLE ((St.toOpen 5 .held true).load ((St.toOpen 5 .held true).cutDesc 5) 64) 12 1) 0) ≠ .empty ∧
    (St.toOpen 5 .empty false).unitHolds .cutUnit = false ∧ (St.toOpen 5 .empty false).rdB Fld.tierPartner.valid = true :=
  ⟨State.inv_pairs _ rfl (by decide +kernel), by decide +kernel⟩
theorem wit_CutOpenSeal_latch : (St.opened 12160 false false).Inv ∧ (St.late).Inv ∧ (St.opened 12160 true true).Inv ∧
    (St.opened 12160 false false).cut.cuts.reverse.find? (fun c => !c.sealTaken) = some { St.aCut .opened with sealTaken := false } ∧
    (St.opened 12160 true true).cut.cuts.find? (fun c => c.sumpRuns && c.st == .opened) = some { St.aCut .opened with sumpRuns := true } ∧
    ((St.regions true).filter Region.isSump).all (fun r => r.offset + r.len ≤ 2 ^ 48) = true :=
  ⟨State.inv_pairs _ rfl (by decide +kernel), State.inv_pairs _ rfl (by decide +kernel), State.inv_pairs _ rfl (by decide +kernel), by decide +kernel⟩
theorem wit_CutOpenSeal_seal : (St.opened 12160 true false).Inv ∧
    (St.opened 12160 true false).cut.cuts.reverse.find? (fun c => c.st == .opened && c.sealTaken && !c.record.isEmpty && !c.sumpRuns) = some (St.aCut .opened) ∧
    ((St.regions false).filter (fun r => !r.isSump)).foldl (fun n r => n + r.used) 0 = 12160 ∧ 5 < 12160 ∧ 12160 < 99999 :=
  ⟨State.inv_pairs _ rfl (by decide +kernel), by decide +kernel⟩
theorem wit_CutSets : (St.host .free 8).Inv ∧ (St.host .filling 8).Inv ∧ (St.host .free 8).hears 0 Ty.cutNotice (St.cutF Ty.cutNotice 0 (leBytes 8 0)) = true ∧
    (St.host .free 8).slotOf 1 2 = some 0 ∧ [0, 1].find? (fun h => ((St.host .free 8).set (2 * 0 + h)).st == .free) = some 0 ∧
    (St.host .free 8).freePages = [0, 1, 3, 4, 5, 6, 7] ∧ (St.host .free 1).freePages.length < (St.host .free 1).rd (Fld.tierOwner.setPages 0) ∧
    ([0, 1].find? (fun h => (St.hostFull.set (2 * 0 + h)).st == .free)) = none :=
  ⟨State.inv_plain rfl (by decide +kernel), State.inv_plain rfl (by decide +kernel), by decide +kernel⟩
theorem wit_CutSets_reply : (St.waitsReply false).Inv ∧ (St.waitsReply false).hears 0 Ty.cutReply (St.cutF Ty.cutReply 0 (leBytes 8 3)) = true ∧
    (St.waitsReply false).cutOf 3 0 = some { St.aCut .felting with accepted := false } ∧ (St.waitsReply false).cut.dir.length ≤ (St.waitsReply false).mapFree ∧
    frameStep (St.cutF Ty.cutReply 0 (leBytes 8 3)) = 3 :=
  ⟨State.inv_pairs _ rfl (by decide +kernel), by decide +kernel⟩
/-- A Shard Map with less room than the directory has regions. -/
theorem wit_CutSets_full (m : SMap MapEntry) (h : m.length = 131071) : ({ St.waitsReply false with map := m } : State).mapFree < (St.regions false).length := by
  simp [State.mapFree, h, mapSize, St.regions]
theorem wit_CutSets_data : (St.host .filling 8).hears 0 Ty.feltData (St.cutF Ty.feltData 0 (zeros 24)) = true ∧
    (St.host .filling 8).namedSet (St.cutF Ty.feltData 0 (zeros 24)) = some 0 ∧ (St.host .filling 8).setTakes 0 0 24 = true ∧
    (St.host .filling 8).setAddr 0 0 = some (pageBytes * ((St.host .filling 8).rdAddr Fld.tierSedgePool.base / pageBytes)) ∧
    (St.host .held 8).namedSet (St.cutF Ty.setRelease 0 (zeros 8)) = some 0 ∧ (St.host .held 8).set 0 ≠ (St.host .committed 8).set 0 := by decide +kernel
theorem wit_Felting : (St.felting [] false false).Inv ∧ (St.felting [] false false).fw = true ∧
    (St.felting [] false false).cut.cuts.filter Cut.felts = [St.felts [] false false] ∧
    (St.felting [] false false).byLength.find? (fun i => !(St.felts [] false false).started i) = some 1 ∧ (St.felting [] false false).freeLane = some 0 ∧
    ((St.felting [] false false).freeCtx [0, 1, 2]).isSome = true ∧ (St.felting [] false false).lanesFelting < 4 :=
  ⟨State.inv_pairs _ rfl (by decide +kernel), by decide +kernel⟩
theorem wit_Felting_region : (St.reading 1).Inv ∧ (St.reading 1).hw = true ∧ vget (St.reading 1).chk.lanes 2 none = some (.felt 4 1) ∧
    (St.reading 1).canFelt = true ∧ ((St.reading 1).findCut 4).isSome = true := ⟨State.inv_pairs _ rfl (by decide +kernel), by decide +kernel⟩
theorem wit_Felting_ack : (St.felting [0] false true).Inv ∧ St.refelting.Inv ∧
    (St.felting [0] false true).hears 0 Ty.feltAck (St.cutF Ty.feltAck 4096 (zeros 16)) = true ∧
    (St.felts [0] false true).out.any (fun o => o.tag == 9 && o.gen == 1 && o.off == 4096 % 2 ^ 38 && o.words == 4) = true ∧
    St.lastFrame.Inv ∧ St.lastFrame.hears 0 Ty.feltAck (St.cutF Ty.feltAck 4096 (zeros 16)) = true ∧ St.lastFrame.canFelt = true ∧ St.lastFrame.replOn = false ∧
    (St.felting [0] false true).elapsed 0 (usTicks ((St.felting [0] false true).rd Fld.tierCutWd.keepWdUs)) = true :=
  ⟨State.inv_pairs _ rfl (by decide +kernel), State.inv_pairs _ rfl (by decide +kernel), by decide +kernel, by decide +kernel, State.inv_pairs _ rfl (by decide +kernel), by decide +kernel⟩
theorem wit_Felting_done : (St.felting [0, 1] false false).Inv ∧ St.replFelting.Inv ∧ (St.felting [0, 1] false false).allRead (St.felts [0, 1] false false) = true ∧
    (St.felting [0, 1] false false).canFelt = true ∧ St.replFelting.replOn = true ∧ (St.felts [0, 1] true false).heard = [] :=
  ⟨State.inv_pairs _ rfl (by decide +kernel), State.inv_pairs _ rfl (by decide +kernel), by decide +kernel⟩
theorem wit_CutAgreement_keep : St.waitsKeep.Inv ∧ St.waitsKeep.hears 0 Ty.keepReport (St.cutF Ty.keepReport 0 (leBytes 8 1)) = true ∧
    (St.waitsKeep.cutOf 3 0).isSome = true ∧ St.waitsKeep.canFelt = true ∧ St.waitsKeep.replOn = false ∧
    St.waitsKeep.elapsed 0 (usTicks (St.waitsKeep.rd Fld.tierCutWd.keepWdUs)) = true := ⟨State.inv_pairs _ rfl (by decide +kernel), by decide +kernel⟩
theorem wit_CutAgreement_digest : (St.agreeing 1 [(0, 1, zeros 24)]).Inv ∧
    (St.agreeing 1 [(0, 1, zeros 24)]).hears 0 Ty.digest (St.cutF Ty.digest 0 (zeros 24)) = true ∧
    (St.agreeing 1 [(0, 1, zeros 24)]).replMembers.findIdx? (fun m => m == (1, 2)) = some 0 ∧
    (({ St.felts [0, 1] true false with heard := [(0, 1, zeros 24), (0, 0, zeros 24)] } : Cut).memberDigest 0 = some (St.felts [0, 1] true false).group) ∧
    (({ St.felts [0, 1] true false with heard := [(0, 1, leBytes 24 5), (0, 0, zeros 24)] } : Cut).memberDigest 0 ≠ some (St.felts [0, 1] true false).group) ∧
    (St.agreeing 1 []).elapsed 0 (usTicks ((St.agreeing 1 []).rd Fld.tierCutWd.xchgWdUs)) = true ∧
    St.agreeingNow.elapsed 0 (usTicks (St.agreeingNow.rd Fld.tierCutWd.xchgWdUs)) = false := ⟨State.inv_pairs _ rfl (by decide +kernel), by decide +kernel⟩
theorem wit_CutAgreement_majority : St.agreed.hears 0 Ty.digest (St.cutF Ty.digest 0 (zeros 24)) = true ∧ (St.agreed.cutOf 3 0).map (fun c => c.agreed) = some true ∧
    ((List.range 2).map ({ St.felts [0, 1] true false with heard := [(0, 0, zeros 24), (0, 1, leBytes 24 5), (1, 0, zeros 24), (1, 1, leBytes 24 5)] } : Cut).memberDigest).all
      (fun g => g == some (zeros 24 ++ leBytes 24 5)) = true := by decide +kernel
theorem wit_CutAgreement_ack : (St.committing false).Inv ∧ (St.committing true).Inv ∧
    ((St.committing false).cut.cuts.reverse.find? (fun c => (c.st == .committing || (c.refelt && c.comSent)) && c.out.isEmpty)).isSome = true ∧
    (St.committing false).cut.cuts.reverse.find? (fun c => !c.arrived) = (St.committing false).findCut 4 :=
  ⟨State.inv_pairs _ rfl (by decide +kernel), State.inv_pairs _ rfl (by decide +kernel), by decide +kernel⟩
theorem wit_CutAgreement_enable : (St.toEnable 1).Inv ∧ (St.toEnable 1).dirOk = true ∧ (St.toEnable 9).dirOk = false ∧ (St.toEnable 1).powered = true ∧
    ((St.toEnable 1).writePlain Reg.tierCutCtrl 1).2 = true ∧ ((St.toEnable 1).writePlain Reg.tierCutCtrl 1).1.commitShared 0 = false ∧
    ((St.toEnable 1).writePlain Reg.tierCutCtrl 13).1.commitShared 3 = true := ⟨State.inv_plain rfl (by decide +kernel), by decide +kernel⟩
theorem wit_CutAgreement_disable : ((St.opened 5 true false).writePlain Reg.tierCutCtrl 0).2 = true ∧
    ((St.opened 5 true false).cut.cuts.map (·.seq)).Nodup ∧ (St.opened 5 true false).rdB Fld.tierCutCtrl.enable = true := by decide +kernel

/-! ## Peat and key slots -/

/-- A drive of 40 units. -/
def St.drive : Drive := { present := true, flit := true, rate := 5, width := 8, spaces := [(20480, true)] }
/-- The port off or on, PEAT_PERST_N high, and a drive. -/
def St.port (on : Bool) (st : PeatState) (d : Drive) : State :=
  { St.run with board := { pfailN := true, holdupOk := true, perstN := true }, peat := { st := st, linkUp := on, drive := d, cat := if on then some ({}, false) else none } }.wrB
    Fld.peatCtrl.enable on
/-- The same drive after a format, with another serial number or not. -/
def St.formatted (serial : W64) : Drive :=
  { ({ St.port true .ready St.drive with part := { serial := serial } } : State).peatFormat.peat.drive with ready := true }
--~ St.portOff St.portOff {}; St.portOff { St.drive with rate := 3 }; St.portOff { St.drive with ready := true }; St.portOff (St.formatted 0); St.portOff (St.formatted 9)
def St.portOff (d : Drive) : State := St.port false .absent d
def St.portDown : State := { St.portOff St.drive with board := { pfailN := true } }
--~ St.portInit St.portInit St.drive; St.portInit { St.drive with ready := false }; St.portInit { (St.formatted 0) with ready := false }
def St.portInit (d : Drive) : State := St.port true .init d
--~ St.portOn St.portOn false; St.portOn true
def St.portOn (armed : Bool) : State := (St.port true .ready St.drive).wrB Fld.peatCtrl.formatArm armed
def St.portDrain : State :=
  let s := St.portOn false
  { s with peat := { s.peat with drain := some { seq := 4, peatGen := 7 } } }
/-- A cut is pinned for Peat; its drain in a step, with writes at the drive. -/
def St.pinned : Cut := { St.aCut .jobCommitted with pinned := true, arrived := true, jobc := true }
def St.draining (st : PeatState) (d : Option DrainStep) (ws : List NvmeWrite) (retried : Bool) : State :=
  { (St.withCut St.pinned false) with
    cut := { nextSeq := 5, halfA := .pinned, dir := St.regions false, cuts := [St.pinned] },
    map := [(0, { shard := 7, tier := 1, st := if d = some DrainStep.catalogue then .written else .filling, gen := 0, step := 3, firstExt := 0, extCount := 1, loc := 7 })],
    peat := { st := st, linkUp := true, cat := some ({ catSeq := 2 }, false), drive := St.drive, nvme := ws,
              drain := d.map (fun x => { seq := 4, peatGen := 7, step := x, need := if x = DrainStep.reservation then 3 else 0, units := if x = DrainStep.reservation then [] else [1, 2, 3], retried := retried }) } }.wr
    Fld.tierCtrl.feltEn 0 |>.wr Fld.tierCtrl.peatEn 1 |>.wr Fld.peatGenHigh.genHigh 7
def St.wrote (o : NvmeOwner) (retried : Bool) : NvmeWrite :=
  { owner := o, key := if o = .drain then 0x200000 else 8192, bytes := if o = .drain then [1, 2, 3] else Catalogue.bytes 0 { catSeq := 3, entries := [{ peatGen := 7, step := 3 }] }, retried := retried }
/-- The drain is to start. -/
--~ St.toDrain St.toDrain .ready; St.toDrain .foreign
def St.toDrain (st : PeatState) : State := St.draining st none [] false
/-- The drain is to be encrypted with key slot 0, which is loaded or not. -/
--~ St.toEncrypt St.toEncrypt true; St.toEncrypt false
def St.toEncrypt (loaded : Bool) : State :=
  let s := St.toDrain .ready
  { s with sec := { slots := (Vector.replicate 16 ({} : KeySlot)).set 0 { kind := 1, bytes := leBytes 64 5, loaded := loaded } } }.wr Fld.peatCfg.xtsEn 1
/-- The drive has only two units. -/
def St.smallDrive : State := let s := St.toDrain .ready; { s with peat := { s.peat with drive := { St.drive with spaces := [(1024, true)] } } }
--~ St.reserving St.reserving false []; St.reserving true []; St.reserving false [{ region := 0, digest := [], crcs := [1] }]
def St.reserving (pf : Bool) (sums : List RegionSum) : State :=
  let s := St.draining .ready (some .reservation) [St.wrote .reservation false] false
  { s with board := { s.board with pfWork := pf }, cut := { s.cut with cuts := [{ St.pinned with sums := sums }] } }
--~ St.writing St.writing false; St.writing true
def St.writing (retried : Bool) : State := St.draining .ready (some .writes) [St.wrote .drain retried] false
--~ St.flushing St.flushing false false; St.flushing false true; St.flushing true false
def St.flushing (pf retried : Bool) : State :=
  let s := St.draining .ready (some .flush) [] retried
  { s with board := { s.board with pfWork := pf } }
def St.cataloguing : State := let s := St.draining .ready (some .catalogue) [St.wrote .catalogue false] false
  { s with peat := { s.peat with nextGens := [{ peatGen := 7, units := [1, 2, 3], man := [3] }] } }
/-- Not every write of the drain had started when the power failed. -/
def St.shortWrites : State := let s := St.writing false
  { s with peat := { s.peat with drain := s.peat.drain.map (fun d => { d with short := true }) } }
/-- The units that the drain reserved are no longer there. -/
def St.noUnits : State := let s := St.reserving false []
  { s with peat := { s.peat with drive := { St.drive with spaces := [(1024, true)] } } }
/-- Rewrites with the drive: their Flush, or their catalogue write. -/
--~ St.rewrites St.rewrites true false; St.rewrites true true; St.rewrites false false
def St.rewrites (flushing retried : Bool) : State :=
  let s := St.draining .ready none (if flushing then [] else [St.wrote .catalogue false]) false
  { s with peat := { s.peat with flushing := flushing, retried := retried, taking := [({ peatGen := 6, moves := [], q := 0, order := 1 }, 7)],
                                 nextGens := [{ peatGen := 7, units := [1, 2, 3], man := [] }], nextEntries := [{ peatGen := 7, step := 3 }] } }
/-- A drain waits while the drive comes up. -/
def St.drainWaits : State := { St.draining .init none [] false with regs := ((St.draining .init none [] false).wr Fld.peatCtrl.enable 1).regs }
/-- The link is down, and has to train. -/
--~ St.trains St.trains true; St.trains false
def St.trains (flit : Bool) : State := let s := St.portInit { St.drive with flit := flit, width := 4 }
  { s with peat := { s.peat with linkUp := false } }
/-- ENABLE is 0 and the port has not idled. -/
def St.notIdle : State := St.portDrain.wr Fld.peatCtrl.enable 0
/-- A FLUSH waits for a rewrite; or a READ SHARD at Peat runs. -/
--~ St.peatCmd St.peatCmd 3 1 false; St.peatCmd 1 3 false; St.peatCmd 1 3 true
def St.peatCmd (opc tier : Byte) (retried : Bool) : State :=
  { St.portOn false with cmd := { ctxs := [(0, { q := 0, sqHead := 0, pushed := false, entry := [opc] ++ zeros 16 ++ [tier] ++ zeros 46, order := 1, waits := [1], retried := retried })] } }
/-- Generation 5 is retained, and exported or not. -/
--~ St.exporting St.exporting false; St.exporting true
def St.exporting (was : Bool) : State :=
  { St.port true .ready St.drive with
    map := [(0, { shard := 7, tier := if was then 2 else 1, st := .committed, gen := 0, step := 3, firstExt := 0, extCount := 1, loc := 5 })],
    peat := { st := .ready, linkUp := true, drive := St.drive, cat := some ({ entries := [{ peatGen := 5 }] }, false) } }.wr (Fld.peatPin.exported 0) (b2n was) |>.wr (Fld.peatPin.gen 0) 5
/-- Key words loaded for slot 3, of a kind and length. -/
--~ St.keyLoad St.keyLoad 1 63 8 true; St.keyLoad 1 63 8 false; St.keyLoad 1 63 2 true; St.keyLoad 2 19 3 true; St.keyLoad 2 127 16 true
def St.keyLoad (kind len words : Nat) (differ : Bool) : State :=
  { St.run with sec := { load := some { slot := 3, words := (List.range words).map (fun i => if differ then BitVec.ofNat 64 (i + 1) else 7) } } }.wr
    Fld.secKeyCtrl.kind kind |>.wr Fld.secKeyCtrl.len len
/-- The drain uses key slot 3. -/
def St.keyUsed : State := { St.run with peat := { drain := some { seq := 4, peatGen := 7, key := some (zeros 64, 3) } } }

theorem wit_PeatPort : (St.portOff St.drive).Inv ∧ St.portDown.Inv ∧ ((St.portOff St.drive).writePlain Reg.peatCtrl 1).2 = true ∧
    (St.portOff St.drive).rdB Fld.peatCtrl.enable = false ∧ (St.portOn true).rdB Fld.peatCtrl.enable = true ∧ (St.drive.present && St.drive.flit) = true :=
  ⟨State.inv_plain rfl (by decide +kernel), State.inv_plain rfl (by decide +kernel), by decide +kernel⟩
theorem wit_PeatPort_format : (St.portOn true).Inv ∧ ((St.portOn true).writePlain Reg.peatCtrl 7).2 = true ∧ (St.portOn true).rdB Fld.peatCtrl.formatArm = true ∧
    (St.portOn true).catBusy = false ∧ St.drive.keyAt 0 0 = some 0 ∧ (St.portOn false).rdB Fld.peatCtrl.formatArm = false ∧ (St.portOn true).peat.st ≠ .init :=
  ⟨State.inv_plain rfl (by decide +kernel), by decide +kernel⟩
theorem wit_PeatPort_ready : (St.portInit St.drive).Inv ∧ (St.portInit St.drive).peat.st = .init ∧ St.drainWaits.Inv ∧ (St.drainWaits.cut.cuts.map (·.seq)).Nodup ∧
    St.pinned.pinned = true ∧ (St.portOn true).fw = true ∧ (St.trains true).peat.linkUp = false ∧ (St.trains true).peat.st = .init ∧ (St.trains false).peat.drive.flit = false ∧
    (St.notIdle.peat.linkUp && St.notIdle.peat.st != .init) = true :=
  ⟨State.inv_plain rfl (by decide +kernel), by decide +kernel, State.inv_pairs _ rfl (by decide +kernel), by decide +kernel⟩
theorem wit_PeatDrains : (St.toDrain .ready).Inv ∧ (St.toDrain .ready).nextDrain = some St.pinned ∧ ((St.toDrain .ready).freeCtx [3]).isSome = true ∧
    (St.toDrain .ready).peatWriteStop = none ∧ (St.toDrain .foreign).peatWriteStop = some St.peatForeign ∧
    ((St.toDrain .ready).dirExtents + 1) / 2 + ((St.toDrain .ready).manLen + 0x1FFFFF) / 0x200000 ≤ (St.toDrain .ready).freeUnits ∧
    St.smallDrive.freeUnits < (St.smallDrive.dirExtents + 1) / 2 + (St.smallDrive.manLen + 0x1FFFFF) / 0x200000 ∧
    (St.toDrain .ready).peat.drive.keyAt 0 (slotOff true) = some 8192 ∧ ((St.toEncrypt true).keySlot 0).xts = true ∧ ((St.toEncrypt false).keySlot 0).xts = false := ⟨State.inv_pairs _ rfl (by decide +kernel), by decide +kernel⟩
theorem wit_PeatDrains_reserved : (St.reserving false []).Inv ∧ ((St.reserving false []).peat.nvme.find? (fun w => w.owner == .reservation)).isSome = true ∧
    (St.reserving false []).findCut 4 = some St.pinned ∧ (St.reserving true []).board.pfWork = true ∧
    (St.noUnits.takeUnits ((St.noUnits.dirExtents + 1) / 2) []).1.length + ((St.noUnits.takeUnits ((St.noUnits.dirExtents + 1) / 2) []).2.takeUnits ((St.noUnits.manLen + 0x1FFFFF) / 0x200000)
      (St.noUnits.takeUnits ((St.noUnits.dirExtents + 1) / 2) []).1).1.length < 3 := ⟨State.inv_pairs _ rfl (by decide +kernel), by decide +kernel⟩
/-- With nothing read before, the sums are those of the image: no CRC differs. With another sum, one does. -/
theorem wit_PeatDrains_sums : (List.range (St.regions false).length).all (fun i =>
      (((St.reserving false []).allSums St.pinned).getD i { region := i, digest := [], crcs := [] }).region == i) = true ∧
    (((St.reserving false []).allSums { St.pinned with sums := [{ region := 0, digest := [], crcs := [1] }] }).getD 0 { region := 0, digest := [], crcs := [] }).crcs = [1] := by
  decide +kernel
theorem wit_PeatDrains_later : (St.writing false).Inv ∧ (St.flushing false false).Inv ∧ St.cataloguing.Inv ∧ (St.flushing false false).pfPast .flush = false ∧
    (St.flushing true false).pfPast .flush = true ∧ (St.cataloguing.peat.nvme.find? (fun w => w.owner == .catalogue)).isSome = true ∧
    (St.writing false).peat.nvme.filter (fun w => w.owner == .drain) = [St.wrote .drain false] ∧ (St.flushing false false).catBusy = false ∧
    (St.shortWrites.peat.drain.map (fun d => d.short)) = some true ∧ (St.rewrites true false).peat.flushing = true ∧ (St.rewrites false false).peat.drain = none :=
  ⟨State.inv_pairs _ rfl (by decide +kernel), State.inv_pairs _ rfl (by decide +kernel), State.inv_pairs _ rfl (by decide +kernel), by decide +kernel⟩
theorem wit_PeatErrors : (St.writing true).Inv ∧ (St.writing true).peat.nvme.head? = some (St.wrote .drain true) ∧ (St.writing true).peat.linkUp = true ∧
    (St.drainWaits.nvmeIssued 6) = true ∧ ((St.writing true).nvmeIssued 4) = false ∧ ((St.peatCmd 1 3 false).ctxsWith Ctx.readsPeat) = [0] ∧
    (St.flushing false true).Inv ∧ (St.flushing false true).findCut 4 = some St.pinned :=
  ⟨State.inv_pairs _ rfl (by decide +kernel), by decide +kernel, by decide +kernel, by decide +kernel, by decide +kernel, by decide +kernel, State.inv_pairs _ rfl (by decide +kernel), by decide +kernel⟩
theorem wit_PeatErrors_pin : (St.exporting true).Inv ∧ (St.exporting false).Inv ∧ ((St.exporting false).writePlain (Reg.peatPin 0) (5 + 2 ^ 48 + 2 ^ 49)).2 = true ∧
    ((St.exporting false).writePlain (Reg.peatPin 0) (5 + 2 ^ 48 + 2 ^ 49)).1.rdB (Fld.peatPin.pin 0) = true ∧
    (St.exporting false).entries.any (fun e => e.peatGen == 5) = true ∧ (St.exporting false).entries.any (fun e => e.peatGen == 6) = false ∧
    ((St.exporting true).writePlain (Reg.peatPin 0) 5).1.rdB (Fld.peatPin.pin 0) = false :=
  ⟨State.inv_plain rfl (by decide +kernel), State.inv_plain rfl (by decide +kernel), by decide +kernel⟩
theorem wit_KeySlots : (St.keyLoad 1 63 8 true).Inv ∧ (St.keyLoad 1 63 8 true).keyBusy 3 = false ∧ St.keyUsed.keyBusy 3 = true ∧ St.keyUsed.Inv ∧
    (St.run.writePlain Reg.secKeyCtrl (3 + 16 * 1 + 64 * 63 + 0x2000)).2 = true ∧
    (St.run.writePlain Reg.secKeyCtrl (3 + 16 * 1 + 64 * 63 + 0x2000)).1.keyBusy 3 = false ∧ (St.keyUsed.writePlain Reg.secKeyCtrl (3 + 0x2000)).1.keyBusy 3 = true ∧
    (St.keyLoad 1 63 8 true).rd Fld.secKeyCtrl.len + 1 = 64 ∧ (St.run.sec.load = none) ∧ ((St.keyLoad 2 127 16 true).sec.load.elim 0 (fun l => l.words.length)) = 16 :=
  ⟨State.inv_plain rfl (by decide +kernel), by decide +kernel, by decide +kernel, State.inv_plain rfl (by decide +kernel), by decide +kernel⟩

/-! ## Restore -/

/-- Position 9 of rack 1, in epoch 7; the rack's Warden is at position 2. -/
def St.follower : State :=
  (({ St.open' with now := 100000000, rst := { epoch := 7 } }.wr Fld.tierIdent.rack 1).wr Fld.tierIdent.position 9).wr Fld.ctlElect.wardenPos 2
/-- A frame of that epoch from position 2. -/
def St.rstF (ty : BitVec 8) (f : Frame) (pay : List Byte) : Frame :=
  let f := { f with srcRack := 1, srcPos := 2, seq := f.seq + 7, payload := pay }
  { f with crc := Frame.crcOf ty f }
/-- The rack's Warden, with position 2 as a member. -/
def St.warden (m : Member) : State := { (St.follower.wr Fld.ctlElect.role 1).wr Fld.ctlElect.wardenPos 9 with warden := { members := [m] } }
--~ St.hears St.hears .alive false 0 9; St.hears .failed true 0 9; St.hears .failed false 0 9; St.hears .unknown false 100000000 9; St.hears .alive true 0 9; St.hears .alive false 100000000 9; St.hears .alive false 0 3
def St.hears (c : MemberClass) (standby : Bool) (hb : Nat) (rack : BitVec 10) : State :=
  St.warden { rack := if rack = 9 then 1 else rack, pos := 2, cls := c, standby := standby, lastHb := hb }
/-- A Warden's member in a channel's masks. -/
def St.masks : State := (St.hears .alive false 0 9).wr (Fld.redChPorts.uflMask 3) 0xFFF
/-- Slice 3 has lost block lock. -/
def St.lost : State := { St.follower with board := { St.follower.board with lockLost := 8 } }
/-- The lead, while a job runs, is being restored, or waits. -/
--~ St.leads St.leads .restoring; St.leads .waiting; St.leads .normal
def St.leads (j : JobState) : State :=
  let s := (St.hears .alive false 0 9).wr Fld.ctlElect.role 3
  { s with warden := { s.warden with job := j } }
/-- A running engine with work of every kind. -/
--~ St.busy St.busy .running; St.busy .refill; St.busy .halted
def St.busy (st : RstState) : State :=
  { (St.follower.wr Fld.tierCutCtrl.enable 1) with
    rst := { epoch := 7, st := st, queries := [{ rank := 1, bit := 2, asHost := true, asReplica := false }], sentData := [(9, 1, 0, 4)] },
    red := { tags := { inUse := [9, 11] } },
    ful := { queues := (Vector.replicate 4 {}).set 1 ({ task := some (St.task .run false false) } : FulQueue) },
    sedge := (((Vector.replicate 8 {}).set 0 ({ st := .filling, step := 3, pages := [0] } : SedgeSet)).set 1 ({ st := .committed, step := 2, pages := [1] } : SedgeSet)).set 3 ({ st := .held, step := 1 } : SedgeSet),
    syn := { waits := (Vector.replicate 64 {}).set 5 ({ armed := true } : WaitSlot) },
    cut := { nextSeq := 5, halfA := .felting, dir := [], cuts := [{ St.aCut .felting with accepted := true }] } }
/-- A spare that stands by. -/
--~ St.standsBy St.standsBy .standby; St.standsBy .running
def St.standsBy (st : RstState) : State := { St.follower.wr Fld.ctlElect.eligible 0 with rst := { epoch := 7, st := st } }
/-- A halted survivor whose half holds STEP 3, with a HELD set of it and one of another. -/
--~ St.survivor St.survivor .halted false; St.survivor .planning true
def St.survivor (st : RstState) (supplied : Bool) : State :=
  let s := St.withCut { St.aCut .sedgeCommitted with arrived := true, doneOut := true } false
  { ((s.wr Fld.tierIdent.rack 1).wr Fld.tierIdent.position 9).wr Fld.ctlElect.wardenPos 2 with
    rst := { epoch := 7, st := st, queries := if supplied then [{ rank := 1, bit := 2, asHost := true, asReplica := false }] else [] },
    sedge := ((Vector.replicate 8 {}).set 0 ({ st := .held, step := 3, pages := [0] } : SedgeSet)).set 3 ({ st := .held, step := 1, pages := [1] } : SedgeSet) }
/-- A survivor with a Sump region whose live state is clean for STEP 3. -/
def St.clean : State :=
  let s := St.survivor .halted false
  { ((s.wr Fld.tierRstCtrl.liveCleanEn 1).setReg Reg.tierCutJob 3).wr Fld.tierCutJobInfo.valid 1 with
    rst := { s.rst with liveClean := true }, cut := { s.cut with dir := St.regions true } }
/-- A spare that has been installed. -/
def St.spare : State := { St.survivor .halted false with rst := { epoch := 7, st := .halted, role := .spare } }
/-- A record of STEP 3: every flag, pair and number zero. -/
def St.recBytes : List Byte := let x := leBytes 8 3 ++ zeros 16368; x ++ crc64Bytes x
/-- A state with another memory and another restore. -/
def St.withMem (s : State) (r : Rst) (m : Memory) : State := { s with rst := r, mem := m }
/-- Three bytes of a half, and others in the ring slot of STEP 3. -/
def St.ringMem (b : List Byte) : Memory := Memory.putBytes (Memory.putBytes [] 0x100000 [1, 2, 3]) (3 * 16384) b
/-- Rollback from Batt, with the record in its ring slot or not. -/
--~ St.rolling St.rolling true [(0, 0x10000)]; St.rolling false [(0, 0x10000)]; St.rolling false []; St.rolling true [(0, 8)]
def St.rolling (good : Bool) (want : List (Nat × Nat)) : State :=
  St.withMem (St.survivor .rollback false)
    { epoch := 7, st := .rollback, source := .batt, cutStep := 3, cutValid := true, work := true, dataIn := { want := want, prov := some (.batt, 0) } }
    (St.ringMem (bif good then St.recBytes else []))
/-- A refill from position 2, of which some ranges have not landed. -/
--~ St.refilling St.refilling [(0, 4096), (0x50000, 64)] .sedge 0; St.refilling [] .sedge 0; St.refilling [(4096, 8)] .sedge 100000000; St.refilling [] .peat 0
def St.refilling (want : List (Nat × Nat)) (src : Source) (arrival : Nat) : State :=
  let r : Rst := { epoch := 7, st := .refill, role := .spare, source := src, cutStep := 3, cutValid := true, work := true, arrival := arrival }
  St.withMem (((St.survivor .rollback false).wr Fld.tierPartner.rack 1).wr Fld.tierPartner.position 2)
    { r with dataIn := { want := want, prov := some (src, 0) }, recIn := { prov := some (.sedge, 0) } } (St.ringMem St.recBytes)
/-- The record is taken from position 2, since that of the ring failed; or the rollback of a survivor's regions is. -/
--~ St.asks St.asks .record .survivor [(0x10000000000, 16384)]; St.asks .record .survivor []; St.asks .rollback .inPlace []
def St.asks (st : RstState) (role : RstRole) (want : List (Nat × Nat)) : State :=
  let s := St.refilling [] .sedge 0
  { s with rst := { s.rst with st := st, role := role, recIn := { want := want, prov := some (.sedge, 0) } } }
/-- The host of position 2's sets, that has sent it a transfer. -/
--~ St.serves St.serves [(9, 1, 4096, 4)]; St.serves [(9, 1, 4096, 4), (9, 1, 4112, 4)]
def St.serves (sent : List (Nat × BitVec 4 × Nat × Nat)) : State :=
  { (St.host .committed 8).wr Fld.tierIdent.rack 1 |>.wr Fld.tierIdent.position 9 with
    rst := { epoch := 7, sentData := sent }, red := { tags := { inUse := [9] } }, mem := [(0x10000, 5)] }
def St.servesHalted : State := let s := St.serves []; { s with rst := { epoch := 7, st := .rollback, cutStep := 5, cutValid := true } }
/-- Verification: of no region at all, against the manifest and commit record that landed; or with neither. -/
--~ St.verifying St.verifying true false .spare; St.verifying true false .survivor; St.verifying false false .survivor; St.verifying false true .survivor; St.verifying false false .spare
def St.verifying (good corrupt : Bool) (role : RstRole) : State :=
  let man := leBytes 8 0x00010000 ++ leBytes 8 3 ++ zeros 104
  let area := Memory.putBytes (Memory.putBytes [] 65536 (man ++ crc64Bytes man)) 16384 (zeros 16 ++ sha384 [])
  let r : Rst := { epoch := 7, st := .verify, role := role, source := .sedge, manIn := { prov := some (.sedge, 0) }, dataIn := { prov := some (.replica, 1) }, corrupt := corrupt, cutStep := 3, cutValid := true, work := true }
  let u : CutUnit := { nextSeq := 5, dir := if good then [] else St.regions false }
  { St.survivor .verify false with cut := u, rst := { r with done := { data := true, record := true }, area := area }, chk := { lanes := (Vector.replicate 32 none).set 4 (some .verify) } }
/-- Halted, with channels, replicas, an owner slot and a host that name position 2 of rack 1, and the Warden that may act. -/
--~ St.named St.named 0 true; St.named 1 true; St.named 1 false
def St.named (role : Nat) (fits : Bool) : State :=
  let t := (St.survivor .halted false).wr (Fld.redChCfg.nextPos 3) 2 |>.wr (Fld.redChCfg.prevPos 4) 2 |>.wr (Fld.redChRepl.count 5) 2 |>.wr (Fld.redChRepl.holder0 5) 130
    |>.wr (Fld.tierOwner.valid 1) 1 |>.wr (Fld.tierOwner.rack 1) 1 |>.wr (Fld.tierOwner.position 1) 2 |>.wr Fld.tierPartner.rack 1 |>.wr Fld.tierPartner.position 2
    |>.wr Fld.ctlElect.role role |>.wr Fld.ctlElect.wardenPos 9
  { t with
    warden := { job := .restoring, takeovers := 1, members := [{ rack := 1, pos := 2, cls := .failed }, { rack := 1, pos := if fits then 5 else 4, standby := true }] } }
/-- A member table in memory, one entry naming position 2 of rack 1, another position 3. -/
def St.tabled : State :=
  let s := (St.named 0 true).wr Fld.synMemberTab.base 0x20
  { s with mem := Memory.putBytes [] (s.rdAddr Fld.synMemberTab.base + 8) (leBytes 8 (1 + 2 * 1024) ++ leBytes 8 (1 + 3 * 1024)) }
/-- An enabled channel names position 2, and regions are asked of it. -/
def St.namedOn : State :=
  let s := ((St.named 0 true).wr (Fld.redChCfg.enable 3) 1).wr (Fld.redChRepl.count 3) 1 |>.wr (Fld.redChRepl.holder0 3) 130
  { s with rst := { s.rst with dataIn := { want := [(0, 8)], prov := some (.sedge, 0) } } }
/-- The verification of a manifest of another step. -/
def St.mixed : State :=
  let man := leBytes 4 0x00010000 ++ leBytes 4 0 ++ leBytes 8 9 ++ zeros 104
  let s := St.verifying true false .survivor
  { s with rst := { s.rst with area := Memory.putBytes s.rst.area 65536 (man ++ crc64Bytes man) } }
/-- A barrier at which this engine has arrived, and the plan barrier. -/
def St.atBars : State :=
  let s := (St.busy .running).wr Fld.tierRstCtrl.planBarrier 2
  { s with syn := { bars := ((Vector.replicate 20 {}).set 1 ({ st := .arrived, episode := 458752, fn := some .software, queue := [{ fn := .software, sum := 0, or := 0 }] } : Barrier)).set 2 ({ st := .opened, episode := 458752 } : Barrier) } }
/-- Nothing of it names another engine. -/
def St.unnamed : State := (St.named 0 true).wr Fld.tierPartner.valid 0

theorem wit_Detection : St.follower.Inv ∧ St.follower.fw = true ∧ St.follower.isWarden = false ∧ (St.hears .alive false 0 9).Inv ∧ (St.hears .alive false 0 9).isWarden = true ∧
    St.follower.hw = true ∧ St.follower.present 3 = true ∧ St.two.present 41 = false ∧ (St.lost).board.lockLost.getLsbD 3 = true ∧ St.follower.board.lockLost.getLsbD 3 = false ∧
    (St.leads .restoring).isLead = true ∧ (St.leads .restoring).isWarden = true ∧ (St.leads .normal).warden.job = .normal :=
  ⟨State.inv_plain rfl (by decide +kernel), by decide +kernel, by decide +kernel, State.inv_plain rfl (by decide +kernel), by decide +kernel⟩
theorem wit_Detection_frames : (St.hears .alive false 0 9).hears 3 Ty.heartbeat (St.rstF Ty.heartbeat { tag := 0 } (leBytes 8 1)) = true ∧
    frameEpoch (St.rstF Ty.heartbeat { tag := 0 } (leBytes 8 1)) = (St.hears .alive false 0 9).rst.epoch ∧
    frameEpoch (St.rstF Ty.heartbeat { seq := 1 } (leBytes 8 1)) ≠ (St.hears .alive false 0 9).rst.epoch ∧
    St.follower.hears 3 Ty.heartbeat (St.rstF Ty.heartbeat { tag := 0 } (leBytes 8 1)) = true ∧
    (St.hears .alive false 0 9).hears 3 Ty.engineNotice (St.rstF Ty.engineNotice { tag := 0 } ([7, 3] ++ zeros 14)) = true ∧
    (St.hears .alive false 0 9).member? 1 2 = some { rack := 1, pos := 2, lastHb := 0 } ∧ (St.hears .alive false 0 9).myRack = 1 ∧
    (St.hears .alive false 0 9).elapsed 0 (St.hears .alive false 0 9).missTicks = true ∧
    (St.hears .alive false 100000000 9).elapsed 100000000 (St.hears .alive false 0 9).missTicks = false := by decide +kernel
theorem wit_HaltAndPlan : (St.busy .running).Inv ∧ (St.busy .running).isWarden = false ∧
    (St.busy .running).hears 3 Ty.halt (St.rstF Ty.halt { seq := 1 } (leBytes 8 2)) = true ∧
    (frameEpoch (St.rstF Ty.halt { seq := 1 } (leBytes 8 2)) - (St.busy .running).rst.epoch).toNat = 1 ∧
    32768 ≤ (frameEpoch (St.rstF Ty.halt { seq := 65535 } []) - (St.busy .running).rst.epoch).toNat ∧
    (frameEpoch (St.rstF Ty.halt { tag := 0 } []) - (St.busy .running).rst.epoch).toNat = 0 ∧ (St.busy .running).spareRole = false ∧
    (St.standsBy .standby).standby = true ∧ (St.standsBy .standby).spareRole = true ∧ (St.standsBy .running).standby = true ∧ (St.standsBy .standby).Inv :=
  ⟨State.inv_plain rfl (by decide +kernel), by decide +kernel, by decide +kernel, by decide +kernel, by decide +kernel, by decide +kernel, by decide +kernel, by decide +kernel, by decide +kernel, by decide +kernel,
    State.inv_plain rfl (by decide +kernel)⟩
theorem wit_HaltAndPlan_plan : (St.survivor .halted false).Inv ∧ St.spare.Inv ∧ (St.survivor .halted false).halted = true ∧
    (St.survivor .halted false).hears 3 Ty.supplyQuery (St.rstF Ty.supplyQuery { tag := 0 } (leBytes 4 1 ++ [2, 1, 0, 0])) = true ∧
    (St.survivor .halted false).hears 3 Ty.candidate (St.rstF Ty.candidate { tag := 0 } (leBytes 8 3 ++ [0, 1] ++ zeros 6)) = true ∧
    (St.survivor .halted false).spareRole = false ∧ (St.survivor .halted false).refills = false ∧ (St.survivor .halted false).cleanFor 3 0 = false ∧ ((St.survivor .halted false).localCut 3 0).isSome = true ∧
    St.spare.rdB Fld.tierCutCtrl.enable = true ∧ St.spare.replOn = false ∧ St.spare.hostAlive = true ∧ (St.survivor .halted false).rst.work = false ∧
    St.clean.cleanFor 3 0 = true ∧ St.clean.cut.dir.any Region.isSump = true ∧ St.clean.refills = false :=
  ⟨State.inv_pairs _ rfl (by decide +kernel), State.inv_pairs _ rfl (by decide +kernel), by decide +kernel⟩
theorem wit_HaltAndPlan_fence : (St.survivor .halted false).hears 3 Ty.fence (St.rstF Ty.fence { tag := 0 } (zeros 8)) = true ∧
    fieldLE (St.rstF Ty.fence { tag := 0 } (zeros 8)).payload 0 4 = (St.survivor .halted false).myRank ∧
    fieldLE (St.rstF Ty.fence { tag := 0 } (leBytes 8 5)).payload 0 4 ≠ (St.survivor .halted false).myRank := by decide +kernel
theorem St.withMem_inv {s : State} (h : s.Inv) (r : Rst) (m : Memory) (hr : Memory.wf r.area = true) (hm : Memory.wf m = true) : (St.withMem s r m).Inv :=
  ⟨h.regs, hm, h.sump, h.store, h.blocks, hr, h.pairs⟩
theorem St.ringMem_wf (b : List Byte) : Memory.wf (St.ringMem b) = true := Memory.wf_putBytes _ _ (by decide)
theorem St.rolling_inv (good : Bool) (w : List (Nat × Nat)) : (St.rolling good w).Inv :=
  St.withMem_inv (State.inv_pairs _ rfl (by decide +kernel)) _ _ rfl (St.ringMem_wf _)
/-- The first 16,376 bytes of that record. -/
def St.recHead : List Byte := leBytes 8 3 ++ zeros 16368
theorem St.recHead_length : St.recHead.length = 16376 := by
  rw [St.recHead, List.length_append, zeros, List.length_replicate]; rfl
theorem St.recBytes_eq : St.recBytes = St.recHead ++ crc64Bytes St.recHead := by unfold St.recBytes St.recHead; with_reducible rfl
theorem St.recBytes_zero (n k : Nat) (h : 8 ≤ n) (h2 : n + k ≤ 16376) : (St.recBytes.drop n).take k = zeros k := by
  rw [St.recBytes_eq, List.drop_append_of_le_length (by rw [St.recHead_length]; omega),
    List.take_append_of_le_length (by rw [List.length_drop, St.recHead_length]; omega), St.recHead,
    List.drop_append, List.drop_eq_nil_of_le (by show 8 ≤ n; exact h), List.nil_append, show (leBytes 8 3).length = 8 from rfl]
  simp only [zeros, List.drop_replicate, List.take_replicate]
  congr 1; omega
/-- The record of STEP 3 keeps the checks of R241. -/
theorem St.rec_ok (s : State) (hs : s.rst.cutStep = 3) (hg : s.rst.cutGen = 0) : s.recordOk St.recBytes = true := by
  have hc : (crc64Bytes St.recHead).length = 8 := rfl
  have hp : (recPairs St.recBytes).toList.all (fun p => decide (p.c ≤ p.p) && decide (p.p - p.c ≤ p.depth)) = true := by
    rw [List.all_eq_true]
    intro p h
    obtain ⟨i, hi, rfl⟩ := List.getElem_of_mem h
    have hi : i < 512 := by simpa only [Vector.length_toList] using hi
    simp only [recPairs, Vector.getElem_toList, Vector.getElem_ofFn]
    rw [St.recBytes_zero _ _ (by omega) (by omega)]; decide
  have h0 : fieldLE St.recBytes 0 8 = 3 := by
    rw [fieldLE, List.drop_zero, St.recBytes_eq, St.recHead, List.append_assoc, List.take_left' (by rfl)]; decide
  have h8 : fieldLE St.recBytes 8 1 = 0 := by rw [fieldLE, St.recBytes_zero _ _ (by omega) (by omega)]; decide
  rw [State.recordOk, hs, hg, h0, h8, hp, St.recBytes_eq, List.drop_left' St.recHead_length, List.take_left' St.recHead_length,
    List.length_append, St.recHead_length, hc]
  simp only [beq_self_eq_true, Bool.true_and]
  decide
theorem St.ringMem_rec : Memory.bytesAt (St.ringMem St.recBytes) (3 * 16384) 16384 = St.recBytes := by
  have hl : St.recBytes.length = 16384 := by rw [St.recBytes_eq, List.length_append, St.recHead_length]; rfl
  have h := Memory.bytesAt_putBytes_same (m := Memory.putBytes [] 0x100000 [1, 2, 3]) (3 * 16384) St.recBytes (by decide)
  rw [hl] at h
  unfold St.ringMem
  exact h
theorem St.rolling_rec : (St.rolling true [(0, 0x10000)]).recordOk ((St.rolling true [(0, 0x10000)]).load (St.rolling true [(0, 0x10000)]).recSlot 16384) = true := by
  rw [State.load, show (St.rolling true [(0, 0x10000)]).recSlot = 3 * 16384 by decide +kernel, show (St.rolling true [(0, 0x10000)]).mem = St.ringMem St.recBytes by simp only [St.rolling, St.withMem, cond_true], St.ringMem_rec]
  exact St.rec_ok _ rfl rfl
theorem wit_RestoreData_rollback : (St.rolling true [(0, 0x10000)]).fw = true ∧ ((St.rolling true [(0, 0x10000)]).localCut 3 0).map (fun c => c.half) = some (some false) ∧
    allPairs (fun a b => !overlap a.live a.len b.live b.len) (St.rolling true [(0, 0x10000)]).cut.dir = true ∧
    (St.rolling true [(0, 0x10000)]).cut.dir.all (fun x => (St.rolling true [(0, 0x10000)]).wantsRegion x && !overlap x.live x.len (St.rolling true [(0, 0x10000)]).recSlot 16384 &&
      !overlap x.live x.len ((St.rolling true [(0, 0x10000)]).battBase false) ((St.rolling true [(0, 0x10000)]).battSize + 2 ^ 48)) = true ∧
    (St.rolling true [(0, 0x10000)]).rdAddr Fld.tierRstRt.base = 0 := by decide +kernel
theorem wit_RestoreData_norec : (St.rolling false []).recordOk [] = false ∧ (St.rolling false []).recordOk (St.rolling false []).peatRecord = false ∧
    (St.asks .rollback .inPlace []).rst.dataIn.want = [] ∧ ((St.asks .rollback .inPlace []).provAt .regions).isSome = true ∧
    (St.asks .record .survivor []).rst.recIn.want = [] := by decide +kernel
theorem St.refilling_inv (want : List (Nat × Nat)) (src : Source) (n : Nat) : (St.refilling want src n).Inv :=
  St.withMem_inv (State.inv_pairs _ rfl (by decide +kernel)) _ _ rfl (St.ringMem_wf _)
theorem wit_RestoreData_refill : (St.refilling [(4096, 8)] .sedge 100000000).hears 3 Ty.refillData (St.rstF Ty.refillData { stepLo := 3, count := 2, offset := 4096 } [1, 2, 3, 4, 5, 6, 7, 8]) = true ∧
    (St.refilling [(4096, 8)] .sedge 100000000).fromProv (St.rstF Ty.refillData { stepLo := 3, count := 2, offset := 4096 } [1, 2, 3, 4, 5, 6, 7, 8]) = true ∧
    (St.refilling [(4096, 8)] .sedge 100000000).ctxsWith (fun c => c.wants (St.rstF Ty.refillData { stepLo := 3, count := 2, offset := 4096 } [1, 2, 3, 4, 5, 6, 7, 8])) = [] ∧
    4096 + 8 ≤ (St.refilling [(4096, 8)] .sedge 100000000).tBytes ∧
    (St.regions false).filter (fun y => overlap 4096 8 ((St.refilling [(4096, 8)] .sedge 100000000).regionAt y) y.len) =
      [{ shard := 8, kind := 2, offset := 4096, len := 8192, elems := 2040 }] ∧
    (St.refilling [(4096, 8)] .sedge 0).waitingFor (fun _ => true) ≠ [] ∧
    (St.refilling [(4096, 8)] .sedge 0).readsLate = [] ∧ (St.refilling [(4096, 8)] .sedge 0).elapsed 0 (msTicks 50) = true ∧
    (St.refilling [(4096, 8)] .sedge 100000000).elapsed 100000000 (msTicks 50) = false := by decide +kernel
theorem wit_RestoreData_serve : (St.serves []).Inv ∧ (St.serves []).hears 3 Ty.refillRequest (St.rstF Ty.refillRequest { stepLo := 3 } (leBytes 8 0 ++ leBytes 8 16)) = true ∧
    (St.serves []).askedSet 1 2 3 = some 0 ∧ 0 + 16 ≤ ((St.serves []).set 0).pages.length * pageBytes ∧ (St.serves []).red.tags.freeCount ≠ 0 ∧
    St.servesHalted.askedSet 1 2 8 = none ∧ St.servesHalted.halted = true ∧ St.servesHalted.Inv ∧
    (St.serves [(9, 1, 4096, 4)]).hears 3 Ty.refillAck (St.rstF Ty.refillAck { tag := 9, gen := 1, offset := 4096, count := 4 } []) = true := by
  refine ⟨State.inv_plain rfl (by decide +kernel), ?_, ?_, ?_, ?_, ?_, ?_, State.inv_plain rfl (by decide +kernel), ?_⟩ <;> decide +kernel
theorem wit_RestoreData_verify : (St.verifying true false .survivor).Inv ∧ (St.verifying true false .survivor).verifyFails = [] ∧
    (St.verifying false false .survivor).verifyFails ≠ [] ∧ (St.verifying true false .survivor).fw = true ∧ (St.verifying true false .survivor).rst.want = [] ∧
    (St.verifying true false .survivor).manMixed = false ∧ (St.verifying true false .spare).manMixed = false ∧ (St.verifying true false .spare).verifyFails = [] ∧ St.mixed.manMixed = true :=
  ⟨State.inv_pairs _ rfl (by decide +kernel), by decide +kernel⟩
/-- Position 5 takes the place of position 2 in rack 1. -/
def St.takeover (spare : BitVec 7) (c : List RegValue) : Takeover := { rack := 1, oldPos := 2, sparePos := spare, rank := 3, epoch := 7, config := c }
theorem wit_Takeovers : (St.named 0 true).Inv ∧ (St.named 0 true).fw = true ∧ (St.named 0 true).isMe 1 2 = false ∧ (St.named 0 true).isMe 1 5 = false ∧
    (St.named 0 true).halted = true ∧ (St.named 0 true).isWarden = false ∧ (St.named 1 true).directs (St.takeover 5 []) = true ∧
    (St.named 1 false).directs (St.takeover 5 []) = false ∧ ((St.named 1 false).isWarden && (St.named 1 false).myRack == 1) = true ∧
    (St.standsBy .standby).isMe 1 9 = true ∧ (St.standsBy .standby).isMe 1 2 = false ∧ (St.standsBy .standby).standby = true ∧
    regCanon (0x110B8 : BitVec 20).toNat = 0x11038 ∧ copyIdx (0x110B8 : BitVec 20).toNat = 2 ∧ (St.named 0 true).isMe 1 9 = true :=
  ⟨State.inv_pairs _ rfl (by decide +kernel), by decide +kernel⟩

/-! ## Queue pairs and commands -/

/-- A data window of 64 KiB at 0x10000 (or elsewhere), rings of pair 1 in it, the interface enabled. -/
def St.win (base : Nat) : State :=
  (((St.open'.wr Fld.cmdDataWin.base base).wr Fld.cmdDataWinSize.size 16).wr Fld.cmdCtrl.enable 1).wr (Fld.cmdQSqBase.base 1) 0x400 |>.wr (Fld.cmdQCqBase.base 1) 0x440
--~ St.pairOff St.pairOff 0x10; St.pairOff 0x30
def St.pairOff (base : Nat) : State := St.win base
/-- Pair 1 with rings of four entries. -/
--~ St.pair1 St.pair1 {}; St.pair1 { st := .active }; St.pair1 { st := .active, subs := [.ring, .push 1] }; St.pair1 { st := .active, subs := [.ring, .ring, .push 1], sqTail := 2, cqTail := 2, cqHead := 1 }; St.pair1 { st := .error }; St.pair1 { st := .resetting }
def St.pair1 (x : Queue) : State :=
  { (((St.win 0x10).wr (Fld.cmdQCfg.enable 1) (b2n (x.st == .active))).wr (Fld.cmdQCfg.sqSize 1) 3).wr (Fld.cmdQCfg.cqSize 1) 3 with
    cmd := { queues := vset (Vector.replicate 8 {}) 1 x } }
/-- A command entry: opcode, flags, Shard ID, tier, SIGNAL, and parameters. -/
def St.entry (opc flags shard tier : Nat) (sig : Nat) (csp : List Byte) : List Byte :=
  leBytes 1 opc ++ leBytes 1 flags ++ leBytes 2 0x1234 ++ leBytes 4 shard ++ zeros 9 ++ leBytes 1 tier ++ leBytes 2 sig ++ zeros 4 ++ leBytes 8 0x12000 ++ zeros 8 ++ leBytes 8 4096 ++
    fitTo 16 csp
/-- A ring entry waits at pair 1; with commands that run and locks. -/
def St.submitted (e : List Byte) (running : List (Nat × Ctx)) (locks : List Lock) : State :=
  let s := St.pair1 { st := .active, subs := [.ring], sqTail := 1 }
  { s with cmd := { s.cmd with ctxs := running, locks := locks, order := 5 }, mem := Memory.putBytes [] 0x10000 e }
def St.aLock (excl : Bool) : Lock := { ctx := 3, shard := 7, tier := 0, step := 0, gen := 0, lo := 0, hi := 8192, excl := excl }
--~ St.ringed St.ringed (St.entry 1 0 7 0 0 []); St.ringed (St.entry 0x20 0 0 0 0 []); St.ringed (St.entry 0x80 0 0 0 0 []); St.ringed (St.entry 7 8 0 0 0 []); St.ringed (St.entry 7 0 0 0 0 [])
def St.ringed (e : List Byte) : State := St.submitted e [] []
/-- A read behind an ORDERED command, or behind a lock; or in a halt. -/
--~ St.ahead St.ahead true [] .running; St.ahead false [St.aLock true] .running; St.ahead false [St.aLock false] .running; St.ahead false [] .halted
def St.ahead (ordered : Bool) (locks : List Lock) (r : RstState) : State :=
  { St.submitted (St.entry 1 0 7 0 0 []) (if ordered then [(3, { q := 1, sqHead := 0, pushed := false, entry := St.entry 1 1 7 0 0 [], order := 4 })] else []) locks with rst := { st := r } }
def St.lockWaits : State :=
  let s := St.ahead false [St.aLock true] .running
  { s with cmd := { s.cmd with queues := vset s.cmd.queues 1 { st := .active, subs := [.ring], sqTail := 1, lockWait := some 0 } } }
def St.startHummock : State := { St.ringed (St.entry 7 0 0 0 0 [1]) with boot := { phase := .hummock } }
/-- A command of pair 1 in context 0, finished with a status; with SIGNAL, COALESCE and a CQ that has room or not. -/
def St.finished (sig : Nat) (coal : Nat) (head : Nat) (st : Status) : State :=
  let c : Ctx := { q := 1, sqHead := 1, pushed := false, entry := St.entry 5 0 0 0 sig [], order := 4, finished := true, status := st, r0 := 9, r1 := 8 }
  { ((St.pair1 { st := .active, cqTail := 3, cqHead := head, phase := true, batch := 1 }).wr (Fld.cmdQCfg.irqEn 1) 1 |>.wr (Fld.cmdQCfg.irqVec 1) 2).setReg (Reg.cmdQCoalesce 1) (BitVec.ofNat 64 coal) with
    cmd := { queues := vset (Vector.replicate 8 {}) 1 { st := .active, cqTail := 3, cqHead := head, phase := true, batch := 1 }, ctxs := [(0, c)], locks := [{ St.aLock true with ctx := 0 }, St.aLock false] },
    syn := { pairs := Vector.replicate 512 { p := 3, c := 1, depth := 8 } } }
--~ St.done St.done 0 0 2 0; St.done 0x405 0 2 0; St.done 0x805 0 2 7; St.done 0 0x41600000000 2 0; St.done 0 0x81600000000 2 0; St.done 0x405 0x81600000003 2 0; St.done 0 0 0 0; St.done 0x405 0 0 7
def St.done (sig coal head : Nat) (st : Status) : State := St.finished sig coal head st
/-- An entry that was not notified for 5 us. -/
--~ St.ripe St.ripe 5 0; St.ripe 5 1; St.ripe 5 2; St.ripe 0 1
def St.ripe (us kind : Nat) : State := { (St.finished 0 0 2 0).wr (Fld.cmdQCoalesce.timeUs 1) us |>.wr (Fld.cmdQCoalesce.notifyKind 1) kind |>.wr (Fld.cmdQCoalesce.notifyObj 1) 22 with now := 100000 }
/-- Contexts of pair 1 that run or are abandoned. -/
--~ St.inFlight St.inFlight false .active; St.inFlight true .resetting
def St.inFlight (abandoned : Bool) (st : QState) : State :=
  let s := St.pair1 { st := .active }
  let c (q : Nat) (n : Nat) : Ctx := { q := q, sqHead := 1, pushed := false, entry := St.entry 1 0 7 0 0 [], order := n, abandoned := abandoned && q == 1 }
  let cmd : Cmd := { queues := vset (Vector.replicate 8 {}) 1 { st := st }, ctxs := [(0, c 1 4), (2, c 2 5)], locks := [{ St.aLock false with ctx := 0 }, { St.aLock false with ctx := 2 }] }
  { s with cmd := cmd, peat := { staged := [{ peatGen := 7, moves := [], q := 1, order := 4 }, { peatGen := 7, moves := [], q := 2, order := 5 }] } }

/-- A push of a WRITE SHARD takes its place behind the ring entry submitted before it (R296). -/
theorem test_push_order : (match exec (.pushSubmit 1 0 0) (St.pair1 { st := .active, subs := [.ring, .push 1] }) with
    | .next t => (t.queue 1).subs
    | _ => []) = [.ring, .push 1, .push 0] := by decide +kernel
theorem wit_QueuePairs : (St.pairOff 0x10).Inv ∧ (St.pairOff 0x10).powered = true ∧ (St.pairOff 0x10).rdB Fld.cmdCtrl.enable = true ∧
    ((St.pairOff 0x10).writePlain (Reg.cmdQCfg 1) (putBits 49164 0 1 1)).2 = true ∧
    ((St.pairOff 0x10).writePlain (Reg.cmdQCfg 1) (putBits 49164 0 1 1)).1.inWindow ((St.pairOff 0x10).rdAddr (Fld.cmdQCqBase.base 1)) 64 = true ∧
    ((St.pairOff 0x30).writePlain (Reg.cmdQCfg 1) (putBits 49164 0 1 1)).1.inWindow ((St.pairOff 0x30).rdAddr (Fld.cmdQSqBase.base 1)) 256 = false :=
  ⟨State.inv_plain rfl (by decide +kernel), by decide +kernel⟩
theorem wit_QueuePairs_active : (St.pair1 { st := .active, subs := [.ring, .push 1] }).Inv ∧ (St.pair1 { st := .active }).rdB (Fld.cmdQCfg.enable 1) = true ∧
    ((St.pair1 { st := .active, subs := [.ring, .push 1] }).queue 1).held = 2 ∧ ((St.pair1 { st := .active, subs := [.ring, .push 1] }).queue 1).busy 1 = true ∧
    (St.pair1 { st := .active }).rd (Fld.cmdQCfg.sqSize 1) = 3 ∧ (St.pair1 { st := .error }).Inv ∧
    ((St.pair1 { st := .active }).writePlain (Reg.cmdQCfg 1) (putBits 49165 0 1 0)).2 = true := ⟨State.inv_plain rfl (by decide +kernel), by decide +kernel, by decide +kernel,
      by decide +kernel, by decide +kernel, State.inv_plain rfl (by decide +kernel), by decide +kernel⟩
theorem wit_QueuePairs_reset : (St.inFlight true .resetting).Inv ∧ ((St.inFlight true .resetting).queue 1).st = .resetting ∧ ((St.inFlight false .active).ctxsOf 1).length = 1 :=
  ⟨State.inv_plain rfl (by decide +kernel), by decide +kernel⟩
/-- What a start looks at, of a submitted entry. -/
def St.looks (s : State) : Option Status × Bool × Bool × Bool :=
  let c := s.newCtx 1 .ring
  (s.ctxBad c (s.onRelayPair 1 .ring), s.heldBack 1 c, s.relayedOut 1 .ring c, s.locksFree 1 (s.ctxLocks 0 c))
theorem wit_CommandFlow_start : (St.ringed (St.entry 1 0 7 0 0 [])).Inv ∧ (St.ringed (St.entry 1 0 7 0 0 [])).freeContext = some 0 ∧
    (St.ringed (St.entry 1 0 7 0 0 [])).served = true ∧ ((St.ringed (St.entry 1 0 7 0 0 [])).queue 1).subs.head? = some .ring ∧ ((St.ringed (St.entry 1 0 7 0 0 [])).queue 0).subs = [] ∧
    St.looks (St.ringed (St.entry 1 0 7 0 0 [])) = (none, false, false, true) := ⟨State.inv_plain rfl (by decide +kernel), by decide +kernel⟩
theorem wit_CommandFlow_looks : St.looks (St.ringed (St.entry 0x20 0 0 0 0 [])) = (some 0x0101, false, false, true) ∧
    St.looks (St.ringed (St.entry 0x80 0 0 0 0 [])) = (some 0x0103, false, false, true) ∧ St.looks (St.ringed (St.entry 7 8 0 0 0 [])) = (some 0x0102, false, false, true) ∧
    St.looks St.startHummock = (some 0x0104, false, false, true) ∧ St.looks (St.ahead true [] .running) = (none, true, false, true) ∧
    St.looks (St.ahead false [St.aLock true] .running) = (none, false, false, false) ∧ St.looks St.lockWaits = (none, false, false, false) ∧
    St.looks (St.ahead false [] .halted) = (none, true, false, true) := by decide +kernel
theorem wit_CommandFlow_done : (St.done 0x405 0x81600000003 2 0).Inv ∧ ((St.done 0x405 0 2 0).ctx? 0).map (fun c => (c.finished, c.abandoned, c.relay, c.q, c.results)) = some (true, false, none, 1, (true, true)) ∧
    (St.done 0 0 2 0).cqFull 1 = false ∧ (St.done 0 0 0 0).cqFull 1 = true ∧ (St.done 0 0 2 0).rdB (Fld.cmdQCfg.enable 1) = true ∧ (St.done 0 0 2 0).quiesced = false ∧
    (St.done 0 0x81600000000 2 0).rd (Fld.cmdQCoalesce.notifyKind 1) = 2 ∧ (St.done 0 0x41600000000 2 0).rd (Fld.cmdQCoalesce.notifyObj 1) = 22 ∧
    (St.done 0x405 0x81600000003 2 0).rd (Fld.cmdQCoalesce.count 1) = 3 := ⟨State.inv_pairs _ rfl (by decide +kernel), by decide +kernel⟩
theorem wit_CommandFlow_timer : (St.ripe 5 1).Inv ∧ ((St.ripe 5 1).queue 1).batch = 1 ∧ (St.ripe 5 1).rd (Fld.cmdQCoalesce.timeUs 1) = 5 ∧
    (St.ripe 5 1).elapsed 0 (usTicks 5) = true ∧ (St.ripe 0 1).rd (Fld.cmdQCoalesce.timeUs 1) = 0 := ⟨State.inv_pairs _ rfl (by decide +kernel), by decide +kernel⟩

/-! ## READ SHARD and WRITE SHARD -/

/-- A command entry that names a range of a shard at a tier of a cut. -/
def St.shardEntry (opc shard : Nat) (step : Nat) (tier off len : Nat) (csp : List Byte) : List Byte :=
  leBytes 1 opc ++ zeros 3 ++ leBytes 4 shard ++ leBytes 8 step ++ [0] ++ leBytes 1 tier ++ zeros 6 ++ leBytes 8 0x11000 ++ leBytes 8 off ++ leBytes 8 len ++ fitTo 16 csp
def St.ctxOf (e : List Byte) : Ctx := { q := 1, sqHead := 1, pushed := false, entry := e, order := 4 }
/-- A command runs in context 0; the window is 256 KiB from 0x10000 on. -/
def St.runs (s : State) (c : Ctx) : State :=
  { (s.wr Fld.cmdDataWin.base 0x10).wr Fld.cmdDataWinSize.size 64 with cmd := { ctxs := [(0, c)] } }
/-- The cut of STEP 3 is held in half A and at the host; LIVE_CLEAN is set. -/
def St.holds : State :=
  let s := St.withCut { St.aCut .jobCommitted with arrived := true, doneOut := true, accepted := true, atSet := true } false
  { s with cut := { s.cut with halfA := .held }, rst := { liveClean := true }, mem := Memory.putBytes [] 0xC000 [3] }
/-- The manifest of a generation: one region of one extent, whose CRC is that of no bytes or another. -/
def St.manBytes (crc : W64) : List Byte :=
  let h := leBytes 4 0x00010000 ++ zeros 28 ++ leBytes 4 1 ++ zeros 4 ++ leBytes 8 1 ++ zeros 72
  h ++ crc64Bytes h ++ (leBytes 4 7 ++ [1, 0, 0, 0] ++ leBytes 8 0 ++ leBytes 8 4096 ++ leBytes 8 0x40000) ++ (leBytes 4 1 ++ [1, 0, 0, 0] ++ leBytes 8 1000 ++ leBytes 8 0 ++ leBytes 8 1000) ++
    zeros 48 ++ leBytes 4 0 ++ leBytes 4 1 ++ zeros 8 ++ leBytes 8 crc.toNat ++ leBytes 6 12 ++ leBytes 2 0
/-- Its catalogue entry, of generation 7 and STEP 3. -/
def St.manEntry (crc : W64) : CatEntry := { peatGen := 7, step := 3, manBytes := 272, manUnit := 5, manCrc := crc64 (St.manBytes crc) }
/-- A drive that retains it. -/
def St.retains (crc : W64) (st : PeatState) : State :=
  let d : Drive := { St.drive with blocks := Memory.putBytes [] ((St.drive.keyAt 5 0).getD 0) (St.manBytes crc) }
  let p : Peat := { st := st, linkUp := true, drive := d, gens := [{ peatGen := 7, units := [5, 6], man := [5] }], cat := some ({ entries := [St.manEntry crc] }, false) }
  { St.holds with peat := p, map := [(0, { shard := 7, tier := 1, st := .committed, gen := 0, step := 3, firstExt := 0, extCount := 1, loc := 7 })] }
--~ St.reads0 St.reads0 7 0 0 0 4096; St.reads0 7 0 0 4096 4096; St.reads0 7 0 0 1 4096; St.reads0 7 0 0 0 100; St.reads0 7 0 0 0 0x50000; St.reads0 7 3 0 0 4096; St.reads0 99 0 0 0 4096; St.reads0 0xFFFFFFFD 3 0 4096 4096; St.reads0 0xFFFFFFFD 2 0 0 4096; St.reads0 0xFFFFFFFD 3 0 16384 4096; St.reads0 7 3 1 0 4096; St.reads0 7 2 1 0 4096; St.reads0 99 3 1 0 4096; St.reads0 8 3 1 4096 8192; St.reads0 7 3 2 0 4096; St.reads0 99 3 2 0 4096; St.reads0 7 2 2 0 4096; St.reads0 7 3 2 0 8192; St.reads0 7 3 3 0 4096
def St.reads0 (shard step tier off len : Nat) : State := St.runs St.holds (St.ctxOf (St.shardEntry 1 shard step tier off len []))
--~ St.reads3 St.reads3 0 .ready 7 3 0 4096; St.reads3 9 .ready 7 3 0 4096; St.reads3 0 .ready 7 3 4096 0; St.reads3 0 .foreign 0xFFFFFFFE 3 0 4096; St.reads3 0 .ready 0xFFFFFFFD 3 0 4096; St.reads3 0 .ready 99 3 0 4096; St.reads3 0 .ready 7 2 0 4096; St.reads3 0 .failed 7 3 0 4096; St.reads3 0 .ready 7 3 4096 4096
def St.reads3 (crc : W64) (st : PeatState) (shard step off len : Nat) : State := St.runs (St.retains crc st) (St.ctxOf (St.shardEntry 1 shard step 3 off len []))
/-- A read at the host that has been asked for, with what is still wanted. -/
--~ St.fetches St.fetches [(0, 4096)]; St.fetches []
def St.fetches (want : List (Nat × Nat)) : State :=
  St.runs St.holds { St.ctxOf (St.shardEntry 1 7 3 2 0 4096 []) with asked := true, want := want, area := Memory.putBytes [] 4 [1, 2, 3], relay := some { rack := 1, pos := 2, tag := 3, gen := 1, seq := 5 } }
--~ St.writes0 St.writes0 7 0 0 4096; St.writes0 7 0 4096 4096; St.writes0 7 0 1 4096; St.writes0 7 0 0 100; St.writes0 7 0 0 0x50000; St.writes0 7 3 0 4096; St.writes0 99 0 0 4096
def St.writes0 (shard step off len : Nat) : State := { St.runs St.holds (St.ctxOf (St.shardEntry 2 shard step 0 off len [])) with mem := Memory.putBytes [] 0x11000 [9, 8, 7] }
/-- WRITE SHARD with RESTORE, in a refill from Mire or not. -/
--~ St.writesR St.writesR 7 3 .mire 0 4096; St.writesR 7 2 .mire 0 4096; St.writesR 7 3 .sedge 0 4096; St.writesR 0xFFFFFFFD 3 .mire 0 4096; St.writesR 0xFFFFFFFE 3 .mire 0 4096; St.writesR 99 3 .mire 0 4096; St.writesR 7 3 .mire 4096 4096
def St.writesR (shard step : Nat) (src : Source) (off len : Nat) : State :=
  { St.runs St.holds (St.ctxOf (St.shardEntry 2 shard step 0 off len [1])) with
    mem := Memory.putBytes [] 0x11000 [9, 8, 7], rst := { st := .refill, cutStep := 3, cutValid := true, dataIn := { want := [(0, 8192)], prov := some (src, 0) }, work := true } }
--~ St.writes3 St.writes3 0 .ready 7 3 4096 0 []; St.writes3 0 .ready 7 3 0 4096 []; St.writes3 0 .ready 99 3 0 4096 []; St.writes3 0 .ready 7 2 0 4096 []; St.writes3 0 .foreign 7 3 0 4096 []; St.writes3 0 .ready 7 3 0 0 [1]; St.writes3 0 .ready 7 3 0 0x100000 []; St.writes3 0 .ready 7 3 0 4095 []; St.writes3 9 .ready 7 3 0 4096 []; St.writes3 0xBB50 .ready 7 3 0 4096 []
def St.writes3 (crc : W64) (st : PeatState) (shard step off len : Nat) (csp : List Byte) : State := St.runs (St.retains crc st) (St.ctxOf (St.shardEntry 2 shard step 3 off len csp))
/-- An extent that equals its CRC, or one that comes while Peat writes are held. -/
--~ St.writesGood St.writesGood false; St.writesGood true
def St.writesGood (held : Bool) : State :=
  let s := St.writes3 (crc64 (zeros 4096)) .ready 7 3 0 4096 []
  { s with board := { s.board with pfHold := held } }
/-- The retained generation takes every unit. -/
def St.fillUp (s : State) : State := { s with peat := { s.peat with gens := [{ peatGen := 7, units := List.range 64, man := [5] }] } }
def St.writeFull : State := St.fillUp (St.writesGood false)

/-- A manifest is read whole when its units hold its bytes. -/
theorem St.manRead {s : State} {e : CatEntry} {i : PeatGenInfo} {b : List Byte} (hk : s.entryKey e = some none) (hi : s.genInfo e.peatGen = some i)
    (hb : s.manLoad i.man e.manBytes none = b) (hc : crc64 b = e.manCrc) : s.entryMan e = .ok b := by
  simp [State.entryMan, hk, hi, hb, hc]
theorem wit_ReadShard : (St.reads0 7 0 0 0 4096).Inv ∧ ((St.reads0 7 0 0 0 4096).running 0 1).map (fun c => (c.off, c.len, c.tier, c.shard, c.step)) = some (0, 4096, 0, 7, 0) ∧
    ((St.reads0 7 0 0 1 4096).running 0 1).map (fun c => c.off) = some 1 ∧ (St.reads0 7 0 0 0 4096).inWindow 0x11000 4096 = true ∧
    (St.reads0 7 0 0 0 0x50000).inWindow 0x11000 0x50000 = false ∧ ((St.reads0 7 0 0 0 4096).regionById 7).isSome = true ∧ (St.reads0 7 0 0 0 4096).regionById 99 = none :=
  ⟨State.inv_pairs _ rfl (by decide +kernel), by decide +kernel⟩
theorem wit_WriteShard_full : St.writeFull.freeUnits = 0 ∧ (St.writeFull.running 0 2).map (fun c => (c.tier, c.len)) = some (3, 4096) := by decide +kernel
theorem wit_ReadShard_record : leNat ((St.reads0 0xFFFFFFFD 3 0 4096 4096).load 0xC000 8) = 3 ∧ leNat ((St.reads0 0xFFFFFFFD 2 0 4096 4096).load 0x8000 8) ≠ 2 ∧
    ((St.reads0 0xFFFFFFFD 3 0 4096 4096).running 0 1).map (fun c => (c.shard, c.gen, c.step)) = some (0xFFFFFFFD, 0, 3) := by decide +kernel
theorem wit_ReadShard_batt : ((St.reads0 7 3 1 0 4096).heldCut 3 0).map (fun d => d.2) = some false ∧ (St.reads0 7 3 1 0 4096).heldCut 2 0 = none := by decide +kernel
theorem wit_ReadShard_sedge : ((St.reads0 7 3 2 0 4096).ownSet 3 0 && (St.reads0 7 3 2 0 4096).hostAlive) = true ∧ (St.reads0 7 3 2 0 4096).sedgeAt 7 = some (0, 4096) ∧
    (St.reads0 7 3 2 0 4096).sedgeAt 99 = none ∧ (St.fetches []).Inv ∧ ((St.fetches []).running 0 1).map (fun c => (c.asked, c.want)) = some (true, []) ∧
    ((St.reads0 7 3 2 0 4096).ownSet 2 0) = false := by
  refine ⟨?_, ?_, ?_, State.inv_pairs _ rfl (by decide +kernel), ?_, ?_⟩ <;> decide +kernel
theorem wit_WriteShard : (St.writes0 7 0 0 4096).Inv ∧ ((St.writes0 7 0 0 4096).running 0 2).map (fun c => (c.off, c.len, c.tier, c.shard, bitAt (c.csp 48) 0)) = some (0, 4096, 0, 7, false) ∧
    ((St.writesR 7 3 .mire 0 4096).running 0 2).map (fun c => (bitAt (c.csp 48) 0, c.step)) = some (true, 3) ∧ (St.writesR 7 3 .mire 0 4096).mireRefill = true ∧
    (St.writesR 7 3 .sedge 0 4096).mireRefill = false ∧ (St.writesR 7 3 .mire 0 4096).Inv ∧
    (St.writesR 7 3 .mire 0 4096).cut.dir.filter (fun y => overlap 0 4096 ((St.writesR 7 3 .mire 0 4096).regionAt y) y.len) = (St.regions false).take 1 := by
  refine ⟨State.inv_pairs _ rfl (by decide +kernel), ?_, ?_, ?_, ?_, State.inv_pairs _ rfl (by decide +kernel), ?_⟩ <;> decide +kernel
theorem wit_ReadShard_peat : (St.reads3 0 .ready 7 3 4096 0).Inv ∧ (St.reads3 0 .ready 7 3 4096 0).entryMan (St.manEntry 0) = .ok (St.manBytes 0) ∧ (St.reads3 0 .ready 7 3 4096 0).entryKey (St.manEntry 0) = some none ∧
    ((St.reads3 0 .ready 7 3 4096 0).freeCtx [3]).isSome = true ∧ (St.reads3 0 .failed 7 3 0 4096).peatReadStop = some St.peatAbsent ∧
    ((Man.ofBytes (St.manBytes 0)).regions.find? (fun x => x.region.shard.toNat == 7)).map (fun x => (x.first, x.count, x.region.len)) = some (0, 1, 4096) ∧
    (Man.ofBytes (St.manBytes 0)).exts = [{ crc := 0, half := 12, len := 0 }] ∧
    ((St.reads3 0 .ready 7 3 0 4096).goodExts none [] 0).2 = none ∧ ((St.reads3 9 .ready 7 3 0 4096).goodExts none [{ crc := 9, half := 12, len := 0 }] 0).2 = some 0 := by
  refine ⟨State.inv_pairs _ rfl (by decide +kernel), St.manRead rfl (i := { peatGen := 7, units := [5, 6], man := [5] }) rfl (by decide +kernel) rfl, ?_, ?_, ?_, ?_, ?_, ?_⟩ <;> decide +kernel
theorem wit_WriteShard_peat : (St.writes3 0 .ready 7 3 0 4096 []).Inv ∧ (St.writes3 0 .ready 7 3 0 4096 []).entryMan (St.manEntry 0) = .ok (St.manBytes 0) ∧
    (St.writes3 0 .foreign 7 3 0 4096 []).peatWriteStop = some St.peatForeign ∧ (St.writes3 0 .ready 7 3 0 0 [1]).running 0 2 ≠ none ∧
    ((St.writes3 0 .ready 7 3 0 4096 []).takeUnits 1 []).1 = [1] ∧ ((St.writes3 0 .ready 7 3 0 4096 []).takeUnits 0 []).1 = [] ∧
    (St.writes3 0 .ready 7 3 0 4096 []).peatHeld = false ∧ (St.writesGood true).peatHeld = true ∧ 1 ≤ (St.writes3 0 .ready 7 3 0 4096 []).freeUnits := by
  refine ⟨State.inv_pairs _ rfl (by decide +kernel), St.manRead rfl (i := { peatGen := 7, units := [5, 6], man := [5] }) rfl (by decide +kernel) rfl, ?_, ?_, ?_, ?_, ?_, ?_, ?_⟩ <;> decide +kernel
theorem wit_ReadShard_entry : (St.reads3 0 .ready 7 3 4096 0).entryOf 3 0 = some (St.manEntry 0) ∧ (St.reads3 0 .ready 7 2 4096 0).entryOf 2 0 = none ∧
    (St.writes3 0 .ready 7 3 0 4096 []).entryOf 3 0 = some (St.manEntry 0) := ⟨rfl, rfl, rfl⟩

/-! ## Scans, lanes, digests -/

/-- A software-fed scan of three bytes: POLY and CONTINUE, COMPARE_EN, IRQ_MODE; busy or not; the window, or a place beyond it. -/
--~ St.scan St.scan 0 0x12000 false; St.scan 0 0x90000 false; St.scan 0x12 0x12000 true; St.scan 0x38 0x12000 true; St.scan 0x44 0x12000 true; St.scan 0x62 0x12000 true
def St.scan (ctrl addr : Nat) (busy : Bool) : State :=
  let s := ((St.win 0x10).setReg (Reg.chkEngCtrl 2) (BitVec.ofNat 64 ctrl)).setReg (Reg.chkEngAddr 2) (BitVec.ofNat 64 addr) |>.setReg (Reg.chkEngLen 2) 3 |>.setReg (Reg.chkEngResult 2) 77
  { s with chk := { scans := (Vector.replicate 4 false).set 2 busy }, mem := Memory.putBytes [] 0x12000 [1, 2, 3] }
/-- A DIGEST command with its list and message. -/
def St.digestEntry (alg slot len : Nat) (out : Nat) : List Byte :=
  leBytes 1 5 ++ zeros 23 ++ leBytes 8 0x12000 ++ zeros 8 ++ leBytes 8 len ++ [BitVec.ofNat 8 alg, BitVec.ofNat 8 slot] ++ zeros 6 ++ leBytes 8 out
def St.frags (l : List (Nat × Nat)) : List Byte := l.flatMap (fun x => leBytes 8 x.1 ++ leBytes 4 x.2 ++ zeros 4)
/-- "abc" with its padding, in two fragments, as the manual's example has it. -/
def St.abc : Memory :=
  Memory.putBytes (Memory.putBytes (Memory.putBytes [] 0x12000 (St.frags [(0x12100, 2), (0x12200, 62)])) 0x12100 [0x61, 0x62]) 0x12200 ([0x63, 0x80] ++ zeros 59 ++ [24])
--~ St.digests St.digests (St.digestEntry 0 0 32 0x13000) false; St.digests (St.digestEntry 0 0 32 0x13000) true; St.digests (St.digestEntry 0 0 33 0x13000) false; St.digests (St.digestEntry 4 0 32 0x13000) false; St.digests (St.digestEntry 1 0 32 0x93000) false; St.digests (St.digestEntry 0 0 48 0x13000) false; St.digests (St.digestEntry 0 0 65536 0x13000) false
def St.digests (e : List Byte) (full : Bool) : State :=
  { St.runs St.open' (St.ctxOf e) with mem := St.abc, chk := { lanes := Vector.replicate 32 (if full then some .drain else none) } }
/-- A lane is free and somebody waits: a command, with or without a key, or Felting; or verification. -/
--~ St.waitsLane St.waitsLane 0 false 0 .running; St.waitsLane 2 true 2 .running; St.waitsLane 2 false 2 .running; St.waitsLane 2 true 1 .running; St.waitsLane 0 false 0 .verify
def St.waitsLane (alg : Nat) (loaded : Bool) (kind : BitVec 2) (r : RstState) : State :=
  { St.runs St.open' { St.ctxOf (St.digestEntry alg 5 32 0x13000) with list := [1] } with
    chk := { laneWait := [.command 0, .drain], lanes := (Vector.replicate 32 none).set 0 (some .drain) },
    sec := { slots := (Vector.replicate 16 {}).set 5 { kind := kind, bytes := zeros 16, loaded := loaded } }, rst := { st := r }, cut := { dir := St.regions false } }
def St.waitsFelt : State := { St.open' with chk := { laneWait := [.felt 4 1] } }
/-- A message on lane 3: an algorithm, and the two fragments. -/
def St.hashing (alg : Nat) (a b : List Byte) (key : List Byte) : State :=
  let c : Ctx := { St.ctxOf (St.digestEntry alg 5 32 0x13000) with list := St.frags [(0x12100, a.length), (0x12200, b.length)], lane := some 3, key := key }
  { St.runs St.open' c with mem := Memory.putBytes (Memory.putBytes [] 0x12100 a) 0x12200 b, chk := { lanes := (Vector.replicate 32 none).set 3 (some (.command 0)) } }
--~ St.hashed St.hashed ([0x63, 0x80] ++ zeros 59 ++ [24]); St.hashed ([0x63, 0x80] ++ zeros 60 ++ [24]); St.hashed ([0x63, 0x80] ++ zeros 123 ++ [24]); St.hashed ([0x63, 0x80] ++ zeros 58 ++ [1, 0xC8]); St.hashed ([0x63, 0x80] ++ zeros 59 ++ [32])
def St.hashed (b : List Byte) : State := St.hashing 0 [0x61, 0x62] b []
--~ St.hashed2 St.hashed2 ([0x63, 0x80] ++ zeros 122 ++ [4, 24]); St.hashed2 (zeros 126)
def St.hashed2 (b : List Byte) : State := St.hashing 3 [0x61, 0x62] b (zeros 100)

/-- The manual's example: SHA-256 of "abc", with L in RESULT0 (R340). -/
theorem test_digest_abc : (match exec (.digestComplete 3) (St.hashed ([0x63, 0x80] ++ zeros 59 ++ [24])) with
    | .next t => (t.load 0x13000 32, (t.ctx? 0).map (fun c => (c.status, c.r0)))
    | _ => ([], none)) =
    ([0xBA, 0x78, 0x16, 0xBF, 0x8F, 0x01, 0xCF, 0xEA, 0x41, 0x41, 0x40, 0xDE, 0x5D, 0xAE, 0x22, 0x23, 0xB0, 0x03, 0x61, 0xA3, 0x96, 0x17, 0x7A, 0x9C,
      0xB4, 0x10, 0xFF, 0x61, 0xF2, 0x00, 0x15, 0xAD], some (0, 3)) := by decide +kernel
theorem wit_ScansAndDigests_scan : (St.scan 0 0x12000 false).Inv ∧ (St.scan 0 0x12000 false).powered = true ∧ ((St.scan 0 0x12000 false).writePlain (Reg.chkEngCtrl 2) 1).2 = true ∧
    (St.scan 0 0x12000 false).inWindow 0x12000 3 = true ∧ (St.scan 0 0x90000 false).inWindow 0x90000 3 = false ∧ vget (St.scan 0x12 0x12000 true).chk.scans 2 false = true ∧
    (St.scan 0x12 0x12000 true).rd (Fld.chkEngCtrl.compareEn 2) = 1 := ⟨State.inv_plain rfl (by decide +kernel), by decide +kernel⟩
theorem wit_ScansAndDigests_grant : (St.waitsLane 2 true 2 .running).Inv ∧ (St.waitsLane 2 true 2 .running).freeLane = some 1 ∧ (St.waitsLane 2 true 2 .running).verifyWants = false ∧
    (St.waitsLane 0 false 0 .verify).verifyWants = true ∧ ((St.waitsLane 2 true 2 .running).ctx? 0).map (fun c => (c.finished, c.csp 48, c.csp 49)) = some (false, 2, 5) ∧
    ((St.waitsLane 2 true 2 .running).keySlot 5).kind = 2 ∧ ((St.waitsLane 2 false 2 .running).keySlot 5).loaded = false ∧ ((St.waitsLane 2 true 1 .running).keySlot 5).kind ≠ 2 ∧
    St.waitsFelt.chk.laneWait.head? = some (.felt 4 1) := ⟨State.inv_plain rfl (by decide +kernel), by decide +kernel⟩
theorem wit_ScansAndDigests_digest : (St.digests (St.digestEntry 0 0 32 0x13000) false).Inv ∧
    ((St.digests (St.digestEntry 0 0 32 0x13000) false).running 0 5).map (fun c => (c.len, c.addr, c.csp 48, c.list)) = some (32, 0x12000, 0, []) ∧
    (fragments 2 ((St.digests (St.digestEntry 0 0 32 0x13000) false).load 0x12000 32)) = [(0x12100, 2, false), (0x12200, 62, false)] ∧
    (St.digests (St.digestEntry 0 0 32 0x13000) false).inWindow 0x12200 62 = true ∧ (St.digests (St.digestEntry 0 0 32 0x13000) false).inWindow 0x93000 48 = false ∧
    (St.digests (St.digestEntry 0 0 32 0x13000) true).freeLane = none := ⟨State.inv_plain rfl (by decide +kernel), by decide +kernel⟩
theorem wit_ScansAndDigests_done : (St.hashed ([0x63, 0x80] ++ zeros 59 ++ [24])).Inv ∧ vget (St.hashed []).chk.lanes 3 none = some (.command 0) ∧
    ((St.hashed ([0x63, 0x80] ++ zeros 59 ++ [24])).ctx? 0).map (fun c => (c.finished, (fragments (c.len / 16) c.list).map (fun x => x.2.1))) = some (false, [2, 62]) ∧
    ((St.hashed2 ([0x63, 0x80] ++ zeros 122 ++ [4, 24])).ctx? 0).map (fun c => c.csp 48) = some 3 := ⟨State.inv_plain rfl (by decide +kernel), by decide +kernel⟩

/-! ## The other state commands -/

/-- An entry with every field by its place. -/
def St.cmdEntry (opc shard step gen tier addr len : Nat) (csp : List Byte) : List Byte :=
  leBytes 1 opc ++ zeros 3 ++ leBytes 4 shard ++ leBytes 8 step ++ leBytes 1 gen ++ leBytes 1 tier ++ zeros 6 ++ leBytes 8 addr ++ zeros 8 ++ leBytes 8 len ++ fitTo 16 csp
def St.rewrite : Rewrite := { peatGen := 7, moves := [(0, 20)], q := 1, order := 2 }
/-- A FLUSH that waits for the command of some orders, in a state of the port; a rewrite is staged. -/
--~ St.flushes St.flushes [] .ready; St.flushes [2] .ready; St.flushes [2] .foreign
def St.flushes (waits : List Nat) (st : PeatState) : State :=
  let s := St.runs (St.retains 0 st) { St.ctxOf (St.cmdEntry 3 0 0 0 3 0 0 []) with waits := waits }
  { s with peat := { s.peat with staged := [St.rewrite] } }
def St.flushFull : State := St.fillUp (St.flushes [2] .ready)
/-- What keeps a FLUSH: a catalogue write with the drive, a hold, the power-fail sequence. -/
--~ St.flushKept St.flushKept true false false; St.flushKept false true false; St.flushKept false false true
def St.flushKept (busy hold work : Bool) : State :=
  let s := St.flushes [2] .ready
  { s with board := { s.board with pfHold := hold, pfWork := work }, peat := { s.peat with nvme := if busy then [{ owner := .catalogue, key := 0, bytes := [] }] else [] } }
def St.flushTaken : State :=
  let s := St.flushes [2] .ready
  { s with peat := { s.peat with staged := [], taking := [(St.rewrite, 8)] } }
/-- A manifest of one region of one extent: version, the region's digest, its CRC. -/
def St.mans (ver : Nat) (digest : List Byte) (crc : W64) : List Byte :=
  let h := leBytes 4 ver ++ zeros 28 ++ leBytes 4 1 ++ zeros 4 ++ leBytes 8 1 ++ zeros 72
  h ++ crc64Bytes h ++ (leBytes 4 7 ++ [1, 0, 0, 0] ++ leBytes 8 0 ++ leBytes 8 4096 ++ leBytes 8 0x40000) ++ (leBytes 4 1 ++ [1, 0, 0, 0] ++ leBytes 8 1000 ++ leBytes 8 0 ++ leBytes 8 1000) ++
    fitTo 48 digest ++ leBytes 4 0 ++ leBytes 4 1 ++ zeros 8 ++ leBytes 8 crc.toNat ++ leBytes 6 12 ++ leBytes 2 1
/-- VERIFY at Peat: the manifest, the group digest, the shard. The extent is 4 KiB of zeros. -/
--~ St.verifies3 St.verifies3 0x10000 (sha384 (zeros 4096)) (crc64 (zeros 4096)) true 7 .ready 3 1; St.verifies3 0x10000 (sha384 (zeros 4096)) 9 true 7 .ready 3 0; St.verifies3 0x10000 [] (crc64 (zeros 4096)) true 7 .ready 3 0; St.verifies3 0x10000 [] 9 false 7 .ready 3 0; St.verifies3 0x20000 [] 9 true 7 .ready 3 0; St.verifies3 0x10000 [] 9 true 99 .ready 3 0; St.verifies3 0x10000 [] 9 true 7 .failed 3 0; St.verifies3 0x10000 [] 9 true 7 .ready 2 0
def St.verifies3 (ver : Nat) (digest : List Byte) (crc : W64) (group : Bool) (shard : Nat) (st : PeatState) (step all : Nat) : State :=
  let b := St.mans ver digest crc
  let s := St.retains 0 st
  let e : CatEntry := { peatGen := 7, step := 3, manBytes := 272, manUnit := 5, manCrc := crc64 b, group := if group then sha384 (fitTo 48 digest) else zeros 48 }
  St.runs { s with peat := { s.peat with drive := { St.drive with blocks := Memory.putBytes [] ((St.drive.keyAt 5 0).getD 0) b }, cat := some ({ entries := [e] }, false) } }
    (St.ctxOf (St.cmdEntry 4 shard step 0 3 0 0 [BitVec.ofNat 8 all]))
/-- A catalogue entry of STEP 3, and its manifest. -/
def St.given : CatEntry := { peatGen := 7, step := 3, manBytes := 272, manUnit := 5, manCrc := crc64 (St.mans 0x10000 [] 9), group := sha384 (fitTo 48 []) }
/-- An engine that runs a job and can give that cut to another one from its Peat (R250). -/
def St.donates : State :=
  let s := St.verifies3 0x10000 [] 9 true 7 .ready 3 0
  { s with rst := { epoch := 7 }, cut := { s.cut with dir := [], cuts := [] }, peat := { s.peat with cat := some ({ entries := [St.given] }, false) } }
def St.givenMan : List Byte := St.mans 0x10000 [] 9
theorem St.given_man : St.donates.entryMan St.given = .ok St.givenMan :=
  St.manRead rfl (i := { peatGen := 7, units := [5, 6], man := [5] }) rfl (by decide +kernel) rfl
theorem St.given_head : manHeadOk St.givenMan = true := by decide +kernel
theorem St.given_group : (sha384 ((Man.ofBytes St.givenMan).regions.flatMap (fun x => x.digest)) != St.given.group) = false := by decide +kernel
/-- A generation whose manifest keeps its checks can be given whole. -/
theorem St.canGive {s : State} {e : CatEntry} {b : List Byte} {key : Option (List Byte)} (hk : s.entryKey e = some key) (hm : s.entryMan e = .ok b)
    (hh : manHeadOk b = true) (hg : (sha384 ((Man.ofBytes b).regions.flatMap (fun x => x.digest)) != e.group) = false) (hd : s.cut.dir = []) (a n : Nat) :
    (s.peatBytes e a n).isSome = true := by
  have h : s.goodMan e = .ok b := by simp [State.goodMan, hm, hh, hg]
  simp [State.peatBytes, hk, h, hd]
theorem wit_RestoreData_donor : St.donates.askedSet 1 2 3 = none ∧ St.donates.halted = false ∧ St.donates.cut.cuts = [] ∧ St.donates.red.tags.freeCount ≠ 0 ∧
    St.donates.entries.find? (fun e => BitVec.ofNat 32 e.step.toNat == 3) = some St.given ∧ (St.donates.peatBytes St.given 0 16).isSome = true ∧
    St.donates.hears 3 Ty.refillRequest (St.rstF Ty.refillRequest { stepLo := 3 } (leBytes 8 0 ++ leBytes 8 16)) = true := by
  refine ⟨by decide +kernel, rfl, rfl, by decide +kernel, List.find?_cons_of_pos rfl, St.canGive rfl St.given_man St.given_head St.given_group rfl 0 16, by decide +kernel⟩
/-- The same with a generation whose key is not loaded, or whose manifest does not read well. -/
--~ St.verifiesBad St.verifiesBad true 4; St.verifiesBad false 4; St.verifiesBad true 6; St.verifiesBad false 6
def St.verifiesBad (enc : Bool) (opc : Nat) : State :=
  let s := St.retains 0 .ready
  St.runs { s with peat := { s.peat with cat := some ({ entries := [{ St.manEntry 0 with encrypted := enc, kcv := 5, manCrc := 1 }] }, false) } } (St.ctxOf (St.cmdEntry opc 7 3 0 3 0 0 []))
/-- VERIFY at Batt of a cut with the digests of its regions, or others, or none. -/
--~ St.verifies1 St.verifies1 (some (sha384 (zeros 4096))) 7 3 false; St.verifies1 (some (zeros 48)) 7 3 false; St.verifies1 none 7 3 false; St.verifies1 (some []) 99 3 false; St.verifies1 (some []) 7 2 false; St.verifies1 (some (zeros 48)) 7 3 true
def St.verifies1 (digest : Option (List Byte)) (shard step : Nat) (badCrc : Bool) : State :=
  let c := { St.aCut .jobCommitted with arrived := true, doneOut := true, accepted := true }
  let sums : List RegionSum := match digest with
    | some d => [{ region := 0, digest := d, crcs := [if badCrc then 9 else crc64 (zeros 4096)] }, { region := 1, digest := zeros 48, crcs := [9] }]
    | none => []
  let s := St.withCut { c with sums := sums, record := zeros 32 } false
  let full (r : Region) : Region :=
    { r with
      dirBytes := leBytes 4 r.shard.toNat ++ [r.kind, r.fmt, 0, 0] ++ leBytes 8 r.offset ++ leBytes 8 r.len ++ leBytes 8 r.live
      tabBytes := zeros 32 }
  St.runs { s with cut := { s.cut with halfA := .held, dir := s.cut.dir.map full } } (St.ctxOf (St.cmdEntry 4 shard step 0 1 0 0 []))
/-- VERIFY at Sedge, before, while and after its data are fetched. -/
--~ St.verifies2 St.verifies2 7 3 false [] 0x10000; St.verifies2 7 3 true [(0, 4096)] 0x10000; St.verifies2 7 3 true [] 0x10000; St.verifies2 7 3 true [] 0; St.verifies2 99 3 true [] 0x10000; St.verifies2 7 2 true [] 0x10000
def St.verifies2 (shard step : Nat) (asked : Bool) (want : List (Nat × Nat)) (ver : Nat) : State :=
  let s := St.holds
  let t := s.tBytes
  let d := sha384 (zeros 4096)
  let com := zeros 16 ++ sha384 (d)
  St.runs s { St.ctxOf (St.cmdEntry 4 shard step 0 2 0 0 []) with
    asked := asked, want := want, area := Memory.putBytes (Memory.putBytes [] (t + 16384) com) (t + 65536) (St.mans ver d (crc64 (zeros 4096))) }
/-- VERIFY without a lane. -/
def St.verifyWaits : State :=
  let s := St.verifies1 none 7 3 false
  { s with chk := { lanes := Vector.replicate 32 (some .drain) } }
/-- SCRUB at Sedge: the first hosted set holds a manifest in its second page. -/
def St.scrubs2 : State :=
  let s := St.host .committed 8
  St.runs { s with mem := Memory.putBytes [] ((s.setAddr 0 (0x100000 + 65536)).getD 0) (St.mans 0x10000 [] 9) } (St.ctxOf (St.cmdEntry 6 0 0 0 2 0 0 []))
/-- SCRUB at Peat: the CRC, REPAIR, Peat writes held, a host that can be asked. -/
--~ St.scrubs3 St.scrubs3 0 1 false .ready true; St.scrubs3 9 0 false .ready true; St.scrubs3 9 1 true .ready true; St.scrubs3 9 1 false .foreign true; St.scrubs3 9 1 false .ready true; St.scrubs3 9 1 false .failed true; St.scrubs3 9 1 false .ready false
def St.scrubs3 (crc : W64) (repair : Nat) (hold : Bool) (st : PeatState) (kept : Bool) : State :=
  let s := St.runs (St.retains crc st) (St.ctxOf (St.cmdEntry 6 0 0 0 3 0 0 [0, 0, BitVec.ofNat 8 repair]))
  { s with board := { s.board with pfHold := hold }, peat := if kept then s.peat else { s.peat with cat := some ({}, false) } }
/-- Another command's lock on Peat. -/
def St.scrubLocked : State :=
  let s := St.scrubs3 0 1 false .ready true
  { s with cmd := { s.cmd with locks := [{ ctx := 3, tier := 3, shard := 7, step := 3, gen := 0, lo := 0, hi := 1, excl := false }] } }
--~ St.fences St.fences [4]; St.fences [9]
def St.fences (waits : List Nat) : State := St.runs St.open' { St.ctxOf (St.cmdEntry 7 0 0 0 0 0 0 []) with waits := waits }
--~ St.asksCut St.asksCut 3; St.asksCut 2
def St.asksCut (step : Nat) : State := St.runs St.holds (St.ctxOf (St.cmdEntry 0x10 0 step 0 0 0 0 []))
--~ St.peatNext St.peatNext 5 none none; St.peatNext 5 (some 4) none; St.peatNext 4 (some 4) none; St.peatNext 9 (some 4) (some 0); St.peatNext 9 (some 4) (some 1); St.peatNext 9 none (some 1)
def St.peatNext (step : Nat) (prev : Option W64) (by' : Option Nat) : State :=
  let s := St.runs St.open' (St.ctxOf (St.cmdEntry 0x10 0 step 0 0 0 0 [1]))
  { s with cut := { prevStep := prev, peatNext := by'.map (fun k => (6, k, none)) } }
/-- RESTORE at a Warden of a role, in a state of the job. -/
--~ St.restores St.restores 3 .waiting 0; St.restores 3 .normal 0; St.restores 1 .waiting 0; St.restores 3 .waiting 32
def St.restores (role : Nat) (j : JobState) (len : Nat) : State :=
  let s := (St.hears .alive false 0 9).wr Fld.ctlElect.role role
  St.runs { s with warden := { s.warden with job := j } } (St.ctxOf (St.cmdEntry 0x11 0 3 0 4 0 len []))
/-- An elastic RESTORE: its map's element count, a reserved byte, where it lies, its length, and the restore path. -/
--~ St.elastic St.elastic 1000 0 0x11000 64 .running; St.elastic 999 0 0x11000 64 .running; St.elastic 1000 1 0x11000 64 .running; St.elastic 1000 0 0x91000 64 .running; St.elastic 1000 0 0x11000 33 .running; St.elastic 1000 0 0x11000 64 .refill
def St.elastic (count : Nat) (rsv : Byte) (addr len : Nat) (st : RstState) : State :=
  let row (shard n : Nat) : List Byte := leBytes 4 shard ++ leBytes 2 0xFFFF ++ [0, rsv] ++ leBytes 4 1 ++ zeros 4 ++ leBytes 8 0 ++ leBytes 8 n
  let s := St.runs St.holds (St.ctxOf (St.cmdEntry 0x11 0 3 0 0 addr len [1]))
  { s with mem := Memory.putBytes [] 0x11000 (row 7 count ++ row 8 2040), rst := { st := st } }

theorem wit_StateCommands_flush : (St.flushes [2] .ready).Inv ∧ ((St.flushes [2] .ready).running 0 3).isSome = true ∧
    (St.flushes [2] .ready).peat.staged.any (fun r => [2].contains r.order) = true ∧ (St.flushes [2] .ready).board.pfWork = false ∧
    (St.flushes [2] .ready).peatWriteStop = none ∧ ((St.flushes [2] .ready).catBusy || (St.flushes [2] .ready).peatHeld || (St.flushes [2] .ready).drainEnds) = false ∧
    ((St.flushes [2] .ready).peat.cat.map (fun x => ((St.flushes [2] .ready).peat.drive.keyAt 0 (slotOff (!x.2))).isSome)) = some true :=
  ⟨State.inv_pairs _ rfl (by decide +kernel), by decide +kernel⟩
theorem wit_StateCommands_flush_else : ((St.flushes [] .ready).running 0 3).map (fun c => c.waits) = some [] ∧
    (St.flushTaken.running 0 3).map (fun c => c.waits) = some [2] ∧ St.flushTaken.peat.staged = [] ∧ St.flushTaken.peat.taking.any (fun r => [2].contains r.1.order) = true ∧
    (St.flushKept false false true).board.pfWork = true ∧ (St.flushKept true false false).catBusy = true ∧ (St.flushKept false true false).board.pfHold = true ∧
    (St.flushes [2] .foreign).peatWriteStop.isSome = true ∧ St.flushFull.freeUnits = 0 ∧ St.flushFull.peat.staged = [St.rewrite] := by decide +kernel
theorem wit_StateCommands_verify_batt : (St.verifies1 none 7 3 false).Inv ∧ ((St.verifies1 none 7 3 false).running 0 4).map (fun c => (c.tier, c.shard)) = some (1, 7) ∧
    (St.verifies1 none 7 3 false).freeLane.isSome = true ∧ ((St.verifies1 none 7 3 false).heldCut 3 0).isSome = true ∧
    (((St.verifies1 none 7 3 false).heldCut 3 0).map (fun d => (St.verifies1 none 7 3 false).allRead d.1)) = some false ∧
    (((St.verifies1 (some []) 7 3 false).heldCut 3 0).map (fun d => (St.verifies1 (some []) 7 3 false).allRead d.1)) = some true ∧
    (St.verifies1 (some []) 7 2 false).heldCut 2 0 = none ∧ St.verifyWaits.freeLane = none := ⟨State.inv_pairs _ rfl (by decide +kernel), by decide +kernel⟩
theorem wit_StateCommands_verify_sedge : (St.verifies2 7 3 false [] 0).Inv ∧ ((St.verifies2 7 3 false [] 0).running 0 4).map (fun c => (c.tier, c.asked)) = some (2, false) ∧
    ((St.verifies2 7 3 false [] 0).ownSet 3 0 && (St.verifies2 7 3 false [] 0).hostAlive) = true ∧ ((St.verifies2 7 3 false [] 0).regionById 7).isSome = true ∧
    (St.verifies2 99 3 true [] 0).regionById 99 = none ∧ ((St.verifies2 7 2 true [] 0).ownSet 2 0 && (St.verifies2 7 2 true [] 0).hostAlive) = false ∧
    ((St.verifies2 7 3 true [(0, 4096)] 0).running 0 4).map (fun c => (c.asked, c.want)) = some (true, [(0, 4096)]) ∧
    ((St.verifies2 7 3 true [] 0).running 0 4).map (fun c => (c.asked, c.want)) = some (true, []) := ⟨State.inv_pairs _ rfl (by decide +kernel), by decide +kernel⟩
theorem wit_StateCommands_verify_peat : ((St.verifies3 0x10000 [] 9 true 7 .ready 3 0).running 0 4).map (fun c => (c.tier, c.csp 48)) = some (3, 0) ∧
    (St.verifies3 0x10000 [] 9 true 7 .ready 3 0).peatReadStop = none ∧ ((St.verifies3 0x10000 [] 9 true 7 .ready 3 0).entryOf 3 0).isSome = true ∧
    (St.verifies3 0x10000 [] 9 true 7 .ready 2 0).entryOf 2 0 = none ∧ (St.verifies3 0x10000 [] 9 true 7 .failed 3 0).peatReadStop.isSome = true ∧
    (((St.verifiesBad true 4).entryOf 3 0).map (fun e => (St.verifiesBad true 4).entryKey e)) = some none := by decide +kernel
theorem wit_StateCommands_scrub : St.scrubs2.Inv ∧ (St.scrubs2.running 0 6).map (fun c => (c.tier, c.todo)) = some (2, []) ∧
    St.scrubLocked.cmd.locks.any (fun l => l.ctx != 0 && l.tier.toNat == 3 && (l.excl || true)) = true := ⟨State.inv_plain rfl (by decide +kernel), by decide +kernel⟩
theorem wit_StateCommands_scrub_peat : ((St.scrubs3 9 1 false .ready true).running 0 6).map (fun c => (c.tier, c.csp 50, c.asked, c.tries)) = some (3, 1, false, 0) ∧
    (St.scrubs3 9 1 false .ready true).peatReadStop = none ∧ (St.scrubs3 9 1 false .ready true).entries.length = 1 ∧ (St.scrubs3 9 1 false .ready false).entries = [] ∧
    (St.scrubs3 9 1 false .failed true).peatReadStop.isSome = true ∧ (St.scrubs3 9 1 true .ready true).board.pfHold = true ∧
    (St.scrubs3 9 1 false .ready true).peatWriteStop = none := by decide +kernel
theorem wit_StateCommands_fence_cut : (St.fences [4]).Inv ∧ ((St.fences [4]).running 0 7).isSome = true ∧ (St.fences [4]).cmd.ctxs.any (fun x => [4].contains x.2.order) = true ∧
    (St.fences [9]).cmd.ctxs.any (fun x => [9].contains x.2.order) = false ∧ ((St.asksCut 3).cutOf 3 0).isSome = true ∧ (St.asksCut 2).cutOf 2 0 = none ∧
    ((St.asksCut 3).running 0 0x10).map (fun c => c.csp 48) = some 0 := ⟨State.inv_plain rfl (by decide +kernel), by decide +kernel⟩
theorem wit_StateCommands_peat_next : (St.peatNext 5 (some 4) none).Inv ∧ ((St.peatNext 5 (some 4) none).running 0 0x10).map (fun c => (c.csp 48, c.step)) = some (1, 5) ∧
    (St.peatNext 5 (some 4) none).cut.prevStep = some 4 ∧ (St.peatNext 4 (some 4) none).cut.prevStep = some 4 ∧ (St.peatNext 5 none none).cut.prevStep = none ∧
    (St.peatNext 9 (some 4) (some 0)).cut.peatNext = some (6, 0, none) ∧ (St.peatNext 9 (some 4) (some 1)).cut.peatNext = some (6, 1, none) :=
  ⟨State.inv_plain rfl (by decide +kernel), by decide +kernel⟩
theorem wit_StateCommands_restore : (St.restores 3 .waiting 0).Inv ∧ ((St.restores 3 .waiting 0).running 0 0x11).map (fun c => (c.csp 48, c.addr, c.len)) = some (0, 0, 0) ∧
    (St.restores 3 .waiting 0).rst.restoreCtx = none ∧ (St.restores 3 .waiting 0).rd Fld.ctlElect.role = 3 ∧ (St.restores 1 .waiting 0).rd Fld.ctlElect.role ≠ 3 ∧
    (St.restores 3 .normal 0).warden.job ≠ .waiting ∧ ((St.restores 3 .waiting 32).running 0 0x11).map (fun c => c.len) = some 32 :=
  ⟨State.inv_plain rfl (by decide +kernel), by decide +kernel⟩
theorem wit_StateCommands_elastic : (St.elastic 1000 0 0x11000 64 .running).Inv ∧ ((St.elastic 1000 0 0x11000 64 .running).running 0 0x11).map (fun c => (c.csp 48, c.addr, c.len)) = some (1, 0x11000, 64) ∧
    (mapRows 2 ((St.elastic 1000 0 0x11000 64 .running).load 0x11000 64)).any (fun m => m.reserved) = false ∧ (St.elastic 1000 0 0x11000 64 .running).elasticFree = true ∧
    (St.elastic 1000 0 0x11000 64 .running).mapOk (mapRows 2 ((St.elastic 1000 0 0x11000 64 .running).load 0x11000 64)) = true ∧
    (St.elastic 999 0 0x11000 64 .running).mapOk (mapRows 2 ((St.elastic 999 0 0x11000 64 .running).load 0x11000 64)) = false ∧
    (mapRows 2 ((St.elastic 1000 1 0x11000 64 .running).load 0x11000 64)).any (fun m => m.reserved) = true ∧ (St.elastic 1000 0 0x91000 64 .running).inWindow 0x91000 64 = false ∧
    (St.elastic 1000 0 0x11000 64 .refill).elasticFree = false := ⟨State.inv_pairs _ rfl (by decide +kernel), by decide +kernel⟩

/-! ## Administrative commands and firmware -/

/-- A signed image of 8 KiB: FLAGS, SVN, and its signature under the key whose public point is the base point. -/
def St.pub : List Byte := [4] ++ (leBytes 48 p384gx).reverse ++ (leBytes 48 p384gy).reverse
def St.imageHead (flags svn : Nat) : List Byte :=
  ascii "CGFW" ++ leBytes 4 0x00010000 ++ leBytes 4 8192 ++ leBytes 2 svn ++ leBytes 1 0 ++ leBytes 1 flags ++ ascii "V1" ++ zeros 14 ++ zeros 4 ++ leBytes 4 0x00010000 ++ zeros 24 ++
    St.pub ++ zeros 95 ++ (leBytes 48 0x8d999057ba3d2d969260045c55b97f089025959a6f434d651d207d19fb96e9e4fe0e86ebe0e64f85b96a9c75295df61).reverse ++
    (leBytes 48 (if flags = 0 then 0x26fcdc1951ee226cb813447262dd100e97feeaca7effb75270b0c25b267f2e2cf16be7a351819507fae9fc5ede685fe9
      else 0x60e2c88401fc7ec34b1d6f30c55169992aa80cec59da08bd4c80176012bed07800025b370bf35e78e11962654c2a07a6)).reverse
/-- A part that knows that key, with images in places of the store. -/
def St.stored (images : List (Nat × List Byte)) (r : StateRecord) : State :=
  { St.open' with
    part := { keyHash := [sha384 St.pub], serial := 0x1122334455667788 }
    store := { recA := { r with crcOk := true, seqNo := 5 }, bytes := images.foldl (fun m x => Memory.putBytes m x.1 x.2) [], dlNext := 8192 } }
--~ St.identifies St.identifies 0 0x11000 0; St.identifies 0 0x91000 3; St.identifies 0 0x11000 3; St.identifies 2 0x11000 1
def St.identifies (cns addr role : Nat) : State :=
  St.runs ((St.stored [(0x100000, St.imageHead 0 0), (0x200000, St.imageHead 1 1)] { aValid := true }).wr Fld.ctlElect.role role) (St.ctxOf (St.cmdEntry 0x80 0 0 0 0 addr 0 [BitVec.ofNat 8 cns]))
def St.identifiesPeat : State :=
  let s := St.runs (St.retains 0 .ready) (St.ctxOf (St.cmdEntry 0x80 0 0 0 0 0x11000 0 [1]))
  { s with peat := { s.peat with drive := { s.peat.drive with model := ascii "Example", vwc := true, width := 4, spaces := [(20480, true), (100, false)] } } }
def St.pageEntry (lid addr off len : Nat) : List Byte :=
  leBytes 1 0x81 ++ zeros 23 ++ leBytes 8 addr ++ leBytes 8 off ++ leBytes 8 len ++ fitTo 16 [BitVec.ofNat 8 lid]
--~ St.pages St.pages 1 0x11000 0 64; St.pages 2 0x11000 0 512; St.pages 3 0x11000 0 64; St.pages 4 0x11000 0 64; St.pages 6 0x11000 0 512; St.pages 7 0x11000 0 32; St.pages 8 0x11000 0 32; St.pages 8 0x11000 1020 8; St.pages 1 0x91000 0 8; St.pages 5 0x11000 0 4096
def St.pages (lid addr off len : Nat) : State :=
  let s := St.runs (St.retains 0 .ready) (St.ctxOf (St.pageEntry lid addr off len))
  { (s.wr Fld.chkErrStatus.memUe 1) with
    part := { keyHash := [] }
    store := { recB := { crcOk := true, bValid := true, failCause := 3, startsB := 6 }, bytes := Memory.putBytes [] 0x200000 (St.imageHead 1 1) }
    log := [{ sec := 7, ns := 9, valid := true, kind := 2, status := 0x0203, unit := 4, rseq := 5, detail := [1] }]
    cmd := { s.cmd with relayLog := [[1, 2, 3]] }, peat := { s.peat with smart := 9 :: zeros 511 } }
/-- GET and SET FEATURES: the feature, its value, a drive there or not. -/
--~ St.features St.features 0x82 1 0 true; St.features 0x82 2 0 true; St.features 0x82 3 0 true; St.features 0x82 4 0 true; St.features 0x82 5 0 true; St.features 0x82 5 0 false; St.features 0x83 1 0x1234 true; St.features 0x83 1 0x1230 true; St.features 0x83 2 0x0164 true; St.features 0x83 2 0x01E4 true; St.features 0x83 3 0x264 true; St.features 0x83 3 0x164 true; St.features 0x83 4 280 true; St.features 0x83 4 281 true; St.features 0x83 5 1 true; St.features 0x83 5 1 false; St.features 0x83 5 2 true
def St.features (opc fid v : Nat) (drive : Bool) : State :=
  let s := St.runs (if drive then St.retains 0 .ready else St.open') (St.ctxOf (St.cmdEntry opc 0 0 0 0 0 0 ([BitVec.ofNat 8 fid] ++ zeros 7 ++ leBytes 8 v)))
  ((s.wr Fld.peatCfg.retain 3).wr Fld.peatCfg.ageMax 77).wr Fld.tierHbCfg.hbIntervalMs 9
def St.loadEntry (addr off len : Nat) : List Byte := leBytes 1 0x84 ++ zeros 23 ++ leBytes 8 addr ++ leBytes 8 off ++ leBytes 8 len ++ zeros 16
--~ St.loads St.loads 0x11000 0 4096; St.loads 0x11000 8192 4096; St.loads 0x11000 4096 4096; St.loads 0x91000 0 4096; St.loads 0x11000 1 4096; St.loads 0x11000 0 100
def St.loads (addr off len : Nat) : State :=
  { St.runs (St.stored [] {}) (St.ctxOf (St.loadEntry addr off len)) with mem := Memory.putBytes [] 0x11000 [1, 2, 3] }
def St.loadsPast : State :=
  let s := St.loads 0x11000 0x100000 4096
  { s with store := { s.store with dlNext := 0x100000 } }
/-- FIRMWARE COMMIT of an action into a slot: what is staged, what runs, Hummock mode. -/
--~ St.commits St.commits 0 1 true .running true; St.commits 1 1 true .hummock true; St.commits 1 0 true .running true; St.commits 1 1 false .running true; St.commits 0 1 true .running false; St.commits 2 1 true .running true; St.commits 2 1 true .hummock false; St.commits 2 0 true .hummock true
def St.commits (action slot : Nat) (good : Bool) (ph : Phase) (other : Bool) : State :=
  let i := if good then St.imageHead 0 0 else ascii "NONE"
  let s := St.runs (St.stored ([(0x300000, i)] ++ if other then [(0x200000, St.imageHead 1 1)] else [(0x200000, St.imageHead 0 1)]) { bValid := other || ph == .hummock, failCount := 2 })
    (St.ctxOf (St.cmdEntry 0x85 0 0 0 0 0 0 [BitVec.ofNat 8 slot, BitVec.ofNat 8 action]))
  { s with boot := { s.boot with phase := ph }, part := { s.part with revoked := if good && !other && action = 0 then 1 else 0 } }

/-- The same state with nothing in the store's slots. -/
def St.bare (s : State) : State := { s with store := { s.store with bytes := [] } }
theorem wit_AdminCommands_identify : (St.bare (St.identifies 0 0x11000 0)).Inv ∧ ((St.bare (St.identifies 0 0x11000 0)).running 0 0x80).map (fun c => (c.csp 48, c.addr)) = some (0, 0x11000) ∧
    (St.bare (St.identifies 0 0x11000 0)).inWindow 0x11000 4096 = true ∧ (St.bare (St.identifies 0 0x91000 3)).inWindow 0x91000 4096 = false ∧
    ((St.bare (St.identifies 2 0x11000 1)).running 0 0x80).map (fun c => c.csp 48) = some 2 ∧ (St.identifiesPeat.running 0 0x80).map (fun c => c.csp 48) = some 1 ∧
    St.identifiesPeat.peat.linkUp = true ∧ St.identifiesPeat.peat.cat.isSome = true := ⟨State.inv_plain rfl (by decide +kernel), by decide +kernel⟩
theorem wit_AdminCommands_pages : (St.bare (St.pages 3 0x11000 0 64)).Inv ∧ ((St.bare (St.pages 3 0x11000 0 64)).running 0 0x81).map (fun c => (c.csp 48, c.addr, c.off, c.len)) = some (3, 0x11000, 0, 64) ∧
    (St.bare (St.pages 3 0x11000 0 64)).inWindow 0x11000 64 = true ∧ (St.bare (St.pages 1 0x91000 0 8)).inWindow 0x91000 8 = false ∧
    ((St.bare (St.pages 8 0x11000 1020 8)).running 0 0x81).map (fun c => (c.csp 48, c.off, c.len)) = some (8, 1020, 8) ∧
    ((St.bare (St.pages 1 0x11000 0 64)).log.head?).isSome = true ∧ ((St.bare (St.pages 4 0x11000 0 64)).cut.cuts.head?).map (fun d => d.refused) ≠ some true ∧
    (St.bare (St.pages 6 0x11000 0 512)).peat.smart.length = 512 ∧ ((St.bare (St.pages 8 0x11000 0 32)).cmd.relayLog.head?).isSome = true := ⟨State.inv_pairs _ rfl (by decide +kernel), by decide +kernel⟩
theorem wit_AdminCommands_features : (St.features 0x82 5 0 true).Inv ∧ ((St.features 0x82 5 0 true).running 0 0x82).map (fun c => c.csp 48) = some 5 ∧
    (St.features 0x82 5 0 true).peat.linkUp = true ∧ (St.features 0x82 5 0 false).peat.linkUp = false ∧
    ((St.features 0x83 1 0x1238 true).running 0 0x83).map (fun c => (c.csp 48, fieldLE c.entry 56 8)) = some (1, 0x1238) ∧
    ((St.features 0x83 2 0x01E4 true).running 0 0x83).map (fun c => (c.csp 48, fieldLE c.entry 56 8)) = some (2, 0x01E4) ∧
    ((St.features 0x83 3 0x264 true).running 0 0x83).map (fun c => (c.csp 48, fieldLE c.entry 56 8)) = some (3, 0x264) ∧
    ((St.features 0x83 4 280 true).running 0 0x83).map (fun c => (c.csp 48, fieldLE c.entry 56 8)) = some (4, 280) ∧
    ((St.features 0x83 5 1 false).running 0 0x83).map (fun c => (c.csp 48, fieldLE c.entry 56 8)) = some (5, 1) := ⟨State.inv_pairs _ rfl (by decide +kernel), by decide +kernel⟩
theorem wit_AdminCommands_download : (St.loads 0x11000 8192 4096).Inv ∧ ((St.loads 0x11000 8192 4096).running 0 0x84).map (fun c => (c.addr, c.off, c.len)) = some (0x11000, 8192, 4096) ∧
    (St.loads 0x11000 8192 4096).inWindow 0x11000 4096 = true ∧ (St.loads 0x11000 8192 4096).store.dlNext = 8192 ∧
    ((St.loads 0x11000 4096 4096).running 0 0x84).map (fun c => c.off) = some 4096 ∧ (St.loads 0x91000 0 4096).inWindow 0x91000 4096 = false ∧
    (St.loadsPast.running 0 0x84).map (fun c => (c.off, c.len)) = some (0x100000, 4096) ∧ St.loadsPast.store.dlNext = 0x100000 ∧
    ((St.loads 0x11000 1 4096).running 0 0x84).map (fun c => c.off) = some 1 := ⟨State.inv_plain rfl (by decide +kernel), by decide +kernel⟩
theorem wit_AdminCommands_commit : (St.bare (St.commits 1 1 true .hummock true)).Inv ∧
    ((St.bare (St.commits 1 1 true .hummock true)).running 0 0x85).map (fun c => (c.csp 48, c.csp 49)) = some (1, 1) ∧
    ((St.bare (St.commits 0 1 true .running true)).running 0 0x85).map (fun c => (c.csp 48, c.csp 49)) = some (1, 0) ∧
    ((St.bare (St.commits 2 1 true .running true)).running 0 0x85).map (fun c => (c.csp 48, c.csp 49)) = some (1, 2) ∧
    (St.bare (St.commits 1 1 true .hummock true)).store.recA.seqNo.toNat + 4 < 2 ^ 64 ∧ (St.bare (St.commits 1 1 true .hummock true)).store.recB.seqNo.toNat + 4 < 2 ^ 64 ∧
    (St.bare (St.commits 2 1 true .running true)).store.record.bValid = true ∧ (St.bare (St.commits 2 0 true .hummock true)).store.record.aValid = false ∧
    (St.bare (St.commits 1 0 true .running true)).boot.slot = false := ⟨State.inv_plain rfl (by decide +kernel), by decide +kernel⟩

/-! ## Relays -/

/-- Pair 1 is the relay pair; a window of 16 MiB and 64 KiB from 0x10000; the rack's Warden or not, with members. -/
def St.relayPair (role : Nat) (x : Queue) (ms : List Member) : State :=
  let s := (((((St.pair1 x).wr Fld.cmdCtrl.relayQp 1).wr Fld.cmdCtrl.relayEn 1).wr Fld.ctlElect.role role).wr Fld.tierIdent.rack 1).wr Fld.tierIdent.position 9 |>.wr Fld.cmdDataWinSize.size 0x1010
  { s with warden := { members := ms }, now := 200000000, cmd := { s.cmd with relaySeq := 5, order := 5 } }
def St.member (pos : BitVec 7) : Member := { rack := 1, pos := pos, cls := .alive }
/-- An entry with a TARGET and a LENGTH. -/
def St.targetEntry (opc target len : Nat) : List Byte :=
  leBytes 1 opc ++ [0, 0x34, 0x12] ++ leBytes 4 (if opc ≤ 2 then 7 else 0) ++ zeros 12 ++ leBytes 4 target ++ leBytes 8 (if opc ≤ 2 || opc = 0x80 then 0x12000 else 0) ++ zeros 8 ++ leBytes 8 len ++ zeros 16
--~ St.relaysOut St.relaysOut 0 7 3 0; St.relaysOut 1 5 3 0; St.relaysOut 1 1 0xFFFFFFFE 4096; St.relaysOut 1 7 3 0; St.relaysOut 1 7 0xFFFFFFFE 0; St.relaysOut 1 2 3 4096; St.relaysOut 1 1 3 0x1001000
def St.relaysOut (role opc target len : Nat) : State :=
  { St.relayPair role { st := .active, subs := [.ring], sqTail := 1 } [St.member 2, St.member 4] with mem := Memory.putBytes (Memory.putBytes [] 0x10000 (St.targetEntry opc target len)) 0x12000 [1, 2, 3] }
def St.relaysOff : State := (St.relaysOut 1 7 3 0).wr Fld.cmdCtrl.relayEn 0
/-- The free value of the state decides whether a TARGET is known. -/
def St.relaysOther : State := { St.relaysOut 1 7 3 0 with freeCtr := 1 }
/-- A relayed frame from position 2. -/
def St.relayF (ty : BitVec 8) (off : BitVec 48) (count : BitVec 16) (p : List Byte) : Frame :=
  let f : Frame := { srcRack := 1, srcPos := 2, tag := 9, gen := 1, seq := 5, offset := off, count := count, payload := p }
  { f with crc := Frame.crcOf ty f }
def St.ctlF (ty : BitVec 8) (p : List Byte) : Frame := St.relayF ty 0 (BitVec.ofNat 16 p.length) p
def St.compl (status : Nat) (r1 : Nat) : List Byte := leBytes 4 77 ++ zeros 6 ++ leBytes 2 status ++ leBytes 4 r1
/-- What has been staged here of a relayed command. -/
def St.stagedOf (e : List Byte) (got : Nat) (long : Bool) (arrival : Nat) : Staged :=
  { rack := 1, pos := 2, tag := 9, gen := 1, seq := 5, got := got, long := long, arrival := arrival, entry := e }
--~ St.stages St.stages .active none; St.stages .disabled none; St.stages .active (some (St.stagedOf [] 4 false 0)); St.stages .active (some (St.stagedOf [] 8 false 0)); St.stages .active (some (St.stagedOf [] 12 false 0)); St.stages .active (some (St.stagedOf [] 4 true 200000000)); St.stages .active (some (St.stagedOf (St.targetEntry 2 0 8) 4 false 0)); St.stages .active (some (St.stagedOf (St.targetEntry 2 0 12) 4 false 0)); St.stages .active (some (St.stagedOf (St.targetEntry 2 0 4) 4 false 0))
def St.stages (st : QState) (x : Option Staged) : State :=
  let s := (St.relayPair 0 { st := st } []).wr Fld.synRemoteCfg.wdUs 1000
  { s with cmd := { s.cmd with staged := x.toList } }
/-- A relay of a context, to position 2, and others of the same context. -/
def St.aRelay (all : Bool) (early result : Option (List Byte)) (got : Nat) : Relay :=
  { seq := 5, tag := 9, gen := 1, rack := 1, pos := 2, rank := 3, ctx := 0, all := all, tick := 0, got := got, len := 8, early := early, result := result }
--~ St.relaying St.relaying 7 (St.aRelay false none none 0) []; St.relaying 0x80 (St.aRelay false none none 0) []; St.relaying 1 (St.aRelay false none none 0) []; St.relaying 1 (St.aRelay false none none 4) []; St.relaying 1 (St.aRelay false none none 8) []; St.relaying 7 (St.aRelay true none none 0) [{ St.aRelay true none none 0 with seq := 6, rank := 2 }]; St.relaying 7 (St.aRelay true none none 0) [{ St.aRelay true none (some (St.compl 0x0102 4)) 0 with seq := 6, rank := 2 }]; St.relaying 7 (St.aRelay true none none 0) [{ St.aRelay true none (some (St.compl 0 4)) 0 with seq := 6, rank := 2 }]; St.relaying 1 (St.aRelay false (some (St.compl 0 0)) none 4) []; St.relaying 1 (St.aRelay false (some (St.compl 0 0)) none 0) []; St.relaying 1 (St.aRelay false (some (St.compl 0 0)) none 6) []; St.relaying 1 (St.aRelay true none none 0) []; St.relaying 7 { St.aRelay false none none 0 with tick := 200000000 } []
def St.relaying (opc : Nat) (r : Relay) (more : List Relay) : State :=
  let s := (St.relayPair 1 { st := .active } [St.member 2]).wr Fld.synRemoteCfg.wdUs 1000
  { s with
    cmd := { s.cmd with ctxs := [(0, { q := 1, sqHead := 1, pushed := false, entry := St.targetEntry opc 3 8, order := 4 })], relays := r :: more }
    red := { tags := { inUse := [9] } } }
/-- A relayed command has ended here. -/
--~ St.answers St.answers 1 0 0 [1, 2, 3, 4]; St.answers 0x80 0 0x405 []; St.answers 7 0x0102 0 []
def St.answers (opc : Nat) (st : Status) (sig : Nat) (d : List Byte) : State :=
  let s := St.relayPair 0 { st := .active, phase := true } []
  let c : Ctx := { q := 1, sqHead := 1, pushed := false, entry := (St.targetEntry opc 0 8).take 18 ++ leBytes 2 sig ++ (St.targetEntry opc 0 8).drop 20, order := 4, finished := true, status := st, r0 := 9, data := d
                   relay := some { rack := 1, pos := 2, tag := 9, gen := 1, seq := 5 } }
  { s with cmd := { s.cmd with ctxs := [(0, c)] } }
/-- The own share of a command for every rank has ended; what else of the command is out, and what its pair still produces. -/
--~ St.ownShare St.ownShare [] []; St.ownShare [{ St.aRelay true none none 0 with seq := 6, rank := 2 }] []; St.ownShare [] [{ pair := 3, count := 1, who := .command 1 }]
def St.ownShare (more : List Relay) (pends : List PendProd) : State :=
  let s := St.relaying 7 { St.aRelay true none none 0 with pos := 9 } more
  let c : Ctx := { q := 1, sqHead := 1, pushed := false, entry := St.targetEntry 7 3 0, order := 5, finished := true, status := 0x0102, relay := some { rack := 1, pos := 9, tag := 9, gen := 1, seq := 5 } }
  { s with cmd := { s.cmd with ctxs := s.cmd.ctxs ++ [(1, c)] }, syn := { s.syn with pends := pends } }

theorem wit_CommandRelays_own : (St.ownShare [] []).Inv ∧ ((St.ownShare [] []).ctx? 1).map (fun c => (c.finished, c.abandoned, c.entry.length, c.relay.map (fun r => (St.ownShare [] []).isMe r.rack r.pos))) = some (true, false, 64, some true) ∧
    (St.ownShare [] []).unitHolds (.command 1) = false ∧ (St.ownShare [] [{ pair := 3, count := 1, who := .command 1 }]).unitHolds (.command 1) = true ∧
    (St.ownShare [] []).rdB (Fld.cmdQCfg.enable 1) = true ∧ ((St.ownShare [] []).cmd.relays.map (fun x => (x.seq, x.ctx, x.all, (St.ownShare [] []).isMe x.rack x.pos))) = [(5, 0, true, true)] :=
  ⟨State.inv_plain rfl (by decide +kernel), by decide +kernel⟩
theorem wit_CommandRelays_start : (St.relaysOut 1 7 3 0).Inv ∧ (St.relaysOut 1 7 3 0).served = true ∧ (St.relaysOut 1 7 3 0).rdB Fld.cmdCtrl.enable = true ∧
    (St.relaysOut 1 7 3 0).freeContext = some 0 ∧ ((St.relaysOut 1 7 3 0).queue 1).st = .active ∧ (St.relaysOut 1 7 3 0).rdB (Fld.cmdQCfg.enable 1) = true ∧
    ((St.relaysOut 1 7 3 0).queue 1).subs = [.ring] ∧ ((St.relaysOut 1 7 3 0).queue 0).subs = [] := ⟨State.inv_plain rfl (by decide +kernel), by decide +kernel⟩
theorem wit_CommandRelays_out : (St.relaysOut 1 7 3 0).relayedOut 1 .ring ((St.relaysOut 1 7 3 0).newCtx 1 .ring) = true ∧
    (St.relaysOut 1 7 3 0).heldBack 1 ((St.relaysOut 1 7 3 0).newCtx 1 .ring) = false ∧
    (St.relaysOut 1 7 3 0).ctxBad ((St.relaysOut 1 7 3 0).newCtx 1 .ring) ((St.relaysOut 1 7 3 0).onRelayPair 1 .ring) = none ∧
    (St.relaysOut 1 7 3 0).relayBad ((St.relaysOut 1 7 3 0).newCtx 1 .ring) = none ∧ (St.relaysOut 1 7 3 0).rankMembers.length = 2 ∧
    3 ≤ (St.relaysOut 1 7 3 0).red.tags.freeCount := by decide +kernel
theorem wit_CommandRelays_kinds : ((St.relaysOut 1 7 0xFFFFFFFE 0).newCtx 1 .ring).target = 0xFFFFFFFE ∧ ((St.relaysOut 1 5 3 0).newCtx 1 .ring).opc = 5 ∧
    (St.relaysOut 1 5 3 0).ctxBad ((St.relaysOut 1 5 3 0).newCtx 1 .ring) true = none ∧ ((St.relaysOut 1 1 3 0x1001000).newCtx 1 .ring).len = 0x1001000 ∧
    (St.relaysOut 1 1 3 0x1001000).ctxBad ((St.relaysOut 1 1 3 0x1001000).newCtx 1 .ring) true = none ∧
    (St.relaysOut 0 7 3 0).rd Fld.ctlElect.role = 0 ∧ St.relaysOff.rdB Fld.cmdCtrl.relayEn = false := by decide +kernel
/-- A relayed entry that is a FENCE, a WRITE SHARD of 8 bytes; an answer; data. -/
def St.relayed7 : Frame := St.ctlF Ty.commandRelay (St.targetEntry 7 0 0)
def St.relayed2 : Frame := St.ctlF Ty.commandRelay (St.targetEntry 2 0 8)
def St.answer0 : Frame := St.ctlF Ty.completionRelay (St.compl 0 0)
def St.data4 : Frame := St.relayF Ty.relayData 4 1 [5, 6, 7, 8]
theorem wit_CommandRelays_target : (St.stages .active none).Inv ∧ (St.stages .active none).hears 3 Ty.commandRelay St.relayed7 = true ∧
    (St.stages .active none).hears 3 Ty.commandRelay St.relayed2 = true ∧ (St.stages .active none).rdB Fld.cmdCtrl.relayEn = true ∧ St.relayed7.payload.length = 64 ∧
    fieldLE St.relayed7.payload 0 1 = 7 ∧ fieldLE St.relayed2.payload 0 1 = 2 ∧ fieldLE St.relayed2.payload 40 6 = 8 ∧
    ((St.stages .active none).queue 1).st = .active ∧ ((St.stages .disabled none).queue 1).st ≠ .active := ⟨State.inv_plain rfl (by decide +kernel), by decide +kernel⟩
theorem wit_CommandRelays_staged : ((St.stages .active (some (St.stagedOf [] 8 false 0))).cmd.staged.find? (Staged.isOf St.relayed2)).map (fun y => (y.got, y.long)) = some (8, false) ∧
    ((St.stages .active (some (St.stagedOf [] 12 false 0))).cmd.staged.find? (Staged.isOf St.relayed2)).map (fun y => y.got) = some 12 ∧
    ((St.stages .active (some (St.stagedOf (St.targetEntry 2 0 8) 4 false 0))).cmd.staged.find? (Staged.isOf St.data4)).map (fun y => (y.got + 4, fieldLE y.entry 40 6)) = some (8, 8) ∧
    ((St.stages .active (some (St.stagedOf (St.targetEntry 2 0 12) 4 false 0))).cmd.staged.find? (Staged.isOf St.data4)).map (fun y => (y.got + 4, fieldLE y.entry 40 6)) = some (8, 12) ∧
    ((St.stages .active (some (St.stagedOf (St.targetEntry 2 0 4) 4 false 0))).cmd.staged.find? (Staged.isOf St.data4)).map (fun y => (y.got + 4, fieldLE y.entry 40 6)) = some (8, 4) ∧
    (St.stages .active none).hears 3 Ty.relayData St.data4 = true ∧ St.data4.payload.length = 4 ∧ St.data4.count = 1 ∧
    0x1000000 ≤ (St.stages .active none).rd Fld.cmdDataWinSize.size * 4096 := by decide +kernel
theorem wit_CommandRelays_answer : (St.relaying 7 (St.aRelay false none none 0) []).Inv ∧ (St.relaying 7 (St.aRelay false none none 0) []).hears 3 Ty.completionRelay St.answer0 = true ∧
    St.answer0.payload.length = 16 ∧ St.answer0.count = 16 ∧ (St.relaying 7 (St.aRelay false none none 0) []).cmd.relays = [St.aRelay false none none 0] ∧
    ((St.relaying 7 (St.aRelay false none none 0) []).ctx? 0).map (fun c => (c.opc, c.finished)) = some (7, false) ∧
    ((St.relaying 1 (St.aRelay false none none 4) []).ctx? 0).map (fun c => c.opc) = some 1 ∧ (St.aRelay false none none 4).got < (St.aRelay false none none 4).len ∧
    ((St.relaying 7 (St.aRelay true none none 0) [{ St.aRelay true none none 0 with seq := 6, rank := 2 }]).cmd.relays.map (fun r => r.seq)).Nodup :=
  ⟨State.inv_plain rfl (by decide +kernel), by decide +kernel⟩
theorem wit_CommandRelays_answers : ((St.relaying 7 (St.aRelay true none none 0) [{ St.aRelay true none (some (St.compl 0x0102 4)) 0 with seq := 6, rank := 2 }]).cmd.relays.map (fun r => (r.seq, r.all, r.result.isSome))) =
      [(5, true, false), (6, true, true)] ∧
    (St.relaying 1 (St.aRelay false none none 0) []).hears 3 Ty.relayData St.data4 = true ∧ St.data4.offset.toNat + 4 = (St.aRelay false none none 0).len ∧
    ((St.relaying 1 (St.aRelay false (some (St.compl 0 0)) none 4) []).cmd.relays.map (fun r => (r.early.isSome, r.got + 4 == r.len))) = [(true, true)] ∧
    ((St.relaying 1 (St.aRelay false (some (St.compl 0 0)) none 6) []).cmd.relays.map (fun r => decide (r.len < r.got + 4))) = [true] := by decide +kernel
theorem wit_CommandRelays_timers : (St.relaying 1 (St.aRelay false (some (St.compl 0 0)) none 4) []).Inv ∧
    ((St.relaying 7 (St.aRelay false none none 0) []).cmd.relays.find? (fun r => r.seq == 5 && r.result.isNone)).map (fun r => (r.early, decide (r.tick + 100000000 ≤ (St.relaying 7 r []).now))) = some (none, true) ∧
    (St.relaying 7 { St.aRelay false none none 0 with tick := 200000000 } []).now < 200000000 + 100000000 ∧
    ((St.relaying 1 (St.aRelay false (some (St.compl 0 0)) none 4) []).cmd.relays.find? (fun r => r.seq == 5 && r.result.isNone && r.early.isSome && r.got < r.len &&
      r.arrival + 100000 ≤ (200000000 : Nat))).isSome = true ∧
    (St.relaying 1 (St.aRelay false (some (St.compl 0 0)) none 4) []).rd Fld.synRemoteCfg.wdUs = 1000 ∧ (St.relaying 1 (St.aRelay false (some (St.compl 0 0)) none 4) []).now = 200000000 ∧
    ((St.stages .active (some (St.stagedOf [] 4 false 0))).cmd.staged.find? (fun x => x.seq == 5 && x.arrival + 100000 ≤ (200000000 : Nat))).isSome = true ∧
    (St.stages .active (some (St.stagedOf [] 4 true 200000000))).cmd.staged.find? (fun x => x.seq == 5 && x.arrival + 100000 ≤ (200000000 : Nat)) = none := ⟨State.inv_plain rfl (by decide +kernel), by decide +kernel⟩
theorem wit_CommandRelays_complete : (St.answers 1 0 0 [1, 2, 3, 4]).Inv ∧
    ((St.answers 1 0 0 [1, 2, 3, 4]).ctx? 0).map (fun c => (c.finished, c.abandoned, c.entry.length, c.relay.isSome, bits c.signal 10 2)) = some (true, false, 64, true, 0) ∧
    (St.answers 1 0 0 [1, 2, 3, 4]).rdB (Fld.cmdQCfg.enable 1) = true ∧ ((St.answers 0x80 0 0x405 []).ctx? 0).map (fun c => (bits c.signal 10 2, bits c.signal 0 10)) = some (1, 5) ∧
    (St.answers 0x80 0 0x405 []).quiesced = false ∧ (St.answers 0x80 0 0x405 []).syn.waiters = [] := ⟨State.inv_plain rfl (by decide +kernel), by decide +kernel⟩

/-! ## Starts, elections, uncorrectable errors -/

/-- Before the boot ROM: the cause of a failed start that is still to be counted, whether that start entered its slot, the slots with a good image,
a thermal trip. -/
--~ St.rom St.rom 0 true {} false; St.rom 3 true { aValid := true } false; St.rom 2 true { aValid := true, bValid := true } false; St.rom 2 false { marked := true, aValid := true, bValid := true } false; St.rom 0 false { aValid := true, failCount := 3 } false; St.rom 1 false { aValid := true, failCount := 2 } true; St.rom 0 false { marked := true, aValid := true } true
def St.rom (fail : Nat) (entered : Bool) (r : StateRecord) (trip : Bool) : State :=
  { St.stored [(0x100000, St.imageHead 0 0), (0x200000, St.imageHead 1 1)] r with
    boot := { phase := .reset, kind := .engine, failPending := BitVec.ofNat 4 fail, entered := entered, slot := r.marked, trip := trip }
    slices := Vector.replicate 42 .closed }
/-- Under thermal hold: the junction was too hot. -/
--~ St.thermal St.thermal {} 399; St.thermal { bad := true } 399; St.thermal { repaired := true } 399; St.thermal {} 400
def St.thermal (check : RomCheck) (tj : Nat) : State :=
  let s := (St.rom 0 false { aValid := true } true).wr Fld.ctlSpeedStatus.tjQ tj
  { s with mon := { s.mon with last := some 0 }, boot := { s.boot with phase := .thermalHold, check := check } }
def St.entryAt (tier : BitVec 2) : MapEntry := { shard := 1, tier := tier, st := .committed, gen := 0, step := 9, firstExt := 0, extCount := 1, loc := 3 }
/-- The firmware of a slot has been entered; sets, map entries, a slice with a buffer error. -/
--~ St.enters St.enters true 0; St.enters false 0; St.enters true 200000000; St.enters true 1
def St.enters (slot : Bool) (now : Nat) : State :=
  let s := St.rom 0 true { marked := slot, aValid := true, bValid := true } false
  ({ s with
    boot := { s.boot with phase := .booting }, now := now, rst := { fenced := slot }
    sedge := (Vector.replicate 8 ({} : SedgeSet)).set 3 ({ st := .held } : SedgeSet)
    map := [(4, St.entryAt 1), (5, St.entryAt 0)] }).wr (Fld.lnkStatus.bufErr 4) 1
/-- QUIESCING, with nothing or something running. -/
--~ St.activates St.activates [] 0; St.activates [.command 1] 0; St.activates [.command 1] 3000000000
def St.activates (us : List LaneUser) (now : Nat) : State :=
  let s := { St.open' with now := now }.wr Fld.ctlReset.quiescing 1
  if us.isEmpty then s else { s with cmd := { s.cmd with ctxs := [(1, St.ctxOf [])] } }
def St.haltActivates : State :=
  let s := St.activates [] 0
  { s with rst := { s.rst with st := .halted } }
/-- Nobody has been heard of as the Warden. -/
--~ St.silent St.silent 0 0 false true; St.silent 299999 0 false true; St.silent 300000 0 false true; St.silent 300000 1 false true; St.silent 500000 0 true true; St.silent 300000 0 false false
def St.silent (now role : Nat) (had elig : Bool) : State :=
  (((({ St.open' with now := now, elect := { hadWarden := had } }.wr Fld.ctlElect.role role).wr Fld.tierHbCfg.hbIntervalMs 1).wr Fld.tierHbCfg.missLimit 5).wr
    Fld.ctlElect.electPrio 7).wrB Fld.ctlElect.eligible elig
/-- In an election, some milliseconds after it began. -/
--~ St.elects St.elects 0 { running := true, sentCand := 1 }; St.elects 1 { running := true, sentCand := 1 }; St.elects 2 { running := true, sentCand := 2 }; St.elects 3 { running := true, sentCand := 3 }; St.elects 4 { running := true, sentCand := 3, heard := [St.mine] }; St.elects 4 { running := true, sentCand := 3, heard := [St.mine, St.better] }; St.elects 5 { running := true, decided := true, claimant := true, sentClaim := 1 }; St.elects 6 { running := true, decided := true, claimant := true, sentClaim := 2 }; St.elects 6 { running := true, decided := true, claimant := true, sentClaim := 2, hadWarden := true }; St.elects 4 { running := true, decided := true, claimant := true, sentClaim := 1 }; St.elects 6 { running := true, decided := true, heard := [St.better] }; St.elects 6 { running := true, decided := true, heard := [St.mine] }
def St.mine : Candidacy := { outRange := true, prio := 7, pos := 9 }
def St.better : Candidacy := { outRange := false, prio := 7, pos := 10 }
def St.elects (ms : Nat) (e : Elect) : State :=
  (({ St.silent (ms * 100000) 0 false true with elect := e }.wr Fld.ctlElect.election 3).wr Fld.ctlElect.wardenPos 2).wr Fld.tierIdent.position 9
/-- A claim or candidacy of an election. -/
def St.vote (ty : BitVec 8) (num : Nat) (c : Candidacy) : Frame :=
  let f : Frame := { seq := BitVec.ofNat 32 num, count := 8, payload := leBytes 8 (c.prio.toNat + 2 ^ 16 * b2n (!c.outRange) + 2 ^ 17 * c.pos.toNat) }
  { f with crc := Frame.crcOf ty f }
/-- A user of a lane, of the same scan context, or a running scan. -/
--~ St.lanes St.lanes (.felt 4 0) (.felt 4 0) false; St.lanes .drain .drain false; St.lanes (.command 3) (.command 3) false; St.lanes .verify .verify false; St.lanes .boot .software true
def St.lanes (u : LaneUser) (v : CtxUser) (scan : Bool) : State :=
  let s : State := { St.open' with chk := { lanes := (Vector.replicate 32 none).set 5 (some u), ctxs := [(18, v)], scans := (Vector.replicate 4 false).set 1 scan } }
  { s with cmd := { s.cmd with ctxs := [(3, St.ctxOf [])] }, cut := { s.cut with cuts := [{ seq := 4, step := 9, half := some false, sumpRuns := true, drainStatus := none }] },
           peat := { s.peat with drain := some { seq := 4, peatGen := 3, step := .writes } } }

theorem wit_Starts_rom : (St.bare (St.rom 2 true { aValid := true, bValid := true } false)).Inv ∧ (St.bare (St.rom 2 true { aValid := true, bValid := true } false)).boot.phase = .reset ∧
    (St.bare (St.rom 2 true { aValid := true, bValid := true } false)).store.recA.seqNo.toNat + 4 < 2 ^ 64 ∧ (St.bare (St.rom 2 true { aValid := true, bValid := true } false)).store.recB.seqNo.toNat + 4 < 2 ^ 64 ∧
    (St.bare (St.rom 2 true { aValid := true, bValid := true } false)).store.record.failCount ≤ 3 ∧ (St.bare (St.rom 2 true { aValid := true, bValid := true } false)).boot.trip = false ∧
    (St.bare (St.rom 2 true { aValid := true, bValid := true } false)).boot.failPending = 2 ∧ (St.bare (St.rom 2 true { aValid := true, bValid := true } false)).store.record.bValid = true ∧
    (St.bare (St.rom 0 false { aValid := true, failCount := 3 } false)).store.record.failCount = 3 ∧ (St.bare (St.rom 1 false { aValid := true, failCount := 2 } true)).boot.trip = true :=
  ⟨State.inv_plain rfl (by decide +kernel), by decide +kernel⟩
theorem wit_Starts_hold : (St.bare (St.thermal {} 399)).Inv ∧ (St.bare (St.thermal {} 399)).boot.phase = .thermalHold ∧ (St.bare (St.thermal {} 399)).store.record.failCount ≤ 3 ∧
    (St.bare (St.thermal {} 399)).mon.last ≠ none ∧ (BitVec.ofNat 11 ((St.bare (St.thermal {} 399)).rd Fld.ctlSpeedStatus.tjQ)).toInt = 399 ∧
    (BitVec.ofNat 11 ((St.bare (St.thermal {} 400)).rd Fld.ctlSpeedStatus.tjQ)).toInt = 400 ∧ (St.bare (St.thermal { bad := true } 399)).boot.check.bad = true ∧
    (398 : BitVec 11) ≠ BitVec.ofNat 11 ((St.bare (St.thermal {} 399)).rd Fld.ctlSpeedStatus.tjQ) :=
  ⟨State.inv_plain rfl (by decide +kernel), by decide +kernel⟩
theorem wit_Starts_ok : (St.bare (St.enters true 0)).Inv ∧ (St.bare (St.enters true 0)).boot.phase = .booting ∧ (St.bare (St.enters true 0)).boot.entryTick + 200000000 ≤ (St.bare (St.enters true 200000000)).now ∧
    (St.bare (St.enters true 0)).now < (St.bare (St.enters true 0)).boot.entryTick + 200000000 ∧ ({ bad := true } : TableCheck).bad = true := ⟨State.inv_plain rfl (by decide +kernel), by decide +kernel⟩
theorem wit_Starts_activate : (St.activates [] 0).Inv ∧ St.run.awake = true ∧ St.run.rd Fld.ctlReset.quiescing = 0 ∧ (St.activates [] 0).awake = true ∧
    (St.activates [] 0).rd Fld.ctlReset.quiescing = 1 ∧ (St.activates [] 0).halted = false ∧ (St.activates [] 0).quiescent = true ∧ (St.activates [.command 1] 0).quiescent = false ∧
    (St.activates [.command 1] 3000000000).boot.quiesceTick + 3000000000 ≤ (St.activates [.command 1] 3000000000).now ∧ St.haltActivates.halted = true :=
  ⟨State.inv_plain rfl (by decide +kernel), by decide +kernel⟩
theorem wit_Elections_start : (St.silent 300000 0 false true).Inv ∧ (St.silent 300000 0 false true).boot.phase = .running ∧
    (St.silent 300000 0 false true).elect.wardenHb + 3 * ((St.silent 300000 0 false true).rd Fld.tierHbCfg.hbIntervalMs * 100000) ≤ (St.silent 300000 0 false true).now ∧
    (St.silent 300000 0 false true).rd Fld.ctlElect.role = 0 ∧ (St.silent 300000 0 false true).elect.running = false ∧ (St.silent 300000 1 false true).rd Fld.ctlElect.role ≠ 0 ∧
    (St.silent 500000 0 true true).rd Fld.tierHbCfg.missLimit = 5 ∧ (St.silent 299999 0 false true).now < 300000 := ⟨State.inv_plain rfl (by decide +kernel), by decide +kernel⟩
theorem wit_Elections_timer : (St.elects 1 { running := true, sentCand := 1 }).Inv ∧ (St.elects 1 { running := true, sentCand := 1 }).elect.start + 1 * 100000 ≤ (St.elects 1 {}).now ∧
    (St.elects 4 { running := true, sentCand := 3, heard := [St.mine] }).now = 400000 ∧ (St.elects 4 { running := true, sentCand := 3, heard := [St.mine] }).eligible = true ∧
    (St.elects 4 { running := true, sentCand := 3, heard := [St.mine] }).myCandidacy = St.mine ∧ St.better.key < St.mine.key ∧
    (St.elects 5 { running := true, decided := true, claimant := true, sentClaim := 1 }).now = 500000 ∧
    (St.elects 6 { running := true, decided := true, claimant := true, sentClaim := 2, hadWarden := true }).rd Fld.ctlElect.wardenPos ≠ 9 :=
  ⟨State.inv_plain rfl (by decide +kernel), by decide +kernel⟩
theorem wit_Elections_frames : (St.elects 4 { running := true, heard := [St.mine] }).hears 3 0x91 (St.vote 0x91 3 St.better) = true ∧
    (St.elects 4 { running := true, heard := [St.mine] }).hears 3 0x92 (St.vote 0x92 3 St.better) = true ∧ (St.vote 0x92 3 St.better).payload.length = 8 ∧
    (St.elects 4 { running := true, heard := [St.mine] }).rd Fld.ctlElect.election = 3 ∧ (St.vote 0x91 9 St.better).seq.toNat % 65536 = 9 ∧ (St.vote 0x91 2 St.better).seq.toNat % 65536 = 2 ∧
    (electPayload (St.vote 0x92 3 St.better)).pos.toNat ≠ (St.elects 4 {}).rd Fld.tierIdent.position ∧ (electPayload (St.vote 0x92 3 St.better)).key ≤ St.mine.key := by decide +kernel
theorem wit_ErrorContainment_slice : St.open'.Inv ∧ St.open'.awake = true ∧ St.open'.present 3 = true ∧ St.open'.slice 3 ≠ .closed ∧ St.open'.served = true ∧ St.open'.log = [] :=
  ⟨State.inv_plain rfl (by decide +kernel), by decide +kernel⟩
theorem wit_ErrorContainment_lanes : (St.lanes (.felt 4 0) (.felt 4 0) false).Inv ∧ (St.lanes (.felt 4 0) (.felt 4 0) false).awake = true ∧
    vget (St.lanes (.felt 4 0) (.felt 4 0) false).chk.lanes 5 none = some (.felt 4 0) ∧ kget (St.lanes (.felt 4 0) (.felt 4 0) false).chk.ctxs (16 * 1 + 2) = some (.felt 4 0) ∧
    ((St.lanes (.felt 4 0) (.felt 4 0) false).findCut 4).map (fun c => (c.st, c.sumpRuns)) = some (.opened, true) ∧
    (St.lanes .drain .drain false).peat.drain.map (fun d => d.seq) = some 4 ∧ ((St.lanes (.command 3) (.command 3) false).ctx? 3).map (fun c => (c.finished, c.abandoned)) = some (false, false) ∧
    vget (St.lanes .boot .software true).chk.scans 1 false = true := ⟨State.inv_plain rfl (by decide +kernel), by decide +kernel⟩
theorem wit_ErrorContainment_units : (St.bare (St.enters true 0)).awake = true ∧ (St.bare (St.enters true 0)).boot.phase = .booting ∧ ((St.bare (St.enters true 0)).set 3).st ≠ .free ∧ ((St.bare (St.enters true 0)).set 4).st = .free ∧
    (St.bare (St.pages 1 0x11000 0 8)).log ≠ [] ∧ (((St.running false).chan 2).running.find? (fun b => !b.dead && !b.completed)).isSome = true ∧ (St.running false).awake = true ∧
    ((St.tasking .run false false 3).fq 1).task.isSome = true ∧ (St.tasking .run false false 3).awake = true := by decide +kernel
theorem wit_ErrorContainment_tasks : (St.lanes (.felt 4 0) (.felt 4 0) false).toLatch.isSome = true ∧ (St.lanes (.felt 4 0) (.felt 4 0) false).halted = false ∧
    (St.verifying true false .spare).rst.st = .verify ∧ (St.verifying true false .spare).awake = true ∧ (St.busy .running).rst.sentData.any (fun x => x.1 == (9 : BitVec 20).toNat) = true ∧
    St.fetching.bucket 2 (St.bucket false).seq = none ∧ (St.fetching.liveBucket 2 (St.bucket false).seq).isSome = true ∧ St.fetching.awake = true := by decide +kernel

set_option Elab.async true
end

section
/-! Every command against the list of components that it may change. -/
namespace Sys2Proof.Machine

/-- Every command answers a next state; it keeps the invariant, and changes only components of its list (R3, R9). -/
theorem exec_keep (c : Instr) (s : State) : ∃ m, OutKeep (touches c, m) s (exec c s) :=
  match c with
  | .registerWrite .. => ⟨_, execRegisterWrite_keep ..⟩
  | .rcRegisterRead .. => ⟨_, execRcRegisterRead_keep ..⟩
  | .powerGoodRise => ⟨_, execPowerGoodRise_keep ..⟩
  | .powerGoodFall => ⟨_, execPowerGoodFall_keep ..⟩
  | .coldReset => ⟨_, execColdReset_keep ..⟩
  | .warmReset => ⟨_, execWarmReset_keep ..⟩
  | .ctlResetEngine => ⟨_, execCtlResetEngine_keep ..⟩
  | .memoryReadUncorrectable .. => ⟨_, execMemoryReadUncorrectable_keep ..⟩
  | .pfailNAssert .. => ⟨_, execPfailNAssert_keep ..⟩
  | .pfailNDeassert .. => ⟨_, execPfailNDeassert_keep ..⟩
  | .pfailHoldExpiry => ⟨_, execPfailHoldExpiry_keep ..⟩
  | .holdupOkChange .. => ⟨_, execHoldupOkChange_keep ..⟩
  | .sliceBufferError .. => ⟨_, execSliceBufferError_keep ..⟩
  | .lnkCtrlClose .. => ⟨_, execLnkCtrlClose_keep ..⟩
  | .causewayClosed .. => ⟨_, execCausewayClosed_keep ..⟩
  | .lnkCtrlOpen .. => ⟨_, execLnkCtrlOpen_keep ..⟩
  | .causewayOpen .. => ⟨_, execCausewayOpen_keep ..⟩
  | .bx3FramePass .. => ⟨_, execBx3FramePass_keep ..⟩
  | .speedSample .. => ⟨_, execSpeedSample_keep ..⟩
  | .thermalHoldRelease .. => ⟨_, execThermalHoldRelease_keep ..⟩
  | .bucketIssue .. => ⟨_, execBucketIssue_keep ..⟩
  | .bucketStart .. => ⟨_, execBucketStart_keep ..⟩
  | .reducePartialFrame .. => ⟨_, execReducePartialFrame_keep ..⟩
  | .resultCopyFrame .. => ⟨_, execResultCopyFrame_keep ..⟩
  | .allGatherDataFrame .. => ⟨_, execAllGatherDataFrame_keep ..⟩
  | .fetchRequestFrame .. => ⟨_, execFetchRequestFrame_keep ..⟩
  | .fetchDataFrame .. => ⟨_, execFetchDataFrame_keep ..⟩
  | .bucketAbortNotice .. => ⟨_, execBucketAbortNotice_keep ..⟩
  | .dropNotice .. => ⟨_, execDropNotice_keep ..⟩
  | .mcastAck .. => ⟨_, execMcastAck_keep ..⟩
  | .mcastStallExpiry .. => ⟨_, execMcastStallExpiry_keep ..⟩
  | .bucketComplete .. => ⟨_, execBucketComplete_keep ..⟩
  | .reductionStreamWatchdog .. => ⟨_, execReductionStreamWatchdog_keep ..⟩
  | .contribWatchdogExpiry .. => ⟨_, execContribWatchdogExpiry_keep ..⟩
  | .linkLastAck .. => ⟨_, execLinkLastAck_keep ..⟩
  | .tagQuarantineExpiry .. => ⟨_, execTagQuarantineExpiry_keep ..⟩
  | .voteArrival => ⟨_, execVoteArrival_keep ..⟩
  | .redChEnable .. => ⟨_, execRedChEnable_keep ..⟩
  | .redChDisable .. => ⟨_, execRedChDisable_keep ..⟩
  | .fullingTaskIssue .. => ⟨_, execFullingTaskIssue_keep ..⟩
  | .fullingWaitSatisfied .. => ⟨_, execFullingWaitSatisfied_keep ..⟩
  | .gateTaskProceed .. => ⟨_, execGateTaskProceed_keep ..⟩
  | .laneTakesBlock .. => ⟨_, execLaneTakesBlock_keep ..⟩
  | .directPieceBind .. => ⟨_, execDirectPieceBind_keep ..⟩
  | .fullingStreamWatchdog .. => ⟨_, execFullingStreamWatchdog_keep ..⟩
  | .fullingTaskComplete .. => ⟨_, execFullingTaskComplete_keep ..⟩
  | .progBegin .. => ⟨_, execProgBegin_keep ..⟩
  | .progDataWord .. => ⟨_, execProgDataWord_keep ..⟩
  | .progCommit .. => ⟨_, execProgCommit_keep ..⟩
  | .progUnload .. => ⟨_, execProgUnload_keep ..⟩
  | .cutOpen => ⟨_, execCutOpen_keep ..⟩
  | .cutNotice .. => ⟨_, execCutNotice_keep ..⟩
  | .cutReply .. => ⟨_, execCutReply_keep ..⟩
  | .scheduleRecordLatch => ⟨_, execScheduleRecordLatch_keep ..⟩
  | .sumpCopyDone => ⟨_, execSumpCopyDone_keep ..⟩
  | .cutSeal => ⟨_, execCutSeal_keep ..⟩
  | .feltingSchedule => ⟨_, execFeltingSchedule_keep ..⟩
  | .feltRegionComplete .. => ⟨_, execFeltRegionComplete_keep ..⟩
  | .feltingDone => ⟨_, execFeltingDone_keep ..⟩
  | .feltData .. => ⟨_, execFeltData_keep ..⟩
  | .feltAck .. => ⟨_, execFeltAck_keep ..⟩
  | .feltAckTimeout .. => ⟨_, execFeltAckTimeout_keep ..⟩
  | .setRelease .. => ⟨_, execSetRelease_keep ..⟩
  | .keepReport .. => ⟨_, execKeepReport_keep ..⟩
  | .keepWatchdogExpiry => ⟨_, execKeepWatchdogExpiry_keep ..⟩
  | .digestFrame .. => ⟨_, execDigestFrame_keep ..⟩
  | .xchgWatchdogExpiry .. => ⟨_, execXchgWatchdogExpiry_keep ..⟩
  | .commitRecordAck => ⟨_, execCommitRecordAck_keep ..⟩
  | .cutEnable .. => ⟨_, execCutEnable_keep ..⟩
  | .cutDisable .. => ⟨_, execCutDisable_keep ..⟩
  | .peatEnable .. => ⟨_, execPeatEnable_keep ..⟩
  | .peatDisable .. => ⟨_, execPeatDisable_keep ..⟩
  | .peatFormat .. => ⟨_, execPeatFormat_keep ..⟩
  | .drainReservationDone => ⟨_, execDrainReservationDone_keep ..⟩
  | .drainWritesDone => ⟨_, execDrainWritesDone_keep ..⟩
  | .drainFlushDone => ⟨_, execDrainFlushDone_keep ..⟩
  | .drainCatalogueDone => ⟨_, execDrainCatalogueDone_keep ..⟩
  | .nvmeCommandError .. => ⟨_, execNvmeCommandError_keep ..⟩
  | .nvmeTimeout .. => ⟨_, execNvmeTimeout_keep ..⟩
  | .peatLinkDown => ⟨_, execPeatLinkDown_keep ..⟩
  | .smartLogPoll .. => ⟨_, execSmartLogPoll_keep ..⟩
  | .peatDriveReady => ⟨_, execPeatDriveReady_keep ..⟩
  | .peatReadyTimeout => ⟨_, execPeatReadyTimeout_keep ..⟩
  | .pinExported .. => ⟨_, execPinExported_keep ..⟩
  | .keyBegin .. => ⟨_, execKeyBegin_keep ..⟩
  | .keyDataWord .. => ⟨_, execKeyDataWord_keep ..⟩
  | .keyCommit .. => ⟨_, execKeyCommit_keep ..⟩
  | .keyClear .. => ⟨_, execKeyClear_keep ..⟩
  | .heartbeatSend => ⟨_, execHeartbeatSend_keep ..⟩
  | .heartbeatFrame .. => ⟨_, execHeartbeatFrame_keep ..⟩
  | .heartbeatMiss .. => ⟨_, execHeartbeatMiss_keep ..⟩
  | .linkLoss .. => ⟨_, execLinkLoss_keep ..⟩
  | .engineNotice .. => ⟨_, execEngineNotice_keep ..⟩
  | .halt .. => ⟨_, execHalt_keep ..⟩
  | .supplyQuery .. => ⟨_, execSupplyQuery_keep ..⟩
  | .candidate .. => ⟨_, execCandidate_keep ..⟩
  | .takeover .. => ⟨_, execTakeover_keep ..⟩
  | .fenceFrame .. => ⟨_, execFenceFrame_keep ..⟩
  | .rollbackComplete => ⟨_, execRollbackComplete_keep ..⟩
  | .refillRequest .. => ⟨_, execRefillRequest_keep ..⟩
  | .refillData .. => ⟨_, execRefillData_keep ..⟩
  | .refillAck .. => ⟨_, execRefillAck_keep ..⟩
  | .refillComplete => ⟨_, execRefillComplete_keep ..⟩
  | .refillWatchdogExpiry .. => ⟨_, execRefillWatchdogExpiry_keep ..⟩
  | .verifyComplete => ⟨_, execVerifyComplete_keep ..⟩
  | .flagSet .. => ⟨_, execFlagSet_keep ..⟩
  | .flagClear .. => ⟨_, execFlagClear_keep ..⟩
  | .produce .. => ⟨_, execProduce_keep ..⟩
  | .consume .. => ⟨_, execConsume_keep ..⟩
  | .pairInit .. => ⟨_, execPairInit_keep ..⟩
  | .synFence .. => ⟨_, execSynFence_keep ..⟩
  | .synFenceComplete => ⟨_, execSynFenceComplete_keep ..⟩
  | .waitArm .. => ⟨_, execWaitArm_keep ..⟩
  | .waitTimeout .. => ⟨_, execWaitTimeout_keep ..⟩
  | .remoteWrite .. => ⟨_, execRemoteWrite_keep ..⟩
  | .remoteSignal .. => ⟨_, execRemoteSignal_keep ..⟩
  | .remoteTransferWatchdog .. => ⟨_, execRemoteTransferWatchdog_keep ..⟩
  | .ctxSave .. => ⟨_, execCtxSave_keep ..⟩
  | .ctxLoad .. => ⟨_, execCtxLoad_keep ..⟩
  | .quiesceClear .. => ⟨_, execQuiesceClear_keep ..⟩
  | .barrierArrive .. => ⟨_, execBarrierArrive_keep ..⟩
  | .barrierArrivalFrame .. => ⟨_, execBarrierArrivalFrame_keep ..⟩
  | .treeArrivalUp .. => ⟨_, execTreeArrivalUp_keep ..⟩
  | .treeCompletion .. => ⟨_, execTreeCompletion_keep ..⟩
  | .barrierAbortFrame .. => ⟨_, execBarrierAbortFrame_keep ..⟩
  | .barrierTimeout .. => ⟨_, execBarrierTimeout_keep ..⟩
  | .barrierEnable .. => ⟨_, execBarrierEnable_keep ..⟩
  | .barrierDisable .. => ⟨_, execBarrierDisable_keep ..⟩
  | .timeTick .. => ⟨_, execTimeTick_keep ..⟩
  | .timeLoad .. => ⟨_, execTimeLoad_keep ..⟩
  | .timeAdd .. => ⟨_, execTimeAdd_keep ..⟩
  | .timeInvalidate .. => ⟨_, execTimeInvalidate_keep ..⟩
  | .timeSwitch .. => ⟨_, execTimeSwitch_keep ..⟩
  | .timSecRead .. => ⟨_, execTimSecRead_keep ..⟩
  | .timeProbeSend .. => ⟨_, execTimeProbeSend_keep ..⟩
  | .timeProbe .. => ⟨_, execTimeProbe_keep ..⟩
  | .followUpSend .. => ⟨_, execFollowUpSend_keep ..⟩
  | .probeResponse .. => ⟨_, execProbeResponse_keep ..⟩
  | .followUp .. => ⟨_, execFollowUp_keep ..⟩
  | .sqTailWrite .. => ⟨_, execSqTailWrite_keep ..⟩
  | .cqHeadWrite .. => ⟨_, execCqHeadWrite_keep ..⟩
  | .pushSubmit .. => ⟨_, execPushSubmit_keep ..⟩
  | .queueEnable .. => ⟨_, execQueueEnable_keep ..⟩
  | .queueDisable .. => ⟨_, execQueueDisable_keep ..⟩
  | .queueReset .. => ⟨_, execQueueReset_keep ..⟩
  | .queueResetComplete .. => ⟨_, execQueueResetComplete_keep ..⟩
  | .commandStart => ⟨_, execCommandStart_keep ..⟩
  | .commandComplete .. => ⟨_, execCommandComplete_keep ..⟩
  | .notifyTimerExpiry .. => ⟨_, execNotifyTimerExpiry_keep ..⟩
  | .readShard .. => ⟨_, execReadShard_keep ..⟩
  | .writeShard .. => ⟨_, execWriteShard_keep ..⟩
  | .flush .. => ⟨_, execFlush_keep ..⟩
  | .verify .. => ⟨_, execVerify_keep ..⟩
  | .digest .. => ⟨_, execDigest_keep ..⟩
  | .scrub .. => ⟨_, execScrub_keep ..⟩
  | .fence .. => ⟨_, execFence_keep ..⟩
  | .cutQuery .. => ⟨_, execCutQuery_keep ..⟩
  | .cutPeatNext .. => ⟨_, execCutPeatNext_keep ..⟩
  | .restore .. => ⟨_, execRestore_keep ..⟩
  | .restoreElastic .. => ⟨_, execRestoreElastic_keep ..⟩
  | .identify .. => ⟨_, execIdentify_keep ..⟩
  | .getLogPage .. => ⟨_, execGetLogPage_keep ..⟩
  | .getFeatures .. => ⟨_, execGetFeatures_keep ..⟩
  | .setFeatures .. => ⟨_, execSetFeatures_keep ..⟩
  | .firmwareDownload .. => ⟨_, execFirmwareDownload_keep ..⟩
  | .firmwareCommit .. => ⟨_, execFirmwareCommit_keep ..⟩
  | .firmwareCommitAndMark .. => ⟨_, execFirmwareCommitAndMark_keep ..⟩
  | .firmwareMark .. => ⟨_, execFirmwareMark_keep ..⟩
  | .commandRelay .. => ⟨_, execCommandRelay_keep ..⟩
  | .completionRelay .. => ⟨_, execCompletionRelay_keep ..⟩
  | .relayData .. => ⟨_, execRelayData_keep ..⟩
  | .relayTimeout .. => ⟨_, execRelayTimeout_keep ..⟩
  | .relayDataWatchdog .. => ⟨_, execRelayDataWatchdog_keep ..⟩
  | .scanStart .. => ⟨_, execScanStart_keep ..⟩
  | .scanComplete .. => ⟨_, execScanComplete_keep ..⟩
  | .laneGrant => ⟨_, execLaneGrant_keep ..⟩
  | .digestComplete .. => ⟨_, execDigestComplete_keep ..⟩
  | .bootRomStart .. => ⟨_, execBootRomStart_keep ..⟩
  | .startOk .. => ⟨_, execStartOk_keep ..⟩
  | .startWatchdogExpiry => ⟨_, execStartWatchdogExpiry_keep ..⟩
  | .coreWatchdogExpiry .. => ⟨_, execCoreWatchdogExpiry_keep ..⟩
  | .sramUncorrectable .. => ⟨_, execSramUncorrectable_keep ..⟩
  | .sramScrubPass .. => ⟨_, execSramScrubPass_keep ..⟩
  | .electionStart => ⟨_, execElectionStart_keep ..⟩
  | .electionTimer => ⟨_, execElectionTimer_keep ..⟩
  | .candidacy .. => ⟨_, execCandidacy_keep ..⟩
  | .claim .. => ⟨_, execClaim_keep ..⟩
  | .activate => ⟨_, execActivate_keep ..⟩
  | .activationReset => ⟨_, execActivationReset_keep ..⟩
  | .tapTestEntry => ⟨_, execTapTestEntry_keep ..⟩
  | .tapTestExit => ⟨_, execTapTestExit_keep ..⟩
  | .powerFailDeadline .. => ⟨_, execPowerFailDeadline_keep ..⟩

theorem touches_not_part (c : Instr) : (touches c).contains .part = false := by
  cases c <;> rfl

theorem touches_not_pending (c : Instr) : (touches c).contains .pending = false := by
  cases c <;> rfl

theorem touches_now (c : Instr) : (touches c).contains .now = (c matches .timeTick _) := by
  cases c <;> rfl

/-- Settles O5: every meaning's `Keep` lemma names exactly the components of its command's list. -/
theorem commandFrames : Obligations.CommandFrames := by
  refine ⟨fun c s => ?_, fun c => ⟨?_, ?_, fun h => ?_⟩⟩
  · obtain ⟨_, t, he, hk⟩ := exec_keep c s
    exact ⟨t, he, hk.only⟩
  · simpa using touches_not_part c
  · simpa using touches_not_pending c
  · have hnow := touches_now c
    rw [List.contains_iff_mem.2 h] at hnow
    cases c with
    | timeTick n => exact ⟨n, rfl⟩
    | _ => cases hnow

end Sys2Proof.Machine
end

section
/-! The state after a cold reset (R8, R48). -/
namespace Sys2Proof.Machine

/-- An entry of a vector that holds one value everywhere, with that value beyond its end. -/
@[simp] theorem vget_replicate {α : Type} (n i : Nat) (x : α) : vget (Vector.replicate n x) i x = x := by
  rw [vget, Vector.getElem?_replicate]
  split <;> rfl

/-- Settles O2: nothing is listed, and every vector holds its initial value at each place. -/
theorem resetState : Obligations.ResetState := by
  refine ⟨fun _ => rfl, rfl, rfl, rfl, rfl, fun n => vget_replicate 42 n _, fun n => vget_replicate 512 n _, fun n => ?_,
    fun n => ?_, fun q => ?_, fun k => ?_, rfl, rfl, fun q => ?_, fun c => ?_⟩
  · exact BitVec.getLsbD_zero
  · exact congrArg SedgeSet.st (vget_replicate 8 n {})
  · exact congrArg Queue.st (vget_replicate 8 q {})
  · exact congrArg KeySlot.loaded (vget_replicate 16 k {})
  · exact congrArg FulQueue.task (vget_replicate 4 q {})
  · have h : State.reset.chan c = {} := vget_replicate 32 c _
    rw [h]
    exact ⟨rfl, rfl⟩

end Sys2Proof.Machine
end

section
/-! Register accesses: what is recorded of one that is not performed, and which accesses those are (R9, R10, R325). -/
namespace Sys2Proof.Machine

variable {s t : State}

/-- A settled command completes with the state that is settled. -/
theorem DoesThen.of_settled {c : Instr} {P : State → Prop} (h : exec c s = settled (.next t)) (hP : P t) : DoesThen c s P :=
  ⟨t, h, fun hq => h.trans (settled_of_quiet hq), hP⟩

/-- Components change, and no register. -/
theorem Changes.of_only {ps : List Component} (h : Only ps s t) (hr : t.regs = s.regs) : Changes ps [] s t := ⟨h, .of_regs hr⟩

/-! ## The record of an access error -/

theorem logIt_log (s : State) (kind : Nat) (st : Status) (unit : Nat) (detail : List Byte) :
    ∃ r : LogRec, (s.logIt kind st unit detail).log = (r :: s.log).take 1024 ∧
      r.kind = BitVec.ofNat 8 kind ∧ r.unit = BitVec.ofNat 8 unit ∧ r.detail = fitTo 12 detail :=
  ⟨_, rfl, rfl, rfl, rfl⟩

theorem accessError_log (s : State) (off width : Nat) (wr : Bool) :
    ∃ r : LogRec, (s.accessError off width wr).log = (r :: s.log).take 1024 ∧ r.kind = 1 ∧ r.unit = BitVec.ofNat 8 (unitOf off) ∧
      r.detail = leBytes 4 off ++ leBytes 1 width ++ leBytes 1 (b2n wr) ++ zeros 6 := by
  obtain ⟨r, hlog, hk, hu, hd⟩ := logIt_log s Kind.access 0 (unitOf off) (leBytes 4 off ++ leBytes 1 width ++ leBytes 1 (b2n wr))
  refine ⟨r, hlog, hk, hu, hd.trans ?_⟩
  simp [fitTo, leBytes, zeros]

theorem accessError_log_length (s : State) (off width : Nat) (wr : Bool) :
    (s.accessError off width wr).log.length = min 1024 (s.log.length + 1) := by
  obtain ⟨r, hlog, -⟩ := accessError_log s off width wr
  rw [hlog, List.length_take, List.length_cons]

/-- An access error is recorded with ACCESS_ERR, and changes nothing else (R10). -/
theorem accessError_refused (h : s.Inv) (off width : Nat) (wr : Bool) : AccessRefused s (s.accessError off width wr) := by
  refine ⟨?_, Changes.of_keep (State.accessError_keep s off width wr) h (by decide +kernel)⟩
  exact rd_wr_same _ 1 (rising_of_regsWf ((State.logIt_keep s _ _ _ _).inv h).regs) (by decide)

/-- What an access error leaves: ACCESS_ERR, and the record in front of the log. -/
theorem accessError_recorded (h : s.Inv) (off : Nat) (w : AccWidth) (wr : Bool) :
    let t := s.accessError off (AccWidth.bytes w) wr
    t.log.head?.map (fun r => (r.kind, r.unit, r.detail)) =
      some (1, BitVec.ofNat 8 (unitOf off), leBytes 4 off ++ leBytes 1 (AccWidth.bytes w) ++ leBytes 1 (b2n wr) ++ zeros 6) ∧
    t.log.tail = s.log.take 1023 ∧ t.rd Fld.ctlErrStatus.accessErr = 1 := by
  obtain ⟨r, hlog, hk, hu, hd⟩ := accessError_log s off (AccWidth.bytes w) wr
  exact ⟨by simp only [hlog, List.take_succ_cons, List.head?_cons, Option.map_some, hk, hu, hd],
    by simp only [hlog, List.take_succ_cons, List.tail_cons], (accessError_refused h _ _ _).1⟩

/-! ## Accesses that fit no register -/

/-- An access fits no register: there is none at its offset, or it has another width. -/
def Misfit (off bytes : Nat) : Prop := ∀ row, regRow? off = some row → row.bytes ≠ bytes

theorem writeReg_misfit {off bytes : Nat} (w : Nat) (ha : s.absentSlice off = false) (hm : Misfit off bytes) :
    s.writeReg off bytes w = s.accessError off bytes true := by
  unfold State.writeReg
  cases hr : regRow? off with
  | none => simp [ha]
  | some row => simp [ha, hm row hr]

theorem readReg_misfit {off bytes : Nat} (ha : s.absentSlice off = false) (hm : Misfit off bytes) :
    s.readReg off bytes = (0, s.accessError off bytes false) := by
  unfold State.readReg
  cases hr : regRow? off with
  | none => simp [ha]
  | some row => simp [ha, hm row hr]

/-! ## The commands -/

theorem exec_registerWrite (off : BitVec 20) (w : AccWidth) (v : W64) (hp : s.powered = true) :
    exec (.registerWrite off w v) s = settled (.next (s.writeReg off.toNat (AccWidth.bytes w) v.toNat)) := by
  show settled (doRegisterWrite off w v s) = _
  rw [doRegisterWrite, hp, Bool.not_true, if_neg Bool.false_ne_true]

theorem exec_rcRegisterRead {off : BitVec 20} {w : AccWidth} {v : W64} (hp : s.powered = true)
    (hr : s.readReg off.toNat (AccWidth.bytes w) = (v, t)) : exec (.rcRegisterRead off w) s = .next { t with busRead := v } := by
  show execRcRegisterRead off w s = _
  rw [execRcRegisterRead, hp, Bool.not_true, if_neg Bool.false_ne_true, hr]

/-- Settles O11: a write or read that fits no register comes to `State.accessError`. -/
theorem wrongAccesses : Obligations.WrongAccesses := by
  intro s off w hi hp ha hm
  have hrec := accessError_recorded hi off.toNat w
  have hch (wr : Bool) := (accessError_refused hi off.toNat (AccWidth.bytes w) wr).2
  refine ⟨fun v => .of_settled (exec_registerWrite off w v hp) ?_, _, exec_rcRegisterRead hp (readReg_misfit ha hm), ?_⟩
  · rw [writeReg_misfit v.toNat ha hm]
    exact ⟨hrec true, hch true⟩
  · have hrec := hrec false
    have hch := hch false
    generalize s.accessError off.toNat (AccWidth.bytes w) false = u at hrec hch ⊢
    have hbus := Changes.of_only (keep_busRead u 0).only rfl
    exact ⟨rfl, hrec, .step hbus (by decide) (by simp) (.step hch (by decide) (fun _ => id) (.refl _ _ s))⟩

end Sys2Proof.Machine
end

section
/-! What a write leaves in the fields of a register, field by field (R7, R10). -/
namespace Sys2Proof.Machine

variable {s t : State}

/-! ## Fields of a word -/

theorem putBits_bits_self (w lo len : Nat) : putBits w lo len (bits w lo len) = w := by
  apply Nat.eq_of_testBit_eq
  intro i
  rw [testBit_putBits, testBit_bits]
  split
  · next h => simp [show i - lo < len by omega, show lo + (i - lo) = i by omega]
  · rfl

/-- A field within the 64 stored bits reads the same of a word and of its stored bits. -/
theorem bits_toNat_ofNat {lo len : Nat} (w : Nat) (h : lo + len ≤ 64) : bits (BitVec.ofNat 64 w).toNat lo len = bits w lo len := by
  apply Nat.eq_of_testBit_eq
  intro i
  rw [testBit_bits, testBit_bits, BitVec.toNat_ofNat, Nat.testBit_mod_two_pow]
  by_cases hi : i < len
  · simp [show lo + i < 64 by omega]
  · simp [hi]

/-- Two fields of one register have no bit in common. -/
abbrev FieldRow.Apart (f g : FieldRow) : Prop := f.lo + f.len ≤ g.lo ∨ g.lo + g.len ≤ f.lo

/-- The fields of every register of the manual are apart, and within 64 bits. -/
theorem regRows_fields : ∀ row ∈ regRows, row.fields.Pairwise FieldRow.Apart ∧ ∀ f ∈ row.fields, f.lo + f.len ≤ 64 := by
  decide +kernel

theorem fieldAfter_lt {ty : FType} {len old v : Nat} (ho : old < 2 ^ len) (hv : v < 2 ^ len) : fieldAfter ty old v < 2 ^ len := by
  cases ty with
  | rw => exact hv
  | w1c => exact Nat.lt_of_le_of_lt (Nat.sub_le _ _) ho
  | w1s => exact Nat.or_lt_two_pow ho hv
  | ro | wo | rc => exact ho

/-! ## One field -/

/-- What a write of `w` leaves in a field that held `old`: an RW field keeps it where the encoding is reserved or the field may not change. -/
def State.fieldWritten (s : State) (off w : Nat) (f : FieldRow) (old : Nat) : Nat :=
  if f.ty = .rw ∧ (s.fieldOk off f.lo f.len w = false ∨ s.fieldFrozen off f.lo = true) then old
  else fieldAfter f.ty old (bits w f.lo f.len)

/-- A write of `w` meets a reserved encoding in a field that held `old`, or would change one that may not change. -/
def State.fieldBad (s : State) (off w : Nat) (f : FieldRow) (old : Nat) : Bool :=
  match f.ty with
  | .rw => if s.fieldFrozen off f.lo then bits w f.lo f.len != old else !s.fieldOk off f.lo f.len w
  | .wo => !s.fieldOk off f.lo f.len w
  | .w1c | .w1s | .ro | .rc => false

theorem fieldWritten_lt {off w old : Nat} {f : FieldRow} (h : old < 2 ^ f.len) : s.fieldWritten off w f old < 2 ^ f.len := by
  unfold State.fieldWritten
  split
  · exact h
  · exact fieldAfter_lt h (bits_lt w f.lo f.len)

theorem fieldBad_of_good {off w old : Nat} {f : FieldRow}
    (h : f.ty = .rw ∨ f.ty = .wo → s.fieldOk off f.lo f.len w = true ∧ s.fieldFrozen off f.lo = false) : s.fieldBad off w f old = false := by
  unfold State.fieldBad
  split <;> simp_all

theorem fieldBad_of_reserved {off w old : Nat} {f : FieldRow} (hty : f.ty = .rw) (hok : s.fieldOk off f.lo f.len w = false)
    (hfz : s.fieldFrozen off f.lo = false) : s.fieldBad off w f old = true := by
  simp [State.fieldBad, hty, hok, hfz]

/-! ## The fields of a register -/

/-- A write goes through the fields in turn, whatever their types. -/
theorem writeBits_cons (s : State) (off w : Nat) (f : FieldRow) (fs : List FieldRow) (cur : Nat) (bad : Bool) :
    s.writeBits off w (f :: fs) cur bad =
      s.writeBits off w fs (putBits cur f.lo f.len (s.fieldWritten off w f (bits cur f.lo f.len)))
        (bad || s.fieldBad off w f (bits cur f.lo f.len)) := by
  obtain ⟨lo, len, ty⟩ := f
  cases ty with
  | rw =>
    cases hfz : s.fieldFrozen off lo <;> cases hok : s.fieldOk off lo len w <;>
      simp [State.writeBits, State.fieldWritten, State.fieldBad, fieldAfter, hfz, hok, putBits_bits_self]
  | w1c | w1s | wo | ro | rc => simp [State.writeBits, State.fieldWritten, State.fieldBad, fieldAfter, putBits_bits_self]

theorem writeBits_testBit_outside {off w i : Nat} {fs : List FieldRow} (cur : Nat) (bad : Bool)
    (h : ∀ f ∈ fs, ¬ (f.lo ≤ i ∧ i < f.lo + f.len)) : (s.writeBits off w fs cur bad).1.testBit i = cur.testBit i := by
  induction fs generalizing cur bad with
  | nil => rfl
  | cons f fs ih =>
    rw [writeBits_cons, ih _ _ fun g hg => h g (List.mem_cons_of_mem _ hg), testBit_putBits, if_neg (h f List.mem_cons_self)]

theorem writeBits_bits_apart {off w : Nat} {g : FieldRow} {fs : List FieldRow} (cur : Nat) (bad : Bool) (h : ∀ f ∈ fs, g.Apart f) :
    bits (s.writeBits off w fs cur bad).1 g.lo g.len = bits cur g.lo g.len := by
  induction fs generalizing cur bad with
  | nil => rfl
  | cons f fs ih =>
    rw [writeBits_cons, ih _ _ fun k hk => h k (List.mem_cons_of_mem _ hk), bits_putBits_apart _ _ _ _ _ _ (h f List.mem_cons_self)]

/-- Each field takes what the write leaves in it of its own old value. -/
theorem writeBits_bits {off w : Nat} {g : FieldRow} {fs : List FieldRow} (cur : Nat) (bad : Bool) (hp : fs.Pairwise FieldRow.Apart)
    (hg : g ∈ fs) : bits (s.writeBits off w fs cur bad).1 g.lo g.len = s.fieldWritten off w g (bits cur g.lo g.len) := by
  induction fs generalizing cur bad with
  | nil => cases hg
  | cons f fs ih =>
    obtain ⟨hf, hp⟩ := List.pairwise_cons.1 hp
    rw [writeBits_cons]
    rcases List.mem_cons.1 hg with rfl | hg
    · rw [writeBits_bits_apart _ _ hf, bits_putBits_same, Nat.mod_eq_of_lt (fieldWritten_lt (bits_lt cur g.lo g.len))]
    · rw [ih _ _ hp hg, bits_putBits_apart _ _ _ _ _ _ (hf g hg).symm]

theorem writeBits_good {off w : Nat} {fs : List FieldRow} (cur : Nat) (bad : Bool)
    (h : ∀ f ∈ fs, f.ty = .rw ∨ f.ty = .wo → s.fieldOk off f.lo f.len w = true ∧ s.fieldFrozen off f.lo = false) :
    (s.writeBits off w fs cur bad).2 = bad := by
  induction fs generalizing cur bad with
  | nil => rfl
  | cons f fs ih =>
    rw [writeBits_cons, ih _ _ fun g hg => h g (List.mem_cons_of_mem _ hg), fieldBad_of_good (h f List.mem_cons_self), Bool.or_false]

theorem writeBits_reserved {off w : Nat} {fs : List FieldRow} (cur : Nat) (bad : Bool)
    (h : bad = true ∨ ∃ f ∈ fs, f.ty = .rw ∧ s.fieldOk off f.lo f.len w = false ∧ s.fieldFrozen off f.lo = false) :
    (s.writeBits off w fs cur bad).2 = true := by
  induction fs generalizing cur bad with
  | nil => exact h.resolve_right (by simp)
  | cons f fs ih =>
    rw [writeBits_cons]
    refine ih _ _ ?_
    rcases h with rfl | ⟨g, hg, hty, hok, hfz⟩
    · exact .inl rfl
    · rcases List.mem_cons.1 hg with rfl | hg
      · exact .inl (by rw [fieldBad_of_reserved hty hok hfz, Bool.or_true])
      · exact .inr ⟨g, hg, hty, hok, hfz⟩

/-! ## A register -/

/-- The field of a row, at an offset. -/
def FieldRow.fld (off : Nat) (f : FieldRow) : Fld := ⟨off, f.lo, f.len⟩

/-- The fields of a register written by their types, without what is recorded. -/
def State.putFields (s : State) (off w : Nat) (fs : List FieldRow) : State :=
  s.setReg off (BitVec.ofNat 64 (s.writeBits off w fs (s.getReg off).toNat false).1)

theorem putFields_inv {off w : Nat} {fs : List FieldRow} (h : s.Inv) : (s.putFields off w fs).Inv :=
  (State.setReg_keep (hasReg_all off) s _).inv h

theorem putFields_rd {off w : Nat} {fs : List FieldRow} (h : s.Inv) (hp : fs.Pairwise FieldRow.Apart) {f : FieldRow} (hf : f ∈ fs)
    (h64 : f.lo + f.len ≤ 64) : (s.putFields off w fs).rd (f.fld off) = s.fieldWritten off w f (s.rd (f.fld off)) := by
  unfold State.putFields State.rd FieldRow.fld
  rw [getReg_setReg_same _ _ (rising_of_regsWf h.regs), bits_toNat_ofNat _ h64, writeBits_bits _ _ hp hf]

theorem putFields_changes {off w : Nat} {fs : List FieldRow} (h : s.Inv) :
    Changes [.regs] (fs.map (FieldRow.fld off)) s (s.putFields off w fs) := by
  refine ⟨only_regs s _, fun o i => or_iff_not_imp_left.2 fun hno => ?_⟩
  by_cases ho : off = o
  · subst ho
    have hout : ∀ f ∈ fs, ¬ (f.lo ≤ i ∧ i < f.lo + f.len) := fun f hf hi =>
      hno ⟨f.fld off, List.mem_map_of_mem hf, rfl, hi⟩
    unfold State.putFields
    rw [getReg_setReg_same _ _ (rising_of_regsWf h.regs), BitVec.getLsbD_ofNat, writeBits_testBit_outside _ _ hout]
    by_cases hi : i < 64
    · simp [hi, BitVec.getLsbD]
    · simp [hi, BitVec.getLsbD_of_ge _ i (Nat.le_of_not_lt hi)]
  · rw [State.putFields, getReg_setReg_other _ _ ho]

/-- What a write of a register by its fields alone comes to, where the register may be written. -/
theorem writePlain_unlocked {off : Nat} {row : RegRow} (w : Nat) (hr : regRow? off = some row) (hl : s.regLocked off = false) :
    (s.writePlain off w).1 =
      if (s.writeBits off w row.fields (s.getReg off).toNat false).2 then (s.putFields off w row.fields).accessError off row.bytes true
      else s.putFields off w row.fields := by
  simp only [State.writePlain, hr, hl, Bool.false_eq_true, if_false]
  split <;> rfl

theorem writePlain_locked {off : Nat} {row : RegRow} (w : Nat) (hr : regRow? off = some row) (hl : s.regLocked off = true) :
    (s.writePlain off w).1 = s.accessError off row.bytes true := by
  simp [State.writePlain, hr, hl]

/-! ## Registers whose write makes no unit act -/

theorem writeEngine_plain {off c n w : Nat} (h : c ∉ actingRegs) : s.writeEngine off c n w = (s.writePlain off w).1 := by
  unfold State.writeEngine
  split
  case h_8 => rfl
  all_goals exact absurd (by decide) h

theorem writeTier_plain {off c n w : Nat} (h : c ∉ actingRegs) : s.writeTier off c n w = (s.writePlain off w).1 := by
  unfold State.writeTier
  split
  case h_7 => rfl
  all_goals exact absurd (by decide) h

theorem writeSync_plain {off c n w : Nat} (h : c ∉ actingRegs) : s.writeSync off c n w = (s.writePlain off w).1 := by
  unfold State.writeSync
  split
  case h_16 => rfl
  all_goals exact absurd (by decide) h

theorem writeCmd_plain {off c n w : Nat} (h : c ∉ actingRegs) : s.writeCmd off c n w = (s.writePlain off w).1 := by
  unfold State.writeCmd
  split
  case h_7 => rfl
  all_goals exact absurd (by decide) h

theorem writeReg_plain {off : Nat} {row : RegRow} (w : Nat) (ha : s.absentSlice off = false) (hr : regRow? off = some row)
    (h : regCanon off ∉ actingRegs) : s.writeReg off row.bytes w = (s.writePlain off (w % 2 ^ (8 * row.bytes))).1 := by
  simp only [State.writeReg, ha, hr, writeEngine_plain h, writeTier_plain h, writeSync_plain h, writeCmd_plain h, ne_eq,
    not_true_eq_false, Bool.false_eq_true, if_false, ite_self]

/-! ## The write of a register, whole -/

/-- The write of a register that may be written: the fields, then a record where something was wrong. -/
theorem writePlain_fields {off w : Nat} {row : RegRow} (h : s.Inv) (hr : regRow? off = some row) (hl : s.regLocked off = false)
    (herr : off ≠ Reg.ctlErrStatus) (hlog : off ≠ Reg.ctlErrlog) :
    (∀ f ∈ row.fields, (s.writePlain off w).1.rd (f.fld off) = s.fieldWritten off w f (s.rd (f.fld off))) ∧
    Changes [.regs, .log] (Fld.ctlErrlog.head :: Fld.ctlErrStatus.accessErr :: row.fields.map (FieldRow.fld off)) s (s.writePlain off w).1 := by
  obtain ⟨hp, h64⟩ := regRows_fields row (List.mem_of_find?_eq_some hr)
  have hrd : ∀ f ∈ row.fields, (s.putFields off w row.fields).rd (f.fld off) = s.fieldWritten off w f (s.rd (f.fld off)) :=
    fun f hf => putFields_rd h hp hf (h64 f hf)
  have hput : Changes [.regs, .log] (Fld.ctlErrlog.head :: Fld.ctlErrStatus.accessErr :: row.fields.map (FieldRow.fld off)) s
      (s.putFields off w row.fields) :=
    .step (putFields_changes h) (by decide) (fun f hf => .tail _ (.tail _ hf)) (.refl _ _ s)
  rw [writePlain_unlocked w hr hl]
  split
  · obtain ⟨-, hrec⟩ := accessError_refused (putFields_inv h (off := off) (w := w) (fs := row.fields)) off row.bytes true
    refine ⟨fun f hf => ?_, .step hrec (by decide) (fun f hf => ?_) hput⟩
    · rw [hrec.2.rd (by simp [FieldRow.fld, Fld.ctlErrlog.head, Fld.ctlErrStatus.accessErr, herr.symm, hlog.symm]), hrd f hf]
    · simp only [List.mem_cons, List.not_mem_nil, or_false] at hf
      simp only [List.mem_cons, ← or_assoc, hf, true_or]
  · exact ⟨hrd, hput⟩

/-- Settles O13: the fields in turn by their types, and at most a record of an access error. -/
theorem registerWrite : Obligations.RegisterWrite := by
  intro s off w value hi hp ha row hr hb hact v good fld
  have hexec := exec_registerWrite off w value hp
  rw [← hb, writeReg_plain _ ha hr hact, hb] at hexec
  refine ⟨fun hl herr hlog => .of_settled hexec ?_, fun hl => .of_settled hexec ?_⟩
  · obtain ⟨hrd, hch⟩ := writePlain_fields (w := v) hi hr hl herr hlog
    refine ⟨hrd, fun hgood => ?_, fun hbad => ?_, hch⟩
    · rw [writePlain_unlocked _ hr hl, writeBits_good _ _ hgood]
      exact putFields_changes hi
    · rw [writePlain_unlocked _ hr hl, writeBits_reserved _ _ (.inr hbad), if_pos rfl]
      exact ⟨(accessError_refused (putFields_inv hi) _ _ _).1, accessError_log_length _ _ _ _⟩
  · rw [writePlain_locked _ hr hl]
    exact accessError_refused hi _ _ _

end Sys2Proof.Machine
end

section
/-! Causeways (R51 to R54), and what the egress of a slice grants (R72, R74, R79). -/
namespace Sys2Proof.Machine

variable {s t : State}

/-! ## Slices -/

theorem putSlice_slice_same (s : State) (n : Fin 42) (c : Causeway) : (s.putSlice n c).slice n = c := by
  simp [State.putSlice, State.slice, vget, vset]

theorem putSlice_slice_other (s : State) {n m : Nat} (c : Causeway) (h : m ≠ n) : (s.putSlice n c).slice m = s.slice m := by
  simp [State.putSlice, State.slice, vget, vset, Vector.getElem?_setIfInBounds_ne h.symm]

theorem slice_congr (h : t.slices = s.slices) (m : Nat) : t.slice m = s.slice m := by
  rw [State.slice, h, State.slice]

theorem cwCause_eq_zero (s : State) (n : Nat) : s.cwCause n = 0 ↔
    s.boot.phase = .running ∧ s.rdB (Fld.lnkStatus.bufErr n) = false ∧ s.rdB (Fld.lnkCtrl.close n) = false := by
  unfold State.cwCause
  cases s.boot.phase with
  | running => cases s.rdB (Fld.lnkStatus.bufErr n) <;> simp
  | unpowered | tapTest | reset | thermalHold | booting | hummock => simp

theorem sliceOpens_slice_same (s : State) (n : Fin 42) :
    (s.sliceOpens n).slice n = if s.present n = true ∧ s.slice n = .closed ∧ s.cwCause n = 0 then .opening else s.slice n := by
  unfold State.sliceOpens
  simp only [Bool.and_eq_true, beq_iff_eq, and_assoc]
  split
  · exact putSlice_slice_same s n .opening
  · rfl

theorem sliceOpens_slice_other (s : State) {n m : Nat} (h : m ≠ n) : (s.sliceOpens n).slice m = s.slice m := by
  unfold State.sliceOpens
  split
  · exact putSlice_slice_other s .opening h
  · rfl

/-- What a close drops leaves every Causeway as it is (R52). -/
theorem sliceDrops_slice (s : State) (n m : Nat) : (s.sliceDrops n).slice m = s.slice m :=
  slice_congr (((State.sliceDrops_keep s n).only .slices).resolve_left (by decide)) m

theorem sliceDrops_rd_close (h : s.Inv) (k : Nat) (n : Fin 42) :
    (s.sliceDrops k).rd (Fld.lnkCtrl.close n) = s.rd (Fld.lnkCtrl.close n) :=
  (State.sliceDrops_keep s k).rd h (by revert n; decide +kernel)

/-! ## The ordered close -/

/-- What a slice comes to when its close begins. -/
def Causeway.afterClose : Causeway → Causeway
  | .opened => .closing
  | .opening => .closed
  | c => c

theorem sliceCloses_slice_same (s : State) (n : Fin 42) :
    (s.sliceCloses n).slice n = (s.slice n).afterClose := by
  unfold State.sliceCloses
  cases hc : s.slice n with
  | opened => exact (sliceDrops_slice _ _ _).trans (putSlice_slice_same s n .closing)
  | opening => exact putSlice_slice_same s n .closed
  | closed | closing => exact hc

theorem sliceCloses_slice_other (s : State) {n m : Nat} (h : m ≠ n) : (s.sliceCloses n).slice m = s.slice m := by
  unfold State.sliceCloses
  split
  · exact (sliceDrops_slice _ _ _).trans (putSlice_slice_other s .closing h)
  · exact putSlice_slice_other s .closed h
  · rfl

theorem sliceCloses_rd_close (h : s.Inv) (n : Fin 42) : (s.sliceCloses n).rd (Fld.lnkCtrl.close n) = s.rd (Fld.lnkCtrl.close n) := by
  unfold State.sliceCloses
  split
  · exact sliceDrops_rd_close ((State.putSlice_keep s n .closing).inv h) n n
  · rfl
  · rfl

theorem putSlice_changes (s : State) (n : Nat) (c : Causeway) : Changes [.slices] [] s (s.putSlice n c) :=
  .of_only (State.putSlice_keep s n c).only rfl

theorem sliceOpens_changes (s : State) (n : Nat) : Changes [.slices] [] s (s.sliceOpens n) := by
  unfold State.sliceOpens
  split
  · exact putSlice_changes s n .opening
  · exact .refl _ _ s

theorem sliceCloses_changes {n : Nat} (h : s.slice n ≠ .opened) : Changes [.slices] [] s (s.sliceCloses n) := by
  unfold State.sliceCloses
  split
  · next ho => exact absurd ho h
  · exact putSlice_changes s n .closed
  · exact .refl _ _ s

/-! ## CLOSE -/

/-- The CLOSE bit written, before the slice follows it. -/
theorem wrB_close_changes (h : s.Inv) (n : Nat) (b : Bool) :
    Changes [.regs] [Fld.lnkCtrl.close n] s (s.wrB (Fld.lnkCtrl.close n) b) :=
  ⟨(State.wrB_keep (has_all _) s b).only, .wr (.refl _ s) (rising_of_regsWf h.regs) List.mem_cons_self _⟩

theorem wrB_close_rd (h : s.Inv) (n : Nat) (b : Bool) : (s.wrB (Fld.lnkCtrl.close n) b).rd (Fld.lnkCtrl.close n) = b2n b := by
  rw [State.wrB, rd_wr_same _ _ (rising_of_regsWf h.regs) (by show 0 + 1 ≤ 64; decide)]
  cases b <;> rfl

theorem wrB_close_rd_bufErr (h : s.Inv) (n : Nat) (b : Bool) :
    (s.wrB (Fld.lnkCtrl.close n) b).rd (Fld.lnkStatus.bufErr n) = s.rd (Fld.lnkStatus.bufErr n) :=
  rd_wr_apart _ _ _ (rising_of_regsWf h.regs) (.inl (by show 0x20000 + 0x100 * n ≠ 0x20008 + 0x100 * n; omega))

theorem lnkCtrlWrite_close {n : Nat} (hp : s.present n = true) : s.lnkCtrlWrite n 1 = (s.wrB (Fld.lnkCtrl.close n) true).sliceCloses n := by
  simp [State.lnkCtrlWrite, hp, bitAt]

theorem lnkCtrlWrite_open {n : Nat} (hp : s.present n = true) : s.lnkCtrlWrite n 0 = (s.wrB (Fld.lnkCtrl.close n) false).sliceOpens n := by
  simp [State.lnkCtrlWrite, hp, bitAt]

/-- Once CLOSE is 0, a closed slice opens where the firmware runs and BUF_ERR is clear. -/
theorem cwCause_of_close_clear (h : s.Inv) (n : Nat) : (s.wrB (Fld.lnkCtrl.close n) false).cwCause n = 0 ↔
    s.boot.phase = .running ∧ s.rd (Fld.lnkStatus.bufErr n) = 0 := by
  have hb : s.rd (Fld.lnkStatus.bufErr n) < 2 := bits_lt _ _ 1
  rw [cwCause_eq_zero]
  simp only [State.rdB, wrB_close_rd h, wrB_close_rd_bufErr h, beq_eq_false_iff_ne, b2n, ne_eq, Bool.false_eq_true, if_false,
    zero_ne_one, not_false_eq_true, and_true]
  exact and_congr .rfl (by omega)

/-- LNK_CTRL_CLOSE: what a write of CLOSE = 1 leaves, before other units go on. -/
theorem lnkCtrlClose_effect (h : s.Inv) {n : Fin 42} (hpw : s.powered = true) (hp : s.present n = true) :
    DoesThen (.lnkCtrlClose n) s fun t =>
      t.rd (Fld.lnkCtrl.close n) = 1 ∧ (∀ m : Nat, m ≠ n.val → t.slice m = s.slice m) ∧
      t.slice n = (s.slice n).afterClose ∧
      (s.slice n ≠ .opened → Changes [.slices, .regs] [Fld.lnkCtrl.close n] s t) ∧ Only (touches (.lnkCtrlClose n)) s t := by
  have hexec : exec (.lnkCtrlClose n) s = settled (.next (s.lnkCtrlWrite n 1)) := by
    show settled (doLnkCtrlClose n s) = _
    rw [doLnkCtrlClose, hpw, Bool.not_true, if_neg Bool.false_ne_true]
  have hwr := (State.wrB_keep (has_all (Fld.lnkCtrl.close n)) s true).inv h
  refine .of_settled hexec ⟨?_, fun m hm => ?_, ?_, fun ho => ?_, ?_⟩
  · rw [lnkCtrlWrite_close hp, sliceCloses_rd_close hwr, wrB_close_rd h, b2n, if_pos rfl]
  · rw [lnkCtrlWrite_close hp, sliceCloses_slice_other _ hm]
    rfl
  · rw [lnkCtrlWrite_close hp, sliceCloses_slice_same]
    rfl
  · rw [lnkCtrlWrite_close hp]
    exact .step (sliceCloses_changes ho) (by decide) (by simp) (.step (wrB_close_changes h n true) (by decide) (fun _ => id) (.refl _ _ s))
  · show Only (touches (.lnkCtrlClose 0)) s _
    exact (State.lnkCtrlWrite_keep s n 1).only.step (by decide) (.refl _ s)

/-- LNK_CTRL_OPEN: what a write of CLOSE = 0 leaves. -/
theorem lnkCtrlOpen_effect (h : s.Inv) {n : Fin 42} (hpw : s.powered = true) (hp : s.present n = true) :
    Does (.lnkCtrlOpen n) s fun t =>
      t.rd (Fld.lnkCtrl.close n) = 0 ∧ (∀ m : Nat, m ≠ n.val → t.slice m = s.slice m) ∧
      Changes [.slices, .regs] [Fld.lnkCtrl.close n] s t ∧
      t.slice n = (if s.slice n = .closed ∧ s.boot.phase = .running ∧ s.rd (Fld.lnkStatus.bufErr n) = 0 then .opening else s.slice n) := by
  have hexec : exec (.lnkCtrlOpen n) s = .next ((s.wrB (Fld.lnkCtrl.close n) false).sliceOpens n) := by
    show execLnkCtrlOpen n s = _
    rw [execLnkCtrlOpen, hpw, Bool.not_true, if_neg Bool.false_ne_true, lnkCtrlWrite_open hp]
  have hopens := sliceOpens_changes (s.wrB (Fld.lnkCtrl.close n) false) n
  refine ⟨_, hexec, ?_, fun m hm => ?_, ?_, ?_⟩
  · rw [hopens.2.rd rfl, wrB_close_rd h]
    rfl
  · rw [sliceOpens_slice_other _ hm]
    rfl
  · exact .step hopens (by decide) (by simp) (.step (wrB_close_changes h n false) (by decide) (fun _ => id) (.refl _ _ s))
  · have hpr : (s.wrB (Fld.lnkCtrl.close n) false).present n = true := hp
    simp only [sliceOpens_slice_same, cwCause_of_close_clear h, hpr, true_and]
    rfl

/-! ## CAUSEWAY_CLOSED and CAUSEWAY_OPEN -/

theorem causewayClosed_effect {n : Fin 42} (hc : s.slice n = .closing) :
    Does (.causewayClosed n) s fun t =>
      t.slice n = (if s.present n = true ∧ s.cwCause n = 0 then .opening else .closed) ∧
      (∀ m : Nat, m ≠ n.val → t.slice m = s.slice m) ∧
      t.bx3Out = s.bx3Out.filter (fun x => x.1.val != n.val) ∧
      t.wire = s.wire ++ (s.bx3Out.filter (fun x => x.1.val == n.val)).map (fun x => .bx3 x.1 x.2.1 x.2.2) ∧
      Changes [.slices, .bx3Out, .wire] [] s t := by
  have hopens := sliceOpens_changes ((s.bx3Flush n).putSlice n .closed) n
  have hflush : Changes [.slices, .bx3Out, .wire] [] s ((s.bx3Flush n).putSlice n .closed) :=
    .step (putSlice_changes _ n .closed) (by decide) (by simp)
      (.step (.of_only (State.bx3Flush_keep s n).only rfl) (by decide) (by simp) (.refl _ [] s))
  have hexec : exec (.causewayClosed n) s = .next (((s.bx3Flush n).putSlice n .closed).sliceOpens n) := by
    show execCausewayClosed n s = _
    rw [execCausewayClosed, hc, beq_self_eq_true, if_pos rfl]
  refine ⟨_, hexec, ?_, fun m hm => ?_, ?_, ?_, .step hopens (by decide) (by simp) hflush⟩
  · rw [sliceOpens_slice_same, putSlice_slice_same]
    simp only [true_and]
    rfl
  · rw [sliceOpens_slice_other _ hm, putSlice_slice_other _ _ hm]
    rfl
  · exact (hopens.1 .bx3Out).resolve_left (by decide)
  · exact (hopens.1 .wire).resolve_left (by decide)

theorem causewayOpen_effect {n : Fin 42} (hc : s.slice n = .opening) :
    Does (.causewayOpen n) s fun t =>
      t.slice n = .opened ∧ (∀ m : Nat, m ≠ n.val → t.slice m = s.slice m) ∧ t.placed.getLsbD n = false ∧
      (∀ m : Nat, m ≠ n.val → t.placed.getLsbD m = s.placed.getLsbD m) ∧ Changes [.slices, .placed] [] s t := by
  have hexec : exec (.causewayOpen n) s =
      .next (({ s with placed := s.placed &&& ~~~(1#42 <<< n.val) }).putSlice n .opened) := by
    show execCausewayOpen n s = _
    rw [execCausewayOpen, hc, beq_self_eq_true, if_pos rfl]
  refine ⟨_, hexec, putSlice_slice_same _ n .opened, fun m hm => putSlice_slice_other _ _ hm, ?_, fun m hm => ?_, ?_⟩
  · simp [State.putSlice, n.isLt]
  · have hbit : (1#42 <<< n.val).getLsbD m = false := by
      rw [← BitVec.twoPow_eq, BitVec.getLsbD_twoPow]
      simp [hm.symm]
    simp only [State.putSlice, BitVec.getLsbD_and, BitVec.getLsbD_not, hbit]
    by_cases h42 : m < 42
    · simp [h42]
    · simp [BitVec.getLsbD_of_ge s.placed m (Nat.le_of_not_lt h42)]
  · exact .step (putSlice_changes _ n .opened) (by decide) (by simp)
      (.step (.of_only (keep_placed s _).only rfl) (by decide) (by simp) (.refl _ _ s))

theorem bx3FramePass_effect {n : Fin 42} (hp : s.present n = true) (d : Dir) (f : Bx3Frame) :
    Does (.bx3FramePass n d f) s fun t => t.bx3Out = s.bx3Out ++ [(n, d, f)] ∧ Changes [.bx3Out] [] s t :=
  ⟨s.bx3Is (s.bx3Out ++ [(n, d, f)]), if_pos hp, rfl, .of_only (State.bx3Is_keep s _).only rfl⟩

/-! ## Arbitration -/

/-- An element hands on one of its two sides, and one where something waits (R71). -/
theorem arbDown_succ (d node : Nat) (reqs : List Nat) (owed : SMap Bool) : ∃ (side : Bool) (owed' : SMap Bool),
    arbDown (d + 1) node reqs owed = arbDown d (2 * node + b2n side) (reqs.filter (fun l => l.testBit d == side)) owed' ∧
    (reqs ≠ [] → reqs.filter (fun l => l.testBit d == side) ≠ []) := by
  have hpick (side : Bool) : (if side then reqs.filter (fun l => l.testBit d) else reqs.filter (fun l => !l.testBit d)) =
      reqs.filter (fun l => l.testBit d == side) := by cases side <;> simp
  simp only [arbDown]
  generalize hs : (if (reqs.filter (fun l => !l.testBit d)).isEmpty then true
    else if (reqs.filter (fun l => l.testBit d)).isEmpty then false
    else (kget owed node).getD ((reqs.head?.getD 0).testBit d)) = side
  refine ⟨side, _, congrArg (arbDown d (2 * node + b2n side) · _) (hpick side), fun hne hnil => ?_⟩
  obtain ⟨l, hl⟩ := List.exists_mem_of_ne_nil reqs hne
  rw [List.filter_eq_nil_iff] at hnil
  cases side with
  | true =>
    have hones : reqs.filter (fun l => l.testBit d) = [] := by simpa [List.filter_eq_nil_iff] using hnil
    have hzeros : reqs.filter (fun l => !l.testBit d) = [] := by simpa [hones] using hs
    have hone := List.filter_eq_nil_iff.1 hones l hl
    have hzero := List.filter_eq_nil_iff.1 hzeros l hl
    exact hzero (by simpa using hone)
  | false =>
    have hzeros : reqs.filter (fun l => !l.testBit d) = [] := by simpa [List.filter_eq_nil_iff] using hnil
    simp [hzeros] at hs

/-- A tree grants one of the leaves that wait, wherever one waits. -/
theorem arbDown_grants (d node : Nat) {reqs : List Nat} (owed : SMap Bool) (h : reqs ≠ []) :
    ∃ l ∈ reqs, (arbDown d node reqs owed).1 = some l := by
  induction d generalizing node reqs owed with
  | zero => exact ⟨reqs.head h, List.head_mem h, List.head?_eq_some_head h⟩
  | succ d ih =>
    obtain ⟨side, owed', heq, hne⟩ := arbDown_succ d node reqs owed
    obtain ⟨l, hl, hg⟩ := ih (2 * node + b2n side) owed' (hne h)
    exact ⟨l, List.mem_of_mem_filter hl, heq ▸ hg⟩

/-- A tree grants nothing where nothing waits. -/
theorem arbDown_nil (d node : Nat) (owed : SMap Bool) : (arbDown d node [] owed).1 = none := by
  induction d generalizing node owed with
  | zero => rfl
  | succ d ih =>
    obtain ⟨side, owed', heq, -⟩ := arbDown_succ d node [] owed
    exact heq ▸ ih (2 * node + b2n side) owed'

/-- A grant changes nothing but who lost. -/
theorem grant_eq (s : State) (point depth : Nat) (reqs : List Nat) : ∃ owed' : SMap Bool,
    s.grant point depth reqs = ((arbDown depth (arbRoot point) reqs s.owed).1, { s with owed := owed' }) :=
  ⟨_, rfl⟩

theorem mem_topClass {l : List Waits} {x : Waits} : x ∈ topClass l ↔ x ∈ l ∧ ∀ y ∈ l, x.tc ≤ y.tc := by
  simp [topClass]

theorem topClass_ne_nil {l : List Waits} (h : l ≠ []) : topClass l ≠ [] := by
  obtain ⟨m, hm⟩ := Option.ne_none_iff_exists'.1 (mt (List.argmin_eq_none (f := Waits.tc)).1 h)
  exact List.ne_nil_of_mem (mem_topClass.2 ⟨List.argmin_mem hm, fun y hy => List.le_of_mem_argmin hy hm⟩)

/-! ## What waits at an egress -/

/-- Traffic class of a frame on the wire. -/
def Wire.tc : Wire → Nat
  | .engine f => Ty.tc f.ty
  | .bx3 _ _ f => f.tc.toNat

/-- The frame that an entry of the waiting ones stands for. -/
def State.waiting (s : State) (x : Waits) : Option Wire :=
  if x.bx3 then s.bx3Out[x.place]?.map (fun y => .bx3 y.1 y.2.1 y.2.2) else s.outbox[x.place]?.map .engine

/-- Waiting entries that stand for frames of their class. -/
def State.Standing (s : State) (waits : List Waits) : Prop := ∀ x ∈ waits, ∃ w, s.waiting x = some w ∧ w.tc = x.tc

theorem getElem?_of_mem_placed' {α : Type} {l : List α} {x : Nat × α} (h : x ∈ placed' l) : l[x.1]? = some x.2 := by
  obtain ⟨k, hk⟩ := List.getElem?_of_mem h
  obtain ⟨h1, h2⟩ := List.getElem?_zip_eq_some.1 hk
  obtain ⟨_, h1⟩ := List.getElem?_eq_some_iff.1 h1
  rw [List.getElem_range] at h1
  rw [← h1, h2]

theorem egressEngine_standing (s : State) (port : Option Nat) (tc3 : Bool) : s.Standing (s.egressEngine port tc3) := by
  intro x hx
  obtain ⟨y, hy, rfl⟩ := List.mem_map.1 hx
  have hy := getElem?_of_mem_placed' (List.mem_of_mem_filter (List.mem_of_mem_filter hy))
  exact ⟨.engine y.2, by simp [State.waiting, hy], rfl⟩

theorem egressBx3_standing (s : State) (n : Nat) (dir : Dir) : s.Standing (s.egressBx3 n dir) := by
  intro x hx
  obtain ⟨y, hy, rfl⟩ := List.mem_map.1 hx
  have hy := getElem?_of_mem_placed' (List.mem_of_mem_filter hy)
  exact ⟨.bx3 y.2.1 y.2.2.1 y.2.2.2, by simp [State.waiting, hy], rfl⟩

/-! ## The grant of an egress -/

theorem wireEngine_wire (s : State) (i : Nat) : (s.wireEngine i).wire = s.wire ++ (s.outbox[i]?.map Wire.engine).toList := by
  unfold State.wireEngine
  cases h : s.outbox[i]? with
  | none => simp
  | some f =>
    dsimp only
    split
    · split <;> rfl
    · rfl

theorem wireBx3_wire (s : State) (i : Nat) :
    (s.wireBx3 i).wire = s.wire ++ (s.bx3Out[i]?.map (fun y => Wire.bx3 y.1 y.2.1 y.2.2)).toList := by
  unfold State.wireBx3
  cases h : s.bx3Out[i]? with
  | none => simp
  | some y => rfl

/-- What stands for an entry goes on the wire when the entry is sent. -/
theorem send_wire {x : Waits} {w : Wire} {owed' : SMap Bool} (h : s.waiting x = some w) :
    (if x.bx3 then ({ s with owed := owed' } : State).wireBx3 x.place else ({ s with owed := owed' } : State).wireEngine x.place).wire =
      s.wire ++ [w] := by
  unfold State.waiting at h
  split at h
  · next hb => rw [if_pos hb, wireBx3_wire, h]; rfl
  · next hb => rw [if_neg hb, wireEngine_wire, h]; rfl

theorem egressGrant_nil (s : State) (point : Nat) : s.egressGrant point [] = s := by
  unfold State.egressGrant
  have htop : topClass [] = [] := rfl
  dsimp only
  rw [htop, List.map_nil]
  obtain ⟨owed', hg⟩ := grant_eq s (4 * point + (([] : List Waits).head?.map (fun x => x.tc)).getD 0) 6 []
  rw [hg, arbDown_nil]

/-- A grant with frames that wait sends one of them, of the highest class (R74, R79). -/
theorem egressGrant_wire (point : Nat) {waits : List Waits} (hst : s.Standing waits) (hne : waits ≠ []) :
    ∃ w, (s.egressGrant point waits).wire = s.wire ++ [w] ∧ ∀ x ∈ waits, w.tc ≤ x.tc := by
  unfold State.egressGrant
  dsimp only
  generalize 4 * point + ((topClass waits).head?.map (fun x => x.tc)).getD 0 = p
  have hreqs : (topClass waits).map (fun x => x.leaf) ≠ [] := mt List.map_eq_nil_iff.1 (topClass_ne_nil hne)
  obtain ⟨l, hl, hsome⟩ := arbDown_grants 6 (arbRoot p) s.owed hreqs
  obtain ⟨owed', hg⟩ := grant_eq s p 6 ((topClass waits).map (fun x => x.leaf))
  obtain ⟨y, hy, hyl⟩ := List.mem_map.1 hl
  obtain ⟨x, hx⟩ := Option.isSome_iff_exists.1 (List.find?_isSome (p := fun x => x.leaf == l).2 ⟨y, hy, beq_iff_eq.2 hyl⟩)
  obtain ⟨hmem, hmin⟩ := mem_topClass.1 (List.mem_of_find?_eq_some hx)
  obtain ⟨w, hw, htc⟩ := hst x hmem
  refine ⟨w, ?_, fun z hz => htc ▸ hmin z hz⟩
  rw [hg, hsome]
  dsimp only
  rw [hx]
  exact send_wire hw

/-- The wire of a slice grants among the engine's and the BX3 frames that wait, in either order. -/
theorem egressSlice_eq (s : State) (n : Nat) : ∃ (k : Nat) (waits : List Waits),
    s.egressSlice n = ({ s with freeCtr := k } : State).egressGrant n waits ∧
    ∀ x, x ∈ waits ↔ x ∈ s.egressEngine (some n) (s.tc3Allows (some n)) ++ s.egressBx3 n .tx := by
  unfold State.egressSlice
  dsimp only
  split
  · exact ⟨s.freeCtr, _, rfl, fun _ => .rfl⟩
  · refine ⟨s.freeCtr + 1, _, rfl, fun x => ?_⟩
    split
    · rfl
    · rw [List.mem_append, List.mem_append, or_comm]

/-- At a frame boundary the wire of a slice takes one frame wherever one waits, and none of a lower class before it. -/
theorem egressSlice_wire (s : State) (n : Nat) :
    let waits := s.egressEngine (some n) (s.tc3Allows (some n)) ++ s.egressBx3 n .tx
    ∃ l, (s.egressSlice n).wire = s.wire ++ l ∧ l.length = (if waits = [] then 0 else 1) ∧ ∀ w ∈ l, ∀ x ∈ waits, w.tc ≤ x.tc := by
  obtain ⟨k, waits, heq, hmem⟩ := egressSlice_eq s n
  have hst : s.Standing waits := fun x hx => (List.mem_append.1 ((hmem x).1 hx)).elim (egressEngine_standing s _ _ x) (egressBx3_standing s _ _ x)
  dsimp only
  rw [heq]
  split
  · next hnil =>
    have hwaits : waits = [] := List.eq_nil_iff_forall_not_mem.2 fun x hx => by simpa [hnil] using (hmem x).1 hx
    rw [hwaits, egressGrant_nil]
    exact ⟨[], (List.append_nil _).symm, rfl, by simp⟩
  · next hne =>
    obtain ⟨y, hy⟩ := List.exists_mem_of_ne_nil _ hne
    obtain ⟨w, hw, hmin⟩ := egressGrant_wire (s := { s with freeCtr := k }) n hst (List.ne_nil_of_mem ((hmem y).2 hy))
    refine ⟨[w], hw, rfl, fun v hv x hx => ?_⟩
    rw [List.mem_singleton.1 hv]
    exact hmin x ((hmem x).2 hx)

/-- Settles O10: each write and event of a Causeway by its effect, and the egress by the grant of its wire. -/
theorem causeways : Obligations.Causeways := by
  intro s n hi
  refine ⟨lnkCtrlClose_effect hi, lnkCtrlOpen_effect hi, causewayClosed_effect, causewayOpen_effect, bx3FramePass_effect, ?_⟩
  obtain ⟨l, hwire, hlen, hcls⟩ := egressSlice_wire s n
  have hl : (s.egressSlice n).wire.drop s.wire.length = l := by rw [hwire, List.drop_left]
  rw [hl]
  refine ⟨hwire, hlen, fun w hw => ?_⟩
  cases w <;> exact hcls _ hw

end Sys2Proof.Machine
end

section
/-! Power-good and boundary scan (R42, R48, R53, R367, R368): what a cold reset leaves, and what a test's entry captures. -/
namespace Sys2Proof.Machine

variable {s t : State}

/-! ## A cold reset -/

/-- The calibrated corrections are written over the Reset column. -/
theorem delays_fields {fs : List Fld} {z : State} (l : SMap (BitVec 32)) (hl : ∀ d ∈ l, (⟨Reg.timLnkDelay d.1, 0, 64⟩ : Fld) ∈ fs)
    (hz : FieldsBut fs s z) (hw : regsWf z.regs = true) :
    let u := l.foldl (fun z d => z.setReg (Reg.timLnkDelay d.1) (BitVec.ofNat 64 d.2.toNat)) z
    FieldsBut fs s u ∧ regsWf u.regs = true := by
  induction l generalizing z with
  | nil => exact ⟨hz, hw⟩
  | cons d l ih =>
    exact ih (fun e he => hl e (.tail _ he)) (hz.setReg (hl d (.head _)) _) (regsWf_setReg _ _ hw)

/-- A cold reset sets every register to the Reset column but the calibrated corrections and SOURCE. -/
theorem regsAfter_cold_fields (s : State) (source : Nat) : FieldsBut s.resetFields State.reset (s.regsAfter .cold source) := by
  have hd : ∀ d ∈ s.part.delays, (⟨Reg.timLnkDelay d.1, 0, 64⟩ : Fld) ∈ s.resetFields := fun d hd =>
    List.mem_append_right _ (List.mem_map_of_mem hd)
  obtain ⟨hf, hw⟩ := delays_fields (s := State.reset) (z := { regs := [] }) s.part.delays hd (.of_regs rfl) rfl
  exact hf.wr (rising_of_regsWf hw) (List.mem_append_left _ (by decide)) source

theorem regsAfter_cold_source (s : State) {source : Nat} (h : source < 16) : (s.regsAfter .cold source).rd Fld.ctlBootReason.source = source := by
  have hd : ∀ d ∈ s.part.delays, (⟨Reg.timLnkDelay d.1, 0, 64⟩ : Fld) ∈ s.resetFields := fun d hd =>
    List.mem_append_right _ (List.mem_map_of_mem hd)
  obtain ⟨-, hw⟩ := delays_fields (s := State.reset) (z := { regs := [] }) s.part.delays hd (.of_regs rfl) rfl
  exact (rd_wr_same Fld.ctlBootReason.source source (rising_of_regsWf hw) (by decide)).trans (Nat.mod_eq_of_lt h)

/-- The status bits of the board's pins. -/
def boardPins : List Fld := [Fld.ctlBoardStatus.pfailN, Fld.ctlBoardStatus.holdupOk, Fld.ctlBoardStatus.holdupLow]

/-- The status of the board's pins follows the filtered levels, and no other field changes. -/
theorem boardSync_fields (h : regsWf s.regs = true) : FieldsBut boardPins s s.boardSync := by
  have h1 := regsWf_wr Fld.ctlBoardStatus.pfailN (b2n s.board.pfailN) h
  have h2 := regsWf_wr Fld.ctlBoardStatus.holdupOk (b2n s.board.holdupOk) h1
  exact (((FieldsBut.refl boardPins s).wr (rising_of_regsWf h) (by decide) _).wr (rising_of_regsWf h1) (by decide) _).wr
    (rising_of_regsWf h2) (by decide) _

theorem boardPins_sub_resetFields (s : State) : ∀ f ∈ boardPins, f ∈ s.resetFields := fun _ hf =>
  List.mem_append_left _ (List.mem_append_left [Fld.ctlBootReason.source] hf)

theorem tear_part (s : State) : (s.tear fun _ => true).part = s.part := ((State.tear_keep s _).only .part).resolve_left (by decide)

theorem resetFields_congr (h : t.part = s.part) : t.resetFields = s.resetFields := by
  rw [State.resetFields, h, State.resetFields]

/-- What a cold reset leaves of registers (R8, R48). -/
theorem resetAll_cold_fields (s : State) (source : Nat) : FieldsBut s.resetFields State.reset (s.resetAll .cold source) := by
  have hregs := regsAfter_cold_fields (s.tear fun _ => true) source
  rw [resetFields_congr (tear_part s)] at hregs
  have hwf := State.regsAfter_wf (s.tear fun _ => true) .cold source
  exact hregs.trans ((boardSync_fields (s := { (s.resetAll .cold source) with
    regs := ((s.tear fun _ => true).regsAfter .cold source).regs }) hwf).mono (boardPins_sub_resetFields s))

theorem resetAll_cold_source (s : State) {source : Nat} (h : source < 16) : (s.resetAll .cold source).rd Fld.ctlBootReason.source = source := by
  have hwf := State.regsAfter_wf (s.tear fun _ => true) .cold source
  exact ((boardSync_fields (s := { (s.resetAll .cold source) with
    regs := ((s.tear fun _ => true).regsAfter .cold source).regs }) hwf).rd (by decide)).trans (regsAfter_cold_source _ h)

theorem resetAll_cold_emptied (s : State) (source : Nat) : (s.resetAll .cold source).Emptied where
  red := rfl
  ful := rfl
  cut := rfl
  sec := rfl
  warden := rfl
  syn := rfl
  cmd := rfl
  chk := rfl
  elect := rfl
  mon := rfl
  slices := rfl
  placed := rfl
  egress := ⟨rfl, rfl, rfl⟩
  perst := rfl
  peat := ⟨rfl, rfl, rfl, rfl, rfl, rfl⟩

/-- What a cold reset does not touch. -/
theorem resetAll_kept (s : State) (kind : ResetKind) (source : Nat) :
    (s.resetAll kind source).part = s.part ∧ (s.resetAll kind source).now = s.now ∧ (s.resetAll kind source).wire = s.wire ∧
    (s.resetAll kind source).pending = s.pending := by
  have h := (State.resetAll_keep s kind source).only
  exact ⟨(h .part).resolve_left (by decide), (h .now).resolve_left (by decide), (h .wire).resolve_left (by decide),
    (h .pending).resolve_left (by decide)⟩

theorem resetAll_board (s : State) (kind : ResetKind) (source : Nat) :
    (s.resetAll kind source).board = { powerGood := s.board.powerGood, pfailN := s.board.pfailN, holdupOk := s.board.holdupOk } := by
  have htear : (s.tear fun _ => true).board = s.board := ((State.tear_keep s _).only .board).resolve_left (by decide)
  rw [← htear]
  cases kind <;> rfl

/-- A cold reset (R48). -/
theorem resetAll_coldFrom (s : State) {source : Nat} (h : source < 16) : s.ColdFrom source (s.resetAll .cold source) where
  emptied := resetAll_cold_emptied s source
  phase := ⟨rfl, rfl⟩
  regs := resetAll_cold_fields s source
  source := resetAll_cold_source s h
  lost := ⟨rfl, rfl, rfl, rfl, rfl, rfl, rfl⟩
  kept := resetAll_kept s .cold source

/-! ## Power-good -/

theorem powerGoodRise_effect (h : s.boot.phase = .unpowered) : Does .powerGoodRise s fun t =>
    s.ColdFrom 0 t ∧ t.board = { powerGood := true, pfailN := s.board.pfailN, holdupOk := s.board.holdupOk } := by
  have hexec : exec .powerGoodRise s = .next ((s.onBoard (fun b => { b with powerGood := true })).resetAll .cold 0) := by
    show execPowerGoodRise s = _
    rw [execPowerGoodRise, h, bne_self_eq_false, if_neg Bool.false_ne_true]
  obtain ⟨he, hp, hr, hs, hl, hk⟩ := resetAll_coldFrom (s.onBoard (fun b => { b with powerGood := true })) (source := 0) (by decide)
  exact ⟨_, hexec, ⟨he, hp, hr, hs, hl, hk⟩, resetAll_board _ _ _⟩

/-- Slices whose BX3 frames are lost keep none (R53). -/
theorem bx3Drop_all (l : List Nat) (s : State) :
    (l.foldl State.bx3Drop s).bx3Out = s.bx3Out.filter (fun x => !l.contains x.1.val) ∧
    ∃ out, l.foldl State.bx3Drop s = s.bx3Is out := by
  induction l generalizing s with
  | nil => exact ⟨by simp, _, rfl⟩
  | cons n l ih =>
    obtain ⟨h1, out, h2⟩ := ih (s.bx3Drop n)
    refine ⟨?_, out, h2⟩
    rw [List.foldl_cons, h1, State.bx3Drop, State.bx3Is, List.filter_filter]
    refine List.filter_congr fun x _ => ?_
    simp only [List.contains_cons, Bool.not_or, bne, Bool.and_comm]

theorem powerGoodFall_effect (h : s.boot.phase ≠ .unpowered) : Does .powerGoodFall s fun t =>
    t.boot.phase = .unpowered ∧ t.Emptied ∧ FieldsBut s.resetFields State.reset t ∧ t.mem = [] ∧ t.log = [] ∧ t.map = [] ∧
    t.board.powerGood = false ∧ t.powered = false ∧ t.bx3Out = [] := by
  obtain ⟨hnone, out, hout⟩ := bx3Drop_all (List.range 42) (s.resetAll .cold 0)
  have hnil : out = [] := by
    rw [hout] at hnone
    refine hnone.trans (List.filter_eq_nil_iff.2 fun x _ => ?_)
    simp [x.1.isLt]
  have hexec : exec .powerGoodFall s = .next ((((s.resetAll .cold 0).bx3Is []).onBoard (fun b => { b with powerGood := false })).onBoot
      (fun b => { b with phase := .unpowered })) := by
    show execPowerGoodFall s = _
    rw [execPowerGoodFall, beq_false_of_ne h, if_neg Bool.false_ne_true, hout, hnil]
  obtain ⟨h1, h2, h3, h4, h5, h6, h7, h8, h9, h10, h11, h12, h13, h14, h15⟩ := resetAll_cold_emptied s 0
  exact ⟨_, hexec, rfl, ⟨h1, h2, h3, h4, h5, h6, h7, h8, h9, h10, h11, h12, h13, h14, h15⟩, resetAll_cold_fields s 0, rfl, rfl, rfl, rfl, rfl, rfl⟩

/-! ## Boundary scan -/

/-- Bits of a number built cell by cell. -/
theorem testBit_cells (f : Nat → Bool) (n : Nat) :
    (List.range n).foldl (fun a k => a + b2n (f k) * 2 ^ k) 0 < 2 ^ n ∧
    ∀ k, k < n → ((List.range n).foldl (fun a k => a + b2n (f k) * 2 ^ k) 0).testBit k = f k := by
  induction n with
  | zero => exact ⟨Nat.one_pos, fun k hk => absurd hk (Nat.not_lt_zero k)⟩
  | succ n ih =>
    obtain ⟨hlt, hbit⟩ := ih
    rw [List.range_succ, List.foldl_append, List.foldl_cons, List.foldl_nil]
    generalize (List.range n).foldl (fun a k => a + b2n (f k) * 2 ^ k) 0 = a at hlt hbit
    have hsum : a + b2n (f n) * 2 ^ n = 2 ^ n * b2n (f n) + a := by rw [Nat.add_comm, Nat.mul_comm]
    have hone : b2n (f n) ≤ 1 := by unfold b2n; split <;> decide
    refine ⟨?_, fun k hk => ?_⟩
    · have := Nat.mul_le_mul_right (2 ^ n) hone
      rw [Nat.pow_succ]
      omega
    · rw [hsum, Nat.testBit_two_pow_mul_add _ hlt]
      split
      · next hkn => exact hbit k hkn
      · next hkn =>
        have hkn : k = n := by omega
        rw [hkn, Nat.sub_self, b2n]
        cases f n <;> rfl

/-- A cell as a test finds it: the safe value of a driving cell, the level at the pin of an observing one. -/
theorem scanCapture_bit (s : State) {k : Nat} (h : k < 31) :
    s.scanCapture.getLsbD k = ((cellRun (k + 1)).bind (fun c => c.safe)).getD (s.cellLevel (k + 1)) := by
  obtain ⟨-, hbit⟩ := testBit_cells (fun k => ((cellRun (k + 1)).bind (fun c => c.safe)).getD (s.cellLevel (k + 1))) 31
  rw [State.scanCapture, BitVec.getLsbD_ofNat, hbit k h, decide_eq_true h, Bool.true_and]

/-- The cells of the board's pins, of the alert, of PEAT_PERST_N and of the transmitters' enable (R368). -/
theorem scanCapture_pins (s : State) : [0, 1, 2, 3, 4, 30].map (fun k => s.scanCapture.getLsbD k) =
    [s.board.pfailN, s.board.holdupOk, true, false, true, false] := by
  have hbit (k : Nat) (h : k < 31) := scanCapture_bit s h
  rw [List.map_cons, List.map_cons, List.map_cons, List.map_cons, List.map_cons, List.map_cons, List.map_nil, hbit 0 (by decide),
    hbit 1 (by decide), hbit 2 (by decide), hbit 3 (by decide), hbit 4 (by decide), hbit 30 (by decide)]
  rfl

theorem tapTestEntry_effect (h : s.powered = true) : Does .tapTestEntry s fun t =>
    t.boot.phase = .tapTest ∧ t.Emptied ∧ FieldsBut s.resetFields State.reset t ∧ t.mem = [] ∧ t.powered = false ∧
    [0, 1, 2, 3, 4, 30].map (fun k => t.bscan.getLsbD k) = [s.board.pfailN, s.board.holdupOk, true, false, true, false] := by
  have hexec : exec .tapTestEntry s = .next { (s.resetAll .cold 1).onBoot (fun b => { b with phase := .tapTest }) with
      freeCtr := (s.resetAll .cold 1).freeCtr + 32
      bscan := ((s.resetAll .cold 1).onBoot (fun b => { b with phase := .tapTest })).scanCapture } := by
    show execTapTestEntry s = _
    rw [execTapTestEntry, h, Bool.not_true, if_neg Bool.false_ne_true]
    generalize s.resetAll .cold 1 = u
    rfl
  obtain ⟨h1, h2, h3, h4, h5, h6, h7, h8, h9, h10, h11, h12, h13, h14, h15⟩ := resetAll_cold_emptied s 1
  refine ⟨_, hexec, rfl, ⟨h1, h2, h3, h4, h5, h6, h7, h8, h9, h10, h11, h12, h13, h14, h15⟩, resetAll_cold_fields s 1, rfl, rfl, ?_⟩
  refine (scanCapture_pins ((s.resetAll .cold 1).onBoot (fun b => { b with phase := .tapTest }))).trans ?_
  rw [State.onBoot_board, resetAll_board]

/-- Settles O6: each command comes to a cold reset, and a test's cells follow from their runs. -/
theorem powerAndTest : Obligations.PowerAndTest := by
  refine fun s => ⟨powerGoodRise_effect, powerGoodFall_effect, tapTestEntry_effect, fun h => ⟨_, ?_, resetAll_coldFrom s (by decide)⟩⟩
  show execTapTestExit s = _
  rw [execTapTestExit, h, bne_self_eq_false, if_neg Bool.false_ne_true]

end Sys2Proof.Machine
end

section
/-! PFAIL_N and HOLDUP_OK through the filter, and the end of the power-fail work (R38, R44 to R47, R207). -/
namespace Sys2Proof.Machine

variable {s t : State}

/-! ## What an operation leaves -/

/-- A component that is not named is unchanged. -/
theorem Only.same {ps : List Component} (h : Only ps s t) (p : Component) (hp : p ∉ ps) : p.same s t := (h p).resolve_left hp

theorem Keep.same {ps : Touch} (h : Keep ps s t) (p : Component) (hp : p ∉ ps.1) : p.same s t := h.only.same p hp

theorem inv_rising (h : s.Inv) : rising s.regs = true := rising_of_regsWf h.regs

/-! ## The board's pins -/

/-- CGM_CTL_BOARD_STATUS shows the filtered levels. -/
theorem boardSync_rd (h : s.Inv) :
    s.boardSync.rd Fld.ctlBoardStatus.pfailN = b2n s.board.pfailN ∧ s.boardSync.rd Fld.ctlBoardStatus.holdupOk = b2n s.board.holdupOk ∧
    s.boardSync.rd Fld.ctlBoardStatus.holdupLow = b2n (!s.board.holdupOk) := by
  have hb (b : Bool) : b2n b % 2 ^ 1 = b2n b := by cases b <;> rfl
  have h1 := (State.wrB_keep (has_all Fld.ctlBoardStatus.pfailN) s s.board.pfailN).inv h
  have h2 := (State.wrB_keep (has_all Fld.ctlBoardStatus.holdupOk) _ s.board.holdupOk).inv h1
  refine ⟨?_, ?_, ?_⟩
  · exact (rd_wr_apart _ _ _ (inv_rising h2) (by decide)).trans ((rd_wr_apart _ _ _ (inv_rising h1) (by decide)).trans
      ((rd_wr_same _ _ (inv_rising h) (by decide)).trans (hb _)))
  · exact (rd_wr_apart _ _ _ (inv_rising h2) (by decide)).trans ((rd_wr_same _ _ (inv_rising h1) (by decide)).trans (hb _))
  · exact (rd_wr_same _ _ (inv_rising h2) (by decide)).trans (hb _)

/-- The board changes and its status follows. -/
def State.boardTo (s : State) (f : Board → Board) : State := (s.onBoard f).boardSync

theorem boardTo_keep (s : State) (f : Board → Board) : Keep ([.board, .regs], 0x2c00000) s (s.boardTo f) :=
  .step (State.boardSync_keep _) (by decide) (.step (State.onBoard_keep s f) (by decide) (.refl _ s))

theorem boardTo_board (s : State) (f : Board → Board) : (s.boardTo f).board = f s.board := rfl

theorem boardTo_rd (h : s.Inv) (f : Board → Board) :
    (s.boardTo f).rd Fld.ctlBoardStatus.pfailN = b2n (f s.board).pfailN ∧
    (s.boardTo f).rd Fld.ctlBoardStatus.holdupOk = b2n (f s.board).holdupOk ∧
    (s.boardTo f).rd Fld.ctlBoardStatus.holdupLow = b2n (!(f s.board).holdupOk) :=
  boardSync_rd ((State.onBoard_keep s f).inv h)

theorem filtered_long {ns : Nat} (h : 1000 ≤ ns) : s.filtered ns = (true, s) := by
  rw [State.filtered, if_neg (by omega), if_pos h]

theorem filtered_short {ns : Nat} (h : ns < 200) : s.filtered ns = (false, s) := by rw [State.filtered, if_pos h]

/-! ## The power-fail work begins (R44, R207) -/

theorem peatErr_pfailAbort (s : State) : s.peatErr St.pfailAbort = s.raise Fld.peatErrStatus.pfailAbort := rfl

/-- Rewrites that the power failure ends set PFAIL_ABORT alone. -/
theorem flushFail_pfail_keep (s : State) :
    Keep ([.regs, .log, .peat, .cmd], 0x8000000000040000000000000) s (s.flushFail St.pfailAbort) := by
  unfold State.flushFail
  refine Keep.foldl ?_ fun t k => .step (State.ctxEnd_keep t k _ _ _) (by decide) (.refl _ t)
  rw [peatErr_pfailAbort]
  refine .step (State.raise_keep has_Fld_peatErrStatus_pfailAbort _) (by decide) ?_
  exact .step (State.onPeat_keep s _ (by exact fun _ h => h)) (by decide) (.refl _ s)

theorem flushPfail_fine_keep (s : State) : Keep ([.regs, .log, .peat, .cmd], 0x8000000000040000000000000) s s.flushPfail := by
  unfold State.flushPfail
  refine Keep.foldl ?_ fun t k => .step (State.ctxEnd_keep t k _ _ _) (by decide) (.refl _ t)
  refine .step (State.onPeat_keep _ _ fun _ h => h) (by decide) (Keep.ite (flushFail_pfail_keep s) (.refl _ s))

/-- What follows the start of the power-fail work: a record, the drain halted, rewrites ended, a notice. -/
theorem pfailWork_keep (s : State) : Keep ([.regs, .log, .peat, .cmd, .freeCtr, .outbox], 0x8000000000040000000000000) s
    ((s.logFw Kind.power 0 Unit'.ctl).drainHalt.flushPfail.notice 1 0 0 0 0 0) :=
  .step (State.notice_keep ..) (by decide) (.step (flushPfail_fine_keep _) (by decide)
    (.step (State.drainHalt_keep _) (by decide) (.step (State.logFw_keep s _ _ _) (by decide) (.refl _ s))))

theorem pfailBegin_board (s : State) : s.pfailBegin.board = { s.board with pfWork := true, pfHold := false, pfStart := s.now } :=
  (pfailWork_keep _).same .board (by decide)

theorem pfailBegin_fine_keep (s : State) :
    Keep ([.board, .regs, .log, .peat, .cmd, .freeCtr, .outbox], 0x8000000000040000004000000) s s.pfailBegin :=
  .step (pfailWork_keep _) (by decide) (.step (keep_board _ _) (by decide)
    (.step (State.raise_keep has_Fld_ctlBoardStatus_pfailSeen s) (by decide) (.refl _ s)))

theorem pfailBegin_seen (h : s.Inv) : s.pfailBegin.rd Fld.ctlBoardStatus.pfailSeen = 1 := by
  have hr := State.raise_keep (has_all Fld.ctlBoardStatus.pfailSeen) s
  refine ((pfailWork_keep _).rd ((keep_board _ _).inv (hr.inv h)) (by decide +kernel)).trans ?_
  exact rd_wr_same _ 1 (inv_rising h) (by decide)

/-! ## The pins' commands -/

theorem pfailNAssert_effect {ns : Nat} (h : s.Inv) (hp : s.powered = true) (hns : 1000 ≤ ns) (hn : s.board.pfailN = true) :
    Does (.pfailNAssert ns) s fun t =>
      t.rd Fld.ctlBoardStatus.pfailN = 0 ∧
      (s.awake = true → t.board = { s.board with pfailN := false, pfWork := true, pfHold := false, pfStart := s.now } ∧
        t.rd Fld.ctlBoardStatus.pfailSeen = 1 ∧
        Changes [.board, .regs, .log, .peat, .cmd, .freeCtr, .outbox]
          (boardPins ++ [Fld.ctlBoardStatus.pfailSeen, Fld.ctlErrlog.head, Fld.peatErrStatus.pfailAbort]) s t) ∧
      (s.awake = false → t.board = { s.board with pfailN := false } ∧ Changes [.board, .regs] boardPins s t) := by
  have hto := (boardTo_keep s (fun b => { b with pfailN := false })).inv h
  have hkeep := boardTo_keep s (fun b => { b with pfailN := false })
  obtain ⟨hlow, -, -⟩ := boardTo_rd h (fun b => { b with pfailN := false })
  have hexec : exec (.pfailNAssert ns) s = if s.awake then .next (s.boardTo (fun b => { b with pfailN := false })).pfailBegin
      else .next (s.boardTo (fun b => { b with pfailN := false })) := by
    show execPfailNAssert ns s = _
    simp only [execPfailNAssert, hp, filtered_long hns, hn, Bool.not_true, Bool.false_eq_true, if_false, Bool.or_self]
    rfl
  cases ha : s.awake with
  | true =>
    rw [ha, if_pos rfl] at hexec
    have hbegin := pfailBegin_fine_keep (s.boardTo (fun b => { b with pfailN := false }))
    refine ⟨_, hexec, (hbegin.rd hto (by decide +kernel)).trans hlow, fun _ => ⟨pfailBegin_board _, pfailBegin_seen hto, ?_⟩, nofun⟩
    have hall : Keep ([.board, .regs, .log, .peat, .cmd, .freeCtr, .outbox], 0x8000000000040000006c00000) s
        (s.boardTo (fun b => { b with pfailN := false })).pfailBegin := .step hbegin (by decide) (.step hkeep (by decide) (.refl _ s))
    exact .of_keep hall h (by decide +kernel)
  | false =>
    rw [ha, if_neg Bool.false_ne_true] at hexec
    exact ⟨_, hexec, hlow, nofun, fun _ => ⟨rfl, .of_keep hkeep h (by decide +kernel)⟩⟩

theorem pfailNDeassert_effect {ns : Nat} (h : s.Inv) (hp : s.powered = true) (hns : 1000 ≤ ns) (hn : s.board.pfailN = false) :
    Does (.pfailNDeassert ns) s fun t =>
      t.rd Fld.ctlBoardStatus.pfailN = 1 ∧ Changes [.board, .regs] (boardPins ++ [Fld.ctlBoardStatus.pfailCleared]) s t ∧
      t.board.pfailN = true ∧ t.board.pfHighSince = s.now ∧ t.board.pfWork = s.board.pfWork ∧
      (s.awake = true → (s.board.pfWork || s.board.pfHold) = true → t.board.pfHold = true ∧ t.rd Fld.ctlBoardStatus.pfailCleared = 1) := by
  have hkeep := boardTo_keep s (fun b => { b with pfailN := true, pfHighSince := s.now })
  obtain ⟨hhigh, -, -⟩ := boardTo_rd h (fun b => { b with pfailN := true, pfHighSince := s.now })
  have hexec : exec (.pfailNDeassert ns) s =
      if s.awake && (s.board.pfWork || s.board.pfHold) then
        .next (((s.boardTo (fun b => { b with pfailN := true, pfHighSince := s.now })).onBoard (fun b => { b with pfHold := true })).raise
          Fld.ctlBoardStatus.pfailCleared)
      else .next (s.boardTo (fun b => { b with pfailN := true, pfHighSince := s.now })) := by
    show execPfailNDeassert ns s = _
    simp only [execPfailNDeassert, hp, filtered_long hns, hn, Bool.not_true, Bool.false_eq_true, if_false, Bool.or_self]
    rfl
  cases ha : (s.awake && (s.board.pfWork || s.board.pfHold)) with
  | true =>
    rw [ha, if_pos rfl] at hexec
    have hto : Keep ([.board, .regs], 0x2c00000) s
        ((s.boardTo (fun b => { b with pfailN := true, pfHighSince := s.now })).onBoard (fun b => { b with pfHold := true })) :=
      .step (keep_board _ _) (by decide) hkeep
    have hall := Keep.step (ps := ([.board, .regs], 0x3c00000)) (State.raise_keep has_Fld_ctlBoardStatus_pfailCleared _) (by decide)
      (.step hto (by decide) (.refl _ s))
    refine ⟨_, hexec, ?_, .of_keep hall h (by decide +kernel), rfl, rfl, rfl, fun _ _ => ⟨rfl, rd_wr_same _ 1 (inv_rising (hto.inv h)) (by decide)⟩⟩
    exact (rd_wr_apart _ _ _ (inv_rising (hto.inv h)) (by decide)).trans hhigh
  | false =>
    rw [ha, if_neg Bool.false_ne_true] at hexec
    refine ⟨_, hexec, hhigh, .of_keep hkeep h (by decide +kernel), rfl, rfl, rfl, fun hw hs => ?_⟩
    rw [hw, hs] at ha
    cases ha

/-- A record whose DETAIL the firmware defines advances HEAD. -/
theorem logFw_head (h : s.Inv) (kind : Nat) (st : Status) (unit : Nat) :
    (s.logFw kind st unit).rd Fld.ctlErrlog.head = (s.rd Fld.ctlErrlog.head + 1) % 2 ^ 16 :=
  rd_wr_same (s := { s with freeCtr := s.freeCtr + 1, log := _ }) Fld.ctlErrlog.head _ (rising_of_regsWf h.regs) (by decide)

theorem holdupOkChange_effect {ns : Nat} (h : s.Inv) (hp : s.powered = true) {level : Bool} (hns : 1000 ≤ ns) (hl : s.board.holdupOk ≠ level) :
    Does (.holdupOkChange level ns) s fun t =>
      t.board = { s.board with holdupOk := level } ∧ t.rd Fld.ctlBoardStatus.holdupOk = b2n level ∧
      t.rd Fld.ctlBoardStatus.holdupLow = b2n (!level) ∧ Changes [.board, .regs, .log, .freeCtr] (boardPins ++ [Fld.ctlErrlog.head]) s t ∧
      t.rd Fld.ctlErrlog.head = (s.rd Fld.ctlErrlog.head + 1) % 2 ^ 16 := by
  have hto := (boardTo_keep s (fun b => { b with holdupOk := level })).inv h
  have hkeep := boardTo_keep s (fun b => { b with holdupOk := level })
  obtain ⟨-, hok, hlow⟩ := boardTo_rd h (fun b => { b with holdupOk := level })
  have hlog := State.logFw_keep (s.boardTo (fun b => { b with holdupOk := level })) Kind.power 0 Unit'.ctl
  have hexec : exec (.holdupOkChange level ns) s = .next ((s.boardTo (fun b => { b with holdupOk := level })).logFw Kind.power 0 Unit'.ctl) := by
    show execHoldupOkChange level ns s = _
    simp only [execHoldupOkChange, hp, filtered_long hns, beq_false_of_ne hl, Bool.not_true, Bool.false_eq_true, if_false, Bool.or_self]
    rfl
  have hall : Keep ([.board, .regs, .log, .freeCtr], 0x40000002c00000) s _ := .step hlog (by decide) (.step hkeep (by decide) (.refl _ s))
  refine ⟨_, hexec, hlog.same .board (by decide), (hlog.rd hto (by decide +kernel)).trans hok, (hlog.rd hto (by decide +kernel)).trans hlow,
    .of_keep hall h (by decide +kernel), (logFw_head hto _ _ _).trans ?_⟩
  rw [hkeep.rd h (by decide +kernel)]

/-- A level that lasts less than 200 ns changes nothing (R38). -/
theorem shortLevel_exec {ns : Nat} (hp : s.powered = true) (hns : ns < 200) : exec (.pfailNAssert ns) s = .next s ∧
    exec (.pfailNDeassert ns) s = .next s ∧ ∀ level : Bool, exec (.holdupOkChange level ns) s = .next s := by
  refine ⟨?_, ?_, fun level => ?_⟩
  · show execPfailNAssert ns s = _
    rw [execPfailNAssert, hp, filtered_short hns]
    rfl
  · show execPfailNDeassert ns s = _
    rw [execPfailNDeassert, hp, filtered_short hns]
    rfl
  · show execHoldupOkChange level ns s = _
    rw [execHoldupOkChange, hp, filtered_short hns]
    rfl

/-! ## The hold's expiry (R45) -/

theorem pfailHoldExpiry_effect (h : s.Inv) (ha : s.awake = true) (hh : s.board.pfHold = true) (hw : s.board.pfWork = false)
    (hn : s.board.pfailN = true) (he : s.board.pfHighSince + msTicks 10 ≤ s.now) : DoesThen .pfailHoldExpiry s fun t =>
      t.board = { s.board with pfHold := false, pfWaitInterval := true } ∧
      Changes [.board, .regs, .log, .cmd, .freeCtr] [Fld.ctlErrlog.head] s t := by
  obtain ⟨t, hdo, hkeep⟩ := doPfailHoldExpiry_keep s
  have hel : s.elapsed s.board.pfHighSince (msTicks 10) = true := decide_eq_true he
  have hval : doPfailHoldExpiry s =
      .next (((s.onBoard (fun b => { b with pfHold := false, pfWaitInterval := true })).logFw Kind.power 0 Unit'.ctl).flushCheck) := by
    simp only [doPfailHoldExpiry, ha, hh, hw, hn, hel]
    rfl
  refine .of_settled (t := t) (congrArg settled hdo) ⟨?_, .of_keep hkeep h (by decide +kernel)⟩
  cases hdo.symm.trans hval
  exact ((State.flushCheck_keep _).same .board (by decide)).trans ((State.logFw_keep _ _ _ _).same .board (by decide))

/-! ## The limits (R207) -/

theorem ctxEnd_foldl_peat (l : List Nat) (st : Status) (s : State) : (l.foldl (fun s k => s.ctxEnd k st 0 0) s).peat = s.peat :=
  (Keep.foldl (ps := ([.regs, .log, .cmd], 0x40000000000000)) (.refl _ s) fun t k => State.ctxEnd_keep t k st 0 0).same .peat (by decide)

/-- An idling port runs no other drain than before. -/
theorem peatIdle_drain (s : State) : s.peatIdle.peat.drain = s.peat.drain := by
  unfold State.peatIdle
  split
  · rfl
  · exact (congrArg Peat.drain (ctxEnd_foldl_peat _ _ _)).trans rfl

theorem untake_drain (s : State) (d : Drain) : (s.untake d).peat.drain = s.peat.drain := by
  unfold State.untake
  split <;> rfl

/-- Once a drain has failed none runs (R204). -/
theorem drainFail_drain {d : Drain} (hd : s.peat.drain = some d) (st : Status) : (s.drainFail d.seq st).peat.drain = none := by
  unfold State.drainFail
  simp only [hd, beq_self_eq_true, if_true]
  rw [peatIdle_drain]
  generalize hu : State.mapDrop _ _ = u
  have hnone : u.peat.drain = none := by
    rw [← hu, (State.mapDrop_keep _ _).same .peat (by decide), untake_drain]
    rfl
  have hend : ((((u.raise Fld.peatErrStatus.drainFail).peatErr st).logAbort Unit'.peat 0 d.seq.toNat 0 st).drainEnd d.seq st 0).peat = u.peat :=
    calc _ = (((u.raise Fld.peatErrStatus.drainFail).peatErr st).logAbort Unit'.peat 0 d.seq.toNat 0 st).peat :=
        (State.drainEnd_keep ..).same .peat (by decide)
      _ = ((u.raise Fld.peatErrStatus.drainFail).peatErr st).peat := (State.logAbort_keep ..).same .peat (by decide)
      _ = u.peat := (State.peatErr_keep ..).same .peat (by decide)
  rw [hend, hnone]

/-- A passed limit as the command takes it: a drain in one of its phases fails. -/
def State.limitFails (s : State) (l : List DrainStep) : State :=
  match s.peat.drain with
  | some d => if l.contains d.step then s.drainFail d.seq St.pfailAbort else s
  | none => s

theorem limitFails_none (h : s.peat.drain = none) (l : List DrainStep) : s.limitFails l = s := by rw [State.limitFails, h]

theorem limitFails_other {d : Drain} (h : s.peat.drain = some d) {l : List DrainStep} (hl : d.step ∉ l) : s.limitFails l = s := by
  simp [State.limitFails, h, hl]

theorem limitFails_drain {d : Drain} (h : s.peat.drain = some d) {l : List DrainStep} (hl : d.step ∈ l) :
    (s.limitFails l).peat.drain = none := by
  simp only [State.limitFails, h, List.contains_iff_mem.2 hl, if_true]
  exact drainFail_drain h _

/-- What each limit does once it has passed (R207). -/
def State.limitDone (s : State) : PfailLimit → State
  | .dataWrites => s.limitFails [.reservation, .writes]
  | .flush => s.limitFails [.flush]
  | .catalogue => s
  | .done => (s.limitFails [.reservation, .writes, .flush]).onBoard (fun b => { b with pfWork := false, pfHold := true })

theorem exec_powerFailDeadline {l : PfailLimit} (h : s.pfPast l = true) : exec (.powerFailDeadline l) s = settled (.next (s.limitDone l)) := by
  show settled (doPowerFailDeadline l s) = _
  rw [doPowerFailDeadline, h, Bool.not_true, if_neg Bool.false_ne_true]
  cases l <;> rfl

theorem powerFailDone_effect (h : s.pfPast .done = true) : DoesThen (.powerFailDeadline .done) s fun t =>
    t.board.pfWork = false ∧ t.board.pfHold = true ∧
    (s.peat.drain = none → t.board = { s.board with pfWork := false, pfHold := true } ∧ Changes [.board] [] s t) ∧
    (∀ d, s.peat.drain = some d → d.step ≠ .catalogue → t.peat.drain = none) := by
  refine .of_settled (exec_powerFailDeadline h) ⟨rfl, rfl, fun hn => ?_, fun d hd hs => limitFails_drain hd ?_⟩
  · rw [State.limitDone, limitFails_none hn]
    exact ⟨rfl, .of_only (State.onBoard_keep s _).only rfl⟩
  · cases hstep : d.step with
    | catalogue => exact absurd hstep hs
    | reservation | writes | flush => decide

theorem powerFailPhase_effect {l : PfailLimit} (h : s.pfPast l = true) {d : Drain} (hd : s.peat.drain = some d) {steps : List DrainStep}
    (hl : s.limitDone l = s.limitFails steps) :
    (d.step ∈ steps → DoesThen (.powerFailDeadline l) s fun t => t.peat.drain = none) ∧
    (d.step ∉ steps → DoesThen (.powerFailDeadline l) s fun t => t = s) :=
  ⟨fun hm => .of_settled (exec_powerFailDeadline h) (hl ▸ limitFails_drain hd hm),
   fun hm => .of_settled (exec_powerFailDeadline h) (hl ▸ limitFails_other hd hm)⟩

/-- Settles O8: the pins by the filter and the board's update, the limits by the drain that they fail. -/
theorem powerFail : Obligations.PowerFail := by
  refine ⟨fun s ns hi hp => ⟨pfailNAssert_effect hi hp, pfailNDeassert_effect hi hp, fun level => holdupOkChange_effect hi hp, shortLevel_exec hp⟩,
    fun s hi => ⟨pfailHoldExpiry_effect hi, powerFailDone_effect, fun h d hd => ?_, fun h d hd hs => ?_,
      fun h => .of_settled (exec_powerFailDeadline h) rfl⟩⟩
  · obtain ⟨hin, hout⟩ := powerFailPhase_effect h hd (steps := [.reservation, .writes]) rfl
    refine ⟨fun hs => hin (by simpa using hs), fun hs => hout ?_⟩
    rcases hs with hs | hs <;> rw [hs] <;> decide
  · exact (powerFailPhase_effect h hd (steps := [.flush]) rfl).1 (by simp [hs])

end Sys2Proof.Machine
end

section
/-! What every slice checks of an engine frame before its own command sees it (R51, R54, R78, R111, R112). -/
namespace Sys2Proof.Machine

variable {s t : State}

/-! ## Counters -/

theorem wr_changes (h : s.Inv) (f : Fld) (v : Nat) : Changes [.regs] [f] s (s.wr f v) :=
  ⟨only_regs s _, .wr (.refl _ s) (inv_rising h) List.mem_cons_self v⟩

theorem bump_changes (h : s.Inv) (f : Fld) (k : Nat) : Changes [.regs] [f] s (s.bump f k) := wr_changes h f _

/-- A saturating counter counts up to its largest value. -/
theorem bump_rd (h : s.Inv) {f : Fld} (k : Nat) (hf : f.lo + f.len ≤ 64) : (s.bump f k).rd f = min (s.rd f + k) (2 ^ f.len - 1) := by
  have hlt : min (s.rd f + k) (2 ^ f.len - 1) < 2 ^ f.len := by
    have := Nat.two_pow_pos f.len
    omega
  exact (rd_wr_same f _ (inv_rising h) hf).trans (Nat.mod_eq_of_lt hlt)

theorem bump_inv (h : s.Inv) (f : Fld) (k : Nat) : (s.bump f k).Inv := (State.bump_keep (has_all f) s k).inv h

/-! ## The checks -/

variable {n : Nat} {ty : BitVec 8} {f : Frame} {act bad : State → State}

/-- The slice is open in an engine that hears frames, and the link has a credit for the frame. -/
def State.admits (s : State) (n : Nat) (ty : BitVec 8) (f : Frame) : Bool := s.hw && s.isOpen n && s.credit n ty f

theorem recv_refused (h : s.admits n ty f = false) : s.recv n ty f act bad = s := by
  unfold State.recv
  refine if_pos ?_
  rw [State.admits] at h
  cases h1 : (s.hw && s.isOpen n) <;> simp_all

theorem recv_admitted (h : s.admits n ty f = true) : s.recv n ty f act bad =
    if Frame.crcOf ty f != f.crc then bad (s.bump (Fld.lnkDrop.crc n))
    else if f.rsv != 0 || Frame.tooLong ty f then s.bump (Fld.lnkDrop.stale n) else act s := by
  unfold State.recv
  refine if_neg ?_
  rw [State.admits] at h
  simp_all

theorem recv_badCrc (h : s.admits n ty f = true) (hc : Frame.crcOf ty f ≠ f.crc) :
    s.recv n ty f act bad = bad (s.bump (Fld.lnkDrop.crc n)) := by
  rw [recv_admitted h, if_pos (bne_iff_ne.2 hc)]

theorem recv_stale (h : s.admits n ty f = true) (hc : Frame.crcOf ty f = f.crc) (hs : f.rsv ≠ 0 ∨ Frame.tooLong ty f = true) :
    s.recv n ty f act bad = s.staleAt n := by
  have hor : (f.rsv != 0 || Frame.tooLong ty f) = true := by simpa using hs
  rw [recv_admitted h, hc, bne_self_eq_false, if_neg Bool.false_ne_true, if_pos hor, State.staleAt]

theorem State.hears_iff {n : Fin 42} : s.hears n ty f = true ↔
    s.admits n ty f = true ∧ Frame.crcOf ty f = f.crc ∧ f.rsv = 0 ∧ Frame.tooLong ty f = false := by
  simp [State.hears, State.admits, and_assoc]

/-- What passes every check comes to the frame's own command. -/
theorem recv_hears {n : Fin 42} (h : s.hears n ty f = true) : s.recv n ty f act bad = act s := by
  obtain ⟨ha, hc, hr, hl⟩ := State.hears_iff.1 h
  rw [recv_admitted ha, hc, bne_self_eq_false, hr, hl]
  rfl

/-- A frame that is dropped and counted as stale (R111). -/
theorem staleAt_stale (h : s.Inv) (n : Fin 42) : Stale n s (s.staleAt n) :=
  ⟨bump_rd h 1 (by show 0 + 32 ≤ 64; decide), bump_changes h _ 1⟩

/-! ## The commands that bring a frame -/

/-- A command hands the frame that it brings to the checks of its slice; `bad` is what a wrong CRC brings besides. -/
def Receives (c : Instr) (s : State) (n : Fin 42) (ty : BitVec 8) (f : Frame) (bad : State → State) : Prop :=
  ∃ act, exec c s = .next (s.recv n ty f act bad) ∨ exec c s = settled (.next (s.recv n ty f act bad))

theorem Receives.ends {c : Instr} {n : Fin 42} {P : State → Prop} (h : Receives c s n ty f bad)
    (hP : ∀ act, P (s.recv n ty f act bad)) : Ends c s P := by
  obtain ⟨act, h | h⟩ := h
  · exact ⟨_, .inl h, fun _ => h, hP act⟩
  · exact ⟨_, .inr h, fun hq => h.trans (settled_of_quiet hq), hP act⟩

/-- Types of which a wrong CRC brings more than a count (R103, R111, R240). -/
def crcTypes : List (BitVec 8) := [Ty.partial', Ty.resultCopy, Ty.allGather, Ty.fetchData, Ty.refillData]

/-- A command checks its frame first; a wrong CRC brings more for a few types alone, and never changes the slice's CRC count. -/
def ChecksFirst (c : Instr) (s : State) (n : Fin 42) (ty : BitVec 8) (f : Frame) : Prop :=
  ∃ bad, Receives c s n ty f bad ∧ (ty ∉ crcTypes → bad = id) ∧
    ∀ u : State, u.Inv → (bad u).rd (Fld.lnkDrop.crc n) = u.rd (Fld.lnkDrop.crc n)

theorem ChecksFirst.direct {c : Instr} {n : Fin 42} (h : exec c s = .next (s.recv n ty f act)) : ChecksFirst c s n ty f :=
  ⟨id, ⟨act, .inl h⟩, fun _ => rfl, fun _ _ => rfl⟩

theorem ChecksFirst.settling {c : Instr} {n : Fin 42} (h : exec c s = settled (.next (s.recv n ty f act))) : ChecksFirst c s n ty f :=
  ⟨id, ⟨act, .inr h⟩, fun _ => rfl, fun _ _ => rfl⟩

theorem bucketBadCrc_rd_crc (n : Fin 42) (f : Frame) (u : State) (h : u.Inv) :
    (u.bucketBadCrc f).rd (Fld.lnkDrop.crc n) = u.rd (Fld.lnkDrop.crc n) :=
  (State.bucketBadCrc_keep u f).rd h (by revert n; decide +kernel)

/-- A data frame of a bucket: a wrong CRC aborts the transfer that it names (R103). -/
theorem ChecksFirst.ofBucket {c : Instr} {n : Fin 42}
    (h : exec c s = settled (.next (s.recv n ty f act (fun s => s.bucketBadCrc f)))) (hty : ty ∈ crcTypes) : ChecksFirst c s n ty f :=
  ⟨_, ⟨act, .inr h⟩, fun hn => absurd hty hn, bucketBadCrc_rd_crc n f⟩

theorem refillData_checksFirst (n : Fin 42) (f : Frame) (s : State) : ChecksFirst (.refillData n f) s n Ty.refillData f := by
  refine ⟨_, ⟨_, .inl rfl⟩, fun hn => absurd (by decide) hn, fun u hu => ?_⟩
  show State.rd (if u.fromProv f then _ else u) _ = _
  split
  · exact (State.switchInputs_keep u _).rd hu (by revert n; decide +kernel)
  · rfl

/-- Every command that brings a frame checks it first. -/
theorem frame_checksFirst {c : Instr} {x : Fin 42 × BitVec 8 × Frame} (h : frameOf c = some x) (s : State) :
    ChecksFirst c s x.1 x.2.1 x.2.2 := by
  cases c with
  | reducePartialFrame n f | resultCopyFrame n f | allGatherDataFrame n f | fetchDataFrame n f =>
    cases h
    exact .ofBucket rfl (by simp [crcTypes])
  | refillData n f =>
    cases h
    exact refillData_checksFirst n f s
  | fetchRequestFrame n f | bucketAbortNotice n f | dropNotice n f | cutReply n f | keepReport n f | digestFrame n f | heartbeatFrame n f
  | engineNotice n f | halt n f | candidate n f | fenceFrame n f | barrierArrivalFrame n f | treeArrivalUp n f | treeCompletion n f
  | barrierAbortFrame n f =>
    cases h
    exact .settling rfl
  | cutNotice n f | feltData n f | feltAck n f | setRelease n f | supplyQuery n f | refillRequest n f | refillAck n f | remoteWrite n f
  | remoteSignal n f | commandRelay n f | completionRelay n f | relayData n f | candidacy n f | claim n f =>
    cases h
    exact .direct rfl
  | timeProbe n f p | probeResponse n f p | followUp n f p =>
    cases h
    exact .direct rfl
  | _ => cases h

/-- Settles O14: the three ways in which the checks of a slice end before its command. -/
theorem frameChecks : Obligations.FrameChecks := by
  intro c s hi x hx
  obtain ⟨bad, hr, hid, hcrc⟩ := frame_checksFirst hx s
  refine ⟨fun hh => hr.ends fun _ => recv_refused hh, fun hh hc => hr.ends fun _ => ?_, fun hh hc hs => hr.ends fun _ => ?_⟩
  · rw [recv_badCrc hh hc]
    refine ⟨(hcrc _ (bump_inv hi _ 1)).trans (bump_rd hi 1 (by show 32 + 16 ≤ 64; decide)), fun hty => ?_⟩
    rw [hid hty]
    exact bump_changes hi _ 1
  · rw [recv_stale hh hc hs]
    exact staleAt_stale hi x.1

end Sys2Proof.Machine
end

section
/-! Time probes and the timestamp log (R54, R287 to R289). -/
namespace Sys2Proof.Machine

variable {s t u : State}

/-! ## The timestamp log -/

theorem rd_congr (h : t.regs = s.regs) (f : Fld) : t.rd f = s.rd f := by rw [State.rd, State.getReg, h, State.rd, State.getReg]

/-- Between two states `k` entries of the timestamp log were written: HEAD has advanced where TSLOG_EN is 1, and one entry changes its
32 bytes alone. -/
def State.Logged (s : State) (k : Nat) (t : State) : Prop :=
  t.rd Fld.timTslogHead.head = (s.rd Fld.timTslogHead.head + k * b2n (s.rdB Fld.timCtrl.tslogEn)) % 2 ^ 48 ∧
  Only [.regs, .mem, .tim, .outbox] s t ∧ FieldsBut [Fld.timTslogHead.head] s t ∧ (s.rdB Fld.timCtrl.tslogEn = false → t.mem = s.mem) ∧
  (k = 1 → BytesBut (s.rdAddr Fld.timTslog.base + s.rd Fld.timTslogHead.head % 2 ^ (s.rd Fld.timTslog.sizeLog2 + 8) * 32) 32 s t)

/-- Registers and memory are the same. -/
theorem State.Logged.after {k : Nat} (h : s.Logged k u) (ho : Only [.tim, .outbox] u t) : s.Logged k t := by
  obtain ⟨hhead, honly, hfld, hmem, hbytes⟩ := h
  have hr : t.regs = u.regs := ho.same .regs (by decide)
  have hm : t.mem = u.mem := ho.same .mem (by decide)
  refine ⟨(rd_congr hr _).trans hhead, ho.step (by decide) honly, hfld.trans (.of_regs hr), fun hoff => hm.trans (hmem hoff), fun hk b => ?_⟩
  rw [hm]
  exact hbytes hk b

theorem State.Logged.before {k : Nat} (ho : Only [.tim, .outbox] s u) (h : u.Logged k t) : s.Logged k t := by
  obtain ⟨hhead, honly, hfld, hmem, hbytes⟩ := h
  have hr : u.regs = s.regs := ho.same .regs (by decide)
  have hm : u.mem = s.mem := ho.same .mem (by decide)
  have hs : Only [.regs, .mem, .tim, .outbox] s u := ho.step (by decide) (.refl _ s)
  simp only [State.rdB, State.rdAddr, rd_congr hr] at hhead hmem hbytes
  refine ⟨hhead, honly.step (fun _ => id) hs, (FieldsBut.of_regs hr).trans hfld, fun hoff => (hmem hoff).trans hm, fun hk b => ?_⟩
  rw [← hm]
  exact hbytes hk b

/-- Two entries, one after the other. -/
theorem State.Logged.twice (h1 : s.Logged 1 u) (h2 : u.Logged 1 t) : s.Logged 2 t := by
  obtain ⟨hhead1, honly1, hfld1, hmem1, -⟩ := h1
  obtain ⟨hhead2, honly2, hfld2, hmem2, -⟩ := h2
  have hon : u.rdB Fld.timCtrl.tslogEn = s.rdB Fld.timCtrl.tslogEn := by rw [State.rdB, hfld1.rd (by decide), State.rdB]
  rw [hon] at hhead2 hmem2
  refine ⟨?_, honly2.step (fun _ => id) honly1, hfld1.trans hfld2, fun hoff => (hmem2 hoff).trans (hmem1 hoff), nofun⟩
  rw [hhead2, hhead1, Nat.mod_add_mod]
  congr 1
  omega

/-- An entry of the log (R289). -/
theorem tslog_logged (h : s.Inv) (a : Stamp) (tx : Bool) {n : Nat} {ty : BitVec 8} {rack : BitVec 10} {pos : BitVec 7} {seq : W32}
    {pay : List Byte} : s.Logged 1 (s.tslog a tx n ty rack pos seq pay) := by
  unfold State.tslog
  cases hon : s.rdB Fld.timCtrl.tslogEn with
  | false =>
    refine ⟨?_, .refl _ s, .refl _ s, fun _ => rfl, fun _ => .refl _ _ s⟩
    rw [hon]
    exact (Nat.mod_eq_of_lt (bits_lt _ _ _)).symm
  | true =>
    rw [Bool.not_true, if_neg Bool.false_ne_true]
    dsimp only
    generalize he : leBytes 8 _ ++ _ ++ _ ++ _ ++ _ ++ _ ++ _ ++ _ ++ _ ++ _ ++ _ = e
    have hlen : e.length = 32 := by
      rw [← he]
      split <;> rfl
    refine ⟨?_, ?_, ?_, fun hoff => ?_, fun _ => BytesBut.store' s e (Nat.le_of_eq hlen)⟩
    · rw [hon]
      exact rd_wr_same (s := s.store' _ e) Fld.timTslogHead.head _ (rising_of_regsWf h.regs) (by decide)
    · exact (only_regs _ _).step (by decide) ((State.store'_keep s _ e).only.step (by decide) (.refl _ s))
    · exact FieldsBut.wr (t := s.store' _ e) (.of_regs rfl) (rising_of_regsWf h.regs) List.mem_cons_self _
    · rw [hon] at hoff
      cases hoff

/-! ## A frame on a slice -/

/-- A frame as the engine sends it: its own place, and the check value (R112). -/
def State.stamped (s : State) (ty : BitVec 8) (f : Frame) : Frame :=
  { f with srcPos := s.myPos, srcRack := s.myRack, crc := Frame.crcOf ty { f with srcPos := s.myPos, srcRack := s.myRack } }

/-- A slice sends when it is open, and a frame for which the manual names no port when some slice is (R51, R54). -/
def State.sends (s : State) (slice : Option Nat) : Bool := slice.elim s.anyOpen s.isOpen

theorem send_outbox (s : State) (slice : Option Nat) (d : Dest) (ty : BitVec 8) (f : Frame) (l : Nat) : (s.send slice d ty f l).outbox =
    s.outbox ++ if s.sends slice then [{ slice := slice, dest := d, ty := ty, frame := s.stamped ty f, leaf := l }] else [] := by
  have hsend : s.send slice d ty f l = if s.sends slice then
      { s with outbox := s.outbox ++ [{ slice := slice, dest := d, ty := ty, frame := s.stamped ty f, leaf := l }] } else s := by
    cases slice <;> rfl
  rw [hsend]
  cases s.sends slice
  · exact (List.append_nil _).symm
  · rfl

/-- What a frame handed to an egress looks like depends on the slices, on what waits there and on the engine's place alone. -/
theorem send_outbox_congr (hs : t.slices = s.slices) (ho : t.outbox = s.outbox) (hr : t.myRack = s.myRack) (hp : t.myPos = s.myPos)
    (n : Option Nat) (d : Dest) (ty : BitVec 8) (f : Frame) (l : Nat) : (t.send n d ty f l).outbox = (s.send n d ty f l).outbox := by
  have hopen : t.isOpen = s.isOpen := by
    funext m
    rw [State.isOpen, hs, State.isOpen]
  rw [send_outbox, send_outbox, State.sends, State.sends, State.anyOpen, State.anyOpen, hopen, ho, State.stamped, State.stamped, hr, hp]

theorem place_congr (h : FieldsBut [Fld.timTslogHead.head] s t) : t.myRack = s.myRack ∧ t.myPos = s.myPos := by
  simp only [State.myRack, State.myPos, h.rd (g := Fld.tierIdent.rack) (by decide), h.rd (g := Fld.tierIdent.position) (by decide), and_self]

theorem send_only (s : State) (n : Option Nat) (d : Dest) (ty : BitVec 8) (f : Frame) : Only [.tim, .outbox] s (s.send n d ty f) :=
  (State.send_keep s n d ty f 42).only.step (by decide) (.refl _ s)

/-- The frame of a probe, a response or a follow-up (R288). -/
def probeFrame (seq : W32) (domB : Bool) (pay : List Byte) : Frame := { seq := seq, hop := BitVec.ofNat 8 (b2n domB), payload := pay }

/-- A probe frame leaves on a slice that takes part, and its entry is logged. -/
theorem probeOut_effect (h : s.Inv) {n : Nat} (hp : s.takesPart n = true) (ty : BitVec 8) (rack : BitVec 10) (pos : BitVec 7) (seq : W32)
    (domB : Bool) (pay : List Byte) (phase : BitVec 14) :
    let t := s.probeOut n ty rack pos seq domB pay phase
    t.outbox = (s.send (some n) (.pos rack pos) ty (probeFrame seq domB pay)).outbox ∧ t.tim = s.tim ∧ s.Logged 1 t := by
  have hsend := State.send_keep s (some n) (.pos rack pos) ty (probeFrame seq domB pay) 42
  have hout : s.probeOut n ty rack pos seq domB pay phase =
      (s.send (some n) (.pos rack pos) ty (probeFrame seq domB pay)).tslog (s.txStamp n phase) true n ty rack pos seq pay := by
    rw [State.probeOut, hp, Bool.not_true, if_neg Bool.false_ne_true, probeFrame]
  dsimp only
  rw [hout]
  have hlog := State.tslog_keep (s.send (some n) (.pos rack pos) ty (probeFrame seq domB pay)) (s.txStamp n phase) true n ty rack pos seq pay
  exact ⟨hlog.same .outbox (by decide), Eq.trans (hlog.same .tim (by decide)) (hsend.same .tim (by decide)),
    .before (send_only s _ _ _ _) (tslog_logged (hsend.inv h) _ _)⟩

theorem probeOut_silent {n : Nat} (hp : s.takesPart n = false) (ty : BitVec 8) (rack : BitVec 10) (pos : BitVec 7) (seq : W32)
    (domB : Bool) (pay : List Byte) (phase : BitVec 14) : s.probeOut n ty rack pos seq domB pay phase = s := by
  rw [State.probeOut, hp, Bool.not_false, if_pos rfl]

/-! ## The commands -/

theorem timeProbeSend_effect (h : s.Inv) (hpw : s.powered = true) (v : W32) (phase : BitVec 14) :
    let n := bits v.toNat 0 6
    (s.takesPart n = true → s.present n = true → Does (.timeProbeSend v phase) s fun t =>
      t.outbox = (s.send (some n) (.pos (BitVec.ofNat 10 (bits v.toNat 13 10)) (BitVec.ofNat 7 (bits v.toNat 6 7))) Ty.probe
        (probeFrame (BitVec.ofNat 32 (bits v.toNat 23 8)) s.tim.activeB (zeros 16))).outbox ∧ t.tim = s.tim ∧ s.Logged 1 t) ∧
    (s.takesPart n = false → s.present n = true → Does (.timeProbeSend v phase) s fun t => t = s) ∧
    (s.present n = false → Does (.timeProbeSend v phase) s (AccessRefused s)) := by
  have hexec : exec (.timeProbeSend v phase) s = .next (s.probeWrite v.toNat phase) := by
    show execTimeProbeSend v phase s = _
    rw [execTimeProbeSend, hpw, Bool.not_true, if_neg Bool.false_ne_true]
  refine ⟨fun ht hp => ⟨_, hexec, ?_⟩, fun ht hp => ⟨_, hexec, ?_⟩, fun hp => ⟨_, hexec, ?_⟩⟩
  · simp only [State.probeWrite, hp, Bool.not_true, Bool.false_eq_true, if_false]
    exact probeOut_effect h ht _ _ _ _ _ _ _
  · simp only [State.probeWrite, hp, Bool.not_true, Bool.false_eq_true, if_false]
    exact probeOut_silent ht _ _ _ _ _ _ _
  · simp only [State.probeWrite, hp, Bool.not_false, if_true]
    exact accessError_refused h _ _ _

variable {n : Fin 42} {f : Frame} {phase : BitVec 14}

/-- A probe frame that a slice hears and takes part with is stamped and logged. -/
theorem probeIn_heard {ty : BitVec 8} (hl : f.payload.length = 16) (ht : s.takesPart n = true) (hh : s.hears n ty f = true)
    (act : Stamp → State → State) : s.probeIn n ty f phase act =
      act (s.rxStamp n phase) (s.tslog (s.rxStamp n phase) false n ty f.srcRack f.srcPos f.seq f.payload) := by
  rw [State.probeIn, recv_hears hh]
  simp [hl, ht]

theorem probeIn_silent {ty : BitVec 8} (hl : f.payload.length = 16) (ht : s.takesPart n = false) (hh : s.hears n ty f = true)
    (act : Stamp → State → State) : s.probeIn n ty f phase act = s := by
  rw [State.probeIn, recv_hears hh]
  simp [hl, ht]

/-- A stamp names the active domain. -/
theorem stamp_domB (s : State) (ps : Nat) : (s.stamp ps).domB = s.tim.activeB := by
  unfold State.stamp
  cases h : (s.dom s.tim.activeB).valid <;> simp [h]

/-- A response or a follow-up that arrives is only logged (R288). -/
theorem probeHeard_effect {c : Instr} {ty : BitVec 8} (h : s.Inv) (hl : f.payload.length = 16)
    (hc : exec c s = .next (s.probeIn n ty f phase fun _ s => s)) (ht : s.takesPart n = true) (hh : s.hears n ty f = true) :
    Does c s fun t => t.tim = s.tim ∧ t.outbox = s.outbox ∧ s.Logged 1 t := by
  refine ⟨_, hc, ?_⟩
  rw [probeIn_heard hl ht hh]
  have hlog := State.tslog_keep s (s.rxStamp n phase) false n ty f.srcRack f.srcPos f.seq f.payload
  exact ⟨hlog.same .tim (by decide), hlog.same .outbox (by decide), tslog_logged h _ _⟩

theorem timeProbe_effect (h : s.Inv) (hl : f.payload.length = 16) (ht : s.takesPart n = true) (hh : s.hears n Ty.probe f = true) :
    Does (.timeProbe n f phase) s fun t =>
      t.outbox = (s.send (some n.val) (.pos f.srcRack f.srcPos) Ty.probeResponse
        (probeFrame f.seq s.tim.activeB (s.rxStamp n phase).bytes)).outbox ∧
      t.tim = { s.tim with due := s.tim.due ++
        [{ slice := n, rack := f.srcRack, pos := f.srcPos, seq := f.seq, stamp := s.txStamp n phase }] } ∧ s.Logged 2 t := by
  have hlog := tslog_logged h (s.rxStamp n phase) false (n := n) (ty := Ty.probe) (rack := f.srcRack) (pos := f.srcPos) (seq := f.seq) (pay := f.payload)
  have hkeep := State.tslog_keep s (s.rxStamp n phase) false n Ty.probe f.srcRack f.srcPos f.seq f.payload
  refine ⟨_, rfl, ?_⟩
  rw [probeIn_heard hl ht hh]
  generalize s.tslog (s.rxStamp n phase) false n Ty.probe f.srcRack f.srcPos f.seq f.payload = u at hlog hkeep
  dsimp only
  have hsl : u.slices = s.slices := hkeep.same .slices (by decide)
  have hpart : u.takesPart n = true := by
    rw [← ht, State.takesPart, State.isOpen, hsl, (hkeep.same .placed (by decide) : u.placed = s.placed), State.takesPart, State.isOpen]
  have htim : u.tim = s.tim := hkeep.same .tim (by decide)
  obtain ⟨-, -, hfld, -, -⟩ := id hlog
  obtain ⟨hrack, hpos⟩ := place_congr hfld
  obtain ⟨hout, htim2, hlog2⟩ := probeOut_effect (hkeep.inv h) hpart Ty.probeResponse f.srcRack f.srcPos f.seq (s.rxStamp n phase).domB
    (s.rxStamp n phase).bytes phase
  have hstamp : u.txStamp n phase = s.txStamp n phase := by
    have hdelay : u.rd (Fld.timLnkDelay.txPs n) = s.rd (Fld.timLnkDelay.txPs n) := hkeep.rd h (by clear * -; revert n; decide +kernel)
    rw [State.txStamp, hdelay, State.stamp, htim, State.dom, htim]
    rfl
  refine ⟨?_, ?_, .after (hlog.twice hlog2) ((keep_tim _ _).only.step (by decide) (.refl _ _))⟩
  · refine hout.trans ((send_outbox_congr hsl (hkeep.same .outbox (by decide)) hrack hpos _ _ _ _ _).trans ?_)
    rw [State.rxStamp, stamp_domB]
  · show ({ State.tim _ with due := _ } : Tim) = _
    rw [htim2, htim, hstamp]

theorem followUpSend_effect (h : s.Inv) (hw : s.hw = true) {d : ProbeDue} (hd : s.tim.due.head? = some d) (ht : s.takesPart d.slice = true) :
    Does (.followUpSend phase) s fun t =>
      t.outbox = (s.send (some d.slice.val) (.pos d.rack d.pos) Ty.followUp (probeFrame d.seq d.stamp.domB d.stamp.bytes)).outbox ∧
      t.tim = { s.tim with due := s.tim.due.tail } ∧ s.Logged 1 t := by
  obtain ⟨rest, hdue⟩ := List.head?_eq_some_iff.1 hd
  have hexec : exec (.followUpSend phase) s = .next ((s.onTim (fun m => { m with due := rest })).probeOut d.slice Ty.followUp d.rack d.pos
      d.seq d.stamp.domB d.stamp.bytes phase) := by
    show execFollowUpSend phase s = _
    rw [execFollowUpSend, hw, hdue]
  have hon : Keep ([.tim], 0) s (s.onTim (fun m => { m with due := rest })) := keep_tim s _
  obtain ⟨hout, htim, hlog⟩ := probeOut_effect (hon.inv h) (n := d.slice) ht Ty.followUp d.rack d.pos d.seq d.stamp.domB d.stamp.bytes phase
  refine ⟨_, hexec, hout.trans (send_outbox_congr (s := s) (t := s.onTim _) rfl rfl rfl rfl _ _ _ _ _), htim.trans ?_,
    .before (hon.only.step (by decide) (.refl _ s)) hlog⟩
  rw [hdue]
  rfl

/-- Settles O26: each command by the entries that it logs and the frame that it sends. -/
theorem timeProbes : Obligations.TimeProbes := by
  intro s phase hi hp
  refine ⟨fun v => timeProbeSend_effect hi hp v phase, fun n f hl => ⟨timeProbe_effect hi hl, probeHeard_effect hi hl rfl, probeHeard_effect hi hl rfl,
    fun ht hh => ⟨_, rfl, probeIn_silent hl ht hh _⟩⟩, fun hw d hd ht => followUpSend_effect hi hw hd ht⟩

end Sys2Proof.Machine
end

section
/-! Tags, enabling a channel, and the step-skip vote (R54, R81, R102, R104, R108, R110, R130). -/
namespace Sys2Proof.Machine

variable {s t u : State}

/-! ## Barriers stand apart from reductions and Fulling -/

/-- The same state with other reductions and another Fulling unit. -/
def State.reducing (s : State) (r : Red) (u : Ful) : State := { s with red := r, ful := u }

section
variable (s : State) (r : Red) (u : Ful)

@[simp] theorem reducing_syn : (s.reducing r u).syn = s.syn := (rfl)
@[simp] theorem reducing_now : (s.reducing r u).now = s.now := (rfl)
@[simp] theorem reducing_part : (s.reducing r u).part = s.part := (rfl)
@[simp] theorem rd_reducing (f : Fld) : (s.reducing r u).rd f = s.rd f := (rfl)
@[simp] theorem rdB_reducing (f : Fld) : (s.reducing r u).rdB f = s.rdB f := (rfl)
@[simp] theorem rdAddr_reducing (f : Fld) : (s.reducing r u).rdAddr f = s.rdAddr f := (rfl)
@[simp] theorem wr_reducing (f : Fld) (v : Nat) : (s.reducing r u).wr f v = (s.wr f v).reducing r u := (rfl)
@[simp] theorem wrB_reducing (f : Fld) (v : Bool) : (s.reducing r u).wrB f v = (s.wrB f v).reducing r u := (rfl)
@[simp] theorem raise_reducing (f : Fld) : (s.reducing r u).raise f = (s.raise f).reducing r u := (rfl)
@[simp] theorem bump_reducing (f : Fld) (k : Nat) : (s.reducing r u).bump f k = (s.bump f k).reducing r u := (rfl)
@[simp] theorem onSyn_reducing (f : Syn → Syn) : (s.reducing r u).onSyn f = (s.onSyn f).reducing r u := (rfl)
@[simp] theorem pair_reducing (n : Nat) : (s.reducing r u).pair n = s.pair n := (rfl)
@[simp] theorem flag_reducing (n : Nat) : (s.reducing r u).flag n = s.flag n := (rfl)
@[simp] theorem pend_reducing (n : Nat) : (s.reducing r u).pend n = s.pend n := (rfl)
@[simp] theorem quiesced_reducing : (s.reducing r u).quiesced = s.quiesced := (rfl)
@[simp] theorem waitHolds_reducing (w : Waiter) : (s.reducing r u).waitHolds w = s.waitHolds w := (rfl)
@[simp] theorem putPair_reducing (n : Nat) (p : Pair) : (s.reducing r u).putPair n p = (s.putPair n p).reducing r u := (rfl)
@[simp] theorem putFlag_reducing (n : Nat) (b : Bool) : (s.reducing r u).putFlag n b = (s.putFlag n b).reducing r u := (rfl)
@[simp] theorem store'_reducing (a : Nat) (l : List Byte) : (s.reducing r u).store' a l = (s.store' a l).reducing r u := (rfl)
@[simp] theorem storeN_reducing (a n v : Nat) : (s.reducing r u).storeN a n v = (s.storeN a n v).reducing r u := store'_reducing ..

@[simp] theorem synErr_reducing (st : Status) (obj kind : Nat) (remote : Bool) :
    (s.reducing r u).synErr st obj kind remote = (s.synErr st obj kind remote).reducing r u := by
  simp only [State.synErr, rdB_reducing, wr_reducing, wrB_reducing, apply_ite (State.reducing · r u)]

@[simp] theorem endWait_reducing (w : Waiter) (st : Status) : (s.reducing r u).endWait w st = (s.endWait w st).reducing r u := by
  unfold State.endWait
  split
  · simp only [State.notifySlot, rdB_reducing, rd_reducing, rdAddr_reducing, pair_reducing, onSyn_reducing, storeN_reducing]
  · rfl

@[simp] theorem waitConsume_reducing (w : Waiter) : (s.reducing r u).waitConsume w = (s.waitConsume w).reducing r u := by
  simp only [State.waitConsume, pair_reducing, putPair_reducing, putFlag_reducing, apply_ite (State.reducing · r u)]

@[simp] theorem pendOnce_reducing (isPair : Bool) (obj : Nat) :
    (s.reducing r u).pendOnce isPair obj = (s.pendOnce isPair obj).map (State.reducing · r u) := by
  simp only [State.pendOnce, reducing_syn]
  cases s.syn.pends.find? (fun q => q.pair == obj) with
  | none => simp
  | some q => simp [apply_ite (Option.map (State.reducing · r u))]

theorem serveOnce_reducing (isPair : Bool) (obj : Nat) :
    (s.reducing r u).serveOnce isPair obj = (s.serveOnce isPair obj).map (State.reducing · r u) := by
  simp only [State.serveOnce, reducing_syn]
  cases s.syn.waiters.find? (fun w => w.isPair == isPair && w.obj == obj) with
  | none => simp
  | some w => simp [apply_ite (Option.map (State.reducing · r u))]

theorem serveN_reducing (n : Nat) (isPair : Bool) (obj : Nat) :
    (s.reducing r u).serveN n isPair obj = (s.serveN n isPair obj).reducing r u := by
  induction n generalizing s with
  | zero => rfl
  | succ n ih =>
    rw [State.serveN, serveOnce_reducing, State.serveN]
    cases s.serveOnce isPair obj with
    | none => rfl
    | some s' => exact ih s'

@[simp] theorem serve_reducing (isPair : Bool) (obj : Nat) : (s.reducing r u).serve isPair obj = (s.serve isPair obj).reducing r u :=
  serveN_reducing s r u _ isPair obj

@[simp] theorem setFlag_reducing (f : Nat) (who : Who) : ((s.reducing r u).setFlag f who).1 = (s.setFlag f who).1.reducing r u := by
  simp [State.setFlag, State.setFlagNow, State.hold, apply_ite Prod.fst, apply_ite (State.reducing · r u)]

@[simp] theorem refuseProduce_reducing (pair : Nat) (who : Who) (st : Status) :
    ((s.reducing r u).refuseProduce pair who st).1 = (s.refuseProduce pair who st).1.reducing r u := by
  simp [State.refuseProduce, apply_ite (State.reducing · r u)]

@[simp] theorem produce_reducing (pair n : Nat) (who : Who) : ((s.reducing r u).produce pair n who).1 = (s.produce pair n who).1.reducing r u := by
  simp [State.produce, State.produceNow, State.hold, apply_ite Prod.fst, apply_ite (State.reducing · r u)]

/-! ## Frames and the tree -/

@[simp] theorem send_reducing (slice : Option Nat) (dest : Dest) (ty : BitVec 8) (f : Frame) (leaf : Nat) :
    (s.reducing r u).send slice dest ty f leaf = (s.send slice dest ty f leaf).reducing r u := by
  unfold State.send
  have hok : (s.reducing r u).anyOpen = s.anyOpen := rfl
  have hopen (n : Nat) : (s.reducing r u).isOpen n = s.isOpen n := rfl
  simp only [hok, hopen, apply_ite (State.reducing · r u)]
  rfl

@[simp] theorem sendTo_reducing (rack : BitVec 10) (pos : BitVec 7) (ty : BitVec 8) (f : Frame) :
    (s.reducing r u).sendTo rack pos ty f = (s.sendTo rack pos ty f).reducing r u := send_reducing ..

theorem foldl_reducing {α : Type} {g : State → α → State} (l : List α) (hg : ∀ s a, g (State.reducing s r u) a = (g s a).reducing r u) :
    l.foldl g (s.reducing r u) = (l.foldl g s).reducing r u := by
  induction l generalizing s with
  | nil => rfl
  | cons a l ih => rw [List.foldl_cons, hg, ih, List.foldl_cons]

@[simp] theorem bar_reducing (b : Nat) : (s.reducing r u).bar b = s.bar b := (rfl)
@[simp] theorem putBar_reducing (b : Nat) (x : Barrier) : (s.reducing r u).putBar b x = (s.putBar b x).reducing r u := (rfl)
@[simp] theorem myRack_reducing : (s.reducing r u).myRack = s.myRack := (rfl)
@[simp] theorem memberIdx_reducing : (s.reducing r u).memberIdx = s.memberIdx := (rfl)
@[simp] theorem treeRole_reducing (b : Nat) : (s.reducing r u).treeRole b = s.treeRole b := (rfl)
@[simp] theorem treeUp_reducing (b : Nat) : (s.reducing r u).treeUp b = s.treeUp b := (rfl)
@[simp] theorem childRacks_reducing (b : Nat) : (s.reducing r u).childRacks b = s.childRacks b := (rfl)
@[simp] theorem barMask_reducing (b : Nat) : (s.reducing r u).barMask b = s.barMask b := (rfl)
@[simp] theorem memberAt_reducing : (s.reducing r u).memberAt = s.memberAt := (rfl)
@[simp] theorem isMe_reducing (rack : BitVec 10) (pos : BitVec 7) : (s.reducing r u).isMe rack pos = s.isMe rack pos := (rfl)
@[simp] theorem uflPorts_reducing : (s.reducing r u).uflPorts = s.uflPorts := (rfl)
@[simp] theorem barAllHere_reducing (b : Nat) : (s.reducing r u).barAllHere b = s.barAllHere b := by
  simp only [State.barAllHere, bar_reducing, barMask_reducing, memberIdx_reducing]
@[simp] theorem barHere_reducing (b : Nat) : (s.reducing r u).barHere b = s.barHere b := by
  simp only [State.barHere, bar_reducing, barMask_reducing, memberIdx_reducing]
@[simp] theorem unitHolds_reducing (who : Who) : (s.reducing r u).unitHolds who = s.unitHolds who := (rfl)

@[simp] theorem barFan_reducing (b : Nat) (ty : BitVec 8) (f : Frame) :
    (s.reducing r u).barFan b ty f = (s.barFan b ty f).reducing r u := by
  have hfold (l : List (BitVec 10 × BitVec 7)) (s : State) :
      l.foldl (fun s m => s.send none (.pos m.1 m.2) ty f) (s.reducing r u) =
        (l.foldl (fun s m => s.send none (.pos m.1 m.2) ty f) s).reducing r u :=
    foldl_reducing s r u l fun s m => send_reducing ..
  simp only [State.barFan, barMask_reducing, memberAt_reducing, isMe_reducing, myRack_reducing, memberIdx_reducing, uflPorts_reducing,
    send_reducing, ← apply_ite (State.reducing · r u), hfold]

@[simp] theorem barDown_reducing (b : Nat) (e : BitVec 32) (ty : BitVec 8) (payload : List Byte) (below : List (Nat × BitVec 10 × BitVec 7)) :
    (s.reducing r u).barDown b e ty payload below = (s.barDown b e ty payload below).reducing r u := by
  have hfold (hop : Nat) (l : List (BitVec 10 × BitVec 7)) (s : State) :
      l.foldl (fun s m => s.sendTo m.1 m.2 ty (barFrame b e hop payload)) (s.reducing r u) =
        (l.foldl (fun s m => s.sendTo m.1 m.2 ty (barFrame b e hop payload)) s).reducing r u :=
    foldl_reducing s r u l fun s m => sendTo_reducing ..
  simp only [State.barDown, treeRole_reducing, hfold, ← apply_ite (State.reducing · r u), barFan_reducing]

@[simp] theorem barEnd_reducing (b : Nat) (st : Status) (res : Option (W64 × W64)) :
    (s.reducing r u).barEnd b st res = (s.barEnd b st res).reducing r u := by
  simp only [State.barEnd, bar_reducing, putBar_reducing]
  cases (s.bar b).fn <;>
    simp only [onSyn_reducing, rdB_reducing, rd_reducing, setFlag_reducing, produce_reducing, ← apply_ite (State.reducing · r u)]

@[simp] theorem treeRack_reducing (b : Nat) : (s.reducing r u).treeRack b = (s.treeRack b).reducing r u := by
  simp [State.treeRack, apply_ite (State.reducing · r u)]

@[simp] theorem treeGroup_reducing (b : Nat) : (s.reducing r u).treeGroup b = (s.treeGroup b).reducing r u := by
  simp [State.treeGroup, apply_ite (State.reducing · r u)]

@[simp] theorem treeTop_reducing (b : Nat) : (s.reducing r u).treeTop b = (s.treeTop b).reducing r u := by
  simp [State.treeTop, apply_ite (State.reducing · r u)]

@[simp] theorem barProgress_reducing (b : Nat) : (s.reducing r u).barProgress b = (s.barProgress b).reducing r u := by
  simp [State.barProgress, apply_ite (State.reducing · r u)]

@[simp] theorem barGo_reducing (b : Nat) (a : Arrival) : (s.reducing r u).barGo b a = (s.barGo b a).reducing r u := by
  simp [State.barGo, ← apply_ite (State.reducing · r u)]

@[simp] theorem barNext_reducing (b : Nat) : (s.reducing r u).barNext b = (s.barNext b).reducing r u := by
  simp only [State.barNext, bar_reducing]
  split
  · simp [apply_ite (State.reducing · r u)]
  · rfl

/-- An arrival at a barrier neither reads nor changes the reductions and the Fulling unit. -/
theorem barArrive_reducing (b : Nat) (fn : BarFn) (x y : W64) :
    (s.reducing r u).barArrive b fn x y = (s.barArrive b fn x y).reducing r u := by
  simp [State.barArrive, apply_ite (State.reducing · r u)]

end

theorem treeTop_keep_signals (s : State) (b : Nat) :
    Keep ([.regs, .mem, .syn, .outbox], 0x1d3e10000000000000000000000000000000000) s (s.treeTop b) := by
  unfold State.treeTop
  refine .ite (.refl _ s) (Keep.step (State.barEnd_keep ..) (by decide) (Keep.step (State.barDown_keep ..) (by decide) (.refl _ s)))

theorem barProgress_keep_signals (s : State) (b : Nat) :
    Keep ([.regs, .mem, .syn, .outbox], 0x1d3e10000000000000000000000000000000000) s (s.barProgress b) := by
  unfold State.barProgress
  refine .ite (.refl _ s) (.ite ?_ (.ite (Keep.step (State.barEnd_keep ..) (by decide) (.refl _ s)) (.refl _ s)))
  exact (treeTop_keep_signals _ b).step (by decide)
    (Keep.step (State.treeGroup_keep ..) (by decide) (Keep.step (State.treeRack_keep ..) (by decide) (.refl _ s)))

theorem barGo_keep_signals (s : State) (b : Nat) (a : Arrival) :
    Keep ([.regs, .mem, .syn, .outbox], 0x1d3e10000000000000000000000000000000000) s (s.barGo b a) := by
  unfold State.barGo
  have hput (x : Barrier) : Keep ([.regs, .mem, .syn, .outbox], 0x1d3e10000000000000000000000000000000000) s (s.putBar b x) :=
    Keep.step (State.putBar_keep ..) (by decide) (.refl _ s)
  exact (barProgress_keep_signals _ b).step (by decide) (.ite (Keep.step (State.barFan_keep ..) (by decide) (hput _))
    (.ite (Keep.step (State.sendTo_keep ..) (by decide) (hput _)) (hput _)))

theorem barNext_keep_signals (s : State) (b : Nat) :
    Keep ([.regs, .mem, .syn, .outbox], 0x1d3e10000000000000000000000000000000000) s (s.barNext b) := by
  unfold State.barNext
  dsimp only
  split
  · exact .ite (.refl _ s) ((barGo_keep_signals _ b _).step (by decide) (Keep.step (State.putBar_keep ..) (by decide) (.refl _ s)))
  · exact .refl _ s

/-- An arrival at a barrier, with all that follows from it there. -/
theorem barArrive_keep_signals (s : State) (b : Nat) (fn : BarFn) (x y : W64) :
    Keep ([.regs, .mem, .syn, .outbox], 0x1d3e10000000000000000000000000000000000) s (s.barArrive b fn x y) := by
  unfold State.barArrive
  exact .ite (.refl _ s) ((barNext_keep_signals _ b).step (by decide) (Keep.step (State.putBar_keep ..) (by decide) (.refl _ s)))

theorem reducing_only (s : State) (r : Red) (u : Ful) : Only [.red, .ful] s (s.reducing r u) := fun p => by
  cases p <;> first | exact .inr rfl | exact .inl (by decide)

/-! ## The vote -/

/-- The vote that is due arrives at the skip barrier (R102, R130). -/
theorem voteArrival_casts (h : s.Inv) (hhw : s.hw = true) (hhalt : s.halted = false) (hen : s.rdB Fld.redCtrl.skipVoteEn = true) {v : Vote}
    (hv : s.red.votes.find? s.voteDue = some v) : DoesThen .voteArrival s fun t =>
      let cast := s.barArrive (s.rd Fld.redCtrl.skipBarrier) (.vote v.step)
        (if s.rd Fld.fulCtrl.normVoteEn = 0 then 0 else s.ful.stepAcc.toF64) (if v.skip then BitVec.ofNat 64 (2 ^ s.rd Fld.redCtrl.skipBit) else 0)
      t.red = { s.red with votes := s.red.votes.filter (fun w => w.step != v.step) } ∧ t.ful.stepAcc = {} ∧ t.syn = cast.syn ∧
      t.outbox = cast.outbox ∧ t.ful.queues = s.ful.queues ∧ Changes [.red, .ful, .syn, .mem, .regs, .outbox] signalFields s t := by
  have hdo : doVoteArrival s = .next ((s.reducing { s.red with votes := s.red.votes.filter (fun w => w.step != v.step) }
      { s.ful with stepAcc := {} }).barArrive (s.rd Fld.redCtrl.skipBarrier) (.vote v.step)
        (if s.rd Fld.fulCtrl.normVoteEn = 0 then 0 else s.ful.stepAcc.toF64)
        (if v.skip then BitVec.ofNat 64 (2 ^ s.rd Fld.redCtrl.skipBit) else 0)) := by
    simp only [doVoteArrival, hhw, hhalt, hen, hv]
    rfl
  rw [barArrive_reducing] at hdo
  refine .of_settled (congrArg settled hdo) ⟨rfl, rfl, rfl, rfl, rfl, ?_⟩
  have hcast := Changes.of_keep (barArrive_keep_signals s (s.rd Fld.redCtrl.skipBarrier) (.vote v.step)
    (if s.rd Fld.fulCtrl.normVoteEn = 0 then 0 else s.ful.stepAcc.toF64)
    (if v.skip then BitVec.ofNat 64 (2 ^ s.rd Fld.redCtrl.skipBit) else 0)) h (show fits _ signalFields = true by decide +kernel)
  have hred (c : State) (r : Red) (u : Ful) : Changes [.red, .ful] [] c (c.reducing r u) := .of_only (reducing_only c r u) rfl
  exact (hred _ _ _).step (by decide) (by simp) (hcast.step (by decide) (fun _ => id) (.refl _ _ s))

/-! ## Tags -/

theorem releaseTag_inUse {tag : Nat} (h : s.red.tags.inUse.contains tag = true) : s.releaseTag tag = { s with red := { s.red with tags :=
    { s.red.tags with
      inUse := s.red.tags.inUse.filter (· != tag), lastSent := s.red.tags.lastSent.filter (· != tag),
      quarantine := s.red.tags.quarantine ++ [(tag, s.now + msTicks 4)] } } } := if_pos h

theorem fetchReq_outbox_keep (s : State) (ch : Nat) (seq stepLo : W32) (tag : Nat) (gen : BitVec 4) (rack : BitVec 10) (pos : BitVec 7)
    (stage : Bool) (rg : Nat × Nat) : Keep ([.outbox], 0) s (s.fetchReq ch seq stepLo tag gen rack pos stage rg) := State.sendTo_keep ..

/-- A step of the fetches that wait for a tag: requests go out, tags are taken, and no tag comes out of quarantine. -/
def State.Asks (s t : State) : Prop :=
  t.red.tags.quarantine = s.red.tags.quarantine ∧ Keep ([.red, .outbox, .freeCtr], 0) s t

theorem State.Asks.refl (s : State) : s.Asks s := ⟨rfl, .refl _ s⟩

theorem State.Asks.trans (h1 : s.Asks t) (h2 : t.Asks u) : s.Asks u := ⟨h2.1.trans h1.1, h2.2.step (by decide) h1.2⟩

theorem asks_foldl {α : Type} {g : State → α → State} (l : List α) (hg : ∀ (s : State) (a : α), s.Asks (g s a)) (s : State) : s.Asks (l.foldl g s) := by
  induction l generalizing s with
  | nil => exact .refl s
  | cons a l ih => exact (hg s a).trans (ih _)

theorem fetchReq_asks (s : State) (ch : Nat) (seq stepLo : W32) (tag : Nat) (gen : BitVec 4) (rack : BitVec 10) (pos : BitVec 7)
    (stage : Bool) (rg : Nat × Nat) : s.Asks (s.fetchReq ch seq stepLo tag gen rack pos stage rg) := by
  have hk := fetchReq_outbox_keep s ch seq stepLo tag gen rack pos stage rg
  have hred : _ = s.red := hk.same .red (by decide)
  exact ⟨by rw [hred], hk.step (by decide) (.refl _ s)⟩

theorem putBucket_asks (s : State) (ch : Nat) (b : Bucket) : s.Asks (s.putBucket ch b) :=
  ⟨rfl, (State.putBucket_keep ..).step (by decide) (.refl _ s)⟩

theorem allocTag_asks (s : State) : s.Asks s.allocTag.2 := ⟨rfl, (State.allocTag_keep s).step (by decide) (.refl _ s)⟩

theorem fetchNow_asks (s : State) (ch : Nat) (seq : W32) : s.Asks (s.fetchNow ch seq) := by
  unfold State.fetchNow
  split
  · exact .refl s
  · split
    · exact .refl s
    · dsimp only
      split
      · exact (putBucket_asks ..).trans (asks_foldl _ (fun _ _ => fetchReq_asks ..) _)
      · split
        · exact .refl s
        · exact (allocTag_asks s).trans ((putBucket_asks ..).trans (asks_foldl _ (fun _ _ => fetchReq_asks ..) _))

theorem fetchesNow_asks (s : State) : s.Asks s.fetchesNow :=
  asks_foldl _ (fun s ch => asks_foldl _ (fun s (b : Bucket) => fetchNow_asks s ch b.seq) s) s

/-- Where no bucket waits for a tag no fetch goes out. -/
theorem fetchesNow_none (h : (List.range 32).all (fun ch => (s.chan ch).running.all (fun b => b.fetchTo.isNone)) = true) : s.fetchesNow = s := by
  have hnow (ch : Nat) (hch : ch ∈ List.range 32) (seq : W32) : s.fetchNow ch seq = s := by
    unfold State.fetchNow
    split
    · rfl
    · next b hb =>
      have hb' := List.all_eq_true.1 (List.all_eq_true.1 h ch hch) b (List.mem_of_find?_eq_some hb)
      rw [Option.isNone_iff_eq_none.1 hb']
  exact foldl_stays _ _ fun ch hch => foldl_stays _ _ fun (b : Bucket) _ => hnow ch hch b.seq

/-- TAG_QUARANTINE_EXPIRY (R110). -/
theorem tagQuarantineExpiry_frees {tag : BitVec 20} (h : (s.red.tags.quarantine.any fun q => q.1 == tag.toNat && q.2 ≤ s.now) = true) :
    Does (.tagQuarantineExpiry tag) s fun t =>
      (t.red.tags.quarantine = s.red.tags.quarantine.filter (fun q => q.1 != tag.toNat) ∧ Only [.red, .outbox, .freeCtr] s t ∧ FieldsBut [] s t) ∧
      ((List.range 32).all (fun ch => (s.chan ch).running.all (fun b => b.fetchTo.isNone)) = true →
        t.red = { s.red with tags := { s.red.tags with quarantine := s.red.tags.quarantine.filter (fun q => q.1 != tag.toNat) } } ∧
        Changes [.red] [] s t) := by
  let s' : State := s.reducing { s.red with tags :=
    { s.red.tags with quarantine := s.red.tags.quarantine.filter (fun q => q.1 != tag.toNat) } } s.ful
  have hs' : Only [.red] s s' := fun p => by cases p <;> first | exact .inr rfl | exact .inl (by decide)
  refine ⟨s'.fetchesNow, if_pos h, ⟨?_, ?_, ?_⟩, fun hnone => ?_⟩
  · exact (fetchesNow_asks s').1
  · exact (fetchesNow_asks s').2.only.step (by decide) (hs'.step (by decide) (.refl _ s))
  · exact .of_regs ((fetchesNow_asks s').2.same .regs (by decide))
  · rw [fetchesNow_none (s := s') hnone]
    exact ⟨rfl, .of_only hs' rfl⟩

/-! ## The configuration register of a channel -/

theorem vget_vset_same {α : Type} {n : Nat} (v : Vector α n) {i : Nat} (x d : α) (h : i < n) : vget (vset v i x) i d = x := by
  simp [vget, vset, h]

theorem vget_vset_other {α : Type} {n : Nat} (v : Vector α n) {i j : Nat} (x d : α) (h : i ≠ j) : vget (vset v i x) j d = vget v j d := by
  simp [vget, vset, h]

theorem putChan_chan_same (s : State) (ch : Fin 32) (x : Chan) : (s.putChan ch x).chan ch = x := vget_vset_same _ _ _ ch.isLt

theorem putChan_chan_other (s : State) {c d : Nat} (x : Chan) (h : c ≠ d) : (s.putChan c x).chan d = s.chan d := vget_vset_other _ _ _ h

theorem redChCfg_row (ch : Fin 32) : ∃ row, regRow? (Reg.redChCfg ch) = some row ∧ row.bytes = 8 ∧ ⟨0, 1, .rw⟩ ∈ row.fields ∧
    ⟨2, 7, .rw⟩ ∈ row.fields := by
  have h : (regRow? (Reg.redChCfg ch)).any (fun row => row.bytes = 8 && row.fields.contains ⟨0, 1, .rw⟩ && row.fields.contains ⟨2, 7, .rw⟩) := by
    revert ch
    decide +kernel
  obtain ⟨row, hrow, hp⟩ := Option.any_eq_true .. |>.1 h
  simp only [Bool.and_eq_true, decide_eq_true_eq, List.contains_iff_mem] at hp
  exact ⟨row, hrow, hp.1.1, hp.1.2, hp.2⟩

theorem redChCfg_canon (ch : Fin 32) : regCanon (Reg.redChCfg ch) = 0x11000 := by
  revert ch
  decide +kernel

theorem redChCfg_unlocked (s : State) (ch : Fin 32) : s.regLocked (Reg.redChCfg ch) = false := by
  unfold State.regLocked
  rw [redChCfg_canon]
  rfl

/-- A write in which nothing was wrong. -/
theorem writePlain_true {off w : Nat} {row : RegRow} (hr : regRow? off = some row) (h : (s.writePlain off w).2 = true) :
    (s.writePlain off w).1 = s.putFields off w row.fields ∧ (s.writeBits off w row.fields (s.getReg off).toNat false).2 = false := by
  have hl : s.regLocked off = false := by
    refine Bool.eq_false_iff.2 fun hl => ?_
    simp [State.writePlain, hr, hl] at h
  have hb : (s.writeBits off w row.fields (s.getReg off).toNat false).2 = false := by
    refine Bool.eq_false_iff.2 fun hb => ?_
    simp [State.writePlain, hr, hl, hb] at h
  exact ⟨by rw [writePlain_unlocked w hr hl, hb]; rfl, hb⟩

/-- In such a write a field that is not frozen takes its bits. -/
theorem fieldWritten_true {off w : Nat} {row : RegRow} {f : FieldRow} (hb : (s.writeBits off w row.fields (s.getReg off).toNat false).2 = false)
    (hf : f ∈ row.fields) (hty : f.ty = .rw) (hfz : s.fieldFrozen off f.lo = false) (old : Nat) :
    s.fieldWritten off w f old = bits w f.lo f.len := by
  have hok : s.fieldOk off f.lo f.len w = true := by
    refine Bool.of_not_eq_false fun hok => ?_
    rw [writeBits_reserved _ _ (.inr ⟨f, hf, hty, hok, hfz⟩)] at hb
    cases hb
  simp [State.fieldWritten, hty, hok, hfz, fieldAfter]

/-- The fields of one register lie in it. -/
theorem FieldsBut.register {off : Nat} {gs : List Fld} {fs : List FieldRow} (h : FieldsBut (gs ++ fs.map (FieldRow.fld off)) s t)
    (h64 : ∀ f ∈ fs, f.lo + f.len ≤ 64) : FieldsBut (gs ++ [⟨off, 0, 64⟩]) s t := fun o i => by
  refine (h o i).imp_left fun ⟨f, hf, ho, hlo, hhi⟩ => ?_
  rcases List.mem_append.1 hf with hg | hfs
  · exact ⟨f, List.mem_append_left _ hg, ho, hlo, hhi⟩
  · obtain ⟨r, hr, rfl⟩ := List.mem_map.1 hfs
    refine ⟨_, List.mem_append_right _ List.mem_cons_self, ho, Nat.zero_le i, ?_⟩
    have : i < r.lo + r.len := hhi
    have := h64 r hr
    show i < 0 + 64
    omega

theorem bits_zero_one (w : Nat) : bits w 0 1 = b2n (bitAt w 0) := by
  unfold bits bitAt b2n
  rw [Nat.testBit_zero]
  rcases Nat.mod_two_eq_zero_or_one w with h | h <;> simp [h]

theorem bitAt_toNat (v : W64) (i : Nat) : bitAt v.toNat i = v.getLsbD i := rfl

/-! ## Enable and disable -/

/-- RED_CH_DISABLE (R81). -/
theorem redChDisable_leaves (h : s.Inv) (hp : s.powered = true) (ch : Fin 32) {v : W64} (hv : v.getLsbD 0 = false) :
    Does (.redChDisable ch v) s fun t => t.rd (Fld.redChCfg.enable ch) = 0 ∧
      Changes [.regs, .log] (Fld.ctlErrlog.head :: Fld.ctlErrStatus.accessErr :: [⟨Reg.redChCfg ch, 0, 64⟩]) s t := by
  obtain ⟨row, hrow, -, hen, -⟩ := redChCfg_row ch
  have herr : Reg.redChCfg ch ≠ Reg.ctlErrStatus ∧ Reg.redChCfg ch ≠ Reg.ctlErrlog := by
    clear * -
    revert ch
    decide +kernel
  obtain ⟨hrd, honly, hbut⟩ := writePlain_fields (w := v.toNat) h hrow (redChCfg_unlocked s ch) herr.1 herr.2
  have hexec : exec (.redChDisable ch v) s = .next (s.writePlain (Reg.redChCfg ch) v.toNat).1 := by
    have hv' : bitAt v.toNat 0 = false := hv
    show execRedChDisable ch v s = _
    simp [execRedChDisable, State.redChWrite, hp, hv']
  refine ⟨_, hexec, (hrd _ hen).trans ?_, honly,
    FieldsBut.register (gs := [Fld.ctlErrlog.head, Fld.ctlErrStatus.accessErr]) hbut (regRows_fields row (List.mem_of_find?_eq_some hrow)).2⟩
  have hgood : s.fieldOk (Reg.redChCfg ch) 0 1 v.toNat = true := by
    unfold State.fieldOk
    rw [redChCfg_canon]
    rfl
  simp only [State.fieldWritten, State.fieldFrozen, hgood, fieldAfter, bits_zero_one, bitAt_toNat, hv]
  rfl

theorem place'_eq (s : State) (ch : Nat) : s.place' ch =
    { s with placed := (((s.chCfg ch).slices).filter s.isOpen).foldl (fun p n => p ||| BitVec.ofNat 42 (2 ^ n)) s.placed } := by
  unfold State.place'
  generalize ((s.chCfg ch).slices).filter s.isOpen = l
  induction l generalizing s with
  | nil => rfl
  | cons n l ih => exact ih _

theorem getLsbD_foldl_placed (l : List Nat) (p : BitVec 42) (n : Fin 42) :
    (l.foldl (fun p n => p ||| BitVec.ofNat 42 (2 ^ n)) p).getLsbD n = (p.getLsbD n || l.contains n.val) := by
  induction l generalizing p with
  | nil => simp
  | cons m l ih =>
    rw [List.foldl_cons, ih, BitVec.getLsbD_or, BitVec.getLsbD_ofNat, Nat.testBit_two_pow, List.contains_cons]
    have hn := n.isLt
    by_cases hm : m = n.val
    · simp [hm]
    · have : (n.val == m) = false := beq_false_of_ne (Ne.symm hm)
      simp [hm, this]

/-- The slices of a channel are those of its port masks. -/
theorem slices_congr {ch : Nat} (h : ∀ f : Fld, f.off = Reg.redChPorts ch → t.rd f = s.rd f) : (t.chCfg ch).slices = (s.chCfg ch).slices := by
  simp only [State.chCfg, ChCfg.slices, h (Fld.redChPorts.uflMask ch) rfl, h (Fld.redChPorts.soMask ch) rfl]

theorem redChWrite_enables {ch : Fin 32} {w : Nat} (hw : bitAt w 0 = true) (hoff : s.rdB (Fld.redChCfg.enable ch) = false) :
    s.redChWrite ch w =
      if (s.writePlain (Reg.redChCfg ch) w).1.chanOk ch then
        (((s.writePlain (Reg.redChCfg ch) w).1.putChan ch
          { (s.writePlain (Reg.redChCfg ch) w).1.chan ch with
            aborted := false,
            nextIssue := ((s.writePlain (Reg.redChCfg ch) w).1.chan ch).nextSeq +
              BitVec.ofNat 32 ((s.writePlain (Reg.redChCfg ch) w).1.chan ch).issued.length }).place' ch)
      else s.accessError (Reg.redChCfg ch) 8 true := by
  simp only [State.redChWrite, hw, hoff]
  rfl

/-- RED_CH_ENABLE with consistent fields (R54, R81, R104). -/
theorem redChEnable_takes (h : s.Inv) (hp : s.powered = true) (ch : Fin 32) {v : W64} (hv : v.getLsbD 0 = true)
    (hoff : s.rdB (Fld.redChCfg.enable ch) = false) (hw : (s.writePlain (Reg.redChCfg ch) v.toNat).2 = true)
    (hok : (s.writePlain (Reg.redChCfg ch) v.toNat).1.chanOk ch = true) :
    Does (.redChEnable ch v) s fun t =>
      t.rd (Fld.redChCfg.enable ch) = 1 ∧ t.rd (Fld.redChCfg.n ch) = bits v.toNat 2 7 ∧
      t.chan ch = { s.chan ch with aborted := false, nextIssue := (s.chan ch).nextSeq + BitVec.ofNat 32 (s.chan ch).issued.length } ∧
      (∀ c : Nat, c ≠ ch.val → t.chan c = s.chan c) ∧ Changes [.red, .regs, .placed] [⟨Reg.redChCfg ch, 0, 64⟩] s t ∧
      (∀ n : Fin 42, t.placed.getLsbD n = (s.placed.getLsbD n || ((s.chCfg ch).slices.contains n.val && s.isOpen n))) := by
  obtain ⟨row, hrow, -, hen, hn⟩ := redChCfg_row ch
  obtain ⟨hput, hgood⟩ := writePlain_true hrow hw
  obtain ⟨hpw, h64⟩ := regRows_fields row (List.mem_of_find?_eq_some hrow)
  have hfz (lo : Nat) : s.fieldFrozen (Reg.redChCfg ch) lo = false := by
    have hoff' : s.rdB ⟨Reg.redChCfg ch, 0, 1⟩ = false := hoff
    unfold State.fieldFrozen
    rw [redChCfg_canon]
    simp [hoff']
  have hrd {f : FieldRow} (hf : f ∈ row.fields) (hty : f.ty = .rw) :
      (s.putFields (Reg.redChCfg ch) v.toNat row.fields).rd (f.fld (Reg.redChCfg ch)) = bits v.toNat f.lo f.len := by
    rw [putFields_rd h hpw hf (h64 f hf), fieldWritten_true hgood hf hty (hfz _)]
  have hbut : FieldsBut [⟨Reg.redChCfg ch, 0, 64⟩] s (s.putFields (Reg.redChCfg ch) v.toNat row.fields) :=
    (FieldsBut.refl _ s).setReg List.mem_cons_self _
  have hports : ((s.putFields (Reg.redChCfg ch) v.toNat row.fields).chCfg ch).slices = (s.chCfg ch).slices := by
    refine slices_congr fun f hf => hbut.rd ?_
    have : Reg.redChCfg ch ≠ Reg.redChPorts ch := by
      unfold Reg.redChCfg Reg.redChPorts
      omega
    simp [hf, this]
  have hexec : exec (.redChEnable ch v) s = .next (s.redChWrite ch v.toNat) := by
    have hv' : bitAt v.toNat 0 = true := hv
    show execRedChEnable ch v s = _
    simp only [execRedChEnable, hp, hv']
    rfl
  rw [redChWrite_enables hv hoff, if_pos hok, place'_eq, hput] at hexec
  refine ⟨_, hexec, ?_, hrd hn rfl, putChan_chan_same .., fun c hc => putChan_chan_other _ _ hc.symm, ⟨fun p => ?_, ?_⟩, fun n => ?_⟩
  · refine (hrd hen rfl).trans ?_
    rw [bits_zero_one, bitAt_toNat, hv]
    rfl
  · cases p <;> first | exact .inr rfl | exact .inl (by decide)
  · exact hbut.trans (.of_regs rfl)
  · refine (getLsbD_foldl_placed ..).trans ?_
    refine congrArg (s.placed.getLsbD n || ·) ?_
    rw [Bool.eq_iff_iff, List.contains_iff_mem, List.mem_filter, Bool.and_eq_true, List.contains_iff_mem]
    exact and_congr_left fun _ => Iff.of_eq (congrArg (n.val ∈ ·) hports)

theorem redChEnable_refused (h : s.Inv) (hp : s.powered = true) (ch : Fin 32) {v : W64} (hv : v.getLsbD 0 = true)
    (hoff : s.rdB (Fld.redChCfg.enable ch) = false) (hno : (s.writePlain (Reg.redChCfg ch) v.toNat).1.chanOk ch = false) :
    Does (.redChEnable ch v) s (AccessRefused s) := by
  have hexec : exec (.redChEnable ch v) s = .next (s.redChWrite ch v.toNat) := by
    have hv' : bitAt v.toNat 0 = true := hv
    show execRedChEnable ch v s = _
    simp only [execRedChEnable, hp, hv']
    rfl
  rw [redChWrite_enables hv hoff, hno] at hexec
  exact ⟨_, hexec, accessError_refused h _ _ _⟩

/-- Settles O34: the tags and the channels by their own writes, the vote because a barrier neither reads nor changes reductions and Fulling. -/
theorem tagsChannelsVote : Obligations.TagsChannelsVote := by
  intro s h hp
  refine ⟨fun tag => ⟨fun hsent huse => ?_, fun hno => ?_, tagQuarantineExpiry_frees, fun hno => ?_⟩,
    fun ch v => ⟨fun hv hoff hw => ⟨redChEnable_takes h hp ch hv hoff hw, redChEnable_refused h hp ch hv hoff⟩, redChDisable_leaves h hp ch⟩,
    fun hhw hhalt hen v hv => voteArrival_casts h hhw hhalt hen hv⟩
  · refine ⟨s.releaseTag tag.toNat, if_pos (by rw [hp, hsent]; rfl), ?_⟩
    rw [releaseTag_inUse huse]
    exact ⟨rfl, fun p => by cases p <;> first | exact .inr rfl | exact .inl (by decide), .of_regs rfl⟩
  · exact ⟨s, if_neg (by rw [hno, Bool.and_false]; exact Bool.false_ne_true), rfl⟩
  · exact ⟨s, if_neg (by rw [hno]; exact Bool.false_ne_true), rfl⟩

end Sys2Proof.Machine
end

section
/-! Queue pairs (R301): why the statement fails of a state whose context map lists one context twice. -/
namespace Sys2Proof.Machine

/-- Pair 1 is resetting, and the context map lists context 0 twice: a command of pair 1 that was abandoned, and before its removal
shows it, one of pair 2. `State.Inv` keeps the maps of registers and memories rising, and says nothing of this one. -/
def State.contextTwice : State :=
  let mine : Ctx := { q := 1, sqHead := 1, pushed := false, entry := [], order := 4, abandoned := true }
  (State.reset.onBoot (fun b => { b with phase := .running })).onCmd (fun m =>
    { m with queues := vset m.queues 1 { st := .resetting }, ctxs := [(0, mine), (0, { mine with q := 2, abandoned := false })] })

theorem contextTwice_inv : State.contextTwice.Inv := State.inv_plain rfl (by decide +kernel)

theorem contextTwice_resetting : (State.contextTwice.queue 1).st = .resetting := by decide +kernel

theorem contextTwice_abandoned : (State.contextTwice.ctx? 0).map (fun c => (c.q, c.abandoned)) = some (1, true) := by decide +kernel

/-- The end of the reset takes the abandoned command away, and context 0 then reads as that of pair 2. -/
theorem contextTwice_completes : (match exec (.queueResetComplete 1) State.contextTwice with
    | .next t => (t.ctx? 0).isSome
    | _ => false) = true := by decide +kernel

/-- Refutes O50: after QUEUE_RESET_COMPLETE a context that held an abandoned command of the pair is not free where the context map, which the
invariant does not keep canonical, lists that context a second time. -/
theorem not_queuePairs : ¬ Obligations.QueuePairs := by
  intro h
  obtain ⟨-, -, -, -, -, -, hcomplete, -⟩ := h State.contextTwice 1 contextTwice_inv (by decide +kernel)
  obtain ⟨t, ht, -, hfree, -⟩ := hcomplete contextTwice_resetting
  have hheld := contextTwice_completes
  rw [ht] at hheld
  have hnone : t.ctx? 0 = none := hfree 0 contextTwice_abandoned
  simp [hnone] at hheld

end Sys2Proof.Machine
end

section
/-! The Peat port (R197, R204, R351): a port of which ENABLE is 0 idles while its drive is given up. -/
namespace Sys2Proof.Machine

/-! ## What follows from a command leaves the port's STATE as it is -/

theorem foldl_peat_st {α : Type} {g : State → α → State} (hg : ∀ (s : State) (a : α), (g s a).peat.st = s.peat.st) (l : List α) (s : State) :
    (l.foldl g s).peat.st = s.peat.st := by
  induction l generalizing s with
  | nil => rfl
  | cons a l ih => exact (ih _).trans (hg s a)

theorem takeUnits_peat_st (n : Nat) (s : State) (mine : List Nat) : (State.takeUnits n s mine).2.peat.st = s.peat.st := by
  induction n generalizing s mine with
  | zero => rfl
  | succ n ih =>
    rw [State.takeUnits]
    dsimp only
    split
    · rfl
    · exact ih _ _

theorem manStore_peat_st (s : State) (man : List Nat) (key : Option (List Byte)) (b : List Byte) : (s.manStore man key b).peat.st = s.peat.st := by
  refine foldl_peat_st (fun s x => ?_) _ s
  dsimp only
  split <;> rfl

theorem flushEnds_peat (s : State) (r : Rewrite) (st : Status) : (s.flushEnds r st).peat = s.peat :=
  (State.flushEnds_keep s r st).same .peat (by decide)

theorem takeRewrite_peat_st (s : State) (r : Rewrite) : (s.takeRewrite r).peat.st = s.peat.st := by
  unfold State.takeRewrite
  dsimp only
  split
  · split
    · rw [flushEnds_peat]
    · split
      · rw [flushEnds_peat]
      · split
        · rw [flushEnds_peat]
          rfl
        · exact (manStore_peat_st ..).trans (takeUnits_peat_st ..)
  · rfl

theorem takeRewrites_peat_st (s : State) : s.takeRewrites.peat.st = s.peat.st := foldl_peat_st takeRewrite_peat_st _ _

theorem flushCheck_peat (s : State) : s.flushCheck.peat = s.peat := (State.flushCheck_keep s).same .peat (by decide)

theorem flushLate_peat_st (s : State) : s.flushLate.peat.st = s.peat.st := by
  unfold State.flushLate State.flushBegin
  split
  · split
    · rfl
    · dsimp only
      split
      · rw [flushCheck_peat, takeRewrites_peat_st]
      · exact takeRewrites_peat_st s
  · rfl

theorem peatNextEnd_peat (s : State) (seq : W32) (st : Status) : (s.peatNextEnd seq st).peat = s.peat :=
  (State.peatNextEnd_keep s seq st).same .peat (by decide)

theorem peatResult_peat_st (s : State) (seq : W32) (or' : W64) : (s.peatResult seq or').peat.st = s.peat.st := by
  unfold State.peatResult
  split
  · rfl
  · dsimp only
    split
    · rw [peatNextEnd_peat]
    · rw [peatNextEnd_peat]
      rfl

theorem gateFail_peat_st (s : State) (step : W64) (st : Status) : (s.gateFail step st).peat.st = s.peat.st := by
  refine foldl_peat_st (fun s q => ?_) _ _
  split
  · split
    · rw [(State.fulAbort_keep s q st true).same .peat (by decide)]
    · rfl
  · rfl

theorem giveResult_peat_st (s : State) (fn : BarFn) (st : Status) (res : Option (W64 × W64)) : (s.giveResult fn st res).peat.st = s.peat.st := by
  unfold State.giveResult
  split
  · rfl
  · rw [(State.gateOpen_keep ..).same .peat (by decide)]
  · exact gateFail_peat_st ..
  · rw [(State.commitResult_keep ..).same .peat (by decide)]
  · rw [(State.cutFlush_keep ..).same .peat (by decide)]
  · exact peatResult_peat_st ..
  · split
    · rw [peatNextEnd_peat]
    · rfl
  · rw [(State.planResult_keep ..).same .peat (by decide)]
  · split
    · rw [(State.wardenReleased_keep ..).same .peat (by decide), (State.released_keep ..).same .peat (by decide)]
    · rw [(State.released_keep ..).same .peat (by decide)]
  · rfl

theorem giveN_peat_st (n : Nat) (s : State) : (State.giveN n s).peat.st = s.peat.st := by
  have hbars (s : State) : s.barsNext.peat.st = s.peat.st := by rw [(State.barsNext_keep s).same .peat (by decide)]
  have hfirst (s : State) : s.giveFirst.peat.st = s.peat.st := by
    unfold State.giveFirst
    split
    · rfl
    · exact giveResult_peat_st ..
  induction n generalizing s with
  | zero => rfl
  | succ n ih =>
    rw [State.giveN]
    split
    · exact hbars s
    · rw [ih, hfirst, hbars]

/-- What follows from a command in the same step never changes the port's STATE. -/
theorem settle_peat_st (s : State) : s.settle.peat.st = s.peat.st := by
  unfold State.settle
  rw [flushLate_peat_st, (State.peatNextFinal_keep _).same .peat (by decide), (State.restoreEnd_keep _).same .peat (by decide), giveN_peat_st,
    (State.leadReplans_keep _).same .peat (by decide), (State.chosenLate_keep _).same .peat (by decide), giveN_peat_st,
    (State.cutFlush_keep _).same .peat (by decide), (State.ownAborts_keep _).same .peat (by decide)]

/-! ## The counterexample -/

/-- The port waits for its drive with ENABLE 0, and the drain of one cut waits with it. -/
def State.initDisabled : State :=
  ((State.reset.onBoot (fun b => { b with phase := .running })).onPeat (fun p => { p with st := .init })).onCut (fun u =>
    { u with cuts := [{ seq := 1, pinned := true }] })

theorem initDisabled_inv : State.initDisabled.Inv := State.inv_plain rfl (by decide +kernel)

/-- The drive is given up, the waiting drain fails, and after it nothing keeps a port of which ENABLE is 0. -/
theorem initDisabled_times_out : (match exec .peatReadyTimeout State.initDisabled with
    | .next t => t.peat.st == .absent
    | _ => false) = true := by decide +kernel

/-- Refutes O42: a port in INIT with ENABLE 0 idles with the end of the last drain that waits, so STATE is ABSENT after the timeout, not FAILED. -/
theorem not_peatPort : ¬ Obligations.PeatPort := by
  intro h
  obtain ⟨-, -, -, htimeout, -⟩ := h State.initDisabled initDisabled_inv (by decide +kernel)
  obtain ⟨t, ht, -, hfailed, -⟩ := htimeout (by decide +kernel)
  have habsent := initDisabled_times_out
  rw [ht] at habsent
  have hst : t.settle.peat.st = .failed := (settle_peat_st t).trans hfailed
  simp [hst] at habsent

end Sys2Proof.Machine
end

section
/-! WRITE SHARD (R38, R199, R232, R234, R238, R291, R304, R311). -/
namespace Sys2Proof.Machine

variable {s t u : State} {k : Nat} {c : Ctx}

/-! ## The end of a command's work -/

theorem running_ctx {opc : Nat} (h : s.running k opc = some c) : s.ctx? k = some c ∧ c.finished = false := by
  unfold State.running at h
  split at h
  · next d hd =>
    split at h
    · cases h
    · next hno =>
      obtain rfl := Option.some.inj h
      exact ⟨hd, by cases hf : d.finished <;> simp_all⟩
  · cases h

theorem ctxEnd_unfinished (h : s.ctx? k = some c) (hf : c.finished = false) (st : Status) (r0 r1 : Nat) :
    s.ctxEnd k st r0 r1 = (if st = St.success then s else s.logAbort Unit'.cmd c.q (fieldLE c.entry 2 2) c.shard st).putCtx k
      { c with finished := true, status := st, r0 := BitVec.ofNat 32 r0, r1 := BitVec.ofNat 32 r1 } := by
  simp only [State.ctxEnd, h, hf]
  rfl

theorem ctxEnd_ended (h : s.ctx? k = some c) (hf : c.finished = false) (st : Status) (r0 r1 : Nat) : Ended k c st r0 r1 (s.ctxEnd k st r0 r1) := by
  rw [ctxEnd_unfinished h hf]
  exact kget_kset_same ..

theorem ctxEnd_changes (h : s.Inv) (k : Nat) (st : Status) (r0 r1 : Nat) :
    Changes [.regs, .log, .cmd] [Fld.ctlErrlog.head] s (s.ctxEnd k st r0 r1) :=
  .of_keep (State.ctxEnd_keep s k st r0 r1) h (by decide +kernel)

/-- A success is not logged. -/
theorem ctxEnd_success (h : s.ctx? k = some c) (hf : c.finished = false) (r0 r1 : Nat) : s.ctxEnd k St.success r0 r1 = s.putCtx k
    { c with finished := true, status := St.success, r0 := BitVec.ofNat 32 r0, r1 := BitVec.ofNat 32 r1 } := by
  rw [ctxEnd_unfinished h hf, if_pos rfl]

theorem putCtx_only (s : State) (k : Nat) (c : Ctx) : Only [.cmd] s (s.putCtx k c) := fun p => by
  cases p <;> first | exact .inr rfl | exact .inl (by decide)

theorem onRst_only (s : State) (f : Rst → Rst) : Only [.rst] s (s.onRst f) := fun p => by
  cases p <;> first | exact .inr rfl | exact .inl (by decide)

theorem putCtx_regs (s : State) (k : Nat) (c : Ctx) : (s.putCtx k c).regs = s.regs := rfl
theorem onRst_regs (s : State) (f : Rst → Rst) : (s.onRst f).regs = s.regs := rfl
theorem onRst_putCtx_mem (s : State) (f : Rst → Rst) (k : Nat) (c : Ctx) : ((s.onRst f).putCtx k c).mem = s.mem := rfl

/-- Memory is the same. -/
theorem load_congr (h : t.mem = s.mem) (a n : Nat) : t.load a n = s.load a n := congrArg (Memory.bytesAt · a n) h

theorem BytesBut.congr {a n : Nat} (h : BytesBut a n s t) (hm : u.mem = t.mem) : BytesBut a n s u := fun b => hm ▸ h b

theorem ctxEnd_turnedAway (hi : s.Inv) (h : s.ctx? k = some c) (hf : c.finished = false) (st : Status) :
    TurnedAway k c st s (s.ctxEnd k st 0 0) := ⟨ctxEnd_ended h hf st 0 0, ctxEnd_changes hi k st 0 0⟩

/-! ## The checks before every tier -/

/-- What OFF and LEN of a WRITE SHARD are multiples of: extents at Peat. -/
def Ctx.writeUnit (c : Ctx) : Nat := if c.tier = 3 then 0x100000 else 4096

/-- WRITE SHARD of a command that runs, by its checks and its tier. -/
def State.shardWritten (s : State) (k : Nat) (c : Ctx) : State :=
  if c.off % c.writeUnit ≠ 0 ∨ (c.tier = 3 ∧ bitAt (c.csp 48) 0 = true) then s.ctxEnd k St.invalidField 0 0
  else if s.inWindow c.addr c.len = false then s.ctxEnd k St.outOfWindow 0 0
  else if c.tier = 3 then s.writePeat k c
  else if bitAt (c.csp 48) 0 = true then s.writeRestore k c
  else s.writeLive k c

theorem exec_writeShard {k : Fin 128} (h : s.running k 2 = some c) : exec (.writeShard k) s = .next (s.shardWritten k c) := by
  show execWriteShard k s = _
  simp only [execWriteShard, h, State.shardWritten, ← apply_ite Host.Outcome.next]
  congr 1
  refine if_congr ?_ rfl (if_congr (by simp) rfl rfl)
  rw [Bool.or_eq_true, decide_eq_true_iff, Bool.and_eq_true, decide_eq_true_iff]
  rfl

section
variable (hgood : c.off % c.writeUnit = 0) (hwin : s.inWindow c.addr c.len = true)
include hgood hwin

theorem shardWritten_peat (ht : c.tier = 3) (hr : bitAt (c.csp 48) 0 = false) : s.shardWritten k c = s.writePeat k c := by
  rw [State.shardWritten, if_neg (by simp [hgood, hr]), if_neg (by simp [hwin])]
  simp [ht]

theorem shardWritten_restore (ht : c.tier ≠ 3) (hr : bitAt (c.csp 48) 0 = true) : s.shardWritten k c = s.writeRestore k c := by
  rw [State.shardWritten, if_neg (by simp [hgood, ht, hr]), if_neg (by simp [hwin])]
  simp [ht, hr]

theorem shardWritten_live (ht : c.tier ≠ 3) (hr : bitAt (c.csp 48) 0 = false) : s.shardWritten k c = s.writeLive k c := by
  rw [State.shardWritten, if_neg (by simp [hgood, ht, hr]), if_neg (by simp [hwin])]
  simp [ht, hr]

end

theorem spanBad_eq (unit total off len : Nat) : spanBad unit total off len =
    if (len = 0 ∨ len % unit ≠ 0) ∧ off + len ≠ total then some 0x0102 else if total < off + len then some 0x0202 else none := by
  simp only [spanBad, Bool.and_eq_true, Bool.or_eq_true, decide_eq_true_eq]
  rfl

/-! ## Bytes that land -/

theorem length_bytesAt (m : Memory) (a n : Nat) : (Memory.bytesAt m a n).length = n := by
  induction n generalizing a with
  | zero => rfl
  | succ n ih => rw [Memory.bytesAt, List.length_cons, ih]

theorem length_load (s : State) (a n : Nat) : (s.load a n).length = n := length_bytesAt _ _ _

theorem load_store'_same (h : s.Inv) (a : Nat) (bs : List Byte) : (s.store' a bs).load a bs.length = bs := by
  have hm := h.mem
  simp only [Memory.wf, Bool.and_eq_true] at hm
  exact Memory.bytesAt_putBytes_same a bs hm.1

theorem landRegion_apart {off : Nat} {bs : List Byte} {r : Region} (h : overlap off bs.length (s.regionAt r) r.len = false) :
    State.landRegion off bs s r = s := by
  have hno : ¬ max off (s.regionAt r) < min (off + bs.length) (s.regionAt r + r.len) := by
    simp only [overlap, Bool.and_eq_false_iff, decide_eq_false_iff_not] at h
    omega
  exact if_neg hno

/-- A landing that lies within one region goes to its LIVE_ADDR. -/
theorem landRegion_within {off : Nat} {bs : List Byte} {r : Region} (hpos : 0 < bs.length) (hin : off + bs.length ≤ r.len) :
    State.landRegion (s.regionAt r + off) bs s r = s.store' (r.live + off) bs := by
  have hlo : max (s.regionAt r + off) (s.regionAt r) = s.regionAt r + off := by omega
  have hhi : min (s.regionAt r + off + bs.length) (s.regionAt r + r.len) = s.regionAt r + off + bs.length := by omega
  simp only [State.landRegion, hlo, hhi, Nat.sub_self, List.drop_zero, Nat.add_sub_cancel_left, List.take_length]
  rw [if_pos (by omega)]

theorem landRegion_regionAt (off : Nat) (bs : List Byte) (r y : Region) : (State.landRegion off bs s r).regionAt y = s.regionAt y := by
  unfold State.landRegion
  dsimp only
  split <;> rfl

/-- Of a landing, only the regions that it overlaps take a part. -/
theorem landRegions_filter (off : Nat) (bs : List Byte) (l : List Region) (s : State) :
    l.foldl (State.landRegion off bs) s =
      (l.filter (fun y => overlap off bs.length (s.regionAt y) y.len)).foldl (State.landRegion off bs) s := by
  induction l generalizing s with
  | nil => rfl
  | cons r l ih =>
    rw [List.foldl_cons, ih]
    simp only [landRegion_regionAt]
    cases h : overlap off bs.length (s.regionAt r) r.len with
    | true => simp only [List.filter_cons, h, if_true, List.foldl_cons]
    | false => simp only [List.filter_cons, h, Bool.false_eq_true, if_false, landRegion_apart h]

theorem landAt_within {off : Nat} {bs : List Byte} {r : Region} (hin : off + bs.length ≤ r.len) (ht : s.regionAt r + off + bs.length ≤ s.tBytes)
    (hone : s.cut.dir.filter (fun y => overlap (s.regionAt r + off) bs.length (s.regionAt y) y.len) = [r]) :
    s.landAt (s.regionAt r + off) bs = s.store' (r.live + off) bs := by
  have hov : overlap (s.regionAt r + off) bs.length (s.regionAt r) r.len = true :=
    (List.mem_filter.1 (hone ▸ List.mem_singleton_self r : r ∈ s.cut.dir.filter _)).2
  have hpos : 0 < bs.length := by
    simp only [overlap, Bool.and_eq_true, decide_eq_true_eq] at hov
    omega
  have hland : s.cut.dir.foldl (State.landRegion (s.regionAt r + off) bs) s = s.store' (r.live + off) bs := by
    rw [landRegions_filter, hone, List.foldl_cons, List.foldl_nil, landRegion_within hpos hin]
  simp only [State.landAt, hland, if_pos ht]

/-- A landing changes the restore state in nothing but the area. -/
theorem landAt_rst (s : State) (off : Nat) (bs : List Byte) : (s.landAt off bs).rst = { s.rst with area := (s.landAt off bs).rst.area } := by
  have hfold : (s.cut.dir.foldl (State.landRegion off bs) s).rst = s.rst :=
    (Keep.foldl (.refl _ s) fun t r => State.landRegion_keep off bs t r).same .rst (by decide)
  unfold State.landAt
  dsimp only
  generalize s.cut.dir.foldl (State.landRegion off bs) s = u at hfold
  split
  · rw [hfold]
  · split <;> split <;> simp [State.onRst, State.store', hfold]

/-- Below T a shard lies where its region does: the record and the manifest come behind it (R184, R218). -/
theorem sedgeAt_region {shard a n off len : Nat} {r : Region} (h : s.sedgeAt shard = some (a, n)) (hr : s.regionById shard = some r)
    (hpos : 0 < len) (ht : a + off + len ≤ s.tBytes) : a = s.regionAt r := by
  unfold State.sedgeAt at h
  split at h
  · have ha : s.tBytes = a := congrArg Prod.fst (Option.some.inj h)
    omega
  · split at h
    · have ha : s.tBytes + 65536 = a := congrArg Prod.fst (Option.some.inj h)
      omega
    · rw [hr] at h
      exact (congrArg Prod.fst (Option.some.inj h)).symm

/-! ## Live state -/

section
variable (hi : s.Inv) (hc : s.ctx? k = some c) (hf : c.finished = false)
include hi hc hf

theorem writeLive_turnedAway {st : Status} (h : s.writeLive k c = s.ctxEnd k st 0 0) : TurnedAway k c st s (s.writeLive k c) :=
  h ▸ ctxEnd_turnedAway hi hc hf st

/-- Bytes of BX3 memory land at LIVE_ADDR, and LIVE_CLEAN is cleared (R232). -/
theorem writeLive_lands {r : Region} (hstep : c.step = 0) (hgen : c.gen = 0) (hr : s.regionById c.shard = some r)
    (hspan : spanBad 4096 r.len c.off c.len = none) :
    (s.writeLive k c).load (r.live + c.off) c.len = s.load c.addr c.len ∧ BytesBut (r.live + c.off) c.len s (s.writeLive k c) ∧
    (s.writeLive k c).rst = { s.rst with liveClean := false } ∧ Ended k c 0 0 0 (s.writeLive k c) ∧
    Changes [.mem, .rst, .cmd] [] s (s.writeLive k c) := by
  have hlen : (s.load c.addr c.len).length = c.len := length_load ..
  have hw : s.writeLive k c = ((s.store' (r.live + c.off) (s.load c.addr c.len)).onRst (fun r => { r with liveClean := false })).putCtx k
      { c with finished := true, status := St.success, r0 := BitVec.ofNat 32 0, r1 := BitVec.ofNat 32 0 } := by
    simp only [State.writeLive, hstep, hgen, hr, hspan]
    exact ctxEnd_success (s := (s.store' _ _).onRst _) hc hf 0 0
  rw [hw]
  refine ⟨?_, ?_, rfl, kget_kset_same .., fun p => ?_, .of_regs rfl⟩
  · have hload := load_store'_same hi (r.live + c.off) (s.load c.addr c.len)
    rw [hlen] at hload
    exact hload
  · exact BytesBut.store' s _ hlen.le
  · cases p <;> first | exact .inr rfl | exact .inl (by decide)

/-! ## Restore input -/

theorem writeRestore_mixed (hm : s.mireRefill = true) (hcut : c.step ≠ s.rst.cutStep ∨ c.gen ≠ s.rst.cutGen) :
    Ended k c 0x0501 0 0 (s.writeRestore k c) ∧ (s.writeRestore k c).rd Fld.tierRstErrStatus.mixedStep = 1 ∧
    Changes [.regs, .log, .cmd] [Fld.tierRstErrStatus.mixedStep, Fld.ctlErrlog.head] s (s.writeRestore k c) := by
  have hw : s.writeRestore k c = (s.raise Fld.tierRstErrStatus.mixedStep).ctxEnd k St.mixedStep 0 0 := by
    have : (c.step != s.rst.cutStep || c.gen != s.rst.cutGen) = true := by simpa using hcut
    simp only [State.writeRestore, hm, this]
    rfl
  have hinv : (s.raise Fld.tierRstErrStatus.mixedStep).Inv := (State.raise_keep (has_all _) s).inv hi
  have hend := ctxEnd_changes hinv k St.mixedStep 0 0
  rw [hw]
  refine ⟨ctxEnd_ended (s := s.raise _) hc hf _ 0 0, ?_, hend.step (by decide) (by simp) ?_⟩
  · rw [hend.2.rd (by decide)]
    exact rd_wr_same _ 1 (inv_rising hi) (by decide)
  · exact (wr_changes hi _ 1).step (by decide) (by simp) (.refl _ _ s)

/-- Restore input of the chosen cut lands (R238). -/
theorem writeRestore_lands {x : Nat × Nat} (hm : s.mireRefill = true) (hstep : c.step = s.rst.cutStep) (hgen : c.gen = s.rst.cutGen)
    (hx : s.sedgeAt c.shard = some x) (hspan : spanBad 4096 (up4k x.2) c.off c.len = none) :
    (s.writeRestore k c).rst = { s.rst.landed (x.1 + c.off) c.len with
      liveClean := false, arrival := s.now, area := (s.writeRestore k c).rst.area } ∧
    Ended k c 0 0 0 (s.writeRestore k c) ∧
    (∀ r, s.regionById c.shard = some r →
      s.cut.dir.filter (fun y => overlap (x.1 + c.off) c.len (s.regionAt y) y.len) = [r] → c.off + c.len ≤ r.len → x.1 + c.off + c.len ≤ s.tBytes →
      (s.writeRestore k c).load (r.live + c.off) c.len = s.load c.addr c.len ∧ BytesBut (r.live + c.off) c.len s (s.writeRestore k c)) ∧
    Changes [.mem, .rst, .cmd] [] s (s.writeRestore k c) := by
  obtain ⟨a, n⟩ := x
  have hlen : (s.load c.addr c.len).length = c.len := length_load ..
  have hland := State.landAt_keep s (a + c.off) (s.load c.addr c.len)
  have hcmd : (s.landAt (a + c.off) (s.load c.addr c.len)).cmd = s.cmd := hland.same .cmd (by decide)
  have hnow : (s.landAt (a + c.off) (s.load c.addr c.len)).now = s.now := hland.same .now (by decide)
  have hw : s.writeRestore k c = ((s.landAt (a + c.off) (s.load c.addr c.len)).onRst (fun r =>
      { r.landed (a + c.off) c.len with liveClean := false, arrival := s.now })).putCtx k
      { c with finished := true, status := St.success, r0 := BitVec.ofNat 32 0, r1 := BitVec.ofNat 32 0 } := by
    have hsame : (c.step != s.rst.cutStep || c.gen != s.rst.cutGen) = false := by simp [hstep, hgen]
    simp only [State.writeRestore, hm, hsame, hx, hspan]
    rw [← hnow]
    refine ctxEnd_success ?_ hf 0 0
    rw [← hc]
    exact congrArg (fun m : Cmd => kget m.ctxs k) hcmd
  rw [hw]
  refine ⟨?_, kget_kset_same .., fun r hr hone hin ht => ?_, ?_⟩
  · show ({ (s.landAt (a + c.off) (s.load c.addr c.len)).rst.landed (a + c.off) c.len with liveClean := false, arrival := s.now } : Rst) = _
    rw [landAt_rst]
    rfl
  · have hpos : 0 < c.len := by
      have hov := (List.mem_filter.1 (hone ▸ List.mem_singleton_self r : r ∈ s.cut.dir.filter _)).2
      simp only [overlap, Bool.and_eq_true, decide_eq_true_eq] at hov
      omega
    obtain rfl := sedgeAt_region hx hr hpos ht
    have hmem : s.landAt (s.regionAt r + c.off) (s.load c.addr c.len) = s.store' (r.live + c.off) (s.load c.addr c.len) :=
      landAt_within (hlen.symm ▸ hin) (hlen.symm ▸ ht) (hlen.symm ▸ hone)
    have hload := load_store'_same hi (r.live + c.off) (s.load c.addr c.len)
    rw [hlen] at hload
    rw [hmem]
    exact ⟨(load_congr (onRst_putCtx_mem ..) ..).trans hload, (BytesBut.store' s _ hlen.le).congr (onRst_putCtx_mem ..)⟩
  · refine ⟨Only.step (putCtx_only _ k _) (by decide) (Only.step (onRst_only _ _) (by decide) (hland.only.step (by decide) (.refl _ s))), .of_regs ?_⟩
    rw [putCtx_regs, onRst_regs]
    exact hland.same .regs (by decide)

end

/-! ## Peat -/

theorem onPeat_only (s : State) (f : Peat → Peat) : Only [.peat] s (s.onPeat f) := fun p => by
  cases p <;> first | exact .inr rfl | exact .inl (by decide)

theorem foldl_keeps {α β : Type} {p : State → β} {g : State → α → State} (hg : ∀ (s : State) (a : α), p (g s a) = p s) (l : List α) (s : State) :
    p (l.foldl g s) = p s := by
  induction l generalizing s with
  | nil => rfl
  | cons a l ih => exact (ih _).trans (hg s a)

/-- Taking units moves the cursor alone. -/
theorem takeUnits_peat (n : Nat) (s : State) (mine : List Nat) :
    (State.takeUnits n s mine).2.peat.staged = s.peat.staged ∧ (State.takeUnits n s mine).2.peat.cat = s.peat.cat := by
  induction n generalizing s mine with
  | zero => exact ⟨rfl, rfl⟩
  | succ n ih =>
    rw [State.takeUnits]
    dsimp only
    split
    · exact ⟨rfl, rfl⟩
    · exact ih _ _

theorem putExts_peat (s : State) (key : Option (List Byte)) (l : List (Nat × List Byte)) :
    (s.putExts key l).peat.staged = s.peat.staged ∧ (s.putExts key l).peat.cat = s.peat.cat := by
  constructor
  · refine foldl_keeps (p := fun s => s.peat.staged) (fun s x => ?_) l s
    split <;> rfl
  · refine foldl_keeps (p := fun s => s.peat.cat) (fun s x => ?_) l s
    split <;> rfl

theorem length_halvesOf (units : List Nat) (x : Nat) : (halvesOf units x).length = min x (2 * units.length) := by
  rw [halvesOf, List.length_take]
  congr 1
  induction units with
  | nil => rfl
  | cons u l ih =>
    rw [List.flatMap_cons, List.length_append, ih]
    simp
    omega

theorem stage_short {g : Nat} {key : Option (List Byte)} {l : List (Nat × List Byte)}
    (h : s.freeUnits < (l.length + 1) / 2 ∨ (s.takeUnits ((l.length + 1) / 2) []).1.length < (l.length + 1) / 2) : s.stage c g key l = none :=
  if_pos (by simpa using h)

/-- A rewrite that fits is staged behind the others, with the extents that it moves. -/
theorem stage_fits {g : Nat} {key : Option (List Byte)} {l : List (Nat × List Byte)} (hfree : (l.length + 1) / 2 ≤ s.freeUnits)
    (hunits : (s.takeUnits ((l.length + 1) / 2) []).1.length = (l.length + 1) / 2) :
    ∃ u r, s.stage c g key l = some u ∧ u.peat.staged = s.peat.staged ++ [r] ∧ r.peatGen = g ∧ r.moves.map (fun m => m.1) = l.map (fun x => x.1) ∧
      r.q = c.q ∧ r.order = c.order ∧ u.peat.cat = s.peat.cat ∧ Only [.peat] s u := by
  have hno : ¬ (s.freeUnits < (l.length + 1) / 2 || (s.takeUnits ((l.length + 1) / 2) []).1.length < (l.length + 1) / 2) = true := by
    simp only [Bool.or_eq_true, decide_eq_true_eq]
    omega
  have hmoves : ((l.map (fun x => x.1)).zip (halvesOf (s.takeUnits ((l.length + 1) / 2) []).1 l.length)).map (fun m => m.1) = l.map (fun x => x.1) := by
    refine List.map_fst_zip ?_
    rw [length_halvesOf, hunits, List.length_map]
    omega
  have htake := takeUnits_peat ((l.length + 1) / 2) s []
  have honly := (State.takeUnits_keep ((l.length + 1) / 2) s []).only
  let moves := (l.map (fun x => x.1)).zip (halvesOf (s.takeUnits ((l.length + 1) / 2) []).1 l.length)
  refine ⟨_, { peatGen := g, moves := moves, q := c.q, order := c.order }, if_neg hno, ?_, rfl, hmoves, rfl, rfl, ?_, ?_⟩
  · exact congrArg (· ++ _) ((putExts_peat ..).1.trans htake.1)
  · exact (putExts_peat ..).2.trans htake.2
  · exact Only.step (onPeat_only _ _) (by decide) ((State.putExts_keep ..).only.step (by decide) (honly.step (by decide) (.refl _ s)))

/-- The extents that a WRITE SHARD at Peat brings. -/
def State.shardPieces (s : State) (c : Ctx) : List (List Byte) :=
  if c.len = 0 then [] else piecesOf 0x100000 (c.len / 0x100000 + 1) (s.load c.addr c.len)

/-- Some extent differs from its manifest's CRC-64. -/
def State.shardCrcBad (s : State) (c : Ctx) (m : Man) (x : ManRegion) : Bool :=
  (((m.exts.drop (x.first + c.off / 0x100000)).take (s.shardPieces c).length).zip (s.shardPieces c)).any (fun y => crc64 y.2 != y.1.crc)

section
variable {e : CatEntry} {key : Option (List Byte)} {b : List Byte} {m : Man} {x : ManRegion}

theorem writePeat_unknown (hst : s.peatWriteStop = none) (he : s.entryOf c.step c.gen = some e) (hkey : s.entryKey e = some key)
    (hb : s.entryMan e = .ok b) (hx : (Man.ofBytes b).regions.find? (fun x => x.region.shard.toNat == c.shard) = none) :
    s.writePeat k c = s.ctxEnd k St.shardUnknown 0 0 := by
  simp only [State.writePeat, hst, he, hkey, hb, hx]

/-- The region of a good entry waits while Peat writes are held. -/
theorem writePeat_region (hst : s.peatWriteStop = none) (he : s.entryOf c.step c.gen = some e) (hkey : s.entryKey e = some key)
    (hb : s.entryMan e = .ok b) (hx : (Man.ofBytes b).regions.find? (fun x => x.region.shard.toNat == c.shard) = some x) :
    s.writePeat k c = if s.peatHeld then s else s.writePeatRegion k c e key (Man.ofBytes b) x := by
  simp only [State.writePeat, hst, he, hkey, hb, hx]

theorem writePeatRegion_spanBad {st : Status} (h : spanBad 0x100000 x.region.len c.off c.len = some st) :
    s.writePeatRegion k c e key m x = s.ctxEnd k st 0 0 := by
  simp only [State.writePeatRegion, extentBytes, h]

theorem writePeatRegion_crcBad (h : spanBad 0x100000 x.region.len c.off c.len = none) (hcrc : s.shardCrcBad c m x = true) :
    s.writePeatRegion k c e key m x = s.ctxEnd k St.crcMismatch 0 0 := by
  simp only [State.writePeatRegion, extentBytes, h]
  exact if_pos hcrc

/-- Extents with the numbers of those they replace. -/
def State.shardExtents (s : State) (c : Ctx) (x : ManRegion) : List (Nat × List Byte) :=
  ((List.range (s.shardPieces c).length).map (fun i => x.first + c.off / 0x100000 + i)).zip (s.shardPieces c)

theorem writePeatRegion_unstaged (h : spanBad 0x100000 x.region.len c.off c.len = none) (hcrc : s.shardCrcBad c m x = false)
    (hstage : s.stage c e.peatGen key (s.shardExtents c x) = none) :
    s.writePeatRegion k c e key m x = (s.peatErr St.peatFull).ctxEnd k St.peatFull 0 0 := by
  simp only [State.shardExtents, State.shardPieces] at hstage
  simp only [State.writePeatRegion, extentBytes, h, hstage]
  exact if_neg (Bool.eq_false_iff.1 hcrc)

theorem writePeatRegion_staged (h : spanBad 0x100000 x.region.len c.off c.len = none) (hcrc : s.shardCrcBad c m x = false)
    (hstage : s.stage c e.peatGen key (s.shardExtents c x) = some u) : s.writePeatRegion k c e key m x = u.ctxEnd k St.success 0 0 := by
  simp only [State.shardExtents, State.shardPieces] at hstage
  simp only [State.writePeatRegion, extentBytes, h, hstage]
  exact if_neg (Bool.eq_false_iff.1 hcrc)

theorem length_shardExtents (s : State) (c : Ctx) (x : ManRegion) : (s.shardExtents c x).length = (s.shardPieces c).length := by
  rw [State.shardExtents, List.length_zip, List.length_map, List.length_range, Nat.min_self]

theorem shardExtents_numbers (s : State) (c : Ctx) (x : ManRegion) :
    (s.shardExtents c x).map (fun y => y.1) = (List.range (s.shardPieces c).length).map (fun i => x.first + c.off / 0x100000 + i) := by
  refine List.map_fst_zip ?_
  rw [List.length_map, List.length_range]

theorem peatFull_ends (hi : s.Inv) (hc : s.ctx? k = some c) (hf : c.finished = false) :
    Ended k c 0x0802 0 0 ((s.peatErr St.peatFull).ctxEnd k St.peatFull 0 0) ∧
    ((s.peatErr St.peatFull).ctxEnd k St.peatFull 0 0).rd Fld.peatErrStatus.peatFull = 1 ∧
    Changes [.regs, .log, .cmd] [Fld.ctlErrlog.head, Fld.peatErrStatus.peatFull] s ((s.peatErr St.peatFull).ctxEnd k St.peatFull 0 0) := by
  have herr : s.peatErr St.peatFull = s.raise Fld.peatErrStatus.peatFull := rfl
  have hinv : (s.raise Fld.peatErrStatus.peatFull).Inv := (State.raise_keep (has_all _) s).inv hi
  have hend := ctxEnd_changes hinv k St.peatFull 0 0
  rw [herr]
  refine ⟨ctxEnd_ended (s := s.raise _) hc hf _ 0 0, ?_, hend.step (by decide) (by simp) ?_⟩
  · rw [hend.2.rd (by decide)]
    exact rd_wr_same _ 1 (inv_rising hi) (by decide)
  · exact (wr_changes hi _ 1).step (by decide) (by simp) (.refl _ _ s)

/-- Units are short: nothing is staged (R199). -/
theorem writePeatRegion_full (hi : s.Inv) (hc : s.ctx? k = some c) (hf : c.finished = false)
    (h : spanBad 0x100000 x.region.len c.off c.len = none) (hcrc : s.shardCrcBad c m x = false)
    (hfull : s.freeUnits < ((s.shardPieces c).length + 1) / 2 ∨
      (s.takeUnits (((s.shardPieces c).length + 1) / 2) []).1.length < ((s.shardPieces c).length + 1) / 2) :
    Ended k c 0x0802 0 0 (s.writePeatRegion k c e key m x) ∧ (s.writePeatRegion k c e key m x).rd Fld.peatErrStatus.peatFull = 1 ∧
    Changes [.regs, .log, .cmd] [Fld.ctlErrlog.head, Fld.peatErrStatus.peatFull] s (s.writePeatRegion k c e key m x) := by
  rw [writePeatRegion_unstaged h hcrc (stage_short (by rwa [length_shardExtents]))]
  exact peatFull_ends hi hc hf

/-- Good extents are staged as one pending rewrite where units are free. -/
theorem writePeatRegion_fits (hc : s.ctx? k = some c) (hf : c.finished = false)
    (h : spanBad 0x100000 x.region.len c.off c.len = none) (hcrc : s.shardCrcBad c m x = false)
    (hfree : ((s.shardPieces c).length + 1) / 2 ≤ s.freeUnits)
    (hunits : (s.takeUnits (((s.shardPieces c).length + 1) / 2) []).1.length = ((s.shardPieces c).length + 1) / 2) :
    Ended k c 0 0 0 (s.writePeatRegion k c e key m x) ∧ (s.writePeatRegion k c e key m x).peat.staged.dropLast = s.peat.staged ∧
    ((s.writePeatRegion k c e key m x).peat.staged.getLast?).map (fun r => (r.peatGen, r.moves.map (fun m => m.1), r.q, r.order)) =
      some (e.peatGen, (List.range (s.shardPieces c).length).map (fun i => x.first + c.off / 0x100000 + i), c.q, c.order) ∧
    (s.writePeatRegion k c e key m x).peat.cat = s.peat.cat ∧ Changes [.peat, .cmd] [] s (s.writePeatRegion k c e key m x) := by
  have hl := length_shardExtents s c x
  obtain ⟨u, r, hstage, hstaged, hgen, hmoves, hq, horder, hcat, honly⟩ :=
    stage_fits (c := c) (g := e.peatGen) (key := key) (s := s) (l := s.shardExtents c x) (by rwa [hl]) (by rwa [hl])
  have hctx : u.ctx? k = some c := (congrArg (fun m : Cmd => kget m.ctxs k) (honly.same .cmd (by decide))).trans hc
  have hw : s.writePeatRegion k c e key m x = u.putCtx k
      { c with finished := true, status := St.success, r0 := BitVec.ofNat 32 0, r1 := BitVec.ofNat 32 0 } := by
    rw [writePeatRegion_staged h hcrc hstage]
    exact ctxEnd_success hctx hf 0 0
  rw [hw]
  refine ⟨kget_kset_same .., ?_, ?_, hcat, Only.step (putCtx_only _ k _) (by decide) (honly.step (by decide) (.refl _ s)),
    .of_regs (honly.same .regs (by decide))⟩
  · exact (congrArg List.dropLast hstaged).trans List.dropLast_concat
  · refine (congrArg (fun l : List Rewrite => l.getLast?.map _) hstaged).trans ?_
    rw [List.getLast?_concat, Option.map_some, hgen, hmoves, shardExtents_numbers, hq, horder]

end

/-! ## The statement -/

/-- The command is turned away wherever its work is nothing but its end with a status. -/
theorem shardWritten_turnedAway {k : Fin 128} (hi : s.Inv) (h : s.running k 2 = some c) {st : Status}
    (hw : s.shardWritten k c = s.ctxEnd k st 0 0) : Does (.writeShard k) s (TurnedAway k c st s) :=
  ⟨_, exec_writeShard h, hw ▸ ctxEnd_turnedAway hi (running_ctx h).1 (running_ctx h).2 st⟩

/-- Settles O53: the checks before every tier, then each tier by what its own operation does. -/
theorem writeShard : Obligations.WriteShard := by
  intro s k hi c h
  obtain ⟨hc, hf⟩ := running_ctx h
  simp only [← spanBad_eq]
  refine ⟨fun hoff => shardWritten_turnedAway hi h (if_pos (.inl hoff)), fun ht hr => shardWritten_turnedAway hi h (if_pos (.inr ⟨ht, hr⟩)),
    fun hoff hr hwin => shardWritten_turnedAway hi h ?_, fun hoff hwin => ⟨fun ht hr => ?_, fun ht hr => ?_, fun ht hr => ?_⟩⟩
  · refine (if_neg ?_).trans (if_pos hwin)
    rintro (hno | ⟨ht, hno⟩)
    · exact hno hoff
    · rcases hr with hr | hr
      · exact hr ht
      · simp [hr] at hno
  · have hlive := shardWritten_live (s := s) (k := k) hoff hwin ht hr
    refine ⟨fun hno => shardWritten_turnedAway hi h (hlive.trans (if_pos (by simpa using hno))), fun hstep hgen => ⟨fun hr => ?_, fun r hr => ?_⟩⟩
    · refine shardWritten_turnedAway hi h (hlive.trans ?_)
      simp [State.writeLive, hstep, hgen, hr]
      rfl
    · refine ⟨fun st hspan => shardWritten_turnedAway hi h (hlive.trans ?_), fun hspan => ⟨_, exec_writeShard h, ?_⟩⟩
      · rw [if_neg ht] at hspan
        simp [State.writeLive, hstep, hgen, hr, hspan]
      · rw [if_neg ht] at hspan
        rw [hlive]
        exact writeLive_lands hi hc hf hstep hgen hr hspan
  · have hrest := shardWritten_restore (s := s) (k := k) hoff hwin ht hr
    refine ⟨fun hno => shardWritten_turnedAway hi h (hrest.trans (if_pos (by simp [hno]))), fun hm hcut => ⟨_, exec_writeShard h, ?_⟩,
      fun hm hstep hgen => ⟨fun hx => shardWritten_turnedAway hi h (hrest.trans ?_), fun x hx => ⟨fun st hspan =>
        shardWritten_turnedAway hi h (hrest.trans ?_), fun hspan => ⟨_, exec_writeShard h, ?_⟩⟩⟩⟩
    · rw [hrest]
      exact writeRestore_mixed hi hc hf hm hcut
    · simp [State.writeRestore, hm, hstep, hgen, hx]
      rfl
    · rw [if_neg ht] at hspan
      simp [State.writeRestore, hm, hstep, hgen, hx, hspan]
    · rw [if_neg ht] at hspan
      rw [hrest]
      exact writeRestore_lands hi hc hf hm hstep hgen hx hspan
  · have hpeat := shardWritten_peat (s := s) (k := k) hoff hwin ht hr
    refine ⟨fun st hst => shardWritten_turnedAway hi h (hpeat.trans ?_), fun hst => ⟨fun he => shardWritten_turnedAway hi h (hpeat.trans ?_),
      fun e he key hkey b hb => ?_⟩⟩
    · simp only [State.writePeat, hst]
    · simp only [State.writePeat, hst, he]
      rfl
    · refine ⟨fun hx => shardWritten_turnedAway hi h (hpeat.trans (writePeat_unknown hst he hkey hb hx)), fun x hx => ?_⟩
      · have hreg := hpeat.trans (writePeat_region (k := k) hst he hkey hb hx)
        refine ⟨fun hheld => ⟨_, exec_writeShard h, hreg.trans (if_pos hheld)⟩, fun hheld => ?_⟩
        replace hreg := hreg.trans (if_neg (by rw [hheld]; exact Bool.false_ne_true))
        refine ⟨fun st hspan => shardWritten_turnedAway hi h (hreg.trans ?_), fun hspan hcrc => shardWritten_turnedAway hi h (hreg.trans ?_),
          fun hspan hcrc hfull => ⟨_, exec_writeShard h, ?_⟩, fun hspan hcrc hfree hunits => ⟨_, exec_writeShard h, ?_⟩⟩
        · rw [if_pos ht] at hspan
          exact writePeatRegion_spanBad hspan
        · rw [if_pos ht] at hspan
          exact writePeatRegion_crcBad hspan hcrc
        · rw [if_pos ht] at hspan
          rw [hreg]
          exact writePeatRegion_full hi hc hf hspan hcrc hfull
        · rw [if_pos ht] at hspan
          rw [hreg]
          exact writePeatRegion_fits hc hf hspan hcrc hfree hunits

end Sys2Proof.Machine
end

section
/-! Containment of uncorrectable errors (R53): the BX3 frames that a failing slice buffer held are lost. -/
namespace Sys2Proof.Machine

/-- Slice 0 of a running engine is open and holds one BX3 frame. -/
def State.holdsBx3 : State :=
  { (State.reset.onBoot (fun b => { b with phase := .running })).putSlice 0 .opened with bx3Out := [(0, .tx, { tc := 2, bytes := [] })] }

theorem holdsBx3_inv : State.holdsBx3.Inv := State.inv_plain rfl (by decide +kernel)

/-- The abrupt close of the slice loses the frame. -/
theorem holdsBx3_loses : (match exec (.sliceBufferError 0) State.holdsBx3 with
    | .next t => t.bx3Out.isEmpty
    | _ => false) = true := by decide +kernel

/-- Refutes O60: a buffer error takes the BX3 frames that the slice held, and the statement names no component that they stand in. -/
theorem not_errorContainment : ¬ Obligations.ErrorContainment := by
  intro h
  obtain ⟨hbuffer, -⟩ := h State.holdsBx3 holdsBx3_inv
  obtain ⟨t, ht, -, -, -, -, -, -, honly, -⟩ := hbuffer 0 (by decide +kernel) (by decide +kernel) (by decide +kernel)
  have hlost := holdsBx3_loses
  rw [ht] at hlost
  have hkept : t.settle.bx3Out = State.holdsBx3.bx3Out :=
    ((State.settle_keep t).same .bx3Out (by decide)).trans (honly.same .bx3Out (by decide))
  simp [hkept, State.holdsBx3] at hlost

end Sys2Proof.Machine
end

section
/-! Issue and start of a bucket (R91, R107): bytes that a bucket holds before its start are delivered at its start. -/
namespace Sys2Proof.Machine

/-- An all-gather of one element waits to start in channel 0, whose members are two engines of one rack. The list of its held bytes is
not empty: it names a landing of no bytes, of which a sender is to hear. No run reaches this (only a started bucket is given bytes), but neither
`State.Inv` nor the statement says so. -/
def State.startsHolding : State :=
  let ack : AckSent := { rack := 0, pos := 1, channel := 0, seq := 0, slice := 0, bytes := 0, last := false }
  let b : Bucket := { desc := { gather := true, fmt := 4, e := 1 }, hold := [{ off := 0, bytes := [], ack := some ack }] }
  let s := State.reset.onBoot (fun b => { b with phase := .running })
  ((((s.wr Fld.redCtrl.enable 1).wr (Fld.redChCfg.enable 0) 1).wr (Fld.redChCfg.n 0) 2).wr (Fld.redChCfg.r 0) 1).putChan 0 { issued := [b] }

theorem startsHolding_inv : State.startsHolding.Inv := State.inv_plain rfl (by decide +kernel)

theorem startsHolding_serves : State.startsHolding.chanServes 0 = true := by decide +kernel

/-- The bucket at the head of the order there. -/
def State.headBucket (s : State) : Bucket := ((s.chan 0).issued.head?).getD {}

/-- Everything that the start asks for is there: it is the bucket's turn, and it takes no tag, since its channel has no port. -/
theorem startsHolding_turn : (let s := State.startsHolding; let b := s.headBucket
    (s.chan 0).issued.head? = some b ∧ (!b.dead && b.seq == (s.chan 0).nextSeq && (s.chan 0).running.all (fun r => r.gone) && s.bucketReady 0 b) = true ∧
    s.planOpen (s.plan 0 b) = true ∧ (s.plan 0 b).length ≤ s.red.tags.freeCount ∧ 2 ≤ (s.chCfg 0).n ∧ s.bucket 0 b.seq = none ∧
    (s.chan 0).running.all (fun r => r.undel.isEmpty && r.hold.isEmpty) = true ∧
    s.red.waiting.any (fun w => w.frame.channel.toNat == 0 && w.frame.seq == b.seq) = false) := by decide +kernel

/-- The start delivers what was held, and its sender hears of it. -/
theorem startsHolding_acknowledges : (match exec (.bucketStart 0) State.startsHolding with
    | .next t => t.acksOut.length == 1
    | _ => false) = true := by decide +kernel

/-- Refutes O30: a start delivers what the bucket already held, and the acknowledgement of it changes a component that the statement does not
name. -/
theorem not_bucketIssueStart : ¬ Obligations.BucketIssueStart := by
  intro h
  obtain ⟨-, -, hstart⟩ := h State.startsHolding 0 startsHolding_inv
  obtain ⟨hhead, hgo, hopen, hfree, hn, hnew, hidle, hwait⟩ := startsHolding_turn
  obtain ⟨-, -, -, hruns⟩ := hstart startsHolding_serves _ hhead
  obtain ⟨t, ht, -, -, -, -, -, -, -, honly, -⟩ := hruns hgo hopen hfree hn hnew hidle hwait
  have hsent := startsHolding_acknowledges
  rw [ht] at hsent
  have hkept : t.settle.acksOut = State.startsHolding.acksOut :=
    ((State.settle_keep t).same .acksOut (by decide)).trans (honly.same .acksOut (by decide))
  have hnone : State.startsHolding.acksOut = [] := by decide +kernel
  simp [hkept, hnone] at hsent

end Sys2Proof.Machine
end

section
/-! Data frames of buckets (R54, R84, R85, R88, R89, R91, R106, R107, R111). -/
namespace Sys2Proof.Machine

variable {s t u : State} {n : Fin 42} {f : Frame} {b b' b0 : Bucket} {ch : Nat}

/-! ## The buckets of a channel -/

theorem putChan_chan (s : State) (hch : ch < 32) (x : Chan) : (s.putChan ch x).chan ch = x := vget_vset_same _ _ _ hch

theorem putBucket_running (hch : ch < 32) :
    ((s.putBucket ch b').chan ch).running = (s.chan ch).running.map (fun c => if c.seq == b'.seq then b' else c) :=
  congrArg Chan.running (putChan_chan s hch _)

theorem bucket_mem {seq : W32} (h : s.bucket ch seq = some b) : b ∈ (s.chan ch).running ∧ b.seq = seq :=
  ⟨List.mem_of_find?_eq_some h, by simpa using List.find?_some h⟩

/-- The only bucket that has started. -/
theorem running_one {seq : W32} (h : s.bucket ch seq = some b) (hone : (s.chan ch).running.length = 1) : (s.chan ch).running = [b] := by
  obtain ⟨c, hc⟩ := List.length_eq_one_iff.1 hone
  have hm := (bucket_mem h).1
  rw [hc, List.mem_singleton] at hm
  rw [hc, hm]

theorem bucket_one (h : (s.chan ch).running = [b]) : s.bucket ch b.seq = some b := by
  simp [State.bucket, h]

theorem putBucket_one (hch : ch < 32) (h : (s.chan ch).running = [b]) (hs : b'.seq = b.seq) : ((s.putBucket ch b').chan ch).running = [b'] := by
  simp [putBucket_running hch, h, hs]

theorem putBucket_bucket_one (hch : ch < 32) (h : (s.chan ch).running = [b]) (hs : b'.seq = b.seq) :
    (s.putBucket ch b').bucket ch b'.seq = some b' := bucket_one (putBucket_one hch h hs)

theorem putBucket_only (s : State) (ch : Nat) (b : Bucket) : Only [.red] s (s.putBucket ch b) := (State.putBucket_keep s ch b).only

/-! ## Frames at a slice -/

/-- The commands that bring a data frame, with its type. -/
def dataFrames (n : Fin 42) (f : Frame) : List (BitVec 8 × Instr) :=
  [(Ty.partial', .reducePartialFrame n f), (Ty.resultCopy, .resultCopyFrame n f), (Ty.allGather, .allGatherDataFrame n f)]

theorem exec_dataFrame {d : BitVec 8 × Instr} (hd : d ∈ dataFrames n f) : exec d.2 s = settled (.next (s.redFrame n d.1 f)) := by
  simp only [dataFrames, List.mem_cons, List.not_mem_nil, or_false] at hd
  rcases hd with rfl | rfl | rfl <;> rfl

theorem redFrame_heard {ty : BitVec 8} (h : s.hears n ty f = true) :
    s.redFrame n ty f = if s.takesPart n then s.bucketIn n ty f else s.staleAt n := recv_hears h

theorem lookup_live (h : s.lookup f = .started b) : b.dead = false := by
  unfold State.lookup at h
  dsimp only at h
  split at h
  · split at h
    · next hl =>
      obtain rfl := Look.started.inj h
      simp only [Bool.and_eq_true, Bool.not_eq_true'] at hl
      exact hl.1
    · cases h
  · split at h <;> cases h

/-- A bucket that has not started may still be started, so there is nothing to find again. -/
theorem revive_early (h : s.lookup f = .early) : s.revive f = s := by
  unfold State.lookup at h
  unfold State.revive
  dsimp only at h ⊢
  refine if_neg fun hr => ?_
  cases hb : s.bucket f.channel.toNat f.seq with
  | some b =>
    rw [hb] at hr
    simp at hr
  | none =>
    rw [hb] at h
    simp only [Bool.and_eq_true, decide_eq_true_eq] at h hr
    split at h
    · next he => omega
    · cases h

theorem revive_started {b : Bucket} (h : s.bucket f.channel.toNat f.seq = some b) : s.revive f = s := by
  unfold State.revive
  dsimp only
  refine if_neg fun hr => ?_
  rw [h] at hr
  simp at hr

theorem bucketIn_partial (h : s.lookup f = .started b) : s.bucketIn n Ty.partial' f = s.partialIn n f b := by
  have hty : Ty.partial' ≠ Ty.resultCopy := by decide
  simp only [State.bucketIn, if_neg hty, h, if_true]

theorem bucketIn_copy (h : s.lookup f = .started b) (hb : s.bucket f.channel.toNat f.seq = some b) :
    s.bucketIn n Ty.resultCopy f = s.copyIn n f b := by
  have hty : Ty.resultCopy ≠ Ty.partial' := by decide
  simp only [State.bucketIn, if_true, revive_started hb, h, if_neg hty]

theorem bucketIn_gather (h : s.lookup f = .started b) : s.bucketIn n Ty.allGather f = s.gatherIn n f b := by
  have hty : Ty.allGather ≠ Ty.partial' := by decide
  have hty' : Ty.allGather ≠ Ty.resultCopy := by decide
  simp only [State.bucketIn, if_neg hty', h, if_neg hty]

/-! ## A fragment and its place -/

/-- What a fragment that is taken shows. -/
theorem place_at {rg : Nat × Nat} {size es off cnt bytes i : Nat} (h : place rg size es off cnt bytes = .at' i) :
    i = (off - rg.1) / size ∧ rg.1 + i * size = off := by
  unfold place at h
  split at h
  · cases h
  · next hlo =>
    split at h
    · cases h
    · dsimp only at h
      split at h
      · next hat =>
        obtain rfl := Place.at'.inj h
        simp only [Bool.and_eq_true, decide_eq_true_eq] at hat
        have hdvd := Nat.div_mul_cancel (Nat.dvd_of_mod_eq_zero hat.1)
        exact ⟨rfl, by omega⟩
      · cases h

theorem takeData_at {ty : BitVec 8} {port key i : Nat} {p : Place} {act : Nat → Bucket → State → State} {b1 : Bucket} (hp : p = .at' i)
    (h : (b.bindRx ty port f).bind (fun b => b.take' key f.offset.toNat) = some b1) :
    s.takeData n ty f b port key p act = act i { b1 with arrival := s.now } s := by
  obtain ⟨c, hc, htake⟩ := Option.bind_eq_some_iff.1 h
  simp only [State.takeData, hc, hp, htake]

/-- Taking a fragment records it, and changes nothing else that its bucket holds. -/
theorem taken_keeps {ty : BitVec 8} {port key off : Nat} {b1 : Bucket} (h : (b.bindRx ty port f).bind (fun b => b.take' key off) = some b1) :
    ∃ rx, b1 = { b with rx := rx, got := b.got ++ [(key, off)] } := by
  obtain ⟨c, hc, htake⟩ := Option.bind_eq_some_iff.1 h
  have hb : ∃ rx, c = { b with rx := rx } := by
    unfold Bucket.bindRx at hc
    split at hc
    · split at hc
      · exact ⟨b.rx, (Option.some.inj hc).symm⟩
      · cases hc
    · exact ⟨_, (Option.some.inj hc).symm⟩
  obtain ⟨rx, rfl⟩ := hb
  unfold Bucket.take' at htake
  split at htake
  · cases htake
  · exact ⟨rx, (Option.some.inj htake).symm⟩

/-! ## Delivery -/

/-- With one bucket started, its own turn has come. -/
theorem deliver_one (h : (s.chan ch).running = [b]) : s.deliver ch = s.deliverB ch b.seq := by
  simp only [State.deliver, h, List.map_cons, List.map_nil, State.deliverN]
  split
  · split <;> rfl
  · rfl

theorem deliverB_live (h : s.bucket ch b.seq = some b) (hd : b.dead = false) :
    s.deliverB ch b.seq = b.hold.foldl (fun s l => s.land ch b.seq l)
      (b.undel.foldl (fun s fr => s.deliverOne ch b fr) (s.putBucket ch { b with undel := [], hold := [] })) := by
  simp only [State.deliverB, h, hd]
  rfl

/-! ## Ring partials of the last step -/

/-- The values of a fragment, entered one after the other. -/
def enterValues {α : Type} (m : SMap α) (first : Nat) (vs : List α) : SMap α :=
  ((List.range vs.length).zip vs).foldl (fun m y => kset m (first + y.1) y.2) m

theorem kget_enterFrom_before {α : Type} (vs : List α) (first k e : Nat) (m : SMap α) (h : e < first + k) :
    kget (((List.range' k vs.length).zip vs).foldl (fun m y => kset m (first + y.1) y.2) m) e = kget m e := by
  induction vs generalizing k m with
  | nil => rfl
  | cons v l ih =>
    refine (ih (k + 1) _ (by omega)).trans ?_
    exact kget_kset_other _ _ (by omega)

theorem kget_enterFrom {α : Type} (vs : List α) (first k j : Nat) (m : SMap α) (h : j < vs.length) :
    kget (((List.range' k vs.length).zip vs).foldl (fun m y => kset m (first + y.1) y.2) m) (first + k + j) = vs[j]? := by
  induction vs generalizing k j m with
  | nil => cases h
  | cons v l ih =>
    cases j with
    | zero => exact (kget_enterFrom_before l first (k + 1) _ _ (by omega)).trans (kget_kset_same ..)
    | succ j =>
      have hstep := ih (k + 1) j (kset m (first + k) v) (by simpa using h)
      rw [show first + (k + 1) + j = first + k + (j + 1) by omega] at hstep
      exact hstep

/-- Each value reads as it was entered. -/
theorem kget_enterValues {α : Type} (m : SMap α) (first : Nat) (vs : List α) {j : Nat} (h : j < vs.length) :
    kget (enterValues m first vs) (first + j) = vs[j]? := by
  have hfrom := kget_enterFrom vs first 0 j m h
  rwa [Nat.add_zero, ← List.range_eq_range'] at hfrom

/-- Final values as bytes. -/
def valueBytes (vs : List W32) : List Byte := vs.flatMap (fun v => leBytes 4 v.toNat)

/-- The bucket once its final values have been delivered. -/
def Bucket.enter (b : Bucket) (first : Nat) (vs : List W32) : Bucket :=
  { b with finals := enterValues b.finals first vs, undel := [], hold := [] }

/-- With no backup, the final values of the only bucket are entered and stored at once (R85, R89). -/
theorem gotFinal_one (hch : ch < 32) (h : (s.chan ch).running = [b]) (hhold : s.holders ch = []) (hu : b.undel = []) (hb : b.hold = [])
    (hd : b.dead = false) (hdir : b.desc.direct = false) (first : Nat) (vs : List W32) (leaf : Nat) :
    ∃ u : State, s.gotFinal ch b.seq first vs leaf = u.store' (b.desc.result + 4 * (first - (s.ownPiece ch b).1)) (valueBytes vs) ∧
      Only [.red] s u ∧ u.bucket ch b.seq = some (b.enter first vs) := by
  have hput := putBucket_one (s := s) (b' := { b with finals := enterValues b.finals first vs, undel := [(first, vs)] }) hch h rfl
  have hone := (deliver_one hput).trans (deliverB_live (bucket_one hput) hd)
  refine ⟨_, ?_, (putBucket_only _ ch _).step (fun _ => id) (putBucket_only s ch _), putBucket_bucket_one (b' := b.enter first vs) hch hput rfl⟩
  simp only [State.gotFinal, bucket_one h, hu, List.nil_append]
  rw [show State.holders (s.putBucket ch _) ch = [] from hhold]
  refine hone.trans ?_
  simp only [hb, List.foldl_nil, List.foldl_cons, State.deliverOne, hdir]
  rfl

/-- Bytes stored where so far only the reductions have changed. -/
theorem stored_bytes (hi : s.Inv) (ho : Only [.red] s u) (a : Nat) (bs : List Byte) :
    (u.store' a bs).load a bs.length = bs ∧ BytesBut a bs.length s (u.store' a bs) ∧ Changes [.red, .mem] [] s (u.store' a bs) := by
  have hmem : u.mem = s.mem := ho.same .mem (by decide)
  have hwf := hi.mem
  rw [← hmem] at hwf
  simp only [Memory.wf, Bool.and_eq_true] at hwf
  refine ⟨Memory.bytesAt_putBytes_same a bs hwf.1, fun c => ?_, (State.store'_keep u a bs).only.step (by decide) (ho.step (by decide) (.refl _ s)),
    .of_regs (ho.same .regs (by decide))⟩
  rw [← hmem]
  exact BytesBut.store' u bs le_rfl c

theorem length_valueBytes (vs : List W32) : (valueBytes vs).length = 4 * vs.length := by
  unfold valueBytes
  induction vs with
  | nil => rfl
  | cons v l ih =>
    rw [List.flatMap_cons, List.length_append, ih, List.length_cons]
    show 4 + 4 * l.length = _
    omega

theorem chan_lt (f : Frame) : f.channel.toNat < 32 := f.channel.isLt

/-- A ring partial of a started bucket, as its fragment is taken. -/
theorem partialIn_taken {i : Nat} {b1 : Bucket} (hg : b.desc.gather = false) (hc : b.completed = false)
    (hfmt : f.pfmt = (s.chCfg f.channel.toNat).bf16) (hcard : f.card = false) (hstage : f.stage = false) (hrack : f.srcRack = s.myRack)
    (hpos : f.srcPos = (s.chCfg f.channel.toNat).prev) (hlast : f.hop.toNat + 2 = (s.chCfg f.channel.toNat).n)
    (hat : place ((s.chCfg f.channel.toNat).chunk b.desc.e (((s.chCfg f.channel.toNat).pos + 2 * (s.chCfg f.channel.toNat).n - 2 - f.hop.toNat) %
      (s.chCfg f.channel.toNat).n)) (uflFrag (s.chCfg f.channel.toNat).pBytes) (s.chCfg f.channel.toNat).pBytes f.offset.toNat f.count.toNat
      f.payload.length = .at' i)
    (hready : s.hopReady f.channel.toNat b f.hop.toNat ((s.chCfg f.channel.toNat).ufl.getD (i % (s.chCfg f.channel.toNat).ufl.length) 0) = true)
    (htake : (b.bindRx Ty.partial' ((s.chCfg f.channel.toNat).ufl.getD (i % (s.chCfg f.channel.toNat).ufl.length) 0) f).bind
      (fun b => b.take' f.hop.toNat f.offset.toNat) = some b1) :
    s.partialIn n f b = (s.putBucket f.channel.toNat { b1 with arrival := s.now }).ringStep f.channel.toNat f.seq f.hop.toNat i
      (partials (s.chCfg f.channel.toNat).bf16 f.payload) n := by
  have hport := (place_at hat).1
  rw [hport] at hready htake
  have hnot : (b.desc.gather || b.completed || f.pfmt != (s.chCfg f.channel.toNat).bf16 || f.card) = false := by simp [hg, hc, hfmt, hcard]
  have hhop : ¬ (s.chCfg f.channel.toNat).n ≤ f.hop.toNat + 1 := by omega
  simp only [State.partialIn, hnot, hstage, State.ringIn, Bool.false_eq_true, if_false]
  rw [if_neg]
  · exact takeData_at hat htake
  · simp only [hrack, hpos, bne_self_eq_false, Bool.false_or, Bool.or_eq_true, decide_eq_true_eq, Bool.not_eq_true', not_or, Bool.not_eq_false]
    exact ⟨hhop, hready⟩

/-- Received values, summed with the local contribution (R85). -/
def State.summed (s : State) (b : Bucket) (first : Nat) (vs : List W32) : List W32 :=
  ((List.range vs.length).zip vs).map (fun y => add32 y.2 (s.contrib b (first + y.1)))

theorem length_summed (s : State) (b : Bucket) (first : Nat) (vs : List W32) : (s.summed b first vs).length = vs.length := by
  rw [State.summed, List.length_map, List.length_zip, List.length_range, Nat.min_self]

theorem ringStep_last {hop i leaf : Nat} {vs : List W32} (h : (s.chan ch).running = [b]) (hlast : hop + 2 = (s.chCfg ch).n)
    (hr : (s.chCfg ch).r = 1) {first : Nat}
    (hfirst : ((s.chCfg ch).chunk b.desc.e (((s.chCfg ch).pos + 2 * (s.chCfg ch).n - 2 - hop) % (s.chCfg ch).n)).1 +
      i * uflFrag (s.chCfg ch).pBytes = first) :
    s.ringStep ch b.seq hop i vs leaf = s.gotFinal ch b.seq first (s.summed b first vs) leaf := by
  simp only [State.ringStep, State.gotRack, bucket_one h, hr, if_pos hlast, if_true, frag, hfirst]
  rfl

/-- REDUCE_PARTIAL_FRAME of the last ring step in a job of one rack: the sum lands at RESULT_ADDR (R85, R89). -/
theorem partial_lands (hi : s.Inv) (hbk : s.bucket f.channel.toNat f.seq = some b) (hlook : s.lookup f = .started b) (hc : b.completed = false)
    (hpart : s.takesPart n = true) (hu : b.undel = []) (hb : b.hold = []) (hheard : s.hears n Ty.partial' f = true) (hstage : f.stage = false)
    (hg : b.desc.gather = false) (hfmt : f.pfmt = (s.chCfg f.channel.toNat).bf16) (hcard : f.card = false) (hrack : f.srcRack = s.myRack)
    (hpos : f.srcPos = (s.chCfg f.channel.toNat).prev) (hlast : f.hop.toNat + 2 = (s.chCfg f.channel.toNat).n)
    (hr : (s.chCfg f.channel.toNat).r = 1) (hdir : b.desc.direct = false) (hhold : s.holders f.channel.toNat = [])
    (hone : (s.chan f.channel.toNat).running.length = 1) {i : Nat}
    (hat : place ((s.chCfg f.channel.toNat).chunk b.desc.e (((s.chCfg f.channel.toNat).pos + 2 * (s.chCfg f.channel.toNat).n - 2 - f.hop.toNat) %
      (s.chCfg f.channel.toNat).n)) (uflFrag (s.chCfg f.channel.toNat).pBytes) (s.chCfg f.channel.toNat).pBytes f.offset.toNat f.count.toNat
      f.payload.length = .at' i)
    (hready : s.hopReady f.channel.toNat b f.hop.toNat ((s.chCfg f.channel.toNat).ufl.getD (i % (s.chCfg f.channel.toNat).ufl.length) 0) = true)
    {b1 : Bucket}
    (htake : (b.bindRx Ty.partial' ((s.chCfg f.channel.toNat).ufl.getD (i % (s.chCfg f.channel.toNat).ufl.length) 0) f).bind
      (fun b => b.take' f.hop.toNat f.offset.toNat) = some b1) :
    let vs := partials (s.chCfg f.channel.toNat).bf16 f.payload
    let a := b.desc.result + 4 * (f.offset.toNat - (s.ownPiece f.channel.toNat b).1)
    DoesThen (.reducePartialFrame n f) s fun t =>
      t.load a (4 * vs.length) = valueBytes (s.summed b1 f.offset.toNat vs) ∧ BytesBut a (4 * vs.length) s t ∧
      (∀ b2, t.bucket f.channel.toNat f.seq = some b2 → b2.arrival = s.now ∧ b2.got = b.got ++ [(f.hop.toNat, f.offset.toNat)] ∧
        ∀ j : Nat, j < (s.summed b1 f.offset.toNat vs).length → kget b2.finals (f.offset.toNat + j) = (s.summed b1 f.offset.toNat vs)[j]?) ∧
      Changes [.red, .mem] [] s t := by
  obtain ⟨hmem, hseq⟩ := bucket_mem hbk
  have hrun := running_one hbk hone
  have hd : b.dead = false := lookup_live hlook
  have hin := partialIn_taken (n := n) hg hc hfmt hcard hstage hrack hpos hlast hat hready htake
  obtain ⟨rx, rfl⟩ := taken_keeps htake
  set ch := f.channel.toNat with hchdef
  have hch : ch < 32 := chan_lt f
  set B : Bucket := { b with rx := rx, got := b.got ++ [(f.hop.toNat, f.offset.toNat)], arrival := s.now } with hB
  have hput : ((s.putBucket ch B).chan ch).running = [B] := putBucket_one hch hrun rfl
  intro vs a
  obtain ⟨u, hfinal, honly, hbucket⟩ := gotFinal_one hch hput hhold hu hb hd hdir f.offset.toNat (s.summed B f.offset.toNat vs) n.val
  have hstep := (ringStep_last hput hlast hr (place_at hat).2).trans hfinal
  rw [show B.seq = f.seq from hseq] at hstep hbucket
  have hexec : exec (.reducePartialFrame n f) s = settled (.next (s.partialIn n f b)) := by
    rw [exec_dataFrame (n := n) (f := f) (d := (Ty.partial', .reducePartialFrame n f)) (by simp [dataFrames]), redFrame_heard hheard,
      if_pos hpart, bucketIn_partial hlook]
  rw [hin, hstep] at hexec
  refine .of_settled hexec ?_
  obtain ⟨hload, hbytes, hchanges⟩ := stored_bytes hi (honly.step (fun _ => id) (putBucket_only s ch B)) a (valueBytes (s.summed B f.offset.toNat vs))
  rw [length_valueBytes, length_summed] at hload hbytes
  refine ⟨hload, hbytes, fun b2 hb2 => ?_, hchanges⟩
  obtain rfl := Option.some.inj (hbucket.symm.trans hb2)
  exact ⟨rfl, rfl, fun j hj => kget_enterValues _ _ _ hj⟩

/-! ## Landings -/

theorem land_result {l : Landing} {seq : W32} (h : s.bucket ch seq = some b) (hg : b.desc.gather = false) :
    s.land ch seq l = s.store' (b.desc.result + l.off) l.bytes := by
  simp only [State.land, h, hg, Bool.not_false, if_true]

/-- With nothing ahead of it and nothing held before, what is to land does so at once. -/
theorem holdFor_one (hch : ch < 32) (h : (s.chan ch).running = [b]) (hu : b.undel = []) (hb : b.hold = []) (hd : b.dead = false) (l : Landing) :
    ∃ u : State, s.holdFor ch b.seq l = u.land ch b.seq l ∧ Only [.red] s u ∧ (u.chan ch).running = [b] := by
  have hput := putBucket_one (s := s) (b' := { b with hold := b.hold ++ [l] }) hch h rfl
  have hone := (deliver_one hput).trans (deliverB_live (bucket_one hput) hd)
  have hback : { b with undel := [], hold := [] } = b := by
    cases b
    cases hu
    cases hb
    rfl
  simp only [hu, hb, hback, List.nil_append, List.foldl_nil, List.foldl_cons] at hput hone
  refine ⟨(s.putBucket ch { b with undel := [], hold := [l] }).putBucket ch b, ?_, (putBucket_only _ ch b).step (fun _ => id) (putBucket_only s ch _),
    putBucket_one hch hput rfl⟩
  simp only [State.holdFor, bucket_one h, hu, hb, List.nil_append]
  exact hone

/-! ## Buckets behind one that is not delivered -/

theorem putBucket_two_last (hch : ch < 32) (h : (s.chan ch).running = [b0, b]) (hs : b'.seq = b.seq) (hne : b0.seq ≠ b.seq) :
    ((s.putBucket ch b').chan ch).running = [b0, b'] := by
  simp [putBucket_running hch, h, hs, hne]

theorem putBucket_two_first (hch : ch < 32) (h : (s.chan ch).running = [b0, b]) (hne : b0.seq ≠ b.seq) :
    ((s.putBucket ch b0).chan ch).running = [b0, b] := by
  simp [putBucket_running hch, h, hne.symm]

theorem bucket_two_first (h : (s.chan ch).running = [b0, b]) : s.bucket ch b0.seq = some b0 := by
  simp [State.bucket, h]

theorem bucket_two_last (h : (s.chan ch).running = [b0, b]) (hne : b0.seq ≠ b.seq) : s.bucket ch b.seq = some b := by
  simp [State.bucket, h, hne]

/-- Delivery stops at a first bucket that is not delivered and has nothing to deliver. -/
theorem deliver_stops (hch : ch < 32) (h : (s.chan ch).running = [b0, b]) (hne : b0.seq ≠ b.seq) (hdel : s.delivered ch b0 = false)
    (hu : b0.undel = []) (hb : b0.hold = []) : s.deliver ch = s.putBucket ch b0 := by
  have hd : b0.dead = false := by
    simp only [State.delivered, Bool.or_eq_false_iff] at hdel
    exact hdel.1.1
  have hback : { b0 with undel := [], hold := [] } = b0 := by
    cases b0
    cases hu
    cases hb
    rfl
  have hfirst := deliverB_live (bucket_two_first h) hd
  simp only [hu, hb, List.foldl_nil, hback] at hfirst
  simp only [State.deliver, h, List.map_cons, List.map_nil, State.deliverN, hfirst, bucket_two_first (putBucket_two_first hch h hne)]
  rw [show (s.putBucket ch b0).delivered ch b0 = false from hdel]
  rfl

/-- Behind a bucket that is not delivered, what is to land is held. -/
theorem holdFor_behind (hch : ch < 32) (h : (s.chan ch).running = [b0, b]) (hne : b0.seq ≠ b.seq) (hdel : s.delivered ch b0 = false)
    (hu : b0.undel = []) (hb : b0.hold = []) (l : Landing) :
    Only [.red] s (s.holdFor ch b.seq l) ∧ (s.holdFor ch b.seq l).bucket ch b.seq = some { b with hold := b.hold ++ [l] } := by
  have hput := putBucket_two_last (s := s) (b' := { b with hold := b.hold ++ [l] }) hch h rfl hne
  have hstop : s.holdFor ch b.seq l = (s.putBucket ch { b with hold := b.hold ++ [l] }).putBucket ch b0 := by
    simp only [State.holdFor, bucket_two_last h hne]
    exact deliver_stops hch hput hne hdel hu hb
  rw [hstop]
  exact ⟨(putBucket_only _ ch b0).step (fun _ => id) (putBucket_only s ch _),
    bucket_two_last (b := { b with hold := b.hold ++ [l] }) (putBucket_two_first hch hput hne) hne⟩

/-! ## Result copies (R88) -/

/-- The sender of a result copy owns its piece: of another rack in the scale-out stage, of the own rack else. -/
def OwnsPiece (s : State) (ch : Nat) (f : Frame) (piece : Nat) : Prop :=
  if f.stage then piece / (s.chCfg ch).r = (s.chCfg ch).pos ∧ f.srcRack.toNat = piece % (s.chCfg ch).r ∧ piece % (s.chCfg ch).r ≠ (s.chCfg ch).x
  else piece % (s.chCfg ch).r = (s.chCfg ch).x ∧ f.srcRack = s.myRack ∧ piece ≠ (s.chCfg ch).own

theorem ownsPiece_iff {piece : Nat} : OwnsPiece s ch f piece ↔
    (if f.stage then piece / (s.chCfg ch).r == (s.chCfg ch).pos && f.srcRack.toNat == piece % (s.chCfg ch).r && piece % (s.chCfg ch).r != (s.chCfg ch).x
      else piece % (s.chCfg ch).r == (s.chCfg ch).x && f.srcRack == s.myRack && piece != (s.chCfg ch).own) = true := by
  unfold OwnsPiece
  split <;> simp [and_assoc]

/-- The piece that a frame's OFFSET lies in. -/
def pieceOf (s : State) (f : Frame) (b : Bucket) : Nat := f.offset.toNat / max 1 ((s.chCfg f.channel.toNat).u b.desc.e)

/-- The slices that carry the fragments of a stage. -/
def portsOf (s : State) (f : Frame) : List Nat := if f.stage then (s.chCfg f.channel.toNat).so else (s.chCfg f.channel.toNat).ufl

/-- Where a copy lands, in the result buffer. -/
def copyLanding (s : State) (f : Frame) (b : Bucket) : Landing :=
  { off := 4 * (f.offset.toNat - ((s.chCfg f.channel.toNat).piece b.desc.e (pieceOf s f b)).1), bytes := f.payload }

theorem mem_copies (ps : List Nat) (p : Nat) : (if ps.contains p then ps else ps ++ [p]).contains p = true := by
  split
  · assumption
  · simp

/-- A result copy of a started bucket, as its fragment is taken. -/
theorem copyIn_taken {i : Nat} (hg : b.desc.gather = false) (hc : b.completed = false) (hfmt : f.pfmt = false) (hcard : f.card = false)
    (hhop : f.hop = 0) (hdir : b.desc.direct = false) (hown : OwnsPiece s f.channel.toNat f (pieceOf s f b))
    (hat : place ((s.chCfg f.channel.toNat).piece b.desc.e (pieceOf s f b)) (if f.stage then 2048 else 512) 4 f.offset.toNat f.count.toNat
      f.payload.length = .at' i)
    (htake : ((b.bindRx Ty.resultCopy ((portsOf s f).getD (i % (portsOf s f).length) 0) f).bind (fun b => b.take' 1024 f.offset.toNat)).isSome = true) :
    ∃ rx got cs cp, cs.contains (pieceOf s f b) = true ∧ s.copyIn n f b =
      (s.putBucket f.channel.toNat { b with rx := rx, got := got, arrival := s.now, copies := cs, copied := cp }).holdFor f.channel.toNat f.seq
        (copyLanding s f b) := by
  obtain ⟨b1, htake⟩ := Option.isSome_iff_exists.1 htake
  rw [(place_at hat).1] at htake
  obtain ⟨rx, hrx⟩ := taken_keeps htake
  refine ⟨rx, b1.got, if b.copies.contains (pieceOf s f b) then b.copies else b.copies ++ [pieceOf s f b],
    enterValues b.copied f.offset.toNat (partials false f.payload), mem_copies b.copies _, ?_⟩
  have howner := ownsPiece_iff.1 hown
  unfold State.copyIn
  dsimp only
  refine (if_neg ?_).trans ((takeData_at hat htake).trans ?_)
  · rw [show f.offset.toNat / max 1 ((s.chCfg f.channel.toNat).u b.desc.e) = pieceOf s f b from rfl, howner]
    simp [hg, hfmt, hcard, hhop]
  · rw [hrx]
    simp only [hdir, hc]
    rfl

/-- A result copy that is taken from the piece's owner. -/
structure CopyTaken (s : State) (n : Fin 42) (f : Frame) (b : Bucket) : Prop where
  bucket : s.bucket f.channel.toNat f.seq = some b
  look : s.lookup f = .started b
  live : b.completed = false
  takes : s.takesPart n = true
  undel : b.undel = []
  hold : b.hold = []
  heard : s.hears n Ty.resultCopy f = true
  reduce : b.desc.gather = false
  fmt : f.pfmt = false
  card : f.card = false
  hop : f.hop = 0
  plain : b.desc.direct = false
  owns : OwnsPiece s f.channel.toNat f (pieceOf s f b)
  place : ∃ i, place ((s.chCfg f.channel.toNat).piece b.desc.e (pieceOf s f b)) (if f.stage then 2048 else 512) 4 f.offset.toNat f.count.toNat
      f.payload.length = .at' i ∧
    ((b.bindRx Ty.resultCopy ((portsOf s f).getD (i % (portsOf s f).length) 0) f).bind (fun b => b.take' 1024 f.offset.toNat)).isSome = true

/-- A copy that is taken marks its piece in the bucket, and is to land. -/
theorem CopyTaken.exec_eq (h : CopyTaken s n f b) :
    ∃ rx got cs cp, cs.contains (pieceOf s f b) = true ∧ exec (.resultCopyFrame n f) s = settled (.next
      ((s.putBucket f.channel.toNat { b with rx := rx, got := got, arrival := s.now, copies := cs, copied := cp }).holdFor f.channel.toNat b.seq
        (copyLanding s f b))) := by
  obtain ⟨i, hat, htake⟩ := h.place
  obtain ⟨rx, got, cs, cp, hmem, hin⟩ := copyIn_taken (n := n) h.reduce h.live h.fmt h.card h.hop h.plain h.owns hat htake
  refine ⟨rx, got, cs, cp, hmem, ?_⟩
  rw [exec_dataFrame (n := n) (f := f) (d := (Ty.resultCopy, .resultCopyFrame n f)) (by simp [dataFrames]), redFrame_heard h.heard,
    if_pos h.takes, bucketIn_copy h.look h.bucket, hin, (bucket_mem h.bucket).2]

/-- RESULT_COPY_FRAME of the only bucket lands at RESULT_ADDR (R88). -/
theorem copy_lands (hi : s.Inv) (h : CopyTaken s n f b) (hone : (s.chan f.channel.toNat).running.length = 1) :
    let a := b.desc.result + (copyLanding s f b).off
    DoesThen (.resultCopyFrame n f) s fun t =>
      t.load a f.payload.length = f.payload ∧ BytesBut a f.payload.length s t ∧
      (∀ b2, t.bucket f.channel.toNat f.seq = some b2 → b2.copies.contains (pieceOf s f b) = true ∧ b2.arrival = s.now) ∧
      Changes [.red, .mem] [] s t := by
  have hch := chan_lt f
  have hseq := (bucket_mem h.bucket).2
  have hd : b.dead = false := lookup_live h.look
  obtain ⟨rx, got, cs, cp, hmem, hexec⟩ := h.exec_eq
  have hput := putBucket_one (b' := { b with rx := rx, got := got, arrival := s.now, copies := cs, copied := cp }) hch
    (running_one h.bucket hone) rfl
  obtain ⟨u, hland, honly, hrun⟩ := holdFor_one hch hput h.undel h.hold hd (copyLanding s f b)
  have hbucket := bucket_one hrun
  rw [hland, land_result hbucket h.reduce] at hexec
  obtain ⟨hload, hbytes, hchanges⟩ := stored_bytes hi (honly.step (fun _ => id) (putBucket_only s _ _)) (b.desc.result + (copyLanding s f b).off)
    f.payload
  refine .of_settled hexec ⟨hload, hbytes, fun b2 hb2 => ?_, hchanges⟩
  rw [← hseq] at hb2
  obtain rfl := Option.some.inj (hbucket.symm.trans hb2)
  exact ⟨hmem, rfl⟩

/-- RESULT_COPY_FRAME behind a bucket that is not delivered is held (R91). -/
theorem copy_held (h : CopyTaken s n f b) (hrun : (s.chan f.channel.toNat).running = [b0, b]) (hne : b0.seq ≠ b.seq)
    (hdel : s.delivered f.channel.toNat b0 = false) (hu : b0.undel = []) (hb : b0.hold = []) :
    DoesThen (.resultCopyFrame n f) s fun t =>
      (∀ b2, t.bucket f.channel.toNat f.seq = some b2 → b2.hold = [copyLanding s f b] ∧ b2.copies.contains (pieceOf s f b) = true) ∧
      Changes [.red] [] s t := by
  have hch := chan_lt f
  have hseq := (bucket_mem h.bucket).2
  obtain ⟨rx, got, cs, cp, hmem, hexec⟩ := h.exec_eq
  have hput := putBucket_two_last (b' := { b with rx := rx, got := got, arrival := s.now, copies := cs, copied := cp }) hch hrun rfl hne
  obtain ⟨honly, hbucket⟩ := holdFor_behind hch hput hne hdel hu hb (copyLanding s f b)
  have hchanged := honly.step (fun _ => id) (putBucket_only s _ _)
  refine .of_settled hexec ⟨fun b2 hb2 => ?_, .of_only hchanged (hchanged.same .regs (by decide))⟩
  rw [← hseq] at hb2
  obtain rfl := Option.some.inj (hbucket.symm.trans hb2)
  exact ⟨by rw [h.hold]; rfl, hmem⟩

/-! ## All-gather frames (R106, R107) -/

theorem redSend_only (s : State) (ch : Nat) (seq : W32) (stage copy : Bool) (slice : Nat) (dest : Dest) (ty : BitVec 8) (f : Frame) (leaf : Nat) :
    Only [.red, .outbox] s (s.redSend ch seq stage copy slice dest ty f leaf) := by
  unfold State.redSend
  split
  · next htake _ =>
    have hred : ∀ p ∈ [Component.red], p ∈ [Component.red, .outbox] := by decide
    exact (State.checkGone_keep _ ch seq).only.step hred ((State.send_keep ..).only.step (by decide)
      ((State.takeXfer_keep htake).only.step hred (.refl _ s)))
  · exact .refl _ s

theorem mcastOne_only {seq : W32} {port : Nat} (h : s.mcastOne ch seq port = some t) : Only [.red, .outbox] s t := by
  unfold State.mcastOne at h
  dsimp only at h
  split at h
  · cases h
  · split at h
    · cases h
    · split at h
      · cases h
      · split at h
        · cases h
        · obtain rfl := Option.some.inj h
          exact (redSend_only _ _ _ _ _ _ _ _ _ _).step (fun _ => id) ((putBucket_only _ _ _).step (by decide) (.refl _ s))

theorem mcastPortN_only (ch : Nat) (seq : W32) (port k : Nat) (s : State) : Only [.red, .outbox] s (State.mcastPortN ch seq port k s) := by
  induction k generalizing s with
  | zero => exact .refl _ s
  | succ k ih =>
    unfold State.mcastPortN
    split
    · next hsent => exact (ih _).step (fun _ => id) (mcastOne_only hsent)
    · exact .refl _ s

theorem mcastPush_only (s : State) (ch : Nat) (seq : W32) : Only [.red, .outbox] s (s.mcastPush ch seq) := by
  unfold State.mcastPush
  split
  · exact .refl _ s
  · next b _ =>
    exact List.foldlRecOn b.mcast _ (Only.refl _ s) fun t ht m _ =>
      (State.mcastDone_keep ..).only.step (by decide) ((mcastPortN_only _ _ _ _ _).step (fun _ => id) ht)

/-- What an all-gather landed may be sent on, and its sender hears of it. -/
theorem land_gather {l : Landing} {seq : W32} (h : s.bucket ch seq = some b) (hg : b.desc.gather = true) :
    ∃ v : State, s.land ch seq l = { v with acksOut := v.acksOut ++ l.ack.toList } ∧
      Only [.red, .outbox] (s.store' (b.desc.result + l.off) l.bytes) v := by
  refine ⟨_, ?_, (mcastPush_only _ ch seq).step (fun _ => id) ((putBucket_only _ ch
    { b with landed := b.landed ++ [(l.off / max 1 b.desc.fmt.toNat, l.bytes.length / max 1 b.desc.fmt.toNat)] }).step (by decide) (.refl _ _))⟩
  simp only [State.land, h, hg]
  rfl

/-- The chunk of the rack that an all-gather frame's OFFSET lies in. -/
def chunkOf (s : State) (f : Frame) (b : Bucket) : Nat :=
  f.offset.toNat / max 1 ((s.chCfg f.channel.toNat).r * (s.chCfg f.channel.toNat).u b.desc.e)

/-- The acknowledgement of an all-gather fragment of the rack, to its sender. -/
def gatherAck (s : State) (f : Frame) (b : Bucket) : AckSent :=
  let c := s.chCfg f.channel.toNat
  let es := b.desc.fmt.toNat
  let rg := c.chunk b.desc.e (chunkOf s f b)
  let port := portAt c.ufl rg (uflFrag es) f.offset.toNat
  { rack := f.srcRack, pos := f.srcPos, channel := f.channel, seq := f.seq, slice := port, bytes := b.ackBytes c.ufl rg (uflFrag es) es port,
    last := f.last }

/-- An all-gather frame of the rack, as its fragment is taken: it is to land, and its sender is to hear of it. -/
theorem gatherIn_taken {i : Nat} (hg : b.desc.gather = true) (hc : b.completed = false) (hfmt : f.pfmt = false) (hhop : f.hop = 0)
    (hstage : f.stage = false) (hcard : f.card = false) (hrack : f.srcRack = s.myRack) (hpos : f.srcPos ≠ s.myPos)
    (hk : chunkOf s f b ≠ (s.chCfg f.channel.toNat).pos)
    (hat : place ((s.chCfg f.channel.toNat).chunk b.desc.e (chunkOf s f b)) (uflFrag b.desc.fmt.toNat) b.desc.fmt.toNat f.offset.toNat
      f.count.toNat f.payload.length = .at' i)
    (htake : ((b.bindRx Ty.allGather ((s.chCfg f.channel.toNat).ufl.getD (i % (s.chCfg f.channel.toNat).ufl.length) 0) f).bind
      (fun b => b.take' 0 f.offset.toNat)).isSome = true) :
    ∃ (rx : List RxXfer) (got : List (Nat × Nat)) (ack : AckSent),
      (ack.rack, ack.pos, ack.channel, ack.seq) = (f.srcRack, f.srcPos, f.channel, f.seq) ∧
      s.gatherIn n f b = (s.putBucket f.channel.toNat { b with rx := rx, got := got, arrival := s.now }).holdFor f.channel.toNat f.seq
        { off := f.offset.toNat * b.desc.fmt.toNat, bytes := f.payload, ack := some ack } := by
  obtain ⟨b1, htake⟩ := Option.isSome_iff_exists.1 htake
  rw [(place_at hat).1] at htake
  obtain ⟨rx, hrx⟩ := taken_keeps htake
  refine ⟨rx, b1.got, gatherAck s f { b1 with arrival := s.now }, rfl, ?_⟩
  unfold State.gatherIn
  simp only [hstage]
  refine (if_neg ?_).trans ((takeData_at hat htake).trans ?_)
  · simp only [hg, hc, hfmt, hhop, hrack, Bool.false_eq_true, if_false]
    simpa [hpos, chunkOf] using hk
  · simp only [hcard, hrx]
    rfl

/-- ALL_GATHER_DATA_FRAME of the rack lands at its place, and is acknowledged (R106, R107). -/
theorem gather_lands (hi : s.Inv) (hbk : s.bucket f.channel.toNat f.seq = some b) (hlook : s.lookup f = .started b) (hc : b.completed = false)
    (hpart : s.takesPart n = true) (hu : b.undel = []) (hb : b.hold = []) (hheard : s.hears n Ty.allGather f = true) (hg : b.desc.gather = true)
    (hfmt : f.pfmt = false) (hhop : f.hop = 0) (hstage : f.stage = false) (hcard : f.card = false) (hrack : f.srcRack = s.myRack)
    (hpos : f.srcPos ≠ s.myPos) (hone : (s.chan f.channel.toNat).running.length = 1) (hk : chunkOf s f b ≠ (s.chCfg f.channel.toNat).pos) {i : Nat}
    (hat : place ((s.chCfg f.channel.toNat).chunk b.desc.e (chunkOf s f b)) (uflFrag b.desc.fmt.toNat) b.desc.fmt.toNat f.offset.toNat
      f.count.toNat f.payload.length = .at' i)
    (htake : ((b.bindRx Ty.allGather ((s.chCfg f.channel.toNat).ufl.getD (i % (s.chCfg f.channel.toNat).ufl.length) 0) f).bind
      (fun b => b.take' 0 f.offset.toNat)).isSome = true) :
    let a := b.desc.result + f.offset.toNat * b.desc.fmt.toNat
    DoesThen (.allGatherDataFrame n f) s fun t =>
      t.load a f.payload.length = f.payload ∧ BytesBut a f.payload.length s t ∧
      t.acksOut.map (fun a => (a.rack, a.pos, a.channel, a.seq)) =
        s.acksOut.map (fun a => (a.rack, a.pos, a.channel, a.seq)) ++ [(f.srcRack, f.srcPos, f.channel, f.seq)] ∧
      Changes [.red, .mem, .outbox, .acksOut] [] s t := by
  intro a
  have hch := chan_lt f
  have hd : b.dead = false := lookup_live hlook
  obtain ⟨rx, got, ack, hack, hin⟩ := gatherIn_taken (n := n) hg hc hfmt hhop hstage hcard hrack hpos hk hat htake
  have hexec : exec (.allGatherDataFrame n f) s = settled (.next (s.gatherIn n f b)) := by
    rw [exec_dataFrame (n := n) (f := f) (d := (Ty.allGather, .allGatherDataFrame n f)) (by simp [dataFrames]), redFrame_heard hheard,
      if_pos hpart, bucketIn_gather hlook]
  rw [hin, ← (bucket_mem hbk).2] at hexec
  have hput := putBucket_one (b' := { b with rx := rx, got := got, arrival := s.now }) hch (running_one hbk hone) rfl
  obtain ⟨u, hland, honly, hrun⟩ := holdFor_one hch hput hu hb hd
    { off := f.offset.toNat * b.desc.fmt.toNat, bytes := f.payload, ack := some ack }
  obtain ⟨v, hstore, hpush⟩ := land_gather (l := { off := f.offset.toNat * b.desc.fmt.toNat, bytes := f.payload, ack := some ack })
    (bucket_one hrun) hg
  rw [hland, hstore] at hexec
  obtain ⟨hload, hbytes, hstored, -⟩ := stored_bytes hi (honly.step (fun _ => id) (putBucket_only s _ _)) a f.payload
  have hmem := hpush.same .mem (by decide)
  have hacks : v.acksOut = s.acksOut := (hpush.same .acksOut (by decide)).trans (hstored.same .acksOut (by decide))
  have honly : Only [.red, .mem, .outbox, .acksOut] s { v with acksOut := v.acksOut ++ [ack] } :=
    (keep_acksOut v _).only.step (by decide) (hpush.step (by decide) (hstored.step (by decide) (.refl _ s)))
  refine .of_settled hexec ⟨?_, hbytes.congr hmem, ?_, .of_only honly (honly.same .regs (by decide))⟩
  · exact (congrArg (fun m => Memory.bytesAt m a f.payload.length) hmem).trans hload
  · show (v.acksOut ++ [ack]).map _ = _
    rw [hacks, List.map_append, List.map_singleton, hack]

/-! ## Frames with no bucket to act on -/

/-- At a slice that takes no part a data frame is stale (R54). -/
theorem dataFrame_no_part {d : BitVec 8 × Instr} (hi : s.Inv) (hd : d ∈ dataFrames n f) (hheard : s.hears n d.1 f = true)
    (hpart : s.takesPart n = false) : DoesThen d.2 s (Stale n s) := by
  have hexec := exec_dataFrame (s := s) hd
  rw [redFrame_heard hheard, hpart] at hexec
  exact .of_settled hexec (staleAt_stale hi n)

theorem exec_dataFrame_part {d : BitVec 8 × Instr} (hd : d ∈ dataFrames n f) (hheard : s.hears n d.1 f = true) (hpart : s.takesPart n = true) :
    exec d.2 s = settled (.next (s.bucketIn n d.1 f)) := by
  rw [exec_dataFrame hd, redFrame_heard hheard, if_pos hpart]

theorem bucketIn_unrevived {ty : BitVec 8} (h : ty = Ty.resultCopy → s.revive f = s) :
    (if ty = Ty.resultCopy then s.revive f else s) = s := by
  split
  · next hty => exact h hty
  · rfl

/-- A data frame of no bucket, or of one that has ended, is stale (R111). -/
theorem dataFrame_stale {d : BitVec 8 × Instr} (hi : s.Inv) (hd : d ∈ dataFrames n f) (hheard : s.hears n d.1 f = true)
    (hpart : s.takesPart n = true) (hlook : s.lookup f = .stale) (hrevive : d.1 = Ty.resultCopy → s.revive f = s) :
    DoesThen d.2 s (Stale n s) := by
  have hexec := exec_dataFrame_part hd hheard hpart
  simp only [State.bucketIn, bucketIn_unrevived hrevive, hlook] at hexec
  exact .of_settled hexec (staleAt_stale hi n)

/-- A data frame of a bucket that has not started is held (R91). -/
theorem dataFrame_early {d : BitVec 8 × Instr} (hd : d ∈ dataFrames n f) (hheard : s.hears n d.1 f = true) (hpart : s.takesPart n = true)
    (hlook : s.lookup f = .early) :
    DoesThen d.2 s fun t => t.red = { s.red with waiting := s.red.waiting ++ [{ slice := n, ty := d.1, frame := f }] } ∧ Changes [.red] [] s t := by
  have hexec := exec_dataFrame_part hd hheard hpart
  simp only [State.bucketIn, bucketIn_unrevived fun _ => revive_early hlook, hlook] at hexec
  exact .of_settled hexec ⟨rfl, .of_only (keep_red s _).only rfl⟩

/-- Settles O31: each kind of data frame, followed from its slice to the bucket and to RESULT_ADDR. -/
theorem bucketFrames : Obligations.BucketFrames := by
  unfold Obligations.BucketFrames
  intro s n f hi ch c off cnt data
  refine ⟨fun d hd hh hp => dataFrame_no_part hi hd hh hp,
    fun d hd hh hp => ⟨fun hl hr => dataFrame_stale hi hd hh hp hl hr, fun hl => dataFrame_early hd hh hp hl⟩, ?_⟩
  intro b hbk hlook hc hp hu hb
  refine ⟨?ring, ?copy, ?gather⟩
  case ring =>
    intro hh hst hg hf hcd hsr hsp hlast hr hdir hhold hone k i hat hready b1 htake
    exact partial_lands hi hbk hlook hc hp hu hb hh hst hg hf hcd hsr hsp hlast hr hdir hhold hone hat hready htake
  case copy =>
    intro hh hg hf hcd hhop hdir piece hown i hat htake a
    have htaken : CopyTaken s n f b := ⟨hbk, hlook, hc, hp, hu, hb, hh, hg, hf, hcd, hhop, hdir, hown, i, hat, htake⟩
    exact ⟨fun hone => copy_lands hi htaken hone, fun b0 hrun hne hdel hu0 hb0 => copy_held htaken hrun hne hdel hu0 hb0⟩
  case gather =>
    intro hh hg hf hhop hst hcd hsr hsp hone es k hk i hat htake
    exact gather_lands hi hbk hlook hc hp hu hb hh hg hf hhop hst hcd hsr hsp hone hk hat htake

end Sys2Proof.Machine
end

section
/-! Blocks of a Fulling task (R118, R138, R140): a block taken of a task that is not DIRECT, where that task holds a piece all the same. -/
namespace Sys2Proof.Machine

/-- The task of queue 0 runs and is not DIRECT, yet a piece is bound to it, and the port that its descriptor names by default has buffered an
element beyond the task's one. No run reaches this (only a DIRECT task is bound to a piece, R138), but neither `State.Inv` nor the statement says
so. -/
def State.plainTaskBound : State :=
  let t0 : FulTask := { desc := { e := 1 }, stage := .run, piece := some (0, 0) }
  (State.reset.onBoot (fun b => { b with phase := .running })).onFul (fun u =>
    { u with queues := vset u.queues 0 { task := some t0 }
             ports := vset u.ports 0 { pieces := [{ ch := 0, seq := 0, first := 0, len := 2, bound := true }], buf := [(1, 0)] } })

/-- The task of queue 0 there. -/
def State.boundTask : FulTask := ((State.plainTaskBound.fq 0).task).getD { desc := {} }

theorem plainTaskBound_inv : State.plainTaskBound.Inv := State.inv_plain rfl (by decide +kernel)

theorem plainTaskBound_task : State.plainTaskBound.hw = true ∧ State.plainTaskBound.halted = false ∧
    (State.plainTaskBound.fq 0).task = some State.boundTask ∧ State.boundTask.stage = .run ∧ State.boundTask.desc.direct = false := by
  decide +kernel

/-- Block 0 waits for a lane, the arbitration grants queue 0, and nothing else goes on. -/
theorem plainTaskBound_grants : 0 < State.boundTask.desc.blocks ∧ State.boundTask.taken.contains 0 = false ∧
    State.plainTaskBound.blockReady State.boundTask 0 = true ∧ (State.plainTaskBound.laneGrant 0).1 = some 0 ∧ State.plainTaskBound.quiet = true ∧
    State.plainTaskBound.cut.cuts.all (fun c => !c.battless) = true := by
  decide +kernel

/-- After the block the port's check meets the element beyond E, and the task aborts. -/
theorem plainTaskBound_aborts : (match exec (.laneTakesBlock 0 0 0) State.plainTaskBound with
    | .next t => (t.fq 0).lastStatus == St.lengthLong && (t.fq 0).task.isNone
    | _ => false) = true := by decide +kernel

/-- Refutes O37: the statement lets every task that is not DIRECT keep its queue when a lane takes a block, but the check of the stream port asks
for a bound piece alone, and aborts such a task with LENGTH_LONG where it holds one. -/
theorem not_fullingBlocks : ¬ Obligations.FullingBlocks := by
  intro h
  obtain ⟨hhw, hhalted, htask, hrun, hplain⟩ := plainTaskBound_task
  obtain ⟨hblock, hfree, hready, hgrant, hquiet, hcuts⟩ := plainTaskBound_grants
  obtain ⟨hlane, -⟩ := h State.plainTaskBound 0 plainTaskBound_inv hhw State.boundTask htask
  obtain ⟨-, htakes⟩ := hlane 0 0 hrun hhalted hblock
  obtain ⟨-, hdoes⟩ := htakes hfree hready hgrant
  obtain ⟨t, ht, -, hstays, -⟩ := hdoes hquiet hcuts (.inl hplain)
  have haborts := plainTaskBound_aborts
  rw [ht] at haborts
  have hheld : (t.fq 0).task.isSome = true := hstays (.inl hplain)
  simp [← Option.not_isSome, hheld] at haborts

end Sys2Proof.Machine
end

section
/-! Relayed commands (R51, R54, R292): the end of one on an engine of which no Causeway is open. -/
namespace Sys2Proof.Machine

/-- A FENCE that the Warden at position 1 relayed here has ended in context 0 with SUCCESS, and since its arrival every Causeway of this engine
has closed. -/
def State.answersNobody : State :=
  let c : Ctx := { q := 0, sqHead := 0, pushed := false, entry := leBytes 1 7 ++ zeros 63, order := 0, finished := true
                   relay := some { rack := 0, pos := 1, tag := 0, gen := 1, seq := 0 } }
  (((State.reset.onBoot (fun b => { b with phase := .running })).wr (Fld.cmdQCfg.enable 0) 1).putQueue 0 { st := .active }).putCtx 0 c

/-- The context of the FENCE there. -/
def State.fenceCtx : Ctx := (State.answersNobody.ctx? 0).getD { q := 0, sqHead := 0, pushed := false, entry := [], order := 0 }

/-- Who relayed the FENCE. -/
def State.fenceFrom : RelayFrom := { rack := 0, pos := 1, tag := 0, gen := 1, seq := 0 }

theorem answersNobody_inv : State.answersNobody.Inv := State.inv_plain rfl (by decide +kernel)

theorem answersNobody_ended : State.answersNobody.ctx? 0 = some State.fenceCtx ∧ State.fenceCtx.finished = true ∧
    State.fenceCtx.abandoned = false ∧ 4 ≤ State.fenceCtx.entry.length ∧ State.answersNobody.rdB (Fld.cmdQCfg.enable State.fenceCtx.q) = true ∧
    State.fenceCtx.relay = some State.fenceFrom ∧ State.answersNobody.unitHolds (.command State.fenceCtx.q) = false ∧
    State.answersNobody.isMe State.fenceFrom.rack State.fenceFrom.pos = false := by
  decide +kernel

/-- The command completes, and no frame leaves: a slice whose Causeway is not open sends nothing (R51, R54). -/
theorem answersNobody_silent : (match exec (.commandComplete 0) State.answersNobody with
    | .next t => t.cmd.ctxs.isEmpty && t.outbox.isEmpty
    | _ => false) = true := by decide +kernel

/-- Refutes O57: the statement has the completion relay frame of a relayed command sent whenever it ends, but an engine of which no Causeway is
open sends nothing. -/
theorem not_commandRelays : ¬ Obligations.CommandRelays := by
  intro h
  obtain ⟨-, -, -, -, -, -, hcomplete⟩ := h State.answersNobody answersNobody_inv
  obtain ⟨hctx, hfinished, hkept, hentry, henabled, hrelay, hgoes, hother⟩ := answersNobody_ended
  obtain ⟨-, -, hanswers⟩ := hcomplete 0 State.fenceCtx hctx hfinished hkept hentry henabled State.fenceFrom hrelay
  obtain ⟨t, ht, -, -, -, -, -, -, -, -, hlast, -⟩ := hanswers hgoes hother
  have hsilent := answersNobody_silent
  rw [ht] at hsilent
  have hempty : t.outbox = [] := List.isEmpty_iff.mp (Bool.and_eq_true_iff.mp hsilent).2
  simp [hempty] at hlast

end Sys2Proof.Machine
end

section
/-! Drop notices (R108): one for an all-gather whose elements have no size. -/
namespace Sys2Proof.Machine

variable {s t : State}

/-! ## What follows in an engine that is no Warden -/

/-- The same state once the notices of this engine's own aborts have been heeded (R104). -/
def State.heeded (s : State) : State := { s with red := { s.red with ownAbort := false } }

/-- An engine that is no Warden does nothing about its own aborts. -/
theorem ownAborts_of_member (h : s.isWarden = false) : s.ownAborts = s.heeded := by
  unfold State.ownAborts
  split
  · next ho => exact congrArg (fun o => ({ s with red := { s.red with ownAbort := o } } : State)) (by simpa using ho)
  · exact if_neg (by rw [show State.isWarden { s with red := { s.red with ownAbort := false } } = s.isWarden from rfl, h]; simp)

theorem settle_congr (h : s.ownAborts = t.ownAborts) : s.settle = t.settle := by simp only [State.settle, h]

theorem settle_of_member (hw : s.isWarden = false) (h : s.heeded.quiet = true) : s.settle = s.heeded :=
  (settle_congr ((ownAborts_of_member hw).trans (ownAborts_of_member (s := s.heeded) hw).symm)).trans (settle_of_quiet h)

/-- Reductions have no other part in what follows from a command than this engine's own aborts. -/
theorem heeded_quiet (hq : s.quiet = true) (h : Only [.red, .regs, .outbox, .freeCtr] s t) : t.heeded.quiet = true := by
  have hsyn : t.syn = s.syn := h.same .syn (by decide)
  have hcut : t.cut = s.cut := h.same .cut (by decide)
  have hrst : t.rst = s.rst := h.same .rst (by decide)
  have hwarden : t.warden = s.warden := h.same .warden (by decide)
  have hpeat : t.peat = s.peat := h.same .peat (by decide)
  simp only [State.quiet, State.bar, State.heeded, hsyn, hcut, hrst, hwarden, hpeat, Bool.and_eq_true] at hq ⊢
  obtain ⟨⟨⟨⟨⟨⟨⟨⟨⟨⟨hresults, hbars⟩, harrive⟩, hdone⟩, -⟩, hchosen⟩, hrestoring⟩, hwaiting⟩, hctx⟩, hnext⟩, hflush⟩ := hq
  exact ⟨⟨⟨⟨⟨⟨⟨⟨⟨⟨hresults, hbars⟩, harrive⟩, hdone⟩, rfl⟩, hchosen⟩, hrestoring⟩, hwaiting⟩, hctx⟩, hnext⟩, hflush⟩

/-! ## A drop notice that leaves nothing to fetch -/

/-- An all-gather of 516 elements runs in channel 0, whose members are two engines of one rack. FMT 0 gives its elements no size, so that the
chunk of the other engine has no fragments. No run reaches this (a descriptor with that FMT is refused at its issue, R92), but neither `State.Inv`
nor the statement says so. -/
def State.sizelessGather : State :=
  let b : Bucket := { desc := { gather := true, fmt := 0, e := 516 } }
  let s := (State.reset.onBoot (fun b => { b with phase := .running })).putSlice 0 .opened
  ((s.wr (Fld.redChCfg.n 0) 2).wr (Fld.redChCfg.r 0) 1).putChan 0 { running := [b] }

/-- The all-gather there. -/
def State.sizelessBucket : Bucket := (State.sizelessGather.bucket 0 0).get (by decide +kernel)

/-- The other engine's notice that it has dropped this one from its chunk, of which nothing has arrived. -/
def State.sizelessDrop : Frame :=
  let f : Frame := { payload := leBytes 6 512 ++ zeros 2 }
  { f with crc := Frame.crcOf Ty.drop f }

theorem sizelessGather_inv : State.sizelessGather.Inv := State.inv_plain rfl (by decide)

theorem sizelessGather_hears : State.sizelessGather.hears 0 Ty.drop State.sizelessDrop = true := by decide +kernel

theorem sizelessGather_bucket : (let s := State.sizelessGather; let b := State.sizelessBucket; let f := State.sizelessDrop
    s.bucket 0 0 = some b ∧ b.dead = false ∧ b.completed = false ∧ b.desc.gather = true ∧ b.desc.card = false ∧
    BitVec.ofNat 32 b.desc.step.toNat = f.stepLo ∧ f.srcRack = s.myRack ∧ b.rx = [] ∧ b.got = [] ∧ b.fetch = none) := by decide

/-- The notice names an element of the other engine's chunk, and a tag is free for the fetch. -/
theorem sizelessDrop_chunk : (let s := State.sizelessGather; let c := s.chCfg 0; let e := State.sizelessBucket.desc.e
    let low := fieldLE State.sizelessDrop.payload 0 6; let k := low / max 1 (c.r * c.u e)
    k ≠ c.pos ∧ low < (c.chunk e k).2 ∧ s.red.tags.freeCount ≠ 0) := by decide

/-- Nothing is missing of a chunk without fragments, so no tag is taken for a fetch. -/
theorem sizelessDrop_fetches_nothing : (match exec (.dropNotice 0 State.sizelessDrop) State.sizelessGather with
    | .next t => t.red.tags.inUse.isEmpty
    | _ => false) = true := by decide +kernel

/-- Refutes O33: the statement has every drop notice for an open multicast take a tag and fetch what is missing, also of an all-gather whose FMT
gives its elements no size, of which nothing can be missing. -/
theorem not_fetchesMulticast : ¬ Obligations.FetchesMulticast := by
  intro h
  obtain ⟨hframes, -⟩ := h State.sizelessGather sizelessGather_inv
  obtain ⟨-, -, hdrop⟩ := hframes 0 State.sizelessDrop
  obtain ⟨hbucket, hlive, hopen, hgather, hcard, hstep, hrack, hrx, hgot, hfetch⟩ := sizelessGather_bucket
  obtain ⟨hother, hlow, hfree⟩ := sizelessDrop_chunk
  obtain ⟨htaken, -⟩ := hdrop sizelessGather_hears _ hbucket hlive hopen hgather hcard hstep hrack hrx hgot hfetch hother hlow
  obtain ⟨t, ht, -, -, -, htags, honly, hfields⟩ := htaken hfree
  have hmember : t.isWarden = false := by
    have hrole : t.rd Fld.ctlElect.role = State.sizelessGather.rd Fld.ctlElect.role := hfields.rd (by decide)
    rw [State.isWarden, hrole]
    decide
  rw [settle_of_member hmember (heeded_quiet (by decide) honly)] at ht
  have hnone := sizelessDrop_fetches_nothing
  rw [ht] at hnone
  have hempty : t.red.tags.inUse = [] := List.isEmpty_iff.1 hnone
  simp [hempty] at htags

end Sys2Proof.Machine
end

section
/-! The stream watchdog (R104): a bucket both issued and running, which has completed. -/
namespace Sys2Proof.Machine

variable {s t u : State}

/-! ## What commands and what follows from them do with the notices of aborts

What follows from a command adds no notice: a release forgets them all (R245), and the other operations keep them. A halt ends the buckets of every
channel, but it also drops the frames held, so the relation speaks of both lists, and its lemma on a halt need not follow those buckets. -/

/-- From `s` to `t` the notices of aborts and the frames held stay as they are, or one of the lists is emptied. -/
def Recalls (s t : State) : Prop :=
  (t.red.notices = s.red.notices ∧ t.red.waiting = s.red.waiting) ∨ t.red.notices = [] ∨ t.red.waiting = []

namespace Recalls

theorem of_red (h : t.red = s.red) : Recalls s t := .inl ⟨by rw [h], by rw [h]⟩

theorem refl (s : State) : Recalls s s := of_red rfl

theorem trans (h1 : Recalls s t) (h2 : Recalls t u) : Recalls s u := by
  rcases h2 with ⟨hn, hw⟩ | h2
  · unfold Recalls at h1 ⊢
    rwa [hn, hw]
  · exact .inr h2

theorem red (h1 : Recalls s t) (h : u.red = t.red) : Recalls s u := h1.trans (of_red h)

theorem keep {ps : Touch} (h1 : Recalls s t) (h2 : Keep ps t u) (hps : .red ∉ ps.1) : Recalls s u := h1.red (h2.same .red hps)

theorem ite {c : Prop} [Decidable c] (h1 : Recalls s t) (h2 : Recalls s u) : Recalls s (if c then t else u) := by
  split
  · exact h1
  · exact h2

theorem foldl {α : Type} {g : State → α → State} (l : List α) (hg : ∀ s a, Recalls s (g s a)) (h : Recalls s t) : Recalls s (l.foldl g t) :=
  List.foldlRecOn l g h fun u hu a _ => hu.trans (hg u a)

theorem onRst (h : Recalls s t) (f : Rst → Rst) : Recalls s (t.onRst f) := h.red rfl
theorem onWarden (h : Recalls s t) (f : Warden → Warden) : Recalls s (t.onWarden f) := h.red rfl
theorem onSyn (h : Recalls s t) (f : Syn → Syn) : Recalls s (t.onSyn f) := h.red rfl
theorem onFul (h : Recalls s t) (f : Ful → Ful) : Recalls s (t.onFul f) := h.red rfl
theorem onCut (h : Recalls s t) (f : CutUnit → CutUnit) : Recalls s (t.onCut f) := h.red rfl
theorem store' (h : Recalls s t) (a : Nat) (bs : List Byte) : Recalls s (t.store' a bs) := h.red rfl
theorem setReg (h : Recalls s t) (off : Nat) (v : W64) : Recalls s (t.setReg off v) := h.red rfl
theorem wr (h : Recalls s t) (f : Fld) (v : Nat) : Recalls s (t.wr f v) := h.red rfl
theorem wrB (h : Recalls s t) (f : Fld) (v : Bool) : Recalls s (t.wrB f v) := h.red rfl
theorem raise (h : Recalls s t) (f : Fld) : Recalls s (t.raise f) := h.red rfl

end Recalls

/-! ## Votes, tags, cuts and tasks -/

theorem onVote_recalls (s : State) (step : W64) (f : Vote → Vote) : Recalls s (s.onVote step f) := .inl ⟨rfl, rfl⟩

theorem taskVote_recalls (s : State) (q : Nat) (d : FulDesc) (ok : Bool) : Recalls s (s.taskVote q d ok) := by
  unfold State.taskVote
  have hskip : Recalls s (if d.normVote && !ok then s.onVote d.step (fun v => { v with skip := true }) else s) :=
    .ite (onVote_recalls ..) (.refl s)
  exact .ite (hskip.trans (onVote_recalls ..)) hskip

theorem releaseTag_recalls (s : State) (tag : Nat) : Recalls s (s.releaseTag tag) := by
  unfold State.releaseTag
  exact .ite (.inl ⟨rfl, rfl⟩) (.refl s)

theorem releaseTags_recalls (s : State) (l : List Nat) : Recalls s (s.releaseTags l) := .foldl l releaseTag_recalls (.refl s)

theorem feltStop_recalls (s : State) (c : Cut) : Recalls s (s.feltStop c) := by
  unfold State.feltStop
  extract_lets mine s1 s2 s3
  have h2 : Recalls s s2 := ((Recalls.refl s).keep (State.dropLanes_keep ..) (by decide)).keep (State.dropCtxs_keep ..) (by decide)
  have h3 : Recalls s s3 := .ite (h2.keep (State.mapDrop_keep ..) (by decide)) h2
  exact (h3.trans (releaseTags_recalls ..)).keep (State.putCut_keep ..) (by decide)

theorem barsNext_recalls (s : State) : Recalls s s.barsNext :=
  .foldl _ (fun s b => (Recalls.refl s).keep (barNext_keep_signals s b) (by decide)) (.refl s)

theorem commitFlushN_recalls (n : Nat) (s : State) : Recalls s (s.commitFlushN n) := by
  induction n generalizing s with
  | zero => exact .refl s
  | succ n ih =>
    unfold State.commitFlushN
    split
    · split
      · exact (((Recalls.refl s).keep (State.putCut_keep ..) (by decide)).keep (barArrive_keep_signals ..) (by decide)).trans (ih _)
      · exact .refl s
    · exact .refl s

theorem cutFlush_recalls (s : State) : Recalls s s.cutFlush := (commitFlushN_recalls _ s).keep (State.doneFlushN_keep ..) (by decide)

theorem peatFlushN_recalls (n : Nat) (s : State) : Recalls s (s.peatFlushN n) := by
  induction n generalizing s with
  | zero => exact .refl s
  | succ n ih =>
    unfold State.peatFlushN
    split
    · split
      · exact (((Recalls.refl s).keep (State.putCut_keep ..) (by decide)).keep (barArrive_keep_signals ..) (by decide)).trans (ih _)
      · exact .refl s
    · exact .refl s

theorem peatArrive_recalls (s : State) (seq : W32) (veto : Bool) : Recalls s (s.peatArrive seq veto) := by
  unfold State.peatArrive
  split
  · exact .ite (.refl s) (((Recalls.refl s).keep (State.putCut_keep ..) (by decide)).trans (peatFlushN_recalls ..))
  · exact .refl s

theorem cutFinal_recalls (s : State) (seq : W32) (st : CutState) (status : Status) (veto : Bool) : Recalls s (s.cutFinal seq st status veto) := by
  unfold State.cutFinal
  split
  · exact .refl s
  · next c _ =>
    refine .ite (.refl s) ?_
    extract_lets s1 pin s2 s3 s4 s5 s6 s7 s8
    have h1 : Recalls s s1 := feltStop_recalls s c
    have h2 : Recalls s s2 :=
      ((h1.keep (State.onCut_keep ..) (by decide)).keep (State.cutErr_keep ..) (by decide)).keep (State.cutEndCount_keep ..) (by decide)
    have h3 : Recalls s s3 := .ite (h2.raise _) h2
    have h4 : Recalls s s4 := by
      unfold s4
      split
      · exact .ite (h3.keep (State.pinHalf_keep ..) (by decide)) (.ite h3 (h3.keep (State.putHalf_keep ..) (by decide)))
      · exact h3
    have h5 : Recalls s s5 := .ite (h4.keep (State.sendRelease_keep ..) (by decide)) h4
    have h6 : Recalls s s6 :=
      .ite ((h4.keep (State.mapMove_keep ..) (by decide)).keep (State.mapDrop_keep ..) (by decide))
        (h5.keep (State.mapDrop_keep ..) (by decide))
    have h7 : Recalls s s7 := h6.keep (State.putCut_keep ..) (by decide)
    have h8 : Recalls s s8 := .ite (h7.trans (peatArrive_recalls ..)) h7
    exact h8.trans (cutFlush_recalls _)

theorem stateFaultCut_recalls (s : State) (batt : Nat) (status : Status) : Recalls s (s.stateFaultCut batt status) :=
  .foldl _ (fun s _ => cutFinal_recalls s ..) (.refl s)

theorem fulStateFault_recalls (s : State) (q : Nat) (t : FulTask) (st : Status) : Recalls s (s.fulStateFault q t st) := by
  unfold State.fulStateFault
  refine .ite ?_ (.refl s)
  extract_lets d s1 s2
  have h1 : Recalls s s1 := ((Recalls.refl s).keep (State.notice_keep ..) (by decide)).raise _
  exact .foldl _ (fun s _ => stateFaultCut_recalls s ..) (h1.red rfl)

theorem fulAbort_recalls (s : State) (q : Nat) (st : Status) (upstream : Bool) : Recalls s (s.fulAbort q st upstream) := by
  unfold State.fulAbort
  extract_lets x halt s1 s2
  split
  · exact .refl s
  · next t _ =>
    refine .ite (.refl s) ?_
    extract_lets d index s3 s4 s5 s6 s7
    have h2 : Recalls s s2 := .of_red rfl
    have h5 : Recalls s s5 :=
      ((h2.keep (State.fulLeavePort_keep ..) (by decide)).keep (State.fulWriteBack_keep ..) (by decide)).keep
        (State.logAbort_keep ..) (by decide)
    have h6 : Recalls s s6 := h5.keep (State.fulFault_keep ..) (by decide)
    have h7 : Recalls s s7 := (h6.trans (taskVote_recalls ..)).trans (fulStateFault_recalls ..)
    exact h7.keep (State.produce_keep ..) (by decide)

theorem gateFail_recalls (s : State) (step : W64) (st : Status) : Recalls s (s.gateFail step st) := by
  unfold State.gateFail
  refine .foldl _ (fun s q => ?_) (.of_red rfl)
  split
  · exact .ite (fulAbort_recalls ..) (.refl s)
  · exact .refl s

theorem retireOld_recalls (s : State) (newest c : Cut) : Recalls s (s.retireOld newest c) := by
  unfold State.retireOld
  refine .ite (.refl s) ?_
  extract_lets s1 s2 c1 pinned st
  have h1 : Recalls s s1 := .ite (feltStop_recalls ..) (.refl s)
  have h2 : Recalls s s2 := .ite ((h1.keep (State.sendRelease_keep ..) (by decide)).keep (State.mapDrop_keep ..) (by decide)) h1
  exact h2.keep (State.putCut_keep ..) (by decide)

theorem commitResult_recalls (s : State) (seq : W32) (or' : W64) : Recalls s (s.commitResult seq or') := by
  unfold State.commitResult
  extract_lets veto s1
  have h1 : Recalls s s1 := .ite ((Recalls.refl s).raise _) (.refl s)
  split
  · exact h1
  · refine .ite (h1.trans (cutFlush_recalls _)) (.ite (h1.trans (cutFinal_recalls ..)) ?_)
    extract_lets pin c s2 s3 s4 s5 s6 s7 r s8 s9
    have h2 : Recalls s s2 := h1.keep (State.putCut_keep ..) (by decide)
    have h3 : Recalls s s3 := by
      unfold s3
      split
      · exact .ite (h2.keep (State.pinHalf_keep ..) (by decide)) (h2.keep (State.putHalf_keep ..) (by decide))
      · exact h2
    have h4 : Recalls s s4 := (h3.keep (State.freeOldHalf_keep ..) (by decide)).keep (State.freeOldHalf_keep ..) (by decide)
    have h5 : Recalls s s5 := .foldl _ (fun s d => retireOld_recalls s c d) h4
    have h7 : Recalls s s7 := ((((h5.setReg ..).wr ..).wr ..).wrB ..).wrB ..
    have h8 : Recalls s s8 := h7.keep (keep_rst s7 { s7.rst with liveClean := true } rfl) (by decide)
    have h9 : Recalls s s9 := .ite (h8.trans (peatArrive_recalls ..)) h8
    exact h9.trans (cutFlush_recalls _)

theorem abandonEarly_recalls (s : State) (status : State → Status × State) (h : ∀ s, Recalls s (status s).2) :
    Recalls s (s.abandonEarly status) :=
  .foldl _ (fun s _ => (h s).trans (cutFinal_recalls ..)) (.refl s)

theorem cutsHalt_recalls (s : State) : Recalls s s.cutsHalt := by
  unfold State.cutsHalt
  extract_lets s1 s2 s3 s4
  have h1 : Recalls s s1 := .foldl _ (fun s c => (Recalls.refl s).keep (State.recordAtHalt_keep s c) (by decide)) (.refl s)
  have h2 : Recalls s s2 := .foldl _ feltStop_recalls h1
  have h3 : Recalls s s3 := h2.keep (State.onCut_keep ..) (by decide)
  have h4 : Recalls s s4 := h3.trans (abandonEarly_recalls _ _ .refl)
  exact (h4.keep (State.onCut_keep ..) (by decide)).trans (cutFlush_recalls _)

/-- A halt drops the frames held. -/
theorem haltTake_recalls (s : State) (e : BitVec 16) : Recalls s (s.haltTake e) := by
  unfold State.haltTake
  extract_lets replan s1 s2 s3 s4 r s5 s6 s7 s8 s9 s10 s11 s12
  have h5 : Recalls s s5 := .inr (.inr rfl)
  have h6 : Recalls s s6 := .foldl _ (fun s q => fulAbort_recalls s q St.halted false) h5
  have h8 : Recalls s s8 := (h6.trans (releaseTags_recalls ..)).onRst _
  have h9 : Recalls s s9 :=
    (((h8.trans (cutsHalt_recalls _)).keep (State.setsHalt_keep _) (by decide)).keep (State.waitsHalt_keep _) (by decide)).keep
      (State.barsHalt_keep ..) (by decide)
  have h11 : Recalls s s11 := (h9.keep (State.dropLanes_keep ..) (by decide)).keep (State.dropCtxs_keep ..) (by decide)
  have h12 : Recalls s s12 := .ite (h11.keep (State.setFlag_keep ..) (by decide)) h11
  exact h12.keep (State.heartbeat_keep _) (by decide)

theorem raiseHalt_recalls (s : State) : Recalls s s.raiseHalt :=
  (((Recalls.refl s).keep (State.classStart_keep _) (by decide)).keep (State.toPeers_keep ..) (by decide)).trans (haltTake_recalls ..)

/-! ## The Warden and the plan -/

theorem planVote_recalls (s : State) (step : W64) (gen : BitVec 8) : Recalls s (s.planVote step gen) :=
  .ite (((Recalls.refl s).onRst _).keep (barArrive_keep_signals ..) (by decide)) (.refl s)

theorem propose_recalls (s : State) : Recalls s s.propose := by
  unfold State.propose
  split
  · exact (Recalls.refl s).keep (State.planFails_keep _) (by decide)
  · exact (((Recalls.refl s).onWarden _).keep (State.toPeers_keep ..) (by decide)).trans (planVote_recalls ..)

theorem startPlan_recalls (s : State) : Recalls s s.startPlan :=
  .ite ((Recalls.refl s).keep (State.planFails_keep _) (by decide))
    ((((Recalls.refl s).keep (State.queries_keep _) (by decide)).onWarden _).trans (propose_recalls _))

theorem classEnd_recalls (s : State) : Recalls s s.classEnd := by
  unfold State.classEnd
  refine .ite (.refl s) ?_
  extract_lets s1
  have h1 : Recalls s s1 := (Recalls.refl s).onWarden _
  exact .ite (h1.trans (startPlan_recalls _)) h1

theorem replan_recalls (s : State) : Recalls s s.replan := by
  unfold State.replan
  refine .ite (raiseHalt_recalls s) ?_
  split
  · exact (Recalls.refl s).keep (State.sendTo_keep ..) (by decide)
  · exact raiseHalt_recalls s

theorem react_recalls (s : State) : Recalls s s.react := by
  unfold State.react
  split
  · exact (raiseHalt_recalls s).trans (classEnd_recalls _)
  · refine .ite (.ite ((raiseHalt_recalls s).trans (classEnd_recalls _)) (classEnd_recalls s)) ?_
    extract_lets s1
    have h1 : Recalls s s1 := by
      unfold s1
      split
      · exact (Recalls.refl s).keep (State.sendTo_keep ..) (by decide)
      · exact .refl s
    exact h1.trans (classEnd_recalls _)
  · exact (replan_recalls s).trans (classEnd_recalls _)
  · exact (replan_recalls s).trans (classEnd_recalls _)
  · exact .refl s

theorem sourceless_recalls (s : State) (step : W64) : Recalls s (s.sourceless step) := by
  unfold State.sourceless
  refine .ite (.ite ((((Recalls.refl s).onWarden _).trans (raiseHalt_recalls _)).trans (classEnd_recalls _)) (.refl s)) ?_
  split
  · exact (Recalls.refl s).keep (State.noticeTo_keep ..) (by decide)
  · exact .refl s

theorem leadReplans_recalls (s : State) : Recalls s s.leadReplans := .ite (sourceless_recalls ..) (.refl s)

/-! ## Restoring -/

theorem recSeqs_recalls (s : State) (b : List Byte) : Recalls s (s.recSeqs b) := by
  unfold State.recSeqs
  extract_lets w s1 s2
  have h1 : Recalls s s1 := .foldl _ (fun s ch => .inl ⟨rfl, rfl⟩) (.refl s)
  have h2 : Recalls s s2 := .foldl _ (fun s q => (Recalls.refl s).onFul _) h1
  exact h2.onCut _

theorem recordWrite_recalls (s : State) (b : List Byte) : Recalls s (s.recordWrite b) := by
  unfold State.recordWrite
  extract_lets s1 s2 s3 rt s4 s5 s6 s7
  have h1 : Recalls s s1 := (Recalls.refl s).onSyn _
  have h2 : Recalls s s2 := (h1.trans (recSeqs_recalls _ b)).keep (State.recQueues_keep ..) (by decide)
  have h3 : Recalls s s3 := (h2.setReg ..).setReg ..
  have h4 : Recalls s s4 := .ite h3 (h3.store' ..)
  have h6 : Recalls s s6 := (h4.keep (State.settleHalves_keep _) (by decide)).keep (State.jobCutIs_keep ..) (by decide)
  have h7 : Recalls s s7 := h6.onFul _
  exact h7.trans (cutFlush_recalls _)

theorem recordGo_recalls (s : State) (b : List Byte) : Recalls s (s.recordGo b) :=
  ((recordWrite_recalls s b).onRst _).keep (State.verifyLanes_keep _) (by decide)

theorem recordNext_recalls (s : State) : Recalls s s.recordNext := by
  unfold State.recordNext
  extract_lets s1
  have h1 : Recalls s s1 :=
    .ite ((Recalls.refl s).keep (State.switchInputs_keep ..) (by decide)) ((Recalls.refl s).keep (State.nextSource_keep ..) (by decide))
  exact .ite h1 (.ite (h1.trans (recordGo_recalls ..))
    ((h1.keep (State.recordBad_keep ..) (by decide)).keep (State.switchInputs_keep ..) (by decide)))

theorem recordTry_recalls (s : State) (ring : List Byte) : Recalls s (s.recordTry ring) :=
  .ite (recordGo_recalls ..)
    ((((Recalls.refl s).keep (State.recordBad_keep ..) (by decide)).keep (State.onInput_keep ..) (by decide)).trans (recordNext_recalls _))

theorem recordRestore_recalls (s : State) : Recalls s s.recordRestore := ((Recalls.refl s).onRst _).trans (recordTry_recalls ..)

theorem startWork_recalls (s : State) : Recalls s s.startWork := by
  unfold State.startWork
  extract_lets clean regs s1 s2 s3
  have h1 : Recalls s s1 := (Recalls.refl s).onRst _
  have h2 : Recalls s s2 := .ite (h1.keep (State.nextSource_keep ..) (by decide)) h1
  have h3 : Recalls s s3 := h2.keep (State.nextSource_keep ..) (by decide)
  exact .ite (h3.trans (recordRestore_recalls _)) (h3.keep (State.nextSource_keep ..) (by decide))

theorem ready_recalls (s : State) : Recalls s s.ready := ((Recalls.refl s).onRst _).keep (barArrive_keep_signals ..) (by decide)

theorem resumeWork_recalls (s : State) : Recalls s s.resumeWork := by
  unfold State.resumeWork
  extract_lets d s1 s2
  have h1 : Recalls s s1 := (Recalls.refl s).onRst _
  have h2 : Recalls s s2 := .foldl _ (fun s i => (Recalls.refl s).keep (State.ask_keep s i) (by decide)) h1
  exact .ite (ready_recalls s) (.ite (h2.keep (State.verifyLanes_keep _) (by decide)) (.ite (h2.trans (recordRestore_recalls _)) h2))

theorem chosen_recalls (s : State) (step : W64) (gen : BitVec 8) : Recalls s (s.chosen step gen) := by
  unfold State.chosen
  refine .ite ((Recalls.refl s).onRst _) (.ite (.refl s) ?_)
  extract_lets same s1 s2
  have h2 : Recalls s s2 := ((Recalls.refl s).onRst _).keep (State.setsChosen_keep _) (by decide)
  exact .ite (h2.trans (resumeWork_recalls _)) (.ite (h2.trans (startWork_recalls _)) (h2.onRst _))

theorem chosenLate_recalls (s : State) : Recalls s s.chosenLate := .ite (startWork_recalls s) (.refl s)

theorem planResult_recalls (s : State) (st : Status) (or' : W64) : Recalls s (s.planResult st or') := by
  unfold State.planResult
  split
  · refine .ite (.refl s) (.ite ?_ (propose_recalls s))
    exact ((((Recalls.refl s).onWarden _).keep (State.toPeers_keep ..) (by decide)).keep
      (State.jobGoes_keep _) (by decide)).trans (chosen_recalls ..)
  · exact .refl s

/-! ## Barriers and what follows from a command -/

/-- A release forgets the notices. -/
theorem released_recalls (s : State) : Recalls s s.released := by
  unfold State.released
  refine .ite (.refl s) ?_
  extract_lets s1 r s2 s3
  exact Recalls.keep (t := State.redReleased _) (.inr (.inl rfl)) (State.refeltStart_keep _) (by decide)

theorem giveResult_recalls (s : State) (fn : BarFn) (st : Status) (res : Option (W64 × W64)) : Recalls s (s.giveResult fn st res) := by
  unfold State.giveResult
  split
  · exact .refl s
  · exact (Recalls.refl s).keep (State.gateOpen_keep ..) (by decide)
  · exact gateFail_recalls ..
  · exact commitResult_recalls ..
  · exact cutFlush_recalls s
  · exact (Recalls.refl s).keep (State.peatResult_keep ..) (by decide)
  · split
    · exact (Recalls.refl s).keep (State.peatNextEnd_keep ..) (by decide)
    · exact .refl s
  · exact planResult_recalls ..
  · exact .ite ((released_recalls s).keep (State.wardenReleased_keep _) (by decide)) (released_recalls s)
  · exact .refl s

theorem giveFirst_recalls (s : State) : Recalls s s.giveFirst := by
  unfold State.giveFirst
  split
  · exact .refl s
  · exact ((Recalls.refl s).onSyn _).trans (giveResult_recalls ..)

theorem giveN_recalls (n : Nat) (s : State) : Recalls s (s.giveN n) := by
  induction n generalizing s with
  | zero => exact .refl s
  | succ n ih => exact .ite (barsNext_recalls s) (((barsNext_recalls s).trans (giveFirst_recalls _)).trans (ih _))

theorem ownAborts_recalls (s : State) : Recalls s s.ownAborts := by
  unfold State.ownAborts
  refine .ite (.refl s) ?_
  extract_lets r s1
  have h1 : Recalls s s1 := .inl ⟨rfl, rfl⟩
  exact .ite (h1.trans (react_recalls _)) h1

theorem settle_recalls (s : State) : Recalls s s.settle := by
  unfold State.settle
  extract_lets s1
  have h1 : Recalls s s1 :=
    ((((ownAborts_recalls s).trans (cutFlush_recalls _)).trans (giveN_recalls 256 _)).trans (chosenLate_recalls _)).trans
    (leadReplans_recalls _)
  exact (((h1.trans (giveN_recalls 256 _)).keep (State.restoreEnd_keep _) (by decide)).keep (State.peatNextFinal_keep _) (by decide)).keep
    (State.flushLate_keep _) (by decide)

/-! ## A bucket that waits for its backup worker's data and has completed -/

/-- The bucket: a fetch is under way for it (R105), and it has completed. -/
def State.twiceBucket : Bucket := { fetch := some 0, completed := true }

/-- The bucket stands both among the issued and among the running buckets of channel 0, long after its last arrival; a notice of another
channel's abort has been seen and a frame is held. No run reaches this (a bucket leaves the issued ones when it starts, and only running buckets
complete), but neither `State.Inv` nor the statement says so. -/
def State.twice : State :=
  let b := State.twiceBucket
  let s := (State.reset.onBoot (fun b => { b with phase := .running })).putChan 0 { issued := [b], running := [b] }
  { s with now := 10 ^ 12, red := { s.red with notices := [(1, 0, 0)], waiting := [{ slice := 0, ty := Ty.drop, frame := {} }] } }

theorem twice_inv : State.twice.Inv := State.inv_plain rfl (by decide)

theorem twice_late : State.twice.hw = true ∧ State.twice.streamLate ((0 : Fin 32) : Nat) = some State.twiceBucket ∧
    State.twice.bucket ((0 : Fin 32) : Nat) State.twiceBucket.seq = some State.twiceBucket := by decide

/-- The watchdog finds the bucket among the issued ones and leaves it alone as completed: no notice is added. -/
theorem twice_watchdog : (match exec (.reductionStreamWatchdog 0 .none) State.twice with
    | .next t => t.red.notices == [(1, 0, 0)] && !t.red.waiting.isEmpty
    | _ => false) = true := by decide +kernel

/-- Refutes O32: the statement has every bucket that the stream watchdog finds late abort with a notice, also one that stands among the issued
buckets and has completed, which the watchdog leaves alone. -/
theorem not_bucketEnds : ¬ Obligations.BucketEnds := by
  intro h
  obtain ⟨hhw, hlate, hbucket⟩ := twice_late
  obtain ⟨hchannels, -⟩ := h State.twice twice_inv hhw
  obtain ⟨-, -, hwatchdog⟩ := hchannels 0
  obtain ⟨⟨t, ht, -, -, -, hnotice, -⟩, -⟩ := hwatchdog _ hlate hbucket
  have hkept := twice_watchdog
  rw [ht] at hkept
  obtain ⟨hnotices, hwaiting⟩ : t.settle.red.notices = [(1, 0, 0)] ∧ t.settle.red.waiting ≠ [] := by simpa using hkept
  rcases settle_recalls t with ⟨hsame, -⟩ | hforgot | hdropped
  · rw [← hsame, hnotices] at hnotice
    simp [State.twiceBucket] at hnotice
  · simp [hforgot] at hnotices
  · exact hwaiting hdropped

end Sys2Proof.Machine
end

section
/-! Loading Fulling programs (R134 to R137). -/
namespace Sys2Proof.Machine

variable {s t : State} {slot : Fin 16}

/-! ## The result of a CMD -/

/-- A CMD for a slot has left its result in CGM_FUL_PROG_CTRL, and changed nothing outside the Fulling unit but that (R136). -/
def ProgAnswers (slot : Fin 16) (v : Nat) (s t : State) : Prop :=
  t.rd Fld.fulProgCtrl.loadStatus = v ∧ t.rd Fld.fulProgCtrl.slot = slot.val ∧
    Changes [.regs, .ful] [Fld.fulProgCtrl.slot, Fld.fulProgCtrl.loadStatus] s t

theorem onFul_only (s : State) (f : Ful → Ful) : Only [.ful] s (s.onFul f) := (keep_ful s (f s.ful)).only

theorem onFul_changes (s : State) (f : Ful → Ful) : Changes [.ful] [] s (s.onFul f) := .of_only (onFul_only s f) rfl

theorem loadStatus_answers (h : s.Inv) (slot : Fin 16) {v : Nat} (hv : v < 16) (f : Ful → Ful) :
    ProgAnswers slot v s ((s.onFul f).loadStatus slot v) := by
  have hf : (s.onFul f).Inv := (keep_ful s (f s.ful)).inv h
  have hslot : ((s.onFul f).wr Fld.fulProgCtrl.slot slot).Inv := (State.wr_keep (has_all _) _ _).inv hf
  refine ⟨(rd_wr_same _ v (inv_rising hslot) (by decide)).trans (Nat.mod_eq_of_lt hv), ?_, ?_⟩
  · rw [State.loadStatus, rd_wr_apart _ _ v (inv_rising hslot) (by decide), rd_wr_same _ _ (inv_rising hf) (by decide)]
    exact Nat.mod_eq_of_lt slot.isLt
  · exact (Changes.of_keep (State.loadStatus_keep _ slot v) hf (by decide +kernel)).step (by decide) (fun _ => id)
      ((onFul_changes s f).step (by decide) (by simp) (.refl _ _ s))

/-- A CMD that leaves the Fulling unit as it was. -/
theorem loadStatus_only_answers (h : s.Inv) (slot : Fin 16) {v : Nat} (hv : v < 16) :
    (s.loadStatus slot v).ful = s.ful ∧ ProgAnswers slot v s (s.loadStatus slot v) := ⟨rfl, loadStatus_answers h slot hv fun u => u⟩

/-- Every code of a check fits LOAD_STATUS (R135). -/
theorem imageCheck_lt (ws : List W32) (n : Nat) : imageCheck ws n < 16 := by
  unfold imageCheck
  dsimp only
  split_ifs <;> decide

/-! ## The commands -/

theorem exec_prog (hp : s.powered = true) (slot : Fin 16) (w : W32) : exec (.progBegin slot) s = .next (s.progBegin slot) ∧
    exec (.progDataWord w) s = .next (s.progWord w) ∧ exec (.progCommit slot) s = .next (s.progCommit slot) ∧
    exec (.progUnload slot) s = .next (s.progUnload slot) := by
  have hon (t : State) : (if !s.powered then Host.Outcome.next s else .next t : Out) = .next t := by simp [hp]
  exact ⟨hon _, hon _, hon _, hon _⟩

theorem prog_busy (h : s.slotBusy slot = true) : s.progBegin slot = s.loadStatus slot 1 ∧ s.progCommit slot = s.loadStatus slot 1 ∧
    s.progUnload slot = s.loadStatus slot 1 := by
  simp only [State.progBegin, State.progCommit, State.progUnload, h, if_true, and_self]

theorem progBegin_free (h : s.slotBusy slot = false) :
    s.progBegin slot = (s.onFul fun u => { u with load := some { slot := slot } }).loadStatus slot 0 := by
  simp [State.progBegin, h]

theorem progUnload_free (h : s.slotBusy slot = false) : s.progUnload slot =
    (s.onFul fun u => { u with slots := vset u.slots slot { vget u.slots slot {} with loaded := false } }).loadStatus slot 0 := by
  simp [State.progUnload, h, State.onFul]

theorem progWord_adds {l : ProgLoad} (h : s.ful.load = some l) (hl : l.words.length < 35) (w : W32) :
    s.progWord w = s.onFul fun u => { u with load := some { l with words := l.words ++ [w], count := l.count + 1 } } := by
  simp [State.progWord, h, hl]

theorem progWord_outside (h : s.ful.load = none) (w : W32) : s.progWord w = s.accessError Reg.fulProgData 4 true := by
  simp [State.progWord, h]

theorem progCommit_unbegun (h : s.slotBusy slot = false) (hl : s.ful.load.map (fun l => l.slot) ≠ some slot) :
    s.progCommit slot = s.loadStatus slot 7 := by
  cases hload : s.ful.load with
  | none => simp [State.progCommit, h, hload]
  | some l =>
    have hslot : l.slot ≠ slot := by simpa [hload] using hl
    simp [State.progCommit, h, hload, hslot]

theorem progCommit_bad {l : ProgLoad} (h : s.slotBusy slot = false) (hl : s.ful.load = some l) (hs : l.slot = slot)
    (hc : imageCheck l.words l.count ≠ 0) :
    s.progCommit slot = (s.onFul fun u => { u with load := none }).loadStatus slot (imageCheck l.words l.count) := by
  simp [State.progCommit, h, hl, hs, hc]

/-- The image becomes the program of its slot, with the next version (R137). -/
theorem progCommit_good {l : ProgLoad} (h : s.slotBusy slot = false) (hl : s.ful.load = some l) (hs : l.slot = slot)
    (hc : imageCheck l.words l.count = 0) : s.progCommit slot = (s.onFul fun u =>
      { u with
        load := none,
        slots := vset u.slots slot { loaded := true, version := (vget u.slots slot {}).version + 1, prog := imageProgram l.words } }).loadStatus
      slot 0 := by
  simp [State.progCommit, h, hl, hs, hc, State.onFul]

/-- Settles O35: each CMD and word by what it leaves of the Fulling unit, with its answer. -/
theorem fullingPrograms : Obligations.FullingPrograms := by
  intro s slot hi hp
  have hexec := exec_prog hp slot
  obtain ⟨hbegin, -, hcommit, hunload⟩ := hexec 0
  have hput (x : ProgSlot) : vget (vset s.ful.slots slot x) slot {} = x ∧
      ∀ k : Nat, k ≠ slot.val → vget (vset s.ful.slots slot x) k {} = vget s.ful.slots k {} :=
    ⟨vget_vset_same _ _ _ slot.isLt, fun k hk => vget_vset_other _ _ _ (Ne.symm hk)⟩
  refine ⟨fun hb c hc => ?_, fun hb => ?_, fun w => ⟨fun l hl hlen => ?_, fun hl => ?_⟩,
    fun hb => ⟨fun l hl hs => ⟨fun hgood => ?_, fun hbad => ?_⟩, fun hl => ?_, ?_⟩⟩
  · obtain ⟨hb1, hb2, hb3⟩ := prog_busy hb
    refine ⟨_, ?_, loadStatus_only_answers hi slot (by decide : 1 < 16)⟩
    rcases List.mem_cons.1 hc with rfl | hc
    · rw [hbegin, hb1]
    · rcases List.mem_cons.1 hc with rfl | hc
      · rw [hcommit, hb2]
      · rw [List.mem_singleton.1 hc, hunload, hb3]
  · exact ⟨_, hbegin.trans (congrArg _ (progBegin_free hb)), rfl, loadStatus_answers hi slot (by decide) _⟩
  · exact ⟨_, (hexec w).2.1.trans (congrArg _ (progWord_adds hl hlen w)), rfl, onFul_changes s _⟩
  · exact ⟨_, (hexec w).2.1.trans (congrArg _ (progWord_outside hl w)), accessError_refused hi _ _ _⟩
  · exact ⟨_, hcommit.trans (congrArg _ (progCommit_good hb hl hs hgood)), rfl, (hput _).2, (hput _).1,
      loadStatus_answers hi slot (by decide) _⟩
  · exact ⟨_, hcommit.trans (congrArg _ (progCommit_bad hb hl hs hbad)), rfl, loadStatus_answers hi slot (imageCheck_lt ..) _⟩
  · exact ⟨_, hcommit.trans (congrArg _ (progCommit_unbegun hb hl)), loadStatus_only_answers hi slot (by decide)⟩
  · exact ⟨_, hunload.trans (congrArg _ (progUnload_free hb)), (hput _).1, (hput _).2, rfl, loadStatus_answers hi slot (by decide) _⟩

end Sys2Proof.Machine
end

section
/-! The abort of a Fulling task (R146 to R149): what it leaves of its queue and of the other queues, of the error causes, and of the descriptor. -/
namespace Sys2Proof.Machine

variable {s t : State} {q : Fin 4} {t0 : FulTask} {st : Status}

/-! ## The end of a cut leaves the Fulling unit alone -/

theorem Keep.mono {ps qs : Touch} (h : Keep qs s t) (hs : sub qs ps = true) : Keep ps s t := h.step hs (.refl ps s)

/-- What the end of a cut may change: neither the Fulling unit nor its error causes. -/
abbrev cutEndTouch : Touch := ([.board, .regs, .mem, .red, .cut, .map, .syn, .chk, .outbox], 0x7a501d3e10000000000000000000000000000000000)

theorem commitFlushN_keep_apart (n : Nat) (s : State) : Keep cutEndTouch s (s.commitFlushN n) := by
  induction n generalizing s with
  | zero => exact .refl _ s
  | succ n ih =>
    unfold State.commitFlushN
    split
    · split
      · exact (ih _).step (sub_self _) ((barArrive_keep_signals ..).step (by decide) ((State.putCut_keep ..).mono (by decide)))
      · exact .refl _ s
    · exact .refl _ s

theorem cutFlush_keep_apart (s : State) : Keep cutEndTouch s s.cutFlush :=
  (State.doneFlushN_keep ..).step (by decide) (commitFlushN_keep_apart _ s)

theorem peatFlushN_keep_apart (n : Nat) (s : State) : Keep cutEndTouch s (s.peatFlushN n) := by
  induction n generalizing s with
  | zero => exact .refl _ s
  | succ n ih =>
    unfold State.peatFlushN
    split
    · split
      · exact (ih _).step (sub_self _) ((barArrive_keep_signals ..).step (by decide) ((State.putCut_keep ..).mono (by decide)))
      · exact .refl _ s
    · exact .refl _ s

theorem peatArrive_keep_apart (s : State) (seq : W32) (veto : Bool) : Keep cutEndTouch s (s.peatArrive seq veto) := by
  unfold State.peatArrive
  split
  · exact .ite (.refl _ s) ((peatFlushN_keep_apart ..).step (sub_self _) ((State.putCut_keep ..).mono (by decide)))
  · exact .refl _ s

theorem cutFinal_keep_apart (s : State) (seq : W32) (st : CutState) (status : Status) (veto : Bool) :
    Keep cutEndTouch s (s.cutFinal seq st status veto) := by
  unfold State.cutFinal
  split
  · exact .refl _ s
  · next c _ =>
    refine .ite (.refl _ s) ?_
    extract_lets s1 pin s2 s3 s4 s5 s6 s7 s8
    have h2 : Keep cutEndTouch s s2 := (State.cutEndCount_keep ..).step (by decide) ((State.cutErr_keep ..).step (by decide)
      ((State.onCut_keep ..).step (by decide) ((State.feltStop_keep s c).mono (by decide))))
    have h3 : Keep cutEndTouch s s3 := .ite ((State.raise_keep has_Fld_tierCutErrStatus_feltDeadline s2).step (by decide) h2) h2
    have h4 : Keep cutEndTouch s s4 := by
      unfold s4
      split
      · exact .ite ((State.pinHalf_keep ..).step (by decide) h3) (.ite h3 ((State.putHalf_keep ..).step (by decide) h3))
      · exact h3
    have h5 : Keep cutEndTouch s s5 := .ite ((State.sendRelease_keep ..).step (by decide) h4) h4
    have h6 : Keep cutEndTouch s s6 :=
      .ite ((State.mapDrop_keep ..).step (by decide) ((State.mapMove_keep ..).step (by decide) h4))
        ((State.mapDrop_keep ..).step (by decide) h5)
    have h7 : Keep cutEndTouch s s7 := (State.putCut_keep ..).step (by decide) h6
    have h8 : Keep cutEndTouch s s8 := .ite ((peatArrive_keep_apart ..).step (sub_self _) h7) h7
    exact (cutFlush_keep_apart _).step (sub_self _) h8

/-- The cuts that a task's abort takes along, with its notice (R148). -/
theorem fulStateFault_keep_apart (s : State) (q : Nat) (t : FulTask) (st : Status) :
    Keep ([.board, .regs, .mem, .red, .cut, .map, .rst, .syn, .chk, .outbox], 0x7a501d3e10000000000000010000000000000000000) s
      (s.fulStateFault q t st) := by
  unfold State.fulStateFault
  refine .ite ?_ (.refl _ s)
  extract_lets d s1 s2
  refine .foldl ((keep_rst s1 { s1.rst with faulted := true } rfl).step (by decide) ?_) fun u k => ?_
  · exact (State.raise_keep has_Fld_fulErrStatus_stateFault _).step (by decide) ((State.notice_keep ..).mono (by decide))
  · exact .foldl (.refl _ u) fun v c => (cutFinal_keep_apart v ..).mono (by decide)

/-- A task that has written nothing takes no cut along. -/
theorem fulStateFault_unwritten (h : t0.wrote = false) (q : Nat) (st : Status) : s.fulStateFault q t0 st = s := by
  simp [State.fulStateFault, h]

/-! ## Queues and ports -/

theorem putFq_fq_same (s : State) (q : Fin 4) (x : FulQueue) : (s.putFq q x).fq q = x := vget_vset_same _ _ _ q.isLt

theorem putFq_fq_other (s : State) (x : FulQueue) {c d : Nat} (h : c ≠ d) : (s.putFq d x).fq c = s.fq c := vget_vset_other _ _ _ (Ne.symm h)

theorem putPort_port_same (s : State) (p : Fin 8) (x : StreamPort) : (s.putPort p x).port p = x := vget_vset_same _ _ _ p.isLt

theorem fulLeavePort_queues (s : State) (t : FulTask) : (s.fulLeavePort t).ful.queues = s.ful.queues := by
  unfold State.fulLeavePort
  split <;> rfl

/-! ## The steps of an abort -/

/-- A queue whose task has aborted. -/
def FulQueue.abortedWith (x : FulQueue) (st : Status) : FulQueue :=
  { x with task := none, aborted := x.aborted || st != St.halted, lastStatus := st }

/-- What a queue waits for is forgotten. -/
def Syn.withoutWait (q : Nat) (y : Syn) : Syn :=
  { y with
    waiters := y.waiters.filter (fun w => w.who != .fulling q),
    held := y.held.filter (fun h => match h with | .wait w => w.who != .fulling q | _ => true) }

/-- An abort begins: the queue, the wait and the port are left. -/
def State.taskLeft (s : State) (q : Nat) (t : FulTask) (st : Status) : State :=
  ((s.putFq q ((s.fq q).abortedWith st)).onSyn (Syn.withoutWait q)).fulLeavePort t

/-- Then the result fields are written back. -/
def State.taskDropped (s : State) (q : Nat) (t : FulTask) (st : Status) : State :=
  (s.taskLeft q t st).fulWriteBack t st (some t.abortIndex)

/-- Then the record of the abort, the fault with its causes, and the vote. -/
def State.abortReported (s : State) (q : Nat) (t : FulTask) (st : Status) (upstream : Bool) : State :=
  (((s.taskDropped q t st).logAbort Unit'.ful q t.desc.seq.toNat t.desc.shard.toNat st).fulFault q t.desc st t.abortIndex upstream).taskVote
    q t.desc false

/-- The done count ends an abort, after the cuts that it takes along. -/
def State.countsDone (s : State) (q : Nat) : State := (s.produce (s.rd (Fld.fulQSync.donePair q)) 1 (.fulling q)).1

theorem fulAbort_eq {q : Nat} (h : (s.fq q).task = some t0) (hp : t0.posted = false) (st : Status) (upstream : Bool) :
    s.fulAbort q st upstream = ((s.abortReported q t0 st upstream).fulStateFault q t0 st).countsDone q := by
  unfold State.fulAbort
  simp only [h, hp]
  rfl

theorem countsDone_keep (s : State) (q : Nat) : Keep ([.regs, .mem, .syn], 0x193e00000000000000000000000000000000000) s (s.countsDone q) :=
  State.produce_keep ..

theorem taskLeft_keep (s : State) (q : Nat) (t : FulTask) (st : Status) : Keep ([.ful, .syn], 0) s (s.taskLeft q t st) := by
  have hqueue : Keep ([.ful, .syn], 0) s (s.putFq q ((s.fq q).abortedWith st)) := (State.putFq_keep ..).mono (by decide)
  have hwait : Keep ([.ful, .syn], 0) s ((s.putFq q ((s.fq q).abortedWith st)).onSyn (Syn.withoutWait q)) :=
    (State.onSyn_keep _ (Syn.withoutWait q) fun _ => rfl).step (by decide) hqueue
  exact (State.fulLeavePort_keep _ t).step (by decide) hwait

theorem taskLeft_queues (s : State) (q : Nat) (t : FulTask) (st : Status) :
    (s.taskLeft q t st).ful.queues = vset s.ful.queues q ((s.fq q).abortedWith st) :=
  fulLeavePort_queues _ t

theorem taskLeft_syn (s : State) (q : Nat) (t : FulTask) (st : Status) :
    (s.taskLeft q t st).syn.waiters = s.syn.waiters.filter (fun w => w.who != .fulling q) ∧ (s.taskLeft q t st).syn.pends = s.syn.pends := by
  have hport (u : State) : (u.fulLeavePort t).syn = u.syn := (State.fulLeavePort_keep u t).same .syn (by decide)
  rw [State.taskLeft, hport]
  exact ⟨rfl, rfl⟩

theorem taskDropped_keep (s : State) (q : Nat) (t : FulTask) (st : Status) : Keep ([.mem, .ful, .syn], 0) s (s.taskDropped q t st) :=
  (State.fulWriteBack_keep ..).step (by decide) ((taskLeft_keep ..).mono (by decide))

/-- What is reported of an abort changes neither the Fulling unit nor memory. -/
theorem abortReported_keep (s : State) (q : Nat) (t : FulTask) (st : Status) (upstream : Bool) :
    Keep ([.regs, .log, .red], 0x10000000000000000000000000000000001f7000040000000000000) (s.taskDropped q t st)
      (s.abortReported q t st upstream) :=
  (State.taskVote_keep ..).step (by decide) ((State.fulFault_keep ..).step (by decide) ((State.logAbort_keep ..).mono (by decide)))

theorem abortReported_inv (hi : s.Inv) (q : Nat) (t : FulTask) (st : Status) (upstream : Bool) : (s.abortReported q t st upstream).Inv :=
  (abortReported_keep ..).inv ((taskDropped_keep ..).inv hi)

/-! ## The queues -/

/-- A queue has no task any more, and is aborted but by a halt; the other queues are as they were. -/
def TaskGone (q : Fin 4) (st : Status) (s t : State) : Prop :=
  (t.fq q).task = none ∧ (t.fq q).aborted = ((s.fq q).aborted || st != St.halted) ∧ (t.fq q).lastStatus = st ∧
    ∀ c : Nat, c ≠ q.val → t.fq c = s.fq c

theorem fulAbort_queues {q : Nat} (h : (s.fq q).task = some t0) (hp : t0.posted = false) (st : Status) (upstream : Bool) :
    (s.fulAbort q st upstream).ful.queues = vset s.ful.queues q ((s.fq q).abortedWith st) := by
  have hreport : (s.abortReported q t0 st upstream).ful = (s.taskLeft q t0 st).ful := (abortReported_keep ..).same .ful (by decide)
  have hcuts : ((s.abortReported q t0 st upstream).fulStateFault q t0 st).ful = (s.abortReported q t0 st upstream).ful :=
    (fulStateFault_keep_apart ..).same .ful (by decide)
  have hdone (u : State) : (u.countsDone q).ful = u.ful := (countsDone_keep u q).same .ful (by decide)
  rw [fulAbort_eq h hp, hdone, hcuts, hreport, taskLeft_queues]

theorem fulAbort_fq (h : (s.fq q).task = some t0) (hp : t0.posted = false) (st : Status) (upstream : Bool) :
    (s.fulAbort q st upstream).fq q = (s.fq q).abortedWith st := by
  rw [State.fq, fulAbort_queues h hp]
  exact vget_vset_same _ _ _ q.isLt

theorem fulAbort_fq_other (h : (s.fq q).task = some t0) (hp : t0.posted = false) (st : Status) (upstream : Bool) {c : Nat} (hc : c ≠ q.val) :
    (s.fulAbort q st upstream).fq c = s.fq c := by
  rw [State.fq, fulAbort_queues h hp]
  exact vget_vset_other _ _ _ (Ne.symm hc)

/-- The task of a queue is gone after its abort, also as seen from before the queue took it. -/
theorem fulAbort_gone {u : State} (h : (s.fq q).task = some t0) (hp : t0.posted = false) (ha : (s.fq q).aborted = (u.fq q).aborted)
    (ho : ∀ c : Nat, c ≠ q.val → s.fq c = u.fq c) (st : Status) (upstream : Bool) : TaskGone q st u (s.fulAbort q st upstream) := by
  refine ⟨?_, ?_, ?_, fun c hc => (fulAbort_fq_other h hp st upstream hc).trans (ho c hc)⟩
  · rw [fulAbort_fq h hp]; rfl
  · rw [fulAbort_fq h hp, ← ha]; rfl
  · rw [fulAbort_fq h hp]; rfl

/-! ## The error causes -/

theorem fulFault_upstream (h : s.Inv) (q : Nat) (d : FulDesc) (st : Status) (i : Nat) :
    (s.fulFault q d st i true).rd Fld.fulErrStatus.upstream = 1 := by
  have hfirst : (s.fulFault q d st i false).Inv := (State.fulFault_keep ..).inv h
  exact rd_wr_same _ 1 (inv_rising hfirst) (by decide)

theorem fulFault_lenLong (h : s.Inv) (q : Nat) (d : FulDesc) (i : Nat) :
    (s.fulFault q d St.lengthLong i false).rd Fld.fulErrStatus.lenLong = 1 := by
  have hfirst : (s.fulFault q d St.success i false).Inv := (State.fulFault_keep ..).inv h
  exact rd_wr_same _ 1 (inv_rising hfirst) (by decide)

/-- What an abort does after its fault: the vote, the cuts that it takes along, the done count. -/
theorem fulAbort_afterFault (h : (s.fq q).task = some t0) (hp : t0.posted = false) (st : Status) (upstream : Bool) :
    Keep ([.board, .regs, .mem, .red, .cut, .map, .rst, .syn, .chk, .outbox], 0x7a501d3e10000000000000010000000000000000000)
      (((s.taskDropped q t0 st).logAbort Unit'.ful q t0.desc.seq.toNat t0.desc.shard.toNat st).fulFault q t0.desc st t0.abortIndex upstream)
      (s.fulAbort q st upstream) := by
  rw [fulAbort_eq h hp]
  exact (countsDone_keep ..).step (by decide) ((fulStateFault_keep_apart ..).step (by decide) ((State.taskVote_keep ..).mono (by decide)))

theorem faulted_inv (hi : s.Inv) (q : Nat) (t : FulTask) (st : Status) :
    ((s.taskDropped q t st).logAbort Unit'.ful q t.desc.seq.toNat t.desc.shard.toNat st).Inv :=
  (State.logAbort_keep ..).inv ((taskDropped_keep ..).inv hi)

theorem fulAbort_upstream (hi : s.Inv) (h : (s.fq q).task = some t0) (hp : t0.posted = false) :
    (s.fulAbort q st true).rd Fld.fulErrStatus.upstream = 1 :=
  ((fulAbort_afterFault h hp st true).rd ((State.fulFault_keep ..).inv (faulted_inv hi q t0 st)) (by decide +kernel)).trans
    (fulFault_upstream (faulted_inv hi q t0 st) ..)

theorem fulAbort_lenLong (hi : s.Inv) (h : (s.fq q).task = some t0) (hp : t0.posted = false) :
    (s.fulAbort q St.lengthLong).rd Fld.fulErrStatus.lenLong = 1 :=
  ((fulAbort_afterFault h hp St.lengthLong false).rd ((State.fulFault_keep ..).inv (faulted_inv hi q t0 _)) (by decide +kernel)).trans
    (fulFault_lenLong (faulted_inv hi q t0 _) ..)

/-! ## Where nothing waits on a pair -/

theorem serve_idle (hw : s.syn.waiters = []) (hp : s.syn.pends = []) (isPair : Bool) (obj : Nat) : s.serve isPair obj = s := by
  rw [State.serve, hw, hp]
  rfl

theorem produce_mem_idle (hw : s.syn.waiters = []) (hp : s.syn.pends = []) (pair n : Nat) (who : Who) :
    (s.produce pair n who).1.mem = s.mem := by
  have hrefuse (st : Status) : (s.refuseProduce pair who st).1.mem = s.mem := (State.refuseProduce_keep s pair who st).same .mem (by decide)
  have hserve (p : Pair) : ((s.putPair pair p).serve true pair).mem = s.mem := by rw [serve_idle (s := s.putPair pair p) hw hp]; rfl
  unfold State.produce State.produceNow
  dsimp only
  split_ifs
  · rfl
  · rfl
  · exact hrefuse _
  · exact hrefuse _
  · exact hrefuse _
  · exact hserve _
  · exact hrefuse _
  · rfl

/-! ## A task that has written nothing -/

/-- The bytes of a string that a longer one begins with. -/
theorem bytesAt_putBytes_front {m : Memory} (a : Nat) (xs ys : List Byte) (h : rising m = true) :
    Memory.bytesAt (Memory.putBytes m a (xs ++ ys)) a xs.length = xs := by
  induction xs generalizing m a with
  | nil => rfl
  | cons x xs ih =>
    rw [List.cons_append, Memory.putBytes, List.length_cons, Memory.bytesAt, ih _ (rising_putByte a x h),
      Memory.byteAt_putBytes_outside _ _ _ _ (by omega), Memory.byteAt_putByte_same a x h]

theorem length_leBytes (n v : Nat) : (leBytes n v).length = n := by
  induction n generalizing v with
  | zero => rfl
  | succ n ih => rw [leBytes, List.length_cons, ih]

/-- The result fields of a descriptor are 40 bytes, with the status in front (R121). -/
theorem fulWriteBack_memory (hi : s.Inv) (t : FulTask) (st : Status) (i : Option Nat) :
    (s.fulWriteBack t st i).load (t.addr + 152) 2 = leBytes 2 st.toNat ∧ BytesBut (t.addr + 152) 40 s (s.fulWriteBack t st i) := by
  rw [State.fulWriteBack]
  simp only [List.append_assoc]
  refine ⟨?_, .store' s _ (by simp [length_leBytes, zeros])⟩
  have hmem : rising s.mem = true := by
    have := hi.mem
    simp only [Memory.wf, Bool.and_eq_true] at this
    exact this.1
  exact bytesAt_putBytes_front (t.addr + 152) (leBytes 2 st.toNat) _ hmem

/-- A task that has written nothing aborts: its descriptor's result fields, the log, the vote and the Fulling unit's own registers change. -/
theorem fulAbort_unwritten (hi : s.Inv) (h : (s.fq q).task = some t0) (hp : t0.posted = false) (hw : t0.wrote = false) (st : Status)
    (upstream : Bool) : Changes [.regs, .mem, .log, .red, .ful, .syn] (Fld.ctlErrlog.head :: signalFields ++ fulAbortFields) s
      (s.fulAbort q st upstream) := by
  rw [fulAbort_eq h hp, fulStateFault_unwritten hw]
  have hrep : Keep ([.regs, .mem, .log, .red, .ful, .syn], 0x10000000000000000000000000000000001f7000040000000000000) s
      (s.abortReported q t0 st upstream) := (abortReported_keep ..).step (by decide) ((taskDropped_keep ..).mono (by decide))
  exact (Changes.of_keep (countsDone_keep _ q) (hrep.inv hi) (fs := signalFields) (by decide +kernel)).step (by decide)
    (fun f hf => List.mem_cons_of_mem _ (List.mem_append_left _ hf)) (.of_keep hrep hi (by decide +kernel))

theorem fulAbort_memory (hi : s.Inv) (h : (s.fq q).task = some t0) (hp : t0.posted = false) (hw : t0.wrote = false)
    (hwait : s.syn.waiters = []) (hpend : s.syn.pends = []) (st : Status) (upstream : Bool) :
    (s.fulAbort q st upstream).load (t0.addr + 152) 2 = leBytes 2 st.toNat ∧ BytesBut (t0.addr + 152) 40 s (s.fulAbort q st upstream) := by
  have hleft := taskLeft_keep s q t0 st
  have hmem : (s.taskLeft q t0 st).mem = s.mem := hleft.same .mem (by decide)
  have hsyn : (s.abortReported q t0 st upstream).syn = (s.taskLeft q t0 st).syn := (abortReported_keep ..).same .syn (by decide)
  obtain ⟨hleftWait, hleftPend⟩ := taskLeft_syn s q t0 st
  have hdone : (s.fulAbort q st upstream).mem = (s.taskDropped q t0 st).mem := by
    rw [fulAbort_eq h hp, fulStateFault_unwritten hw, State.countsDone, produce_mem_idle (by rw [hsyn, hleftWait, hwait]; rfl)
      (by rw [hsyn, hleftPend, hpend])]
    exact (abortReported_keep ..).same .mem (by decide)
  obtain ⟨hload, hbytes⟩ := fulWriteBack_memory (hleft.inv hi) t0 st (some t0.abortIndex)
  exact ⟨(load_congr hdone ..).trans hload, fun b => by rw [hdone, ← hmem]; exact hbytes b⟩

end Sys2Proof.Machine
end

section
/-! Fulling tasks up to their run (R121 to R123, R131 to R133, R138 to R141, R149). -/
namespace Sys2Proof.Machine

variable {s t u : State} {q : Fin 4} {t0 : FulTask} {st : Status}

/-! ## Commands after which units go on -/

theorem Completes.of_settled {c : Instr} {P : State → Prop} (h : exec c s = settled (.next t)) (hq : s.quiet = true → t.quiet = true) (hP : P t) :
    Completes c s P := ⟨.of_settled h hP, fun hs => ⟨t, h.trans (settled_of_quiet (hq hs)), hP⟩⟩

theorem Completes.imp {c : Instr} {P Q : State → Prop} (h : Completes c s P) (hPQ : ∀ t, P t → Q t) : Completes c s Q :=
  ⟨h.1.imp fun t ⟨hexec, hq, hP⟩ => ⟨hexec, hq, hPQ t hP⟩, fun hs => (h.2 hs).imp fun t ⟨hexec, hP⟩ => ⟨hexec, hPQ t hP⟩⟩

/-- Whether anything follows depends neither on the Fulling unit nor on pairs, flags and waits. -/
theorem quiet_of_ful_syn (h : Only [.ful, .syn] s t) (hr : t.syn.results = s.syn.results) (hb : t.syn.bars = s.syn.bars) : t.quiet = s.quiet := by
  have hcut : t.cut = s.cut := h.same .cut (by decide)
  have hred : t.red = s.red := h.same .red (by decide)
  have hrst : t.rst = s.rst := h.same .rst (by decide)
  have hwarden : t.warden = s.warden := h.same .warden (by decide)
  have hpeat : t.peat = s.peat := h.same .peat (by decide)
  simp only [State.quiet, State.bar, hr, hb, hcut, hred, hrst, hwarden, hpeat]

theorem ful_syn_only (s : State) (u : Ful) (y : Syn) : Only [.ful, .syn] s { s with ful := u, syn := y } := fun p => by
  cases p <;> first | exact .inr rfl | exact .inl (by decide)

theorem putTask_changes (s : State) (q : Nat) (t : FulTask) : Changes [.ful] [] s (s.putTask q t) :=
  onFul_changes s fun u => { u with queues := vset u.queues q { s.fq q with task := some t } }

theorem putTask_quiet (s : State) (q : Nat) (t : FulTask) (h : s.quiet = true) : (s.putTask q t).quiet = true := h

theorem putTask_task (s : State) (q : Fin 4) (t : FulTask) : ((s.putTask q t).fq q).task = some t := by rw [State.putTask, putFq_fq_same]

theorem putTask_fq_other (s : State) (t : FulTask) {c d : Nat} (h : c ≠ d) : (s.putTask d t).fq c = s.fq c := putFq_fq_other s _ h

/-! ## Pairs -/

theorem putPair_pair_same (s : State) {n : Nat} (h : n < 512) (p : Pair) : (s.putPair n p).pair n = p := vget_vset_same _ _ _ h

theorem putPair_pair_other (s : State) {n m : Nat} (h : n ≠ m) (p : Pair) : (s.putPair n p).pair m = s.pair m := vget_vset_other _ _ _ h

/-- The only waiter of all: its wait ends where its condition holds. -/
theorem serve_one {w : Waiter} (hw : s.syn.waiters = [w]) (hp : s.syn.pends = []) : s.serve w.isPair w.obj =
    if s.waitHolds w then ((s.onSyn fun y => { y with waiters := [] }).waitConsume w).endWait w St.success else s := by
  have hpend : s.pendOnce w.isPair w.obj = none := by simp [State.pendOnce, hp]
  rw [State.serve, hw, hp]
  simp only [List.length_singleton, List.length_nil, State.serveN, State.serveOnce, hw, hpend, List.find?_cons, BEq.rfl, Bool.and_self]
  cases s.waitHolds w with
  | false => rfl
  | true => simp [State.onSyn, hw, removeFirst]

/-- The wait of a queue for one count of a pair (R141). -/
def countWait (k q : Nat) : Waiter := { isPair := true, obj := k, count := 1, consume := true, who := .fulling q }

/-- The wait of a queue where nobody else waits: it takes its count at once, or waits. -/
theorem wait_alone (hq : s.quiesced = false) (hw : s.syn.waiters = []) (hp : s.syn.pends = []) (k q : Nat) : s.wait (countWait k q) =
    if (s.pair k).c < (s.pair k).p then s.putPair k { s.pair k with c := (s.pair k).c + 1 }
    else s.onSyn fun y => { y with waiters := [countWait k q] } := by
  have hnone : (s.onSyn fun y => { y with waiters := [] }) = s := by rw [State.onSyn, ← hw]
  have hone : (s.onSyn fun y => { y with waiters := y.waiters ++ [countWait k q] }) = s.onSyn fun y => { y with waiters := [countWait k q] } := by
    simp only [State.onSyn, hw, List.nil_append]
  have hholds : (s.onSyn fun y => { y with waiters := [countWait k q] }).waitHolds (countWait k q) = decide ((s.pair k).c < (s.pair k).p) := by
    show decide (1 ≤ (s.pair k).p - (s.pair k).c) = _
    exact decide_eq_decide.2 (by omega)
  have htakes : (((s.onSyn fun y => { y with waiters := [countWait k q] }).onSyn fun y => { y with waiters := [] }).waitConsume
      (countWait k q)).endWait (countWait k q) St.success = s.putPair k { s.pair k with c := (s.pair k).c + 1 } := by
    show (s.onSyn fun y => { y with waiters := [] }).putPair k { s.pair k with c := (s.pair k).c + 1 } = _
    rw [hnone]
  rw [State.wait, hq, if_neg Bool.false_ne_true, State.waitNow, hone,
    serve_one (s := s.onSyn fun y => { y with waiters := [countWait k q] }) rfl hp, hholds, htakes]
  simp only [decide_eq_true_eq]

/-! ## The stages of a task -/

/-- Status of the failed vote of a GATE task's step (R133). -/
def State.gateFailed (s : State) (d : FulDesc) : Option Status :=
  if d.gate then (s.ful.gate.failed.find? (fun f => f.1 == d.step)).map (·.2) else none

/-- A task that runs: constants from its parameter block, K15 the clip scale if it clips. -/
def State.taskRunning (s : State) (t : FulTask) (skip : Bool) : FulTask :=
  let ks : List W32 := (List.range 16).map (fun i => BitVec.ofNat 32 (s.loadN (t.desc.param + 4 * i) 4))
  { t with stage := .run, consts := if t.desc.clip then ks.set 15 s.ful.gate.clipK else ks, clipApplied := t.desc.clip, skipPass := skip }

/-- A task whose wait has ended and whose step's vote has not failed. -/
def State.taskPast (s : State) (t : FulTask) : FulTask := if t.desc.gate then { t with stage := .waitGate } else s.taskRunning t false

theorem fulRun_eq (s : State) (q : Nat) (t : FulTask) : s.fulRun q t = s.putTask q (s.taskRunning t (t.desc.gate && s.ful.gate.skip)) := rfl

theorem fulPastWait_goes {q : Nat} (h : s.gateFailed t0.desc = none) : s.fulPastWait q t0 = s.putTask q (s.taskPast t0) := by
  unfold State.fulPastWait State.taskPast
  unfold State.gateFailed at h
  cases hg : t0.desc.gate with
  | false => simp [fulRun_eq, hg]
  | true =>
    have hfind : s.ful.gate.failed.find? (fun f => f.1 == t0.desc.step) = none := by simpa [hg] using h
    simp only [if_true, hfind]

theorem fulPastWait_fails {q : Nat} (h : s.gateFailed t0.desc = some st) : s.fulPastWait q t0 = s.fulAbort q st true := by
  unfold State.fulPastWait
  unfold State.gateFailed at h
  cases hg : t0.desc.gate with
  | false => simp [hg] at h
  | true =>
    obtain ⟨f, hfind, hst⟩ : ∃ f, s.ful.gate.failed.find? (fun f => f.1 == t0.desc.step) = some f ∧ f.2 = st := by simpa [hg] using h
    simp only [if_true, hfind, hst]

/-! ## Issue -/

/-- The address of the descriptor at the next SEQ, and the descriptor. -/
def State.nextAddr (s : State) (q : Fin 4) : Nat := s.fulDescAt q (s.fq q).nextSeq
def State.nextDesc (s : State) (q : Fin 4) : FulDesc := fulDesc (s.load (s.nextAddr q) 192)

/-- The task that the next descriptor gives with its program. -/
def State.nextTask (s : State) (q : Fin 4) (g : Program) : FulTask := { desc := s.nextDesc q, addr := s.nextAddr q, prog := g }

/-- The queue serves and has no task. -/
def State.queueServes (s : State) (q : Fin 4) : Bool :=
  s.hw && !s.halted && s.rdB Fld.fulCtrl.enable && s.rdB (Fld.fulQCfg.enable q) && !(s.fq q).aborted && (s.fq q).task.isNone &&
    !s.unitHolds (.fulling q)

/-- The next descriptor names a port of another queue, or is malformed for a program (R122, R138). -/
def State.wrongTask (s : State) (q : Fin 4) (g : Program) : Bool :=
  ((s.nextDesc q).direct && s.rd (Fld.fulPortCfg.queue (s.nextDesc q).port) != q.val) ||
    s.fulMalformed (s.load (s.nextAddr q) 192) (s.nextDesc q) g (s.fq q).nextSeq

/-- Pair of the queue's issues. -/
def State.issuePair (s : State) (q : Fin 4) : Nat := s.rd (Fld.fulQSync.issuePair q)

/-- A count of the issue pair is there for the queue, and nobody waits on a pair. -/
structure CountWaits (s : State) (k : Nat) : Prop where
  quiesced : s.quiesced = false
  count : (s.pair k).c < (s.pair k).p
  depth : (s.pair k).depth ≠ 0
  waiters : s.syn.waiters = []
  pends : s.syn.pends = []

/-- The queue has taken one count and its next descriptor (R122). -/
def State.taskTaken (s : State) (q : Fin 4) : State :=
  (s.putPair (s.issuePair q) { s.pair (s.issuePair q) with c := (s.pair (s.issuePair q)).c + 1 }).putFq q
    { s.fq q with nextSeq := (s.fq q).nextSeq + 1, task := some { desc := s.nextDesc q, addr := s.nextAddr q } }

theorem CountWaits.take {k : Nat} (h : CountWaits s k) : s.takeCount k = some (s.putPair k { s.pair k with c := (s.pair k).c + 1 }) := by
  have havail : (s.pair k).avail ≠ 0 := by
    have := h.count
    unfold Pair.avail
    omega
  rw [State.takeCount, serve_idle (s := s.putPair k _) h.waiters h.pends]
  simp [h.quiesced, h.depth, havail, h.waiters]

theorem not_queueServes (s : State) (q : Fin 4) : (!s.hw || s.halted || !s.rdB Fld.fulCtrl.enable || !s.rdB (Fld.fulQCfg.enable q) ||
    (s.fq q).aborted || (s.fq q).task.isSome || s.unitHolds (.fulling q)) = !s.queueServes q := by
  simp only [State.queueServes, Bool.not_and, Bool.not_not, Option.not_isNone]

theorem exec_issue_idle (h : s.queueServes q = false) : exec (.fullingTaskIssue q) s = settled (.next s) := by
  show settled (doFullingTaskIssue q s) = _
  rw [doFullingTaskIssue, not_queueServes, h, Bool.not_false, if_pos rfl]

/-- What the queue does with the descriptor that it has taken. -/
def State.taskIssued (s : State) (q : Fin 4) : State :=
  match s.fulProgram (s.nextDesc q) with
  | none => (s.taskTaken q).fulAbort q St.lengthLong
  | some g =>
    if s.wrongTask q g then (s.taskTaken q).fulAbort q St.lengthLong
    else if (s.nextDesc q).waitEn then
      ((s.taskTaken q).putTask q (s.nextTask q g)).wait (countWait (s.nextDesc q).waitPair q)
    else (s.taskTaken q).fulPastWait q (s.nextTask q g)

theorem exec_issue (h : s.queueServes q = true) (hk : CountWaits s (s.issuePair q)) :
    exec (.fullingTaskIssue q) s = settled (.next (s.taskIssued q)) := by
  have htake := hk.take
  rw [State.issuePair] at htake
  refine congrArg settled (?_ : doFullingTaskIssue q s = _)
  rw [doFullingTaskIssue, not_queueServes, h, Bool.not_true, if_neg Bool.false_ne_true]
  simp only [htake]
  show (match s.fulProgram (s.nextDesc q) with
    | none => Host.Outcome.next _
    | some g => if s.wrongTask q g then .next _ else if (s.nextDesc q).waitEn then .next _ else .next _ : Out) = _
  unfold State.taskIssued
  cases s.fulProgram (s.nextDesc q) with
  | none => rfl
  | some g =>
    dsimp only
    split_ifs <;> rfl

theorem issuePair_lt (s : State) (q : Fin 4) : s.issuePair q < 512 := bits_lt _ _ _

theorem taskTaken_inv (hi : s.Inv) (hk : CountWaits s (s.issuePair q)) : (s.taskTaken q).Inv :=
  (State.putFq_keep ..).inv ((State.takeCount_keep hk.take).inv hi)

theorem taskTaken_fq (s : State) (q : Fin 4) : (s.taskTaken q).fq q =
    { s.fq q with nextSeq := (s.fq q).nextSeq + 1, task := some { desc := s.nextDesc q, addr := s.nextAddr q } } := putFq_fq_same ..

theorem taskTaken_fq_other (s : State) (q : Fin 4) {c : Nat} (h : c ≠ q.val) : (s.taskTaken q).fq c = s.fq c := putFq_fq_other _ _ h

theorem taskTaken_pair_same (s : State) (q : Fin 4) : (s.taskTaken q).pair (s.issuePair q) =
    { s.pair (s.issuePair q) with c := (s.pair (s.issuePair q)).c + 1 } := putPair_pair_same s (issuePair_lt s q) _

theorem taskTaken_pair_other (s : State) (q : Fin 4) {n : Nat} (h : n ≠ s.issuePair q) : (s.taskTaken q).pair n = s.pair n :=
  putPair_pair_other s (Ne.symm h) _

theorem taskTaken_changes (s : State) (q : Fin 4) : Changes [.ful, .syn] [] s (s.taskTaken q) :=
  .of_only (ful_syn_only s (s.taskTaken q).ful (s.taskTaken q).syn) rfl

/-- A queue has taken its next descriptor with one count, and has a task; nothing else changed. -/
def Issued (q : Fin 4) (t1 : FulTask) (s t : State) : Prop :=
  (t.fq q).task = some t1 ∧ (t.fq q).nextSeq = (s.fq q).nextSeq + 1 ∧
    t.pair (s.issuePair q) = { s.pair (s.issuePair q) with c := (s.pair (s.issuePair q)).c + 1 } ∧
    (∀ c : Nat, c ≠ q.val → t.fq c = s.fq c) ∧ Changes [.ful, .syn] [] s t

theorem taskTaken_issued (s : State) (q : Fin 4) (t1 : FulTask) : Issued q t1 s ((s.taskTaken q).putTask q t1) := by
  refine ⟨putTask_task .., ?_, taskTaken_pair_same s q, fun c hc => ?_, ?_⟩
  · rw [State.putTask, putFq_fq_same, taskTaken_fq]
  · rw [putTask_fq_other _ _ hc, taskTaken_fq_other s q hc]
  · exact (putTask_changes ..).step (by decide) (by simp) (taskTaken_changes s q)

theorem Issued.changes {t1 : FulTask} (h : Issued q t1 s t) : Changes [.ful, .syn] [] s t := by
  obtain ⟨-, -, -, -, hchanges⟩ := h
  exact hchanges

/-- A change of waits and of other pairs leaves the issue as it is. -/
theorem Issued.after {t1 : FulTask} (h : Issued q t1 s u) (f : Syn → Syn)
    (hp : (u.onSyn f).pair (s.issuePair q) = u.pair (s.issuePair q)) : Issued q t1 s (u.onSyn f) := by
  obtain ⟨htask, hseq, hpair, hother, hchanges⟩ := h
  have hsyn : Changes [.ful, .syn] [] u (u.onSyn f) := .of_only (ful_syn_only u u.ful (f u.syn)) rfl
  exact ⟨htask, hseq, hp.trans hpair, hother, hsyn.step (by decide) (by simp) hchanges⟩

/-- What the queue does with a descriptor that it cannot run is an abort with LENGTH_LONG. -/
theorem taskIssued_wrong (h : ∀ g, s.fulProgram (s.nextDesc q) = some g → s.wrongTask q g = true) :
    s.taskIssued q = (s.taskTaken q).fulAbort q St.lengthLong := by
  unfold State.taskIssued
  cases hg : s.fulProgram (s.nextDesc q) with
  | none => rfl
  | some g => exact if_pos (h g hg)

theorem taskIssued_waits {g : Program} (hg : s.fulProgram (s.nextDesc q) = some g) (hw : s.wrongTask q g = false)
    (hen : (s.nextDesc q).waitEn = true) :
    s.taskIssued q = ((s.taskTaken q).putTask q (s.nextTask q g)).wait (countWait (s.nextDesc q).waitPair q) := by
  simp [State.taskIssued, hg, hw, hen]

theorem taskIssued_past {g : Program} (hg : s.fulProgram (s.nextDesc q) = some g) (hw : s.wrongTask q g = false)
    (hen : (s.nextDesc q).waitEn = false) : s.taskIssued q = (s.taskTaken q).fulPastWait q (s.nextTask q g) := by
  simp [State.taskIssued, hg, hw, hen]

/-- The abort of a descriptor that the queue cannot run (R122, R146). -/
theorem issue_aborts (hi : s.Inv) (hs : s.queueServes q = true) (hk : CountWaits s (s.issuePair q))
    (h : ∀ g, s.fulProgram (s.nextDesc q) = some g → s.wrongTask q g = true) : DoesThen (.fullingTaskIssue q) s fun t =>
      TaskGone q St.lengthLong s t ∧ (t.fq q).nextSeq = (s.fq q).nextSeq + 1 ∧ t.rd Fld.fulErrStatus.lenLong = 1 ∧
      t.load (s.nextAddr q + 152) 2 = leBytes 2 St.lengthLong.toNat ∧ BytesBut (s.nextAddr q + 152) 40 s t ∧
      Changes [.regs, .mem, .log, .red, .ful, .syn, .outbox] (Fld.ctlErrlog.head :: signalFields ++ fulAbortFields) s t := by
  have htask : ((s.taskTaken q).fq q).task = some { desc := s.nextDesc q, addr := s.nextAddr q } := by rw [taskTaken_fq]
  have hinv := taskTaken_inv hi hk
  have hgone : TaskGone q St.lengthLong s ((s.taskTaken q).fulAbort q St.lengthLong) :=
    fulAbort_gone htask rfl (by rw [taskTaken_fq]) (fun c hc => taskTaken_fq_other s q hc) _ _
  obtain ⟨hload, hbytes⟩ := fulAbort_memory hinv htask rfl rfl hk.waiters hk.pends St.lengthLong false
  refine .of_settled ((exec_issue hs hk).trans (congrArg _ (congrArg _ (taskIssued_wrong h))))
    ⟨hgone, ?_, fulAbort_lenLong hinv htask rfl, hload, hbytes, ?_⟩
  · rw [fulAbort_fq htask rfl, taskTaken_fq]
    rfl
  · exact (fulAbort_unwritten hinv htask rfl rfl _ _).step (by decide) (fun _ => id)
      ((taskTaken_changes s q).step (by decide) (by simp) (.refl _ _ s))

/-- A task without wait goes on at once. -/
theorem issue_goes (hs : s.queueServes q = true) (hk : CountWaits s (s.issuePair q)) {g : Program}
    (hg : s.fulProgram (s.nextDesc q) = some g) (hw : s.wrongTask q g = false) (hen : (s.nextDesc q).waitEn = false)
    (hf : s.gateFailed (s.nextDesc q) = none) :
    Completes (.fullingTaskIssue q) s (Issued q (s.taskPast (s.nextTask q g)) s) := by
  have hpast : s.taskIssued q = (s.taskTaken q).putTask q (s.taskPast (s.nextTask q g)) :=
    (taskIssued_past hg hw hen).trans (fulPastWait_goes hf)
  refine .of_settled ((exec_issue hs hk).trans (congrArg _ (congrArg _ hpast))) (fun hq => ?_) (taskTaken_issued ..)
  exact (quiet_of_ful_syn (taskTaken_issued s q _).changes.1 rfl rfl).trans hq

/-- A task without wait whose step's vote has failed aborts with the vote's status (R133). -/
theorem issue_fails (hs : s.queueServes q = true) (hk : CountWaits s (s.issuePair q)) {g : Program}
    (hg : s.fulProgram (s.nextDesc q) = some g) (hw : s.wrongTask q g = false) (hen : (s.nextDesc q).waitEn = false)
    (hf : s.gateFailed (s.nextDesc q) = some st) : DoesThen (.fullingTaskIssue q) s (TaskGone q st s) := by
  have habort : s.taskIssued q = (s.taskTaken q).fulAbort q st true := (taskIssued_past hg hw hen).trans (fulPastWait_fails hf)
  refine .of_settled ((exec_issue hs hk).trans (congrArg _ (congrArg _ habort))) ?_
  exact fulAbort_gone (by rw [taskTaken_fq]) rfl (by rw [taskTaken_fq]) (fun c hc => taskTaken_fq_other s q hc) _ _

/-- A task with a wait takes its count at once where it is there, and waits for it where it is not (R141). -/
theorem issue_waits (hi : s.Inv) (hs : s.queueServes q = true) (hk : CountWaits s (s.issuePair q)) {g : Program}
    (hg : s.fulProgram (s.nextDesc q) = some g) (hw : s.wrongTask q g = false) (hen : (s.nextDesc q).waitEn = true)
    (hne : (s.nextDesc q).waitPair ≠ s.issuePair q) : Completes (.fullingTaskIssue q) s fun t =>
      let k := (s.nextDesc q).waitPair
      let w := s.pair k
      Issued q (s.nextTask q g) s t ∧
      (if w.depth ≠ 0 ∧ w.c < w.p then t.syn.waiters = [] ∧ t.pair k = { w with c := w.c + 1 }
       else t.syn.waiters = [countWait k q] ∧ t.pair k = w) := by
  have hlt : (s.nextDesc q).waitPair < 512 := bits_lt _ _ _
  have hdepth : (s.pair (s.nextDesc q).waitPair).c < (s.pair (s.nextDesc q).waitPair).p → (s.pair (s.nextDesc q).waitPair).depth ≠ 0 := by
    have hok := hi.pairs _ hlt
    simp only [Pair.ok, Bool.and_eq_true, decide_eq_true_eq] at hok
    omega
  have hissued := taskTaken_issued s q (s.nextTask q g)
  have hpair : ((s.taskTaken q).putTask q (s.nextTask q g)).pair (s.nextDesc q).waitPair = s.pair (s.nextDesc q).waitPair :=
    taskTaken_pair_other s q hne
  have hexec := (exec_issue hs hk).trans (congrArg settled (congrArg Host.Outcome.next (taskIssued_waits hg hw hen)))
  rw [wait_alone (s := (s.taskTaken q).putTask q (s.nextTask q g)) hk.quiesced hk.waiters hk.pends, hpair] at hexec
  by_cases hc : (s.pair (s.nextDesc q).waitPair).c < (s.pair (s.nextDesc q).waitPair).p
  · rw [if_pos hc] at hexec
    have hafter := hissued.after _ (putPair_pair_other ((s.taskTaken q).putTask q (s.nextTask q g)) hne
      { s.pair (s.nextDesc q).waitPair with c := (s.pair (s.nextDesc q).waitPair).c + 1 })
    refine .of_settled hexec (fun hq => (quiet_of_ful_syn hafter.changes.1 rfl rfl).trans hq) ⟨hafter, ?_⟩
    rw [if_pos ⟨hdepth hc, hc⟩]
    exact ⟨hk.waiters, putPair_pair_same _ hlt _⟩
  · rw [if_neg hc] at hexec
    have hafter := hissued.after (fun y => { y with waiters := [countWait (s.nextDesc q).waitPair q] }) rfl
    refine .of_settled hexec (fun hq => (quiet_of_ful_syn hafter.changes.1 rfl rfl).trans hq) ⟨hafter, ?_⟩
    rw [if_neg fun h => hc h.2]
    exact ⟨rfl, hpair⟩

/-! ## After the wait, and at the gate -/

theorem exec_waitSatisfied (hhw : s.hw = true) (hhalt : s.halted = false) (htask : (s.fq q).task = some t0) (hstage : t0.stage = .waitPair)
    (hw : s.syn.waiters = []) (hh : s.syn.held = []) : exec (.fullingWaitSatisfied q) s = settled (.next (s.fulPastWait q t0)) := by
  refine congrArg settled (?_ : doFullingWaitSatisfied q s = _)
  simp [doFullingWaitSatisfied, htask, hstage, hw, hh, hhw, hhalt]

/-- A command that takes the task of one queue to another stage, and does nothing else. -/
theorem putTask_completes {c : Instr} {t1 : FulTask} (h : exec c s = settled (.next (s.putTask q t1))) : Completes c s fun t =>
    (t.fq q).task = some t1 ∧ (∀ c : Nat, c ≠ q.val → t.fq c = s.fq c) ∧ Changes [.ful] [] s t :=
  .of_settled h (putTask_quiet s q t1) ⟨putTask_task s q t1, fun _ hc => putTask_fq_other s t1 hc, putTask_changes s q t1⟩

theorem abort_doesThen {c : Instr} {upstream : Bool} (htask : (s.fq q).task = some t0) (hp : t0.posted = false)
    (h : exec c s = settled (.next (s.fulAbort q st upstream))) : DoesThen c s (TaskGone q st s) :=
  .of_settled h (fulAbort_gone htask hp rfl (fun _ _ => rfl) st upstream)

/-- An abort with the status of the task's bucket or barrier (R146). -/
theorem upstream_doesThen {c : Instr} (hi : s.Inv) (htask : (s.fq q).task = some t0) (hp : t0.posted = false)
    (h : exec c s = settled (.next (s.fulAbort q st true))) :
    DoesThen c s fun t => TaskGone q st s t ∧ t.rd Fld.fulErrStatus.upstream = 1 :=
  .of_settled h ⟨fulAbort_gone htask hp rfl (fun _ _ => rfl) st true, fulAbort_upstream hi htask hp⟩

theorem exec_gateProceed (hhw : s.hw = true) (hhalt : s.halted = false) (htask : (s.fq q).task = some t0) (hstage : t0.stage = .waitGate)
    (hopen : s.ful.gate.opened = true) : exec (.gateTaskProceed q) s = settled (.next (
      if s.ful.gate.step = t0.desc.step then s.fulRun q t0
      else if t0.desc.step.toNat < s.ful.gate.step.toNat then s.fulAbort q St.lengthLong else s)) := by
  refine congrArg settled (?_ : doGateTaskProceed q s = _)
  simp only [doGateTaskProceed, htask, hstage, hhw, hhalt, hopen]
  simp only [bne_self_eq_false, Bool.not_true, Bool.or_self, Bool.false_eq_true, if_false]
  split_ifs <;> rfl

/-! ## The piece of a stream port -/

/-- A task of the queue with the piece that it takes. -/
def State.taskBound (s : State) (t : FulTask) (h : Piece) : FulTask := { t with piece := some (h.ch, h.seq), arrival := some s.now }

/-- The head piece of a port goes to the task of the queue (R138). -/
def State.pieceBound (s : State) (port : Fin 8) (q : Fin 4) (t : FulTask) (h : Piece) (rest : List Piece) : State :=
  (s.putPort port { s.port port with pieces := { h with bound := true } :: rest }).putTask q (s.taskBound t h)

/-- The head piece of a port waits for the task of the port's queue, which names the port. -/
structure PieceWaits (s : State) (port : Fin 8) (q : Fin 4) (t : FulTask) (h : Piece) (rest : List Piece) : Prop where
  hw : s.hw = true
  running : s.halted = false
  queue : s.rd (Fld.fulPortCfg.queue port) = q.val
  task : (s.fq q).task = some t
  posted : t.posted = false
  direct : t.desc.direct = true
  names : t.desc.port = port.val
  unbound : t.piece = none
  head : (s.port port).pieces = h :: rest
  free : h.bound = false

variable {port : Fin 8} {h : Piece} {rest : List Piece}

theorem PieceWaits.exec_eq (p : PieceWaits s port q t0 h rest) : exec (.directPieceBind port) s = settled (.next (
    match h.dead with
    | some st => (s.pieceBound port q t0 h rest).fulAbort q st true
    | none => (s.pieceBound port q t0 h rest).portCheck q)) := by
  refine congrArg settled (?_ : doDirectPieceBind port s = _)
  unfold doDirectPieceBind
  simp only [p.queue, p.head, p.task]
  rw [if_neg (by simp [p.free, p.direct, p.names, p.unbound, p.posted, p.hw, p.running])]
  obtain ⟨ch, seq, first, len, bound, dead⟩ := h
  cases dead <;> rfl

theorem pieceBound_task (s : State) (port : Fin 8) (q : Fin 4) (t : FulTask) (h : Piece) (rest : List Piece) :
    ((s.pieceBound port q t h rest).fq q).task = some (s.taskBound t h) := putTask_task ..

theorem pieceBound_aborted (s : State) (port : Fin 8) (q : Fin 4) (t : FulTask) (h : Piece) (rest : List Piece) :
    ((s.pieceBound port q t h rest).fq q).aborted = (s.fq q).aborted := by
  rw [State.pieceBound, State.putTask, putFq_fq_same]
  rfl

theorem pieceBound_fq_other (s : State) (port : Fin 8) (q : Fin 4) (t : FulTask) (h : Piece) (rest : List Piece) {c : Nat} (hc : c ≠ q.val) :
    (s.pieceBound port q t h rest).fq c = s.fq c := putTask_fq_other _ _ hc

theorem pieceBound_port (s : State) (port : Fin 8) (q : Fin 4) (t : FulTask) (h : Piece) (rest : List Piece) :
    (s.pieceBound port q t h rest).port port = { s.port port with pieces := { h with bound := true } :: rest } := putPort_port_same s port _

theorem pieceBound_keep (s : State) (port : Fin 8) (q : Fin 4) (t : FulTask) (h : Piece) (rest : List Piece) :
    Keep ([.ful], 0) s (s.pieceBound port q t h rest) := (State.putTask_keep ..).step (by decide) ((State.putPort_keep ..).mono (by decide))

/-- A piece with no data beyond the task's E stays with the task (R140). -/
theorem PieceWaits.portCheck_fits (p : PieceWaits s port q t0 h rest) (hfit : (s.port port).buf.any (fun e => t0.desc.e ≤ e.1) = false) :
    (s.pieceBound port q t0 h rest).portCheck q = s.pieceBound port q t0 h rest := by
  have hport : ((s.pieceBound port q t0 h rest).port t0.desc.port).buf = (s.port port).buf := by rw [p.names, pieceBound_port]
  simp only [State.portCheck, pieceBound_task, State.taskBound]
  rw [hport, hfit, if_neg Bool.false_ne_true]

theorem PieceWaits.binds (p : PieceWaits s port q t0 h rest) (hdead : h.dead = none)
    (hfit : (s.port port).buf.any (fun e => t0.desc.e ≤ e.1) = false) : Completes (.directPieceBind port) s fun t =>
      (t.fq q).task = some (s.taskBound t0 h) ∧ (t.port port).pieces.head? = some { h with bound := true } ∧
      (∀ c : Nat, c ≠ q.val → t.fq c = s.fq c) ∧ Changes [.ful] [] s t := by
  have hexec := p.exec_eq
  rw [hdead] at hexec
  dsimp only at hexec
  rw [p.portCheck_fits hfit] at hexec
  refine .of_settled hexec (fun hq => hq) ⟨pieceBound_task .., ?_, fun c hc => pieceBound_fq_other _ _ _ _ _ _ hc,
    .of_only (pieceBound_keep ..).only rfl⟩
  rw [pieceBound_port]
  rfl

/-- The task that takes the piece of an aborted bucket aborts with the bucket's status (R140). -/
theorem PieceWaits.aborts (p : PieceWaits s port q t0 h rest) (hi : s.Inv) (hdead : h.dead = some st) :
    DoesThen (.directPieceBind port) s fun t => TaskGone q st s t ∧ t.rd Fld.fulErrStatus.upstream = 1 := by
  have hexec := p.exec_eq
  rw [hdead] at hexec
  have htask := pieceBound_task s port q t0 h rest
  exact .of_settled hexec ⟨fulAbort_gone htask p.posted (pieceBound_aborted ..) (fun c hc => pieceBound_fq_other _ _ _ _ _ _ hc) st true,
    fulAbort_upstream ((pieceBound_keep ..).inv hi) htask p.posted⟩

/-- Settles O36: each command by the stage that it takes the task to, or by the abort. That the status of a failed vote is kept until a task comes
to the gate is the model's choice (assumption 93). -/
theorem fullingTasks : Obligations.FullingTasks := by
  intro s q hi
  refine ⟨fun hs => .of_settled (exec_issue_idle hs) rfl, fun hs hquiesced hcount hdepth hwaiters hpends => ?_,
    fun hhw hhalt t0 htask hposted => ⟨fun hstage hwaiters hheld => ⟨fun hf => ?_, fun st hf => ?_⟩,
      fun hstage hopen hgate => ⟨fun hstep => ?_, fun hstep => ?_, fun hstep => ?_⟩,
      fun port hqueue hdirect hport hpiece h hhead hbound => ?_⟩⟩
  · have hk : CountWaits s (s.issuePair q) := ⟨hquiesced, hcount, hdepth, hwaiters, hpends⟩
    refine ⟨fun hwrong => issue_aborts hi hs hk hwrong, fun g hg hgood => ⟨fun hen hf => issue_goes hs hk hg hgood hen hf,
      fun hen st hf => issue_fails hs hk hg hgood hen hf, fun hen hne => (issue_waits hi hs hk hg hgood hen hne).imp ?_⟩⟩
    exact fun t ⟨⟨htask, hseq, hpair, hother, hchanges⟩, hwait⟩ => ⟨htask, hseq, hpair, hother, hchanges, hwait⟩
  · exact putTask_completes ((exec_waitSatisfied hhw hhalt htask hstage hwaiters hheld).trans
      (congrArg _ (congrArg _ (fulPastWait_goes hf))))
  · exact upstream_doesThen hi htask hposted ((exec_waitSatisfied hhw hhalt htask hstage hwaiters hheld).trans
      (congrArg _ (congrArg _ (fulPastWait_fails hf))))
  · have hexec := exec_gateProceed hhw hhalt htask hstage hopen
    rw [if_pos hstep, fulRun_eq, hgate, Bool.true_and] at hexec
    exact putTask_completes hexec
  · have hexec := exec_gateProceed hhw hhalt htask hstage hopen
    rw [if_neg fun h => absurd hstep (by rw [h]; omega), if_pos hstep] at hexec
    exact abort_doesThen htask hposted hexec
  · have hexec := exec_gateProceed hhw hhalt htask hstage hopen
    rw [if_neg fun h => absurd hstep (by rw [h]; omega), if_neg (by omega)] at hexec
    exact .of_settled hexec rfl
  · obtain ⟨rest, hpieces⟩ : ∃ rest, (s.port port).pieces = h :: rest := by
      cases hp : (s.port port).pieces with
      | nil => simp [hp] at hhead
      | cons y rest => exact ⟨rest, by simpa [hp] using hhead⟩
    have p : PieceWaits s port q t0 h rest := ⟨hhw, hhalt, hqueue, htask, hposted, hdirect, hport, hpiece, hpieces, hbound⟩
    exact ⟨fun hdead hfit => p.binds hdead hfit, fun st hdead => p.aborts hi hdead⟩

end Sys2Proof.Machine
end

section
/-! Felting (R168): why the statement fails of a state whose map of scan contexts lists one context twice. -/
namespace Sys2Proof.Machine

/-- Lane 0 reads region 0 of a cut through scan context 0, and the context map lists that context twice: for the cut, and behind it for the
register interface. `State.Inv` keeps the maps of registers and memories rising, and says nothing of this one. -/
def State.scanTwice : State :=
  let s := State.reset.onBoot (fun b => { b with phase := .running })
  (s.onCut (fun u => { u with cuts := [{ st := .felting, runs := [{ region := 0, lane := 0, scan := 0 }] }] })).onChk (fun k =>
    { k with lanes := vset k.lanes 0 (some (.felt 0 0)), ctxs := [(0, .felt 0 0), (0, .software)] })

/-- The cut whose region the lane reads. -/
def State.feltingCut (s : State) : Cut := (s.cut.cuts.head?).getD {}

theorem scanTwice_inv : State.scanTwice.Inv := State.inv_plain rfl (by decide +kernel)

theorem scanTwice_reads : State.scanTwice.hw = true ∧ vget State.scanTwice.chk.lanes ((0 : Fin 32) : Nat) none = some (.felt 0 0) ∧
    State.scanTwice.findCut 0 = some State.scanTwice.feltingCut ∧
    State.scanTwice.feltingCut.runs.find? (fun r => r.lane == ((0 : Fin 32) : Nat)) = some { region := 0, lane := 0, scan := 0 } := by
  decide +kernel

/-- The directory is empty, so that the region has no bytes to send. -/
theorem scanTwice_sends_nothing (p : Bool) : (if p then ((State.scanTwice.cut.dir.getD 0 {}).used / 4 * 4) else 0) ≥
    (State.scanTwice.cut.dir.getD 0 {}).len := by
  cases p <;> decide +kernel

/-- The end of the read takes the cut's entry away, and context 0 then reads as that of the register interface. -/
theorem scanTwice_completes : (match exec (.feltRegionComplete 0) State.scanTwice with
    | .next t => (kget t.chk.ctxs 0).isSome
    | _ => false) = true := by decide +kernel

/-- Refutes O40: after FELT_REGION_COMPLETE the scan context of the read is not free where the context map, which the invariant does not keep
canonical, lists that context a second time. -/
theorem not_felting : ¬ Obligations.Felting := by
  intro h
  obtain ⟨hhw, hlane, hcut, hrun⟩ := scanTwice_reads
  obtain ⟨-, hregion, -⟩ := h State.scanTwice scanTwice_inv hhw
  obtain ⟨t, ht, -, -, -, -, hfree, -⟩ := (hregion 0).2 0 0 hlane _ hcut _ hrun (.inl (scanTwice_sends_nothing _))
  have hheld := scanTwice_completes
  rw [ht] at hheld
  simp [hfree] at hheld

end Sys2Proof.Machine
end


section
/-! The list of cuts: a record replaced, the arrivals at the barriers and the write-backs, and the end of a cut (R157, R174, R175, R178, R203). -/
namespace Sys2Proof.Machine

variable {s t u : State} {c d : Cut} {seq : W32} {st : CutState} {status : Status} {veto : Bool} {Q : Cut → Prop}

/-! ## Records of cuts -/

/-- Every cut of the unit has a property. -/
def State.EachCut (s : State) (Q : Cut → Prop) : Prop := ∀ d ∈ s.cut.cuts, Q d

/-- The SEQs of the cuts, newest first. -/
def State.seqs (s : State) : List W32 := s.cut.cuts.map (·.seq)

theorem State.EachCut.congr (h : s.EachCut Q) (hc : t.cut.cuts = s.cut.cuts) : t.EachCut Q := fun d hd => h d (hc ▸ hd)

theorem seqs_congr (h : t.cut.cuts = s.cut.cuts) : t.seqs = s.seqs := by rw [State.seqs, h, State.seqs]

theorem findCut_congr (h : t.cut.cuts = s.cut.cuts) (seq : W32) : t.findCut seq = s.findCut seq := congrArg (List.find? _) h

theorem findCut_mem (h : s.findCut seq = some c) : c ∈ s.cut.cuts ∧ c.seq = seq :=
  ⟨List.mem_of_find?_eq_some h, by simpa using List.find?_some h⟩

theorem findCut_seqs (h : s.findCut seq = some c) : seq ∈ s.seqs :=
  List.mem_map.2 ⟨c, findCut_mem h⟩

/-- A cut of a SEQ is found, and it has what every cut of that SEQ has. -/
theorem findCut_of_each (hs : seq ∈ s.seqs) (h : s.EachCut fun d => d.seq = seq → Q d) : ∃ d, s.findCut seq = some d ∧ Q d := by
  obtain ⟨d, hd, hseq⟩ := List.mem_map.1 hs
  obtain ⟨e, he⟩ : ∃ e, s.findCut seq = some e := by
    refine Option.isSome_iff_exists.1 (List.find?_isSome.2 ⟨d, hd, ?_⟩)
    simpa using hseq
  exact ⟨e, he, h e (findCut_mem he).1 (findCut_mem he).2⟩

theorem findCut_map_of_each {α : Type} {f : Cut → α} {x : α} (hs : seq ∈ s.seqs) (h : s.EachCut fun d => d.seq = seq → f d = x) :
    (s.findCut seq).map f = some x := by
  obtain ⟨d, hd, hx⟩ := findCut_of_each hs h
  rw [hd, Option.map_some, hx]

theorem putCut_seqs (s : State) (c : Cut) : (s.putCut c).seqs = s.seqs := by
  show (s.cut.cuts.map _).map _ = s.cut.cuts.map _
  rw [List.map_map]
  refine List.map_congr_left fun d _ => ?_
  by_cases h : d.seq = c.seq <;> simp [h]

theorem State.EachCut.putCut (h : s.EachCut Q) (hc : Q c) : (s.putCut c).EachCut Q := fun d hd => by
  obtain ⟨e, he, rfl⟩ := List.mem_map.1 hd
  split
  · exact hc
  · exact h e he

/-- The record put in is that of every cut of its SEQ. -/
theorem putCut_each (s : State) (c : Cut) : (s.putCut c).EachCut fun d => d.seq = c.seq → d = c := fun d hd hseq => by
  obtain ⟨e, he, rfl⟩ := List.mem_map.1 hd
  split at hseq
  · next h => simp [h]
  · next h => exact absurd (by simpa using hseq) h

theorem putCut_findCut (h : c.seq ∈ s.seqs) : (s.putCut c).findCut c.seq = some c := by
  obtain ⟨d, hd, rfl⟩ := findCut_of_each (putCut_seqs s c ▸ h) (putCut_each s c)
  exact hd

theorem putCut_unit (s : State) (c : Cut) : (s.putCut c).cut = { s.cut with cuts := (s.putCut c).cut.cuts } := rfl

theorem onCut_changes (s : State) (f : CutUnit → CutUnit) : Changes [.cut] [] s (s.onCut f) := .of_only (State.onCut_keep s f).only rfl

theorem putCut_changes (s : State) (c : Cut) : Changes [.cut] [] s (s.putCut c) := onCut_changes s _

/-! ## Halves -/

theorem half_congr (ha : t.cut.halfA = s.cut.halfA) (hb : t.cut.halfB = s.cut.halfB) (h : Bool) : t.half h = s.half h := by
  rw [State.half, ha, hb, State.half]

theorem putHalf_half_same (s : State) (h : Bool) (x : Half) : (s.putHalf h x).half h = x := by cases h <;> rfl

theorem putHalf_half_other (s : State) (h : Bool) (x : Half) : (s.putHalf h x).half (!h) = s.half (!h) := by cases h <;> rfl

theorem putHalf_cuts (s : State) (h : Bool) (x : Half) : (s.putHalf h x).cut.cuts = s.cut.cuts := by cases h <;> rfl

/-! ## Arrivals and write-backs -/

/-- A property of cuts that neither their arrivals at the barriers nor their write-back ends. -/
structure Cut.Lasts (Q : Cut → Prop) : Prop where
  commit : ∀ d, Q d → Q { d with arrive := none, arrived := true }
  due : ∀ d v, Q d → Q { d with peatDue := some v }
  peat : ∀ d, Q d → Q { d with peatDue := none, peatArrived := true }
  done : ∀ d, Q d → Q { d with doneOut := true }

/-- What arrivals and write-backs may change of the state: signals, the bytes that these write, and the cuts. -/
abbrev flushTouch : Touch := ([.regs, .mem, .cut, .syn, .outbox], 0x1d3e10000000000000000000000000000000000)

/-- Between two states cuts have arrived at barriers or have been written back. -/
structure Flushed (s t : State) : Prop where
  keep : Keep flushTouch s t
  unit : t.cut = { s.cut with cuts := t.cut.cuts }
  seqs : t.seqs = s.seqs
  each : ∀ Q : Cut → Prop, Cut.Lasts Q → s.EachCut Q → t.EachCut Q

theorem Flushed.refl (s : State) : Flushed s s := ⟨.refl _ s, rfl, rfl, fun _ _ => id⟩

theorem Flushed.trans (h1 : Flushed s t) (h2 : Flushed t u) : Flushed s u :=
  ⟨h2.keep.step (sub_self _) h1.keep, by rw [h2.unit, h1.unit], h2.seqs.trans h1.seqs, fun Q hQ h => h2.each Q hQ (h1.each Q hQ h)⟩

theorem Flushed.of_keep {k : Touch} (h : Keep k s t) (hk : sub k flushTouch = true) (hc : Component.cut ∉ k.1) : Flushed s t := by
  have hcut : t.cut = s.cut := h.same .cut hc
  exact ⟨h.mono hk, by rw [hcut], seqs_congr (by rw [hcut]), fun Q _ hQ => hQ.congr (by rw [hcut])⟩

theorem Flushed.ite {p : Prop} [Decidable p] (h1 : Flushed s t) (h2 : Flushed s u) : Flushed s (if p then t else u) := by
  split
  · exact h1
  · exact h2

theorem flushed_putCut (hc : ∀ Q, Cut.Lasts Q → s.EachCut Q → Q c) : Flushed s (s.putCut c) :=
  ⟨(State.putCut_keep s c).mono (by decide), putCut_unit s c, putCut_seqs s c, fun Q hQ h => h.putCut (hc Q hQ h)⟩

theorem mem_of_find_reverse {p : Cut → Bool} {l : List Cut} (h : l.reverse.find? p = some c) : c ∈ l :=
  List.mem_reverse.1 (List.mem_of_find?_eq_some h)

theorem barArrive_flushed (s : State) (b : Nat) (fn : BarFn) (x y : W64) : Flushed s (s.barArrive b fn x y) :=
  .of_keep (barArrive_keep_signals s b fn x y) (by decide) (by decide)

theorem commitFlushN_flushed (n : Nat) (s : State) : Flushed s (s.commitFlushN n) := by
  induction n generalizing s with
  | zero => exact .refl s
  | succ n ih =>
    unfold State.commitFlushN
    split
    · next c hc =>
      split
      · exact ((flushed_putCut fun Q hQ h => hQ.commit c (h c (mem_of_find_reverse hc))).trans (barArrive_flushed ..)).trans (ih _)
      · exact .refl s
    · exact .refl s

theorem peatFlushN_flushed (n : Nat) (s : State) : Flushed s (s.peatFlushN n) := by
  induction n generalizing s with
  | zero => exact .refl s
  | succ n ih =>
    unfold State.peatFlushN
    split
    · next c hc =>
      split
      · exact ((flushed_putCut fun Q hQ h => hQ.peat c (h c (mem_of_find_reverse hc))).trans (barArrive_flushed ..)).trans (ih _)
      · exact .refl s
    · exact .refl s

theorem doneFlushN_flushed (n : Nat) (s : State) : Flushed s (s.doneFlushN n) := by
  induction n generalizing s with
  | zero => exact .refl s
  | succ n ih =>
    unfold State.doneFlushN
    split
    · next c hc =>
      extract_lets s1
      refine .ite (.trans ?_ (ih _)) (.refl s)
      have hput (u : State) (hu : u.cut = s.cut) : Flushed u (u.putCut { c with doneOut := true }) :=
        flushed_putCut fun Q hQ h => hQ.done c (h c (hu ▸ mem_of_find_reverse hc))
      exact (Flushed.of_keep (State.store'_keep s _ _) (by decide) (by decide)).trans
        ((hput s1 rfl).trans (.of_keep (State.produce_keep ..) (by decide) (by decide)))
    · exact .refl s

theorem cutFlush_flushed (s : State) : Flushed s s.cutFlush := (commitFlushN_flushed _ s).trans (doneFlushN_flushed ..)

theorem peatArrive_flushed (s : State) (seq : W32) (veto : Bool) : Flushed s (s.peatArrive seq veto) := by
  unfold State.peatArrive
  split
  · next c hc =>
    exact .ite (.refl s) ((flushed_putCut fun Q hQ h => hQ.due c veto (h c (findCut_mem hc).1)).trans (peatFlushN_flushed ..))
  · exact .refl s

/-! ## The end of a cut without a commit (R175, R178) -/

/-- The half of a cut that ends so stays PINNED for its Peat drain. -/
def Cut.pins (c : Cut) (st : CutState) : Bool := st == .sedgeIncomplete && c.peat && c.half.isSome && c.st != .opened

/-- The counter of cuts that end so. -/
def CutState.counter (st : CutState) : Fld := if st == .skipped then Fld.tierCutCounts.skipped else Fld.tierCutCounts.abandoned

/-- Felting stops, and the end is reported and counted. -/
def State.endReported (s : State) (c : Cut) (st : CutState) (status : Status) : State :=
  let s := (((s.feltStop c).onCut (fun u => { u with lastStatus := status })).cutErr st).cutEndCount st
  if status = St.feltDeadline then s.raise Fld.tierCutErrStatus.feltDeadline else s

/-- What becomes of the cut's half. -/
def State.halfLeft (s : State) (c : Cut) (st : CutState) : State :=
  match c.half with
  | some h => if c.pins st then s.pinHalf h else if st == .suspect then s else s.putHalf h .empty
  | none => s

/-- What becomes of the cut's set and its Shard Map entries. -/
def State.setLeft (s : State) (c : Cut) (st : CutState) : State :=
  if st == .suspect then
    (s.mapMove (fun e : MapEntry => mapSedge c.step c.gen e && e.st == .written) .suspect).mapDrop
      (fun e : MapEntry => mapSedge c.step c.gen e && e.st == .filling)
  else (if c.accepted then s.sendRelease c else s).mapDrop (mapSedge c.step c.gen)

/-- The record of the cut that has ended, its arrival at the commit barrier due. -/
def Cut.ended (c : Cut) (st : CutState) (status : Status) (veto : Bool) : Cut :=
  { c with
    st := st, status := status, runs := [], out := [], accepted := c.accepted && st == .suspect, pinned := c.pinned || c.pins st,
    arrive := if c.arrived then c.arrive else some veto }

/-- The end of a cut but for its arrivals and write-back. -/
def State.cutEnds (s : State) (c : Cut) (st : CutState) (status : Status) (veto : Bool) : State :=
  (((s.endReported c st status).halfLeft c st).setLeft c st).putCut (c.ended st status veto)

theorem cutFinal_eq (h : s.findCut seq = some c) (hf : c.st.isFinal = false) : s.cutFinal seq st status veto =
    (if c.peat && !c.pins st && c.drainStatus.isNone then (s.cutEnds c st status veto).peatArrive seq true
      else s.cutEnds c st status veto).cutFlush := by
  simp only [State.cutFinal, h, hf]
  rfl

/-- A cut that is not there, or has ended, does not end again. -/
theorem cutFinal_none (h : ∀ c, s.findCut seq = some c → c.st.isFinal = true) : s.cutFinal seq st status veto = s := by
  unfold State.cutFinal
  split
  · rfl
  · next c hc => rw [if_pos (h c hc)]

theorem cutFinal_flushed (h : s.findCut seq = some c) (hf : c.st.isFinal = false) :
    Flushed (s.cutEnds c st status veto) (s.cutFinal seq st status veto) := by
  rw [cutFinal_eq h hf]
  exact .trans (.ite (peatArrive_flushed ..) (.refl _)) (cutFlush_flushed _)

/-! ### Its parts -/

theorem feltStop_unit (s : State) (c : Cut) : (s.feltStop c).cut = (s.putCut { c with runs := [], out := [], refelt := false }).cut := by
  have h (u : State) (hu : u.cut = s.cut) (l : List Nat) : ((u.releaseTags l).putCut { c with runs := [], out := [], refelt := false }).cut =
      (s.putCut { c with runs := [], out := [], refelt := false }).cut := by
    have hcut : (u.releaseTags l).cut = s.cut := ((State.releaseTags_keep u l).same .cut (by decide)).trans hu
    rw [State.putCut, State.onCut_cut, hcut]
    rfl
  exact h _ (by split <;> rfl) _

theorem endReported_unit (s : State) (c : Cut) (st : CutState) (status : Status) :
    (s.endReported c st status).cut = { (s.feltStop c).cut with lastStatus := status } := by
  have h (u : State) : (if status = St.feltDeadline then u.raise Fld.tierCutErrStatus.feltDeadline else u).cut = u.cut := by split <;> rfl
  refine (h _).trans (((State.cutEndCount_keep ..).same .cut (by decide)).trans ((State.cutErr_keep ..).same .cut (by decide)))

theorem halfLeft_cuts (s : State) (c : Cut) (st : CutState) : (s.halfLeft c st).cut = { s.cut with
    halfA := (s.halfLeft c st).cut.halfA, halfB := (s.halfLeft c st).cut.halfB } := by
  unfold State.halfLeft
  split
  · next h _ => cases h <;> split_ifs <;> rfl
  · rfl

theorem setLeft_unit (s : State) (c : Cut) (st : CutState) : (s.setLeft c st).cut = s.cut := by
  unfold State.setLeft
  split
  · rfl
  · show (if c.accepted then s.sendRelease c else s).cut = s.cut
    split
    · exact (State.sendRelease_keep s c).same .cut (by decide)
    · rfl

theorem cutEnds_each (h : s.EachCut Q) (hstop : Q { c with runs := [], out := [], refelt := false }) (hend : Q (c.ended st status veto)) :
    (s.cutEnds c st status veto).EachCut Q := by
  refine State.EachCut.putCut (State.EachCut.congr (State.EachCut.putCut h hstop) ?_) hend
  rw [setLeft_unit, halfLeft_cuts, endReported_unit, feltStop_unit]

theorem cutEnds_seqs (s : State) (c : Cut) (st : CutState) (status : Status) (veto : Bool) : (s.cutEnds c st status veto).seqs = s.seqs := by
  refine (putCut_seqs ..).trans ((seqs_congr ?_).trans (putCut_seqs s { c with runs := [], out := [], refelt := false }))
  rw [setLeft_unit, halfLeft_cuts, endReported_unit, feltStop_unit]

theorem cutEnds_lastStatus (s : State) (c : Cut) (st : CutState) (status : Status) (veto : Bool) :
    (s.cutEnds c st status veto).cut.lastStatus = status := by
  rw [State.cutEnds, putCut_unit, setLeft_unit, halfLeft_cuts, endReported_unit]

theorem cutEnds_half {h : Bool} (hc : c.half = some h) (hst : st ≠ .suspect) (hp : c.pins st = false) :
    (s.cutEnds c st status veto).half h = .empty := by
  have hleft (u : State) : u.halfLeft c st = u.putHalf h .empty := by simp [State.halfLeft, hc, hp, hst]
  have hset : ((((s.endReported c st status).putHalf h .empty).setLeft c st)).half h = .empty := by
    rw [State.half, setLeft_unit]
    exact putHalf_half_same ..
  rw [State.cutEnds, hleft]
  exact hset

theorem cutEnds_map (hst : st ≠ .suspect) : (s.cutEnds c st status veto).map.any (fun e => mapSedge c.step c.gen e.2) = false := by
  rw [State.cutEnds, State.setLeft, if_neg (by simpa using hst), List.any_eq_false]
  intro e he hm
  have := (List.mem_filter.1 he).2
  simp [hm] at this

theorem cutEndCount_eq (s : State) (st : CutState) : s.cutEndCount st = s.bump st.counter := by
  unfold State.cutEndCount CutState.counter
  split <;> rfl

theorem counter_fits (st : CutState) : st.counter.lo + st.counter.len ≤ 64 := by
  unfold CutState.counter
  split <;> decide

theorem counter_apart {m : Nat} (h1 : apart m Fld.tierCutCounts.skipped = true) (h2 : apart m Fld.tierCutCounts.abandoned = true) (st : CutState) :
    apart m st.counter = true := by
  unfold CutState.counter
  split
  · exact h1
  · exact h2

theorem endReported_keep (s : State) (c : Cut) (st : CutState) (status : Status) :
    Keep ([.regs, .red, .cut, .map, .chk], 0x7a50000000000000000000000000000000000000000) s (s.endReported c st status) := by
  have h : Keep ([.regs, .red, .cut, .map, .chk], 0x7a50000000000000000000000000000000000000000) s
      ((((s.feltStop c).onCut (fun u => { u with lastStatus := status })).cutErr st).cutEndCount st) :=
    (State.cutEndCount_keep ..).step (by decide) ((State.cutErr_keep ..).step (by decide)
      ((State.onCut_keep ..).step (by decide) ((State.feltStop_keep s c).mono (by decide))))
  exact .ite ((State.raise_keep has_Fld_tierCutErrStatus_feltDeadline _).step (by decide) h) h

theorem endReported_counts (hi : s.Inv) (c : Cut) (st : CutState) (status : Status) :
    (s.endReported c st status).rd st.counter = min (s.rd st.counter + 1) (2 ^ st.counter.len - 1) := by
  have hstop : Keep ([.regs, .red, .cut, .map, .chk], 0x7200000000000000000000000000000000000000000) s
      (((s.feltStop c).onCut (fun u => { u with lastStatus := status })).cutErr st) :=
    (State.cutErr_keep ..).step (by decide) ((State.onCut_keep ..).step (by decide) ((State.feltStop_keep s c).mono (by decide)))
  have hbump : ((((s.feltStop c).onCut (fun u => { u with lastStatus := status })).cutErr st).cutEndCount st).rd st.counter =
      min (s.rd st.counter + 1) (2 ^ st.counter.len - 1) := by
    rw [cutEndCount_eq, bump_rd (hstop.inv hi) 1 (counter_fits st), hstop.rd hi (counter_apart (by decide +kernel) (by decide +kernel) st)]
  unfold State.endReported
  dsimp only
  split
  · refine Eq.trans ?_ hbump
    exact (State.raise_keep has_Fld_tierCutErrStatus_feltDeadline _).rd ((State.cutEndCount_keep ..).inv (hstop.inv hi))
      (counter_apart (by decide +kernel) (by decide +kernel) st)
  · exact hbump

/-- After the report of the end only what hangs on the cut is released: no register field changes. -/
theorem cutEnds_keep (s : State) (c : Cut) (st : CutState) (status : Status) (veto : Bool) :
    Keep ([.board, .regs, .cut, .map, .outbox], 0) (s.endReported c st status) (s.cutEnds c st status veto) := by
  have hhalf : Keep ([.board, .regs, .cut, .map, .outbox], 0) (s.endReported c st status) ((s.endReported c st status).halfLeft c st) := by
    unfold State.halfLeft
    split
    · exact .ite ((State.pinHalf_keep ..).mono (by decide)) (.ite (.refl _ _) ((State.putHalf_keep ..).mono (by decide)))
    · exact .refl _ _
  have hset : Keep ([.board, .regs, .cut, .map, .outbox], 0) (s.endReported c st status)
      (((s.endReported c st status).halfLeft c st).setLeft c st) :=
    .ite ((State.mapDrop_keep ..).step (by decide) ((State.mapMove_keep ..).step (by decide) hhalf))
      ((State.mapDrop_keep ..).step (by decide) (.ite ((State.sendRelease_keep ..).step (by decide) hhalf) hhalf))
  exact (State.putCut_keep ..).step (by decide) hset

theorem cutEnds_inv (hi : s.Inv) (c : Cut) (st : CutState) (status : Status) (veto : Bool) : (s.cutEnds c st status veto).Inv :=
  (cutEnds_keep ..).inv ((endReported_keep ..).inv hi)

theorem cutEnds_counts (hi : s.Inv) (c : Cut) (st : CutState) (status : Status) (veto : Bool) :
    (s.cutEnds c st status veto).rd st.counter = min (s.rd st.counter + 1) (2 ^ st.counter.len - 1) :=
  ((cutEnds_keep ..).rd ((endReported_keep ..).inv hi) (counter_apart (by decide +kernel) (by decide +kernel) st)).trans
    (endReported_counts hi c st status)

/-! ### The whole -/

theorem cutFinal_ended (hi : s.Inv) (h : s.findCut seq = some c) (hf : c.st.isFinal = false) :
    CutEnded s c st status (s.cutFinal seq st status veto) := by
  obtain ⟨hmem, rfl⟩ := findCut_mem h
  have hfl : Flushed (s.cutEnds c st status veto) (s.cutFinal c.seq st status veto) := cutFinal_flushed h hf
  have hseq : c.seq ∈ (s.cutFinal c.seq st status veto).seqs := by
    rw [hfl.seqs, cutEnds_seqs]
    exact findCut_seqs h
  refine ⟨findCut_map_of_each hseq (hfl.each _ ⟨fun _ => id, fun _ _ => id, fun _ => id, fun _ => id⟩ fun d hd hs => ?_), ?_,
    (hfl.keep.rd (cutEnds_inv hi ..) (counter_apart (by decide +kernel) (by decide +kernel) st)).trans (cutEnds_counts hi ..),
    fun h' hh hst hp => ?_, fun hst => ?_⟩
  · rw [putCut_each _ _ d hd hs]
    rfl
  · rw [hfl.unit]
    exact cutEnds_lastStatus s c st status veto
  · have hpins : c.pins st = false := by
      rcases hp with hp | hp <;> simp [Cut.pins, hp]
    rw [State.half, hfl.unit]
    exact cutEnds_half (veto := veto) hh hst hpins
  · rw [show (s.cutFinal c.seq st status veto).map = (s.cutEnds c st status veto).map from hfl.keep.same .map (by decide)]
    exact cutEnds_map hst

theorem cutFinal_fields (hi : s.Inv) (seq : W32) (st : CutState) (status : Status) (veto : Bool) :
    FieldsBut (signalFields ++ cutEndFields) s (s.cutFinal seq st status veto) :=
  .of_bits ((cutFinal_keep_apart s seq st status veto).bits hi) (by decide +kernel)

/-- A cut ends from a state in which its record stood with changes that the end does not look at. -/
theorem CutEnded.of_fields {fs : List Fld} {x : Status} (h : CutEnded u c st x t) (hf : FieldsBut fs s u)
    (hs : fs.all (fun f => f.off != Reg.tierCutCounts) = true) : CutEnded s c st x t := by
  obtain ⟨hrec, hlast, hcount, hhalf, hmap⟩ := h
  refine ⟨hrec, hlast, ?_, hhalf, hmap⟩
  have hrd : u.rd st.counter = s.rd st.counter := by
    refine hf.rd (List.all_eq_true.2 fun f hm => ?_)
    have hoff : st.counter.off = Reg.tierCutCounts := by
      unfold CutState.counter
      split <;> rfl
    simp [hoff, List.all_eq_true.1 hs f hm]
  have hcount' : t.rd st.counter = min (u.rd st.counter + 1) (2 ^ st.counter.len - 1) := hcount
  rw [hrd] at hcount'
  exact hcount'

end Sys2Proof.Machine
end

section
/-! The partner's sets (R159, R160, R172, R185 to R188, R212, R213): the answer to a cut notice, its reply at the owner, Felt data and releases. -/
namespace Sys2Proof.Machine

variable {s t u : State} {c : Cut} {n : Fin 42} {f : Frame} {k slot h : Nat} {x : SedgeSet}

/-! ## Frames sent -/

theorem sendTo_outbox_congr (hs : t.slices = s.slices) (ho : t.outbox = s.outbox) (hr : t.rd Fld.tierIdent.rack = s.rd Fld.tierIdent.rack)
    (hp : t.rd Fld.tierIdent.position = s.rd Fld.tierIdent.position) (rack : BitVec 10) (pos : BitVec 7) (ty : BitVec 8) (f : Frame) :
    (t.sendTo rack pos ty f).outbox = (s.sendTo rack pos ty f).outbox :=
  send_outbox_congr hs ho (congrArg (BitVec.ofNat 10) hr) (congrArg (BitVec.ofNat 7) hp) ..

/-! ## Sets -/

theorem putSet_set_same (s : State) (hk : k < 8) (x : SedgeSet) : (s.putSet k x).set k = x := vget_vset_same _ _ _ hk

theorem putSet_set_other (s : State) {m : Nat} (hm : k ≠ m) (x : SedgeSet) : (s.putSet k x).set m = s.set m := vget_vset_other _ _ _ hm

theorem set_congr (ht : t.sedge = s.sedge) (m : Nat) : t.set m = s.set m := by rw [State.set, ht, State.set]

theorem slotOf_some {rack : BitVec 10} {pos : BitVec 7} (hs : s.slotOf rack pos = some slot) : slot < 4 ∧ s.ownerOf slot = (rack, pos) := by
  refine ⟨List.mem_range.1 (List.mem_of_find?_eq_some hs), ?_⟩
  have := List.find?_some hs
  simp only [Bool.and_eq_true, beq_iff_eq] at this
  exact this.2

/-- A set that a frame names is one of the eight, and not free. -/
theorem namedSet_some (hn : s.namedSet f = some k) : k < 8 ∧ (s.set k).st ≠ .free := by
  unfold State.namedSet at hn
  split at hn
  · cases hn
  · next slot hslot =>
    have hlt := (slotOf_some hslot).1
    dsimp only at hn
    split at hn
    · next hc =>
      simp only [Bool.and_eq_true, decide_eq_true_eq, bne_iff_ne] at hc
      cases hn
      exact ⟨by omega, hc.1.1.2⟩
    · cases hn

theorem keepExpected_congr (hr : t.regs = s.regs) (hm : t.mem = s.mem) (slot : Nat) : t.keepExpected slot = s.keepExpected slot := by
  simp only [State.keepExpected, State.keepHead, State.keepEntry, State.loadN, State.rdAddr, load_congr hm, rd_congr hr]

/-! ## Causes and counters -/

theorem raise_rd (hi : s.Inv) {f : Fld} (hf : f.lo + f.len ≤ 64) (hpos : 0 < f.len) : (s.raise f).rd f = 1 :=
  (rd_wr_same f 1 (inv_rising hi) hf).trans (Nat.mod_eq_of_lt (Nat.one_lt_two_pow hpos.ne'))

theorem raise_changes (hi : s.Inv) (f : Fld) : Changes [.regs] [f] s (s.raise f) := wr_changes hi f 1

/-- A Felt or keep write that is dropped and counted (R185, R188). -/
def FeltDropped (n : Fin 42) (s t : State) : Prop :=
  t.rd (Fld.lnkDrop.stale n) = min (s.rd (Fld.lnkDrop.stale n) + 1) (2 ^ (Fld.lnkDrop.stale n).len - 1) ∧
  t.rd Fld.tierSedgeCounts.staleFelt = min (s.rd Fld.tierSedgeCounts.staleFelt + 1) (2 ^ Fld.tierSedgeCounts.staleFelt.len - 1) ∧
  t.rd Fld.tierErrStatus.staleFelt = 1 ∧
  Changes [.regs] [Fld.lnkDrop.stale n, Fld.tierSedgeCounts.staleFelt, Fld.tierErrStatus.staleFelt] s t

theorem lnkDrop_apart (n : Fin 42) : (Reg.lnkDrop n != Reg.tierSedgeCounts && Reg.lnkDrop n != Reg.tierErrStatus) = true := by
  revert n
  decide

theorem staleFelt_dropped (hi : s.Inv) (n : Fin 42) : FeltDropped n s (s.staleFelt n) := by
  have h1 : (s.staleAt n).Inv := bump_inv hi _ _
  have h2 : ((s.staleAt n).bump Fld.tierSedgeCounts.staleFelt).Inv := bump_inv h1 _ _
  have c1 : Changes [.regs] [Fld.lnkDrop.stale n] s (s.staleAt n) := bump_changes hi _ 1
  have c2 : Changes [.regs] [Fld.tierSedgeCounts.staleFelt] (s.staleAt n) ((s.staleAt n).bump Fld.tierSedgeCounts.staleFelt) := bump_changes h1 _ 1
  have c3 : Changes [.regs] [Fld.tierErrStatus.staleFelt] ((s.staleAt n).bump Fld.tierSedgeCounts.staleFelt) (s.staleFelt n) := raise_changes h2 _
  obtain ⟨hcounts, herr⟩ := by simpa only [Bool.and_eq_true, bne_iff_ne] using lnkDrop_apart n
  refine ⟨?_, ?_, raise_rd h2 (by decide) (by decide), ?_⟩
  · rw [c3.2.rd (by simpa [Fld.lnkDrop.stale, Fld.tierErrStatus.staleFelt] using Ne.symm herr),
      c2.2.rd (by simpa [Fld.lnkDrop.stale, Fld.tierSedgeCounts.staleFelt] using Ne.symm hcounts)]
    exact (staleAt_stale hi n).1
  · rw [c3.2.rd (by decide)]
    refine (bump_rd h1 1 (by decide)).trans ?_
    rw [c1.2.rd (by simpa [Fld.lnkDrop.stale, Fld.tierSedgeCounts.staleFelt] using hcounts)]
  · exact c3.step (by decide) (by simp) (c2.step (by decide) (by simp) (c1.step (by decide) (by simp) (.refl _ _ s)))

/-! ## CUT_NOTICE at the host (R159, R173, R187) -/

/-- The reply to a notice. -/
def State.replies (s : State) (f : Frame) (word : Nat) : State :=
  s.sendTo f.srcRack f.srcPos Ty.cutReply (cutFrame (frameStep f) (BitVec.ofNat 8 f.offset.toNat) 0 (leBytes 8 word))

/-- The set that a notice opens. -/
def State.openedSet (s : State) (f : Frame) (need : Nat) : SedgeSet :=
  { st := .filling, step := frameStep f, gen := BitVec.ofNat 8 f.offset.toNat, pages := s.freePages.take need, mirror := s.freePages.take need }

theorem exec_cutNotice_stranger (hh : s.hears n Ty.cutNotice f = true) (hs : s.slotOf f.srcRack f.srcPos = none) :
    exec (.cutNotice n f) s = .next (s.replies f 0) := by
  show execCutNotice n f s = _
  rw [execCutNotice, recv_hears hh]
  simp only [hs]
  rfl

theorem exec_cutNotice_refused (hh : s.hears n Ty.cutNotice f = true) (hs : s.slotOf f.srcRack f.srcPos = some slot)
    (ha : s.acceptSet slot (frameStep f) (BitVec.ofNat 8 f.offset.toNat) = (none, u)) : exec (.cutNotice n f) s = .next (u.replies f 0) := by
  show execCutNotice n f s = _
  rw [execCutNotice, recv_hears hh]
  simp only [hs, ha]
  rfl

theorem exec_cutNotice_accepted (hh : s.hears n Ty.cutNotice f = true) (hs : s.slotOf f.srcRack f.srcPos = some slot)
    (ha : s.acceptSet slot (frameStep f) (BitVec.ofNat 8 f.offset.toNat) = (some h, u)) :
    exec (.cutNotice n f) s = .next ((u.replies f (1 + 2 * h)).keepReport (2 * slot + h)) := by
  show execCutNotice n f s = _
  rw [execCutNotice, recv_hears hh]
  simp only [hs, ha]
  rfl

theorem acceptSet_taken {step : W64} {gen : BitVec 8} (h0 : (s.set (2 * slot)).st ≠ .free) (h1 : (s.set (2 * slot + 1)).st ≠ .free) :
    s.acceptSet slot step gen = (none, s) := by
  have hnone : [0, 1].find? (fun h => (s.set (2 * slot + h)).st == .free) = none := by simp [h0, h1]
  simp only [State.acceptSet, hnone]

theorem acceptSet_short {step : W64} {gen : BitVec 8} (hf : [0, 1].find? (fun h => (s.set (2 * slot + h)).st == .free) = some h)
    (hn : s.freePages.length < s.rd (Fld.tierOwner.setPages slot)) :
    s.acceptSet slot step gen = (none, (s.bump Fld.tierSedgeCounts.refusals).raise Fld.tierErrStatus.sedgeRefused) := by
  simp only [State.acceptSet, hf, hn, if_true]

theorem acceptSet_opens (hf : [0, 1].find? (fun h => (s.set (2 * slot + h)).st == .free) = some h)
    (hn : s.rd (Fld.tierOwner.setPages slot) ≤ s.freePages.length) :
    s.acceptSet slot (frameStep f) (BitVec.ofNat 8 f.offset.toNat) =
      (some h, s.putSet (2 * slot + h) (s.openedSet f (s.rd (Fld.tierOwner.setPages slot)))) := by
  simp only [State.acceptSet, hf, Nat.not_lt.2 hn, if_false]
  rfl

/-- A set in which nothing has been kept yet: its report goes out where the owner expects nothing to be kept. -/
theorem keepReport_unkept (hx : s.set k = x) (hst : x.st = .filling) (hr : x.reported = false) (hb : x.broken = false) (hw : x.windows = [])
    (hk : x.kept = 0) : s.keepReport k =
      if (s.keepExpected (k / 2)).isEmpty then
        (s.putSet k { x with reported := true }).sendTo (s.ownerOf (k / 2)).1 (s.ownerOf (k / 2)).2 Ty.keepReport
          (cutFrame x.step x.gen 0 (leBytes 8 1))
      else s := by
  have hall : (s.keepExpected (k / 2)).all (fun e => x.windows.any (fun w => w.1 == e.1 && w.2.1 == e.2 && w.2.2 == 0)) =
      (s.keepExpected (k / 2)).isEmpty := by
    rw [hw]
    cases s.keepExpected (k / 2) <;> rfl
  unfold State.keepReport
  simp only [hx, hst, hr, hb, hk, hall]
  rfl

theorem replies_keep (s : State) (f : Frame) (word : Nat) : Keep ([.outbox], 0) s (s.replies f word) := State.sendTo_keep ..

theorem replies_outbox_congr (hs : t.slices = s.slices) (ho : t.outbox = s.outbox) (hr : t.rd Fld.tierIdent.rack = s.rd Fld.tierIdent.rack)
    (hp : t.rd Fld.tierIdent.position = s.rd Fld.tierIdent.position) (f : Frame) (word : Nat) : (t.replies f word).outbox = (s.replies f word).outbox := by
  unfold State.replies
  exact sendTo_outbox_congr hs ho hr hp ..

/-- The refusal for want of pages, counted. -/
def State.refusesSet (s : State) : State := (s.bump Fld.tierSedgeCounts.refusals).raise Fld.tierErrStatus.sedgeRefused

theorem refusesSet_counts (hi : s.Inv) : s.refusesSet.rd Fld.tierErrStatus.sedgeRefused = 1 ∧
    s.refusesSet.rd Fld.tierSedgeCounts.refusals = min (s.rd Fld.tierSedgeCounts.refusals + 1) (2 ^ Fld.tierSedgeCounts.refusals.len - 1) ∧
    Changes [.regs] [Fld.tierErrStatus.sedgeRefused, Fld.tierSedgeCounts.refusals] s s.refusesSet := by
  have hi1 : (s.bump Fld.tierSedgeCounts.refusals).Inv := bump_inv hi _ _
  have c1 : Changes [.regs] [Fld.tierSedgeCounts.refusals] s (s.bump Fld.tierSedgeCounts.refusals) := bump_changes hi _ 1
  have c2 : Changes [.regs] [Fld.tierErrStatus.sedgeRefused] (s.bump Fld.tierSedgeCounts.refusals) s.refusesSet := raise_changes hi1 _
  exact ⟨raise_rd hi1 (by decide) (by decide), (c2.2.rd (by decide)).trans (bump_rd hi 1 (by decide)),
    c2.step (by decide) (by simp) (c1.step (by decide) (by simp) (.refl _ _ s))⟩

theorem cutNotice_refusal (hi : s.Inv) (hh : s.hears n Ty.cutNotice f = true) (hs : s.slotOf f.srcRack f.srcPos = some slot)
    (hf : [0, 1].find? (fun h => (s.set (2 * slot + h)).st == .free) = some h)
    (hn : s.freePages.length < s.rd (Fld.tierOwner.setPages slot)) : Does (.cutNotice n f) s fun t =>
      t.outbox = (s.replies f 0).outbox ∧ t.rd Fld.tierErrStatus.sedgeRefused = 1 ∧
      t.rd Fld.tierSedgeCounts.refusals = min (s.rd Fld.tierSedgeCounts.refusals + 1) (2 ^ Fld.tierSedgeCounts.refusals.len - 1) ∧
      Changes [.outbox, .regs] [Fld.tierErrStatus.sedgeRefused, Fld.tierSedgeCounts.refusals] s t := by
  have hexec : exec (.cutNotice n f) s = .next (s.refusesSet.replies f 0) := exec_cutNotice_refused hh hs (acceptSet_short hf hn)
  obtain ⟨hraised, hcount, hc⟩ := refusesSet_counts hi
  generalize s.refusesSet = u at hexec hraised hcount hc
  have hsend := replies_keep u f 0
  have hregs : (u.replies f 0).regs = u.regs := hsend.same .regs (by decide)
  exact ⟨_, hexec, replies_outbox_congr (hc.1.same .slices (by decide)) (hc.1.same .outbox (by decide)) (hc.2.rd (by decide)) (hc.2.rd (by decide)) ..,
    (rd_congr hregs _).trans hraised, (rd_congr hregs _).trans hcount,
    .step (.of_only hsend.only hregs) (by decide) (by simp) (hc.step (by decide) (by simp) (.refl _ _ s))⟩

theorem cutNotice_opens (hh : s.hears n Ty.cutNotice f = true) (hs : s.slotOf f.srcRack f.srcPos = some slot)
    (hf : [0, 1].find? (fun h => (s.set (2 * slot + h)).st == .free) = some h)
    (hn : s.rd (Fld.tierOwner.setPages slot) ≤ s.freePages.length) : Does (.cutNotice n f) s fun t =>
      t.set (2 * slot + h) =
        { s.openedSet f (s.rd (Fld.tierOwner.setPages slot)) with reported := (s.keepExpected slot).isEmpty } ∧
      (∀ k : Nat, k ≠ 2 * slot + h → t.set k = s.set k) ∧
      t.outbox = (if (s.keepExpected slot).isEmpty = true then
          ((s.replies f (1 + 2 * h)).sendTo f.srcRack f.srcPos Ty.keepReport
            (cutFrame (frameStep f) (BitVec.ofNat 8 f.offset.toNat) 0 (leBytes 8 1))).outbox
        else (s.replies f (1 + 2 * h)).outbox) ∧ Changes [.sedge, .outbox] [] s t := by
  obtain ⟨hslot, howner⟩ := slotOf_some hs
  have hh2 : h < 2 := by
    have := List.mem_of_find?_eq_some hf
    simp only [List.mem_cons, List.not_mem_nil, or_false] at this
    omega
  have hlt : 2 * slot + h < 8 := by omega
  have hdiv : (2 * slot + h) / 2 = slot := by omega
  generalize hx : s.openedSet f (s.rd (Fld.tierOwner.setPages slot)) = x
  have hexec := exec_cutNotice_accepted hh hs (acceptSet_opens hf hn)
  rw [hx] at hexec
  have hput : Keep ([.sedge], 0) s (s.putSet (2 * slot + h) x) := State.putSet_keep ..
  have hout : ((s.putSet (2 * slot + h) x).replies f (1 + 2 * h)).outbox = (s.replies f (1 + 2 * h)).outbox :=
    replies_outbox_congr (hput.same .slices (by decide)) (hput.same .outbox (by decide)) (rd_congr (hput.same .regs (by decide)) _)
      (rd_congr (hput.same .regs (by decide)) _) ..
  have hrep := replies_keep (s.putSet (2 * slot + h) x) f (1 + 2 * h)
  have hkeep : Keep ([.sedge, .outbox], 0) s ((s.putSet (2 * slot + h) x).replies f (1 + 2 * h)) := hrep.step (by decide) (hput.mono (by decide))
  generalize hv : (s.putSet (2 * slot + h) x).replies f (1 + 2 * h) = v at hexec hout hrep hkeep
  have hset : v.set (2 * slot + h) = x := (set_congr (hrep.same .sedge (by decide)) _).trans (putSet_set_same _ hlt _)
  have hother (k : Nat) (hk : k ≠ 2 * slot + h) : v.set k = s.set k :=
    (set_congr (hrep.same .sedge (by decide)) _).trans (putSet_set_other _ hk.symm _)
  have hregs : v.regs = s.regs := hkeep.same .regs (by decide)
  have hexp : v.keepExpected slot = s.keepExpected slot := keepExpected_congr hregs (hkeep.same .mem (by decide)) slot
  have hown : v.ownerOf slot = (f.srcRack, f.srcPos) := by
    rw [← howner, State.ownerOf, State.ownerOf, rd_congr hregs, rd_congr hregs]
  rw [keepReport_unkept hset (by rw [← hx]; rfl) (by rw [← hx]; rfl) (by rw [← hx]; rfl) (by rw [← hx]; rfl) (by rw [← hx]; rfl), hdiv, hexp,
    hown] at hexec
  refine ⟨_, hexec, ?_⟩
  by_cases he : (s.keepExpected slot).isEmpty = true
  · rw [if_pos he, if_pos he]
    generalize hw : v.putSet (2 * slot + h) { x with reported := true } = w
    have hwput : Keep ([.sedge], 0) v w := hw ▸ State.putSet_keep ..
    have hw' := hwput.step (by decide) hkeep
    have hrepS := replies_keep s f (1 + 2 * h)
    have hlast : Keep ([.outbox], 0) w (w.sendTo f.srcRack f.srcPos Ty.keepReport (cutFrame x.step x.gen 0 (leBytes 8 1))) := State.sendTo_keep ..
    have hsedge := hlast.same .sedge (by decide)
    refine ⟨?_, fun k hk => ?_, ?_, .of_only (hlast.only.step (by decide) hw'.only) ((hlast.same .regs (by decide)).trans (hw'.same .regs (by decide)))⟩
    · rw [set_congr hsedge, ← hw, putSet_set_same _ hlt, ← hx, he]
    · rw [set_congr hsedge, ← hw, putSet_set_other _ hk.symm, hother k hk]
    · rw [← hx]
      refine sendTo_outbox_congr ((hw'.same .slices (by decide)).trans (hrepS.same .slices (by decide)).symm) ((hwput.same .outbox (by decide)).trans hout)
        (rd_congr ((hw'.same .regs (by decide)).trans (hrepS.same .regs (by decide)).symm) _)
        (rd_congr ((hw'.same .regs (by decide)).trans (hrepS.same .regs (by decide)).symm) _) ..
  · rw [if_neg he, if_neg he]
    refine ⟨hset.trans ?_, hother, hout, .of_only hkeep.only hregs⟩
    rw [← hx, Bool.not_eq_true] at *
    rw [he]
    rfl

/-! ## CUT_REPLY at the owner (R159, R212) -/

/-- The Shard Map location of a set at the partner (R213). -/
def State.partnerLoc (s : State) (set : Nat) : W64 := BitVec.ofNat 64 (set + 2 * s.rd Fld.tierPartner.position + 256 * s.rd Fld.tierPartner.rack)

theorem early_isFinal {st : CutState} (h : st.early = true) : st.isFinal = false := by cases st <;> simp_all [CutState.early, CutState.isFinal]

theorem exec_cutReply_unknown (hh : s.hears n Ty.cutReply f = true) (hc : s.cutOf (frameStep f) (BitVec.ofNat 8 f.offset.toNat) = none) :
    exec (.cutReply n f) s = settled (.next (s.staleAt n)) := by
  show settled (doCutReply n f s) = _
  rw [doCutReply, recv_hears hh, hc]

theorem exec_cutReply_late (hh : s.hears n Ty.cutReply f = true) (hc : s.cutOf (frameStep f) (BitVec.ofNat 8 f.offset.toNat) = some c)
    (hl : c.accepted = true ∨ (c.st.early = false ∧ c.refelt = false)) : exec (.cutReply n f) s = settled (.next (s.staleAt n)) := by
  have hl : (!(c.st.early || c.refelt) || c.accepted) = true := by rcases hl with h | ⟨h1, h2⟩ <;> simp [*]
  show settled (doCutReply n f s) = _
  rw [doCutReply, recv_hears hh, hc]
  simp only [hl, if_true]

theorem exec_cutReply_refused (hh : s.hears n Ty.cutReply f = true) (hc : s.cutOf (frameStep f) (BitVec.ofNat 8 f.offset.toNat) = some c)
    (ha : c.accepted = false) (he : (c.st.early || c.refelt) = true) (hw : bitAt (leNat f.payload) 0 = false) : exec (.cutReply n f) s =
      settled (.next (if c.refelt then s.putCut { c with refelt := false } else s.cutFinal c.seq .abandoned St.sedgeIncomplete true)) := by
  show settled (doCutReply n f s) = _
  rw [doCutReply, recv_hears hh, hc]
  simp only [ha, he, hw, Bool.not_true, Bool.not_false, Bool.false_or, if_false, if_true, Bool.false_eq_true]

theorem exec_cutReply_accepted (hh : s.hears n Ty.cutReply f = true) (hc : s.cutOf (frameStep f) (BitVec.ofNat 8 f.offset.toNat) = some c)
    (ha : c.accepted = false) (he : c.st.early = true) (hw : bitAt (leNat f.payload) 0 = true) (hm : s.cut.dir.length ≤ s.mapFree) :
    exec (.cutReply n f) s = settled (.next ((s.putCut { c with accepted := true, set := bits (leNat f.payload) 1 1 }).mapReserve 0 c.gen c.step
      (s.partnerLoc (bits (leNat f.payload) 1 1)) s.cut.dir)) := by
  show settled (doCutReply n f s) = _
  rw [doCutReply, recv_hears hh, hc]
  have hm' (d : Cut) : ¬ (s.putCut d).mapFree < (s.putCut d).cut.dir.length := Nat.not_lt.2 hm
  simp only [ha, he, hw, hm', Bool.not_true, Bool.false_or, Bool.true_or, if_false, Bool.false_eq_true]
  rfl

theorem exec_cutReply_mapFull (hh : s.hears n Ty.cutReply f = true) (hc : s.cutOf (frameStep f) (BitVec.ofNat 8 f.offset.toNat) = some c)
    (ha : c.accepted = false) (he : c.st.early = true) (hw : bitAt (leNat f.payload) 0 = true) (hm : s.mapFree < s.cut.dir.length)
    (hr : c.refelt = false) : exec (.cutReply n f) s =
      settled (.next ((s.putCut { c with accepted := true, set := bits (leNat f.payload) 1 1 }).mapRefuse.cutFinal c.seq .abandoned St.mapFull true)) := by
  show settled (doCutReply n f s) = _
  rw [doCutReply, recv_hears hh, hc]
  have hm' (d : Cut) : (s.putCut d).mapFree < (s.putCut d).cut.dir.length := hm
  simp only [ha, he, hw, hm', hr, Bool.not_true, Bool.false_or, Bool.true_or, if_false, if_true, Bool.false_eq_true]

theorem mapReserve_map_congr {tier : BitVec 2} {gen : BitVec 8} {step loc : W64} (h : t.map = s.map) (rs : List Region) :
    (t.mapReserve tier gen step loc rs).map = (s.mapReserve tier gen step loc rs).map := by
  induction rs generalizing s t with
  | nil => exact h
  | cons r rs ih => exact ih (congrArg (fun m => kset m (lowestGap m 0) _) h)

theorem cutReply_accepts (hh : s.hears n Ty.cutReply f = true) (hc : s.cutOf (frameStep f) (BitVec.ofNat 8 f.offset.toNat) = some c)
    (hf : s.findCut c.seq = some c) (ha : c.accepted = false) (he : c.st.early = true) (hw : bitAt (leNat f.payload) 0 = true)
    (hm : s.cut.dir.length ≤ s.mapFree) : DoesThen (.cutReply n f) s fun t =>
      t.findCut c.seq = some { c with accepted := true, set := bits (leNat f.payload) 1 1 } ∧
      t.map = (s.mapReserve 0 c.gen c.step (s.partnerLoc (bits (leNat f.payload) 1 1)) s.cut.dir).map ∧ Changes [.cut, .map] [] s t := by
  refine .of_settled (exec_cutReply_accepted hh hc ha he hw hm) ?_
  generalize hd : { c with accepted := true, set := bits (leNat f.payload) 1 1 } = d
  have hput : Keep ([.cut], 0) s (s.putCut d) := State.putCut_keep ..
  have hres := State.mapReserve_keep (s.putCut d) 0 c.gen c.step (s.partnerLoc (bits (leNat f.payload) 1 1)) s.cut.dir
  have hk : Keep ([.cut, .map], 0) s ((s.putCut d).mapReserve 0 c.gen c.step (s.partnerLoc (bits (leNat f.payload) 1 1)) s.cut.dir) :=
    hres.step (by decide) (hput.mono (by decide))
  have hseq : d.seq = c.seq := by rw [← hd]
  refine ⟨?_, mapReserve_map_congr (hput.same .map (by decide)) _, .of_only hk.only (hk.same .regs (by decide))⟩
  rw [findCut_congr (congrArg CutUnit.cuts (hres.same .cut (by decide))), ← hseq]
  exact putCut_findCut (hseq ▸ findCut_seqs hf)

theorem cutReply_mapFull (hi : s.Inv) (hh : s.hears n Ty.cutReply f = true) (hc : s.cutOf (frameStep f) (BitVec.ofNat 8 f.offset.toNat) = some c)
    (hf : s.findCut c.seq = some c) (ha : c.accepted = false) (he : c.st.early = true) (hw : bitAt (leNat f.payload) 0 = true)
    (hm : s.mapFree < s.cut.dir.length) (hr : c.refelt = false) : DoesThen (.cutReply n f) s fun t =>
      CutEnded s c .abandoned St.mapFull t ∧ t.rd Fld.tierErrStatus.mapFull = 1 := by
  refine .of_settled (exec_cutReply_mapFull hh hc ha he hw hm hr) ?_
  generalize hd : { c with accepted := true, set := bits (leNat f.payload) 1 1 } = d
  have hput : Keep ([.cut], 0) s (s.putCut d) := State.putCut_keep ..
  have hrefuse := State.mapRefuse_keep (s.putCut d)
  have hiu : (s.putCut d).mapRefuse.Inv := hrefuse.inv (hput.inv hi)
  have hraised : (s.putCut d).mapRefuse.rd Fld.tierErrStatus.mapFull = 1 := raise_rd (bump_inv (hput.inv hi) _ _) (by decide) (by decide)
  have hfields : FieldsBut [Fld.tierMapStatus.fullEvents, Fld.tierErrStatus.mapFull] s (s.putCut d).mapRefuse :=
    (FieldsBut.of_regs (hput.same .regs (by decide))).trans (.of_bits (hrefuse.bits (hput.inv hi)) (by decide +kernel))
  have hfind : (s.putCut d).mapRefuse.findCut c.seq = some d := by
    rw [findCut_congr (congrArg CutUnit.cuts (hrefuse.same .cut (by decide))), show c.seq = d.seq by rw [← hd]]
    exact putCut_findCut (hd ▸ findCut_seqs hf)
  have hend : CutEnded s d .abandoned St.mapFull ((s.putCut d).mapRefuse.cutFinal c.seq .abandoned St.mapFull true) :=
    CutEnded.of_fields (cutFinal_ended hiu hfind (by rw [← hd]; exact early_isFinal he)) hfields (by decide)
  subst hd
  exact ⟨hend, ((cutFinal_fields hiu _ _ _ _).rd (by decide +kernel)).trans hraised⟩

theorem cutReply_ends (hi : s.Inv) (hh : s.hears n Ty.cutReply f = true) (hc : s.cutOf (frameStep f) (BitVec.ofNat 8 f.offset.toNat) = some c)
    (hf : s.findCut c.seq = some c) (ha : c.accepted = false) (he : c.st.early = true) (hw : bitAt (leNat f.payload) 0 = false)
    (hr : c.refelt = false) : DoesThen (.cutReply n f) s fun t =>
      CutEnded s c .abandoned St.sedgeIncomplete t ∧ FieldsBut (signalFields ++ cutEndFields) s t := by
  refine .of_settled (exec_cutReply_refused hh hc ha (by rw [he, Bool.true_or]) hw) ?_
  rw [hr, if_neg Bool.false_ne_true]
  exact ⟨cutFinal_ended hi hf (early_isFinal he), cutFinal_fields hi _ _ _ _⟩

theorem cutReply_unfelts (hh : s.hears n Ty.cutReply f = true) (hc : s.cutOf (frameStep f) (BitVec.ofNat 8 f.offset.toNat) = some c)
    (hf : s.findCut c.seq = some c) (ha : c.accepted = false) (hr : c.refelt = true) (hw : bitAt (leNat f.payload) 0 = false) :
    DoesThen (.cutReply n f) s fun t => t.findCut c.seq = some { c with refelt := false } ∧ Changes [.cut] [] s t := by
  refine .of_settled (exec_cutReply_refused hh hc ha (by rw [hr, Bool.or_true]) hw) ?_
  rw [if_pos hr]
  exact ⟨putCut_findCut (c := { c with refelt := false }) (findCut_seqs hf), putCut_changes ..⟩

/-! ## FELT_DATA and SET_RELEASE at the host (R160, R185 to R188) -/

/-- The acknowledgement of Felt data. -/
def feltAckOf (f : Frame) : Frame :=
  { tag := f.tag, gen := f.gen, hop := f.hop, seq := f.seq, stepLo := f.stepLo, offset := f.offset, count := f.count }

/-- The data is the commit record of the set's cut. -/
def State.isCommitRecord (s : State) (k : Nat) (f : Frame) : Bool :=
  f.offset.toNat % 2 ^ 38 = s.rd (Fld.tierOwner.tMib (k / 2)) * 0x100000 + 16384 && f.payload.length = 64

theorem exec_feltData_unnamed (hh : s.hears n Ty.feltData f = true) (hn : s.namedSet f = none) : exec (.feltData n f) s = .next (s.staleFelt n) := by
  show execFeltData n f s = _
  rw [execFeltData, recv_hears hh, hn]

theorem exec_feltData_notFilling (hh : s.hears n Ty.feltData f = true) (hn : s.namedSet f = some k) (hst : (s.set k).st ≠ .filling) :
    exec (.feltData n f) s = .next (s.staleFelt n) := by
  have htakes : s.setTakes k (f.offset.toNat % 2 ^ 38) f.payload.length = false := by simp [State.setTakes, hst]
  show execFeltData n f s = _
  rw [execFeltData, recv_hears hh, hn]
  simp only [htakes, Bool.not_false, Bool.or_true, if_true]

theorem setStore_inPage {off : Nat} {bs : List Byte} {a : Nat} (ht : s.setTakes k off bs.length = true) (hp : off % pageBytes + bs.length ≤ pageBytes)
    (ha : s.setAddr k off = some a) : s.setStore k off bs = s.store' a bs := by
  have hlen : bs.length ≤ pageBytes - off % pageBytes := by omega
  simp only [State.setStore, ht, ha, List.take_of_length_le hlen, List.drop_eq_nil_of_le hlen, Bool.not_true, Bool.false_eq_true, if_false]
  split <;> rfl

theorem exec_feltData_taken {a : Nat} (hh : s.hears n Ty.feltData f = true) (hn : s.namedSet f = some k)
    (ht : s.setTakes k (f.offset.toNat % 2 ^ 38) f.payload.length = true) (hl : f.payload.length = f.count.toNat * 4) (ho : f.offset.toNat < 2 ^ 46)
    (hp : f.offset.toNat % 2 ^ 38 % pageBytes + f.payload.length ≤ pageBytes) (ha : s.setAddr k (f.offset.toNat % 2 ^ 38) = some a) :
    exec (.feltData n f) s = .next ((if s.isCommitRecord k f then (s.store' a f.payload).putSet k { s.set k with st := .committed }
      else s.store' a f.payload).sendTo f.srcRack f.srcPos Ty.feltAck (feltAckOf f)) := by
  have hpass : (decide (f.payload.length ≠ f.count.toNat * 4) || decide (2 ^ 46 ≤ f.offset.toNat) ||
      !s.setTakes k (f.offset.toNat % 2 ^ 38) f.payload.length) = false := by
    rw [ht, decide_eq_false (not_not.2 hl), decide_eq_false (Nat.not_le.2 ho)]
    rfl
  show execFeltData n f s = _
  rw [execFeltData, recv_hears hh, hn]
  simp only [hpass, Bool.false_eq_true, if_false, setStore_inPage ht hp ha]
  rfl

theorem feltData_stores {a : Nat} (hi : s.Inv) (hh : s.hears n Ty.feltData f = true) (hn : s.namedSet f = some k)
    (ht : s.setTakes k (f.offset.toNat % 2 ^ 38) f.payload.length = true) (hl : f.payload.length = f.count.toNat * 4) (ho : f.offset.toNat < 2 ^ 46)
    (hp : f.offset.toNat % 2 ^ 38 % pageBytes + f.payload.length ≤ pageBytes) (ha : s.setAddr k (f.offset.toNat % 2 ^ 38) = some a) :
    Does (.feltData n f) s fun t =>
      t.load a f.payload.length = f.payload ∧ BytesBut a f.payload.length s t ∧
      t.set k = (if s.isCommitRecord k f then { s.set k with st := .committed } else s.set k) ∧ (∀ m : Nat, m ≠ k → t.set m = s.set m) ∧
      t.outbox = (s.sendTo f.srcRack f.srcPos Ty.feltAck (feltAckOf f)).outbox ∧ Changes [.mem, .sedge, .outbox] [] s t := by
  refine ⟨_, exec_feltData_taken hh hn ht hl ho hp ha, ?_⟩
  generalize hu : (if s.isCommitRecord k f then (s.store' a f.payload).putSet k { s.set k with st := .committed } else s.store' a f.payload) = u
  have hmem : u.mem = (s.store' a f.payload).mem := by
    rw [← hu]
    split <;> rfl
  have hset : u.set k = if s.isCommitRecord k f then { s.set k with st := .committed } else s.set k := by
    rw [← hu]
    split
    · exact putSet_set_same _ (namedSet_some hn).1 _
    · rfl
  have hother (m : Nat) (hm : m ≠ k) : u.set m = s.set m := by
    rw [← hu]
    split
    · exact putSet_set_other _ hm.symm _
    · rfl
  have hku : Keep ([.mem, .sedge], 0) s u := by
    have hstore : Keep ([.mem, .sedge], 0) s (s.store' a f.payload) := (State.store'_keep s a f.payload).mono (by decide)
    exact hu ▸ .ite ((State.putSet_keep ..).step (by decide) hstore) hstore
  have hsend : Keep ([.outbox], 0) u (u.sendTo f.srcRack f.srcPos Ty.feltAck (feltAckOf f)) := State.sendTo_keep ..
  have hregs : u.regs = s.regs := hku.same .regs (by decide)
  have hmem' : (u.sendTo f.srcRack f.srcPos Ty.feltAck (feltAckOf f)).mem = (s.store' a f.payload).mem := (hsend.same .mem (by decide)).trans hmem
  exact ⟨(load_congr hmem' ..).trans (load_store'_same hi a f.payload), (BytesBut.store' s f.payload le_rfl).congr hmem',
    (set_congr (hsend.same .sedge (by decide)) k).trans hset, fun m hm => (set_congr (hsend.same .sedge (by decide)) m).trans (hother m hm),
    sendTo_outbox_congr (hku.same .slices (by decide)) (hku.same .outbox (by decide)) (rd_congr hregs _) (rd_congr hregs _) ..,
    .of_only (hsend.only.step (by decide) (hku.only.step (by decide) (.refl _ s))) ((hsend.same .regs (by decide)).trans hregs)⟩

theorem exec_setRelease_unnamed (hh : s.hears n Ty.setRelease f = true) (hn : s.namedSet f = none) :
    exec (.setRelease n f) s = .next (s.staleAt n) := by
  show execSetRelease n f s = _
  rw [execSetRelease, recv_hears hh, hn]

theorem exec_setRelease_frees (hh : s.hears n Ty.setRelease f = true) (hn : s.namedSet f = some k)
    (hst : (s.set k).st = .filling ∨ (s.set k).st = .committed) : exec (.setRelease n f) s = .next (s.putSet k {}) := by
  show execSetRelease n f s = _
  rw [execSetRelease, recv_hears hh, hn]
  rcases hst with h | h <;> simp only [h] <;> rfl

theorem exec_setRelease_held (hh : s.hears n Ty.setRelease f = true) (hn : s.namedSet f = some k) (hst : (s.set k).st = .held) :
    exec (.setRelease n f) s = .next (s.staleFelt n) := by
  show execSetRelease n f s = _
  rw [execSetRelease, recv_hears hh, hn]
  simp only [hst]

/-- Settles O39: each answer is that of its frame's case, and what it leaves unchanged is what its parts leave unchanged. -/
theorem cutSets : Obligations.CutSets := by
  unfold Obligations.CutSets
  intro s n f hi
  refine ⟨fun hh => ⟨fun hs => ⟨_, exec_cutNotice_stranger hh hs, rfl⟩, fun slot hs => ⟨fun h0 h1 => ?_, fun h hf => ⟨?_, ?_⟩⟩⟩,
    fun hh => ⟨fun hc => ?_, fun c hc hf => ⟨fun hl => ?_, fun ha he => ⟨?_, ?_, ?_⟩, ?_⟩⟩,
    fun hh => ⟨fun hn => ⟨_, exec_feltData_unnamed hh hn, staleFelt_dropped hi n⟩, fun k hn => ⟨fun hst => ?_, fun ht hl ho hp a ha => ?_⟩⟩,
    fun hh => ⟨fun hn => ⟨_, exec_setRelease_unnamed hh hn, staleAt_stale hi n⟩, fun k hn => ⟨fun hst => ?_, fun hst => ?_⟩⟩⟩
  · exact ⟨_, exec_cutNotice_refused hh hs (acceptSet_taken h0 h1), rfl⟩
  · exact cutNotice_refusal hi hh hs hf
  · exact cutNotice_opens hh hs hf
  · exact .of_settled (exec_cutReply_unknown hh hc) (staleAt_stale hi n)
  · exact .of_settled (exec_cutReply_late hh hc hl) (staleAt_stale hi n)
  · exact cutReply_accepts hh hc hf ha he
  · exact cutReply_mapFull hi hh hc hf ha he
  · exact cutReply_ends hi hh hc hf ha he
  · exact cutReply_unfelts hh hc hf
  · exact ⟨_, exec_feltData_notFilling hh hn hst, staleFelt_dropped hi n⟩
  · have h := feltData_stores hi hh hn ht hl ho hp ha
    simp only [State.isCommitRecord, Bool.and_eq_true, decide_eq_true_eq] at h
    exact h
  · exact ⟨_, exec_setRelease_frees hh hn hst, putSet_set_same _ (namedSet_some hn).1 _, fun m hm => putSet_set_other _ hm.symm _,
      .of_only (State.putSet_keep ..).only rfl⟩
  · exact ⟨_, exec_setRelease_held hh hn hst, staleFelt_dropped hi n⟩

end Sys2Proof.Machine
end

section
/-! Opening, latching and sealing a cut (R157, R158, R162, R163, R165, R166, R178). -/
namespace Sys2Proof.Machine

variable {s t u : State} {c : Cut} {k : Nat} {fs : List Fld}

/-! ## Memory -/

theorem bytesAt_congr {m m' : Memory} {a n : Nat} (h : ∀ x, a ≤ x → x < a + n → Memory.byteAt m' x = Memory.byteAt m x) :
    Memory.bytesAt m' a n = Memory.bytesAt m a n := by
  induction n generalizing a with
  | zero => rfl
  | succ n ih => rw [Memory.bytesAt, Memory.bytesAt, h a le_rfl (by omega), ih fun x h1 h2 => h x (by omega) (by omega)]

theorem overlap_false_iff {a n b m : Nat} : overlap a n b m = false ↔ n = 0 ∨ m = 0 ∨ b + m ≤ a ∨ a + n ≤ b := by
  simp only [overlap, Bool.and_eq_false_iff, decide_eq_false_iff_not]
  omega

/-- Bytes written elsewhere leave what is read here. -/
theorem bytesAt_putBytes_apart (m : Memory) {a n : Nat} {b : Nat} (bs : List Byte) (h : overlap a n b bs.length = false) :
    Memory.bytesAt (Memory.putBytes m b bs) a n = Memory.bytesAt m a n := by
  refine bytesAt_congr fun x h1 h2 => Memory.byteAt_putBytes_outside _ _ _ _ ?_
  have := overlap_false_iff.1 h
  omega

theorem bytesAt_zeros {m : Memory} {a n : Nat} (h : ∀ x, a ≤ x → x < a + n → Memory.byteAt m x = 0) : Memory.bytesAt m a n = zeros n := by
  induction n generalizing a with
  | zero => rfl
  | succ n ih =>
    rw [Memory.bytesAt, h a le_rfl (by omega), ih fun x h1 h2 => h x (by omega) (by omega)]
    rfl

/-- Zeros written leave zero what is zero, and make zero what they cover. -/
theorem byteAt_putBytes_zeros {m : Memory} {a n x : Nat} (hm : Memory.wf m = true) (h : Memory.byteAt m x = 0 ∨ (a ≤ x ∧ x < a + n)) :
    Memory.byteAt (Memory.putBytes m a (zeros n)) x = 0 := by
  induction n generalizing m a with
  | zero => exact h.resolve_right (by omega)
  | succ n ih =>
    refine ih (Memory.wf_putByte a 0 hm) ?_
    by_cases hx : a = x
    · have hrise : rising m = true := by
        simp only [Memory.wf, Bool.and_eq_true] at hm
        exact hm.1
      exact .inl (hx ▸ Memory.byteAt_putByte_same a 0 hrise)
    · rw [Memory.byteAt_putByte_other m 0 hx]
      exact h.imp id fun h => by omega

/-! ## Counts -/

/-- One count of a pair is consumed. -/
def State.takesOne (s : State) (k : Nat) : State := s.putPair k { s.pair k with c := (s.pair k).c + 1 }

/-- One count of one pair has been consumed, and no other pair has changed. -/
def TookOne (k : Nat) (s t : State) : Prop := t.pair k = { s.pair k with c := (s.pair k).c + 1 } ∧ ∀ m : Nat, m ≠ k → t.pair m = s.pair m

theorem takesOne_tookOne (s : State) (hk : k < 512) : TookOne k s (s.takesOne k) :=
  ⟨putPair_pair_same s hk _, fun _ hm => putPair_pair_other s hm.symm _⟩

theorem TookOne.congr (h : TookOne k s u) (ht : t.syn = u.syn) : TookOne k s t := by
  have hpair (m : Nat) : t.pair m = u.pair m := by rw [State.pair, ht, State.pair]
  exact ⟨(hpair k).trans h.1, fun m hm => (hpair m).trans (h.2 m hm)⟩

theorem putPair_only (s : State) (k : Nat) (p : Pair) : Only [.syn] s (s.putPair k p) := fun q => by
  by_cases hq : q = .syn
  · exact .inl (by simp [hq])
  · exact .inr (by cases q <;> trivial)

theorem putPair_changes (s : State) (k : Nat) (p : Pair) : Changes [.syn] [] s (s.putPair k p) := .of_only (putPair_only s k p) rfl

theorem takesOne_inv (hi : s.Inv) (hk : CountWaits s k) : (s.takesOne k).Inv := (State.takeCount_keep hk.take).inv hi

/-- A unit counts on a pair that has room, where nobody waits. -/
theorem produce_room (hq : s.quiesced = false) (hw : s.syn.waiters = []) (hp : s.syn.pends = []) (hd : (s.pair k).p - (s.pair k).c < (s.pair k).depth)
    (hm : (s.pair k).p + 1 < 2 ^ 48) (who : Who) : (s.produce k 1 who).1 = s.putPair k { s.pair k with p := (s.pair k).p + 1 } := by
  have h0 : (s.pair k).depth ≠ 0 := by omega
  have h1 : ¬ (s.pair k).depth < 1 := by omega
  have h2 : ¬ 2 ^ 48 ≤ (s.pair k).p + 1 := by omega
  have h3 : (s.pair k).avail + 1 ≤ (s.pair k).depth := hd
  rw [State.produce, hq, if_neg Bool.false_ne_true, State.produceNow]
  simp only [h0, h1, h2, h3, if_false, if_true]
  exact serve_idle (s := s.putPair k _) hw hp true k

/-! ## Frames to the partner -/

theorem toPartner_outbox_congr (hs : t.slices = s.slices) (ho : t.outbox = s.outbox) (hf : FieldsBut fs s t)
    (ha : fs.all (fun f => f.off != Reg.tierPartner && f.off != Reg.tierIdent) = true) (ty : BitVec 8) (f : Frame) :
    (t.toPartner ty f).outbox = (s.toPartner ty f).outbox := by
  have hrd (g : Fld) (hg : g.off = Reg.tierPartner ∨ g.off = Reg.tierIdent) : t.rd g = s.rd g := by
    refine hf.rd (List.all_eq_true.2 fun f hm => ?_)
    have := List.all_eq_true.1 ha f hm
    simp only [Bool.and_eq_true, bne_iff_ne] at this
    rcases hg with hg | hg <;> simp [hg, this]
  rw [State.toPartner, State.toPartner, State.rdB, State.rdB, hrd _ (.inl rfl), hrd Fld.tierPartner.rack (.inl rfl),
    hrd Fld.tierPartner.position (.inl rfl)]
  split
  · exact sendTo_outbox_congr hs ho (hrd _ (.inr rfl)) (hrd _ (.inr rfl)) ..
  · exact ho

/-! ## A cut added -/

theorem addCut_findCut (s : State) (c : Cut) : (s.addCut c).findCut c.seq = some c := List.find?_cons_of_pos (by simp)

theorem addCut_each (h : s.findCut c.seq = none) : (s.addCut c).EachCut fun d => d.seq = c.seq → d = c := fun d hd hseq => by
  rcases List.mem_cons.1 hd with rfl | hd
  · rfl
  · have hmem : d ∈ s.cut.cuts := by
      rcases List.mem_append.1 hd with hd | hd
      · exact List.mem_of_mem_take hd
      · exact List.mem_of_mem_drop (List.mem_filter.1 hd).1
    exact absurd hseq (by simpa using List.find?_eq_none.1 h d hmem)

theorem addCut_keep (s : State) (c : Cut) : Keep ([.cut], 0) s (s.addCut c) := State.onCut_keep ..

/-! ## CUT_OPEN -/

/-- The descriptor at the next SEQ, and what it names (R157). -/
def State.cutDescriptor (s : State) : List Byte := s.load (s.cutDesc s.cut.nextSeq) 64
def State.cutHalf (s : State) : Bool := bitAt (fieldLE s.cutDescriptor 12 1) 0
def State.cutStep (s : State) : W64 := BitVec.ofNat 64 (fieldLE s.cutDescriptor 0 8)

/-- PEAT_NEXT takes the next cut (R203). -/
def State.peatWanted (s : State) : Bool :=
  match s.cut.peatNext with
  | some (least, _, none) => least.toNat ≤ s.cutStep.toNat
  | _ => false

/-- The cut of the next descriptor. -/
def State.newCut (s : State) : Cut :=
  { seq := s.cut.nextSeq, step := s.cutStep, gen := BitVec.ofNat 8 (s.rd Fld.tierCutGen.gen), rt := fieldLE s.cutDescriptor 16 8,
    peat := bitAt (fieldLE s.cutDescriptor 12 1) 1 || s.peatWanted }

/-- The cut of a descriptor that breaks R157. -/
def State.refusedCut (s : State) : Cut :=
  { s.newCut with st := .abandoned, status := St.lengthLong, refused := true, sealTaken := true, peat := false, arrive := some true }

/-- The age of the step is looked at, and PEAT_NEXT noted. -/
def State.peatNoted (s : State) : State :=
  if s.peatWanted then
    (s.peatAge s.cutStep).onCut (fun u => { u with peatNext := u.peatNext.map (fun p => (p.1, p.2.1, some s.cut.nextSeq)) })
  else s.peatAge s.cutStep

/-- A cut opens in a half, empty or taken. -/
def State.opens (s : State) (c : Cut) (h empty : Bool) : State :=
  if !empty && s.cut.dir.any Region.isSump then (s.addCut c).cutFinal c.seq .skipped St.cutSkipped true
  else
    let s := s.addCut { c with half := if empty then some h else none, battless := !empty }
    let s := if empty then s.putHalf h .capture else (s.raise Fld.tierCutErrStatus.skipped).bump Fld.tierCutCounts.battless
    if s.rdB Fld.tierPartner.valid then s.toPartner Ty.cutNotice (cutFrame c.step c.gen 0 (leBytes 8 s.feltBytes))
    else s.cutFinal c.seq .abandoned St.sedgeIncomplete true

theorem cutOpen_eq (s : State) : s.cutOpen =
    if !s.cutDescOk s.cutDescriptor s.cut.nextSeq then (s.addCut s.refusedCut).cutFlush
    else s.peatNoted.opens s.newCut s.cutHalf (s.half s.cutHalf == .empty) := rfl

theorem cutOpen_refused (h : s.cutDescOk s.cutDescriptor s.cut.nextSeq = false) : s.cutOpen = (s.addCut s.refusedCut).cutFlush := by
  rw [cutOpen_eq, h]
  rfl

theorem cutOpen_taken (h : s.cutDescOk s.cutDescriptor s.cut.nextSeq = true) {e : Bool} (he : (s.half s.cutHalf == .empty) = e) :
    s.cutOpen = s.peatNoted.opens s.newCut s.cutHalf e := by
  rw [cutOpen_eq, h, he]
  rfl

/-- What noting PEAT_NEXT and the age changes. -/
theorem peatNoted_changes (hi : s.Inv) : Changes [.cut, .regs] [Fld.peatErrStatus.peatAge] s s.peatNoted := by
  have hage : Changes [.cut, .regs] [Fld.peatErrStatus.peatAge] s (s.peatAge s.cutStep) := by
    unfold State.peatAge
    dsimp only
    split
    · exact (raise_changes hi _).step (by decide) (by simp) (.refl _ _ s)
    · exact .refl _ _ s
  unfold State.peatNoted
  split
  · exact (onCut_changes ..).step (by decide) (by simp) hage
  · exact hage

theorem peatNoted_inv (hi : s.Inv) : s.peatNoted.Inv := by
  have hage : (s.peatAge s.cutStep).Inv := (State.peatAge_keep ..).inv hi
  unfold State.peatNoted
  split
  · exact (State.onCut_keep ..).inv hage
  · exact hage

theorem peatNoted_unit (s : State) : s.peatNoted.cut = { s.cut with peatNext := s.peatNoted.cut.peatNext } := by
  have hage : (s.peatAge s.cutStep).cut = s.cut := (State.peatAge_keep ..).same .cut (by decide)
  unfold State.peatNoted
  split
  · rw [State.onCut_cut, hage]
  · rw [hage]

theorem peatWanted_none (h : s.cut.peatNext = none) : s.peatWanted = false := by rw [State.peatWanted, h]

theorem newCut_unwanted (h : s.cut.peatNext = none) : s.newCut =
    { seq := s.cut.nextSeq, step := s.cutStep, gen := BitVec.ofNat 8 (s.rd Fld.tierCutGen.gen), rt := fieldLE s.cutDescriptor 16 8,
      peat := bitAt (fieldLE s.cutDescriptor 12 1) 1 } := by rw [State.newCut, peatWanted_none h, Bool.or_false]

/-- A cut that opens in an empty half (R158). -/
theorem opens_capture (hv : s.rdB Fld.tierPartner.valid = true) (c : Cut) (h : Bool) : s.opens c h true =
    ((s.addCut { c with half := some h, battless := false }).putHalf h .capture).toPartner Ty.cutNotice
      (cutFrame c.step c.gen 0 (leBytes 8 s.feltBytes)) := by
  have hadd := addCut_keep s { c with half := some h, battless := false }
  have hput := State.putHalf_keep (s.addCut { c with half := some h, battless := false }) h .capture
  have hv' : ((s.addCut { c with half := some h, battless := false }).putHalf h .capture).rdB Fld.tierPartner.valid = true := by
    rw [State.rdB, rd_congr (hput.same .regs (by decide)), rd_congr (hadd.same .regs (by decide))]
    exact hv
  have hfelt : ((s.addCut { c with half := some h, battless := false }).putHalf h .capture).feltBytes = s.feltBytes := by
    rw [State.feltBytes, show ((s.addCut { c with half := some h, battless := false }).putHalf h .capture).cut.dir = s.cut.dir by cases h <;> rfl,
      State.feltBytes]
  rw [← hfelt, State.opens, Bool.not_true, Bool.false_and, if_neg Bool.false_ne_true]
  exact if_pos hv'

/-- The half is taken, and the cut goes on without it (R166). -/
def State.battlessCut (s : State) (c : Cut) : State :=
  ((s.addCut { c with half := none, battless := true }).raise Fld.tierCutErrStatus.skipped).bump Fld.tierCutCounts.battless

theorem battlessCut_counts (hi : s.Inv) (c : Cut) : (s.battlessCut c).rd Fld.tierCutErrStatus.skipped = 1 ∧
    (s.battlessCut c).rd Fld.tierCutCounts.battless = min (s.rd Fld.tierCutCounts.battless + 1) (2 ^ Fld.tierCutCounts.battless.len - 1) ∧
    Changes [.cut, .regs] [Fld.tierCutErrStatus.skipped, Fld.tierCutCounts.battless] s (s.battlessCut c) := by
  have hadd := addCut_keep s { c with half := none, battless := true }
  have hi1 := hadd.inv hi
  have c1 := raise_changes hi1 Fld.tierCutErrStatus.skipped
  have hi2 : ((s.addCut { c with half := none, battless := true }).raise Fld.tierCutErrStatus.skipped).Inv :=
    (State.raise_keep has_Fld_tierCutErrStatus_skipped _).inv hi1
  have c2 : Changes [.regs] [Fld.tierCutCounts.battless] _ (s.battlessCut c) := bump_changes hi2 _ 1
  refine ⟨(c2.2.rd (by decide)).trans (raise_rd hi1 (by decide) (by decide)), (bump_rd hi2 1 (by decide)).trans ?_,
    c2.step (by decide) (by simp) (c1.step (by decide) (by simp) ((Changes.of_only hadd.only rfl).step (by decide) (by simp) (.refl _ _ s)))⟩
  rw [c1.2.rd (by decide)]
  rfl

theorem opens_battless (hi : s.Inv) (hs : s.cut.dir.any Region.isSump = false) (hv : s.rdB Fld.tierPartner.valid = true) (c : Cut) (h : Bool) :
    s.opens c h false = (s.battlessCut c).toPartner Ty.cutNotice (cutFrame c.step c.gen 0 (leBytes 8 (s.battlessCut c).feltBytes)) := by
  have hv' : (s.battlessCut c).rdB Fld.tierPartner.valid = true := by
    rw [State.rdB, (battlessCut_counts hi c).2.2.2.rd (by decide)]
    exact hv
  rw [State.opens, hs, Bool.and_false, if_neg Bool.false_ne_true]
  exact if_pos hv'

theorem opens_skipped (hs : s.cut.dir.any Region.isSump = true) (c : Cut) (h : Bool) :
    s.opens c h false = (s.addCut c).cutFinal c.seq .skipped St.cutSkipped true := by
  rw [State.opens, hs]
  rfl

/-- The cut unit takes descriptors. -/
def State.cutServes (s : State) : Bool :=
  !s.rdB Fld.ctlReset.quiescing && s.rdB Fld.tierCutCtrl.enable && s.rdB Fld.tierCutqCfg.enable && !s.unitHolds .cutUnit

theorem exec_cutOpen_idle (h : s.cutServes = false) : exec .cutOpen s = settled (.next s) := by
  have hidle : (!s.hw || s.halted || s.rdB Fld.ctlReset.quiescing || !s.rdB Fld.tierCutCtrl.enable || !s.rdB Fld.tierCutqCfg.enable ||
      s.unitHolds .cutUnit) = true := by
    simp only [State.cutServes, Bool.and_eq_false_iff, Bool.not_eq_false'] at h
    rcases h with ((h | h) | h) | h <;> simp [h]
  refine congrArg settled (?_ : doCutOpen s = _)
  rw [doCutOpen, if_pos hidle]

theorem exec_cutOpen (hhw : s.hw = true) (hh : s.halted = false) (h : s.cutServes = true) (hk : CountWaits s (s.rd Fld.tierCutqSync.issuePair)) :
    exec .cutOpen s = settled (.next (s.takesOne (s.rd Fld.tierCutqSync.issuePair)).cutOpen) := by
  have hbusy : (!s.hw || s.halted || s.rdB Fld.ctlReset.quiescing || !s.rdB Fld.tierCutCtrl.enable || !s.rdB Fld.tierCutqCfg.enable ||
      s.unitHolds .cutUnit) = false := by
    simp only [State.cutServes, Bool.and_eq_true, Bool.not_eq_true'] at h
    obtain ⟨⟨⟨h1, h2⟩, h3⟩, h4⟩ := h
    simp [hhw, hh, h1, h2, h3, h4]
  refine congrArg settled (?_ : doCutOpen s = _)
  rw [doCutOpen, hbusy, if_neg Bool.false_ne_true, hk.take]
  rfl

theorem cutPairs_lt (s : State) : s.rd Fld.tierCutqSync.issuePair < 512 ∧ s.rd Fld.tierCutqSync.sealPair < 512 ∧ s.rd Fld.tierCutqSync.sumpPair < 512 :=
  ⟨bits_lt _ _ _, bits_lt _ _ _, bits_lt _ _ _⟩

/-- The half is empty: it captures, and the partner is told. `u` has taken the count. -/
theorem cutOpen_captures (hi : u.Inv) (hok : u.cutDescOk u.cutDescriptor u.cut.nextSeq = true) (he : u.half u.cutHalf = .empty)
    (hv : u.rdB Fld.tierPartner.valid = true) (hp : u.cut.peatNext = none) :
    u.cutOpen.findCut u.cut.nextSeq = some
      { seq := u.cut.nextSeq, step := u.cutStep, gen := BitVec.ofNat 8 (u.rd Fld.tierCutGen.gen), rt := fieldLE u.cutDescriptor 16 8,
        peat := bitAt (fieldLE u.cutDescriptor 12 1) 1, half := some u.cutHalf } ∧ u.cutOpen.syn = u.syn ∧
    u.cutOpen.half u.cutHalf = .capture ∧ u.cutOpen.half (!u.cutHalf) = u.half (!u.cutHalf) ∧ u.cutOpen.cut.nextSeq = u.cut.nextSeq + 1 ∧
    u.cutOpen.outbox = (u.toPartner Ty.cutNotice (cutFrame u.newCut.step u.newCut.gen 0 (leBytes 8 u.feltBytes))).outbox ∧
    Changes [.cut, .outbox, .regs] [Fld.peatErrStatus.peatAge] u u.cutOpen := by
  have hnote := peatNoted_changes hi
  have hunit := peatNoted_unit u
  have hv' : u.peatNoted.rdB Fld.tierPartner.valid = true := by
    rw [State.rdB, hnote.2.rd (by decide)]
    exact hv
  have hfelt : u.peatNoted.feltBytes = u.feltBytes := by rw [State.feltBytes, hunit, State.feltBytes]
  rw [cutOpen_taken hok (e := true) (by simp [he]), opens_capture hv', hfelt]
  generalize hc : ({ u.newCut with half := some u.cutHalf, battless := false } : Cut) = c
  generalize u.peatNoted = n at hnote hunit
  generalize hw : (n.addCut c).putHalf u.cutHalf .capture = w
  have hkeep : Keep ([.cut], 0) n w := hw ▸ (State.putHalf_keep ..).step (by decide) (addCut_keep n c)
  have hchange : Changes [.cut, .regs] [Fld.peatErrStatus.peatAge] u w := (Changes.of_only hkeep.only (hkeep.same .regs (by decide))).step
    (by decide) (by simp) hnote
  have hsend := State.toPartner_keep w Ty.cutNotice (cutFrame u.newCut.step u.newCut.gen 0 (leBytes 8 u.feltBytes))
  have hcut := hsend.same .cut (by decide)
  have hhalf (b : Bool) : (w.toPartner Ty.cutNotice (cutFrame u.newCut.step u.newCut.gen 0 (leBytes 8 u.feltBytes))).half b = w.half b :=
    half_congr (congrArg CutUnit.halfA hcut) (congrArg CutUnit.halfB hcut) b
  have hnext : w.cut.nextSeq = u.cut.nextSeq + 1 := by
    rw [← hw, show ((n.addCut c).putHalf u.cutHalf .capture).cut.nextSeq = n.cut.nextSeq + 1 by cases u.cutHalf <;> rfl, hunit]
  refine ⟨?_, (hsend.same .syn (by decide)).trans (hchange.1.same .syn (by decide)), ?_, ?_, ?_, ?_,
    (Changes.of_only hsend.only (hsend.same .regs (by decide))).step (by decide) (by simp) (hchange.step (by decide) (by simp) (.refl _ _ u))⟩
  · rw [findCut_congr (congrArg CutUnit.cuts hcut), ← hw, findCut_congr (putHalf_cuts ..), show u.cut.nextSeq = c.seq by rw [← hc]; rfl,
      addCut_findCut, ← hc, newCut_unwanted hp]
  · rw [hhalf, ← hw, putHalf_half_same]
  · rw [hhalf, ← hw, putHalf_half_other]
    exact half_congr (by rw [State.addCut, State.onCut_cut, hunit]) (by rw [State.addCut, State.onCut_cut, hunit]) _
  · exact (congrArg CutUnit.nextSeq hcut).trans hnext
  · exact toPartner_outbox_congr (hchange.1.same .slices (by decide)) (hchange.1.same .outbox (by decide)) hchange.2 (by decide) ..

/-- The half is taken: the cut goes on without it, and the half stays as it is. -/
theorem cutOpen_battless (hi : u.Inv) (hok : u.cutDescOk u.cutDescriptor u.cut.nextSeq = true) (he : u.half u.cutHalf ≠ .empty)
    (hs : u.cut.dir.any Region.isSump = false) (hv : u.rdB Fld.tierPartner.valid = true) :
    (u.cutOpen.findCut u.cut.nextSeq).map (fun c => (c.st, c.step, c.half, c.battless)) = some (.opened, u.cutStep, none, true) ∧
    u.cutOpen.syn = u.syn ∧ u.cutOpen.cut.nextSeq = u.cut.nextSeq + 1 ∧ u.cutOpen.half u.cutHalf = u.half u.cutHalf ∧
    u.cutOpen.rd Fld.tierCutErrStatus.skipped = 1 ∧
    u.cutOpen.rd Fld.tierCutCounts.battless = min (u.rd Fld.tierCutCounts.battless + 1) (2 ^ Fld.tierCutCounts.battless.len - 1) ∧
    Changes [.cut, .outbox, .regs] [Fld.peatErrStatus.peatAge, Fld.tierCutErrStatus.skipped, Fld.tierCutCounts.battless] u u.cutOpen := by
  have hnote := peatNoted_changes hi
  have hni := peatNoted_inv hi
  have hunit := peatNoted_unit u
  have hv' : u.peatNoted.rdB Fld.tierPartner.valid = true := by
    rw [State.rdB, hnote.2.rd (by decide)]
    exact hv
  rw [cutOpen_taken hok (e := false) (by simp [he]), opens_battless hni (by rw [hunit]; exact hs) hv']
  have hbattless : u.peatNoted.rd Fld.tierCutCounts.battless = u.rd Fld.tierCutCounts.battless := hnote.2.rd (by decide)
  generalize u.peatNoted = n at hnote hunit hni hbattless
  obtain ⟨hskip, hcount, hchange⟩ := battlessCut_counts hni u.newCut
  have hw : (n.battlessCut u.newCut).cut = (n.addCut { u.newCut with half := none, battless := true }).cut := rfl
  generalize n.battlessCut u.newCut = w at hskip hcount hchange hw
  have hsend := State.toPartner_keep w Ty.cutNotice (cutFrame u.newCut.step u.newCut.gen 0 (leBytes 8 w.feltBytes))
  have hcut := (hsend.same .cut (by decide)).trans hw
  have hregs := hsend.same .regs (by decide)
  have hfull : Changes [.cut, .outbox, .regs] [Fld.peatErrStatus.peatAge, Fld.tierCutErrStatus.skipped, Fld.tierCutCounts.battless] u w :=
    hchange.step (by decide) (by simp) (hnote.step (by decide) (by simp) (.refl _ _ u))
  refine ⟨?_, (hsend.same .syn (by decide)).trans (hfull.1.same .syn (by decide)), ?_, ?_, (rd_congr hregs _).trans hskip,
    ((rd_congr hregs _).trans hcount).trans (by rw [hbattless]), (Changes.of_only hsend.only hregs).step (by decide) (by simp) hfull⟩
  · rw [findCut_congr (congrArg CutUnit.cuts hcut)]
    exact congrArg (Option.map _) (addCut_findCut n { u.newCut with half := none, battless := true })
  · rw [congrArg CutUnit.nextSeq hcut, State.addCut, State.onCut_cut, hunit]
  · refine half_congr ?_ ?_ _
    · rw [congrArg CutUnit.halfA hcut, State.addCut, State.onCut_cut, hunit]
    · rw [congrArg CutUnit.halfB hcut, State.addCut, State.onCut_cut, hunit]

/-! ### A cut that is SKIPPED, and one that is refused -/

/-- A cut without a half ends and leaves both halves as they are. -/
theorem cutEnds_halves {st : CutState} {status : Status} {veto : Bool} (hc : c.half = none) (h : Bool) :
    (s.cutEnds c st status veto).half h = s.half h := by
  have hleft (u : State) : u.halfLeft c st = u := by rw [State.halfLeft, hc]
  have hcut : (s.cutEnds c st status veto).cut =
      { (s.putCut { c with runs := [], out := [], refelt := false }).cut with
        lastStatus := status, cuts := (s.cutEnds c st status veto).cut.cuts } := by
    rw [State.cutEnds, putCut_unit, setLeft_unit, hleft, endReported_unit, feltStop_unit]
  exact half_congr (by rw [hcut]; rfl) (by rw [hcut]; rfl) h

theorem endReported_skipped (hi : s.Inv) (c : Cut) : (s.endReported c .skipped St.cutSkipped).rd Fld.tierCutErrStatus.skipped = 1 := by
  have hstop : Keep ([.regs, .red, .cut, .map, .chk], 0x7200000000000000000000000000000000000000000) s
      ((s.feltStop c).onCut fun u => { u with lastStatus := St.cutSkipped }) :=
    (State.onCut_keep ..).step (by decide) ((State.feltStop_keep s c).mono (by decide))
  have hraise := raise_rd (hstop.inv hi) (f := Fld.tierCutErrStatus.skipped) (by decide) (by decide)
  have hri := (State.raise_keep has_Fld_tierCutErrStatus_skipped _).inv (hstop.inv hi)
  have hstatus : St.cutSkipped ≠ St.feltDeadline := by decide
  unfold State.endReported
  dsimp only
  rw [if_neg hstatus]
  exact ((State.cutEndCount_keep _ .skipped).rd hri (by decide +kernel)).trans hraise

/-- A cut without a half is SKIPPED (R166). -/
theorem cutFinal_skipped (hi : s.Inv) (h : s.findCut c.seq = some c) (hf : c.st.isFinal = false) (hc : c.half = none) :
    CutEnded s c .skipped St.cutSkipped (s.cutFinal c.seq .skipped St.cutSkipped true) ∧
    (s.cutFinal c.seq .skipped St.cutSkipped true).rd Fld.tierCutErrStatus.skipped = 1 ∧
    ∀ h, (s.cutFinal c.seq .skipped St.cutSkipped true).half h = s.half h := by
  have hfl : Flushed (s.cutEnds c .skipped St.cutSkipped true) (s.cutFinal c.seq .skipped St.cutSkipped true) := cutFinal_flushed h hf
  refine ⟨cutFinal_ended hi h hf, (hfl.keep.rd (cutEnds_inv hi ..) (by decide +kernel)).trans
    (((cutEnds_keep ..).rd ((endReported_keep ..).inv hi) (by decide +kernel)).trans (endReported_skipped hi c)), fun h => ?_⟩
  exact (half_congr (by rw [hfl.unit]) (by rw [hfl.unit]) h).trans (cutEnds_halves hc h)

/-- The end of a cut is that of every cut of its SEQ, STEP and generation that has no half. -/
theorem CutEnded.of_alike {d : Cut} {st : CutState} {status : Status} (h : CutEnded s c st status t) (hseq : d.seq = c.seq) (hstep : d.step = c.step)
    (hgen : d.gen = c.gen) (hhalf : d.half = none) : CutEnded s d st status t := by
  obtain ⟨hrec, hlast, hcount, -, hmap⟩ := h
  exact ⟨hseq ▸ hrec, hlast, hcount, fun b hb => absurd (hhalf.symm.trans hb) (by simp), hstep ▸ hgen ▸ hmap⟩

theorem cutOpen_skips (hi : u.Inv) (hok : u.cutDescOk u.cutDescriptor u.cut.nextSeq = true) (he : u.half u.cutHalf ≠ .empty)
    (hs : u.cut.dir.any Region.isSump = true) : CutEnded u u.newCut .skipped St.cutSkipped u.cutOpen ∧
      u.cutOpen.rd Fld.tierCutErrStatus.skipped = 1 ∧ u.cutOpen.half u.cutHalf = u.half u.cutHalf := by
  have hnote := peatNoted_changes hi
  have hni := peatNoted_inv hi
  have hunit := peatNoted_unit u
  rw [cutOpen_taken hok (e := false) (by simp [he]), opens_skipped (by rw [hunit]; exact hs)]
  generalize u.peatNoted = n at hnote hunit hni
  have hadd := addCut_keep n u.newCut
  obtain ⟨hend, hskip, hhalf⟩ := cutFinal_skipped (hadd.inv hni) (addCut_findCut n u.newCut) rfl rfl
  refine ⟨CutEnded.of_fields hend (hnote.2.trans (.of_regs (hadd.same .regs (by decide)))) (by decide), hskip, (hhalf _).trans (half_congr ?_ ?_ _)⟩
  · rw [State.addCut, State.onCut_cut, hunit]
  · rw [State.addCut, State.onCut_cut, hunit]

/-- A descriptor that breaks R157 is abandoned, and touches neither a half nor the status of the last cut. -/
theorem cutOpen_refuses (hno : u.findCut u.cut.nextSeq = none) (hok : u.cutDescOk u.cutDescriptor u.cut.nextSeq = false) :
    (u.cutOpen.findCut u.cut.nextSeq).map (fun c => (c.st, c.status, c.half)) = some (.abandoned, St.lengthLong, none) ∧
    u.cutOpen.half u.cutHalf = u.half u.cutHalf ∧ u.cutOpen.cut.lastStatus = u.cut.lastStatus ∧ u.cutOpen.map = u.map ∧
    u.cutOpen.cut.nextSeq = u.cut.nextSeq + 1 := by
  rw [cutOpen_refused hok]
  have hfl := cutFlush_flushed (u.addCut u.refusedCut)
  have hseq : u.refusedCut.seq ∈ (u.addCut u.refusedCut).cutFlush.seqs := by
    rw [hfl.seqs]
    exact findCut_seqs (addCut_findCut ..)
  refine ⟨findCut_map_of_each hseq (hfl.each _ ⟨fun _ => id, fun _ _ => id, fun _ => id, fun _ => id⟩ fun d hd hs => ?_),
    half_congr (by rw [hfl.unit]; rfl) (by rw [hfl.unit]; rfl) _, by rw [hfl.unit]; rfl, hfl.keep.same .map (by decide), by rw [hfl.unit]; rfl⟩
  rw [addCut_each hno d hd hs]
  rfl

/-! ## SCHEDULE_RECORD_LATCH (R162, R163) -/

theorem length_flatMap {α : Type} {f : α → List Byte} {n : Nat} (h : ∀ a, (f a).length = n) (l : List α) : (l.flatMap f).length = l.length * n := by
  induction l with
  | nil => simp
  | cons a l ih => rw [List.flatMap_cons, List.length_append, h, ih, List.length_cons, Nat.succ_mul, Nat.add_comm]

theorem length_zeros (n : Nat) : (zeros n).length = n := List.length_replicate

theorem length_domBytes (d : Domain) : (domBytes d).length = 16 := by simp [domBytes, length_leBytes, length_zeros]

theorem length_queueBytes (q : Queue) : q.bytes.length = 16 := by simp [Queue.bytes, length_leBytes, length_zeros]

theorem length_pairBytes (p : Pair) : p.bytes.length = 16 := by simp [Pair.bytes, length_leBytes]

/-- The record before its CRC, with the RT bytes it holds. -/
def State.recordBody (s : State) (c : Cut) (rt : List Byte) : List Byte :=
  leBytes 8 c.step.toNat ++ leBytes 1 c.gen.toNat ++ zeros 7 ++ domBytes s.tim.domA ++ domBytes s.tim.domB ++
    leBytes 8 (s.getReg Reg.redSrSeed).toNat ++ leBytes 8 (s.getReg Reg.fulSrSeed).toNat ++ leBytes 128 s.syn.flags.toNat ++
    leBytes 128 s.syn.ovr.toNat ++ s.red.chans.toList.flatMap (fun x => leBytes 4 x.nextSeq.toNat) ++
    s.ful.queues.toList.flatMap (fun q => leBytes 4 q.nextSeq.toNat) ++ leBytes 4 (c.seq + 1).toNat ++ zeros 12 ++
    s.cmd.queues.toList.flatMap Queue.bytes ++ rt ++ zeros 160 ++ s.syn.pairs.toList.flatMap Pair.bytes ++ zeros 7160

/-- The RT bytes of a cut's record. -/
def State.rtBytes (s : State) (c : Cut) : List Byte := if c.rt = 0 then zeros 256 else s.load c.rt 256

theorem record_eq (s : State) (c : Cut) :
    s.record c = s.recordBody c (s.rtBytes c) ++ leBytes 8 (crc64 (s.recordBody c (s.rtBytes c))).toNat := rfl

theorem length_rtBytes (s : State) (c : Cut) : (s.rtBytes c).length = 256 := by
  unfold State.rtBytes
  split
  · exact length_zeros _
  · exact length_load ..

theorem length_recordBody (s : State) (c : Cut) {rt : List Byte} (h : rt.length = 256) : (s.recordBody c rt).length = 16376 := by
  have hchans : (s.red.chans.toList.flatMap (fun x => leBytes 4 x.nextSeq.toNat)).length = 128 := by
    rw [length_flatMap (fun _ => length_leBytes 4 _), Vector.length_toList]
  have hful : (s.ful.queues.toList.flatMap (fun q => leBytes 4 q.nextSeq.toNat)).length = 16 := by
    rw [length_flatMap (fun _ => length_leBytes 4 _), Vector.length_toList]
  have hcmd : (s.cmd.queues.toList.flatMap Queue.bytes).length = 128 := by rw [length_flatMap length_queueBytes, Vector.length_toList]
  have hpairs : (s.syn.pairs.toList.flatMap Pair.bytes).length = 8192 := by rw [length_flatMap length_pairBytes, Vector.length_toList]
  simp only [State.recordBody, List.length_append, length_leBytes, length_zeros, length_domBytes, h, hchans, hful, hcmd, hpairs]

/-- The record is 16384 bytes (R162). -/
theorem length_record (s : State) (c : Cut) : (s.record c).length = 16384 := by
  rw [record_eq, List.length_append, length_recordBody s c (length_rtBytes s c), length_leBytes]

/-- Bytes written that do not cover the RT bytes leave the record as it is. -/
theorem record_store' {a : Nat} {bs : List Byte} (hb : bs.length = 16384) (h : c.rt = 0 ∨ overlap c.rt 256 a 16384 = false) (s : State) :
    (s.store' a bs).record c = s.record c := by
  have hrt : (s.store' a bs).rtBytes c = s.rtBytes c := by
    unfold State.rtBytes
    split
    · rfl
    · next h0 => exact bytesAt_putBytes_apart _ _ (by rw [hb]; exact h.resolve_left h0)
  rw [record_eq, hrt]
  rfl

theorem record_putCut (s : State) (d c : Cut) : (s.putCut d).record c = s.record c := rfl

/-- Where the record of a step is kept: a slot of four (R163). -/
def State.recordSlot (s : State) (step : W64) : Nat := s.rdAddr Fld.tierRecBase.base + step.toNat % 4 * 16384

/-- The oldest cut whose seal count is still to come takes it. -/
theorem exec_recordLatch (hhw : s.hw = true) (hh : s.halted = false) (hc : s.cut.cuts.reverse.find? (fun c => !c.sealTaken) = some c)
    (hk : CountWaits s (s.rd Fld.tierCutqSync.sealPair)) {u : State} (hu : s.takesOne (s.rd Fld.tierCutqSync.sealPair) = u) :
    exec .scheduleRecordLatch s = .next (if c.st != .opened then u.putCut { c with sealTaken := true }
      else (u.store' (u.recordSlot c.step) (u.record c)).putCut
        { c with sealTaken := true, record := u.record c, sumpRuns := c.half.isSome && u.cut.dir.any Region.isSump }) := by
  show execScheduleRecordLatch s = _
  rw [execScheduleRecordLatch, hhw, hh, Bool.not_true, Bool.false_or, if_neg Bool.false_ne_true, hc]
  simp only [hk.take]
  rw [show s.putPair _ _ = u from hu]
  by_cases hst : (c.st != .opened) = true
  · rw [if_pos hst, if_pos hst]
  · rw [if_neg hst, if_neg hst]
    rfl

/-- What a record written and kept in its cut leaves: `u` has taken the count. -/
theorem recordWritten (hi : u.Inv) (hf : u.findCut c.seq = some c) {a n : Nat} {r : List Byte} (hn : r.length = n) {d : Cut} (hd : d.seq = c.seq) :
    ((u.store' a r).putCut d).load a n = r ∧ BytesBut a n u ((u.store' a r).putCut d) ∧ ((u.store' a r).putCut d).findCut c.seq = some d ∧
    Changes [.mem, .cut] [] u ((u.store' a r).putCut d) := by
  subst hn
  have hstore := State.store'_keep u a r
  refine ⟨load_store'_same hi a r, BytesBut.store' u r le_rfl, hd ▸ putCut_findCut (s := u.store' a r) (hd ▸ findCut_seqs hf), ?_⟩
  exact (putCut_changes ..).step (by decide) (by simp)
    ((Changes.of_only hstore.only rfl).step (by decide) (by simp) (.refl _ _ u))

theorem recordLatch_latches (hi : s.Inv) (hhw : s.hw = true) (hh : s.halted = false)
    (hc : s.cut.cuts.reverse.find? (fun c => !c.sealTaken) = some c) (hf : s.findCut c.seq = some c)
    (hk : CountWaits s (s.rd Fld.tierCutqSync.sealPair)) (hst : c.st = .opened)
    (hrt : c.rt = 0 ∨ overlap c.rt 256 (s.recordSlot c.step) 16384 = false) : Does .scheduleRecordLatch s fun t =>
      t.load (s.recordSlot c.step) 16384 = t.record c ∧ BytesBut (s.recordSlot c.step) 16384 s t ∧ TookOne (s.rd Fld.tierCutqSync.sealPair) s t ∧
      t.findCut c.seq = some { c with sealTaken := true, record := t.record c, sumpRuns := c.half.isSome && s.cut.dir.any Region.isSump } ∧
      Changes [.mem, .cut, .syn] [] s t := by
  have hui := takesOne_inv hi hk
  have htake : Changes [.syn] [] s (s.takesOne (s.rd Fld.tierCutqSync.sealPair)) := putPair_changes ..
  have htook := takesOne_tookOne s (cutPairs_lt s).2.1
  have hslot : (s.takesOne (s.rd Fld.tierCutqSync.sealPair)).recordSlot c.step = s.recordSlot c.step := rfl
  generalize hu : s.takesOne (s.rd Fld.tierCutqSync.sealPair) = u at hui htake htook hslot
  have hexec := exec_recordLatch hhw hh hc hk hu
  rw [if_neg (by simp [hst]), hslot, show u.cut = s.cut from htake.1.same .cut (by decide)] at hexec
  have hlen := length_record u c
  have hrec (d : Cut) : ((u.store' (s.recordSlot c.step) (u.record c)).putCut d).record c = u.record c := by
    rw [record_putCut, record_store' hlen hrt]
  generalize u.record c = r at hexec hlen hrec
  obtain ⟨hload, hbytes, hfind, hchange⟩ := recordWritten (a := s.recordSlot c.step) hui
    ((findCut_congr (congrArg CutUnit.cuts (htake.1.same .cut (by decide))) _).trans hf) hlen
    (d := { c with sealTaken := true, record := r, sumpRuns := c.half.isSome && s.cut.dir.any Region.isSump }) rfl
  have hrec := hrec { c with sealTaken := true, record := r, sumpRuns := c.half.isSome && s.cut.dir.any Region.isSump }
  generalize (u.store' (s.recordSlot c.step) r).putCut
    { c with sealTaken := true, record := r, sumpRuns := c.half.isSome && s.cut.dir.any Region.isSump } = t at hexec hrec hload hbytes hfind hchange
  refine ⟨t, hexec, hload.trans hrec.symm, fun b => ?_, htook.congr (hchange.1.same .syn (by decide)), by rw [hrec]; exact hfind,
    hchange.step (by decide) (by simp) (htake.step (by decide) (by simp) (.refl _ _ s))⟩
  rw [← show u.mem = s.mem from htake.1.same .mem (by decide)]
  exact hbytes b

theorem recordLatch_skips (hhw : s.hw = true) (hh : s.halted = false)
    (hc : s.cut.cuts.reverse.find? (fun c => !c.sealTaken) = some c) (hf : s.findCut c.seq = some c)
    (hk : CountWaits s (s.rd Fld.tierCutqSync.sealPair)) (hst : c.st ≠ .opened) : Does .scheduleRecordLatch s fun t =>
      t.findCut c.seq = some { c with sealTaken := true } ∧ TookOne (s.rd Fld.tierCutqSync.sealPair) s t ∧ Changes [.cut, .syn] [] s t := by
  have hexec := exec_recordLatch hhw hh hc hk rfl
  rw [if_pos (by simpa using hst)] at hexec
  exact ⟨_, hexec, putCut_findCut (c := { c with sealTaken := true }) (findCut_seqs hf), (takesOne_tookOne s (cutPairs_lt s).2.1).congr rfl,
    (putCut_changes ..).step (by decide) (by simp) ((putPair_changes ..).step (by decide) (by simp) (.refl _ _ s))⟩

/-! ## SUMP_COPY_DONE (R166) -/

/-- A region copied into a Sump half. -/
def State.copySump (s : State) (h : Bool) (m : Memory) (r : Region) : Memory := Memory.putBytes m (sumpKey h r.offset) (s.load r.live r.len)

/-- Every region that overlaps no other stands in the half as it was copied. -/
theorem copySump_holds {h : Bool} {rs : List Region} {m : Memory} (hm : Memory.wf m = true)
    (ha : allPairs (fun a b => !overlap a.offset a.len b.offset b.len) rs = true) :
    (∀ r ∈ rs, Memory.bytesAt (rs.foldl (s.copySump h) m) (sumpKey h r.offset) r.len = s.load r.live r.len) ∧
    ∀ r : Region, (∀ q ∈ rs, overlap r.offset r.len q.offset q.len = false) →
      Memory.bytesAt (rs.foldl (s.copySump h) m) (sumpKey h r.offset) r.len = Memory.bytesAt m (sumpKey h r.offset) r.len := by
  induction rs generalizing m with
  | nil => exact ⟨fun _ hr => absurd hr (List.not_mem_nil), fun _ _ => rfl⟩
  | cons q rs ih =>
    simp only [allPairs, Bool.and_eq_true, List.all_eq_true, Bool.not_eq_true'] at ha
    obtain ⟨hq, hrs⟩ := ha
    have hwf : Memory.wf (s.copySump h m q) = true := Memory.wf_putBytes _ _ hm
    obtain ⟨hin, hout⟩ := ih hwf hrs
    refine ⟨fun r hr => ?_, fun r hr => ?_⟩
    · rcases List.mem_cons.1 hr with rfl | hr
      · have hrise : rising m = true := by
          simp only [Memory.wf, Bool.and_eq_true] at hm
          exact hm.1
        have hsame := Memory.bytesAt_putBytes_same (sumpKey h r.offset) (s.load r.live r.len) hrise
        rw [length_load] at hsame
        exact (hout r hq).trans hsame
      · exact hin r hr
    · rw [List.foldl_cons, hout r fun p hp => hr p (List.mem_cons_of_mem _ hp)]
      refine bytesAt_putBytes_apart _ _ ?_
      have := hr q List.mem_cons_self
      rw [overlap_false_iff] at this ⊢
      rw [length_load, sumpKey, sumpKey]
      omega

theorem exec_sumpCopyDone (hhw : s.hw = true) (hc : s.cut.cuts.find? (fun c => c.sumpRuns && c.st == .opened) = some c) : exec .sumpCopyDone s =
    .next (({ s with sump := (s.cut.dir.filter Region.isSump).foldl (s.copySump (c.half.getD false)) s.sump }.putCut
      { c with sumpRuns := false, sumpDone := true }).produce (s.rd Fld.tierCutqSync.sumpPair) 1 .cutUnit).1 := by
  show execSumpCopyDone s = _
  simp only [execSumpCopyDone, hhw, hc, Bool.not_true, Bool.false_eq_true, if_false]
  rfl

theorem sumpCopyDone_copies (hi : s.Inv) (hhw : s.hw = true) (hc : s.cut.cuts.find? (fun c => c.sumpRuns && c.st == .opened) = some c)
    (hf : s.findCut c.seq = some c)
    (ha : allPairs (fun a b => !overlap a.offset a.len b.offset b.len) (s.cut.dir.filter Region.isSump) = true)
    (hq : s.quiesced = false) (hroom : (s.pair (s.rd Fld.tierCutqSync.sumpPair)).p - (s.pair (s.rd Fld.tierCutqSync.sumpPair)).c <
      (s.pair (s.rd Fld.tierCutqSync.sumpPair)).depth) (hmax : (s.pair (s.rd Fld.tierCutqSync.sumpPair)).p + 1 < 2 ^ 48)
    (hw : s.syn.waiters = []) (hp : s.syn.pends = []) : Does .sumpCopyDone s fun t =>
      (∀ r ∈ s.cut.dir.filter Region.isSump, Memory.bytesAt t.sump (sumpKey (c.half.getD false) r.offset) r.len = s.load r.live r.len) ∧
      t.findCut c.seq = some { c with sumpRuns := false, sumpDone := true } ∧
      t.pair (s.rd Fld.tierCutqSync.sumpPair) =
        { s.pair (s.rd Fld.tierCutqSync.sumpPair) with p := (s.pair (s.rd Fld.tierCutqSync.sumpPair)).p + 1 } ∧
      Changes [.sump, .cut, .syn] [] s t := by
  have hexec := exec_sumpCopyDone hhw hc
  obtain ⟨hcopies, -⟩ := copySump_holds (s := s) (h := c.half.getD false) hi.sump ha
  generalize hm : (s.cut.dir.filter Region.isSump).foldl (s.copySump (c.half.getD false)) s.sump = m at hexec hcopies
  generalize hd : ({ c with sumpRuns := false, sumpDone := true } : Cut) = d at hexec
  have hsump : Changes [.sump] [] s { s with sump := m } := .of_only (fun p => by
    by_cases hp : p = .sump
    · exact .inl (by simp [hp])
    · exact .inr (by cases p <;> trivial)) rfl
  generalize hv : ({ s with sump := m } : State).putCut d = v at hexec
  have hvc : Changes [.sump, .cut] [] s v := hv ▸ (putCut_changes ..).step (by decide) (by simp) (hsump.step (by decide) (by simp) (.refl _ _ s))
  have hsyn : v.syn = s.syn := hvc.1.same .syn (by decide)
  have hpair (k : Nat) : v.pair k = s.pair k := by rw [State.pair, hsyn, State.pair]
  have hquiet : v.quiesced = false := by
    rw [State.quiesced, State.rdB, rd_congr (t := v) (s := s) (by rw [← hv]; rfl)]
    exact hq
  rw [produce_room hquiet (by rw [hsyn]; exact hw) (by rw [hsyn]; exact hp) (by rw [hpair]; exact hroom) (by rw [hpair]; exact hmax), hpair] at hexec
  refine ⟨_, hexec, fun r hr => ?_, ?_, putPair_pair_same _ (cutPairs_lt s).2.2 _, (putPair_changes ..).step (by decide) (by simp)
    (hvc.step (by decide) (by simp) (.refl _ _ s))⟩
  · refine Eq.trans ?_ (hcopies r hr)
    rw [← hv]
    exact congrArg (Memory.bytesAt · _ _) rfl
  · have hfind : v.findCut d.seq = some d := by
      rw [← hv]
      exact putCut_findCut (s := { s with sump := m }) (by rw [← hd]; exact findCut_seqs hf)
    have hseq : c.seq = d.seq := by rw [← hd]
    exact hseq ▸ hfind

/-! ## CUT_SEAL (R165) -/

/-- The regions that the capture half holds, and the bytes that must have landed. -/
def State.filled (s : State) : List Region := s.cut.dir.filter (fun r => !r.isSump)
def State.wanted (s : State) : Nat := s.filled.foldl (fun n r => n + r.used) 0

/-- Tails of regions made zero. -/
def State.zeroTails (s : State) (h : Bool) (rs : List Region) : State := rs.foldl (fun (s : State) r => s.zeroTail h r) s

theorem zeroTails_keep (s : State) (h : Bool) (rs : List Region) : Keep ([.mem], 0) s (s.zeroTails h rs) :=
  .foldl (.refl _ s) fun _ _ => State.zeroTail_keep ..

theorem battBase_congr (hr : t.regs = s.regs) (h : Bool) : t.battBase h = s.battBase h := by
  simp only [State.battBase, State.rdAddr, rd_congr hr]

/-- What is zero, or in one of the tails, is zero afterwards. -/
theorem zeroTails_zero (hi : s.Inv) (h : Bool) (rs : List Region) (x : Nat) (hx : Memory.byteAt s.mem x = 0 ∨
    ∃ r ∈ rs, s.battBase h + r.offset + r.used ≤ x ∧ x < s.battBase h + r.offset + r.used + (r.len - r.used)) :
    Memory.byteAt (s.zeroTails h rs).mem x = 0 := by
  induction rs generalizing s with
  | nil => exact hx.resolve_right (by simp)
  | cons q rs ih =>
    refine ih ((State.zeroTail_keep s h q).inv hi) ?_
    rw [battBase_congr (t := s.zeroTail h q) rfl]
    rcases hx with hx | ⟨r, hr, hx⟩
    · exact .inl (byteAt_putBytes_zeros hi.mem (.inl hx))
    · rcases List.mem_cons.1 hr with rfl | hr
      · exact .inl (byteAt_putBytes_zeros hi.mem (.inr hx))
      · exact .inr ⟨r, hr, hx⟩

/-- The cut that felts from its seal on. -/
def State.sealedCut (s : State) (c : Cut) : Cut :=
  { c with
    st := .felting, skippedStep := s.ful.gate.skip && s.ful.gate.step == c.step, sealSec := BitVec.ofNat 64 s.tim.domA.sec,
    sealNs := BitVec.ofNat 32 s.tim.domA.ns }

/-- The bytes that the cut's half received, if it has one, are those wanted. -/
def Cut.complete (c : Cut) (want : Nat) : Prop := c.half = none ∨ c.bytes = want

theorem exec_cutSeal_wrong (hhw : s.hw = true) (hh : s.halted = false)
    (hc : s.cut.cuts.reverse.find? (fun c => c.st == .opened && c.sealTaken && !c.record.isEmpty && !c.sumpRuns) = some c)
    (hhalf : c.half.isSome = true) (hb : c.bytes ≠ s.wanted) : exec .cutSeal s =
      settled (.next (s.cutFinal c.seq .abandoned (if c.bytes < s.wanted then St.lengthShort else St.lengthLong) true)) := by
  refine congrArg settled (?_ : doCutSeal s = _)
  have hlong : ¬ c.bytes < s.wanted → s.wanted < c.bytes := by omega
  rw [doCutSeal, hhw, hh, Bool.not_true, Bool.false_or, if_neg Bool.false_ne_true, hc]
  show (if c.half.isSome && decide (c.bytes < s.wanted) then _ else if c.half.isSome && decide (s.wanted < c.bytes) then _ else _) = _
  by_cases hs : c.bytes < s.wanted
  · simp [hhalf, hs]
  · simp [hhalf, hs, hlong hs]

/-- The tails of the half are zero, and it felts. -/
def State.sealsHalf (s : State) (c : Cut) : State :=
  match c.half with
  | some h => (s.zeroTails h s.filled).putHalf h .felting
  | none => s

theorem exec_cutSeal (hhw : s.hw = true) (hh : s.halted = false)
    (hc : s.cut.cuts.reverse.find? (fun c => c.st == .opened && c.sealTaken && !c.record.isEmpty && !c.sumpRuns) = some c)
    (hb : c.complete s.wanted) (hk : c.keep ≠ some false) : exec .cutSeal s =
      settled (.next ((s.sealsHalf c).putCut ((s.sealsHalf c).sealedCut c))) := by
  refine congrArg settled (?_ : doCutSeal s = _)
  have hshort : ¬ (c.half.isSome && decide (c.bytes < s.wanted)) = true := by rcases hb with h | h <;> simp [h]
  have hlong : ¬ (c.half.isSome && decide (s.wanted < c.bytes)) = true := by rcases hb with h | h <;> simp [h]
  have hkeep : ¬ (c.keep == some false) = true := by simpa using hk
  rw [doCutSeal, hhw, hh, Bool.not_true, Bool.false_or, if_neg Bool.false_ne_true, hc]
  exact (if_neg hshort).trans ((if_neg hlong).trans (if_neg hkeep))

/-- A cut whose bytes are complete felts from its seal on, the tails in its half zero. -/
theorem cutSeal_felts {b : Bool} (hi : s.Inv) (hhw : s.hw = true) (hh : s.halted = false)
    (hc : s.cut.cuts.reverse.find? (fun c => c.st == .opened && c.sealTaken && !c.record.isEmpty && !c.sumpRuns) = some c)
    (hf : s.findCut c.seq = some c) (hhalf : c.half = some b) (hb : c.bytes = s.wanted) (hk : c.keep ≠ some false) : DoesThen .cutSeal s fun t =>
      (t.findCut c.seq).map (fun c => (c.st, c.half, c.sealSec.toNat)) = some (.felting, some b, s.tim.domA.sec % 2 ^ 64) ∧ t.half b = .felting ∧
      (∀ r ∈ s.filled, t.load (s.battBase b + r.offset + r.used) (r.len - r.used) = zeros (r.len - r.used)) ∧ Changes [.cut, .mem] [] s t := by
  refine .of_settled (exec_cutSeal hhw hh hc (.inr hb) hk) ?_
  have hseal : s.sealsHalf c = (s.zeroTails b s.filled).putHalf b .felting := by rw [State.sealsHalf, hhalf]
  have htails := zeroTails_keep s b s.filled
  have hput := State.putHalf_keep (s.zeroTails b s.filled) b .felting
  have hzero : ∀ r ∈ s.filled, (s.zeroTails b s.filled).load (s.battBase b + r.offset + r.used) (r.len - r.used) = zeros (r.len - r.used) :=
    fun r hr => bytesAt_zeros fun x h1 h2 => zeroTails_zero hi b s.filled x (.inr ⟨r, hr, h1, h2⟩)
  have hmem : (s.sealsHalf c).mem = (s.zeroTails b s.filled).mem := by
    rw [hseal]
    exact hput.same .mem (by decide)
  have hkeep : Keep ([.cut, .mem], 0) s (s.sealsHalf c) := by
    rw [hseal]
    exact hput.step (by decide) (htails.mono (by decide))
  have hcuts : (s.sealsHalf c).cut.cuts = s.cut.cuts := by
    rw [hseal, putHalf_cuts]
    exact congrArg CutUnit.cuts (htails.same .cut (by decide))
  have hbhalf : (s.sealsHalf c).half b = .felting := by
    rw [hseal]
    exact putHalf_half_same ..
  generalize s.sealsHalf c = v at hmem hkeep hcuts hbhalf
  have hfind : (v.putCut (v.sealedCut c)).findCut c.seq = some (v.sealedCut c) :=
    putCut_findCut (c := v.sealedCut c) (by rw [seqs_congr hcuts]; exact findCut_seqs hf)
  refine ⟨?_, hbhalf, fun r hr => ?_, (putCut_changes ..).step (by decide) (by simp)
    ((Changes.of_only hkeep.only (hkeep.same .regs (by decide))).step (by decide) (by simp) (.refl _ _ s))⟩
  · rw [hfind, Option.map_some, State.sealedCut, hhalf, BitVec.toNat_ofNat, show v.tim = s.tim from hkeep.same .tim (by decide)]
  · rw [← hzero r hr]
    exact load_congr hmem ..

theorem cutSeal_felts_battless (hhw : s.hw = true) (hh : s.halted = false)
    (hc : s.cut.cuts.reverse.find? (fun c => c.st == .opened && c.sealTaken && !c.record.isEmpty && !c.sumpRuns) = some c)
    (hf : s.findCut c.seq = some c) (hhalf : c.half = none) (hk : c.keep ≠ some false) : DoesThen .cutSeal s fun t =>
      (t.findCut c.seq).map (fun c => (c.st, c.half)) = some (.felting, none) ∧ Changes [.cut] [] s t := by
  refine .of_settled (exec_cutSeal hhw hh hc (.inl hhalf) hk) ?_
  rw [show s.sealsHalf c = s by rw [State.sealsHalf, hhalf]]
  have hfind : (s.putCut (s.sealedCut c)).findCut c.seq = some (s.sealedCut c) := putCut_findCut (c := s.sealedCut c) (findCut_seqs hf)
  exact ⟨by rw [hfind, Option.map_some, State.sealedCut, hhalf], putCut_changes ..⟩

/-- A cut whose half has received too few bytes, or too many, is abandoned. -/
theorem cutSeal_abandons (hi : s.Inv) (hhw : s.hw = true) (hh : s.halted = false)
    (hc : s.cut.cuts.reverse.find? (fun c => c.st == .opened && c.sealTaken && !c.record.isEmpty && !c.sumpRuns) = some c)
    (hf : s.findCut c.seq = some c) (hhalf : c.half.isSome = true) (hb : c.bytes ≠ s.wanted) : DoesThen .cutSeal s fun t =>
      CutEnded s c .abandoned (if c.bytes < s.wanted then St.lengthShort else St.lengthLong) t ∧ FieldsBut (signalFields ++ cutEndFields) s t := by
  have hopen : c.st = .opened := by
    have := List.find?_some hc
    simp only [Bool.and_eq_true, beq_iff_eq] at this
    exact this.1.1.1
  exact .of_settled (exec_cutSeal_wrong hhw hh hc hhalf hb) ⟨cutFinal_ended hi hf (by rw [hopen]; rfl), cutFinal_fields hi _ _ _ _⟩

/-! ## The whole -/

theorem countWaits_of {k : Nat} (h : s.quiesced = false ∧ (s.pair k).c < (s.pair k).p ∧ (s.pair k).depth ≠ 0 ∧ s.syn.waiters = [] ∧ s.syn.pends = []) :
    CountWaits s k := by
  obtain ⟨hq, hc, hd, hw, hp⟩ := h
  exact ⟨hq, hc, hd, hw, hp⟩

/-- A state in which only a count has been consumed opens the same cut. -/
structure SameDescriptor (s u : State) : Prop where
  cut : u.cut = s.cut
  desc : u.cutDescriptor = s.cutDescriptor
  ok : u.cutDescOk = s.cutDescOk
  regs : u.regs = s.regs
  slices : u.slices = s.slices
  outbox : u.outbox = s.outbox

theorem takesOne_sameDescriptor (s : State) (k : Nat) : SameDescriptor s (s.takesOne k) := ⟨rfl, rfl, rfl, rfl, rfl, rfl⟩

namespace SameDescriptor

theorem half (h : SameDescriptor s u) : u.cutHalf = s.cutHalf := by rw [State.cutHalf, h.desc, State.cutHalf]

theorem step (h : SameDescriptor s u) : u.cutStep = s.cutStep := by rw [State.cutStep, h.desc, State.cutStep]

theorem gen (h : SameDescriptor s u) : u.rd Fld.tierCutGen.gen = s.rd Fld.tierCutGen.gen := rd_congr h.regs _

theorem halves (h : SameDescriptor s u) (b : Bool) : u.half b = s.half b := half_congr (by rw [h.cut]) (by rw [h.cut]) b

theorem valid (h : SameDescriptor s u) : u.rdB Fld.tierPartner.valid = s.rdB Fld.tierPartner.valid := by rw [State.rdB, rd_congr h.regs, State.rdB]

theorem notice (h : SameDescriptor s u) : (u.toPartner Ty.cutNotice (cutFrame u.newCut.step u.newCut.gen 0 (leBytes 8 u.feltBytes))).outbox =
    (s.toPartner Ty.cutNotice (cutFrame s.cutStep (BitVec.ofNat 8 (s.rd Fld.tierCutGen.gen)) 0 (leBytes 8 s.feltBytes))).outbox := by
  have hnew : u.newCut.step = s.cutStep ∧ u.newCut.gen = BitVec.ofNat 8 (s.rd Fld.tierCutGen.gen) := by
    rw [State.newCut, h.step, h.gen]
    exact ⟨rfl, rfl⟩
  rw [hnew.1, hnew.2, State.feltBytes, h.cut, ← State.feltBytes]
  exact toPartner_outbox_congr (fs := []) h.slices h.outbox (.of_regs h.regs) rfl ..

end SameDescriptor

/-- Settles O38: CUT_OPEN by the way its descriptor goes, then the latch, the copies and the seal. -/
theorem cutOpenSeal : Obligations.CutOpenSeal := by
  unfold Obligations.CutOpenSeal
  intro s hi hhw hh
  dsimp only
  refine ⟨fun hs => .of_settled (exec_cutOpen_idle hs) rfl, fun hs hk hno => ?_, fun c hc hf hk => ⟨fun hst hrt => ?_, fun hst => ?_⟩,
    fun c hc hf ha _ hq hroom hmax hw hp => ?_, fun c hc hf => ⟨fun b hhalf hb hkeep => ?_, fun hhalf hkeep => ?_, fun hhalf hb => ?_, fun hhalf hb => ?_⟩⟩
  · have hk := countWaits_of hk
    have hexec := exec_cutOpen hhw hh hs hk
    have hui := takesOne_inv hi hk
    have htook := takesOne_tookOne s (cutPairs_lt s).1
    have htake : Changes [.syn] [] s (s.takesOne (s.rd Fld.tierCutqSync.issuePair)) := putPair_changes ..
    have hsame := takesOne_sameDescriptor s (s.rd Fld.tierCutqSync.issuePair)
    have hmap : (s.takesOne (s.rd Fld.tierCutqSync.issuePair)).map = s.map := rfl
    generalize s.takesOne (s.rd Fld.tierCutqSync.issuePair) = u at hexec hui htook htake hsame hmap
    refine ⟨fun hok he hv hp => .of_settled hexec ?_, fun hok he hs hv => .of_settled hexec ?_, fun hok he hs => .of_settled hexec ?_,
      fun hok => .of_settled hexec ?_⟩
    · have h := cutOpen_captures (u := u) hui (by rw [hsame.ok, hsame.desc, hsame.cut]; exact hok) (by rw [hsame.halves, hsame.half]; exact he)
        (by rw [hsame.valid]; exact hv) (by rw [hsame.cut]; exact hp)
      rw [hsame.notice, hsame.half, hsame.step, hsame.gen, hsame.desc, hsame.cut, hsame.halves] at h
      obtain ⟨hfind, hsyn, hcap, hoth, hnext, hout, hch⟩ := h
      exact ⟨hfind, htook.congr hsyn, hcap, hoth, hnext, hout, hch.step (by decide) (by simp) (htake.step (by decide) (by simp) (.refl _ _ s))⟩
    · have h := cutOpen_battless (u := u) hui (by rw [hsame.ok, hsame.desc, hsame.cut]; exact hok) (by rw [hsame.halves, hsame.half]; exact he)
        (by rw [hsame.cut]; exact hs) (by rw [hsame.valid]; exact hv)
      rw [hsame.half, hsame.step, hsame.cut, hsame.halves, rd_congr hsame.regs] at h
      obtain ⟨hfind, hsyn, hnext, hhalf, hskip, hcount, hch⟩ := h
      exact ⟨hfind, htook.congr hsyn, hnext, hhalf, hskip, hcount, hch.step (by decide) (by simp) (htake.step (by decide) (by simp) (.refl _ _ s))⟩
    · obtain ⟨hend, hskip, hhalf⟩ := cutOpen_skips (u := u) hui (by rw [hsame.ok, hsame.desc, hsame.cut]; exact hok)
        (by rw [hsame.halves, hsame.half]; exact he) (by rw [hsame.cut]; exact hs)
      rw [hsame.half, hsame.halves] at hhalf
      have hend : CutEnded s u.newCut .skipped St.cutSkipped _ := CutEnded.of_fields hend htake.2 (by decide)
      have hend : CutEnded s { seq := s.cut.nextSeq, step := s.cutStep, gen := BitVec.ofNat 8 (s.rd Fld.tierCutGen.gen) } .skipped St.cutSkipped _ :=
        CutEnded.of_alike hend (congrArg CutUnit.nextSeq hsame.cut).symm hsame.step.symm (congrArg (BitVec.ofNat 8) hsame.gen.symm) rfl
      exact ⟨hend, hskip, hhalf⟩
    · have h := cutOpen_refuses (u := u) (by rw [hsame.cut, findCut_congr (congrArg CutUnit.cuts hsame.cut)]; exact hno)
        (by rw [hsame.ok, hsame.desc, hsame.cut]; exact hok)
      rw [hsame.half, hsame.halves, hsame.cut, hmap] at h
      exact h
  · exact recordLatch_latches hi hhw hh hc hf (countWaits_of hk) hst hrt
  · exact recordLatch_skips hhw hh hc hf (countWaits_of hk) hst
  · exact sumpCopyDone_copies hi hhw hc hf ha hq hroom hmax hw hp
  · exact cutSeal_felts hi hhw hh hc hf hhalf hb hkeep
  · exact cutSeal_felts_battless hhw hh hc hf hhalf hkeep
  · have h := cutSeal_abandons hi hhw hh hc hf hhalf (Nat.ne_of_lt hb)
    rw [if_pos (show c.bytes < s.wanted from hb)] at h
    exact h
  · have h := cutSeal_abandons hi hhw hh hc hf hhalf (Nat.ne_of_gt hb)
    rw [if_neg (show ¬ c.bytes < s.wanted from Nat.lt_asymm hb)] at h
    exact h

end Sys2Proof.Machine
end

section
/-! Agreement and commit of a cut (R170 to R174): the Felt data and the commit record sent, the keep report, the digests and their watchdogs. -/
namespace Sys2Proof.Machine

variable {s t u : State} {c d : Cut} {seq : W32} {n : Fin 42} {f : Frame} {i : Nat}

/-! ## Felt data sent -/

/-- A property of cuts that neither Felt data sent nor a commit record ends. -/
structure Cut.Outlasts (Q : Cut → Prop) : Prop where
  out : ∀ d o, Q d → Q { d with out := d.out ++ [o] }
  commit : ∀ d, Q d → Q { d with st := .committing, comSent := true }
  com : ∀ d, Q d → Q { d with comSent := true }

/-- Between two states data of cuts has been sent. -/
structure DataSent (s t : State) : Prop where
  only : Only [.red, .cut, .freeCtr, .outbox] s t
  regs : t.regs = s.regs
  seqs : t.seqs = s.seqs
  each : ∀ Q : Cut → Prop, Cut.Outlasts Q → s.EachCut Q → t.EachCut Q

theorem DataSent.refl (s : State) : DataSent s s := ⟨.refl _ s, rfl, rfl, fun _ _ => id⟩

theorem DataSent.trans (h1 : DataSent s t) (h2 : DataSent t u) : DataSent s u :=
  ⟨h2.only.step (fun _ => id) h1.only, h2.regs.trans h1.regs, h2.seqs.trans h1.seqs, fun Q hQ h => h2.each Q hQ (h1.each Q hQ h)⟩

theorem DataSent.of_keep {k : Touch} (h : Keep k s t) (hs : sub k ([.red, .freeCtr, .outbox], 0) = true) : DataSent s t := by
  have h := h.mono hs
  have hcut : t.cut = s.cut := h.same .cut (by decide)
  exact ⟨h.only.step (by decide) (.refl _ s), h.same .regs (by decide), seqs_congr (by rw [hcut]), fun Q _ hQ => hQ.congr (by rw [hcut])⟩

theorem dataSent_putCut (hc : ∀ Q, Cut.Outlasts Q → s.EachCut Q → Q c) : DataSent s (s.putCut c) :=
  ⟨(State.putCut_keep s c).only.step (by decide) (.refl _ s), rfl, putCut_seqs s c, fun Q hQ h => h.putCut (hc Q hQ h)⟩

/-- Data of one cut has been sent, and awaits its acknowledgement. -/
structure DataWaits (seq : W32) (s t : State) : Prop where
  sent : DataSent s t
  waits : seq ∈ s.seqs → t.EachCut fun d => d.seq = seq → d.out ≠ []

theorem outlasts_waits (seq : W32) : Cut.Outlasts fun d => d.seq = seq → d.out ≠ [] :=
  ⟨fun _ _ _ _ => by simp, fun _ => id, fun _ => id⟩

theorem DataWaits.then_dataSent (h : DataWaits seq s t) (h2 : DataSent t u) : DataWaits seq s u :=
  ⟨h.sent.trans h2, fun hs => h2.each _ (outlasts_waits seq) (h.waits hs)⟩

theorem DataWaits.after (h : DataWaits seq t u) (h1 : DataSent s t) : DataWaits seq s u :=
  ⟨h1.trans h.sent, fun hs => h.waits (h1.seqs ▸ hs)⟩

/-- Fragments sent one by one. -/
theorem dataWaits_foldl {α : Type} {g : State → α → State} (hg : ∀ u a, DataWaits seq u (g u a)) (l : List α) :
    DataSent s (l.foldl g s) ∧ (l ≠ [] → DataWaits seq s (l.foldl g s)) := by
  induction l generalizing s with
  | nil => exact ⟨.refl s, fun h => absurd rfl h⟩
  | cons a l ih =>
    have hall := (hg s a).then_dataSent (ih (s := g s a)).1
    exact ⟨hall.sent, fun _ => hall⟩

theorem feltPorts_unit_pos (s : State) : 0 < s.feltPorts.2 := by
  unfold State.feltPorts
  split <;> exact Nat.succ_pos _

theorem feltSend_waits (s : State) (seq : W32) (off : Nat) (bs : List Byte) (commit : Bool) (hb : bs ≠ []) :
    DataWaits seq s (s.feltSend seq off bs commit) := by
  have hfrags : (bs.length + s.feltPorts.2 - 1) / s.feltPorts.2 ≠ 0 := by
    have hpos := feltPorts_unit_pos s
    have hlen := List.length_pos_iff.2 hb
    exact (Nat.div_pos (by omega) hpos).ne'
  unfold State.feltSend
  dsimp only
  refine ((dataWaits_foldl (fun u i => ?_) _).2 (by simpa using hfrags)).after (.of_keep (State.allocTags_keep _ s) (by decide))
  split
  · next hnone => exact ⟨.refl u, fun hs => by simpa [hnone] using findCut_of_each hs (Q := fun _ => True) fun _ _ _ => trivial⟩
  · next c hc =>
    obtain ⟨hmem, hseq⟩ := findCut_mem hc
    have hsend (p : Option Nat) (dst : Dest) (fr : Frame) : DataSent u (u.send p dst Ty.feltData fr) := .of_keep (State.send_keep ..) (by decide)
    refine ⟨(hsend ..).trans (dataSent_putCut fun Q hQ h => hQ.out c _ (h c ?_)), fun _ d hd hs => ?_⟩
    · rw [(State.send_keep ..).same .cut (by decide)]
      exact hmem
    · rw [putCut_each _ _ d hd (hs.trans hseq.symm)]
      simp

/-! ## The commit record (R172, R217) -/

theorem commitRecord_ne_nil (s : State) (c : Cut) : s.commitRecord c ≠ [] := by
  have hlen : 8 ≤ (s.commitRecord c).length := by
    simp only [State.commitRecord, List.length_append, length_leBytes]
    omega
  intro h
  simp [h] at hlen

theorem feltPorts_congr (hr : t.regs = s.regs) : t.feltPorts = s.feltPorts := by
  have hrd : t.rd = s.rd := funext (rd_congr hr)
  rw [State.feltPorts, State.myRack, hrd, State.feltPorts, State.myRack]

theorem canFelt_congr (hr : t.regs = s.regs) (hd : t.red = s.red) : t.canFelt = s.canFelt := by rw [State.canFelt, feltPorts_congr hr, hd, State.canFelt]

theorem replOn_congr (hr : t.regs = s.regs) : t.replOn = s.replOn := by simp only [State.replOn, State.rdB, rd_congr hr]

theorem tryCommit_sent (s : State) (seq : W32) : DataSent s (s.tryCommit seq) := by
  have hrecord (u : State) (c : Cut) := (feltSend_waits u seq (s.tBytes + 16384) (s.commitRecord c) true (commitRecord_ne_nil s c)).sent
  unfold State.tryCommit
  split
  · exact .refl s
  · next c hc =>
    have hmem := (findCut_mem hc).1
    dsimp only
    split_ifs
    · exact (dataSent_putCut fun Q hQ h => hQ.commit c (h c hmem)).trans (hrecord _ c)
    · exact (dataSent_putCut fun Q hQ h => hQ.com c (h c hmem)).trans (hrecord _ c)
    · exact .refl s

/-- All that R172 asks of a cut holds. -/
structure CanCommit (s : State) (c : Cut) : Prop where
  agreed : (c.st = .felting ∧ s.replOn = false) ∨ (c.st = .agreeing ∧ c.agreed = true)
  felted : c.feltEnd.isSome = true
  manifest : c.manSent = true
  acked : c.out = []
  kept : c.keep = some true
  ports : s.canFelt = true

/-- The commit record of such a cut goes out. -/
theorem tryCommit_commits (h : s.findCut seq = some c) (hc : CanCommit s c) :
    ((s.tryCommit seq).findCut seq).map (fun d => (d.st, d.comSent, !d.out.isEmpty)) = some (CutState.committing, true, true) := by
  obtain ⟨hagreed, hfelted, hman, hout, hkeep, hports⟩ := hc
  obtain ⟨-, hseq⟩ := findCut_mem h
  have hready : ((c.st == .felting && !s.replOn) || (c.st == .agreeing && c.agreed)) = true := by
    rcases hagreed with ⟨h1, h2⟩ | ⟨h1, h2⟩ <;> simp [h1, h2]
  have hcommit : s.tryCommit seq =
      (s.putCut { c with st := .committing, comSent := true }).feltSend seq (s.tBytes + 16384) (s.commitRecord c) true := by
    simp only [State.tryCommit, h, hready, hfelted, hman, hout, hkeep, hports]
    rfl
  have hseqs : seq ∈ (s.putCut { c with st := .committing, comSent := true }).seqs := by
    rw [putCut_seqs]
    exact findCut_seqs h
  have hwaits := feltSend_waits (s.putCut { c with st := .committing, comSent := true }) seq (s.tBytes + 16384) (s.commitRecord c) true
    (commitRecord_ne_nil s c)
  have hst : ((s.putCut { c with st := .committing, comSent := true }).feltSend seq (s.tBytes + 16384) (s.commitRecord c) true).EachCut
      fun d => d.seq = seq → (d.st = .committing ∧ d.comSent = true) := by
    refine hwaits.sent.each _ ⟨fun _ _ => id, fun _ _ _ => ⟨rfl, rfl⟩, fun _ h hs => ⟨(h hs).1, rfl⟩⟩ fun d hd hs => ?_
    rw [putCut_each _ _ d hd (hs.trans hseq.symm)]
    exact ⟨rfl, rfl⟩
  rw [hcommit]
  refine findCut_map_of_each (by rw [hwaits.sent.seqs]; exact hseqs) fun d hd hs => ?_
  obtain ⟨h1, h2⟩ := hst d hd hs
  have h3 := hwaits.waits hseqs d hd hs
  simp [h1, h2, h3]

/-! ## KEEP_REPORT (R173) -/

theorem exec_keepReport_stale (hh : s.hears n Ty.keepReport f = true) (hc : s.cutOf (frameStep f) (BitVec.ofNat 8 f.offset.toNat) = some c)
    (hs : c.st.early = false ∨ c.keep.isSome = true) : exec (.keepReport n f) s = settled (.next (s.staleAt n)) := by
  have hs : (!c.st.early || c.keep.isSome) = true := by rcases hs with h | h <;> simp [h]
  refine congrArg settled (?_ : doKeepReport n f s = _)
  rw [doKeepReport, recv_hears hh, hc]
  simp only [hs, if_true]

/-- The report is noted; a complete one lets the commit record go, and an incomplete one ends the cut. -/
theorem exec_keepReport (hh : s.hears n Ty.keepReport f = true) (hc : s.cutOf (frameStep f) (BitVec.ofNat 8 f.offset.toNat) = some c)
    (he : c.st.early = true) (hk : c.keep = none) : exec (.keepReport n f) s = settled (.next
      (if bitAt (leNat f.payload) 0 then ((s.putCut { c with keep := some (bitAt (leNat f.payload) 0) }).mapWritten c.seq).tryCommit c.seq
       else if c.st == .felting || c.st == .agreeing then
        (s.putCut { c with keep := some (bitAt (leNat f.payload) 0) }).cutFinal c.seq .sedgeIncomplete St.sedgeIncomplete true
       else s.putCut { c with keep := some (bitAt (leNat f.payload) 0) })) := by
  refine congrArg settled (?_ : doKeepReport n f s = _)
  rw [doKeepReport, recv_hears hh, hc]
  simp only [he, hk, Option.isSome_none, Bool.not_true, Bool.or_self, Bool.false_eq_true, if_false]

theorem keepReport_complete (hh : s.hears n Ty.keepReport f = true) (hc : s.cutOf (frameStep f) (BitVec.ofNat 8 f.offset.toNat) = some c)
    (hf : s.findCut c.seq = some c) (he : c.st.early = true) (hk : c.keep = none) (hw : bitAt (leNat f.payload) 0 = true) :
    DoesThen (.keepReport n f) s fun t =>
      (t.findCut c.seq).map (·.keep) = some (some true) ∧
      (((c.st = .felting ∧ s.replOn = false) ∨ (c.st = .agreeing ∧ c.agreed = true)) → c.feltEnd.isSome = true → c.manSent = true →
        c.out = [] → s.canFelt = true → (t.findCut c.seq).map (fun d => (d.st, d.comSent, !d.out.isEmpty)) = some (CutState.committing, true, true)) ∧
      Changes [.red, .cut, .map, .freeCtr, .outbox] [] s t := by
  have hexec := exec_keepReport hh hc he hk
  rw [hw, if_pos rfl] at hexec
  refine .of_settled hexec ?_
  have hput : Keep ([.cut], 0) s (s.putCut { c with keep := some true }) := State.putCut_keep ..
  have hmap := State.mapWritten_keep (s.putCut { c with keep := some true }) c.seq
  have hall : Keep ([.cut, .map], 0) s ((s.putCut { c with keep := some true }).mapWritten c.seq) := hmap.step (by decide) (hput.mono (by decide))
  have hcuts : ((s.putCut { c with keep := some true }).mapWritten c.seq).cut.cuts = (s.putCut { c with keep := some true }).cut.cuts :=
    congrArg CutUnit.cuts (hmap.same .cut (by decide))
  have hfind : ((s.putCut { c with keep := some true }).mapWritten c.seq).findCut c.seq = some { c with keep := some true } := by
    rw [findCut_congr hcuts]
    exact putCut_findCut (c := { c with keep := some true }) (findCut_seqs hf)
  have hkeep : ((s.putCut { c with keep := some true }).mapWritten c.seq).EachCut fun d => d.seq = c.seq → d.keep = some true := by
    refine State.EachCut.congr (fun d hd hs => ?_) hcuts
    rw [putCut_each _ _ d hd hs]
  generalize (s.putCut { c with keep := some true }).mapWritten c.seq = u at hall hfind hkeep
  have hregs : u.regs = s.regs := hall.same .regs (by decide)
  have hsent := tryCommit_sent u c.seq
  refine ⟨findCut_map_of_each (by rw [hsent.seqs]; exact findCut_seqs hfind) (hsent.each _ ⟨fun _ _ => id, fun _ => id, fun _ => id⟩ hkeep),
    fun hagreed hfelted hman hout hports => tryCommit_commits hfind ⟨?_, hfelted, hman, hout, rfl, ?_⟩,
    .of_only (hsent.only.step (by decide) (hall.only.step (by decide) (.refl _ s))) (hsent.regs.trans hregs)⟩
  · rw [replOn_congr hregs]
    exact hagreed
  · rw [canFelt_congr hregs (hall.same .red (by decide))]
    exact hports

/-- The end of a cut from a state with the same registers, in which its record differs only in what the end does not look at. -/
theorem cutFinal_ends_from {st : CutState} {x : Status} {veto : Bool} (hi : u.Inv) (hr : u.regs = s.regs) (hf : u.findCut c.seq = some d)
    (hst : d.st.isFinal = false) (hd : d.step = c.step ∧ d.gen = c.gen ∧ d.half = c.half ∧ d.peat = c.peat) :
    CutEnded s c st x (u.cutFinal c.seq st x veto) ∧ FieldsBut (signalFields ++ cutEndFields) s (u.cutFinal c.seq st x veto) := by
  obtain ⟨hstep, hgen, hhalf, hpeat⟩ := hd
  have hseq := (findCut_mem hf).2
  obtain ⟨hrec, hlast, hcount, hleft, hmap⟩ : CutEnded s d st x (u.cutFinal c.seq st x veto) :=
    CutEnded.of_fields (fs := []) (cutFinal_ended hi hf hst) (.of_regs hr) rfl
  have hfields : FieldsBut (signalFields ++ cutEndFields) s u := .of_regs hr
  refine ⟨⟨hseq ▸ hrec, hlast, hcount, fun h hh hs hp => hleft h (hhalf.trans hh) hs (by rw [hpeat]; exact hp), fun hs => ?_⟩,
    hfields.trans (cutFinal_fields hi _ _ _ _)⟩
  rw [← hstep, ← hgen]
  exact hmap hs

theorem putCut_inv (hi : s.Inv) (c : Cut) : (s.putCut c).Inv := (State.putCut_keep s c).inv hi

theorem felted_isFinal {st : CutState} (h : st = .felting ∨ st = .agreeing) : st.isFinal = false := by rcases h with h | h <;> rw [h] <;> rfl

theorem keepReport_incomplete (hi : s.Inv) (hh : s.hears n Ty.keepReport f = true)
    (hc : s.cutOf (frameStep f) (BitVec.ofNat 8 f.offset.toNat) = some c) (hf : s.findCut c.seq = some c) (he : c.st.early = true) (hk : c.keep = none)
    (hw : bitAt (leNat f.payload) 0 = false) (hst : c.st = .felting ∨ c.st = .agreeing) : DoesThen (.keepReport n f) s fun t =>
      CutEnded s c .sedgeIncomplete St.sedgeIncomplete t ∧ FieldsBut (signalFields ++ cutEndFields) s t := by
  have hexec := exec_keepReport hh hc he hk
  have hst' : (c.st == .felting || c.st == .agreeing) = true := by simpa using hst
  rw [hw, if_neg Bool.false_ne_true, if_pos hst'] at hexec
  exact .of_settled hexec (cutFinal_ends_from (putCut_inv hi _) rfl
    (putCut_findCut (c := { c with keep := some false }) (findCut_seqs hf)) (early_isFinal he) ⟨rfl, rfl, rfl, rfl⟩)

/-! ## DIGEST_FRAME (R170, R171) -/

/-- The record of a cut with a digest part heard from a member. -/
def Cut.hears (c : Cut) (i : Nat) (f : Frame) : Cut :=
  { c with heard := (c.heard.filter (fun x => !(x.1 == i && x.2.1 == f.hop.toNat))) ++ [(i, f.hop.toNat, f.payload)] }

theorem exec_digest_stale (hh : s.hears n Ty.digest f = true) (hc : s.cutOf (frameStep f) (BitVec.ofNat 8 f.offset.toNat) = some c)
    (hm : s.replMembers.findIdx? (fun m => m == (f.srcRack, f.srcPos)) = some i) (ha : c.agreed = true) :
    exec (.digestFrame n f) s = settled (.next (s.staleAt n)) := by
  refine congrArg settled (?_ : doDigestFrame n f s = _)
  rw [doDigestFrame, recv_hears hh, hc, hm]
  simp [ha]

theorem exec_digest (hh : s.hears n Ty.digest f = true) (hc : s.cutOf (frameStep f) (BitVec.ofNat 8 f.offset.toNat) = some c)
    (hm : s.replMembers.findIdx? (fun m => m == (f.srcRack, f.srcPos)) = some i) (he : c.st.early = true) (hp : f.hop.toNat < 2)
    (hl : f.payload.length = 24) (ha : c.agreed = false) :
    exec (.digestFrame n f) s = settled (.next ((s.putCut (c.hears i f)).agree c.seq false)) := by
  have hpass : (!c.st.early || c.agreed || decide (2 ≤ f.hop.toNat) || decide (f.payload.length ≠ 24)) = false := by simp [he, ha, hl, hp]
  refine congrArg settled (?_ : doDigestFrame n f s = _)
  rw [doDigestFrame, recv_hears hh, hc, hm]
  simp only [hpass]
  rfl

/-- The group digests heard of the members. -/
def State.digestsOf (s : State) (c : Cut) : List (Option (List Byte)) := (List.range (s.rd Fld.tierCutRepl.count)).map c.memberDigest

/-- Members, the engine itself among them, that hold a digest. -/
def State.votesFor (s : State) (c : Cut) (g : List Byte) : Nat := ((s.digestsOf c).filter (fun x => x == some g)).length + b2n (c.group == g)

/-- A digest has won: more than half of the group holds it. -/
def State.wins (s : State) (c : Cut) (g : List Byte) : Bool := s.rd Fld.tierCutRepl.count + 1 < 2 * s.votesFor c g

/-- A digest that a member holds has won. -/
def State.otherWins (s : State) (c : Cut) (x : Option (List Byte)) : Bool :=
  match x with
  | some g => s.wins c g
  | none => false

/-- The members of the majority, by the bits of a mask. -/
def State.agreeBits (s : State) (c : Cut) : Nat :=
  (List.range (s.rd Fld.tierCutRepl.count)).foldl (fun m i => if (s.digestsOf c).getD i none == some c.group then m + 2 ^ i else m) 0

/-- The engine is found corrupt, and says so. -/
def State.foundCorrupt (s : State) (c : Cut) : State :=
  State.notice { s with rst := { s.rst with
      corrupt := true
      majority := (List.range (s.rd Fld.tierCutRepl.count)).filter (fun i => s.otherWins c ((s.digestsOf c).getD i none)) } }
    6 0 0 St.digestMismatch 0 c.step

theorem foundCorrupt_keep (s : State) (c : Cut) : Keep ([.rst, .outbox], 0) s (s.foundCorrupt c) :=
  (State.notice_keep ..).step (by decide) (Keep.mono (qs := ([.rst], 0)) (keep_rst s _ rfl) (by decide))

/-- The agreement of an AGREEING cut. -/
theorem agree_eq {expired : Bool} (h : s.findCut seq = some c) : s.agree seq expired =
    if c.st != .agreeing || c.agreed || (!expired && (s.digestsOf c).any Option.isNone) then s
    else if s.wins c c.group then (s.putCut { c with agreed := true, agreeMask := BitVec.ofNat 4 (s.agreeBits c) }).tryCommit seq
    else if 3 ≤ s.rd Fld.tierCutRepl.count + 1 && (s.digestsOf c).any (s.otherWins c) then
      (s.foundCorrupt c).cutFinal seq .suspect St.digestMismatch false
    else s.cutFinal seq .suspect St.digestMismatch true := by
  rw [State.agree, h]
  rfl

theorem digestsOf_getD (s : State) (c : Cut) {i : Nat} (hi : i < s.rd Fld.tierCutRepl.count) : (s.digestsOf c).getD i none = c.memberDigest i := by
  simp [State.digestsOf, List.getD_eq_getElem?_getD, hi]

theorem votes_of_all {g : List Byte} (h : (s.digestsOf c).all (fun x => x == some g) = true) :
    s.votesFor c g = s.rd Fld.tierCutRepl.count + b2n (c.group == g) := by
  rw [State.votesFor, List.filter_eq_self.2 (List.all_eq_true.1 h), State.digestsOf, List.length_map, List.length_range]

/-- A digest that no member holds has at most the engine's own vote. -/
theorem votes_of_none {g : List Byte} (h : (s.digestsOf c).all (fun x => x != some g) = true) : s.votesFor c g = b2n (c.group == g) := by
  have hnone : (s.digestsOf c).filter (fun x => x == some g) = [] := by
    refine List.filter_eq_nil_iff.2 fun x hx => ?_
    simpa using List.all_eq_true.1 h x hx
  rw [State.votesFor, hnone, List.length_nil, Nat.zero_add]

theorem any_isNone_of_all {g : List Byte} (h : (s.digestsOf c).all (fun x => x == some g) = true) : (s.digestsOf c).any Option.isNone = false := by
  refine List.any_eq_false.2 fun x hx => ?_
  have hx : x = some g := by simpa using List.all_eq_true.1 h x hx
  simp [hx]

theorem foldl_bits {p : Nat → Bool} {k : Nat} (h : ∀ i, i < k → p i = true) :
    (List.range k).foldl (fun m i => if p i then m + 2 ^ i else m) 0 = 2 ^ k - 1 := by
  induction k with
  | zero => rfl
  | succ k ih =>
    rw [List.range_succ, List.foldl_append, ih fun i hi => h i (by omega), List.foldl_cons, List.foldl_nil, if_pos (h k (by omega))]
    have := Nat.one_le_two_pow (n := k)
    omega

theorem agreeBits_of_all (h : (s.digestsOf c).all (fun x => x == some c.group) = true) : s.agreeBits c = 2 ^ s.rd Fld.tierCutRepl.count - 1 :=
  foldl_bits (p := fun i => (s.digestsOf c).getD i none == some c.group) fun i hi => by
    rw [digestsOf_getD s c hi]
    exact List.all_eq_true.1 h _ (List.mem_map_of_mem (List.mem_range.2 hi))

/-- The cut is AGREEING, and its agreement can be settled. -/
structure CanAgree (s : State) (c : Cut) (expired : Bool) : Prop where
  agreeing : c.st = .agreeing
  unsettled : c.agreed = false
  here : expired = true ∨ (s.digestsOf c).any Option.isNone = false

theorem CanAgree.settles {expired : Bool} (h : CanAgree s c expired) :
    ¬ (c.st != .agreeing || c.agreed || (!expired && (s.digestsOf c).any Option.isNone)) = true := by
  obtain ⟨h1, h2, h3⟩ := h
  rcases h3 with h3 | h3 <;> simp [h1, h2, h3]

/-- When every member holds the own digest the cut is AGREED. -/
theorem agree_agrees (hf : s.findCut c.seq = some c) (hst : c.st = .agreeing) (ha : c.agreed = false)
    (hall : (s.digestsOf c).all (fun x => x == some c.group) = true) :
    ((s.agree c.seq false).findCut c.seq).map (fun d => (d.agreed, d.agreeMask)) =
      some (true, BitVec.ofNat 4 (2 ^ s.rd Fld.tierCutRepl.count - 1)) ∧
      Changes [.red, .cut, .freeCtr, .outbox] [] s (s.agree c.seq false) := by
  have hwins : s.wins c c.group = true := by
    simp only [State.wins, votes_of_all hall, BEq.rfl, b2n, decide_eq_true_eq, if_true]
    omega
  rw [agree_eq hf, if_neg (CanAgree.settles ⟨hst, ha, .inr (any_isNone_of_all hall)⟩), if_pos hwins, agreeBits_of_all hall]
  generalize hd : { c with agreed := true, agreeMask := BitVec.ofNat 4 (2 ^ s.rd Fld.tierCutRepl.count - 1) } = d
  have hseq : d.seq = c.seq := by rw [← hd]
  have hsent := tryCommit_sent (s.putCut d) c.seq
  refine ⟨findCut_map_of_each (by rw [hsent.seqs, putCut_seqs]; exact findCut_seqs hf)
    (hsent.each _ ⟨fun _ _ => id, fun _ => id, fun _ => id⟩ fun e he hs => ?_),
    .step (.of_only hsent.only hsent.regs) (by decide) (by simp) ((putCut_changes s d).step (by decide) (by simp) (.refl _ _ s))⟩
  rw [putCut_each s d e he (hs.trans hseq.symm), ← hd]

/-- Of two members that differ the cut is SUSPECT; so it is when no member has been heard in time. -/
theorem agree_suspects {expired : Bool} (hf : s.findCut c.seq = some c) (hc : CanAgree s c expired)
    (hk : s.rd Fld.tierCutRepl.count ≠ 0) (hown : (s.digestsOf c).all (fun x => x != some c.group) = true)
    (hother : s.rd Fld.tierCutRepl.count = 1 ∨ (s.digestsOf c).any Option.isSome = false) :
    s.agree c.seq expired = s.cutFinal c.seq .suspect St.digestMismatch true := by
  have hlose : ¬ s.wins c c.group = true := by
    simp only [State.wins, votes_of_none hown, BEq.rfl, b2n, decide_eq_true_eq, if_true]
    omega
  have hnobody : ¬ (decide (3 ≤ s.rd Fld.tierCutRepl.count + 1) && (s.digestsOf c).any (s.otherWins c)) = true := by
    rcases hother with h | h
    · simp [h]
    · have hnone : (s.digestsOf c).any (s.otherWins c) = false := by
        refine List.any_eq_false.2 fun x hx => ?_
        have := List.any_eq_false.1 h x hx
        cases x with
        | none => simp [State.otherWins]
        | some g => simp at this
      simp [hnone]
  rw [agree_eq hf, if_neg hc.settles, if_neg hlose, if_neg hnobody]

/-- An engine whose digest the others agree against is corrupt (R171). -/
theorem agree_corrupt {g : List Byte} (hf : s.findCut c.seq = some c) (hst : c.st = .agreeing) (ha : c.agreed = false)
    (hk : 2 ≤ s.rd Fld.tierCutRepl.count) (hg : g ≠ c.group) (hall : (s.digestsOf c).all (fun x => x == some g) = true) :
    s.agree c.seq false = (s.foundCorrupt c).cutFinal c.seq .suspect St.digestMismatch false ∧
    (s.foundCorrupt c).rst.corrupt = true ∧ (s.foundCorrupt c).rst.majority = List.range (s.rd Fld.tierCutRepl.count) := by
  have hown : (s.digestsOf c).all (fun x => x != some c.group) = true := List.all_eq_true.2 fun x hx => by
    have hx : x = some g := by simpa using List.all_eq_true.1 hall x hx
    simpa [hx] using hg
  have hlose : ¬ s.wins c c.group = true := by
    simp only [State.wins, votes_of_none hown, BEq.rfl, b2n, decide_eq_true_eq, if_true]
    omega
  have hwin : s.wins c g = true := by
    simp only [State.wins, votes_of_all hall, decide_eq_true_eq]
    omega
  have heach (j : Nat) (hj : j < s.rd Fld.tierCutRepl.count) : s.otherWins c ((s.digestsOf c).getD j none) = true := by
    have hmem : c.memberDigest j ∈ s.digestsOf c := List.mem_map_of_mem (List.mem_range.2 hj)
    have hx : c.memberDigest j = some g := by simpa using List.all_eq_true.1 hall _ hmem
    rw [digestsOf_getD s c hj, hx]
    exact hwin
  have hany : (decide (3 ≤ s.rd Fld.tierCutRepl.count + 1) && (s.digestsOf c).any (s.otherWins c)) = true := by
    rw [Bool.and_eq_true, decide_eq_true_eq, List.any_eq_true]
    refine ⟨by omega, c.memberDigest 0, List.mem_map_of_mem (List.mem_range.2 (by omega)), ?_⟩
    rw [← digestsOf_getD s c (by omega)]
    exact heach 0 (by omega)
  have hrst : (s.foundCorrupt c).rst = { s.rst with
      corrupt := true
      majority := (List.range (s.rd Fld.tierCutRepl.count)).filter (fun i => s.otherWins c ((s.digestsOf c).getD i none)) } :=
    (State.notice_keep ..).same .rst (by decide)
  refine ⟨by rw [agree_eq hf, if_neg (CanAgree.settles ⟨hst, ha, .inr (any_isNone_of_all hall)⟩), if_neg hlose, if_pos hany], by rw [hrst], ?_⟩
  rw [hrst]
  exact List.filter_eq_self.2 fun j hj => heach j (List.mem_range.1 hj)

section
variable (hh : s.hears n Ty.digest f = true) (hc : s.cutOf (frameStep f) (BitVec.ofNat 8 f.offset.toNat) = some c) (hf : s.findCut c.seq = some c)
  (hm : s.replMembers.findIdx? (fun m => m == (f.srcRack, f.srcPos)) = some i) (he : c.st.early = true) (hp : f.hop.toNat < 2)
  (hl : f.payload.length = 24) (ha : c.agreed = false)

theorem hears_findCut (hf : s.findCut c.seq = some c) (i : Nat) (f : Frame) : (s.putCut (c.hears i f)).findCut c.seq = some (c.hears i f) :=
  putCut_findCut (c := c.hears i f) (findCut_seqs hf)

include hh hc hf hm he hp hl ha

theorem digest_waits (hw : c.st ≠ .agreeing ∨ (s.digestsOf (c.hears i f)).any Option.isNone = true) : DoesThen (.digestFrame n f) s fun t =>
    t.findCut c.seq = some (c.hears i f) ∧ Changes [.cut] [] s t := by
  have hstop : ((c.hears i f).st != .agreeing || (c.hears i f).agreed ||
      (!false && ((s.putCut (c.hears i f)).digestsOf (c.hears i f)).any Option.isNone)) = true := by
    rcases hw with hw | hw
    · have : (c.hears i f).st ≠ .agreeing := hw
      simp [this]
    · have : ((s.putCut (c.hears i f)).digestsOf (c.hears i f)).any Option.isNone = true := hw
      simp [this]
  refine .of_settled (exec_digest hh hc hm he hp hl ha) ?_
  rw [agree_eq (hears_findCut hf i f), if_pos hstop]
  exact ⟨hears_findCut hf i f, putCut_changes ..⟩

theorem digest_agrees (hst : c.st = .agreeing) (hall : (s.digestsOf (c.hears i f)).all (fun x => x == some c.group) = true) :
    DoesThen (.digestFrame n f) s fun t =>
      (t.findCut c.seq).map (fun d => (d.agreed, d.agreeMask)) = some (true, BitVec.ofNat 4 (2 ^ s.rd Fld.tierCutRepl.count - 1)) ∧
      Changes [.red, .cut, .map, .freeCtr, .outbox] [] s t := by
  obtain ⟨hagreed, hch⟩ := agree_agrees (s := s.putCut (c.hears i f)) (c := c.hears i f) (hears_findCut hf i f) hst ha hall
  exact .of_settled (exec_digest hh hc hm he hp hl ha)
    ⟨hagreed, hch.step (by decide) (by simp) ((putCut_changes ..).step (by decide) (by simp) (.refl _ _ s))⟩

theorem digest_differs (hi : s.Inv) (hst : c.st = .agreeing) (hk : s.rd Fld.tierCutRepl.count = 1) (hsome : (c.hears i f).memberDigest 0 ≠ none)
    (hne : (c.hears i f).memberDigest 0 ≠ some c.group) : DoesThen (.digestFrame n f) s fun t =>
      CutEnded s c .suspect St.digestMismatch t ∧ FieldsBut (signalFields ++ cutEndFields) s t := by
  have hgot : (s.putCut (c.hears i f)).digestsOf (c.hears i f) = [(c.hears i f).memberDigest 0] := by
    rw [show (s.putCut (c.hears i f)).digestsOf (c.hears i f) = (List.range (s.rd Fld.tierCutRepl.count)).map (c.hears i f).memberDigest from rfl, hk]
    rfl
  have hown : ((s.putCut (c.hears i f)).digestsOf (c.hears i f)).all (fun x => x != some c.group) = true := by simpa [hgot] using hne
  have hhere : ((s.putCut (c.hears i f)).digestsOf (c.hears i f)).any Option.isNone = false := by
    simpa [hgot, Option.isSome_iff_ne_none] using hsome
  have hagree := agree_suspects (s := s.putCut (c.hears i f)) (c := c.hears i f) (expired := false) (hears_findCut hf i f)
    ⟨hst, ha, .inr hhere⟩ (ne_of_eq_of_ne hk Nat.one_ne_zero) hown (.inl hk)
  refine .of_settled ((exec_digest hh hc hm he hp hl ha).trans (congrArg _ (congrArg _ hagree))) ?_
  exact cutFinal_ends_from (putCut_inv hi _) rfl (hears_findCut hf i f) (early_isFinal he) ⟨rfl, rfl, rfl, rfl⟩

theorem digest_corrupt (hi : s.Inv) {g : List Byte} (hst : c.st = .agreeing) (hk : 2 ≤ s.rd Fld.tierCutRepl.count) (hg : g ≠ c.group)
    (hall : (s.digestsOf (c.hears i f)).all (fun x => x == some g) = true) : DoesThen (.digestFrame n f) s fun t =>
      (CutEnded s c .suspect St.digestMismatch t ∧ FieldsBut (signalFields ++ cutEndFields) s t) ∧ t.rst.corrupt = true ∧
      t.rst.majority = List.range (s.rd Fld.tierCutRepl.count) := by
  obtain ⟨hagree, hcor, hmaj⟩ := agree_corrupt (s := s.putCut (c.hears i f)) (c := c.hears i f) (hears_findCut hf i f) hst ha hk hg hall
  have hkeep : Keep ([.cut, .rst, .outbox], 0) s ((s.putCut (c.hears i f)).foundCorrupt (c.hears i f)) :=
    (foundCorrupt_keep ..).step (by decide) ((State.putCut_keep ..).mono (by decide))
  have hfind : ((s.putCut (c.hears i f)).foundCorrupt (c.hears i f)).findCut c.seq = some (c.hears i f) :=
    (findCut_congr (congrArg CutUnit.cuts ((foundCorrupt_keep ..).same .cut (by decide))) _).trans (hears_findCut hf i f)
  refine .of_settled ((exec_digest hh hc hm he hp hl ha).trans (congrArg _ (congrArg _ hagree)))
    ⟨cutFinal_ends_from (hkeep.inv hi) (hkeep.same .regs (by decide)) hfind (early_isFinal he) ⟨rfl, rfl, rfl, rfl⟩, ?_⟩
  have hrst : (((s.putCut (c.hears i f)).foundCorrupt (c.hears i f)).cutFinal c.seq .suspect St.digestMismatch false).rst =
      ((s.putCut (c.hears i f)).foundCorrupt (c.hears i f)).rst := (cutFinal_keep_apart ..).same .rst (by decide)
  exact ⟨(congrArg Rst.corrupt hrst).trans hcor, (congrArg Rst.majority hrst).trans hmaj⟩

end

/-! ## KEEP_WATCHDOG_EXPIRY and XCHG_WATCHDOG_EXPIRY (R171, R173) -/

/-- The keep report of a cut is late. -/
def State.keepLate (s : State) (c : Cut) : Bool :=
  (c.st == .felting || c.st == .agreeing) && c.keep.isNone &&
  (match c.feltEnd with | some t => s.elapsed t (usTicks (s.rd Fld.tierCutWd.keepWdUs)) | none => false)

theorem exec_keepWatchdogExpiry (hhw : s.hw = true) (hh : s.halted = false) (hc : s.cut.cuts.reverse.find? s.keepLate = some c) :
    exec .keepWatchdogExpiry s =
      settled (.next ((s.putCut { c with keep := some false }).cutFinal c.seq .sedgeIncomplete St.sedgeIncomplete true)) := by
  refine congrArg settled (?_ : doKeepWatchdogExpiry s = _)
  have hdo : doKeepWatchdogExpiry s = match s.cut.cuts.reverse.find? s.keepLate with
      | none => .next s
      | some c => if !s.hw || s.halted then .next s
        else .next ((s.putCut { c with keep := some false }).cutFinal c.seq .sedgeIncomplete St.sedgeIncomplete true) := rfl
  rw [hdo, hc, hhw, hh]
  rfl

theorem keepWatchdog_ends (hi : s.Inv) (hhw : s.hw = true) (hh : s.halted = false) (hc : s.cut.cuts.reverse.find? s.keepLate = some c)
    (hf : s.findCut c.seq = some c) : DoesThen .keepWatchdogExpiry s fun t =>
      CutEnded s c .sedgeIncomplete St.sedgeIncomplete t ∧ FieldsBut (signalFields ++ cutEndFields) s t := by
  have hlate := List.find?_some hc
  simp only [State.keepLate, Bool.and_eq_true, Bool.or_eq_true, beq_iff_eq] at hlate
  exact .of_settled (exec_keepWatchdogExpiry hhw hh hc) (cutFinal_ends_from (putCut_inv hi _) rfl
    (putCut_findCut (c := { c with keep := some false }) (findCut_seqs hf)) (felted_isFinal hlate.1.1) ⟨rfl, rfl, rfl, rfl⟩)

theorem exec_xchgWatchdogExpiry {race : Race} (hhw : s.hw = true) (hh : s.halted = false)
    (hc : s.cut.cuts.reverse.find? (fun c => c.st == .agreeing && !c.agreed) = some c) : exec (.xchgWatchdogExpiry race) s =
      settled (.next (if s.elapsed c.groupTick (usTicks (s.rd Fld.tierCutWd.xchgWdUs)) then
        if race = .arrivalWon then s.logRace Unit'.tier c.seq.toNat Wd.xchg race
        else (s.logRace Unit'.tier c.seq.toNat Wd.xchg race).agree c.seq true
      else s)) := by
  refine congrArg settled (?_ : doXchgWatchdogExpiry race s = _)
  rw [doXchgWatchdogExpiry, hc, hhw, hh]
  by_cases he : s.elapsed c.groupTick (usTicks (s.rd Fld.tierCutWd.xchgWdUs)) = true
  · rw [if_pos he]
    simp only [he, Bool.not_true, Bool.or_self, Bool.false_eq_true, if_false]
    exact (apply_ite Host.Outcome.next ..).symm
  · rw [if_neg he]
    simp [he]

theorem memberDigest_unheard (h : c.heard = []) (i : Nat) : c.memberDigest i = none := by
  rw [Cut.memberDigest, h]
  rfl

theorem xchgWatchdog_suspects (hi : s.Inv) (hhw : s.hw = true) (hh : s.halted = false)
    (hc : s.cut.cuts.reverse.find? (fun c => c.st == .agreeing && !c.agreed) = some c) (hf : s.findCut c.seq = some c)
    (he : s.elapsed c.groupTick (usTicks (s.rd Fld.tierCutWd.xchgWdUs)) = true) (hheard : c.heard = []) (hk : s.rd Fld.tierCutRepl.count ≠ 0) :
    DoesThen (.xchgWatchdogExpiry .none) s fun t =>
      CutEnded s c .suspect St.digestMismatch t ∧ FieldsBut (signalFields ++ cutEndFields) s t := by
  have hopen := List.find?_some hc
  simp only [Bool.and_eq_true, beq_iff_eq, Bool.not_eq_true'] at hopen
  obtain ⟨hst, ha⟩ := hopen
  have hnone : ∀ x ∈ s.digestsOf c, x = none := fun x hx => by
    obtain ⟨j, -, rfl⟩ := List.mem_map.1 hx
    exact memberDigest_unheard hheard j
  have hagree := agree_suspects (expired := true) hf ⟨hst, ha, .inl rfl⟩ hk (List.all_eq_true.2 fun x hx => by rw [hnone x hx]; rfl)
    (.inr (List.any_eq_false.2 fun x hx => by rw [hnone x hx]; simp))
  have hexec := exec_xchgWatchdogExpiry (race := .none) hhw hh hc
  rw [if_pos he, if_neg (by decide)] at hexec
  refine .of_settled (hexec.trans (congrArg _ (congrArg _ hagree))) ?_
  exact ⟨cutFinal_ended hi hf (felted_isFinal (.inr hst)), cutFinal_fields hi _ _ _ _⟩

/-- A race that the arrival has won is logged and counted, and the unit's watchdog does nothing more. -/
theorem logRace_arrivalWon (hi : s.Inv) (unit task wd : Nat) :
    (s.logRace unit task wd .arrivalWon).rd Fld.ctlArbRace.arrivalWon =
      min (s.rd Fld.ctlArbRace.arrivalWon + 1) (2 ^ Fld.ctlArbRace.arrivalWon.len - 1) ∧
    Changes [.regs, .log] [Fld.ctlErrlog.head, Fld.ctlArbRace.arrivalWon] s (s.logRace unit task wd .arrivalWon) := by
  have hlog := State.logIt_keep s Kind.race 0 unit (leBytes 4 task ++ leBytes 1 wd ++ leBytes 1 0)
  have hcount := bump_rd (hlog.inv hi) (f := Fld.ctlArbRace.arrivalWon) 1 (by decide)
  rw [hlog.rd hi (by decide +kernel)] at hcount
  refine ⟨hcount, (bump_changes (hlog.inv hi) Fld.ctlArbRace.arrivalWon 1).step (by decide) (by simp)
    ((Changes.of_keep (fs := [Fld.ctlErrlog.head]) hlog hi (by decide +kernel)).step (by decide) (by simp) (.refl _ _ s))⟩

end Sys2Proof.Machine
end

section
/-! The commit of a cut, and Batt enabled and disabled (R154, R172, R174, R178). -/
namespace Sys2Proof.Machine

variable {s t u : State} {c d : Cut} {seq : W32}

/-! ## COMMIT_RECORD_ACK (R172, R174) -/

/-- The record of a cut whose commit record stands at the partner. -/
def Cut.stands (c : Cut) (arrive : Option Bool) : Cut :=
  if c.refelt then { c with refelt := false, atSet := true } else { c with st := .sedgeCommitted, arrive := arrive, atSet := true }

theorem stands_seq (c : Cut) (arrive : Option Bool) : (c.stands arrive).seq = c.seq := by
  unfold Cut.stands
  split <;> rfl

theorem recordStands_eq (s : State) (c : Cut) (arrive : Option Bool) : s.recordStands c arrive =
    ((s.mapMove (fun e : MapEntry => mapSedge c.step c.gen e && e.st == .written) .committed).putCut (c.stands arrive)).onCut
      (fun u => { u with unhosted := false }) := rfl

theorem recordStands_keep (s : State) (c : Cut) (arrive : Option Bool) : Keep ([.cut, .map], 0) s (s.recordStands c arrive) := by
  have hmove := State.mapMove_keep s (fun e : MapEntry => mapSedge c.step c.gen e && e.st == .written) .committed
  have hput := State.putCut_keep (s.mapMove (fun e : MapEntry => mapSedge c.step c.gen e && e.st == .written) .committed) (c.stands arrive)
  have hhost := State.onCut_keep ((s.mapMove (fun e : MapEntry => mapSedge c.step c.gen e && e.st == .written) .committed).putCut (c.stands arrive))
    (fun u => { u with unhosted := false })
  exact hhost.step (by decide) (hput.step (by decide) (hmove.mono (by decide)))

theorem recordStands_each (s : State) (c : Cut) (arrive : Option Bool) :
    (s.recordStands c arrive).EachCut fun d => d.seq = c.seq → d = c.stands arrive := fun d hd hs =>
  putCut_each (s.mapMove _ .committed) (c.stands arrive) d hd (hs.trans (stands_seq c arrive).symm)

theorem recordStands_seqs (s : State) (c : Cut) (arrive : Option Bool) : (s.recordStands c arrive).seqs = s.seqs :=
  putCut_seqs (s.mapMove _ .committed) (c.stands arrive)

theorem exec_commitRecordAck (hhw : s.hw = true)
    (hc : s.cut.cuts.reverse.find? (fun c => (c.st == .committing || (c.refelt && c.comSent)) && c.out.isEmpty) = some c) :
    exec .commitRecordAck s = settled (.next (s.recordStands c (some false)).cutFlush) := by
  refine congrArg settled (?_ : doCommitRecordAck s = _)
  rw [doCommitRecordAck, hc, hhw]
  rfl

/-- In a list where the cuts of a SEQ are replaced, the first that passes a test is the new record, where the old one was the first. -/
theorem find_replaced {p : Cut → Bool} {l : List Cut} (h : l.find? p = some c) (hd : d.seq = c.seq) (hp : p d = true) :
    (l.map (fun x => if x.seq == d.seq then d else x)).find? p = some d := by
  induction l with
  | nil => cases h
  | cons x l ih =>
    rw [List.map_cons]
    by_cases hx : x.seq = d.seq
    · rw [if_pos (by simpa using hx), List.find?_cons_of_pos hp]
    · rw [if_neg (by simpa using hx)]
      by_cases hpx : p x = true
      · rw [List.find?_cons_of_pos hpx] at h
        cases h
        exact absurd hd.symm hx
      · rw [List.find?_cons_of_neg hpx] at h ⊢
        exact ih h

/-- The oldest cut that has not arrived arrives, where its arrival is due. -/
theorem cutFlush_arrives {v : Bool} (h : s.cut.cuts.reverse.find? (fun c => !c.arrived) = some c) (ha : c.arrive = some v) :
    (s.cutFlush.findCut c.seq).map (·.arrived) = some true := by
  have hmem := mem_of_find_reverse h
  obtain ⟨n, hn⟩ := Nat.exists_eq_succ_of_ne_zero (List.length_pos_of_mem hmem).ne'
  have hseqs : c.seq ∈ s.cutFlush.seqs := by
    rw [(cutFlush_flushed s).seqs]
    exact List.mem_map_of_mem hmem
  have hflush : s.cutFlush = (State.commitFlushN n ((s.putCut { c with arrive := none, arrived := true }).barArrive
      (s.rd Fld.tierCutCtrl.commitBarrier) (.commit c.seq) 0 (vetoWord (s.rd Fld.tierCutCtrl.vetoBit) v))).doneFlushN (n + 1) := by
    rw [State.cutFlush, hn]
    simp only [State.commitFlushN, h, ha]
  have hfl : Flushed (s.putCut { c with arrive := none, arrived := true }) s.cutFlush := by
    rw [hflush]
    exact ((barArrive_flushed ..).trans (commitFlushN_flushed n _)).trans (doneFlushN_flushed ..)
  refine findCut_map_of_each hseqs (hfl.each _ ⟨fun _ _ _ => rfl, fun _ _ => id, fun _ => id, fun _ => id⟩ fun d hd hs => ?_)
  rw [putCut_each s { c with arrive := none, arrived := true } d hd hs]

theorem commitRecordAck_commits (hi : s.Inv) (hhw : s.hw = true)
    (hc : s.cut.cuts.reverse.find? (fun c => (c.st == .committing || (c.refelt && c.comSent)) && c.out.isEmpty) = some c)
    (hf : s.findCut c.seq = some c) : DoesThen .commitRecordAck s fun t =>
      (t.findCut c.seq).map (fun d => (d.st, d.refelt, d.atSet)) = some (if c.refelt then c.st else .sedgeCommitted, false, true) ∧
      t.cut.unhosted = false ∧
      t.map = s.map.map (fun e => if mapSedge c.step c.gen e.2 && e.2.st == .written then (e.1, { e.2 with st := .committed }) else e) ∧
      (c.refelt = false → s.cut.cuts.reverse.find? (fun c => !c.arrived) = some c → (t.findCut c.seq).map (·.arrived) = some true) ∧
      Changes [.regs, .mem, .cut, .map, .syn, .outbox] signalFields s t := by
  refine .of_settled (exec_commitRecordAck hhw hc) ?_
  have hkeep := recordStands_keep s c (some false)
  have hfl := cutFlush_flushed (s.recordStands c (some false))
  have hseqs : c.seq ∈ (s.recordStands c (some false)).cutFlush.seqs := by
    rw [hfl.seqs, recordStands_seqs]
    exact findCut_seqs hf
  refine ⟨findCut_map_of_each hseqs (hfl.each _ ⟨fun _ => id, fun _ _ => id, fun _ => id, fun _ => id⟩ fun d hd hs => ?_), ?_,
    hfl.keep.same .map (by decide), fun hr hold => ?_, ?_⟩
  · rw [recordStands_each s c _ d hd hs, Cut.stands]
    split <;> simp_all
  · rw [hfl.unit]
    rfl
  · have hst : (c.stands (some false)).arrive = some false ∧ (c.stands (some false)).arrived = c.arrived := by simp [Cut.stands, hr]
    have hopen := List.find?_some hold
    rw [← stands_seq c (some false)]
    refine cutFlush_arrives (v := false) ?_ hst.1
    have hfind := find_replaced hold (stands_seq c (some false)) (by rw [hst.2]; exact hopen)
    rw [List.map_reverse] at hfind
    exact hfind
  · exact (Changes.of_keep (fs := signalFields) hfl.keep (hkeep.inv hi) (by decide +kernel)).step (by decide) (fun _ => id)
      ((Changes.of_only hkeep.only (hkeep.same .regs (by decide))).step (by decide) (by simp) (.refl _ _ s))

/-! ## CUT_DISABLE (R178) -/

/-- Every cut that has not been committed is one of those still to be abandoned. -/
def State.EarlyIn (s : State) (l : List W32) : Prop := s.EachCut fun d => d.st.early = true → d.seq ∈ l

theorem State.EarlyIn.congr {l : List W32} (h : s.EarlyIn l) (hc : t.cut.cuts = s.cut.cuts) : t.EarlyIn l := State.EachCut.congr h hc

theorem early_of_flushed {l : List W32} (h : Flushed s t) (hl : s.EarlyIn l) : t.EarlyIn l :=
  h.each _ ⟨fun _ => id, fun _ _ => id, fun _ => id, fun _ => id⟩ hl

theorem findCut_of_nodup (hn : s.seqs.Nodup) (hd : d ∈ s.cut.cuts) : s.findCut d.seq = some d := by
  obtain ⟨e, he, -⟩ := findCut_of_each (Q := fun _ => True) (List.mem_map_of_mem hd : d.seq ∈ s.seqs) fun _ _ _ => trivial
  obtain ⟨hmem, hseq⟩ := findCut_mem he
  rw [he, List.inj_on_of_nodup_map hn hmem hd hseq]

/-- The end of a cut takes it out of those still to be abandoned. -/
theorem cutFinal_early {l : List W32} {st : CutState} {x : Status} {veto : Bool} (hst : st.early = false) (hn : s.seqs.Nodup)
    (h : s.EarlyIn (seq :: l)) : (s.cutFinal seq st x veto).EarlyIn l ∧ (s.cutFinal seq st x veto).seqs = s.seqs := by
  by_cases hfinal : ∀ c, s.findCut seq = some c → c.st.isFinal = true
  · rw [cutFinal_none hfinal]
    refine ⟨fun d hd he => (List.mem_cons.1 (h d hd he)).resolve_left fun hs => ?_, rfl⟩
    exact absurd (hfinal d (hs ▸ findCut_of_nodup hn hd)) (by simp [early_isFinal he])
  · push Not at hfinal
    obtain ⟨c, hc, hopen⟩ := hfinal
    have hfl : Flushed (s.cutEnds c st x veto) (s.cutFinal seq st x veto) := cutFinal_flushed hc (by simpa using hopen)
    have hseq := (findCut_mem hc).2
    refine ⟨early_of_flushed hfl fun d hd he => ?_, hfl.seqs.trans (cutEnds_seqs ..)⟩
    by_cases hs : d.seq = c.seq
    · rw [putCut_each _ (c.ended st x veto) d hd hs] at he
      simp [Cut.ended, hst] at he
    · have hother : (s.cutEnds c st x veto).EachCut fun d => d.seq ≠ c.seq → d.st.early = true → d.seq ∈ seq :: l :=
        cutEnds_each (fun e he _ => h e he) (fun hne => absurd rfl hne) (fun hne => absurd rfl hne)
      exact (List.mem_cons.1 (hother d hd hs he)).resolve_left (hseq ▸ hs)

/-- One of the cuts is abandoned, with a status that is free. -/
def State.abandons (s : State) (c : Cut) : State := (freeStatus s).2.cutFinal c.seq .abandoned (freeStatus s).1 true

theorem abandonEarly_eq (s : State) : s.abandonEarly freeStatus = (s.cut.cuts.reverse.filter (fun c => c.st.early)).foldl State.abandons s := rfl

/-- Once every cut of a list that names all early ones has been abandoned, none is early. -/
theorem abandons_all (l : List Cut) (hi : s.Inv) (hn : s.seqs.Nodup) (h : s.EarlyIn (l.map (·.seq))) :
    (l.foldl State.abandons s).EarlyIn [] ∧ FieldsBut (signalFields ++ cutEndFields) s (l.foldl State.abandons s) := by
  induction l generalizing s with
  | nil => exact ⟨h, .refl _ s⟩
  | cons c l ih =>
    have hfree := freeStatus_keep s
    have hcuts : (freeStatus s).2.cut.cuts = s.cut.cuts := congrArg CutUnit.cuts (hfree.same .cut (by decide))
    obtain ⟨hearly, hseqs⟩ := cutFinal_early (s := (freeStatus s).2) (st := .abandoned) (x := (freeStatus s).1) (veto := true) rfl
      (by rw [seqs_congr hcuts]; exact hn) (h.congr hcuts)
    have hinv : (s.abandons c).Inv := (cutFinal_keep_apart ..).inv (hfree.inv hi)
    have hstep : FieldsBut (signalFields ++ cutEndFields) s (s.abandons c) :=
      (FieldsBut.of_regs (hfree.same .regs (by decide))).trans (cutFinal_fields (hfree.inv hi) _ _ _ _)
    obtain ⟨hall, hfields⟩ := ih hinv (by rw [State.abandons, hseqs, seqs_congr hcuts]; exact hn) hearly
    exact ⟨hall, hstep.trans hfields⟩

theorem abandonEarly_all (hi : s.Inv) (hn : s.seqs.Nodup) : (s.abandonEarly freeStatus).cut.cuts.all (fun c => !c.st.early) = true ∧
    FieldsBut (signalFields ++ cutEndFields) s (s.abandonEarly freeStatus) := by
  have hearly : s.EarlyIn ((s.cut.cuts.reverse.filter (fun c => c.st.early)).map (·.seq)) := fun d hd he =>
    List.mem_map_of_mem (List.mem_filter.2 ⟨List.mem_reverse.2 hd, he⟩)
  obtain ⟨hnone, hfields⟩ := abandons_all _ hi hn hearly
  rw [abandonEarly_eq]
  refine ⟨List.all_eq_true.2 fun d hd => ?_, hfields⟩
  rw [Bool.not_eq_true']
  exact Bool.eq_false_iff.2 fun he => absurd (hnone d hd he) List.not_mem_nil

/-! ## The control register (R154, R174) -/

theorem tierCutCtrl_row : ∃ row, regRow? Reg.tierCutCtrl = some row ∧ ⟨0, 1, .rw⟩ ∈ row.fields ∧ ⟨2, 5, .rw⟩ ∈ row.fields := by
  have h : (regRow? Reg.tierCutCtrl).any (fun row => row.fields.contains ⟨0, 1, .rw⟩ && row.fields.contains ⟨2, 5, .rw⟩) = true := by
    decide +kernel
  obtain ⟨row, hrow, hp⟩ := Option.any_eq_true .. |>.1 h
  simp only [Bool.and_eq_true, List.contains_iff_mem] at hp
  exact ⟨row, hrow, hp.1, hp.2⟩

theorem tierCutCtrl_unfrozen (s : State) (lo : Nat) : s.fieldFrozen Reg.tierCutCtrl lo = false := by
  have hcanon : regCanon Reg.tierCutCtrl = 0x48000 := by decide +kernel
  unfold State.fieldFrozen
  rw [hcanon]
  exact Bool.and_false _

/-- A write in which nothing was wrong leaves its bits in ENABLE and COMMIT_BARRIER. -/
theorem cutCtrl_written {w : Nat} (hi : s.Inv) (hw : (s.writePlain Reg.tierCutCtrl w).2 = true) :
    (s.writePlain Reg.tierCutCtrl w).1.rd Fld.tierCutCtrl.enable = b2n (bitAt w 0) ∧
    (s.writePlain Reg.tierCutCtrl w).1.rd Fld.tierCutCtrl.commitBarrier = bits w 2 5 ∧
    Changes [.regs] [⟨Reg.tierCutCtrl, 0, 64⟩] s (s.writePlain Reg.tierCutCtrl w).1 := by
  obtain ⟨row, hrow, hen, hbar⟩ := tierCutCtrl_row
  obtain ⟨hput, hgood⟩ := writePlain_true hrow hw
  obtain ⟨hpw, h64⟩ := regRows_fields row (List.mem_of_find?_eq_some hrow)
  have hrd {f : FieldRow} (hf : f ∈ row.fields) (hty : f.ty = .rw) :
      (s.putFields Reg.tierCutCtrl w row.fields).rd (f.fld Reg.tierCutCtrl) = bits w f.lo f.len := by
    rw [putFields_rd hi hpw hf (h64 f hf), fieldWritten_true hgood hf hty (tierCutCtrl_unfrozen s _)]
  rw [hput, ← bits_zero_one]
  exact ⟨hrd hen rfl, hrd hbar rfl, only_regs s _, (FieldsBut.refl _ s).setReg List.mem_cons_self _⟩

theorem cutDisable_abandons {v : BitVec 32} (hi : s.Inv) (hp : s.powered = true) (hv : v.getLsbD 0 = false)
    (hw : (s.writePlain Reg.tierCutCtrl v.toNat).2 = true) (hn : s.seqs.Nodup) (hon : s.rdB Fld.tierCutCtrl.enable = true) :
    DoesThen (.cutDisable v) s fun t => t.rd Fld.tierCutCtrl.enable = 0 ∧ t.cut.cuts.all (fun c => !c.st.early) = true ∧
      FieldsBut ([⟨Reg.tierCutCtrl, 0, 64⟩] ++ signalFields ++ cutEndFields) s t := by
  obtain ⟨hen, -, hch⟩ := cutCtrl_written hi hw
  have hu : (s.writePlain Reg.tierCutCtrl v.toNat).1.Inv := (State.writePlain_keep has_Reg_tierCutCtrl _ _).inv hi
  have hv : bitAt v.toNat 0 = false := hv
  have hexec : exec (.cutDisable v) s = settled (.next ((s.writePlain Reg.tierCutCtrl v.toNat).1.abandonEarly freeStatus)) := by
    refine congrArg settled (?_ : doCutDisable v s = _)
    simp only [doCutDisable, hp, State.cutDisable, hon, hv]
    rfl
  refine .of_settled hexec ?_
  rw [hv] at hen
  generalize (s.writePlain Reg.tierCutCtrl v.toNat).1 = u at hen hch hu
  obtain ⟨hall, hfields⟩ := abandonEarly_all hu (by rw [seqs_congr (congrArg CutUnit.cuts (hch.1.same .cut (by decide)))]; exact hn)
  refine ⟨(hfields.rd (by decide)).trans hen, hall, FieldsBut.trans (hch.2.mono ?_) (hfields.mono ?_)⟩
  · exact fun f hf => List.mem_append_left _ (List.mem_append_left _ hf)
  · intro f hf
    rw [List.append_assoc]
    exact List.mem_append_right _ hf

/-! ## CUT_ENABLE (R154, R174) -/

/-- The directory and its check look at no field of the control register. -/
theorem directory_congr (hm : t.mem = s.mem) (hp : t.part = s.part) (hrd : ∀ f : Fld, f.off ≠ Reg.tierCutCtrl → t.rd f = s.rd f) :
    t.readDir = s.readDir ∧ t.dirOk = s.dirOk := by
  have haddr (f : Fld) (hf : f.off ≠ Reg.tierCutCtrl) : t.rdAddr f = s.rdAddr f := by rw [State.rdAddr, hrd f hf, State.rdAddr]
  have hdir : t.readDir = s.readDir := by
    have hregion : t.dirRegion = s.dirRegion := funext fun i => by
      rw [State.dirRegion, haddr _ (by decide), haddr _ (by decide), load_congr hm, load_congr hm, State.dirRegion]
    rw [State.readDir, hrd _ (by decide), hregion, State.readDir]
  have hbatt : t.battSize = s.battSize := hrd _ (by decide)
  have hbase (h : Bool) : t.battBase h = s.battBase h := by rw [State.battBase, haddr _ (by decide), haddr _ (by decide), State.battBase]
  have hsump : t.sumpHalf = s.sumpHalf := by rw [State.sumpHalf, hp, hrd _ (by decide), State.sumpHalf]
  have hok : t.regionOk = s.regionOk := funext fun r => by rw [State.regionOk, hsump, hbatt, State.regionOk]
  have hwin : t.window = s.window := by rw [State.window, haddr _ (by decide), hrd _ (by decide), State.window]
  refine ⟨hdir, ?_⟩
  rw [State.dirOk, hdir, hwin, hok, hbatt, hbase, hbase, haddr _ (by decide), haddr _ (by decide), hrd Fld.tierBattDir.count (by decide),
    hrd Fld.tierSedgePool.pages (by decide), State.dirOk]

/-- What CUT_ENABLE makes of the written register. -/
def State.enablesCut (s : State) : State :=
  let bad := !s.dirOk
  let shared := s.commitShared (s.rd Fld.tierCutCtrl.commitBarrier)
  let s := if bad then (s.wr Fld.tierCutCtrl.enable 0).raise Fld.tierCutErrStatus.dirInvalid else s
  let s := if shared then (s.wr Fld.tierCutCtrl.enable 0).accessError Reg.tierCutCtrl 4 true else s
  if bad || shared then s else s.onCut (fun u => { u with dir := s.readDir })

theorem exec_cutEnable {v : BitVec 32} (hp : s.powered = true) (hv : v.getLsbD 0 = true) (hoff : s.rdB Fld.tierCutCtrl.enable = false) :
    exec (.cutEnable v) s = settled (.next (s.writePlain Reg.tierCutCtrl v.toNat).1.enablesCut) := by
  have hv : bitAt v.toNat 0 = true := hv
  refine congrArg settled (?_ : doCutEnable v s = _)
  simp only [doCutEnable, hp, State.cutEnable, hoff, hv]
  rfl

theorem enablesCut_good (hd : s.dirOk = true) (hs : s.commitShared (s.rd Fld.tierCutCtrl.commitBarrier) = false) :
    s.enablesCut = s.onCut (fun x => { x with dir := s.readDir }) := by
  simp only [State.enablesCut, hd, hs]
  rfl

theorem enablesCut_bad (hd : s.dirOk = false) (hs : s.commitShared (s.rd Fld.tierCutCtrl.commitBarrier) = false) :
    s.enablesCut = (s.wr Fld.tierCutCtrl.enable 0).raise Fld.tierCutErrStatus.dirInvalid := by
  simp only [State.enablesCut, hd, hs]
  rfl

theorem enablesCut_shared (hd : s.dirOk = true) (hs : s.commitShared (s.rd Fld.tierCutCtrl.commitBarrier) = true) :
    s.enablesCut = (s.wr Fld.tierCutCtrl.enable 0).accessError Reg.tierCutCtrl 4 true := by
  simp only [State.enablesCut, hd, hs]
  rfl

/-- ENABLE back at 0. -/
theorem enableCleared (hi : s.Inv) : (s.wr Fld.tierCutCtrl.enable 0).Inv ∧ (s.wr Fld.tierCutCtrl.enable 0).rd Fld.tierCutCtrl.enable = 0 ∧
    Changes [.regs] [⟨Reg.tierCutCtrl, 0, 64⟩] s (s.wr Fld.tierCutCtrl.enable 0) :=
  ⟨(State.wr_keep has_Fld_tierCutCtrl_enable _ _).inv hi, rd_wr_same _ 0 (inv_rising hi) (by decide), only_regs s _,
    (FieldsBut.refl _ s).setReg List.mem_cons_self _⟩

/-- The register as CUT_ENABLE has written it: the directory is what it was. -/
theorem cutEnable_written {v : BitVec 32} (hi : s.Inv) (hv : v.getLsbD 0 = true) (hw : (s.writePlain Reg.tierCutCtrl v.toNat).2 = true) :
    (s.writePlain Reg.tierCutCtrl v.toNat).1.Inv ∧ (s.writePlain Reg.tierCutCtrl v.toNat).1.rd Fld.tierCutCtrl.enable = 1 ∧
    (s.writePlain Reg.tierCutCtrl v.toNat).1.rd Fld.tierCutCtrl.commitBarrier = bits v.toNat 2 5 ∧
    Changes [.regs] [⟨Reg.tierCutCtrl, 0, 64⟩] s (s.writePlain Reg.tierCutCtrl v.toNat).1 ∧
    (s.writePlain Reg.tierCutCtrl v.toNat).1.readDir = s.readDir ∧ (s.writePlain Reg.tierCutCtrl v.toNat).1.dirOk = s.dirOk := by
  have hv : bitAt v.toNat 0 = true := hv
  obtain ⟨hen, hbar, hch⟩ := cutCtrl_written hi hw
  rw [hv] at hen
  refine ⟨(State.writePlain_keep has_Reg_tierCutCtrl _ _).inv hi, hen, hbar, hch,
    directory_congr (hch.1.same .mem (by decide)) (hch.1.same .part (by decide)) fun f hf => hch.2.rd ?_⟩
  simp [hf.symm]

section
variable {v : BitVec 32} (hi : s.Inv) (hp : s.powered = true) (hv : v.getLsbD 0 = true) (hoff : s.rdB Fld.tierCutCtrl.enable = false)
  (hw : (s.writePlain Reg.tierCutCtrl v.toNat).2 = true)
include hi hp hv hoff hw

theorem cutEnable_takes (hd : s.dirOk = true) (hs : (s.writePlain Reg.tierCutCtrl v.toNat).1.commitShared (bits v.toNat 2 5) = false) :
    DoesThen (.cutEnable v) s fun t =>
      t.cut.dir = s.readDir ∧ t.rd Fld.tierCutCtrl.enable = 1 ∧ t.rd Fld.tierCutCtrl.commitBarrier = bits v.toNat 2 5 ∧
      Changes [.regs, .cut] [⟨Reg.tierCutCtrl, 0, 64⟩] s t := by
  obtain ⟨-, hen, hbar, hch, hdir, hok⟩ := cutEnable_written hi hv hw
  refine .of_settled (exec_cutEnable hp hv hoff) ?_
  generalize (s.writePlain Reg.tierCutCtrl v.toNat).1 = u at *
  rw [enablesCut_good (hok.trans hd) (by rw [hbar]; exact hs)]
  exact ⟨hdir, hen, hbar, (onCut_changes ..).step (by decide) (by simp) (hch.step (by decide) (fun _ => id) (.refl _ _ s))⟩

theorem cutEnable_badDirectory (hd : s.dirOk = false) (hs : (s.writePlain Reg.tierCutCtrl v.toNat).1.commitShared (bits v.toNat 2 5) = false) :
    DoesThen (.cutEnable v) s fun t =>
      t.rd Fld.tierCutCtrl.enable = 0 ∧ t.rd Fld.tierCutErrStatus.dirInvalid = 1 ∧
      Changes [.regs] (Fld.tierCutErrStatus.dirInvalid :: [⟨Reg.tierCutCtrl, 0, 64⟩]) s t := by
  obtain ⟨hu, -, hbar, hch, -, hok⟩ := cutEnable_written hi hv hw
  refine .of_settled (exec_cutEnable hp hv hoff) ?_
  generalize (s.writePlain Reg.tierCutCtrl v.toNat).1 = u at *
  rw [enablesCut_bad (hok.trans hd) (by rw [hbar]; exact hs)]
  obtain ⟨hci, hzero, hcc⟩ := enableCleared hu
  have hraise := raise_changes hci Fld.tierCutErrStatus.dirInvalid
  exact ⟨(hraise.2.rd (by decide)).trans hzero, raise_rd hci (by decide) (by decide),
    hraise.step (by decide) (by simp) (hcc.step (by decide) (by simp) (hch.step (by decide) (by simp) (.refl _ _ s)))⟩

theorem cutEnable_sharedBarrier (hd : s.dirOk = true) (hs : (s.writePlain Reg.tierCutCtrl v.toNat).1.commitShared (bits v.toNat 2 5) = true) :
    DoesThen (.cutEnable v) s fun t =>
      t.rd Fld.tierCutCtrl.enable = 0 ∧ t.rd Fld.ctlErrStatus.accessErr = 1 ∧
      Changes [.regs, .log] (Fld.ctlErrlog.head :: Fld.ctlErrStatus.accessErr :: [⟨Reg.tierCutCtrl, 0, 64⟩]) s t := by
  obtain ⟨hu, -, hbar, hch, -, hok⟩ := cutEnable_written hi hv hw
  refine .of_settled (exec_cutEnable hp hv hoff) ?_
  generalize (s.writePlain Reg.tierCutCtrl v.toNat).1 = u at *
  rw [enablesCut_shared (hok.trans hd) (by rw [hbar]; exact hs)]
  obtain ⟨hci, hzero, hcc⟩ := enableCleared hu
  obtain ⟨herr, hec⟩ := accessError_refused hci Reg.tierCutCtrl 4 true
  exact ⟨(hec.2.rd (by decide)).trans hzero, herr,
    hec.step (by decide) (by simp) (hcc.step (by decide) (by simp) (hch.step (by decide) (by simp) (.refl _ _ s)))⟩

end

/-- Settles O41: each case of the agreement by what `agree`, `tryCommit` and the end of a cut make of the record. -/
theorem cutAgreement : Obligations.CutAgreement := by
  unfold Obligations.CutAgreement
  intro s hi
  dsimp only
  refine ⟨fun n f c hc hf => ⟨fun hh => ⟨fun hs => .of_settled (exec_keepReport_stale hh hc hs) (staleAt_stale hi n), fun he hk => ⟨?_, ?_⟩⟩,
    fun hh i hm he hp hl => ⟨fun ha => .of_settled (exec_digest_stale hh hc hm ha) (staleAt_stale hi n), fun ha hw => ?_, fun hst ha hall => ?_,
      fun hst ha hk hsome hne => ?_, fun g _ hst ha hk hg hall => ?_⟩⟩,
    fun hhw hh => ⟨fun c hc hf => keepWatchdog_ends hi hhw hh hc hf, fun c hc hf => ⟨fun he => ?_, fun he => ⟨fun hheard hk => ?_, ?_⟩⟩⟩,
    fun hhw c hc hf => commitRecordAck_commits hi hhw hc hf, fun v hp => ⟨fun hv hoff hw => ⟨?_, ?_, ?_⟩, fun hv hw hn hon => ?_⟩⟩
  · exact keepReport_complete hh hc hf he hk
  · exact keepReport_incomplete hi hh hc hf he hk
  · exact digest_waits hh hc hf hm he hp hl ha hw
  · exact digest_agrees hh hc hf hm he hp hl ha hst hall
  · exact digest_differs hh hc hf hm he hp hl ha hi hst hk hsome hne
  · exact digest_corrupt hh hc hf hm he hp hl ha hi hst hk hg hall
  · have hexec := exec_xchgWatchdogExpiry (race := .none) hhw hh hc
    rw [if_neg (by rw [he]; exact Bool.false_ne_true)] at hexec
    exact .of_settled hexec rfl
  · exact xchgWatchdog_suspects hi hhw hh hc hf he hheard hk
  · have hexec := exec_xchgWatchdogExpiry (race := .arrivalWon) hhw hh hc
    rw [if_pos he, if_pos rfl] at hexec
    exact .of_settled hexec (logRace_arrivalWon hi ..)
  · exact cutEnable_takes hi hp hv hoff hw
  · exact cutEnable_badDirectory hi hp hv hoff hw
  · exact cutEnable_sharedBarrier hi hp hv hoff hw
  · exact cutDisable_abandons hi hp hv hw hn hon

end Sys2Proof.Machine
end

section
/-! Loading and clearing key slots (R208, R209). -/
namespace Sys2Proof.Machine

variable {s t : State} {n : Fin 16}

/-! ## The answer to a CMD -/

/-- The key slots and their load become those given, and CGM_SEC_KEY_CTRL shows the result of the CMD. -/
def State.keyAnswer (s : State) (v : Nat) (x : Sec) : State := ({ s with sec := x }).keyResult v

/-- The state with SLOT written, as KEY_COMMIT and KEY_CLEAR do before their CMD. -/
def State.keyNamed (s : State) (n : Fin 16) : State := s.wr Fld.secKeyCtrl.slot n

theorem keyAnswer_sec (s : State) (v : Nat) (x : Sec) : (s.keyAnswer v x).sec = x := rfl

theorem keyAnswer_rd (hi : s.Inv) {v : Nat} (hv : v < 16) (x : Sec) : (s.keyAnswer v x).rd Fld.secKeyCtrl.result = v :=
  (rd_wr_same _ _ (inv_rising ((keep_sec s x).inv hi)) (by decide)).trans (Nat.mod_eq_of_lt hv)

theorem keyAnswer_fields (hi : s.Inv) (v : Nat) (x : Sec) : FieldsBut [Fld.secKeyCtrl.result] s (s.keyAnswer v x) :=
  (FieldsBut.of_regs rfl).wr (inv_rising ((keep_sec s x).inv hi)) List.mem_cons_self v

theorem keyAnswer_changes (hi : s.Inv) (v : Nat) (x : Sec) : Changes [.regs, .sec] [Fld.secKeyCtrl.result] s (s.keyAnswer v x) :=
  ⟨(only_regs _ _).step (by decide) ((keep_sec s x).only.step (by decide) (.refl _ s)), keyAnswer_fields hi v x⟩

/-- An answer that leaves the key slots and their load as they were. -/
theorem keyAnswer_same (hi : s.Inv) (v : Nat) : Changes [.regs] [Fld.secKeyCtrl.result] s (s.keyAnswer v s.sec) :=
  ⟨only_regs s _, keyAnswer_fields hi v s.sec⟩

theorem keyNamed_inv (hi : s.Inv) : (s.keyNamed n).Inv := (State.wr_keep (has_all _) _ _).inv hi

theorem keyNamed_slot (hi : s.Inv) : (s.keyNamed n).rd Fld.secKeyCtrl.slot = n.val :=
  (rd_wr_same _ _ (inv_rising hi) (by decide)).trans (Nat.mod_eq_of_lt n.isLt)

/-- What a CMD for a named slot leaves, whatever its answer. -/
theorem keyNamed_answer (hi : s.Inv) (n : Fin 16) {v : Nat} (hv : v < 16) (x : Sec) :
    ((s.keyNamed n).keyAnswer v x).rd Fld.secKeyCtrl.result = v ∧
    Changes [.regs, .sec] [Fld.secKeyCtrl.slot, Fld.secKeyCtrl.result] s ((s.keyNamed n).keyAnswer v x) :=
  ⟨keyAnswer_rd (keyNamed_inv hi) hv x,
    (keyAnswer_changes (keyNamed_inv hi) v x).step (by decide) (by simp) ((wr_changes hi _ n).step (by decide) (by simp) (.refl _ _ s))⟩

/-- A CMD for a named slot that is refused leaves the key slots and their load as they were. -/
theorem keyNamed_refused (hi : s.Inv) (n : Fin 16) {v : Nat} (hv : v < 16) {u : State} (hu : u = (s.keyNamed n).keyAnswer v s.sec) :
    u.sec = s.sec ∧ u.rd Fld.secKeyCtrl.result = v ∧ Changes [.regs] [Fld.secKeyCtrl.slot, Fld.secKeyCtrl.result] s u := by
  subst hu
  exact ⟨rfl, keyAnswer_rd (keyNamed_inv hi) hv _,
    (keyAnswer_same (keyNamed_inv hi) v).step (by decide) (by simp) ((wr_changes hi _ n).step (by decide) (by simp) (.refl _ _ s))⟩

/-! ## The commands -/

theorem exec_key (hp : s.powered = true) (n : Fin 16) (kind : BitVec 2) (len : BitVec 7) (w : W64) :
    exec (.keyBegin n kind len) s = .next (s.keyCtrlWrite (n.val + 16 * kind.toNat + 64 * len.toNat + 0x2000)) ∧
    exec (.keyDataWord w) s = .next (s.keyWord w) ∧ exec (.keyCommit n) s = .next ((s.keyNamed n).keyCmd 2) ∧
    exec (.keyClear n) s = .next ((s.keyNamed n).keyCmd 3) := by
  have hon (t : State) : (if !s.powered then Host.Outcome.next s else .next t : Out) = .next t := by simp [hp]
  exact ⟨hon _, hon _, hon _, hon _⟩

theorem keyCmd_busy (h : s.keyBusy (s.rd Fld.secKeyCtrl.slot) = true) (c : Nat) : s.keyCmd c = s.keyAnswer 1 s.sec := by
  simp only [State.keyCmd, h, if_true]
  rfl

theorem keyCmd_begin (h : s.keyBusy (s.rd Fld.secKeyCtrl.slot) = false) :
    s.keyCmd 1 = s.keyAnswer 0 { s.sec with load := some { slot := Fin.ofNat 16 (s.rd Fld.secKeyCtrl.slot) } } := by
  simp [State.keyCmd, h, State.keyAnswer]

theorem keyCmd_commit (h : s.keyBusy (s.rd Fld.secKeyCtrl.slot) = false) : s.keyCmd 2 = s.keyCommit (s.rd Fld.secKeyCtrl.slot) := by
  simp [State.keyCmd, h]

theorem keyCmd_clear (h : s.keyBusy (s.rd Fld.secKeyCtrl.slot) = false) :
    s.keyCmd 3 = s.keyAnswer 0 { s.sec with slots := vset s.sec.slots (s.rd Fld.secKeyCtrl.slot) {} } := by
  simp [State.keyCmd, h, State.keyAnswer]

/-! ## A commit (R209) -/

/-- The bytes of a load, cut off at the length that LEN gives. -/
def State.keyBytes (s : State) (l : KeyLoad) : List Byte := (l.words.flatMap (fun w => leBytes 8 w.toNat)).take (s.rd Fld.secKeyCtrl.len + 1)

/-- Too few bytes, or an XTS key of another length than two halves of 32 bytes. -/
def State.keyShort (s : State) (l : KeyLoad) : Bool :=
  (s.keyBytes l).length < s.rd Fld.secKeyCtrl.len + 1 || (s.rd Fld.secKeyCtrl.kind == 1 && s.rd Fld.secKeyCtrl.len + 1 != 64)

/-- An XTS key whose halves are equal. -/
def State.keyTwice (s : State) (l : KeyLoad) : Bool :=
  s.rd Fld.secKeyCtrl.kind == 1 && (s.keyBytes l).take 32 == (s.keyBytes l).drop 32

/-- What a good load puts into its slot. -/
def State.keyOf (s : State) (l : KeyLoad) : KeySlot :=
  { kind := BitVec.ofNat 2 (s.rd Fld.secKeyCtrl.kind), bytes := s.keyBytes l, loaded := true }

theorem keyCommit_unbegun (h : s.sec.load.all (fun l => l.slot != n) = true) : s.keyCommit n = s.keyAnswer 4 s.sec := by
  unfold State.keyCommit
  cases hl : s.sec.load with
  | none => rfl
  | some l =>
    rw [hl] at h
    exact if_pos (bne_iff_ne.2 fun he => bne_iff_ne.1 h (Fin.ext he))

theorem keyCommit_bad {l : KeyLoad} (hl : s.sec.load = some l) (h : (s.keyShort l || s.keyTwice l) = true) :
    s.keyCommit l.slot = s.keyAnswer (if s.keyShort l = true then 2 else 3) { s.sec with load := none } := by
  have hmine : (l.slot.val != l.slot.val) = false := bne_self_eq_false _
  unfold State.keyCommit
  rw [hl]
  simp only [hmine, Bool.false_eq_true, if_false]
  by_cases hs : s.keyShort l = true
  · rw [if_pos hs]
    exact if_pos hs
  · rw [if_neg hs]
    rw [Bool.eq_false_iff.2 hs, Bool.false_or] at h
    exact (if_neg hs).trans (if_pos h)

theorem keyCommit_good {l : KeyLoad} (hl : s.sec.load = some l) (h : (s.keyShort l || s.keyTwice l) = false) :
    s.keyCommit l.slot = (s.keyAnswer 0 { slots := vset s.sec.slots l.slot (s.keyOf l), load := none }).keyLoaded := by
  have hmine : (l.slot.val != l.slot.val) = false := bne_self_eq_false _
  obtain ⟨hs, ht⟩ := Bool.or_eq_false_iff.1 h
  unfold State.keyCommit
  rw [hl]
  simp only [hmine, Bool.false_eq_true, if_false]
  exact (if_neg (Bool.eq_false_iff.1 hs)).trans (if_neg (Bool.eq_false_iff.1 ht))

/-- Generations that are not encrypted wait for no key. -/
theorem keyLoaded_plain (h : s.entries.all (fun e => !e.encrypted) = true) : s.keyLoaded = s :=
  foldl_stays _ _ fun e he => by
    have hplain : e.encrypted = false := (Bool.not_eq_true' _).mp (List.all_eq_true.1 h e he)
    simp [hplain]

/-- The write of SLOT leaves KIND and LEN, and with them what a load amounts to. -/
theorem keyNamed_load (hi : s.Inv) (l : KeyLoad) : (s.keyNamed n).keyShort l = s.keyShort l ∧ (s.keyNamed n).keyTwice l = s.keyTwice l ∧
    (s.keyNamed n).keyOf l = s.keyOf l := by
  have hkind : (s.keyNamed n).rd Fld.secKeyCtrl.kind = s.rd Fld.secKeyCtrl.kind := rd_wr_apart _ _ _ (inv_rising hi) (by decide)
  have hlen : (s.keyNamed n).rd Fld.secKeyCtrl.len = s.rd Fld.secKeyCtrl.len := rd_wr_apart _ _ _ (inv_rising hi) (by decide)
  unfold State.keyShort State.keyTwice State.keyOf State.keyBytes
  rw [hkind, hlen]
  exact ⟨rfl, rfl, rfl⟩

theorem keyNamed_busy (hi : s.Inv) : (s.keyNamed n).keyBusy ((s.keyNamed n).rd Fld.secKeyCtrl.slot) = s.keyBusy n := by
  rw [keyNamed_slot hi]
  rfl

/-- Other slots stay as they were. -/
theorem keySlot_vset (h : t.sec.slots = vset s.sec.slots n x) : t.keySlot n = x ∧ ∀ m : Nat, m ≠ n → t.keySlot m = s.keySlot m := by
  unfold State.keySlot
  rw [h]
  exact ⟨vget_vset_same _ _ _ n.isLt, fun m hm => vget_vset_other _ _ _ (Ne.symm hm)⟩

theorem keyNamed_clear (hi : s.Inv) (hb : s.keyBusy n = false) :
    (s.keyNamed n).keyCmd 3 = (s.keyNamed n).keyAnswer 0 { s.sec with slots := vset s.sec.slots n {} } := by
  rw [keyCmd_clear (by rw [keyNamed_busy hi, hb]), keyNamed_slot hi]
  rfl

theorem keyNamed_commit (hi : s.Inv) (hb : s.keyBusy n = false) : (s.keyNamed n).keyCmd 2 = (s.keyNamed n).keyCommit n := by
  rw [keyCmd_commit (by rw [keyNamed_busy hi, hb]), keyNamed_slot hi]

/-- A load in its slot, with the result that says so. -/
def State.keyStored (s : State) (l : KeyLoad) : State :=
  (s.keyNamed l.slot).keyAnswer 0 { slots := vset s.sec.slots l.slot (s.keyOf l), load := none }

theorem keyNamed_bad {l : KeyLoad} (hi : s.Inv) (hb : s.keyBusy l.slot = false) (hl : s.sec.load = some l)
    (h : (s.keyShort l || s.keyTwice l) = true) :
    (s.keyNamed l.slot).keyCmd 2 = (s.keyNamed l.slot).keyAnswer (if s.keyShort l = true then 2 else 3) { s.sec with load := none } := by
  obtain ⟨hshort, htwice, -⟩ := keyNamed_load (n := l.slot) hi l
  rw [keyNamed_commit hi hb, keyCommit_bad (s := s.keyNamed l.slot) hl (by rw [hshort, htwice, h]), hshort]
  rfl

theorem keyNamed_good {l : KeyLoad} (hi : s.Inv) (hb : s.keyBusy l.slot = false) (hl : s.sec.load = some l)
    (h : (s.keyShort l || s.keyTwice l) = false) : (s.keyNamed l.slot).keyCmd 2 = (s.keyStored l).keyLoaded := by
  obtain ⟨hshort, htwice, hof⟩ := keyNamed_load (n := l.slot) hi l
  rw [keyNamed_commit hi hb, keyCommit_good (s := s.keyNamed l.slot) hl (by rw [hshort, htwice, h]), hof]
  rfl

/-! ## A begin (R208) -/

theorem secKeyCtrl_row : ∃ row, regRow? Reg.secKeyCtrl = some row ∧ ⟨0, 4, .rw⟩ ∈ row.fields ∧ ⟨4, 2, .rw⟩ ∈ row.fields ∧
    ⟨6, 7, .rw⟩ ∈ row.fields := by
  have h : (regRow? Reg.secKeyCtrl).any (fun row =>
      row.fields.contains ⟨0, 4, .rw⟩ && row.fields.contains ⟨4, 2, .rw⟩ && row.fields.contains ⟨6, 7, .rw⟩) = true := by decide +kernel
  obtain ⟨row, hrow, hp⟩ := Option.any_eq_true .. |>.1 h
  simp only [Bool.and_eq_true, List.contains_iff_mem] at hp
  obtain ⟨⟨hslot, hkind⟩, hlen⟩ := hp
  exact ⟨row, hrow, hslot, hkind, hlen⟩

theorem secKeyCtrl_unfrozen (s : State) (lo : Nat) : s.fieldFrozen Reg.secKeyCtrl lo = false := by
  have hcanon : regCanon Reg.secKeyCtrl = 0x60000 := by decide +kernel
  unfold State.fieldFrozen
  rw [hcanon]
  exact Bool.and_false _

/-- A write in which nothing was wrong leaves its bits in SLOT, KIND and LEN. -/
theorem keyCtrl_written {w : Nat} (hi : s.Inv) (hw : (s.writePlain Reg.secKeyCtrl w).2 = true) :
    let t := (s.writePlain Reg.secKeyCtrl w).1
    t.rd Fld.secKeyCtrl.slot = bits w 0 4 ∧ t.rd Fld.secKeyCtrl.kind = bits w 4 2 ∧ t.rd Fld.secKeyCtrl.len = bits w 6 7 ∧
      Changes [.regs] [⟨Reg.secKeyCtrl, 0, 64⟩] s t := by
  obtain ⟨row, hrow, hslot, hkind, hlen⟩ := secKeyCtrl_row
  obtain ⟨hput, hgood⟩ := writePlain_true hrow hw
  obtain ⟨hpw, h64⟩ := regRows_fields row (List.mem_of_find?_eq_some hrow)
  have hrd {f : FieldRow} (hf : f ∈ row.fields) (hty : f.ty = .rw) :
      (s.putFields Reg.secKeyCtrl w row.fields).rd (f.fld Reg.secKeyCtrl) = bits w f.lo f.len := by
    rw [putFields_rd hi hpw hf (h64 f hf), fieldWritten_true hgood hf hty (secKeyCtrl_unfrozen s _)]
  rw [hput]
  exact ⟨hrd hslot rfl, hrd hkind rfl, hrd hlen rfl, only_regs s _, (FieldsBut.refl _ s).setReg List.mem_cons_self _⟩

/-- The word that KEY_BEGIN writes has its parts in their fields. -/
theorem keyBegin_bits (n : Fin 16) (kind : BitVec 2) (len : BitVec 7) :
    let w := n.val + 16 * kind.toNat + 64 * len.toNat + 0x2000
    bits w 0 4 = n.val ∧ bits w 4 2 = kind.toNat ∧ bits w 6 7 = len.toNat ∧ bits w 13 3 = 1 := by
  have hn := n.isLt
  have hk := kind.isLt
  have hl := len.isLt
  simp only [bits, Nat.shiftRight_eq_div_pow]
  omega

/-- SLOT, KIND and LEN stand in CGM_SEC_KEY_CTRL, whatever the answer to the begin. -/
theorem keyBegun (hi : s.Inv) {kind : BitVec 2} {len : BitVec 7} {v : Nat} (hv : v < 16) (x : Sec)
    (hw : (s.writePlain Reg.secKeyCtrl (n.val + 16 * kind.toNat + 64 * len.toNat + 0x2000)).2 = true) {u : State}
    (hu : u = (s.writePlain Reg.secKeyCtrl (n.val + 16 * kind.toNat + 64 * len.toNat + 0x2000)).1) :
    u.rd Fld.secKeyCtrl.slot = n.val ∧ Changes [.regs] [⟨Reg.secKeyCtrl, 0, 64⟩] s u ∧
    exec (.keyBegin n kind len) s = .next (if s.powered then u.keyCmd 1 else s) ∧
    (u.keyAnswer v x).rd Fld.secKeyCtrl.kind = kind.toNat ∧ (u.keyAnswer v x).rd Fld.secKeyCtrl.len = len.toNat ∧
    (u.keyAnswer v x).rd Fld.secKeyCtrl.slot = n.val ∧ (u.keyAnswer v x).rd Fld.secKeyCtrl.result = v := by
  subst hu
  obtain ⟨hslot, hkind, hlen, hch⟩ := keyCtrl_written hi hw
  obtain ⟨bslot, bkind, blen, bcmd⟩ := keyBegin_bits n kind len
  have hinv := (State.writePlain_keep has_Reg_secKeyCtrl s (n.val + 16 * kind.toNat + 64 * len.toNat + 0x2000)).inv hi
  have hf := keyAnswer_fields hinv v x
  refine ⟨hslot.trans bslot, hch, ?_, (hf.rd (by decide)).trans (hkind.trans bkind), (hf.rd (by decide)).trans (hlen.trans blen),
    (hf.rd (by decide)).trans (hslot.trans bslot), keyAnswer_rd hinv hv x⟩
  show (if !s.powered then Host.Outcome.next s else .next (s.keyCtrlWrite _) : Out) = _
  unfold State.keyCtrlWrite
  rw [bcmd]
  cases s.powered <;> rfl

section
variable {kind : BitVec 2} {len : BitVec 7} {u : State}

theorem keyBegin_takes (hi : s.Inv) (hp : s.powered = true)
    (hw : (s.writePlain Reg.secKeyCtrl (n.val + 16 * kind.toNat + 64 * len.toNat + 0x2000)).2 = true)
    (hu : u = (s.writePlain Reg.secKeyCtrl (n.val + 16 * kind.toNat + 64 * len.toNat + 0x2000)).1) (hb : u.keyBusy n = false) :
    Does (.keyBegin n kind len) s fun t =>
      t.sec = { s.sec with load := some { slot := n } } ∧ t.rd Fld.secKeyCtrl.kind = kind.toNat ∧ t.rd Fld.secKeyCtrl.len = len.toNat ∧
      t.rd Fld.secKeyCtrl.slot = n.val ∧ t.rd Fld.secKeyCtrl.result = 0 ∧ Changes [.regs, .sec] [⟨Reg.secKeyCtrl, 0, 64⟩] s t := by
  obtain ⟨hslot, hch, hexec, hrd⟩ := keyBegun hi (v := 0) (by decide) { s.sec with load := some { slot := n } } hw hu
  have hsec : u.sec = s.sec := hch.1.same .sec (by decide)
  obtain ⟨hkind, hlen, hname, hres⟩ := hrd
  refine ⟨_, hexec, ?_⟩
  rw [hp, if_pos rfl, keyCmd_begin (by rw [hslot, hb]), hslot, hsec, show Fin.ofNat 16 n.val = n from Fin.ofNat_val_eq_self n]
  refine ⟨rfl, hkind, hlen, hname, hres, ?_, hch.2.setReg List.mem_cons_self _⟩
  exact (only_regs _ _).step (by decide) ((keep_sec u _).only.step (by decide) (hch.1.step (by decide) (.refl _ s)))

theorem keyBegin_refused (hi : s.Inv) (hp : s.powered = true)
    (hw : (s.writePlain Reg.secKeyCtrl (n.val + 16 * kind.toNat + 64 * len.toNat + 0x2000)).2 = true)
    (hu : u = (s.writePlain Reg.secKeyCtrl (n.val + 16 * kind.toNat + 64 * len.toNat + 0x2000)).1) (hb : u.keyBusy n = true) :
    Does (.keyBegin n kind len) s fun t =>
      t.sec = s.sec ∧ t.rd Fld.secKeyCtrl.result = 1 ∧ Changes [.regs] [⟨Reg.secKeyCtrl, 0, 64⟩] s t := by
  obtain ⟨hslot, hch, hexec, -, -, -, hres⟩ := keyBegun hi (v := 1) (by decide) u.sec hw hu
  have hsec : u.sec = s.sec := hch.1.same .sec (by decide)
  refine ⟨_, hexec, ?_⟩
  rw [hp, if_pos rfl, keyCmd_busy (by rw [hslot, hb])]
  exact ⟨(keyAnswer_sec u 1 _).trans hsec, hres, (only_regs u _).step (by decide) hch.1, hch.2.setReg List.mem_cons_self _⟩

end

theorem keyWord_adds {l : KeyLoad} (hl : s.sec.load = some l) (hlen : l.words.length < 16) (w : W64) :
    s.keyWord w = { s with sec := { s.sec with load := some { l with words := l.words ++ [w] } } } := by
  simp [State.keyWord, hl, hlen]

theorem keyWord_past (h : ∀ l, s.sec.load = some l → 16 ≤ l.words.length) (w : W64) : s.keyWord w = s := by
  unfold State.keyWord
  split
  next l hl => exact if_neg (Nat.not_lt.2 (h l hl))
  next => rfl

/-- A good load fills its slot and no other; generations that waited for the key follow. -/
theorem keyCommit_loads {l : KeyLoad} (hi : s.Inv) (hp : s.powered = true) (hb : s.keyBusy l.slot = false) (hl : s.sec.load = some l)
    (h : (s.keyShort l || s.keyTwice l) = false) : Does (.keyCommit l.slot) s fun t =>
      t.keySlot l.slot = s.keyOf l ∧ (∀ m : Nat, m ≠ l.slot → t.keySlot m = s.keySlot m) ∧ t.sec.load = none ∧
      t.rd Fld.secKeyCtrl.result = 0 ∧
      (s.entries.all (fun e => !e.encrypted) = true → Changes [.regs, .sec] [Fld.secKeyCtrl.slot, Fld.secKeyCtrl.result] s t) := by
  obtain ⟨-, -, hcommit, -⟩ := exec_key hp l.slot 0 0 0
  refine ⟨_, hcommit, ?_⟩
  rw [keyNamed_good hi hb hl h]
  obtain ⟨hres, hch⟩ : (s.keyStored l).rd Fld.secKeyCtrl.result = 0 ∧ Changes _ _ s (s.keyStored l) :=
    keyNamed_answer hi l.slot (by decide) _
  have hinv : (s.keyStored l).Inv := (State.wr_keep (has_all _) _ _).inv ((keep_sec _ _).inv (keyNamed_inv hi))
  have hkeep := State.keyLoaded_keep (s.keyStored l)
  have hsec : (s.keyStored l).keyLoaded.sec = { slots := vset s.sec.slots l.slot (s.keyOf l), load := none } := hkeep.same .sec (by decide)
  obtain ⟨hmine, hothers⟩ := keySlot_vset (s := s) (congrArg Sec.slots hsec)
  refine ⟨hmine, hothers, congrArg Sec.load hsec, (hkeep.rd hinv (by decide +kernel)).trans hres, fun hplain => ?_⟩
  rw [keyLoaded_plain (s := s.keyStored l) hplain]
  exact hch

/-- Settles O45: each CMD by what it leaves of the key slots and their load, with its answer. -/
theorem keySlots : Obligations.KeySlots := by
  intro s hi hp
  have hexec := exec_key hp
  refine ⟨fun n => ⟨fun hb => ?_, fun kind len hw => ⟨keyBegin_takes hi hp hw rfl, keyBegin_refused hi hp hw rfl⟩, fun hb =>
    ⟨?_, fun hl => ?_, ?_⟩⟩, fun w => ?_⟩
  · obtain ⟨-, -, hcommit, hclear⟩ := hexec n 0 0 0
    have hbusy := keyCmd_busy (keyNamed_busy (n := n) hi |>.trans hb)
    exact ⟨⟨_, hcommit, keyNamed_refused hi n (by decide) (hbusy 2)⟩, ⟨_, hclear, keyNamed_refused hi n (by decide) (hbusy 3)⟩⟩
  · obtain ⟨-, -, -, hclear⟩ := hexec n 0 0 0
    obtain ⟨hmine, hothers⟩ := keySlot_vset (n := n) (x := {}) (s := s) (t := { s with sec := { s.sec with slots := vset s.sec.slots n {} } }) rfl
    exact ⟨_, hclear.trans (congrArg _ (keyNamed_clear hi hb)), hmine, hothers, rfl, keyNamed_answer hi n (by decide) _⟩
  · obtain ⟨-, -, hcommit, -⟩ := hexec n 0 0 0
    exact ⟨_, hcommit, keyNamed_refused hi n (by decide) ((keyNamed_commit hi hb).trans (keyCommit_unbegun hl))⟩
  · rintro l hl rfl
    obtain ⟨-, -, hcommit, -⟩ := hexec l.slot 0 0 0
    refine ⟨fun h => ?_, keyCommit_loads hi hp hb hl⟩
    have hlt : (if s.keyShort l = true then 2 else 3) < 16 := by split <;> decide
    exact ⟨_, hcommit.trans (congrArg _ (keyNamed_bad hi hb hl h)), rfl, keyNamed_answer hi l.slot hlt _⟩
  · obtain ⟨-, hword, -⟩ := hexec 0 0 0 w
    refine ⟨fun hl => ⟨_, hword, keyWord_past (by simp [hl]) w⟩, fun l hl => ⟨fun hlen => ?_, fun hlen => ?_⟩⟩
    · exact ⟨_, hword.trans (congrArg _ (keyWord_adds hl hlen w)), rfl, .of_only (keep_sec s _).only rfl⟩
    · exact ⟨_, hword, keyWord_past (by simp [hl, hlen]) w⟩

end Sys2Proof.Machine
end

section
/-! READ SHARD at each tier (R304, R308, R310, R210). -/
namespace Sys2Proof.Machine

variable {s t u : State} {c : Ctx} {k : Fin 128} {b : List Byte} {st : Status} {r1 : Nat}

/-! ## Bytes delivered -/

/-- The bytes stand at ADDR and nothing else of BX3 memory has changed; a relayed command carries them as well. -/
def ReadGot (k : Fin 128) (c : Ctx) (b : List Byte) (s t : State) : Prop :=
  t.load c.addr b.length = b ∧ BytesBut c.addr b.length s t ∧
  (t.ctx? k).map (fun d => d.data) = some (if c.relay.isSome = true then b else c.data)

/-- The command has ended with a status and RESULT1; RESULT0 counts the 4 KiB units, where the last one is whole. -/
def ReadEnded (k : Fin 128) (st : Status) (b : List Byte) (r1 : Nat) (t : State) : Prop :=
  (t.ctx? k).map (fun d => (d.finished, d.status, d.r1)) = some (true, st, BitVec.ofNat 32 r1) ∧
  (b.length % 4096 = 0 → (t.ctx? k).map (fun d => d.r0) = some (BitVec.ofNat 32 (b.length / 4096)))

/-- A READ SHARD delivers bytes and succeeds. -/
def ReadGives (k : Fin 128) (c : Ctx) (s : State) (b : List Byte) : Prop :=
  Does (.readShard k) s fun t => ReadGot k c b s t ∧ ReadEnded k 0 b 0 t ∧ Changes [.mem, .cmd, .freeCtr] [] s t

/-- A READ SHARD is turned away. -/
abbrev ReadAway (k : Fin 128) (c : Ctx) (s : State) (st : Status) : Prop := Does (.readShard k) s (TurnedAway k c st s)

/-- A READ SHARD of a shard with a length: a bad range turns it away, and of a good one the bytes are delivered. -/
def ReadServes (k : Fin 128) (c : Ctx) (s : State) (total : Nat) (b : List Byte) : Prop :=
  (∀ st, spanBad 4096 total c.off c.len = some st → ReadAway k c s st) ∧ (spanBad 4096 total c.off c.len = none → ReadGives k c s b)

/-- The context of a command that has its bytes. -/
def Ctx.withData (c : Ctx) (b : List Byte) : Ctx := { c with data := if c.relay.isSome = true then b else c.data }

/-- Delivery is the end of the command in a state that has the bytes. -/
theorem readDone_ends (hc : s.ctx? k = some c) (b : List Byte) (st : Status) (r1 : Nat) : ∃ u r0,
    s.readDone k c b st r1 = u.ctxEnd k st r0 r1 ∧ u.ctx? k = some (c.withData b) ∧ u.mem = (s.store' c.addr b).mem ∧
    (b.length % 4096 = 0 → r0 = b.length / 4096) ∧ Only [.mem, .cmd, .freeCtr] s u ∧ u.regs = s.regs := by
  have hput : ∃ v : State, (if c.relay.isSome = true then (s.store' c.addr b).putCtx k { c with data := b } else s.store' c.addr b) = v ∧
      v.ctx? k = some (c.withData b) ∧ v.mem = (s.store' c.addr b).mem ∧ Only [.mem, .cmd, .freeCtr] s v ∧ v.regs = s.regs := by
    refine ⟨_, rfl, ?_⟩
    have hmem : Only [.mem, .cmd, .freeCtr] s (s.store' c.addr b) := (State.store'_keep s _ b).only.step (by decide) (.refl _ s)
    unfold Ctx.withData
    split
    · exact ⟨kget_kset_same .., rfl, (putCtx_only _ k _).step (by decide) hmem, rfl⟩
    · exact ⟨hc, rfl, hmem, rfl⟩
  obtain ⟨v, hv, hctx, hmem, honly, hregs⟩ := hput
  unfold State.readDone
  dsimp only
  rw [hv]
  split
  · exact ⟨v, _, rfl, hctx, hmem, fun _ => by simp [b2n], honly, hregs⟩
  · next hpart =>
    exact ⟨v.pickBool.2, _, rfl, hctx, hmem, fun h => absurd h hpart, (State.pickBool_keep v).only.step (by decide) honly, hregs⟩

theorem readDone_delivers (hi : s.Inv) (hc : s.ctx? k = some c) (hf : c.finished = false) (b : List Byte) (st : Status) (r1 : Nat) :
    ReadGot k c b s (s.readDone k c b st r1) ∧ ReadEnded k st b r1 (s.readDone k c b st r1) := by
  obtain ⟨u, r0, hdone, hctx, hmem, hr0, -⟩ := readDone_ends hc b st r1
  rw [hdone]
  have hended : Ended k (c.withData b) st r0 r1 (u.ctxEnd k st r0 r1) := ctxEnd_ended hctx hf st r0 r1
  have hm : (u.ctxEnd k st r0 r1).mem = (s.store' c.addr b).mem := ((State.ctxEnd_keep u k st r0 r1).same .mem (by decide)).trans hmem
  unfold Ended at hended
  unfold ReadGot ReadEnded
  rw [hended]
  exact ⟨⟨(load_congr hm ..).trans (load_store'_same hi ..), (BytesBut.store' s b le_rfl).congr hm, rfl⟩, rfl, fun h => by rw [hr0 h]; rfl⟩

theorem readDone_success (hc : s.ctx? k = some c) (hf : c.finished = false) (b : List Byte) :
    Changes [.mem, .cmd, .freeCtr] [] s (s.readDone k c b St.success 0) := by
  obtain ⟨u, r0, hdone, hctx, -, -, honly, hregs⟩ := readDone_ends hc b St.success 0
  rw [hdone, ctxEnd_success hctx hf]
  exact ⟨(putCtx_only _ k _).step (by decide) honly, .of_regs hregs⟩

/-! ## The checks before every tier -/

/-- READ SHARD by its tier (R310). -/
def State.shardRead (s : State) (k : Nat) (c : Ctx) : State :=
  if c.tier = 0 then s.readFrom k c (s.liveShard c)
  else if c.tier = 1 then s.readFrom k c (s.battShard c)
  else if c.tier = 2 then s.readSedge k c
  else if (s.freeCtx [3]).isNone then s else s.readPeat k c

theorem exec_readShard (h : s.running k 1 = some c) : exec (.readShard k) s = .next (
    if c.off % 4096 ≠ 0 then s.ctxEnd k St.invalidField 0 0
    else if s.inWindow c.addr c.len = false then s.ctxEnd k St.outOfWindow 0 0
    else s.shardRead k c) := by
  show execReadShard k s = _
  simp only [execReadShard, h]
  by_cases hoff : c.off % 4096 ≠ 0
  · rw [if_pos hoff, if_pos hoff]
  · rw [if_neg hoff, if_neg hoff]
    cases hwin : s.inWindow c.addr c.len with
    | false => rfl
    | true =>
      simp only [Bool.not_true, Bool.false_eq_true, Bool.true_eq_false, if_false]
      unfold State.shardRead
      split <;> simp_all [apply_ite Host.Outcome.next]

section
variable (hi : s.Inv) (h : s.running k 1 = some c)
include hi h

/-- The command is turned away wherever its work is nothing but its end with a status. -/
theorem readShard_away (hexec : exec (.readShard k) s = .next (s.ctxEnd k st 0 0)) : ReadAway k c s st :=
  ⟨_, hexec, ctxEnd_turnedAway hi (running_ctx h).1 (running_ctx h).2 st⟩

theorem readShard_gives (hexec : exec (.readShard k) s = .next (s.readDone k c b St.success 0)) : ReadGives k c s b := by
  obtain ⟨hc, hf⟩ := running_ctx h
  obtain ⟨hgot, hended⟩ := readDone_delivers hi hc hf b St.success 0
  exact ⟨_, hexec, hgot, hended, readDone_success hc hf b⟩

theorem readFrom_serves {sh : Shard} (hexec : exec (.readShard k) s = .next (s.readFrom k c (.ok sh))) :
    ReadServes k c s sh.total (sh.bytes c.off c.len) := by
  refine ⟨fun st hspan => readShard_away hi h (hexec.trans ?_), fun hspan => readShard_gives hi h (hexec.trans ?_)⟩ <;>
    simp only [State.readFrom, hspan]

/-- What is not there to be read turns the command away. -/
theorem readFrom_away {x : Except Status Shard} (hexec : exec (.readShard k) s = .next (s.readFrom k c x)) (hx : x = .error st) :
    ReadAway k c s st := by
  subst hx
  exact readShard_away hi h hexec

/-- A failing extent: what precedes it is delivered, and it becomes BAD (R212). -/
theorem readShard_bad {f : MapEntry → Bool} {shard : W32} {i : Nat}
    (hexec : exec (.readShard k) s = .next ((s.mapBad f shard i).readDone k c b St.crcMismatch i)) : Does (.readShard k) s fun t =>
      ReadGot k c b s t ∧ ReadEnded k 0x0203 b i t ∧ t.map = (s.mapBad f shard i).map ∧
      Changes [.mem, .map, .cmd, .freeCtr, .regs, .log] [Fld.ctlErrlog.head, Fld.tierErrStatus.mapFull, Fld.tierMapStatus.fullEvents] s t := by
  obtain ⟨hc, hf⟩ := running_ctx h
  have hbad := State.mapBad_keep s f shard i
  have hdone := State.readDone_keep (s.mapBad f shard i) k c b St.crcMismatch i
  have hctx : (s.mapBad f shard i).ctx? k = some c := (congrArg (fun m : Cmd => kget m.ctxs k) (hbad.same .cmd (by decide))).trans hc
  have hmem : (s.mapBad f shard i).mem = s.mem := hbad.same .mem (by decide)
  obtain ⟨⟨hload, hbut, hdata⟩, hended⟩ := readDone_delivers (hbad.inv hi) hctx hf b St.crcMismatch i
  refine ⟨_, hexec, ⟨hload, fun a => hmem ▸ hbut a, hdata⟩, hended, hdone.same .map (by decide), ?_⟩
  exact (Changes.of_keep (fs := [Fld.ctlErrlog.head]) hdone (hbad.inv hi) (by decide +kernel)).step (by decide) (by simp)
    ((Changes.of_keep (fs := [Fld.tierErrStatus.mapFull, Fld.tierMapStatus.fullEvents]) hbad hi (by decide +kernel)).step (by decide) (by simp)
      (.refl _ _ s))

/-- No loaded slot has the key (R210). -/
theorem readShard_keyless (hexec : exec (.readShard k) s = .next (s.keyMissing k)) : Does (.readShard k) s fun t =>
    Ended k c 0x0805 0 0 t ∧ t.rd Fld.peatErrStatus.keyAbsent = 1 ∧
    Changes [.regs, .log, .cmd] [Fld.ctlErrlog.head, Fld.peatErrStatus.keyAbsent] s t := by
  obtain ⟨hc, hf⟩ := running_ctx h
  have hinv : (s.raise Fld.peatErrStatus.keyAbsent).Inv := (State.raise_keep (has_all _) s).inv hi
  have hend := ctxEnd_changes hinv k St.keyAbsent 0 0
  refine ⟨(s.raise Fld.peatErrStatus.keyAbsent).ctxEnd k St.keyAbsent 0 0, hexec, ctxEnd_ended (s := s.raise _) hc hf _ 0 0, ?_,
    hend.step (by decide) (by simp) ((wr_changes hi _ 1).step (by decide) (by simp) (.refl _ _ s))⟩
  rw [hend.2.rd (by decide)]
  exact rd_wr_same _ 1 (inv_rising hi) (by decide)

/-! ## Live state, the record ring, and the halves -/

theorem readShard_live (hexec : exec (.readShard k) s = .next (s.readFrom k c (s.liveShard c))) (hshard : c.shard ≠ 0xFFFFFFFD) :
    ((c.step ≠ 0 ∨ c.gen ≠ 0) → ReadAway k c s 0x0102) ∧
    (c.step = 0 → c.gen = 0 → (s.regionById c.shard = none → ReadAway k c s 0x0106) ∧
      ∀ r, s.regionById c.shard = some r → ReadServes k c s r.len (s.load (r.live + c.off) c.len)) := by
  have hlive : s.liveShard c = if (c.step != 0 || c.gen != 0) = true then .error St.invalidField else match s.regionById c.shard with
      | none => .error St.shardUnknown
      | some r => .ok { total := r.len, bytes := fun o n => s.load (r.live + o) n } := if_neg hshard
  refine ⟨fun hno => readFrom_away hi h hexec ?_, fun hstep hgen => ⟨fun hr => readFrom_away hi h hexec ?_, fun r hr => ?_⟩⟩
  · rw [hlive, if_pos (by simpa using hno)]
    rfl
  · simp only [hlive, hstep, hgen, hr]
    rfl
  · refine readFrom_serves hi h (sh := { total := r.len, bytes := fun o n => s.load (r.live + o) n }) (hexec.trans ?_)
    simp only [hlive, hstep, hgen, hr]
    rfl

theorem readShard_record (hexec : exec (.readShard k) s = .next (s.readFrom k c (s.liveShard c))) (hshard : c.shard = 0xFFFFFFFD) :
    let slot := s.rdAddr Fld.tierRecBase.base + c.step.toNat % 4 * 16384
    (c.gen ≠ 0 → ReadAway k c s 0x0102) ∧
    (c.gen = 0 → leNat (s.load slot 8) ≠ c.step.toNat → ReadAway k c s 0x0107) ∧
    (c.gen = 0 → leNat (s.load slot 8) = c.step.toNat → ReadServes k c s 16384 (s.load (slot + c.off) c.len)) := by
  intro slot
  have hrec : s.liveShard c = if (c.gen != 0) = true then .error St.invalidField
      else if leNat (s.load slot 8) ≠ c.step.toNat then .error St.tierUnavailable
      else .ok { total := 16384, bytes := fun o n => s.load (slot + o) n } := if_pos hshard
  refine ⟨fun hno => readFrom_away hi h hexec ?_, fun hgen hno => readFrom_away hi h hexec ?_, fun hgen hyes => ?_⟩
  · rw [hrec, if_pos (by simpa using hno)]
    rfl
  · rw [hrec, if_neg (by simp [hgen]), if_pos hno]
    rfl
  · refine readFrom_serves hi h (sh := { total := 16384, bytes := fun o n => s.load (slot + o) n }) (hexec.trans ?_)
    rw [hrec, if_neg (by simp [hgen]), if_neg (by simp [hyes])]

theorem readShard_batt (hexec : exec (.readShard k) s = .next (s.readFrom k c (s.battShard c))) :
    (s.heldCut c.step c.gen = none → ReadAway k c s 0x0107) ∧
    ∀ d, s.heldCut c.step c.gen = some d → (s.regionById c.shard = none → ReadAway k c s 0x0106) ∧
      ∀ r, s.regionById c.shard = some r → ReadServes k c s r.len (s.image (some d.2) r c.off c.len) := by
  refine ⟨fun hd => readFrom_away hi h hexec ?_, fun d hd => ⟨fun hr => readFrom_away hi h hexec ?_, fun r hr => ?_⟩⟩
  · simp only [State.battShard, hd]
    rfl
  · simp only [State.battShard, hd, hr]
    rfl
  · refine readFrom_serves hi h (sh := { total := r.len, bytes := fun o n => s.image (some d.2) r o n }) (hexec.trans ?_)
    simp only [State.battShard, hd, hr]

/-! ## The Sedge host -/

omit hi in
/-- The host is asked for one range. -/
theorem readShard_asks {a : Nat} (hexec : exec (.readShard k) s = .next (s.fetchFrom k c s.partnerAt c.step c.gen [(a + c.off, c.len)])) :
    Does (.readShard k) s fun t =>
      t.outbox = (s.sendTo (BitVec.ofNat 10 (s.rd Fld.tierPartner.rack)) (BitVec.ofNat 7 (s.rd Fld.tierPartner.position)) Ty.refillRequest
        (s.rstFrame 0 c.step.toNat (leBytes 8 (a + c.off) ++ leBytes 8 c.len))).outbox ∧
      (t.ctx? k).map (fun d => (d.finished, d.asked, d.want)) = some (false, true, [(a + c.off, c.len)]) ∧ Changes [.cmd, .outbox] [] s t := by
  obtain ⟨-, hf⟩ := running_ctx h
  have hsend := State.sendTo_keep s s.partnerAt.1 s.partnerAt.2 Ty.refillRequest
    (s.rstFrame 0 c.step.toNat (leBytes 8 (a + c.off) ++ leBytes 8 c.len))
  refine ⟨_, hexec, rfl, ?_, Only.step (putCtx_only _ k _) (by decide) (hsend.only.step (by decide) (.refl _ s)), .of_regs ?_⟩
  · refine (congrArg (Option.map _) (kget_kset_same ..)).trans ?_
    rw [← hf]
    rfl
  · exact hsend.same .regs (by decide)

theorem readShard_sedge (hexec : exec (.readShard k) s = .next (s.readSedge k c)) :
    ((s.ownSet c.step c.gen && s.hostAlive) = false → ReadAway k c s 0x0107) ∧
    ((s.ownSet c.step c.gen && s.hostAlive) = true → (s.sedgeAt c.shard = none → ReadAway k c s 0x0106) ∧
      ∀ x, s.sedgeAt c.shard = some x →
        (∀ st, spanBad 4096 x.2 c.off c.len = some st → ReadAway k c s st) ∧
        (spanBad 4096 x.2 c.off c.len = none → c.len ≠ 0 → c.asked = false →
          exec (.readShard k) s = .next (s.fetchFrom k c s.partnerAt c.step c.gen [(x.1 + c.off, c.len)])) ∧
        (spanBad 4096 x.2 c.off c.len = none → c.asked = true → c.want ≠ [] → Does (.readShard k) s fun t => t = s) ∧
        (spanBad 4096 x.2 c.off c.len = none → c.asked = true → c.want = [] → ReadGives k c s (Memory.bytesAt c.area (x.1 + c.off) c.len))) := by
  have hgate : (!s.ownSet c.step c.gen || !s.hostAlive) = !(s.ownSet c.step c.gen && s.hostAlive) := (Bool.not_and ..).symm
  unfold State.readSedge at hexec
  rw [hgate] at hexec
  refine ⟨fun hno => readShard_away hi h (hexec.trans ?_), fun hyes => ?_⟩
  · rw [hno]
    rfl
  · rw [hyes] at hexec
    replace hexec := hexec.trans (congrArg _ (if_neg Bool.false_ne_true))
    refine ⟨fun hx => readShard_away hi h (hexec.trans ?_), fun x hx => ⟨fun st hspan => readShard_away hi h (hexec.trans ?_),
      fun hspan hlen hask => hexec.trans ?_, fun hspan hask hwant => ⟨_, hexec, ?_⟩,
      fun hspan hask hwant => readShard_gives hi h (hexec.trans ?_)⟩⟩
    · rw [hx]
      rfl
    · simp only [hx, hspan]
    · simp [hx, hspan, hlen, hask]
    · simp [hx, hspan, hask, hwant]
    · simp [hx, hspan, hask, hwant]

/-! ## Peat -/

/-- What stands on the way to a generation: Peat reads are stopped, or no entry is there. -/
theorem readShard_noEntry (hexec : exec (.readShard k) s = .next (s.readPeat k c)) :
    (∀ st, s.peatReadStop = some st → ReadAway k c s st) ∧
    (s.peatReadStop = none → s.entryOf c.step c.gen = none → ReadAway k c s 0x0107) := by
  refine ⟨fun st hst => readShard_away hi h (hexec.trans ?_), fun hst he => readShard_away hi h (hexec.trans ?_)⟩
  · simp only [State.readPeat, hst]
  · simp only [State.readPeat, hst, he]
    rfl

section
variable {e : CatEntry} (hexec : exec (.readShard k) s = .next (s.readPeat k c)) (hst : s.peatReadStop = none)
  (he : s.entryOf c.step c.gen = some e)
include hexec hst he

theorem readShard_noKey (hkey : s.entryKey e = none) : Does (.readShard k) s fun t =>
    Ended k c 0x0805 0 0 t ∧ t.rd Fld.peatErrStatus.keyAbsent = 1 ∧
    Changes [.regs, .log, .cmd] [Fld.ctlErrlog.head, Fld.peatErrStatus.keyAbsent] s t := by
  refine readShard_keyless hi h (hexec.trans ?_)
  simp only [State.readPeat, hst, he, hkey]

variable {key : Option (List Byte)} {man : List Byte} (hkey : s.entryKey e = some key) (hman : s.entryMan e = .ok man)
include hkey hman

/-- The manifest and the record inside it. -/
theorem readShard_manifest :
    (c.shard = shardManifest → ReadServes k c s man.length ((man.drop c.off).take c.len)) ∧
    (c.shard = shardRecord → ReadServes k c s 16384 ((man.drop (up4k (manRecords man) + c.off)).take c.len)) := by
  simp only [State.readPeat, hst, he, hkey, hman] at hexec
  refine ⟨fun hsh => readFrom_serves hi h (sh := { total := man.length, bytes := fun o l => (man.drop o).take l }) (hexec.trans ?_), fun hsh =>
    readFrom_serves hi h (sh := { total := 16384, bytes := fun o l => (man.drop (up4k (manRecords man) + o)).take l }) (hexec.trans ?_)⟩
  · rw [if_pos hsh]
  · rw [if_neg (by rw [hsh]; decide), if_pos hsh]

omit hi h in
/-- Whole extents of a region, up to the first that fails its CRC-64. -/
theorem readShard_region (hsh : c.shard < shardRecord) {x : ManRegion}
    (hx : (Man.ofBytes man).regions.find? (fun x => x.region.shard.toNat == c.shard) = some x) :
    exec (.readShard k) s = .next (s.readPeatRegion k c e key (Man.ofBytes man) x) := by
  simp only [State.readPeat, hst, he, hkey, hman] at hexec
  rw [hexec, if_neg (ne_of_lt (lt_of_lt_of_le hsh (by decide))), if_neg (ne_of_lt hsh), hx]

theorem readShard_noRegion (hsh : c.shard < shardRecord)
    (hx : (Man.ofBytes man).regions.find? (fun x => x.region.shard.toNat == c.shard) = none) : ReadAway k c s 0x0106 := by
  simp only [State.readPeat, hst, he, hkey, hman] at hexec
  rw [if_neg (ne_of_lt (lt_of_lt_of_le hsh (by decide))), if_neg (ne_of_lt hsh), hx] at hexec
  exact readShard_away hi h hexec

end

/-- The extents that a range of a region needs. -/
def Ctx.readExts (c : Ctx) (m : Man) (x : ManRegion) : List ManExtent :=
  (((m.exts.drop x.first).take x.count).drop (c.off / 0x100000)).take ((c.off + c.len + 0xFFFFF) / 0x100000 - c.off / 0x100000)

/-- What the good extents of a range deliver of it. -/
def State.readBytes (s : State) (c : Ctx) (key : Option (List Byte)) (m : Man) (x : ManRegion) : List Byte :=
  ((s.goodExts key (c.readExts m x) (c.off / 0x100000)).1.drop (c.off - c.off / 0x100000 * 0x100000)).take c.len

section
variable {e : CatEntry} {key : Option (List Byte)} {m : Man} {x : ManRegion}

omit hi h in
theorem readPeatRegion_good (hspan : spanBad 4096 x.region.len c.off c.len = none) : s.readPeatRegion k c e key m x =
    s.readGood k c e.peatGen x.region.shard (s.readBytes c key m x) (s.goodExts key (c.readExts m x) (c.off / 0x100000)).2 := by
  have hunit : extentBytes = 0x100000 := rfl
  have hhi : c.off + c.len + 0x100000 - 1 = c.off + c.len + 0xFFFFF := by omega
  simp only [State.readPeatRegion, hspan, hunit, hhi, State.readBytes, Ctx.readExts]

theorem readShard_extents (hexec : exec (.readShard k) s = .next (s.readPeatRegion k c e key m x)) :
    (∀ st, spanBad 4096 x.region.len c.off c.len = some st → ReadAway k c s st) ∧
    (spanBad 4096 x.region.len c.off c.len = none → (s.goodExts key (c.readExts m x) (c.off / 0x100000)).2 = none →
      ReadGives k c s (s.readBytes c key m x)) ∧
    (spanBad 4096 x.region.len c.off c.len = none → ∀ i, (s.goodExts key (c.readExts m x) (c.off / 0x100000)).2 = some i →
      Does (.readShard k) s fun t => ReadGot k c (s.readBytes c key m x) s t ∧ ReadEnded k 0x0203 (s.readBytes c key m x) i t ∧
        t.map = (s.mapBad (mapPeat e.peatGen) x.region.shard i).map ∧
        Changes [.mem, .map, .cmd, .freeCtr, .regs, .log] [Fld.ctlErrlog.head, Fld.tierErrStatus.mapFull, Fld.tierMapStatus.fullEvents] s t) := by
  refine ⟨fun st hspan => readShard_away hi h (hexec.trans ?_), fun hspan hr => readShard_gives hi h (hexec.trans ?_),
    fun hspan i hr => readShard_bad hi h (hexec.trans ?_)⟩
  · simp only [State.readPeatRegion, hspan]
  · rw [readPeatRegion_good hspan, hr]
    rfl
  · rw [readPeatRegion_good hspan, hr]
    rfl

end

end

/-- Settles O52: the checks before every tier, then each tier by what its own operation does. -/
theorem readShard : Obligations.ReadShard := by
  intro s k hi c h
  simp only [← spanBad_eq]
  refine ⟨fun hoff => readShard_away hi h ((exec_readShard h).trans ?_), fun hoff hwin => readShard_away hi h ((exec_readShard h).trans ?_),
    fun hoff hwin => ?_⟩
  · rw [if_pos hoff]
    rfl
  · rw [if_neg (not_not.2 hoff), if_pos hwin]
    rfl
  · have hexec : exec (.readShard k) s = .next (s.shardRead k c) := by
      rw [exec_readShard h, if_neg (not_not.2 hoff), if_neg (by simp [hwin])]
    unfold State.shardRead at hexec
    refine ⟨fun ht hsh => ?_, fun ht hsh => ?_, fun ht => ?_, fun ht => ?_, fun ht hfree => ?_⟩
    · exact readShard_live hi h (hexec.trans (congrArg _ (if_pos ht))) hsh
    · exact readShard_record hi h (hexec.trans (congrArg _ (if_pos ht))) hsh
    · exact readShard_batt hi h (hexec.trans (by simp [ht]))
    · obtain ⟨hno, hyes⟩ := readShard_sedge hi h (hexec.trans (by simp [ht]))
      refine ⟨hno, fun hon => ?_⟩
      obtain ⟨hunknown, hknown⟩ := hyes hon
      refine ⟨hunknown, fun x hx => ?_⟩
      obtain ⟨hspan, hask, hwait, hland⟩ := hknown x hx
      exact ⟨hspan, fun hs hn ha => readShard_asks h (hask hs hn ha), hwait, hland⟩
    · have hpeat : exec (.readShard k) s = .next (s.readPeat k c) :=
        hexec.trans (by simp [ht, Option.isSome_iff_ne_none.1 hfree])
      obtain ⟨hstop, hnone⟩ := readShard_noEntry hi h hpeat
      refine ⟨hstop, fun hst => ⟨hnone hst, fun e he hkey => readShard_noKey hi h hpeat hst he hkey, fun e he key hkey b hb => ?_⟩⟩
      obtain ⟨hman, hrec⟩ := readShard_manifest hi h hpeat hst he hkey hb
      exact ⟨hman, hrec, fun hsh => ⟨readShard_noRegion hi h hpeat hst he hkey hb hsh, fun x hx =>
        readShard_extents hi h (readShard_region hpeat hst he hkey hb hsh hx)⟩⟩

end Sys2Proof.Machine
end

section
/-! NVMe errors (R193): a failed read of a command whose context number the context map lists twice. -/
namespace Sys2Proof.Machine

variable {s t u : State} {k : Nat}

/-! ## What follows from a command leaves a finished command as it is -/

/-- A context that holds a finished command in `s` holds the same in `t`. -/
structure EndedStays (k : Nat) (s t : State) : Prop where
  ctx : ∀ c, s.ctx? k = some c → c.finished = true → t.ctx? k = some c

namespace EndedStays

theorem of_ctxs (h : t.cmd.ctxs = s.cmd.ctxs) : EndedStays k s t := ⟨fun _ hc _ => (congrArg (kget · k) h).trans hc⟩

theorem refl (s : State) : EndedStays k s s := of_ctxs rfl

theorem trans (h1 : EndedStays k s t) (h2 : EndedStays k t u) : EndedStays k s u := ⟨fun c hc hf => h2.ctx c (h1.ctx c hc hf) hf⟩

theorem ctxs (h1 : EndedStays k s t) (h : u.cmd.ctxs = t.cmd.ctxs) : EndedStays k s u := h1.trans (of_ctxs h)

/-- An operation that does not touch the commands. -/
theorem keep {ps : Touch} (h1 : EndedStays k s t) (h2 : Keep ps t u) (hps : .cmd ∉ ps.1) : EndedStays k s u :=
  h1.ctxs (congrArg Cmd.ctxs (h2.same .cmd hps))

theorem ite {c : Prop} [Decidable c] (h1 : EndedStays k s t) (h2 : EndedStays k s u) : EndedStays k s (if c then t else u) := by
  split
  · exact h1
  · exact h2

theorem foldl {α : Type} {g : State → α → State} (l : List α) (hg : ∀ s a, EndedStays k s (g s a)) (h : EndedStays k s t) :
    EndedStays k s (l.foldl g t) :=
  List.foldlRecOn l g h fun u hu a _ => hu.trans (hg u a)

theorem cut (h : EndedStays k s t) (u : CutUnit) : EndedStays k s { t with cut := u } := h.ctxs rfl
theorem onRst (h : EndedStays k s t) (f : Rst → Rst) : EndedStays k s (t.onRst f) := h.ctxs rfl
theorem onWarden (h : EndedStays k s t) (f : Warden → Warden) : EndedStays k s (t.onWarden f) := h.ctxs rfl
theorem onSyn (h : EndedStays k s t) (f : Syn → Syn) : EndedStays k s (t.onSyn f) := h.ctxs rfl
theorem onFul (h : EndedStays k s t) (f : Ful → Ful) : EndedStays k s (t.onFul f) := h.ctxs rfl
theorem onPeat (h : EndedStays k s t) (f : Peat → Peat) : EndedStays k s (t.onPeat f) := h.ctxs rfl
theorem store' (h : EndedStays k s t) (a : Nat) (bs : List Byte) : EndedStays k s (t.store' a bs) := h.ctxs rfl
theorem setReg (h : EndedStays k s t) (off : Nat) (v : W64) : EndedStays k s (t.setReg off v) := h.ctxs rfl
theorem wr (h : EndedStays k s t) (f : Fld) (v : Nat) : EndedStays k s (t.wr f v) := h.ctxs rfl
theorem recQueues (h : EndedStays k s t) (b : List Byte) : EndedStays k s (t.recQueues b) := h.ctxs rfl

end EndedStays

/-- Only commands that run can end. -/
theorem ctxEnd_stays (s : State) (j : Nat) (st : Status) (r0 r1 : Nat) : EndedStays k s (s.ctxEnd j st r0 r1) := by
  refine ⟨fun c hc hf => ?_⟩
  by_cases hj : j = k
  · subst hj
    simp only [State.ctxEnd, hc, hf, if_true]
  · cases hd : s.ctx? j with
    | none => simpa only [State.ctxEnd, hd] using hc
    | some d =>
      cases hdf : d.finished with
      | true => simpa only [State.ctxEnd, hd, hdf, if_true] using hc
      | false =>
        rw [ctxEnd_unfinished hd hdf]
        refine (kget_kset_other _ _ hj).trans ?_
        split
        · exact hc
        · exact (congrArg (fun m : Cmd => kget m.ctxs k) ((State.logAbort_keep ..).same .cmd (by decide))).trans hc

/-! ## The ends of drains and rewrites -/

theorem peatNextEnd_stays (s : State) (seq : W32) (st : Status) : EndedStays k s (s.peatNextEnd seq st) := by
  unfold State.peatNextEnd
  split
  · exact .ite (((EndedStays.refl s).cut _).trans (ctxEnd_stays ..)) (.refl s)
  · exact .refl s

theorem peatResult_stays (s : State) (seq : W32) (or' : W64) : EndedStays k s (s.peatResult seq or') := by
  unfold State.peatResult
  split
  · exact .refl s
  · dsimp only
    refine .ite (peatNextEnd_stays ..) (EndedStays.trans ?_ (peatNextEnd_stays ..))
    exact (((EndedStays.refl s).keep (State.putCut_keep ..) (by decide)).wr ..).onPeat _

theorem flushEnds_stays (s : State) (r : Rewrite) (st : Status) : EndedStays k s (s.flushEnds r st) :=
  .foldl _ (fun s j => ctxEnd_stays s j st 0 0) ((EndedStays.refl s).keep (State.peatErr_keep ..) (by decide))

theorem takeRewrite_stays (s : State) (r : Rewrite) : EndedStays k s (s.takeRewrite r) := by
  unfold State.takeRewrite
  dsimp only
  split
  · split
    · exact flushEnds_stays ..
    · refine .ite (flushEnds_stays ..) (.ite (((EndedStays.refl s).onPeat _).trans (flushEnds_stays ..)) ?_)
      exact ((((EndedStays.refl s).keep (State.takeUnits_keep ..) (by decide)).wr ..).keep (State.manStore_keep ..) (by decide)).onPeat _
  · exact .refl s

theorem flushCheck_stays (s : State) : EndedStays k s s.flushCheck := by
  refine .foldl _ (fun s j => ?_) (.refl s)
  split
  · exact .refl s
  · exact .ite (.refl s) (ctxEnd_stays ..)

theorem flushLate_stays (s : State) : EndedStays k s s.flushLate := by
  have htake : EndedStays k s s.takeRewrites := .foldl _ takeRewrite_stays ((EndedStays.refl s).onPeat _)
  unfold State.flushLate State.flushBegin
  exact .ite (.ite (.refl s) (.ite (htake.trans (flushCheck_stays _)) (htake.onPeat _))) (.refl s)

theorem peatNextFinal_stays (s : State) : EndedStays k s s.peatNextFinal := by
  unfold State.peatNextFinal
  split
  · split
    · exact .ite (peatNextEnd_stays ..) (.refl s)
    · exact .refl s
  · exact .refl s

/-! ## The record of the chosen cut -/

theorem recordWrite_stays (s : State) (b : List Byte) : EndedStays k s (s.recordWrite b) := by
  unfold State.recordWrite
  extract_lets s1 s2 s3 rt s4 s5 s6 s7
  have h2 : EndedStays k s s2 := (((EndedStays.refl s).onSyn _).keep (State.recSeqs_keep ..) (by decide)).recQueues b
  have h3 : EndedStays k s s3 := (h2.setReg ..).setReg ..
  have h4 : EndedStays k s s4 := .ite h3 (h3.store' ..)
  have h6 : EndedStays k s s6 := (h4.keep (State.settleHalves_keep _) (by decide)).keep (State.jobCutIs_keep ..) (by decide)
  exact (h6.onFul _).keep (State.cutFlush_keep _) (by decide)

theorem recordGo_stays (s : State) (b : List Byte) : EndedStays k s (s.recordGo b) :=
  ((recordWrite_stays s b).onRst _).keep (State.verifyLanes_keep _) (by decide)

theorem recordNext_stays (s : State) : EndedStays k s s.recordNext := by
  unfold State.recordNext
  extract_lets s1
  have h1 : EndedStays k s s1 :=
    .ite ((EndedStays.refl s).keep (State.switchInputs_keep ..) (by decide)) ((EndedStays.refl s).keep (State.nextSource_keep ..) (by decide))
  exact .ite h1 (.ite (h1.trans (recordGo_stays ..))
    ((h1.keep (State.recordBad_keep ..) (by decide)).keep (State.switchInputs_keep ..) (by decide)))

theorem recordRestore_stays (s : State) : EndedStays k s s.recordRestore := by
  have htry (s : State) (ring : List Byte) : EndedStays k s (s.recordTry ring) :=
    .ite (recordGo_stays ..) ((((EndedStays.refl s).keep (State.recordBad_keep ..) (by decide)).keep (State.onInput_keep ..) (by decide)).trans
      (recordNext_stays _))
  exact ((EndedStays.refl s).onRst _).trans (htry ..)

theorem startWork_stays (s : State) : EndedStays k s s.startWork := by
  unfold State.startWork
  extract_lets clean regs s1 s2 s3
  have h1 : EndedStays k s s1 := (EndedStays.refl s).onRst _
  have h3 : EndedStays k s s3 := (EndedStays.ite (h1.keep (State.nextSource_keep ..) (by decide)) h1).keep (State.nextSource_keep ..) (by decide)
  exact .ite (h3.trans (recordRestore_stays _)) (h3.keep (State.nextSource_keep ..) (by decide))

theorem resumeWork_stays (s : State) : EndedStays k s s.resumeWork := by
  unfold State.resumeWork
  extract_lets d s1 s2
  have h2 : EndedStays k s s2 := .foldl _ (fun s i => (EndedStays.refl s).keep (State.ask_keep s i) (by decide)) ((EndedStays.refl s).onRst _)
  refine .ite (((EndedStays.refl s).onRst _).keep (State.barArrive_keep ..) (by decide)) (.ite ?_ (.ite ?_ h2))
  · exact h2.keep (State.verifyLanes_keep _) (by decide)
  · exact h2.trans (recordRestore_stays _)

theorem chosen_stays (s : State) (step : W64) (gen : BitVec 8) : EndedStays k s (s.chosen step gen) := by
  unfold State.chosen
  refine .ite ((EndedStays.refl s).onRst _) (.ite (.refl s) ?_)
  extract_lets same s1 s2
  have h2 : EndedStays k s s2 := ((EndedStays.refl s).onRst _).keep (State.setsChosen_keep _) (by decide)
  exact .ite (h2.trans (resumeWork_stays _)) (.ite (h2.trans (startWork_stays _)) (h2.onRst _))

/-! ## All that follows -/

theorem planResult_stays (s : State) (st : Status) (or' : W64) : EndedStays k s (s.planResult st or') := by
  unfold State.planResult
  split
  · refine .ite (.refl s) (.ite ?_ ((EndedStays.refl s).keep (State.propose_keep _) (by decide)))
    exact ((((EndedStays.refl s).onWarden _).keep (State.toPeers_keep ..) (by decide)).keep
      (State.jobGoes_keep _) (by decide)).trans (chosen_stays ..)
  · exact .refl s

theorem giveResult_stays (s : State) (fn : BarFn) (st : Status) (res : Option (W64 × W64)) : EndedStays k s (s.giveResult fn st res) := by
  have hrel : EndedStays k s s.released := (EndedStays.refl s).keep (State.released_keep _) (by decide)
  unfold State.giveResult
  split
  · exact .refl s
  · exact (EndedStays.refl s).keep (State.gateOpen_keep ..) (by decide)
  · exact (EndedStays.refl s).keep (State.gateFail_keep ..) (by decide)
  · exact (EndedStays.refl s).keep (State.commitResult_keep ..) (by decide)
  · exact (EndedStays.refl s).keep (State.cutFlush_keep _) (by decide)
  · exact peatResult_stays ..
  · split
    · exact peatNextEnd_stays ..
    · exact .refl s
  · exact planResult_stays ..
  · exact .ite (hrel.keep (State.wardenReleased_keep _) (by decide)) hrel
  · exact .refl s

theorem giveN_stays (n : Nat) (s : State) : EndedStays k s (State.giveN n s) := by
  have hfirst (s : State) : EndedStays k s s.giveFirst := by
    unfold State.giveFirst
    split
    · exact .refl s
    · exact ((EndedStays.refl s).onSyn _).trans (giveResult_stays ..)
  induction n generalizing s with
  | zero => exact .refl s
  | succ n ih =>
    have hbars : EndedStays k s s.barsNext := (EndedStays.refl s).keep (State.barsNext_keep _) (by decide)
    exact .ite hbars ((hbars.trans (hfirst _)).trans (ih _))

theorem restoreEnd_stays (s : State) : EndedStays k s s.restoreEnd := by
  unfold State.restoreEnd
  split
  · exact .refl s
  · have hend (j : Nat) (st : Status) : EndedStays k s ((s.onRst (fun r => { r with restoreCtx := none })).ctxEnd j st 0 0) :=
      ((EndedStays.refl s).onRst _).trans (ctxEnd_stays ..)
    exact .ite (hend ..) (.ite (hend ..) (.ite (hend ..) (.refl s)))

theorem settle_stays (s : State) : EndedStays k s s.settle := by
  unfold State.settle
  extract_lets s1
  have h0 : EndedStays k s (s.ownAborts.cutFlush.giveN 256) :=
    (((EndedStays.refl s).keep (State.ownAborts_keep _) (by decide)).keep (State.cutFlush_keep _) (by decide)).trans (giveN_stays 256 _)
  have hlate (s : State) : EndedStays k s s.chosenLate := .ite (startWork_stays s) (.refl s)
  have h1 : EndedStays k s s1 := (h0.trans (hlate _)).keep (State.leadReplans_keep _) (by decide)
  exact (((h1.trans (giveN_stays 256 _)).trans (restoreEnd_stays _)).trans (peatNextFinal_stays _)).trans (flushLate_stays _)

/-! ## The counterexample -/

/-- The port is ready, and the context map lists context 0 twice: a command that has ended with success, and behind it a READ SHARD at Peat that
runs. No run reaches this, but neither `State.Inv` nor the statement says so. -/
def State.readsTwice : State :=
  let read : Ctx := { q := 0, sqHead := 0, pushed := false, entry := [1] ++ zeros 16 ++ [3] ++ zeros 46, order := 1 }
  { State.reset.onBoot (fun b => { b with phase := .running }) with
    peat := { st := .ready, linkUp := true }, cmd := { ctxs := [(0, { read with finished := true }), (0, read)] } }

theorem readsTwice_inv : State.readsTwice.Inv := State.inv_plain rfl (by decide +kernel)

theorem readsTwice_reads : State.readsTwice.powered = true ∧ State.readsTwice.peat.linkUp = true ∧ State.readsTwice.peat.st ≠ .init ∧
    (State.readsTwice.ctxsWith Ctx.readsPeat).head? = some 0 := by decide +kernel

/-- The error of the read ends nothing: context 0 reads as the command that has ended with success. -/
theorem readsTwice_stays : (match exec (.nvmeCommandError 2 ⟨0, 0, true⟩) State.readsTwice with
    | .next t => (t.ctx? 0).map (fun c => (c.finished, c.status)) == some (true, 0)
    | _ => false) = true := by decide +kernel

/-- Refutes O44: a read at Peat that fails for good shall end with PEAT_IO, also where its context number belongs to a command that has ended
before it in the context map, which neither `State.Inv` nor the statement keeps from listing a number twice. -/
theorem not_peatErrors : ¬ Obligations.PeatErrors := by
  intro h
  obtain ⟨hp, hlink, hinit, hread⟩ := readsTwice_reads
  obtain ⟨hport, -⟩ := h State.readsTwice readsTwice_inv hp
  obtain ⟨herror, -⟩ := hport hlink 2
  obtain ⟨-, -, -, hreads, -⟩ := herror ⟨0, 0, true⟩
  obtain ⟨-, hfails⟩ := hreads hinit rfl 0 hread _ rfl
  obtain ⟨t, ht, -, hend, -⟩ := hfails (.inl rfl)
  have hstays := readsTwice_stays
  rw [ht] at hstays
  obtain ⟨c, hc, hended⟩ := Option.map_eq_some_iff.1 hend
  obtain ⟨hf, hst⟩ := Prod.mk.inj hended
  have hkept : t.settle.ctx? 0 = some c := (settle_stays t).ctx c hc hf
  simp [hkept, hst, St.peatIo] at hstays

end Sys2Proof.Machine
end

section
/-! The end of a Peat drain, and its failure (R175, R203, R204). -/
namespace Sys2Proof.Machine

variable {s t u : State} {c : Cut} {seq : W32} {st : Status} {g : Nat}

/-! ## The end of a drain -/

/-- A cut of the SEQ has a drain that has ended so; arrivals and write-backs leave that. -/
def Cut.DrainEnded (seq : W32) (st : Status) (g : Nat) (d : Cut) : Prop := d.seq = seq → (d.drainStatus, d.peatGen) = (some st, g)

theorem drainEnded_lasts : Cut.Lasts (Cut.DrainEnded seq st g) := ⟨fun _ h => h, fun _ _ h => h, fun _ h => h, fun _ h => h⟩

theorem unpin_cuts (s : State) (c : Cut) : (s.unpin c).cut.cuts = s.cut.cuts := by
  unfold State.unpin
  dsimp only
  split
  · split
    · rfl
    · exact putHalf_cuts ..
  · rfl

theorem peatNextEnd_cuts (s : State) (seq : W32) (st : Status) : (s.peatNextEnd seq st).cut.cuts = s.cut.cuts := by
  unfold State.peatNextEnd
  split
  · split
    · exact (congrArg CutUnit.cuts ((State.ctxEnd_keep ..).same .cut (by decide))).trans rfl
    · rfl
  · rfl

/-- What the end of a drain changes: neither the Peat unit nor the Shard Map, and of the registers signals and the error log. -/
abbrev drainEndTouch : Touch := ([.regs, .mem, .log, .cut, .syn, .cmd, .chk, .outbox], 0x1d3e10000000000000000000000000000000000 ||| 0x40000000000000)

/-- The record of a cut whose drain has ended. -/
def State.endRecord (s : State) (c : Cut) (st : Status) (g : Nat) : Cut :=
  let newest := ((s.unpin c).cut.cuts.filter (fun d => d.st == .jobCommitted)).all (fun d => d.step.toNat ≤ c.step.toNat)
  { c with drainStatus := some st, peatGen := g, st := if c.st == .jobCommitted && !newest then .retired else c.st }

/-- The end of a drain with the record of its cut, before the arrivals that follow. -/
def State.drainRecorded (s : State) (c : Cut) (st : Status) (g : Nat) : State :=
  let s := (s.dropCtxs (fun u => u == .drain)).dropLanes (fun u => u == .drain)
  let s := (s.unpin c).putCut (s.endRecord c st g)
  if st = St.success then s else s.peatNextEnd c.seq st

theorem drainEnd_found (h : s.findCut c.seq = some c) (st : Status) (g : Nat) :
    s.drainEnd c.seq st g = ((s.drainRecorded c st g).peatArrive c.seq (st != St.success)).cutFlush := by
  have hdrop : ((s.dropCtxs (fun u => u == .drain)).dropLanes (fun u => u == .drain)).findCut c.seq = some c :=
    (findCut_congr (congrArg CutUnit.cuts (((State.dropLanes_keep ..).same .cut (by decide)).trans rfl)) _).trans h
  unfold State.drainEnd
  simp only [hdrop]
  rfl

theorem drainRecorded_keep (s : State) (c : Cut) (st : Status) (g : Nat) : Keep drainEndTouch s (s.drainRecorded c st g) := by
  have hdrop : Keep drainEndTouch s ((s.dropCtxs (fun u => u == .drain)).dropLanes (fun u => u == .drain)) :=
    (State.dropLanes_keep ..).step (by decide) ((State.dropCtxs_keep ..).mono (by decide))
  unfold State.drainRecorded
  extract_lets s1 s2
  have h2 : Keep drainEndTouch s s2 := (State.putCut_keep ..).step (by decide) ((State.unpin_keep ..).step (by decide) hdrop)
  exact .ite h2 ((State.peatNextEnd_keep ..).step (by decide) h2)

theorem drainRecorded_each (s : State) (c : Cut) (st : Status) (g : Nat) :
    (s.drainRecorded c st g).EachCut (Cut.DrainEnded c.seq st g) ∧ (s.drainRecorded c st g).seqs = s.seqs := by
  unfold State.drainRecorded
  extract_lets s1 s2
  have hcuts : s1.cut.cuts = s.cut.cuts := congrArg CutUnit.cuts (((State.dropLanes_keep ..).same .cut (by decide)).trans rfl)
  have hseqs : s2.seqs = s.seqs := (putCut_seqs ..).trans ((seqs_congr (unpin_cuts s1 c)).trans (seqs_congr hcuts))
  have heach : s2.EachCut (Cut.DrainEnded c.seq st g) := fun d hd hseq => by
    rw [putCut_each (s1.unpin c) (s1.endRecord c st g) d hd hseq]
    rfl
  split
  · exact ⟨heach, hseqs⟩
  · exact ⟨heach.congr (peatNextEnd_cuts ..), (seqs_congr (peatNextEnd_cuts ..)).trans hseqs⟩

/-- The cut of a drain that has ended has its status and generation. -/
theorem drainEnd_ends (h : s.findCut c.seq = some c) (st : Status) (g : Nat) :
    ((s.drainEnd c.seq st g).findCut c.seq).map (fun d => (d.drainStatus, d.peatGen)) = some (some st, g) ∧
    Keep drainEndTouch s (s.drainEnd c.seq st g) := by
  obtain ⟨heach, hseqs⟩ := drainRecorded_each s c st g
  have hflush : Flushed (s.drainRecorded c st g) (s.drainEnd c.seq st g) := by
    rw [drainEnd_found h]
    exact (peatArrive_flushed ..).trans (cutFlush_flushed _)
  refine ⟨findCut_map_of_each ?_ (hflush.each _ drainEnded_lasts heach), hflush.keep.step (by decide) (drainRecorded_keep ..)⟩
  rw [hflush.seqs, hseqs]
  exact findCut_seqs h

/-! ## A port that idles -/

/-- A port that idles keeps what stands on the drive, the catalogue and its generations. -/
theorem peatIdle_rests (s : State) : s.peatIdle.peat.drain = s.peat.drain ∧ s.peatIdle.peat.drive = s.peat.drive ∧
    s.peatIdle.peat.cat = s.peat.cat ∧ s.peatIdle.peat.gens = s.peat.gens ∧ s.peatIdle.peat.nextGens = s.peat.nextGens ∧
    s.peatIdle.peat.taking = s.peat.taking ∧ s.peatIdle.cut = s.cut ∧ s.peatIdle.map = s.map := by
  have hkeep := State.peatIdle_keep s
  refine ⟨?_, ?_, ?_, ?_, ?_, ?_, hkeep.same .cut (by decide), hkeep.same .map (by decide)⟩ <;>
  · unfold State.peatIdle
    split
    · rfl
    · rw [ctxEnd_foldl_peat]
      rfl

/-! ## The failure of a drain -/

/-- The state in which the error of a failing drain is recorded: its writes, units and Shard Map entries are gone. -/
def State.drainGone (s : State) (seq : W32) : State :=
  match s.peat.drain with
  | some d =>
    if d.seq == seq then
      let stays (w : NvmeWrite) : Bool :=
        (w.owner == NvmeOwner.catalogue && d.step != DrainStep.catalogue) || (w.owner == NvmeOwner.reservation && s.board.pfWork)
      let s := s.onPeat (fun p =>
        { p with drain := none, nextGens := p.nextGens.filter (fun i => i.peatGen != d.peatGen), nvme := p.nvme.filter stays })
      (s.untake d).mapDrop (fun e : MapEntry => mapPeat d.peatGen e && (e.st == .filling || e.st == .written))
    else s
  | none => s

/-- The error bits and the log record of a drain that fails. -/
def State.drainErr (s : State) (seq : W32) (st : Status) : State :=
  ((s.raise Fld.peatErrStatus.drainFail).peatErr st).logAbort Unit'.peat 0 seq.toNat 0 st

theorem drainFail_gone (s : State) (seq : W32) (st : Status) :
    s.drainFail seq st = (((s.drainGone seq).drainErr seq st).drainEnd seq st 0).peatIdle := rfl

/-- No drain runs, or one of the cut does. -/
def State.DrainIs (s : State) (seq : W32) : Prop := ∀ d, s.peat.drain = some d → d.seq = seq

theorem untake_rests (s : State) (d : Drain) : (s.untake d).peat.drain = s.peat.drain ∧ (s.untake d).peat.drive = s.peat.drive ∧
    (s.untake d).peat.cat = s.peat.cat := by
  unfold State.untake
  split <;> exact ⟨rfl, rfl, rfl⟩

theorem drainGone_rests (hd : s.DrainIs seq) : (s.drainGone seq).peat.drain = none ∧ (s.drainGone seq).peat.drive = s.peat.drive ∧
    (s.drainGone seq).peat.cat = s.peat.cat ∧ (s.drainGone seq).cut = s.cut ∧ (s.Inv → (s.drainGone seq).Inv) := by
  unfold State.drainGone
  split
  · next d h =>
    rw [if_pos (by simpa using hd d h)]
    extract_lets stays s1
    obtain ⟨hdrain, hdrive, hcat⟩ := untake_rests s1 d
    refine ⟨hdrain, hdrive, hcat, (State.untake_keep s1 d).same .cut (by decide), fun hi => ?_⟩
    exact (State.mapDrop_keep ..).inv ((State.untake_keep s1 d).inv ((keep_peat s s1.peat rfl).inv hi))
  · next h => exact ⟨h, rfl, rfl, rfl, id⟩

/-- The error bits of a status (R204). -/
theorem peatErr_rd (hi : s.Inv) (st : Status) :
    (st = St.peatIo → (s.peatErr st).rd Fld.peatErrStatus.io = 1) ∧ (st = St.peatFull → (s.peatErr st).rd Fld.peatErrStatus.peatFull = 1) ∧
    (st = St.pfailAbort → (s.peatErr st).rd Fld.peatErrStatus.pfailAbort = 1) :=
  ⟨fun h => h ▸ raise_rd hi (by decide) (by decide), fun h => h ▸ raise_rd hi (by decide) (by decide),
    fun h => h ▸ raise_rd hi (by decide) (by decide)⟩

theorem drainErr_rd (hi : s.Inv) (seq : W32) (st : Status) : (s.drainErr seq st).rd Fld.peatErrStatus.drainFail = 1 ∧
    (st = St.peatIo → (s.drainErr seq st).rd Fld.peatErrStatus.io = 1) ∧
    (st = St.peatFull → (s.drainErr seq st).rd Fld.peatErrStatus.peatFull = 1) ∧
    (st = St.pfailAbort → (s.drainErr seq st).rd Fld.peatErrStatus.pfailAbort = 1) := by
  have hraise : (s.raise Fld.peatErrStatus.drainFail).Inv := (State.raise_keep has_Fld_peatErrStatus_drainFail s).inv hi
  have herr := State.peatErr_keep (s.raise Fld.peatErrStatus.drainFail) st
  have hlog := State.logAbort_keep ((s.raise Fld.peatErrStatus.drainFail).peatErr st) Unit'.peat 0 seq.toNat 0 st
  obtain ⟨hio, hfull, habort⟩ := peatErr_rd hraise st
  have hlast {f : Fld} (hf : apart 0x40000000000000 f = true) :
      (s.drainErr seq st).rd f = ((s.raise Fld.peatErrStatus.drainFail).peatErr st).rd f := hlog.rd (herr.inv hraise) hf
  refine ⟨?_, fun h => (hlast (by decide +kernel)).trans (hio h), fun h => (hlast (by decide +kernel)).trans (hfull h),
    fun h => (hlast (by decide +kernel)).trans (habort h)⟩
  exact (hlast (by decide +kernel)).trans ((herr.rd hraise (by decide +kernel)).trans (raise_rd hi (by decide) (by decide)))

theorem drainErr_keep (s : State) (seq : W32) (st : Status) :
    Keep ([.regs, .log], 0x40000000000000 ||| (0x400000000000000000000000 ||| 0xd800000000000000000000000)) s (s.drainErr seq st) :=
  (State.logAbort_keep ..).step (by decide) ((State.peatErr_keep ..).step (by decide)
    ((State.raise_keep has_Fld_peatErrStatus_drainFail s).mono (by decide)))

/-- A drain that fails: the status of its cut, and what it leaves of the drive (R204). -/
theorem drainFail_fails (hi : s.Inv) (h : s.findCut c.seq = some c) (hd : s.DrainIs c.seq) (st : Status) :
    DrainFailed c st (s.drainFail c.seq st) ∧ (s.drainFail c.seq st).peat.drive = s.peat.drive ∧ (s.drainFail c.seq st).peat.cat = s.peat.cat := by
  obtain ⟨hdrain, hdrive, hcat, hcut, hinv⟩ := drainGone_rests hd
  obtain ⟨hfail, hio, hfull, habort⟩ := drainErr_rd (hinv hi) c.seq st
  have herr := drainErr_keep (s.drainGone c.seq) c.seq st
  have hfound : ((s.drainGone c.seq).drainErr c.seq st).findCut c.seq = some c :=
    (findCut_congr (congrArg CutUnit.cuts ((herr.same .cut (by decide)).trans hcut)) _).trans h
  obtain ⟨hends, hend⟩ := drainEnd_ends hfound st 0
  have hidle := State.peatIdle_keep (((s.drainGone c.seq).drainErr c.seq st).drainEnd c.seq st 0)
  obtain ⟨idrain, idrive, icat, -, -, -, icut, -⟩ := peatIdle_rests (((s.drainGone c.seq).drainErr c.seq st).drainEnd c.seq st 0)
  have hpeat : (((s.drainGone c.seq).drainErr c.seq st).drainEnd c.seq st 0).peat = (s.drainGone c.seq).peat :=
    (hend.same .peat (by decide)).trans (herr.same .peat (by decide))
  have hrd {f : Fld} (hf : (apart drainEndTouch.2 f && apart 0x40000000000000 f) = true) :
      (s.drainFail c.seq st).rd f = ((s.drainGone c.seq).drainErr c.seq st).rd f := by
    obtain ⟨hf1, hf2⟩ := (Bool.and_eq_true ..).mp hf
    exact (hidle.rd (hend.inv (herr.inv (hinv hi))) hf2).trans (hend.rd (herr.inv (hinv hi)) hf1)
  rw [hpeat] at idrain idrive icat
  refine ⟨⟨?_, idrain.trans hdrain, (hrd (by decide +kernel)).trans hfail, fun e => (hrd (by decide +kernel)).trans (hio e),
    fun e => (hrd (by decide +kernel)).trans (hfull e), fun e => (hrd (by decide +kernel)).trans (habort e)⟩,
    idrive.trans hdrive, icat.trans hcat⟩
  rw [drainFail_gone, findCut_congr (congrArg CutUnit.cuts icut)]
  simpa using congrArg (Option.map Prod.fst) hends

end Sys2Proof.Machine
end

section
/-! The start of a Peat drain (R200). -/
namespace Sys2Proof.Machine

variable {s t u : State} {c : Cut} {k : Nat} {st : Status}

/-! ## Catalogue writes (R196) -/

/-- Bytes of the catalogue that follows another. -/
def State.catNext (s : State) (c : Catalogue) (g : Nat) (es : List CatEntry) : List Byte :=
  Catalogue.bytes s.part.serial { catSeq := c.catSeq + 1, nextUnit := s.peat.cursor, genHigh := g, entries := es }

/-- A catalogue goes into the slot that is not the valid one. -/
theorem catWrite_adds {x : Catalogue × Bool} {key : Nat} (hx : s.peat.cat = some x) (hkey : s.peat.drive.keyAt 0 (slotOff (!x.2)) = some key)
    (owner : NvmeOwner) (es : List CatEntry) : s.catWrite owner es = s.onPeat (fun p =>
      { p with nvme := p.nvme ++ [{ owner := owner, key := key, bytes := s.catNext x.1 (s.rd Fld.peatGenHigh.genHigh) es }] }) := by
  obtain ⟨cat, b⟩ := x
  simp only [State.catWrite, hx, hkey, State.catNext]

/-! ## The Shard Map entries of a drain (R212) -/

theorem mapReserve_only (s : State) (tier : BitVec 2) (gen : BitVec 8) (step loc : W64) (rs : List Region) :
    s.mapReserve tier gen step loc rs = { s with map := (s.mapReserve tier gen step loc rs).map } := by
  unfold State.mapReserve
  induction rs generalizing s with
  | nil => rfl
  | cons r rs ih => exact ih _

/-! ## FELTING_SCHEDULE -/

/-- Nothing keeps the scheduler from starting the next drain. -/
structure DrainsNext (s : State) (c : Cut) (k : Nat) : Prop where
  fw : s.fw = true
  phase : s.boot.phase = .running
  felt : s.rdB Fld.tierCtrl.feltEn = false
  peat : s.rdB Fld.tierCtrl.peatEn = true
  drain : s.peat.drain = none
  busy : s.catBusy = false
  holdup : s.board.holdupOk = true
  held : s.peatHeld = false
  interval : s.board.pfWaitInterval = false
  init : s.peat.st ≠ .init
  next : s.nextDrain = some c
  found : s.findCut c.seq = some c
  ctx : s.freeCtx [3] = some k

theorem feltTry_off (h : s.rdB Fld.tierCtrl.feltEn = false) : s.feltTry = s := by
  simp [State.feltTry, h]

theorem drainTry_starts (h : DrainsNext s c k) : s.drainTry = s.drainStart c k := by
  have hinit : (s.peat.st == PeatState.init) = false := beq_false_of_ne h.init
  simp [State.drainTry, h.peat, h.drain, h.busy, h.holdup, h.held, h.interval, hinit, h.phase, h.next, h.ctx]

theorem exec_feltingSchedule (h : DrainsNext s c k) : exec .feltingSchedule s = settled (.next (s.drainStart c k)) := by
  refine congrArg settled (?_ : doFeltingSchedule s = _)
  rw [← drainTry_starts h]
  simp [doFeltingSchedule, h.fw, feltTry_off h.felt]

/-- The drain fails at its start. -/
theorem schedule_fails (hi : s.Inv) (h : DrainsNext s c k) (hw : s.drainStart c k = s.drainFail c.seq st) :
    DoesThen .feltingSchedule s (DrainFailed c st) := by
  refine .of_settled (exec_feltingSchedule h) ?_
  rw [hw]
  exact (drainFail_fails hi h.found (fun d hd => absurd (h.drain.symm.trans hd) nofun) st).1

/-- Units that a drain needs: for its extents and for its manifest. -/
def State.drainNeed (s : State) : Nat := (s.dirExtents + 1) / 2 + (s.manLen + 0x1FFFFF) / 0x200000

/-- The key of a drain and its slot, where XTS is on. -/
def State.drainKey (s : State) : Option (List Byte × Nat) :=
  if s.rdB Fld.peatCfg.xtsEn then some ((s.keySlot (s.rd Fld.peatCfg.xtsSlot)).bytes, s.rd Fld.peatCfg.xtsSlot) else none

/-- The drain is to encrypt, and its slot holds no XTS key. -/
def State.drainKeyless (s : State) : Bool := s.rdB Fld.peatCfg.xtsEn && !(s.keySlot (s.rd Fld.peatCfg.xtsSlot)).xts

/-- The number that the next drain gives its generation. -/
def State.nextGen (s : State) : Nat := s.rd Fld.peatGenHigh.genHigh + 1

/-- The drain of a cut as it starts. -/
def State.drainOf (s : State) (c : Cut) : Drain := { seq := c.seq, peatGen := s.nextGen, need := s.drainNeed, key := s.drainKey }

/-- The state in which the drain of a cut has started, its reservation still to be written. -/
def State.drainBegun (s : State) (c : Cut) (k : Nat) : State :=
  (({ s with map := (s.mapReserve 1 c.gen c.step (BitVec.ofNat 64 s.nextGen) s.cut.dir).map }.wr Fld.peatGenHigh.genHigh s.nextGen).onPeat
    (fun p => { p with drain := some (s.drainOf c) })).takeCtx k .drain

section
variable (hstop : s.peatWriteStop = none)
include hstop

theorem drainStart_keyless (hkey : s.drainKeyless = true) : s.drainStart c k = s.drainFail c.seq St.keyAbsent := by
  simp only [State.drainStart, hstop]
  exact if_pos hkey

theorem drainStart_mapFull (hkey : s.drainKeyless = false) (hmap : s.mapFree < s.cut.dir.length) :
    s.drainStart c k = s.mapRefuse.drainFail c.seq St.mapFull := by
  simp only [State.drainStart, hstop]
  exact (if_neg (Bool.eq_false_iff.1 hkey)).trans (if_pos hmap)

theorem drainStart_unitsShort (hkey : s.drainKeyless = false) (hmap : s.cut.dir.length ≤ s.mapFree) (hfree : s.freeUnits < s.drainNeed) :
    s.drainStart c k = s.drainFail c.seq St.peatFull := by
  simp only [State.drainStart, hstop]
  exact (if_neg (Bool.eq_false_iff.1 hkey)).trans ((if_neg (Nat.not_lt.2 hmap)).trans (if_pos hfree))

theorem drainStart_begins (hkey : s.drainKeyless = false) (hmap : s.cut.dir.length ≤ s.mapFree) (hfree : s.drainNeed ≤ s.freeUnits) :
    s.drainStart c k = (s.drainBegun c k).catWrite .reservation (s.drainBegun c k).allEntries := by
  simp only [State.drainStart, hstop]
  refine (if_neg (Bool.eq_false_iff.1 hkey)).trans ((if_neg (Nat.not_lt.2 hmap)).trans ((if_neg (Nat.not_lt.2 hfree)).trans ?_))
  rw [mapReserve_only]
  rfl

end

theorem drainStart_stopped (h : s.peatWriteStop = some st) : s.drainStart c k = s.drainFail c.seq st := by
  simp only [State.drainStart, h]

/-- The Shard Map is full: the event is counted, and the drain fails. -/
theorem schedule_mapFull (hi : s.Inv) (h : DrainsNext s c k) (hw : s.drainStart c k = s.mapRefuse.drainFail c.seq St.mapFull) :
    DoesThen .feltingSchedule s (DrainFailed c St.mapFull) := by
  have hkeep := State.mapRefuse_keep s
  have hpeat : s.mapRefuse.peat = s.peat := hkeep.same .peat (by decide)
  refine .of_settled (exec_feltingSchedule h) ?_
  rw [hw]
  refine (drainFail_fails (hkeep.inv hi) ((findCut_congr (congrArg CutUnit.cuts (hkeep.same .cut (by decide))) _).trans h.found) ?_ _).1
  rw [State.DrainIs, hpeat]
  exact fun d hd => absurd (h.drain.symm.trans hd) nofun

/-- A reservation on its way with a drain that runs. -/
theorem catWrite_reserves {d : Drain} {x : Catalogue × Bool} {key : Nat} (hpeat : u.peat = s.peat) (hpart : u.part = s.part)
    (hx : s.peat.cat = some x) (hkey : s.peat.drive.keyAt 0 (slotOff (!x.2)) = some key) :
    let v := (u.onPeat (fun p => { p with drain := some d })).takeCtx k .drain
    v.catWrite .reservation v.allEntries = v.onPeat (fun p => { p with
      nvme := s.peat.nvme ++ [{ owner := .reservation, key := key, bytes := s.catNext x.1 (u.rd Fld.peatGenHigh.genHigh) s.allEntries }] }) := by
  intro v
  have hcat : v.peat.cat = some x := (congrArg Peat.cat hpeat).trans hx
  have hdrive : v.peat.drive.keyAt 0 (slotOff (!x.2)) = some key := (congrArg (fun p : Peat => p.drive.keyAt 0 _) hpeat).trans hkey
  have hnvme : v.peat.nvme = s.peat.nvme := (congrArg Peat.nvme hpeat :)
  have hcursor : v.peat.cursor = s.peat.cursor := (congrArg Peat.cursor hpeat :)
  have hpart : v.part = s.part := hpart
  have hall : v.allEntries = s.allEntries := by rw [State.allEntries, hcat, State.allEntries, hx]
  rw [catWrite_adds hcat hdrive, State.onPeat, State.onPeat, hnvme, hall, State.catNext, hcursor, hpart]
  rfl

/-- What the start of a drain leaves: the drain with its reservation on the way, FILLING entries, and a scan context. -/
theorem drainBegun_writes {x : Catalogue × Bool} {key : Nat} (hi : s.Inv) (hhigh : s.nextGen < 2 ^ 48) (hx : s.peat.cat = some x)
    (hkey : s.peat.drive.keyAt 0 (slotOff (!x.2)) = some key) :
    let t := (s.drainBegun c k).catWrite .reservation (s.drainBegun c k).allEntries
    t.peat = { s.peat with
      drain := some (s.drainOf c),
      nvme := s.peat.nvme ++ [{ owner := .reservation, key := key, bytes := s.catNext x.1 s.nextGen s.allEntries }] } ∧
    t.map = (s.mapReserve 1 c.gen c.step (BitVec.ofNat 64 s.nextGen) s.cut.dir).map ∧ kget t.chk.ctxs k = some .drain ∧
    t.rd Fld.peatGenHigh.genHigh = s.nextGen ∧ Changes [.regs, .map, .peat, .chk] [Fld.peatGenHigh.genHigh] s t := by
  unfold State.drainBegun
  generalize (s.mapReserve 1 c.gen c.step (BitVec.ofNat 64 s.nextGen) s.cut.dir).map = m
  have hhigh : ({ s with map := m }.wr Fld.peatGenHigh.genHigh s.nextGen).rd Fld.peatGenHigh.genHigh = s.nextGen :=
    (rd_wr_same _ _ (inv_rising hi) (by decide)).trans (Nat.mod_eq_of_lt hhigh)
  have honly : Only [.regs, .map] s ({ s with map := m }.wr Fld.peatGenHigh.genHigh s.nextGen) :=
    (only_regs _ _).step (by decide) ((keep_map s m).only.step (by decide) (.refl _ s))
  have hfields : FieldsBut [Fld.peatGenHigh.genHigh] s ({ s with map := m }.wr Fld.peatGenHigh.genHigh s.nextGen) :=
    .wr (.of_regs rfl) (inv_rising hi) List.mem_cons_self _
  have hmap : ({ s with map := m }.wr Fld.peatGenHigh.genHigh s.nextGen).map = m := rfl
  generalize { s with map := m }.wr Fld.peatGenHigh.genHigh s.nextGen = u at *
  have hpeat : u.peat = s.peat := honly.same .peat (by decide)
  have hwrite := catWrite_reserves (k := k) (d := s.drainOf c) hpeat (honly.same .part (by decide)) hx hkey
  intro t
  have ht : t = _ := hwrite
  rw [hhigh] at ht
  rw [ht]
  refine ⟨?_, hmap, kget_kset_same .., hhigh, ?_, hfields⟩
  · rw [← hpeat]
    rfl
  · exact (onPeat_only _ _).step (by decide) ((State.takeCtx_keep ..).only.step (by decide) ((onPeat_only u _).step (by decide)
      (honly.step (by decide) (.refl _ s))))

/-- FELTING_SCHEDULE as it starts a drain, or turns it down (R200). -/
theorem schedule_begins {x : Catalogue × Bool} {key : Nat} (hi : s.Inv) (h : DrainsNext s c k) (hstop : s.peatWriteStop = none)
    (hless : s.drainKeyless = false) (hmap : s.cut.dir.length ≤ s.mapFree) (hfree : s.drainNeed ≤ s.freeUnits) (hhigh : s.nextGen < 2 ^ 48)
    (hx : s.peat.cat = some x) (hkey : s.peat.drive.keyAt 0 (slotOff (!x.2)) = some key) : DoesThen .feltingSchedule s fun t =>
      t.peat = { s.peat with
        drain := some (s.drainOf c),
        nvme := s.peat.nvme ++ [{ owner := .reservation, key := key, bytes := s.catNext x.1 s.nextGen s.allEntries }] } ∧
      t.map = (s.mapReserve 1 c.gen c.step (BitVec.ofNat 64 s.nextGen) s.cut.dir).map ∧ kget t.chk.ctxs k = some .drain ∧
      t.rd Fld.peatGenHigh.genHigh = s.nextGen ∧ Changes [.regs, .map, .peat, .chk] [Fld.peatGenHigh.genHigh] s t := by
  refine .of_settled (exec_feltingSchedule h) ?_
  rw [drainStart_begins hstop hless hmap hfree]
  exact drainBegun_writes hi hhigh hx hkey

end Sys2Proof.Machine
end

section
/-! The reservation of a Peat drain and its writes (R199, R200, R201). -/
namespace Sys2Proof.Machine

variable {s t u : State} {c : Cut} {d : Drain} {w : NvmeWrite} {x : Catalogue × Bool} {f : NvmeOwner → Bool} {st : Status}

/-! ## A write that stands on the drive -/

/-- The bytes of a write stand in its blocks. -/
def WriteKept (w : NvmeWrite) (t : State) : Prop := Memory.bytesAt t.peat.drive.blocks w.key w.bytes.length = w.bytes

theorem WriteKept.congr (h : WriteKept w t) (hd : u.peat.drive = t.peat.drive) : WriteKept w u := by
  rw [WriteKept, hd]
  exact h

theorem driveStore_kept (hi : s.Inv) (w : NvmeWrite) : WriteKept w (s.driveStore w.key w.bytes) := by
  have hm := hi.blocks
  simp only [Memory.wf, Bool.and_eq_true] at hm
  exact Memory.bytesAt_putBytes_same _ _ hm.1

/-- A catalogue write of an owner has landed: its slot is the valid one. -/
def State.landed (s : State) (f : NvmeOwner → Bool) (w : NvmeWrite) (b : Bool) : State :=
  (s.driveStore w.key w.bytes).onPeat (fun p => { p with nvme := p.nvme.filter (fun w => !f w.owner), cat := some (Catalogue.ofBytes w.bytes, b) })

theorem catLand_lands (hw : s.peat.nvme.find? (fun w => f w.owner) = some w) (hx : s.peat.cat = some x) :
    s.catLand f = s.landed f w !x.2 := by
  obtain ⟨cat, b⟩ := x
  simp only [State.catLand, hw, hx, State.landed]

theorem landed_kept (hi : s.Inv) (b : Bool) : WriteKept w (s.landed f w b) := driveStore_kept hi w

theorem landed_keep (s : State) (f : NvmeOwner → Bool) (w : NvmeWrite) (b : Bool) : Keep ([.peat], 0) s (s.landed f w b) :=
  (keep_peat (s.driveStore w.key w.bytes) (s.landed f w b).peat rfl).step (by decide) (State.driveStore_keep s _ _)

theorem nvme_any (hw : s.peat.nvme.find? (fun w => f w.owner) = some w) : s.peat.nvme.any (fun w => f w.owner) = true :=
  List.any_eq_true.2 ⟨w, List.mem_of_find?_eq_some hw, List.find?_some (p := fun w : NvmeWrite => f w.owner) hw⟩

/-! ## Units -/

theorem nextUnit_unused {used : List Nat} {total n v k : Nat} (h : nextUnit used total n v = some k) : k ∉ used := by
  induction n generalizing v with
  | zero => cases h
  | succ n ih =>
    unfold nextUnit at h
    extract_lets v' at h
    split at h
    · exact ih h
    · next hno =>
      split at h
      · obtain rfl := Option.some.inj h
        simpa using hno
      · cases h

/-- The cursor has moved. -/
def State.atCursor (s : State) (k : Nat) : State := s.onPeat (fun p => { p with cursor := k })

theorem atCursor_keep (s : State) (k : Nat) : Keep ([.peat], 0) s (s.atCursor k) := keep_peat s (s.atCursor k).peat rfl

/-- The units taken are at most as many as were asked for, none of them is in use, and nothing but the cursor moves (R200). -/
theorem takeUnits_takes (n : Nat) (s : State) (mine : List Nat) : (s.takeUnits n mine).1.length ≤ n ∧
    (∀ v ∈ (s.takeUnits n mine).1, v ∉ s.usedUnits) ∧ ∃ k, (s.takeUnits n mine).2 = s.atCursor k := by
  induction n generalizing s mine with
  | zero => exact ⟨le_rfl, by simp [State.takeUnits], s.peat.cursor, rfl⟩
  | succ n ih =>
    rw [State.takeUnits]
    dsimp only
    split
    · exact ⟨Nat.zero_le _, by simp, s.peat.cursor, rfl⟩
    · next v hv =>
      obtain ⟨hlen, hunused, k, hk⟩ := ih (s.atCursor (v + 1)) (v :: mine)
      refine ⟨Nat.succ_le_succ hlen, fun y hy => ?_, k, hk⟩
      rcases List.mem_cons.1 hy with rfl | hy
      · exact fun hin => nextUnit_unused hv (List.mem_append_left _ hin)
      · exact hunused y hy

/-- What the choice of units looks at is the same. -/
structure SameUnits (s t : State) : Prop where
  used : t.usedUnits = s.usedUnits
  units : t.peat.drive.units = s.peat.drive.units
  cursor : t.peat.cursor = s.peat.cursor

theorem SameUnits.onCursor (h : SameUnits s t) (k : Nat) :
    SameUnits (s.atCursor k) (t.atCursor k) := ⟨h.used, h.units, rfl⟩

theorem takeUnits_congr (h : SameUnits s t) (n : Nat) (mine : List Nat) :
    (t.takeUnits n mine).1 = (s.takeUnits n mine).1 ∧ SameUnits (s.takeUnits n mine).2 (t.takeUnits n mine).2 := by
  induction n generalizing s t mine with
  | zero => exact ⟨rfl, h⟩
  | succ n ih =>
    rw [State.takeUnits, State.takeUnits, h.used, h.units, h.cursor]
    dsimp only
    split
    · exact ⟨rfl, h⟩
    · next v hv =>
      obtain ⟨hfst, hsnd⟩ := ih (h.onCursor (v + 1)) (v :: mine)
      exact ⟨congrArg (v :: ·) hfst, hsnd⟩

/-! ## The writes of a drain -/

/-- The writes begin: for the extents, two per unit, then for the manifest (R201). -/
theorem drainWrites_begins (s : State) (d : Drain) (c : Cut) (sums : List RegionSum) (du mu : List Nat) :
    ∃ e ws, (s.drainWrites d c sums du mu).peat = { s.peat with drain := some e, nvme := s.peat.nvme ++ ws } ∧ (∀ w ∈ ws, w.owner = .drain) ∧
      (e.seq, e.peatGen, e.step, e.need) = (d.seq, d.peatGen, DrainStep.writes, 0) ∧ e.units = du ++ mu ∧ e.halves = halvesOf du s.dirExtents ∧
      Only [.cut, .peat] s (s.drainWrites d c sums du mu) := by
  unfold State.drainWrites
  extract_lets halves c' recs man key exts put ws d'
  refine ⟨d', ws, rfl, fun w hw => ?_, rfl, rfl, rfl,
    (onPeat_only _ _).step (by decide) ((State.putCut_keep ..).only.step (by decide) (.refl _ s))⟩
  have hput (v off : Nat) (b : List Byte) : ∀ w ∈ put v off b, w.owner = .drain := by
    unfold put
    split
    · exact fun w hw => by rw [List.mem_singleton.1 hw]
    · exact fun w hw => absurd hw List.not_mem_nil
  rcases List.mem_append.1 hw with hw | hw
  · obtain ⟨y, -, hy⟩ := List.mem_flatMap.1 hw
    exact hput _ _ _ w hy
  · obtain ⟨y, -, hy⟩ := List.mem_flatMap.1 hw
    exact hput _ _ _ w hy

/-! ## DRAIN_RESERVATION_DONE -/

/-- Some region that the drain reads differs from the cut's CRCs. -/
def State.drainBad (s : State) (c : Cut) : Bool :=
  (List.range s.cut.dir.length).any (fun i => (s.readSum c i).crcs != ((s.allSums c).getD i (s.readSum c i)).crcs)

/-- Units for the extents of a drain, and then for its manifest, with the state in which they are taken. -/
def State.extUnits (s : State) : List Nat × State := s.takeUnits ((s.dirExtents + 1) / 2) []
def State.manUnits (s : State) : List Nat × State := s.extUnits.2.takeUnits ((s.manLen + 0x1FFFFF) / 0x200000) s.extUnits.1

/-- The number of a drain is durable (R201). -/
def State.reserved (s : State) (w : NvmeWrite) (b : Bool) : State := s.landed (fun o => o == .reservation) w b

/-- The drain of a cut goes on with its writes, unless a check fails it. -/
def State.reservationDone (s : State) (d : Drain) (c : Cut) : Out :=
  if s.board.pfWork then .next (s.drainFail d.seq St.pfailAbort)
  else if s.drainBad c then .next (s.drainFail d.seq St.crcMismatch)
  else if s.extUnits.1.length + s.manUnits.1.length < d.need then .next (s.manUnits.2.drainFail d.seq St.peatFull)
  else .next (s.manUnits.2.drainWrites d c (s.allSums c) s.extUnits.1 s.manUnits.1)

theorem extUnits_manLen (s : State) : s.extUnits.2.manLen = s.manLen := by
  obtain ⟨-, -, k, hk⟩ := takeUnits_takes ((s.dirExtents + 1) / 2) s []
  exact (congrArg State.manLen hk).trans rfl

theorem exec_drainReservationDone (hlink : s.peat.linkUp = true) (hx : s.peat.cat = some x) (hd : s.peat.drain = some d)
    (hc : s.findCut d.seq = some c) (hw : s.peat.nvme.find? (fun w => w.owner == .reservation) = some w) :
    exec .drainReservationDone s = settled ((s.reserved w !x.2).reservationDone d c) := by
  refine congrArg settled (?_ : doDrainReservationDone s = _)
  have hdrain : (s.reserved w !x.2).peat.drain = some d := hd
  have hcut : (s.reserved w !x.2).findCut d.seq = some c := hc
  have hman := extUnits_manLen (s.reserved w !x.2)
  unfold State.extUnits at hman
  have hland : s.catLand (fun o => o == .reservation) = s.reserved w !x.2 := catLand_lands (f := fun o => o == .reservation) hw hx
  simp only [doDrainReservationDone, hlink, nvme_any (f := fun o => o == .reservation) hw, hland, hdrain, hcut, hman, State.reservationDone,
    State.extUnits, State.manUnits, State.drainBad, Bool.not_true, Bool.or_self, Bool.false_eq_true, if_false]
  exact if_congr Iff.rfl rfl (if_congr Iff.rfl rfl (if_congr Iff.rfl rfl rfl))

theorem reserved_same (s : State) (w : NvmeWrite) (b : Bool) : SameUnits s (s.reserved w b) := ⟨rfl, rfl, rfl⟩

/-- The choice of units is the same before and after the reservation. -/
theorem reserved_units (s : State) (w : NvmeWrite) (b : Bool) :
    (s.reserved w b).extUnits.1 = s.extUnits.1 ∧ (s.reserved w b).manUnits.1 = s.manUnits.1 := by
  obtain ⟨hext, hsame⟩ := takeUnits_congr (reserved_same s w b) ((s.dirExtents + 1) / 2) []
  refine ⟨hext, ?_⟩
  have hman : (s.reserved w b).manUnits = (s.reserved w b).extUnits.2.takeUnits ((s.manLen + 0x1FFFFF) / 0x200000) s.extUnits.1 :=
    congrArg (State.takeUnits _ _) hext
  rw [hman]
  exact (takeUnits_congr hsame _ _).1

/-- The units of a drain: at most as many as it needs, and none of them in use (R199). -/
theorem drainUnits_free (s : State) : s.extUnits.1.length ≤ (s.dirExtents + 1) / 2 ∧ s.manUnits.1.length ≤ (s.manLen + 0x1FFFFF) / 0x200000 ∧
    (s.extUnits.1 ++ s.manUnits.1).all (fun v => !s.usedUnits.contains v) = true := by
  obtain ⟨hextlen, hextfree, k, hk⟩ := takeUnits_takes ((s.dirExtents + 1) / 2) s []
  obtain ⟨hmanlen, hmanfree, -⟩ := takeUnits_takes ((s.manLen + 0x1FFFFF) / 0x200000) s.extUnits.2 s.extUnits.1
  have hused : s.extUnits.2.usedUnits = s.usedUnits := (congrArg State.usedUnits hk).trans rfl
  rw [hused] at hmanfree
  refine ⟨hextlen, hmanlen, List.all_eq_true.2 fun v hv => ?_⟩
  have hfree : v ∉ s.usedUnits := (List.mem_append.1 hv).elim (hextfree v) (hmanfree v)
  simpa using hfree

/-- Taking the units of a drain moves the cursor alone. -/
theorem manUnits_moves (s : State) : ∃ k, s.manUnits.2 = s.atCursor k := by
  obtain ⟨-, -, k, hk⟩ := takeUnits_takes ((s.dirExtents + 1) / 2) s []
  obtain ⟨-, -, j, hj⟩ := takeUnits_takes ((s.manLen + 0x1FFFFF) / 0x200000) s.extUnits.2 s.extUnits.1
  have hext : s.extUnits.2 = s.atCursor k := hk
  have hman : s.manUnits.2 = s.extUnits.2.atCursor j := hj
  exact ⟨j, by rw [hman, hext]; rfl⟩

section
variable (hi : s.Inv) (hlink : s.peat.linkUp = true) (hx : s.peat.cat = some x) (hd : s.peat.drain = some d) (hc : s.findCut d.seq = some c)
  (hw : s.peat.nvme.find? (fun w => w.owner == .reservation) = some w)
include hi hlink hx hd hc hw

/-- A drain that fails once its number is durable: the reservation stays. -/
theorem reservation_fails {k : Nat} (hdone : (s.reserved w !x.2).reservationDone d c =
    .next (((s.reserved w !x.2).atCursor k).drainFail d.seq st)) :
    DoesThen .drainReservationDone s fun t => DrainFailed c st t ∧ WriteKept w t := by
  have hinv : ((s.reserved w !x.2).atCursor k).Inv := (atCursor_keep ..).inv ((landed_keep s _ w _).inv hi)
  have hseq := (findCut_mem hc).2
  have hown : ((s.reserved w !x.2).atCursor k).DrainIs c.seq := fun e he => by rw [hseq, Option.some.inj (hd.symm.trans he)]
  refine .of_settled ((exec_drainReservationDone hlink hx hd hc hw).trans (congrArg settled hdone)) ?_
  rw [← hseq] at hc ⊢
  obtain ⟨hfail, hdrive, -⟩ := drainFail_fails hinv hc hown st
  have hkept : WriteKept w ((s.reserved w !x.2).atCursor k) := driveStore_kept hi w
  exact ⟨hfail, hkept.congr hdrive⟩

theorem reservation_pfail (hpf : s.board.pfWork = true) :
    DoesThen .drainReservationDone s fun t => DrainFailed c St.pfailAbort t ∧ WriteKept w t :=
  reservation_fails (k := s.peat.cursor) hi hlink hx hd hc hw (if_pos hpf)

variable (hpf : s.board.pfWork = false)
include hpf

theorem reservation_bad (hbad : s.drainBad c = true) :
    DoesThen .drainReservationDone s fun t => DrainFailed c St.crcMismatch t ∧ WriteKept w t :=
  reservation_fails (k := s.peat.cursor) hi hlink hx hd hc hw ((if_neg (Bool.eq_false_iff.1 hpf)).trans (if_pos hbad))

variable (hgood : s.drainBad c = false)
include hgood

theorem reservation_full (hfew : s.extUnits.1.length + s.manUnits.1.length < d.need) :
    DoesThen .drainReservationDone s fun t => DrainFailed c St.peatFull t ∧ WriteKept w t := by
  obtain ⟨hext, hman⟩ := reserved_units s w !x.2
  obtain ⟨k, hk⟩ := manUnits_moves (s.reserved w !x.2)
  refine reservation_fails (k := k) hi hlink hx hd hc hw
    ((if_neg (Bool.eq_false_iff.1 hpf)).trans ((if_neg (Bool.eq_false_iff.1 hgood)).trans ((if_pos ?_).trans ?_)))
  · rw [hext, hman]
    exact hfew
  · rw [hk]

/-- The writes of a drain begin once its number is durable. -/
theorem reservation_writes (henough : d.need ≤ s.extUnits.1.length + s.manUnits.1.length) : DoesThen .drainReservationDone s fun t =>
    WriteKept w t ∧ t.peat.cat = some (Catalogue.ofBytes w.bytes, !x.2) ∧
    t.peat.drain.map (fun y => (y.seq, y.peatGen, y.step, y.need)) = some (d.seq, d.peatGen, DrainStep.writes, 0) ∧
    (∀ y, t.peat.drain = some y → y.units = s.extUnits.1 ++ s.manUnits.1 ∧ y.units.all (fun u => !s.usedUnits.contains u) = true ∧
      y.halves.length ≤ s.dirExtents ∧
      (y.units.length = (s.dirExtents + 1) / 2 + (s.manLen + 0x1FFFFF) / 0x200000 → y.halves.length = s.dirExtents)) ∧
    t.peat.nvme.all (fun w => w.owner != .reservation) = true ∧ Changes [.cut, .peat] [] s t := by
  obtain ⟨hext, hman⟩ := reserved_units s w !x.2
  obtain ⟨k, hk⟩ := manUnits_moves (s.reserved w !x.2)
  obtain ⟨e, ws, hpeat, howner, hd4, hunits, hhalves, honly⟩ := drainWrites_begins (s.reserved w !x.2).manUnits.2 d c
    ((s.reserved w !x.2).allSums c) (s.reserved w !x.2).extUnits.1 (s.reserved w !x.2).manUnits.1
  have hdone : (s.reserved w !x.2).reservationDone d c = .next ((s.reserved w !x.2).manUnits.2.drainWrites d c ((s.reserved w !x.2).allSums c)
      (s.reserved w !x.2).extUnits.1 (s.reserved w !x.2).manUnits.1) := by
    refine (if_neg (Bool.eq_false_iff.1 hpf)).trans ((if_neg (Bool.eq_false_iff.1 hgood)).trans (if_neg ?_))
    rw [hext, hman]
    exact Nat.not_lt.2 henough
  refine .of_settled ((exec_drainReservationDone hlink hx hd hc hw).trans (congrArg settled hdone)) ?_
  generalize (s.reserved w !x.2).manUnits.2.drainWrites d c ((s.reserved w !x.2).allSums c) (s.reserved w !x.2).extUnits.1
    (s.reserved w !x.2).manUnits.1 = t at *
  rw [hk] at hpeat honly hhalves
  rw [hext, hman] at hunits
  rw [hext] at hhalves
  have hregs : t.regs = s.regs := honly.same .regs (by decide)
  have hlands : Only [.cut, .peat] s ((s.reserved w !x.2).atCursor k) :=
    (atCursor_keep ..).only.step (by decide) ((landed_keep s _ w _).only.step (by decide) (.refl _ s))
  obtain ⟨hseq, hgen, hstep, hneed⟩ : e.seq = d.seq ∧ e.peatGen = d.peatGen ∧ e.step = .writes ∧ e.need = 0 := by simpa using hd4
  have hdrain : t.peat.drain = some e := by rw [hpeat]
  have hnvme : t.peat.nvme = s.peat.nvme.filter (fun w => !(w.owner == NvmeOwner.reservation)) ++ ws := by
    rw [hpeat]
    rfl
  have hkept : WriteKept w ((s.reserved w !x.2).atCursor k) := driveStore_kept hi w
  refine ⟨hkept.congr (by rw [hpeat]), by rw [hpeat]; rfl, by rw [hdrain, ← hd4]; rfl, fun y hy => ?_, ?_,
    honly.step (by decide) hlands, .of_regs hregs⟩
  · obtain rfl : e = y := Option.some.inj (hdrain.symm.trans hy)
    obtain ⟨hextlen, hmanlen, hfree⟩ := drainUnits_free s
    have hlen : e.halves.length = min s.dirExtents (2 * s.extUnits.1.length) := by
      rw [hhalves, length_halvesOf]
      rfl
    rw [hunits, List.length_append, hlen]
    exact ⟨rfl, hfree, Nat.min_le_left .., fun hall => by omega⟩
  · rw [hnvme, List.all_append, Bool.and_eq_true, List.all_eq_true, List.all_eq_true]
    refine ⟨fun v hv => ?_, fun v hv => by rw [howner v hv]; rfl⟩
    simpa using (List.mem_filter.1 hv).2

end

end Sys2Proof.Machine
end

section
/-! The writes and the Flush of a Peat drain (R201, R202, R207). -/
namespace Sys2Proof.Machine

variable {s t u : State} {c : Cut} {d : Drain} {w : NvmeWrite} {x : Catalogue × Bool} {st : Status}

/-! ## The writes of a drain -/

/-- Every write of the drain stands on the drive. -/
def State.writesLanded (s : State) : State :=
  ((s.peat.nvme.filter (fun w => w.owner == .drain)).foldl (fun s w => s.driveStore w.key w.bytes) s).onPeat
    (fun p => { p with nvme := p.nvme.filter (fun w => w.owner != .drain) })

theorem driveStores_only (l : List NvmeWrite) (s : State) : ∃ b, l.foldl (fun s w => s.driveStore w.key w.bytes) s =
    s.onPeat (fun p => { p with drive := { p.drive with blocks := b } }) := by
  induction l generalizing s with
  | nil => exact ⟨s.peat.drive.blocks, rfl⟩
  | cons w l ih =>
    obtain ⟨b, hb⟩ := ih (s.driveStore w.key w.bytes)
    exact ⟨b, hb⟩

/-- What the landing of the writes leaves: all but the blocks of the drive and the writes. -/
theorem writesLanded_only (s : State) : ∃ b, s.writesLanded = s.onPeat (fun p =>
    { p with drive := { p.drive with blocks := b }, nvme := p.nvme.filter (fun w => w.owner != .drain) }) := by
  obtain ⟨b, hb⟩ := driveStores_only (s.peat.nvme.filter (fun w => w.owner == .drain)) s
  refine ⟨b, ?_⟩
  rw [State.writesLanded, hb]
  rfl

theorem writesLanded_keep (s : State) : Keep ([.peat], 0) s s.writesLanded := by
  have hfold : Keep ([.peat], 0) s ((s.peat.nvme.filter (fun w => w.owner == .drain)).foldl (fun s w => s.driveStore w.key w.bytes) s) :=
    .foldl (.refl _ s) fun t (w : NvmeWrite) => State.driveStore_keep t w.key w.bytes
  unfold State.writesLanded
  generalize (s.peat.nvme.filter (fun w => w.owner == .drain)).foldl (fun s w => s.driveStore w.key w.bytes) s = u at *
  exact (keep_peat u { u.peat with nvme := u.peat.nvme.filter (fun w => w.owner != .drain) } rfl).step (by decide) hfold

theorem writesLanded_kept (hi : s.Inv) (hw : s.peat.nvme.filter (fun w => w.owner == .drain) = [w]) : WriteKept w s.writesLanded := by
  unfold State.writesLanded
  rw [hw]
  exact driveStore_kept hi w

/-! ## Pending rewrites -/

/-- The drain that runs and the writes with the drive. -/
def Peat.going (p : Peat) : Option Drain × List NvmeWrite := (p.drain, p.nvme)

theorem manStore_going (s : State) (man : List Nat) (key : Option (List Byte)) (b : List Byte) :
    (s.manStore man key b).peat.going = s.peat.going := by
  refine foldl_keeps (p := fun s => s.peat.going) (fun s x => ?_) _ s
  dsimp only
  split <;> rfl

theorem takeUnits_going (n : Nat) (s : State) (mine : List Nat) : (s.takeUnits n mine).2.peat.going = s.peat.going := by
  obtain ⟨-, -, k, hk⟩ := takeUnits_takes n s mine
  rw [hk]
  rfl

/-- The manifests of rewrites are stored without a write that completes later. -/
theorem takeRewrite_going (s : State) (r : Rewrite) : (s.takeRewrite r).peat.going = s.peat.going := by
  unfold State.takeRewrite
  dsimp only
  split
  · split
    · rw [flushEnds_peat]
    · split
      · rw [flushEnds_peat]
      · split
        · rw [flushEnds_peat]
          rfl
        · exact (manStore_going ..).trans (takeUnits_going ..)
  · rfl

theorem takeRewrites_going (s : State) : s.takeRewrites.peat.going = s.peat.going :=
  (foldl_keeps (p := fun s => s.peat.going) takeRewrite_going _ _).trans rfl

/-- With none pending, none is taken. -/
theorem takeRewrites_none (h : s.peat.staged = []) : s.takeRewrites = s.onPeat (fun p =>
    { p with staged := [], taking := [], flushDue := false, nextEntries := s.entries }) := by
  unfold State.takeRewrites
  rw [h]
  rfl

/-! ## DRAIN_WRITES_DONE -/

/-- The drain goes on with its Flush, and its extents and manifest are WRITTEN. -/
def State.toFlush (s : State) (d : Drain) : State :=
  (s.onPeat (fun p => { p with drain := some { d with step := .flush } })).mapMove (fun e => mapPeat d.peatGen e && e.st == .filling) .written

/-- The outcome of DRAIN_WRITES_DONE, once the writes have landed. -/
def State.writesDone (s : State) (d : Drain) : State :=
  if d.short || s.pfPast .dataWrites then s.drainFail d.seq St.pfailAbort
  else if (s.toFlush d).peatHeld || (s.toFlush d).catBusy then s.toFlush d else (s.toFlush d).takeRewrites

section
variable (hi : s.Inv) (hlink : s.peat.linkUp = true) (hd : s.peat.drain = some d) (hstep : d.step = .writes)
include hlink hd hstep

theorem exec_drainWritesDone : exec .drainWritesDone s = settled (.next (s.writesLanded.writesDone d)) := by
  refine congrArg settled (?_ : doDrainWritesDone s = _)
  have hw : (d.step != .writes) = false := by rw [hstep]; rfl
  simp only [doDrainWritesDone, hd, hw, hlink, Bool.not_true, Bool.or_self, Bool.false_eq_true, if_false]
  exact (apply_ite Host.Outcome.next ..).symm

include hi

/-- A drain held back or late for its limit fails (R207). -/
theorem writesDone_late (hc : s.findCut d.seq = some c) (hlate : d.short = true ∨ s.pfPast .dataWrites = true) :
    DoesThen .drainWritesDone s (DrainFailed c St.pfailAbort) := by
  obtain ⟨b, hb⟩ := writesLanded_only s
  have hseq := (findCut_mem hc).2
  have hdrain : s.writesLanded.peat.drain = some d := by rw [hb]; exact hd
  have hcut : s.writesLanded.findCut c.seq = some c := by rw [hb, hseq]; exact hc
  have hpast : s.writesLanded.pfPast .dataWrites = s.pfPast .dataWrites := by rw [hb]; rfl
  refine .of_settled (exec_drainWritesDone hlink hd hstep) ?_
  rw [State.writesDone, hpast, if_pos (by simpa using hlate), ← hseq]
  exact (drainFail_fails ((writesLanded_keep s).inv hi) hcut (fun e he => by rw [hseq, Option.some.inj (hdrain.symm.trans he)]) _).1

/-- The Flush of a drain goes out, and pending rewrites join its catalogue write (R201, R202). -/
theorem writesDone_flushes (hshort : d.short = false) (htime : s.pfPast .dataWrites = false) : DoesThen .drainWritesDone s fun t =>
    t.peat.drain = some { d with step := .flush } ∧ t.peat.nvme = s.peat.nvme.filter (fun w => w.owner != .drain) ∧
    ((s.peatHeld = false → s.catBusy = false → s.peat.staged = []) →
      (∀ w, s.peat.nvme.filter (fun w => w.owner == .drain) = [w] → WriteKept w t) ∧
      t.map = s.map.map (fun e => if mapPeat d.peatGen e.2 && e.2.st == .filling then (e.1, { e.2 with st := .written }) else e) ∧
      Changes [.map, .peat] [] s t) := by
  have hkeep : Keep ([.map, .peat], 0) s (s.writesLanded.toFlush d) :=
    (State.mapMove_keep ..).step (by decide) ((keep_peat s.writesLanded
      { s.writesLanded.peat with drain := some { d with step := .flush } } rfl).step (by decide) ((writesLanded_keep s).mono (by decide)))
  have hkept (w : NvmeWrite) (hw : s.peat.nvme.filter (fun w => w.owner == .drain) = [w]) : WriteKept w (s.writesLanded.toFlush d) :=
    (writesLanded_kept hi hw).congr rfl
  obtain ⟨b, hb⟩ := writesLanded_only s
  have hpast : s.writesLanded.pfPast .dataWrites = s.pfPast .dataWrites := by rw [hb]; rfl
  have hgoing : (s.writesLanded.toFlush d).peat.going = (some { d with step := .flush }, s.peat.nvme.filter (fun w => w.owner != .drain)) := by
    rw [hb]
    rfl
  have hstaged : (s.writesLanded.toFlush d).peat.staged = s.peat.staged := by rw [hb]; rfl
  have hheld : (s.writesLanded.toFlush d).peatHeld = s.peatHeld := by rw [hb]; rfl
  have hbusy : (s.writesLanded.toFlush d).catBusy = s.catBusy := by
    have hout : (s.peat.nvme.filter (fun w => w.owner != .drain)).any (fun w => w.owner != .drain) = s.catOut := by
      rw [List.any_filter, State.catOut]
      simp only [Bool.and_self]
    rw [State.catBusy, State.catBusy, ← hout, hb]
    rfl
  have hmap : (s.writesLanded.toFlush d).map =
      s.map.map (fun e => if mapPeat d.peatGen e.2 && e.2.st == .filling then (e.1, { e.2 with st := .written }) else e) := by
    rw [hb]
    rfl
  refine .of_settled (exec_drainWritesDone hlink hd hstep) ?_
  rw [State.writesDone, if_neg (by simp [hshort, hpast, htime]), hheld, hbusy]
  generalize s.writesLanded.toFlush d = v at *
  by_cases hwait : (s.peatHeld || s.catBusy) = true
  · rw [if_pos hwait]
    exact ⟨congrArg Prod.fst hgoing, congrArg Prod.snd hgoing, fun _ => ⟨hkept, hmap, hkeep.only, .of_regs (hkeep.same .regs (by decide))⟩⟩
  · rw [if_neg hwait]
    have hgo := (takeRewrites_going v).trans hgoing
    refine ⟨congrArg Prod.fst hgo, congrArg Prod.snd hgo, fun hnone => ?_⟩
    obtain ⟨hno, hnb⟩ := Bool.or_eq_false_iff.1 (Bool.eq_false_iff.2 hwait)
    rw [takeRewrites_none (hstaged.trans (hnone hno hnb))]
    exact ⟨fun w hw => (hkept w hw).congr rfl, hmap, (onPeat_only _ _).step (by decide) hkeep.only, .of_regs (hkeep.same .regs (by decide))⟩

end

/-! ## DRAIN_FLUSH_DONE -/

/-- The Flush of rewrites completes: their catalogue is written (R202). -/
theorem flushDone_rewrites {key : Nat} (hlink : s.peat.linkUp = true) (hx : s.peat.cat = some x) (hf : s.peat.flushing = true)
    (hkey : s.peat.drive.keyAt 0 (slotOff (!x.2)) = some key) : DoesThen .drainFlushDone s fun t =>
      t.peat = { s.peat with
        flushing := false,
        nvme := s.peat.nvme ++ [{ owner := .catalogue, key := key,
                                  bytes := s.catNext x.1 (s.rd Fld.peatGenHigh.genHigh) (s.retained s.baseEntries) }] } ∧
      Changes [.peat] [] s t := by
  have hexec : exec .drainFlushDone s = settled (.next ((s.onPeat (fun p => { p with flushing := false })).catWrite .catalogue
      (s.retained s.baseEntries))) := by
    refine congrArg settled (?_ : doDrainFlushDone s = _)
    simp only [doDrainFlushDone, hlink, hf, Bool.not_true, Bool.false_eq_true, if_false, if_true]
    rfl
  refine .of_settled hexec ?_
  rw [catWrite_adds (s := s.onPeat (fun p => { p with flushing := false })) hx hkey]
  exact ⟨rfl, (onPeat_only _ _).step (by decide) ((onPeat_only s _).step (by decide) (.refl _ s)), .of_regs rfl⟩

/-- The entry of a drain's generation in the catalogue. -/
def Drain.entry (d : Drain) (c : Cut) : CatEntry :=
  { peatGen := d.peatGen, step := c.step, gen := c.gen, encrypted := d.key.isSome, battless := c.battless,
    sedgeIncomplete := c.st == .sedgeIncomplete, manBytes := d.manBytes, manUnit := d.manUnits.headD 0, manCrc := d.manCrc,
    kcv := match d.key with | some k => kcvOf k.1 | none => 0, group := c.group }

/-- The drain goes on with the catalogue that has its generation. -/
def State.toCatalogue (s : State) (d : Drain) : State :=
  s.onPeat (fun p => { p with
    drain := some { d with step := .catalogue },
    nextGens := { peatGen := d.peatGen, units := d.units, man := d.manUnits } :: p.nextGens })

/-- The outcome of DRAIN_FLUSH_DONE for the drain of a cut. -/
def State.flushDone (s : State) (d : Drain) (c : Cut) : State :=
  if s.pfPast .flush then s.drainFail d.seq St.pfailAbort
  else (s.toCatalogue d).catWrite .catalogue (s.retained (s.baseEntries ++ [d.entry c]))

section
variable (hlink : s.peat.linkUp = true) (hd : s.peat.drain = some d) (hc : s.findCut d.seq = some c) (hstep : d.step = .flush)
  (hbusy : s.catBusy = false)
include hlink hd hc hstep hbusy

theorem exec_drainFlushDone : exec .drainFlushDone s = settled (.next (s.flushDone d c)) := by
  refine congrArg settled (?_ : doDrainFlushDone s = _)
  have hs : (d.step != .flush) = false := by rw [hstep]; rfl
  obtain ⟨hflushing, hout⟩ := Bool.or_eq_false_iff.1 hbusy
  simp only [doDrainFlushDone, hlink, hflushing, hd, hs, hout, hc, Bool.not_true, Bool.or_self, Bool.false_eq_true, if_false]
  exact (apply_ite Host.Outcome.next ..).symm

theorem flushDone_late (hi : s.Inv) (hlate : s.pfPast .flush = true) : DoesThen .drainFlushDone s (DrainFailed c St.pfailAbort) := by
  refine .of_settled (exec_drainFlushDone hlink hd hc hstep hbusy) ?_
  have hseq := (findCut_mem hc).2
  rw [State.flushDone, if_pos hlate, ← hseq]
  rw [← hseq] at hc
  exact (drainFail_fails hi hc (fun e he => by rw [hseq, Option.some.inj (hd.symm.trans he)]) _).1

/-- The catalogue with the new generation is written into the slot that is not valid (R201). -/
theorem flushDone_writes {key : Nat} (hx : s.peat.cat = some x) (htime : s.pfPast .flush = false)
    (hkey : s.peat.drive.keyAt 0 (slotOff (!x.2)) = some key) : DoesThen .drainFlushDone s fun t =>
      t.peat.drain = some { d with step := .catalogue } ∧
      t.peat.nvme = s.peat.nvme ++ [{ owner := .catalogue, key := key,
                                      bytes := s.catNext x.1 (s.rd Fld.peatGenHigh.genHigh) (s.retained (s.baseEntries ++ [d.entry c])) }] ∧
      t.peat.nextGens = { peatGen := d.peatGen, units := d.units, man := d.manUnits } :: s.peat.nextGens ∧ Changes [.peat] [] s t := by
  refine .of_settled (exec_drainFlushDone hlink hd hc hstep hbusy) ?_
  rw [State.flushDone, htime, if_neg Bool.false_ne_true, catWrite_adds (s := s.toCatalogue d) hx hkey]
  exact ⟨rfl, rfl, rfl, (onPeat_only _ _).step (by decide) ((onPeat_only s _).step (by decide) (.refl _ s)), .of_regs rfl⟩

end

end Sys2Proof.Machine
end

section
/-! The catalogue write that commits a Peat generation (R201, R203, R205). -/
namespace Sys2Proof.Machine

variable {s t u : State} {c : Cut} {d : Drain} {w : NvmeWrite} {x : Catalogue × Bool}

/-! ## LAST_GEN -/

theorem mem_insertGen {e y : CatEntry} {l : List CatEntry} (h : y ∈ insertGen e l) : y = e ∨ y ∈ l := by
  induction l with
  | nil => exact .inl (List.mem_singleton.1 h)
  | cons z l ih =>
    unfold insertGen at h
    split at h
    · exact List.mem_cons.1 h
    · rcases List.mem_cons.1 h with rfl | h
      · exact .inr (List.mem_cons_self ..)
      · exact (ih h).imp_right (List.mem_cons_of_mem z)

theorem mem_newest {y : CatEntry} {l : List CatEntry} (h : y ∈ l.foldr insertGen []) : y ∈ l := by
  induction l with
  | nil => exact h
  | cons z l ih =>
    rcases mem_insertGen h with rfl | h
    · exact List.mem_cons_self ..
    · exact List.mem_cons_of_mem z (ih h)

theorem entries_congr (hcat : t.peat.cat = s.peat.cat) (hgens : t.peat.gens = s.peat.gens) : t.entries = s.entries := by
  unfold State.entries State.allEntries
  rw [hcat, hgens]

/-- PEAT_GEN of an entry that is read from a catalogue has 48 bits. -/
theorem entries_peatGen {b : List Byte} {v : Bool} (hcat : s.peat.cat = some (Catalogue.ofBytes b, v)) {e : CatEntry} (he : e ∈ s.entries) :
    e.peatGen < 2 ^ 48 := by
  have hall : e ∈ (Catalogue.ofBytes b).entries := by
    have hmem := (List.mem_filter.1 he).1
    rwa [State.allEntries, hcat] at hmem
  obtain ⟨i, -, rfl⟩ := List.mem_map.1 hall
  exact Nat.mod_lt _ (Nat.two_pow_pos 48)

/-- PEAT_GEN of the newest generation that a catalogue shows, 0 without one. -/
def State.newestGen (s : State) : Nat := (s.entries.foldr insertGen []).head?.elim 0 (fun e => e.peatGen)

theorem showGens_lastGen (hi : s.Inv) {b : List Byte} {v : Bool} (hcat : s.peat.cat = some (Catalogue.ofBytes b, v)) :
    s.showGens.rd Fld.peatGen.lastGen = s.newestGen := by
  have hlast (g step : Nat) (hg : g < 2 ^ 48) : ((s.wr Fld.peatGen.lastGen g).wr Fld.peatGenStep.step step).rd Fld.peatGen.lastGen = g := by
    rw [rd_wr_apart _ _ _ (rising_of_regsWf (regsWf_wr _ _ hi.regs)) (by decide)]
    exact (rd_wr_same _ _ (inv_rising hi) (by decide)).trans (Nat.mod_eq_of_lt hg)
  unfold State.showGens State.newestGen
  split
  · next e l h =>
    rw [h]
    exact hlast _ _ (entries_peatGen hcat (mem_newest (h ▸ List.mem_cons_self ..)))
  · next h =>
    rw [h]
    exact hlast 0 0 (by decide)

/-! ## A catalogue write that completes -/

/-- The generations that a catalogue write retains. -/
def State.keptGens (s : State) (w : NvmeWrite) : List PeatGenInfo :=
  (s.peat.nextGens ++ s.peat.gens).filter (fun i => ((Catalogue.ofBytes w.bytes).entries.map (fun e => e.peatGen)).contains i.peatGen)

/-- What a completed catalogue write leaves of the port. -/
structure Committed (s : State) (w : NvmeWrite) (b : Bool) (t : State) : Prop where
  kept : WriteKept w t
  cat : t.peat.cat = some (Catalogue.ofBytes w.bytes, b)
  taking : t.peat.taking = []
  nextGens : t.peat.nextGens = []
  gens : t.peat.gens = s.keptGens w
  drain : t.peat.drain = s.peat.drain
  lastGen : t.rd Fld.peatGen.lastGen = t.newestGen
  cuts : s.peat.taking = [] → t.cut.cuts = s.cut.cuts

/-- The last generation that a chain of rewrites gives. -/
def lastOf (taken : List (Rewrite × Nat)) (g : Nat) : Nat :=
  match taken.reverse.find? (fun t => t.1.peatGen == g) with | some t => t.2 | none => g

/-- The Shard Map after the rewrites that a catalogue write makes visible. -/
def State.mapRewrites (s : State) (taken : List (Rewrite × Nat)) (gens : List PeatGenInfo) : State :=
  (taken.map (fun t => t.1.peatGen)).eraseDups.foldl (fun s g =>
    match s.entries.find? (fun e => e.peatGen == lastOf taken g), gens.find? (fun i => i.peatGen == lastOf taken g) with
    | some e, some i =>
      (match s.entryKey e with
      | some key =>
        let moves := (taken.filter (fun t => t.1.peatGen == g)).flatMap (fun t => t.1.moves)
        s.mapRewritten key (Man.ofBytes (s.manLoad i.man e.manBytes key)) g moves (lastOf taken g)
      | none => s)
    | _, _ => s) s

theorem mapRewrites_keep (s : State) (taken : List (Rewrite × Nat)) (gens : List PeatGenInfo) : Keep ([.map], 0) s (s.mapRewrites taken gens) := by
  refine .foldl (.refl _ s) fun t g => ?_
  split
  · split
    · exact State.mapRewritten_keep ..
    · exact .refl _ t
  · exact .refl _ t

/-- The cuts after the rewrites: they name the last generation. -/
def State.cutRewrites (s : State) (taken : List (Rewrite × Nat)) : State :=
  s.onCut (fun u => { u with cuts := u.cuts.map (fun c => { c with peatGen := lastOf taken c.peatGen }) })

theorem cutRewrites_keep (s : State) (taken : List (Rewrite × Nat)) : Keep ([.cut], 0) s (s.cutRewrites taken) := State.onCut_keep ..

/-- The generations of a completed catalogue write. -/
def State.gensShown (s : State) (taken : List (Rewrite × Nat)) (gens : List PeatGenInfo) (freed : List Nat) : State :=
  s.onPeat (fun p =>
    { p with
      gens := gens, nextGens := [], nextEntries := [], taking := [], drive := { p.drive with known := gens },
      jobcGen := p.jobcGen.map (lastOf taken),
      dealloc := if s.rdB Fld.tierCtrl.deallocEn then p.dealloc ++ freed else p.dealloc })

theorem catCommit_steps (hw : s.peat.nvme.find? (fun w => w.owner == .catalogue) = some w) (hx : s.peat.cat = some x) : ∃ freed drop,
    s.catCommit = (((((s.landed (fun o => o == .catalogue) w !x.2).mapRewrites s.peat.taking (s.keptGens w)).cutRewrites
      s.peat.taking).gensShown s.peat.taking (s.keptGens w) freed).mapDrop drop).showGens.flushCheck := by
  unfold State.catCommit
  rw [catLand_lands (f := fun o => o == .catalogue) hw hx]
  exact ⟨_, _, rfl⟩

/-- The registers and the port once the generations are shown. -/
theorem gensShown_commits {b : Bool} (hi : u.Inv) (hkept : WriteKept w u) (hcat : u.peat.cat = some (Catalogue.ofBytes w.bytes, b))
    (hdrain : u.peat.drain = s.peat.drain) (hcuts : s.peat.taking = [] → u.cut.cuts = s.cut.cuts)
    (taken : List (Rewrite × Nat)) (freed : List Nat) (drop : MapEntry → Bool) :
    Committed s w b ((u.gensShown taken (s.keptGens w) freed).mapDrop drop).showGens.flushCheck := by
  have hshown : Keep ([.map, .peat], 0) u ((u.gensShown taken (s.keptGens w) freed).mapDrop drop) :=
    (State.mapDrop_keep _ drop).step (by decide) ((keep_peat u (u.gensShown taken (s.keptGens w) freed).peat rfl).mono (by decide))
  have hpeat : ((u.gensShown taken (s.keptGens w) freed).mapDrop drop).peat = (u.gensShown taken (s.keptGens w) freed).peat := rfl
  generalize (u.gensShown taken (s.keptGens w) freed).mapDrop drop = v at *
  have hgens := State.showGens_keep v
  have hcheck := State.flushCheck_keep v.showGens
  have hsame : v.showGens.flushCheck.peat = (u.gensShown taken (s.keptGens w) freed).peat :=
    (hcheck.same .peat (by decide)).trans ((hgens.same .peat (by decide)).trans hpeat)
  have hcut : v.showGens.flushCheck.cut = u.cut :=
    (hcheck.same .cut (by decide)).trans ((hgens.same .cut (by decide)).trans (hshown.same .cut (by decide)))
  refine
    { kept := (show WriteKept w (u.gensShown taken (s.keptGens w) freed) from hkept).congr (congrArg Peat.drive hsame)
      cat := (congrArg Peat.cat hsame).trans hcat
      taking := congrArg Peat.taking hsame
      nextGens := congrArg Peat.nextGens hsame
      gens := congrArg Peat.gens hsame
      drain := (congrArg Peat.drain hsame).trans hdrain
      lastGen := ?_
      cuts := fun h => (congrArg CutUnit.cuts hcut).trans (hcuts h) }
  have hlast := showGens_lastGen (hshown.inv hi) ((congrArg Peat.cat hpeat).trans hcat)
  have hnew : v.showGens.flushCheck.newestGen = v.newestGen := by
    unfold State.newestGen
    rw [entries_congr (congrArg Peat.cat (hsame.trans hpeat.symm)) (congrArg Peat.gens (hsame.trans hpeat.symm))]
  exact (hcheck.rd (hgens.inv (hshown.inv hi)) (by decide +kernel)).trans (hlast.trans hnew.symm)

theorem catCommit_commits (hi : s.Inv) (hw : s.peat.nvme.find? (fun w => w.owner == .catalogue) = some w) (hx : s.peat.cat = some x) :
    Committed s w (!x.2) s.catCommit := by
  obtain ⟨freed, drop, h⟩ := catCommit_steps hw hx
  rw [h]
  have hland := landed_keep s (fun o => o == .catalogue) w !x.2
  have hkept : WriteKept w (s.landed (fun o => o == .catalogue) w !x.2) := landed_kept hi _
  have hfields : (s.landed (fun o => o == .catalogue) w !x.2).peat.cat = some (Catalogue.ofBytes w.bytes, !x.2) ∧
    (s.landed (fun o => o == .catalogue) w !x.2).peat.drain = s.peat.drain := ⟨rfl, rfl⟩
  generalize s.landed (fun o => o == .catalogue) w (!x.2) = u at *
  have hmap := mapRewrites_keep u s.peat.taking (s.keptGens w)
  have hpeat : (u.mapRewrites s.peat.taking (s.keptGens w)).peat = u.peat := hmap.same .peat (by decide)
  have hcut : (u.mapRewrites s.peat.taking (s.keptGens w)).cut = s.cut := (hmap.same .cut (by decide)).trans (hland.same .cut (by decide))
  have hinv := hmap.inv (hland.inv hi)
  generalize u.mapRewrites s.peat.taking (s.keptGens w) = v at *
  have hcuts : s.peat.taking = [] → (v.cutRewrites s.peat.taking).cut.cuts = s.cut.cuts := fun hnone => by
    rw [← hcut, hnone]
    exact List.map_id _
  have hinv' := (cutRewrites_keep v s.peat.taking).inv hinv
  have hpeat' : (v.cutRewrites s.peat.taking).peat = u.peat := hpeat
  generalize v.cutRewrites s.peat.taking = v' at *
  exact gensShown_commits hinv' (hkept.congr (congrArg Peat.drive hpeat')) ((congrArg Peat.cat hpeat').trans hfields.1)
    ((congrArg Peat.drain hpeat').trans hfields.2) hcuts s.peat.taking freed drop

/-! ## DRAIN_CATALOGUE_DONE -/

/-- The drain whose generation is in the valid catalogue ends. -/
def State.drainCommitted (s : State) (d : Drain) : State :=
  (s.onPeat (fun p => { p with drain := none })).mapMove (fun e => mapPeat d.peatGen e && e.st == .written) .committed

/-- No extent of the generation is WRITTEN once all of them are COMMITTED. -/
theorem drainCommitted_map (s : State) (d : Drain) : (s.drainCommitted d).map.any (fun e => mapPeat d.peatGen e.2 && e.2.st == .written) = false := by
  refine List.any_eq_false.2 fun y hy => ?_
  obtain ⟨e, -, rfl⟩ := List.mem_map.1 hy
  dsimp only
  split
  · simp
  · assumption

theorem drainCommitted_keep (s : State) (d : Drain) : Keep ([.map, .peat], 0) s (s.drainCommitted d) :=
  (State.mapMove_keep ..).step (by decide) ((keep_peat s { s.peat with drain := none } rfl).mono (by decide))

section
variable (hi : s.Inv) (hlink : s.peat.linkUp = true) (hw : s.peat.nvme.find? (fun w => w.owner == .catalogue) = some w) (hx : s.peat.cat = some x)
include hi hlink hw hx

/-- A catalogue write of rewrites completes (R202). -/
theorem catalogueDone_rewrites (hd : s.peat.drain = none) : DoesThen .drainCatalogueDone s fun t =>
    WriteKept w t ∧ t.peat.cat = some (Catalogue.ofBytes w.bytes, !x.2) ∧ t.peat.taking = [] ∧ t.peat.nextGens = [] ∧
    t.peat.gens = s.keptGens w := by
  have hcommit := catCommit_commits hi hw hx
  have hnone : s.catCommit.peat.drain = none := hcommit.drain.trans hd
  have hexec : exec .drainCatalogueDone s = settled (.next s.catCommit.peatIdle) := by
    refine congrArg settled (?_ : doDrainCatalogueDone s = _)
    simp only [doDrainCatalogueDone, hlink, nvme_any (f := fun o => o == .catalogue) hw, hnone, Bool.not_true, Bool.or_self,
      Bool.false_eq_true, if_false]
  obtain ⟨-, hdrive, hcat, hgens, hnext, htaking, -, -⟩ := peatIdle_rests s.catCommit
  exact .of_settled hexec ⟨hcommit.kept.congr hdrive, hcat.trans hcommit.cat, htaking.trans hcommit.taking, hnext.trans hcommit.nextGens,
    hgens.trans hcommit.gens⟩

/-- The generation of a drain is committed and its cut has SUCCESS (R201, R203). -/
theorem catalogueDone_commits (hd : s.peat.drain = some d) (hc : s.findCut d.seq = some c) (hstep : d.step = .catalogue)
    (hnone : s.peat.taking = []) : DoesThen .drainCatalogueDone s fun t =>
      WriteKept w t ∧ t.peat.cat = some (Catalogue.ofBytes w.bytes, !x.2) ∧ t.peat.drain = none ∧
      (t.findCut d.seq).map (fun y => (y.drainStatus, y.peatGen)) = some (some St.success, d.peatGen) ∧
      t.map.any (fun e => mapPeat d.peatGen e.2 && e.2.st == .written) = false ∧
      t.rd Fld.peatGen.lastGen = t.newestGen ∧ t.peat.gens = s.keptGens w := by
  have hcommit := catCommit_commits hi hw hx
  have hinv := (State.catCommit_keep s).inv hi
  have hdrain : s.catCommit.peat.drain = some d := hcommit.drain.trans hd
  have hseq := (findCut_mem hc).2
  have hexec : exec .drainCatalogueDone s = settled (.next ((s.catCommit.drainCommitted d).drainEnd d.seq St.success d.peatGen).peatIdle) := by
    refine congrArg settled (?_ : doDrainCatalogueDone s = _)
    have hs : (d.step == .catalogue) = true := by rw [hstep]; rfl
    simp only [doDrainCatalogueDone, hlink, nvme_any (f := fun o => o == .catalogue) hw, hdrain, hs, Bool.not_true, Bool.or_self,
      Bool.false_eq_true, if_false, if_true]
    rfl
  refine .of_settled hexec ?_
  have hkeep := drainCommitted_keep s.catCommit d
  have hcut : (s.catCommit.drainCommitted d).findCut c.seq = some c := by
    rw [findCut_congr ((congrArg CutUnit.cuts (hkeep.same .cut (by decide))).trans (hcommit.cuts hnone)), hseq]
    exact hc
  have hmap := drainCommitted_map s.catCommit d
  have hpeat : (s.catCommit.drainCommitted d).peat = { s.catCommit.peat with drain := none } := rfl
  rw [← hseq]
  obtain ⟨hends, hend⟩ := drainEnd_ends hcut St.success d.peatGen
  generalize s.catCommit.drainCommitted d = u at *
  have hsame : (u.drainEnd c.seq St.success d.peatGen).peat = u.peat := hend.same .peat (by decide)
  have hmaps : (u.drainEnd c.seq St.success d.peatGen).map = u.map := hend.same .map (by decide)
  have hinv' := hend.inv (hkeep.inv hinv)
  have hrd : (u.drainEnd c.seq St.success d.peatGen).rd Fld.peatGen.lastGen = s.catCommit.rd Fld.peatGen.lastGen :=
    (hend.rd (hkeep.inv hinv) (by decide +kernel)).trans (hkeep.rd hinv (by decide +kernel))
  generalize u.drainEnd c.seq St.success d.peatGen = v at *
  obtain ⟨idrain, idrive, icat, igens, -, -, icut, imap⟩ := peatIdle_rests v
  rw [hsame, hpeat] at idrain idrive icat igens
  refine ⟨hcommit.kept.congr idrive, icat.trans hcommit.cat, idrain, ?_, ?_, ?_, igens.trans hcommit.gens⟩
  · rw [findCut_congr (congrArg CutUnit.cuts icut)]
    exact hends
  · rw [imap, hmaps]
    exact hmap
  · have hnew : v.peatIdle.newestGen = s.catCommit.newestGen := by
      unfold State.newestGen
      rw [entries_congr icat igens]
    exact ((State.peatIdle_keep v).rd hinv' (by decide +kernel)).trans (hrd.trans (hcommit.lastGen.trans hnew.symm))

end

end Sys2Proof.Machine
end

section
/-! Peat drains (R196, R199 to R207, R212). -/
namespace Sys2Proof.Machine

variable {s : State}

/-- A drain whose slot holds an XTS key, or that is not to encrypt, has its key. -/
theorem drainKeyless_false (h : s.rdB Fld.peatCfg.xtsEn = true → (s.keySlot (s.rd Fld.peatCfg.xtsSlot)).xts = true) : s.drainKeyless = false := by
  unfold State.drainKeyless
  cases hx : s.rdB Fld.peatCfg.xtsEn
  · rfl
  · rw [h hx]
    rfl

theorem drainKeyless_true (hx : s.rdB Fld.peatCfg.xtsEn = true) (hk : (s.keySlot (s.rd Fld.peatCfg.xtsSlot)).xts = false) :
    s.drainKeyless = true := by
  rw [State.drainKeyless, hx, hk]
  rfl

/-- Settles O43: each command of a drain is its step lemma, from the schedule to the catalogue write that commits the generation. -/
theorem peatDrains : Obligations.PeatDrains := by
  unfold Obligations.PeatDrains
  intro s hi high drainUnits manUnits kept next
  refine ⟨fun hfw hphase hfelt hpeat hdrain hbusy hholdup hheld hinterval hinit c hnext hfound k hctx => ?_,
    fun hlink x hx => ⟨?_, ?_, fun d hd c hc => ⟨?_, ?_, ?_, ?_⟩⟩⟩
  · have h : DrainsNext s c k := ⟨hfw, hphase, hfelt, hpeat, hdrain, hbusy, hholdup, hheld, hinterval, hinit, hnext, hfound, hctx⟩
    refine ⟨fun st hst => schedule_fails hi h (drainStart_stopped hst), fun hstop hxts hkey => ?_, fun hstop hkey hmap => ?_,
      fun hstop hkey hmap => ⟨fun hfree => ?_, fun hfree hhigh x hx key hslot => ?_⟩⟩
    · exact schedule_fails hi h (drainStart_keyless hstop (drainKeyless_true hxts hkey))
    · exact schedule_mapFull hi h (drainStart_mapFull hstop (drainKeyless_false hkey) hmap)
    · exact schedule_fails hi h (drainStart_unitsShort hstop (drainKeyless_false hkey) hmap hfree)
    · exact schedule_begins hi h hstop (drainKeyless_false hkey) hmap hfree hhigh hx hslot
  · exact fun hflush key hslot => flushDone_rewrites hlink hx hflush hslot
  · exact fun hnone w hw => catalogueDone_rewrites hi hlink hw hx hnone
  · intro w hw bad us ms
    have hus : s.extUnits = us := rfl
    have hms : s.manUnits = ms := rfl
    have hbad : s.drainBad c = bad := rfl
    have hfull := reservation_full hi hlink hx hd hc hw
    have hwrites := reservation_writes hi hlink hx hd hc hw
    rw [hus, hms, hbad] at hfull hwrites
    exact ⟨reservation_pfail hi hlink hx hd hc hw, reservation_bad hi hlink hx hd hc hw, hfull, hwrites⟩
  · exact fun hstep => ⟨writesDone_late hi hlink hd hstep hc, writesDone_flushes hi hlink hd hstep⟩
  · exact fun hstep hbusy => ⟨flushDone_late hlink hd hc hstep hbusy hi,
      fun htime key hslot => flushDone_writes hlink hd hc hstep hbusy hx htime hslot⟩
  · exact fun hstep hnone w hw => catalogueDone_commits hi hlink hw hx hd hc hstep hnone

end Sys2Proof.Machine
end
